-- ==== Sys2Proof/Word.lean ====
section
/-!
DEFINITION. Word.lean: the two bit-vector types of the hub. A register is 32 bits wide (R5); memory, the Firkin and every
structure the hub writes are made of bytes (R19). Identities, counts, ticks and statuses are natural numbers.
-/
namespace Sys2Proof

/-- One hub or Perch register (R5). -/
abbrev Word := BitVec 32

/-- One byte of memory, of the Firkin or of a structure the hub writes (R19). -/
abbrev Byte := BitVec 8

end Sys2Proof
end

