-- ==== Sys2Proof/Syntax.lean ====
section
/-!
DEFINITION. Syntax.lean: the commands of the hub, one constructor for each row of spec/opcode_table.json, with the operands the
row's event carries: the master that makes an access, the station, unit or context an event happens at, the bytes that
arrive from outside the hub. Numbers are natural numbers; WellFormed.lean bounds them.
-/
namespace Sys2Proof

/-- The four masters of the register space (R14, R17). -/
inductive Master where
  | pair | loader | host | span
  deriving DecidableEq, Repr, Inhabited

/-- A fence reference: package index and 32-bit fence ID (R43). -/
structure FenceRef where
  pkg : Nat
  id : Nat
  deriving DecidableEq, Repr, Inhabited

/-- The operations of Table 01.6. -/
inductive RmoOp where
  | get | put | atomic | fenceSignal | fenceWait
  deriving DecidableEq, Repr, Inhabited

/-- One remote memory operation as it passes a Perch: operation, issuing unit, target unit (or memory level), context, tag,
address, length in bytes, memory level, the slice's PASID, mode, atomic opcode, value (fence value or error, atomic operand or old value), data,
ports and the ticks a channel took from arrival to service (R39, R40, R41, R158, R159, Table 08.4). `resp` is true of a response or completion. -/
structure Rmo where
  op : RmoOp
  issuer : Nat
  target : Nat
  context : Nat
  tag : Nat
  addr : Nat
  len : Nat
  level : Nat
  pasid : Nat := 0
  mode : Nat := 0
  opcode : Nat := 0
  value : Nat := 0
  err : Bool := false
  resp : Bool := false
  data : List Byte := []
  inPort : Nat := 0
  outPort : Nat := 0
  waited : Nat := 0
  deriving DecidableEq, Repr, Inhabited

/-- The wait edge that a stalled unit's Perch records (R293): kind, operation, package, peer, object and argument. -/
structure Edge where
  kind : Nat
  op : Nat
  pkg : Nat
  peer : Nat
  obj : Nat
  arg : Nat
  deriving DecidableEq, Repr, Inhabited

/-- What loses or regains its supply (R48, R51): the power of the tile of a unit, named by the unit, or a clock domain, named by its number. -/
inductive Supply where
  | power | clock
  deriving DecidableEq, Repr, Inhabited

/-- The commands, in the order of the table. -/
inductive Instr where
  | registerWrite (m : Master) (off size data : Nat)
  | loReadLatch (m : Master) (off size : Nat)
  | rcFieldRead (m : Master) (off size : Nat)
  | contextCreate (m : Master) (slice : Nat)
  | contextDestroy (m : Master) (context : Nat)
  | attributionFinalRecords (context : Nat)
  | commandSubmit (context unit tag : Nat) (signal : Option FenceRef) (value mode : Nat)
  | commandStart (context : Nat)
  | commandComplete (context unit status : Nat)
  | commandFault (context unit code addr : Nat)
  | fenceSignal (unit context : Nat) (fence : FenceRef) (value mode : Nat)
  | fenceErrorSignal (unit context : Nat) (fence : FenceRef) (mode : Nat)
  | fenceWait (unit context : Nat) (fence : FenceRef) (value mode : Nat)
  | rmoIssue (r : Rmo) (edge : Option Edge)
  | rmoArrive (unit : Nat) (r : Rmo)
  | rmoComplete (r : Rmo) (status : Nat)
  | programFlowEvent (unit kind : Nat) (addr target : Nat) (taken : Bool) (mode after cause : Nat)
  | linkMessage (unit : Nat) (sent : Bool) (r : Rmo) (msn len : Nat)
  | routeMessage (unit : Nat) (r : Rmo) (len : Nat)
  | channelRequest (unit : Nat) (r : Rmo)
  | transferArrive (engine : Nat) (r : Rmo) (signal : Option FenceRef) (value : Nat)
  | transferStart (engine : Nat)
  | transferEnd (engine context status : Nat)
  | unitSleep (n : Nat) (what : Supply)
  | unitWake (n : Nat) (what : Supply)
  | trgFireWrite (m : Master) (station mask : Nat)
  | triggerMatrix (flits : Nat)
  | matrixOrder (station : Nat)
  | atomsFlushTimeout (unit : Nat)
  | peckFlush (m : Master) (station : Nat)
  | peckRelease (m : Master) (station : Nat)
  | drainBlockTimeout (station : Nat)
  | drainReserveRequest (station : Nat)
  | drainGrant
  | blockSeal
  | drainBlockWritten (station : Nat)
  | traceRingRdWrite (m : Master) (slice value : Nat)
  | rebindFlushExpiry (station : Nat)
  | sampleTick
  | sampleCaptureArrive (station : Nat)
  | sealFrameWrite (slice : Nat)
  | sealFrameTimeout (slice : Nat)
  | attributionUpdate
  | attributionExportTick
  | attExport (m : Master) (slice : Nat)
  | sampleRingRdWrite (m : Master) (slice value : Nat)
  | epochBoundary
  | epochAck (station epoch : Nat)
  | ringMarkerTimeout (ring : Nat)
  | commitRequest (m : Master) (scope target : Nat)
  | commitBegin
  | snapshotFlit (station : Nat)
  | snapshotAck (station : Nat)
  | snapshotTimeout (station : Nat)
  | moveOrderIssue
  | chwinAcquire (m : Master) (station : Nat)
  | chwinRelease (m : Master)
  | chwinLeaseExpiry (m : Master)
  | chainFlitCrcError (station : Nat)
  | class2RetryTimeout (station : Nat)
  | lockstepMismatch (pc out0 out1 : Nat)
  | clockMonitorWindow (cycles : Nat)
  | pllLossOfLock (cycles : Nat)
  | hangStepAdvance (status : Nat)
  | coldResetAssert
  | coldResetRelease (spdiLow : Bool)
  | pllLock
  | pllLockTimeout
  | selftestDone (pass : Bool)
  | pufCaptureDone (response : List Byte)
  | chainTrainingDone (untrained deadRings : List Nat)
  | aszStart (m : Master)
  | aszDataWrite (m : Master) (word : Nat)
  | aszSectionVerified
  | aszLoadDone
  | reloadCommit
  | aszAbort (m : Master)
  | aszTimeout
  | aszIdleReturn
  | fwReady
  | fwReadyTimeout
  | hbmTrainingDone (failed : List Nat)
  | tileResetComplete
  | firkinRelease (m : Master)
  | restartReuseImage (m : Master)
  | restartNewImage (m : Master)
  | restartHashCheck
  | restartPairStart (selftestPass : Bool)
  | restartTimeout
  | wdogKick
  | watchdogExpiry (pc : Nat)
  | watchdogCrashCoreDone
  | timebaseStartFlit (station : Nat)
  | timebaseCheckFlit (station value : Nat)
  | calendarSetRequest (m : Master) (value : Nat)
  | calendarApply
  | timeMarkSend (station : Nat)
  | timeMarkReceive (station : Nat) (mark : List Byte)
  | linkRetrain (station : Nat)
  | cutRequest (m : Master) (die xpkg hang auto : Bool) (slice : Nat)
  | cutScheduleFlit (station : Nat)
  | cutTickT
  | unitStopClean (unit : Nat)
  | cutForcedStop (station : Nat)
  | cutReport (station : Nat)
  | cutReportTimeout
  | cutResume (m : Master) (die xpkg auto : Bool) (slice : Nat)
  | cutResumeTick
  | cutStep (m : Master) (mode single auto : Bool) (n : Nat)
  | stepStart
  | stepEnd (unit : Nat)
  | stepTimeout
  | benchModeWrite (m : Master) (enable : Bool)
  | cutScheduleMessage (link : Nat) (msg : List Byte)
  | cutDoneMessage (link : Nat) (msg : List Byte)
  | cutResumeMessage (link : Nat) (msg : List Byte)
  | cutXresultWindowEnd
  | scanStart
  | scanContext
  | verdictPop (m : Master)
  | waitEdgeCollect
  | contextWalk
  | graphRequestMessage (link : Nat) (msg : List Byte)
  | graphEdgeMessage (link : Nat) (msg : List Byte)
  | graphPeerTimeout
  | dumpRequest (m : Master) (die live : Bool) (slice : Nat)
  | dumpContextRequest (m : Master) (context : Nat)
  | dumpPlanDone
  | dumpChunkWritten
  | dumpTunFull
  | dumpFinish
  | dumpSigned
  | firkinWriteDone
  | tunRecordComplete
  | tunRdWrite (m : Master) (value : Nat)
  | watchServe
  | watchReadDone
  | watchHoldExpiry (slot : Nat)
  | watchOutputFull
  | watchResume
  | watchCancel (m : Master) (slot : Nat)
  | ceBlockRelease (bank : Nat) (raw : List Byte) (verified rawOk : Bool)
  | ceEncodeJob (m : Master) (bank xform : Nat)
  | ceDecodeJob (m : Master) (bank xform : Nat)
  | erBuildStart
  | erStationCopy
  | erStationCopyTimeout
  | erRecordCommit
  | lostRecordEnqueue
  | erCursorAcquire (m : Master) (slot : Nat)
  | erCursorRelease (m : Master)
  | erCursorExpiry (m : Master)
  | erFwRecord (cls code : Nat)
  | auditGapEnqueue
  | auditSpillStart
  | auditSpillDone
  | spillRdWrite (m : Master) (value : Nat)
  | roleCommand (m : Master)
  | roleDrop (m : Master)
  | ownerRegister (m : Master) (slice : Nat)
  | tokenLodge (m : Master)
  | secCheckComplete (m : Master)
  | revokeCommit
  | roleLeaseExpiry (m : Master)
  | keyoutExpiry (m : Master)
  | sliceCreate (m : Master) (slice : Nat)
  | sliceReset (m : Master) (slice : Nat)
  | sliceDestroy (m : Master) (slice : Nat)
  | sliceProcessDied (m : Master) (slice : Nat)
  | engineResetReport (engine slice : Nat)
  | sliceResetTimeout (slice : Nat)
  | exportAllocate (m : Master) (slice index : Nat)
  | exportRelease (m : Master) (slice index : Nat)
  | spanFrameReceive (frame : List Byte)
  | spanStatus
  | spanRead
  | spanWrite
  | spanBulk
  | spanBulkFrame
  | spanAbort
  | spanMode
  | attnMessageSet (code : Nat)
  | tapIdcode
  | tapBypass
  | tapFrame
  | tapRegaccUpdate (dr : Nat)
  | tapRegaccCapture
  | tapReset
  | msixUnmask (entry : Nat)
  | irqEnableWrite (m : Master) (value : Nat)
  | hostDoorbell (m : Master) (code : Nat)
  | doorbellPop (m : Master)
  | fwDoorbell (code : Nat)
  | mailboxWdata (m : Master) (word : Nat)
  | mailboxGo (m : Master) (len : Nat)
  | mailboxAbort (m : Master)
  | mailboxRdata (m : Master)
  | mailboxResponseReady (m : Master)
  | spdmGetVersion (m : Master)
  | spdmGetCapabilities (m : Master)
  | spdmNegotiateAlgorithms (m : Master)
  | spdmChallenge (m : Master)
  | spdmGetMeasurements (m : Master)
  | spdmUnsupported (m : Master)
  | tlmThermalQuery (m : Master) (index : Nat)
  | tlmClockQuery (m : Master) (index : Nat)
  | tlmPowerQuery (m : Master) (index : Nat)
  | tlmSummaryQuery (m : Master)
  | tlmQueryComplete (m : Master)
  | tlmRefresh (readings : List Nat)
  | scrubRead (store station word errors : Nat)
  | railCollapse
  | fenceRearm (unit : Nat) (fence : FenceRef)
  | unitStall (unit context : Nat) (edge : Edge)
  | creditReturn (unit : Nat) (next : Option Edge)
  | grainIncrement (unit counter amount : Nat)
  | spanLaneResync
  | erWindowRead (m : Master) (off size : Nat)
  | railBelowNominal
  | railRestored
  | islandSupplyLoss
  | graphAreaWrite
  deriving DecidableEq, Repr

end Sys2Proof
end

