-- ==== Sys2Proof/Machine/Bits.lean ====
section
/-!
DEFINITION. Machine/Bits.lean: bit fields (R2), little-endian bytes (R19), saturating and wrapping counts, CRC-32C and
CRC-16, used by every block.
-/
namespace Sys2Proof.Machine

/-- Bits [hi:lo] of a number (R2). -/
def field (v hi lo : Nat) : Nat := (v >>> lo) % 2 ^ (hi + 1 - lo)

/-- Bit [n] of a number (R2). -/
def bit (v n : Nat) : Bool := v.testBit n

/-- 1 for true, 0 for false. -/
def b2n (b : Bool) : Nat := if b then 1 else 0

/-- Place `v` at bit `lo`. -/
def at_ (v lo : Nat) : Nat := v <<< lo

/-- Saturating sum at `max`. -/
def satAdd (max a b : Nat) : Nat := Nat.min max (a + b)

/-- The bits of the mask `m` taken from `new`, the others from `old` (32-bit quantities). -/
def mergeMask (m old new : Nat) : Nat := (old &&& (m ^^^ (2 ^ 64 - 1))) ||| (new &&& m)

/-- Clear in `old` every bit that is 1 in `m`. -/
def clearBits (old m : Nat) : Nat := old - (old &&& m)

/-- The `n` bytes of `v`, least significant first (R19). -/
def leBytes : Nat → Nat → List Byte
  | 0, _ => []
  | n + 1, v => BitVec.ofNat 8 v :: leBytes n (v / 256)

/-- The number that bytes spell, least significant first (R19). -/
def ofLe : List Byte → Nat
  | [] => 0
  | b :: r => b.toNat + 256 * ofLe r

/-- The number that bytes spell, most significant first. -/
def ofBe (l : List Byte) : Nat := l.foldl (fun a b => a * 256 + b.toNat) 0

/-- The `n` bytes of `v`, most significant first. -/
def beBytes (n v : Nat) : List Byte := (leBytes n v).reverse

/-- `n` zero bytes. -/
def zeros (n : Nat) : List Byte := List.replicate n 0

/-- Bytes `off` to `off + n - 1` of a list, zero beyond its end. -/
def slice (l : List Byte) (off n : Nat) : List Byte :=
  let s := (l.drop off).take n
  s ++ zeros (n - s.length)

/-- The little-endian field of `n` bytes at offset `off`. -/
def leAt (l : List Byte) (off n : Nat) : Nat := ofLe (slice l off n)

/-- A list padded with zero bytes to `n` bytes, and cut there. -/
def padTo (n : Nat) (l : List Byte) : List Byte := slice l 0 n

/-- A list padded with zero bytes to a multiple of `n` bytes. -/
def padMul (n : Nat) (l : List Byte) : List Byte := l ++ zeros ((n - l.length % n) % n)

/-- A list with the bytes `v` written over it from offset `off` on (within its length). -/
def patch (l : List Byte) (off : Nat) (v : List Byte) : List Byte :=
  (l.take off ++ v ++ l.drop (off + v.length)).take l.length

/-- ASCII bytes of a text. -/
def ascii (s : String) : List Byte := s.toList.map fun c => BitVec.ofNat 8 c.toNat

/-- The smallest multiple of `n` at or above `v`. -/
def roundUp (n v : Nat) : Nat := (v + n - 1) / n * n

/-- One bit of a reflected CRC. -/
def crcStep (poly : Nat) (c : Nat) : Nat := if c % 2 = 1 then (c / 2) ^^^ poly else c / 2

/-- CRC-32C (Castagnoli, reflected, initial value and final inversion all ones). -/
def crc32c (l : List Byte) : Nat :=
  let f := fun (c : Nat) (b : Byte) =>
    (List.range 8).foldl (fun c _ => crcStep 0x82F63B78 c) (c ^^^ b.toNat)
  (l.foldl f 0xFFFFFFFF) ^^^ 0xFFFFFFFF

/-- CRC-16-CCITT (polynomial 0x1021, initial value 0xFFFF, most significant bit first). -/
def crc16 (l : List Byte) : Nat :=
  let s := fun (c : Nat) (_ : Nat) =>
    if 0x8000 ≤ c then ((c * 2) % 65536) ^^^ 0x1021 else c * 2
  let f := fun (c : Nat) (b : Byte) => (List.range 8).foldl s (c ^^^ (b.toNat * 256))
  l.foldl f 0xFFFF

/-- Value `a` is ahead of value `b` in half-range order modulo 2^64 (R44). -/
def ahead64 (a b : Nat) : Bool :=
  let d := (a + 2 ^ 64 - b % 2 ^ 64) % 2 ^ 64
  decide (1 ≤ d) && decide (d < 2 ^ 63)

/-- First index at which a predicate holds. -/
def firstIdx {α : Type} (p : α → Bool) : List α → Option Nat
  | [] => none
  | a :: r => if p a then some 0 else (firstIdx p r).map (· + 1)

/-- A list with the element at index `i` replaced. -/
def setAt {α : Type} (l : List α) (i : Nat) (v : α) : List α := l.set i v

/-- A list with the element at index `i` changed by `f`. -/
def modAt {α : Type} (l : List α) (i : Nat) (f : α → α) : List α := l.modify i f

/-- A list with the element at index `i` taken out. -/
def eraseAt {α : Type} (l : List α) (i : Nat) : List α := l.eraseIdx i

/-- Insert into a list sorted by a number; equal numbers keep their order. -/
def insertBy {α : Type} (f : α → Nat) (a : α) : List α → List α
  | [] => [a]
  | b :: r => if f a < f b then a :: b :: r else b :: insertBy f a r

/-- A list sorted by a number; equal numbers keep their order. -/
def sortBy {α : Type} (f : α → Nat) (l : List α) : List α := l.foldl (fun r a => insertBy f a r) []

end Sys2Proof.Machine
end

