-- ==== Sys2Proof/Machine/Bushel.lean ====
section
/-!
DEFINITION. Machine/Bushel.lean: the Bushel block format (R358 to R369, R374): the byte-plane transforms, the tokens and their parse, the
choice of a block's form, decoding with its checks, and the numerics of a watch summary (R345).
-/
namespace Sys2Proof.Machine

/-! ## Transforms (R361) -/

/-- Every `w`-th byte; the first argument counts down to the next one taken. -/
def every (w : Nat) : Nat → List Byte → List Byte
  | _, [] => []
  | 0, b :: r => b :: every w (w - 1) r
  | n + 1, _ :: r => every w n r

/-- Planes of a transform code: 1, 2 or 4. -/
def planeCount (x : Nat) : Nat := 2 ^ x

/-- The transformed stream of a block's raw bytes. -/
def planes (x : Nat) (b : List Byte) : List Byte :=
  if x = 0 then b
  else
    let w := planeCount x
    let n := b.length / w * w
    ((List.range w).flatMap fun k => every w k (b.take n)) ++ b.drop n

/-- Bytes taken one from each of several lists in turn. -/
def interleave : Nat → List (List Byte) → List Byte
  | 0, _ => []
  | n + 1, ps => ps.filterMap List.head? ++ interleave n (ps.map List.tail)

/-- The raw bytes of a transformed stream. -/
def unplanes (x : Nat) (s : List Byte) : List Byte :=
  if x = 0 then s
  else
    let w := planeCount x
    let m := s.length / w
    interleave m ((List.range w).map fun k => (s.drop (k * m)).take m) ++ s.drop (m * w)

/-! ## Tokens (R362, R364) -/

/-- Zero bytes at the front of a stream, at most the first argument. -/
def zeroRun : Nat → List Byte → Nat
  | n + 1, b :: r => if b = 0 then zeroRun n r + 1 else 0
  | _, _ => 0

/-- Groups equal to a word at the front of a stream, at most the first argument. -/
def repeats (word : List Byte) : Nat → List Byte → Nat
  | 0, _ => 0
  | n + 1, s => if s.take word.length = word then repeats word n (s.drop word.length) + 1 else 0

/-- Longest run that one ZRUN or REP token covers: bytes, and words. -/
def zrunMax : Nat := 65856
def repMax : Nat := 65552

/-- Whole repeats of the first `w` bytes of a stream; 0 where they do not fit. -/
def copies (w : Nat) (s : List Byte) : Nat :=
  let word := s.take w
  if word.length < w then 0 else repeats word repMax s

/-- A LIT token; nothing for no bytes. -/
def litToken (b : List Byte) : List Byte := if b.isEmpty then [] else leBytes 1 (b.length - 1) ++ b

/-- A ZRUN token in its shortest encoding. -/
def zrunToken (z : Nat) : List Byte :=
  if z ≤ 64 then leBytes 1 (0x40 + (z - 3))
  else if z ≤ 320 then leBytes 1 0x7E ++ leBytes 1 (z - 65)
  else leBytes 1 0x7F ++ leBytes 2 (z - 321)

/-- A REP token in its shortest encoding; the word is 1, 2, 4 or 8 bytes. -/
def repToken (word : List Byte) (c : Nat) : List Byte :=
  let s := Nat.log2 word.length
  if c ≤ 16 then leBytes 1 (0x80 + 16 * s + (c - 2)) ++ word else leBytes 1 (0x80 + 16 * s + 15) ++ leBytes 2 (c - 17) ++ word

/-- The repeat that the parse takes at the front of a stream: width and count; the narrower of two equal ones. -/
def bestRep (s : List Byte) : Option (Nat × Nat) :=
  [1, 2, 4, 8].foldl (fun best w =>
    let c := copies w s
    let old := match best with | some (v, n) => v * n | none => 0
    if 2 ≤ c ∧ w + 4 ≤ c * w ∧ old < c * w then some (w, c) else best) none

/-- The token body of a stream: `lit` holds the pending literals, newest first; the first argument bounds the number of bytes left. -/
def tokens : Nat → List Byte → List Byte → List Byte
  | 0, lit, _ => litToken lit.reverse
  | _ + 1, lit, [] => litToken lit.reverse
  | n + 1, lit, b :: r =>
    let s := b :: r
    let z := zeroRun zrunMax s
    if 3 ≤ z then litToken lit.reverse ++ zrunToken z ++ tokens n [] (s.drop z)
    else match bestRep s with
      | some (w, c) => litToken lit.reverse ++ repToken (s.take w) c ++ tokens n [] (s.drop (w * c))
      | none =>
        if lit.length = 63 then litToken (b :: lit).reverse ++ tokens n [] r else tokens n (b :: lit) r

/-- The output of a token body of `left` bytes, and what follows its last token; none where R363 rejects it. The first argument bounds the
number of tokens. -/
def untokens : Nat → Nat → List Byte → Option (List Byte × List Byte)
  | _, 0, s => some ([], s)
  | 0, _, _ => none
  | _, _, [] => none
  | k + 1, left, c :: r =>
    let n := c.toNat % 64
    let go := fun (out rest : List Byte) =>
      if left < out.length then none
      else match untokens k (left - out.length) rest with
        | some (o, q) => some (out ++ o, q)
        | none => none
    match c.toNat / 64 with
    | 0 => if r.length < n + 1 then none else go (r.take (n + 1)) (r.drop (n + 1))
    | 1 =>
      if n ≤ 61 then go (zeros (n + 3)) r
      else if n = 62 then (if r.length < 1 then none else go (zeros (leAt r 0 1 + 65)) (r.drop 1))
      else if r.length < 2 then none else go (zeros (leAt r 0 2 + 321)) (r.drop 2)
    | 2 =>
      let w := 2 ^ (n / 16)
      let (count, r, ok) := if n % 16 ≤ 14 then (n % 16 + 2, r, true) else (leAt r 0 2 + 17, r.drop 2, decide (2 ≤ r.length))
      if !ok || decide (r.length < w) then none else go (List.replicate count (r.take w)).flatten (r.drop w)
    | _ => none

/-! ## Blocks (R358 to R360, R365) -/

/-- Input bytes of a full block (R356). -/
def blockMax : Nat := 65520

/-- Length of a block with a body of `n` bytes. -/
def blockLen (n : Nat) : Nat := roundUp 8 (16 + n + 4)

/-- A block: header (Table 11.1), body, padding and trailer. -/
def mkBlock (flags x index : Nat) (raw body : List Byte) : List Byte :=
  let len := blockLen body.length
  let b := padTo (len - 4) (leBytes 2 0x5542 ++ leBytes 1 flags ++ leBytes 1 x ++ leBytes 2 raw.length ++ leBytes 2 (len / 8)
    ++ leBytes 4 (crc32c raw) ++ leBytes 4 index ++ body)
  b ++ leBytes 4 (crc32c b)

/-- Transforms of a job's set (Table 11.3). -/
def xformSet (x : Nat) : List Nat :=
  match x with
  | 0 => [0]
  | 1 => [0, 1]
  | 2 => [0, 2]
  | _ => [0, 1, 2]

/-- The transform and body of a block's shortest encoding; none where the raw block is as short, or is forced (R365). -/
def bestBody (set : Nat) (force : Bool) (raw : List Byte) : Option (Nat × List Byte) :=
  if force then none
  else
    let best := (xformSet set).foldl (fun (best : Option (Nat × List Byte)) x =>
      let body := tokens raw.length [] (planes x raw)
      match best with
      | some (_, b) => if blockLen body.length < blockLen b.length then some (x, body) else best
      | none => some (x, body)) none
    match best with
    | some (x, b) => if blockLen b.length < blockLen raw.length then some (x, b) else none
    | none => none

/-- The length of the block of some raw bytes. -/
def encodedLen (set : Nat) (force : Bool) (raw : List Byte) : Nat :=
  match bestBody set force raw with
  | some (_, b) => blockLen b.length
  | none => blockLen raw.length

/-- What an engine releases for the next input bytes of a job: a block, the raw bytes it covers, the status if the job ends, whether the
block is raw because nothing was shorter, and whether a verification failed. -/
structure Release where
  block : List Byte := []
  cover : Nat := 0
  ended : Option Nat := none
  noshrink : Bool := false
  vfail : Bool := false
  deriving DecidableEq, Repr, Inhabited

/-- A chosen block goes through its verification (R366, R369): `ok` is the verifier's answer for an encoded block, `rawOk` that for a raw
one; `st` the job's status after it. Status codes: partial 3, raw check failed 0x0B02. -/
def verifyBlock (set : Nat) (force : Bool) (flags index room : Nat) (raw : List Byte) (ok rawOk : Bool) (st : Option Nat) : Release :=
  let put := fun (fl : Nat) (shrink fail : Bool) =>
    let b := mkBlock fl 0 index raw raw
    if room < b.length then ({ ended := some 3, vfail := fail } : Release)
    else if !rawOk then { ended := some 0x0B02, vfail := fail }
    else { block := b, cover := raw.length, ended := st, noshrink := shrink, vfail := fail }
  match bestBody set force raw with
  | none => put (flags + 1) (!force) false
  | some (x, body) =>
    if ok then { block := mkBlock flags x index raw body, cover := raw.length, ended := st } else put (flags + 3) false true

/-- Early close (R367): the longest part of a block's input whose block leaves 80 bytes of the room. -/
def earlyClose (set : Nat) (force : Bool) (room : Nat) (raw : List Byte) : Option Nat :=
  ((List.range (raw.length / 16 + 1)).reverse.map (· * 16)).find? fun l =>
    decide (256 ≤ l) && decide (l < raw.length) && decide (encodedLen set force (raw.take l) + 80 ≤ room)

/-- The next block of a job (R365 to R369); `last` when it ends the job's input. -/
def releaseBlock (set : Nat) (force last : Bool) (index room : Nat) (raw : List Byte) (ok rawOk : Bool) : Release :=
  if encodedLen set force raw ≤ room then
    verifyBlock set force (4 * b2n last) index room raw ok rawOk (if last then some 0 else none)
  else match earlyClose set force room raw with
    | none => { ended := some 3 }
    | some l => verifyBlock set force 8 index room (raw.take l) ok rawOk (some 3)

/-! ## Decoding (R374) -/

/-- The result of decoding the block at the front of some bytes: its length and raw bytes, or the status of the failed check. -/
inductive Decoded where
  | good (len : Nat) (raw : List Byte)
  | bad (status : Nat)
  deriving DecidableEq, Repr

/-- Length of a block's raw bytes, from its header. -/
def blockInLen (b : List Byte) : Nat := leAt b 4 2

/-- The checks of R374 in their order. Status codes: format 0x0B00, crc 0x0B01, check 0x0B02. -/
def decodeBlock (b : List Byte) : Decoded :=
  let flags := leAt b 2 1
  let x := leAt b 3 1
  let n := blockInLen b
  let len := 8 * leAt b 6 2
  let israw := bit flags 0
  let blk := b.take len
  let body := (blk.drop 16).take (len - 20)
  if b.length < 16 ∨ leAt b 0 2 ≠ 0x5542 ∨ 16 ≤ flags ∨ 2 < x ∨ (israw = true ∧ x ≠ 0) ∨ (bit flags 1 = true ∧ israw = false) then .bad 0x0B00
  else if n = 0 ∨ blockMax < n ∨ len < 24 ∨ 65544 < len ∨ b.length < len then .bad 0x0B00
  else if leAt blk (len - 4) 4 ≠ crc32c (blk.take (len - 4)) then .bad 0x0B01
  else
    let out := if israw then (if len = blockLen n then some (body.take n) else none)
      else match untokens body.length n body with
        | some (s, rest) => if rest.length ≤ 7 ∧ rest.all (· == 0) then some (unplanes x s) else none
        | none => none
    match out with
    | none => .bad 0x0B00
    | some raw => if crc32c raw = leAt b 8 4 then .good len raw else .bad 0x0B02

/-! ## Numerics of a summary (R345, Table 10.16) -/

/-- An element: NaN, infinity with its sign, zero, or a finite value as sign, FP32 magnitude and exponent ⌊log₂|x|⌋. -/
inductive Elem where
  | nan
  | inf (neg : Bool)
  | zero
  | fin (neg : Bool) (mag : Nat) (e : Int)
  deriving DecidableEq, Repr

/-- Exponent bits, mantissa bits and bias of a format. -/
def fmtShape (f : Nat) : Nat × Nat × Nat :=
  match f with
  | 0 => (2, 1, 1)
  | 1 => (3, 2, 3)
  | 2 => (2, 3, 1)
  | 3 => (4, 3, 7)
  | 4 => (5, 2, 15)
  | 5 => (8, 7, 127)
  | 6 => (5, 10, 15)
  | _ => (8, 23, 127)

/-- Magnitude of M × 2^x as an FP32 pattern; every value of the formats is exact in FP32. -/
def fp32Mag (m : Nat) (x : Int) : Nat :=
  let l := Nat.log2 m
  let e : Int := l + x
  if e < -126 then m <<< (x + 149).toNat else (e + 127).toNat <<< 23 ||| (m - 2 ^ l) <<< (23 - l)

/-- The element that a bit pattern spells. -/
def elemOf (f v : Nat) : Elem :=
  let (eb, mb, bias) := fmtShape f
  let neg := bit v (eb + mb)
  let e := v >>> mb % 2 ^ eb
  let m := v % 2 ^ mb
  let top := decide (e = 2 ^ eb - 1)
  if f = 3 ∧ top = true ∧ m = 7 then .nan
  else if 4 ≤ f ∧ top = true then (if m = 0 then .inf neg else .nan)
  else if e = 0 ∧ m = 0 then .zero
  else
    let big := if e = 0 then m else 2 ^ mb + m
    let x : Int := (if e = 0 then 1 else (e : Int)) - bias - mb
    .fin neg (fp32Mag big x) (Nat.log2 big + x)

/-- Bits of an element. -/
def elemBits (f : Nat) : Nat := match f with | 0 => 4 | 1 | 2 => 6 | 3 | 4 => 8 | 5 | 6 => 16 | _ => 32

/-- Elements of a group. -/
def groupElems (f : Nat) : Nat := match f with | 0 => 2 | 1 | 2 => 4 | _ => 1

/-- The elements of one group, lowest-order bits first. -/
def groupOf (f : Nat) (b : List Byte) : List Elem :=
  let v := ofLe b
  (List.range (groupElems f)).map fun i => elemOf f (v >>> (i * elemBits f) % 2 ^ elemBits f)

/-- Histogram bin of an element that is not NaN. -/
def binOf (base : Int) (width : Nat) : Elem → Nat
  | .nan | .zero => 0
  | .inf _ => 15
  | .fin _ _ e => if e < base then 1 else Nat.min 15 (2 + (e - base).toNat / width)

/-- An FP32 pattern of an element that is not NaN. -/
def Elem.fp32 : Elem → Nat
  | .nan => 0x7FC00000
  | .zero => 0
  | .inf n => 0x7F800000 + b2n n * 2 ^ 31
  | .fin n m _ => m + b2n n * 2 ^ 31

/-- The order of FP32 patterns of numbers. -/
def fp32Key (v : Nat) : Int := if 2 ^ 31 ≤ v then -((v - 2 ^ 31 : Nat) : Int) else v

end Sys2Proof.Machine
end

