-- ==== Sys2Proof/Config.lean ====
section
/-!
DEFINITION. Config.lean: what one part fixes and what the spec leaves open: the cryptographic primitives the spec names by
their standards, the random-number generator, the physically unclonable function, the bytes of die memories and registers
that the die carries as bytes, and other free values. Every constant here has no body, so no proof can see its value.
-/
namespace Sys2Proof.Config

/-- SHA-384 of a byte string (R97, R103, R394, R413). Log entry 6. -/
opaque sha384 : List Byte → List Byte

/-- HMAC-SHA-384 under a key (R97). Log entry 6. -/
opaque hmac384 (key msg : List Byte) : List Byte

/-- ECDSA P-384 verification of a signature r ‖ s over a SHA-384 digest (R103, R409, R417). Log entry 6. -/
opaque ecdsaVerify (pub digest sig : List Byte) : Bool

/-- ECDSA P-384 signature r ‖ s over a SHA-384 digest (R331, R396, R423). Log entry 6. -/
opaque ecdsaSign (priv : Nat) (digest : List Byte) : List Byte

/-- The point of P-384 that belongs to a scalar, x ‖ y, big-endian (R97, Table 13.4). Log entry 6. -/
opaque p384Mul (k : Nat) : List Byte

/-- The x-coordinate of k times a point of P-384, big-endian (Table 13.4). Log entry 6. -/
opaque p384Dh (k : Nat) (pub : List Byte) : List Byte

/-- Whether x ‖ y is a point of P-384 other than the identity (R413). Log entry 6. -/
opaque p384Valid (pub : List Byte) : Bool

/-- The order n of P-384's group (R97). Log entry 6. -/
opaque p384Order : Nat

/-- AES-256-GCM: ciphertext followed by the 16-byte tag (R213, R238, R322). Log entry 6. -/
opaque aesGcm (key iv aad plain : List Byte) : List Byte

/-- Byte `n` of the hub's random-number generator. Log entry 7. -/
opaque drbg (n : Nat) : Byte

/-- Helper-data correction of a raw PUF response, giving a 32-byte seed (R97 step 1). Log entry 7. -/
opaque pufCorrect (response helper : List Byte) : List Byte

/-- SHA-384 of the maker's root public key, held in the mask ROM (R104). Log entry 7. -/
opaque romKeyHash : List Byte

/-- SHA-384 of the mask ROM (R424). Log entry 7. -/
opaque romDigest : List Byte

/-- Byte `off` of a die memory or unit register map at the time of the `n`-th read: space 0 unit register image, 1 tile
scratch, 2 shared buffer (R320, R334). Log entry 8. -/
opaque dieByte (space : Nat) (at_ : Nat) (off : Nat) (n : Nat) : Byte

/-- A free 64-bit value, the `n`-th the hub has drawn. Log entry 8. -/
opaque freeValue (n : Nat) : BitVec 64

end Sys2Proof.Config
end

