-- ==== Sys2Proof/Machine/SMap.lean ====
section
/-!
DEFINITION. Machine/SMap.lean: sparse data by key. A map is a list of (key, value) pairs with strictly rising keys and
no entry equal to the default, so equal maps are equal lists. The default is what an unlisted key reads as.
-/
namespace Sys2Proof.Machine

/-- Sparse data: pairs of a key and a value, keys strictly rising. -/
abbrev SMap (α : Type) := List (Nat × α)

/-- The value at key `k`; `d` where the key is not listed. -/
def SMap.get {α : Type} (d : α) : SMap α → Nat → α
  | [], _ => d
  | (j, v) :: r, k => if k = j then v else SMap.get d r k

/-- The map without key `k`. -/
def SMap.del {α : Type} : SMap α → Nat → SMap α
  | [], _ => []
  | (j, v) :: r, k => if k = j then SMap.del r k else (j, v) :: SMap.del r k

/-- An entry put before the first larger key. -/
def SMap.put {α : Type} : SMap α → Nat → α → SMap α
  | [], k, v => [(k, v)]
  | (j, w) :: r, k, v => if k < j then (k, v) :: (j, w) :: r else (j, w) :: SMap.put r k v

/-- The map with `v` at key `k`; a value equal to the default removes the entry. -/
def SMap.set {α : Type} [DecidableEq α] (d : α) (m : SMap α) (k : Nat) (v : α) : SMap α :=
  if v = d then SMap.del m k else SMap.put (SMap.del m k) k v

/-- Every key of the map is at least `n`, keys rise strictly, and no entry equals the default. -/
def SMap.wfFrom {α : Type} [DecidableEq α] (d : α) : Nat → SMap α → Bool
  | _, [] => true
  | n, (j, v) :: r => decide (n ≤ j) && !decide (v = d) && SMap.wfFrom d (j + 1) r

/-- The canonical form: keys strictly rising, no entry equal to the default. -/
def SMap.wf {α : Type} [DecidableEq α] (d : α) (m : SMap α) : Bool := SMap.wfFrom d 0 m

/-- Apply `f` to the value at key `k`. -/
def SMap.upd {α : Type} [DecidableEq α] (d : α) (m : SMap α) (k : Nat) (f : α → α) : SMap α :=
  SMap.set d m k (f (SMap.get d m k))

/-- The listed keys. -/
def SMap.keys {α : Type} (m : SMap α) : List Nat := m.map Prod.fst

/-- The map with every listed value changed by `f`, in canonical form again. -/
def SMap.mapVal {α : Type} [DecidableEq α] (d : α) (f : Nat → α → α) : SMap α → SMap α
  | [] => []
  | (j, v) :: r => if f j v = d then SMap.del (SMap.mapVal d f r) j else (j, f j v) :: SMap.mapVal d f r

/-- A run of consecutive values from key `k` on, defaults left out. -/
def SMap.run {α : Type} [DecidableEq α] (d : α) : Nat → List α → SMap α
  | _, [] => []
  | k, v :: vs => if v = d then SMap.run d (k + 1) vs else (k, v) :: SMap.run d (k + 1) vs

/-- The map with the values `l` at the keys from `k` on, all at once. -/
def SMap.splice {α : Type} [DecidableEq α] (d : α) (m : SMap α) (k : Nat) (l : List α) : SMap α :=
  m.filter (fun e => decide (e.1 < k)) ++ SMap.run d k l ++ m.filter (fun e => decide (k + l.length ≤ e.1))

/-- `n` consecutive values from key `k` on. -/
def SMap.getList {α : Type} (d : α) (m : SMap α) (k n : Nat) : List α :=
  (List.range n).map fun i => SMap.get d m (k + i)

end Sys2Proof.Machine
end

