-- ==== Sys2Proof/Machine/State.lean ====
section
/-!
DEFINITION. Machine/State.lean: the state of the hub as plain data: one structure for each block of Table 02.1, one for a
Perch, one for each object of the die the hub tracks, the two memories, the queue of waiting commands, and reset.
-/
namespace Sys2Proof.Machine

/-! ## Small parts shared by the blocks -/

/-- The four copies' state of an RWS register (Table 02.5). -/
inductive RwsSt where
  | clean | dirty | staged | stagedDirty
  deriving DecidableEq, Repr, Inhabited

/-- One RWS register: its three copies and its state (R64). A pair holds 64 bits. -/
structure Rws where
  shadow : Nat
  staged : Nat
  active : Nat
  st : RwsSt
  deriving DecidableEq, Repr, Inhabited

/-- One RC field: `old` is what a read returns, `new` is what the hub added in this hub cycle (R12). -/
structure RcCell where
  old : Nat := 0
  new : Nat := 0
  /-- largest value the field can hold -/
  max : Nat := 0
  /-- the field holds the largest value seen, not a count -/
  peak : Bool := false
  deriving DecidableEq, Repr, Inhabited

/-- What the last access of a master returned (the model's output of a read). -/
structure Resp where
  data : Nat := 0
  refused : Bool := false
  deriving DecidableEq, Repr, Inhabited

/-- Bits the hub set in this hub cycle: a W1C write in the cycle does not clear them (R11, R482). -/
structure Cyc where
  attn : Nat := 0
  irq : Nat := 0
  pllLoss : Bool := false
  wdog : Bool := false
  deriving DecidableEq, Repr, Inhabited

/-- The hub's clock, the timebase and the epoch counter (R63, R74, R127). -/
structure Clk where
  /-- real time in ns since the cold reset was last released -/
  realNs : Nat := 0
  /-- hub cycles since the cold reset was last released -/
  cycle : Nat := 0
  tick : Nat := 0
  started : Bool := false
  epoch : Nat := 0
  epochCycle : Nat := 0
  onPll : Bool := false
  monitorArmed : Bool := false
  fallback : Bool := false
  pllLoss : Bool := false
  fbTick : Nat := 0
  deriving DecidableEq, Repr, Inhabited

/-! ## The Chain and commits (chapter 02) -/

/-- How a station stands to the Chain; the numbers of HUB_STN_STATE.state are 1 to 5 in this order (R86). -/
inductive Bypass where
  | observed | missed | errors | rings | untrained
  deriving DecidableEq, Repr, Inhabited

/-- Chain master's view of one station (R61). -/
structure Link where
  missed : Nat := 0
  errFlits : Nat := 0
  acked : Bool := false
  bypass : Bypass := .observed
  /-- the bypass that takes effect at the next boundary -/
  next : Bypass := .observed
  deriving DecidableEq, Repr, Inhabited

/-- Whose commit it is: a master, the slice table (R435) or the security unit (R419). -/
inductive Owner where
  | master (m : Master) | slices | security | bringup
  deriving DecidableEq, Repr, Inhabited

/-- One commit (R65). -/
structure Commit where
  owner : Owner
  scope : Nat
  target : Nat
  /-- stations whose snapshot flit is on its way -/
  toSnap : List Nat := []
  /-- stations that have staged and whose acknowledgement is on its way -/
  toAck : List Nat := []
  /-- hub cycle of the snapshot flits -/
  issued : Nat := 0
  excluded : List Nat := []
  /-- keys of the RWS registers this commit staged -/
  staged : List Nat := []
  /-- epoch at whose boundary the commit takes effect, once armed -/
  effective : Option Nat := none
  deriving DecidableEq, Repr, Inhabited

/-- One master's view of its last commit (R83). -/
structure CommitStat where
  pending : Bool := false
  excluded : Nat := 0
  status : Nat := 0
  epoch : Nat := 0
  deriving DecidableEq, Repr, Inhabited

/-- One master's Chain window (R70): the frozen copy by slot offset. -/
structure Window where
  held : Bool := false
  station : Nat := 0
  /-- the station field of HUB_CHWIN -/
  sel : Nat := 0
  from_ : Nat := 0
  status : Nat := 0
  copy : SMap Nat := []
  deriving DecidableEq, Repr, Inhabited

/-- A class-2 request without a response (R504). -/
structure Req2 where
  station : Nat
  repeats : Nat
  deriving DecidableEq, Repr, Inhabited

/-- The Chain master. -/
structure Chain where
  link : SMap Link := []
  /-- commits accepted and not yet begun, oldest first -/
  queue : List Commit := []
  cur : Option Commit := none
  stat : SMap CommitStat := []
  ringBad : Nat := 0
  /-- consecutive boundaries at which a ring's marker did not return -/
  ringMiss : SMap Nat := []
  /-- rings whose marker of this boundary has been missed -/
  ringLate : List Nat := []
  /-- rings that fail from the next boundary -/
  ringNext : Nat := 0
  win : SMap Window := []
  req2 : List Req2 := []
  deriving DecidableEq, Repr, Inhabited

/-! ## The event recorder (chapter 12) -/

/-- A record request (R387). -/
structure Req where
  cls : Nat := 0
  code : Nat := 0
  tick : Nat := 0
  slice : Nat := 255
  origin : Nat := 0
  unit : Nat := 0x3FFF
  status : Nat := 0
  ctx : Option Nat := none
  aux : Nat := 0
  causeSrc : Nat := 0xFFFF
  causeSeq : Nat := 0
  arg : Nat := 0
  tenant : Bool := false
  words : List Nat := []
  /-- snapshot set of a trigger record -/
  snap : Option Nat := none
  /-- trigger class and station, for a trigger request -/
  trigger : Option (Nat × Nat) := none
  /-- the image of a firmware record -/
  image : List Byte := []
  /-- the audit gap record -/
  gap : Bool := false
  deriving DecidableEq, Repr, Inhabited

/-- A build in progress (R387). -/
structure Build where
  req : Req
  start : Nat
  /-- hub words read at the start of the build -/
  words : List Nat
  stnPending : Bool := false
  stnTaken : Bool := false
  incomplete : Bool := false
  deriving DecidableEq, Repr, Inhabited

/-- The pending lost record (R388). -/
structure Lost where
  any : Bool := false
  triggers : Nat := 0
  all : Nat := 0
  /-- counts of words 0 to 14 -/
  counts : SMap Nat := []
  first : Nat := 0
  last : Nat := 0
  firstStn : Nat := 0x7FF
  lastStn : Nat := 0x7FF
  deriving DecidableEq, Repr, Inhabited

/-- The pending audit gap (R395). -/
structure Gap where
  pending : Bool := false
  queued : Bool := false
  count : Nat := 0
  first : Nat := 0
  last : Nat := 0
  byOrigin : SMap Nat := []
  deriving DecidableEq, Repr, Inhabited

/-- One master's recorder cursor (R389). -/
structure Cursor where
  held : Bool := false
  slot : Nat := 0
  from_ : Nat := 0
  role : Nat := 0
  status : Nat := 0
  deriving DecidableEq, Repr, Inhabited

/-- The event recorder. -/
structure Er where
  /-- 8,192 slots of 512 bytes; an unwritten slot is the empty list -/
  store : SMap (List Byte) := []
  /-- the slot last written, the hub cycle of its commit and what it held before (R380) -/
  oldSlot : Option (Nat × Nat × List Byte) := none
  /-- slots damaged by an uncorrected error (Table 18.1) -/
  bad : List Nat := []
  seq : Nat := 0
  gcount : Nat := 0
  acount : Nat := 0
  fifo : List Req := []
  sysq : List Req := []
  builds : List Build := []
  /-- clock-set records, which take the next commits (R393) -/
  clockSet : List Req := []
  /-- hub cycle from which the next commit is allowed (R380) -/
  nextCommit : Nat := 0
  lost : Lost := {}
  chainStarted : Bool := false
  chainNonce : List Byte := []
  link : List Byte := []
  gapTotal : Nat := 0
  gap : Gap := {}
  /-- audit events before the chain start record, by origin (R394) -/
  preGap : SMap Nat := []
  cursor : SMap Cursor := []
  fwBuf : SMap Nat := []
  /-- firmware records to commit until the last one has (R400) -/
  fwQueued : Nat := 0
  fwStatus : Nat := 0
  spillWr : Nat := 0
  spillRd : Nat := 0
  /-- audit index from which records are unspilled -/
  spillFirst : Nat := 0
  /-- the block being written: its record count and its tick -/
  spilling : Option (Nat × Nat) := none
  /-- link of the audit record before the first unspilled one -/
  spillLink : List Byte := []
  deriving DecidableEq, Repr, Inhabited

/-! ## The security unit (chapter 13) -/

/-- A check in progress (R411). -/
structure SecCheck where
  op : Nat
  slice : Nat
  buf : List Byte
  /-- the master's nonce and role at the go (R406, R410) -/
  nonce : List Byte := []
  role : Nat := 0
  /-- hub cycle of the go (R420) -/
  cycle : Nat := 0
  deriving DecidableEq, Repr, Inhabited

/-- One role-holding master's part of the security unit. -/
structure SecM where
  role : Nat := 0
  leaseEnd : Nat := 0
  nonce : List Byte := []
  buf : SMap Nat := []
  check : Option SecCheck := none
  status : Nat := 0
  reason : Nat := 0
  keyout : SMap Nat := []
  keyoutEnd : Nat := 0
  keyoutFull : Bool := false
  /-- the hub cycle, plus 1, of the last release, and what the registers held before it (R12) -/
  keyoutCyc : Nat := 0
  keyoutOld : SMap Nat := []
  /-- a new nonce is drawn in the next hub cycle (R410) -/
  nonceDue : Bool := false
  deriving DecidableEq, Repr, Inhabited

/-- One key generation of a slice (Table 13.4). -/
structure KeyGen where
  gen : Nat := 0
  dump : List Byte := []
  trace : List Byte := []
  counter : List Byte := []
  keyId : Nat := 0xFFFFFFFFFFFFFFFF
  epub : List Byte := []
  deriving DecidableEq, Repr, Inhabited

/-- A section record (Table 13.9). -/
structure SecRec where
  present : Bool := false
  typ : Nat := 0
  target : Nat := 0
  version : Nat := 0
  digest : List Byte := []
  deriving DecidableEq, Repr, Inhabited

/-- What the security unit holds for one slice. -/
structure SliceKeys where
  cur : KeyGen := {}
  next : Option KeyGen := none
  rekey : Bool := false
  sigPub : List Byte := []
  kexPub : List Byte := []
  owner : List Byte := []
  /-- lodged POLICY token -/
  token : List Byte := []
  /-- the hub cycle, plus 1, in which a token last changed the slot, and the slot before that cycle (R420) -/
  tokenCyc : Nat := 0
  tokenOld : List Byte := []
  consent : List Byte := []
  opens : Nat := 0
  section_ : SecRec := {}
  /-- write list held for an absent slice -/
  heldWrites : List (Nat × Nat) := []
  heldValid : Bool := false
  policyEpoch : Nat := 0
  deriving DecidableEq, Repr, Inhabited

/-- The security unit. -/
structure Sec where
  m : SMap SecM := []
  /-- the unit's own lease count, in ticks (R411) -/
  lease : Nat := 0
  /-- draws taken from the random-number generator -/
  drbg : Nat := 0
  /-- slices whose REVOKE waits for its commit, in order (R419) -/
  revokes : List Nat := []
  deriving DecidableEq, Repr, Inhabited

/-! ## Host interface (chapter 16) -/

/-- Interrupts (R480 to R482). -/
structure Irq where
  status : Nat := 0
  en : Nat := 0
  /-- the 64 words of the MSI-X table; the default of a vector-control word is 1 -/
  table : SMap Nat := []
  pba : Nat := 0
  /-- messages to send in the next hub cycle -/
  due : Nat := 0
  /-- messages sent, by vector -/
  sent : SMap Nat := []
  /-- MSI-X Enable 1 and Function Mask 0 in configuration space -/
  fnOn : Bool := true
  deriving DecidableEq, Repr, Inhabited

/-- The host doorbell (R483). -/
structure Db where
  fifo : List Nat := []
  fwCode : Nat := 0
  deriving DecidableEq, Repr, Inhabited

/-- One SPDM mailbox (R484 to R486). -/
structure Mbx where
  req : List Byte := []
  /-- the request handed to the security unit, while busy -/
  sub : List Byte := []
  busy : Bool := false
  ready : Bool := false
  status : Nat := 0
  /-- the response the security unit is forming -/
  forming : Option (List Byte) := none
  resp : List Byte := []
  pos : Nat := 0
  /-- SPDM messages of the connection, for the transcripts -/
  transcript : List Byte := []
  l1 : List Byte := []
  deriving DecidableEq, Repr, Inhabited

/-- One master's telemetry query (R488). -/
structure Query where
  busy : Bool := false
  kind : Nat := 0
  index : Nat := 0
  status : Nat := 0
  res : SMap Nat := []
  deriving DecidableEq, Repr, Inhabited

/-- Telemetry: readings as die management last refreshed them (R488 to R490). -/
structure Tlm where
  q : SMap Query := []
  /-- tick of the refresh behind the result loaded last -/
  resTick : Nat := 0
  /-- last readings: 16-bit patterns of sensors 0 to 63, then the kHz of domains 0 to 27, then limit, window, average and enforced of the four
  power limits -/
  last : SMap Nat := []
  /-- highest reading of each sensor since cold reset, plus 2^16 -/
  high : SMap Nat := []
  faulty : List Nat := []
  refreshTick : Nat := 0
  refreshed : Bool := false
  above : Bool := false
  topSensor : Nat := 0
  topTemp : Nat := 0
  deriving DecidableEq, Repr, Inhabited

/-! ## Bring-up, the loader and restarts (chapter 03) -/

/-- The keys a KEYS and a HUB section carry (R104), as installed. -/
structure Keys where
  root : List Byte := []
  fw : List Byte := []
  inst : List Byte := []
  serial : Nat := 0
  valid : Bool := false
  /-- op_pub of the HUB section -/
  op : List Byte := []
  opValid : Bool := false
  deriving DecidableEq, Repr, Inhabited

/-- The bring-up sequencer (Table 03.1) and what it installs. -/
structure Boot where
  phase : Nat := 0
  section_ : Nat := 0
  status : Nat := 0
  /-- COLD_N is high -/
  coldN : Bool := false
  /-- the always-on island supply is present -/
  island : Bool := true
  /-- real time at which the phase was entered -/
  since : Nat := 0
  /-- clock domains released from reset, one bit each (Table 01.10) -/
  domains : Nat := 0
  endpoint : Bool := false
  units : Bool := false
  puf : List Byte := []
  keys : Keys := {}
  dieId : List Byte := []
  diePub : List Byte := []
  diePriv : Nat := 0
  rootKey : List Byte := []
  identity : Bool := false
  pkg : Nat := 0
  pkgValid : Bool := false
  tunBase : Nat := 0
  tunSize : Nat := 0
  /-- instruction memory and whether it is valid -/
  imem : List Byte := []
  imemValid : Bool := false
  /-- instruction memory holds an uncorrected error (Table 18.1) -/
  imemBad : Bool := false
  /-- the pair's data memory, 512 KiB (R104); only the pair's program writes it -/
  dmem : SMap Byte := []
  entry : Nat := 0
  imageHash : List Byte := []
  pairRunning : Bool := false
  mismatches : Nat := 0
  /-- write lists of the mode-0 load, applied in FWSTART to COMMIT -/
  writes : List (Nat × Nat) := []
  /-- records of the sections in effect, by type 1 to 5 (Table 13.9) -/
  recs : SMap SecRec := []
  failedCh : List Nat := []
  tunHeader : Bool := false
  /-- HUB_FIRKIN_KEEP.kept -/
  kept : Bool := false
  deriving DecidableEq, Repr, Inhabited

/-- Loader states, numbered as HUB_ASZ_STATUS.state (R119). -/
inductive LdrSt where
  | idle | header | section_ | payload | check | done | failed
  deriving DecidableEq, Repr, Inhabited

/-- A section of the stream: its 32-byte header, its padded payload and its trailer. -/
structure Section where
  index : Nat := 0
  hdr : List Byte := []
  body : List Byte := []
  sig : List Byte := []
  deriving DecidableEq, Repr, Inhabited

/-- What the verified sections of a load will install (R106). -/
structure Cand where
  keys : Keys := {}
  dieId : List Byte := []
  diePub : List Byte := []
  diePriv : Nat := 0
  rootKey : List Byte := []
  image : List Byte := []
  entry : Nat := 0
  tunBase : Nat := 0
  tunSize : Nat := 0
  pkg : Nat := 0
  writes : List (Nat × Nat) := []
  /-- verified SLICEOBS sections: target, version, digest, writes, consent used -/
  slices : List (Nat × SecRec × List (Nat × Nat)) := []
  consent : List (Nat × List Byte) := []
  recs : SMap SecRec := []
  deriving DecidableEq, Repr, Inhabited

/-- The assize loader (R99 to R107). -/
structure Ldr where
  st : LdrSt := .idle
  owner : Option Master := none
  mode : Nat := 0
  section_ : Nat := 0
  status : Nat := 0
  count : Nat := 0
  result : SMap Nat := []
  /-- bytes of the part being received -/
  buf : List Byte := []
  /-- bytes the part needs -/
  need : Nat := 0
  length : Nat := 0
  sectionCount : Nat := 0
  dieId : List Byte := []
  types : List Nat := []
  targets : List Nat := []
  cur : Section := {}
  /-- sections received whole and not yet verified, oldest first -/
  toVerify : List Section := []
  cand : Cand := {}
  /-- the master a mode-2 load is reserved for -/
  reserved : Option Master := none
  lastNs : Nat := 0
  endNs : Nat := 0
  /-- slices whose reload waits for its commit (R111) -/
  reload : List Nat := []
  deriving DecidableEq, Repr, Inhabited

/-- The restart machine (Table 03.11); states numbered as HUB_RESTART_STATUS.state. -/
structure Rst where
  st : Nat := 0
  cause : Nat := 0
  mismatches : Nat := 0
  restarts : Nat := 0
  status : Nat := 0
  w : Nat := 0
  /-- hub cycle at which the restart timer was armed -/
  timer : Nat := 0
  /-- the hash check has passed -/
  hashed : Bool := false
  started : Bool := false
  deriving DecidableEq, Repr, Inhabited

/-- The hardware watchdog (R122, R305). -/
structure Wdog where
  /-- hub cycles since the last kick -/
  silent : Nat := 0
  expired : Bool := false
  /-- the crash core is being written after an expiry -/
  core : Bool := false
  deriving DecidableEq, Repr, Inhabited

/-! ## Time (chapter 04) -/

/-- The calendar (R133 to R137). -/
structure Cal where
  valid : Bool := false
  offset : Nat := 0
  gen : Nat := 0
  pending : Bool := false
  applyAt : Nat := 0
  value : Nat := 0
  by_ : Nat := 0
  status : Nat := 0
  lastSkew : Nat := 0
  /-- the hub cycle, plus 1, in which a set last took effect, and the offset and generation before it (R136) -/
  setCyc : Nat := 0
  oldOffset : Nat := 0
  oldGen : Nat := 0
  deriving DecidableEq, Repr, Inhabited

/-- The time-mark registers and the link numbering of a link Perch (R142 to R145). -/
structure Mark where
  valid : Bool := false
  peerPkg : Nat := 0
  peerLink : Nat := 0
  msn : Nat := 0
  rxPeer : Nat := 0
  rxLocal : Nat := 0
  tx : Nat := 0
  echoTx : Nat := 0
  echoRx : Nat := 0
  /-- the link is trained -/
  trained : Bool := false
  msnOut : Nat := 0
  /-- number of the next message received (R142) -/
  msnIn : Nat := 0
  seq5 : Nat := 0
  /-- tick of this Perch's own timebase at which the next mark is due (R144) -/
  next : Nat := 0
  deriving DecidableEq, Repr, Inhabited

/-! ## Dependability (chapter 18) -/

/-- The last uncorrected storage error (R516). -/
structure Ecc where
  valid : Bool := false
  store : Nat := 0
  station : Nat := 0
  word : Nat := 0
  /-- 64-bit words of the Firkin with an uncorrected error (Table 18.1) -/
  firkinBad : List Nat := []
  deriving DecidableEq, Repr, Inhabited

/-- The compute-rail monitor (R509, R517). -/
structure Rail where
  /-- real time since which a rail has been low -/
  low : Option Nat := none
  collapsed : Bool := false
  tick : Nat := 0
  deriving DecidableEq, Repr, Inhabited

/-! ## Contexts, fences, slices and shared engines (chapters 01 and 14) -/

/-- Context states (Table 01.5). -/
inductive CtxSt where
  | free | active | lost
  deriving DecidableEq, Repr, Inhabited

/-- A command of a context that has not completed. -/
structure Cmd where
  unit : Nat
  tag : Nat
  signal : Option FenceRef
  value : Nat
  /-- mode of the code that issued it (R159) -/
  mode : Nat := 0
  started : Bool := false
  startTick : Nat := 0
  submitTick : Nat := 0
  /-- watch slots that hold the completion, and its status meanwhile (R338) -/
  held : List Nat := []
  status : Nat := 0
  /-- slice of the context it was submitted to (R33) -/
  slice : Nat := 0
  /-- its context entered LOST while it ran (R37) -/
  lost : Bool := false
  /-- its context was destroyed while it ran: a context created again under the ID has no part in it (R37) -/
  gone : Bool := false
  deriving DecidableEq, Repr, Inhabited

/-- One context (R33, R36, R287, R290). -/
structure Ctx where
  st : CtxSt := .free
  slice : Nat := 0
  cmds : List Cmd := []
  progress : Nat := 0
  /-- progress count at the last scan -/
  stored : Nat := 0
  /-- the hub cycle, plus 1, of the last change, and the state, progress count and presence of commands before that cycle (R289) -/
  cyc : Nat := 0
  oldSt : CtxSt := .free
  oldProgress : Nat := 0
  oldBusy : Bool := false
  idle : Nat := 0
  reported : Bool := false
  lostFaults : Nat := 0
  /-- the attribution entries of the destroyed context wait for their final records (R244) -/
  finals : Bool := false
  deriving DecidableEq, Repr, Inhabited

/-- Fence states (R44). -/
inductive FenceSt where
  | unsignalled | signalled | error
  deriving DecidableEq, Repr, Inhabited

/-- A unit blocked on a fence-wait (R47). -/
structure Waiter where
  unit : Nat
  context : Nat
  value : Nat
  mode : Nat := 0
  deriving DecidableEq, Repr, Inhabited

/-- One fence; `base` is the value before hub cycle `cyc`, with which the signals of that cycle compare (R46). -/
structure Fence where
  st : FenceSt := .unsignalled
  value : Nat := 0
  waiters : List Waiter := []
  base : Nat := 0
  baseSt : FenceSt := .unsignalled
  cyc : Nat := 0
  deriving DecidableEq, Repr, Inhabited

/-- Slice states (Table 14.2), numbered in this order. -/
inductive SliceSt where
  | free | active | resetting | destroying
  deriving DecidableEq, Repr, Inhabited

/-- One slice entry (Table 14.1) and its reset in progress (R445). -/
structure Slice where
  st : SliceSt := .free
  died : Bool := false
  pasid : Nat := 0
  created : Nat := 0
  resets : Nat := 0
  status : Nat := 0
  reset : Nat := 0
  cause : Nat := 0
  lostCtx : Nat := 0
  discarded : Nat := 0
  aborted : Nat := 0
  fenceErr : Nat := 0
  expErr : Nat := 0
  /-- engines that have not reported -/
  engines : List Nat := []
  /-- hub cycle of the last engine report, while the return to ACTIVE is due -/
  reported : Option Nat := none
  destroyTick : Nat := 0
  expReleased : Nat := 0
  deriving DecidableEq, Repr, Inhabited

/-- One master's copies of the slice-table status registers (R450). -/
structure SlcM where
  cmdStatus : Nat := 0
  ctxStatus : Nat := 0
  ctxValid : Bool := false
  ctxId : Nat := 0
  expStatus : Nat := 0
  deriving DecidableEq, Repr, Inhabited

/-- One transfer in a shared-engine queue (R439). -/
structure Transfer where
  /-- the unit that issued it -/
  issuer : Nat := 0x3FFF
  slice : Nat
  context : Nat
  tag : Nat
  len : Nat
  signal : Option FenceRef := none
  value : Nat := 0
  mode : Nat := 0
  /-- operation kind and memory level, as the type filter of R163 sees them -/
  op : Nat := 0
  level : Nat := 0
  started : Bool := false
  aborting : Bool := false
  deriving DecidableEq, Repr, Inhabited

/-- One shared engine: its queue in admission order and its round robin. -/
structure Engine where
  q : List Transfer := []
  /-- slice served last and how many transfers it has had in its turn -/
  turn : Nat := 0
  used : Nat := 0
  deriving DecidableEq, Repr, Inhabited

/-- The slice table beside its entries. -/
structure Slc where
  e : SMap Slice := []
  keys : SMap SliceKeys := []
  m : SMap SlcM := []
  /-- master whose create waits for its commit to begin, and the slice -/
  busy : Option (Master × Nat) := none
  /-- active slice of each unit -/
  unit : SMap Nat := []
  /-- the move queue: unit and target slice, by unit -/
  moves : List (Nat × Nat) := []
  /-- units selected by the move orders issued for boundary `ordersEpoch` -/
  orders : List Nat := []
  ordersEpoch : Nat := 0
  moveStatus : Nat := 0
  /-- export index to slice + 1 -/
  exports : SMap Nat := []
  /-- owner unit to 1 + the epoch of its last fence-order record (R447) -/
  forder : SMap Nat := []
  engine : SMap Engine := []
  deriving DecidableEq, Repr, Inhabited

/-! ## Cuts (chapter 08) -/

/-- Gate states of a unit (Table 08.2), numbered as PCH_GATE. -/
inductive GateSt where
  | run | armed | stopping | stopped | forced | step
  deriving DecidableEq, Repr, Inhabited

/-- One entry of a capture store (Table 08.4). -/
structure Capture where
  kind : Nat
  flags : Nat
  ports : Nat
  tick : Nat
  addr : Nat
  tag : Nat
  unit : Nat
  msn : Nat
  shape : Nat
  context : Nat
  slice : Nat
  value : Nat
  data : List Byte
  deriving DecidableEq, Repr, Inhabited

/-- One unit's stop/step gate. -/
structure Gate where
  st : GateSt := .run
  cut : Nat := 0
  t : Nat := 0
  /-- a command-mode step, and the commands left in it -/
  cmds : Bool := false
  left : Nat := 0
  /-- what the station's report says of the unit: 1 clean, 2 forced, 3 already stopped, 4 asleep -/
  result : Nat := 0
  /-- the message that the injection port holds from where the forced stop closed it: the capture of its first part, and the bytes left (R264) -/
  port : Option (Capture × Nat) := none
  deriving DecidableEq, Repr, Inhabited

/-- The capture store of a router or link Perch (R262). -/
structure CapStore where
  /-- cuts for which capture is armed -/
  armed : List Nat := []
  overflow : Bool := false
  entries : List Capture := []
  /-- messages that found the store full and wait in the router's or link's own buffer (R262) -/
  held : List Capture := []
  deriving DecidableEq, Repr, Inhabited

/-- A captured message that its Perch re-injects on the port on which it arrived (R266); or, with `rest` not 0, the message that the injection port of
`unit` goes on to send, with the bytes left. -/
structure Inject where
  station : Nat
  unit : Nat
  rest : Nat
  entry : Capture
  deriving DecidableEq, Repr, Inhabited

/-- Cut engine states (Table 08.5), numbered as CUT_STATUS.state. -/
inductive CutSt where
  | idle | scheduled | stopping | stopped | resuming | stepping
  deriving DecidableEq, Repr, Inhabited

/-- A cut held by the engine. -/
structure CutRec where
  id : Nat
  die : Bool
  slice : Nat
  st : CutSt
  t : Nat
  /-- hub cycle in which the schedule flits leave (R257) -/
  issued : Nat := 0
  u : Nat := 0
  hang : Bool := false
  xpkg : Bool := false
  /-- who requested it: 0 matrix, 1 hub-to-hub, 2 register master -/
  origin : Nat := 2
  /-- slices the cut may stop -/
  set : List Nat := []
  excl : Nat := 0
  masters : List Master := []
  /-- done messages that are due when the cut completes: link, cut ID of the schedule, and flags late (1) and unaligned (2) (R272) -/
  up : List (Nat × Nat × Nat) := []
  /-- stations that the schedule flit has not reached yet -/
  toArm : List Nat := []
  /-- stations that were bypassed at the schedule -/
  bypassed : List Nat := []
  /-- slices of the units at tick T, and PASIDs of the slices -/
  unitMap : SMap Nat := []
  pasids : SMap Nat := []
  /-- stations whose report is due, with their units in scope as a sub mask -/
  toReport : List (Nat × Nat) := []
  /-- stations that had not reported when the cut completed, in the same form -/
  missing : List (Nat × Nat) := []
  /-- slices of a die cut that resume on their own, with their tick U (R266) -/
  sub : List (Nat × Nat) := []
  clean : Nat := 0
  forced : Nat := 0
  unobserved : Nat := 0
  unreported : Nat := 0
  overflow : Bool := false
  status : Nat := 0
  done : Nat := 0
  /-- the step in progress: number, mode, single, n, unit, timeout tick -/
  steps : Nat := 0
  mode : Bool := false
  single : Bool := false
  n : Nat := 0
  stepUnit : Nat := 0x3FFF
  stepEnd : Nat := 0
  timeout : Nat := 0
  deriving DecidableEq, Repr, Inhabited

/-- One master's copies of CUT_STATUS and CUT_ID. -/
structure CutM where
  status : Nat := 0
  id : Nat := 0
  /-- cut whose state CUT_STATUS shows; 0 none -/
  cut : Nat := 0
  deriving DecidableEq, Repr, Inhabited

/-- The cut engine. -/
structure Cut where
  cuts : List CutRec := []
  serial : Nat := 0
  m : SMap CutM := []
  /-- the most recently completed cut (R277) -/
  clean : Nat := 0
  forced : Nat := 0
  unobserved : Nat := 0
  unreported : Nat := 0
  overflow : Bool := false
  excl : Nat := 0
  done : Nat := 0
  /-- bench mode is on -/
  bench : Bool := false
  /-- CUT_BENCH.enable as last written -/
  benchEn : Bool := false
  benchStatus : Nat := 0
  /-- the last cross-package cut of this package: its ID, counts and the end of its window -/
  xid : Nat := 0
  reported : Nat := 0
  late : Nat := 0
  xend : Nat := 0
  counting : Bool := false
  /-- last 64 cut IDs seen, newest first, with the link each came on -/
  known : List (Nat × Nat) := []
  /-- links over which the schedules of the last 64 cut IDs were forwarded -/
  sentOn : List (Nat × List Nat) := []
  /-- the same for resumes: cut ID, and scope with PASID -/
  knownResume : List (Nat × Nat) := []
  deriving DecidableEq, Repr, Inhabited

/-! ## Trace (chapters 05 and 06) -/

/-- Source states (Table 05.2), numbered as PCH_TSTATE. -/
inductive SrcSt where
  | off | armed | on
  deriving DecidableEq, Repr, Inhabited

/-- Branch atoms collected for one core (R203), oldest first. -/
structure Atoms where
  bits : List Bool := []
  first : Nat := 0
  last : Nat := 0
  slice : Nat := 0
  deriving DecidableEq, Repr, Inhabited

/-- One trace source of a Perch. -/
structure Src where
  st : SrcSt := .off
  /-- next sequence number (R139) -/
  seq : Nat := 0
  /-- time base (R199); a RESYNC sets it wherever the slice changes, so one is enough -/
  base : Nat := 0
  /-- slice of the previous packet plus 1 -/
  slice : Nat := 0
  /-- a packet has been refused since the last stored one -/
  lost : Bool := false
  /-- packets stored since the last periodic RESYNC -/
  count : Nat := 0
  /-- open exclusion run: events, first tick, last tick -/
  excl : Option (Nat × Nat × Nat) := none
  exclSlice : Nat := 0
  /-- the two predictors of each unit, by sub (R200) -/
  pc : SMap Nat := []
  addr : SMap Nat := []
  atoms : SMap Atoms := []
  deriving DecidableEq, Repr, Inhabited

/-- A packet in a partition of the Peck. -/
structure Pkt where
  slice : Nat
  src : Nat
  seq : Nat := 0
  tick : Nat
  bytes : List Byte
  /-- 1: flush content of a rebinding (R217); 2 and up: marked by a flush, a rebinding or a layout change, which close the open block (Table 06.7, R212) -/
  flush : Nat := 0
  deriving DecidableEq, Repr, Inhabited

/-- Partition hold states (Table 06.7), numbered as PCH_PECK_STATE. -/
inductive PartSt where
  | run | post | frozen
  deriving DecidableEq, Repr, Inhabited

/-- One partition of a Peck. -/
structure Part where
  st : PartSt := .run
  budget : Nat := 0
  budget0 : Nat := 0
  pkts : List Pkt := []
  lastStore : Nat := 0
  deriving DecidableEq, Repr, Inhabited

/-- One reserved entry: a TRIGGER, or a LOSS marker with its counts (R208, R209). -/
structure Rsv where
  loss : Bool
  slice : Nat
  src : Nat := 0
  reason : Nat := 0
  seq : Nat := 0
  packets : Nat := 0
  words : Nat := 0
  tick : Nat := 0
  bytes : List Byte := []
  /-- as in a partition -/
  flush : Nat := 0
  /-- written after its source's last stored packet and not closed (R208) -/
  open_ : Bool := true
  deriving DecidableEq, Repr, Inhabited

/-- What a packet says, before it is given its number, time difference and address form. -/
inductive Pk where
  | sync (cause pc : Nat)
  | resync (cause pc : Nat)
  | time
  | stop (cause : Nat)
  | sleep
  | excl (events first last : Nat)
  | atoms (bits : List Bool)
  | exc (kind mode cause target : Nat)
  | target (addr : Nat)
  | rmo (op level mode opcode len context tag issuer aux addr : Nat) (data : Bool)
  | fence (ev : Nat) (err : Bool) (mode pkg id context value : Nat)
  | cmd (ev mode context tag status : Nat)
  | link (recv op mode pkg msn len context tag : Nat)
  | xfer (ev context tag status len : Nat)
  | data (bytes : List Byte)
  deriving DecidableEq, Repr, Inhabited

/-- A group of packets that one event makes its source emit, as (sub, packet): it waits here for Peck space in stall mode, and stops its unit (R185).
`forced` is the cause of a RESYNC that must precede it, `ev` the sub and PC of the event behind it. -/
structure Group where
  src : Nat
  unit : Nat
  slice : Nat
  tick : Nat
  pks : List (Nat × Pk)
  forced : Option Nat := none
  ev : Option (Nat × Nat) := none
  deriving DecidableEq, Repr, Inhabited

/-- A drain block that has been closed (R212). -/
structure Block where
  station : Nat
  slice : Nat
  seq : Nat
  len : Nat
  packets : Nat
  partition : Nat
  rsv : Bool
  flush : Bool
  /-- boundary tick of the flush -/
  flushB : Nat := 0
  body : List Byte
  /-- sources whose packets the block holds, with the packets and words of each (for a LOSS of reason 3) -/
  srcs : List (Nat × Nat × Nat × Nat) := []
  requested : Bool := false
  granted : Bool := false
  pos : Nat := 0
  /-- placement of the ring at the grant: base and size -/
  base : Nat := 0
  size : Nat := 0
  /-- the slice's trace key at the grant (R415) -/
  key : List Byte := []
  sealed_ : Bool := false
  deriving DecidableEq, Repr, Inhabited

/-- The Peck of a Perch and its drain. -/
structure Peck where
  part : SMap Part := []
  rsv : List Rsv := []
  stalled : List Group := []
  status : Nat := 0
  blockSeq : Nat := 0
  blocks : List Block := []
  /-- partition the drain served last -/
  rr : Nat := 0
  /-- boundary tick of the rebinding whose flush content the Peck holds -/
  flushB : Nat := 0
  /-- mark of the next flush, rebinding or layout change: what it marks stands in no block with what follows (R212) -/
  gen : Nat := 2
  /-- tick of the last store in the reserved area -/
  rsvStore : Nat := 0
  deriving DecidableEq, Repr, Inhabited

/-- A trigger flit on its way to the hub core, or a trigger item of the report stream (R175). -/
structure Trig where
  station : Nat
  unit : Nat
  cond : Nat
  cls : Nat
  tick : Nat
  suppressed : Nat
  seq : Nat
  slice : Nat
  deriving DecidableEq, Repr, Inhabited

/-- What a Perch still does in the hub cycle that runs, after the unit events of the cycle (R169, R209, R211): TRIGGERs to be written, sources that local
and matrix orders stop and start, a release, a flush and a hold. -/
structure CycOrd where
  trig : List Trig := []
  lstop : Nat := 0
  lstart : Nat := 0
  mstop : Nat := 0
  mstart : Nat := 0
  release : Bool := false
  flush : Bool := false
  hold : Bool := false
  deriving DecidableEq, Repr, Inhabited

/-- A group order on its way to a station (R179, R180). -/
structure Order where
  station : Nat
  stop : Nat
  start : Nat
  hold : Bool
  /-- hub cycle in which the order left -/
  issued : Nat := 0
  deriving DecidableEq, Repr, Inhabited

/-- One trace ring or sample ring (R214, R235). -/
structure Ring where
  /-- the placement in effect -/
  on : Bool := false
  base : Nat := 0
  size : Nat := 0
  wr : Nat := 0
  rd : Nat := 0
  waiting : Bool := false
  status : Nat := 0
  deriving DecidableEq, Repr, Inhabited

/-- Trace control. -/
structure Trc where
  flits : List Trig := []
  orders : List Order := []
  last : Option Trig := none
  ring : SMap Ring := []
  tokens : Nat := 0
  flushTokens : Nat := 0
  /-- reservation requests in the order they arrived: station and block number -/
  queue : List (Nat × Nat) := []
  /-- station served last by the round robin -/
  rr : Nat := 0
  deriving DecidableEq, Repr, Inhabited

/-! ## Counters and attribution (chapter 07) -/

/-- The Grain set of one unit: `old` is what a read returns, `inc` the increments of this hub cycle (R228). -/
structure Grain where
  old : SMap Nat := []
  inc : SMap Nat := []
  /-- counters reset in this hub cycle, one bit each -/
  resetNow : Nat := 0
  /-- rst bits: counters reset since the last sample's cycle -/
  rst : Nat := 0
  starts : Nat := 0
  startsNow : Nat := 0
  /-- the command in progress, and the one in progress before this hub cycle: context and tag -/
  cmd : Option (Nat × Nat) := none
  cmdOld : Option (Nat × Nat) := none
  /-- the hub cycle, plus 1, in which the unit joined its slice, until a sample frame of its ring has said so; else 0 -/
  joined : Nat := 0
  /-- instructions retired under the command in progress, modulo 2^20 (R287) -/
  retired : Nat := 0
  deriving DecidableEq, Repr, Inhabited

/-- One captured unit record (Table 07.4). -/
structure URec where
  unit : Nat
  slice : Nat
  bnd : Nat
  rst : Nat
  flags : Nat
  starts : Nat
  cmd : Option (Nat × Nat)
  counters : List Nat
  /-- as the unit's counters held it -/
  joined : Nat := 0
  deriving DecidableEq, Repr, Inhabited

/-- A key of a Perch's attribution cache or an update flit (R242): context, tag, slice and the six deltas. -/
structure Charge where
  station : Nat
  context : Nat
  tag : Nat
  slice : Nat
  f : List Nat
  deriving DecidableEq, Repr, Inhabited

/-- One attribution entry or bucket (R239, R241). -/
structure AttEntry where
  slice : Nat := 0
  f : List Nat := []
  overflow : Nat := 0
  changed : Bool := false
  bad : Bool := false
  deriving DecidableEq, Repr, Inhabited

/-- A seal frame that waits to be written (R238). -/
structure Seal where
  slice : Nat
  b : Nat
  key : List Byte
  /-- number of the last sample completed before the boundary -/
  seq : Nat
  recs : List URec
  deriving DecidableEq, Repr, Inhabited

/-- The counter sampler and the attribution table. -/
structure Cnt where
  /-- boundary tick at which enable or period last took effect -/
  origin : Nat := 0
  /-- next sample tick -/
  next : Nat := 0
  seq : Nat := 0
  /-- samples taken; the next one takes this number -/
  count : Nat := 0
  /-- the sample whose frames are not all reserved: its tick and the stations still to arrive -/
  cur : Option (Nat × List Nat) := none
  recs : List URec := []
  /-- stations whose last capture has not left them -/
  busy : List Nat := []
  /-- slices that owned a unit at the sample tick -/
  owners : List Nat := []
  /-- the hub cycle, plus 1, in which the last sample was captured -/
  capCycle : Nat := 0
  ring : SMap Ring := []
  /-- samples skipped since the ring's previous sample frame -/
  skipped : SMap Nat := []
  seals : List Seal := []
  flits : List Charge := []
  /-- entries by context * 2^32 + tag -/
  att : SMap AttEntry := []
  bucket : SMap AttEntry := []
  attNext : Nat := 0
  deriving DecidableEq, Repr, Inhabited

/-! ## Hang detection (chapter 09) -/

/-- A collected wait edge (R293, R300): the unit that holds it, its slice, the edge and its since tick. -/
structure WEdge where
  unit : Nat
  slice : Nat
  context : Nat
  edge : Edge
  since : Nat
  deriving DecidableEq, Repr, Inhabited

/-- One edge of the graph (Table 09.9), with node IDs, unmasked. -/
structure GEdge where
  src : Nat
  dst : Nat
  value : Nat
  since : Nat
  kind : Nat
  flags : Nat := 0
  cycle : Nat := 0
  deriving DecidableEq, Repr, Inhabited

/-- One hung-context record of the graph (Table 09.8). -/
structure HungRec where
  context : Nat
  slice : Nat
  cls : Nat
  idle : Nat
  cycle : Nat
  root : Nat
  deriving DecidableEq, Repr, Inhabited

/-- The hang sequence in progress (Table 02.12). -/
structure Seq where
  /-- steps 1 to 6; 0 when no sequence runs -/
  step : Nat := 0
  /-- sequence number of the sequence -/
  number : Nat := 0
  /-- contexts that have joined, with their slices and idle counts, oldest first -/
  joined : List (Nat × Nat × Nat) := []
  die : Bool := false
  slice : Nat := 0
  xpkg : Bool := false
  cut : Nat := 0
  cutTick : Nat := 0
  /-- object of the sequence's dump -/
  object : Nat := 0
  deriving DecidableEq, Repr, Inhabited

/-- Hang detection: the scan engine, the verdict FIFO, the sequence and the graph under construction. -/
structure Hang where
  /-- the context that the scan or walk takes next, while one runs -/
  scan : Option Nat := none
  overCount : Nat := 0
  /-- contexts at or above the threshold so far in this scan -/
  overNow : Nat := 0
  scans : Nat := 0
  /-- queued verdicts: context and slice, oldest first -/
  fifo : List (Nat × Nat) := []
  /-- how many of them the hub cycle that runs has pushed: a read of the cycle does not see them (R12) -/
  fifoNew : Nat := 0
  seq : Seq := {}
  sequences : Nat := 0
  /-- verdicts read that wait for the next sequence: context, slice and idle count -/
  waiting : List (Nat × Nat × Nat) := []
  /-- a sequence of the whole die that firmware starts on a loss of the compute side (R511) waits -/
  dieWaiting : Bool := false
  /-- graph requests of other packages that wait: cut ID and link of arrival (R304) -/
  jobs : List (Nat × Nat) := []
  /-- cuts whose graph request has been relayed -/
  knownGraph : List Nat := []
  /-- the graph under construction: the cut, the link toward its origin (none at the origin), what the cut stopped -/
  building : Bool := false
  parent : Option Nat := none
  cut : Nat := 0
  cutTick : Nat := 0
  cutDone : Nat := 0
  cutPartial : Bool := false
  xpkg : Bool := false
  scope : List Nat := []
  /-- slices of the units at the cut tick -/
  unitMap : SMap Nat := []
  /-- contexts whose verdicts have joined -/
  joined : List (Nat × Nat × Nat) := []
  /-- collected edges, how many units were collected, and the units in scope that were not -/
  edges : List WEdge := []
  units : Nat := 0
  unobserved : List Nat := []
  /-- contexts as the walk found them, once it is done -/
  walk : Option (SMap Ctx) := none
  /-- edges received from other packages, the packages that have sent their last message, and whether one was truncated -/
  remote : List GEdge := []
  peersDone : List Nat := []
  peerTrunc : Bool := false
  noPeer : Bool := false
  /-- packages that reported the last cross-package cut of this package -/
  reported : List Nat := []
  /-- HUB_WFG_CUT, HUB_WFG_EDGES and HUB_WFG_STATUS -/
  wfgCut : Nat := 0
  wfgEdges : Nat := 0
  wfgStatus : Nat := 0
  /-- the last graph written, unmasked, its edges with their slices, and its hung records -/
  graph : List (Nat × GEdge) := []
  hung : List HungRec := []
  deriving DecidableEq, Repr, Inhabited

/-! ## Dumps and watches (chapter 10) -/

/-- Dump engine states (Table 10.6), numbered as DMP_STATUS.state. -/
inductive DmpSt where
  | idle | plan | stream | finish | sign
  deriving DecidableEq, Repr, Inhabited

/-- A part of a segment's raw stream: bytes the hub took at the end of PLAN, bytes of a die memory (space 0 a unit's register image, 1 tile
scratch, 2 the shared buffer; at a unit or an address), or bytes of HBM. -/
inductive Piece where
  | bytes (l : List Byte)
  | die (space at_ len : Nat)
  | hbm (addr len : Nat)
  deriving DecidableEq, Repr, Inhabited

/-- One planned segment of a dump (Table 10.9). -/
structure Seg where
  cls : Nat
  /-- slice index; 255 for an outer segment -/
  slice : Nat
  status : Nat := 0
  chunks : Nat := 0
  raw : Nat := 0
  written : Nat := 0
  pos : Nat := 0
  pieces : List Piece := []
  /-- transform set (Table 11.3) -/
  xform : Nat := 0
  /-- class 8: ranges of the stream that hold tensor bytes, with the set each calls for -/
  spans : List (Nat × Nat × Nat) := []
  deriving DecidableEq, Repr, Inhabited

/-- A dump request that has been accepted (R314). -/
structure DmpReq where
  owner : Master
  cause : Nat
  scope : Nat
  slice : Nat
  context : Nat
  live : Bool
  object : Nat
  deriving DecidableEq, Repr, Inhabited

/-- The dump in progress. -/
structure Dump where
  req : DmpReq
  start : Nat := 0
  cut : Nat := 0
  cutTick : Nat := 0
  cutPartial : Bool := false
  excl : Nat := 0
  segs : List Seg := []
  /-- index of the segment being written and the offset reached in its stream -/
  cur : Nat := 0
  off : Nat := 0
  chunk : Nat := 0
  status : Nat := 0
  truncated : Bool := false
  aborted : Bool := false
  firkin : Bool := false
  /-- no manifest record: the Tun had no room, or the HVC path was down -/
  notun : Bool := false
  /-- unit entries (Table 10.10): their number and their bytes -/
  units : Nat := 0
  unitBytes : List Byte := []
  /-- slices of the units at the cut tick, at acceptance for a live dump (R320) -/
  unitMap : SMap Nat := []
  /-- slices in scope: index, flags of Table 10.8, PASID, dump key and key_id, as at acceptance (R415) -/
  slices : List (Nat × Nat × Nat × List Byte × Nat) := []
  /-- slices destroyed or reset while the dump ran -/
  gone : List Nat := []
  /-- position of the manifest record -/
  man : Nat := 0
  rawTotal : Nat := 0
  out : Nat := 0
  endTick : Nat := 0
  /-- end at the next chunk boundary (R316, R328) -/
  stop : Bool := false
  deriving DecidableEq, Repr, Inhabited

/-- The job of the dump engine in a compression engine (R355): one chunk of a dump or of a watch. -/
structure Job where
  bank : Nat
  /-- index of the dump segment whose chunk the job encodes -/
  seg : Nat := 0
  /-- a chunk of the watch firing in progress -/
  watch : Bool := false
  /-- offset of the job's input in its segment's stream or tensor, and its bytes -/
  off : Nat
  len : Nat
  limit : Nat
  xform : Nat
  raw : Bool
  /-- a summary-only job writes no blocks -/
  quiet : Bool := false
  inDone : Nat := 0
  blocks : Nat := 0
  /-- the blocks released so far -/
  out : List Byte := []
  /-- the raw bytes that a summary is to count (R371) -/
  seen : List Byte := []
  /-- status, once the job has ended -/
  ended : Option Nat := none
  /-- a byte was read after the completion was released -/
  late : Bool := false
  deriving DecidableEq, Repr, Inhabited

/-- A Tun record that has been reserved: its position, length, the header its writes will end with, and its body. -/
structure TunRec where
  pos : Nat
  len : Nat
  hdr : List Byte
  /-- the header has been written -/
  done : Bool := false
  /-- the manifest record, whose header is written last (Table 10.6) -/
  manifest : Bool := false
  deriving DecidableEq, Repr, Inhabited

/-- One master's copies of DMP_STATUS and DMP_OBJ. -/
structure DmpM where
  status : Nat := 0
  object : Nat := 0
  /-- the last request was accepted, and its dump has not ended: it still gives the status (R348) -/
  running : Bool := false
  deriving DecidableEq, Repr, Inhabited

/-- Watch slot states (Table 10.17), numbered as DMP_Ww_STAT.state. -/
inductive WSt where
  | off | armed | queued | reading | paused | partial_ | spent
  deriving DecidableEq, Repr, Inhabited

/-- A firing: the values with which its slot fired (R338, R344). -/
structure Firing where
  slot : Nat := 0
  slice : Nat := 0
  kind : Nat := 0
  format : Nat := 0
  level : Nat := 0
  name : Nat := 0
  /-- the slot's repeat field -/
  again : Nat := 0
  addr : Nat := 0
  len : Nat := 0
  base : Nat := 0
  width : Nat := 1
  occurrence : Nat := 0
  context : Nat := 0
  tag : Nat := 0
  unit : Nat := 0
  fireTick : Nat := 0
  holdEnd : Nat := 0
  /-- the completion is held -/
  held : Bool := false
  releaseTick : Nat := 0
  object : Nat := 0
  /-- the slice's dump key when the firing was served (R415) -/
  key : List Byte := []
  /-- position of the watch header record -/
  pos : Nat := 0
  read : Nat := 0
  chunk : Nat := 0
  out : Nat := 0
  late : Bool := false
  /-- bytes of an element group split between two jobs (R371) -/
  carry : List Byte := []
  /-- summary counts: elements, nan, inf, zero -/
  elements : Nat := 0
  nan : Nat := 0
  inf : Nat := 0
  zero : Nat := 0
  hist : SMap Nat := []
  /-- min, max and absmax as FP32 patterns, while an element that is not NaN has been seen -/
  ext : Option (Nat × Nat × Nat) := none
  deriving DecidableEq, Repr, Inhabited

/-- One watch slot. -/
structure Watch where
  st : WSt := .off
  status : Nat := 0
  count : Nat := 0
  /-- matching completions that fire next -/
  occ : Nat := 1
  fired : Nat := 0
  firings : Nat := 0
  object : Nat := 0
  done : Nat := 0
  deriving DecidableEq, Repr, Inhabited

/-- Directory entry of the Tun header (R325). -/
structure DirEnt where
  object : Nat
  typ : Nat
  flags : Nat
  status : Nat
  pos : Nat
  bytes : Nat
  endTick : Nat
  rawTotal : Nat
  rawWritten : Nat
  deriving DecidableEq, Repr, Inhabited

/-- The dump engine, the Tun ring and the watch slots. -/
structure Dmp where
  st : DmpSt := .idle
  cur : Option Dump := none
  /-- a cause-1 dump that was accepted and waits for the running one to end (R316) -/
  next : Option Dump := none
  m : SMap DmpM := []
  /-- the object ID given last -/
  object : Nat := 0
  prog : Nat := 0
  wr : Nat := 0
  done : Nat := 0
  rd : Nat := 0
  /-- reserved records that are not all complete, oldest first -/
  recs : List TunRec := []
  dirCount : Nat := 0
  dirNext : Nat := 0
  /-- the jobs of the compression engines, in chunk order: at most one in each bank runs (R354) -/
  jobs : List Job := []
  /-- the Firkin write in progress: cause, object, cut -/
  fk : Option (Nat × Nat × Nat) := none
  w : SMap Watch := []
  /-- firings, the one in progress first -/
  fires : List Firing := []
  deriving DecidableEq, Repr, Inhabited

/-! ## Compression engines (chapter 11) -/

/-- One bank. -/
structure Bank where
  busy : Bool := false
  /-- register job: its master -/
  owner : Option Master := none
  decode : Bool := false
  block : Nat := 0
  in_ : Nat := 0
  out : Nat := 0
  blocks : Nat := 0
  vfailValid : Bool := false
  vfailOwner : Bool := false
  vfailBlock : Nat := 0
  vfailTick : Nat := 0
  /-- the register job: source, destination, input bytes, limit, transform set, force_raw, input left and output used -/
  src : Nat := 0
  dst : Nat := 0
  len : Nat := 0
  limit : Nat := 0
  xform : Nat := 0
  raw : Bool := false
  inDone : Nat := 0
  outDone : Nat := 0
  deriving DecidableEq, Repr, Inhabited

/-- One master's register-job result of one bank. -/
structure JobRes where
  busy : Bool := false
  status : Nat := 0
  in_ : Nat := 0
  out : Nat := 0
  failValid : Bool := false
  fail : Nat := 0
  deriving DecidableEq, Repr, Inhabited

/-- The four banks; results by bank * 4 + master. -/
structure Ce where
  bank : SMap Bank := []
  job : SMap JobRes := []
  /-- bank that takes the next chunk -/
  rr : Nat := 0
  deriving DecidableEq, Repr, Inhabited

/-! ## Span port (chapter 15) -/

/-- A command frame that the port has taken and not answered; `refuse` is the status of one that is answered without effect, else 0 (R462, R463). -/
structure SpanCmd where
  cmd : Nat
  tag : Nat
  payload : List Byte
  refuse : Nat := 0
  deriving DecidableEq, Repr, Inhabited

/-- A BULK in progress, that of the oldest command held (R466): `status` is the status so far. -/
structure Bulk where
  firkin : Bool
  off : Nat
  len : Nat
  sent : Nat := 0
  status : Nat := 0
  deriving DecidableEq, Repr, Inhabited

/-- The Span port. -/
structure Span where
  tap : Bool := false
  /-- TAP instruction register, data register and the result of the last completed register access (R472, R473) -/
  ir : Nat := 1
  dr : Nat := 0
  tapData : Nat := 0
  tapStatus : Nat := 0
  /-- the register access that an Update-DR started and that has not completed, as its data register -/
  acc : Option Nat := none
  /-- commands held, oldest first -/
  held : List SpanCmd := []
  bulk : Option Bulk := none
  /-- tag of an ABORT that acts in the next hub cycle (R468) -/
  abort : Option Nat := none
  /-- a MODE is held: frames after it are discarded (R469) -/
  mode : Bool := false
  /-- the port has discarded a header and waits for 8 idle bytes (R462) -/
  resync : Bool := false
  /-- response frames sent in the hub cycle -/
  sent : List (List Byte) := []
  /-- status of the last command answered -/
  status : Nat := 0
  attn : Nat := 0
  msg : Nat := 0
  deriving DecidableEq, Repr, Inhabited

/-! ## A Perch -/

/-- A stall condition of a unit (R294). -/
structure Stall where
  edge : Edge
  context : Nat
  slice : Nat
  since : Nat
  deriving DecidableEq, Repr, Inhabited

/-- The completion of a fence-wait that waits until its unit runs again (R51, R295): sub, waiter, fence, value and whether the fence is in
ERROR. -/
structure Thaw where
  sub : Nat
  waiter : Waiter
  fence : FenceRef
  value : Nat
  lost : Bool
  deriving DecidableEq, Repr, Inhabited

/-- One station's Perch and the state of its units. -/
structure Stn where
  powerGated : Bool := false
  clkGated : Nat := 0
  /-- the timebase copy: whether the start flit has arrived, its lead over the hub-core timebase and what R131 has still
  to remove (positive) or add (negative) -/
  tbOn : Bool := false
  tbLead : Int := 0
  tbErr : Int := 0
  compA : Nat := 0
  compB : Nat := 0
  compRing : Nat := 0
  compDesign : Bool := false
  /-- by sub -/
  gate : SMap Gate := []
  gateTick : Nat := 0
  cap : CapStore := {}
  src : SMap Src := []
  /-- by range: 1 while it is IN (R166) -/
  inRange : SMap Nat := []
  /-- by condition: the hub cycle before which a match is suppressed -/
  holdoff : SMap Nat := []
  reportSeq : Nat := 0
  ord : CycOrd := {}
  peck : Peck := {}
  /-- by sub: stall conditions in the order in which they began; the first is the wait edge -/
  wait : SMap (List Stall) := []
  /-- by sub: the hub cycle, plus 1, in which the edge last changed, and the edge before that cycle (R295) -/
  waitCyc : SMap Nat := []
  waitOld : SMap (List Stall) := []
  thaw : List Thaw := []
  /-- by sub -/
  grain : SMap Grain := []
  /-- the attribution cache (R242) -/
  cache : List Charge := []
  mark : Mark := {}
  deriving DecidableEq, Repr, Inhabited

/-! ## The hub -/

/-- A write of one of the two memories: space 0 Firkin, 1 HBM. -/
structure MemWrite where
  space : Nat
  addr : Nat
  bytes : List Byte
  deriving DecidableEq, Repr, Inhabited

/-- A hub-to-hub message sent by the last command: the link and its 64 bytes. -/
structure Tx where
  link : Nat
  bytes : List Byte
  deriving DecidableEq, Repr, Inhabited

/-- Kinds of item of a Perch's report stream and of its time marks (Table 04.1). -/
inductive ItemKind where
  | trigger | cutReport | waitEdge | resync | timeMark
  deriving DecidableEq, Repr, Inhabited

/-- An item that a Perch emits on source 4 or 5: source ID, sequence number, tick, kind and content (R138, R142, R145). -/
structure Item where
  src : Nat
  seq : Nat
  tick : Nat
  kind : ItemKind
  data : List Nat
  deriving DecidableEq, Repr, Inhabited

/-- The stamp of a message that a link Perch sees sent or received: its station, MSN and tick (R143). -/
structure Stamp where
  station : Nat
  sent : Bool
  msn : Nat
  tick : Nat
  deriving DecidableEq, Repr, Inhabited

/-- The answer that a request of the die is given: the unit and the context that made it, the tag of its command, and the status (R21, R29). -/
structure Reply where
  unit : Nat
  context : Nat
  tag : Nat
  status : Nat
  deriving DecidableEq, Repr, Inhabited

/-- Everything the spec gives the hub but the two memories and the queue. -/
structure Hub where
  clk : Clk := {}
  /-- RW registers: key offset * 4 + master -/
  rw : SMap Nat := []
  /-- RWS registers: key host-window offset; a register at its reset value in all copies is not listed -/
  rws : SMap Rws := []
  /-- RC fields: key (offset * 4 + master) * 32 + low bit -/
  rc : SMap RcCell := []
  /-- each master's latch and staging register (R13 to R15), by master -/
  latch : SMap Nat := []
  stageLo : SMap Nat := []
  resp : SMap Resp := []
  cyc : Cyc := {}
  /-- the highest rank taken in each order of this hub cycle (the model's own record, log entry 1) -/
  turn : SMap Nat := []
  chain : Chain := {}
  er : Er := {}
  sec : Sec := {}
  irq : Irq := {}
  db : Db := {}
  mbx : SMap Mbx := []
  tlm : Tlm := {}
  boot : Boot := {}
  ldr : Ldr := {}
  rst : Rst := {}
  wdog : Wdog := {}
  cal : Cal := {}
  ecc : Ecc := {}
  rail : Rail := {}
  ctx : SMap Ctx := []
  /-- fences of the local package by fence ID -/
  fence : SMap Fence := []
  slc : Slc := {}
  cut : Cut := {}
  trc : Trc := {}
  cnt : Cnt := {}
  hang : Hang := {}
  dmp : Dmp := {}
  ce : Ce := {}
  span : Span := {}
  stn : SMap Stn := []
  /-- clock domains that are gated, one bit each -/
  gated : Nat := 0
  /-- messages firmware owes the host and the board controller after a warm restart (R503, R509) -/
  fwDue : List Nat := []
  /-- hub-to-hub messages sent in the hub cycle (an output; so are the next four fields and `Span.sent`) -/
  tx : List Tx := []
  /-- answers given to requests of the die -/
  reply : List Reply := []
  /-- items of the report streams and time marks emitted, and the stamps of the link messages seen -/
  items : List Item := []
  stamps : List Stamp := []
  /-- messages that a resume or a step has put back into the NoC, in order (R266) -/
  inject : List Inject := []
  /-- draws of free values (the model's own counter, no state of the spec) -/
  free : Nat := 0
  /-- memory writes of the command in progress; empty between commands -/
  out : List MemWrite := []
  deriving DecidableEq, Repr, Inhabited

/-- The Firkin (8 MiB) and the package's HBM, byte by byte; an unlisted byte reads as 0. -/
structure Mem where
  firkin : SMap Byte := []
  /-- the Firkin as it stood before this hub cycle, which a master's read returns (R496) -/
  firkin0 : SMap Byte := []
  hbm : SMap Byte := []
  deriving DecidableEq, Repr, Inhabited

/-- Bytes of the Firkin (Table 10.12). -/
def firkinSize : Nat := 0x800000

/-- Bytes of the package's HBM: 576 GB in 96 channels (Table 01.7). -/
def hbmSize : Nat := 576000000000

/-- The state: the hub, the memories and the queue of commands that wait, first in, first out. -/
structure State where
  hub : Hub
  mem : Mem
  pending : List Instr
  deriving DecidableEq, Repr, Inhabited

/-- The canonical form of the two memories, within their sizes. -/
def Mem.wf (m : Mem) : Bool :=
  SMap.wf (0 : Byte) m.firkin && SMap.wf (0 : Byte) m.firkin0 && SMap.wf (0 : Byte) m.hbm
    && m.firkin.all (fun c => decide (c.1 < firkinSize)) && m.firkin0.all (fun c => decide (c.1 < firkinSize)) && m.hbm.all (fun c => decide (c.1 < hbmSize))

/-- Reasons a step stops with a fault. The spec describes no condition that stops the hub: every command has an effect. -/
inductive Fault where
  /-- Raised by no command and by no step. Safe: it cannot occur. -/
  | none_
  deriving DecidableEq, Repr

/-- Reasons a step refuses a command. -/
inductive Refusal where
  /-- Raised by the arm of a command that has no meaning yet, named by its mnemonic. Safe: no claim about it can be proved. -/
  | notModelled (mnemonic : String)
  deriving DecidableEq, Repr

/-- The hub right after the cold-reset input has fallen with the island supplied: every register at its reset value (Tables
of chapters 02 to 18), bring-up in RESET, nothing stored. -/
def State.reset : State := { hub := {}, mem := {}, pending := [] }

end Sys2Proof.Machine
end

