-- ==== Sys2Proof/Machine/Operands.lean ====
section
/-!
DEFINITION. Machine/Operands.lean: the names of the die (chapter 01): stations, units, classes, domains, fence IDs, package
addresses, and the status codes of every chapter.
-/
namespace Sys2Proof

/-! ## Masters -/

/-- The number of a master in the order of R17. -/
def Master.idx : Master → Nat
  | .pair => 0
  | .loader => 1
  | .host => 2
  | .span => 3

/-- The origin code of a master in an event record (Table 12.1): 1 controller pair, 2 host window, 3 Span port, 4 loader; 0 is
hub hardware. -/
def Master.origin : Master → Nat
  | .pair => 1
  | .loader => 4
  | .host => 2
  | .span => 3

/-- Kind of an operation in the bit order of R163. -/
def RmoOp.code : RmoOp → Nat
  | .get => 0 | .put => 1 | .atomic => 2 | .fenceSignal => 3 | .fenceWait => 4

end Sys2Proof

namespace Sys2Proof.Machine

/-! ## Status codes, as each chapter allocates them (R21, R22, R29, R79, R147, R307, R346, R375) -/

def stOk : Nat := 0x0000
def stDenied : Nat := 0x0001
def stFull : Nat := 0x0002
def stPartial : Nat := 0x0003
def stLost : Nat := 0x0004
def stBusy : Nat := 0x0005
def stBadsig : Nat := 0x0006
def stAborted : Nat := 0x0007
def stTimeout : Nat := 0x0008
def stUnobserved : Nat := 0x0009
def stNounit : Nat := 0x0100
def stNocontext : Nat := 0x0101
def stBadfence : Nat := 0x0102
def stNoslice : Nat := 0x0200
def stExpired : Nat := 0x0201
def stBuPll : Nat := 0x0300
def stBuSelftest : Nat := 0x0301
def stBuChain : Nat := 0x0302
def stAszFormat : Nat := 0x0303
def stAszMissing : Nat := 0x0304
def stAszKey : Nat := 0x0305
def stAszIdent : Nat := 0x0306
def stAszTun : Nat := 0x0307
def stAszWrite : Nat := 0x0308
def stAszVersion : Nat := 0x0309
def stBuHbm : Nat := 0x030A
def stBuLockstep : Nat := 0x030B
def stTimRange : Nat := 0x0400
def stTrcLayout : Nat := 0x0600
def stTrcRing : Nat := 0x0601
def stCntRing : Nat := 0x0700
def stCutLate : Nat := 0x0800
def stCutNotstopped : Nat := 0x0801
def stCutBench : Nat := 0x0802
def stWfgTrunc : Nat := 0x0900
def stWfgNopeer : Nat := 0x0901
def stDmpNotstopped : Nat := 0x0A00
def stDmpOmitted : Nat := 0x0A01
def stDmpNotun : Nat := 0x0A02
def stDmpBadwatch : Nat := 0x0A03
def stCeFormat : Nat := 0x0B00
def stCeCrc : Nat := 0x0B01
def stCeCheck : Nat := 0x0B02
def stCeRange : Nat := 0x0B03
def stErNocursor : Nat := 0x0C00
def stErClass : Nat := 0x0C01
def stSecFormat : Nat := 0x0D00
def stSecNonce : Nat := 0x0D01
def stSecOwner : Nat := 0x0D02
def stSecStale : Nat := 0x0D03
def stSlcPasid : Nat := 0x0E00
def stSlcExtent : Nat := 0x0E01
def stSlcDisplaced : Nat := 0x0E02
def stSlcState : Nat := 0x0E03
def stSpnCrc : Nat := 0x0F00
def stSpnCmd : Nat := 0x0F01
def stSpnRange : Nat := 0x0F02
def stSpnNopath : Nat := 0x0F03
def stHostMbxlen : Nat := 0x1000
def stTlmIndex : Nat := 0x1001
def stTlmNosource : Nat := 0x1002
def stHubEcc : Nat := 0x1200
def stHubNonoc : Nat := 0x1201

/-! ## Stations and units (R25 to R28) -/

/-- Class of a station: 0 tile, 1 memory, 2 link, 3 router, 4 shared engine (Table 01.1). -/
def stnClass (s : Nat) : Nat :=
  if s < 1024 then 0 else if s < 1072 then 1 else if s < 1104 then 2 else if s < 1168 then 3 else 4

/-- Stations of the die. -/
def stationCount : Nat := 1184

/-- A station ID that names a Perch (R26). -/
def stnOk (s : Nat) : Bool := decide (s < stationCount)

/-- Valid subs of a station as a mask (Table 01.1, R89). -/
def subValid (s : Nat) : Nat :=
  if stnOk s then (match stnClass s with | 0 => 0xFF | 1 => 0x03 | _ => 0x01) else 0

/-- Number of valid subs of a station. -/
def subCount (s : Nat) : Nat :=
  if stnOk s then (match stnClass s with | 0 => 8 | 1 => 2 | _ => 1) else 0

/-- Station of a unit number. -/
def unitStn (u : Nat) : Nat := u / 8

/-- Sub of a unit number. -/
def unitSub (u : Nat) : Nat := u % 8

/-- A valid unit number (R26). -/
def unitOk (u : Nat) : Bool := decide (unitSub u < subCount (unitStn u))

/-- The value "no unit" (R26). -/
def noUnit : Nat := 0x3FFF

/-- Valid units of a station, ascending. -/
def stnUnits (s : Nat) : List Nat := (List.range (subCount s)).map fun k => s * 8 + k

/-- Unit class code (Table 01.3). -/
def unitClass (u : Nat) : Nat :=
  match stnClass (unitStn u) with
  | 0 => if unitSub u = 0 then 0 else if unitSub u = 1 then 1 else if unitSub u < 6 then 2 else 3
  | 1 => 4
  | 2 => 5
  | 3 => 6
  | _ => 7

/-- A tile unit. -/
def isTileUnit (u : Nat) : Bool := decide (unitStn u < 1024)

/-- A unit that issues operations and stops in a cut as a compute unit: array, vector unit, scalar core or DMA engine. -/
def isScalar (u : Nat) : Bool := decide (unitClass u = 2)

/-- Every valid unit, ascending. -/
def allUnits : List Nat := (List.range stationCount).flatMap stnUnits

/-- Every station, ascending. -/
def allStations : List Nat := List.range stationCount

/-- Chain segment and position of a station (Table 01.2). -/
def stnSeg (s : Nat) : Nat := s / 74
def stnPos (s : Nat) : Nat := s % 74

/-- Clock domain of a unit (Table 01.10). -/
def unitDomain (u : Nat) : Nat :=
  let s := unitStn u
  match stnClass s with
  | 0 => s / 64
  | 1 => if (s - 1024) * 2 + unitSub u < 48 then 22 else 23
  | 2 => 24
  | 3 => 16 + (s - 1104) / 16
  | _ => 16 + (s - 1168) / 4

/-- A clock domain that can be gated (Table 01.10). -/
def domainGateable (d : Nat) : Bool := decide (d < 28) && decide (d ≠ 20) && decide (d ≠ 21) && decide (d ≠ 27)

/-- Station of shared engine `e` (Table 01.2) and its unit. -/
def engineStn (e : Nat) : Nat := 1168 + e
def engineUnit (e : Nat) : Nat := engineStn e * 8

/-- Station of link `l` and its unit. -/
def linkStn (l : Nat) : Nat := 1072 + l
def linkUnit (l : Nat) : Nat := linkStn l * 8

/-- Channels of the HBM that hold a level-2 offset (R521). -/
def hbmChannel (o : Nat) : Nat := 8 * (o / 48000000000) + (o % 48000000000 / 4096) % 8

/-! ## Addresses and fences (R40 to R43) -/

/-- Package index of an address (R40). -/
def addrPkg (a : Nat) : Nat := field a 63 54

/-- Address within its package. -/
def addrOff (a : Nat) : Nat := field a 53 0

/-- Scope bit of a fence ID: exported (Table 01.8). -/
def fenceExported (id : Nat) : Bool := bit id 31

/-- Owner unit of a private fence ID. -/
def fenceOwner (id : Nat) : Nat := field id 30 17

/-- Export index of an exported fence ID. -/
def fenceIndex (id : Nat) : Nat := field id 15 0

/-- A well-formed fence ID (R43). -/
def fenceIdOk (id : Nat) : Bool :=
  decide (id < 2 ^ 32) && (if fenceExported id then decide (field id 30 16 = 0) else unitOk (fenceOwner id))

/-- An exported fence ID of an export index. -/
def exportId (i : Nat) : Nat := 2 ^ 31 + i

/-! ## Node IDs of the graph (Table 09.3) -/

/-- Node ID of kind `k` in package `p`. -/
def nodeId (k p v : Nat) : Nat := k * 2 ^ 60 + p * 2 ^ 50 + v

end Sys2Proof.Machine
end

