-- ==== Sys2Proof/Machine/RegTable.lean ====
section
/-!
DEFINITION. Machine/RegTable.lean: the register index of Tables 17.3 and 17.4 (R495 to R498): every register family with
its offset, stride and member count, whether it is a _LO/_HI pair (R13), its access kind (R10), whether each master has its
own copy (R497), who may read and write it (Table 13.3, R412), its writable bits and its reset value.
-/
namespace Sys2Proof.Machine

/-- The register families of the hub blocks and of the Perch slot; a pair is one family. -/
inductive Fam where
  | hubId
  | hubEpoch
  | hubCommit
  | hubCommitStatus
  | hubCommitEpoch
  | hubChainStatus
  | hubClkStatus
  | hubStnSel
  | hubStnState
  | hubChwin
  | hubChwinStatus
  | hubPkg
  | hubBootStatus
  | hubAszCtrl
  | hubAszStatus
  | hubAszData
  | hubAszCount
  | hubAszResult
  | hubDieId
  | hubRestart
  | hubRestartStatus
  | hubFwReady
  | hubWdogKick
  | hubWdogStatus
  | hubFirkinKeep
  | hubHangCfg
  | hubHangPeriod
  | hubHangMask
  | hubScan
  | hubScanStatus
  | hubScanSeq
  | hubVerdict
  | hubVerdictStat
  | hubCtxSel
  | hubCtxState
  | hubCtxProgress
  | hubWfgStatus
  | hubWfgCut
  | hubWfgEdges
  | hubIrqStatus
  | hubIrqEn
  | hubIrqTunlow
  | hubHostDb
  | hubHostDbStat
  | hubHostDbPop
  | hubFwDb
  | hubFwDbCode
  | hubMbxCtl
  | hubMbxStatus
  | hubMbxRlen
  | hubMbxWdata
  | hubMbxRdata
  | hubEccCnt
  | hubEccLast
  | hubEccWord
  | hubRail
  | hubRailTick
  | msixTable
  | msixPba
  | timNow
  | timCalNow
  | timCalTick
  | timCalValue
  | timCalStatus
  | timCalGen
  | timCalOffset
  | timFallbackTick
  | timMarkCtrl
  | timSkewStatus
  | secStatus
  | secCmd
  | secCmdStatus
  | secNonce
  | secSliceSel
  | secSliceState
  | secSliceKeyid
  | secKeyout
  | secSliceEpub
  | secBuf
  | cutReq
  | cutTick
  | cutStatus
  | cutId
  | cutResult0
  | cutResult1
  | cutExcl
  | cutDone
  | cutResume
  | cutStep
  | cutStepUnit
  | cutStepTmo
  | cutBench
  | cutLead
  | cutXlead
  | cutXresult
  | cutDstate
  | cutSstate
  | cutSpol
  | dmpReq
  | dmpCtx
  | dmpStatus
  | dmpObj
  | dmpProg
  | dmpTunBase
  | dmpTunSize
  | dmpTunWr
  | dmpTunDone
  | dmpTunRd
  | dmpTunStat
  | dmpWcancel
  | dmpSpol
  | dmpTtab
  | dmpTtabCnt
  | dmpWCtl
  | dmpWName
  | dmpWTag
  | dmpWTagmask
  | dmpWOcc
  | dmpWHist
  | dmpWAddr
  | dmpWLen
  | dmpWStat
  | dmpWFired
  | dmpWDone
  | dmpWObj
  | ceCtl
  | ceState
  | ceIn
  | ceOut
  | ceBlocks
  | ceRaw
  | ceVfailLast
  | ceVfailTick
  | ceJobSrc
  | ceJobDst
  | ceJobLen
  | ceJobLimit
  | ceJobCmd
  | ceJobStatus
  | ceJobIn
  | ceJobOut
  | ceJobFail
  | erCtrl
  | erStatus
  | erSeq
  | erHead
  | erLost
  | erSyslost
  | erCursor
  | erCursorStatus
  | erFwCmd
  | erFwStatus
  | erMxsnap
  | erAuditHead
  | erAuditCnt
  | erAuditGap
  | erSpillWr
  | erSpillRd
  | erSpillStat
  | erWin
  | erFwBuf
  | erSet0
  | erSet1
  | erSet2
  | erSet3
  | erSet4
  | erSet5
  | erSet6
  | erSet7
  | cntCtrl
  | cntStatus
  | cntSeq
  | cntRingCtl
  | cntRingBase
  | cntRingWr
  | cntRingRd
  | cntRingStat
  | attCtrl
  | attStatus
  | attExport
  | attSquota
  | attSused
  | attSovf
  | trcCtrl
  | trcTrgCount
  | trcTrgLast
  | trcDrain
  | trcDrainStat
  | trcGrpRange
  | trcGrpSel
  | trcMxMatch
  | trcMxAct
  | trcSpol
  | trcRingCtl
  | trcRingBase
  | trcRingWr
  | trcRingRd
  | trcRingStat
  | spnStatus
  | spnAttn
  | spnAttnEn
  | spnAttnSet
  | spnMsg
  | spnErr
  | tlmQuery
  | tlmStatus
  | tlmRes
  | tlmResTick
  | tlmAlert
  | tlmAlertStat
  | slcCmd
  | slcPasid
  | slcCmdStatus
  | slcCtxCmd
  | slcCtxId
  | slcCtxStatus
  | slcExpCmd
  | slcExpStatus
  | slcUse
  | slcExpUse
  | slcEvents
  | slcMoveStat
  | slcHdr
  | slcEPasid
  | slcCreated
  | slcUnits
  | slcCtx
  | slcCtxquota
  | slcCounts
  | slcExt0
  | slcExt1
  | slcExt2
  | slcExt3
  | slcShare0
  | slcShare
  | slcStatus
  | slcReset
  | slcUmap
  | pchId
  | pchStatus
  | pchTick
  | pchComp
  | pchGrainCfg
  | pchGrainStat
  | pchGrain
  | pchTmarkPeer
  | pchTmarkRxPeer
  | pchTmarkRxLocal
  | pchTmarkTx
  | pchTmarkEchoTx
  | pchTmarkEchoRx
  | pchTsrcCfg
  | pchTsrcSel
  | pchTcmpCtl
  | pchTcmpVal
  | pchTrngCtl
  | pchTrngBase
  | pchTrngLimit
  | pchTrg
  | pchTrgTag
  | pchTrgTagmask
  | pchTrgFire
  | pchTrgStat
  | pchTstate
  | pchPeckCfg
  | pchPeckPart
  | pchPeckCtl
  | pchPeckState
  | pchPeckFill
  | pchPeckLost
  | pchPeckRsv
  | pchGate
  | pchGateTick
  | pchCapStat
  | pchCapLate
  | pchWaitCtl
  | pchWaitCtx
  | pchWaitObj
  | pchWaitArg
  | pchWaitSince
  deriving DecidableEq, Repr

/-- How a register answers an access (Table 00.7). -/
inductive Kind where
  /-- Computed when read; a write is ignored. RC fields of it are cleared by the read. -/
  | ro
  /-- Holds the last value written. -/
  | rw
  /-- Shadow, staged and active copies (R64). -/
  | rws
  /-- A write performs the action of its WO or W1C fields; a read is computed. -/
  | act
  deriving DecidableEq, Repr

/-- Who may read a register (Table 13.3). -/
inductive RdRight where
  | any | glob | tun | er | spill | ecc | pair | mbx | msix
  deriving DecidableEq, Repr

/-- Who may write a register (Table 13.3 and the register's own chapter). -/
inductive WrRight where
  | none | any | glob | oper | cfg | omp | om | pair | spol | tun | keep | asz | restart | bench | attn | seccmd | er
  | mbx | msix | trcctl | cectl
  deriving DecidableEq, Repr

/-- The classes of Perch whose slot holds a register (Table 17.4). -/
inductive PClass where
  /-- Every Perch. -/
  | all
  /-- Tile Perches. -/
  | tile
  /-- Link Perches. -/
  | link
  /-- Router and link Perches. -/
  | cap
  /-- Every Perch, one member for each valid sub. -/
  | sub1
  /-- Every Perch, eight members for each valid sub. -/
  | sub8
  deriving DecidableEq, Repr

/-- One row of the register index. `base` is the host-window offset, or the slot offset in the Perch table. -/
structure RegRow where
  fam : Fam
  base : Nat
  stride : Nat
  n : Nat
  pair : Bool
  kind : Kind
  own : Bool
  cls : PClass
  rd : RdRight
  wr : WrRight
  mask : Nat
  reset : Nat
  deriving DecidableEq, Repr

/-- Registers of block HUB_ (Table 17.3). -/
def rowsHub : List RegRow := [
  ⟨.hubId, 0, 4, 1, false, .ro, false, .all, .any, .none, 0, 0⟩,
  ⟨.hubEpoch, 8, 8, 1, true, .ro, false, .all, .glob, .none, 0, 0⟩,
  ⟨.hubCommit, 0x20, 4, 1, false, .act, false, .all, .glob, .cfg, 0, 0⟩,
  ⟨.hubCommitStatus, 0x24, 4, 1, false, .ro, true, .all, .any, .none, 0, 0⟩,
  ⟨.hubCommitEpoch, 0x28, 4, 1, false, .ro, true, .all, .any, .none, 0, 0⟩,
  ⟨.hubChainStatus, 0x30, 4, 1, false, .ro, false, .all, .glob, .none, 0, 0⟩,
  ⟨.hubClkStatus, 0x34, 4, 1, false, .act, false, .all, .any, .glob, 0, 0⟩,
  ⟨.hubStnSel, 0x38, 4, 1, false, .rw, true, .all, .glob, .glob, 0x7ff, 0⟩,
  ⟨.hubStnState, 0x3c, 4, 1, false, .ro, false, .all, .glob, .none, 0, 0⟩,
  ⟨.hubChwin, 0x40, 4, 1, false, .act, true, .all, .glob, .cfg, 0, 0⟩,
  ⟨.hubChwinStatus, 0x44, 4, 1, false, .ro, true, .all, .any, .none, 0, 0⟩,
  ⟨.hubPkg, 0x50, 4, 1, false, .ro, false, .all, .glob, .none, 0, 0⟩,
  ⟨.hubBootStatus, 0x60, 4, 1, false, .ro, false, .all, .any, .none, 0, 0⟩,
  ⟨.hubAszCtrl, 0x64, 4, 1, false, .act, false, .all, .glob, .asz, 0, 0⟩,
  ⟨.hubAszStatus, 0x68, 4, 1, false, .ro, false, .all, .any, .none, 0, 0⟩,
  ⟨.hubAszData, 0x6c, 4, 1, false, .act, false, .all, .glob, .any, 0, 0⟩,
  ⟨.hubAszCount, 0x70, 4, 1, false, .ro, false, .all, .any, .none, 0, 0⟩,
  ⟨.hubAszResult, 0x74, 4, 1, false, .ro, true, .all, .any, .none, 0, 0⟩,
  ⟨.hubDieId, 0x80, 4, 4, false, .ro, false, .all, .any, .none, 0, 0⟩,
  ⟨.hubRestart, 0x90, 4, 1, false, .act, false, .all, .glob, .restart, 0, 0⟩,
  ⟨.hubRestartStatus, 0x94, 4, 1, false, .ro, false, .all, .any, .none, 0, 0⟩,
  ⟨.hubFwReady, 0x98, 4, 1, false, .act, false, .all, .glob, .pair, 0, 0⟩,
  ⟨.hubWdogKick, 0x9c, 4, 1, false, .act, false, .all, .glob, .pair, 0, 0⟩,
  ⟨.hubWdogStatus, 0xa0, 4, 1, false, .act, false, .all, .glob, .glob, 0, 0⟩,
  ⟨.hubFirkinKeep, 0xa4, 4, 1, false, .act, false, .all, .any, .keep, 0, 0⟩,
  ⟨.hubHangCfg, 0x100, 4, 1, false, .rws, false, .all, .glob, .oper, 0xe000ffff, 0x800000fa⟩,
  ⟨.hubHangPeriod, 0x104, 4, 1, false, .rws, false, .all, .glob, .oper, 0xfffff, 0x3e8⟩,
  ⟨.hubHangMask, 0x108, 8, 1, true, .rws, false, .all, .glob, .oper, 0xffffffffffffffff, 0xffffffffffffffff⟩,
  ⟨.hubScan, 0x110, 4, 1, false, .act, false, .all, .glob, .pair, 0, 0⟩,
  ⟨.hubScanStatus, 0x114, 4, 1, false, .ro, false, .all, .glob, .none, 0, 0⟩,
  ⟨.hubScanSeq, 0x118, 4, 1, false, .ro, false, .all, .glob, .none, 0, 0⟩,
  ⟨.hubVerdict, 0x120, 4, 1, false, .act, false, .all, .glob, .none, 0, 0⟩,
  ⟨.hubVerdictStat, 0x124, 4, 1, false, .ro, false, .all, .glob, .none, 0, 0⟩,
  ⟨.hubCtxSel, 0x130, 4, 1, false, .rw, true, .all, .glob, .glob, 0x3ffff, 0⟩,
  ⟨.hubCtxState, 0x134, 4, 1, false, .ro, false, .all, .glob, .none, 0, 0⟩,
  ⟨.hubCtxProgress, 0x138, 4, 1, false, .ro, false, .all, .glob, .none, 0, 0⟩,
  ⟨.hubWfgStatus, 0x140, 4, 1, false, .rw, false, .all, .glob, .pair, 0xc000ffff, 0⟩,
  ⟨.hubWfgCut, 0x144, 4, 1, false, .ro, false, .all, .glob, .none, 0, 0⟩,
  ⟨.hubWfgEdges, 0x148, 4, 1, false, .ro, false, .all, .glob, .none, 0, 0⟩,
  ⟨.hubIrqStatus, 0x200, 4, 1, false, .act, false, .all, .glob, .om, 0, 0⟩,
  ⟨.hubIrqEn, 0x204, 4, 1, false, .act, false, .all, .glob, .om, 0, 0⟩,
  ⟨.hubIrqTunlow, 0x208, 4, 1, false, .rw, false, .all, .glob, .om, 0xffff, 0x40⟩,
  ⟨.hubHostDb, 0x210, 4, 1, false, .act, false, .all, .glob, .om, 0, 0⟩,
  ⟨.hubHostDbStat, 0x214, 4, 1, false, .ro, false, .all, .glob, .none, 0, 0⟩,
  ⟨.hubHostDbPop, 0x218, 4, 1, false, .act, false, .all, .pair, .none, 0, 0⟩,
  ⟨.hubFwDb, 0x21c, 4, 1, false, .act, false, .all, .glob, .pair, 0, 0⟩,
  ⟨.hubFwDbCode, 0x220, 4, 1, false, .ro, false, .all, .glob, .none, 0, 0⟩,
  ⟨.hubMbxCtl, 0x240, 4, 1, false, .act, true, .all, .mbx, .mbx, 0, 0⟩,
  ⟨.hubMbxStatus, 0x244, 4, 1, false, .ro, true, .all, .mbx, .none, 0, 0⟩,
  ⟨.hubMbxRlen, 0x248, 4, 1, false, .ro, true, .all, .mbx, .none, 0, 0⟩,
  ⟨.hubMbxWdata, 0x24c, 4, 1, false, .act, true, .all, .mbx, .mbx, 0, 0⟩,
  ⟨.hubMbxRdata, 0x250, 4, 1, false, .act, true, .all, .mbx, .none, 0, 0⟩,
  ⟨.hubEccCnt, 0x300, 4, 8, false, .ro, false, .all, .ecc, .none, 0, 0⟩,
  ⟨.hubEccLast, 0x320, 4, 1, false, .ro, false, .all, .ecc, .none, 0, 0⟩,
  ⟨.hubEccWord, 0x324, 4, 1, false, .ro, false, .all, .ecc, .none, 0, 0⟩,
  ⟨.hubRail, 0x328, 4, 1, false, .ro, false, .all, .ecc, .none, 0, 0⟩,
  ⟨.hubRailTick, 0x32c, 8, 1, true, .ro, false, .all, .ecc, .none, 0, 0⟩,
  ⟨.msixTable, 0x400, 4, 64, false, .act, false, .all, .msix, .msix, 0, 0⟩,
  ⟨.msixPba, 0x500, 4, 2, false, .ro, false, .all, .msix, .none, 0, 0⟩]

/-- Registers of block TIM_ (Table 17.3). -/
def rowsTim : List RegRow := [
  ⟨.timNow, 0x10000, 8, 1, true, .ro, false, .all, .glob, .none, 0, 0⟩,
  ⟨.timCalNow, 0x10008, 8, 1, true, .ro, false, .all, .glob, .none, 0, 0⟩,
  ⟨.timCalTick, 0x10010, 8, 1, true, .rw, false, .all, .glob, .oper, 0xffffffffffffffff, 0⟩,
  ⟨.timCalValue, 0x10018, 8, 1, true, .rw, false, .all, .glob, .oper, 0xffffffffffffffff, 0⟩,
  ⟨.timCalStatus, 0x10020, 4, 1, false, .ro, false, .all, .glob, .none, 0, 0⟩,
  ⟨.timCalGen, 0x10024, 4, 1, false, .ro, false, .all, .glob, .none, 0, 0⟩,
  ⟨.timCalOffset, 0x10028, 8, 1, true, .ro, false, .all, .glob, .none, 0, 0⟩,
  ⟨.timFallbackTick, 0x10030, 8, 1, true, .ro, false, .all, .glob, .none, 0, 0⟩,
  ⟨.timMarkCtrl, 0x10038, 4, 1, false, .rw, false, .all, .glob, .oper, 0x8000001f, 0x80000014⟩,
  ⟨.timSkewStatus, 0x1003c, 4, 1, false, .ro, false, .all, .glob, .none, 0, 0⟩]

/-- Registers of block SEC_ (Table 17.3). -/
def rowsSec : List RegRow := [
  ⟨.secStatus, 0x20000, 4, 1, false, .ro, true, .all, .any, .none, 0, 0⟩,
  ⟨.secCmd, 0x20004, 4, 1, false, .act, true, .all, .any, .seccmd, 0, 0⟩,
  ⟨.secCmdStatus, 0x20008, 4, 1, false, .ro, true, .all, .any, .none, 0, 0⟩,
  ⟨.secNonce, 0x20010, 4, 4, false, .ro, true, .all, .any, .none, 0, 0⟩,
  ⟨.secSliceSel, 0x20020, 4, 1, false, .rw, true, .all, .any, .any, 0x3f, 0⟩,
  ⟨.secSliceState, 0x20024, 4, 1, false, .ro, false, .all, .any, .none, 0, 0⟩,
  ⟨.secSliceKeyid, 0x20028, 8, 1, true, .ro, false, .all, .any, .none, 0, 0⟩,
  ⟨.secKeyout, 0x20040, 4, 8, false, .act, true, .all, .any, .none, 0, 0⟩,
  ⟨.secSliceEpub, 0x20100, 4, 24, false, .ro, false, .all, .any, .none, 0, 0⟩,
  ⟨.secBuf, 0x20400, 4, 64, false, .act, true, .all, .any, .seccmd, 0, 0⟩]

/-- Registers of block CUT_ (Table 17.3). -/
def rowsCut : List RegRow := [
  ⟨.cutReq, 0x30000, 4, 1, false, .act, false, .all, .glob, .omp, 0, 0⟩,
  ⟨.cutTick, 0x30004, 8, 1, true, .rw, true, .all, .glob, .omp, 0xffffffffffffffff, 0⟩,
  ⟨.cutStatus, 0x3000c, 4, 1, false, .ro, true, .all, .any, .none, 0, 0⟩,
  ⟨.cutId, 0x30010, 4, 1, false, .ro, true, .all, .any, .none, 0, 0⟩,
  ⟨.cutResult0, 0x30014, 4, 1, false, .ro, false, .all, .glob, .none, 0, 0⟩,
  ⟨.cutResult1, 0x30018, 4, 1, false, .ro, false, .all, .glob, .none, 0, 0⟩,
  ⟨.cutExcl, 0x3001c, 8, 1, true, .ro, false, .all, .glob, .none, 0, 0⟩,
  ⟨.cutDone, 0x30024, 8, 1, true, .ro, false, .all, .glob, .none, 0, 0⟩,
  ⟨.cutResume, 0x30030, 4, 1, false, .act, false, .all, .glob, .omp, 0, 0⟩,
  ⟨.cutStep, 0x30040, 4, 1, false, .act, false, .all, .glob, .omp, 0, 0⟩,
  ⟨.cutStepUnit, 0x30044, 4, 1, false, .rw, false, .all, .glob, .omp, 0x3fff, 0⟩,
  ⟨.cutStepTmo, 0x30048, 4, 1, false, .rw, false, .all, .glob, .omp, 0xffffff, 0x3e8⟩,
  ⟨.cutBench, 0x30050, 4, 1, false, .act, false, .all, .glob, .bench, 0, 0⟩,
  ⟨.cutLead, 0x30054, 4, 1, false, .rw, false, .all, .glob, .oper, 0xfffff, 0x400⟩,
  ⟨.cutXlead, 0x30058, 4, 1, false, .rw, false, .all, .glob, .oper, 0xffffffff, 0x3e810000⟩,
  ⟨.cutXresult, 0x3005c, 4, 1, false, .ro, false, .all, .glob, .none, 0, 0⟩,
  ⟨.cutDstate, 0x300fc, 4, 1, false, .ro, false, .all, .glob, .none, 0, 0⟩,
  ⟨.cutSstate, 0x30100, 4, 64, false, .ro, false, .all, .glob, .none, 0, 0⟩,
  ⟨.cutSpol, 0x31000, 4, 64, false, .rws, false, .all, .glob, .spol, 3, 0⟩]

/-- Registers of block DMP_ (Table 17.3). -/
def rowsDmp : List RegRow := [
  ⟨.dmpReq, 0x40000, 4, 1, false, .act, false, .all, .glob, .omp, 0, 0⟩,
  ⟨.dmpCtx, 0x40004, 4, 1, false, .rw, true, .all, .glob, .omp, 0x3ffff, 0⟩,
  ⟨.dmpStatus, 0x40008, 4, 1, false, .ro, true, .all, .any, .none, 0, 0⟩,
  ⟨.dmpObj, 0x4000c, 4, 1, false, .ro, true, .all, .any, .none, 0, 0⟩,
  ⟨.dmpProg, 0x40010, 8, 1, true, .ro, false, .all, .glob, .none, 0, 0⟩,
  ⟨.dmpTunBase, 0x40020, 8, 1, true, .ro, false, .all, .tun, .none, 0, 0⟩,
  ⟨.dmpTunSize, 0x40028, 8, 1, true, .ro, false, .all, .tun, .none, 0, 0⟩,
  ⟨.dmpTunWr, 0x40030, 8, 1, true, .ro, false, .all, .tun, .none, 0, 0⟩,
  ⟨.dmpTunDone, 0x40038, 8, 1, true, .ro, false, .all, .tun, .none, 0, 0⟩,
  ⟨.dmpTunRd, 0x40040, 8, 1, true, .act, false, .all, .tun, .tun, 0, 0⟩,
  ⟨.dmpTunStat, 0x40048, 4, 1, false, .ro, false, .all, .tun, .none, 0, 0⟩,
  ⟨.dmpWcancel, 0x4004c, 4, 1, false, .act, false, .all, .glob, .omp, 0, 0⟩,
  ⟨.dmpSpol, 0x40100, 4, 64, false, .rws, false, .all, .glob, .spol, 0xc00003fe, 0⟩,
  ⟨.dmpTtab, 0x41000, 0x10, 64, true, .rw, false, .all, .glob, .oper, 0xffffffffffffffff, 0⟩,
  ⟨.dmpTtabCnt, 0x41008, 0x10, 64, false, .rw, false, .all, .glob, .oper, 0x1fff, 0⟩,
  ⟨.dmpWCtl, 0x42000, 0x40, 128, false, .rws, false, .all, .glob, .spol, 0xffffffff, 0⟩,
  ⟨.dmpWName, 0x42004, 0x40, 128, false, .rws, false, .all, .glob, .spol, 0xffffffff, 0⟩,
  ⟨.dmpWTag, 0x42008, 0x40, 128, false, .rws, false, .all, .glob, .spol, 0xffffffff, 0⟩,
  ⟨.dmpWTagmask, 0x4200c, 0x40, 128, false, .rws, false, .all, .glob, .spol, 0xffffffff, 0⟩,
  ⟨.dmpWOcc, 0x42010, 0x40, 128, false, .rws, false, .all, .glob, .spol, 0xffffffff, 1⟩,
  ⟨.dmpWHist, 0x42014, 0x40, 128, false, .rws, false, .all, .glob, .spol, 0xffff, 0x100⟩,
  ⟨.dmpWAddr, 0x42018, 0x40, 128, true, .rws, false, .all, .glob, .spol, 0xffffffffffffffff, 0⟩,
  ⟨.dmpWLen, 0x42020, 0x40, 128, true, .rws, false, .all, .glob, .spol, 0xffffffffffffffff, 0⟩,
  ⟨.dmpWStat, 0x42028, 0x40, 128, false, .ro, false, .all, .glob, .none, 0, 0⟩,
  ⟨.dmpWFired, 0x4202c, 0x40, 128, false, .ro, false, .all, .glob, .none, 0, 0⟩,
  ⟨.dmpWDone, 0x42030, 0x40, 128, true, .ro, false, .all, .glob, .none, 0, 0⟩,
  ⟨.dmpWObj, 0x42038, 0x40, 128, false, .ro, false, .all, .glob, .none, 0, 0⟩]

/-- Registers of block CE_ (Table 17.3). -/
def rowsCe : List RegRow := [
  ⟨.ceCtl, 0x50000, 0x4000, 4, false, .rws, false, .all, .glob, .cectl, 0xc0000000, 0x80000000⟩,
  ⟨.ceState, 0x50004, 0x4000, 4, false, .ro, false, .all, .glob, .none, 0, 0⟩,
  ⟨.ceIn, 0x50008, 0x4000, 4, true, .ro, false, .all, .glob, .none, 0, 0⟩,
  ⟨.ceOut, 0x50010, 0x4000, 4, true, .ro, false, .all, .glob, .none, 0, 0⟩,
  ⟨.ceBlocks, 0x50018, 0x4000, 4, false, .ro, false, .all, .glob, .none, 0, 0⟩,
  ⟨.ceRaw, 0x5001c, 0x4000, 4, false, .ro, false, .all, .glob, .none, 0, 0⟩,
  ⟨.ceVfailLast, 0x50020, 0x4000, 4, false, .ro, false, .all, .glob, .none, 0, 0⟩,
  ⟨.ceVfailTick, 0x50024, 0x4000, 4, true, .ro, false, .all, .glob, .none, 0, 0⟩,
  ⟨.ceJobSrc, 0x50100, 0x4000, 4, true, .rw, true, .all, .glob, .omp, 0xffffffffffffffff, 0⟩,
  ⟨.ceJobDst, 0x50108, 0x4000, 4, true, .rw, true, .all, .glob, .omp, 0xffffffffffffffff, 0⟩,
  ⟨.ceJobLen, 0x50110, 0x4000, 4, false, .rw, true, .all, .glob, .omp, 0x1fffff, 0⟩,
  ⟨.ceJobLimit, 0x50114, 0x4000, 4, false, .rw, true, .all, .glob, .omp, 0x1ffffff, 0⟩,
  ⟨.ceJobCmd, 0x50118, 0x4000, 4, false, .act, true, .all, .glob, .omp, 0, 0⟩,
  ⟨.ceJobStatus, 0x5011c, 0x4000, 4, false, .ro, true, .all, .any, .none, 0, 0⟩,
  ⟨.ceJobIn, 0x50120, 0x4000, 4, false, .ro, true, .all, .any, .none, 0, 0⟩,
  ⟨.ceJobOut, 0x50124, 0x4000, 4, false, .ro, true, .all, .any, .none, 0, 0⟩,
  ⟨.ceJobFail, 0x50128, 0x4000, 4, false, .ro, true, .all, .any, .none, 0, 0⟩]

/-- Registers of block ER_ (Table 17.3). -/
def rowsEr : List RegRow := [
  ⟨.erCtrl, 0x60000, 4, 1, false, .rws, false, .all, .er, .oper, 0x6a, 0x1fe⟩,
  ⟨.erStatus, 0x60004, 4, 1, false, .ro, false, .all, .er, .none, 0, 0⟩,
  ⟨.erSeq, 0x60008, 4, 1, false, .ro, false, .all, .er, .none, 0, 0⟩,
  ⟨.erHead, 0x6000c, 4, 1, false, .ro, false, .all, .er, .none, 0, 0⟩,
  ⟨.erLost, 0x60010, 4, 1, false, .ro, false, .all, .er, .none, 0, 0⟩,
  ⟨.erSyslost, 0x60014, 4, 1, false, .ro, false, .all, .er, .none, 0, 0⟩,
  ⟨.erCursor, 0x60020, 4, 1, false, .act, true, .all, .er, .er, 0, 0⟩,
  ⟨.erCursorStatus, 0x60024, 4, 1, false, .ro, true, .all, .er, .none, 0, 0⟩,
  ⟨.erFwCmd, 0x60028, 4, 1, false, .act, false, .all, .er, .pair, 0, 0⟩,
  ⟨.erFwStatus, 0x6002c, 4, 1, false, .ro, false, .all, .er, .none, 0, 0⟩,
  ⟨.erMxsnap, 0x60040, 4, 8, false, .rws, false, .all, .er, .oper, 0xffffffff, 0⟩,
  ⟨.erAuditHead, 0x60080, 4, 12, false, .ro, false, .all, .er, .none, 0, 0⟩,
  ⟨.erAuditCnt, 0x600b0, 8, 1, true, .ro, false, .all, .er, .none, 0, 0⟩,
  ⟨.erAuditGap, 0x600b8, 4, 1, false, .ro, false, .all, .er, .none, 0, 0⟩,
  ⟨.erSpillWr, 0x600c0, 8, 1, true, .ro, false, .all, .spill, .none, 0, 0⟩,
  ⟨.erSpillRd, 0x600c8, 8, 1, true, .act, false, .all, .spill, .tun, 0, 0⟩,
  ⟨.erSpillStat, 0x600d0, 4, 1, false, .ro, false, .all, .spill, .none, 0, 0⟩,
  ⟨.erWin, 0x60200, 4, 128, false, .ro, true, .all, .er, .none, 0, 0⟩,
  ⟨.erFwBuf, 0x60400, 4, 128, false, .act, false, .all, .er, .pair, 0, 0⟩,
  ⟨.erSet0, 0x61000, 4, 55, false, .rws, false, .all, .er, .oper, 0xe0ffffff, 0⟩,
  ⟨.erSet1, 0x61100, 4, 55, false, .rws, false, .all, .er, .oper, 0xe0ffffff, 0⟩,
  ⟨.erSet2, 0x61200, 4, 55, false, .rws, false, .all, .er, .oper, 0xe0ffffff, 0⟩,
  ⟨.erSet3, 0x61300, 4, 55, false, .rws, false, .all, .er, .oper, 0xe0ffffff, 0⟩,
  ⟨.erSet4, 0x61400, 4, 55, false, .rws, false, .all, .er, .oper, 0xe0ffffff, 0⟩,
  ⟨.erSet5, 0x61500, 4, 55, false, .rws, false, .all, .er, .oper, 0xe0ffffff, 0⟩,
  ⟨.erSet6, 0x61600, 4, 55, false, .rws, false, .all, .er, .oper, 0xe0ffffff, 0⟩,
  ⟨.erSet7, 0x61700, 4, 55, false, .rws, false, .all, .er, .oper, 0xe0ffffff, 0⟩]

/-- Registers of block CNT_ (Table 17.3). -/
def rowsCnt : List RegRow := [
  ⟨.cntCtrl, 0x70000, 4, 1, false, .rws, false, .all, .glob, .oper, 0x80ffffff, 0x3e8⟩,
  ⟨.cntStatus, 0x70004, 4, 1, false, .ro, false, .all, .glob, .none, 0, 0⟩,
  ⟨.cntSeq, 0x70008, 4, 1, false, .ro, false, .all, .glob, .none, 0, 0⟩,
  ⟨.cntRingCtl, 0x71000, 0x20, 64, false, .rws, false, .all, .glob, .oper, 0xc000003f, 0⟩,
  ⟨.cntRingBase, 0x71004, 0x20, 64, true, .rws, false, .all, .glob, .oper, 0xffffffffffffffff, 0⟩,
  ⟨.cntRingWr, 0x7100c, 0x20, 64, true, .ro, false, .all, .glob, .none, 0, 0⟩,
  ⟨.cntRingRd, 0x71014, 0x20, 64, true, .act, false, .all, .glob, .oper, 0, 0⟩,
  ⟨.cntRingStat, 0x7101c, 0x20, 64, false, .ro, false, .all, .glob, .none, 0, 0⟩,
  ⟨.attCtrl, 0x72000, 4, 1, false, .rws, false, .all, .glob, .oper, 0x8000ffff, 0x3e8⟩,
  ⟨.attStatus, 0x72004, 4, 1, false, .ro, false, .all, .glob, .none, 0, 0⟩,
  ⟨.attExport, 0x72008, 4, 1, false, .act, false, .all, .glob, .oper, 0, 0⟩,
  ⟨.attSquota, 0x72100, 4, 64, false, .rws, false, .all, .glob, .oper, 0x7ffff, 0x40000⟩,
  ⟨.attSused, 0x72200, 4, 64, false, .ro, false, .all, .glob, .none, 0, 0⟩,
  ⟨.attSovf, 0x72300, 4, 64, false, .ro, false, .all, .glob, .none, 0, 0⟩]

/-- Registers of block TRC_ (Table 17.3). -/
def rowsTrc : List RegRow := [
  ⟨.trcCtrl, 0x80000, 4, 1, false, .rws, false, .all, .glob, .trcctl, 0xe0000000, 0xa0000000⟩,
  ⟨.trcTrgCount, 0x80008, 4, 1, false, .ro, false, .all, .glob, .none, 0, 0⟩,
  ⟨.trcTrgLast, 0x8000c, 4, 1, false, .ro, false, .all, .glob, .none, 0, 0⟩,
  ⟨.trcDrain, 0x80010, 4, 1, false, .rws, false, .all, .glob, .oper, 0x1ff, 0x64⟩,
  ⟨.trcDrainStat, 0x80014, 4, 1, false, .ro, false, .all, .glob, .none, 0, 0⟩,
  ⟨.trcGrpRange, 0x80040, 8, 8, false, .rws, false, .all, .glob, .cfg, 0x7ff07ff, 0⟩,
  ⟨.trcGrpSel, 0x80044, 8, 8, false, .rws, false, .all, .glob, .cfg, 0x1f, 0⟩,
  ⟨.trcMxMatch, 0x80100, 8, 64, false, .rws, false, .all, .glob, .cfg, 0xfc3fffff, 0⟩,
  ⟨.trcMxAct, 0x80104, 8, 64, false, .rws, false, .all, .glob, .cfg, 0xfef00007, 0⟩,
  ⟨.trcSpol, 0x81000, 4, 64, false, .rws, false, .all, .glob, .spol, 0x783fe, 0⟩,
  ⟨.trcRingCtl, 0x82000, 0x20, 64, false, .rws, false, .all, .glob, .oper, 0xc000001f, 0⟩,
  ⟨.trcRingBase, 0x82004, 0x20, 64, true, .rws, false, .all, .glob, .oper, 0xffffffffffffffff, 0⟩,
  ⟨.trcRingWr, 0x8200c, 0x20, 64, true, .ro, false, .all, .glob, .none, 0, 0⟩,
  ⟨.trcRingRd, 0x82014, 0x20, 64, true, .act, false, .all, .glob, .oper, 0, 0⟩,
  ⟨.trcRingStat, 0x8201c, 0x20, 64, false, .ro, false, .all, .glob, .none, 0, 0⟩]

/-- Registers of block SPN_ (Table 17.3). -/
def rowsSpn : List RegRow := [
  ⟨.spnStatus, 0x90000, 4, 1, false, .ro, false, .all, .any, .none, 0, 0⟩,
  ⟨.spnAttn, 0x90004, 4, 1, false, .act, false, .all, .any, .attn, 0, 0⟩,
  ⟨.spnAttnEn, 0x90008, 4, 1, false, .rw, false, .all, .any, .attn, 0x1ff, 0x1ff⟩,
  ⟨.spnAttnSet, 0x9000c, 4, 1, false, .act, false, .all, .any, .pair, 0, 0⟩,
  ⟨.spnMsg, 0x90010, 4, 1, false, .ro, false, .all, .any, .none, 0, 0⟩,
  ⟨.spnErr, 0x90014, 4, 1, false, .ro, false, .all, .any, .none, 0, 0⟩]

/-- Registers of block TLM_ (Table 17.3). -/
def rowsTlm : List RegRow := [
  ⟨.tlmQuery, 0xa0000, 4, 1, false, .act, true, .all, .any, .any, 0, 0⟩,
  ⟨.tlmStatus, 0xa0004, 4, 1, false, .ro, true, .all, .any, .none, 0, 0⟩,
  ⟨.tlmRes, 0xa0008, 4, 4, false, .ro, true, .all, .any, .none, 0, 0⟩,
  ⟨.tlmResTick, 0xa0018, 8, 1, true, .ro, false, .all, .glob, .none, 0, 0⟩,
  ⟨.tlmAlert, 0xa0020, 4, 1, false, .rw, false, .all, .glob, .oper, 0x8000ffff, 0x80000690⟩,
  ⟨.tlmAlertStat, 0xa0024, 4, 1, false, .ro, false, .all, .glob, .none, 0, 0⟩]

/-- Registers of block SLC_ (Table 17.3). -/
def rowsSlc : List RegRow := [
  ⟨.slcCmd, 0xb0000, 4, 1, false, .act, false, .all, .glob, .oper, 0, 0⟩,
  ⟨.slcPasid, 0xb0004, 4, 1, false, .rw, true, .all, .glob, .oper, 0xfffff, 0⟩,
  ⟨.slcCmdStatus, 0xb0008, 4, 1, false, .ro, true, .all, .any, .none, 0, 0⟩,
  ⟨.slcCtxCmd, 0xb0010, 4, 1, false, .act, false, .all, .glob, .oper, 0, 0⟩,
  ⟨.slcCtxId, 0xb0014, 4, 1, false, .ro, true, .all, .any, .none, 0, 0⟩,
  ⟨.slcCtxStatus, 0xb0018, 4, 1, false, .ro, true, .all, .any, .none, 0, 0⟩,
  ⟨.slcExpCmd, 0xb0020, 4, 1, false, .act, false, .all, .glob, .oper, 0, 0⟩,
  ⟨.slcExpStatus, 0xb0024, 4, 1, false, .ro, true, .all, .any, .none, 0, 0⟩,
  ⟨.slcUse, 0xb0030, 4, 1, false, .ro, false, .all, .glob, .none, 0, 0⟩,
  ⟨.slcExpUse, 0xb0034, 4, 1, false, .ro, false, .all, .glob, .none, 0, 0⟩,
  ⟨.slcEvents, 0xb0038, 4, 1, false, .ro, false, .all, .glob, .none, 0, 0⟩,
  ⟨.slcMoveStat, 0xb0040, 4, 1, false, .ro, false, .all, .glob, .none, 0, 0⟩,
  ⟨.slcHdr, 0xb1000, 0x40, 64, false, .ro, false, .all, .glob, .none, 0, 0⟩,
  ⟨.slcEPasid, 0xb1004, 0x40, 64, false, .ro, false, .all, .glob, .none, 0, 0⟩,
  ⟨.slcCreated, 0xb1008, 0x40, 64, true, .ro, false, .all, .glob, .none, 0, 0⟩,
  ⟨.slcUnits, 0xb1010, 0x40, 64, false, .ro, false, .all, .glob, .none, 0, 0⟩,
  ⟨.slcCtx, 0xb1014, 0x40, 64, false, .ro, false, .all, .glob, .none, 0, 0⟩,
  ⟨.slcCtxquota, 0xb1018, 0x40, 64, false, .rws, false, .all, .glob, .oper, 0x7ffff, 0x40000⟩,
  ⟨.slcCounts, 0xb101c, 0x40, 64, false, .ro, false, .all, .glob, .none, 0, 0⟩,
  ⟨.slcExt0, 0xb1020, 0x40, 64, false, .rws, false, .all, .glob, .oper, 0x1fff0fff, 0⟩,
  ⟨.slcExt1, 0xb1024, 0x40, 64, false, .rws, false, .all, .glob, .oper, 0x1fff0fff, 0⟩,
  ⟨.slcExt2, 0xb1028, 0x40, 64, false, .rws, false, .all, .glob, .oper, 0x1fff0fff, 0⟩,
  ⟨.slcExt3, 0xb102c, 0x40, 64, false, .rws, false, .all, .glob, .oper, 0x1fff0fff, 0⟩,
  ⟨.slcShare0, 0xb1030, 4, 1, false, .rws, false, .all, .glob, .oper, 0xf01ff, 0x10100⟩,
  ⟨.slcShare, 0xb1070, 0x40, 63, false, .rws, false, .all, .glob, .oper, 0xf01ff, 0x10010⟩,
  ⟨.slcStatus, 0xb1034, 0x40, 64, false, .ro, false, .all, .glob, .none, 0, 0⟩,
  ⟨.slcReset, 0xb1038, 0x40, 64, true, .ro, false, .all, .glob, .none, 0, 0⟩,
  ⟨.slcUmap, 0xb4000, 4, 4096, false, .rws, false, .all, .glob, .oper, 0x3f3f3f3f, 0⟩]

/-- Registers of a Perch slot (Table 17.4), by slot offset. -/
def rowsPch : List RegRow := [
  ⟨.pchId, 0, 4, 1, false, .ro, false, .all, .glob, .none, 0, 0⟩,
  ⟨.pchStatus, 4, 4, 1, false, .ro, false, .all, .glob, .none, 0, 0⟩,
  ⟨.pchTick, 8, 8, 1, true, .ro, false, .all, .glob, .none, 0, 0⟩,
  ⟨.pchComp, 0x10, 4, 1, false, .ro, false, .all, .glob, .none, 0, 0⟩,
  ⟨.pchGrainCfg, 0x20, 4, 1, false, .rws, false, .all, .glob, .cfg, 0xff, 0⟩,
  ⟨.pchGrainStat, 0x24, 4, 1, false, .ro, false, .all, .glob, .none, 0, 0⟩,
  ⟨.pchGrain, 0x40, 8, 64, true, .ro, false, .sub8, .glob, .none, 0, 0⟩,
  ⟨.pchTmarkPeer, 0x300, 4, 1, false, .ro, false, .link, .glob, .none, 0, 0⟩,
  ⟨.pchTmarkRxPeer, 0x304, 8, 1, true, .ro, false, .link, .glob, .none, 0, 0⟩,
  ⟨.pchTmarkRxLocal, 0x30c, 8, 1, true, .ro, false, .link, .glob, .none, 0, 0⟩,
  ⟨.pchTmarkTx, 0x314, 8, 1, true, .ro, false, .link, .glob, .none, 0, 0⟩,
  ⟨.pchTmarkEchoTx, 0x31c, 8, 1, true, .ro, false, .link, .glob, .none, 0, 0⟩,
  ⟨.pchTmarkEchoRx, 0x324, 8, 1, true, .ro, false, .link, .glob, .none, 0, 0⟩,
  ⟨.pchTsrcCfg, 0x400, 8, 4, false, .rws, false, .all, .glob, .cfg, 0xffffff80, 0⟩,
  ⟨.pchTsrcSel, 0x404, 8, 4, false, .rws, false, .all, .glob, .cfg, 0x3f3f3f03, 0⟩,
  ⟨.pchTcmpCtl, 0x420, 0x10, 4, false, .rws, false, .tile, .glob, .cfg, 0xfcff003f, 0⟩,
  ⟨.pchTcmpVal, 0x424, 0x10, 4, true, .rws, false, .tile, .glob, .cfg, 0xffffffffffffffff, 0⟩,
  ⟨.pchTrngCtl, 0x460, 0x20, 2, false, .rws, false, .tile, .glob, .cfg, 0xfcff0000, 0⟩,
  ⟨.pchTrngBase, 0x464, 0x20, 2, true, .rws, false, .tile, .glob, .cfg, 0xffffffffffffffff, 0⟩,
  ⟨.pchTrngLimit, 0x46c, 0x20, 2, true, .rws, false, .tile, .glob, .cfg, 0xffffffffffffffff, 0⟩,
  ⟨.pchTrg, 0x4a0, 4, 4, false, .rws, false, .all, .glob, .cfg, 0xfffffeff, 4⟩,
  ⟨.pchTrgTag, 0x4b0, 4, 1, false, .rws, false, .all, .glob, .cfg, 0xffffffff, 0⟩,
  ⟨.pchTrgTagmask, 0x4b4, 4, 1, false, .rws, false, .all, .glob, .cfg, 0xffffffff, 0⟩,
  ⟨.pchTrgFire, 0x4b8, 4, 1, false, .act, false, .all, .glob, .cfg, 0, 0⟩,
  ⟨.pchTrgStat, 0x4bc, 4, 1, false, .ro, false, .all, .glob, .none, 0, 0⟩,
  ⟨.pchTstate, 0x4c0, 4, 1, false, .ro, false, .all, .glob, .none, 0, 0⟩,
  ⟨.pchPeckCfg, 0x500, 4, 1, false, .rws, false, .all, .glob, .cfg, 0xfff0ff00, 0x10000000⟩,
  ⟨.pchPeckPart, 0x504, 4, 4, false, .rws, false, .all, .glob, .cfg, 0x8000007f, 0⟩,
  ⟨.pchPeckCtl, 0x514, 4, 1, false, .act, false, .all, .glob, .cfg, 0, 0⟩,
  ⟨.pchPeckState, 0x518, 4, 1, false, .ro, false, .all, .glob, .none, 0, 0⟩,
  ⟨.pchPeckFill, 0x520, 4, 4, false, .ro, false, .all, .glob, .none, 0, 0⟩,
  ⟨.pchPeckLost, 0x530, 4, 1, false, .ro, false, .all, .glob, .none, 0, 0⟩,
  ⟨.pchPeckRsv, 0x534, 4, 1, false, .ro, false, .all, .glob, .none, 0, 0⟩,
  ⟨.pchGate, 0x600, 4, 1, false, .ro, false, .all, .glob, .none, 0, 0⟩,
  ⟨.pchGateTick, 0x604, 8, 1, true, .ro, false, .all, .glob, .none, 0, 0⟩,
  ⟨.pchCapStat, 0x610, 4, 1, false, .ro, false, .cap, .glob, .none, 0, 0⟩,
  ⟨.pchCapLate, 0x614, 4, 1, false, .ro, false, .cap, .glob, .none, 0, 0⟩,
  ⟨.pchWaitCtl, 0x700, 0x20, 8, false, .ro, false, .sub1, .glob, .none, 0, 0⟩,
  ⟨.pchWaitCtx, 0x704, 0x20, 8, false, .ro, false, .sub1, .glob, .none, 0, 0⟩,
  ⟨.pchWaitObj, 0x708, 0x20, 8, false, .ro, false, .sub1, .glob, .none, 0, 0⟩,
  ⟨.pchWaitArg, 0x710, 0x20, 8, true, .ro, false, .sub1, .glob, .none, 0, 0⟩,
  ⟨.pchWaitSince, 0x718, 0x20, 8, true, .ro, false, .sub1, .glob, .none, 0, 0⟩]

/-- The rows of the block that holds a host-window offset (Table 17.1). -/
def rowsOf (off : Nat) : List RegRow :=
  match off / 0x10000 with
  | 0 => rowsHub
  | 1 => rowsTim
  | 2 => rowsSec
  | 3 => rowsCut
  | 4 => rowsDmp
  | 5 => rowsCe
  | 6 => rowsEr
  | 7 => rowsCnt
  | 8 => rowsTrc
  | 9 => rowsSpn
  | 10 => rowsTlm
  | 11 => rowsSlc
  | _ => []

/-- Every row of Table 17.3, in ascending blocks. -/
def rowsAll : List RegRow :=
  rowsHub ++ rowsTim ++ rowsSec ++ rowsCut ++ rowsDmp ++ rowsCe ++ rowsEr ++ rowsCnt ++ rowsTrc ++ rowsSpn ++ rowsTlm ++ rowsSlc

/-- The position of `off` in a row: member index, and whether it is the _HI word of a pair. -/
def RegRow.hit (r : RegRow) (off : Nat) : Option (Nat × Bool) :=
  if off < r.base then none
  else
    let i := (off - r.base) / r.stride
    let o := (off - r.base) % r.stride
    if r.n ≤ i then none
    else if o = 0 then some (i, false)
    else if r.pair && decide (o = 4) then some (i, true)
    else none

/-- The row of a family. -/
def Fam.row (f : Fam) : Option RegRow := (rowsAll ++ rowsPch).find? fun r => decide (r.fam = f)

end Sys2Proof.Machine
end

