-- ==== Sys2Proof/Machine/Ops.lean ====
section
/-!
DEFINITION. Machine/Ops.lean: the shared operations: the memories and a command's outputs, register storage,
RC fields, ticks, interrupts and attention, record requests, and access to the parts of the hub by number.
-/
namespace Sys2Proof.Machine

/-! ## The memories and the outputs of a command -/

/-- One memory write in canonical form; bytes at or above `size` are dropped. -/
def writeBytes (size : Nat) (m : SMap Byte) (a : Nat) (b : List Byte) : SMap Byte := SMap.splice (0 : Byte) m a (b.take (size - a))

/-- The memories after one write of the hub. -/
def Mem.write (m : Mem) (w : MemWrite) : Mem :=
  if w.space = 0 then { m with firkin := writeBytes firkinSize m.firkin w.addr w.bytes }
  else { m with hbm := writeBytes hbmSize m.hbm w.addr w.bytes }

/-- The memories after the writes of a command, oldest first. -/
def Mem.apply (m : Mem) (l : List MemWrite) : Mem := l.foldl Mem.write m

/-- The hub with the outputs of the hub cycle cleared. -/
def Hub.fresh (h : Hub) : Hub := { h with tx := [], out := [], reply := [], items := [], stamps := [], inject := [], span := { h.span with sent := [] } }

/-- The hub runs: COLD_N is high and the island is supplied. -/
def Hub.live (h : Hub) : Bool := h.boot.coldN && h.boot.island

/-- Write bytes to the Firkin at the end of the command; a word written whole is sound again. -/
def Hub.firkinWrite (h : Hub) (addr : Nat) (b : List Byte) : Hub :=
  { h with out := h.out ++ [⟨0, addr, b⟩],
           ecc := { h.ecc with firkinBad := h.ecc.firkinBad.filter fun w => !(decide (addr ≤ 8 * w) && decide (8 * w + 8 ≤ addr + b.length)) } }

/-- Write bytes to HBM at the end of the command. -/
def Hub.hbmWrite (h : Hub) (addr : Nat) (b : List Byte) : Hub := { h with out := h.out ++ [⟨1, addr, b⟩] }

/-- `n` bytes of the Firkin. -/
def Mem.firkinRead (m : Mem) (addr n : Nat) : List Byte := SMap.getList (0 : Byte) m.firkin addr n

/-- `n` bytes of HBM. -/
def Mem.hbmRead (m : Mem) (addr n : Nat) : List Byte := SMap.getList (0 : Byte) m.hbm addr n

/-- Send a hub-to-hub message on a link. -/
def Hub.send (h : Hub) (link : Nat) (b : List Byte) : Hub := { h with tx := h.tx ++ [⟨link, b⟩] }

/-- A request of the die is answered. -/
def Hub.answer (h : Hub) (unit context tag status : Nat) : Hub := { h with reply := h.reply ++ [⟨unit, context, tag, status⟩] }

/-! ## Ticks -/

/-- Ticks per hub cycle: 1 on the PLL, 10 on the board reference (R126, R130). -/
def Hub.perCycle (h : Hub) : Nat := if h.clk.onPll then 1 else 10

/-- The hub-core timebase. -/
def Hub.now (h : Hub) : Nat := h.clk.tick

/-! ## Parts of the hub by number -/

def Hub.getStn (h : Hub) (s : Nat) : Stn := SMap.get {} h.stn s
def Hub.updStn (h : Hub) (s : Nat) (f : Stn → Stn) : Hub := { h with stn := SMap.upd {} h.stn s f }
def Hub.getSlice (h : Hub) (s : Nat) : Slice := SMap.get {} h.slc.e s
def Hub.updSlice (h : Hub) (s : Nat) (f : Slice → Slice) : Hub := { h with slc := { h.slc with e := SMap.upd {} h.slc.e s f } }
def Hub.getKeys (h : Hub) (s : Nat) : SliceKeys := SMap.get {} h.slc.keys s
def Hub.updKeys (h : Hub) (s : Nat) (f : SliceKeys → SliceKeys) : Hub :=
  { h with slc := { h.slc with keys := SMap.upd {} h.slc.keys s f } }
def Hub.getCtx (h : Hub) (c : Nat) : Ctx := SMap.get {} h.ctx c
/-- The commands of the context itself; those that run on from before it was created are left out (R37). -/
def Ctx.own (x : Ctx) : List Cmd := x.cmds.filter fun c => !c.gone
/-- A changed context keeps what it was before this hub cycle (R289). -/
def Ctx.mark (k : Nat) (x y : Ctx) : Ctx :=
  { y with cyc := k, oldSt := if x.cyc = k then x.oldSt else x.st, oldProgress := if x.cyc = k then x.oldProgress else x.progress,
           oldBusy := if x.cyc = k then x.oldBusy else !x.own.isEmpty }
def Hub.updCtx (h : Hub) (c : Nat) (f : Ctx → Ctx) : Hub :=
  { h with ctx := SMap.upd {} h.ctx c fun x => Ctx.mark (h.clk.cycle + 1) x (f x) }
def Hub.getLink (h : Hub) (s : Nat) : Link := SMap.get {} h.chain.link s
def Hub.updLink (h : Hub) (s : Nat) (f : Link → Link) : Hub :=
  { h with chain := { h.chain with link := SMap.upd {} h.chain.link s f } }
def Hub.getSecM (h : Hub) (m : Master) : SecM := SMap.get {} h.sec.m m.idx
def Hub.updSecM (h : Hub) (m : Master) (f : SecM → SecM) : Hub :=
  { h with sec := { h.sec with m := SMap.upd {} h.sec.m m.idx f } }

/-- Active slice of a unit (R31). -/
def Hub.unitSlice (h : Hub) (u : Nat) : Nat := SMap.get 0 h.slc.unit u

/-- A slice that exists: any state but FREE. -/
def Hub.sliceExists (h : Hub) (s : Nat) : Bool := decide (s < 64) && decide ((h.getSlice s).st ≠ .free)

/-- Units of a slice, ascending. -/
def Hub.sliceUnits (h : Hub) (s : Nat) : List Nat := allUnits.filter fun u => h.unitSlice u == s

/-- A station that is observed, not bypassed (R61). -/
def Hub.observed (h : Hub) (s : Nat) : Bool := stnOk s && decide ((h.getLink s).bypass = .observed)

/-- A station's compensated timebase; 0 before its start flit (R130). -/
def Hub.stnTick (h : Hub) (s : Nat) : Nat :=
  let t := h.getStn s
  if t.tbOn then ((h.now : Int) + t.tbLead).toNat % 2 ^ 64 else 0

/-- An item of a station's report stream, at the tick of its timebase copy (R138, R139). -/
def Hub.reportItem (h : Hub) (s : Nat) (kind : ItemKind) (data : List Nat) : Hub :=
  let i : Item := { src := s * 8 + 4, seq := (h.getStn s).reportSeq, tick := h.stnTick s, kind := kind, data := data }
  ({ h with items := h.items ++ [i] }).updStn s fun t => { t with reportSeq := (t.reportSeq + 1) % 2 ^ 32 }

/-- A link Perch stamps a message that it sends with the next number of its direction (R142, R143). -/
def Hub.stampSent (h : Hub) (s : Nat) : Hub :=
  let m := (h.getStn s).mark
  ({ h with stamps := h.stamps ++ [({ station := s, sent := true, msn := m.msnOut, tick := h.stnTick s } : Stamp)] }).updStn s fun t =>
    { t with mark := { t.mark with msnOut := (m.msnOut + 1) % 65536 } }

/-- A link Perch stamps a message that it receives with the number that the message carries (R142, R143). -/
def Hub.stampReceived (h : Hub) (s msn : Nat) : Hub :=
  ({ h with stamps := h.stamps ++ [({ station := s, sent := false, msn := msn % 65536, tick := h.stnTick s } : Stamp)] }).updStn s fun t =>
    { t with mark := { t.mark with msnIn := (msn + 1) % 65536 } }

/-- The same for a hub-to-hub message, whose number follows that of the last message received. -/
def Hub.stampHub (h : Hub) (s : Nat) : Hub := h.stampReceived s (h.getStn s).mark.msnIn

/-- Role a master holds: 0 none, 1 operator, 2 installer, 3 maker (R405). A role whose lease has run out in this hub cycle has ended (R406). -/
def Hub.role (h : Hub) (m : Master) : Nat := if (h.getSecM m).leaseEnd ≤ h.sec.lease then 0 else (h.getSecM m).role

/-- What a master's SEC_KEYOUT registers show: in the hub cycle of a release the values from before it (R12, R421). -/
def Hub.keyoutShown (h : Hub) (m : Master) : SMap Nat :=
  let x := h.getSecM m
  if x.keyoutCyc = h.clk.cycle + 1 then x.keyoutOld else x.keyout

/-- Local package index (R118). -/
def Hub.pkg (h : Hub) : Nat := h.boot.pkg

/-! ## Register storage -/

/-- Value of an RW register: `off` its offset, `mi` the master's number where each master has a copy, else 0. -/
def Hub.rwGet (h : Hub) (reset off mi : Nat) : Nat := SMap.get reset h.rw (off * 4 + mi)

/-- Set an RW register. -/
def Hub.rwSet (h : Hub) (reset off mi v : Nat) : Hub := { h with rw := SMap.set reset h.rw (off * 4 + mi) v }

/-- An RWS register at its reset value in every copy. -/
def Rws.atReset (v : Nat) : Rws := ⟨v, v, v, .clean⟩

/-- The copies of an RWS register. -/
def Hub.rwsGet (h : Hub) (reset off : Nat) : Rws := SMap.get (Rws.atReset reset) h.rws off

/-- Change the copies of an RWS register. -/
def Hub.rwsUpd (h : Hub) (reset off : Nat) (f : Rws → Rws) : Hub := { h with rws := SMap.upd (Rws.atReset reset) h.rws off f }

/-- Active value of an RWS register. -/
def Hub.act (h : Hub) (reset off : Nat) : Nat := (h.rwsGet reset off).active

/-- Shadow value of an RWS register. -/
def Hub.shd (h : Hub) (reset off : Nat) : Nat := (h.rwsGet reset off).shadow

/-- Host-window offset of a Perch register (R6). -/
def pchOff (stn off : Nat) : Nat := 0x100000 + stn * 0x1000 + off

/-- Active value of a Perch register. -/
def Hub.pact (h : Hub) (stn reset off : Nat) : Nat := h.act reset (pchOff stn off)

/-- A write of the shadow copy (R64): CLEAN goes to DIRTY, STAGED to STAGED_DIRTY. -/
def Rws.write (r : Rws) (v : Nat) : Rws :=
  { r with shadow := v, st := match r.st with | .clean => .dirty | .staged => .stagedDirty | s => s }

/-- A register that the commit under way has staged (Table 02.5). -/
def Hub.isStaged (h : Hub) (off : Nat) : Bool :=
  let st := (SMap.get (Rws.atReset 0) h.rws off).st
  st == .staged || st == .stagedDirty

/-! ## RC fields (R10, R12) -/

/-- Key of the RC field at bit `lsb` of a register. -/
def rcKey (off mi lsb : Nat) : Nat := (off * 4 + mi) * 32 + lsb

/-- The hub adds to an RC count field that saturates at `max`. -/
def Hub.rcAdd (h : Hub) (off mi lsb max n : Nat) : Hub :=
  if n = 0 then h
  else { h with rc := SMap.upd {} h.rc (rcKey off mi lsb) fun c => { c with new := satAdd max c.new n, max := max } }

/-- The hub sets a one-bit RC field. -/
def Hub.rcSet (h : Hub) (off mi lsb : Nat) : Hub := h.rcAdd off mi lsb 1 1

/-- Value a read of an RC field returns. -/
def Hub.rcVal (h : Hub) (off mi lsb : Nat) : Nat := (SMap.get {} h.rc (rcKey off mi lsb)).old

/-- The additions of a hub cycle joined with what was there before. -/
def RcCell.sum (c : RcCell) : Nat := if c.peak then Nat.max c.old c.new else satAdd c.max c.old c.new

/-- The hub enters a value into an RC field that keeps the largest one, at most `max`. -/
def Hub.rcPeak (h : Hub) (off mi lsb max n : Nat) : Hub :=
  if n = 0 then h
  else { h with rc := SMap.upd {} h.rc (rcKey off mi lsb) fun c => { c with new := Nat.max c.new (Nat.min max n), max := max, peak := true } }

/-- What the hub has counted in an RC field, this hub cycle included. -/
def Hub.rcTotal (h : Hub) (off mi lsb : Nat) : Nat :=
  (SMap.get {} h.rc (rcKey off mi lsb)).sum

/-- The hub starts an RC field again from 0. -/
def Hub.rcZero (h : Hub) (off mi lsb : Nat) : Hub := { h with rc := SMap.set {} h.rc (rcKey off mi lsb) {} }

/-- A read of an RC field clears it; what the hub added in this hub cycle stays for the next read. -/
def Hub.rcClear (h : Hub) (off mi lsb : Nat) : Hub :=
  { h with rc := SMap.upd {} h.rc (rcKey off mi lsb) fun c => if c.new = 0 then {} else { c with old := 0 } }

/-- At the end of a hub cycle the additions of the cycle join the value that a read returns. -/
def RcCell.fold (c : RcCell) : RcCell := { c with old := c.sum, new := 0 }

/-! ## Interrupts and attention -/

/-- Whether a vector's event or enable sends a message: its enable bit is 1 and the function sends MSI-X (R481). -/
def Hub.irqOpen (h : Hub) (v : Nat) : Bool := bit h.irq.en v && h.irq.fnOn

/-- An event of vector `v` (R481). -/
def Hub.irqRaise (h : Hub) (v : Nat) : Hub :=
  let due := if !bit h.irq.status v && h.irqOpen v then h.irq.due ||| 2 ^ v else h.irq.due
  { h with irq := { h.irq with status := h.irq.status ||| 2 ^ v, due := due }, cyc := { h.cyc with irq := h.cyc.irq ||| 2 ^ v } }

/-- An attention reason is set (R470). -/
def Hub.attnSet (h : Hub) (n : Nat) : Hub :=
  { h with span := { h.span with attn := h.span.attn ||| 2 ^ n }, cyc := { h.cyc with attn := h.cyc.attn ||| 2 ^ n } }

/-- A one-bit RC field is set; on becoming 1 it is an event of vector `v` (Table 16.2). -/
def Hub.rcFlag (h : Hub) (off lsb v : Nat) : Hub :=
  let first := h.rcTotal off 0 lsb == 0
  let h := h.rcSet off 0 lsb
  if first then h.irqRaise v else h

/-! ## Record requests (R382, R387, R388, R394, R395) -/

/-- ER_CTRL enables a record class. -/
def Hub.classOn (h : Hub) (c : Nat) : Bool :=
  if c = 1 ∨ c = 3 ∨ c = 5 ∨ c = 6 then bit (h.act 0x1FE 0x60000) c else true

/-- Vectors that the commit of a record raises (Table 16.2). -/
def recVectors (cls code : Nat) : List Nat :=
  (if cls = 7 then [2] else []) ++ (if code = 0x0401 ∨ code = 0x0403 then [3] else [])
    ++ (if code = 0x0809 then [11] else []) ++ (if code = 0x0312 ∨ code = 0x0314 then [15] else [])

/-- Raise several vectors. -/
def Hub.irqAll (h : Hub) (l : List Nat) : Hub := l.foldl Hub.irqRaise h

/-- Audit records committed and not spilled, and audit requests accepted and not committed (R395). -/
def Er.auditLoad (e : Er) : Nat :=
  (e.acount - e.spillFirst) + (e.sysq.filter (·.cls == 8)).length + (e.builds.filter (·.req.cls == 8)).length + e.clockSet.length

/-- An audit event that is not written (R394, R395). -/
def Er.auditGap (e : Er) (r : Req) : Er :=
  let e := { e with gapTotal := satAdd (2 ^ 32 - 1) e.gapTotal 1 }
  let o := r.origin % 8
  if !e.chainStarted then { e with preGap := SMap.upd 0 e.preGap o (satAdd (2 ^ 64 - 1) 1) }
  else
    { e with gap := { e.gap with
        pending := true, count := satAdd (2 ^ 32 - 1) e.gap.count 1,
        first := if e.gap.pending then e.gap.first else r.tick, last := r.tick,
        byOrigin := SMap.upd 0 e.gap.byOrigin o (satAdd (2 ^ 64 - 1) 1) } }

/-- An audit request: accepted into the system queue, or counted as not written. -/
def Er.audit (e : Er) (r : Req) : Er :=
  if !e.chainStarted || e.gap.pending || decide (511 ≤ e.auditLoad) || decide (32 ≤ e.sysq.length) then e.auditGap r
  else { e with sysq := e.sysq ++ [r] }

/-- A request that finds its queue full at tick `now` is coalesced (R388). -/
def Er.coalesce (e : Er) (now : Nat) (r : Req) : Er :=
  let l := e.lost
  let w := match r.trigger with | some (k, _) => k % 8 | none => 7 + r.cls
  let stn := match r.trigger with | some (_, s) => s | none => 0x7FF
  let l := { l with
    any := true, all := satAdd (2 ^ 64 - 1) l.all 1,
    triggers := if r.trigger.isSome then satAdd (2 ^ 32 - 1) l.triggers 1 else l.triggers,
    counts := SMap.upd 0 l.counts w (satAdd (2 ^ 64 - 1) 1),
    first := if l.any then l.first else now, last := now,
    firstStn := if r.trigger.isSome && l.firstStn == 0x7FF then stn else l.firstStn,
    lastStn := if r.trigger.isSome then stn else l.lastStn }
  { e with lost := l }

/-- A record request (R387): a disabled class is dropped, a full queue coalesces. -/
def Hub.record (h : Hub) (r : Req) : Hub :=
  if !h.classOn r.cls then h.irqAll (recVectors r.cls r.code)
  else if r.cls = 8 then { h with er := h.er.audit r }
  else if r.trigger.isSome then
    if h.er.fifo.length < 64 then { h with er := { h.er with fifo := h.er.fifo ++ [r] } }
    else ({ h with er := h.er.coalesce h.now r }).rcAdd 0x60010 0 0 (2 ^ 32 - 1) 1
  else if h.er.sysq.length < 32 then { h with er := { h.er with sysq := h.er.sysq ++ [r] } }
  else ({ h with er := h.er.coalesce h.now r }).rcAdd 0x60014 0 0 (2 ^ 32 - 1) 1

/-- A request made by hub hardware at the present tick. -/
def Hub.evt (h : Hub) (cls code : Nat) : Req := { cls := cls, code := code, tick := h.now }

/-- Origin field of a record that names a master and its role (Table 12.1). -/
def Hub.originOf (h : Hub) (m : Master) : Nat := m.origin + 16 * h.role m

/-- An audit event of a master. -/
def Hub.auditBy (h : Hub) (m : Master) (code : Nat) : Req := { cls := 8, code := code, tick := h.now, origin := h.originOf m }

/-! ## The random-number generator -/

/-- Draw `n` bytes (R410, R414). -/
def Hub.draw (h : Hub) (n : Nat) : List Byte × Hub :=
  ((List.range n).map fun i => Config.drbg (h.sec.drbg + i), { h with sec := { h.sec with drbg := h.sec.drbg + n } })

/-- Draw a free 64-bit value. -/
def Hub.drawFree (h : Hub) : Nat × Hub := ((Config.freeValue h.free).toNat, { h with free := h.free + 1 })

/-- SHA-384, always 48 bytes. -/
def sha384 (b : List Byte) : List Byte := padTo 48 (Config.sha384 b)

/-- The counter-mode KDF of R97: `n` bytes. -/
def kdf (key : List Byte) (label : String) (ctx : List Byte) (n : Nat) : List Byte :=
  let block := fun i => padTo 48 (Config.hmac384 key (beBytes 4 (i + 1) ++ ascii label ++ [0] ++ ctx ++ beBytes 4 (n * 8)))
  ((List.range ((n + 47) / 48)).flatMap block).take n

end Sys2Proof.Machine
end

