-- ==== Sys2Proof/Machine/View.lean ====
section
/-!
DEFINITION. Machine/View.lean: what a register shows: for each family of the index, the value a read returns, without the side
effects of the read (R10, R499). A _LO/_HI pair is one 64-bit value here.
-/
namespace Sys2Proof.Machine

/-! ## Parts of values -/

/-- Numbers of the enumerations as registers carry them. -/
def CtxSt.code : CtxSt → Nat
  | .free => 0 | .active => 1 | .lost => 2
def SliceSt.code : SliceSt → Nat
  | .free => 0 | .active => 1 | .resetting => 2 | .destroying => 3
def GateSt.code : GateSt → Nat
  | .run => 0 | .armed => 1 | .stopping => 2 | .stopped => 3 | .forced => 4 | .step => 5
def CutSt.code : CutSt → Nat
  | .idle => 0 | .scheduled => 1 | .stopping => 2 | .stopped => 3 | .resuming => 4 | .stepping => 5
def SrcSt.code : SrcSt → Nat
  | .off => 0 | .armed => 1 | .on => 2
def PartSt.code : PartSt → Nat
  | .run => 0 | .post => 1 | .frozen => 2
def DmpSt.code : DmpSt → Nat
  | .idle => 0 | .plan => 1 | .stream => 2 | .finish => 3 | .sign => 4
def WSt.code : WSt → Nat
  | .off => 0 | .armed => 1 | .queued => 2 | .reading => 3 | .paused => 4 | .partial_ => 5 | .spent => 6
def LdrSt.code : LdrSt → Nat
  | .idle => 0 | .header => 1 | .section_ => 2 | .payload => 3 | .check => 4 | .done => 5 | .failed => 6
def Bypass.code : Bypass → Nat
  | .observed => 1 | .missed => 2 | .errors => 3 | .rings => 4 | .untrained => 5

/-- The cut that holds a slice: a slice cut of it, or a die cut whose set names it (R283). -/
def Cut.ofSlice (c : Cut) (s : Nat) : Option CutRec := c.cuts.find? fun r => r.set.contains s

/-- State of a cut for one slice: a slice of a die cut may resume on its own (R266). -/
def CutRec.stOf (r : CutRec) (s : Nat) : CutSt := if r.sub.any fun x => x.1 == s then .resuming else r.st

/-- The cut stops every unit of the die, serving units included (R260). -/
def CutRec.full (r : CutRec) : Bool := r.die && r.excl == 0

/-- A cut that stops its units: its tick T has passed. -/
def CutRec.holding (r : CutRec) : Bool := r.st != .idle && r.st != .scheduled

/-- A holding cut that keeps the messages and transfers of a slice at a station armed for it; none does while all its units step (R261, R269). -/
def Hub.captures (h : Hub) (s slice : Nat) : Option CutRec :=
  h.cut.cuts.find? fun r => r.holding && !(r.st == .stepping && r.timeout != 0 && !r.single) && (h.getStn s).cap.armed.contains r.id
    && (r.full || r.set.contains slice)

/-- Bytes of an entry of a capture store (Table 08.4). -/
def Capture.size (c : Capture) : Nat := 48 + roundUp 8 c.data.length

/-- Bytes a capture store holds. -/
def CapStore.used (c : CapStore) : Nat := c.entries.foldl (fun a e => a + e.size) 0

/-- The die cut. -/
def Cut.dieCut (c : Cut) : Option CutRec := c.cuts.find? (·.die)

/-- A cut by its ID. -/
def Cut.byId (c : Cut) (id : Nat) : Option CutRec := c.cuts.find? (·.id == id)

/-- Serial part of a cut ID (R257). -/
def cutSerial (id : Nat) : Nat := field id 21 0

/-- Whether a Chain window holds a station. -/
def Hub.windowHeld (h : Hub) (s : Nat) : Bool := h.chain.win.any fun w => w.2.held && w.2.station == s

/-- Whether a register of a slot has a copy in one of two states. -/
def Hub.slotHas (h : Hub) (s : Nat) (p : RwsSt → Bool) : Bool :=
  h.rws.any fun r => decide (pchOff s 0 ≤ r.1) && decide (r.1 < pchOff s 0x800) && p r.2.st

/-- A unit is asleep: its tile is power-gated, its domain is gated, or the compute side has lost its power (R51, R509). -/
def Hub.asleep (h : Hub) (u : Nat) : Bool :=
  let t := h.getStn (unitStn u)
  h.rail.collapsed || h.clk.fallback || t.powerGated || bit t.clkGated (unitSub u)

/-- PCH_STATUS (R89). -/
def Hub.pchStatus (h : Hub) (s : Nat) : Nat :=
  let t := h.getStn s
  at_ (b2n (h.windowHeld s)) 19 + at_ (b2n (h.slotHas s fun x => x == .staged || x == .stagedDirty)) 18
    + at_ (b2n (h.slotHas s fun x => x == .dirty || x == .stagedDirty)) 17
    + at_ (b2n (decide (stnClass s = 0) && (t.powerGated || h.rail.collapsed))) 16 + at_ (t.clkGated % 256) 8 + subValid s

/-- The wait-edge set of a unit as a read sees it: in the hub cycle of a change, as it stood before that cycle (R295). -/
def Hub.edgeSeen (h : Hub) (s u : Nat) : Option Stall :=
  let t := h.getStn s
  if SMap.get 0 t.waitCyc u = h.clk.cycle + 1 then (SMap.get [] t.waitOld u).head? else (SMap.get [] t.wait u).head?

/-- A kind-2 address of a unit outside slice 0 is masked to its package index (R296). -/
def Hub.maskArg (h : Hub) (u : Nat) (e : Edge) : Nat :=
  if e.kind = 2 ∧ h.unitSlice u ≠ 0 then e.arg - e.arg % 2 ^ 54 else e.arg

/-- Bytes stored in a partition. -/
def Part.fill (p : Part) : Nat := p.pkts.foldl (fun a k => a + k.bytes.length) 0

/-- PCH_TSTATE.asleep: every unit followed by any ON source sleeps (R196). -/
def Hub.tAsleep (h : Hub) (s : Nat) : Bool :=
  let t := h.getStn s
  let subs := (List.range 8).filter fun k =>
    bit (subValid s) k && t.src.any fun p => p.2.st == .on && bit (h.pact s 0 (0x400 + 8 * p.1)) (16 + k)
  !subs.isEmpty && subs.all fun k => h.asleep (s * 8 + k)

/-- The verdicts that a read of HUB_VERDICT sees: those pushed before this hub cycle (R12). -/
def Hub.verdicts (h : Hub) : List (Nat × Nat) := h.hang.fifo.take (h.hang.fifo.length - h.hang.fifoNew)

/-- The bytes `b` of slot `k` as they are read: zeros where nothing was written, a broken echo where an uncorrected error stands (Table 18.1). -/
def Hub.recCopy (h : Hub) (k : Nat) (b : List Byte) : List Byte :=
  if b.isEmpty then zeros 512
  else if h.er.bad.contains k then patch b 0x1F8 (leBytes 4 (leAt b 0 4 ^^^ 0xFFFFFFFF)) else b

/-- The bytes of slot `k` as the last commit left them. -/
def Hub.slotNow (h : Hub) (k : Nat) : List Byte := h.recCopy k (SMap.get [] h.er.store k)

/-- Bytes a slot of the event store shows; a damaged slot shows a broken echo (R389, Table 18.1). -/
def Hub.slotBytes (h : Hub) (k : Nat) : List Byte :=
  match h.er.oldSlot with
  | some (s, c, o) => if s = k ∧ c = h.clk.cycle then h.recCopy k o else h.slotNow k
  | none => h.slotNow k

/-- The masked copy of a record: a tenant arg is 0 and flags bit 3 is set (R389, R390). -/
def maskRecord (b : List Byte) : List Byte :=
  let f := leAt b 5 1
  if bit f 2 then patch (patch b 0x38 (zeros 8)) 5 (leBytes 1 (f ||| 8)) else b

/-- Reset value of an SLC_ share register (R454). -/
def shareReset (s : Nat) : Nat := if s = 0 then 0x10100 else 0x10010

/-- Offset of an entry register of slice `s` (R454). -/
def slcOff (s off : Nat) : Nat := 0xB1000 + 0x40 * s + off

/-- Contexts of a slice that are not FREE. -/
def Hub.sliceCtxs (h : Hub) (s : Nat) : List Nat := (h.ctx.filter fun c => c.2.st != .free && c.2.slice == s).map Prod.fst

/-- Exported fences allocated to a slice. -/
def Hub.sliceExports (h : Hub) (s : Nat) : List Nat := (h.slc.exports.filter fun e => e.2 == s + 1).map Prod.fst

/-- Unit move pending into or out of a slice (Table 14.1). -/
def Hub.movePending (h : Hub) (s : Nat) : Bool := h.slc.moves.any fun m => m.2 == s || h.unitSlice m.1 == s

/-- Calendar time at a tick (R133, R135). -/
def Hub.calendar (h : Hub) (t : Nat) : Nat := if h.cal.valid then (t + h.cal.offset) % 2 ^ 64 else 0

/-- The selected context, station or slice of a master. -/
def Hub.sel (h : Hub) (off : Nat) (m : Master) : Nat := h.rwGet 0 off m.idx

/-- The latest slots of the two rings (R378). -/
def Er.ghead (e : Er) : Nat := (e.gcount + 7679) % 7680
def Er.ahead (e : Er) : Nat := 7680 + (e.acount + 511) % 512

/-- Attribution entries of a slice. -/
def Hub.attUsed (h : Hub) (s : Nat) : Nat := (h.cnt.att.filter fun e => e.2.slice == s).length

/-- A word of the MSI-X table; a vector-control word resets to 1 (R480). -/
def Irq.word (q : Irq) (i : Nat) : Nat := SMap.get (if i % 4 = 3 then 1 else 0) q.table i

/-! ## Reservations (R215) -/

/-- The block of a request. -/
def Hub.reqBlock (h : Hub) (q : Nat × Nat) : Option Block := (h.getStn q.1).peck.blocks.find? fun b => b.seq == q.2

/-- Where an extent of `len` bytes goes: past a filler if it would cross the ring's end (R215). -/
def Ring.place (r : Ring) (len : Nat) : Nat :=
  if r.size ≠ 0 ∧ r.size < r.wr % r.size + len then r.wr + (r.size - r.wr % r.size) else r.wr

/-- The extent fits in stop mode (R215). -/
def Ring.fits (r : Ring) (len : Nat) : Bool := decide (r.place len + len ≤ r.rd + r.size)

/-- A request whose ring has room, or is disabled. -/
def Hub.grantable (h : Hub) (b : Block) : Bool :=
  let r := SMap.get {} h.trc.ring b.slice
  !r.on || b.flush || bit (h.act 0 (0x82000 + 0x20 * b.slice)) 30 || r.fits b.len

/-- The bucket of a block whose ring is enabled holds fewer tokens than the block takes. -/
def Hub.lacksTokens (h : Hub) (b : Block) : Bool :=
  (SMap.get {} h.trc.ring b.slice).on && decide ((if b.flush then h.trc.flushTokens else h.trc.tokens) < b.len)

/-- Reservation requests that wait for tokens (R219): their ring has room, their bucket does not hold their tokens. -/
def Hub.tokenWaits (h : Hub) : Nat :=
  (h.trc.queue.filter fun q => match h.reqBlock q with | some b => h.grantable b && h.lacksTokens b | none => false).length

/-! ## The hub blocks -/

/-- Value of a register of the HUB_ and TIM_ blocks. -/
def hubView (h : Hub) (m : Master) (f : Fam) (i : Nat) : Nat :=
  match f with
  | .hubId => 0xC1080003
  | .hubEpoch => h.clk.epoch
  | .hubCommitStatus =>
    let c := SMap.get {} h.chain.stat m.idx
    at_ (b2n c.pending) 31 + at_ (c.excluded % 2048) 16 + c.status
  | .hubCommitEpoch => (SMap.get {} h.chain.stat m.idx).epoch % 2 ^ 32
  | .hubChainStatus => 0xFFFFFFFF - h.chain.ringBad
  | .hubClkStatus => at_ (b2n h.clk.pllLoss) 1 + b2n h.clk.fallback
  | .hubStnSel => h.sel 0x38 m
  | .hubStnState =>
    let s := h.sel 0x38 m
    if stnOk s then
      let l := h.getLink s
      at_ (Nat.min 255 l.errFlits) 8 + at_ (Nat.min 3 l.missed) 4 + l.bypass.code
    else 0
  | .hubChwin => (SMap.get {} h.chain.win m.idx).sel
  | .hubChwinStatus =>
    let w := SMap.get {} h.chain.win m.idx
    at_ (b2n w.held) 31 + at_ (h.rcVal 0x44 m.idx 30) 30 + w.status
  | .hubPkg => at_ (b2n h.boot.pkgValid) 31 + h.boot.pkg % 1024
  | .hubBootStatus => at_ h.boot.phase 28 + at_ (h.boot.section_ % 256) 16 + h.boot.status
  | .hubAszStatus =>
    let o := match h.ldr.owner with | some .host => 1 | some .span => 2 | _ => 0
    at_ (b2n h.ldr.owner.isSome) 31 + at_ o 29 + at_ h.ldr.mode 27 + at_ h.ldr.st.code 24 + at_ (h.ldr.section_ % 256) 16 + h.ldr.status
  | .hubAszCount => h.ldr.count % 2 ^ 32
  | .hubAszResult => SMap.get 0 h.ldr.result m.idx
  | .hubDieId => if h.boot.identity then leAt h.boot.dieId (4 * i) 4 else 0
  | .hubRestartStatus =>
    at_ h.rst.st 30 + at_ h.rst.cause 27 + at_ (Nat.min 3 h.rst.mismatches) 24 + at_ (Nat.min 255 h.rst.restarts) 16 + h.rst.status
  | .hubWdogStatus => at_ (b2n h.wdog.expired) 31 + Nat.min 0xFFFF (h.wdog.silent / 1000000)
  | .hubFirkinKeep => b2n h.boot.kept
  | .hubScanStatus => at_ (b2n h.hang.scan.isSome) 31 + at_ (h.rcVal 0x114 0 30) 30 + h.hang.overCount
  | .hubScanSeq => h.hang.scans % 2 ^ 32
  | .hubVerdict => match h.verdicts with | (c, s) :: _ => 2 ^ 31 + at_ s 18 + c | [] => 0
  | .hubVerdictStat => at_ (h.rcVal 0x124 0 16) 16 + h.hang.fifo.length
  | .hubCtxSel => h.sel 0x130 m
  | .hubCtxState =>
    let c := h.getCtx (h.sel 0x130 m)
    at_ c.st.code 30 + at_ c.slice 24 + at_ (b2n c.reported) 23 + c.idle
  | .hubCtxProgress => (h.getCtx (h.sel 0x130 m)).progress
  | .hubWfgStatus => h.hang.wfgStatus
  | .hubWfgCut => h.hang.wfgCut
  | .hubWfgEdges => h.hang.wfgEdges
  | .hubIrqStatus => h.irq.status
  | .hubIrqEn => h.irq.en
  | .hubIrqTunlow => h.rwGet 0x40 0x208 0
  | .hubHostDbStat => at_ (h.rcVal 0x214 0 16) 16 + h.db.fifo.length
  | .hubHostDbPop => h.db.fifo.headD 0
  | .hubFwDbCode => h.db.fwCode
  | .hubMbxStatus =>
    let x := SMap.get {} h.mbx m.idx
    at_ (b2n x.busy) 31 + at_ (b2n x.ready) 30 + x.status
  | .hubMbxRlen => (SMap.get {} h.mbx m.idx).resp.length % 65536
  | .hubMbxRdata => let x := SMap.get {} h.mbx m.idx; leAt x.resp x.pos 4
  | .hubEccCnt => at_ (h.rcVal (0x300 + 4 * i) 0 16) 16 + h.rcVal (0x300 + 4 * i) 0 0
  | .hubEccLast => at_ (b2n h.ecc.valid) 31 + at_ h.ecc.store 28 + h.ecc.station
  | .hubEccWord => h.ecc.word % 2 ^ 32
  | .hubRail => at_ (b2n h.rail.collapsed) 31 + at_ (b2n h.rail.low.isNone) 30
  | .hubRailTick => h.rail.tick
  | .msixTable => h.irq.word i
  | .msixPba => if i = 0 then h.irq.pba else 0
  | .timNow => h.now
  | .timCalNow => h.calendar h.now
  | .timCalStatus => at_ (b2n h.cal.valid) 31 + at_ (b2n h.cal.pending) 30 + h.cal.status
  | .timCalGen => h.cal.gen
  | .timCalOffset => h.cal.offset
  | .timFallbackTick => h.clk.fbTick
  | .timSkewStatus => at_ (h.rcVal 0x1003C 0 20) 20 + at_ (h.rcVal 0x1003C 0 16) 16 + h.cal.lastSkew
  | _ => 0

/-- Value of a register of the SEC_, CUT_, DMP_ and CE_ blocks. -/
def midView (h : Hub) (m : Master) (f : Fam) (i : Nat) : Nat :=
  match f with
  | .secStatus =>
    if m = .pair then 0
    else
      let s := h.getSecM m
      if h.role m = 0 then 0 else 2 ^ 31 + at_ (h.role m) 29 + Nat.min 0x1FFFF ((s.leaseEnd - h.sec.lease) / 1000000000)
  | .secCmdStatus => let s := h.getSecM m; at_ (b2n s.check.isSome) 31 + at_ s.reason 16 + s.status
  | .secNonce => leAt (h.getSecM m).nonce (4 * i) 4
  | .secSliceSel => h.sel 0x20020 m
  | .secSliceState =>
    let k := h.getKeys (h.sel 0x20020 m)
    at_ (b2n (!k.owner.isEmpty)) 31 + at_ (b2n (!k.token.isEmpty)) 30 + at_ (b2n k.rekey) 29 + at_ (Nat.min 255 k.opens) 16
      + k.cur.gen % 65536
  | .secSliceKeyid => (h.getKeys (h.sel 0x20020 m)).cur.keyId
  | .secSliceEpub => leAt (h.getKeys (h.sel 0x20020 m)).cur.epub (4 * i) 4
  | .secKeyout => SMap.get 0 (h.keyoutShown m) i
  | .cutStatus =>
    let c := SMap.get {} h.cut.m m.idx
    let st : CutSt := match h.cut.byId c.cut with | some r => if c.cut = 0 then .idle else r.st | none => .idle
    at_ (b2n (st == .scheduled || st == .stopping)) 31 + at_ st.code 28 + c.status
  | .cutId => (SMap.get {} h.cut.m m.idx).id
  | .cutResult0 => at_ h.cut.clean 16 + h.cut.forced
  | .cutResult1 => at_ (b2n h.cut.overflow) 31 + at_ h.cut.unobserved 16 + h.cut.unreported
  | .cutExcl => h.cut.excl
  | .cutDone => h.cut.done
  | .cutBench => at_ (b2n h.cut.benchEn) 31 + at_ (b2n h.cut.bench) 30 + h.cut.benchStatus
  | .cutXresult => at_ (h.cut.reported % 2048) 16 + h.cut.late % 2048
  | .cutDstate => match h.cut.dieCut with | some r => at_ r.st.code 29 + cutSerial r.id | none => 0
  | .cutSstate =>
    match h.cut.ofSlice i with | some r => at_ (r.stOf i).code 29 + at_ (b2n r.die) 28 + cutSerial r.id | none => 0
  | .dmpStatus =>
    at_ (b2n (h.dmp.st != .idle || h.dmp.next.isSome)) 31 + at_ h.dmp.st.code 28 + (SMap.get {} h.dmp.m m.idx).status
  | .dmpObj => (SMap.get {} h.dmp.m m.idx).object
  | .dmpProg => h.dmp.prog
  | .dmpTunBase => h.boot.tunBase
  | .dmpTunSize => h.boot.tunSize
  | .dmpTunWr => h.dmp.wr
  | .dmpTunDone => h.dmp.done
  | .dmpTunRd => h.dmp.rd
  | .dmpTunStat => at_ (b2n (h.dmp.w.any fun w => w.2.st == .partial_)) 31 + Nat.min 16 h.dmp.fires.length
  | .dmpWStat => let w := SMap.get {} h.dmp.w i; at_ w.st.code 29 + w.status
  | .dmpWFired => at_ (h.rcVal (0x4202C + 0x40 * i) 0 16) 16 + Nat.min 0xFFFF (SMap.get {} h.dmp.w i).fired
  | .dmpWDone => (SMap.get {} h.dmp.w i).done
  | .dmpWObj => (SMap.get {} h.dmp.w i).object
  | .ceState =>
    let b := SMap.get {} h.ce.bank i
    at_ (b2n b.busy) 31 + at_ (b2n b.owner.isSome) 30 + at_ (b2n b.decode) 29 + b.block % 65536
  | .ceIn => (SMap.get {} h.ce.bank i).in_
  | .ceOut => (SMap.get {} h.ce.bank i).out
  | .ceBlocks => (SMap.get {} h.ce.bank i).blocks % 2 ^ 32
  | .ceRaw => at_ (h.rcVal (0x5001C + 0x4000 * i) 0 16) 16 + h.rcVal (0x5001C + 0x4000 * i) 0 0
  | .ceVfailLast =>
    let b := SMap.get {} h.ce.bank i
    at_ (b2n b.vfailValid) 31 + at_ (b2n b.vfailOwner) 30 + b.vfailBlock % 65536
  | .ceVfailTick => (SMap.get {} h.ce.bank i).vfailTick
  | .ceJobStatus => let j := SMap.get {} h.ce.job (i * 4 + m.idx); at_ (b2n j.busy) 31 + j.status
  | .ceJobIn => (SMap.get {} h.ce.job (i * 4 + m.idx)).in_ % 2 ^ 32
  | .ceJobOut => (SMap.get {} h.ce.job (i * 4 + m.idx)).out % 2 ^ 32
  | .ceJobFail => let j := SMap.get {} h.ce.job (i * 4 + m.idx); at_ (b2n j.failValid) 31 + j.fail % 65536
  | _ => 0

/-- Value of a register of the ER_, CNT_, ATT_, TRC_, SPN_, TLM_ and SLC_ blocks. -/
def topView (h : Hub) (m : Master) (f : Fam) (i : Nat) : Nat :=
  match f with
  | .erStatus => at_ (b2n h.er.lost.any) 31 + at_ h.er.fifo.length 16 + h.er.sysq.length
  | .erSeq => (h.er.seq + 2 ^ 32 - b2n (decide (0 < h.er.gcount + h.er.acount))) % 2 ^ 32
  | .erHead =>
    (if h.er.gcount = 0 then 0 else 2 ^ 31 + h.er.ghead) + (if h.er.acount = 0 then 0 else 2 ^ 30 + at_ h.er.ahead 16)
  | .erLost => h.rcVal 0x60010 0 0
  | .erSyslost => h.rcVal 0x60014 0 0
  | .erCursor => (SMap.get {} h.er.cursor m.idx).slot
  | .erCursorStatus =>
    let c := SMap.get {} h.er.cursor m.idx
    at_ (b2n c.held) 31 + at_ (h.rcVal 0x60024 m.idx 30) 30 + at_ c.role 16 + c.status
  | .erFwStatus => at_ (b2n (h.er.fwQueued != 0)) 31 + h.er.fwStatus
  | .erAuditHead => leAt h.er.link (4 * i) 4
  | .erAuditCnt => h.er.acount
  | .erAuditGap => h.er.gapTotal
  | .erSpillWr => h.er.spillWr
  | .erSpillRd => h.er.spillRd
  | .erSpillStat =>
    at_ (b2n h.er.spilling.isSome) 31 + at_ (b2n (decide (h.er.spillWr - h.er.spillRd = 1024))) 30 + (h.er.acount - h.er.spillFirst)
  | .erWin =>
    let c := SMap.get {} h.er.cursor m.idx
    if c.held then
      let b := h.slotBytes c.slot
      leAt (if m = .pair then b else maskRecord b) (4 * i) 4
    else 0
  | .cntStatus => at_ (h.rcVal 0x70004 0 16) 16
  | .cntSeq => h.cnt.seq
  | .cntRingWr => (SMap.get {} h.cnt.ring i).wr
  | .cntRingRd => (SMap.get {} h.cnt.ring i).rd
  | .cntRingStat =>
    at_ (h.rcVal (0x7101C + 0x20 * i) 0 31) 31 + at_ (h.rcVal (0x7101C + 0x20 * i) 0 30) 30 + (SMap.get {} h.cnt.ring i).status
  | .attStatus => at_ (b2n (decide (h.cnt.att.length = 262144))) 31 + h.cnt.att.length
  | .attSused => h.attUsed i
  | .attSovf => (SMap.get {} h.cnt.bucket i).overflow
  | .trcTrgCount => h.rcVal 0x80008 0 0
  | .trcTrgLast => match h.trc.last with | some t => at_ t.cond 16 + t.unit | none => 0
  | .trcDrainStat => at_ (Nat.min 0xFFFF h.tokenWaits) 16 + h.rcVal 0x80014 0 0
  | .trcRingWr => (SMap.get {} h.trc.ring i).wr
  | .trcRingRd => (SMap.get {} h.trc.ring i).rd
  | .trcRingStat =>
    let r := SMap.get {} h.trc.ring i
    at_ (b2n r.waiting) 31 + at_ (h.rcVal (0x8201C + 0x20 * i) 0 30) 30 + r.status
  | .spnStatus =>
    at_ (b2n h.span.tap) 31 + at_ (b2n (!h.clk.onPll)) 30 + at_ (b2n h.span.bulk.isSome) 29 + at_ (Nat.min 4 (h.span.held.filter fun c => c.refuse == 0).length) 26
      + h.span.status
  | .spnAttn => h.span.attn
  | .spnAttnEn => h.rwGet 0x1FF 0x90008 0
  | .spnMsg => h.span.msg
  | .spnErr =>
    at_ (h.rcVal 0x90014 0 24) 24 + at_ (h.rcVal 0x90014 0 16) 16 + at_ (h.rcVal 0x90014 0 8) 8 + h.rcVal 0x90014 0 0
  | .tlmStatus => let q := SMap.get {} h.tlm.q m.idx; at_ (b2n q.busy) 31 + q.status
  | .tlmRes => SMap.get 0 (SMap.get {} h.tlm.q m.idx).res i
  | .tlmResTick => h.tlm.resTick
  | .tlmAlertStat => at_ (b2n h.tlm.above) 31 + at_ h.tlm.topSensor 24 + h.tlm.topTemp
  | .slcCmdStatus =>
    let b := match h.slc.busy with | some (o, _) => decide (o = m) | none => false
    at_ (b2n b) 31 + (SMap.get {} h.slc.m m.idx).cmdStatus
  | .slcCtxId => let x := SMap.get {} h.slc.m m.idx; at_ (b2n x.ctxValid) 31 + x.ctxId
  | .slcCtxStatus => (SMap.get {} h.slc.m m.idx).ctxStatus
  | .slcExpStatus => (SMap.get {} h.slc.m m.idx).expStatus
  | .slcUse =>
    at_ (h.slc.e.filter fun e => e.2.st != .free).length 25 + (h.ctx.filter fun c => c.2.st != .free).length
  | .slcExpUse => h.slc.exports.length
  | .slcEvents => at_ (h.rcVal 0xB0038 0 16) 16 + h.rcVal 0xB0038 0 0
  | .slcMoveStat => at_ h.slc.moveStatus 16 + h.slc.moves.length
  | .slcHdr =>
    let e := h.getSlice i
    at_ (b2n e.died + 2 * b2n (h.movePending i)) 16 + at_ e.st.code 8 + i
  | .slcEPasid => (h.getSlice i).pasid
  | .slcCreated => (h.getSlice i).created
  | .slcUnits => if (h.getSlice i).st = .free then 0 else (h.sliceUnits i).length
  | .slcCtx => (h.sliceCtxs i).length
  | .slcCounts => at_ (Nat.min 0xFFFF (h.sliceExports i).length) 16 + Nat.min 0xFFFF (h.getSlice i).resets
  | .slcStatus => (h.getSlice i).status
  | .slcReset => (h.getSlice i).reset
  | _ => 0

/-- Value of a computed Perch register of station `s`. -/
def pchView (h : Hub) (s : Nat) (f : Fam) (i : Nat) : Nat :=
  let t := h.getStn s
  match f with
  | .pchId => 0x30000 + at_ (stnClass s) 12 + s
  | .pchStatus => h.pchStatus s
  | .pchTick => h.stnTick s
  | .pchComp => at_ (b2n t.compDesign) 31 + at_ t.compRing 16 + at_ (t.compB % 256) 8 + t.compA % 256
  | .pchGrainStat => h.rcVal (pchOff s 0x24) 0 0
  | .pchGrain => SMap.get 0 (SMap.get {} t.grain (i / 8)).old (i % 8)
  | .pchTmarkPeer => at_ (b2n t.mark.valid) 31 + at_ t.mark.peerPkg 21 + at_ t.mark.peerLink 16 + t.mark.msn
  | .pchTmarkRxPeer => t.mark.rxPeer
  | .pchTmarkRxLocal => t.mark.rxLocal
  | .pchTmarkTx => t.mark.tx
  | .pchTmarkEchoTx => t.mark.echoTx
  | .pchTmarkEchoRx => t.mark.echoRx
  | .pchTrgStat => (List.range 4).foldl (fun a k => a + at_ (h.rcVal (pchOff s 0x4BC) 0 (8 * k)) (8 * k)) 0
  | .pchTstate =>
    (List.range 4).foldl (fun a k =>
      let x := SMap.get {} t.src k
      a + at_ x.st.code (2 * k) + at_ (b2n x.excl.isSome) (8 + k)) 0 + at_ (b2n (h.tAsleep s)) 12
  | .pchPeckState =>
    at_ t.peck.status 16 + at_ t.peck.rsv.length 8
      + (List.range 4).foldl (fun a k => a + at_ (SMap.get {} t.peck.part k).st.code (2 * k)) 0
  | .pchPeckFill =>
    let p := SMap.get {} t.peck.part i
    at_ (if p.st = .post then p.budget % 65536 else 0) 16 + Nat.min 0xFFFF p.fill
  | .pchPeckLost => (List.range 4).foldl (fun a k => a + at_ (h.rcVal (pchOff s 0x530) 0 (8 * k)) (8 * k)) 0
  | .pchPeckRsv => at_ (h.rcVal (pchOff s 0x534) 0 8) 8 + h.rcVal (pchOff s 0x534) 0 0
  | .pchGate => (List.range 8).foldl (fun a k => a + at_ (SMap.get {} t.gate k).st.code (3 * k)) 0
  | .pchGateTick => t.gateTick
  | .pchCapStat =>
    at_ (b2n (!t.cap.armed.isEmpty)) 31 + at_ (b2n t.cap.overflow) 30 + at_ t.cap.entries.length 16 + (t.cap.used + 63) / 64
  | .pchCapLate => h.rcVal (pchOff s 0x614) 0 0
  | .pchWaitCtl =>
    match h.edgeSeen s i with
    | some e => 2 ^ 31 + at_ e.edge.kind 28 + at_ e.edge.op 26 + at_ e.edge.pkg 16 + e.edge.peer
    | none => 0
  | .pchWaitCtx => match h.edgeSeen s i with | some e => at_ e.slice 18 + e.context | none => 0
  | .pchWaitObj => match h.edgeSeen s i with | some e => e.edge.obj | none => 0
  | .pchWaitArg => match h.edgeSeen s i with | some e => h.maskArg (s * 8 + i) e.edge | none => 0
  | .pchWaitSince => match h.edgeSeen s i with | some e => e.since | none => 0
  | _ => 0

/-! ## Finding a register -/

/-- A register named by a host-window offset: its row, its member, whether the word is _HI, its station (for a Perch slot), its
own offset, and whether the offset is its active mirror. -/
structure Loc where
  row : RegRow
  i : Nat
  hi : Bool
  stn : Nat
  /-- offset of the register's first word -/
  base : Nat
  mirror : Bool
  deriving DecidableEq, Repr

/-- Whether a Perch row's member exists at a station (Table 17.4, R498). -/
def RegRow.atStn (r : RegRow) (s i : Nat) : Bool :=
  match r.cls with
  | .all => true
  | .tile => decide (stnClass s = 0)
  | .link => decide (stnClass s = 2)
  | .cap => decide (stnClass s = 2) || decide (stnClass s = 3)
  | .sub1 => bit (subValid s) i
  | .sub8 => bit (subValid s) (i / 8)

/-- First row of a list that holds an offset. -/
def findRow : List RegRow → Nat → Option (RegRow × Nat × Bool)
  | [], _ => none
  | r :: l, o => match r.hit o with | some (i, b) => some (r, i, b) | none => findRow l o

/-- The register at an offset of a hub block, not through a mirror. -/
def locHub (off : Nat) : Option Loc :=
  match findRow (rowsOf off) off with
  | some (r, i, b) => some ⟨r, i, b, 0, off - (if b then 4 else 0), false⟩
  | none => none

/-- The active mirror of an offset of a hub block (R68). -/
def mirrorOf (off : Nat) : Option Nat :=
  if off / 0x10000 = 5 then (if 0x2000 ≤ off % 0x4000 then some (off - 0x2000) else none)
  else if 0x8000 ≤ off % 0x10000 then some (off - 0x8000) else none

/-- The register at a host-window offset (R495 to R498); none where the offset is reserved. -/
def locate (off : Nat) : Option Loc :=
  if off < 0xC0000 then
    match mirrorOf off with
    | some o => match locHub o with
      | some l => if l.row.kind = .rws then some { l with mirror := true } else none
      | none => none
    | none => locHub off
  else if 0x100000 ≤ off ∧ off < 0x900000 then
    let s := (off - 0x100000) / 0x1000
    let o := (off - 0x100000) % 0x1000
    if !stnOk s then none
    else
      let mir := decide (0x800 ≤ o)
      match findRow rowsPch (if mir then o - 0x800 else o) with
      | some (r, i, b) =>
        if r.atStn s i && (!mir || decide (r.kind = .rws)) then some ⟨r, i, b, s, off - (if b then 4 else 0) - (if mir then 0x800 else 0), mir⟩
        else none
      | none => none
  else none

/-- Reset value of a located register; some families' values depend on the member (R221, R454). -/
def Loc.reset (l : Loc) : Nat :=
  match l.row.fam with
  | .pchPeckPart => if l.i = 0 then (if stnClass l.stn = 0 then 0x7F else 0x1F) else l.row.reset
  | _ => l.row.reset

/-- The read-only bits of a register whose other bits are RWS. -/
def Loc.roBits (h : Hub) (l : Loc) : Nat :=
  match l.row.fam with
  | .pchTrngCtl =>
    SMap.get 0 (h.getStn l.stn).inRange l.i
  | _ => 0

/-- The slice map of four units as bytes, from the active slices (R442, R455). -/
def Hub.umapActive (h : Hub) (k : Nat) : Nat :=
  (List.range 4).foldl (fun a j => let u := 4 * k + j; a + at_ (if unitOk u then h.unitSlice u else 0) (8 * j)) 0

/-- The 64-bit value of a located register as a master reads it, with no side effect. -/
def Loc.value (h : Hub) (m : Master) (l : Loc) : Nat :=
  match l.row.kind with
  | .rws =>
    if l.mirror then
      (if l.row.fam = .slcUmap then h.umapActive l.i else h.act l.reset l.base ||| Loc.roBits h l)
    else h.shd l.reset l.base ||| Loc.roBits h l
  | .rw =>
    match l.row.fam with
    | .hubWfgStatus => h.hang.wfgStatus
    | _ => h.rwGet l.reset l.base (if l.row.own then m.idx else 0)
  | _ =>
    if 0x100000 ≤ l.base then pchView h l.stn l.row.fam l.i
    else if l.base < 0x20000 then hubView h m l.row.fam l.i
    else if l.base < 0x60000 then midView h m l.row.fam l.i
    else topView h m l.row.fam l.i

/-- The 32-bit word at a host-window offset as a master's copy shows it, with no side effect; a _HI word shows bits [63:32]. -/
def Hub.wordAt (h : Hub) (m : Master) (off : Nat) : Nat :=
  match locate off with
  | some l => let v := l.value h m; (if l.hi then v / 2 ^ 32 else v) % 2 ^ 32
  | none => 0

end Sys2Proof.Machine
end

