-- ==== Sys2Proof/Machine/Recorder.lean ====
section
/-!
DEFINITION. Machine/Recorder.lean: the event recorder (chapter 12): builds and snapshot sets, commits and the audit chain, lost and gap
records, the cursor, firmware records and the audit spill.
-/
namespace Sys2Proof.Machine

/-- The HVC path to HBM is up: neither collapsed nor on the board reference after a fallback (R510). -/
def Hub.nocUp (h : Hub) : Bool := !h.rail.collapsed && !h.clk.fallback

/-! ## Builds and snapshot sets (R385 to R387) -/

/-- The word a hub-register or station-register selector takes: the value and offset, or the 64-bit pair (R385). -/
def Hub.snapWord (h : Hub) (base sel : Nat) : Nat :=
  let off := base + field sel 23 0
  match locate off with
  | none => 0
  | some l =>
    let v := if l.row.rd = .pair then 0 else l.value h .host
    if bit sel 29 then (if l.row.pair && !l.hi then v else 0)
    else at_ (field sel 23 0) 32 + (if l.hi then v / 2 ^ 32 else v) % 2 ^ 32

/-- Selector `j` of snapshot set `n`, in the active copy. -/
def Hub.selector (h : Hub) (n j : Nat) : Nat := h.act 0 (0x61000 + 0x100 * n + 4 * j)

/-- A valid selector, and whether it names a register of the trigger's station. -/
def selValid (x : Nat) : Bool := bit x 31
def selStation (x : Nat) : Bool := bit x 31 && bit x 30

/-- The content words of a snapshot set with its hub registers, the station words at 0 (R385). -/
def Hub.snapHub (h : Hub) (n : Nat) : List Nat :=
  let xs := (List.range 55).map fun j => h.selector n j
  let top := (List.range 55).foldl (fun a j => if selValid (h.selector n j) then j + 1 else a) 0
  (xs.take top).map fun x => if selValid x && !bit x 30 then h.snapWord 0 x else 0

/-- Add the station words of a set, taken at the station, and the tick of the copy in word 54; an offset beyond the station's slot names no register (R385). -/
def Hub.snapStation (h : Hub) (n stn : Nat) (w : List Nat) : List Nat :=
  ((List.range 54).map fun j =>
    let x := h.selector n j
    if !selStation x then w.getD j 0
    else if field x 23 0 < 0x1000 then h.snapWord (pchOff stn 0) x else 0) ++ [h.stnTick stn]

/-- Start of the build of a request (R385 to R387). -/
def Hub.buildOf (h : Hub) (r : Req) : Build :=
  match r.snap with
  | none => { req := r, start := h.clk.cycle, words := r.words }
  | some n =>
    let stn := unitStn r.unit
    let needs := (List.range 55).any fun j => selStation (h.selector n j)
    let up := h.observed stn
    { req := r, start := h.clk.cycle, words := h.snapHub n, stnPending := needs && up, incomplete := needs && !up }

/-- The recorder starts a build while fewer than four run: from the system queue, else from the FIFO (R387). -/
def Hub.erBuildStart (h : Hub) : Hub :=
  if 4 ≤ h.er.builds.length then h
  else
    match h.er.sysq, h.er.fifo with
    | r :: q, _ => { h with er := { h.er with sysq := q, builds := h.er.builds ++ [h.buildOf r] } }
    | [], r :: q => { h with er := { h.er with fifo := q, builds := h.er.builds ++ [h.buildOf r] } }
    | [], [] => h

/-- Index of the oldest build that waits for its station copy. -/
def Er.waitingBuild (e : Er) : Option Nat := firstIdx (·.stnPending) e.builds

/-- The station copy of the oldest waiting build arrives (R386). -/
def Hub.erStationCopy (h : Hub) : Hub :=
  match h.er.waitingBuild with
  | none => h
  | some i =>
    let f := fun (b : Build) =>
      { b with stnPending := false, stnTaken := true, words := h.snapStation (b.req.snap.getD 0) (unitStn b.req.unit) b.words }
    { h with er := { h.er with builds := modAt h.er.builds i f } }

/-- No station copy within 8,192 hub cycles: the words stay at 0 and the record is marked incomplete (R386). -/
def Hub.erStationCopyTimeout (h : Hub) : Hub :=
  match h.er.waitingBuild with
  | none => h
  | some i =>
    match h.er.builds[i]? with
    | some b =>
      if h.clk.cycle < b.start + 8192 then h
      else { h with er := { h.er with builds := setAt h.er.builds i { b with stnPending := false, incomplete := true } } }
    | none => h

/-! ## Commits (R379 to R381, R393, R394) -/

/-- Fields of a record that the hub fills at the commit. -/
structure RecStamp where
  seq : Nat
  written : Nat
  calendar : Nat
  gen : Nat
  deriving DecidableEq, Repr

/-- The 64-byte header of a record (Table 12.1). -/
def recHeader (r : Req) (st : RecStamp) (flags words : Nat) : List Byte :=
  leBytes 4 st.seq ++ leBytes 1 r.cls ++ leBytes 1 flags ++ leBytes 2 r.code ++ leBytes 8 r.tick ++ leBytes 8 st.written
    ++ leBytes 8 st.calendar ++ leBytes 2 st.gen ++ leBytes 1 r.slice ++ leBytes 1 r.origin ++ leBytes 2 r.unit
    ++ leBytes 2 r.status ++ leBytes 4 (match r.ctx with | some c => c + 2 ^ 31 | none => 0) ++ leBytes 4 r.aux
    ++ leBytes 2 r.causeSrc ++ leBytes 1 words ++ [0] ++ leBytes 4 r.causeSeq ++ leBytes 8 r.arg

/-- The echo word (R381). -/
def echoWord (seq cls : Nat) : List Byte := leBytes 4 seq ++ leBytes 1 cls ++ zeros 3

/-- The gap record's fields as they stand at its commit (R395, code 0x0809). -/
def Er.gapReq (e : Er) (r : Req) : Req :=
  { r with tick := e.gap.first, aux := e.gap.count, arg := e.gap.first,
           words := e.gap.last :: (List.range 5).map fun o => SMap.get 0 e.gap.byOrigin o }

/-- The 512 bytes of a record of any class but audit. -/
def recGeneral (b : Build) (st : RecStamp) : List Byte :=
  let r := b.req
  if !r.image.isEmpty then
    let i := patch r.image 0 (leBytes 4 st.seq ++ leBytes 1 r.cls)
    let i := patch i 5 (leBytes 1 (clearBits (leAt r.image 5 1) 9) ++ leBytes 2 r.code)
    let i := patch i 0x10 (leBytes 8 st.written ++ leBytes 8 st.calendar ++ leBytes 2 st.gen)
    patch (patch i 0x23 (leBytes 1 r.origin)) 0x1F8 (echoWord st.seq r.cls)
  else
    let flags := 2 * b2n b.incomplete + 4 * b2n r.tenant + 16 * b2n b.stnTaken
    padTo 0x1F8 (recHeader r st flags b.words.length ++ b.words.flatMap (leBytes 8)) ++ echoWord st.seq r.cls

/-- The bytes of an audit record that its link covers: the header and words 0 to 48 (R394). -/
def recAuditHead (r : Req) (st : RecStamp) (index : Nat) : List Byte :=
  padTo 0x1C0 (recHeader r st 1 r.words.length ++ r.words.flatMap (leBytes 8)) ++ leBytes 8 index

/-- What the first audit record's link covers in place of a previous link (R394). -/
def chainSeed (nonce : List Byte) : List Byte := sha384 (ascii "CLOIR-AUDIT" ++ padTo 32 nonce)

/-- A calendar set took effect in this hub cycle (R136). -/
def Hub.setNow (h : Hub) : Bool := h.cal.setCyc == h.clk.cycle + 1

/-- Calendar time and generation that a record of an event at tick `t` takes at its commit: those before a set of the same hub cycle (R136, R393). -/
def Hub.recCalendar (h : Hub) (t : Nat) : Nat × Nat :=
  if h.setNow then (if h.cal.oldGen = 0 then 0 else (t + h.cal.oldOffset) % 2 ^ 64, h.cal.oldGen) else (h.calendar t, h.cal.gen)

/-- Commit of a build (R380): the slot changes, the record takes the next sequence number, an audit record extends the chain. -/
def Hub.commitBuild (h : Hub) (b : Build) : Hub :=
  let e := h.er
  let r := if b.req.gap then e.gapReq b.req else b.req
  let b := { b with req := r, words := if b.req.gap then r.words else b.words }
  let tick := if r.image.isEmpty then r.tick else leAt r.image 8 8
  let cal := h.recCalendar tick
  let st : RecStamp := ⟨e.seq, h.now, cal.1, cal.2⟩
  let audit := decide (r.cls = 8)
  let slot := if audit then 7680 + e.acount % 512 else e.gcount % 7680
  let head := recAuditHead { r with words := b.words } st e.acount
  let link := sha384 ((if e.acount = 0 then chainSeed e.chainNonce else e.link) ++ head)
  let bytes := if audit then head ++ link ++ echoWord e.seq 8 else recGeneral b st
  let e := { e with
    oldSlot := some (slot, h.clk.cycle, SMap.get [] e.store slot), bad := e.bad.filter (· != slot),
    store := SMap.set [] e.store slot bytes, seq := (e.seq + 1) % 2 ^ 32, nextCommit := h.clk.cycle + 8,
    gcount := if audit then e.gcount else e.gcount + 1, acount := if audit then e.acount + 1 else e.acount,
    link := if audit then link else e.link, gap := if r.gap then {} else e.gap,
    fwQueued := if r.image.isEmpty then e.fwQueued else e.fwQueued - 1 }
  ({ h with er := e }).irqAll (recVectors r.cls r.code)

/-- The clock-set record that goes first: in the hub cycle of a set not the record of that set (R393). -/
def Hub.clockSetDue (h : Hub) : Option Req := h.er.clockSet.head?.filter fun r => !(h.setNow && r.words.getD 2 0 % 2 ^ 16 == h.cal.gen)

/-- The next record commits: a clock-set record first, else the oldest build once it is ready (R380, R387, R393). -/
def Hub.erRecordCommit (h : Hub) : Hub :=
  if h.clk.cycle < h.er.nextCommit then h
  else
    match h.clockSetDue.toList, h.er.builds with
    | r :: _, _ => ({ h with er := { h.er with clockSet := h.er.clockSet.tail } }).commitBuild { req := r, start := h.clk.cycle, words := r.words }
    | [], b :: q => if b.stnPending then h else ({ h with er := { h.er with builds := q } }).commitBuild b
    | [], [] => h

/-- A clock-set record takes the first commit after the set (R393); the audit rules apply to it as to any audit record. -/
def Hub.clockSetRecord (h : Hub) (r : Req) : Hub :=
  let e := h.er
  if !e.chainStarted || e.gap.pending || decide (511 ≤ e.auditLoad) || decide (32 ≤ e.sysq.length) then { h with er := e.auditGap r }
  else { h with er := { e with clockSet := e.clockSet ++ [r] } }

/-- The chain starts on entry to CHAIN with the nonce drawn in SELFTEST (R394); HEAD holds no link until its record commits (R403). -/
def Hub.auditChainStart (h : Hub) : Hub :=
  let n := padTo 32 h.er.chainNonce
  let words := (List.range 4).map (fun i => leAt n (8 * i) 8) ++ (List.range 5).map fun o => SMap.get 0 h.er.preGap o
  let r := { h.evt 8 0x0801 with words := words }
  let e := { h.er with chainStarted := true, spillLink := chainSeed n }
  { h with er := { e with sysq := e.sysq ++ [r] } }

/-! ## Lost records and the audit gap (R388, R395) -/

/-- The pending lost record enters the FIFO once an entry is free (R388). -/
def Hub.lostRecordEnqueue (h : Hub) : Hub :=
  let l := h.er.lost
  if !l.any || decide (64 ≤ h.er.fifo.length) then h
  else
    let words := (List.range 16).map (fun k => SMap.get 0 l.counts k) ++ [l.first, l.last, l.firstStn + at_ l.lastStn 32]
    let r : Req := { cls := 2, code := 0x0201, tick := l.first, aux := l.triggers, arg := l.all, words := words }
    { h with er := { h.er with lost := {}, fifo := h.er.fifo ++ [r] } }

/-- The pending gap record enters the head of the system queue (R395). -/
def Hub.auditGapEnqueue (h : Hub) : Hub :=
  let e := h.er
  if !e.gap.pending || e.gap.queued || decide (511 ≤ e.auditLoad) || decide (32 ≤ e.sysq.length) then h
  else { h with er := { e with gap := { e.gap with queued := true }, sysq := { h.evt 8 0x0809 with gap := true } :: e.sysq } }

/-! ## The cursor (R389, R391, R399) -/

/-- A master's cursor. -/
def Hub.getCursor (h : Hub) (m : Master) : Cursor := SMap.get {} h.er.cursor m.idx
def Hub.updCursor (h : Hub) (m : Master) (f : Cursor → Cursor) : Hub :=
  { h with er := { h.er with cursor := SMap.upd {} h.er.cursor m.idx f } }

/-- A write of ER_CURSOR: the slot is stored; acquire takes the cursor and notes the role; release frees it; with both, the
cursor is held afterwards (R389, R391). -/
def Hub.erCursorWrite (h : Hub) (m : Master) (v : Nat) : Hub :=
  h.updCursor m fun c =>
    let c := { c with slot := field v 12 0 }
    if bit v 31 then { c with held := true, from_ := h.now, role := h.role m, status := stOk }
    else if bit v 30 && c.held then { c with held := false, status := stOk }
    else c

/-- The cursor's lease of 10^9 ticks runs out (R391). -/
def Hub.erCursorExpiry (h : Hub) (m : Master) : Hub :=
  let c := h.getCursor m
  if !c.held || decide (h.now < c.from_ + 1000000000) then h
  else
    ((h.updCursor m fun c => { c with held := false, status := stExpired }).rcSet 0x60024 m.idx 30).record
      { h.auditBy m 0x0803 with aux := 1, status := stExpired, arg := c.from_ }

/-! ## Firmware records (R400) -/

/-- A write of ER_FW_CMD by the controller pair with go at 1 (R400). -/
def Hub.erFwCmd (h : Hub) (v : Nat) : Hub :=
  if !bit v 31 then h
  else
    let cls := field v 27 24
    if cls < 3 ∨ 7 < cls ∨ !h.classOn cls then { h with er := { h.er with fwQueued := 0, fwStatus := stErClass } }
    else
      let image := (List.range 128).flatMap fun i => leBytes 4 (SMap.get 0 h.er.fwBuf i)
      let full := decide (32 ≤ h.er.sysq.length)
      let h := h.record { h.evt cls (field v 15 0) with origin := Master.pair.origin, image := image }
      let e := h.er
      let n := ((e.sysq ++ e.builds.map (·.req)).filter fun r => !r.image.isEmpty).length
      { h with er := { e with fwQueued := if full then 0 else n, fwStatus := if full then stFull else stOk } }

/-! ## Audit spill (R396) -/

/-- Audit records that no complete spill block holds. -/
def Er.unspilled (e : Er) : Nat := e.acount - e.spillFirst

/-- Slot of the audit record with an index. -/
def auditSlot (i : Nat) : Nat := 7680 + i % 512

/-- The spill starts a block when 63 records are unspilled or the oldest is 100 ms old (R396). -/
def Hub.auditSpillStart (h : Hub) : Hub :=
  let e := h.er
  let old := leAt (h.slotNow (auditSlot e.spillFirst)) 0x10 8
  let due := decide (63 ≤ e.unspilled) || (decide (0 < e.unspilled) && decide (old + 100000000 ≤ h.now))
  if h.boot.tunHeader && h.nocUp && e.spilling.isNone && decide (e.spillWr - e.spillRd < 1024) && due then
    { h with er := { e with spilling := some (Nat.min 63 e.unspilled, h.now) } }
  else h

/-- The bytes of a spill block before its signature (Table 12.5). -/
def Hub.spillBlock (h : Hub) (n tick : Nat) : List Byte :=
  let e := h.er
  let recs := (List.range n).flatMap fun i => h.slotNow (auditSlot (e.spillFirst + i))
  let last := slice (SMap.get [] e.store (auditSlot (e.spillFirst + n - 1))) 0x1C8 48
  padTo 0x7F00 (padTo 0x100 (leBytes 4 0x53445541 ++ leBytes 2 1 ++ leBytes 2 n ++ leBytes 8 e.spillWr ++ leBytes 8 e.spillFirst
    ++ slice recs 0 4 ++ zeros 4 ++ padTo 16 h.boot.dieId ++ leBytes 8 tick ++ padTo 48 e.spillLink ++ last) ++ recs)

/-- A spill block is complete: the consumer may read it and the vector of the audit spill is raised (R396). -/
def Hub.auditSpillDone (h : Hub) : Hub :=
  match h.er.spilling with
  | none => h
  | some (n, tick) =>
    if !h.nocUp then h
    else
      let e := h.er
      let blk := h.spillBlock n tick
      let sig := padTo 96 (Config.ecdsaSign h.boot.diePriv (sha384 blk))
      let last := slice (SMap.get [] e.store (auditSlot (e.spillFirst + n - 1))) 0x1C8 48
      let h := h.hbmWrite (h.boot.tunBase + 0x200000 + e.spillWr % 1024 * 32768) (padTo 32768 (blk ++ sig))
      ({ h with er := { e with spilling := none, spillFirst := e.spillFirst + n, spillLink := last, spillWr := e.spillWr + 1 } }).irqRaise 11

/-- The consumer moves ER_SPILL_RD forward; a value above WR or below the last one is ignored (R396). -/
def Hub.spillRdWrite (h : Hub) (v : Nat) : Hub :=
  if h.er.spillRd ≤ v ∧ v ≤ h.er.spillWr then { h with er := { h.er with spillRd := v } } else h

end Sys2Proof.Machine
end

