-- ==== Sys2Proof/Machine/Packet.lean ====
section
/-!
DEFINITION. Machine/Packet.lean: trace packets (chapter 06): what each packet carries, its words (Tables 06.1 to 06.3), and the
predictors and time base a source keeps for the decoder (R199, R200).
-/
namespace Sys2Proof.Machine

/-- The values a source's configuration gives its packets. -/
structure PkCtx where
  prio : Nat
  src : Nat
  feed : Nat
  subMask : Nat
  part : Nat
  deriving DecidableEq, Repr

/-- Words as bytes. -/
def wordBytes (ws : List Nat) : List Byte := ws.flatMap (leBytes 4)

/-- A packet: header word (Table 06.1) and the words after it. -/
def packet (type prio sub src sq : Nat) (ws : List Nat) : List Byte :=
  wordBytes ((type + at_ prio 6 + at_ ws.length 8 + at_ sub 13 + at_ src 16 + at_ (sq % 2 ^ 14) 18) :: ws)

/-- A value in two words. -/
def lohi (v : Nat) : List Nat := [v % 2 ^ 32, v / 2 ^ 32 % 2 ^ 32]

/-- The address form of R200: the size code, and the delta or address. -/
def addrForm (addr pred : Nat) : Nat × Nat :=
  let d := (addr + 2 ^ 64 - pred % 2 ^ 64) % 2 ^ 64
  if d < 2 ^ 15 ∨ 2 ^ 64 - 2 ^ 15 ≤ d then (0, d % 2 ^ 16)
  else if d < 2 ^ 31 ∨ 2 ^ 64 - 2 ^ 31 ≤ d then (1, d % 2 ^ 32)
  else (2, addr)

/-- Packets that carry dt (R199). -/
def Pk.hasDt : Pk → Bool
  | .sync _ _ | .resync _ _ | .time | .sleep | .excl _ _ _ => false
  | _ => true

/-- Packets of any core, not of one (R203). -/
def Pk.isResync : Pk → Bool
  | .sync _ _ | .resync _ _ => true
  | _ => false

/-- A source after it has created a packet of sub `sub` at tick `t`: the next number, the predictors and the time base. -/
def Pk.after (p : Pk) (sub t : Nat) (x : Src) : Src :=
  let x := { x with seq := (x.seq + 1) % 2 ^ 32 }
  match p with
  | .sync _ pc | .resync _ pc => { x with base := t, pc := SMap.set 0 x.pc sub pc, addr := SMap.set 0 x.addr sub 0 }
  | .excl _ _ _ => x
  | .exc _ _ _ a => { x with base := t, pc := SMap.set 0 x.pc sub a }
  | .target a => { x with base := t, pc := SMap.set 0 x.pc sub a }
  | .rmo _ _ _ _ _ _ _ _ _ a _ => { x with base := t, addr := SMap.set 0 x.addr sub a }
  | _ => { x with base := t }

/-- The bytes of a packet of sub `sub` at tick `t` (Table 06.3); `dt` is its time difference. -/
def Pk.bytes (p : Pk) (c : PkCtx) (x : Src) (sub t dt : Nat) : List Byte :=
  let go := fun (type : Nat) (ws : List Nat) => packet type c.prio sub c.src x.seq ws
  let syn := fun (cause pc : Nat) => x.seq :: lohi t ++ [cause + at_ c.feed 4 + at_ c.subMask 8 + at_ c.part 16, 0] ++ lohi pc
  match p with
  | .sync cause pc => go 0x01 (syn cause pc)
  | .resync cause pc => go 0x02 (syn cause pc)
  | .time => go 0x03 (lohi t)
  | .stop cause => go 0x04 [dt + at_ cause 16]
  | .sleep => go 0x05 (Nat.min (2 ^ 32 - 1) (t - x.base) :: lohi t)
  | .excl n a b => go 0x06 (Nat.min (2 ^ 32 - 1) n :: lohi a ++ lohi b)
  | .atoms bits =>
    go 0x09 [dt + at_ (bits.length - 1) 16, (List.range bits.length).foldl (fun a i => a + at_ (b2n (bits.getD i false)) i) 0]
  | .exc kind mode cause a => go 0x0A ((dt + at_ kind 16 + at_ mode 18 + at_ (cause % 4096) 20) :: lohi a)
  | .target a =>
    let (asz, v) := addrForm a (SMap.get 0 x.pc sub)
    go (0x0C + asz) (match asz with | 0 => [dt + at_ v 16] | 1 => [dt, v] | _ => dt :: lohi v)
  | .rmo op level mode opcode len ctx tag issuer aux a withData =>
    let (asz, v) := addrForm a (SMap.get 0 x.addr sub)
    go (0x10 + asz)
      ([dt + at_ op 16 + at_ level 19 + at_ mode 21 + at_ (b2n withData) 23 + at_ (opcode % 256) 24,
        (len - 1) % 4096 + at_ ctx 14, tag, issuer + at_ (aux % 65536) 16] ++ (if asz = 2 then lohi v else [v]))
  | .fence ev err mode pkg id ctx v => go 0x14 ([dt + at_ ev 16 + at_ (b2n err) 19 + at_ mode 20 + at_ pkg 22, id, ctx] ++ lohi v)
  | .cmd ev mode ctx tag st => go 0x15 [dt + at_ ev 16 + at_ mode 18, ctx, tag, st]
  | .link recv op mode pkg msn len ctx tag =>
    go 0x16 [dt + at_ recv 16 + at_ op 17 + at_ mode 20 + at_ pkg 22, msn % 65536 + at_ ((len - 1) % 4096) 16, ctx, tag]
  | .xfer ev ctx tag st len => go 0x17 [dt + at_ ev 16, ctx, tag, st, len % 2 ^ 32]
  | .data b => go 0x18 ((at_ b.length 16) :: (List.range ((b.length + 3) / 4)).map fun i => leAt b (4 * i) 4)

/-- A TRIGGER packet (R175): its number is the full report-stream number. -/
def triggerPacket (t : Trig) : List Byte :=
  packet 0x08 3 (unitSub t.unit) 0 t.seq
    (t.seq :: lohi t.tick ++ [t.unit + at_ t.cond 14 + at_ t.cls 16 + at_ (Nat.min 255 t.suppressed) 19])

/-- A LOSS packet as its marker stands (R208). -/
def lossPacket (r : Rsv) : List Byte :=
  packet 0x07 3 0 r.src 0 [r.seq, r.packets % 2 ^ 32, r.reason + at_ (Nat.min (2 ^ 24 - 1) r.words) 8]

/-- The packet of a reserved entry. -/
def Rsv.packet (r : Rsv) : List Byte := if r.loss then lossPacket r else r.bytes

end Sys2Proof.Machine
end

