-- ==== Sys2Proof/Machine/Trace.lean ====
section
/-!
DEFINITION. Machine/Trace.lean: what one Perch does with the events it observes (chapters 05 and 06): policy, match units, source states,
exclusion runs, atoms, the Peck and its hold, trigger conditions and the local orders.
-/
namespace Sys2Proof.Machine

/-! ## The Perch's configuration -/

/-- Trace policy of a slice (R190). -/
def Hub.spol (h : Hub) (s : Nat) : Nat := h.act 0 (0x81000 + 4 * s)

/-- A mode the policy permits; 3 is treated as secure (R159, R171). -/
def modeOk (pol mode : Nat) : Bool := decide (mode = 0) || (decide (mode = 1) && bit pol 16) || (decide (2 ≤ mode) && bit pol 17)

def Hub.srcCfg (h : Hub) (s k : Nat) : Nat := h.pact s 0 (0x400 + 8 * k)

/-- PCH_TSRCk_SEL; the select fields are reserved outside a tile Perch (R164, R191). -/
def Hub.srcSel (h : Hub) (s k : Nat) : Nat := let v := h.pact s 0 (0x404 + 8 * k); if stnClass s = 0 then v else v % 4

/-- The feed a source follows; codes 10 to 15 are treated as 0 (Table 05.1). -/
def Hub.srcFeed (h : Hub) (s k : Nat) : Nat := let f := field (h.srcCfg s k) 27 24; if f < 10 then f else 0

/-- Units a source follows, as a sub mask (R161). -/
def Hub.srcMask (h : Hub) (s k : Nat) : Nat := field (h.srcCfg s k) 23 16 &&& subValid s

/-- The feed is offered by the Perch's class (Table 05.1). -/
def feedOffered (cls feed : Nat) : Bool :=
  match feed with
  | 1 | 2 | 3 => decide (cls = 0)
  | 6 => decide (cls = 1)
  | 7 => decide (cls = 2)
  | 8 => decide (cls = 3)
  | 9 => decide (cls = 4)
  | _ => true

/-- A source is enabled (R157, R186). -/
def Hub.srcEnabled (h : Hub) (s k : Nat) : Bool :=
  bit (h.act 0xA0000000 0x80000) 31 && bit (h.srcCfg s k) 31 && feedOffered (stnClass s) (h.srcFeed s k)

def Hub.getSrc (h : Hub) (s k : Nat) : Src := SMap.get {} (h.getStn s).src k
def Hub.updSrc (h : Hub) (s k : Nat) (f : Src → Src) : Hub := h.updStn s fun t => { t with src := SMap.upd {} t.src k f }
def Hub.updPeck (h : Hub) (s : Nat) (f : Peck → Peck) : Hub := h.updStn s fun t => { t with peck := f t.peck }

/-- Configuration of the Peck and of a partition (R221). -/
def Hub.peckCfg (h : Hub) (s : Nat) : Nat := h.pact s 0x10000000 0x500
def partReset (s p : Nat) : Nat := if p = 0 then (if stnClass s = 0 then 0x7F else 0x1F) else 0
def Hub.partCfg (h : Hub) (s p : Nat) : Nat := h.pact s (partReset s p) (0x504 + 4 * p)
def Hub.partCap (h : Hub) (s p : Nat) : Nat := field (h.partCfg s p) 6 0 * 512
def Hub.partRing (h : Hub) (s p : Nat) : Bool := bit (h.partCfg s p) 31

/-- Partition of a source (R205). -/
def Hub.srcPart (h : Hub) (s k : Nat) : Nat := field (h.peckCfg s) (2 * k + 9) (2 * k + 8)

def Hub.pkCtx (h : Hub) (s k : Nat) : PkCtx :=
  ⟨field (h.srcCfg s k) 30 29, k, h.srcFeed s k, field (h.srcCfg s k) 23 16, h.srcPart s k⟩

/-- Lowest selected valid sub of a source. -/
def Hub.srcSub (h : Hub) (s k : Nat) : Nat := ((List.range 8).find? fun j => bit (h.srcMask s k) j).getD 0

/-- The gate of a unit. -/
def Hub.getGate (h : Hub) (u : Nat) : Gate := SMap.get {} (h.getStn (unitStn u)).gate (unitSub u)

/-- A unit frozen by its gate (R259). -/
def Hub.frozen (h : Hub) (u : Nat) : Bool := let g := (h.getGate u).st; g == .stopping || g == .stopped || g == .forced

/-- A unit that runs: released, awake, not frozen by its gate and not waiting for Peck space (R51, R185, R259). -/
def Hub.unitRuns (h : Hub) (u : Nat) : Bool :=
  unitOk u && h.boot.units && !h.asleep u && !h.frozen u && !((h.getStn (unitStn u)).peck.stalled.any (·.unit == u))

/-! ## LOSS markers and the reserved area (R208, R209) -/

/-- Entries of the reserved area. -/
def rsvSize : Nat := 16

/-- Packets of a source are lost: its open marker is updated, or a new one is written if an entry is free (R208). -/
def Hub.loss (h : Hub) (s k slice reason seq packets words tick : Nat) : Hub :=
  let rs := (h.getStn s).peck.rsv
  match firstIdx (fun r => r.loss && r.open_ && r.src == k && r.slice == slice && r.reason == reason) rs with
  | some i =>
    h.updPeck s fun p => { p with rsv := modAt p.rsv i fun r => { r with packets := r.packets + packets, words := r.words + words } }
  | none =>
    if rs.length < rsvSize then
      h.updPeck s fun p => { p with rsvStore := h.stnTick s, rsv := p.rsv ++
        [{ loss := true, slice := slice, src := k, reason := reason, seq := seq, packets := packets, words := words, tick := tick }] }
    else h.rcAdd (pchOff s 0x534) 0 0 255 1

/-- A TRIGGER always lands in the reserved area (R209). -/
def Hub.putTrigger (h : Hub) (s : Nat) (t : Trig) : Hub :=
  let rs := (h.getStn s).peck.rsv
  let e : Rsv := { loss := false, slice := t.slice, seq := t.seq, tick := t.tick, bytes := triggerPacket t, open_ := false }
  let h := h.updPeck s fun p => { p with rsvStore := h.stnTick s }
  if rs.length < rsvSize then h.updPeck s fun p => { p with rsv := p.rsv ++ [e] }
  else
    let i := (firstIdx (·.loss) rs).getD 0
    (h.updPeck s fun p => { p with rsv := eraseAt p.rsv i ++ [e] }).rcAdd (pchOff s 0x534) 0 8 255 1

/-! ## Storing packets (R206 to R208) -/

/-- Acceptance reserve in sixteenths (Table 06.6). -/
def reserve16 (p : Nat) : Nat := match p with | 3 => 0 | 2 => 1 | 1 => 2 | _ => 4

/-- Whether a partition accepts `len` bytes at priority `prio` (R206, R207). -/
def Part.accepts (p : Part) (ring : Bool) (cap len prio : Nat) : Bool :=
  match p.st with
  | .frozen => false
  | .run =>
    if ring then decide (len ≤ cap)
    else decide (p.fill + len ≤ cap) && decide (cap * reserve16 prio ≤ 16 * (cap - p.fill - len))
  | .post =>
    (ring || decide (p.fill + len ≤ cap)) && decide (len ≤ p.budget) && decide (p.budget0 * reserve16 prio ≤ 16 * (p.budget - len))

/-- Discard oldest whole packets until `len` bytes fit (R206). -/
def dropOldest (cap len : Nat) : Nat → List Pkt → List Pkt
  | 0, l => l
  | n + 1, l => if l.foldl (fun a k => a + k.bytes.length) 0 + len ≤ cap then l else dropOldest cap len n l.tail

/-- Store packets in a partition that has accepted them (R206, Table 06.7). -/
def Part.put (p : Part) (ring : Bool) (cap : Nat) (l : List Pkt) (tick : Nat) : Part :=
  let len := l.foldl (fun a k => a + k.bytes.length) 0
  let old := if ring then dropOldest cap len p.pkts.length p.pkts else p.pkts
  let p := { p with pkts := old ++ l, lastStore := tick }
  if p.st = .post then
    let b := p.budget - len
    { p with budget := b, st := if b < 96 then .frozen else .post }
  else p

/-- Stall mode is in effect (R185). -/
def Hub.stallOn (h : Hub) : Bool := bit (h.act 0xA0000000 0x80000) 30 && h.cut.bench

/-- The packets of a group given by sub, in order, and the source after them. -/
def buildPkts (c : PkCtx) (slice tick : Nat) : Src → List (Nat × Pk) → List Pkt × Src
  | x, [] => ([], x)
  | x, (sub, p) :: r =>
    let (l, y) := buildPkts c slice tick (p.after sub tick x) r
    ({ slice := slice, src := c.src, seq := x.seq, tick := tick, bytes := p.bytes c x sub tick (tick - x.base) } :: l, y)

/-- Bytes of packets. -/
def pktLen (l : List Pkt) : Nat := l.foldl (fun a k => a + k.bytes.length) 0

/-- Packets of source `k` are stored together if its partition accepts them; the source's open markers close (R206 to R208). -/
def Hub.tryStore (h : Hub) (s k slice tick : Nat) (g : List (Nat × Pk)) : Option Hub :=
  let part := h.srcPart s k
  let ring := h.partRing s part
  let cap := h.partCap s part
  let p := SMap.get {} (h.getStn s).peck.part part
  let (l, y) := buildPkts (h.pkCtx s k) slice tick (h.getSrc s k) g
  if p.accepts ring cap (pktLen l) (field (h.srcCfg s k) 30 29) then
    let h := h.updSrc s k fun _ => { y with slice := slice + 1, lost := false, count := y.count + l.length }
    some (h.updPeck s fun q => { q with
      part := SMap.set {} q.part part (p.put ring cap l (h.stnTick s)),
      rsv := q.rsv.map fun r => if r.src = k then { r with open_ := false } else r })
  else none

/-- Packets of source `k` are refused together (R207, R208). -/
def Hub.refuse (h : Hub) (s k slice tick : Nat) (g : List (Nat × Pk)) : Hub :=
  let p := SMap.get {} (h.getStn s).peck.part (h.srcPart s k)
  let x := h.getSrc s k
  let (l, y) := buildPkts (h.pkCtx s k) slice tick x g
  let h := h.updSrc s k fun _ => { x with seq := y.seq, lost := true }
  let h := h.rcAdd (pchOff s 0x530) 0 (8 * field (h.srcCfg s k) 30 29) 255 l.length
  h.loss s k slice (if p.st = .run then 0 else 1) x.seq l.length (pktLen l / 4) tick

/-- Packets are stored, or else refused; false where they wait in stall mode instead. With no packet nothing happens. -/
def Hub.offer (h : Hub) (s k : Nat) (wait : Bool) (slice tick : Nat) (g : List (Nat × Pk)) : Bool × Hub :=
  if g.isEmpty then (true, h)
  else match h.tryStore s k slice tick g with
    | some h => (true, h)
    | none => if wait then (false, h) else (true, h.refuse s k slice tick g)

/-- Packets of source `k` that find no space wait for it (R185): stall mode is in effect, and the partition is in RUN and STREAM. -/
def Hub.stalls (h : Hub) (s k : Nat) : Bool :=
  let part := h.srcPart s k
  h.stallOn && decide ((SMap.get {} (h.getStn s).peck.part part).st = .run) && !h.partRing s part

/-! ## Emission (R199, R202, R203) -/

/-- A PC that the die holds and the hub does not: a free value. `ev` is the sub and PC of the event in hand. -/
def Hub.corePc (h : Hub) (sub : Nat) (ev : Option (Nat × Nat)) : Nat × Hub :=
  match ev with
  | some (j, pc) => if j = sub then (pc, h) else h.drawFree
  | none => h.drawFree

/-- Subs of the awake scalar cores a source follows, ascending (R202). -/
def Hub.srcCores (h : Hub) (s k : Nat) : List Nat :=
  [2, 3, 4, 5].filter fun j => bit (h.srcMask s k) j && !h.asleep (s * 8 + j)

/-- SYNC or RESYNC packets of a source: one for each of the cores given in feed 1, else one. -/
def Hub.syncOf (h : Hub) (s k : Nat) (cores : List Nat) (mk : Nat → Pk) (ev : Option (Nat × Nat)) : List (Nat × Pk) × Hub :=
  if h.srcFeed s k = 1 then
    cores.foldl (fun (l, h) j => let (pc, h) := h.corePc j ev; (l ++ [(j, mk pc)], h)) ([], h)
  else ([(h.srcSub s k, mk 0)], h)

/-- The SYNC or RESYNC packets of a source: one for each awake core in feed 1, else one (R202). -/
def Hub.syncPks (h : Hub) (s k : Nat) (mk : Nat → Pk) (ev : Option (Nat × Nat)) : List (Nat × Pk) × Hub := h.syncOf s k (h.srcCores s k) mk ev

/-- The RESYNC that must precede a packet (R198, R202). Before a SLEEP, when no core of a feed-1 source is awake any more, it names the cores that the
source follows. -/
def Hub.leadPks (h : Hub) (s k cause : Nat) (ev : Option (Nat × Nat)) : List (Nat × Pk) × Hub :=
  let awake := h.srcCores s k
  h.syncOf s k (if awake.isEmpty then [2, 3, 4, 5].filter fun j => bit (h.srcMask s k) j else awake) (Pk.resync cause) ev

/-- Cause of the RESYNC that must precede a packet of `slice`, if any (R202). -/
def Src.resyncCause (x : Src) (slice : Nat) (forced : Option Nat) : Option Nat :=
  match forced with
  | some c => some c
  | none => if x.lost then some 7 else if x.slice = slice + 1 then none else some 10

/-- A group is emitted: with the RESYNC or after the TIME that must precede it (R199, R202, R207). False where it waits. -/
def Hub.group (h : Hub) (s : Nat) (w : Group) (wait : Bool) : Bool × Hub :=
  let k := w.src
  let x := h.getSrc s k
  let head := w.pks.headD (0, .time)
  let lead := if head.2.isResync then none else x.resyncCause w.slice w.forced
  let (rs, g) := match lead with
    | some c => h.leadPks s k c w.ev
    | none => ([], h)
  let late := rs.isEmpty && head.2.hasDt && decide (65534 < w.tick - x.base)
  let (ok, g) := if late then g.offer s k wait w.slice w.tick [(head.1, .time)] else (true, g)
  if !ok then (false, h)
  else
    let (rs, g) := if late && (g.getSrc s k).lost then g.leadPks s k 7 w.ev else (rs, g)
    match g.offer s k wait w.slice w.tick (rs ++ w.pks) with
    | (true, g) => (true, g)
    | (false, _) => (false, if late then g else h)

/-- A source emits a group, or keeps it behind those that wait (R185). -/
def Hub.give (h : Hub) (s : Nat) (w : Group) : Hub :=
  let keep := fun (h : Hub) => h.updPeck s fun q => { q with stalled := q.stalled ++ [w] }
  if (h.getStn s).peck.stalled.any (·.src == w.src) then keep h
  else match h.group s w (h.stalls s w.src && decide ((h.getSrc s w.src).st = .on)) with
    | (true, h) => h
    | (false, h) => keep h

/-- The periodic RESYNC (R202, cause 8); a sync_log2 of 1 to 5 acts as 6. -/
def Hub.periodic (h : Hub) (s k tick : Nat) : Hub :=
  let n := field (h.peckCfg s) 23 20
  let x := h.getSrc s k
  if n = 0 ∨ x.count < 2 ^ Nat.max 6 n then h
  else
    let (rs, h) := (h.updSrc s k fun x => { x with count := 0 }).syncPks s k (Pk.resync 8) none
    if rs.isEmpty then h else h.give s ⟨k, s * 8 + h.srcSub s k, x.slice - 1, tick, rs, none, none⟩

/-- Packets that waited in stall mode are stored while they fit, in the order of each source; those for which stall mode has ended are
stored or refused (R185). -/
def Hub.stallRetry (h : Hub) (s : Nat) : Hub :=
  let l := (h.getStn s).peck.stalled
  l.foldl (fun h w =>
    if (h.getStn s).peck.stalled.any (·.src == w.src) then h.updPeck s fun q => { q with stalled := q.stalled ++ [w] }
    else match h.group s w (h.stalls s w.src) with
      | (true, h) => h.periodic s w.src w.tick
      | (false, h) => h.updPeck s fun q => { q with stalled := q.stalled ++ [w] }) (h.updPeck s fun q => { q with stalled := [] })

/-- The atoms collected for one core leave (R203). -/
def Hub.flushCore (h : Hub) (s k sub : Nat) : Hub :=
  let a := SMap.get {} (h.getSrc s k).atoms sub
  if a.bits.isEmpty then h
  else
    let h := h.updSrc s k fun x => { x with atoms := SMap.set {} x.atoms sub {} }
    (h.give s ⟨k, s * 8 + sub, a.slice, a.last, [(sub, .atoms a.bits)], none, none⟩).periodic s k a.last

/-- The atoms whose last one is not younger than tick `t` leave, in the order of their last atoms, so that the ticks of the source do not decrease
(R140, R203; log entry 81). -/
def Hub.flushTo (h : Hub) (s k t : Nat) : Hub :=
  let last := fun j => (SMap.get {} (h.getSrc s k).atoms j).last
  (sortBy last ([2, 3, 4, 5].filter fun j => decide (last j ≤ t))).foldl (fun h j => h.flushCore s k j) h

/-- Emit packets of one unit: first every atom collected (R203), last the periodic RESYNC that is due. -/
def Hub.emit (h : Hub) (s k sub slice tick : Nat) (pks : List Pk) (forced : Option Nat) (ev : Option (Nat × Nat)) : Hub :=
  ((h.flushTo s k tick).give s ⟨k, s * 8 + sub, slice, tick, pks.map fun p => (sub, p), forced, ev⟩).periodic s k tick

/-- Emit SYNC, or RESYNC standing alone, with a cause; a feed-1 source all of whose cores sleep emits none. -/
def Hub.emitSync (h : Hub) (s k slice tick : Nat) (mk : Nat → Pk) (ev : Option (Nat × Nat)) : Hub :=
  let (rs, h) := (h.flushTo s k tick).syncPks s k mk ev
  if rs.isEmpty then h else (h.give s ⟨k, s * 8 + h.srcSub s k, slice, tick, rs, none, none⟩).periodic s k tick

/-- Slice of a source's stream: that of its previous packet, else that of its lowest unit. -/
def Hub.srcSlice (h : Hub) (s k : Nat) : Nat :=
  let x := h.getSrc s k
  match ((h.getStn s).peck.stalled.filter (·.src == k)).getLast? with
  | some w => w.slice
  | none => if x.slice = 0 then h.unitSlice (s * 8 + h.srcSub s k) else x.slice - 1

/-- Close an open exclusion run with its EXCL packet (R172). -/
def Hub.closeRun (h : Hub) (s k sub tick : Nat) : Hub :=
  let x := h.getSrc s k
  match x.excl with
  | none => h
  | some (n, a, b) =>
    (h.updSrc s k fun x => { x with excl := none }).emit s k sub x.exclSlice tick [.excl n a b] none none

/-! ## Source states (Table 05.2) -/

/-- A source goes ON with a SYNC that names the cause. -/
def Hub.srcOn (h : Hub) (s k slice tick cause : Nat) (ev : Option (Nat × Nat)) : Hub :=
  (h.updSrc s k fun x => { x with st := .on }).emitSync s k slice tick (Pk.sync cause) ev

/-- An ON source leaves ON with a STOP that names the cause. -/
def Hub.srcStop (h : Hub) (s k sub tick cause : Nat) (dst : SrcSt) : Hub :=
  let h := h.closeRun s k sub tick
  let h := h.emit s k sub (h.srcSlice s k) tick [.stop cause] none none
  h.updSrc s k fun x => { x with st := dst }

/-! ## Events -/

/-- An event as a Perch observes it (R157 to R160): its feed, unit, slice and mode, its operation and level, the quantities a match
unit compares, what a packet of it holds, and what trigger conditions see. -/
structure Ev where
  feed : Nat
  unit : Nat
  slice : Nat
  mode : Nat := 0
  op : Nat := 0
  level : Nat := 0
  pc : Option Nat := none
  addr : Option Nat := none
  arr : Option Nat := none
  pk : Option Pk := none
  atom : Option Bool := none
  data : List Byte := []
  /-- tag of a command that starts -/
  start : Option Nat := none
  fault : Bool := false
  ferr : Bool := false
  forder : Bool := false
  deriving DecidableEq, Repr, Inhabited

/-- What the match units made of an event: matches of units 0 to 5, range entries and exits, one bit each. -/
structure Hits where
  m : Nat := 0
  entry : Nat := 0
  exit : Nat := 0
  deriving DecidableEq, Repr, Inhabited

/-- The quantity a match unit with control value `ctl` compares (R165). -/
def Ev.quantity (e : Ev) (ctl : Nat) : Option Nat :=
  if !bit ctl 31 then none
  else match field ctl 30 28 with
    | 0 => if unitSub e.unit = 2 + field ctl 27 26 then e.pc else none
    | 1 => if bit (field ctl 23 16) (unitSub e.unit) then e.addr else none
    | 2 => e.arr
    | _ => none

/-- A comparator of a tile Perch (R165, R192). -/
def Hub.cmpHit (h : Hub) (s j : Nat) (e : Ev) : Bool :=
  let ctl := h.pact s 0 (0x420 + 16 * j)
  match e.quantity ctl with
  | some q => decide (q >>> field ctl 5 0 = h.pact s 0 (0x424 + 16 * j) >>> field ctl 5 0)
  | none => false

/-- The match units take an event (R164 to R166). -/
def Hub.matchStep (h : Hub) (s : Nat) (e : Ev) : Hits × Hub :=
  let m := (List.range 4).foldl (fun a j => a + at_ (b2n (h.cmpHit s j e)) j) 0
  [0, 1].foldl (fun (x, h) r =>
    match e.quantity (h.pact s 0 (0x460 + 32 * r)) with
    | none => (x, h)
    | some q =>
      let hit := decide (h.pact s 0 (0x464 + 32 * r) ≤ q) && decide (q ≤ h.pact s 0 (0x46C + 32 * r))
      let was := SMap.get 0 (h.getStn s).inRange r == 1
      ({ x with m := x.m + at_ (b2n hit) (4 + r), entry := x.entry + at_ (b2n (hit && !was)) r,
                exit := x.exit + at_ (b2n (!hit && was)) r },
       h.updStn s fun t => { t with inRange := SMap.set 0 t.inRange r (b2n hit) })) ({ m := m }, h)

/-- A select field names a comparator that matches, or a range in `rng` (R167). -/
def selHit (sel : Nat) (x : Hits) (rng : Nat) : Bool := decide (sel % 16 &&& x.m ≠ 0) || decide (sel / 16 % 4 &&& rng ≠ 0)

/-- The type filter (R163). -/
def Hub.typePass (h : Hub) (s k : Nat) (e : Ev) : Bool :=
  let c := h.srcCfg s k
  if e.feed = 1 ∨ e.feed = 4 ∨ e.feed = 5 then true else bit (field c 15 11) e.op && bit (field c 10 7) e.level

/-- The packets of an event: captured data follow where the source and the policy ask for them (R158, R204). -/
def Hub.evPks (h : Hub) (s k : Nat) (e : Ev) : List Pk :=
  let want := bit (h.srcCfg s k) 28 && bit (h.spol e.slice) 18 && !e.data.isEmpty
  match e.pk with
  | some (.rmo op level mode opcode len ctx tag issuer aux a _) =>
    .rmo op level mode opcode len ctx tag issuer aux a want :: (if want then [.data (e.data.take 64)] else [])
  | some p => [p]
  | none => []

/-- Collect a branch atom (R203). -/
def Hub.addAtom (h : Hub) (s k sub slice tick : Nat) (b : Bool) : Hub :=
  let h := if (h.getSrc s k).atoms.any fun a => a.2.slice != slice then h.flushTo s k tick else h
  let h := h.updSrc s k fun x => { x with atoms := SMap.upd {} x.atoms sub fun a =>
    { bits := a.bits ++ [b], first := if a.bits.isEmpty then tick else a.first, last := tick, slice := slice } }
  if 32 ≤ (SMap.get {} (h.getSrc s k).atoms sub).bits.length then h.flushTo s k tick else h

/-- An ON source emits an event that passes everything (Table 05.2, R172). -/
def Hub.emitEv (h : Hub) (s k tick : Nat) (e : Ev) : Hub :=
  let sub := unitSub e.unit
  let run := (h.getSrc s k).excl.isSome
  let ev := e.pc.map fun p => (sub, p)
  let h := h.closeRun s k sub tick
  match e.atom with
  | some b => (if run then h.emitSync s k e.slice tick (Pk.resync 6) ev else h).addAtom s k sub e.slice tick b
  | none => h.emit s k sub e.slice tick (h.evPks s k e) (if run then some 6 else none) ev

/-- One source takes an event (R167, R168, Table 05.2): `ok` tells that the event passes the policy, `feedOk` that its feed does. A command fault, which is
no event of a feed, concerns no source. -/
def Hub.srcEvent (h : Hub) (s k tick : Nat) (e : Ev) (x : Hits) (ok feedOk : Bool) : Hub :=
  let sel := h.srcSel s k
  let start := ok && selHit (field sel 29 24) x x.entry
  let stop := ok && selHit (field sel 21 16) x x.exit
  let mine := (e.pk.isSome || e.atom.isSome) && decide (h.srcFeed s k = e.feed) && bit (h.srcMask s k) (unitSub e.unit) && h.typePass s k e
  let pass := decide (field sel 13 8 = 0) || decide (field sel 13 8 &&& x.m ≠ 0)
  match (h.getSrc s k).st with
  | .off => h
  | .armed =>
    if field sel 1 0 = 1 ∧ start then
      let h := h.srcOn s k e.slice tick 1 (e.pc.map fun p => (unitSub e.unit, p))
      if mine && ok && pass && !stop then h.emitEv s k tick e else h
    else h
  | .on =>
    if stop then h.srcStop s k (if mine then unitSub e.unit else h.srcSub s k) tick 0 .armed
    else if mine && ok && pass then h.emitEv s k tick e
    else if mine && feedOk && !ok && pass then
      h.updSrc s k fun y =>
        match y.excl with
        | some (n, a, _) => { y with excl := some (n + 1, a, tick) }
        | none => { y with excl := some (1, tick, tick), exclSlice := e.slice }
    else h

/-! ## Hold, release and flush (Table 06.7) -/

/-- A hold order reaches every partition. -/
def Hub.hold (h : Hub) (s : Nat) : Hub :=
  let b := field (h.peckCfg s) 31 24 * 256
  let f := fun (x : Part) =>
    if x.st = .run then (if 96 ≤ b then { x with st := .post, budget := b, budget0 := b } else { x with st := .frozen }) else x
  h.updPeck s fun q => { q with part := (List.range 4).foldl (fun m p => SMap.upd {} m p f) q.part }

/-- A release: every held partition runs, and open LOSS markers close. -/
def Hub.release (h : Hub) (s : Nat) : Hub :=
  let held := (List.range 4).any fun p => (SMap.get {} (h.getStn s).peck.part p).st != .run
  if !held then h
  else
    (h.updPeck s fun q => { q with
      part := (List.range 4).foldl (fun m p => SMap.upd {} m p fun x => { x with st := .run, budget := 0, budget0 := 0 }) q.part,
      rsv := q.rsv.map fun r => { r with open_ := false } }).stallRetry s

/-! ## Trigger conditions (R174 to R176) -/

/-- Orders for the sources of a Perch: `stop` and `start` name sources, `cs` and `ct` are the causes of STOP and SYNC. -/
def Hub.applyOrder (h : Hub) (s stop start cs ct : Nat) : Hub :=
  let tick := h.stnTick s
  [0, 1, 2, 3].foldl (fun h k =>
    let st := (h.getSrc s k).st
    if bit stop k then (if st = .on then h.srcStop s k (h.srcSub s k) tick cs .armed else h)
    else if bit start k ∧ st = .armed then h.srcOn s k (h.srcSlice s k) tick ct none
    else h) h

/-- Orders that a Perch applies at the end of the hub cycle. -/
def Hub.updOrd (h : Hub) (s : Nat) (f : CycOrd → CycOrd) : Hub := h.updStn s fun t => { t with ord := f t.ord }

/-- A condition fires, or its match is suppressed (R175, R176). Its orders and its TRIGGER wait for the end of the hub cycle (R169, R209). -/
def Hub.fire (h : Hub) (s tick unit slice c : Nat) : Hub :=
  let r := h.pact s 0x4 (0x4A0 + 4 * c)
  let off := pchOff s 0x4BC
  let t := h.getStn s
  if h.clk.cycle < SMap.get 0 t.holdoff c then h.rcAdd off 0 (8 * c) 255 1
  else
    let g : Trig := { station := s, unit := unit, cond := c, cls := field r 30 28, tick := tick,
                      suppressed := h.rcTotal off 0 (8 * c), seq := t.reportSeq, slice := slice }
    let h := (h.rcZero off 0 (8 * c)).updStn s fun t => { t with holdoff := SMap.set 0 t.holdoff c (h.clk.cycle + 16 * (r % 256)) }
    let h := if bit r 10 || bit r 9 then h.reportItem s .trigger [unit, c, g.cls, g.suppressed] else h
    let h := if bit r 9 then { h with trc := { h.trc with flits := h.trc.flits ++ [g] } } else h
    h.updOrd s fun o => { o with
      trig := if bit r 10 then o.trig ++ [g] else o.trig, lstop := o.lstop ||| field r 15 12, lstart := o.lstart ||| field r 19 16,
      hold := o.hold || bit r 11 }

/-- Several conditions fire together, in ascending order; a Perch that the start flit has not reached stamps no event (R130). -/
def Hub.fireAll (h : Hub) (s tick unit slice : Nat) (cs : List Nat) : Hub :=
  if (h.getStn s).tbOn then cs.foldl (fun h c => h.fire s tick unit slice c) h else h

/-- A condition meets an event (Table 05.3). -/
def Hub.condMet (h : Hub) (s : Nat) (e : Ev) (x : Hits) (c : Nat) : Bool :=
  let r := h.pact s 0x4 (0x4A0 + 4 * c)
  let param := field r 27 20
  let unit := bit param (unitSub e.unit)
  bit r 31 && (match field r 30 28 with
    | 0 => bit (x.m % 16) (param % 4)
    | 1 => bit x.entry (param % 2)
    | 2 => bit x.exit (param % 2)
    | 3 => unit && (match e.start with
      | some tag => decide (tag &&& h.pact s 0 0x4B4 = h.pact s 0 0x4B0 &&& h.pact s 0 0x4B4)
      | none => false)
    | 4 => unit && e.fault
    | 5 => unit && e.ferr
    | 6 => unit && e.forder
    | _ => false)

/-- A Perch observes an event: policy, match units, sources 0 to 3, then trigger conditions (R157 to R176). Before the start flit it stamps none (R130). -/
def Hub.observe (h : Hub) (e : Ev) : Hub :=
  let s := unitStn e.unit
  if !(h.getStn s).tbOn then h
  else
  let t := h.stnTick s
  let pol := h.spol e.slice
  let feedOk := bit pol e.feed
  let ok := feedOk && modeOk pol e.mode
  let (x, h) := if ok && decide (stnClass s = 0) then h.matchStep s e else ({}, h)
  let h := [0, 1, 2, 3].foldl (fun h k => h.srcEvent s k t e x ok feedOk) h
  if ok then h.fireAll s t e.unit e.slice ([0, 1, 2, 3].filter fun c => h.condMet s e x c) else h

/-- An event at a unit, which a sleeping or frozen unit does not produce (R183, R267). -/
def Hub.observeU (h : Hub) (e : Ev) : Hub := if h.unitRuns e.unit then h.observe e else h

/-- A write of PCH_TRG_FIRE (cond 7): the unit is the Perch's lowest valid sub. The write is no event of a slice, so no policy judges it (DESIGN CHOICE,
log entry 67). -/
def Hub.fireWrite (h : Hub) (s mask : Nat) : Hub :=
  let u := s * 8
  h.fireAll s (h.stnTick s) u (h.unitSlice u) ([0, 1, 2, 3].filter fun c =>
    let r := h.pact s 0x4 (0x4A0 + 4 * c)
    bit mask c && bit r 31 && decide (field r 30 28 = 7))

/-! ## Sleep, wake and commits -/

/-- Every unit that source `k` of a station follows sleeps. -/
def Hub.srcAsleep (h : Hub) (s k : Nat) : Bool :=
  let l := (List.range 8).filter fun j => bit (h.srcMask s k) j && bit (subValid s) j
  !l.isEmpty && l.all fun j => h.asleep (s * 8 + j)

/-- Units of station `s` have gone to sleep; `old` is the hub before: each ON source the last of whose units now sleeps emits SLEEP
(R184). -/
def Hub.traceSleep (h : Hub) (old : Hub) (s : Nat) : Hub :=
  let t := h.stnTick s
  if !(h.getStn s).tbOn then h
  else [0, 1, 2, 3].foldl (fun h k =>
    if (h.getSrc s k).st = .on ∧ h.srcAsleep s k ∧ !old.srcAsleep s k then
      (h.closeRun s k (h.srcSub s k) t).emit s k (h.srcSub s k) (h.srcSlice s k) t [.sleep] none none
    else h) h

/-- Units of station `s` have woken: each ON source the first of whose units wakes emits RESYNC cause 5 (R184). -/
def Hub.traceWake (h : Hub) (old : Hub) (s : Nat) : Hub :=
  let t := h.stnTick s
  if !(h.getStn s).tbOn then h
  else [0, 1, 2, 3].foldl (fun h k =>
    if (h.getSrc s k).st = .on ∧ old.srcAsleep s k ∧ !h.srcAsleep s k then h.emitSync s k (h.srcSlice s k) t (Pk.resync 5) none
    else h) h

/-- Sources of a station after a commit has made `h.rws` active in place of `old.rws` (Table 05.2): what is closed is closed under the
old values. -/
def Hub.traceCommit (h : Hub) (old : Hub) (s : Nat) : Hub :=
  let t := h.stnTick s
  let h := [0, 1].foldl (fun h r =>
    if bit (h.pact s 0 (0x460 + 32 * r)) 31 && !bit (old.pact s 0 (0x460 + 32 * r)) 31 then
      h.updStn s fun t => { t with inRange := SMap.set 0 t.inRange r 0 }
    else h) h
  [0, 1, 2, 3].foldl (fun h k =>
    let new := h.rws
    let st := (h.getSrc s k).st
    let on := h.srcEnabled s k
    let changed := h.srcCfg s k != old.srcCfg s k || h.srcSel s k != old.srcSel s k
    if on && st == .off then
      if field (h.srcSel s k) 1 0 = 0 then h.srcOn s k (h.unitSlice (s * 8 + h.srcSub s k)) t 0 none
      else h.updSrc s k fun x => { x with st := .armed }
    else if !on && st == .on then
      let h := ({ h with rws := old.rws }).srcStop s k (old.srcSub s k) t 3 .off
      { h with rws := new }
    else if !on && st == .armed then h.updSrc s k fun x => { x with st := .off }
    else if on && st == .on && changed then
      let h := (({ h with rws := old.rws }).flushTo s k t).closeRun s k (old.srcSub s k) t
      let h := { h with rws := new }
      h.emitSync s k (h.srcSlice s k) t (Pk.sync 4) none
    else h) h

/-- Layout registers of a Peck. -/
def layoutOffs : List Nat := [0x500, 0x504, 0x508, 0x50C, 0x510]

/-- A layout meets R205. -/
def Hub.layoutOk (h : Hub) (s : Nat) : Bool :=
  let g := (List.range 4).map fun p => field (h.partCfg s p) 6 0
  g.all (fun x => x == 0 || decide (8 ≤ x)) && decide (g.foldl (· + ·) 0 ≤ (if stnClass s = 0 then 127 else 31))
    && (List.range 4).all (fun k => g.getD (h.srcPart s k) 0 != 0)

/-- Stored packets of a station are discarded: one LOSS of reason 2 for each source that lost any (R205). -/
def Hub.discardLoss (h : Hub) (s : Nat) (pkts : List Pkt) : Hub :=
  [0, 1, 2, 3].foldl (fun h k =>
    let l := pkts.filter (·.src == k)
    match l with
    | [] => h
    | f :: _ =>
      (h.updSrc s k fun x => { x with lost := true }).loss s k f.slice 2 f.seq l.length (l.foldl (fun a p => a + p.bytes.length / 4) 0) (h.stnTick s)) h

/-- A layout has become active at a boundary (R205): refused, or taking effect. -/
def Hub.peckCommit (h : Hub) (old : Hub) (s : Nat) : Hub :=
  let offs := layoutOffs.map (pchOff s)
  let resetOf := fun o => if o = pchOff s 0x500 then 0x10000000 else if o = pchOff s 0x504 then partReset s 0 else 0
  if !offs.any old.isStaged then h
  else if !h.layoutOk s then
    let h := offs.foldl (fun h o => h.rwsUpd (resetOf o) o fun r => { r with active := old.act (resetOf o) o }) h
    h.updPeck s fun q => { q with status := stTrcLayout }
  else
    let h := h.updPeck s fun q => { q with status := stOk }
    if (List.range 4).all fun p => h.partCfg s p == old.partCfg s p then h
    else
      let pkts := (List.range 4).flatMap fun p => (SMap.get {} (h.getStn s).peck.part p).pkts
      let h := h.updPeck s fun q => { q with part := [], rsv := q.rsv.map fun r => { r with flush := if r.flush = 0 then q.gen else r.flush }, gen := q.gen + 1 }
      let h := h.discardLoss s pkts
      h.stallRetry s

/-- The sources of a station whose units change slice at boundary tick `b`: RESYNC cause 9 in the new slice (R217). An open exclusion run closes first, as
its events are of the old slice and nothing is emitted while a run is open (R172; log entry 82). -/
def Hub.traceRebind (h : Hub) (s b : Nat) (moved : List Nat) : Hub :=
  [0, 1, 2, 3].foldl (fun h k =>
    match moved.find? fun u => bit (h.srcMask s k) (unitSub u) with
    | some u => if (h.getSrc s k).st = .on then (h.closeRun s k (h.srcSub s k) b).emitSync s k (h.unitSlice u) b (Pk.resync 9) none else h
    | none => h) h

/-! ## Events of the die that trace alone observes -/

/-- A program-flow event of a scalar core (Table 05.1): kind 0 conditional branch, 1 indirect branch, 2 exception entry, 3 exception
return, 4 mode change. -/
def Hub.programFlow (h : Hub) (u kind addr target : Nat) (taken : Bool) (mode after cause : Nat) : Hub :=
  if !h.unitRuns u || !isScalar u then h
  else
    let e : Ev := { feed := 1, unit := u, slice := h.unitSlice u, mode := mode, pc := some addr }
    h.observe (match kind with
      | 0 => { e with atom := some taken }
      | 1 => { e with pk := some (.target target) }
      | 2 => { e with pk := some (.exc 0 after cause target) }
      | 3 => { e with pk := some (.exc 1 after cause target) }
      | _ => { e with pk := some (.exc 2 after cause target) })

/-- Slice of an event: that of the context behind it (R160). -/
def Hub.ctxSlice (h : Hub) (c : Nat) : Nat := (h.getCtx c).slice

/-- The packet of an operation in feeds 2, 3, 6 and 8; a fence operation's address is its reference. -/
def rmoPk (r : Rmo) (aux : Nat) : Pk :=
  match r.op with
  | .fenceSignal => .fence 4 r.err r.mode (addrPkg r.addr) (addrOff r.addr % 2 ^ 32) r.context r.value
  | .fenceWait => .fence 5 r.err r.mode (addrPkg r.addr) (addrOff r.addr % 2 ^ 32) r.context r.value
  | o => .rmo o.code r.level r.mode (if o = .atomic then r.opcode else 0) r.len r.context r.tag r.issuer aux r.addr false

/-- The event of an operation at a Perch. -/
def Hub.rmoEv (h : Hub) (feed u : Nat) (r : Rmo) (aux : Nat) : Ev :=
  { feed := feed, unit := u, slice := h.ctxSlice r.context, mode := r.mode, op := r.op.code, level := r.level,
    pk := some (rmoPk r aux), data := if r.op = .put ∨ r.op = .atomic then r.data else [] }

/-- A channel serves a request (feed 6). -/
def Hub.channelRequest (h : Hub) (u : Nat) (r : Rmo) : Hub :=
  if !h.unitRuns u || decide (unitClass u ≠ 4) then h
  else h.observe (h.rmoEv 6 u r (Nat.min 65535 r.waited))

/-- An operation arrives at a tile's scratch SRAM (feed 3). -/
def Hub.rmoArrive (h : Hub) (u : Nat) (r : Rmo) : Hub :=
  if !unitOk u || !h.boot.units || !isTileUnit u || h.asleep u then h
  else h.observe { h.rmoEv 3 u r 0 with arr := some r.addr }

end Sys2Proof.Machine
end

