-- ==== Sys2Proof/Machine/Stream.lean ====
section
/-!
DEFINITION. Machine/Stream.lean: the drain of the Pecks into the trace rings (R212 to R217): blocks, reservations, grants, sealing,
writing, ring placement, and the rebinding flush.
-/
namespace Sys2Proof.Machine

/-! ## Rings (R214 to R216, R235) -/

/-- End of the HBM range that rings and the Tun may use (R214). -/
def ringLimit : Nat := 0x861C468000

/-- Two ranges that share a byte. -/
def overlap (a n b m : Nat) : Bool := decide (a < b + m) && decide (b < a + n) && decide (0 < n) && decide (0 < m)

/-- Whether a placement meets R214: `others` are the enabled rings and the Tun, as base and size. -/
def placeOk (base size : Nat) (others : List (Nat × Nat)) : Bool :=
  decide (base % 65536 = 0) && decide (base + size ≤ ringLimit) && others.all fun o => !overlap base size o.1 o.2

/-- Rings in effect, as base and size. -/
def ringsOn (m : SMap Ring) (but : Nat) : List (Nat × Nat) := (m.filter fun r => r.2.on && r.1 != but).map fun r => (r.2.base, r.2.size)

/-- The Tun's range. -/
def Hub.tunRange (h : Hub) : Nat × Nat := (h.boot.tunBase, h.boot.tunSize)

/-- Enable, size and base of a trace ring, as committed. -/
def Hub.trcKey (h : Hub) (s : Nat) : Bool × Nat × Nat :=
  let o := 0x82000 + 0x20 * s
  (bit (h.act 0 o) 31, h.act 0 o % 32, h.act 0 (o + 4))

/-- A trace ring whose enable, base or size has taken effect (R214). A commit that leaves all three as they were leaves the ring's positions too
(DESIGN CHOICE, log entry 84). -/
def Hub.trcRingCommit (h : Hub) (old : Hub) (s : Nat) : Hub :=
  let o := 0x82000 + 0x20 * s
  if h.trcKey s = old.trcKey s then h
  else
    let en := bit (h.act 0 o) 31
    let n := h.act 0 o % 32
    let base := h.act 0 (o + 4)
    let others := h.tunRange :: ringsOn h.trc.ring s ++ ringsOn h.cnt.ring 64
    let ok := decide (16 ≤ n) && decide (n ≤ 31) && placeOk base (2 ^ n) others
    let r : Ring := { on := en && ok, base := base, size := 2 ^ n, status := if en && !ok then stTrcRing else stOk }
    { h with trc := { h.trc with ring := SMap.set {} h.trc.ring s r } }

/-- A consumer's write of RD (R216). -/
def Ring.setRd (r : Ring) (v : Nat) : Ring := if r.rd ≤ v ∧ v ≤ r.wr then { r with rd := v } else r

/-! ## Packing blocks (R212) -/

/-- A packet or reserved entry that waits to be drained, in one form. -/
structure Held where
  slice : Nat
  src : Nat
  seq : Nat
  tick : Nat
  flush : Nat
  bytes : List Byte
  /-- a trigger or a marker: no packet of a source's own stream -/
  rsv : Bool
  deriving DecidableEq, Repr

def Pkt.held (p : Pkt) : Held := ⟨p.slice, p.src, p.seq, p.tick, p.flush, p.bytes, false⟩
def Rsv.held (r : Rsv) : Held := ⟨r.slice, r.src, r.seq, r.tick, r.flush, r.packet, true⟩

/-- Body bytes a block of a slice may hold. -/
def bodyMax (slice : Nat) : Nat := if slice = 0 then 4064 else 4048

/-- The items of one block from the front of a list: one slice, one mark, as many as fit. -/
def takeBlock (slice flush room : Nat) : List Held → List Held
  | [] => []
  | i :: r =>
    if i.slice = slice ∧ i.flush = flush ∧ i.bytes.length ≤ room then i :: takeBlock slice flush (room - i.bytes.length) r else []

/-- The block at the front of a list. -/
def frontBlock (l : List Held) : List Held :=
  match l with
  | [] => []
  | i :: _ => takeBlock i.slice i.flush (bodyMax i.slice) l

/-- Whether the block at the front of a list is closed: the next item does not fit or is of another kind, or a flush marks it. -/
def closedBlock (l : List Held) : Bool :=
  match l with
  | [] => false
  | i :: _ => decide ((frontBlock l).length < l.length) || i.flush != 0

/-- The items of region 4 (the reserved area) or of a partition. -/
def Peck.items (p : Peck) (region : Nat) : List Held :=
  if region = 4 then p.rsv.map Rsv.held else (SMap.get {} p.part region).pkts.map Pkt.held

/-- What the drain engine may take from a region, in the order stored: the flush content of a rebinding, or the rest, of a RING partition only
what a flush has marked (R206, R217). -/
def Hub.drainable (h : Hub) (s : Nat) (q : Nat × Bool) : List Held :=
  let l := (h.getStn s).peck.items q.1
  if q.2 then l.filter fun i => i.flush == 1
  else l.filter fun i => i.flush != 1 && (q.1 == 4 || !h.partRing s q.1 || i.flush != 0)

/-- Where the drain engine may take a block, in its order: flush content of a rebinding, then the reserved area, then the draining partitions in
round robin (R212, R217). -/
def Hub.drainOrder (h : Hub) (s : Nat) : List (Nat × Bool) :=
  let p := (h.getStn s).peck
  let rr := 4 :: (List.range 4).map fun i => (p.rr + 1 + i) % 4
  (rr.map (·, true) ++ rr.map (·, false)).filter fun q => !(h.drainable s q).isEmpty

/-- A list without the first `n` of its members that satisfy `f`. -/
def dropWhere {α : Type} (f : α → Bool) : Nat → List α → List α
  | 0, l => l
  | _, [] => []
  | n + 1, a :: r => if f a then dropWhere f n r else a :: dropWhere f (n + 1) r

/-- Take the first `n` items of a region that are, or are not, flush content of a rebinding out of the Peck. -/
def Peck.takeItems (p : Peck) (q : Nat × Bool) (n : Nat) : Peck :=
  if q.1 = 4 then { p with rsv := dropWhere (fun r => (r.flush == 1) == q.2) n p.rsv }
  else { p with part := SMap.upd {} p.part q.1 fun x => { x with pkts := dropWhere (fun k => (k.flush == 1) == q.2) n x.pkts }, rr := q.1 }

/-- Sources of a block: source, first number, packets and words. -/
def blockSrcs (l : List Held) : List (Nat × Nat × Nat × Nat) :=
  (List.range 4).filterMap fun k =>
    match l.filter fun i => !i.rsv && i.src == k with
    | [] => none
    | i :: r => some (k, i.seq, r.length + 1, (i :: r).foldl (fun a j => a + j.bytes.length / 4) 0)

/-- Close the block at the front of a region (R212), or discard it if its ring is disabled (R216). -/
def Hub.closeBlock (h : Hub) (s : Nat) (q : Nat × Bool) : Hub :=
  let p := (h.getStn s).peck
  let region := q.1
  match h.drainable s q with
  | [] => h
  | i :: r =>
    let l := frontBlock (i :: r)
    let h := h.updPeck s fun p => p.takeItems q l.length
    if !(SMap.get {} h.trc.ring i.slice).on then h.rcAdd 0x80014 0 0 65535 l.length
    else
      let raw := l.flatMap (·.bytes)
      let tag := if i.slice = 0 then 0 else 16
      let len := roundUp 64 (32 + raw.length + tag)
      let b : Block := { station := s, slice := i.slice, seq := p.blockSeq, len := len, packets := l.length,
                         partition := if region = 4 then 0 else region, rsv := region == 4, flush := i.flush == 1, flushB := p.flushB,
                         body := padTo (len - 32 - tag) raw, srcs := blockSrcs l }
      (h.updPeck s fun p => { p with blockSeq := p.blockSeq + 1, blocks := p.blocks ++ [b] }).stallRetry s

/-- The reservation that a closed block waits for (R215); at most four are outstanding (R212). -/
def Hub.requestBlock (h : Hub) (s : Nat) : Hub :=
  let p := (h.getStn s).peck
  if 4 ≤ (p.blocks.filter (·.requested)).length then h
  else match firstIdx (fun b => !b.requested) p.blocks with
    | none => h
    | some i =>
      let h := h.updPeck s fun p => { p with blocks := modAt p.blocks i fun b => { b with requested := true } }
      let b := p.blocks.getD i default
      { h with trc := { h.trc with queue := h.trc.queue ++ [(s, b.seq)] } }

/-- A station may drain: the HVC path is up and its Perch is observed (R510, R61). -/
def Hub.drains (h : Hub) (s : Nat) : Bool := h.nocUp && h.observed s

/-- DRAIN_RESERVE_REQUEST: the next closed block asks for its reservation. -/
def Hub.drainRequest (h : Hub) (s : Nat) : Hub :=
  if !h.drains s then h
  else if (h.getStn s).peck.blocks.any (fun b => !b.requested) then h.requestBlock s
  else match (h.drainOrder s).find? fun r => closedBlock (h.drainable s r) with
    | some r => (h.closeBlock s r).requestBlock s
    | none => h

/-- DRAIN_BLOCK_TIMEOUT: 4,096 ticks since a region last stored a packet close its block (R212). -/
def Hub.drainTimeout (h : Hub) (s : Nat) : Hub :=
  if !h.drains s then h
  else
    let p := (h.getStn s).peck
    let last := fun r => if r = 4 then p.rsvStore else (SMap.get {} p.part r).lastStore
    match (h.drainOrder s).find? fun r => decide (last r.1 + 4096 ≤ h.stnTick s) with
    | some r => h.closeBlock s r
    | none => h

/-! ## Grants (R215) -/

/-- Requests in the order they are served: rebinding flushes, reserved-area blocks, the others in round robin by station. -/
def Hub.grantOrder (h : Hub) : List (Nat × Nat) :=
  let k := fun (q : Nat × Nat) => match h.reqBlock q with | some b => if b.flush then 0 else if b.rsv then 1 else 2 | none => 3
  let rest := h.trc.queue.filter fun q => k q == 2
  let later := rest.filter fun q => decide (h.trc.rr < q.1)
  let rot := sortBy Prod.fst later ++ sortBy Prod.fst (rest.filter fun q => decide (q.1 ≤ h.trc.rr))
  h.trc.queue.filter (fun q => k q == 0) ++ h.trc.queue.filter (fun q => k q == 1) ++ rot

/-- A stop-mode grant of ring `s` waits for RD. -/
def Hub.ringWaits (h : Hub) (s : Nat) : Bool :=
  let r := SMap.get {} h.trc.ring s
  !bit (h.act 0 (0x82000 + 0x20 * s)) 30 && r.on
    && h.trc.queue.any fun q => match h.reqBlock q with | some b => b.slice == s && !b.flush && !r.fits b.len | none => false

/-- Bring TRC_RINGs_STAT.waiting up to date. -/
def Hub.setWaiting (h : Hub) (s : Nat) : Hub :=
  let w := h.ringWaits s
  let h := if w && !(SMap.get {} h.trc.ring s).waiting then h.irqRaise 9 else h
  { h with trc := { h.trc with ring := SMap.upd {} h.trc.ring s fun r => { r with waiting := w } } }

/-- The 32-byte header of a block (Table 06.8). -/
def blockHeader (station slice flags pos seq len packets part : Nat) : List Byte :=
  leBytes 4 0x4B425254 ++ leBytes 2 station ++ leBytes 1 slice ++ leBytes 1 flags ++ leBytes 8 pos ++ leBytes 8 seq ++ leBytes 4 len
    ++ leBytes 2 packets ++ leBytes 1 part ++ [0]

/-- Grant one request: the extent is reserved, past a filler where it would cross the ring's end (R215). -/
def Hub.grant (h : Hub) (q : Nat × Nat) (b : Block) : Hub :=
  let r := SMap.get {} h.trc.ring b.slice
  let h := { h with trc := { h.trc with queue := h.trc.queue.filter (· != q), rr := if b.flush || b.rsv then h.trc.rr else q.1 } }
  if !r.on then
    (h.updPeck q.1 fun p => { p with blocks := p.blocks.filter fun x => x.seq != b.seq }).rcAdd 0x80014 0 0 65535 b.packets
  else
    let pos := r.place b.len
    let h := if pos = r.wr then h
      else h.hbmWrite (r.base + r.wr % r.size) (blockHeader 0x7FF b.slice 8 r.wr 0 (pos - r.wr) 0 0)
    let h := if pos + b.len ≤ r.rd + r.size then h else h.rcFlag (0x8201C + 0x20 * b.slice) 30 9
    let t := h.trc
    let t := { t with ring := SMap.set {} t.ring b.slice { r with wr := pos + b.len },
                      tokens := if b.flush then t.tokens else t.tokens - b.len,
                      flushTokens := if b.flush then t.flushTokens - b.len else t.flushTokens }
    ({ h with trc := t }).updPeck q.1 fun p => { p with
      blocks := p.blocks.map fun (x : Block) =>
        if x.seq = b.seq then { x with granted := true, pos := pos, base := r.base, size := r.size, key := (h.getKeys b.slice).cur.trace } else x }

/-- DRAIN_GRANT: the first request in the order of R215 whose ring has room, if the bucket holds its tokens. -/
def Hub.drainGrant (h : Hub) : Hub :=
  if !h.nocUp then h
  else
    let l := h.grantOrder.filterMap fun q => (h.reqBlock q).map fun b => (q, b)
    let h := (l.map fun x => x.2.slice).foldl (fun h s => h.setWaiting s) h
    match l.find? fun x => h.grantable x.2 with
    | some (q, b) =>
      if h.lacksTokens b then h
      else (h.grant q b).setWaiting b.slice
    | none => h

/-! ## Sealing and writing (R213) -/

/-- Header of a block as it is written. -/
def Block.header (b : Block) : List Byte :=
  blockHeader b.station b.slice (b2n (decide (b.slice ≠ 0)) + 2 * b2n b.flush + 4 * b2n b.rsv) b.pos b.seq b.len b.packets b.partition

/-- The dump engine needs the AES-GCM engines: a dump streams, or chunks of a tenant watch are in the compression engines (R213, R354). -/
def Hub.sealsDump (h : Hub) : Bool :=
  decide (h.dmp.st = .stream) || (!h.dmp.jobs.isEmpty && (match h.dmp.fires with | f :: _ => !f.key.isEmpty | [] => false))

/-- BLOCK_SEAL: the hub core encrypts the next granted block of a tenant slice, while the dump engine does not need the engines. -/
def Hub.blockSeal (h : Hub) : Hub :=
  if h.sealsDump then h
  else
    match h.stn.find? fun t => t.2.peck.blocks.any fun b => b.granted && b.slice != 0 && !b.sealed_ with
    | none => h
    | some (s, t) =>
      match firstIdx (fun b => b.granted && b.slice != 0 && !b.sealed_) t.peck.blocks with
      | none => h
      | some i =>
        let b := t.peck.blocks.getD i default
        let iv := leBytes 2 b.station ++ leBytes 8 b.seq ++ [0x54, 0x43]
        let body := padTo (b.body.length + 16) (Config.aesGcm (padTo 32 b.key) iv b.header b.body)
        h.updPeck s fun p => { p with blocks := setAt p.blocks i { b with sealed_ := true, body := body } }

/-- DRAIN_BLOCK_WRITTEN: the oldest granted block of a station is written, its header last. -/
def Hub.blockWritten (h : Hub) (s : Nat) : Hub :=
  if !h.nocUp then h
  else
    match firstIdx (fun b => b.granted && (b.slice == 0 || b.sealed_)) (h.getStn s).peck.blocks with
    | none => h
    | some i =>
      let b := (h.getStn s).peck.blocks.getD i default
      let h := h.hbmWrite (b.base + b.pos % b.size) (padTo b.len (b.header ++ b.body))
      h.updPeck s fun p => { p with blocks := eraseAt p.blocks i }

/-- A consumer's RD of a trace ring (R216). -/
def Hub.trcRdWrite (h : Hub) (s v : Nat) : Hub :=
  ({ h with trc := { h.trc with ring := SMap.upd {} h.trc.ring s fun r => r.setRd v } }).setWaiting s

/-! ## Flushes (Table 06.7, R217) -/

/-- A flush write: the packets present are drained; it closes the open block. -/
def Hub.peckFlush (h : Hub) (s : Nat) : Hub :=
  h.updPeck s fun p =>
    let mark := fun (f : Nat) => if f = 0 then p.gen else f
    { p with
      gen := p.gen + 1,
      part := p.part.map fun x => (x.1, { x.2 with pkts := x.2.pkts.map fun k => { k with flush := mark k.flush } }),
      rsv := p.rsv.map fun r => { r with flush := mark r.flush } }

/-- At boundary `b` the packets of the old slices become flush content, those in closed blocks too unless the block is sealed already; every open
block closes (R212, R217). -/
def Hub.rebindMark (h : Hub) (s b : Nat) (olds : List Nat) : Hub :=
  h.updPeck s fun p =>
    let mark := fun (slice f : Nat) (ring : Bool) => if olds.contains slice then 1 else if f = 0 ∧ !ring then p.gen else f
    { p with
      flushB := b,
      gen := p.gen + 1,
      part := p.part.map fun x => (x.1, { x.2 with pkts := x.2.pkts.map fun k => { k with flush := mark k.slice k.flush (h.partRing s x.1) } }),
      rsv := p.rsv.map fun r => { r with flush := mark r.slice r.flush false },
      blocks := p.blocks.map fun (k : Block) => if olds.contains k.slice && !k.sealed_ then { k with flush := true, flushB := b } else k }

/-- What a Perch has still to do in the hub cycle that ends: TRIGGERs land in ascending condition index (R209); local orders, then matrix orders, a stop
beating every start (R169); then a release, a flush and a hold, after all stores of the cycle (R211). -/
def Hub.settleStn (h : Hub) (s : Nat) : Hub :=
  let o := (h.getStn s).ord
  if o = {} then h
  else
    let h := h.updOrd s fun _ => {}
    let h := (sortBy (·.cond) o.trig).foldl (fun h t => h.putTrigger s t) h
    let stops := o.lstop ||| o.mstop
    let h := (h.applyOrder s o.lstop (clearBits o.lstart stops) 1 2).applyOrder s o.mstop (clearBits o.mstart stops) 2 3
    let h := if o.release then h.release s else h
    let h := if o.flush then h.peckFlush s else h
    if o.hold then (h.hold s).stallRetry s else h

/-- The same for every Perch. -/
def Hub.settle (h : Hub) : Hub := h.stn.foldl (fun h e => h.settleStn e.1) h

/-- REBIND_FLUSH_EXPIRY: flush content not written by tick B + 4,095 is discarded, with one LOSS of reason 3 for each source. -/
def Hub.rebindExpiry (h : Hub) (s : Nat) : Hub :=
  let p := (h.getStn s).peck
  let t := h.stnTick s
  let parts := (List.range 4).flatMap fun r => (p.items r).filter fun i => i.flush == 1
  let gone := p.blocks.filter fun b => b.flush && decide (b.flushB + 4095 ≤ t)
  if t < p.flushB + 4095 ∨ (parts.isEmpty ∧ gone.isEmpty ∧ p.rsv.all fun r => r.flush != 1) then h
  else
    let lost := gone.flatMap (fun b => b.srcs.map fun x => (b.slice, x))
      ++ (blockSrcs parts).map fun x => (((parts.find? fun i => i.src == x.1).map (·.slice)).getD 0, x)
    let h := h.updPeck s fun p => { p with
      part := p.part.filterMap fun x =>
        let y := { x.2 with pkts := x.2.pkts.filter fun k => k.flush != 1 }
        if y = {} then none else some (x.1, y),
      rsv := p.rsv.filter fun r => r.flush != 1,
      blocks := p.blocks.filter fun b => !(b.flush && decide (b.flushB + 4095 ≤ t)) }
    let h := { h with trc := { h.trc with queue := h.trc.queue.filter fun q => !(q.1 == s && gone.any fun b => b.seq == q.2) } }
    let h := (List.range 4).foldl (fun h k =>
      match lost.filter fun x => x.2.1 == k with
      | [] => h
      | (sl, x) :: r => h.loss s k sl 3 x.2.1 (((sl, x) :: r).foldl (fun a y => a + y.2.2.2.1) 0)
          (((sl, x) :: r).foldl (fun a y => a + y.2.2.2.2) 0) t) h
    h.stallRetry s

end Sys2Proof.Machine
end

