-- ==== Sys2Proof/Machine/Counters.lean ====
section
/-!
DEFINITION. Machine/Counters.lean: the Grain counters, the sampler with its sample and seal frames, and the attribution table with its
exports and final records (chapter 07).
-/
namespace Sys2Proof.Machine

/-! ## Grain counters (R224 to R229) -/

def Hub.getGrain (h : Hub) (u : Nat) : Grain := SMap.get {} (h.getStn (unitStn u)).grain (unitSub u)
def Hub.updGrain (h : Hub) (u : Nat) (f : Grain → Grain) : Hub :=
  h.updStn (unitStn u) fun t => { t with grain := SMap.upd {} t.grain (unitSub u) f }

/-- Counters of a class that count cycles (Table 07.1). -/
def cycleCounter (cls k : Nat) : Bool :=
  match cls with
  | 0 | 1 => k == 0 || k == 1 || k == 3
  | 2 | 6 => k == 0 || k == 3
  | 3 => k == 0 || k == 4
  | 5 => k == 0 || k == 6
  | _ => k == 0

/-- A context advances its progress count (R287). -/
def Hub.progress (h : Hub) (c n : Nat) : Hub := h.updCtx c fun x => { x with progress := (x.progress + n) % 2 ^ 32 }

/-- A counter takes increments in this hub cycle; counter 1 of a tile unit also makes progress for the command in progress (R287). -/
def Hub.grainAdd (h : Hub) (u k n : Nat) : Hub :=
  if !unitOk u || decide (8 ≤ k) then h
  else
    let g := h.getGrain u
    let h := h.updGrain u fun g => { g with inc := SMap.upd 0 g.inc k (· + n) }
    match g.cmd with
    | some (c, _) =>
      if k = 1 ∧ isTileUnit u ∧ !((h.getCtx c).cmds.any fun x => x.gone && x.started && x.unit == u) then
        (h.updGrain u fun g => { g with retired := (g.retired + n) % 2 ^ 20 }).progress c ((g.retired + n) / 2 ^ 20)
      else h
    | none => h

/-- The same from the die: a gated unit, or one whose gate is not in RUN, adds nothing to a cycle counter (R225, R267). -/
def Hub.grainIncrement (h : Hub) (u k n : Nat) : Hub :=
  if cycleCounter (unitClass u) k && (h.asleep u || (h.getGate u).st != .run) then h
  else if h.boot.units then h.grainAdd u k n else h

/-- A program-flow event as trace and the core's counters see it: taken branches and exceptions (Table 07.1). -/
def Hub.coreEvent (h : Hub) (u kind addr target : Nat) (taken : Bool) (mode after cause : Nat) : Hub :=
  let g := h.programFlow u kind addr target taken mode after cause
  if !h.unitRuns u || !isScalar u then g
  else match kind with
    | 0 => if taken then g.grainAdd u 2 1 else g
    | 1 => g.grainAdd u 2 1
    | 2 => g.grainAdd u 5 1
    | _ => g

/-- A request that a channel serves, as trace and the channel's counters see it: requests and bytes (Table 07.1). -/
def Hub.channelServe (h : Hub) (u : Nat) (r : Rmo) : Hub :=
  let g := h.channelRequest u r
  if !h.unitRuns u || decide (unitClass u ≠ 4) then g
  else match r.op with
    | .get => (g.grainAdd u 1 1).grainAdd u 3 r.len
    | .put => (g.grainAdd u 2 1).grainAdd u 4 r.len
    | _ => g

/-- A unit's command starts: per-command counters reset and the record's fields change (R227, R229). -/
def Hub.grainStart (h : Hub) (u ctx tag : Nat) : Hub :=
  let per := h.pact (unitStn u) 0 0x20 % 256
  h.updGrain u fun g => { g with resetNow := g.resetNow ||| per, startsNow := satAdd 65535 g.startsNow 1, cmd := some (ctx, tag), retired := 0 }

/-- The count of retired instructions of a unit starts again at a progress event of its command's context (R287). -/
def Hub.grainRestart (h : Hub) (u ctx : Nat) : Hub :=
  if unitOk u && ((h.getGrain u).cmd.map Prod.fst == some ctx) then h.updGrain u fun g => { g with retired := 0 } else h

/-- A unit's command ends. -/
def Hub.grainEnd (h : Hub) (u : Nat) : Hub := h.updGrain u fun g => { g with cmd := none, retired := 0 }

/-- A unit's counters reset at a change of its slice (R237). -/
def Hub.grainMove (h : Hub) (u : Nat) : Hub := h.updGrain u fun g => { g with resetNow := 255, joined := h.clk.cycle + 1 }

/-- A unit is held by a cut: its gate is not in RUN (R267, Table 07.4). -/
def Hub.heldByCut (h : Hub) (u : Nat) : Bool := (h.getGate u).st != .run

/-- A unit record as captured in this hub cycle (Table 07.4, R228, R229). -/
def Hub.capture (h : Hub) (u : Nat) : URec :=
  let g := h.getGrain u
  { unit := u, slice := h.unitSlice u, bnd := g.resetNow, rst := g.rst, flags := b2n (h.asleep u) + 2 * b2n (h.heldByCut u),
    joined := g.joined, starts := satAdd 65535 g.starts g.startsNow, cmd := g.cmdOld, counters := (List.range 8).map fun k => SMap.get 0 g.old k }

/-- Bytes of a unit record. -/
def URec.bytes (r : URec) : List Byte :=
  leBytes 2 r.unit ++ leBytes 1 r.bnd ++ leBytes 1 r.rst ++ leBytes 1 (r.flags + 4 * b2n (r.joined != 0)) ++ [0] ++ leBytes 2 r.starts
    ++ (match r.cmd with | some (c, t) => leBytes 4 (c + 2 ^ 31) ++ leBytes 4 t | none => zeros 8) ++ r.counters.flatMap (leBytes 6)

/-! ## Frames (Table 07.3, R235, R236) -/

/-- A frame header. -/
def frameHeader (slice type flags pos tick seq len records skipped : Nat) : List Byte :=
  leBytes 4 0x4D535247 ++ leBytes 1 slice ++ leBytes 1 type ++ leBytes 1 flags ++ [0] ++ leBytes 8 pos ++ leBytes 8 tick ++ leBytes 4 seq
    ++ leBytes 4 len ++ leBytes 2 records ++ leBytes 2 skipped ++ zeros 4

/-- What became of a frame: written, discarded because its ring is disabled, or it does not fit. -/
inductive Put where
  | written | discarded | full
  deriving DecidableEq, Repr

/-- Put a frame of `len` bytes into sample ring `s`; `mk` gives its bytes at a position (R235, R236). The tick field of a filler, for which Table 07.3 gives
nothing, is 0 (DESIGN CHOICE, log entry 85). -/
def Hub.cntPut (h : Hub) (s len : Nat) (mk : Nat → List Byte) : Put × Hub :=
  let r := SMap.get {} h.cnt.ring s
  let overwrite := bit (h.act 0 (0x71000 + 0x20 * s)) 30
  if !r.on then (.discarded, h)
  else if !h.nocUp || (!overwrite && !r.fits len) then (.full, h)
  else
    let pos := r.place len
    let gap := pos - r.wr
    let h := if gap = 0 then h
      else h.hbmWrite (r.base + r.wr % r.size) ((frameHeader s 3 0 r.wr 0 0 gap 0 0).take gap)
    let h := if pos + len ≤ r.rd + r.size then h else h.rcFlag (0x7101C + 0x20 * s) 30 10
    let h := h.hbmWrite (r.base + pos % r.size) (padTo len (mk pos))
    (.written, { h with cnt := { h.cnt with ring := SMap.set {} h.cnt.ring s { r with wr := pos + len } } })

/-- Enable, size and base of a sample ring, as committed. -/
def Hub.cntKey (h : Hub) (s : Nat) : Bool × Nat × Nat :=
  let o := 0x71000 + 0x20 * s
  (bit (h.act 0 o) 31, h.act 0 o % 64, h.act 0 (o + 4))

/-- A sample ring whose enable, base or size has taken effect (R235). A commit that leaves all three as they were leaves the ring's positions too
(DESIGN CHOICE, log entry 84). -/
def Hub.cntRingCommit (h : Hub) (old : Hub) (s : Nat) : Hub :=
  let o := 0x71000 + 0x20 * s
  if h.cntKey s = old.cntKey s then h
  else
    let en := bit (h.act 0 o) 31
    let n := h.act 0 o % 64
    let base := h.act 0 (o + 4)
    let others := h.tunRange :: ringsOn h.cnt.ring s ++ ringsOn h.trc.ring 64
    let ok := decide (20 ≤ n) && decide (n ≤ 34) && placeOk base (2 ^ n) others
    let r : Ring := { on := en && ok, base := base, size := 2 ^ n, status := if en && !ok then stCntRing else stOk }
    { h with cnt := { h.cnt with ring := SMap.set {} h.cnt.ring s r } }

/-- A consumer's RD of a sample ring. -/
def Hub.cntRdWrite (h : Hub) (s v : Nat) : Hub :=
  { h with cnt := { h.cnt with ring := SMap.upd {} h.cnt.ring s fun r => r.setRd v } }

/-! ## Seal frames (R237, R238) -/

/-- Write the oldest seal frame of a slice, if it fits; a disabled ring discards it. -/
def Hub.sealWrite (h : Hub) (s : Nat) : Hub :=
  match firstIdx (·.slice == s) h.cnt.seals with
  | none => h
  | some i =>
    let x := h.cnt.seals.getD i default
    let body := x.recs.flatMap URec.bytes
    let tag := if s = 0 then 0 else 16
    let len := 40 + body.length + tag
    let mk := fun pos =>
      let plain := frameHeader s 1 (b2n (decide (s ≠ 0))) pos x.b x.seq len x.recs.length 0 ++ body
      if s = 0 then plain else plain ++ padTo 16 (Config.aesGcm x.key (leBytes 4 x.seq ++ leBytes 8 x.b) plain [])
    match h.cntPut s len mk with
    | (.full, h) => h
    | (_, h) => { h with cnt := { h.cnt with seals := eraseAt h.cnt.seals i } }

/-- A seal frame that has not fitted by tick B + 4,095 is discarded (R238). -/
def Hub.sealTimeout (h : Hub) (s : Nat) : Hub :=
  match firstIdx (fun x => x.slice == s && decide (x.b + 4095 ≤ h.now)) h.cnt.seals with
  | none => h
  | some i =>
    let x := h.cnt.seals.getD i default
    let h := { h with cnt := { h.cnt with seals := eraseAt h.cnt.seals i } }
    (h.rcFlag (0x7101C + 0x20 * s) 31 10).record { h.evt 7 0x0709 with slice := s, arg := x.b }

/-- The captures of the units that leave slices at boundary tick `b`: one seal for each slice, records in ascending unit number. The frame takes the counter
key that the slice holds at the boundary: of a destroyed slice whose keys were erased (R416) that is the empty key (DESIGN CHOICE, log entry 86). -/
def Hub.sealUnits (h : Hub) (b : Nat) (units : List Nat) : Hub :=
  let recs := units.map fun u => { h.capture u with bnd := 255 }
  (List.range 64).foldl (fun h s =>
    let l := recs.filter (·.slice == s)
    if l.isEmpty then h
    else { h with cnt := { h.cnt with seals := h.cnt.seals ++ [⟨s, b, (h.getKeys s).cur.counter, h.cnt.seq, l⟩] } }) h

/-! ## The sampler (R230 to R232) -/

/-- Period in ticks, and whether sampling is enabled. -/
def Hub.cntPeriod (h : Hub) : Nat := h.act 0x3E8 0x70000 % 2 ^ 24 * 1000
def Hub.cntOn (h : Hub) : Bool := bit (h.act 0x3E8 0x70000) 31

/-- enable or period_us has taken effect at a boundary tick (R230): one of them has changed (DESIGN CHOICE, log entry 84). -/
def Hub.cntCommit (h : Hub) (old : Hub) (b : Nat) : Hub :=
  if h.act 0x3E8 0x70000 = old.act 0x3E8 0x70000 then h else { h with cnt := { h.cnt with origin := b, next := b } }

/-- SAMPLE_TICK: the sample whose tick has come is captured, or skipped while the last one is not all reserved (R230 to R232). A station whose last capture
has not left it keeps that one and counts an overrun (R231). -/
def Hub.sampleTick (h : Hub) : Hub :=
  if !h.cntOn || !h.clk.started || decide (h.now < h.cnt.next) then h
  else
    let t := h.cnt.next
    let h := { h with cnt := { h.cnt with next := t + h.cntPeriod } }
    if h.cnt.cur.isSome || !h.nocUp then
      let h := (h.rcAdd 0x70004 0 16 65535 1).irqRaise 10
      let f := fun (m : SMap Nat) (s : Nat) => if (SMap.get ({} : Ring) h.cnt.ring s).on then SMap.upd 0 m s (satAdd 65535 1) else m
      { h with cnt := { h.cnt with skipped := (List.range 64).foldl f h.cnt.skipped } }
    else
      let all := allStations.filter h.observed
      let stns := all.filter fun s => !h.cnt.busy.contains s
      let h := (all.filter h.cnt.busy.contains).foldl (fun h s => h.rcAdd (pchOff s 0x24) 0 0 255 1) h
      let recs := stns.flatMap fun s => (stnUnits s).map h.capture
      let owners := (List.range 64).filter fun s => allUnits.any fun u => h.unitSlice u == s
      { h with cnt := { h.cnt with cur := some (h.now, stns), recs := recs, busy := h.cnt.busy ++ stns, owners := owners, capCycle := h.clk.cycle + 1 } }

/-- The frame of one slice of a sample (R232): a pending seal comes first. -/
def Hub.sampleFrame (h : Hub) (t s : Nat) : Hub :=
  let h := h.sealWrite s
  let recs := h.cnt.recs.filter (·.slice == s)
  let skip := fun (h : Hub) => { h with cnt := { h.cnt with skipped := SMap.upd 0 h.cnt.skipped s (satAdd 65535 1) } }
  if h.cnt.seals.any fun x => x.slice == s then skip h
  else
    let len := 40 + 64 * recs.length
    match h.cntPut s len fun pos =>
        frameHeader s 0 0 pos t h.cnt.count len recs.length (SMap.get 0 h.cnt.skipped s) ++ recs.flatMap URec.bytes with
    | (.written, h) =>
      let h := { h with cnt := { h.cnt with skipped := SMap.set 0 h.cnt.skipped s 0 } }
      recs.foldl (fun h r => if r.joined ≠ 0 ∧ (h.getGrain r.unit).joined = r.joined then h.updGrain r.unit fun g => { g with joined := 0 } else h) h
    | (.full, h) => skip h
    | (.discarded, h) => h

/-- A station's capture is complete in the hub core; with the last one the frames are written (R231, R232). -/
def Hub.captureTake (h : Hub) (s : Nat) : Hub :=
  match h.cnt.cur with
  | none => h
  | some (t, l) =>
    if !l.contains s then h
    else
      let l := l.filter (· != s)
      if !l.isEmpty then { h with cnt := { h.cnt with cur := some (t, l) } }
      else
        let h := h.cnt.owners.foldl (fun h s => h.sampleFrame t s) h
        { h with cnt := { h.cnt with cur := none, recs := [], owners := [], seq := h.cnt.count, count := (h.cnt.count + 1) % 2 ^ 32 } }

/-- SAMPLE_CAPTURE_ARRIVE: the last flit of a station's capture has arrived; the station is ready for the next capture (R231). -/
def Hub.captureArrive (h : Hub) (s : Nat) : Hub := ({ h with cnt := { h.cnt with busy := h.cnt.busy.filter (· != s) } }).captureTake s

/-- A bypassed station contributes no records: the sample no longer waits for it (R231). -/
def Hub.sampleBypass (h : Hub) (s : Nat) : Hub :=
  match h.cnt.cur with
  | some (_, l) =>
    if l.contains s then
      ({ h with cnt := { h.cnt with recs := h.cnt.recs.filter fun r => unitStn r.unit != s } }).captureTake s
    else h
  | none => h

/-- End of a hub cycle for one unit's counters (R227 to R229). -/
def Grain.tick (g : Grain) (sampled : Bool) : Grain :=
  let new := (List.range 8).foldl (fun m k =>
    let i := SMap.get 0 g.inc k
    if bit g.resetNow k then SMap.set 0 m k (i % 2 ^ 48) else if i = 0 then m else SMap.upd 0 m k fun v => (v + i) % 2 ^ 48) g.old
  { g with old := new, inc := [], resetNow := 0, startsNow := 0, cmdOld := g.cmd,
           rst := if sampled then 0 else g.rst ||| g.resetNow,
           starts := if sampled then 0 else satAdd 65535 g.starts g.startsNow }

/-- End of a hub cycle for the counters of the die; a sample captured in the cycle takes the resets and starts of all of it. -/
def Hub.grainCycle (h : Hub) : Hub :=
  let now := h.cnt.capCycle == h.clk.cycle + 1
  let stns := match h.cnt.cur with | some (_, l) => l | none => []
  let recs := if now then h.cnt.recs.map fun r =>
      let g := h.getGrain r.unit
      { r with bnd := g.resetNow, starts := satAdd 65535 g.starts g.startsNow }
    else h.cnt.recs
  let f := fun (s : Nat) (t : Stn) =>
    { t with grain := SMap.mapVal {} (fun _ g => g.tick (now && stns.contains s)) t.grain }
  { h with cnt := { h.cnt with recs := recs }, stn := SMap.mapVal {} f h.stn }

/-! ## Attribution (R239 to R242) -/

/-- Sum of two lists of six fields. -/
def addFields (a b : List Nat) : List Nat := (List.range 6).map fun k => a.getD k 0 + b.getD k 0

/-- Keys a Perch's cache holds. -/
def cacheSize : Nat := 16

/-- An update flit leaves a Perch (R242). -/
def Hub.sendCharge (h : Hub) (c : Charge) : Hub := { h with cnt := { h.cnt with flits := h.cnt.flits ++ [c] } }

/-- A Perch charges a key (R240, R242): the delta joins the cache; a field above 2^32 - 1 or a displaced key sends an update flit. -/
def Hub.charge (h : Hub) (s ctx tag slice : Nat) (f : List Nat) : Hub :=
  let cache := (h.getStn s).cache
  match firstIdx (fun c => c.context == ctx && c.tag == tag) cache with
  | some i =>
    let c := cache.getD i default
    let sum := addFields c.f f
    if sum.any fun x => decide (2 ^ 32 ≤ x) then
      (h.sendCharge c).updStn s fun t => { t with cache := setAt t.cache i { c with f := addFields [] f } }
    else h.updStn s fun t => { t with cache := setAt t.cache i { c with f := sum } }
  | none =>
    let new : Charge := ⟨s, ctx, tag, slice, addFields [] f⟩
    if cache.length < cacheSize then h.updStn s fun t => { t with cache := t.cache ++ [new] }
    else (h.sendCharge (cache.headD default)).updStn s fun t => { t with cache := t.cache.tail ++ [new] }

/-- The Perch drains its whole cache (R242). -/
def Hub.drainCache (h : Hub) (s : Nat) : Hub :=
  let l := (h.getStn s).cache
  if l.isEmpty then h
  else ({ h with cnt := { h.cnt with flits := h.cnt.flits ++ l } }).updStn s fun t => { t with cache := [] }

/-- The six charges of a completed operation (R240): an atomic's length is its operand size. -/
def rmoCharge (r : Rmo) : List Nat :=
  let level := (List.range 4).map fun k => if k = r.level then r.len else 0
  let far := r.level == 3
  let sent := if far && (r.op == .put || r.op == .atomic) then r.len else 0
  let got := if far && (r.op == .get || r.op == .atomic) then r.len else 0
  level ++ [sent, got]

/-- Key of an attribution entry. -/
def attKey (ctx tag : Nat) : Nat := ctx * 2 ^ 32 + tag

/-- Quota of a slice (R252). -/
def Hub.attQuota (h : Hub) (s : Nat) : Nat := h.act 0x40000 (0x72100 + 4 * s) % 2 ^ 19

/-- Add to the fields of a slice's overflow bucket. -/
def Hub.bucketAdd (h : Hub) (s : Nat) (f : List Nat) (n : Nat) : Hub :=
  { h with cnt := { h.cnt with bucket := SMap.upd {} h.cnt.bucket s fun b =>
    { b with slice := s, f := (addFields b.f f).map (· % 2 ^ 48), overflow := satAdd (2 ^ 32 - 1) b.overflow n, changed := true } } }

/-- The fields that an entry exports: a damaged entry exports all ones (Table 18.1). -/
def AttEntry.out (e : AttEntry) : List Nat := if e.bad then List.replicate 6 (2 ^ 48 - 1) else e.f

/-- ATTRIBUTION_UPDATE: the oldest update flit reaches the table (R241). -/
def Hub.attUpdate (h : Hub) : Hub :=
  match h.cnt.flits with
  | [] => h
  | c :: q =>
    let h := { h with cnt := { h.cnt with flits := q } }
    let k := attKey c.context c.tag
    let e := SMap.get {} h.cnt.att k
    let put := fun (h : Hub) => { h with cnt := { h.cnt with att := SMap.upd {} h.cnt.att k fun e =>
      { e with slice := c.slice, f := (addFields e.f c.f).map (· % 2 ^ 48), changed := true } } }
    if e ≠ {} ∧ !e.bad then put h
    else if e.bad ∨ 262144 ≤ h.cnt.att.length ∨ h.attQuota c.slice ≤ h.attUsed c.slice then
      let first := (SMap.get {} h.cnt.bucket c.slice).overflow == 0
      let h := h.bucketAdd c.slice c.f 1
      if first then h.record { h.evt 7 0x070A with slice := c.slice, arg := c.context + at_ c.tag 32 } else h
    else put h

/-! ## Exports (R243, R244) -/

/-- Bytes of an attribution record (Table 07.6). -/
def attRecord (key tag : Nat) (f : List Nat) (overflow : Nat) : List Byte :=
  leBytes 4 key ++ leBytes 4 tag ++ ((List.range 6).map fun k => f.getD k 0).flatMap (leBytes 6) ++ leBytes 4 overflow

/-- Records of an attribution frame at most. -/
def attPerFrame : Nat := 4096

/-- Cut a list into parts of at most `n` elements; the first argument bounds the number of parts. -/
def chunksOf {α : Type} (n : Nat) : Nat → List α → List (List α)
  | 0, _ => []
  | k + 1, l => if l.isEmpty then [] else l.take n :: chunksOf n k (l.drop n)

/-- Write attribution frames for a list of keyed records of slice `s`; returns the keys whose frames were not written. -/
def Hub.attFrames (h : Hub) (s : Nat) (recs : List (Nat × List Byte)) : List Nat × Hub :=
  let parts := chunksOf attPerFrame (recs.length + 1) recs
  (parts.zipIdx).foldl (fun (bad, h) (p, i) =>
    let len := 40 + 48 * p.length
    let more := if i + 1 < parts.length then 2 else 0
    match h.cntPut s len fun pos => frameHeader s 2 more pos h.now h.cnt.seq len p.length 0 ++ p.flatMap (·.2) with
    | (.written, h) => (bad, h)
    | (.full, h) | (.discarded, h) => (bad ++ p.map (·.1), h)) ([], h)

/-- Key under which the bucket travels in `attFrames`. -/
def bucketKey : Nat := 2 ^ 60

/-- Export the changed entries of a slice, then its bucket if that changed (R243). -/
def Hub.attExport (h : Hub) (s : Nat) : Hub :=
  let es := h.cnt.att.filter fun e => e.2.slice == s && e.2.changed
  let b := SMap.get {} h.cnt.bucket s
  let recs := es.map (fun e => (e.1, attRecord (e.1 / 2 ^ 32) (e.1 % 2 ^ 32) e.2.out 0))
    ++ if b.changed then [(bucketKey, attRecord (2 ^ 18) 0 b.f b.overflow)] else []
  let ring := (SMap.get {} h.cnt.ring s).on
  let (bad, h) := h.attFrames s recs
  let bad := if ring then bad else []
  let att := h.cnt.att.map fun e => if e.2.slice = s ∧ !bad.contains e.1 then (e.1, { e.2 with changed := false }) else e
  let bucket := if bad.contains bucketKey then h.cnt.bucket else SMap.upd {} h.cnt.bucket s fun b => { b with changed := false }
  { h with cnt := { h.cnt with att := att, bucket := bucket } }

/-- Export of every slice. -/
def Hub.attExportAll (h : Hub) : Hub := (List.range 64).foldl (fun h s => h.attExport s) h

/-- Export period in ticks. -/
def Hub.attPeriod (h : Hub) : Nat := h.act 0x3E8 0x72000 % 65536 * 1000000

/-- enable or period_ms has taken effect at a boundary tick: one of them has changed (DESIGN CHOICE, log entry 84). -/
def Hub.attCommit (h : Hub) (old : Hub) (b : Nat) : Hub :=
  if h.act 0x3E8 0x72000 = old.act 0x3E8 0x72000 then h
  else { h with cnt := { h.cnt with attNext := b + h.attPeriod } }

/-- ATTRIBUTION_EXPORT_TICK (R243). -/
def Hub.attExportTick (h : Hub) : Hub :=
  if !bit (h.act 0x3E8 0x72000) 31 || !h.clk.started || decide (h.now < h.cnt.attNext) then h
  else ({ h with cnt := { h.cnt with attNext := h.cnt.attNext + h.attPeriod } }).attExportAll

/-- ATTRIBUTION_FINAL_RECORDS: the entries of a destroyed context are written as final records and freed; what cannot be written joins the
slice's bucket (R244). -/
def Hub.finalRecords (h : Hub) (ctx : Nat) : Hub :=
  if !(h.getCtx ctx).finals then h
  else
    let es := h.cnt.att.filter fun e => e.1 / 2 ^ 32 == ctx
    let s := (h.getCtx ctx).slice
    let (bad, h) := h.attFrames s (es.map fun e => (e.1, attRecord (ctx + 2 ^ 19) (e.1 % 2 ^ 32) e.2.out 0))
    let h := es.foldl (fun h e => if bad.contains e.1 && !e.2.bad then h.bucketAdd s e.2.f 0 else h) h
    let h := { h with cnt := { h.cnt with att := h.cnt.att.filter fun e => e.1 / 2 ^ 32 != ctx } }
    h.updCtx ctx fun c => { c with finals := false }

/-- The bucket of a destroyed slice is written as a final record and cleared (R244). -/
def Hub.bucketFinal (h : Hub) (s : Nat) : Hub :=
  let b := SMap.get {} h.cnt.bucket s
  let h := (h.cntPut s 88 fun pos => frameHeader s 2 0 pos h.now h.cnt.seq 88 1 0 ++ attRecord (2 ^ 18 + 2 ^ 19) 0 b.f b.overflow).2
  { h with cnt := { h.cnt with bucket := SMap.set {} h.cnt.bucket s {} } }

end Sys2Proof.Machine
end

