-- ==== Sys2Proof/Machine/Tun.lean ====
section
/-!
DEFINITION. Machine/Tun.lean: the Tun (R325 to R327): its header and object directory, the ring of records, reservations and their
completion.
-/
namespace Sys2Proof.Machine

/-- Offset of the data area in the Tun (Table 10.4). -/
def tunDataOff : Nat := 0x2200000

/-- Size of the data area. -/
def Hub.tunData (h : Hub) : Nat := h.boot.tunSize - tunDataOff

/-- Free bytes of the data area. -/
def Hub.tunFree (h : Hub) : Nat := h.dmp.rd + h.tunData - h.dmp.wr

/-- HBM offset of a position (R326). -/
def Hub.tunAddr (h : Hub) (pos : Nat) : Nat := h.boot.tunBase + tunDataOff + (if h.tunData = 0 then 0 else pos % h.tunData)

/-- A record header (Table 10.5). -/
def tunHeader (type cls slice flags object chunk inOff len inLen : Nat) : List Byte :=
  leBytes 4 0x43455254 ++ leBytes 1 type ++ leBytes 1 cls ++ leBytes 1 slice ++ leBytes 1 flags ++ leBytes 4 object ++ leBytes 4 chunk
    ++ leBytes 8 inOff ++ leBytes 4 len ++ leBytes 4 inLen

/-- Bytes of the filler that must precede a record of `len` bytes. -/
def Hub.tunGap (h : Hub) (len : Nat) : Nat :=
  let n := h.tunData
  if n ≠ 0 ∧ n < h.dmp.wr % n + len then n - h.dmp.wr % n else 0

/-- A record of `len` bytes fits, with the filler before it. -/
def Hub.tunFits (h : Hub) (len : Nat) : Bool := decide (h.tunGap len + len ≤ h.tunFree)

/-- DMP_TUN_DONE advances across each run of completed records. -/
def tunAdvance : Nat → List TunRec → Nat × List TunRec
  | d, [] => (d, [])
  | d, r :: l => if r.done then tunAdvance (r.pos + r.len) l else (d, r :: l)

/-- Bring DMP_TUN_DONE up to date. -/
def Hub.tunSettle (h : Hub) : Hub :=
  let (d, l) := tunAdvance h.dmp.done h.dmp.recs
  { h with dmp := { h.dmp with done := d, recs := l } }

/-- Vector 7: the free space has fallen below HUB_IRQ_TUNLOW MiB (Table 16.2). -/
def Hub.tunLow (h : Hub) (before : Nat) : Hub :=
  let low := h.rwGet 0x40 0x208 0 * 0x100000
  if low ≤ before ∧ h.tunFree < low then h.irqRaise 7 else h

/-- Write a filler record of `gap` bytes (R326). -/
def Hub.tunFiller (h : Hub) (gap : Nat) : Hub :=
  if gap = 0 then h
  else
    let w := h.dmp.wr
    let f := tunHeader 4 0 255 0 0 0 0 gap 0
    let h := h.hbmWrite (h.tunAddr w) f
    { h with dmp := { h.dmp with wr := w + gap, recs := h.dmp.recs ++ [(⟨w, gap, f, true, false⟩ : TunRec)] } }

/-- Reserve a record: a filler first where it would cross the end of the area. The record's position is `wr - len` afterwards. -/
def Hub.tunReserve (h : Hub) (len : Nat) (hdr : List Byte) (manifest : Bool) : Hub :=
  let before := h.tunFree
  let h := h.tunFiller (h.tunGap len)
  let p := h.dmp.wr
  let h := { h with dmp := { h.dmp with wr := p + len, recs := h.dmp.recs ++ [(⟨p, len, hdr, false, manifest⟩ : TunRec)] } }
  h.tunLow before

/-- Position of the record reserved last. -/
def Hub.tunLast (h : Hub) (len : Nat) : Nat := h.dmp.wr - len

/-- Write a record's body; its header follows once the writes are acknowledged (TUN_RECORD_COMPLETE). -/
def Hub.tunBody (h : Hub) (pos : Nat) (b : List Byte) : Hub := h.hbmWrite (h.tunAddr pos + 32) b

/-- A chunk record: reserved, its body sealed under the key, if there is one, and written; its header follows the body (R322, R326). Returns its
position and length. -/
def Hub.chunkRecord (h : Hub) (key : List Byte) (cls slice flags object chunk inOff inLen : Nat) (plain : List Byte) : Nat × Nat × Hub :=
  let tag := if key.isEmpty then 0 else 16
  let len := roundUp 64 (32 + plain.length + tag)
  let hdr := tunHeader 3 cls slice (flags + b2n (!key.isEmpty)) object chunk inOff len inLen
  let iv := leBytes 4 object ++ leBytes 4 chunk ++ leBytes 1 cls ++ leBytes 1 slice ++ [0x44, 0x4D]
  let body := if key.isEmpty then plain else padTo (plain.length + 16) (Config.aesGcm key iv hdr plain)
  let h := h.tunReserve len hdr false
  let pos := h.tunLast len
  (pos, len, h.tunBody pos (padTo (len - 32) body))

/-- TUN_RECORD_COMPLETE: the oldest record whose header is to be written is complete (R326). -/
def Hub.tunComplete (h : Hub) : Hub :=
  if !h.nocUp then h
  else
    match firstIdx (fun r => !r.done && !r.manifest) h.dmp.recs with
    | none => h
    | some i =>
      let r := h.dmp.recs.getD i default
      let h := h.hbmWrite (h.tunAddr r.pos) r.hdr
      let cur := h.dmp.cur.map fun d => { d with endTick := h.now }
      ({ h with dmp := { h.dmp with cur := cur, recs := modAt h.dmp.recs i fun r => { r with done := true } } }).tunSettle

/-- A consumer's write of DMP_TUN_RD (R327). -/
def Hub.tunRdWrite (h : Hub) (v : Nat) : Hub :=
  if h.dmp.rd ≤ v ∧ v ≤ h.dmp.done then { h with dmp := { h.dmp with rd := v } } else h

/-- Bytes of the Tun header (R325). -/
def Hub.tunHeaderBytes (h : Hub) : List Byte :=
  padTo 0x80 (leBytes 4 0x334E5554 ++ leBytes 2 1 ++ zeros 2 ++ leBytes 8 h.boot.tunSize ++ leBytes 8 0x200000 ++ leBytes 8 0x2000000
    ++ leBytes 8 tunDataOff ++ leBytes 8 h.tunData ++ padTo 16 h.boot.dieId ++ leBytes 8 h.now)

/-- A directory entry of 48 bytes (R325). -/
def DirEnt.image (d : DirEnt) : List Byte :=
  leBytes 4 d.object ++ leBytes 1 d.typ ++ leBytes 1 d.flags ++ leBytes 2 d.status ++ leBytes 8 d.pos ++ leBytes 8 d.bytes
    ++ leBytes 8 d.endTick ++ leBytes 8 d.rawTotal ++ leBytes 8 d.rawWritten

/-- Write a directory entry at index dir_next mod 64. -/
def Hub.tunDirectory (h : Hub) (d : DirEnt) : Hub :=
  let i := h.dmp.dirNext % 64
  let h := h.hbmWrite (h.boot.tunBase + 0x80 + 48 * i) d.image
  let n := h.dmp.dirNext + 1
  let c := Nat.min 64 (h.dmp.dirCount + 1)
  let h := { h with dmp := { h.dmp with dirNext := n % 2 ^ 32, dirCount := c } }
  h.hbmWrite (h.boot.tunBase + 0x48) (leBytes 4 c ++ leBytes 4 n)

/-- The next object ID (R317). -/
def Hub.newObject (h : Hub) : Nat × Hub :=
  let o := if h.dmp.object = 0xFFFFFFFF then 1 else h.dmp.object + 1
  (o, { h with dmp := { h.dmp with object := o } })

end Sys2Proof.Machine
end

