-- ==== Sys2Proof/Machine/Contexts.lean ====
section
/-!
DEFINITION. Machine/Contexts.lean: wait edges (R293 to R295), fences (R42 to R47, R437, R447), contexts and commands (R33 to R38, R287),
watch matches and held completions (R338, R339), and remote memory operations at their issuing unit.
-/
namespace Sys2Proof.Machine

/-! ## Wait edges -/

/-- Rank of a stall condition that began in the same tick (R294): fence, address, credit. -/
def Stall.before (a b : Stall) : Bool := decide (a.since < b.since) || (decide (a.since = b.since) && decide (a.edge.kind < b.edge.kind))

/-- Insert a stall condition in the order of R294. -/
def addStall (x : Stall) : List Stall → List Stall
  | [] => [x]
  | y :: r => if x.before y then x :: y :: r else y :: addStall x r

/-- Change the stall conditions of a unit, keeping what a read of this hub cycle sees (R295). -/
def Hub.updWait (h : Hub) (u : Nat) (f : List Stall → List Stall) : Hub :=
  h.updStn (unitStn u) fun t =>
    let k := unitSub u
    let w := SMap.get [] t.wait k
    let first := SMap.get 0 t.waitCyc k != h.clk.cycle + 1
    { t with wait := SMap.set [] t.wait k (f w), waitCyc := SMap.set 0 t.waitCyc k (h.clk.cycle + 1),
             waitOld := if first then SMap.set [] t.waitOld k w else t.waitOld }

/-- A unit stalls on a condition (R293). -/
def Hub.stallOn_ (h : Hub) (u ctx : Nat) (e : Edge) : Hub :=
  h.updWait u (addStall ⟨e, ctx, h.ctxSlice ctx, h.stnTick (unitStn u)⟩)

/-- A stall condition of a unit ends: the first that `p` names (R294). -/
def Hub.stallOff (h : Hub) (u : Nat) (p : Stall → Bool) : Hub :=
  match firstIdx p (SMap.get [] (h.getStn (unitStn u)).wait (unitSub u)) with
  | none => h
  | some i => h.updWait u fun l => eraseAt l i

/-- Kinds of stall a unit's class may hold (Table 09.2). -/
def edgeAllowed (u : Nat) (e : Edge) : Bool :=
  unitOk u && (decide (e.kind = 3) || (decide (e.kind = 1 ∨ e.kind = 2) && (isTileUnit u || decide (unitClass u = 7))))

/-- UNIT_STALL (R293). -/
def Hub.unitStall (h : Hub) (u ctx : Nat) (e : Edge) : Hub := if h.unitRuns u && edgeAllowed u e then h.stallOn_ u ctx e else h

/-- CREDIT_RETURN (R294): the credit stall ends; a condition that still stalls the unit takes its place. -/
def Hub.creditReturn (h : Hub) (u : Nat) (next : Option Edge) : Hub :=
  if !h.unitRuns u then h
  else
    let w := SMap.get [] (h.getStn (unitStn u)).wait (unitSub u)
    match w.find? fun x => x.edge.kind == 3 with
    | none => h
    | some x =>
      let h := h.stallOff u fun x => x.edge.kind == 3
      match next with
      | some e => if edgeAllowed u e && !(w.any fun y => y.edge == e && y != x) then h.stallOn_ u x.context e else h
      | none => h

/-! ## Fences -/

def Hub.getFence (h : Hub) (id : Nat) : Fence := SMap.get {} h.fence id
def Hub.updFence (h : Hub) (id : Nat) (f : Fence → Fence) : Hub := { h with fence := SMap.upd {} h.fence id f }

/-- Slice to which an export index is allocated. -/
def Hub.exportSlice (h : Hub) (i : Nat) : Option Nat :=
  match SMap.get 0 h.slc.exports i with
  | 0 => none
  | n + 1 => some n

/-- Slice of a fence: that of its owner unit, or the one its index is allocated to; none where the index is not allocated. -/
def Hub.fenceSlice (h : Hub) (id : Nat) : Option Nat :=
  if fenceExported id then h.exportSlice (fenceIndex id) else some (h.unitSlice (fenceOwner id))

/-- A wait for `w` is satisfied (R44). -/
def Fence.satisfies (f : Fence) (w : Nat) : Bool :=
  decide (f.st = .signalled) && decide ((f.value + 2 ^ 64 - w % 2 ^ 64) % 2 ^ 64 < 2 ^ 63)

/-- A FENCE event at a unit (Table 05.1). -/
def Hub.fenceEv (h : Hub) (u ctx slice mode ev : Nat) (err : Bool) (ref : FenceRef) (value : Nat) (ferr forder : Bool) : Hub :=
  h.observeU { feed := 5, unit := u, slice := slice, mode := mode, pk := some (.fence ev err mode ref.pkg ref.id ctx value),
               ferr := ferr, forder := forder }

/-- A fence-wait completes at its unit: with its value, or with ST_LOST (R44, R47). -/
def Hub.waitDone (h : Hub) (w : Waiter) (ref : FenceRef) (value : Nat) (lost : Bool) : Hub :=
  let h := h.stallOff w.unit fun x => x.edge.kind == 1 && x.edge.pkg == ref.pkg && x.edge.obj == ref.id
  let h := h.answer w.unit w.context 0 (if lost then stLost else stOk)
  h.fenceEv w.unit w.context (h.ctxSlice w.context) w.mode 2 lost ref value lost false

/-- A waiter is woken; one whose unit sleeps or is frozen completes when the unit runs again (R51, R295). -/
def Hub.wake (h : Hub) (w : Waiter) (ref : FenceRef) (value : Nat) (lost : Bool) : Hub :=
  if !unitOk w.unit then h
  else if h.unitRuns w.unit then h.waitDone w ref value lost
  else h.updStn (unitStn w.unit) fun t => { t with thaw := t.thaw ++ [⟨unitSub w.unit, w, ref, value, lost⟩] }

/-- The waits of a unit that were satisfied while it could not run complete. -/
def Hub.thawUnit (h : Hub) (u : Nat) : Hub :=
  if !h.unitRuns u then h
  else
    let s := unitStn u
    let l := (h.getStn s).thaw.filter fun x => x.sub == unitSub u
    let h := if l.isEmpty then h else h.updStn s fun t => { t with thaw := t.thaw.filter fun x => x.sub != unitSub u }
    l.foldl (fun h x => h.waitDone x.waiter x.fence x.value x.lost) h

/-- The waits of every unit that runs again by the end of the hub cycle, a unit that waited for Peck space among them (R185). -/
def Hub.resumeWaits (h : Hub) : Hub :=
  (h.stn.filter fun e => !e.2.thaw.isEmpty).foldl (fun h e => (List.range 8).foldl (fun h k => h.thawUnit (e.1 * 8 + k)) h) h

/-- A reference to a fence of this package. -/
def Hub.localRef (h : Hub) (id : Nat) : FenceRef := ⟨h.pkg, id⟩

/-- The fence as the signals of this hub cycle compare with it (R46). -/
def Hub.fenceBase (h : Hub) (f : Fence) : Fence :=
  if f.cyc = h.clk.cycle + 1 then f else { f with base := f.value, baseSt := f.st, cyc := h.clk.cycle + 1 }

/-- Number of the owner in the records of R447: the unit, or the die. -/
def orderOwner (id : Nat) : Nat := if fenceExported id then noUnit else fenceOwner id

/-- A fence-order event (R447): the FENCE packet and triggers of the owner unit, and a record for the first of an owner in an epoch. -/
def Hub.orderEvent (h : Hub) (id value mode : Nat) (ctx : Option Nat) (slice : Nat) : Hub :=
  let owner := orderOwner id
  let f := h.getFence id
  let h := if fenceExported id then h else h.fenceEv owner (ctx.getD 0) slice mode 3 false (h.localRef id) value false true
  if SMap.get 0 h.slc.forder owner = h.clk.epoch + 1 then h.rcAdd 0xB0038 0 0 65535 1
  else
    ({ h with slc := { h.slc with forder := SMap.set 0 h.slc.forder owner (h.clk.epoch + 1) } }).record
      { h.evt 3 0x0303 with unit := owner, ctx := ctx, slice := slice, arg := value, words := [id + at_ h.pkg 32, f.base] }

/-- Wake the waiters a fence satisfies. -/
def Hub.wakeAll (h : Hub) (id : Nat) : Hub :=
  let f := h.getFence id
  let l := f.waiters.filter fun w => f.satisfies w.value
  let h := h.updFence id fun f => { f with waiters := f.waiters.filter fun w => !f.satisfies w.value }
  l.foldl (fun h w => h.wake w (h.localRef id) f.value false) h

/-- A signal of `value` reaches a fence of this package (Table 01.9, R46); true where it is applied. -/
def Hub.fenceApply (h : Hub) (id value mode : Nat) (ctx : Option Nat) (slice : Nat) : Bool × Hub :=
  let f := h.fenceBase (h.getFence id)
  if f.st = .error then (false, h)
  else if ahead64 value f.base then
    let further := f.value = f.base || ahead64 value f.value
    let h := h.updFence id fun _ => { f with st := .signalled, value := if further then value % 2 ^ 64 else f.value }
    let h := if fenceExported id then h else h.fenceEv (fenceOwner id) (ctx.getD 0) slice mode 0 false (h.localRef id) value false false
    (true, h.wakeAll id)
  else
    let h := h.updFence id fun _ => f
    if f.baseSt = .signalled ∧ value % 2 ^ 64 = f.base then (false, h)
    else (false, h.orderEvent id value mode ctx slice)

/-- An error signal reaches a fence of this package (Table 01.9): the value of before this hub cycle is kept (R46), every waiter wakes with
ST_LOST. -/
def Hub.fenceErr (h : Hub) (id mode : Nat) (ctx : Option Nat) (slice : Nat) : Hub :=
  let f := h.fenceBase (h.getFence id)
  if f.st = .error then h
  else
    let l := f.waiters
    let h := h.updFence id fun _ => { f with st := .error, value := f.base, waiters := [] }
    let h := if fenceExported id then h else h.fenceEv (fenceOwner id) (ctx.getD 0) slice mode 0 true (h.localRef id) f.base true false
    l.foldl (fun h w => h.wake w (h.localRef id) f.base true) h

/-- Whether a signal of a context may reach a fence of this package (R42, R437): its slice is the fence's; a signal from another package
may reach an exported fence only. -/
def Hub.maySignal (h : Hub) (id : Nat) (slice : Option Nat) : Bool :=
  fenceIdOk id && (match h.fenceSlice id, slice with
    | some a, some b => decide (a = b)
    | some _, none => fenceExported id
    | none, _ => false)

/-- Why a signal that names a fence of this package is turned away: a malformed ID (R43), an export index that is not allocated, a context of
another slice than an exported fence's (R437). -/
def Hub.signalStatus (h : Hub) (id : Nat) : Nat :=
  if !fenceIdOk id || (h.fenceSlice id).isNone then stBadfence else stDenied

/-- A signal on behalf of a local context of slice `slice`: applied here, or sent away with its operation where the fence is of another package.
Progress follows an applied signal (R287), unless the signal is of a command whose context is gone. -/
def Hub.ctxSignal (h : Hub) (ctx slice unit tag : Nat) (gone : Bool) (ref : FenceRef) (value mode : Nat) : Hub :=
  if ref.pkg ≠ h.pkg then h
  else if !h.maySignal ref.id (some slice) then h.answer unit ctx tag (h.signalStatus ref.id)
  else
    let (ok, h) := h.fenceApply ref.id value mode (some ctx) slice
    if ok && !gone then (h.progress ctx 1).grainRestart unit ctx else h

/-- An error signal on behalf of a local context. -/
def Hub.ctxSignalErr (h : Hub) (ctx slice unit tag : Nat) (ref : FenceRef) (mode : Nat) : Hub :=
  if ref.pkg ≠ h.pkg then h
  else if !h.maySignal ref.id (some slice) then h.answer unit ctx tag (h.signalStatus ref.id)
  else h.fenceErr ref.id mode (some ctx) slice

/-- FENCE_SIGNAL (R45): a signal reaches a fence; `unit` is no unit of this package where it comes from another package. A unit whose clock or power is
off signals nothing (R51). -/
def Hub.fenceSignal (h : Hub) (unit ctx : Nat) (ref : FenceRef) (value mode : Nat) : Hub :=
  if !h.boot.units then h
  else if unitOk unit then
    if h.unitRuns unit then h.ctxSignal ctx (h.ctxSlice ctx) unit (((h.getGrain unit).cmd.map Prod.snd).getD 0) false ref value mode else h
  else if ref.pkg ≠ h.pkg then h
  else if !h.maySignal ref.id none then h.answer unit ctx 0 (h.signalStatus ref.id)
  else (h.fenceApply ref.id value mode none ((h.fenceSlice ref.id).getD 0)).2

/-- FENCE_ERROR_SIGNAL (R45, R51). -/
def Hub.fenceErrorSignal (h : Hub) (unit ctx : Nat) (ref : FenceRef) (mode : Nat) : Hub :=
  if !h.boot.units then h
  else if unitOk unit then
    if h.unitRuns unit then h.ctxSignalErr ctx (h.ctxSlice ctx) unit (((h.getGrain unit).cmd.map Prod.snd).getD 0) ref mode else h
  else if ref.pkg ≠ h.pkg then h
  else if !h.maySignal ref.id none then h.answer unit ctx 0 (h.signalStatus ref.id)
  else h.fenceErr ref.id mode none ((h.fenceSlice ref.id).getD 0)

/-- FENCE_WAIT (R44, R47): completes, or blocks with the wait edge of its unit. A wait from another package names no unit of this one. A wait on a malformed
ID or an unallocated index completes with ST_BADFENCE (R43, R437). -/
def Hub.fenceWait (h : Hub) (unit ctx : Nat) (ref : FenceRef) (value mode : Nat) : Hub :=
  let here := unitOk unit
  let w : Waiter := ⟨unit, ctx, value % 2 ^ 64, mode⟩
  let slice := h.ctxSlice ctx
  let edge : Edge := ⟨1, 0, ref.pkg, noUnit, ref.id, value % 2 ^ 64⟩
  let block := fun (h : Hub) =>
    if here then (h.stallOn_ unit ctx edge).fenceEv unit ctx slice mode 1 false ref (value % 2 ^ 64) false false else h
  if here ∧ (!h.unitRuns unit ∨ !edgeAllowed unit edge) then h
  else if !here ∧ (!h.boot.units ∨ ref.pkg ≠ h.pkg) then h
  else if ref.pkg ≠ h.pkg then block h
  else if !fenceIdOk ref.id ∨ (h.fenceSlice ref.id).isNone then
    let h := h.answer unit ctx 0 stBadfence
    if here then
      let (v, h) := h.drawFree
      h.fenceEv unit ctx slice mode 2 false ref v false false
    else h
  else if !fenceExported ref.id ∧ (!here ∨ h.fenceSlice ref.id ≠ some slice) then h
  else
    let f := h.getFence ref.id
    if f.st = .error then (if here then h.waitDone w ref f.value true else h)
    else if f.satisfies w.value then (if here then h.waitDone w ref f.value false else h)
    else block (h.updFence ref.id fun f => { f with waiters := f.waiters ++ [w] })

/-- FENCE_REARM (Table 01.9): the owner unit re-arms a fence in ERROR. -/
def Hub.fenceRearm (h : Hub) (unit : Nat) (ref : FenceRef) : Hub :=
  if ref.pkg = h.pkg ∧ fenceIdOk ref.id ∧ !fenceExported ref.id ∧ fenceOwner ref.id = unit ∧ h.unitRuns unit
      ∧ (h.getFence ref.id).st = .error then
    h.updFence ref.id fun f => { f with st := .unsignalled, value := 0, base := 0, baseSt := .unsignalled, cyc := h.clk.cycle + 1 }
  else h

/-! ## Commands -/

/-- A CMD event at a unit (Table 05.1). -/
def Hub.cmdEv (h : Hub) (c ev st : Nat) (x : Cmd) : Hub :=
  h.observeU { feed := 4, unit := x.unit, slice := x.slice, mode := x.mode, pk := some (.cmd ev x.mode c x.tag st),
               start := if ev = 1 then some x.tag else none }

/-- COMMAND_SUBMIT (Table 01.5, R26): queued in an ACTIVE context; refused with ST_NOCONTEXT or ST_LOST otherwise. -/
def Hub.submit (h : Hub) (c unit tag : Nat) (signal : Option FenceRef) (value mode : Nat) : Hub :=
  let x := h.getCtx c
  if x.st = .free then h.answer unit c tag stNocontext
  else if x.st = .lost then h.answer unit c tag stLost
  else if !unitOk unit then h.answer unit c tag stNounit
  else if !isTileUnit unit ∨ h.unitSlice unit ≠ x.slice then h
  else
    let cmd : Cmd := { unit := unit, tag := tag, signal := signal, value := value, mode := mode, submitTick := h.now, slice := x.slice }
    (h.updCtx c fun x => { x with cmds := x.cmds ++ [cmd] }).cmdEv c 0 0 cmd

/-- A unit may start a command: it runs, none is in progress at it, and no completion of it is held or step exhausted (R33, R338, R269). -/
def Hub.mayStart (h : Hub) (u : Nat) : Bool :=
  h.unitRuns u && (h.getGrain u).cmd.isNone && !((h.getGate u).st == .step && (h.getGate u).cmds && (h.getGate u).left == 0)

/-- COMMAND_START: the context's oldest queued command starts at its unit (R33, R224, R287). -/
def Hub.start (h : Hub) (c : Nat) : Hub :=
  match firstIdx (fun x => !x.started) (h.getCtx c).cmds with
  | none => h
  | some i =>
    let x := (h.getCtx c).cmds.getD i default
    if (h.getCtx c).st ≠ .active ∨ !h.mayStart x.unit ∨ h.unitSlice x.unit ≠ h.ctxSlice c then h
    else
      let y := { x with started := true, startTick := h.stnTick (unitStn x.unit) }
      let h := h.updCtx c fun k => { k with cmds := setAt k.cmds i y }
      (((h.grainStart x.unit c x.tag).cmdEv c 1 0 y).progress c 1)

/-- A command has completed: its unit is free, its completion signal goes out, progress advances (R37, R287). -/
def Hub.finishCmd (h : Hub) (c i : Nat) : Hub :=
  match (h.getCtx c).cmds[i]? with
  | none => h
  | some x =>
    let h := h.updCtx c fun k => { k with cmds := eraseAt k.cmds i }
    let h := (h.grainEnd x.unit).grainAdd x.unit 6 1
    let g := h.getGate x.unit
    let h := if g.st == .step && g.cmds then
        h.updStn (unitStn x.unit) fun t => { t with gate := SMap.upd {} t.gate (unitSub x.unit) fun g => { g with left := g.left - 1 } }
      else h
    let status := if x.lost then stLost else x.status
    let h := (h.cmdEv c 2 status x).answer x.unit c x.tag status
    let h := if x.gone then h else h.progress c 1
    match x.signal with
    | some ref =>
      if x.lost then h.ctxSignalErr c x.slice x.unit x.tag ref x.mode else h.ctxSignal c x.slice x.unit x.tag x.gone ref x.value x.mode
    | none => h

/-! ## Watches at a completion (R338, R339) -/

/-- Registers of watch slot `w` (R353). -/
def wOff (w o : Nat) : Nat := 0x42000 + 0x40 * w + o
def Hub.wReg (h : Hub) (w o : Nat) : Nat := h.act (if o = 0x10 then 1 else if o = 0x14 then 0x100 else 0) (wOff w o)
def Hub.getWatch (h : Hub) (w : Nat) : Watch := SMap.get {} h.dmp.w w
def Hub.updWatch (h : Hub) (w : Nat) (f : Watch → Watch) : Hub := { h with dmp := { h.dmp with w := SMap.upd {} h.dmp.w w f } }
def Hub.dmpSpol (h : Hub) (s : Nat) : Nat := h.act 0 (0x40100 + 4 * s)

/-- Bytes and elements of an element group (Table 10.16). -/
def fmtGroup (f : Nat) : Nat := match f with | 0 => 1 | 1 | 2 => 3 | 3 | 4 => 1 | 5 | 6 => 2 | _ => 4

/-- A slot's active values meet R337. -/
def Hub.watchOk (h : Hub) (w : Nat) : Bool :=
  let ctl := h.wReg w 0
  decide (field ctl 25 24 ≠ 3) && decide (addrPkg (h.wReg w 0x18) = h.pkg) && decide (h.wReg w 0x20 ≠ 0)
    && decide (h.wReg w 0x20 % fmtGroup (field ctl 28 26) = 0)

/-- The firing of a slot with the values in effect (R338, R344). -/
def Hub.firingOf (h : Hub) (w c : Nat) (x : Cmd) : Firing :=
  let ctl := h.wReg w 0
  let hist := h.wReg w 0x14
  { slot := w, slice := w / 2, kind := Nat.min 2 (field ctl 30 29), format := field ctl 28 26, level := field ctl 25 24,
    name := h.wReg w 4, addr := h.wReg w 0x18,
    len := h.wReg w 0x20, base := hist % 256, width := field hist 15 8, occurrence := (h.getWatch w).firings + 1, context := c, tag := x.tag,
    unit := x.unit, fireTick := h.now, holdEnd := h.now + ctl % 65536 * 100000, held := decide (ctl % 65536 ≠ 0),
    again := field ctl 23 16 }

/-- Entries of the firing FIFO. -/
def watchFifo : Nat := 16

/-- The slot acts: its policy and its enable are set, and its values meet R337. -/
def Hub.watchActs (h : Hub) (w : Nat) : Bool := bit (h.dmpSpol (w / 2)) 30 && bit (h.wReg w 0) 31 && h.watchOk w

/-- The state of a slot whose firing has ended: it fires again at its repeat field's count, or is spent (Table 10.17). -/
def Watch.after (again : Nat) (s : Watch) : Watch :=
  if again = 0 then { s with st := .spent, count := 0 } else { s with st := .armed, count := 0, occ := again }

/-- One slot takes the completion of a command at a tile unit; true where it holds the completion (R338, Table 10.17). A slot that acts but is not ARMED, OFF
after a cancel too, counts the match as skipped (log entry 53). A firing during a warm restart ends at once with ST_BUSY (Table 03.13; log entry 89). -/
def Hub.watchMatch (h : Hub) (w c : Nat) (x : Cmd) : Bool × Hub :=
  let s := h.getWatch w
  if !isTileUnit x.unit || !h.watchActs w || (x.tag &&& h.wReg w 0xC) != (h.wReg w 8 &&& h.wReg w 0xC) then (false, h)
  else if s.st ≠ .armed then (false, h.rcAdd (wOff w 0x2C) 0 16 65535 1)
  else if s.count + 1 < s.occ then (false, h.updWatch w fun s => { s with count := s.count + 1 })
  else if h.rst.st ≠ 0 then
    let again := field (h.wReg w 0) 23 16
    (false, (h.updWatch w fun s => { s.after again with status := stBusy, fired := satAdd 65535 s.fired 1, firings := s.firings + 1 }).irqRaise 6)
  else if watchFifo ≤ h.dmp.fires.length then (false, h.rcAdd (wOff w 0x2C) 0 16 65535 1)
  else
    let f := h.firingOf w c x
    let h := h.updWatch w fun s => { s with st := .queued, count := s.count + 1, fired := satAdd 65535 s.fired 1, firings := s.firings + 1, done := 0 }
    (f.held, { h with dmp := { h.dmp with fires := h.dmp.fires ++ [f] } })

/-- COMMAND_COMPLETE: a started command of the context completes at its unit, unless a watch holds the completion (R37, R338). -/
def Hub.complete (h : Hub) (c unit status : Nat) : Hub :=
  match firstIdx (fun x => x.started && x.unit == unit && x.held.isEmpty) (h.getCtx c).cmds with
  | none => h
  | some i =>
    if !h.unitRuns unit then h
    else
      let x := (h.getCtx c).cmds.getD i default
      let s := x.slice
      let (a, h) := h.watchMatch (2 * s) c x
      let (b, h) := h.watchMatch (2 * s + 1) c x
      let held := (if a then [2 * s] else []) ++ if b then [2 * s + 1] else []
      let h := h.updCtx c fun k => { k with cmds := setAt k.cmds i { x with held := held, status := status } }
      if held.isEmpty then h.finishCmd c i else h

/-- A slot releases the completion it holds (R338). -/
def Hub.releaseHeld (h : Hub) (w : Nat) : Hub :=
  match firstIdx (fun f => f.slot == w && f.held) h.dmp.fires with
  | none => h
  | some k =>
    let f := h.dmp.fires.getD k default
    let h := { h with dmp := { h.dmp with fires := setAt h.dmp.fires k { f with held := false, releaseTick := h.now } } }
    match firstIdx (fun x => x.held.contains w) (h.getCtx f.context).cmds with
    | none => h
    | some i =>
      let h := h.updCtx f.context fun c => { c with cmds := modAt c.cmds i fun x => { x with held := x.held.filter (· != w) } }
      if ((h.getCtx f.context).cmds.getD i default).held.isEmpty then h.finishCmd f.context i else h

/-- The dump engine gives up the jobs that `p` picks; the banks in which they run are IDLE. -/
def Hub.dropJobs (h : Hub) (p : Job → Bool) : Hub :=
  let bank := (h.dmp.jobs.filter fun j => p j && j.ended.isNone).foldl (fun m j => SMap.upd {} m j.bank fun b => { b with busy := false, block := 0 }) h.ce.bank
  { h with dmp := { h.dmp with jobs := h.dmp.jobs.filter fun j => !p j }, ce := { h.ce with bank := bank } }

/-- Body of a watch header record (R340). -/
def Firing.header (f : Firing) (status : Nat) : List Byte :=
  padTo 224 (leBytes 4 f.object ++ leBytes 1 f.slot ++ leBytes 1 f.kind ++ leBytes 2 status ++ leBytes 4 f.name ++ leBytes 4 f.occurrence
    ++ leBytes 4 f.context ++ leBytes 4 f.tag ++ leBytes 8 f.len ++ leBytes 8 f.read ++ leBytes 8 f.fireTick ++ leBytes 8 f.releaseTick)

/-- A summary record's body (Table 10.18). -/
def Firing.summary (f : Firing) : List Byte :=
  let (lo, hi, ab) := f.ext.getD (0x7FC00000, 0x7FC00000, 0x7FC00000)
  leBytes 4 0x4D55534E ++ leBytes 1 f.slot ++ leBytes 1 f.format ++ leBytes 2 (b2n (decide (f.read < f.len)) + 2 * b2n f.late) ++ leBytes 4 f.name
    ++ leBytes 4 f.occurrence ++ leBytes 4 (f.context + at_ f.slice 18) ++ leBytes 4 f.tag ++ leBytes 1 f.base ++ leBytes 1 f.width ++ zeros 6
    ++ leBytes 8 f.fireTick ++ leBytes 8 f.elements ++ leBytes 4 lo ++ leBytes 4 hi ++ leBytes 4 ab ++ zeros 4 ++ leBytes 8 f.nan
    ++ leBytes 8 f.inf ++ leBytes 8 f.zero ++ zeros 8 ++ (List.range 16).flatMap fun b => leBytes 6 (SMap.get 0 f.hist b)

/-- Bytes of a firing's summary record. -/
def Firing.summaryLen (f : Firing) : Nat := roundUp 64 (32 + 192 + if f.key.isEmpty then 0 else 16)

/-- The summary of a firing that ends, as one class-10 chunk record (R341); none where the Tun cannot take it, as for a firing that is cut short. -/
def Hub.watchSummary (h : Hub) (f : Firing) : Firing × Hub :=
  if f.kind = 0 ∨ !h.nocUp ∨ !h.tunFits f.summaryLen ∨ h.tunData = 0 then (f, h)
  else
    let (_, n, h) := h.chunkRecord f.key 10 f.slice 2 f.object f.chunk 0 f.read f.summary
    ({ f with chunk := f.chunk + 1, out := f.out + n }, h)

/-- Rewrite a firing's header and write its directory entry (R340): at its end, or at a partial stop. -/
def Hub.watchNote (h : Hub) (f : Firing) (status flags : Nat) : Hub :=
  if !h.nocUp then h
  else
  let h := if h.dmp.rd ≤ f.pos then h.tunBody f.pos (f.header status) else h
  h.tunDirectory { object := f.object, typ := 2, flags := flags, status := status, pos := f.pos, bytes := f.out, endTick := h.now,
                   rawTotal := f.len, rawWritten := f.read }

/-- A firing ends: its completion is released, its summary, header and directory entry are written, its slot's state and status change, vector 6 and record
0x0602 follow (R340, R341, Table 10.17, Table 16.2). A firing that was never served has no object and no records. -/
def Hub.watchEnd (h : Hub) (w : Nat) (st : WSt) (status : Nat) : Hub :=
  let h := h.releaseHeld w
  let h := match h.dmp.fires.find? fun f => f.slot == w with
    | none => h
    | some f =>
      let h := if decide ((h.dmp.fires.headD default).slot = w) then h.dropJobs (·.watch) else h
      let h := { h with dmp := { h.dmp with fires := h.dmp.fires.filter fun f => f.slot != w } }
      if f.object = 0 then h.irqRaise 6
      else
        let (f, h) := h.watchSummary f
        ((h.watchNote f status (b2n (decide (status = stOk)) + 2 * b2n (decide (status ≠ stOk)))).irqRaise 6).record
          { h.evt 6 0x0602 with slice := f.slice, unit := f.unit, status := status, aux := w, arg := f.object,
                                words := [f.read] }
  h.updWatch w fun s => { s with st := st, status := status, count := 0 }

/-! ## Contexts -/

/-- A context enters LOST (R37): its queued commands are discarded and complete with ST_LOST, and their fences are error-signalled; watch
slots that fired for it are spent. Returns how many commands were discarded. -/
def Hub.enterLost (h : Hub) (c : Nat) : Nat × Hub :=
  let q := (h.getCtx c).cmds.filter fun x => !x.started
  let h := h.updCtx c fun k =>
    { k with st := .lost, cmds := (k.cmds.filter (·.started)).map fun x => { x with lost := x.lost || !x.gone }, lostFaults := 0 }
  let h := q.foldl (fun h x =>
    let h := (h.cmdEv c 2 stLost x).answer x.unit c x.tag stLost
    match x.signal with | some ref => h.ctxSignalErr c x.slice x.unit x.tag ref x.mode | none => h) h
  let ws := (h.dmp.fires.filter fun f => f.context == c).map (·.slot)
  (q.length, ws.foldl (fun h w => h.watchEnd w .spent stAborted) h)

/-- The command of a context that a fault at a unit stops: the one started there, else the oldest that has started, since a command may issue
work on any unit of its slice (R33; log entry 31). -/
def Ctx.faulting (k : Ctx) (unit : Nat) : Option Nat :=
  (firstIdx (fun x => x.started && x.unit == unit && x.held.isEmpty) k.cmds).or (firstIdx (fun x => x.started && x.held.isEmpty) k.cmds)

/-- COMMAND_FAULT (R37, Table 01.5): the faulting command stops and its fence is error-signalled; an ACTIVE context enters LOST, in a LOST one
the fault is counted. A command whose context is gone stops alone. A fault is an event of no feed: the trigger conditions judge it under the policy of
the CMD feed, and no source follows it (DESIGN CHOICE, log entry 67). -/
def Hub.fault (h : Hub) (c unit code addr : Nat) : Hub :=
  let at? := (h.getCtx c).faulting unit
  if !h.unitRuns unit || ((h.getCtx c).st == .free && at?.isNone) then h
  else
    let x := (at?.bind fun i => (h.getCtx c).cmds[i]?).getD { (default : Cmd) with slice := h.ctxSlice c }
    let slice := x.slice
    let first := (h.getCtx c).st == .active && !x.gone
    let counted := (h.getCtx c).st == .lost && !x.gone
    let h := match at? with
      | none => h
      | some i => (h.updCtx c fun k => { k with cmds := eraseAt k.cmds i }).grainEnd x.unit
    let (n, h) := if first then h.enterLost c else (0, if counted then h.updCtx c fun k => { k with lostFaults := k.lostFaults + 1 } else h)
    let h := match x.signal with | some ref => h.ctxSignalErr c slice x.unit x.tag ref x.mode | none => h
    let h := h.observeU { feed := 4, unit := unit, slice := slice, mode := x.mode, fault := true }
    if first then
      h.record { h.evt 3 0x0301 with slice := slice, unit := unit, status := stLost, ctx := some c, aux := x.tag, arg := addr,
                                     tenant := addr != 0, words := [code, n] }
    else h

/-- Destroy of a context (Table 01.5): queued commands complete with ST_ABORTED, the ID is free, its attribution entries wait for their final
records (R244). -/
def Hub.ctxDestroy (h : Hub) (c : Nat) : Hub :=
  let q := (h.getCtx c).cmds.filter fun x => !x.started
  let s := h.ctxSlice c
  let h := q.foldl (fun h x => (h.cmdEv c 2 stAborted x).answer x.unit c x.tag stAborted) h
  let fin := h.cnt.att.any fun e => e.1 / 2 ^ 32 == c
  h.updCtx c fun k => { k with st := .free, cmds := (k.cmds.filter (·.started)).map fun x => { x with gone := true }, slice := s, finals := fin, lostFaults := 0 }

/-- The lowest FREE context ID: the first that the map does not hold in another state. -/
def lowestFree : Nat → List (Nat × Ctx) → Nat
  | n, [] => n
  | n, (c, x) :: r => if n < c then n else if x.st = .free then Nat.min c n else lowestFree (c + 1) r

/-- A context is created with the lowest FREE ID (R36, R436). -/
def Hub.ctxCreate (h : Hub) (s : Nat) : Nat × Hub :=
  let c := lowestFree 0 h.ctx
  let h := h.finalRecords c
  (c, h.updCtx c fun k => { k with st := .active, slice := s, progress := 0, lostFaults := 0 })

/-! ## Remote memory operations -/

/-- A shared engine issues no operation of a transfer whose slice a cut holds (Table 08.3). -/
def Hub.engineHeld (h : Hub) (u ctx : Nat) : Bool := decide (unitClass u = 7) && (h.captures (unitStn u) (h.ctxSlice ctx)).isSome

/-- A shared engine issues no further operation of a transfer whose slice has been reset (R445). -/
def Hub.engineReset (h : Hub) (u ctx tag : Nat) : Bool :=
  h.slc.engine.any fun e => engineUnit e.1 == u && e.2.q.any fun t => t.aborting && t.context == ctx && t.tag == tag

/-- RMO_ISSUE (R157, R293): a unit issues an operation; where it needs the response before it can go on, `edge` is its wait edge. -/
def Hub.rmoIssue (h : Hub) (r : Rmo) (edge : Option Edge) : Hub :=
  if !h.unitRuns r.issuer || h.engineHeld r.issuer r.context || h.engineReset r.issuer r.context r.tag then h
  else
    let h := h.observe { h.rmoEv 2 r.issuer r 0 with addr := some r.addr }
    let h := match unitClass r.issuer with
      | 2 => h.grainAdd r.issuer 4 1
      | 3 => h.grainAdd r.issuer 1 1
      | _ => h
    match edge with
    | some e => if edgeAllowed r.issuer e then h.stallOn_ r.issuer r.context e else h
    | none => h

/-- RMO_COMPLETE (R240, R294): an operation completes at its issuing unit: its bytes are charged if it ends ST_OK, and the stall on it ends. -/
def Hub.rmoComplete (h : Hub) (r : Rmo) (status : Nat) : Hub :=
  if !h.unitRuns r.issuer then h
  else
    let h := if unitClass r.issuer = 3 ∧ status ≠ stOk then h.grainAdd r.issuer 5 1 else h
    let fence := r.op == .fenceSignal || r.op == .fenceWait
    let issuer := isTileUnit r.issuer || decide (unitClass r.issuer = 7)
    let h := if decide (status = stOk) && !fence && issuer then
        h.charge (unitStn r.issuer) r.context r.tag (h.ctxSlice r.context) (rmoCharge r)
      else h
    if r.op = .fenceWait then
      h.waitDone ⟨r.issuer, r.context, r.value, r.mode⟩ ⟨addrPkg r.addr, addrOff r.addr % 2 ^ 32⟩ r.value (status == stLost)
    else h.stallOff r.issuer fun x => x.edge.kind == 2 && x.edge.arg == r.addr

end Sys2Proof.Machine
end

