-- ==== Sys2Proof/Machine/Cut.lean ====
section
/-!
DEFINITION. Machine/Cut.lean: consistent cuts (chapter 08): rights, scheduling, gates, capture of messages in flight, completion, resume, bench
mode and stepping, cuts across packages; and the link and router messages that a cut captures.
-/
namespace Sys2Proof.Machine

/-! ## Small parts -/

/-- The three durations of Table 18.3: least lead, forced stop and completion (R256, R264, R265). -/
def Hub.leastLead (h : Hub) : Nat := if h.clk.onPll then 512 else 5120
def Hub.forceAfter (h : Hub) : Nat := if h.clk.onPll then 3800 else 38000
def Hub.reportAfter (h : Hub) : Nat := if h.clk.onPll then 4000 else 40000

/-- Who asks for a cut (Table 08.1). -/
inductive CutOrigin where
  | matrix
  | hub
  | master (m : Master)
  deriving DecidableEq, Repr

/-- Requester code of record 0x0501. -/
def CutOrigin.code : CutOrigin → Nat
  | .matrix => 0 | .hub => 1 | .master _ => 2

/-- A unit is in a cut's scope (R253, R260). -/
def Hub.inScope (h : Hub) (r : CutRec) (u : Nat) : Bool := r.set.contains (h.unitSlice u) && (isTileUnit u || r.full)

def Hub.updCut (h : Hub) (id : Nat) (f : CutRec → CutRec) : Hub :=
  { h with cut := { h.cut with cuts := h.cut.cuts.map fun r => if r.id = id then f r else r } }

def Hub.updGate (h : Hub) (u : Nat) (f : Gate → Gate) : Hub :=
  h.updStn (unitStn u) fun t => { t with gate := SMap.upd {} t.gate (unitSub u) f }

def Hub.updCutM (h : Hub) (m : Master) (f : CutM → CutM) : Hub :=
  { h with cut := { h.cut with m := SMap.upd {} h.cut.m m.idx f } }

/-- Status of a cut in the registers of the masters that requested or joined it. -/
def Hub.tellMasters (h : Hub) (r : CutRec) (st : Nat) : Hub :=
  r.masters.foldl (fun h m => h.updCutM m fun c => if c.cut = r.id then { c with status := st } else c) h

/-- Units of the die whose gate a cut has set. -/
def Hub.gatesOf (h : Hub) (id : Nat) : List Nat :=
  h.stn.flatMap fun t => (t.2.gate.filter fun g => g.2.st != .run && g.2.cut == id).map fun g => t.1 * 8 + g.1

/-- Trained links, by link number. -/
def Hub.trainedLinks (h : Hub) : List Nat := (List.range 32).filter fun l => (h.getStn (linkStn l)).mark.trained

/-- A hub-to-hub message on a link takes the link's next MSN; the HVC path must be up (R142, R272, R510). -/
def Hub.linkSend (h : Hub) (l : Nat) (b : List Byte) : Hub :=
  if h.nocUp then (h.send l b).stampSent (linkStn l) else h

/-! ## Rights (Table 08.1) -/

/-- Cut policy of a slice (R284). -/
def Hub.cutSpol (h : Hub) (s : Nat) : Nat := h.act 0 (0x31000 + 4 * s)

/-- An origin may cut slice `s`. -/
def Hub.cutAllowed (h : Hub) (o : CutOrigin) (hang : Bool) (s : Nat) : Bool :=
  decide (s = 0) || hang || (match o with | .matrix => bit (h.cutSpol s) 0 | _ => bit (h.cutSpol s) 1)

/-- Slices that exist. -/
def Hub.slices (h : Hub) : List Nat := (List.range 64).filter h.sliceExists

/-! ## Hub-to-hub messages (Table 08.6) -/

/-- An entry of a capture store as a dump carries it (Table 08.4). -/
def Capture.bytes (c : Capture) : List Byte :=
  padTo c.size (leBytes 4 c.size ++ leBytes 1 c.kind ++ leBytes 1 c.flags ++ leBytes 2 c.ports ++ leBytes 8 c.tick ++ leBytes 8 c.addr
    ++ leBytes 4 c.tag ++ leBytes 2 c.unit ++ leBytes 2 c.msn ++ leBytes 2 c.shape ++ leBytes 2 c.data.length
    ++ leBytes 4 (c.context + at_ c.slice 18) ++ leBytes 8 c.value ++ c.data)

/-- A cut message of 64 bytes. -/
def cutMsg (type hops flags id pasid pkg link status tick reporter counts done : Nat) : List Byte :=
  leBytes 1 type ++ leBytes 1 hops ++ leBytes 2 flags ++ leBytes 4 id ++ leBytes 4 pasid ++ leBytes 2 (pkg + at_ link 10) ++ leBytes 2 status
    ++ leBytes 8 tick ++ leBytes 2 reporter ++ zeros 6 ++ leBytes 8 counts ++ leBytes 8 done ++ zeros 16

/-- PASID field of a message for a scope. -/
def Hub.scopePasid (h : Hub) (die : Bool) (s : Nat) : Nat := if die then 0 else (h.getSlice s).pasid % 2 ^ 20

/-- Send a schedule or resume on every trained link but one. -/
def Hub.forward (h : Hub) (but : Option Nat) (type hops flags id pasid tick : Nat) : Hub :=
  ((h.trainedLinks).filter fun l => but != some l).foldl (fun h l =>
    h.linkSend l (cutMsg type hops flags id pasid h.pkg l 0 tick 0 0 0)) h

/-- Remember a cut ID and the link it came on (R270). -/
def remember (l : List (Nat × Nat)) (x : Nat × Nat) : List (Nat × Nat) := (x :: l).take 64

/-- Remember the links over which a schedule was forwarded (R304). -/
def Hub.scheduleSent (h : Hub) (id : Nat) (l : List Nat) : Hub := { h with cut := { h.cut with sentOn := ((id, l) :: h.cut.sentOn).take 64 } }

/-! ## Scheduling (R256 to R258) -/

/-- A tick that a request may name (R256). -/
def Hub.leadOk (h : Hub) (t : Nat) : Bool := decide (h.now + h.leastLead ≤ t) && decide (t ≤ h.now + 1000000000)

/-- The tick of an auto request. -/
def Hub.autoTick (h : Hub) : Nat := h.now + Nat.max (h.rwGet 0x400 0x30054 0 % 2 ^ 20) (if h.clk.fallback then 5120 else 0)

/-- The tick of a cross-package request. -/
def Hub.xTick (h : Hub) : Nat := h.now + Nat.max (h.rwGet 0x3E810000 0x30058 0 % 2 ^ 20) (if h.clk.fallback then 5120 else 0)

/-- The tick that a master has written. -/
def Hub.masterTick (h : Hub) (m : Master) : Nat := h.rwGet 0 0x30004 m.idx

/-- The next serial (R257). -/
def nextSerial (n : Nat) : Nat := if n + 1 < 2 ^ 22 then n + 1 else 1

/-- A cut is accepted: it takes an ID, unless a schedule message gave one, and its schedule goes out (R257, Table 08.5). -/
def Hub.newCut (h : Hub) (o : CutOrigin) (die hang xpkg : Bool) (s t : Nat) (given : Option Nat) : Nat × Hub :=
  let serial := nextSerial h.cut.serial
  let id := given.getD (h.pkg * 2 ^ 22 + serial)
  let excl := if die then h.slices.filter fun x => !h.cutAllowed o hang x else []
  let masters := match o with | .master m => [m] | _ => []
  let r : CutRec := {
    id := id, die := die, slice := s, st := .scheduled, t := t, issued := h.clk.cycle + 1, hang := hang, xpkg := xpkg, origin := o.code,
    set := if die then h.slices.filter fun x => !excl.contains x else [s], excl := excl.foldl (fun a x => a + 2 ^ x) 0,
    masters := masters, toArm := allStations.filter h.observed, bypassed := allStations.filter fun x => !h.observed x }
  let c := h.cut
  let c := { c with cuts := c.cuts ++ [r], serial := if given.isSome then c.serial else serial }
  let c := if given.isSome then c else { c with known := remember c.known (id, 255) }
  let own := xpkg && given.isNone
  let c := if own then { c with xid := id, reported := 0, late := 0, counting := true,
                                xend := t + Nat.max 1 (field (h.rwGet 0x3E810000 0x30058 0) 31 20) * 1000 } else c
  let h := { h with cut := c, hang := { h.hang with reported := if own then [] else h.hang.reported } }
  let h := if own then (h.forward none 0x21 0 (b2n die + 2 * b2n hang) id (h.scopePasid die s) t).scheduleSent id h.trainedLinks else h
  let origin := match o with | .master m => h.originOf m | _ => 0
  let req := { h.evt 5 0x0501 with slice := if die then 255 else s, origin := origin, arg := id, words := [t],
                                   aux := b2n die + 2 * b2n xpkg + 4 * b2n hang + at_ o.code 3 }
  (id, h.record req)

/-- Slices a die cut left out that this origin may cut, each cut on its own (R258); a schedule message from another hub starts no cross-package cut of
this hub's own. -/
def Hub.extraCuts (h : Hub) (o : CutOrigin) (hang xpkg : Bool) (d : CutRec) (t : Nat) : Hub :=
  if !h.leadOk t then h
  else (h.slices.filter fun s => bit d.excl s && h.cutAllowed o hang s && (h.cut.ofSlice s).isNone).foldl
    (fun h s => (h.newCut o false hang (xpkg && o != .hub) s t none).2) h

/-- A request to the cut engine (R253 to R258): its status, the cut accepted or joined, and the hub. -/
def Hub.cutSchedule (h : Hub) (o : CutOrigin) (die hang xpkg : Bool) (s t : Nat) (given : Option Nat) : Nat × Option Nat × Hub :=
  if !die && !h.sliceExists s then (stNoslice, none, h)
  else if !die && !h.cutAllowed o hang s then (stDenied, none, h)
  else
    let mine := fun s => h.sliceExists s && h.cutAllowed o hang s
    let busy := if die then h.cut.cuts.any fun r => (r.st == .resuming && r.set.any mine) || r.sub.any fun x => mine x.1
      else match h.cut.ofSlice s with | some r => r.stOf s == .resuming | none => false
    if busy then (stBusy, none, h)
    else match (if die then h.cut.dieCut else h.cut.ofSlice s) with
      | some r => (stOk, some r.id, if die then h.extraCuts o hang xpkg r t else h)
      | none =>
        if !h.leadOk t then (stCutLate, none, h)
        else
          let (id, h) := h.newCut o die hang xpkg s t given
          (stOk, some id, h)

/-- A write of CUT_REQ with go at 1 (R274, R276). -/
def Hub.cutReq (h : Hub) (m : Master) (v : Nat) : Hub :=
  if !bit v 31 then h
  else
    let xpkg := bit v 29
    let hang := bit v 28 && decide (m = .pair)
    let t := if xpkg then h.xTick else if bit v 27 then h.autoTick else h.masterTick m
    let (st, id, h) := h.cutSchedule (.master m) (bit v 30) hang xpkg (v % 64) t none
    let h := h.updCutM m fun c => { status := st, id := id.getD c.id, cut := id.getD 0 }
    match id with
    | some i =>
      let h := h.updCut i fun r => { r with masters := if r.masters.contains m then r.masters else r.masters ++ [m] }
      if hang && decide (h.hang.seq.step ≠ 0) then
        { h with hang := { h.hang with seq := { h.hang.seq with cut := i, cutTick := ((h.cut.byId i).map (·.t)).getD 0 } } }
      else h
    | none => h

/-! ## Arming and freezing (Tables 08.2 and 08.3) -/

/-- A Perch that a schedule arms for its scope: a router or link Perch its capture, a shared-engine Perch its hold (R257). -/
def arms (s : Nat) : Bool := decide (stnClass s = 2) || decide (stnClass s = 3) || decide (stnClass s = 4)

/-- A Perch with a capture store. -/
def capturing (s : Nat) : Bool := decide (stnClass s = 2) || decide (stnClass s = 3)

/-- A unit is blocked on a fence-wait, a credit or a remote address. -/
def Hub.blocked (h : Hub) (u : Nat) : Bool := !(SMap.get [] (h.getStn (unitStn u)).wait (unitSub u)).isEmpty

/-- A gate freezes its unit at tick `t`: asleep and blocked units are clean at once (R260). -/
def Hub.freeze (h : Hub) (id t u : Nat) : Hub :=
  let st : GateSt := if h.asleep u || h.blocked u then .stopped else .stopping
  let res := if h.asleep u then 4 else if h.blocked u then 1 else 0
  (h.updGate u fun g => { g with st := st, cut := id, t := t, cmds := false, left := 0, result := res }).updStn (unitStn u) fun x =>
    { x with gateTick := t }

/-- At tick T a station freezes its units in scope; one that another cut holds stays as it is (R253). -/
def Hub.freezeStation (h : Hub) (r : CutRec) (s : Nat) : Hub :=
  (stnUnits s).foldl (fun h u =>
    let g := h.getGate u
    let free := g.st == .run || (g.st == .armed && g.cut == r.id)
    if h.inScope r u && free then h.freeze r.id r.t u
    else if g.st == .armed && g.cut == r.id then h.updGate u fun _ => {}
    else h) h

/-- A station receives a schedule and arms (R257). -/
def Hub.armStation (h : Hub) (s : Nat) (r : CutRec) : Hub :=
  let h := h.updCut r.id fun r => { r with toArm := r.toArm.filter (· != s) }
  let h := (stnUnits s).foldl (fun h u =>
    if h.inScope r u && (h.getGate u).st == .run then h.updGate u fun _ => { st := .armed, cut := r.id, t := r.t } else h) h
  let h := if arms s then h.updStn s fun t => { t with cap := { t.cap with
      armed := t.cap.armed ++ [r.id], overflow := if t.cap.armed.isEmpty then false else t.cap.overflow } } else h
  if r.holding then h.freezeStation r s else h

/-- A station receives a matrix order, which it applies after the unit events of the hub cycle (R169, R180); a bypassed station receives nothing. -/
def Hub.takeOrder (h : Hub) (s : Nat) (o : Order) : Hub :=
  if h.observed s then h.updOrd s fun x => { x with mstop := x.mstop ||| o.stop, mstart := x.mstart ||| o.start, hold := x.hold || o.hold } else h

/-- The schedules and orders that left for a station before hub cycle `k` have reached it: a station acts on flits in the order of their issue (R58). -/
def Hub.deliver (h : Hub) (s k : Nat) : Hub :=
  let h := (h.cut.cuts.filter fun r => r.toArm.contains s && decide (r.issued < k)).foldl (fun h r => h.armStation s r) h
  let due := fun (o : Order) => o.station == s && decide (o.issued < k)
  let l := h.trc.orders.filter due
  if l.isEmpty then h else l.foldl (fun h o => h.takeOrder s o) { h with trc := { h.trc with orders := h.trc.orders.filter fun o => !due o } }

/-- CUT_SCHEDULE_FLIT: a station receives the schedule of the oldest cut it has not seen, after what left for it before (R58, R257). -/
def Hub.cutFlit (h : Hub) (s : Nat) : Hub :=
  match h.cut.cuts.find? fun r => r.toArm.contains s with
  | none => h
  | some r => (h.deliver s r.issued).armStation s r

/-- Units of a station in scope, as a sub mask. -/
def Hub.scopeMask (h : Hub) (r : CutRec) (s : Nat) : Nat :=
  (stnUnits s).foldl (fun a u => if h.inScope r u then a + 2 ^ unitSub u else a) 0

/-- Number of bits set in a sub mask. -/
def popcount8 (m : Nat) : Nat := (List.range 8).foldl (fun a k => a + b2n (bit m k)) 0

/-- CUT_TICK_T: tick T of a scheduled cut; the scope is resolved from the slice table as it stands (R253, R259). -/
def Hub.cutTickT (h : Hub) : Hub :=
  match h.cut.cuts.find? fun r => r.st == .scheduled && decide (r.t ≤ h.now) with
  | none => h
  | some r =>
    let due := (allStations.filter fun s => !r.bypassed.contains s).filterMap fun s =>
      let m := h.scopeMask r s
      if m ≠ 0 ∨ (capturing s = true) then some (s, m) else none
    let un := r.bypassed.foldl (fun a s => a + popcount8 (h.scopeMask r s)) 0
    let h := h.updCut r.id fun r => { r with st := .stopping, toReport := due, unobserved := un, unitMap := h.slc.unit,
                                             pasids := h.slc.e.map fun e => (e.1, e.2.pasid) }
    due.foldl (fun h x => if r.toArm.contains x.1 then h else h.freezeStation r x.1) h

/-! ## Capture of messages in flight (R261, R262) -/

/-- Kind of a captured message (Table 08.4). -/
def captureKind (r : Rmo) : Nat :=
  match r.op with
  | .get => if r.resp then 1 else 0
  | .put => if r.resp then 3 else 2
  | .atomic => if r.resp then 5 else 4
  | .fenceSignal => 6
  | .fenceWait => if r.resp then 8 else 7

/-- A capture store takes a message, or overflows, and the message stays in the buffer; true where the message goes no further. `from_` is 4 for one received
from a link and 8 for one waiting to be sent. A response that is shorter than its length comes from a unit that was forced to stop, as a request of a
stopping unit does (R264). -/
def Hub.capture_ (h : Hub) (s : Nat) (r : Rmo) (from_ msn : Nat) : Bool × Hub :=
  let slice := h.ctxSlice r.context
  match h.captures s slice with
  | none => (false, h)
  | some c =>
    let t := h.stnTick s
    let late := decide (c.t + 64 < t)
    let short := (r.op == .put && !r.resp || r.op == .get && r.resp) && decide (r.data.length < r.len)
    let g := (h.getGate r.issuer).st
    let part := short && (r.resp || unitOk r.issuer && (g == .stopping || g == .forced))
    let ports := if from_ = 0 then r.inPort % 16 + at_ (r.outPort % 16) 4 else 0
    let addr := match r.op with
      | .fenceSignal | .fenceWait => addrPkg r.addr * 2 ^ 32 + addrOff r.addr % 2 ^ 32
      | _ => r.addr
    let e : Capture := { kind := captureKind r, flags := b2n late + 2 * b2n part + from_, ports := ports, tick := t, addr := addr, tag := r.tag,
                         unit := r.issuer, msn := msn, shape := (r.len - 1) % 4096 + at_ (r.level % 4) 12 + at_ (r.mode % 4) 14,
                         context := r.context, slice := slice, value := (match r.op with | .get | .put => 0 | _ => r.value), data := r.data }
    let h := if part && !r.resp then h.updGate r.issuer fun g => { g with port := some (e, r.len - r.data.length) } else h
    let store := (h.getStn s).cap
    if store.entries.length < 1024 ∧ store.used + e.size ≤ 262144 then
      let h := h.updStn s fun x => { x with cap := { x.cap with entries := x.cap.entries ++ [e] } }
      (true, if late then h.rcAdd (pchOff s 0x614) 0 0 65535 1 else h)
    else (true, h.updStn s fun x => { x with cap := { x.cap with overflow := true, held := x.cap.held ++ [e] } })

/-- ROUTE_MESSAGE: a router forwards a message, or its Perch captures it. -/
def Hub.routeMessage (h : Hub) (u : Nat) (r : Rmo) : Hub :=
  if !unitOk u || decide (unitClass u ≠ 6) || !h.boot.units || h.asleep u then h
  else
    let (c, h) := h.capture_ (unitStn u) r 0 0
    if c || !h.unitRuns u then h
    else ((h.observe (h.rmoEv 8 u r (r.inPort % 16 + at_ (r.outPort % 16) 4))).grainAdd u 5 1).grainAdd u 2 r.data.length

/-- LINK_MESSAGE: a link sends a message, which takes the next MSN, or receives one (R142, R143); or its Perch captures it. -/
def Hub.linkMessage (h : Hub) (u : Nat) (sent : Bool) (r : Rmo) (msn len : Nat) : Hub :=
  let s := unitStn u
  let k := (h.getStn s).mark
  if !unitOk u || decide (unitClass u ≠ 5) || !h.boot.units || h.asleep u || !k.trained then h
  else
    let (c, h) := h.capture_ s r (if sent then 8 else 4) (if sent then 0 else msn % 65536)
    if c || !h.unitRuns u then h
    else
      let n := if sent then k.msnOut else msn % 65536
      let h := if sent then h.stampSent s else h.stampReceived s n
      let h := (h.grainAdd u (if sent then 1 else 2) 1).grainAdd u (if sent then 3 else 4) r.data.length
      h.observe { h.rmoEv 7 u r 0 with
        pk := some (.link (b2n (!sent)) r.op.code r.mode k.peerPkg n len r.context r.tag), data := [] }

/-- Entries of a cut's scope leave the stores and the buffers: re-injected in capture order at a resume or step, or discarded. With a slice, only its
entries. An entry that another cut holds too stays. -/
def Hub.dropCaptures (h : Hub) (r : CutRec) (s : Option Nat) (disarm back : Bool) : Hub :=
  let mine := fun (e : Capture) => match s with | some x => e.slice == x | none => r.full || r.set.contains e.slice
  let other := fun (e : Capture) => h.cut.cuts.any fun q => q.id != r.id && q.holding && q.set.contains e.slice
  let goes := fun e => mine e && !other e
  let f := fun (c : CapStore) => { c with entries := c.entries.filter fun e => !goes e, held := c.held.filter fun e => !goes e,
                                          armed := if disarm then c.armed.filter (· != r.id) else c.armed }
  let out := h.stn.flatMap fun t => ((t.2.cap.entries ++ t.2.cap.held).filter goes).map fun e => (⟨t.1, e.unit, 0, e⟩ : Inject)
  { h with stn := SMap.mapVal {} (fun k t => if arms k then { t with cap := f t.cap } else t) h.stn,
           inject := if back then h.inject ++ out else h.inject }

/-! ## Completion (R264, R265) -/

/-- CUT_RESULT0 and CUT_RESULT1 of a completed cut. -/
def CutRec.result0 (r : CutRec) : Nat := at_ r.clean 16 + r.forced
def CutRec.result1 (r : CutRec) : Nat := at_ (b2n r.overflow) 31 + at_ r.unobserved 16 + r.unreported

/-- A done message to the hub that sent the schedule (R272). -/
def Hub.sendDone (h : Hub) (r : CutRec) (x : Nat × Nat × Nat) : Hub :=
  h.linkSend x.1 (cutMsg 0x23 0 (b2n r.die + 2 * b2n r.hang + 4 * x.2.2) x.2.1 (h.scopePasid r.die r.slice) h.pkg x.1 r.status 0 h.pkg
    (r.clean + at_ r.forced 16 + at_ r.unobserved 32 + at_ r.unreported 48) r.done)

/-- The cut completes (Table 08.5): results, record 0x0502, vector 4, the masters' status and the done messages. -/
def Hub.cutComplete (h : Hub) (id unreported : Nat) : Hub :=
  match h.cut.byId id with
  | none => h
  | some r =>
    let r := { r with overflow := r.overflow || h.stn.any fun t => capturing t.1 && t.2.cap.overflow && t.2.cap.armed.contains r.id }
    let bad := r.forced != 0 || r.unobserved != 0 || unreported != 0 || r.excl != 0 || r.overflow
    let st := if bad then stPartial else stOk
    let r := { r with st := .stopped, unreported := unreported, status := st, done := h.now, toReport := [], missing := r.toReport }
    let own := h.cut.counting && h.cut.xid == id
    let c := { h.cut with clean := r.clean, forced := r.forced, unobserved := r.unobserved, unreported := unreported, overflow := r.overflow,
                          excl := r.excl, done := h.now, reported := h.cut.reported + b2n own }
    let h := ({ h with cut := c }).updCut id fun _ => { r with up := [] }
    let h := h.record { h.evt 5 0x0502 with slice := if r.die then 255 else r.slice, status := st, arg := id,
                                            words := [r.result0, r.result1, r.excl, h.now] }
    let h := (h.irqRaise 4).tellMasters r st
    r.up.foldl (fun h x => h.sendDone r x) h

/-- A station has finished with a cut (R264). -/
def Hub.cutFinished (h : Hub) (r : CutRec) (s mask : Nat) : Bool :=
  !r.toArm.contains s && (!capturing s || decide (r.t + 64 ≤ h.stnTick s))
    && (List.range 8).all fun k => !bit mask k || (let g := (h.getGate (s * 8 + k)).st; g == .stopped || g == .forced)

/-- CUT_REPORT: the report of a station that has finished reaches the cut engine; the last one completes the cut. A station
bypassed after the schedule never reports, so its units end as unreported (R265). -/
def Hub.cutReport (h : Hub) (s : Nat) : Hub :=
  match h.cut.cuts.find? fun r => r.st == .stopping && h.observed s && r.toReport.any fun x => x.1 == s && h.cutFinished r s x.2 with
  | none => h
  | some r =>
    let mask := ((r.toReport.find? fun x => x.1 == s).map Prod.snd).getD 0
    let us := (stnUnits s).filter fun u => bit mask (unitSub u)
    let forced := (us.filter fun u => (h.getGate u).st == .forced && (h.getGate u).cut == r.id).length
    let left := r.toReport.filter fun x => x.1 != s
    let spilt := capturing s && (h.getStn s).cap.overflow
    let said := fun u => let g := h.getGate u; if g.cut = r.id then g.result else 3
    let h := h.reportItem s .cutReport [r.id, us.foldl (fun a u => a + at_ (said u) (3 * unitSub u)) 0]
    let h := h.updCut r.id fun r => { r with toReport := left, forced := r.forced + forced, clean := r.clean + (us.length - forced),
                                             overflow := r.overflow || spilt }
    if left.isEmpty then h.cutComplete r.id 0 else h

/-- CUT_REPORT_TIMEOUT: reports missing at T + 4,000. -/
def Hub.cutReportTimeout (h : Hub) : Hub :=
  match h.cut.cuts.find? fun r => r.st == .stopping && decide (r.t + h.reportAfter ≤ h.now) with
  | none => h
  | some r => h.cutComplete r.id (r.toReport.foldl (fun a x => a + popcount8 x.2) 0)

/-- All stepping units of a cut have stopped: the step is over (Table 08.5). -/
def Hub.stepCheck (h : Hub) (id status : Nat) (force : Bool) : Hub :=
  match h.cut.byId id with
  | none => h
  | some r =>
    let run := h.gatesOf id |>.any fun u => (h.getGate u).st == .step || (h.getGate u).st == .stopping
    if r.st ≠ .stepping ∨ r.steps = 0 ∨ r.timeout = 0 ∨ (run && !force) then h
    else
      let h := h.updCut id fun r => { r with st := .stopped, timeout := 0, t := h.now }
      let h := if status = stOk then h else (h.updCut id fun r => { r with status := status }).tellMasters r status
      h.record { h.evt 5 0x0503 with slice := if r.die then 255 else r.slice, unit := if r.single then r.stepUnit else noUnit, status := status,
                                     aux := r.steps % 65536 + at_ (b2n r.mode) 16 + at_ (b2n r.single) 17, arg := id, words := [r.n, h.now] }

/-- UNIT_STOP_CLEAN: a stopping unit meets its stop condition before the forced stop (Table 08.3). -/
def Hub.stopClean (h : Hub) (u : Nat) : Hub :=
  let g := h.getGate u
  if !unitOk u || g.st != .stopping || decide (g.t + h.forceAfter ≤ h.stnTick (unitStn u)) then h
  else (h.updGate u fun g => { g with st := .stopped, result := 1 }).stepCheck g.cut stOk false

/-- CUT_FORCED_STOP: a Perch forces every unit still in STOPPING at T + 3,800 (R264). -/
def Hub.forcedStop (h : Hub) (s : Nat) : Hub :=
  (stnUnits s).foldl (fun h u =>
    let g := h.getGate u
    if g.st == .stopping && decide (g.t + h.forceAfter ≤ h.stnTick s) then
      (h.updGate u fun g => { g with st := .forced, result := 2 }).stepCheck g.cut stOk false
    else h) h

/-! ## Resume (R266) -/

/-- The injection port of a forced unit goes on with the message it holds, after what has been re-injected (R266). -/
def Hub.portResume (h : Hub) (u : Nat) : Hub :=
  match (h.getGate u).port with
  | none => h
  | some (e, rest) => ({ h with inject := h.inject ++ [({ station := unitStn u, unit := u, rest := rest, entry := e } : Inject)] }).updGate u fun g => { g with port := none }

/-- The gate of a unit opens, unless another cut holds the unit too (R253). -/
def Hub.openGate (h : Hub) (id u : Nat) (back : Bool) : Hub :=
  match h.cut.cuts.find? fun r => r.id != id && r.holding && r.stOf (h.unitSlice u) != .resuming && h.inScope r u with
  | some r => h.updGate u fun g => { g with cut := r.id }
  | none => ((if back then h.portResume u else h).updGate u fun _ => {}).thawUnit u

/-- The gates of a cut open; with a slice, those of its units. -/
def Hub.openGates (h : Hub) (r : CutRec) (s : Option Nat) (back : Bool) : Hub :=
  ((h.gatesOf r.id).filter fun u => match s with | some x => h.unitSlice u == x | none => true).foldl (fun h u => h.openGate r.id u back) h

/-- A cut leaves the engine. -/
def Hub.removeCut (h : Hub) (id : Nat) : Hub := { h with cut := { h.cut with cuts := h.cut.cuts.filter fun r => r.id != id } }

/-- A cut ends without a resume tick: cancelled, or aborted with its slice (Table 08.5). -/
def Hub.abortCut (h : Hub) (r : CutRec) : Hub :=
  let h := ((h.dropCaptures r none true false).openGates r none false).tellMasters r stAborted
  h.removeCut r.id

/-- The units of a slice leave the reports that a cut waits for; a station with nothing left to report is no longer waited for. -/
def Hub.reportsLeave (h : Hub) (s : Nat) (l : List (Nat × Nat)) : List (Nat × Nat) :=
  (l.map fun x => (x.1, (List.range 8).foldl (fun a k => if bit x.2 k && h.unitSlice (x.1 * 8 + k) != s then a + 2 ^ k else a) 0)).filter fun x =>
    x.2 != 0 || capturing x.1

/-- One slice is released from a die cut, with record 0x0504; the cut goes on for the others (Table 08.5). -/
def Hub.releaseSlice (h : Hub) (r : CutRec) (s : Nat) : Hub :=
  let h := (h.dropCaptures r (some s) false false).openGates r (some s) false
  let left := h.reportsLeave s r.toReport
  let h := h.updCut r.id fun r => { r with set := r.set.filter (· != s), sub := r.sub.filter fun x => x.1 != s, toReport := left }
  let h := h.record { h.evt 5 0x0504 with slice := s, aux := s, arg := r.id }
  if r.st = .stopping ∧ left.isEmpty then h.cutComplete r.id 0 else h

/-- A consistent dump needs slice `s`, or with `die` any slice, of the cut to stay stopped. -/
def Dump.holds (d : Dump) (r : CutRec) (die : Bool) (s : Nat) : Bool :=
  !d.req.live && d.cut == r.id && (die || d.req.scope == 1 || d.req.slice == s)

/-- A consistent dump of the resumed scope runs, or is accepted and waits (R316). -/
def Hub.dumpHolds (h : Hub) (r : CutRec) (die : Bool) (s : Nat) : Bool :=
  (h.dmp.st != .idle && (match h.dmp.cur with | some d => d.holds r die s | none => false))
    || (match h.dmp.next with | some d => d.holds r die s | none => false)

/-- A resume request: its status and the hub (R266). -/
def Hub.resumeReq (h : Hub) (die : Bool) (s u : Nat) : Nat × Hub :=
  match (if die then h.cut.dieCut else h.cut.ofSlice s) with
  | none => (stCutNotstopped, h)
  | some r =>
    if r.st = .scheduled then
      if r.die && !die then (stOk, h.releaseSlice r s) else (stOk, h.abortCut r)
    else if r.st ≠ .stopped ∨ r.stOf s = .resuming ∧ !die then (stCutNotstopped, h)
    else if h.dumpHolds r die s then (stBusy, h)
    else if !h.leadOk u then (stCutLate, h)
    else if r.die && !die then (stOk, h.updCut r.id fun r => { r with sub := r.sub ++ [(s, u)] })
    else (stOk, h.updCut r.id fun r => { r with st := .resuming, u := u })

/-- A write of CUT_RESUME with go at 1 (R278). -/
def Hub.cutResume (h : Hub) (m : Master) (v : Nat) : Hub :=
  if !bit v 31 then h
  else
    let die := bit v 30
    let s := v % 64
    let u := if bit v 27 then h.autoTick else h.masterTick m
    let id := ((if die then h.cut.dieCut else h.cut.ofSlice s).map (·.id)).getD 0
    let (st, h) := h.resumeReq die s u
    let h := h.updCutM m fun c => { c with status := st, cut := if st = stOk then id else 0 }
    if bit v 29 && st == stOk then
      let p := h.scopePasid die s
      let h := { h with cut := { h.cut with knownResume := remember h.cut.knownResume (id, p + at_ (b2n die) 20) } }
      h.forward none 0x22 0 (b2n die) id p u
    else h

/-- CUT_RESUME_TICK: tick U of a resume; captured messages go back and the gates open. -/
def Hub.cutResumeTick (h : Hub) : Hub :=
  match h.cut.cuts.find? fun r => (r.st == .resuming && decide (r.u ≤ h.now)) || r.sub.any fun x => decide (x.2 ≤ h.now) with
  | none => h
  | some r =>
    if r.st = .resuming ∧ r.u ≤ h.now then ((h.dropCaptures r none true true).openGates r none true).removeCut r.id
    else match r.sub.find? fun x => decide (x.2 ≤ h.now) with
      | none => h
      | some (s, _) =>
        let h := (h.dropCaptures r (some s) false true).openGates r (some s) true
        h.updCut r.id fun r => { r with set := r.set.filter (· != s), sub := r.sub.filter fun x => x.1 != s }

/-- A slice in scope of a cut is reset or destroyed (Table 08.5). -/
def Hub.cutSliceGone (h : Hub) (s : Nat) (destroyed : Bool) : Hub :=
  (h.cut.cuts.filter fun r => r.set.contains s && r.st != .resuming).foldl (fun h r =>
    if !r.die then
      (h.abortCut r).record { h.evt 5 0x0504 with slice := s, status := stAborted, aux := s, arg := r.id }
    else if !destroyed then h.releaseSlice r s
    else
      let h := h.dropCaptures r (some s) false false
      let h := h.updCut r.id fun r => { r with set := r.set.filter (· != s), sub := r.sub.filter fun x => x.1 != s }
      h.record { h.evt 5 0x0504 with slice := s, aux := s, arg := r.id }) h

/-! ## Bench mode and stepping (R268, R269) -/

/-- Modes that record 0x0807 reports, as written: bench, stall, force_raw of any bank. -/
def Hub.modeBits (h : Hub) : Nat :=
  b2n h.cut.bench + 2 * b2n (bit (h.shd 0xA0000000 0x80000) 30)
    + 4 * b2n ((List.range 4).any fun k => bit (h.shd 0x80000000 (0x50000 + 0x4000 * k)) 30)

/-- A write of CUT_BENCH. -/
def Hub.benchWrite (h : Hub) (m : Master) (enable : Bool) : Hub :=
  let ok := !enable || h.slices.all (· == 0)
  let on := enable && ok
  let change := h.cut.bench != on
  let h := { h with cut := { h.cut with benchEn := enable, bench := on, benchStatus := if ok then stOk else stCutBench } }
  let h := if change then h.record { h.auditBy m 0x0807 with aux := h.modeBits } else h
  if change && !on then allStations.foldl (fun h s => if (h.getStn s).peck.stalled.isEmpty then h else h.stallRetry s) h else h

/-- Units of a stopped cut: those whose gate it has set, and those in its scope that an earlier cut holds (R253). -/
def Hub.cutUnits (h : Hub) (r : CutRec) : List Nat :=
  h.stn.flatMap fun t => (t.2.gate.filter fun g => (g.2.st == .stopped || g.2.st == .forced || g.2.st == .stopping)
    && (g.2.cut == r.id || h.inScope r (t.1 * 8 + g.1))).map fun g => t.1 * 8 + g.1

/-- Units that a step runs. -/
def Hub.stepUnits (h : Hub) (r : CutRec) : List Nat :=
  (h.cutUnits r).filter fun u => !h.asleep u && (!r.single || u == r.stepUnit)

/-- The cut that a step continues: a stopped die cut or slice-0 cut, else the one that is there. -/
def Hub.stepCut (h : Hub) : Option CutRec :=
  let mine := h.cut.cuts.filter fun r => r.die || r.set.contains 0
  (mine.find? fun r => r.st == .stopped && r.stOf 0 == .stopped).or mine.head?

/-- A write of CUT_STEP with go at 1 (R269, R279). -/
def Hub.cutStep (h : Hub) (m : Master) (v : Nat) : Hub :=
  if !bit v 31 then h
  else
    let single := bit v 29
    let n := v % 2 ^ 24
    let t := if bit v 28 then h.autoTick else h.masterTick m
    let unit := h.rwGet 0 0x30044 0
    let cut := h.stepCut
    let set := fun (st id : Nat) (h : Hub) => h.updCutM m fun c => { c with status := st, cut := id }
    if !h.cut.bench then set stCutBench 0 h
    else match cut with
      | none => set stCutNotstopped 0 h
      | some r =>
        if r.st ≠ .stopped ∨ n = 0 then set stCutNotstopped 0 h
        else if single && !unitOk unit then set stNounit 0 h
        else if single && !h.observed (unitStn unit) then set stUnobserved 0 h
        else if single && !(h.cutUnits r).contains unit then set stCutNotstopped 0 h
        else if !h.leadOk t then set stCutLate 0 h
        else
          let h := h.updCut r.id fun r => { r with
            st := .stepping, steps := r.steps + 1, mode := bit v 30, single := single, n := n, stepUnit := unit, u := t, timeout := 0,
            masters := if r.masters.contains m then r.masters else r.masters ++ [m] }
          set stOk r.id h

/-- STEP_START: tick U of a step. -/
def Hub.stepStart (h : Hub) : Hub :=
  match h.cut.cuts.find? fun r => r.st == .stepping && r.timeout == 0 && decide (r.u ≤ h.now) with
  | none => h
  | some r =>
    let h := if r.single then h else h.dropCaptures r none false true
    let us := h.stepUnits r
    let h := h.updCut r.id fun r => { r with stepEnd := r.u + (r.n + 1) / 2, timeout := r.u + Nat.max 1 (h.rwGet 1000 0x30048 0) * 1000 }
    let queued := fun (u : Nat) => (h.getGrain u).cmd.isSome || h.ctx.any fun c => c.2.cmds.any fun x => x.unit == u
    let h := us.foldl (fun h u =>
      if r.mode && isTileUnit u && !queued u then h.freeze r.id r.u u
      else ((h.portResume u).updGate u fun g => { g with st := .step, cut := r.id, cmds := r.mode && isTileUnit u, left := r.n }).thawUnit u) h
    h.stepCheck r.id stOk false

/-- STEP_END: a stepping unit meets its step end condition and freezes (R269). A tile unit in cycle mode has run its n array cycles. -/
def Hub.stepEnd (h : Hub) (u : Nat) : Hub :=
  let g := h.getGate u
  if !unitOk u || g.st != .step then h
  else match h.cut.byId g.cut with
    | none => h
    | some r =>
      let t := h.stnTick (unitStn u)
      let ok := if isTileUnit u then !r.mode || (g.left == 0 || (h.getGrain u).cmd.isNone && !h.ctx.any fun c => c.2.cmds.any fun x => x.unit == u)
        else if r.mode then (h.gatesOf r.id).all fun x => !isTileUnit x || (h.getGate x).st != .step
        else decide (r.stepEnd ≤ t)
      if ok then (h.freeze r.id t u).stepCheck r.id stOk false else h

/-- STEP_TIMEOUT: the remaining units stop as a cut at the timeout tick (Table 08.5). -/
def Hub.stepTimeout (h : Hub) : Hub :=
  match h.cut.cuts.find? fun r => r.st == .stepping && r.timeout != 0 && decide (r.timeout ≤ h.now) with
  | none => h
  | some r =>
    let us := (h.gatesOf r.id).filter fun u => (h.getGate u).st == .step
    (us.foldl (fun h u => h.freeze r.id r.timeout u) h).stepCheck r.id stTimeout true

/-! ## Cuts across packages (R270 to R272) -/

/-- A tick of the sender in the local timebase: the tick, and the flags late (1) and unaligned (2) (R271). -/
def Hub.convertTick (h : Hub) (link t : Nat) : Nat × Nat :=
  let k := (h.getStn (linkStn link)).mark
  if !k.valid ∨ k.echoTx = 0 ∧ k.echoRx = 0 then (h.autoTick, 2)
  else
    let th : Int := (((k.rxLocal : Int) - k.rxPeer) - ((k.echoRx : Int) - k.echoTx)) / 2
    let u := ((t : Int) + th).toNat
    if u < h.now + h.leastLead then (h.now + h.leastLead, 1) else (u, 0)

/-- The local slice of a PASID. -/
def Hub.sliceOfPasid (h : Hub) (p : Nat) : Option Nat := h.slices.find? fun s => (h.getSlice s).pasid == p

/-- The package of a cut ID. -/
def cutPkg (id : Nat) : Nat := id / 2 ^ 22

/-- CUT_SCHEDULE_MESSAGE. -/
def Hub.scheduleMsg (h : Hub) (link : Nat) (b : List Byte) : Hub :=
  let id := leAt b 4 4
  let fl := leAt b 2 2
  if b.length ≠ 64 ∨ leAt b 0 1 ≠ 0x21 ∨ 32 ≤ link ∨ !h.nocUp ∨ (h.cut.known.any fun x => x.1 == id) then h
  else
    let h := { h.stampHub (linkStn link) with cut := { h.cut with known := remember h.cut.known (id, link) } }
    let (t, w) := h.convertTick link (leAt b 0x10 8)
    let hops := leAt b 1 1
    let pasid := leAt b 8 4 % 2 ^ 20
    let h := if hops < 31 then (h.forward (some link) 0x21 (hops + 1) fl id pasid t).scheduleSent id (h.trainedLinks.filter (· != link)) else h
    let die := bit fl 0
    match (if die then some 0 else h.sliceOfPasid pasid) with
    | none => h
    | some s =>
      let (_, r, h) := h.cutSchedule .hub die (bit fl 1) true s t (some id)
      match r with
      | none => h
      | some i => match h.cut.byId i with
        | none => h
        | some c =>
          if c.st = .scheduled ∨ c.st = .stopping then h.updCut i fun c => { c with up := c.up ++ [(link, id, w)] }
          else h.sendDone c (link, id, w)

/-- CUT_DONE_MESSAGE: counted at the origin, else relayed unchanged toward the hub the schedule came from. -/
def Hub.doneMsg (h : Hub) (link : Nat) (b : List Byte) : Hub :=
  let id := leAt b 4 4
  if b.length ≠ 64 ∨ leAt b 0 1 ≠ 0x23 ∨ 32 ≤ link ∨ !h.nocUp then h
  else
  let h := h.stampHub (linkStn link)
  if id = h.cut.xid ∧ cutPkg id = h.pkg then
    if h.cut.counting && decide (h.now ≤ h.cut.xend) then
      let late := b2n (bit (leAt b 2 2) 2 || bit (leAt b 2 2) 3)
      let p := leAt b 0x18 2 % 1024
      { h with cut := { h.cut with reported := h.cut.reported + 1, late := h.cut.late + late },
               hang := { h.hang with reported := if h.hang.reported.contains p then h.hang.reported else h.hang.reported ++ [p] } }
    else h
  else match h.cut.known.find? fun x => x.1 == id with
    | some (_, l) => if l < 32 then h.linkSend l b else h
    | none => h

/-- CUT_RESUME_MESSAGE. -/
def Hub.resumeMsg (h : Hub) (link : Nat) (b : List Byte) : Hub :=
  let id := leAt b 4 4
  let fl := leAt b 2 2
  let pasid := leAt b 8 4 % 2 ^ 20
  let key := (id, pasid + at_ (b2n (bit fl 0)) 20)
  if b.length ≠ 64 ∨ leAt b 0 1 ≠ 0x22 ∨ 32 ≤ link ∨ !h.nocUp ∨ h.cut.knownResume.contains key then h
  else
    let h := { h.stampHub (linkStn link) with cut := { h.cut with knownResume := remember h.cut.knownResume key } }
    let (u, _) := h.convertTick link (leAt b 0x10 8)
    let hops := leAt b 1 1
    let h := if hops < 31 then h.forward (some link) 0x22 (hops + 1) fl id pasid u else h
    match (if bit fl 0 then some 0 else h.sliceOfPasid pasid) with
    | none => h
    | some s => (h.resumeReq (bit fl 0) s u).2

/-- CUT_XRESULT_WINDOW_END (R272). -/
def Hub.xWindowEnd (h : Hub) : Hub :=
  if h.cut.counting && decide (h.cut.xend ≤ h.now) then { h with cut := { h.cut with counting := false } } else h

end Sys2Proof.Machine
end

