-- ==== Sys2Proof/Machine/Matrix.lean ====
section
/-!
DEFINITION. Machine/Matrix.lean: the trigger matrix (R177 to R181): what the hub core does with the trigger flits that reach it, and the orders
that reach the stations of a group.
-/
namespace Sys2Proof.Machine

/-- Active MATCH and ACT of a matrix entry (R189), and active RANGE and SEL of a group (R188). -/
def Hub.mxMatch (h : Hub) (k : Nat) : Nat := h.act 0 (0x80100 + 8 * k)
def Hub.mxAct (h : Hub) (k : Nat) : Nat := h.act 0 (0x80104 + 8 * k)
def Hub.grpRange (h : Hub) (g : Nat) : Nat := h.act 0 (0x80040 + 8 * g)
def Hub.grpSel (h : Hub) (g : Nat) : Nat := h.act 0 (0x80044 + 8 * g)

/-- Entry `k` matches a trigger (R178). -/
def Hub.mxHit (h : Hub) (k : Nat) (t : Trig) : Bool :=
  let m := h.mxMatch k
  bit m 31 && decide (field m 10 0 ≤ t.station) && decide (t.station ≤ field m 21 11) && bit (field m 29 26) t.cond

/-- Stations of a group that are observed (R180). -/
def Hub.groupStations (h : Hub) (g : Nat) : List Nat :=
  let r := h.grpRange g
  allStations.filter fun s => decide (field r 10 0 ≤ s) && decide (s ≤ field r 26 16) && bit (h.grpSel g) (stnClass s) && h.observed s

/-- Merge an order into the orders of one hub cycle, one for each station. -/
def mergeOrder (l : List Order) (o : Order) : List Order :=
  match firstIdx (fun (x : Order) => x.station == o.station) l with
  | some i => modAt l i fun (x : Order) => { x with stop := x.stop ||| o.stop, start := x.start ||| o.start, hold := x.hold || o.hold }
  | none => l ++ [o]

/-- The orders of one matching entry (Table 05.4): an entry with both start and stop set issues a stop order. -/
def Hub.entryOrders (h : Hub) (l : List Order) (k : Nat) : List Order :=
  let a := h.mxAct k
  let src := field a 23 20
  let stop := bit a 26
  let start := bit a 27 && !stop
  if stop || start || bit a 28 then
    (h.groupStations (a % 8)).foldl (fun l s => mergeOrder l ⟨s, if stop then src else 0, if start then src else 0, bit a 28, h.clk.cycle⟩) l
  else l

/-- Snapshot set of a trigger: that of its lowest matching entry with one assigned (R385, R401). -/
def Hub.mxSnap (h : Hub) (hits : List Nat) : Option Nat :=
  let set := fun k => field (h.act 0 (0x60040 + 4 * (k / 8))) (4 * (k % 8) + 3) (4 * (k % 8))
  (hits.find? fun k => bit (set k) 3).map fun k => set k % 8

/-- The event-record request of a trigger (R179, R384). -/
def Hub.triggerReq (h : Hub) (t : Trig) (hits : List Nat) : Req :=
  { cls := 1, code := 0x0101, tick := t.tick, slice := t.slice, unit := t.unit, aux := t.cond + at_ t.cls 2 + at_ t.suppressed 5,
    causeSrc := t.station * 8 + 4, causeSeq := t.seq, arg := hits.foldl (fun a k => a + 2 ^ k) 0, snap := h.mxSnap hits,
    trigger := some (t.cls, t.station) }

/-- The matrix takes one trigger; the orders of the hub cycle gather in the list (R177 to R179). -/
def Hub.matrix (h : Hub) (l : List Order) (t : Trig) : List Order × Hub :=
  let h := { h with trc := { h.trc with last := some t } }.rcAdd 0x80008 0 0 (2 ^ 32 - 1) 1
  if !bit (h.spol t.slice) 15 || !bit (h.act 0xA0000000 0x80000) 29 then (l, h)
  else
    let hits := (List.range 64).filter fun k => h.mxHit k t
    let l := hits.foldl (fun l k => h.entryOrders l k) l
    let any := fun (b : Nat) => hits.any fun k => bit (h.mxAct k) b
    let record := any 31
    let cut := any 30
    let irq := any 25
    let die := hits.any fun k => bit (h.mxAct k) 30 && bit (h.mxAct k) 29
    let h := hits.foldl (fun h k =>
      if bit (h.mxMatch k) 30 then h.rwsUpd 0 (0x80100 + 8 * k) fun r => { r with active := clearBits r.active (2 ^ 31) } else h) h
    let h := if record then h.record (h.triggerReq t hits) else h
    let h := if cut then (h.cutSchedule .matrix die false false t.slice h.autoTick none).2.2 else h
    (l, if irq then h.irqRaise 8 else h)

/-- TRIGGER_MATRIX: the oldest `n` trigger flits arrive in one hub cycle; they are taken in ascending station, then condition (R177). Which flits arrive
together the spec leaves to the Chain; the model takes them in the order in which they left (DESIGN CHOICE, log entry 83). -/
def Hub.triggerMatrix (h : Hub) (n : Nat) : Hub :=
  let fl := sortBy (fun t => t.station * 4 + t.cond) (h.trc.flits.take n)
  let h := { h with trc := { h.trc with flits := h.trc.flits.drop n } }
  let (l, h) := fl.foldl (fun (l, h) t => h.matrix l t) ([], h)
  { h with trc := { h.trc with orders := h.trc.orders ++ l } }

/-- MATRIX_ORDER: the oldest order for a station reaches it (R180), after what left for it before (R58). -/
def Hub.matrixOrder (h : Hub) (s : Nat) : Hub :=
  match h.trc.orders.find? fun o => o.station == s with
  | none => h
  | some o =>
    let h := h.deliver s o.issued
    let h := { h with trc := { h.trc with orders := match firstIdx (fun (o : Order) => o.station == s) h.trc.orders with
                                                    | some i => eraseAt h.trc.orders i | none => h.trc.orders } }
    h.takeOrder s o

end Sys2Proof.Machine
end

