-- ==== Sys2Proof/Machine/Hang.lean ====
section
/-!
DEFINITION. Machine/Hang.lean: hang detection (chapter 09): the scan and its verdicts, the hang sequence of Table 02.12, wait-edge collection,
the context walk, the wait-for graph and its exchange across packages (R297 to R304, R518 to R520).
-/
namespace Sys2Proof.Machine

/-! ## The scan (R289 to R291) -/

/-- Active HUB_HANG_CFG and HUB_HANG_MASK. -/
def Hub.hangCfg (h : Hub) : Nat := h.act 0x800000FA 0x100
def Hub.hangMask (h : Hub) : Nat := h.act (2 ^ 64 - 1) 0x108

/-- HUB_SCAN.go from the controller pair. -/
def Hub.scanGo (h : Hub) : Hub :=
  if h.hang.scan.isSome then h.rcSet 0x114 0 30 else { h with hang := { h.hang with scan := some 0, overNow := 0 } }

/-- Contexts of the die. -/
def contextCount : Nat := 262144

/-- Idle count and reported bit of a context after the scan of it (Table 09.1). -/
def Hub.scanRow (h : Hub) (x : Ctx) : Nat × Bool :=
  let was := x.cyc == h.clk.cycle + 1
  let st := if was then x.oldSt else x.st
  let busy := if was then x.oldBusy else !x.own.isEmpty
  let progress := if was then x.oldProgress else x.progress
  if st != .active || !bit h.hangCfg 31 || !bit h.hangMask x.slice || !busy then (0, false)
  else if x.own.any fun c => c.started && (h.getGate c.unit).st != .run then (x.idle, x.reported)
  else if progress != x.stored then (0, false)
  else (satAdd 65535 x.idle 1, x.reported)

/-- SCAN_CONTEXT: the scan engine takes the next context; scanning pauses during a warm restart (R115). -/
def Hub.scanContext (h : Hub) : Hub :=
  match h.hang.scan with
  | none => h
  | some n =>
    if h.rst.st ≠ 0 then h
    else
      let x := h.getCtx n
      let (idle, rep) := h.scanRow x
      let was := x.cyc == h.clk.cycle + 1
      let progress := if was then x.oldProgress else x.progress
      let hit := decide (Nat.max 1 (h.hangCfg % 65536) ≤ idle)
      let full := decide (64 ≤ h.hang.fifo.length)
      let push := hit && !rep
      let h := if push && full then h.rcAdd 0x124 0 16 65535 1 else h
      let g := h.hang
      let g := { g with fifo := if push && !full then g.fifo ++ [(n, x.slice)] else g.fifo, fifoNew := g.fifoNew + b2n (push && !full), overNow := g.overNow + b2n hit }
      let g := if n + 1 < contextCount then { g with scan := some (n + 1) }
        else { g with scan := none, overCount := g.overNow, scans := (g.scans + 1) % 2 ^ 32 }
      let h := { h with hang := g }
      let y := { x with idle := idle, reported := rep || (push && !full), stored := progress }
      if x = y then h else { h with ctx := SMap.set {} h.ctx n y }

/-! ## The sequence (R77, R292, Table 02.12) -/

/-- A sequence begins with step 1. -/
def Hub.beginSeq (h : Hub) (joined : List (Nat × Nat × Nat)) (die : Bool) (slice : Nat) : Hub :=
  let n := h.hang.sequences + 1
  { h with hang := { h.hang with sequences := n, seq := { step := 1, number := n, joined := joined, die := die, slice := slice } } }

/-- Contexts with a started command, as verdicts (R511). -/
def Hub.startedContexts (h : Hub) : List (Nat × Nat × Nat) :=
  (h.ctx.filter fun c => c.2.own.any (·.started)).map fun c => (c.1, c.2.slice, c.2.idle)

/-- When no sequence runs, the next one begins: that of a lost compute side first, then that of the oldest verdict that waits. -/
def Hub.nextSeq (h : Hub) : Hub :=
  if h.hang.seq.step ≠ 0 then h
  else if h.hang.dieWaiting then
    ({ h with hang := { h.hang with dieWaiting := false } }).beginSeq h.startedContexts true 0
  else match h.hang.waiting with
    | [] => h
    | (_, s, _) :: _ =>
      let die := bit h.hangCfg 30
      let mine := fun (x : Nat × Nat × Nat) => die || x.2.1 == s
      let w := h.hang.waiting
      ({ h with hang := { h.hang with waiting := w.filter fun x => !mine x } }).beginSeq (w.filter mine) die s

/-- The firmware reads a verdict: it joins the sequence that runs, or waits for one of its own (R292). -/
def Hub.verdictRead (h : Hub) (c s : Nat) : Hub :=
  let v := (c, s, (h.getCtx c).idle)
  let q := h.hang.seq
  if q.step ≠ 0 ∧ q.step < 3 ∧ (q.die = true ∨ q.slice = s) then
    { h with hang := { h.hang with seq := { q with joined := q.joined ++ [v] } } }
  else ({ h with hang := { h.hang with waiting := h.hang.waiting ++ [v] } }).nextSeq

/-- A read of HUB_VERDICT removes the head entry (R310), unless that was pushed in the same hub cycle (R12). -/
def Hub.verdictPop (h : Hub) (m : Master) : Hub :=
  match h.verdicts with
  | [] => h
  | (c, s) :: _ =>
    let h := { h with hang := { h.hang with fifo := h.hang.fifo.tail } }
    if m = .pair then h.verdictRead c s else h

/-- The firmware's reaction to a lost compute side: a sequence of the whole die, at once (R511). -/
def Hub.hangDie (h : Hub) : Hub := ({ h with hang := { h.hang with dieWaiting := true } }).nextSeq

/-- A record that the controller pair writes. -/
def Hub.fwEvt (h : Hub) (code : Nat) : Req := { h.evt 4 code with origin := Master.pair.origin }

/-- The hang record of step 1: verdict context, and up to 16 further contexts. -/
def Hub.hangRecord (h : Hub) : Hub :=
  let q := h.hang.seq
  let f := q.joined.headD (0, 255, 0)
  h.record { h.fwEvt 0x0401 with
    slice := f.2.1, ctx := (q.joined.head?).map (·.1), aux := f.2.2, arg := q.number,
    words := (q.joined.tail.take 16).map fun x => x.1 + at_ x.2.1 18 }

/-- HANG_STEP_ADVANCE: a step ends with a status; a failed one is recorded, and the next begins. Step 6 asserts SPATN (R77). -/
def Hub.hangStep (h : Hub) (status : Nat) : Hub :=
  let q := h.hang.seq
  if q.step = 0 ∨ !h.boot.pairRunning then h
  else
    let h := if q.step = 1 then h.hangRecord else h
    let bad := decide (q.step ≠ 1) && decide (status ≠ stOk) && decide (status ≠ stPartial)
    let h := if bad then
        h.record { h.fwEvt 0x0402 with slice := if q.die then 255 else q.slice, status := status, aux := q.step,
                                       arg := if 5 ≤ q.step then q.object else q.cut }
      else h
    if q.step < 6 then
      let h := { h with hang := { h.hang with seq := { h.hang.seq with step := q.step + 1 } } }
      if q.step = 5 then h.attnSet 3 else h
    else ({ h with hang := { h.hang with seq := {} } }).nextSeq

/-! ## Collection and walk (R300) -/

/-- Node IDs (R297). -/
def unitNode (p u : Nat) : Nat := nodeId 1 p u
def ctxNode (p c : Nat) : Nat := nodeId 2 p c
def fenceNode (p f : Nat) : Nat := nodeId 3 p f
def pkgNode (p : Nat) : Nat := nodeId 4 p 0
def nodeKind (n : Nat) : Nat := n / 2 ^ 60
def nodePkg (n : Nat) : Nat := n / 2 ^ 50 % 1024
def nodeVal (n : Nat) : Nat := n % 2 ^ 50

/-- A graph message (Table 09.10). -/
def graphMsg (type hops flags id reporter index : Nat) (edge : List Byte) : List Byte :=
  leBytes 1 type ++ leBytes 1 hops ++ leBytes 2 flags ++ leBytes 4 id ++ leBytes 2 reporter ++ leBytes 2 index ++ zeros 4
    ++ padTo 40 edge ++ zeros 8

/-- Send a graph request on every link over which this hub forwarded the cut's schedule (R304). -/
def Hub.askGraph (h : Hub) (hops id : Nat) : Hub :=
  (((h.cut.sentOn.find? fun x => x.1 == id).map Prod.snd).getD []).foldl (fun h l => h.linkSend l (graphMsg 0x24 hops 0 id h.pkg 0 [])) h

/-- The collected edges of the stations that a cut's scope touches: every valid edge of each such station's units, the number of those units, and the units in
scope whose station is not observed (R300). -/
def Hub.collect (h : Hub) (r : CutRec) : List WEdge × Nat × List Nat :=
  let us := allUnits.filter fun u => h.inScope r u
  let seen := (allStations.filter fun s => h.observed s && us.any fun u => unitStn u == s).flatMap stnUnits
  (seen.filterMap fun u => (h.edgeSeen (unitStn u) (unitSub u)).map fun e =>
      { unit := u, slice := SMap.get 0 r.unitMap u, context := e.context, edge := e.edge, since := e.since },
   seen.length, us.filter fun u => !h.observed (unitStn u))

/-- The wait-edge reports of the stations, one item for each edge (R138). -/
def Hub.edgeReports (h : Hub) (es : List WEdge) : Hub :=
  es.foldl (fun h w => h.reportItem (unitStn w.unit) .waitEdge [w.unit, w.context, w.edge.kind, w.edge.op, w.edge.pkg, w.edge.peer, w.edge.obj, w.edge.arg, w.since]) h

/-- The cut that firmware builds a graph of next, with the link toward its origin: that of step 3 first, else of a request. -/
def Hub.graphTarget (h : Hub) : Option (CutRec × Option Nat) :=
  let q := h.hang.seq
  if q.step = 3 then
    some ((h.cut.byId q.cut).getD { id := 0, die := q.die, slice := q.slice, st := .stopped, t := 0,
                                    set := if q.die then h.slices else [q.slice], unitMap := h.slc.unit }, none)
  else match h.hang.jobs with
    | [] => none
    | (id, l) :: _ => some ((h.cut.byId id).getD { id := id, die := false, slice := 0, st := .stopped, t := 0, unitMap := h.slc.unit }, some l)

/-- WAIT_EDGE_COLLECT: once the cut has completed, the stations in scope return their edges; for a cross-package cut the origin sends its
graph requests (R300, R304). -/
def Hub.waitEdgeCollect (h : Hub) : Hub :=
  match h.graphTarget with
  | none => h
  | some (r, parent) =>
    if r.st ≠ .stopped ∨ !h.boot.pairRunning ∨ h.rst.st ≠ 0 ∨ h.hang.building then h
    else
      let (es, n, un) := h.collect r
      let h := { h with hang := { h.hang with
        building := true, parent := parent, cut := r.id, cutTick := r.t, cutDone := r.done, cutPartial := r.status == stPartial,
        xpkg := r.xpkg, scope := r.set, unitMap := r.unitMap, joined := if parent.isNone then h.hang.seq.joined else [], edges := es, units := n, unobserved := un,
        walk := none, remote := [], peersDone := [], peerTrunc := false, noPeer := false,
        wfgStatus := 2 ^ 31 + h.hang.wfgStatus / 2 ^ 30 % 2 * 2 ^ 30 } }
      let h := h.edgeReports es
      if parent.isNone && r.xpkg then h.askGraph 0 r.id else h

/-- CONTEXT_WALK: the scan engine, when it is free, walks every context. -/
def Hub.contextWalk (h : Hub) : Hub :=
  if h.hang.building && h.hang.scan.isNone && h.boot.pairRunning && decide (h.rst.st = 0) then
    { h with hang := { h.hang with walk := some (h.ctx.filter fun c => !c.2.own.isEmpty) } }
  else h

/-! ## Edges (R298, R299) -/

/-- A list without repeats, in order of first appearance. -/
def dedup {α : Type} [DecidableEq α] (l : List α) : List α := l.foldl (fun a x => if x ∈ a then a else a ++ [x]) []

/-- The edge of a collected wait edge (Table 09.4, kinds 0 to 2). -/
def WEdge.gedge (p : Nat) (w : WEdge) : GEdge :=
  let e := w.edge
  let far := decide (e.peer = noUnit) || (decide (e.kind = 2) && decide (e.pkg ≠ p))
  match e.kind with
  | 1 => { src := unitNode p w.unit, dst := fenceNode e.pkg e.obj, value := e.arg, since := w.since, kind := 0 }
  | k => { src := unitNode p w.unit, dst := if far then pkgNode e.pkg else unitNode p e.peer, value := e.arg, since := w.since, kind := k - 1 }

/-- Kind-3 edges of a context: to each unit that runs its started command. -/
def ctxEdges (p c : Nat) (x : Ctx) : List GEdge :=
  (x.own.filter (·.started)).map fun k => { src := ctxNode p c, dst := unitNode p k.unit, value := k.tag, since := k.startTick, kind := 3 }

/-- A command's completion signal satisfies a wait for `w` (R299). -/
def signalSatisfies (v w : Nat) : Bool := decide ((v + 2 ^ 64 - w % 2 ^ 64) % 2 ^ 64 < 2 ^ 63)

/-- Kind-4 edges: from each fence of this package to its producers, for the values awaited; of every exported fence whatever is awaited
(R299, R518). -/
def Hub.producerEdges (h : Hub) (walk : SMap Ctx) (waits : List (Nat × Nat)) : List GEdge :=
  let p := h.pkg
  dedup (walk.flatMap fun c => c.2.own.filterMap fun k =>
    match k.signal with
    | none => none
    | some f =>
      let exported := fenceExported f.id && (h.exportSlice (fenceIndex f.id)).isSome
      if f.pkg = p ∧ (exported ∨ waits.any fun w => w.1 == f.id && signalSatisfies k.value w.2) then
        some { src := fenceNode p f.id, dst := ctxNode p c.1, value := k.value, since := k.submitTick, kind := 4 }
      else none)

/-- Order of edges: from-node, to-node, kind (R302). -/
def edgeKey (e : GEdge) : Nat := e.src * 2 ^ 128 + e.dst * 2 ^ 64 + e.kind

/-- The kind-4 edges that stand for producers: of a fence for which a wait edge gives the value awaited, those whose value satisfies such a wait (R299). -/
def producing (es : List GEdge) : List GEdge :=
  es.filter fun e => e.kind != 4 || (let ws := es.filter fun w => w.kind == 0 && w.dst == e.src; ws.isEmpty || ws.any fun w => signalSatisfies e.value w.value)

/-- Every edge of the graph under construction (R298 to R300, steps 3 and 4); with `all`, the producers of exported fences whatever is awaited, which the
exchange carries (R518). -/
def Hub.graphEdges (h : Hub) (all : Bool) : List GEdge :=
  let p := h.pkg
  let walk := h.hang.walk.getD []
  let direct := h.hang.edges.map (WEdge.gedge p)
  let waits := (h.hang.edges.filter fun w => w.edge.kind == 1 && w.edge.pkg == p).map fun w => (w.edge.obj, w.edge.arg)
  let waits := waits ++ (h.hang.remote.filter fun e => e.kind == 0 && nodePkg e.dst == p).map fun e => (nodeVal e.dst, e.value)
  let prod := h.producerEdges walk waits
  let prod := if all then prod else (producing (direct ++ h.hang.remote ++ prod)).filter prod.contains
  let ctxs := dedup (h.hang.joined.map (·.1) ++ prod.map fun e => nodeVal e.dst)
  let own := ctxs.flatMap fun c => ctxEdges p c (SMap.get {} walk c)
  let flag := fun (e : GEdge) =>
    let un := fun n => nodeKind n == 1 && nodePkg n == p && h.hang.unobserved.contains (nodeVal n)
    if un e.src || un e.dst then { e with flags := e.flags ||| 4 } else e
  let es := sortBy edgeKey (dedup ((direct ++ prod ++ own).map flag ++ h.hang.remote))
  if all then es else producing es

/-! ## Cycles and classes (R300, steps 5 and 6) -/

/-- Nodes that edges lead to from a node. -/
def succs (es : List GEdge) (n : Nat) : List Nat := (es.filter fun e => e.src == n).map (·.dst)

/-- Nodes reached in breadth-first order; `k` bounds the depth. -/
def reach (es : List GEdge) : Nat → List Nat → List Nat → List Nat
  | 0, seen, _ => seen
  | k + 1, seen, front =>
    let new := dedup ((front.flatMap (succs es)).filter fun n => !seen.contains n)
    if new.isEmpty then seen else reach es k (seen ++ new) new

/-- Nodes reachable from a node by at least one edge. -/
def reachFrom (es : List GEdge) (n : Nat) : List Nat := reach es (es.length + 1) [] [n]

/-- Lowest of a list of numbers. -/
def lowest (l : List Nat) : Option Nat := match l with | [] => none | a :: r => some (r.foldl Nat.min a)

/-- The component of a node that lies on a cycle, named by its lowest node. -/
def cycleNode (es : List GEdge) (n : Nat) : Option Nat :=
  let r := reachFrom es n
  if r.contains n then lowest (r.filter fun m => (reachFrom es m).contains n) else none

/-- The cycles, by lowest node ID, ascending: cycle number k is at index k - 1. -/
def cycleList (es : List GEdge) : List Nat := sortBy id (dedup ((dedup (es.map (·.src))).filterMap (cycleNode es)))

/-- Cycle number of a node; 0 none. -/
def cycleNo (es : List GEdge) (cs : List Nat) (n : Nat) : Nat :=
  match cycleNode es n with
  | some m => match firstIdx (· == m) cs with | some i => i + 1 | none => 0
  | none => 0

/-- A unit node holds a wait edge. -/
def holdsEdge (es : List GEdge) (n : Nat) : Bool := es.any fun e => e.src == n && decide (e.kind < 3)

/-- A package is this one or one that reported the graph's cut. -/
def Hub.reporting (h : Hub) (p : Nat) : Bool := p == h.pkg || (h.hang.xpkg && h.cut.xid == h.hang.cut && h.hang.reported.contains p)

/-- Condition of a class on a node (Table 09.5, classes 1, 2, 3 and 5). -/
def Hub.nodeClass (h : Hub) (es : List GEdge) (k n : Nat) : Bool :=
  let kind := nodeKind n
  let here := nodePkg n == h.pkg
  let u := nodeVal n
  let un := if here then h.hang.unobserved.contains u || !h.observed (unitStn u)
    else !h.reporting (nodePkg n) || es.any fun e => e.dst == n && bit e.flags 2
  let bare := kind == 1 && !holdsEdge es n
  let stopped := !here || h.frozen u
  match k with
  | 1 => kind == 3 && h.reporting (nodePkg n) && !es.any fun e => e.src == n && e.kind == 4
  | 2 => bare && !un && !stopped
  | 3 => (kind == 1 && un) || kind == 4 || (kind == 3 && !h.reporting (nodePkg n))
  | 5 => (bare && stopped) || (kind == 2 && !es.any fun e => e.src == n && e.kind == 3)
  | _ => false

/-- The hung record of a verdict context (Tables 09.5 and 09.8). -/
def Hub.hungRec (h : Hub) (es : List GEdge) (cs : List Nat) (v : Nat × Nat × Nat) : HungRec :=
  let n := ctxNode h.pkg v.1
  let r := n :: reachFrom es n
  let cyc := lowest ((r.map (cycleNo es cs)).filter (· != 0))
  let pick := fun k => lowest (r.filter (h.nodeClass es k))
  let mk := fun cls root cyc => ({ context := v.1, slice := v.2.1, cls := cls, idle := v.2.2, cycle := cyc, root := root } : HungRec)
  match cyc, pick 1, pick 2, pick 3 with
  | some c, _, _, _ => mk 0 (cs.getD (c - 1) 0) c
  | none, some x, _, _ => mk 1 x 0
  | none, none, some x, _ => mk 2 x 0
  | none, none, none, some x => mk 3 x 0
  | none, none, none, none =>
    let units := (es.filter fun e => e.src == n && e.kind == 3).map (·.dst)
    if !units.any (holdsEdge es) then mk 4 n 0 else mk 5 ((pick 5).getD 0) 0

/-! ## Slices of nodes and masking (R303) -/

/-- The slice in which a node lies. -/
def Hub.nodeSlice (h : Hub) (es : List GEdge) (n : Nat) : Nat :=
  let v := nodeVal n
  if nodePkg n = h.pkg ∧ nodeKind n ≠ 4 then
    match nodeKind n with
    | 1 => SMap.get 0 h.hang.unitMap v
    | 2 => (SMap.get {} (h.hang.walk.getD h.ctx) v).slice
    | _ => if fenceExported v then (h.fenceSlice v).getD 0 else SMap.get 0 h.hang.unitMap (fenceOwner v)
  else
    match (sortBy (·.1) h.hang.joined).find? fun x => (reachFrom es (ctxNode h.pkg x.1)).contains n with
    | some x => x.2.1
    | none => 0

/-- A masked edge (R296, R303). -/
def maskEdge (slice : Nat) (e : GEdge) : GEdge :=
  if e.kind = 1 ∧ slice ≠ 0 then { e with value := e.value - e.value % 2 ^ 54, flags := e.flags ||| 1 } else e

/-! ## The graph area (R302) -/

/-- An edge record of 40 bytes (Table 09.9). -/
def GEdge.bytes (e : GEdge) : List Byte :=
  leBytes 8 e.src ++ leBytes 8 e.dst ++ leBytes 8 e.value ++ leBytes 8 e.since ++ leBytes 1 e.kind ++ leBytes 1 e.flags ++ zeros 2
    ++ leBytes 4 e.cycle

/-- An edge record read back. -/
def edgeOf (b : List Byte) : GEdge :=
  { src := leAt b 0 8, dst := leAt b 8 8, value := leAt b 16 8, since := leAt b 24 8, kind := leAt b 32 1, flags := leAt b 33 1 }

/-- A hung record of 16 bytes (Table 09.8). -/
def HungRec.bytes (r : HungRec) : List Byte :=
  leBytes 4 (r.context + at_ r.slice 18 + at_ r.cls 24) ++ leBytes 2 r.idle ++ leBytes 2 r.cycle ++ leBytes 8 r.root

/-- Edges kept where they exceed the area: those reachable from hung contexts in breadth-first order first, then the others in order. -/
def keepEdges (cap : Nat) (hung : List Nat) (es : List GEdge) : List GEdge :=
  if es.length ≤ cap then es
  else
    let order := hung ++ reach es (es.length + 1) hung hung
    let first := dedup (order.flatMap fun n => es.filter fun e => e.src == n)
    let rest := es.filter fun e => !first.contains e
    sortBy edgeKey ((first ++ rest).take cap)

/-- Firkin offset and size of the graph area (Table 10.12). -/
def graphOff : Nat := 0x100000
def graphSize : Nat := 4194304

/-- What the graph reports of itself: the kept edges with their slices, the hung records, the cycles, and whether edges were dropped. -/
def Hub.graphOf (h : Hub) : List (Nat × GEdge) × List HungRec × List Nat × Bool :=
  let es := h.graphEdges false
  let cs := cycleList es
  let hung := (sortBy (·.1) h.hang.joined).map (h.hungRec es cs)
  let kept := keepEdges ((graphSize - 64 - 16 * hung.length) / 40) (hung.map fun r => ctxNode h.pkg r.context) es
  let num := fun (e : GEdge) =>
    let a := cycleNo es cs e.src
    if a ≠ 0 ∧ a = cycleNo es cs e.dst then { e with cycle := a } else e
  (kept.map fun e => (h.nodeSlice es e.src, num e), hung, cs, decide (kept.length < es.length))

/-- Packages that reported the cut and have sent no last message. -/
def Hub.missingPeers (h : Hub) : Bool :=
  h.hang.parent.isNone && h.hang.xpkg && (h.hang.noPeer || h.hang.reported.any fun p => p != h.pkg && h.reporting p && !h.hang.peersDone.contains p)

/-- The 64-byte header (Table 09.7). -/
def Hub.graphHeader (h : Hub) (es : List GEdge) (hung : List HungRec) (cycles : Nat) (trunc : Bool) (status : Nat) : List Byte :=
  let g := h.hang
  let flags := b2n (trunc || g.peerTrunc) + 2 * b2n g.cutPartial + 4 * b2n g.xpkg + 8 * b2n h.missingPeers
    + 16 * b2n (es.any fun e => bit e.flags 0)
  let count := fun k => (hung.filter fun r => r.cls == k).length
  leBytes 4 0x52474657 ++ leBytes 2 1 ++ leBytes 2 flags ++ leBytes 4 g.cut ++ leBytes 2 status ++ leBytes 2 hung.length ++ leBytes 8 g.cutTick
    ++ leBytes 8 h.now ++ leBytes 4 es.length ++ leBytes 4 cycles ++ (List.range 5).flatMap (fun k => leBytes 2 (count k))
    ++ leBytes 2 g.units ++ leBytes 2 g.unobserved.length ++ leBytes 2 (1 + g.peersDone.length)
    ++ leBytes 4 (64 + 16 * hung.length + 40 * es.length) ++ leBytes 2 (count 5) ++ zeros 2

/-- The edges a package sends toward the origin: those that name a node of another package, the kind-4 edges of its exported fences, and with
each of these its producer's kind-3 edges and the edges that leave the units they reach (R304, R518). -/
def sentEdges (p : Nat) (es : List GEdge) : List GEdge :=
  let base := fun (e : GEdge) => nodePkg e.src != p || nodePkg e.dst != p
  let prod := fun (e : GEdge) => e.kind == 4 && fenceExported (nodeVal e.src)
  let ctxs := (es.filter prod).map (·.dst)
  let runs := es.filter fun e => e.kind == 3 && ctxs.contains e.src
  let units := runs.map (·.dst)
  es.filter fun e => base e || prod e || runs.contains e || (decide (e.kind < 3) && units.contains e.src)

/-- The edge messages of a package, the last one marked. -/
def Hub.sendEdges (h : Hub) (l : Nat) (es : List GEdge) (trunc : Bool) : Hub :=
  let es := sentEdges h.pkg es
  let n := Nat.max 1 es.length
  (List.range n).foldl (fun h i =>
    let b := match es[i]? with | some e => ({ e with cycle := 0 } : GEdge).bytes | none => zeros 40
    h.linkSend l (graphMsg 0x25 0 (b2n (i + 1 == n) + 2 * b2n trunc) h.hang.cut h.pkg i b)) h

/-- Time at which the origin closes the exchange (R304). -/
def Hub.peersDue (h : Hub) : Bool := decide (h.hang.cutDone + 4000000 ≤ h.now)

/-- GRAPH_AREA_WRITE: the graph is built from what was collected, walked and received, and written: magic 0, records, header (R302). The
origin of a cross-package cut first waits for the exchange to close. -/
def Hub.graphWrite (h : Hub) : Hub :=
  let g := h.hang
  if !g.building || g.walk.isNone || !h.boot.pairRunning || (g.parent.isNone && g.xpkg && !h.peersDue) then h
  else
    let (es, hung, cs, trunc) := h.graphOf
    let masked := es.map fun x => maskEdge x.1 x.2
    let status := if trunc then stWfgTrunc else if h.missingPeers then stWfgNopeer else stOk
    let h := h.firkinWrite graphOff (zeros 4)
    let h := h.firkinWrite (graphOff + 64) (hung.flatMap HungRec.bytes ++ masked.flatMap GEdge.bytes)
    let h := h.firkinWrite graphOff (h.graphHeader masked hung cs.length trunc status)
    let h := { h with hang := { h.hang with
      building := false, graph := es, hung := hung, wfgCut := g.cut, wfgEdges := es.length, wfgStatus := 2 ^ 30 + status,
      jobs := if g.parent.isSome then h.hang.jobs.tail else h.hang.jobs } }
    let h := h.record { h.fwEvt 0x0403 with aux := cs.length, arg := g.cut, status := status, words := [es.length, hung.length, h.now] }
    match g.parent with
    | some l =>
      let l := ((h.cut.known.find? fun x => x.1 == g.cut).map Prod.snd).getD l
      let all := h.graphEdges true
      h.sendEdges l (all.map fun e => maskEdge (h.nodeSlice all e.src) e) trunc
    | none => h

/-! ## Across packages (R304) -/

/-- GRAPH_REQUEST_MESSAGE: relayed as the schedule was; the local graph is built next. During a warm restart the request completes with ST_BUSY, and no
graph is built of it (R115). -/
def Hub.graphRequest (h : Hub) (link : Nat) (b : List Byte) : Hub :=
  let id := leAt b 4 4
  if b.length ≠ 64 ∨ leAt b 0 1 ≠ 0x24 ∨ 32 ≤ link ∨ !h.nocUp ∨ cutPkg id = h.pkg ∨ h.hang.knownGraph.contains id then h
  else
    let g := h.hang
    let g := { g with knownGraph := (id :: g.knownGraph).take 64 }
    let g := if h.rst.st = 0 then { g with jobs := g.jobs ++ [(id, link)] } else { g with wfgStatus := g.wfgStatus / 2 ^ 16 * 2 ^ 16 + stBusy }
    ({ h.stampHub (linkStn link) with hang := g }).askGraph (leAt b 1 1 + 1) id

/-- GRAPH_EDGE_MESSAGE: merged at the origin, relayed toward it elsewhere. -/
def Hub.graphEdge (h : Hub) (link : Nat) (b : List Byte) : Hub :=
  let id := leAt b 4 4
  if b.length ≠ 64 ∨ leAt b 0 1 ≠ 0x25 ∨ 32 ≤ link ∨ !h.nocUp then h
  else
  let h := h.stampHub (linkStn link)
  if cutPkg id = h.pkg then
    if h.hang.building && h.hang.parent.isNone && h.hang.cut == id then
      let e := edgeOf (slice b 16 40)
      let fl := leAt b 2 2
      let p := leAt b 8 2 % 1024
      let g := h.hang
      { h with hang := { g with
        remote := if e.src = 0 then g.remote else g.remote ++ [{ e with flags := e.flags ||| 2 }],
        peersDone := if bit fl 0 ∧ !g.peersDone.contains p then g.peersDone ++ [p] else g.peersDone,
        peerTrunc := g.peerTrunc || bit fl 1 } }
    else h
  else match h.cut.known.find? fun x => x.1 == id with
    | some (_, l) => if l < 32 then h.linkSend l b else h
    | none => h

/-- GRAPH_PEER_TIMEOUT. -/
def Hub.graphPeerTimeout (h : Hub) : Hub :=
  if h.hang.building && h.hang.parent.isNone && h.hang.xpkg && h.peersDue && h.missingPeers then
    { h with hang := { h.hang with noPeer := true } }
  else h

end Sys2Proof.Machine
end

