-- ==== Sys2Proof/Machine/DumpPlan.lean ====
section
/-!
DEFINITION. Machine/DumpPlan.lean: what a dump and the crash core hold (R318 to R324, R331 to R333, R499): the hub register image, the slice
and context tables, unit entries, the segments of each class with their items, and the masked event-recorder tail.
-/
namespace Sys2Proof.Machine

/-! ## Items (R320) -/

def Piece.len : Piece → Nat
  | .bytes l => l.length
  | .die _ _ n => n
  | .hbm _ n => n

def piecesLen (l : List Piece) : Nat := l.foldl (fun a p => a + p.len) 0

/-- An item: its 16-byte header and its payload. -/
def item (type unit addr : Nat) (payload : List Piece) : List Piece :=
  .bytes (leBytes 2 type ++ leBytes 2 unit ++ leBytes 4 (piecesLen payload) ++ leBytes 8 addr) :: payload

/-- An item of bytes the hub holds, of no unit. -/
def itemBytes (type : Nat) (b : List Byte) : List Piece := item type noUnit 0 [.bytes b]

/-! ## The hub register image (item 0x0101, R499) -/

/-- Families the image leaves out. -/
def imageSkips (f : Fam) : Bool :=
  match f with
  | .msixTable | .msixPba | .erWin | .erFwBuf | .secKeyout | .secBuf | .slcUmap => true
  | _ => false

/-- Offsets of the listed registers of a block, ascending. -/
def imageOffsets (rows : List RegRow) : List Nat :=
  sortBy id ((rows.filter fun r => !imageSkips r.fam).flatMap fun r =>
    (List.range r.n).flatMap fun i => let o := r.base + i * r.stride; if r.pair then [o, o + 4] else [o])

/-- The listed registers of Table 17.3, ascending. -/
def imageList : List Nat :=
  [rowsHub, rowsTim, rowsSec, rowsCut, rowsDmp, rowsCe, rowsEr, rowsCnt, rowsTrc, rowsSpn, rowsTlm, rowsSlc].flatMap imageOffsets

/-- The image: 8,192 pairs of offset and value as the host window would return them to an operator, with no side effect. -/
def Hub.regImage (h : Hub) : List Byte :=
  let l := imageList
  (l.flatMap fun o => leBytes 4 o ++ leBytes 4 (h.wordAt .host o))
    ++ (List.replicate (8192 - l.length) (leBytes 4 0xFFFFFFFF ++ zeros 4)).flatten

/-! ## Tables and entries -/

/-- The 64 bytes of a slice entry in its active copy (Table 14.1, item 0x0102). -/
def Hub.sliceEntry (h : Hub) (s : Nat) : List Byte :=
  (List.range 16).flatMap fun k =>
    let o := slcOff s (4 * k)
    leBytes 4 (match locate o with
      | some l => if l.row.kind = .rws then h.act l.reset l.base else h.wordAt .host o
      | none => 0)

/-- A context entry of 16 bytes (item 0x0103). -/
def ctxEntry (c : Nat) (x : Ctx) : List Byte :=
  leBytes 4 (c + at_ x.slice 18 + at_ x.st.code 24) ++ leBytes 4 x.progress ++ leBytes 2 x.idle
    ++ leBytes 2 (Nat.min 0xFFFF (x.own.filter fun k => !k.started).length)
    ++ leBytes 4 (((x.own.find? (·.started)).map (·.tag)).getD 0)

/-- Context entries of every context ID: the listed ones with what they hold, the others free. -/
def ctxAll : Nat → Nat → List (Nat × Ctx) → List Byte
  | 0, _, _ => []
  | n + 1, c, [] => ctxEntry c {} ++ ctxAll n (c + 1) []
  | n + 1, c, (k, x) :: r => if c = k then ctxEntry c x ++ ctxAll n (c + 1) r else ctxEntry c {} ++ ctxAll n (c + 1) ((k, x) :: r)

/-- What a cut's report says of a unit (Table 10.10). -/
def Hub.outcome (h : Hub) (u : Nat) : Nat :=
  match h.cut.cuts.find? fun r => r.holding && h.inScope r u with
  | none => 0
  | some r =>
    let g := h.getGate u
    if r.bypassed.contains (unitStn u) then 5
    else if r.missing.any fun x => x.1 == unitStn u && bit x.2 (unitSub u) then 6
    else if g.cut != r.id then 3
    else g.result

/-- Slice of a unit at the tick of the cut that holds it; as it stands for a unit of no cut. -/
def Hub.cutSlice (h : Hub) (u : Nat) : Nat :=
  match h.cut.cuts.find? fun r => r.holding && h.inScope r u with
  | none => h.unitSlice u
  | some r => SMap.get 0 r.unitMap u

/-- A unit entry of 16 bytes (Table 10.10); `sl` gives the unit's slice. -/
def Hub.unitEntry (h : Hub) (sl : Nat → Nat) (u : Nat) : List Byte :=
  let g := h.getGate u
  let wait := match h.edgeSeen (unitStn u) (unitSub u) with | some e => e.edge.kind | none => 0
  let t := match g.st with | .run | .armed => 0 | _ => g.t
  leBytes 2 u ++ leBytes 1 (sl u) ++ leBytes 1 (unitClass u) ++ leBytes 1 g.st.code ++ leBytes 1 (h.outcome u) ++ leBytes 1 wait ++ [0]
    ++ leBytes 8 t

/-- The slots of the event store in ascending record sequence number. -/
def Hub.recordSlots (h : Hub) : List Nat :=
  sortBy (fun k => (leAt (SMap.get [] h.er.store k) 0 4 + 2 ^ 32 - h.er.seq) % 2 ^ 32) (SMap.keys h.er.store)

/-! ## The graph of a slice (class 2) -/

/-- The graph area as the Firkin holds it; empty where it holds none. -/
def graphArea (m : Mem) : List Byte :=
  let hdr := m.firkinRead graphOff 64
  if leAt hdr 0 4 = 0x52474657 then m.firkinRead graphOff (Nat.min graphSize (leAt hdr 56 4)) else []

/-- The edges of the graph that leave nodes of a slice, unmasked, with that slice's hung contexts, in the format of the graph area. -/
def Hub.sliceGraph (h : Hub) (m : Mem) (s : Nat) : List Byte :=
  let hdr := m.firkinRead graphOff 64
  let es := (h.hang.graph.filter fun e => e.1 == s).map (·.2)
  let hung := h.hang.hung.filter fun r => r.slice == s
  if leAt hdr 0 4 ≠ 0x52474657 ∨ (es.isEmpty ∧ hung.isEmpty) then []
  else
    let count := fun k => (hung.filter fun r => r.cls == k).length
    let flags := clearBits (leAt hdr 6 2) 16
    let hdr := patch hdr 6 (leBytes 2 flags)
    let hdr := patch hdr 14 (leBytes 2 hung.length)
    let hdr := patch hdr 32 (leBytes 4 es.length)
    let hdr := patch hdr 40 ((List.range 5).flatMap fun k => leBytes 2 (count k))
    let hdr := patch hdr 56 (leBytes 4 (64 + 16 * hung.length + 40 * es.length) ++ leBytes 2 (count 5))
    hdr ++ hung.flatMap HungRec.bytes ++ es.flatMap GEdge.bytes

/-! ## Outer segments (Table 10.2) -/

/-- Slice of a unit at the cut tick, at acceptance for a live dump (R320, Table 10.10). -/
def Dump.sliceOf (d : Dump) (u : Nat) : Nat := SMap.get 0 d.unitMap u

/-- Units of a slice in a dump. -/
def Dump.unitsOf (d : Dump) (s : Nat) : List Nat := allUnits.filter fun u => d.sliceOf u == s

/-- Units whose records class 4 holds. -/
def Hub.dumpUnits (h : Hub) (d : Dump) : List Nat :=
  let r := d.req
  if r.scope = 2 then sortBy id (((h.getCtx r.context).own.filter (·.started)).map (·.unit))
  else if r.scope = 1 then allUnits else d.unitsOf r.slice

/-- Contexts in scope. -/
def Hub.dumpCtxs (h : Hub) (r : DmpReq) : List Nat :=
  if r.scope = 2 then [r.context]
  else if r.scope = 1 then (h.ctx.filter fun c => c.2.st != .free).map Prod.fst else h.sliceCtxs r.slice

/-- Items of the outer segment of a class (R318). -/
def Hub.outerItems (h : Hub) (m : Mem) (d : Dump) (cls : Nat) : List Piece :=
  let r := d.req
  match cls with
  | 1 =>
    let ctxs := if r.scope = 1 then ctxAll contextCount 0 h.ctx else (h.dumpCtxs r).flatMap fun c => ctxEntry c (h.getCtx c)
    if r.scope = 2 then itemBytes 0x0102 (h.sliceEntry r.slice) ++ itemBytes 0x0103 ctxs
    else itemBytes 0x0101 h.regImage ++ itemBytes 0x0102 ((List.range 64).flatMap h.sliceEntry) ++ itemBytes 0x0103 ctxs
  | 2 => let g := graphArea m; if g.isEmpty then [] else itemBytes 0x0201 g
  | 4 =>
    let us := h.dumpUnits d
    let cs := h.dumpCtxs r
    let att := h.cnt.att.filter fun e => cs.contains (e.1 / 2 ^ 32)
    (if us.isEmpty then [] else itemBytes 0x0401 (us.flatMap fun u => (h.capture u).bytes))
      ++ if att.isEmpty then [] else itemBytes 0x0402 (att.flatMap fun e => attRecord (e.1 / 2 ^ 32) (e.1 % 2 ^ 32) e.2.f 0)
  | _ => []

/-! ## Slice segments (Table 10.2) -/

/-- Bytes of a unit's register image, by class (item 0x0501). -/
def regImageSize (cls : Nat) : Nat :=
  match cls with | 0 | 1 => 2048 | 2 => 4096 | 3 | 4 | 5 => 1024 | _ => 2048

/-- Bytes of a tile's scratch. -/
def scratchSize : Nat := 0x200000

/-- The active extents of a slice: base and size in units of 64 KiB (R432). -/
def Hub.extents (h : Hub) (s : Nat) : List (Nat × Nat) :=
  (List.range 4).map fun k => let v := h.act 0 (slcOff s (0x20 + 4 * k)); (field v 11 0, field v 28 16)

/-- Bytes of a tensor item at most (R321). -/
def tensorPiece : Nat := 2 ^ 31

/-- Set that the tensors of a format call for (Table 11.3). -/
def formatSet (f : Nat) : Nat := match f with | 5 | 6 => 1 | 7 => 2 | _ => 0

/-- Items of one tensor descriptor, each with the set its tensor bytes call for (R321); a descriptor that is not read gives an item of 32
bytes. -/
def Hub.tensorItems (h : Hub) (d : List Byte) : List (List Piece × Nat) :=
  let level := leAt d 5 1
  let addr := leAt d 8 8
  let len := leAt d 16 8
  let set := formatSet (leAt d 4 1)
  if 3 ≤ level ∨ addrPkg addr ≠ h.pkg then [(item 0x0801 noUnit 0 [.bytes d], set)]
  else
    (List.range (Nat.max 1 ((len + tensorPiece - 1) / tensorPiece))).map fun i =>
      let a := addr + i * tensorPiece
      let n := Nat.min tensorPiece (len - i * tensorPiece)
      let mem : Piece := if level = 2 then .hbm (addrOff a) n else .die (level + 1) (addrOff a) n
      (item 0x0801 noUnit a (if n = 0 then [.bytes d] else [.bytes d, mem]), set)

/-- Tensor table of a slice, in ascending address (R319, R321). -/
def Hub.tensorTable (h : Hub) (m : Mem) (s : Nat) : List (List Byte) :=
  let n := Nat.min 4096 (h.rwGet 0 (0x41008 + 0x10 * s) 0)
  let a := addrOff (h.rwGet 0 (0x41000 + 0x10 * s) 0)
  sortBy (fun d => leAt d 8 8) ((List.range n).map fun i => m.hbmRead (a + 32 * i) 32)

/-- Ranges of the stream of class 8 that hold tensor bytes, with their sets. -/
def tensorSpans : Nat → List (List Piece × Nat) → List (Nat × Nat × Nat)
  | _, [] => []
  | o, (p, set) :: r =>
    let n := piecesLen p
    (if n ≤ 48 then [] else [(o + 48, o + n, set)]) ++ tensorSpans (o + n) r

/-- Items of a slice segment. -/
def Hub.sliceItems (h : Hub) (m : Mem) (d : Dump) (cls s : Nat) : List Piece :=
  let r := d.req
  match cls with
  | 1 =>
    (allStations.filter capturing).flatMap fun t =>
      let es := (h.getStn t).cap.entries.filter fun e => e.slice == s && (decide (r.scope ≠ 2) || e.context == r.context)
      if es.isEmpty then [] else item 0x0104 (t * 8) 0 [.bytes (es.flatMap Capture.bytes)]
  | 2 => let g := h.sliceGraph m s; if g.isEmpty then [] else itemBytes 0x0201 g
  | 3 =>
    let pick := fun (b : List Byte) =>
      let sl := leAt b 0x22 1
      (decide (sl = s) || (decide (s = 0) && decide (sl = 255))) && (decide (r.scope ≠ 2) || decide (leAt b 0x28 4 = r.context + 2 ^ 31))
    let bs := (h.recordSlots.map h.slotBytes).filter pick
    if bs.isEmpty then [] else itemBytes 0x0301 bs.flatten
  | 5 => (d.unitsOf s).flatMap fun u => item 0x0501 u 0 [.die 0 u (regImageSize (unitClass u))]
  | 6 =>
    ((List.range 1024).filter fun t => d.sliceOf (t * 8) == s).flatMap fun t =>
      item 0x0601 (t * 8) (h.pkg * 2 ^ 54 + t * scratchSize) [.die 1 (t * scratchSize) scratchSize]
  | 7 =>
    ((sortBy Prod.fst (h.extents s)).filter fun e => e.2 != 0).flatMap fun e =>
      item 0x0701 noUnit (h.pkg * 2 ^ 54 + e.1 * 65536) [.die 2 (e.1 * 65536) (e.2 * 65536)]
  | 8 => ((h.tensorTable m s).flatMap h.tensorItems).flatMap Prod.fst
  | 9 =>
    let stns := if r.scope = 1 then allStations else allStations.filter fun t => (stnUnits t).any fun u => d.sliceOf u == s
    stns.flatMap fun t =>
      let p := (h.getStn t).peck
      let ps := (p.rsv.filter fun x => x.slice == s).flatMap Rsv.packet
        ++ (List.range 4).flatMap fun k => ((SMap.get {} p.part k).pkts.filter fun x => x.slice == s).flatMap (·.bytes)
      if ps.isEmpty then [] else item 0x0901 (t * 8) 0 [.bytes ps]
  | _ => []

/-- Transform set of a class but 8 (Table 11.3). -/
def classSet (cls : Nat) : Nat := if cls ≤ 4 ∨ cls = 8 then 0 else 3

/-! ## The plan (R315, R319, R323) -/

/-- Slices in scope of a dump, ascending. -/
def Hub.dumpSlices (h : Hub) (r : DmpReq) : List Nat := if r.scope = 1 then h.slices else [r.slice]

/-- Slice `s` is held STOPPED. -/
def Hub.heldStopped (h : Hub) (s : Nat) : Bool :=
  match h.cut.ofSlice s with | some r => r.stOf s == .stopped | none => false

/-- Status with which a slice segment is planned: policy first (R323); classes 5 to 9 of a slice that the dump's cut excluded, or that is no longer held
STOPPED, are not written (R315). -/
def Hub.segStatus (h : Hub) (d : Dump) (cls s : Nat) : Nat :=
  let p := h.dmpSpol s
  if !bit p 31 || !bit p cls then stDenied
  else if !d.req.live && decide (5 ≤ cls) && (bit d.excl s || !h.heldStopped s) then stDmpNotstopped
  else if d.gone.contains s then stAborted
  else stOk

/-- The planned segments, in the order in which they are written (R319). -/
def Hub.dumpPlan (h : Hub) (m : Mem) (d : Dump) : List Seg :=
  let r := d.req
  let mk := fun (cls s st : Nat) (p : List Piece) (sp : List (Nat × Nat × Nat)) =>
    if p.isEmpty then [] else
      [({ cls := cls, slice := s, status := st, raw := piecesLen p, pieces := if st = stOk then p else [], xform := classSet cls, spans := sp } : Seg)]
  (if r.live then [1, 2, 3, 4] else [1, 2, 3, 4, 5, 6, 7, 8, 9]).flatMap fun cls =>
    mk cls 255 stOk (h.outerItems m d cls) []
      ++ (d.slices.map (·.1)).flatMap fun s =>
        mk cls s (h.segStatus d cls s) (h.sliceItems m d cls s)
          (if cls = 8 then tensorSpans 0 ((h.tensorTable m s).flatMap h.tensorItems) else [])

/-- The set of a chunk of a segment (R365, Table 11.3). -/
def Seg.chunkSet (g : Seg) (off n : Nat) : Nat :=
  if g.cls ≠ 8 then g.xform
  else
    match (g.spans.filter fun x => decide (x.1 < off + n) && decide (off < x.2.1)).map (·.2.2) with
    | [] => 0
    | x :: r => if r.all (· == x) then x else 3

/-! ## The Firkin (R332, R333) -/

/-- Sizes and places of its parts (Table 10.12). -/
def coreOff : Nat := 0x1000
def coreSize : Nat := 1044480
def tailOff : Nat := 0x500000
def tailSize : Nat := 3145728
def tailRecords : Nat := 6144

/-- The control core. -/
def Hub.controlCore (h : Hub) (sl : Nat → Nat) : List Byte :=
  let it := fun (t : Nat) (b : List Byte) => leBytes 2 t ++ leBytes 2 noUnit ++ leBytes 4 b.length ++ zeros 8 ++ b
  it 0x0101 h.regImage ++ it 0x0105 (allUnits.flatMap (h.unitEntry sl))
    ++ it 0x0106 (h.hang.fifo.flatMap fun x => leBytes 4 (2 ^ 31 + at_ x.2 18 + x.1))

/-- The tail: the records with the highest sequence numbers, as the operator reads them. -/
def Hub.firkinTail (h : Hub) : List (List Byte) :=
  let l := h.recordSlots
  (l.drop (l.length - tailRecords)).map fun k => maskRecord (h.slotBytes k)

/-- A Firkin header (R333). -/
def Hub.firkinHeader (h : Hub) (state cause status object cut tail core first : Nat) : List Byte :=
  padTo 0x1000 (leBytes 4 0x4E4B5246 ++ leBytes 2 1 ++ leBytes 2 state ++ leBytes 2 cause ++ leBytes 2 status ++ leBytes 4 object
    ++ leBytes 4 cut ++ leBytes 4 tail ++ leBytes 8 h.now ++ padTo 16 h.boot.dieId ++ leBytes 4 core ++ leBytes 4 first)

/-- A crash core begins: the header's state is 1; a kept core is lost, with its record (R95, R335). -/
def Hub.firkinBegin (h : Hub) (m : Mem) (cause : Nat) : Hub :=
  let h := if h.boot.kept then
      ({ h with boot := { h.boot with kept := false } }).record { h.evt 6 0x0605 with aux := cause, arg := leAt (m.firkinRead 0xC 4) 0 4 }
    else h
  h.firkinWrite 0 (leBytes 4 0x4E4B5246 ++ leBytes 2 1 ++ leBytes 2 1)

/-- A crash core ends: control core, tail, every other header field, then state 2 (R335). -/
def Hub.firkinEnd (h : Hub) (sl : Nat → Nat) (cause status object cut : Nat) : Hub :=
  let core := h.controlCore sl
  let tail := h.firkinTail
  let first := leAt (tail.headD []) 0 4
  let h := (h.firkinWrite coreOff (padTo coreSize core)).firkinWrite tailOff (padTo tailSize tail.flatten)
  h.firkinWrite 0 (h.firkinHeader 2 cause status object cut tail.length core.length first)

end Sys2Proof.Machine
end

