-- ==== Sys2Proof/Machine/Dump.lean ====
section
/-!
DEFINITION. Machine/Dump.lean: the dump engine (R314 to R317, R322, R328 to R335): requests, the states of Table 10.6, its jobs in the
compression engines, chunk records and their seal, the manifest, and the Firkin write of a dump.
-/
namespace Sys2Proof.Machine

/-! ## Small parts -/

def Hub.updDump (h : Hub) (f : Dump → Dump) : Hub := { h with dmp := { h.dmp with cur := h.dmp.cur.map f } }
def Hub.updDmpM (h : Hub) (m : Master) (f : DmpM → DmpM) : Hub := { h with dmp := { h.dmp with m := SMap.upd {} h.dmp.m m.idx f } }
def Hub.updBank (h : Hub) (b : Nat) (f : Bank → Bank) : Hub := { h with ce := { h.ce with bank := SMap.upd {} h.ce.bank b f } }
def Hub.updJobRes (h : Hub) (b : Nat) (m : Master) (f : JobRes → JobRes) : Hub :=
  { h with ce := { h.ce with job := SMap.upd {} h.ce.job (b * 4 + m.idx) f } }

/-- The oldest job is over: its chunk is written. -/
def Hub.noJob (h : Hub) : Hub := { h with dmp := { h.dmp with jobs := h.dmp.jobs.tail } }

/-- Bytes of the manifest record (R331). -/
def manifestSize : Nat := 262144

/-- Bytes of a chunk (R322). -/
def chunkSize : Nat := 1048576

/-- Active CE_CTL of a bank (R376). -/
def Hub.ceCtl (h : Hub) (b : Nat) : Nat := h.act 0x80000000 (0x50000 + 0x4000 * b)

/-- Bytes of the longest chunk record: every block raw, sealed (R322, R358). -/
def recordMax : Nat := 1049088

/-- Output limit of a chunk's job: F - 32 - g, with F the free space in whole units of 64 bytes, as records take it (R326, R355). -/
def Hub.chunkLimit (h : Hub) (sealed_ : Bool) : Nat := h.tunFree / 64 * 64 - 32 - (if sealed_ then 16 else 0)

/-- Bytes of the record of a chunk with `out` bytes of blocks. -/
def chunkLen (sealed_ : Bool) (out : Nat) : Nat := roundUp 64 (32 + out + if sealed_ then 16 else 0)

/-- Dump key and key_id of a slice (Table 13.4); slice 0 and outer segments have none. -/
def Hub.dumpKey (h : Hub) (s : Nat) : List Byte := if s = 0 ∨ s = 255 then [] else padTo 32 (h.getKeys s).cur.dump

/-! ## Jobs in the compression engines (R354, R355, Table 11.5) -/

/-- A register job ends: its master's copies take the status and the counts. -/
def Hub.regJobEnd (h : Hub) (b status : Nat) : Hub :=
  let k := SMap.get {} h.ce.bank b
  match k.owner with
  | none => h
  | some m =>
    (h.updJobRes b m fun j => { j with busy := false, status := status, in_ := k.inDone, out := k.outDone }).updBank b fun k =>
      { k with busy := false, owner := none, decode := false, block := 0 }

/-- The bank that takes the engine's next job: round robin over the enabled ones. -/
def Hub.nextBank (h : Hub) : Nat :=
  (((List.range 4).map fun i => (h.ce.rr + i) % 4).find? fun b => bit (h.ceCtl b) 31).getD 0

/-- The next chunk may start: no other chunk is in the engines, or the next bank is free and the free space takes the record of every chunk in the engines,
of this one and a filler at their longest, so that no output limit binds. Near the end of the space the engines therefore work one at a time, and F
counts every earlier record (R354, R355; log entry 88). -/
def Hub.chunkMayStart (h : Hub) (quiet : Bool) : Bool :=
  let n := h.dmp.jobs.length
  decide (n = 0) || (decide (n < 4) && !(h.dmp.jobs.any fun j => j.bank == h.nextBank && j.ended.isNone)
    && (quiet || decide ((n + 2) * recordMax ≤ h.tunFree)))

/-- The dump engine starts a job; a register job in the bank ends with ST_ABORTED first. -/
def Hub.startJob (h : Hub) (watch quiet : Bool) (seg off len set : Nat) (key : List Byte) : Hub :=
  let b := h.nextBank
  let h := h.regJobEnd b stAborted
  let j : Job := { bank := b, seg := seg, watch := watch, off := off, len := len, limit := h.chunkLimit (!key.isEmpty), xform := set,
                   raw := bit (h.ceCtl b) 30, quiet := quiet }
  let h := h.updBank b fun k => { k with busy := true, owner := none, decode := false, block := 0 }
  { h with dmp := { h.dmp with jobs := h.dmp.jobs ++ [j] }, ce := { h.ce with rr := (b + 1) % 4 } }

/-- The oldest chunk runs through its bank once more, after a filler that its record needed (R326, R355; DESIGN CHOICE, log entry 88); the chunks
behind it start again later. -/
def Hub.rerun (h : Hub) (j : Job) (key : List Byte) (len : Nat) : Hub :=
  let before := h.tunFree
  let h := (((h.dropJobs fun _ => true).tunFiller (h.tunGap len)).tunLow before).regJobEnd j.bank stAborted
  let j := { j with limit := h.chunkLimit (!key.isEmpty), inDone := 0, blocks := 0, out := [], seen := [], ended := none, late := false }
  let h := h.updBank j.bank fun k => { k with busy := true, owner := none, decode := false, block := 0 }
  { h with dmp := { h.dmp with jobs := [j] }, ce := { h.ce with rr := (j.bank + 1) % 4 } }

/-- The record of an ended chunk has no room with the filler it needs. -/
def Hub.misfits (h : Hub) (j : Job) (key : List Byte) : Bool :=
  !j.quiet && decide (j.inDone ≠ 0) && !h.tunFits (chunkLen (!key.isEmpty) j.out.length)

/-- Transform set of a watch (Table 11.3). -/
def Firing.set (f : Firing) : Nat := formatSet f.format

/-- The watch firing that is being read: the head of the FIFO (R343). -/
def Hub.reading (h : Hub) : Option Firing :=
  match h.dmp.fires with
  | [] => none
  | f :: _ => if (h.getWatch f.slot).st = .reading then some f else none

/-- The first segment from index `i` on that still has bytes to write. -/
def nextSeg (l : List Seg) (i : Nat) : Option Nat :=
  (firstIdx (fun (g : Seg) => g.status == stOk && decide (g.written < g.raw)) (l.drop i)).map (· + i)

/-- Where a dump's next chunk begins, behind those in the engines: a segment and an offset in its stream (R319, R322). -/
def Dump.nextChunk (d : Dump) (jobs : List Job) : Option (Nat × Nat) :=
  let fresh := fun i => (nextSeg d.segs i).map fun i => (i, (d.segs.getD i default).written)
  match jobs.getLast? with
  | none => fresh 0
  | some j =>
    let g := d.segs.getD j.seg default
    if g.status = stOk ∧ j.off + j.len < g.raw then some (j.seg, j.off + j.len) else fresh (j.seg + 1)

/-- Tensor offset at which a firing's next chunk begins. -/
def Firing.nextOff (f : Firing) (jobs : List Job) : Nat := match jobs.getLast? with | none => f.read | some j => j.off + j.len

/-- Dump key with which a slice's segments are sealed. -/
def Dump.keyOf (d : Dump) (s : Nat) : List Byte := match d.slices.find? fun x => x.1 == s with | some x => x.2.2.2.1 | none => []

/-- A dump leaves STREAM: with a status, the segments that it leaves unwritten take the status `rest`. -/
def Hub.endStream (h : Hub) (status rest : Nat) : Hub :=
  let f := fun (g : Seg) => if g.status = stOk ∧ g.written < g.raw then { g with status := rest } else g
  let h := h.updDump fun d => { d with status := if status = stOk then d.status else status, aborted := d.aborted || status == stAborted, segs := d.segs.map f }
  { h with dmp := { h.dmp with st := .finish } }

/-- One more chunk enters the engines, of a dump in STREAM or of a watch that reads, if there is one and it may start. -/
def Hub.startNext (h : Hub) : Hub :=
  match h.dmp.st with
  | .stream =>
    match h.dmp.cur with
    | none => h
    | some d =>
      match d.nextChunk h.dmp.jobs with
      | none => h
      | some (i, off) =>
        if d.stop || !h.chunkMayStart false then h
        else
          let g := d.segs.getD i default
          let n := Nat.min chunkSize (g.raw - off)
          (h.updDump fun d => { d with cur := i, off := off }).startJob false false i off n (g.chunkSet off n) (d.keyOf g.slice)
  | .idle =>
    match h.reading with
    | none => h
    | some f =>
      let off := f.nextOff h.dmp.jobs
      if f.len ≤ off ∨ !h.chunkMayStart (f.kind == 1) then h
      else h.startJob true (f.kind == 1) 0 off (Nat.min chunkSize (f.len - off)) f.set f.key
  | _ => h

/-- At a chunk boundary the engine goes on: the next chunks enter the four banks, and a dump in STREAM that has no more ends (R322, R328, R343). -/
def Hub.goOn (h : Hub) : Hub :=
  let h := (((h.startNext).startNext).startNext).startNext
  if h.dmp.st = .stream ∧ h.dmp.jobs = [] then
    match h.dmp.cur with
    | none => h
    | some d => if d.stop then h.endStream stAborted stAborted else h.endStream stOk stOk
  else h

/-! ## Requests (R314 to R317, R347) -/

/-- The dump that a request accepted at this tick asks for: one of cause 1 is live unless its cut is STOPPED, and it keeps the keys of its acceptance
(R314, R315, R415). -/
def Hub.dumpOf (h : Hub) (r : DmpReq) : Dump :=
  let c : Option CutRec := if r.live then none else if r.scope = 1 then h.cut.dieCut else h.cut.ofSlice r.slice
  let c : Option CutRec := match c with | some x => if r.cause = 1 ∧ x.st ≠ .stopped then none else some x | none => none
  let r := { r with live := c.isNone }
  let sl := (h.dumpSlices r).map fun s =>
    let k := (h.getKeys s).cur
    (s, b2n (decide (s ≠ 0)) + 2 * b2n (bit (h.dmpSpol s) 31) + 4 * b2n (match c with | some c => bit c.excl s | none => false),
      (match c with | some c => SMap.get 0 c.pasids s | none => (h.getSlice s).pasid), h.dumpKey s, if s = 0 then 0 else k.keyId)
  { req := r, unitMap := (match c with | some c => c.unitMap | none => h.slc.unit), start := h.now, cut := (c.map (·.id)).getD 0, cutTick := (c.map (·.t)).getD 0,
    cutPartial := (c.map fun c => c.status == stPartial).getD false, excl := (c.map (·.excl)).getD 0, slices := sl }

/-- A dump enters PLAN (Table 10.6). Watches pause at their chunk boundary. -/
def Hub.dumpBegin (h : Hub) (d : Dump) : Hub :=
  let h := { h with dmp := { h.dmp with st := .plan, cur := some d, prog := 0 } }
  match h.reading with
  | some f => if h.dmp.jobs ≠ [] then h else h.updWatch f.slot fun s => { s with st := .paused }
  | none => h

/-- The cut of the hang sequence, if the engine still holds it, and the scope of a cause-1 dump. -/
def Hub.seqScope (h : Hub) : Option CutRec × Bool × Nat :=
  let q := h.hang.seq
  match h.cut.byId q.cut with
  | some r => (some r, r.die, r.slice)
  | none => (none, q.die, q.slice)

/-- A write of DMP_REQ (R314 to R316, R347, R519). -/
def Hub.dumpReq (h : Hub) (m : Master) (v : Nat) : Hub :=
  let say := fun (st : Nat) => h.updDmpM m fun x => { x with status := st, running := false }
  let scope := field v 30 29
  let hang := decide (m = .pair) && decide (h.hang.seq.step = 5)
  let ctx := h.rwGet 0 0x40004 m.idx
  if !bit v 31 then h
  else if scope = 3 then say stDenied
  else if h.rst.st ≠ 0 then say stBusy
  else
    let cause := if hang then 1 else if scope = 2 then 3 else 2
    let (c, die, sl) := h.seqScope
    let r : DmpReq :=
      if hang then
        { owner := m, cause := 1, scope := b2n die, slice := if die then 0 else sl, context := 0,
          live := match c with | some c => c.st != .stopped | none => true, object := 0 }
      else
        { owner := m, cause := cause, scope := scope, slice := if scope = 2 then (h.getCtx ctx).slice else if scope = 1 then 0 else v % 64,
          context := if scope = 2 then ctx else 0, live := bit v 28 || decide (scope = 2), object := 0 }
    let held := if r.scope = 1 then (match h.cut.dieCut with | some c => c.st == .stopped | none => false) else h.heldStopped r.slice
    if cause = 2 ∧ r.scope = 0 ∧ !h.sliceExists r.slice then say stNoslice
    else if cause = 3 ∧ (h.getCtx ctx).st = .free then say stNocontext
    else if h.dmp.st ≠ .idle then
      let lower := match h.dmp.cur with | some d => decide (d.req.cause ≠ 1) | none => false
      if cause = 1 ∧ h.dmp.next.isNone ∧ lower = true then
        let (o, h) := h.newObject
        let h := (h.updDmpM m fun _ => ⟨stOk, o, true⟩).updDump fun d => { d with stop := true }
        { h with dmp := { h.dmp with next := some (h.dumpOf { r with object := o }) }, hang := { h.hang with seq := { h.hang.seq with object := o } } }
      else say stBusy
    else if cause = 2 ∧ !r.live ∧ !held then say stDmpNotstopped
    else
      let (o, h) := h.newObject
      let h := h.updDmpM m fun _ => ⟨stOk, o, true⟩
      let h := if cause = 1 then { h with hang := { h.hang with seq := { h.hang.seq with object := o } } } else h
      h.dumpBegin (h.dumpOf { r with object := o })

/-! ## PLAN (Table 10.6) -/

/-- The Firkin write of a slice or die dump begins (R335). -/
def Hub.dumpFirkin (h : Hub) (m : Mem) (d : Dump) : Hub :=
  if d.req.scope = 2 then h
  else
    let h := h.firkinBegin m d.req.cause
    { h with dmp := { h.dmp with fk := some (d.req.cause, d.req.object, d.cut) } }

/-- DUMP_PLAN_DONE, once no watch has a chunk in an engine: the segments and unit entries are fixed, and the manifest record is reserved; without room for it, or without the HVC path,
the dump goes to FINISH (R328, R510). -/
def Hub.dumpPlanDone (h : Hub) (m : Mem) : Hub :=
  match h.dmp.st, h.dmp.cur with
  | .plan, some d =>
    if h.dmp.jobs ≠ [] then h
    else if !h.nocUp ∨ !h.tunFits manifestSize ∨ h.tunData = 0 then
      let st := if h.nocUp then stDmpNotun else stHubNonoc
      let h := h.updDump fun d => { d with notun := true, status := st }
      ({ h with dmp := { h.dmp with st := .finish } }).dumpFirkin m d
    else
      let us := if d.req.scope = 2 then [] else h.dumpUnits d
      let segs := h.dumpPlan m d
      let ub := us.flatMap (h.unitEntry d.sliceOf)
      let hdr := tunHeader 1 0 255 0 d.req.object 0 0 manifestSize 0
      let h := h.tunReserve manifestSize hdr true
      let pos := h.tunLast manifestSize
      let h := h.updDump fun d => { d with
        segs := segs, units := us.length, unitBytes := ub, man := pos, out := manifestSize, rawTotal := segs.foldl (fun a g => a + g.raw) 0 }
      (({ h with dmp := { h.dmp with st := .stream } }).dumpFirkin m d).goOn
  | _, _ => h

/-! ## STREAM -/

/-- The chunk of the job that has ended becomes a record of the dump (R322, R330). -/
def Hub.dumpRecord (h : Hub) (d : Dump) (j : Job) (partial_ : Bool) : Hub :=
  if j.inDone = 0 then h
  else
    let g := d.segs.getD j.seg default
    let key := d.keyOf g.slice
    let last := decide (j.off + j.inDone = g.raw)
    let (pos, len, h) := h.chunkRecord key g.cls g.slice (2 * b2n last + 8 * b2n partial_) d.req.object d.chunk j.off j.inDone j.out
    h.updDump fun d => { d with
      chunk := d.chunk + 1, out := d.out + len,
      segs := modAt d.segs j.seg fun g => { g with
        chunks := g.chunks + 1, written := g.written + j.inDone, pos := if g.chunks = 0 then pos else g.pos } }

/-- The oldest job, once it has ended, if it is a dump's. -/
def Hub.dumpJob (h : Hub) : Option (Dump × Job × Nat) :=
  match h.dmp.cur, h.dmp.jobs with
  | some d, j :: _ => if j.watch then none else j.ended.map fun st => (d, j, st)
  | _, _ => none

/-- A chunk of a dump whose record needs a filler first that leaves it too little room. -/
def Hub.dumpMisfit (h : Hub) (d : Dump) (j : Job) : Bool := h.misfits j (d.keyOf (d.segs.getD j.seg default).slice)

/-- Such a chunk runs again. -/
def Hub.dumpRerun (h : Hub) (d : Dump) (j : Job) : Hub :=
  let key := d.keyOf (d.segs.getD j.seg default).slice
  h.rerun j key (chunkLen (!key.isEmpty) j.out.length)

/-- Segment `i` closes as partial (R330, R369). -/
def Hub.segPartial (h : Hub) (i : Nat) : Hub :=
  h.updDump fun d => { d with segs := modAt d.segs i fun g => { g with status := if g.status = stOk then stPartial else g.status } }

/-- A chunk of a dump is written; a job that a raw block's check ended closes its segment as partial (R369). -/
def Hub.dumpChunk (h : Hub) : Hub :=
  match h.dumpJob with
  | some (d, j, st) =>
    if st = stPartial ∨ !h.nocUp then h
    else if h.dumpMisfit d j then h.dumpRerun d j
    else
      let bad := decide (st ≠ stOk)
      let h := (h.dumpRecord d j bad).noJob
      let h := if bad then
          ((h.segPartial j.seg).dropJobs fun x => x.seg == j.seg).updDump fun d => { d with status := stPartial }
        else h
      h.goOn
  | none => h

/-- DUMP_TUN_FULL: the engine stopped with counts (R330). -/
def Hub.dumpFull (h : Hub) : Hub :=
  match h.dumpJob with
  | some (d, j, st) =>
    if st ≠ stPartial ∨ !h.nocUp then h
    else if h.dumpMisfit d j then h.dumpRerun d j
    else
      let h := (h.dumpRecord d j true).dropJobs fun _ => true
      if d.stop then h.goOn
      else
        let h := (h.segPartial j.seg).updDump fun d => { d with truncated := true }
        h.endStream stPartial stDmpOmitted
  | none => h

/-- A slice in scope is destroyed or reset: its segments end at the chunk boundary (Table 10.6). -/
def Hub.dumpSliceGone (h : Hub) (s : Nat) : Hub :=
  let h := { h with dmp := { h.dmp with next := h.dmp.next.map fun (d : Dump) => { d with gone := d.gone ++ [s] } } }
  match h.dmp.st with
  | .plan | .stream =>
    h.updDump fun d => { d with
      gone := d.gone ++ [s], segs := d.segs.map fun g => if g.slice = s ∧ g.status = stOk ∧ g.written < g.raw then { g with status := stAborted } else g }
  | _ => h

/-- Restart tick W: a running dump ends at its next chunk boundary (R316, Table 03.13). -/
def Hub.dumpStop (h : Hub) : Hub :=
  match h.dmp.st with
  | .plan | .stream => (h.updDump fun d => { d with stop := true }).goOn
  | _ => h

/-! ## FINISH and SIGN (R331) -/

/-- Every planned segment that policy and the cut allowed is written whole. -/
def Dump.complete (d : Dump) : Bool :=
  d.status == stOk && d.segs.all fun g => g.status == stDenied || g.status == stDmpNotstopped || g.written == g.raw

/-- A directory entry of the manifest (Table 10.9). -/
def Seg.entry (g : Seg) : List Byte :=
  leBytes 1 g.cls ++ leBytes 1 g.slice ++ leBytes 2 g.status ++ leBytes 4 g.chunks ++ leBytes 8 g.raw ++ leBytes 8 g.written ++ leBytes 8 g.pos

/-- Raw bytes written. -/
def Dump.rawWritten (d : Dump) : Nat := d.segs.foldl (fun a g => a + g.written) 0

/-- A slice entry of the manifest (Table 10.8). -/
def Dump.sliceRow (d : Dump) (x : Nat × Nat × Nat × List Byte × Nat) : List Byte :=
  let mine := d.segs.filter fun g => g.slice == x.1
  leBytes 1 x.1 ++ leBytes 1 x.2.1 ++ zeros 2 ++ leBytes 4 x.2.2.1 ++ leBytes 8 x.2.2.2.2 ++ leBytes 8 (mine.foldl (fun a g => a + g.raw) 0)
    ++ leBytes 8 (mine.foldl (fun a g => a + g.written) 0)

/-- The manifest with its signature bytes 0 (Tables 10.7 to 10.10). -/
def Hub.manifest (h : Hub) (d : Dump) : List Byte :=
  let n := d.slices.length
  let dir := 256 + 32 * n
  let units := dir + 32 * d.segs.length
  let len := units + 16 * d.units
  let flags := b2n d.complete + 2 * b2n d.truncated + 4 * b2n d.cutPartial + 8 * b2n d.req.live + 16 * b2n d.firkin + 32 * b2n d.aborted
  padTo 256 (leBytes 4 0x504D5544 ++ leBytes 2 1 ++ leBytes 2 flags ++ leBytes 4 d.req.object ++ leBytes 2 d.req.cause ++ leBytes 2 d.status
      ++ leBytes 4 d.cut ++ leBytes 1 d.req.scope ++ leBytes 1 (if d.req.scope = 1 then 0 else d.req.slice) ++ leBytes 2 n
      ++ leBytes 4 (if d.req.scope = 2 then d.req.context else 0) ++ leBytes 4 d.segs.length ++ padTo 16 h.boot.dieId ++ leBytes 8 d.start
      ++ leBytes 8 d.endTick ++ leBytes 8 d.cutTick ++ leBytes 8 (h.calendar d.start) ++ leBytes 2 h.cal.gen ++ leBytes 2 d.units
      ++ leBytes 4 len ++ leBytes 8 d.rawTotal ++ leBytes 8 d.rawWritten ++ leBytes 8 d.out ++ leBytes 4 256 ++ leBytes 4 dir ++ leBytes 4 units)
    ++ d.slices.flatMap d.sliceRow ++ d.segs.flatMap Seg.entry ++ d.unitBytes

/-- The Firkin write of the running dump has not ended. -/
def Hub.dumpFkBusy (h : Hub) (d : Dump) : Bool := match h.dmp.fk with | some (_, o, _) => o == d.req.object | none => false

/-- DUMP_FINISH: every record is acknowledged, and the Firkin is written; the tick of the last acknowledgement is the end tick. -/
def Hub.dumpFinish (h : Hub) : Hub :=
  match h.dmp.st, h.dmp.cur with
  | .finish, some d =>
    let open_ := h.dmp.recs.any fun r => !r.done && !r.manifest
    if h.dumpFkBusy d || (open_ && h.nocUp) then h
    else
      let h := h.updDump fun d => { d with endTick := if d.endTick = 0 then h.now else d.endTick }
      { h with dmp := { h.dmp with st := .sign } }
  | _, _ => h

/-- The directory entry of a dump (R325). -/
def Hub.dumpEntry (h : Hub) (d : Dump) : Hub :=
  h.tunDirectory { object := d.req.object, typ := 1, flags := b2n d.complete + 2 * b2n (d.truncated || d.status == stPartial), status := d.status, pos := d.man,
                   bytes := d.out, endTick := d.endTick, rawTotal := d.rawTotal, rawWritten := d.rawWritten }

/-- The manifest record and the directory entry are written (R331, R325). A dump that the Tun had no room for has no manifest, a dump that the HVC path cut short
neither (Table 10.6, R510). -/
def Hub.dumpManifest (h : Hub) (d : Dump) : Hub :=
  if !h.nocUp then h
  else if d.notun then (if d.status = stDmpNotun ∧ h.tunData ≠ 0 then h.dumpEntry d else h)
  else
    let man := h.manifest d
    let sig := padTo 96 (Config.ecdsaSign h.boot.diePriv (sha384 man))
    let h := h.tunBody d.man (padTo (manifestSize - 32) (patch man 0xA0 sig))
    let h := h.hbmWrite (h.tunAddr d.man) (tunHeader 1 0 255 0 d.req.object 0 0 manifestSize 0)
    let h := ({ h with dmp := { h.dmp with recs := h.dmp.recs.map fun (r : TunRec) => if r.manifest then { r with done := true } else r } }).tunSettle
    (h.dumpEntry d).attnSet 7

/-- Watches that a dump paused go on. -/
def Hub.watchesGo (h : Hub) : Hub :=
  match h.dmp.fires with
  | [] => h
  | f :: _ => (if (h.getWatch f.slot).st = .paused then h.updWatch f.slot fun s => { s with st := .reading } else h).goOn

/-- DUMP_SIGNED: manifest, directory entry, interrupt, record 0x0601; the engine is IDLE, and a cause-1 dump that waits begins (R316). -/
def Hub.dumpSigned (h : Hub) : Hub :=
  match h.dmp.st, h.dmp.cur with
  | .sign, some d =>
    let h := (h.dumpManifest d).irqRaise 5
    let h := { h with dmp := { h.dmp with st := .idle, cur := none } }
    let h := h.updDmpM d.req.owner fun x => if x.running ∧ x.object = d.req.object then { x with status := d.status, running := false } else x
    let h := h.record { h.evt 6 0x0601 with
      slice := if d.req.scope = 1 then 255 else d.req.slice, ctx := if d.req.scope = 2 then some d.req.context else none,
      status := d.status, aux := d.req.cause, arg := d.req.object, words := [d.rawWritten, d.out] }
    match h.dmp.next with
    | some n => ({ h with dmp := { h.dmp with next := none } }).dumpBegin n
    | none => h.watchesGo
  | _, _ => h

/-- FIRKIN_WRITE_DONE: the crash core of a dump is whole (R335). -/
def Hub.firkinDone (h : Hub) : Hub :=
  match h.dmp.fk with
  | none => h
  | some (cause, o, cut) =>
    let mine := h.dmp.cur.filter fun d => d.req.object == o
    let st := match mine with | some d => d.status | none => stOk
    let h := h.firkinEnd (match mine with | some d => d.sliceOf | none => h.cutSlice) cause st o cut
    let h := h.updDump fun d => { d with firkin := d.firkin || d.req.object == o }
    { h with dmp := { h.dmp with fk := none } }

/-- The HVC path goes down (R510): a dump in STREAM ends with ST_ABORTED and no manifest; register jobs and watches end with ST_ABORTED. -/
def Hub.dumpPathDown (h : Hub) : Hub :=
  let h := if h.dmp.st = .stream then
      ((h.dropJobs fun j => !j.watch).updDump fun d => { d with notun := true }).endStream stAborted stAborted
    else h
  let h := (List.range 4).foldl (fun h b => h.regJobEnd b stAborted) h
  (h.dmp.fires.map (·.slot)).foldl (fun h w => h.watchEnd w .spent stAborted) h

end Sys2Proof.Machine
end

