-- ==== Sys2Proof/Machine/Watch.lean ====
section
/-!
DEFINITION. Machine/Watch.lean: tensor watches (R337 to R345) and the compression engines (R354 to R373): serving a firing, its chunks, its
summary and its end; blocks released by a bank, and register jobs.
-/
namespace Sys2Proof.Machine

/-! ## Reading a job's input -/

/-- `n` bytes of a die memory from offset `off` on: those the die returned, then free values for what it did not. -/
def dieBytes (space at_ off n k : Nat) (raw : List Byte) : List Byte :=
  raw.take n ++ (List.range (n - raw.length)).map fun i => Config.dieByte space at_ (off + raw.length + i) k

/-- `n` bytes of a segment's stream from offset `off` on; `raw` are the bytes the die returned, in order. -/
def readPieces (m : Mem) (k : Nat) : List Piece → Nat → Nat → List Byte → List Byte
  | [], _, _, _ => []
  | p :: r, off, n, raw =>
    if n = 0 then []
    else if p.len ≤ off then readPieces m k r (off - p.len) n raw
    else
      let t := Nat.min n (p.len - off)
      match p with
      | .bytes l => (l.drop off).take t ++ readPieces m k r 0 (n - t) raw
      | .hbm a _ => m.hbmRead (a + off) t ++ readPieces m k r 0 (n - t) raw
      | .die s a _ => dieBytes s a off t k raw ++ readPieces m k r 0 (n - t) (raw.drop t)

/-- The tensor of a firing as one piece (R341). -/
def Firing.piece (f : Firing) : Piece :=
  if f.level = 2 then .hbm (addrOff f.addr) f.len else .die (f.level + 1) (addrOff f.addr) f.len

/-! ## The summary (R345, R371) -/

/-- Histogram base as a signed number. -/
def Firing.baseInt (f : Firing) : Int := if 128 ≤ f.base then (f.base : Int) - 256 else f.base

/-- One element joins a summary. -/
def Firing.count (f : Firing) (e : Elem) : Firing :=
  let f := { f with elements := f.elements + 1 }
  match e with
  | .nan => { f with nan := f.nan + 1 }
  | e =>
    let v := e.fp32
    let a := v % 2 ^ 31
    let ext := match f.ext with
      | none => (v, v, a)
      | some (lo, hi, ab) => (if fp32Key v < fp32Key lo then v else lo, if fp32Key hi < fp32Key v then v else hi, Nat.max ab a)
    let z := match e with | .zero => 1 | _ => 0
    let i := match e with | .inf _ => 1 | _ => 0
    { f with zero := f.zero + z, inf := f.inf + i, ext := some ext, hist := SMap.upd 0 f.hist (binOf f.baseInt f.width e) (· + 1) }

/-- Bytes join a summary group by group; a group that is not whole waits for the next bytes (R371). -/
def Firing.feed (f : Firing) (b : List Byte) : Firing :=
  let g := fmtGroup f.format
  let all := f.carry ++ b
  let n := all.length / g
  let f := { f with carry := all.drop (n * g) }
  ((chunksOf g n (all.take (n * g))).flatMap (groupOf f.format)).foldl Firing.count f

/-! ## Blocks (R366 to R369, Table 11.5) -/

/-- What a bank counts for a release, and the records of its failed checks; `reg` for a register job. -/
def Hub.ceCount (h : Hub) (b : Nat) (reg : Bool) (arg index : Nat) (r : Release) : Hub :=
  let o := 0x5001C + 0x4000 * b
  let h := h.updBank b fun k => { k with
    in_ := (k.in_ + r.cover) % 2 ^ 64, out := (k.out + r.block.length) % 2 ^ 64, blocks := k.blocks + b2n (!r.block.isEmpty), block := index + 1,
    vfailValid := k.vfailValid || r.vfail, vfailOwner := if r.vfail then reg else k.vfailOwner,
    vfailBlock := if r.vfail then index else k.vfailBlock, vfailTick := if r.vfail then h.now else k.vfailTick }
  let h := if r.noshrink then h.rcAdd o 0 16 65535 1 else h
  let req := fun (h : Hub) (code : Nat) => h.record { h.evt 6 code with aux := b + 4 * b2n reg, arg := arg, words := [index] }
  let h := if r.vfail then req (h.rcAdd o 0 0 65535 1) 0x0603 else h
  if r.ended = some stCeCheck then req h 0x0604 else h

/-- The next block of the dump engine's job `i`. The bytes that a watch is to count are kept until the job's chunk is written (R371). -/
def Hub.jobBlock (h : Hub) (m : Mem) (i : Nat) (j : Job) (raw : List Byte) (ok rawOk : Bool) : Hub :=
  let f := h.dmp.fires.headD default
  let d := h.dmp.cur.getD { req := default }
  let n := Nat.min blockMax (j.len - j.inDone)
  let last := decide (j.inDone + n = j.len)
  let pieces := if j.watch then [f.piece] else (d.segs.getD j.seg default).pieces
  let bytes := readPieces m h.free pieces (j.off + j.inDone) n raw
  let r : Release := if j.quiet then { cover := n, ended := if last then some stOk else none }
    else releaseBlock j.xform j.raw last j.blocks (j.limit - j.out.length) bytes ok rawOk
  let j2 := { j with inDone := j.inDone + r.cover, blocks := j.blocks + 1, out := j.out ++ r.block, ended := r.ended, late := j.late || (j.watch && !f.held),
                     seen := if j.watch && decide (f.kind ≠ 0) then j.seen ++ bytes.take r.cover else [] }
  let h := { h with free := h.free + 1,
                    dmp := { h.dmp with jobs := setAt h.dmp.jobs i j2, prog := if j.watch then h.dmp.prog else h.dmp.prog + n } }
  let arg := if j.watch then f.object + at_ (f.chunk + i) 32 else d.req.object + at_ (d.chunk + i) 32
  let h := h.ceCount j.bank false arg j.blocks { r with cover := if j.quiet then 0 else r.cover }
  if r.ended.isSome then (h.updBank j.bank fun k => { k with busy := false, block := 0 }).goOn else h

/-- The next block of a register job (R373). -/
def Hub.regBlock (h : Hub) (m : Mem) (b : Nat) (k : Bank) (ok rawOk : Bool) : Hub :=
  if k.decode then
    match decodeBlock (m.hbmRead (k.src + k.inDone) (Nat.min 65544 (k.len - k.inDone))) with
    | .bad st =>
      let h := match k.owner with | some o => h.updJobRes b o fun j => { j with failValid := true, fail := k.block } | none => h
      h.regJobEnd b st
    | .good len raw =>
      if k.limit < k.outDone + raw.length then h.regJobEnd b stPartial
      else
        let h := h.hbmWrite (k.dst + k.outDone) raw
        let h := h.updBank b fun k => { k with inDone := k.inDone + len, outDone := k.outDone + raw.length, block := k.block + 1 }
        if k.len ≤ k.inDone + len then h.regJobEnd b stOk else h
  else
    let n := Nat.min blockMax (k.len - k.inDone)
    let last := decide (k.inDone + n = k.len)
    let r := releaseBlock k.xform k.raw last k.block (k.limit - k.outDone) (m.hbmRead (k.src + k.inDone) n) ok rawOk
    let h := h.ceCount b true 0 k.block r
    let h := if r.block.isEmpty then h else h.hbmWrite (k.dst + k.outDone) r.block
    let h := h.updBank b fun k => { k with inDone := k.inDone + r.cover, outDone := k.outDone + r.block.length }
    match r.ended with
    | some st => h.regJobEnd b st
    | none => h

/-- CE_BLOCK_RELEASE: a bank finishes the next block of its job, or the job ends. `raw` are the bytes the die returned for the part of the
input that the hub does not hold; `ok` and `rawOk` are the verifier's answers for an encoded and for a raw block. -/
def Hub.blockRelease (h : Hub) (m : Mem) (b : Nat) (raw : List Byte) (ok rawOk : Bool) : Hub :=
  let k := SMap.get {} h.ce.bank b
  if !h.nocUp ∨ !k.busy ∨ 4 ≤ b then h
  else if k.owner.isSome then h.regBlock m b k ok rawOk
  else match firstIdx (fun j => j.bank == b && j.ended.isNone) h.dmp.jobs with
    | some i => h.jobBlock m i (h.dmp.jobs.getD i default) raw ok rawOk
    | none => h

/-- A write of CE_JOB_CMD (R372). -/
def Hub.ceGo (h : Hub) (m : Master) (b v : Nat) : Hub :=
  let o := 0x50000 + 0x4000 * b
  let src := h.rwGet 0 (o + 0x100) m.idx
  let dst := h.rwGet 0 (o + 0x108) m.idx
  let len := h.rwGet 0 (o + 0x110) m.idx
  let limit := h.rwGet 0 (o + 0x114) m.idx
  let lo := h.boot.tunBase + tunDataOff
  let hi := h.boot.tunBase + h.boot.tunSize
  let inTun := fun (a n : Nat) => decide (lo ≤ a) && decide (a + n ≤ hi)
  let say := fun (st : Nat) => h.updJobRes b m fun j => { j with status := st }
  if !bit v 31 then h
  else if (SMap.get {} h.ce.bank b).busy then say stBusy
  else if !bit (h.ceCtl b) 31 then say stDenied
  else if len = 0 ∨ chunkSize < len ∨ limit = 0 ∨ 16777216 < limit ∨ !inTun src len ∨ !inTun dst limit then say stCeRange
  else if !h.nocUp then say stAborted
  else
    let decode := bit v 30
    let h := h.updJobRes b m fun j => { busy := true, failValid := !decode && j.failValid, fail := if decode then 0 else j.fail }
    h.updBank b fun k => { k with
      busy := true, owner := some m, decode := decode, block := 0, src := src, dst := dst, len := len, limit := limit,
      xform := field v 29 28, raw := bit (h.ceCtl b) 30, inDone := 0, outDone := 0 }

/-! ## Firings (R339 to R344) -/

/-- The head of the firing FIFO, with the state of its slot. -/
def Hub.headFiring (h : Hub) : Option (Firing × WSt) := (h.dmp.fires.head?).map fun f => (f, (h.getWatch f.slot).st)

/-- Change the head of the firing FIFO. -/
def Hub.updHead (h : Hub) (f : Firing → Firing) : Hub :=
  match h.dmp.fires with
  | [] => h
  | x :: r => { h with dmp := { h.dmp with fires := f x :: r } }

/-- The engine may serve watches: no dump runs, and the HVC path is up (R339). A warm restart ends new firings only (Table 03.13). -/
def Hub.watchReady (h : Hub) : Bool := decide (h.dmp.st = .idle) && h.nocUp

/-- WATCH_SERVE: the head firing takes an object ID and its header record (R340). -/
def Hub.watchServe (h : Hub) : Hub :=
  match h.headFiring with
  | some (f, .queued) =>
    if !h.watchReady ∨ !h.tunFits 256 ∨ h.tunData = 0 then h
    else
      let (o, h) := h.newObject
      let key := h.dumpKey f.slice
      let h := h.tunReserve 256 (tunHeader 2 0 f.slice 0 o 0 0 256 0) false
      let pos := h.tunLast 256
      let g := { f with object := o, key := key, pos := pos, out := 256 }
      let h := (h.updHead fun _ => g).tunBody pos (g.header stOk)
      (h.updWatch f.slot fun s => { s with st := .reading, object := o, done := 0 }).goOn
  | _ => h

/-- The chunk of the job that has ended becomes a record of the firing (R341 to R343); a summary-only firing writes none. -/
def Hub.watchRecord (h : Hub) (f : Firing) (j : Job) (partial_ : Bool) : Hub :=
  let last := decide (j.off + j.inDone = f.len)
  let (n, len, h) := if j.quiet || decide (j.inDone = 0) then (0, 0, h)
    else
      let (_, len, h) := h.chunkRecord f.key 8 f.slice (2 * b2n last + 4 * b2n j.late + 8 * b2n partial_) f.object f.chunk j.off j.inDone j.out
      (1, len, h)
  let h := h.updHead fun f => { f.feed j.seen with read := f.read + j.inDone, chunk := f.chunk + n, out := f.out + len, late := f.late || j.late }
  (h.updWatch f.slot fun s => { s with done := f.read + j.inDone }).noJob

/-- The oldest job, once it has ended, if it is a watch's. -/
def Hub.watchJob (h : Hub) : Option (Firing × Job × Nat) :=
  match h.dmp.fires, h.dmp.jobs with
  | f :: _, j :: _ => if j.watch then j.ended.map fun st => (f, j, st) else none
  | _, _ => none

/-- A chunk of a watch is read, and written where the firing copies; a dump that was accepted meanwhile pauses the slot. -/
def Hub.watchChunk (h : Hub) : Hub :=
  match h.watchJob with
  | some (f, j, st) =>
    if st ≠ stOk ∨ !h.nocUp then h
    else if h.misfits j f.key then h.rerun j f.key (chunkLen (!f.key.isEmpty) j.out.length)
    else
      let h := h.watchRecord f j false
      let h := if h.dmp.st = .idle ∨ h.dmp.jobs ≠ [] then h else h.updWatch f.slot fun s => { s with st := if s.st = .reading then .paused else s.st }
      h.goOn
  | none => h

/-- DUMP_CHUNK_WRITTEN: the chunk of the job that has ended, of a dump or of a watch. -/
def Hub.chunkWritten (h : Hub) : Hub := if h.watchJob.isSome then h.watchChunk else h.dumpChunk

/-- WATCH_OUTPUT_FULL: the engine stopped with counts; the firing goes to PARTIAL (R343, Table 16.2). -/
def Hub.watchFull (h : Hub) : Hub :=
  match h.watchJob with
  | some (f, j, st) =>
    if st = stOk ∨ !h.nocUp then h
    else if h.misfits j f.key then h.rerun j f.key (chunkLen (!f.key.isEmpty) j.out.length)
    else
      let h := ((h.watchRecord f j true).dropJobs (·.watch)).updWatch f.slot fun s => { s with st := .partial_, status := stPartial }
      let h := h.watchNote (h.dmp.fires.headD default) stPartial 2
      (h.irqRaise 6).goOn
  | none => h

/-- WATCH_RESUME: a PARTIAL firing goes on once 4 MiB of the Tun are free and no dump runs (R343). -/
def Hub.watchResume (h : Hub) : Hub :=
  match h.headFiring with
  | some (f, .partial_) =>
    if h.watchReady && decide (0x400000 ≤ h.tunFree) then (h.updWatch f.slot fun s => { s with st := .reading }).goOn else h
  | _ => h

/-- WATCH_READ_DONE: every byte is read: the completion is released, the summary written, and the slot re-armed or spent (Table 10.17). A
summary that does not fit leaves the firing PARTIAL. -/
def Hub.watchReadDone (h : Hub) : Hub :=
  match h.headFiring with
  | some (f, .reading) =>
    if f.read < f.len ∨ h.dmp.jobs ≠ [] ∨ !h.nocUp then h
    else
      let h := h.releaseHeld f.slot
      if f.kind ≠ 0 ∧ !h.tunFits f.summaryLen then
        let h := h.updWatch f.slot fun s => { s with st := .partial_, status := stPartial }
        (h.watchNote (h.dmp.fires.headD default) stPartial 2).irqRaise 6
      else
        let h := h.watchEnd f.slot (if f.again = 0 then .spent else .armed) stOk
        if f.again = 0 then h else h.updWatch f.slot fun s => { s with occ := f.again }
  | _ => h

/-- WATCH_HOLD_EXPIRY: the hold limit of a firing of the slot is reached (R338). -/
def Hub.watchHold (h : Hub) (w : Nat) : Hub :=
  if h.dmp.fires.any fun f => f.slot == w && f.held && decide (f.holdEnd ≤ h.now) then h.releaseHeld w else h

/-- A slot goes to OFF: cancelled, disabled, or its slice is reset or destroyed (Table 10.17). -/
def Hub.watchOff (h : Hub) (w : Nat) : Hub :=
  if (h.getWatch w).st = .off then h
  else if h.dmp.fires.any fun f => f.slot == w then h.watchEnd w .off stAborted
  else h.updWatch w fun s => { s with st := .off, count := 0 }

/-- The watch slots of a slice that is reset or destroyed. -/
def Hub.watchSliceGone (h : Hub) (s : Nat) : Hub := (h.watchOff (2 * s)).watchOff (2 * s + 1)

/-- A write of DMP_WCANCEL (R350). -/
def Hub.watchCancel (h : Hub) (v : Nat) : Hub := if bit v 31 then h.watchOff (v % 128) else h

/-- A slot acts: its slice's policy and its own enable allow it. -/
def Hub.watchOn (h : Hub) (w : Nat) : Bool := bit (h.dmpSpol (w / 2)) 30 && bit (h.wReg w 0) 31

/-- A commit of a slot or of its slice's policy takes effect, or their registers return to reset: the slot arms, takes a new OCC, or is disabled (R337,
Table 10.17). Its count of firings starts again (Table 10.18, R353). -/
def Hub.watchCommit (h : Hub) (old : Hub) (w : Nat) : Hub :=
  let key := fun (h : Hub) => (bit (h.dmpSpol (w / 2)) 30, (List.range 10).map fun k => h.rwsGet 0 (wOff w (4 * k)) |>.active)
  let staged := (List.range 10).any fun k => old.isStaged (wOff w (4 * k))
  if !staged ∧ !old.isStaged (0x40100 + 4 * (w / 2)) ∧ key h = key old then h
  else
    let want := h.watchOn w
    let ok := h.watchOk w
    let h := if want && ok then h else h.watchOff w
    if !want then h
    else if !ok then h.updWatch w fun s => { s with status := stDmpBadwatch }
    else if (h.getWatch w).st = .off then
      h.updWatch w fun _ => { st := .armed, occ := Nat.max 1 (h.wReg w 0x10), object := (h.getWatch w).object, done := (h.getWatch w).done }
    else if !staged then h
    else h.updWatch w fun s => { s with
      status := stOk, fired := 0, firings := 0, occ := if h.wReg w 0x10 = old.wReg w 0x10 then s.occ else Nat.max 1 (h.wReg w 0x10) }

end Sys2Proof.Machine
end

