-- ==== Sys2Proof/Machine/Chain.lean ====
section
/-!
DEFINITION. Machine/Chain.lean: the Chain master (chapter 02): commits up to their completion (R65, R66, R82, R83), acknowledgements and
bypasses (R61), ring markers (R62), Chain windows (R70) and errors of flits (R504).
-/
namespace Sys2Proof.Machine

/-! ## Scopes (Table 02.6) -/

/-- A hub-core register that is held per slice, for slice `s` (scope 1), by its host-window offset. -/
def sliceKey (s k : Nat) : Bool :=
  let within := fun a n => decide (a ≤ k) && decide (k < a + n)
  k == 0x81000 + 4 * s || k == 0x31000 + 4 * s || k == 0x40100 + 4 * s || k == 0x72100 + 4 * s || within (0x82000 + 0x20 * s) 0x20
    || within (0x71000 + 0x20 * s) 0x20 || within (0x42000 + 0x80 * s) 0x80 || within (0xB1000 + 0x40 * s) 0x40

/-- A hub-core register in the scope of a commit. -/
def Commit.covers (c : Commit) (k : Nat) : Bool :=
  decide (k < 0x100000) && (c.scope == 0 || c.scope == 3 || (c.scope == 1 && sliceKey c.target k))

/-- Stations in the scope of a commit that are observed, as they stand when it begins. -/
def Hub.commitStations (h : Hub) (c : Commit) : List Nat :=
  match c.scope with
  | 0 => allStations.filter h.observed
  | 1 => allStations.filter fun s => h.observed s && (stnUnits s).any fun u => h.unitSlice u == c.target
  | 2 => [c.target].filter h.observed
  | _ => []

/-- Status with which a scope and target are refused (Table 02.6). -/
def Hub.commitCheck (h : Hub) (scope target : Nat) : Nat :=
  match scope with
  | 1 => if h.sliceExists (target % 64) then stOk else stNoslice
  | 2 => if !stnOk target then stNounit else if h.observed target then stOk else stUnobserved
  | _ => stOk

/-! ## Commits -/

/-- One master's commit status. -/
def Hub.getStat (h : Hub) (m : Master) : CommitStat := SMap.get {} h.chain.stat m.idx
def Hub.updStat (h : Hub) (m : Master) (f : CommitStat → CommitStat) : Hub :=
  { h with chain := { h.chain with stat := SMap.upd {} h.chain.stat m.idx f } }

/-- The status of the owner of a commit. -/
def Hub.ownerStat (h : Hub) (o : Owner) (f : CommitStat → CommitStat) : Hub :=
  match o with | .master m => h.updStat m f | _ => h

/-- A commit enters the queue of the commit engine. -/
def Hub.commitAdd (h : Hub) (o : Owner) (scope target : Nat) : Hub :=
  let c : Commit := { owner := o, scope := scope, target := target }
  ({ h with chain := { h.chain with queue := h.chain.queue ++ [c] } }).ownerStat o fun s => { s with pending := true }

/-- A write of HUB_COMMIT with go at 1 by master `m` (R82). -/
def Hub.commitRequest (h : Hub) (m : Master) (scope target : Nat) : Hub :=
  let target := if scope = 1 then target % 64 else target
  if (h.getStat m).pending then h.updStat m fun s => { s with status := stBusy }
  else
    let st := h.commitCheck scope target
    if st = stOk then h.commitAdd (.master m) scope target
    else h.updStat m fun s => { s with status := st, excluded := 0 }

/-- The MATCH register of a once entry that has acted: its shadow keeps valid, and the next commit that covers it arms it again (R178). -/
def spent (k : Nat) (r : Rws) : Bool :=
  decide (0x80100 ≤ k) && decide (k < 0x80300) && decide (k % 8 = 0) && r.st == .clean && r.active != r.shadow

/-- Every listed copy in a range of offsets whose register is DIRTY becomes STAGED (Table 02.5). -/
def Hub.stage (h : Hub) (p : Nat → Bool) : Hub :=
  { h with rws := h.rws.map fun r => (r.1, if p r.1 && (r.2.st == .dirty || spent r.1 r.2) then { r.2 with staged := r.2.shadow, st := .staged } else r.2) }

/-- Offsets of the slot of a station. -/
def inSlot (s k : Nat) : Bool := decide (pchOff s 0 ≤ k) && decide (k < pchOff s 0x1000)

/-- The registers of an excluded station stay DIRTY (R65). -/
def Hub.unstage (h : Hub) (s : Nat) : Hub :=
  { h with rws := h.rws.map fun r =>
      (r.1, if inSlot s r.1 && (r.2.st == .staged || r.2.st == .stagedDirty) then { r.2 with st := .dirty } else r.2) }

/-- The units whose staged slice byte names a slice, with that slice (R442). -/
def Hub.stagedMoves (h : Hub) : List (Nat × Nat) :=
  (h.rws.filter fun r => decide (0xB4000 ≤ r.1) && decide (r.1 < 0xB8000) && (r.2.st == .staged || r.2.st == .stagedDirty)).flatMap fun r =>
    ([0, 1, 2, 3].map fun j => (r.1 - 0xB4000 + j, field r.2.staged (8 * j + 5) (8 * j))).filter fun x => unitOk x.1

/-- A unit enters the move queue, takes a new target there, or leaves it because it is in its target already (R442, R443). -/
def Hub.queueMove (h : Hub) (u t : Nat) : Hub :=
  let rest := h.slc.moves.filter fun m => m.1 != u
  { h with slc := { h.slc with moves := if h.unitSlice u = t then rest else insertBy Prod.fst (u, t) rest } }

/-- The units staged for another slice enter the move queue; where that empties the queue, the slice interrupt rises (R442, R443, Table 16.2). -/
def Hub.queueMoves (h : Hub) : Hub :=
  let g := h.stagedMoves.foldl (fun h x => h.queueMove x.1 x.2) h
  if g.slc.moves.isEmpty && !h.slc.moves.isEmpty then g.irqRaise 15 else g

/-- The commit write completes in this hub cycle (hub cycle c of R65). -/
def Hub.commitWritten (h : Hub) (c : Commit) : Hub :=
  let st := if c.excluded.isEmpty then stOk else stPartial
  let h := h.ownerStat c.owner fun s => { s with status := st, excluded := c.excluded.length }
  let h := if c.owner = .master .loader ∧ st ≠ stOk then { h with ldr := { h.ldr with status := st } } else h
  if c.scope = 0 ∨ c.scope = 3 then h.queueMoves else h

/-- Once every station has answered or is excluded, the commit names its effective boundary: the next, or the one after that from the
guard cycles on, in which case its write completes at the next boundary (R65). -/
def Hub.commitArm (h : Hub) : Hub :=
  match h.chain.cur with
  | none => h
  | some c =>
    if c.effective.isSome || !c.toSnap.isEmpty || !c.toAck.isEmpty then h
    else
      let late := decide (3840 ≤ h.clk.epochCycle)
      let c := { c with effective := some (h.clk.epoch + (if late then 2 else 1)) }
      let h := { h with chain := { h.chain with cur := some c } }
      if late then h else h.commitWritten c

/-- COMMIT_BEGIN: the oldest commit begins once no other is under way (R65, R435). The snapshot flit of a station acts there before every write that the hub
core issues after it (R58, R69), so the station's registers are staged as the flit is issued. -/
def Hub.commitBegin (h : Hub) : Hub :=
  match h.chain.cur, h.chain.queue with
  | none, c :: q =>
    let h := { h with chain := { h.chain with queue := q } }
    let h := if c.owner = .slices then { h with slc := { h.slc with busy := none } } else h
    let st := h.commitCheck c.scope c.target
    if st ≠ stOk then h.ownerStat c.owner fun s => { s with pending := false, status := st, excluded := 0 }
    else
      let stns := h.commitStations c
      let h := h.stage fun k => c.covers k || stns.any fun s => inSlot s k
      let c := { c with issued := h.clk.cycle, toSnap := stns }
      ({ h with chain := { h.chain with cur := some c } }).commitArm
  | _, _ => h

/-- The view of one station by the Chain master after an acknowledgement in time. -/
def Link.ack (l : Link) : Link := { l with missed := 0 }

/-- A missed acknowledgement adds 1 to the count, and the third bypasses the station from the next boundary (R61). -/
def Link.miss (l : Link) : Link :=
  let n := l.missed + 1
  { l with missed := n, next := if 3 ≤ n ∧ l.next = .observed then .missed else l.next }

/-- SNAPSHOT_FLIT: the snapshot flit reaches a station, whose dirty shadows are staged; its acknowledgement is on its way (R65). -/
def Hub.snapshotFlit (h : Hub) (s : Nat) : Hub :=
  match h.chain.cur with
  | none => h
  | some c =>
    if !c.toSnap.contains s || !h.observed s then h
    else
      let c := { c with toSnap := c.toSnap.filter (· != s), toAck := c.toAck ++ [s] }
      { h with chain := { h.chain with cur := some c } }

/-- SNAPSHOT_ACK: the acknowledgement arrives in time (R65). -/
def Hub.snapshotAck (h : Hub) (s : Nat) : Hub :=
  match h.chain.cur with
  | none => h
  | some c =>
    if !c.toAck.contains s || decide (c.issued + 4096 ≤ h.clk.cycle) then h
    else
      let c := { c with toAck := c.toAck.filter (· != s) }
      (({ h with chain := { h.chain with cur := some c } }).updLink s Link.ack).commitArm

/-- SNAPSHOT_TIMEOUT: a station that has not acknowledged 4,096 hub cycles after its snapshot flit is excluded (R65). -/
def Hub.snapshotTimeout (h : Hub) (s : Nat) : Hub :=
  match h.chain.cur with
  | none => h
  | some c =>
    if !(c.toSnap.contains s || c.toAck.contains s) || decide (h.clk.cycle < c.issued + 4096) then h
    else
      let c := { c with toSnap := c.toSnap.filter (· != s), toAck := c.toAck.filter (· != s), excluded := c.excluded ++ [s] }
      ((({ h with chain := { h.chain with cur := some c } }).unstage s).updLink s Link.miss).commitArm

/-! ## Acknowledgements, markers and errors -/

/-- EPOCH_ACK: a station's acknowledgement of the present epoch's boundary arrives (R61). -/
def Hub.epochAck (h : Hub) (s n : Nat) : Hub :=
  if h.clk.started ∧ n = h.clk.epoch ∧ h.observed s then h.updLink s fun l => { l.ack with acked := true } else h

/-- RING_MARKER_TIMEOUT: ring `r` (2s for ring A of segment s, 2s + 1 for ring B) has not returned its marker of this boundary within 256 hub
cycles; the second boundary in a row fails it from the next (R62). -/
def Hub.ringTimeout (h : Hub) (r : Nat) : Hub :=
  if 32 ≤ r ∨ bit h.chain.ringBad r ∨ h.chain.ringLate.contains r ∨ !h.clk.started ∨ h.clk.epochCycle < 256 then h
  else
    let n := SMap.get 0 h.chain.ringMiss r + 1
    { h with chain := { h.chain with
        ringLate := h.chain.ringLate ++ [r], ringMiss := SMap.set 0 h.chain.ringMiss r n,
        ringNext := if 2 ≤ n then h.chain.ringNext ||| 2 ^ r else h.chain.ringNext } }

/-- CHAIN_FLIT_CRC_ERROR: a flit from a station is dropped and counted; the third in an epoch bypasses the station (R61, R504). -/
def Hub.flitError (h : Hub) (s : Nat) : Hub :=
  if !h.observed s then h
  else h.updLink s fun l =>
    let n := l.errFlits + 1
    { l with errFlits := n, next := if 3 ≤ n ∧ l.next = .observed then .errors else l.next }

/-- CLASS2_RETRY_TIMEOUT: a class-2 request to a station has had no response within its bound: it is repeated, and after the third repeat it
completes with ST_TIMEOUT (R504). -/
def Hub.class2Timeout (h : Hub) (s : Nat) : Hub :=
  if !h.observed s then h
  else
    match firstIdx (fun (r : Req2) => r.station == s) h.chain.req2 with
    | none => { h with chain := { h.chain with req2 := h.chain.req2 ++ [⟨s, 1⟩] } }
    | some i =>
      let n := (h.chain.req2.getD i default).repeats
      let l := if 3 ≤ n then eraseAt h.chain.req2 i else setAt h.chain.req2 i ⟨s, n + 1⟩
      { h with chain := { h.chain with req2 := l } }

/-! ## Moves (R443) -/

/-- A queued unit that must wait: a tile unit with a started command of a context of its slice, or a gate that is not in RUN (R442). -/
def Hub.moveDeferred (h : Hub) (u : Nat) : Bool :=
  (h.getGate u).st != .run
    || (isTileUnit u && h.ctx.any fun c => c.2.slice == h.unitSlice u && c.2.cmds.any fun x => x.started && x.unit == u)

/-- A move to a slice that is neither ACTIVE nor RESETTING is refused (R442). -/
def Hub.moveRefused (h : Hub) (t : Nat) : Bool := (h.getSlice t).st != .active && (h.getSlice t).st != .resetting

/-- The first eight stations of the move queue that hold a unit that is not deferred: one to be refused or scheduled (R442, R443). -/
def Hub.moveStations (h : Hub) : List Nat :=
  (dedup ((h.slc.moves.filter fun m => h.moveRefused m.2 || !h.moveDeferred m.1).map fun m => unitStn m.1)).take 8

/-- MOVE_ORDER_ISSUE: the move orders for the next boundary, once in an epoch. -/
def Hub.moveOrders (h : Hub) : Hub :=
  if !h.clk.started || h.slc.moves.isEmpty || h.slc.ordersEpoch == h.clk.epoch + 1 then h
  else
    let l := h.moveStations
    let us := (h.slc.moves.filter fun m => l.contains (unitStn m.1)).map Prod.fst
    { h with slc := { h.slc with orders := us, ordersEpoch := h.clk.epoch + 1 } }

/-! ## Chain windows (R70, R87) -/

def Hub.getWin (h : Hub) (m : Master) : Window := SMap.get {} h.chain.win m.idx
def Hub.updWin (h : Hub) (m : Master) (f : Window → Window) : Hub :=
  { h with chain := { h.chain with win := SMap.upd {} h.chain.win m.idx f } }

/-- The window of a master ends; `expired` shows how the last window ended (R87). -/
def Hub.winDrop (h : Hub) (m : Master) (st : Nat) : Hub :=
  let h := if (h.getWin m).held then h.rcZero 0x44 m.idx 30 else h
  h.updWin m fun w => { w with held := false, copy := [], status := st }

/-- The words of a station's slot by slot offset, as they stand. -/
def Hub.slotCopy (h : Hub) (s : Nat) : SMap Nat :=
  (List.range 1024).foldl (fun c k => SMap.set 0 c (4 * k) (h.wordAt .host (pchOff s (4 * k)))) []

/-- Acquire of a window on station `s`: an old window is released first; an invalid station changes nothing but the status (R26). -/
def Hub.winAcquire (h : Hub) (m : Master) (s : Nat) : Hub :=
  if !stnOk s then h.updWin m fun w => { w with status := stNounit }
  else
  let h := if (h.getWin m).held then h.winDrop m stOk else h
  let st := if !h.observed s then stUnobserved else if h.windowHeld s then stBusy else stOk
  if st ≠ stOk then h.updWin m fun w => { w with status := st }
  else
    let c := h.slotCopy s
    h.updWin m fun w => { w with held := true, station := s, from_ := h.now, status := stOk, copy := c }

/-- A write of HUB_CHWIN: the station is stored; acquire takes a window, else release ends it. A release by a master that holds no window ends with ST_OK,
which the spec leaves open (DESIGN CHOICE, log entry 28). -/
def Hub.winWrite (h : Hub) (m : Master) (v : Nat) : Hub :=
  let s := field v 10 0
  let h := h.updWin m fun w => { w with sel := s }
  if bit v 12 then h.winAcquire m s else if bit v 13 then h.winDrop m stOk else h

/-- CHWIN_LEASE_EXPIRY: 10^9 ticks after the acquire the window ends, with audit record 0x0803. -/
def Hub.winExpiry (h : Hub) (m : Master) : Hub :=
  let w := h.getWin m
  if !w.held || decide (h.now < w.from_ + 1000000000) then h
  else
    ((h.winDrop m stExpired).rcSet 0x44 m.idx 30).record
      { h.auditBy m 0x0803 with unit := w.station * 8, status := stExpired, arg := w.from_ }

end Sys2Proof.Machine
end

