-- ==== Sys2Proof/Machine/Security.lean ====
section
/-!
DEFINITION. Machine/Security.lean: the security unit (chapter 13): roles (R405 to R411), slice owners and key generations (R413 to R416),
consent tokens (R417 to R421).
-/
namespace Sys2Proof.Machine

/-! ## Roles (R405, R409 to R411) -/

/-- An audit event about a slice. -/
def Hub.secEvt (h : Hub) (m : Master) (code slice : Nat) : Req := { h.auditBy m code with slice := slice }

/-- Six 64-bit words of a digest. -/
def digestWords (d : List Byte) : List Nat := (List.range 6).map fun k => leAt d (8 * k) 8

/-- The role of a master ends (0x0811): 0 drop, 1 lease expiry, 2 replaced. -/
def Hub.roleEnd (h : Hub) (m : Master) (how : Nat) : Hub :=
  (h.record { h.auditBy m 0x0811 with origin := m.origin + 16 * (h.getSecM m).role, aux := how }).updSecM m fun s => { s with role := 0, leaseEnd := 0 }

/-- The public key that verifies a role command for a role, while it is loaded (R409). -/
def Hub.roleKey (h : Hub) (role : Nat) : Option (List Byte) :=
  if !h.boot.keys.valid then none
  else match role with
    | 1 => if h.boot.keys.opValid then some h.boot.keys.op else none
    | 2 => some h.boot.keys.inst
    | _ => some h.boot.keys.root

/-- The die_id that HUB_DIE_ID0 to 3 show (R98). -/
def Hub.dieId (h : Hub) : List Byte := if h.boot.identity then padTo 16 h.boot.dieId else zeros 16

/-- Number of a master in a role command (Table 13.1). -/
def roleMaster (m : Master) : Nat := match m with | .host => 1 | .span => 2 | _ => 0

/-- All bytes of a range are 0. -/
def zeroAt (b : List Byte) (off n : Nat) : Bool := (slice b off n).all (· == 0)

/-- The reason with which a role command is refused, 0 where it is accepted (Tables 13.1 and 13.2). -/
def Hub.roleReason (h : Hub) (m : Master) (b nonce : List Byte) : Nat :=
  let role := leAt b 6 1
  let lease := leAt b 8 4
  if leAt b 0 4 ≠ 0x454C4F52 ∨ leAt b 4 2 ≠ 1 ∨ role < 1 ∨ 3 < role ∨ leAt b 7 1 ≠ roleMaster m ∨ lease < 1 ∨ 86400 < lease
      ∨ !zeroAt b 0xC 4 ∨ !zeroAt b 0x38 8 then 1
  else if slice b 0x10 16 ≠ h.dieId then 2
  else if slice b 0x20 16 ≠ padTo 16 nonce then 3
  else if h.boot.keys.valid && leAt b 0x30 8 != h.boot.keys.serial then 4
  else match h.roleKey role with
    | none => 5
    | some k => if Config.ecdsaVerify k (sha384 (slice b 0 0x40)) (slice b 0x40 96) then 0 else 10

/-- Status of a reason (Table 13.2). -/
def reasonStatus (r : Nat) : Nat :=
  match r with
  | 0 => stOk
  | 1 | 2 | 4 => stSecFormat
  | 3 => stSecNonce
  | 6 => stNoslice
  | 7 | 11 => stSecOwner
  | 8 => stSecStale
  | 10 => stBadsig
  | _ => stDenied

/-- The result of a master's last go. -/
def Hub.secDone (h : Hub) (m : Master) (status reason : Nat) : Hub :=
  h.updSecM m fun s => { s with check := none, status := status, reason := reason }

/-- ROLE_LEASE_EXPIRY: the lease of a role has run out on the unit's own count (R411). -/
def Hub.leaseExpiry (h : Hub) (m : Master) : Hub :=
  let s := h.getSecM m
  if s.role = 0 ∨ h.sec.lease < s.leaseEnd then h else h.roleEnd m 1

/-- A role command has been checked (R411). -/
def Hub.roleChecked (h : Hub) (m : Master) (c : SecCheck) : Hub :=
  let r := h.roleReason m c.buf c.nonce
  let role := leAt c.buf 6 1
  if r ≠ 0 then (h.secDone m (reasonStatus r) r).record { h.auditBy m 0x0812 with status := reasonStatus r, aux := r, arg := role }
  else
    let h := h.leaseExpiry m
    let h := if h.role m ≠ 0 ∧ h.role m ≠ role then h.roleEnd m 2 else h
    let lease := leAt c.buf 8 4
    let h := (h.secDone m stOk 0).updSecM m fun s => { s with role := role, leaseEnd := h.sec.lease + lease * 1000000000 }
    h.record { h.auditBy m 0x0810 with aux := lease, arg := h.boot.keys.serial, words := [leAt c.nonce 0 8, leAt c.nonce 8 8] }

/-! ## Key generations (R413 to R416) -/

/-- The trace and counter keys that follow from a dump key (Table 13.4). -/
def Hub.deriveKeys (h : Hub) (s gen : Nat) (dump epub : List Byte) (keyId : Nat) : KeyGen :=
  let ctx := padTo 16 h.boot.dieId ++ leBytes 1 s ++ leBytes 4 (h.getSlice s).pasid ++ leBytes 4 gen
  { gen := gen, dump := dump, trace := kdf dump "CLOIR-TRACE" ctx 32, counter := kdf dump "CLOIR-COUNT" ctx 32, keyId := keyId, epub := epub }

/-- Generation 0 of a slice: a dump key drawn from the generator (R414); slice 0 has no keys (R416). -/
def Hub.genZero (h : Hub) (s : Nat) : KeyGen × Hub :=
  if s = 0 then ({}, h)
  else
    let (d, h) := h.draw 32
    (h.deriveKeys s 0 d [] 0xFFFFFFFFFFFFFFFF, h)

/-- A new generation under Table 13.4 for an owner's key-agreement key. -/
def Hub.newGen (h : Hub) (s gen : Nat) (kex : List Byte) : KeyGen × Hub :=
  let (r, h) := h.draw 48
  let e := 1 + ofBe r % (Config.p384Order - 1)
  let epub := padTo 96 (Config.p384Mul e)
  let z := padTo 48 (Config.p384Dh e kex)
  let ctx := padTo 16 h.boot.dieId ++ leBytes 1 s ++ leBytes 4 (h.getSlice s).pasid ++ leBytes 4 gen
  (h.deriveKeys s gen (kdf z "CLOIR-DUMP" ctx 32) epub (leAt (sha384 epub) 0 8), h)

/-- Number of the newest generation of a slice. -/
def SliceKeys.lastGen (k : SliceKeys) : Nat := match k.next with | some g => g.gen | none => k.cur.gen

/-- A rekey is marked: the next generation takes effect at the next boundary (R421, R502). A slice without an owner takes a new drawn key. -/
def Hub.markRekey (h : Hub) (s : Nat) : Hub :=
  let k := h.getKeys s
  if k.rekey then h
  else
    let (g, h) := if k.owner.isEmpty then h.genZero s else h.newGen s (k.lastGen + 1) k.kexPub
    h.updKeys s fun k => { k with rekey := true, next := some g }

/-- At the boundary of tick `b` the new generations take effect (R415), with record 0x0826 for a rekey. -/
def Hub.keysBoundary (h : Hub) (b : Nat) : Hub :=
  (h.slc.keys.filter fun e => e.2.next.isSome).foldl (fun h e =>
    match e.2.next with
    | none => h
    | some g =>
      let h := h.updKeys e.1 fun k => { k with cur := g, next := none, rekey := false }
      if e.2.rekey then
        h.record { h.evt 8 0x0826 with slice := e.1, aux := g.gen, arg := g.keyId, words := [e.2.cur.keyId, b] }
      else h) h

/-- A slice that the security unit serves: one that exists and has not been destroyed; a slice in DESTROYING has neither owner nor keys (R416, R420; log
entry 90). -/
def Hub.sliceServed (h : Hub) (s : Nat) : Bool := h.sliceExists s && (h.getSlice s).st != .destroying

/-- Status with which an owner registration is refused (R413). -/
def Hub.ownerStatus (h : Hub) (s : Nat) (b : List Byte) : Nat :=
  if s = 0 then stDenied
  else if !h.sliceServed s then stNoslice
  else if !(h.getKeys s).owner.isEmpty then stSecOwner
  else if Config.p384Valid (slice b 0 96) && Config.p384Valid (slice b 96 96) then stOk else stSecFormat

/-- An owner registration has been checked. -/
def Hub.ownerChecked (h : Hub) (m : Master) (c : SecCheck) : Hub :=
  let st := h.ownerStatus c.slice c.buf
  if st ≠ stOk then
    (h.secDone m st (if st = stSecOwner then 11 else if st = stNoslice then 6 else if st = stSecFormat then 1 else 0)).record
      { h.secEvt m 0x0828 c.slice with status := st, aux := st, arg := c.slice }
  else
    let s := c.slice
    let owner := sha384 (slice c.buf 0 192)
    let (g, h) := h.newGen s ((h.getKeys s).lastGen + 1) (slice c.buf 96 96)
    let h := (h.secDone m stOk 0).updKeys s fun k =>
      { k with owner := owner, sigPub := slice c.buf 0 96, kexPub := slice c.buf 96 96, next := some g }
    h.record { h.secEvt m 0x0820 s with aux := g.gen, arg := g.keyId, words := digestWords owner }

/-! ## Consent tokens (R417 to R421) -/

/-- The reason with which a token is refused, 0 where it is accepted (Tables 13.2 and 13.5). -/
def Hub.tokenReason (h : Hub) (c : SecCheck) : Nat :=
  let b := c.buf
  let kind := leAt b 6 1
  let s := leAt b 7 1
  let k := h.getKeys s
  let target := match kind with | 2 => zeroAt b 0x2C 44 | 3 => zeroAt b 0x28 48 | _ => true
  if leAt b 0 4 ≠ 0x54534E43 ∨ leAt b 4 2 ≠ 1 ∨ kind < 1 ∨ 3 < kind ∨ 2 ^ 20 ≤ leAt b 8 4 ∨ !zeroAt b 0xC 4 ∨ !zeroAt b 0x58 8 ∨ !target then 1
  else if slice b 0x10 16 ≠ h.dieId then 2
  else if !h.sliceServed s || (h.getSlice s).pasid != leAt b 8 4 then 6
  else if k.owner.isEmpty then 7
  else if k.cur.keyId ≠ leAt b 0x20 8 then 8
  else if kind = 2 ∧ c.role ≠ 1 then 9
  else if Config.ecdsaVerify k.sigPub (sha384 (slice b 0 0x60)) (slice b 0x60 96) then 0 else 10

/-- Policy registers of a slice with the bits that need consent (Table 13.6): offset, reset value and mask. -/
def consentFields (s : Nat) : List (Nat × Nat × Nat) :=
  [(0x81000 + 4 * s, 0, 0x70000), (0x31000 + 4 * s, 0, 3), (0x40100 + 4 * s, 0, 0xC00003FE), (0x42000 + 0x80 * s, 0, 2 ^ 31),
   (0x42040 + 0x80 * s, 0, 2 ^ 31)]

/-- A value to be written at an offset sets a field that needs consent. -/
def needsConsent (s off value : Nat) : Bool := (consentFields s).any fun f => f.1 == off && (value &&& f.2.2 != 0)

/-- The consent slot takes a token, or none. -/
def SliceKeys.lodge (k : SliceKeys) (cyc : Nat) (tok : List Byte) : SliceKeys :=
  { k with token := tok, tokenCyc := cyc, tokenOld := if k.tokenCyc = cyc then k.tokenOld else k.token }

/-- The token that a check of the loader in this hub cycle sees: one accepted in the same cycle is not seen (R420). -/
def Hub.tokenSeen (h : Hub) (s : Nat) : List Byte :=
  let k := h.getKeys s
  if k.tokenCyc = h.clk.cycle + 1 then k.tokenOld else k.token

/-- An accepted REVOKE: the slot is cleared, the fields of Table 13.6 are written 0 in the shadows, and a commit is due (R419). -/
def Hub.tokenRevoke (h : Hub) (s : Nat) : Hub :=
  let h := h.updKeys s fun k => k.lodge (h.clk.cycle + 1) []
  let h := (consentFields s).foldl (fun h f => h.rwsUpd f.2.1 f.1 fun r => r.write (clearBits r.shadow f.2.2)) h
  { h with sec := { h.sec with revokes := h.sec.revokes ++ [s] } }

/-- An accepted OPEN: the dump key goes to the master's SEC_KEYOUT registers, and a rekey is marked (R421). -/
def Hub.tokenOpen (h : Hub) (m : Master) (s object : Nat) : Hub :=
  let k := h.getKeys s
  let out := (List.range 8).foldl (fun (o : SMap Nat) i => SMap.set 0 o i (leAt k.cur.dump (4 * i) 4)) []
  let h := h.updSecM m fun x => { x with
    keyout := out, keyoutEnd := h.now + 1000000000, keyoutFull := true, keyoutCyc := h.clk.cycle + 1, keyoutOld := h.keyoutShown m }
  let h := h.updKeys s fun k => { k with opens := k.opens + 1 }
  (h.markRekey s).record { h.secEvt m 0x0825 s with aux := object, arg := k.cur.keyId }

/-- The slice that a token names, 0xFF where the index is none (Table 13.12). -/
def tokenSlice (b : List Byte) : Nat := if leAt b 7 1 < 64 then leAt b 7 1 else 255

/-- A token has been checked. -/
def Hub.tokenChecked (h : Hub) (m : Master) (c : SecCheck) : Hub :=
  let r := h.tokenReason c
  let b := c.buf
  let kind := leAt b 6 1
  let s := leAt b 7 1
  if r ≠ 0 then
    (h.secDone m (reasonStatus r) r).record
      { h.secEvt m 0x0822 (tokenSlice b) with status := reasonStatus r, aux := r + 256 * kind, arg := leAt b 0x20 8 }
  else
    let tok := slice b 0 192
    let h := (h.secDone m stOk 0).record
      { h.secEvt m 0x0821 s with aux := kind, arg := leAt b 0x20 8, words := digestWords (sha384 tok) }
    match kind with
    | 1 => h.updKeys s fun k => k.lodge (h.clk.cycle + 1) tok
    | 2 => h.tokenOpen m s (leAt b 0x28 4)
    | _ => h.tokenRevoke s

/-- REVOKE_COMMIT: the oldest revoke that waits issues its scope-1 commit once the unit's earlier commit has taken effect and the loader is
IDLE (R419). -/
def Hub.revokeCommit (h : Hub) : Hub :=
  match h.sec.revokes with
  | [] => h
  | s :: rest =>
    let own := fun (c : Commit) => c.owner == .security
    let busy := h.chain.queue.any own || (match h.chain.cur with | some c => own c | none => false)
    if busy ∨ h.ldr.st ≠ .idle then h
    else ({ h with sec := { h.sec with revokes := rest } }).commitAdd .security 1 s

/-- KEYOUT_EXPIRY: 1 s after the release the registers clear (R421). -/
def Hub.keyoutExpiry (h : Hub) (m : Master) : Hub :=
  let s := h.getSecM m
  if !s.keyoutFull || decide (h.now < s.keyoutEnd) then h
  else h.updSecM m fun s => { s with keyout := [], keyoutOld := [], keyoutFull := false }

/-! ## SEC_CMD (R410, R411, R425) -/

/-- A new nonce for a master (R410). -/
def Hub.nonceDraw (h : Hub) (m : Master) : Hub :=
  let (n, h) := h.draw 16
  h.updSecM m fun s => { s with nonce := n }

/-- In the hub cycle after a go each nonce that is due is drawn, in the order of R17 (R410). -/
def Hub.noncesDue (h : Hub) : Hub :=
  ([Master.host, Master.span].filter fun m => (h.getSecM m).nonceDue).foldl
    (fun h m => (h.nonceDraw m).updSecM m fun s => { s with nonceDue := false }) h

/-- The first `n` bytes of a master's SEC_BUF. -/
def SecM.bytes (s : SecM) (n : Nat) : List Byte := (List.range (n / 4)).flatMap fun k => leBytes 4 (SMap.get 0 s.buf k)

/-- SEC_CMD with go at 1: the operation is checked later, done at once, or refused; a new nonce follows in the next hub cycle. -/
def Hub.secGo (h : Hub) (m : Master) (op s : Nat) : Hub :=
  let x := h.getSecM m
  let b := x.bytes 256
  let h := if x.check.isSome then
      let h := h.updSecM m fun y => { y with status := stBusy, reason := 0 }
      match op with
      | 2 => h
      | 3 => h.record { h.secEvt m 0x0828 s with status := stBusy, aux := stBusy, arg := s }
      | 4 => h.record { h.secEvt m 0x0822 (tokenSlice b) with status := stBusy, aux := 256 * leAt b 6 1, arg := leAt b 0x20 8 }
      | 1 => h.record { h.auditBy m 0x0812 with status := stBusy, arg := leAt b 6 1 }
      | _ => h.record { h.auditBy m 0x0812 with status := stBusy, aux := 1 }
    else match op with
      | 2 => (if h.role m = 0 then h else h.roleEnd m 0).secDone m stOk 0
      | 1 | 3 | 4 => h.updSecM m fun y => { y with check := some ⟨op, s, b, y.nonce, h.role m, h.clk.cycle⟩ }
      | _ => (h.secDone m stSecFormat 1).record { h.auditBy m 0x0812 with status := stSecFormat, aux := 1 }
  h.updSecM m fun y => { y with nonceDue := true }

/-- A write of SEC_CMD. -/
def Hub.secCmd (h : Hub) (m : Master) (v : Nat) : Hub := if bit v 31 then h.secGo m (field v 30 28) (v % 64) else h

/-- A lodge of the same hub cycle by a master that R17 puts first is still being checked (R420). -/
def Hub.lodgeWaits (h : Hub) (m : Master) (c : SecCheck) : Bool :=
  decide (c.op = 4) && decide (m = .span) && (match (h.getSecM .host).check with | some d => d.op == 4 && d.cycle == c.cycle | none => false)

/-- SEC_CHECK_COMPLETE: the check of a master's command, keys or token ends (R411). -/
def Hub.secCheck (h : Hub) (m : Master) : Hub :=
  match (h.getSecM m).check with
  | none => h
  | some c =>
    if h.lodgeWaits m c then h
    else match c.op with
    | 1 => h.roleChecked m c
    | 3 => h.ownerChecked m c
    | _ => h.tokenChecked m c

end Sys2Proof.Machine
end

