-- ==== Sys2Proof/Machine/Store.lean ====
section
/-!
DEFINITION. Machine/Store.lean: what an RW or RWS register takes: its writable bits, fields brought into range, and the staging of a
_LO/_HI pair (R8, R10, R13 to R15, R64).
-/
namespace Sys2Proof.Machine

/-- Bits of a slice-map register that belong to valid units (R455). -/
def umapMask (k : Nat) : Nat := (List.range 4).foldl (fun a j => if unitOk (4 * k + j) then a + at_ 0x3F (8 * j) else a) 0

/-- Writable bits of a located register (R8). -/
def Loc.mask (l : Loc) : Nat :=
  match l.row.fam with
  | .slcUmap => umapMask l.i
  | .pchTsrcSel => if stnClass l.stn = 0 then l.row.mask else 3
  | _ => l.row.mask

/-- A value with the field [hi:lo] replaced. -/
def putField (v hi lo x : Nat) : Nat := clearBits v (at_ (2 ^ (hi + 1 - lo) - 1) lo) + at_ x lo

/-- A field brought into the range `a` to `b`. -/
def inField (v hi lo a b : Nat) : Nat := putField v hi lo (Nat.min b (Nat.max a (field v hi lo)))

/-- The value a register stores for a value written: its writable bits, each field at the nearer limit of its range. -/
def Loc.clamp (h : Hub) (l : Loc) (w : Nat) : Nat :=
  let v := w &&& l.mask
  match l.row.fam with
  | .trcDrain => inField v 8 0 0 400
  | .timMarkCtrl => inField v 4 0 16 30
  | .cntCtrl => inField v 23 0 10 10000000
  | .attCtrl => inField v 15 0 1 65535
  | .hubHangCfg => inField v 15 0 1 65535
  | .hubHangPeriod => inField v 19 0 300 1000000
  | .cutStepTmo => inField v 23 0 1 (2 ^ 24 - 1)
  | .cutLead => inField v 19 0 h.leastLead (2 ^ 20 - 1)
  | .cutXlead => inField (inField v 19 0 h.leastLead (2 ^ 20 - 1)) 31 20 1 4095
  | .dmpTtabCnt => inField v 12 0 0 4096
  | .dmpWOcc => inField v 31 0 1 (2 ^ 32 - 1)
  | .dmpWHist => inField v 15 8 1 16
  | .dmpWCtl => inField v 15 0 0 1000
  | .erCtrl => v ||| 0x194
  | .slcCtxquota => inField v 18 0 0 262144
  | .slcShare0 => inField v 8 0 0 256
  | .slcShare => inField v 8 0 0 256
  | _ => v

/-- Store a value into a located RW register of master `m` or into the shadow of an RWS register; nothing else holds a written value. -/
def Hub.storeReg (h : Hub) (m : Master) (l : Loc) (w : Nat) : Hub :=
  let v := l.clamp h w
  match l.row.kind with
  | .rws => h.rwsUpd l.reset l.base fun r => r.write v
  | .rw =>
    if l.row.fam = .hubWfgStatus then { h with hang := { h.hang with wfgStatus := v } }
    else h.rwSet l.reset l.base (if l.row.own then m.idx else 0) v
  | _ => h

/-- A 32-bit write of a word of a register: a _LO word goes to the master's staging register, a _HI word completes the pair with it. The value
that results is absent while the pair is only staged (R13, R15). -/
def Hub.stageWord (h : Hub) (m : Master) (l : Loc) (w : Nat) : Option Nat × Hub :=
  if !l.row.pair then (some (w % 2 ^ 32), h)
  else if l.hi then (some (w % 2 ^ 32 * 2 ^ 32 + SMap.get 0 h.stageLo m.idx), h)
  else (none, { h with stageLo := SMap.set 0 h.stageLo m.idx (w % 2 ^ 32) })

/-- One entry of a write list: the loader writes a word as a master of its own (R99, R105). -/
def Hub.loaderWrite (h : Hub) (off w : Nat) : Hub :=
  match locate off with
  | none => h
  | some l =>
    match h.stageWord .loader l w with
    | (some v, h) => if l.row.fam = .cutBench then h.benchWrite .loader (bit v 31) else h.storeReg .loader l v
    | (none, h) => h

/-- A write list is applied in order (R105). -/
def Hub.applyWrites (h : Hub) (ws : List (Nat × Nat)) : Hub := ws.foldl (fun h w => h.loaderWrite w.1 w.2) h

end Sys2Proof.Machine
end

