-- ==== Sys2Proof/Machine/Slices.lean ====
section
/-!
DEFINITION. Machine/Slices.lean: the slice table (chapter 14): create, reset, process death and destroy (R431 to R435, R445, R446), contexts
and exported fences on request (R436, R437), the queues of the shared engines (R439 to R441).
-/
namespace Sys2Proof.Machine

/-! ## Shared engines (R439 to R441) -/

def Hub.getEngine (h : Hub) (e : Nat) : Engine := SMap.get {} h.slc.engine e
def Hub.updEngine (h : Hub) (e : Nat) (f : Engine → Engine) : Hub :=
  { h with slc := { h.slc with engine := SMap.upd {} h.slc.engine e f } }

/-- Active queue share and weight of a slice (R441, R454). -/
def Hub.share (h : Hub) (s : Nat) : Nat := h.act (shareReset s) (slcOff s 0x30) % 512
def Hub.weight (h : Hub) (s : Nat) : Nat := Nat.max 1 (field (h.act (shareReset s) (slcOff s 0x30)) 19 16)

/-- Transfers of a slice at an engine. -/
def Engine.held (e : Engine) (s : Nat) : Nat := (e.q.filter fun t => t.slice == s).length

/-- The entries of an engine's queue: a transfer stays in the queue until it starts (R441). -/
def Engine.queue (e : Engine) : List Transfer := e.q.filter fun t => !t.started

/-- Entries of a slice in the queue. -/
def Engine.queued (e : Engine) (s : Nat) : Nat := (e.queue.filter fun t => t.slice == s).length

/-- An XFER event at an engine (feed 9): 0 start, 1 complete, 2 abort. -/
def Hub.xferEv (h : Hub) (e ev status : Nat) (t : Transfer) : Hub :=
  h.observeU { feed := 9, unit := engineUnit e, slice := t.slice, mode := t.mode, op := t.op, level := t.level,
               pk := some (.xfer ev t.context t.tag status t.len) }

/-- The slice that exceeds its share by most, the lowest on a tie, and by how much. -/
def Hub.excess (h : Hub) (e : Engine) : Option Nat :=
  (List.range 64).foldl (fun a s =>
    let x := e.queued s - h.share s
    if x = 0 then a
    else match a with
      | none => some s
      | some b => if e.queued b - h.share b < x then some s else a) none

/-- Index of the youngest entry of a slice that has not started. -/
def youngest (s : Nat) (l : List Transfer) : Option Nat :=
  match firstIdx (fun t => t.slice == s && !t.started) l.reverse with
  | some i => some (l.length - 1 - i)
  | none => none

/-- The command that issued a transfer is given the transfer's status (R438, R439, R445). -/
def Hub.transferAnswer (h : Hub) (t : Transfer) (status : Nat) : Hub := h.answer t.issuer t.context t.tag status

/-- TRANSFER_ARRIVE: admitted, refused with ST_FULL, or taking the place of an entry that is displaced with ST_SLC_DISPLACED (R439). -/
def Hub.transferArrive (h : Hub) (e : Nat) (r : Rmo) (signal : Option FenceRef) (value : Nat) : Hub :=
  if 16 ≤ e ∨ !h.unitRuns (engineUnit e) ∨ ((h.getCtx r.context).st = .free ∧ (h.getCtx r.context).cmds = []) then h
  else
    let s := h.ctxSlice r.context
    let t : Transfer := { issuer := r.issuer, slice := s, context := r.context, tag := r.tag, len := r.len, signal := signal, value := value, mode := r.mode,
                          op := r.op.code, level := r.level }
    let x := h.getEngine e
    let refuse := (h.grainAdd (engineUnit e) 6 1).transferAnswer t stFull
    if h.share s ≤ x.queued s then refuse
    else if x.queue.length < 256 then h.updEngine e fun x => { x with q := x.q ++ [t] }
    else
      match h.excess x with
      | none => refuse
      | some b =>
        match youngest b x.q with
        | none => refuse
        | some i =>
          ((h.updEngine e fun x => { x with q := eraseAt x.q i ++ [t] }).rcAdd 0xB0038 0 16 65535 1).transferAnswer (x.q.getD i default) stSlcDisplaced

/-- The slice an engine serves next: the present one until its weight is used, then the next that has a queued transfer (R440). A transfer of a slice that a
cut holds does not start (Table 08.3). -/
def Hub.nextTurn (h : Hub) (e : Nat) (x : Engine) : Option Nat :=
  let has := fun s => (h.captures (unitStn (engineUnit e)) s).isNone && x.q.any fun t => t.slice == s && !t.started
  if has x.turn && decide (x.used < h.weight x.turn) then some x.turn
  else ((List.range 64).map fun k => (x.turn + 1 + k) % 64).find? has

/-- TRANSFER_START (R440). -/
def Hub.transferStart (h : Hub) (e : Nat) : Hub :=
  let x := h.getEngine e
  if 16 ≤ e ∨ !h.unitRuns (engineUnit e) then h
  else match h.nextTurn e x with
    | none => h
    | some s =>
      match firstIdx (fun t => t.slice == s && !t.started) x.q with
      | none => h
      | some i =>
        let t := { x.q.getD i default with started := true }
        let used := if s = x.turn ∧ x.used < h.weight s then x.used + 1 else 1
        let h := h.updEngine e fun x => { x with q := setAt x.q i t, turn := s, used := used }
        (h.xferEv e 0 stOk t).grainAdd (engineUnit e) 1 1

/-- A transfer is aborted: its fence is error-signalled (R445). Returns how many fences that was. -/
def Hub.transferAbort (h : Hub) (e : Nat) (t : Transfer) : Nat × Hub :=
  let h := ((h.xferEv e 2 stAborted t).grainAdd (engineUnit e) 3 1).transferAnswer t stAborted
  match t.signal with
  | some ref => (1, h.ctxSignalErr t.context t.slice (engineUnit e) t.tag ref t.mode)
  | none => (0, h)

/-- TRANSFER_END: the oldest started transfer of a context at an engine completes with a status; one of a slice that is being reset may end
with ST_ABORTED (R445). -/
def Hub.transferEnd (h : Hub) (e ctx status : Nat) : Hub :=
  let x := h.getEngine e
  match firstIdx (fun t => t.started && t.context == ctx) x.q with
  | none => h
  | some i =>
    if !h.unitRuns (engineUnit e) then h
    else
      let t := x.q.getD i default
      let h := (h.updEngine e fun x => { x with q := eraseAt x.q i }).transferAnswer t status
      if status = stOk then
        let h := (h.xferEv e 1 stOk t).grainAdd (engineUnit e) 2 1
        match t.signal with | some ref => h.ctxSignal ctx t.slice (engineUnit e) t.tag false ref t.value t.mode | none => h
      else
        let h := (h.xferEv e 2 status t).grainAdd (engineUnit e) 3 1
        let h := match t.signal with | some ref => h.ctxSignalErr ctx t.slice (engineUnit e) t.tag ref t.mode | none => h
        if t.aborting then
          h.updSlice t.slice fun y => { y with aborted := y.aborted + 1, fenceErr := y.fenceErr + b2n t.signal.isSome }
        else h

/-! ## Capacity (R438) -/

/-- Record 0x0311 of a refused request: kind, slice, argument and the objects in use. -/
def Hub.capacity (h : Hub) (m : Master) (kind slice arg used : Nat) : Hub :=
  h.record { h.evt 3 0x0311 with slice := slice, origin := h.originOf m, status := stFull, aux := kind, arg := arg, words := [used] }

def Hub.getSlcM (h : Hub) (m : Master) : SlcM := SMap.get {} h.slc.m m.idx
def Hub.updSlcM (h : Hub) (m : Master) (f : SlcM → SlcM) : Hub := { h with slc := { h.slc with m := SMap.upd {} h.slc.m m.idx f } }

/-! ## Create (R431, R433 to R435) -/

/-- Slices that are not FREE. -/
def Hub.sliceCount (h : Hub) : Nat := (h.slc.e.filter fun e => e.2.st != .free).length

/-- Status with which a create is refused; the capacity check comes first (R434). -/
def Hub.createStatus (h : Hub) (s pasid : Nat) : Nat :=
  if 64 ≤ h.sliceCount then stFull
  else if (h.getSlice s).st ≠ .free then stSlcState
  else if h.cut.bench then stCutBench
  else if (s = 0 ∧ pasid ≠ 0) ∨ (s ≠ 0 ∧ pasid = 0) ∨ (h.slc.e.any fun e => e.2.st != .free && e.2.pasid == pasid) then stSlcPasid
  else stOk

/-- A slice comes into being: PASID, generation 0 keys, the held section's writes to the shadows, record 0x0310 (Table 14.2). -/
def Hub.sliceNew (h : Hub) (s pasid origin : Nat) : Hub :=
  let k := h.getKeys s
  let h := h.updSlice s fun _ => { st := .active, pasid := pasid, created := h.now }
  let (g, h) := h.genZero s
  let h := h.updKeys s fun k => { cur := g, section_ := k.section_, policyEpoch := h.clk.epoch }
  let h := if k.heldValid then h.applyWrites k.heldWrites else h
  h.record { h.evt 3 0x0310 with slice := s, origin := origin, aux := b2n k.heldValid, arg := pasid }

/-- SLC_CMD op 1. -/
def Hub.sliceCreate (h : Hub) (m : Master) (s : Nat) : Hub :=
  let pasid := h.rwGet 0 0xB0004 m.idx
  let st := h.createStatus s pasid
  let h := h.updSlcM m fun x => { x with cmdStatus := st }
  if st = stFull then h.capacity m 1 s pasid h.sliceCount
  else if st ≠ stOk then h
  else
    let h := (h.sliceNew s pasid (h.originOf m)).commitAdd .slices 1 s
    { h with slc := { h.slc with busy := some (m, s) } }

/-! ## Reset and process death (R445, R446) -/

/-- ACTIVE contexts of a slice. -/
def Hub.activeCtxs (h : Hub) (s : Nat) : List Nat := (h.ctx.filter fun c => c.2.st == .active && c.2.slice == s).map Prod.fst

/-- Every ACTIVE context of a slice enters LOST, with record 0x0302. -/
def Hub.loseContexts (h : Hub) (s : Nat) : Hub :=
  (h.activeCtxs s).foldl (fun h c =>
    let (n, h) := h.enterLost c
    h.record { h.evt 3 0x0302 with slice := s, status := stLost, ctx := some c, words := [0, n] }) h

/-- Each engine discards the queued transfers of a slice; those in flight will end aborted or complete. -/
def Hub.discardTransfers (h : Hub) (s : Nat) : Hub :=
  (List.range 16).foldl (fun h e =>
    let x := h.getEngine e
    if x.held s = 0 then h
    else
      let gone := x.q.filter fun t => t.slice == s && !t.started
      let h := h.updEngine e fun x =>
        { x with q := (x.q.filter fun t => !(t.slice == s && !t.started)).map fun t => if t.slice = s then { t with aborting := true } else t }
      gone.foldl (fun h t =>
        let (n, h) := h.transferAbort e t
        h.updSlice s fun y => { y with discarded := y.discarded + 1, fenceErr := y.fenceErr + n }) h) h

/-- Engines that hold a transfer of a slice. -/
def Hub.enginesOf (h : Hub) (s : Nat) : List Nat := (List.range 16).filter fun e => decide (0 < (h.getEngine e).held s)

/-- The reset sequence in its hub cycle R (R445 steps 1 to 6). -/
def Hub.resetSlice (h : Hub) (s cause : Nat) : Hub :=
  let n := (h.activeCtxs s).length
  let h := h.updSlice s fun y => { y with
    st := .resetting, resets := satAdd 65535 y.resets 1, reset := h.now, cause := cause, lostCtx := n, discarded := 0, aborted := 0, fenceErr := 0 }
  let h := (((h.loseContexts s).cutSliceGone s false).watchSliceGone s).dumpSliceGone s
  let h := h.discardTransfers s
  let es := h.enginesOf s
  h.updSlice s fun y => { y with engines := es, reported := if es.isEmpty then some h.clk.cycle else none }

/-- The return to ACTIVE, with record 0x0312. -/
def Hub.resetDone (h : Hub) (s : Nat) : Hub :=
  let y := h.getSlice s
  let h := h.updSlice s fun y => { y with st := .active, engines := [], reported := none }
  h.record { h.evt 3 0x0312 with slice := s, aux := y.cause, arg := y.reset,
                                 words := [y.lostCtx, y.discarded, y.aborted, y.fenceErr, y.expErr, h.now] }

/-- Every exported fence of a slice that is not in ERROR receives an error signal; returns how many. -/
def Hub.errorExports (h : Hub) (s : Nat) : Nat × Hub :=
  (h.sliceExports s).foldl (fun (a : Nat × Hub) i =>
    if (a.2.getFence (exportId i)).st = .error then a else (a.1 + 1, a.2.fenceErr (exportId i) 0 none s)) (0, h)

/-- Status with which a reset or a process death is refused (R434). -/
def Hub.resetStatus (h : Hub) (s : Nat) (died : Bool) : Nat :=
  match (h.getSlice s).st with
  | .free => stNoslice
  | .active => if died && s == 0 then stDenied else stOk
  | _ => if died && s == 0 then stDenied else stBusy

/-- SLC_CMD op 2 and op 4. -/
def Hub.sliceReset (h : Hub) (m : Master) (s : Nat) (died : Bool) : Hub :=
  let st := h.resetStatus s died
  let h := h.updSlcM m fun x => { x with cmdStatus := st }
  if st ≠ stOk then h
  else if died then
    let (n, h) := h.errorExports s
    (h.updSlice s fun y => { y with died := true, expErr := n }).resetSlice s 1
  else (h.updSlice s fun y => { y with expErr := 0 }).resetSlice s 0

/-- ENGINE_RESET_REPORT: an engine holds no transfer of a slice that is being reset; the slice is ACTIVE in the hub cycle after the last
report. -/
def Hub.engineReport (h : Hub) (e s : Nat) : Hub :=
  let y := h.getSlice s
  if y.st ≠ .resetting ∨ !y.engines.contains e ∨ 0 < (h.getEngine e).held s then h
  else
    let es := y.engines.filter (· != e)
    h.updSlice s fun y => { y with engines := es, reported := if es.isEmpty then some h.clk.cycle else none }

/-- The hub cycle after the last report: slices that are due return to ACTIVE. -/
def Hub.resetsDue (h : Hub) : Hub :=
  (h.slc.e.filter fun e => e.2.st == .resetting && (match e.2.reported with | some c => decide (c < h.clk.cycle) | none => false)).foldl
    (fun h e => h.resetDone e.1) h

/-- SLICE_RESET_TIMEOUT: at R + 100,000 ticks what is still in flight aborts and the slice is ACTIVE. -/
def Hub.resetTimeout (h : Hub) (s : Nat) : Hub :=
  let y := h.getSlice s
  if y.st ≠ .resetting ∨ h.now < y.reset + 100000 then h
  else
    let h := (List.range 16).foldl (fun h e =>
      let gone := (h.getEngine e).q.filter fun t => t.slice == s
      let h := if gone.isEmpty then h else h.updEngine e fun x => { x with q := x.q.filter fun t => t.slice != s }
      gone.foldl (fun h t =>
        let (n, h) := h.transferAbort e t
        h.updSlice s fun y => { y with aborted := y.aborted + 1, fenceErr := y.fenceErr + n }) h) h
    h.resetDone s

/-! ## Destroy (R433, R434) -/

/-- Status with which a destroy is refused. -/
def Hub.destroyStatus (h : Hub) (s : Nat) : Nat :=
  match (h.getSlice s).st with
  | .free => stNoslice
  | .active => if s = 0 then stDenied else if (h.sliceCtxs s).isEmpty then stOk else stSlcState
  | .resetting => if s = 0 then stDenied else stBusy
  | .destroying => stSlcState

/-- The slice byte of a unit in every copy of its SLC_UMAP register. -/
def Hub.umapByte (h : Hub) (u t : Nat) : Hub :=
  let j := 8 * (u % 4)
  let put := fun v => clearBits v (at_ 0x3F j) + at_ t j
  h.rwsUpd 0 (0xB4000 + u / 4 * 4) fun r => { r with shadow := put r.shadow, staged := put r.staged, active := put r.active }

/-- SLC_CMD op 3: keys and tokens are erased, exports released, and a move of every unit to slice 0 staged (Table 14.2). -/
def Hub.sliceDestroy (h : Hub) (m : Master) (s : Nat) : Hub :=
  let st := h.destroyStatus s
  let h := h.updSlcM m fun x => { x with cmdStatus := st }
  if st ≠ stOk then h
  else
    let ex := h.sliceExports s
    let (_, h) := h.errorExports s
    let h := { h with slc := { h.slc with exports := h.slc.exports.filter fun e => e.2 != s + 1 }, sec := { h.sec with revokes := h.sec.revokes.filter (· != s) } }
    let h := h.updKeys s fun k => { policyEpoch := k.policyEpoch }
    let h := h.updSlice s fun y => { y with st := .destroying, destroyTick := h.now, expReleased := ex.length }
    let h := ((h.cutSliceGone s true).watchSliceGone s).dumpSliceGone s
    (h.sliceUnits s).foldl (fun h u => (h.umapByte u 0).queueMove u 0) h

/-- A write of SLC_CMD with go at 1 (R435, R450). -/
def Hub.slcCmd (h : Hub) (m : Master) (v : Nat) : Hub :=
  let s := v % 64
  if !bit v 31 then h
  else if h.slc.busy.isSome then h.updSlcM m fun x => { x with cmdStatus := stBusy }
  else match field v 30 28 with
    | 1 => h.sliceCreate m s
    | 2 => h.sliceReset m s false
    | 3 => h.sliceDestroy m s
    | 4 => h.sliceReset m s true
    | _ => h.updSlcM m fun x => { x with cmdStatus := stSlcState }

/-! ## Contexts and exports (R436, R437) -/

/-- Status of a request that needs a slice in ACTIVE. -/
def Hub.needActive (h : Hub) (s : Nat) : Nat :=
  match (h.getSlice s).st with
  | .free => stNoslice
  | .active => stOk
  | .resetting => stBusy
  | .destroying => stSlcState

/-- Contexts of the die that are not FREE. -/
def Hub.ctxCount (h : Hub) : Nat := (h.ctx.filter fun c => c.2.st != .free).length

/-- SLC_CTX_CMD op 0. -/
def Hub.ctxCreateCmd (h : Hub) (m : Master) (s : Nat) : Hub :=
  let done := fun (h : Hub) st => h.updSlcM m fun x => { x with ctxStatus := st, ctxValid := false, ctxId := 0 }
  let n := (h.sliceCtxs s).length
  if 262144 ≤ h.ctxCount then (done h stFull).capacity m 2 s 0 h.ctxCount
  else if Nat.min 262144 (h.act 0x40000 (slcOff s 0x18)) ≤ n then (done h stFull).capacity m 3 s 0 n
  else if h.needActive s ≠ stOk then done h (h.needActive s)
  else
    let (c, h) := h.ctxCreate s
    h.updSlcM m fun x => { x with ctxStatus := stOk, ctxValid := true, ctxId := c }

/-- SLC_CTX_CMD op 1. -/
def Hub.ctxDestroyCmd (h : Hub) (m : Master) (c : Nat) : Hub :=
  if (h.getCtx c).st = .free then h.updSlcM m fun x => { x with ctxStatus := stNocontext }
  else (h.ctxDestroy c).updSlcM m fun x => { x with ctxStatus := stOk }

/-- A write of SLC_CTX_CMD. -/
def Hub.slcCtxCmd (h : Hub) (m : Master) (v : Nat) : Hub :=
  if !bit v 31 then h else if bit v 30 then h.ctxDestroyCmd m (field v 17 0) else h.ctxCreateCmd m (field v 29 24)

/-- SLC_EXP_CMD op 0. -/
def Hub.expAllocate (h : Hub) (m : Master) (s i : Nat) : Hub :=
  let done := fun (h : Hub) st => h.updSlcM m fun x => { x with expStatus := st }
  if h.needActive s ≠ stOk then done h (h.needActive s)
  else if 65536 ≤ h.slc.exports.length then (done h stFull).capacity m 4 s 0 h.slc.exports.length
  else if (h.exportSlice i).isSome then done h stBusy
  else
    let h := { h with slc := { h.slc with exports := SMap.set 0 h.slc.exports i (s + 1) } }
    let h := if (h.getFence (exportId i)).st = .error then h.updFence (exportId i) fun _ => {} else h
    done h stOk

/-- SLC_EXP_CMD op 1. -/
def Hub.expRelease (h : Hub) (m : Master) (i : Nat) : Hub :=
  match h.exportSlice i with
  | none => h.updSlcM m fun x => { x with expStatus := stSlcState }
  | some s =>
    let h := h.fenceErr (exportId i) 0 none s
    let h := { h with slc := { h.slc with exports := SMap.set 0 h.slc.exports i 0 } }
    h.updSlcM m fun x => { x with expStatus := stOk }

/-- A write of SLC_EXP_CMD. -/
def Hub.slcExpCmd (h : Hub) (m : Master) (v : Nat) : Hub :=
  if !bit v 31 then h else if bit v 30 then h.expRelease m (v % 65536) else h.expAllocate m (field v 29 24) (v % 65536)

end Sys2Proof.Machine
end

