-- ==== Sys2Proof/Machine/Boundary.lean ====
section
/-!
DEFINITION. Machine/Boundary.lean: what happens at an epoch boundary (R61 to R67, R129, R432, R442 to R444, Table 14.2): bypasses, failed
rings, missed acknowledgements, commits that take effect, new keys and moves of units.
-/
namespace Sys2Proof.Machine

/-! ## Bypasses and rings (R61, R62, R129) -/

/-- A station is bypassed, with record 0x0702. -/
def Hub.bypassStn (h : Hub) (s : Nat) (b : Bypass) : Hub :=
  ((h.updLink s fun l => { l with bypass := b, next := b }).record { h.evt 7 0x0702 with unit := s * 8, aux := b.code }).sampleBypass s

/-- Stations of a segment. -/
def segStations (g : Nat) : List Nat := (List.range 74).map fun i => g * 74 + i

/-- Ring `r` fails, with record 0x0703: the segment goes on with its other ring and that ring's compensation, or loses its stations. -/
def Hub.failRing (h : Hub) (r : Nat) : Hub :=
  let h := { h with chain := { h.chain with ringBad := h.chain.ringBad ||| 2 ^ r } }
  let h := h.record { h.evt 7 0x0703 with aux := r / 2 + 16 * (r % 2) }
  let g := r / 2
  if bit h.chain.ringBad (2 * g) && bit h.chain.ringBad (2 * g + 1) then
    ((segStations g).filter h.observed).foldl (fun h s => h.bypassStn s .rings) h
  else (segStations g).foldl (fun h s => h.updStn s fun t => { t with compRing := 1 - r % 2 }) h

/-- The Chain master's view of a station after a boundary: the acknowledgement of the last one is missed or not, and the errors of the epoch
are counted afresh. -/
def Link.boundary (l : Link) : Link := if l.acked then { l with acked := false, errFlits := 0 } else { l.miss with errFlits := 0 }

/-- The Chain at a boundary. -/
def Hub.chainBoundary (h : Hub) : Hub :=
  let due := h.chain.link.filter fun e => e.2.bypass == .observed && e.2.next != .observed
  let h := due.foldl (fun h e => h.bypassStn e.1 e.2.next) h
  let rings := (List.range 32).filter fun r => bit h.chain.ringNext r && !bit h.chain.ringBad r
  let h := rings.foldl Hub.failRing h
  let late := h.chain.ringLate
  let h := { h with chain := { h.chain with
    ringNext := 0, ringLate := [], ringMiss := h.chain.ringMiss.filter fun e => late.contains e.1 } }
  allStations.foldl (fun h s => h.updLink s fun l => if l.bypass = .observed then l.boundary else { l with errFlits := 0 }) h

/-! ## Activation (R64, R65, R432) -/

/-- The effective boundary of a staged copy (Table 02.5). -/
def Rws.activate (r : Rws) : Rws :=
  match r.st with
  | .staged => { r with active := r.staged, st := .clean }
  | .stagedDirty => { r with active := r.staged, st := .dirty }
  | _ => r

/-- Reset value of the register at an offset. -/
def resetAt (off : Nat) : Nat := match locate off with | some l => l.reset | none => 0

/-- Every staged copy becomes active. -/
def Hub.activate (h : Hub) : Hub :=
  { h with rws := h.rws.filterMap fun r => let x := r.2.activate; if x = Rws.atReset (resetAt r.1) then none else some (r.1, x) }

/-- Offsets of the four extents of a slice. -/
def extOffs (s : Nat) : List Nat := [0x20, 0x24, 0x28, 0x2C].map (slcOff s)

/-- The active extents of a slice as base and size, none of size 0. -/
def Hub.extRanges (h : Hub) (s : Nat) : List (Nat × Nat) :=
  (h.extents s).filter fun e => e.2 != 0

/-- Two ranges have a member in common. -/
def rangesMeet (a b : Nat × Nat) : Bool := decide (a.1 < b.1 + b.2) && decide (b.1 < a.1 + a.2)

/-- The extents of a slice meet R432. -/
def Hub.extentsOk (h : Hub) (s : Nat) : Bool :=
  let e := h.extRanges s
  e.all (fun x => decide (x.1 + x.2 ≤ 4096))
    && ((List.range 64).filter fun k => k != s && (h.getSlice k).st != .free).all fun k => (h.extRanges k).all fun y => e.all fun x => !rangesMeet x y

/-- The slices whose extents a commit has changed. -/
def Hub.extentsChanged (h old : Hub) : List Nat := (List.range 64).filter fun s => (extOffs s).any fun o => h.act 0 o != old.act 0 o

/-- Offsets of the RWS registers of a slice's entry: ctx_quota, share and the extents (R432). -/
def entryOffs (s : Nat) : List Nat := [0x18, 0x30].map (slcOff s) ++ extOffs s

/-- The slices of whose ctx_quota, extents or share a commit takes effect (Table 14.1). -/
def Hub.entriesStaged (h : Hub) : List Nat := (List.range 64).filter fun s => (entryOffs s).any h.isStaged

/-- Entries that break R432 return to their previous extents, until none of the changed ones does. -/
def Hub.extentsSettle (old : Hub) : Nat → Hub → List Nat → Hub
  | 0, h, _ => h
  | n + 1, h, l =>
    match l.filter fun s => !h.extentsOk s with
    | [] => h
    | bad =>
      let h := bad.foldl (fun h s =>
        let h := (extOffs s).foldl (fun h o => h.rwsUpd 0 o fun r => { r with active := old.act 0 o }) h
        h.updSlice s fun y => { y with status := stSlcExtent }) h
      Hub.extentsSettle old n h (l.filter fun s => !bad.contains s)

/-- A commit that leaves every compression bank disabled leaves bank 0 enabled (R372). -/
def Hub.bankRule (h : Hub) : Hub :=
  if [0, 1, 2, 3].any fun b => bit (h.act 0x80000000 (0x50000 + 0x4000 * b)) 31 then h
  else h.rwsUpd 0x80000000 0x50000 fun r => { r with active := r.active ||| 2 ^ 31 }

/-- Offsets of the per-slice policy registers of a slice (R105). -/
def policyOffs (s : Nat) : List Nat :=
  [0x81000 + 4 * s, 0x31000 + 4 * s, 0x40100 + 4 * s]
    ++ [2 * s, 2 * s + 1].flatMap fun w => [0, 4, 8, 0xC, 0x10, 0x14, 0x18, 0x20].map fun o => 0x42000 + 0x40 * w + o

/-- Active value of a register by its offset. -/
def Hub.actAt (h : Hub) (off : Nat) : Nat := h.act (resetAt off) off

/-- Rings whose placement a boundary changes leave their place before any of them takes its new one (R214, R235). -/
def Hub.ringsLeave (h old : Hub) : Hub :=
  { h with
    trc := { h.trc with ring := SMap.mapVal {} (fun s r => if h.trcKey s = old.trcKey s then r else { r with on := false }) h.trc.ring },
    cnt := { h.cnt with ring := SMap.mapVal {} (fun s r => if h.cntKey s = old.cntKey s then r else { r with on := false }) h.cnt.ring } }

/-- What follows from registers that have become active at boundary tick `b`; `old` is the hub before. -/
def Hub.afterActivate (h old : Hub) (b : Nat) : Hub :=
  let h := h.bankRule
  let h := old.entriesStaged.foldl (fun h s => h.updSlice s fun y => { y with status := stOk }) h
  let h := Hub.extentsSettle old 64 h (h.extentsChanged old)
  let h := (allStations.filter h.observed).foldl (fun h s => (h.peckCommit old s).traceCommit old s) h
  let h := (h.stn.filter fun e => !e.2.peck.stalled.isEmpty).foldl (fun h e => h.stallRetry e.1) h
  let h := h.ringsLeave old
  let h := (List.range 64).foldl (fun h s =>
    let h := ((h.trcRingCommit old s).cntRingCommit old s)
    if (policyOffs s).any fun o => h.actAt o != old.actAt o then h.updKeys s fun k => { k with policyEpoch := h.clk.epoch } else h) h
  let h := (h.cntCommit old b).attCommit old b
  (List.range 128).foldl (fun h w => h.watchCommit old w) h

/-- What the owner of a commit sees and does as it takes effect. -/
def Hub.commitDone (h : Hub) (c : Commit) (b : Nat) : Hub :=
  match c.owner with
  | .master m => h.updStat m fun s => { s with pending := false, epoch := h.clk.epoch }
  | .security => h.record { h.evt 8 0x0827 with slice := c.target, arg := (h.getKeys c.target).cur.keyId, words := [b] }
  | .bringup =>
    if h.boot.phase = 8 then
      { h with boot := { h.boot with phase := 9, since := h.clk.realNs, domains := h.boot.domains ||| (2 ^ 22 + 2 ^ 23 + 2 ^ 26) } }
    else h
  | .slices => h

/-- The commit whose effective boundary this is takes effect (R64, R65). -/
def Hub.commitBoundary (h : Hub) (b : Nat) : Hub :=
  match h.chain.cur with
  | none => h
  | some c =>
    if c.effective = some h.clk.epoch then
      let n := h.activate
      let h := n.afterActivate h b
      ({ h with chain := { h.chain with cur := none } }).commitDone c b
    else h

/-- The commit whose write completes in hub cycle 0 of the epoch, for the next boundary: its moves join what this boundary has left of the queue (R65, R442). -/
def Hub.commitLate (h : Hub) : Hub :=
  match h.chain.cur with
  | none => h
  | some c => if c.effective = some (h.clk.epoch + 1) then h.commitWritten c else h

/-! ## Moves (R442 to R444) -/

/-- Refused units keep their slice, with one record 0x0315. -/
def Hub.refuseMoves (h : Hub) (bad : List (Nat × Nat)) (b : Nat) : Hub :=
  match bad with
  | [] => h
  | m :: _ =>
    let h := bad.foldl (fun h m => h.umapByte m.1 (h.unitSlice m.1)) h
    h.record { h.evt 3 0x0315 with unit := m.1, status := stNoslice, aux := bad.length, arg := b }

/-- Record 0x0313 of a station: `go` its units that moved, with their old slices, `late` its units that wait. -/
def Hub.moveRecord (h : Hub) (s b : Nat) (go : List (Nat × Nat)) (late : List Nat) : Hub :=
  let mask := fun l : List Nat => l.foldl (fun a u => a + 2 ^ unitSub u) 0
  let words := (List.range 8).map fun k =>
    match go.find? fun m => m.1 == s * 8 + k with | some m => m.2 + 256 * h.unitSlice m.1 | none => 0
  let new := match go with | m :: _ => h.unitSlice m.1 | [] => 255
  h.record { h.evt 3 0x0313 with unit := s * 8, slice := new, aux := mask (go.map Prod.fst) + 256 * mask late, arg := b, words := words }

/-- The scheduled units move at boundary tick `b` (R444). -/
def Hub.moveUnits (h : Hub) (b : Nat) (go : List (Nat × Nat)) (late : List Nat) : Hub :=
  let olds := go.map fun m => (m.1, h.unitSlice m.1)
  let at_ := fun s => olds.filter fun m => unitStn m.1 == s
  let stns := dedup (go.map fun m => unitStn m.1)
  let h := h.sealUnits b (go.map Prod.fst)
  let h := stns.foldl (fun h s => (h.drainCache s).rebindMark s b ((at_ s).map Prod.snd)) h
  let h := go.foldl (fun h m => ({ h with slc := { h.slc with unit := SMap.set 0 h.slc.unit m.1 m.2 } }).grainMove m.1) h
  stns.foldl (fun h s =>
    (h.traceRebind s b ((at_ s).map Prod.fst)).moveRecord s b (at_ s) (late.filter fun u => unitStn u == s)) h

/-- The units selected for this boundary move, are refused or wait. -/
def Hub.movesAt (h : Hub) (b : Nat) : Hub :=
  if h.slc.ordersEpoch ≠ h.clk.epoch then h
  else
    let sel := h.slc.moves.filter fun m => h.slc.orders.contains m.1
    let bad := sel.filter fun m => h.moveRefused m.2
    let rest := sel.filter fun m => !h.moveRefused m.2
    let late := (rest.filter fun m => h.moveDeferred m.1).map Prod.fst
    let go := rest.filter fun m => !h.moveDeferred m.1
    let gone := (bad ++ go).map Prod.fst
    let h := (h.refuseMoves bad b).moveUnits b go late
    let left := h.slc.moves.filter fun m => !gone.contains m.1
    let st := if gone.isEmpty then h.slc.moveStatus else if bad.isEmpty then stOk else stNoslice
    let ended := left.isEmpty && !h.slc.moves.isEmpty
    let h := { h with slc := { h.slc with moves := left, orders := [], moveStatus := st } }
    if ended then h.irqRaise 15 else h

/-- Offsets of the RWS registers that a slice returns to reset when it becomes FREE: its entry's and its policy's. -/
def sliceRwsOffs (s : Nat) : List Nat := entryOffs s ++ policyOffs s

/-- A slice in DESTROYING that holds no unit becomes FREE (Table 14.2). -/
def Hub.sliceFree (h : Hub) (s : Nat) : Hub :=
  let y := h.getSlice s
  let old := h
  let h := h.bucketFinal s
  let offs := sliceRwsOffs s
  let h := { h with rws := h.rws.filter fun r => !offs.contains r.1 }
  let h := [2 * s, 2 * s + 1].foldl (fun h w => h.watchCommit old w) h
  let h := (h.updKeys s fun k => { k with policyEpoch := h.clk.epoch }).updSlice s fun _ => {}
  h.record { h.evt 3 0x0314 with slice := s, arg := y.pasid, words := [y.expReleased, y.destroyTick] }

/-- Every slice in DESTROYING without a unit. -/
def Hub.freeSlices (h : Hub) : Hub :=
  (h.slc.e.filter fun e => e.2.st == .destroying && (h.sliceUnits e.1).isEmpty).foldl (fun h e => h.sliceFree e.1) h

/-! ## The boundary -/

/-- EPOCH_BOUNDARY, once 4,096 hub cycles of the epoch have passed (R63). -/
def Hub.boundary (h : Hub) : Hub :=
  if !h.clk.started || decide (h.clk.epochCycle < 4096) then h
  else
    let b := h.now - (h.clk.epochCycle - 4096) * h.perCycle
    let h := { h with clk := { h.clk with epoch := h.clk.epoch + 1, epochCycle := h.clk.epochCycle - 4096 } }
    let h := h.chainBoundary
    let h := (allStations.filter h.observed).foldl Hub.drainCache h
    ((((h.commitBoundary b).keysBoundary b).movesAt b).freeSlices).commitLate

end Sys2Proof.Machine
end

