-- ==== Sys2Proof/Machine/Power.lean ====
section
/-!
DEFINITION. Machine/Power.lean: units that sleep and wake (R51, R183, R184), the rails (R509 to R511, R517), the switch to the board
reference (R74, R126) and the loss of the island's supply (R95).
-/
namespace Sys2Proof.Machine

/-! ## Sleep and wake -/

/-- Stations with a unit in a clock domain. -/
def domainStations (d : Nat) : List Nat := allStations.filter fun s => (stnUnits s).any fun u => unitDomain u == d

/-- Subs of a station in a clock domain, as a mask. -/
def domainSubs (s d : Nat) : Nat := (stnUnits s).foldl (fun a u => if unitDomain u = d then a + 2 ^ unitSub u else a) 0

/-- Sleep packets of every station of a list; `old` is the hub before. -/
def Hub.sleepStns (h old : Hub) (l : List Nat) : Hub := l.foldl (fun h s => h.traceSleep old s) h

/-- Resync packets of every station of a list, then the waits of the units that have woken. -/
def Hub.wakeStns (h old : Hub) (l : List Nat) : Hub :=
  let h := l.foldl (fun h s => h.traceWake old s) h
  ((l.flatMap stnUnits).filter fun u => old.asleep u && !h.asleep u).foldl (fun h u => h.thawUnit u) h

/-- The tile of a unit loses or regains its power (R51). -/
def Hub.tilePower (h : Hub) (u : Nat) (off : Bool) : Hub :=
  let old := h
  let s := unitStn u
  if !unitOk u || !h.boot.units || !isTileUnit u || (h.getStn s).powerGated == off then h
  else
    let h := h.updStn s fun t => { t with powerGated := off }
    if off then h.sleepStns old [s] else h.wakeStns old [s]

/-- A clock domain is gated or runs again (R48, R49); domains 25 and 26 clock no unit. -/
def Hub.domainClocked (h : Hub) (d : Nat) (off : Bool) : Hub :=
  let old := h
  if !bit h.boot.domains d || (decide (d < 25) && !h.boot.units) || !domainGateable d || bit h.gated d == off then h
  else
    let l := domainStations d
    let h := { h with gated := if off then h.gated ||| 2 ^ d else clearBits h.gated (2 ^ d) }
    let h := l.foldl (fun h s => h.updStn s fun t =>
      { t with clkGated := if off then t.clkGated ||| domainSubs s d else clearBits t.clkGated (domainSubs s d) }) h
    if off then h.sleepStns old l else h.wakeStns old l

/-- UNIT_SLEEP and UNIT_WAKE (R51, R184). -/
def Hub.supply (h : Hub) (n : Nat) (w : Supply) (off : Bool) : Hub :=
  match w with
  | .power => h.tilePower n off
  | .clock => h.domainClocked n off

/-! ## Messages of the firmware -/

/-- Firmware runs: the pair runs and the restart machine is in RUN. -/
def Hub.fwRuns (h : Hub) : Bool := h.boot.pairRunning && decide (h.rst.st = 0)

/-- SPN_ATTN_SET by the controller pair: the code is loaded and attention reason 8 set (R476). -/
def Hub.attnMessage (h : Hub) (code : Nat) : Hub := ({ h with span := { h.span with msg := code % 65536 } }).attnSet 8

/-- HUB_FW_DB by the controller pair: the code is loaded and vector 14 raised (R483). -/
def Hub.fwDoorbell (h : Hub) (code : Nat) : Hub := ({ h with db := { h.db with fwCode := code } }).irqRaise 14

/-- What firmware reports: 0x1810 for a lost compute rail (R509), 0x1800 + store for an uncorrected error (R503), with a doorbell. -/
def Hub.fwTell (h : Hub) (code : Nat) : Hub := if code = 0x1810 then h.attnMessage code else (h.fwDoorbell code).attnMessage code

/-- Firmware reports at once, or after the warm restart under way (R503). -/
def Hub.fwReport (h : Hub) (code : Nat) : Hub := if h.fwRuns then h.fwTell code else { h with fwDue := h.fwDue ++ [code] }

/-- Firmware's reaction to the loss of the compute side: at once, or after the warm restart under way (R511). -/
def Hub.computeLost (h : Hub) : Hub := if h.fwRuns then h.hangDie else { h with hang := { h.hang with dieWaiting := true } }

/-! ## Halting bring-up (Table 03.1) -/

/-- The PCIe endpoint answers: it has been released, and its domain has power and clock (R477, R506). -/
def Hub.endpointUp (h : Hub) : Bool := h.boot.endpoint && h.nocUp

/-- Bring-up enters a phase. -/
def Hub.enter (h : Hub) (phase : Nat) : Hub := { h with boot := { h.boot with phase := phase, since := h.clk.realNs } }

/-- Bring-up enters HALTED with a status; the pair stops. -/
def Hub.halt (h : Hub) (status : Nat) : Hub :=
  let h := ({ h with boot := { h.boot with status := status, section_ := 0, pairRunning := false } }).enter 13
  let h := h.attnSet 1
  if h.endpointUp then h.irqRaise 0 else h

/-- Record 0x0805 of the load that ends: mode and section index, the die_id while it is known, and a mode-1 section with its version. -/
def Hub.loadRecord (h : Hub) : Req :=
  let d := [leAt h.dieId 0 8, leAt h.dieId 8 8]
  let hdr := h.ldr.cur.hdr
  let sec := if h.ldr.mode = 1 ∧ leAt hdr 0 2 = 6 then [6 + at_ (leAt hdr 16 2) 16, leAt hdr 8 8] else []
  { h.evt 8 0x0805 with
    origin := (match h.ldr.owner with | some m => h.originOf m | none => 0), status := h.ldr.status,
    aux := h.ldr.mode + at_ (h.ldr.section_ % 256) 8,
    words := if h.boot.identity || !sec.isEmpty then d ++ sec else [] }

/-- A load in progress ends FAILED with a status; everything its sections would have installed is dropped (R106, Table 03.8). -/
def Hub.loadFail (h : Hub) (status : Nat) : Hub :=
  let h := { h with ldr := { h.ldr with st := .failed, status := status, endNs := h.clk.realNs, toVerify := [], cand := {} } }
  h.record h.loadRecord

/-- The loader stands in HEADER, SECTION, PAYLOAD or CHECK. -/
def Hub.loading (h : Hub) : Bool :=
  h.ldr.st == .header || h.ldr.st == .section_ || h.ldr.st == .payload || h.ldr.st == .check

/-! ## The clock monitor (R74, R126) -/

/-- Record 0x0704 (R74). -/
def Hub.fallbackReq (h : Hub) (count : Nat) (loss : Bool) (t : Nat) : Req :=
  { h.evt 7 0x0704 with aux := satAdd 65535 0 count + at_ (b2n loss) 16, arg := t }

/-- The hub runs on the board reference from tick `t` on. -/
def Hub.onBoard (h : Hub) (t : Nat) : Hub :=
  { h with clk := { h.clk with onPll := false, monitorArmed := false, fallback := true, pllLoss := true, fbTick := t },
           cyc := { h.cyc with pllLoss := true } }

/-- A fallback on a running die is the firmware's to answer; before RUNNING it ends bring-up (Table 03.1, R511). -/
def Hub.fallbackBoot (h : Hub) : Hub :=
  if h.boot.phase = 11 then h.computeLost
  else if h.boot.phase = 13 then h
  else (if h.loading then h.loadFail stAborted else h).halt stBuPll

/-- The hub switches to the board reference; `count` is what the deciding window counted. -/
def Hub.fallback (h : Hub) (count : Nat) (loss : Bool) : Hub :=
  let t := if h.clk.started then h.now + 10 else 0
  let n := h.onBoard t
  (((n.record (n.fallbackReq count loss t)).attnSet 6).sleepStns h allStations).dumpPathDown.fallbackBoot

/-- CLOCK_MONITOR_WINDOW: a window of 640 ns with fewer than 634 or more than 646 hub cycles. -/
def Hub.clockWindow (h : Hub) (n : Nat) : Hub :=
  if !h.clk.monitorArmed || (decide (634 ≤ n) && decide (n ≤ 646)) then h else h.fallback n false

/-- PLL_LOSS_OF_LOCK. -/
def Hub.lossOfLock (h : Hub) (n : Nat) : Hub := if h.clk.monitorArmed then h.fallback n true else h

/-! ## The rails (R509, R517) -/

/-- RAIL_BELOW_NOMINAL. -/
def Hub.railLow (h : Hub) : Hub :=
  if h.rail.low.isSome then h else { h with rail := { h.rail with low := some h.clk.realNs } }

/-- RAIL_RESTORED. -/
def Hub.railOk (h : Hub) : Hub := { h with rail := { h.rail with low := none } }

/-- Messages held in routers and links are lost with their power; the entries of capture stores stay (R509). -/
def Hub.messagesLost (h : Hub) : Hub := { h with stn := SMap.mapVal {} (fun _ t => { t with cap := { t.cap with held := [] } }) h.stn }

/-- RAIL_COLLAPSE: a rail has been low for 1 µs. -/
def Hub.railCollapse (h : Hub) : Hub :=
  match h.rail.low with
  | none => h
  | some t =>
    if h.rail.collapsed || decide (h.clk.realNs < t + 1000) then h
    else
      let old := h
      let h := ({ h with rail := { h.rail with collapsed := true, tick := h.now } }).messagesLost
      ((h.sleepStns old allStations).dumpPathDown.fwReport 0x1810).computeLost

end Sys2Proof.Machine
end

