-- ==== Sys2Proof/Machine/Time.lean ====
section
/-!
DEFINITION. Machine/Time.lean: the timebase copies of the stations (R129 to R131), the calendar (R133 to R137), time marks and the numbering
of link messages (R142 to R145).
-/
namespace Sys2Proof.Machine

/-! ## Timebase copies -/

/-- The compensation of the ring that carries a station's timebase flits. -/
def Stn.comp (t : Stn) : Nat := if t.compRing = 0 then t.compA else t.compB

/-- TIMEBASE_START_FLIT: the copy is loaded with comp × k (R130). -/
def Hub.tbStart (h : Hub) (s : Nat) : Hub :=
  if !h.clk.started || !h.observed s || (h.getStn s).tbOn then h
  else h.updStn s fun t => { t with tbOn := true, tbLead := (t.comp * h.perCycle : Nat) - (h.now : Int) }

/-- The copy of a station minus what a check flit sent at tick `v` says (R131). -/
def Hub.tbError (h : Hub) (s v : Nat) : Int := (h.stnTick s : Int) - ((v + (h.getStn s).comp * h.perCycle : Nat) : Int)

/-- TIMEBASE_CHECK_FLIT: the copy will be held back or catch up by the error; one beyond ±8 ticks writes record 0x0705 (R131, R154). -/
def Hub.tbCheck (h : Hub) (s v : Nat) : Hub :=
  if !h.clk.started || !h.observed s || !(h.getStn s).tbOn || h.clk.epoch % 256 != 0 then h
  else
    let e := h.tbError s v
    let n := e.natAbs
    if n = 0 then h
    else
      let h := (h.updStn s fun t => { t with tbErr := e }).rcAdd 0x1003C 0 20 4095 1
      let h := { (h.rcPeak 0x1003C 0 16 15 n) with cal := { h.cal with lastSkew := s } }
      if n ≤ 8 then h
      else h.record { h.evt 7 0x0705 with unit := s * 8, arg := (e % 2 ^ 64).toNat }

/-- One hub cycle of the correction of a station's copy (R131). -/
def Stn.correct (k : Nat) (t : Stn) : Stn :=
  if t.tbErr = 0 then t
  else
    let d : Int := if 0 < t.tbErr then Nat.min k t.tbErr.toNat else -(Nat.min k t.tbErr.natAbs : Nat)
    { t with tbLead := t.tbLead - d, tbErr := t.tbErr - d }

/-! ## The calendar -/

/-- A set takes effect, with the clock-set record (R134, R137). -/
def Hub.calApply (h : Hub) : Hub :=
  let c := h.cal
  let new := (c.value + 2 ^ 64 - c.applyAt % 2 ^ 64) % 2 ^ 64
  let gen := if c.gen = 0xFFFF then 1 else c.gen + 1
  let back := ahead64 c.offset new
  let r : Req := { cls := 8, code := 0x0804, tick := c.applyAt, origin := c.by_, arg := c.value,
                   words := [c.offset, new, gen + at_ (b2n back) 16] }
  ({ h with cal := { c with
    valid := true, offset := new, gen := gen, pending := false, setCyc := h.clk.cycle + 1, oldOffset := c.offset, oldGen := c.gen } }).clockSetRecord r

/-- The commit of TIM_CAL_VALUE by the operator requests a set for the tick in TIM_CAL_TICK (R134). -/
def Hub.calRequest (h : Hub) (m : Master) (v : Nat) : Hub :=
  let t := h.rwGet 0 0x10010 0
  let put := fun st => { h with cal := { h.cal with status := st } }
  if h.cal.pending then put stBusy
  else if t + 1000000000 < h.now ∨ h.now + 10000000000 < t then put stTimRange
  else
    let h := { h with cal := { h.cal with status := stOk, pending := true, applyAt := t, value := v, by_ := h.originOf m } }
    if t ≤ h.now then h.calApply else h

/-- CALENDAR_APPLY: the timebase has reached the apply tick. -/
def Hub.calDue (h : Hub) : Hub := if h.cal.pending && decide (h.cal.applyAt ≤ h.now) then h.calApply else h

/-! ## Time marks (R142 to R145) -/

/-- A link Perch. -/
def isLinkStn (s : Nat) : Bool := stnOk s && decide (stnClass s = 2)

/-- The 64 bytes of a time mark (log entry 40): type, sending package and link, MSN, send tick and the echoed pair. -/
def markBytes (pkg link msn send tx rx : Nat) : List Byte :=
  padTo 64 ([0x20, 0] ++ leBytes 2 (pkg + link * 1024) ++ leBytes 2 msn ++ zeros 2 ++ leBytes 8 send ++ leBytes 8 tx ++ leBytes 8 rx)

/-- TIME_MARK_SEND: a trained link's mark is due (R144). The spec gives the period alone: the first mark is due at once, and neither a retrain nor a time with
marks disabled moves the next one (DESIGN CHOICE, log entry 40). -/
def Hub.markSend (h : Hub) (s : Nat) : Hub :=
  let m := (h.getStn s).mark
  let c := h.rwGet 0x80000014 0x10038 0
  let t := h.stnTick s
  if !isLinkStn s || !h.boot.units || !h.observed s || !m.trained || !(h.getStn s).tbOn || !bit c 31 || !h.nocUp || decide (t < m.next) then h
  else
    let p := 2 ^ field c 4 0
    let (tx, rx) := if m.valid then (m.rxPeer, m.rxLocal) else (0, 0)
    let h := h.linkSend (s - 1072) (markBytes h.pkg (s - 1072) m.msnOut t tx rx)
    h.updStn s fun x => { x with mark := { x.mark with tx := t, next := if m.next + p ≤ t then t + p else m.next + p } }

/-- MSN `a` comes after MSN `b`. -/
def msnAfter (a b : Nat) : Bool := let d := (a + 65536 - b % 65536) % 65536; decide (1 ≤ d) && decide (d < 32768)

/-- TIME_MARK_RECEIVE: the registers of the exchange load, and source 5 emits an item; of two marks in one hub cycle the later MSN wins. -/
def Hub.markReceive (h : Hub) (s : Nat) (b : List Byte) : Hub :=
  let m := (h.getStn s).mark
  let t := h.stnTick s
  if !isLinkStn s || !h.boot.units || !m.trained || !h.nocUp || b.length != 64 || leAt b 0 1 != 0x20 then h
  else
    let old := m.valid && m.rxLocal == t && !msnAfter (leAt b 4 2) m.msn
    let item : Item := { src := s * 8 + 5, seq := m.seq5, tick := t, kind := .timeMark,
                         data := [leAt b 2 2 % 1024, leAt b 2 2 / 1024 % 32, leAt b 4 2, leAt b 8 8, leAt b 16 8, leAt b 24 8] }
    let h := ({ h with items := h.items ++ [item] }).stampReceived s (leAt b 4 2)
    h.updStn s fun x => { x with mark :=
      if old then { x.mark with seq5 := (x.mark.seq5 + 1) % 2 ^ 32 }
      else { x.mark with
        valid := true, peerPkg := leAt b 2 2 % 1024, peerLink := leAt b 2 2 / 1024 % 32, msn := leAt b 4 2, rxPeer := leAt b 8 8, rxLocal := t,
        echoTx := leAt b 16 8, echoRx := leAt b 24 8, seq5 := (x.mark.seq5 + 1) % 2 ^ 32 } }

/-- LINK_RETRAIN: the link is trained; its numbering starts again at 0, and the report stream has a resync item (R142). -/
def Hub.linkRetrain (h : Hub) (s : Nat) : Hub :=
  if !isLinkStn s || !h.boot.units then h
  else (h.reportItem s .resync []).updStn s fun x => { x with mark := { x.mark with trained := true, valid := false, msnOut := 0, msnIn := 0 } }

end Sys2Proof.Machine
end

