-- ==== Sys2Proof/Machine/Loader.lean ====
section
/-!
DEFINITION. Machine/Loader.lean: the assize loader (R97 to R111): taking it, the stream header and the section headers, the verification of
sections, the effects at DONE, failures, and the commit of a reload.
-/
namespace Sys2Proof.Machine

/-! ## The end of a load that fails (R107) -/

/-- The load in progress ends FAILED at a section; the bring-up sequencer and the restart machine take it up (Tables 03.1 and 03.11). -/
def Hub.loadEnds (h : Hub) (status idx : Nat) : Hub :=
  let h := ({ h with ldr := { h.ldr with section_ := idx } }).loadFail status
  if h.boot.phase = 6 then
    (({ h with boot := { h.boot with status := status, section_ := idx, imemValid := false } }).enter 5).attnSet 0
  else if h.rst.st = 2 ∧ h.ldr.mode = 2 then { h with rst := { h.rst with status := status } }
  else h

/-! ## Taking the loader (R99, R113) -/

/-- The modes that the loader's occasion admits for its owner (Table 03.3). -/
def Hub.occasion (h : Hub) (m : Master) (mode : Nat) : Bool :=
  match mode with
  | 0 => h.boot.phase == 6
  | 1 => h.boot.phase == 11 && h.ldr.reserved.isNone
  | 2 => (h.rst.st == 2 || h.rst.st == 3) && (h.ldr.reserved == some m || h.ldr.reserved.isNone)
  | _ => false

/-- The mode shown until the stream header has arrived: the one mode that the occasion admits, else the mode shown before. -/
def Hub.firstMode (h : Hub) (m : Master) : Nat :=
  match [0, 1, 2].filter (h.occasion m) with
  | [k] => k
  | _ => h.ldr.mode

/-- A start by a master that may make one: the loader is taken, or the start completes with ST_BUSY. -/
def Hub.aszStart (h : Hub) (m : Master) : Hub :=
  let held : Bool := match h.ldr.reserved with | some r => r != m | none => false
  let put := fun (h : Hub) st => { h with ldr := { h.ldr with result := SMap.set 0 h.ldr.result m.idx st } }
  if h.ldr.st ≠ .idle ∨ held then put h stBusy
  else
    let h := if h.boot.phase = 5 then h.enter 6 else h
    let mode := h.firstMode m
    put { h with ldr := { h.ldr with
      st := .header, owner := some m, mode := mode, section_ := 0, count := 0, buf := [], need := 64, length := 0, sectionCount := 0, dieId := [],
      types := [], targets := [], cur := {}, toVerify := [], cand := {}, lastNs := h.clk.realNs } } stOk

/-- An abort: it acts when the owner makes it while the load goes on. -/
def Hub.aszAbort (h : Hub) (m : Master) : Hub :=
  if h.ldr.owner = some m ∧ h.loading then h.loadEnds stAborted h.ldr.section_ else h

/-- A write of HUB_ASZ_CTRL: abort, then start. -/
def Hub.aszCtrl (h : Hub) (m : Master) (v : Nat) : Hub :=
  let h := if bit v 30 then h.aszAbort m else h
  if bit v 31 then h.aszStart m else h

/-! ## Headers (R100 to R102) -/

/-- The die_id of a stream header (Table 03.4): 0, or the die's own, which in mode 0 is compared once IDENT has given it (R97 step 5). -/
def Hub.headerDie (h : Hub) (mode : Nat) (id : List Byte) : Bool := mode == 0 || zeroAt id 0 16 || id == h.boot.dieId

/-- The stream header has arrived (Table 03.4). -/
def Hub.streamHeader (h : Hub) (m : Master) (b : List Byte) : Hub :=
  let mode := leAt b 6 2
  let ok := leAt b 0 4 == 0x335A5341 && leAt b 4 2 == 1 && h.occasion m mode && leAt b 8 8 % 8 == 0 && decide (64 ≤ leAt b 8 8)
    && zeroAt b 0x12 14 && zeroAt b 0x30 16 && h.headerDie mode (slice b 0x20 16)
  let h := if mode ≤ 2 then { h with ldr := { h.ldr with mode := mode } } else h
  if !ok then h.loadEnds stAszFormat 0
  else { h with ldr := { h.ldr with
    st := .section_, length := leAt b 8 8, sectionCount := leAt b 0x10 2, dieId := slice b 0x20 16, need := 32, buf := [] } }

/-- Signer of a section type (Table 03.6). -/
def secSigner (t : Nat) : Option Nat :=
  match t with
  | 1 => some 0 | 2 => some 0 | 3 => some 1 | 4 => some 2 | 5 => some 2 | 6 => some 2 | 0xFF => some 0xFFFF
  | _ => none

/-- Payload length that the table allows. -/
def secLength (t n : Nat) : Bool :=
  match t with
  | 1 => n == 296
  | 2 => n == 2160
  | 3 => decide (n ≤ 16 + 2 ^ 20)
  | 0xFF => n == 0
  | _ => decide (n ≤ 2 ^ 18)

/-- Section types of a mode, in their order (Table 03.3). -/
def modeTypes (mode : Nat) : List Nat :=
  match mode with | 0 => [1, 2, 3, 4, 5, 6, 0xFF] | 1 => [6, 0xFF] | _ => [3, 0xFF]

/-- A section may follow those before it. -/
def Ldr.inOrder (l : Ldr) (t target : Nat) : Bool :=
  (modeTypes l.mode).contains t && l.types.all (fun x => decide (x < t) || (x == 6 && t == 6 && l.mode == 0))
    && (if t = 6 then decide (target < 64) && !l.targets.contains target else target == 0)

/-- A section header has arrived (Tables 03.5 and 03.6). -/
def Hub.sectionHeader (h : Hub) (b : List Byte) : Hub :=
  let t := leAt b 0 2
  let n := leAt b 4 4
  let target := leAt b 16 2
  let ok := leAt b 2 2 == 0 && zeroAt b 0x14 12 && secSigner t == some (leAt b 18 2) && secLength t n && h.ldr.inOrder t target
  if !ok then h.loadEnds stAszFormat h.ldr.section_
  else if t = 0xFF then { h with ldr := { h.ldr with st := .check, buf := [] } }
  else
    let h := if t = 3 then { h with boot := { h.boot with imemValid := false } } else h
    { h with ldr := { h.ldr with
      st := .payload, buf := [], need := roundUp 8 n + 96, cur := { index := h.ldr.section_, hdr := b }, types := h.ldr.types ++ [t],
      targets := if t = 6 then h.ldr.targets ++ [target] else h.ldr.targets } }

/-- Payload and trailer of a section have arrived: it waits for its verification. -/
def Hub.sectionEnd (h : Hub) (b : List Byte) : Hub :=
  let n := roundUp 8 (leAt h.ldr.cur.hdr 4 4)
  let s := { h.ldr.cur with body := b.take n, sig := b.drop n }
  { h with ldr := { h.ldr with
    st := .section_, buf := [], need := 32, section_ := h.ldr.section_ + 1, cur := s, toVerify := h.ldr.toVerify ++ [s] } }

/-! ## Data (R99, R106) -/

/-- The image of a FIRMWARE section goes to instruction memory as it arrives: `b` at payload offset `p`. -/
def Hub.imageWord (h : Hub) (p : Nat) (b : List Byte) : Hub :=
  if h.ldr.st ≠ .payload ∨ leAt h.ldr.cur.hdr 0 2 ≠ 3 ∨ p < 16 then h
  else
    let last := Nat.min (leAt h.ldr.cur.hdr 4 4) (16 + Nat.min (2 ^ 20) (leAt h.ldr.buf 4 4))
    let v := b.take (last - p)
    { h with boot := { h.boot with imem := slice h.boot.imem 0 (p - 16) ++ v ++ h.boot.imem.drop (p - 16 + v.length) } }

/-- The part being received is whole. -/
def Hub.partDone (h : Hub) (m : Master) : Hub :=
  let b := h.ldr.buf
  match h.ldr.st with
  | .header => h.streamHeader m b
  | .section_ => h.sectionHeader b
  | .payload => h.sectionEnd b
  | _ => h

/-- A word of the stream from the owner; other words are dropped. -/
def Hub.aszData (h : Hub) (m : Master) (w : Nat) : Hub :=
  if h.ldr.owner ≠ some m ∨ !h.loading then h
  else
    let h := { h with ldr := { h.ldr with count := h.ldr.count + 4, lastNs := h.clk.realNs } }
    if h.ldr.st = .check then h.loadEnds stAszFormat (h.ldr.section_ + 1)
    else if h.ldr.st ≠ .header ∧ h.ldr.length < h.ldr.count then h.loadEnds stAszFormat h.ldr.section_
    else
      let b := leBytes 4 w
      let h := h.imageWord h.ldr.buf.length b
      let h := { h with ldr := { h.ldr with buf := h.ldr.buf ++ b } }
      if h.ldr.buf.length < h.ldr.need then h else h.partDone m

/-! ## Verification (R97, R103 to R105, R108, R418) -/

/-- Entries of a write list from an offset on. -/
def writeList (b : List Byte) (off n : Nat) : List (Nat × Nat) :=
  (List.range n).map fun i => (leAt b (off + 8 * i) 4, leAt b (off + 8 * i + 4) 4)

/-- Registers that the installer role may write (Table 13.3). -/
def WrRight.installer (w : WrRight) : Bool :=
  match w with | .bench => true | .cfg => true | .any => true | .trcctl => true | .cectl => true | _ => false

/-- A write-list entry meets its section's rule (R105). -/
def Hub.entryOk (h : Hub) (t target : Nat) (e : Nat × Nat) : Bool :=
  match locate e.1 with
  | none => false
  | some l =>
    (l.row.kind == .rw || l.row.kind == .rws || l.row.fam == .cutBench) && !l.mirror && (decide (l.base < 0x100000) || h.observed l.stn)
      && (if t = 6 then l.row.wr == .spol && (policyOffs target).contains l.base
          else l.row.wr.installer && !((l.row.wr == .trcctl || l.row.wr == .cectl) && bit e.2 30))

/-- Candidate `j` of the identity scalar (R97 step 2). -/
def idCandidate (seed : List Byte) (j : Nat) : Nat :=
  ofBe (padTo 48 (Config.hmac384 seed (beBytes 4 j ++ ascii "CLOIR-DEVID" ++ [0] ++ beBytes 4 384)))

/-- The first candidate in range among the `n` from `j` on. -/
def idFrom (seed : List Byte) : Nat → Nat → Option Nat
  | 0, _ => none
  | n + 1, j =>
    let k := idCandidate seed j
    if 1 ≤ k ∧ k < Config.p384Order then some k else idFrom seed n (j + 1)

/-- The identity private scalar: the first candidate in range of those that the 32-bit counter numbers (R97 step 2). -/
def idScalar (seed : List Byte) : Option Nat := idFrom seed (2 ^ 32 - 1) 1

/-- What a verified section adds to what the load will install, or the status with which it fails; `p` its payload. -/
abbrev Verdict := Nat × Cand

/-- KEYS. -/
def Cand.takeKeys (c : Cand) (p : List Byte) : Verdict :=
  (stOk, { c with keys := { c.keys with
    root := slice p 0 96, fw := slice p 96 96, inst := slice p 192 96, serial := leAt p 288 8, valid := true } })

/-- IDENT: the identity is derived and compared (R97). -/
def Hub.takeIdent (h : Hub) (c : Cand) (p : List Byte) : Verdict :=
  let seed := padTo 32 (Config.pufCorrect h.boot.puf (slice p 112 2048))
  match idScalar seed with
  | none => (stAszIdent, c)
  | some k =>
    let pub := padTo 96 (Config.p384Mul k)
    let id := (sha384 pub).take 16
    if pub ≠ slice p 16 96 ∨ id ≠ slice p 0 16 ∨ (!zeroAt h.ldr.dieId 0 16 ∧ h.ldr.dieId ≠ id) then (stAszIdent, c)
    else (stOk, { c with dieId := id, diePub := pub, diePriv := k, rootKey := kdf seed "CLOIR-ROOT" [] 48 })

/-- FIRMWARE (R104). -/
def Cand.takeImage (c : Cand) (p : List Byte) (n : Nat) : Verdict :=
  let len := leAt p 4 4
  if n < 16 ∨ !zeroAt p 8 8 ∨ 2 ^ 20 < len ∨ len % 8 ≠ 0 ∨ len ≤ leAt p 0 4 ∨ n ≠ 16 + len then (stAszFormat, c)
  else (stOk, { c with image := slice p 16 len, entry := leAt p 0 4 })

/-- The Tun placement of R108. -/
def tunOk (base size : Nat) : Bool :=
  base % 0x200000 == 0 && size % 0x200000 == 0 && decide (0x10000000 ≤ size) && decide (size ≤ 0x1000000000) && decide (base + size ≤ 0x861C468000)

/-- HUB (R104, R105, R108). -/
def Hub.takeHub (h : Hub) (c : Cand) (p : List Byte) (n : Nat) : Verdict :=
  let k := leAt p 112 4
  let ws := writeList p 120 k
  if n ≠ 120 + 8 * k ∨ 1024 ≤ leAt p 116 4 then (stAszFormat, c)
  else if !tunOk (leAt p 0 8) (leAt p 8 8) then (stAszTun, c)
  else if !ws.all (h.entryOk 4 0) then (stAszWrite, c)
  else (stOk, { c with
    keys := { c.keys with op := slice p 16 96, opValid := true }, tunBase := leAt p 0 8, tunSize := leAt p 8 8, pkg := leAt p 116 4,
    writes := c.writes ++ ws })

/-- OBSERVE (R104, R105). -/
def Hub.takeObserve (h : Hub) (c : Cand) (p : List Byte) (n : Nat) : Verdict :=
  let k := leAt p 0 4
  let ws := writeList p 8 k
  if n ≠ 8 + 8 * k ∨ !zeroAt p 4 4 then (stAszFormat, c)
  else if !ws.all (h.entryOk 5 0) then (stAszWrite, c)
  else (stOk, { c with writes := c.writes ++ ws })

/-- Reason with which the loader refuses a section that needs consent; 0 where its token is held (R418). -/
def Hub.consentReason (h : Hub) (s : Nat) (digest : List Byte) : Nat :=
  let k := h.getKeys s
  let tok := h.tokenSeen s
  if h.ldr.mode = 0 ∨ !h.sliceExists s ∨ k.owner.isEmpty then 7
  else if tok.isEmpty then 12
  else if leAt tok 0x20 8 ≠ k.cur.keyId then 8
  else if slice tok 0x28 48 ≠ digest then 12
  else 0

/-- SLICEOBS (R104 to R106): its layout, version and write list. -/
def Hub.takeSlice (h : Hub) (c : Cand) (r : SecRec) (p : List Byte) (n : Nat) : Verdict :=
  let k := leAt p 0 4
  let ws := writeList p 8 k
  let old := (h.getKeys r.target).section_
  if n ≠ 8 + 8 * k ∨ !zeroAt p 4 4 then (stAszFormat, c)
  else if h.ldr.mode = 1 ∧ old.present ∧ r.version ≤ old.version then (stAszVersion, c)
  else if !ws.all (h.entryOk 6 r.target) then (stAszWrite, c)
  else
    let needs := r.target != 0 && ws.any fun w => needsConsent r.target w.1 w.2
    let c := { c with slices := c.slices ++ [(r.target, r, ws)] }
    if !needs then (stOk, c)
    else if h.consentReason r.target r.digest = 0 then (stOk, { c with consent := c.consent ++ [(r.target, h.tokenSeen r.target)] })
    else (stDenied, c)

/-- The public key that a section's signature is checked with, or the status where there is none (R102, R103). -/
def Hub.signerKey (h : Hub) (t : Nat) (p : List Byte) : Nat × List Byte :=
  let k := if h.ldr.mode = 0 then h.ldr.cand.keys else h.boot.keys
  if t = 1 then (if sha384 (slice p 0 96) = padTo 48 Config.romKeyHash then stOk else stAszKey, slice p 0 96)
  else if !k.valid then (if h.ldr.mode = 0 then stAszMissing else stBadsig, [])
  else (stOk, match secSigner t with | some 0 => k.root | some 1 => k.fw | _ => k.inst)

/-- Section record of a section (Table 13.9). -/
def Section.record (s : Section) (digest : List Byte) : SecRec :=
  { present := true, typ := leAt s.hdr 0 2, target := leAt s.hdr 16 2, version := leAt s.hdr 8 8, digest := digest }

/-- The checks of a section's payload by its type. -/
def Hub.takeSection (h : Hub) (s : Section) (r : SecRec) : Verdict :=
  let c := h.ldr.cand
  let n := leAt s.hdr 4 4
  let c := if r.typ < 6 then { c with recs := SMap.set {} c.recs r.typ r } else c
  match r.typ with
  | 1 => c.takeKeys s.body
  | 2 => h.takeIdent c s.body
  | 3 => c.takeImage s.body n
  | 4 => h.takeHub c s.body n
  | 5 => h.takeObserve c s.body n
  | _ => h.takeSlice c r s.body n

/-- Record 0x0824 of a section refused for want of consent. -/
def Hub.consentRecord (h : Hub) (r : SecRec) : Req :=
  { h.evt 8 0x0824 with slice := r.target, origin := Master.loader.origin, status := stDenied, aux := h.consentReason r.target r.digest,
                        arg := r.version, words := digestWords r.digest }

/-- ASZ_SECTION_VERIFIED: the check of the oldest section that waits has ended. -/
def Hub.sectionVerified (h : Hub) : Hub :=
  match h.ldr.toVerify with
  | [] => h
  | s :: rest =>
    let digest := sha384 (s.hdr ++ s.body)
    let r := s.record digest
    let (st, key) := h.signerKey r.typ s.body
    if st ≠ stOk then h.loadEnds st s.index
    else if !Config.ecdsaVerify key digest (padTo 96 s.sig) then h.loadEnds stBadsig s.index
    else
      let (st, c) := h.takeSection s r
      if st = stOk then { h with ldr := { h.ldr with toVerify := rest, cand := c } }
      else
        let h := if st = stDenied then h.record (h.consentRecord r) else h
        h.loadEnds st s.index

/-! ## DONE (R106, R107, R110, R124) -/

/-- Instruction memory as its hash covers it: 1 MiB. -/
def Boot.imemHash (b : Boot) : List Byte := sha384 (padTo 0x100000 b.imem)

/-- A new image is in instruction memory, with its hash. -/
def Hub.installImage (h : Hub) : Hub :=
  let b := { h.boot with imemValid := true, imemBad := false, entry := h.ldr.cand.entry }
  { h with boot := { b with imageHash := b.imemHash } }

/-- Keys, identity, package index and Tun placement of a mode-0 load. -/
def Hub.installBoot (h : Hub) : Hub :=
  let c := h.ldr.cand
  { h with boot := { h.boot with
    keys := c.keys, dieId := c.dieId, diePub := c.diePub, diePriv := c.diePriv, rootKey := c.rootKey, identity := true, pkg := c.pkg, pkgValid := true,
    tunBase := c.tunBase, tunSize := c.tunSize, recs := c.recs } }

/-- A section for a slice is recorded; its write list is held for a slice that does not exist. -/
def Hub.holdSection (h : Hub) (e : Nat × SecRec × List (Nat × Nat)) : Hub :=
  h.updKeys e.1 fun k => { k with section_ := e.2.1, heldWrites := e.2.2, heldValid := true }

/-- Slice 0's section in mode 0: recorded; its writes join those of the load. -/
def Hub.bootSlices (h : Hub) : Hub :=
  let l := h.ldr.cand.slices
  let h := (l.filter fun e => e.1 != 0).foldl Hub.holdSection h
  let zero := l.filter fun e => e.1 == 0
  let h := zero.foldl (fun h e => h.updKeys 0 fun k => { k with section_ := e.2.1 }) h
  { h with boot := { h.boot with writes := h.ldr.cand.writes ++ zero.flatMap fun e => e.2.2 } }

/-- DONE of a mode-0 load: everything is installed, and the pair starts at the entry point. -/
def Hub.doneBoot (h : Hub) : Hub :=
  let h := h.installBoot.installImage.bootSlices
  ({ h with boot := { h.boot with pairRunning := true, mismatches := 0, dmem := [] }, rst := { h.rst with st := 0 } }).enter 7

/-- DONE of a mode-1 load: the section takes effect, or is held (R110); a token it needed is consumed (R418). -/
def Hub.doneReload (h : Hub) : Hub :=
  let h := h.ldr.cand.consent.foldl (fun h e =>
    h.updKeys e.1 fun k => { k with consent := sha384 e.2, token := if k.token = e.2 then [] else k.token }) h
  match h.ldr.cand.slices with
  | [] => h
  | e :: _ =>
    if h.sliceExists e.1 then
      let h := (h.updKeys e.1 fun k => { k with section_ := e.2.1 }).applyWrites e.2.2
      { h with ldr := { h.ldr with reload := h.ldr.reload ++ [e.1] } }
    else h.holdSection e

/-- Records 0x0823 of the consent that a reload has used. -/
def Hub.consentUsed (h : Hub) : Hub :=
  h.ldr.cand.consent.foldl (fun h e =>
    (h.ldr.cand.slices.filter fun x => x.1 == e.1).foldl (fun h x =>
      h.record { h.evt 8 0x0823 with slice := e.1, origin := Master.loader.origin, aux := x.2.1.version % 2 ^ 32, arg := leAt e.2 0x20 8,
                                     words := digestWords x.2.1.digest }) h) h

/-- DONE of a mode-2 load: the restart goes on with the new image (Table 03.11). -/
def Hub.doneImage (h : Hub) : Hub :=
  let h := h.installImage
  let h := { h with boot := { h.boot with recs := SMap.set {} h.boot.recs 3 (SMap.get {} h.ldr.cand.recs 3) } }
  let only := decide (h.rst.st = 3)
  if h.rst.st = 2 ∨ h.rst.st = 3 then
    { h with
      rst := { h.rst with st := 1, hashed := false, started := false, mismatches := if only then 0 else h.rst.mismatches,
                          timer := if only then h.clk.cycle else h.rst.timer },
      ldr := { h.ldr with reserved := none } }
  else h

/-- Status with which a stream that has ended is refused, or ST_OK: the required sections are present, and the lengths agree. -/
def Ldr.checkStatus (l : Ldr) : Nat :=
  let need := match l.mode with | 0 => [1, 2, 3, 4] | 1 => [6] | _ => [3]
  if !need.all l.types.contains then stAszMissing
  else if l.length ≠ l.count ∨ l.sectionCount ≠ l.section_ + 1 then stAszFormat
  else stOk

/-- ASZ_LOAD_DONE: after END, once every section has verified. -/
def Hub.loadDone (h : Hub) : Hub :=
  if h.ldr.st ≠ .check ∨ !h.ldr.toVerify.isEmpty then h
  else
    let st := h.ldr.checkStatus
    if st ≠ stOk then h.loadEnds st h.ldr.section_
    else
      let h := { h with ldr := { h.ldr with st := .done, status := stOk, endNs := h.clk.realNs } }
      let h := match h.ldr.mode with
        | 0 => h.doneBoot
        | 1 => h.consentUsed.doneReload
        | _ => h.doneImage
      let h := h.record h.loadRecord
      { h with ldr := { h.ldr with cand := {} } }

/-! ## The return to IDLE, timeouts and the commit of a reload -/

/-- The loader returns to IDLE from DONE or FAILED. -/
def Hub.loaderIdle (h : Hub) : Hub :=
  if h.ldr.st = .done ∨ h.ldr.st = .failed then { h with ldr := { h.ldr with st := .idle, owner := none } } else h

/-- ASZ_IDLE_RETURN: 1 ms after DONE or FAILED. -/
def Hub.idleReturn (h : Hub) : Hub := if h.clk.realNs < h.ldr.endNs + 1000000 then h else h.loaderIdle

/-- ASZ_TIMEOUT: 100 ms without a word from the owner. -/
def Hub.aszTimeout (h : Hub) : Hub :=
  if (h.ldr.st = .header ∨ h.ldr.st = .section_ ∨ h.ldr.st = .payload) ∧ h.ldr.lastNs + 100000000 ≤ h.clk.realNs then
    h.loadEnds stTimeout h.ldr.section_
  else h

/-- RELOAD_COMMIT: the loader writes HUB_COMMIT once its earlier commit has taken effect (R111). -/
def Hub.reloadCommit (h : Hub) : Hub :=
  match h.ldr.reload with
  | [] => h
  | s :: rest =>
    if (h.getStat .loader).pending then h
    else
      let h := ({ h with ldr := { h.ldr with reload := rest } }).commitRequest .loader 1 s
      let st := (h.getStat .loader).status
      if (h.getStat .loader).pending then h else { h with ldr := { h.ldr with status := st } }

end Sys2Proof.Machine
end

