-- ==== Sys2Proof/Machine/Bringup.lean ====
section
/-!
DEFINITION. Machine/Bringup.lean: the bring-up sequencer (R91 to R96, Table 03.1), the warm restart (R112 to R116, Table 03.11), the comparator of
the controller pair (R52), the hardware watchdog (R305, R306), the Firkin's retention (R95, R123) and the loss of the island's supply.
-/
namespace Sys2Proof.Machine

/-! ## Cold reset (R92, R95) -/

/-- The hub after a cold reset: every register at its reset value, every SRAM but the Firkin clear. -/
def Hub.cold (h : Hub) (island : Bool) : Hub :=
  { sec := { drbg := h.sec.drbg }, free := h.free, boot := { island := island },
    ecc := { firkinBad := if island then h.ecc.firkinBad else [] } }

/-- COLD_N falls. -/
def Hub.coldFall (h : Hub) : Hub := if h.boot.coldN then h.cold h.boot.island else h

/-- COLD_N rises, which the board does only with the island supplied (R92): domains 20, 21 and 27 run from the board reference; SPDI strapped
low selects the TAP. -/
def Hub.coldRise (h : Hub) (spdiLow : Bool) : Hub :=
  if h.boot.coldN then h
  else
    ({ h with boot := { h.boot with coldN := true, island := true, domains := 2 ^ 20 + 2 ^ 21 + 2 ^ 27 },
              span := { h.span with tap := spdiLow, ir := 1 } }).enter 1

/-- The always-on island loses its supply: the hub stops. -/
def Hub.islandLoss (h : Hub) : Hub := if h.boot.island then h.cold false else h

/-- The memories after the island has lost its supply: the Firkin is empty. -/
def Mem.islandLoss (m : Mem) (h : Hub) : Mem := if h.boot.island then { m with firkin := [], firkin0 := [] } else m

/-! ## CLOCK to CHAIN -/

/-- PLL_LOCK. -/
def Hub.pllLock (h : Hub) : Hub :=
  if h.boot.phase ≠ 1 then h else ({ h with clk := { h.clk with onPll := true, monitorArmed := true } }).enter 2

/-- PLL_LOCK_TIMEOUT: 1 ms after the rise of COLD_N. -/
def Hub.pllTimeout (h : Hub) : Hub := if h.boot.phase = 1 ∧ 1000000 ≤ h.clk.realNs then h.halt stBuPll else h

/-- The Firkin holds a valid header that is not released (R95, R333). -/
def Hub.firkinHeld (h : Hub) (m : Mem) : Bool :=
  let b := m.firkinRead 0 8
  leAt b 0 4 == 0x4E4B5246 && leAt b 4 2 == 1 && leAt b 6 2 == 2 && !h.ecc.firkinBad.contains 0

/-- SELFTEST_DONE: with every test passed the nonces are drawn (R394, R410) and the Firkin's retention is checked. -/
def Hub.selftest (h : Hub) (m : Mem) (pass : Bool) : Hub :=
  if h.boot.phase ≠ 2 then h
  else if !pass then h.halt stBuSelftest
  else
    let h := (h.nonceDraw .host).nonceDraw .span
    let (n, h) := h.draw 32
    ({ h with er := { h.er with chainNonce := n }, boot := { h.boot with kept := h.firkinHeld m } }).enter 3

/-- PUF_CAPTURE_DONE: the response is held, and the audit chain starts on entry to CHAIN (R96, R394). -/
def Hub.pufDone (h : Hub) (response : List Byte) : Hub :=
  if h.boot.phase ≠ 3 then h else (({ h with boot := { h.boot with puf := response } }).enter 4).auditChainStart

/-- The compensation of a station on a segment both of whose rings, or only ring `r`, trained (R128). -/
def Stn.train (s : Nat) (a b : Bool) (t : Stn) : Stn :=
  { t with compA := if a then 30 + 2 * stnPos s else 0, compB := if b then 176 - 2 * stnPos s else 0, compDesign := !(a && b), compRing := b2n (!a) }

/-- A ring that did not train (Table 03.1). -/
def Hub.deadRing (h : Hub) (r : Nat) : Hub :=
  let h := { h with chain := { h.chain with ringBad := h.chain.ringBad ||| 2 ^ r } }
  h.record { h.evt 7 0x0703 with aux := r / 2 + 16 * (r % 2) }

/-- A station after training: bypassed, or compensated. -/
def Hub.trainStn (h : Hub) (untrained : List Nat) (s : Nat) : Hub :=
  let a := !bit h.chain.ringBad (2 * stnSeg s)
  let b := !bit h.chain.ringBad (2 * stnSeg s + 1)
  if !a && !b then h.bypassStn s .rings
  else if untrained.contains s then h.bypassStn s .untrained
  else h.updStn s (Stn.train s a b)

/-- CHAIN_TRAINING_DONE: the stations that did not answer and the rings whose marker did not return; ring 2g is ring A of segment g. -/
def Hub.trained (h : Hub) (untrained dead : List Nat) : Hub :=
  if h.boot.phase ≠ 4 then h
  else if (List.range 32).all dead.contains then h.halt stBuChain
  else
    let h := ((List.range 32).filter dead.contains).foldl Hub.deadRing h
    let h := allStations.foldl (fun h s => h.trainStn untrained s) h
    (({ h with boot := { h.boot with domains := h.boot.domains ||| 2 ^ 25, endpoint := true } }).enter 5).attnSet 0

/-! ## FWSTART to RUNNING -/

/-- The timebase starts: this hub cycle is tick 0 and the start of epoch 0 (R63, R125). -/
def Hub.timebaseStart (h : Hub) : Hub :=
  { h with clk := { h.clk with started := true, tick := 0, epoch := 0, epochCycle := 0 } }

/-- A kick of the watchdog (R305). -/
def Hub.kick (h : Hub) : Hub := { h with wdog := { h.wdog with silent := 0 } }

/-- HUB_FW_READY in FWSTART. -/
def Hub.readyBoot (h : Hub) : Hub :=
  let ws := h.boot.writes
  ((h.timebaseStart.kick.applyWrites ws).commitAdd .bringup 0 0).enter 8

/-- HUB_FW_READY in STARTING: the restart ends, and firmware turns to what has waited. -/
def Hub.readyRestart (h : Hub) : Hub :=
  let h := { h with rst := { h.rst with st := 0, mismatches := 0, status := stOk } }
  let due := h.fwDue
  let h := due.foldl Hub.fwTell (({ h with fwDue := [] }).kick.irqRaise 1)
  h.nextSeq

/-- The controller pair writes HUB_FW_READY (R121). -/
def Hub.fwReady (h : Hub) : Hub :=
  if !h.boot.pairRunning then h
  else
    let g := if h.boot.phase = 7 then h.readyBoot else h
    if h.rst.st = 1 then g.readyRestart else g

/-- FW_READY_TIMEOUT: 100 ms after FWSTART was entered. -/
def Hub.readyTimeout (h : Hub) : Hub :=
  if h.boot.phase = 7 ∧ h.boot.since + 100000000 ≤ h.clk.realNs then
    (({ h with boot := { h.boot with status := stTimeout, section_ := 0, imemValid := false, pairRunning := false } }).enter 5).attnSet 0
  else h

/-- A channel holds bytes of the Tun (R521). -/
def tunChannel (base size c : Nat) : Bool :=
  let k := c / 8 * 48000000000
  let lo := Nat.max base k
  let hi := Nat.min (base + size) (k + 48000000000)
  let g0 := (lo - k) / 4096
  let g1 := (hi - 1 - k) / 4096
  decide (lo < hi) && decide ((c % 8 + 8 - g0 % 8) % 8 ≤ g1 - g0)

/-- Record 0x0708 of a channel that failed training. -/
def Hub.channelFailed (h : Hub) (c : Nat) : Hub := h.record { h.evt 7 0x0708 with unit := (1024 + c / 2) * 8 + c % 2, aux := c }

/-- HBM_TRAINING_DONE with the channels that failed. -/
def Hub.hbmTrained (h : Hub) (failed : List Nat) : Hub :=
  if h.boot.phase ≠ 9 then h
  else
    let bad := (List.range 96).filter failed.contains
    if bad.any (tunChannel h.boot.tunBase h.boot.tunSize) then h.halt stBuHbm
    else
      let h := h.hbmWrite h.boot.tunBase h.tunHeaderBytes
      (bad.foldl Hub.channelFailed { h with boot := { h.boot with failedCh := bad, tunHeader := true } }).enter 10

/-- TILE_RESET_COMPLETE: every domain and unit is released, and slice 0 is created (R454). -/
def Hub.tilesUp (h : Hub) : Hub :=
  if h.boot.phase ≠ 10 then h
  else
    let h := { h with boot := { h.boot with domains := h.boot.domains ||| (2 ^ 20 - 1 + 2 ^ 24), units := true } }
    (((h.sliceNew 0 0 0).enter 11).irqRaise 0).attnSet 2

/-! ## The warm restart (R112 to R116) -/

/-- What firmware was doing for a hang is lost: the sequence, its verdicts, and the graph, which ends with ST_ABORTED (R306). -/
def Hub.hangDrop (h : Hub) : Hub :=
  let g := h.hang
  { h with hang := { g with
    seq := {}, waiting := [], jobs := [], building := false,
    wfgStatus := if g.building then clearBits (g.wfgStatus % 2 ^ 31) 0xFFFF + stAborted else g.wfgStatus } }

/-- A mailbox message in progress completes with ST_BUSY (Table 03.13). -/
def Mbx.stop (x : Mbx) : Mbx := if x.busy then { x with busy := false, forming := none, sub := [], status := stBusy } else x

/-- A telemetry query in progress completes with ST_BUSY (Table 03.13). -/
def Query.stop (q : Query) : Query := if q.busy then { q with busy := false, status := stBusy } else q

/-- The mailbox and the telemetry query of a master stop. -/
def Hub.queryBusy (h : Hub) (m : Master) : Hub :=
  { h with mbx := SMap.upd {} h.mbx m.idx Mbx.stop, tlm := { h.tlm with q := SMap.upd {} h.tlm.q m.idx Query.stop } }

/-- Mailbox messages and telemetry queries in progress complete with ST_BUSY. -/
def Hub.queriesBusy (h : Hub) : Hub := (((h.queryBusy .pair).queryBusy .loader).queryBusy .host).queryBusy .span

/-- The pair stops: its latch, staging register and Chain window go, and so does what its firmware was doing. -/
def Hub.pairStop (h : Hub) : Hub :=
  let h := { h with boot := { h.boot with pairRunning := false, dmem := [] },
                    latch := SMap.set 0 h.latch Master.pair.idx 0, stageLo := SMap.set 0 h.stageLo Master.pair.idx 0 }
  let h := if (h.getWin .pair).held then h.winDrop .pair stOk else h
  h.hangDrop.queriesBusy.dumpStop

/-- The restart machine takes a cause at restart tick W. -/
def Hub.restartSet (h : Hub) (cause : Nat) (m : Option Master) : Hub :=
  { h with
    rst := { h.rst with
      st := if cause = 1 then 2 else 1, cause := cause, mismatches := if cause = 2 then 1 else 0, restarts := satAdd 255 h.rst.restarts 1,
      w := h.now, timer := h.clk.cycle, hashed := false, started := false },
    ldr := { h.ldr with reserved := if cause = 1 then m else none },
    wdog := { h.wdog with silent := 0 } }

/-- A restart from RUN, with record 0x0706. -/
def Hub.restartRun (h : Hub) (cause : Nat) (m : Option Master) : Hub :=
  let h := h.pairStop
  (h.record { h.evt 7 0x0706 with aux := cause, arg := h.now }).restartSet cause m

/-- A restart by its cause (Table 03.11): from RUN, once a pair has been started, or, for causes 0 and 1, from HW_ONLY. Causes 2 to 4 are never refused
(R116); cause 4 in STARTING has no row, so that it changes nothing and is recorded with ST_OK (DESIGN CHOICE, log entry 38). -/
def Hub.restart (h : Hub) (cause : Nat) (m : Option Master) : Hub :=
  if h.boot.phase < 7 then h
  else if h.rst.st = 0 then h.restartRun cause m
  else if h.rst.st = 3 ∧ cause ≤ 1 then h.restartSet cause m
  else h

/-- A restart on request is refused (R116). -/
def Hub.restartBusy (h : Hub) : Bool := h.boot.phase != 11 || h.loading || (h.rst.st != 0 && h.rst.st != 3)

/-- A write of HUB_RESTART, with record 0x0806. -/
def Hub.restartWrite (h : Hub) (m : Master) (v : Nat) : Hub :=
  if !bit v 31 then h
  else
    let new := b2n (bit v 30)
    let busy := m != .pair && h.restartBusy
    let h := h.record { h.auditBy m 0x0806 with aux := new, status := if busy then stBusy else stOk }
    if busy then { h with rst := { h.rst with status := stBusy } }
    else h.restart (if m = .pair then 4 else new) (some m)

/-- RESTART_HASH_CHECK: the image is intact, or the pair waits for a new one with ST_BADSIG. -/
def Hub.hashCheck (h : Hub) : Hub :=
  if h.rst.st ≠ 1 ∨ h.rst.hashed then h
  else if h.boot.imemValid && !h.boot.imemBad && h.boot.imemHash == h.boot.imageHash then { h with rst := { h.rst with hashed := true } }
  else
    (({ h with rst := { h.rst with st := 2, status := stBadsig }, ldr := { h.ldr with reserved := none } }).attnSet 5).irqRaise 1

/-- RESTART_PAIR_START: data memory is clear, and with a passed self-test the pair starts at the entry point. -/
def Hub.pairStart (h : Hub) (pass : Bool) : Hub :=
  if h.rst.st ≠ 1 ∨ !h.rst.hashed ∨ h.rst.started ∨ !pass ∨ h.boot.phase = 13 then h
  else { h with rst := { h.rst with started := true }, boot := { h.boot with pairRunning := true, dmem := [] } }

/-- The restart machine enters HW_ONLY; the loader is free for any installer or maker master. -/
def Hub.hwOnly (h : Hub) (status : Nat) : Hub :=
  ({ h with rst := { h.rst with st := 3, status := status }, boot := { h.boot with pairRunning := false },
            ldr := { h.ldr with reserved := none } }).attnSet 5

/-- RESTART_TIMEOUT: 100 ms on the restart timer. -/
def Hub.restartTimeout (h : Hub) : Hub :=
  if (h.rst.st = 1 ∨ h.rst.st = 2) ∧ h.rst.timer + 100000000 ≤ h.clk.cycle then
    ((h.record { h.evt 7 0x0707 with status := stTimeout, aux := h.rst.st, arg := h.rst.w }).hwOnly stTimeout).irqRaise 1
  else h

/-! ## The comparator (R52) -/

/-- Record 0x0701. -/
def Hub.mismatchRecord (h : Hub) (n pc o0 o1 : Nat) : Hub := h.record { h.evt 7 0x0701 with aux := n, arg := pc, words := [o0, o1] }

/-- LOCKSTEP_MISMATCH. -/
def Hub.mismatch (h : Hub) (pc o0 o1 : Nat) : Hub :=
  if !h.boot.pairRunning then h
  else if h.boot.phase = 7 then
    let n := h.boot.mismatches + 1
    let h := ({ h with boot := { h.boot with mismatches := n } }).mismatchRecord n pc o0 o1
    if 3 ≤ n then h.halt stBuLockstep else h
  else if h.rst.st = 0 then (h.mismatchRecord 1 pc o0 o1).restart 2 none
  else
    let n := h.rst.mismatches + 1
    let h := ({ h with rst := { h.rst with mismatches := n } }).mismatchRecord n pc o0 o1
    if 3 ≤ n then h.hwOnly stBuLockstep else h

/-! ## The watchdog (R305, R306) -/

/-- The state of every cut, two slices to a word. -/
def Hub.cutWords (h : Hub) : List Nat :=
  midView h .pair .cutDstate 0 ::
    (List.range 32).map fun n => midView h .pair .cutSstate (2 * n) + at_ (midView h .pair .cutSstate (2 * n + 1)) 32

/-- The watchdog counts: the pair runs in RUN, and firmware has been ready since the cold reset. -/
def Hub.wdogOn (h : Hub) : Bool :=
  h.boot.pairRunning && decide (8 ≤ h.boot.phase) && decide (h.rst.st = 0) && !h.wdog.core

/-- WATCHDOG_EXPIRY at 100 ms of silence: the pair stops, and the crash core begins. -/
def Hub.wdogExpire (h : Hub) (m : Mem) (pc : Nat) : Hub :=
  if !h.wdogOn || decide (h.wdog.silent < 100000000) then h
  else
    let words := h.hang.wfgStatus :: h.cutWords
    let h := { h with wdog := { h.wdog with expired := true, core := true }, cyc := { h.cyc with wdog := true } }
    let h := h.record { h.evt 4 0x0404 with aux := h.wdog.silent / 1000000, arg := pc, words := words }
    let h := { h with boot := { h.boot with pairRunning := false }, dmp := { h.dmp with fk := none } }
    h.hangDrop.firkinBegin m 3

/-- WATCHDOG_CRASH_CORE_DONE: the core is whole, and restart cause 3 is taken. -/
def Hub.wdogCore (h : Hub) : Hub :=
  if !h.wdog.core then h
  else
    let h := ({ h with wdog := { h.wdog with core := false } }).firkinEnd h.cutSlice 3 stOk 0 0
    let h := (h.attnSet 4).irqRaise 1
    if h.rst.st = 0 then h.restart 3 none else h

/-! ## The Firkin (R123, R333) -/

/-- HUB_FIRKIN_KEEP.release: a valid core becomes released, with record 0x0808. -/
def Hub.firkinRelease (h : Hub) (mem : Mem) (m : Master) (v : Nat) : Hub :=
  if !bit v 31 || !h.firkinHeld mem then h
  else
    let o := leAt (mem.firkinRead 0xC 4) 0 4
    let h := (({ h with boot := { h.boot with kept := false } }).firkinWrite 6 (leBytes 2 3))
    h.record { h.auditBy m 0x0808 with arg := o }

end Sys2Proof.Machine
end

