-- ==== Sys2Proof/Machine/HostIf.lean ====
section
/-!
DEFINITION. Machine/HostIf.lean: the host interface (chapter 16): interrupts and their messages, doorbells, the SPDM mailbox with the responder of
R423 and R424, telemetry.
-/
namespace Sys2Proof.Machine

/-! ## Interrupts (R480 to R482) -/

/-- A write of HUB_IRQ_STATUS: bits written 1 clear, but one whose event falls in this hub cycle stays 1 and sends again (R482). -/
def Hub.irqStatusWrite (h : Hub) (w : Nat) : Hub :=
  let w := w % 65536
  let again := w &&& h.cyc.irq
  let due := if h.irq.fnOn then again &&& h.irq.en else 0
  { h with irq := { h.irq with status := clearBits h.irq.status (clearBits w again), due := h.irq.due ||| due } }

/-- A write of HUB_IRQ_EN: a vector that it enables and whose status bit is set sends its message (R481). -/
def Hub.irqEnWrite (h : Hub) (w : Nat) : Hub :=
  let w := w % 65536
  let due := if h.irq.fnOn then clearBits w h.irq.en &&& h.irq.status else 0
  { h with irq := { h.irq with en := w, due := h.irq.due ||| due } }

/-- One more message of a vector. -/
def Irq.sendMsg (q : Irq) (v : Nat) : Irq := { q with sent := SMap.upd 0 q.sent v (· + 1) }

/-- The message of vector `v` is sent, or its PBA bit is set while the entry is masked (R481). -/
def Irq.deliver (q : Irq) (v : Nat) : Irq := if bit (q.word (4 * v + 3)) 0 then { q with pba := q.pba ||| 2 ^ v } else q.sendMsg v

/-- The messages that are due, in the hub cycle after their cause. -/
def Irq.flush (q : Irq) : Irq :=
  { ((List.range 16).filter (bit q.due)).foldl Irq.deliver q with due := 0 }

/-- A write of a word of the MSI-X table; an entry whose mask bit returns to 0 sends the message that is pending (R480, R481). -/
def Hub.msixWrite (h : Hub) (i w : Nat) : Hub :=
  let v := if i % 4 = 3 then w % 2 else if i % 4 = 0 then w / 4 * 4 else w
  let q := { h.irq with table := SMap.set (if i % 4 = 3 then 1 else 0) h.irq.table i v }
  let e := i / 4
  let q := if i % 4 = 3 ∧ v = 0 ∧ bit q.pba e then ({ q with pba := clearBits q.pba (2 ^ e) }).sendMsg e else q
  { h with irq := q }

/-! ## Doorbells (R483) -/

/-- A write of HUB_HOST_DB. -/
def Hub.hostDoorbell (h : Hub) (code : Nat) : Hub :=
  if code = 0 then h
  else if h.db.fifo.length < 16 then { h with db := { h.db with fifo := h.db.fifo ++ [code] } }
  else h.rcAdd 0x214 0 16 65535 1

/-- A read of HUB_HOST_DB_POP by the controller pair. -/
def Hub.doorbellPop (h : Hub) : Hub := { h with db := { h.db with fifo := h.db.fifo.tail } }

/-! ## The mailbox (R484 to R486) -/

def Hub.getMbx (h : Hub) (m : Master) : Mbx := SMap.get {} h.mbx m.idx
def Hub.updMbx (h : Hub) (m : Master) (f : Mbx → Mbx) : Hub := { h with mbx := SMap.upd {} h.mbx m.idx f }

/-- A write of HUB_MBX_WDATA. -/
def Mbx.wdata (x : Mbx) (w : Nat) : Mbx :=
  if x.busy ∨ 32768 < x.req.length + 4 then x else { x with req := x.req ++ leBytes 4 w }

/-- The response goes. -/
def Mbx.clear (x : Mbx) : Mbx := { x with ready := false, forming := none, resp := [], pos := 0 }

/-- A go for `len` bytes; `off` while a warm restart runs. -/
def Mbx.go (x : Mbx) (off : Bool) (len : Nat) : Mbx :=
  if x.busy then { x with status := stBusy }
  else
    let req := x.req
    let x := { x.clear with req := [] }
    if off then { x with status := stBusy }
    else if len = 0 ∨ 32768 < len ∨ req.length < roundUp 4 len then { x with status := stHostMbxlen }
    else { x with busy := true, sub := req.take len }

/-- An abort. -/
def Mbx.abort (x : Mbx) : Mbx := { x.clear with busy := false, req := [], sub := [], status := stOk }

/-- A write of HUB_MBX_CTL: abort, then go. -/
def Hub.mbxCtl (h : Hub) (m : Master) (v : Nat) : Hub :=
  let h := if bit v 30 then h.updMbx m Mbx.abort else h
  if bit v 31 then h.updMbx m fun x => x.go (h.rst.st != 0) (v % 65536) else h

/-- A read of HUB_MBX_RDATA: the read of the last word clears ready. -/
def Mbx.rdata (x : Mbx) : Mbx :=
  if x.ready then { x with pos := x.pos + 4, ready := decide (x.pos + 4 < x.resp.length) } else x

/-- MAILBOX_RESPONSE_READY: the response that has been formed is loaded; vector 12 for the host window. -/
def Hub.mbxReady (h : Hub) (m : Master) : Hub :=
  match (h.getMbx m).forming with
  | none => h
  | some r =>
    if !(h.getMbx m).busy then h
    else
      let h := h.updMbx m fun x => { x with forming := none, busy := false, ready := true, sub := [], resp := r, pos := 0, status := stOk }
      if m = .host then h.irqRaise 12 else h

/-! ## Measurements (R424) -/

/-- A section record (Table 13.9). -/
def SecRec.bytes (r : SecRec) : List Byte :=
  if r.present then leBytes 2 r.typ ++ leBytes 2 r.target ++ zeros 4 ++ leBytes 8 r.version ++ padTo 48 r.digest else zeros 64

/-- The slice record of a slice (Table 13.10). -/
def Hub.sliceRecord (h : Hub) (s : Nat) : List Byte :=
  let k := h.getKeys s
  let up := h.sliceExists s
  let flags := b2n up + at_ (b2n (!k.owner.isEmpty)) 1 + at_ (b2n (k.heldValid && !up)) 2 + at_ (b2n (!k.token.isEmpty)) 3
    + at_ (b2n k.rekey) 4 + at_ (b2n h.cut.bench) 5
  let words := (List.range 20).flatMap fun i => leBytes 4 (h.wordAt .host (0x4A000 + 0x40 * (2 * s + i / 10) + 4 * (i % 10)))
  leBytes 4 0x534D4C53 ++ leBytes 2 1 ++ leBytes 2 flags ++ leBytes 4 (h.getSlice s).pasid ++ leBytes 4 k.cur.gen ++ leBytes 8 k.cur.keyId
    ++ leBytes 8 k.policyEpoch ++ padTo 48 k.owner ++ k.section_.bytes ++ padTo 48 k.consent
    ++ leBytes 4 (h.act 0 (0x81000 + 4 * s)) ++ leBytes 4 (h.act 0 (0x31000 + 4 * s)) ++ leBytes 4 (h.act 0 (0x40100 + 4 * s))
    ++ leBytes 4 k.opens ++ sha384 words

/-- Block 0x10: the hardware's configuration. -/
def Hub.hwConfig (h : Hub) : List Byte :=
  let offs := [0, 0x60, 0x94, 0x34, 0x88000, 0x52000, 0x56000, 0x5A000, 0x5E000, 0x30050, 0x68000]
  (offs.flatMap fun o => leBytes 4 (h.wordAt .host o)) ++ zeros 4 ++ leBytes 8 h.clk.epoch ++ leBytes 8 h.now

/-- Value type and value of a measurement block (Table 13.8), if there is one of the index. -/
def Hub.measurement (h : Hub) (i : Nat) : Option (Nat × List Byte) :=
  if 0x40 ≤ i ∧ i < 0x80 then some (0x83, h.sliceRecord (i - 0x40))
  else match i with
    | 0x01 => some (0x00, padTo 48 Config.romDigest)
    | 0x02 => some (0x01, padTo 48 h.boot.imageHash)
    | 0x03 => some (0x83, ([1, 2, 3, 4, 5].flatMap fun t => (SMap.get {} h.boot.recs t).bytes) ++ leBytes 8 h.boot.keys.serial)
    | 0x10 => some (0x82, h.hwConfig)
    | 0x20 => some (0x83, leBytes 8 (h.er.acount - 1) ++ padTo 48 h.er.link)
    | _ => none

/-- The indices of the blocks. -/
def blockIndices : List Nat := [0x01, 0x02, 0x03, 0x10, 0x20] ++ (List.range 64).map (· + 0x40)

/-- A DMTF measurement block. -/
def Hub.measureBlock (h : Hub) (i : Nat) : List Byte :=
  match h.measurement i with
  | none => []
  | some (t, v) => leBytes 1 i ++ [1] ++ leBytes 2 (v.length + 3) ++ leBytes 1 t ++ leBytes 2 v.length ++ v

/-! ## The SPDM 1.2 responder (R423, R487) -/

/-- An ERROR message. -/
def spdmError (code data : Nat) : List Byte := [0x12, 0x7F] ++ leBytes 1 code ++ leBytes 1 data

/-- A signature over a transcript with its context. -/
def Hub.spdmSign (h : Hub) (context : String) (msg : List Byte) : List Byte :=
  let c := ascii context
  let prefix_ := (List.replicate 4 (ascii "dmtf-spdm-v1.2.*")).flatten ++ zeros (36 - c.length) ++ c
  padTo 96 (Config.ecdsaSign h.boot.diePriv (sha384 (prefix_ ++ sha384 msg)))

/-- The request of a mailbox that the responder serves, if firmware carries it: the pair runs and no warm restart does. -/
def Hub.spdmReq (h : Hub) (m : Master) : Option (List Byte) :=
  let x := h.getMbx m
  if x.busy && x.forming.isNone && h.fwRuns then some x.sub else none

/-- A response is formed for a mailbox. -/
def Hub.spdmForm (h : Hub) (m : Master) (r : List Byte) : Hub := h.updMbx m fun x => { x with forming := some r }

/-- Request code of a message. -/
def spdmCode (b : List Byte) : Nat := leAt b 1 1

/-- GET_VERSION: the connection begins again. -/
def Hub.spdmVersion (h : Hub) (m : Master) : Hub :=
  match h.spdmReq m with
  | none => h
  | some b =>
    if spdmCode b ≠ 0x84 then h
    else if leAt b 0 1 ≠ 0x10 then h.spdmForm m (spdmError 0x41 0)
    else
      let r : List Byte := [0x10, 0x04, 0, 0, 0, 1, 0, 0x12]
      (h.spdmForm m r).updMbx m fun x => { x with transcript := b ++ r, l1 := [] }

/-- A request of version 1.2 with code `c` and at least `n` bytes is answered by `f`. -/
def Hub.spdmServe (h : Hub) (m : Master) (c n : Nat) (f : List Byte → Hub) : Hub :=
  match h.spdmReq m with
  | none => h
  | some b =>
    if spdmCode b ≠ c then h
    else if leAt b 0 1 ≠ 0x12 then h.spdmForm m (spdmError 0x41 0)
    else if b.length < n then h.spdmForm m (spdmError 0x01 0)
    else f b

/-- GET_CAPABILITIES: CHAL_CAP, MEAS_CAP 2, PUB_KEY_ID_CAP, CTExponent 14, 32,768 bytes, no chunks. -/
def Hub.spdmCapabilities (h : Hub) (m : Master) : Hub :=
  h.spdmServe m 0xE1 20 fun b =>
    let r := [0x12, 0x61, 0, 0, 0, 14, 0, 0] ++ leBytes 4 0x10014 ++ leBytes 4 32768 ++ leBytes 4 32768
    (h.spdmForm m r).updMbx m fun x => { x with transcript := x.transcript ++ b ++ r, l1 := [] }

/-- NEGOTIATE_ALGORITHMS: DMTF measurements with SHA-384, ECDSA P-384, SHA-384, each where the request offers it. -/
def Hub.spdmAlgorithms (h : Hub) (m : Master) : Hub :=
  h.spdmServe m 0xE3 32 fun b =>
    let dmtf := leAt b 6 1 % 2
    let r := [0x12, 0x63, 0, 0] ++ leBytes 2 36 ++ leBytes 1 dmtf ++ [0] ++ leBytes 4 (4 * dmtf) ++ leBytes 4 (leAt b 8 4 &&& 0x80)
      ++ leBytes 4 (leAt b 12 4 &&& 2) ++ zeros 16
    (h.spdmForm m r).updMbx m fun x => { x with transcript := x.transcript ++ b ++ r, l1 := [] }

/-- The measurement summary hash of CHALLENGE: none, the ROM and firmware, or every block. -/
def Hub.summaryHash (h : Hub) (t : Nat) : List Byte :=
  match t with
  | 0 => []
  | 1 => sha384 (h.measureBlock 1 ++ h.measureBlock 2)
  | _ => sha384 (blockIndices.flatMap h.measureBlock)

/-- CHALLENGE, for the provisioned public key (slot 0xFF). -/
def Hub.spdmChallenge (h : Hub) (m : Master) : Hub :=
  h.spdmServe m 0x83 36 fun b =>
    let t := leAt b 3 1
    if leAt b 2 1 ≠ 0xFF ∨ (t ≠ 0 ∧ t ≠ 1 ∧ t ≠ 0xFF) then h.spdmForm m (spdmError 0x01 0)
    else
      let (n, h) := h.draw 32
      let r := [0x12, 0x03, 0x0F, 0] ++ sha384 h.boot.diePub ++ n ++ h.summaryHash t ++ [0, 0]
      let sig := h.spdmSign "responder-challenge_auth signing" ((h.getMbx m).transcript ++ b ++ r)
      (h.spdmForm m (r ++ sig)).updMbx m fun x => { x with l1 := [] }

/-- The blocks that an operation of GET_MEASUREMENTS asks for. -/
def Hub.blocksOf (h : Hub) (op : Nat) : List Nat :=
  match op with
  | 0 => []
  | 0xFF => blockIndices
  | i => if (h.measurement i).isSome then [i] else []

/-- GET_MEASUREMENTS: the blocks as this hub cycle has them, with a signature where one is asked for. -/
def Hub.spdmMeasurements (h : Hub) (m : Master) : Hub :=
  h.spdmServe m 0xE0 4 fun b =>
    let signed := bit (leAt b 2 1) 0
    let op := leAt b 3 1
    if signed && decide (b.length < 37) then h.spdmForm m (spdmError 0x01 0)
    else if signed && leAt b 36 1 % 16 != 15 then h.spdmForm m (spdmError 0x01 0)
    else
      let (n, h) := h.draw 32
      let l := h.blocksOf op
      let rec_ := l.flatMap h.measureBlock
      let r := [0x12, 0x60] ++ leBytes 1 (if op = 0 then blockIndices.length else 0) ++ leBytes 1 (if signed then 15 else 0)
        ++ leBytes 1 l.length ++ leBytes 3 rec_.length ++ rec_ ++ n ++ [0, 0]
      let x := h.getMbx m
      let l1 := (if x.l1.isEmpty then x.transcript else x.l1) ++ b ++ r
      if signed then (h.spdmForm m (r ++ h.spdmSign "responder-measurements signing" l1)).updMbx m fun x => { x with l1 := [] }
      else (h.spdmForm m r).updMbx m fun x => { x with l1 := l1 }

/-- Any other request: ERROR UnsupportedRequest with its code, or VersionMismatch. -/
def Hub.spdmUnsupported (h : Hub) (m : Master) : Hub :=
  match h.spdmReq m with
  | none => h
  | some b =>
    if [0x84, 0xE1, 0xE3, 0x83, 0xE0].contains (spdmCode b) then h
    else
      let e := if leAt b 0 1 ≠ 0x12 then spdmError 0x41 0 else spdmError 0x07 (spdmCode b)
      (h.spdmForm m e).updMbx m fun x => { x with l1 := [] }

/-! ## Telemetry (R488 to R490) -/

def Hub.getQuery (h : Hub) (m : Master) : Query := SMap.get {} h.tlm.q m.idx
def Hub.updQuery (h : Hub) (m : Master) (f : Query → Query) : Hub :=
  { h with tlm := { h.tlm with q := SMap.upd {} h.tlm.q m.idx f } }

/-- Nominal frequency of a clock domain in kHz, and its divider (Table 01.10). -/
def domainClock (d : Nat) : Nat × Nat :=
  if d < 16 then (2000000, 2) else if d < 20 then (1333333, 3) else if d < 25 then (1000000, 4) else if d < 27 then (500000, 8) else (250000, 16)

/-- Domains of the always-on island (R49). -/
def domainAlwaysOn (d : Nat) : Bool := d == 20 || d == 21 || d == 27

/-- Die management answers: domain 25 is released, clocked and powered (R489). -/
def Hub.sourceUp (h : Hub) : Bool := bit h.boot.domains 25 && !bit h.gated 25 && h.nocUp && h.tlm.refreshed

/-- A last reading. -/
def Hub.reading_ (h : Hub) (i : Nat) : Nat := SMap.get 0 h.tlm.last i

/-- A 16-bit pattern as a signed number. -/
def signed16 (v : Nat) : Int := if v % 65536 < 32768 then ((v % 65536 : Nat) : Int) else ((v % 65536 : Nat) : Int) - 65536

/-- Class and index of a sensor's location (Table 16.5). -/
def sensorPlace (k : Nat) : Nat × Nat :=
  if k < 32 then (0, k) else if k < 44 then (1, k - 32) else if k < 52 then (2, k - 44) else if k < 56 then (3, k - 52)
  else if k < 60 then (4, k - 56) else (k - 55, 0)

/-- Sensors at or above the alert threshold. -/
def Hub.hotSensors (h : Hub) : Nat :=
  let t := signed16 (h.rwGet 0x80000690 0xA0020 0)
  ((List.range 64).filter fun k => !h.tlm.faulty.contains k && decide (t ≤ signed16 (h.reading_ k))).length

/-- Status and results of a query as it completes (Table 16.3). -/
def Hub.queryResult (h : Hub) (kind i : Nat) : Nat × List Nat :=
  match kind with
  | 0 =>
    if !h.sourceUp || h.tlm.faulty.contains i then (stTlmNosource, [])
    else
      let p := sensorPlace i
      (stOk, [h.reading_ i + at_ (SMap.get 0 h.tlm.high i % 65536) 16, p.1 + at_ p.2 8])
  | 1 =>
    let c := domainClock i
    let board := domainAlwaysOn i && !h.clk.onPll
    let off := bit h.gated i || (!domainAlwaysOn i && (h.clk.fallback || !bit h.boot.domains i))
    let f := if off then 0 else if board then 100000 else SMap.get c.1 h.tlm.last (64 + i)
    (stOk, [c.1, f, b2n (bit h.gated i) + 2 * b2n board + at_ c.2 8])
  | 2 =>
    if !h.sourceUp then (stTlmNosource, [])
    else
      let r := fun k => h.reading_ (92 + 4 * i + k)
      (stOk, [if i = 3 then 30000 else r 0, r 1, r 2, b2n (r 3 != 0)])
  | _ =>
    if !h.sourceUp then (stTlmNosource, []) else (stOk, [h.tlm.topTemp + at_ h.tlm.topSensor 16, h.hotSensors])

/-- Status with which a query is refused at once (R489, Table 16.4). -/
def Hub.queryRefused (h : Hub) (m : Master) (kind i : Nat) : Nat :=
  let top := match kind with | 0 => 64 | 1 => 28 | 2 => 4 | 3 => 256 | _ => 0
  if m = .host ∧ h.role m = 0 ∧ (kind = 0 ∨ kind = 3) then stDenied
  else if top ≤ i then stTlmIndex
  else stOk

/-- Results into a master's registers. -/
def resultMap (l : List Nat) : SMap Nat := (List.range 4).foldl (fun a k => SMap.set 0 a k (l.getD k 0 % 2 ^ 32)) []

/-- A write of TLM_QUERY. -/
def Hub.tlmQuery (h : Hub) (m : Master) (v : Nat) : Hub :=
  if !bit v 31 then h
  else
    let kind := field v 27 24
    let i := v % 256
    if (h.getQuery m).busy || h.rst.st != 0 then h.updQuery m fun q => { q with status := stBusy }
    else
      let st := h.queryRefused m kind i
      if st = stOk then h.updQuery m fun q => { q with busy := true, kind := kind, index := i }
      else h.updQuery m fun q => { q with status := st, res := [] }

/-- A master that R17 puts before `m` has a query in progress. -/
def Hub.queryBefore (h : Hub) (m : Master) : Bool := (List.range m.idx).any fun k => (SMap.get {} h.tlm.q k).busy

/-- TLM_QUERY_COMPLETE: the query of the first master in R17 order that has one (log entry 91). -/
def Hub.tlmComplete (h : Hub) (m : Master) : Hub :=
  let q := h.getQuery m
  if !q.busy || h.queryBefore m then h
  else
    let (st, l) := h.queryResult q.kind q.index
    let h := h.updQuery m fun q => { q with busy := false, status := st, res := resultMap l }
    { h with tlm := { h.tlm with resTick := h.tlm.refreshTick } }

/-- One refreshed reading: a sensor reading of 2^16 and above reports a fault. -/
def Tlm.take (t : Tlm) (x : Nat × Nat) : Tlm :=
  let (v, i) := x
  if 64 ≤ i then { t with last := SMap.set 0 t.last i v }
  else if 65536 ≤ v then { t with faulty := if t.faulty.contains i then t.faulty else t.faulty ++ [i] }
  else
    let top := SMap.get 0 t.high i
    let first := top == 0 || decide (signed16 top < signed16 v)
    { t with faulty := t.faulty.filter (· != i), last := SMap.set 0 t.last i v, high := if first then SMap.set 0 t.high i (v + 65536) else t.high }

/-- The sensor with the highest reading, the lowest on a tie, and its reading. -/
def Tlm.top (t : Tlm) : Nat × Nat :=
  ((List.range 64).filter fun k => !t.faulty.contains k).foldl (fun a k =>
    let v := SMap.get 0 t.last k
    if a.1 = 64 ∨ signed16 a.2 < signed16 v then (k, v) else a) (64, 0)

/-- The alert comparison of a refresh (R490). -/
def Hub.tlmAlert (h : Hub) : Hub :=
  let a := h.rwGet 0x80000690 0xA0020 0
  let v := signed16 h.tlm.topTemp
  if !bit a 31 then h
  else if !h.tlm.above && decide (signed16 a ≤ v) then ({ h with tlm := { h.tlm with above := true } }).irqRaise 13
  else if h.tlm.above && decide (v < signed16 a - 32) then { h with tlm := { h.tlm with above := false } }
  else h

/-- TLM_REFRESH: the readings of sensors 0 to 63, of domains 0 to 27 and of the four power limits, as far as the list goes. -/
def Hub.tlmRefresh (h : Hub) (readings : List Nat) : Hub :=
  if !bit h.boot.domains 25 || bit h.gated 25 || !h.nocUp then h
  else
    let t := readings.zipIdx.foldl Tlm.take h.tlm
    let p := t.top
    let t := { t with refreshed := true, refreshTick := h.now, topSensor := p.1 % 64, topTemp := p.2 }
    ({ h with tlm := t }).tlmAlert

end Sys2Proof.Machine
end

