-- ==== Sys2Proof/Machine/Dependability.lean ====
section
/-!
DEFINITION. Machine/Dependability.lean: storage errors (R500 to R503, Table 18.1): the scrubber's read of a word, and what an uncorrected error
costs in each store. Which item of a store a word number names is the model's layout (log entry 41).
-/
namespace Sys2Proof.Machine

/-- Words of a store at a station (stores 5 and 6 are a Perch's). -/
def storeWords (store stn : Nat) : Nat :=
  match store with
  | 0 => 196608
  | 1 => 524288
  | 2 => 1048576
  | 3 => 2097152
  | 4 => 256
  | 5 => if !stnOk stn then 0 else if stnClass stn = 0 then 8192 else 2048
  | 6 => if stnOk stn && (stnClass stn == 2 || stnClass stn == 3) then 32768 else 0
  | _ => 270336

/-- A context takes a fault with ST_HUB_ECC (Table 18.1). -/
def Hub.ctxEcc (h : Hub) (c unit : Nat) : Hub :=
  let s := h.ctxSlice c
  match (h.getCtx c).st with
  | .free => h
  | .lost => h.updCtx c fun k => { k with lostFaults := k.lostFaults + 1 }
  | .active =>
    let (n, h) := h.enterLost c
    h.record { h.evt 3 0x0301 with slice := s, unit := unit, status := stHubEcc, ctx := some c, words := [stHubEcc, n] }

/-- Store 0: instruction memory (1 MiB) and data memory of the pair; its outputs differ (R52). -/
def Hub.eccPair (h : Hub) (w : Nat) : Hub :=
  let h := if w < 131072 then { h with boot := { h.boot with imemBad := true } } else h
  if !h.boot.pairRunning then h
  else
    let (pc, h) := h.drawFree
    let (o0, h) := h.drawFree
    let (o1, h) := h.drawFree
    h.mismatch pc o0 o1

/-- Store 1: a slot of the event-recorder store. -/
def Hub.eccRecord (h : Hub) (w : Nat) : Hub :=
  let k := w / 64
  if (SMap.get [] h.er.store k).isEmpty || h.er.bad.contains k then h else { h with er := { h.er with bad := h.er.bad ++ [k] } }

/-- Store 2: a word of the Firkin. -/
def Hub.eccFirkin (h : Hub) (w : Nat) : Hub :=
  if h.ecc.firkinBad.contains w then h else { h with ecc := { h.ecc with firkinBad := h.ecc.firkinBad ++ [w] } }

/-- Store 3: an entry of the attribution table, eight words each, in the order of their keys. -/
def Hub.eccAtt (h : Hub) (w : Nat) : Hub :=
  match h.cnt.att[w / 8]? with
  | none => h
  | some e => { h with cnt := { h.cnt with att := SMap.upd {} h.cnt.att e.1 fun x => { x with bad := true } } }

/-- A dump key none of whose copies verifies: data goes under a drawn key until the rekey takes effect (R502). -/
def Hub.eccKey (h : Hub) (s : Nat) : Hub :=
  if s = 0 ∨ !h.sliceExists s then h
  else
    let (d, h) := h.draw 32
    (h.updKeys s fun k => { k with cur := h.deriveKeys s k.cur.gen d k.cur.epub k.cur.keyId }).markRekey s

/-- A damaged slice-table entry reads as before; its registers whose shadow differs are DIRTY, so that the next commit that covers them takes the shadow (R502). -/
def Hub.eccEntry (h : Hub) (s : Nat) : Hub :=
  { h with rws := h.rws.map fun r =>
      (r.1, if (entryOffs s).contains r.1 && r.2.st == .clean && r.2.shadow != r.2.active then { r.2 with st := .dirty } else r.2) }

/-- Store 4, words 0 to 63 dump keys, then owner digests, consent slots and slice-table entries, by slice (R502). -/
def Hub.eccSec (h : Hub) (w : Nat) : Hub :=
  let s := w % 64
  match w / 64 with
  | 0 => h.eccKey s
  | 1 => h.updKeys s fun k => { k with owner := [], sigPub := [], kexPub := [] }
  | 2 => h.updKeys s fun k => { k with token := [] }
  | _ => h.eccEntry s

/-- Partition of a granule of a Peck; granule 0 is the reserved area (R205). -/
def Hub.granulePart (h : Hub) (s g : Nat) : Option Nat :=
  let ends := fun p => (List.range (p + 1)).foldl (fun a q => a + h.partCap s q / 512) 0
  (List.range 4).find? fun p => decide (g ≤ ends p)

/-- Store 5: a Peck. -/
def Hub.eccPeck (h : Hub) (s w : Nat) : Hub :=
  let g := w / 64
  if g = 0 then
    let n := (h.getStn s).peck.rsv.length
    (h.updPeck s fun q => { q with rsv := [] }).rcAdd (pchOff s 0x534) 0 0 255 n
  else match h.granulePart s g with
    | none => h
    | some p =>
      let pkts := (SMap.get {} (h.getStn s).peck.part p).pkts
      let h := h.updPeck s fun q => { q with part := SMap.upd {} q.part p fun x => { x with pkts := [] } }
      (h.discardLoss s pkts).stallRetry s

/-- Index of the entry of a capture store that holds byte `b`, and the byte's offset in it. -/
def captureAt : List Capture → Nat → Option (Nat × Nat)
  | [], _ => none
  | e :: r, b => if b < e.size then some (0, b) else (captureAt r (b - e.size)).map fun x => (x.1 + 1, x.2)

/-- Store 6: a capture store. -/
def Hub.eccCapture (h : Hub) (s w : Nat) : Hub :=
  match captureAt (h.getStn s).cap.entries (8 * w) with
  | none => h
  | some (i, off) =>
    let e := (h.getStn s).cap.entries.getD i default
    let h := h.updStn s fun t => { t with cap := { t.cap with overflow := true, entries := eraseAt t.cap.entries i } }
    if off = 0x20 then h else h.ctxEcc e.context e.unit

/-- The graph under construction ends with ST_ABORTED (R306). -/
def Hub.graphAbandon (h : Hub) : Hub :=
  let g := h.hang
  if !g.building then h
  else { h with hang := { g with
    building := false, wfgStatus := clearBits (g.wfgStatus % 2 ^ 31) 0xFFFF + stAborted, jobs := if g.parent.isSome then g.jobs.tail else g.jobs } }

/-- An entry of the recorder's system queue is discarded. -/
def Hub.eccSysq (h : Hub) (i : Nat) : Hub :=
  match h.er.sysq[i]? with
  | none => h
  | some r =>
    let e := h.er
    let e := { e with sysq := eraseAt e.sysq i, gap := if r.gap then { e.gap with queued := false } else e.gap,
                      fwQueued := if r.image.isEmpty then e.fwQueued else e.fwQueued - 1 }
    ({ h with er := e }).rcAdd 0x60014 0 0 (2 ^ 32 - 1) 1

/-- Store 7: trigger FIFO (words 0 to 63), system queue (64 to 95), doorbells (96 to 111), verdicts (112 to 4095), graph working memory (4096 to
8191), context table. -/
def Hub.eccOther (h : Hub) (w : Nat) : Hub :=
  if w < 64 then
    if w < h.er.fifo.length then ({ h with er := { h.er with fifo := eraseAt h.er.fifo w } }).rcAdd 0x60010 0 0 (2 ^ 32 - 1) 1 else h
  else if w < 96 then h.eccSysq (w - 64)
  else if w < 112 then
    if w - 96 < h.db.fifo.length then ({ h with db := { h.db with fifo := eraseAt h.db.fifo (w - 96) } }).rcAdd 0x214 0 16 65535 1 else h
  else if w < 4096 then
    let g := h.hang
    if w - 112 < g.fifo.length then
      ({ h with hang := { g with fifo := eraseAt g.fifo (w - 112), fifoNew := g.fifoNew - b2n (decide (h.verdicts.length ≤ w - 112)) } }).rcAdd 0x124 0 16 65535 1
    else h
  else if w < 8192 then h.graphAbandon
  else h.ctxEcc (w - 8192) noUnit

/-- The effect of an uncorrected error (Table 18.1). -/
def Hub.eccEffect (h : Hub) (store stn w : Nat) : Hub :=
  match store with
  | 0 => h.eccPair w
  | 1 => h.eccRecord w
  | 2 => h.eccFirkin w
  | 3 => h.eccAtt w
  | 4 => h.eccSec w
  | 5 => h.eccPeck stn w
  | 6 => h.eccCapture stn w
  | _ => h.eccOther w

/-- SCRUB_READ: a word read with no error, with one error, which is corrected, or with more (R501, R503). -/
def Hub.scrubRead (h : Hub) (store stn w errors : Nat) : Hub :=
  if 8 ≤ store ∨ storeWords store stn ≤ w ∨ errors = 0 then h
  else if errors = 1 then h.rcAdd (0x300 + 4 * store) 0 16 65535 1
  else
    let at_ := if store = 5 ∨ store = 6 then stn else 0x7FF
    let h := { h with ecc := { h.ecc with valid := true, store := store, station := at_, word := w } }
    ((h.rcAdd (0x300 + 4 * store) 0 0 65535 1).eccEffect store stn w).fwReport (0x1800 + store)

end Sys2Proof.Machine
end

