-- ==== Sys2Proof/Machine/Access.lean ====
section
/-!
DEFINITION. Machine/Access.lean: register accesses of a master (R5 to R18): rights and their audit records (R406 to R408, R412), reads with their side
effects, writes, and the commands that are one access to one register.
-/
namespace Sys2Proof.Machine

/-! ## Rights (R412, Table 13.3) -/

/-- Whether a master may read a register of a right. -/
def Hub.mayRead (h : Hub) (m : Master) (r : RdRight) : Bool :=
  let role := h.role m
  let glob := m == .pair || role == 1 || role == 3
  match r with
  | .any => m != .loader
  | .glob => glob
  | .tun => glob || m == .span
  | .spill => m == .pair || m == .span || decide (1 ≤ role)
  | .er => m == .pair || decide (1 ≤ role)
  | .ecc => m == .pair || m == .span || decide (1 ≤ role)
  | .pair => m == .pair
  | .mbx | .msix => m == .host || m == .span

/-- A maker field at bit 30 that a write would change (R407). -/
def Hub.makerBit (h : Hub) (l : Loc) (v : Nat) : Bool := bit v 30 != bit (h.shd l.reset l.base) 30

/-- Whether a master may start the loader: any in AWAIT, else the installer or the maker (R99, R412). -/
def Hub.aszMay (h : Hub) (m : Master) : Bool := h.boot.phase == 5 || decide (2 ≤ h.role m)

/-- Whether a master may write the value `v` to a register. -/
def Hub.mayWrite (h : Hub) (m : Master) (l : Loc) (v : Nat) : Bool :=
  let role := h.role m
  let port := m == .host || m == .span
  let cfg := m == .pair || decide (1 ≤ role)
  match l.row.wr with
  | .none | .spol => false
  | .any => m != .loader
  | .glob | .omp => m == .pair || role == 1 || role == 3
  | .oper => role == 1
  | .cfg | .er => cfg
  | .om => role == 1 || role == 3
  | .pair => m == .pair
  | .tun => m == .pair || m == .span || role == 1 || role == 3
  | .keep => m == .span || role == 1 || role == 2
  | .asz => port && (!bit v 31 || h.aszMay m)
  | .restart => m == .pair || decide (2 ≤ role)
  | .bench => decide (2 ≤ role)
  | .attn => m == .span || m == .pair || role == 1
  | .seccmd => port && !(l.row.fam == .secCmd && bit v 31 && decide (field v 30 28 = 3) && role != 1)
  | .mbx => port
  | .msix => m == .host
  | .trcctl | .cectl => cfg && (!h.makerBit l v || role == 3)

/-- Writes without record 0x0813 (R408). -/
def Loc.exempt (l : Loc) (v : Nat) : Bool :=
  match l.row.fam with
  | .trcRingRd | .cntRingRd | .dmpTunRd | .erSpillRd | .hubStnSel | .hubCtxSel | .secSliceSel | .hubAszData | .secBuf | .secCmd => true
  | .erCursor => !bit v 31 && !bit v 30
  | _ => false

/-- The audit record of a refused access (R18, R407): `write` with the value written. -/
def Hub.refusal (h : Hub) (m : Master) (write : Bool) (off v : Nat) : Hub :=
  h.record { h.auditBy m 0x0802 with status := stDenied, aux := b2n write, arg := off, words := [v] }

/-- The audit record of an accepted write of a master that holds a role (R408). -/
def Hub.roleWrite (h : Hub) (m : Master) (l : Loc) (off v : Nat) : Hub :=
  if h.role m = 0 ∨ l.exempt v then h else h.record { h.auditBy m 0x0813 with arg := off, words := [v] }

/-! ## Reads -/

/-- Low bits of the RC count and flag fields of a register. -/
def Fam.rcBits : Fam → List Nat
  | .hubChwinStatus | .hubScanStatus | .erCursorStatus | .trcRingStat => [30]
  | .hubVerdictStat | .hubHostDbStat | .dmpWFired | .cntStatus => [16]
  | .hubEccCnt | .ceRaw | .slcEvents => [16, 0]
  | .timSkewStatus => [20, 16]
  | .erLost | .erSyslost | .trcTrgCount | .trcDrainStat | .pchGrainStat | .pchCapLate => [0]
  | .cntRingStat => [31, 30]
  | .spnErr | .pchTrgStat | .pchPeckLost => [24, 16, 8, 0]
  | .pchPeckRsv => [8, 0]
  | _ => []

/-- What the read of a word does to the register (R10, R310, R389, R483, R485, Table 03.9). -/
def Hub.readEffect (h : Hub) (m : Master) (l : Loc) : Hub :=
  match l.row.fam with
  | .hubVerdict => h.verdictPop m
  | .hubHostDbPop => h.doorbellPop
  | .hubMbxRdata => h.updMbx m Mbx.rdata
  | .secKeyout => h.updSecM m fun x =>
      if x.keyoutCyc = h.clk.cycle + 1 then { x with keyoutOld := SMap.set 0 x.keyoutOld l.i 0 } else { x with keyout := SMap.set 0 x.keyout l.i 0 }
  | .erWin => if (h.getCursor m).held then h else h.updCursor m fun c => { c with status := stErNocursor }
  | .hubAszStatus => if h.ldr.owner = some m then h.loaderIdle else h
  | f => f.rcBits.foldl (fun h b => h.rcClear l.base (if l.row.own then m.idx else 0) b) h

/-- A register is in the slot of a bypassed station (R61). -/
def Hub.lostSlot (h : Hub) (l : Loc) : Bool := decide (0x100000 ≤ l.base) && !h.observed l.stn

/-- The word of a register that a master may read: a _LO word latches its _HI, a _HI word is the latch (R13 to R15). -/
def Hub.readReg (h : Hub) (m : Master) (l : Loc) : Nat × Hub :=
  if h.lostSlot l then (0, h)
  else if l.hi then (SMap.get 0 h.latch m.idx, h)
  else
    let v := l.value h m
    let h := if l.row.pair then { h with latch := SMap.set 0 h.latch m.idx (v / 2 ^ 32) } else h
    (v % 2 ^ 32, if l.mirror then h else h.readEffect m l)

/-- The offsets of the Firkin window and of the Chain window copy (Tables 17.1 and 17.3). -/
def inFirkin (off : Nat) : Bool := decide (0x1000000 ≤ off) && decide (off < 0x1800000)
def inWindow (off : Nat) : Bool := decide (0x1000 ≤ off) && decide (off < 0x2000)

/-- What left the hub core for a station in earlier hub cycles has reached it before an access to its slot does (R58). -/
def Hub.slotReached (h : Hub) (off : Nat) : Hub :=
  if 0x100000 ≤ off ∧ off < 0x900000 then h.deliver ((off - 0x100000) / 0x1000) h.clk.cycle else h

/-- A 32-bit read: the word, whether the access was refused, and the hub after it (R8, R10, R18, R70, R496). While the master holds no window, 0x1000 to
0x1FFF read 0, which the spec leaves open (DESIGN CHOICE, log entry 28). -/
def Hub.read32 (h : Hub) (mem : Mem) (m : Master) (off : Nat) : Nat × Bool × Hub :=
  if inFirkin off then
    if h.mayRead m .tun then (ofLe (SMap.getList (0 : Byte) mem.firkin0 (off - 0x1000000) 4), false, h)
    else (0, true, h.refusal m false off 0)
  else if inWindow off then
    if h.mayRead m .er then (SMap.get 0 (h.getWin m).copy (off - 0x1000), false, h) else (0, true, h.refusal m false off 0)
  else match locate off with
    | none => (0, false, h)
    | some l =>
      if h.mayRead m l.row.rd then
        let r := (h.slotReached off).readReg m l
        (r.1, false, r.2)
      else (0, true, h.refusal m false off 0)

/-! ## Writes -/

/-- Record 0x0807 where a write changed the maker field at bit 30. -/
def Hub.modeWrite (h : Hub) (m : Master) (l : Loc) (v : Nat) : Hub :=
  let c := h.makerBit l v
  let h := h.storeReg m l v
  if c then h.record { h.auditBy m 0x0807 with aux := h.modeBits } else h

/-- A write to a WO or W1C register of the HUB_ and SEC_ blocks. -/
def Hub.hubWrite (h : Hub) (mem : Mem) (m : Master) (l : Loc) (v : Nat) : Hub :=
  match l.row.fam with
  | .hubCommit => if bit v 31 then h.commitRequest m (field v 17 16) (field v 10 0) else h
  | .hubClkStatus => if bit v 1 && !h.cyc.pllLoss then { h with clk := { h.clk with pllLoss := false } } else h
  | .hubChwin => h.winWrite m v
  | .hubAszCtrl => h.aszCtrl m v
  | .hubAszData => h.aszData m v
  | .hubRestart => h.restartWrite m v
  | .hubFwReady => if bit v 31 then h.fwReady else h
  | .hubWdogKick => if bit v 31 then h.kick else h
  | .hubWdogStatus => if bit v 31 && !h.cyc.wdog then { h with wdog := { h.wdog with expired := false } } else h
  | .hubFirkinKeep => h.firkinRelease mem m v
  | .hubScan => if bit v 31 then h.scanGo else h
  | .hubIrqStatus => h.irqStatusWrite v
  | .hubIrqEn => h.irqEnWrite v
  | .hubHostDb => h.hostDoorbell v
  | .hubFwDb => h.fwDoorbell v
  | .hubMbxCtl => h.mbxCtl m v
  | .hubMbxWdata => h.updMbx m fun x => x.wdata v
  | .msixTable => h.msixWrite l.i v
  | .secCmd => h.secCmd m v
  | .secBuf => h.updSecM m fun x => { x with buf := SMap.set 0 x.buf l.i v }
  | _ => h

/-- A write to a WO or W1C register of the other blocks. -/
def Hub.unitWrite (h : Hub) (m : Master) (l : Loc) (v : Nat) : Hub :=
  match l.row.fam with
  | .cutReq => h.cutReq m v
  | .cutResume => h.cutResume m v
  | .cutStep => h.cutStep m v
  | .cutBench => h.benchWrite m (bit v 31)
  | .dmpReq => h.dumpReq m v
  | .dmpTunRd => h.tunRdWrite v
  | .dmpWcancel => h.watchCancel v
  | .ceJobCmd => h.ceGo m l.i v
  | .erCursor => h.erCursorWrite m v
  | .erFwCmd => h.erFwCmd v
  | .erFwBuf => { h with er := { h.er with fwBuf := SMap.set 0 h.er.fwBuf l.i v } }
  | .erSpillRd => h.spillRdWrite v
  | .cntRingRd => h.cntRdWrite l.i v
  | .attExport => if bit v 31 then h.attExport (field v 5 0) else h
  | .trcRingRd => h.trcRdWrite l.i v
  | .spnAttn => { h with span := { h.span with attn := clearBits h.span.attn (clearBits (v % 512) h.cyc.attn) } }
  | .spnAttnSet => if bit v 31 then h.attnMessage (field v 15 0) else h
  | .tlmQuery => h.tlmQuery m v
  | .slcCmd => h.slcCmd m v
  | .slcCtxCmd => h.slcCtxCmd m v
  | .slcExpCmd => h.slcExpCmd m v
  | .pchTrgFire => h.fireWrite l.stn (v % 16)
  | .pchPeckCtl =>
    h.updOrd l.stn fun o => { o with flush := o.flush || bit v 1, release := o.release || bit v 0 }
  | _ => h

/-- A register takes a value that a master may write: `v` is the whole of a pair (R10, R13). -/
def Hub.regWrite (h : Hub) (mem : Mem) (m : Master) (l : Loc) (v : Nat) : Hub :=
  match l.row.kind with
  | .ro => h
  | .rw =>
    let h := h.storeReg m l v
    if l.row.fam = .timCalValue then h.calRequest m v else h
  | .rws => if l.row.wr = .trcctl ∨ l.row.wr = .cectl then h.modeWrite m l v else h.storeReg m l v
  | .act => if l.base < 0x30000 then h.hubWrite mem m l v else h.unitWrite m l v

/-- A word of a register that a write reaches: mirrors and registers that only the hub writes ignore it (R10, R68). -/
def Loc.writable (l : Loc) : Bool := !l.mirror && l.row.kind != .ro && l.row.wr != .none

/-- A 32-bit write: whether the access was refused, and the hub after it (R8, R10, R18, R407, R408, R496). -/
def Hub.write32 (h : Hub) (mem : Mem) (m : Master) (off w : Nat) : Bool × Hub :=
  match locate off with
  | none => (false, h)
  | some l =>
    if !l.writable then (false, h)
    else if !h.mayWrite m l w then (true, h.refusal m true off w)
    else if h.lostSlot l then (false, h)
    else match ((h.slotReached off).roleWrite m l off w).stageWord m l w with
      | (some v, h) => (false, h.regWrite mem m l v)
      | (none, h) => (false, h)

/-! ## Accesses of a master (R7) -/

/-- A master's accesses reach the hub: the pair runs, the endpoint is up; the loader makes its writes itself (R99, R477). -/
def Hub.reaches (h : Hub) : Master → Bool
  | .pair => h.boot.pairRunning
  | .loader => false
  | .host => h.endpointUp
  | .span => true

/-- What the last access of a master returned. -/
def Hub.respond (h : Hub) (m : Master) (d : Nat) (refused : Bool) : Hub := { h with resp := SMap.set {} h.resp m.idx ⟨d, refused⟩ }

/-- A read of `size` bytes at an offset: one word, two words for 8 bytes, the bytes addressed for 1 or 2; unaligned reads are dropped, and answer 0 to the
master, which the spec leaves open (DESIGN CHOICE, log entry 87). -/
def Hub.busRead (h : Hub) (mem : Mem) (m : Master) (off size : Nat) : Hub :=
  if !h.reaches m then h
  else if size = 8 ∧ off % 8 = 0 then
    let a := h.read32 mem m off
    let b := a.2.2.read32 mem m (off + 4)
    b.2.2.respond m (a.1 + b.1 * 2 ^ 32) (a.2.1 || b.2.1)
  else if (size = 4 ∨ size = 2 ∨ size = 1) ∧ off % size = 0 then
    let a := h.read32 mem m (off / 4 * 4)
    a.2.2.respond m (a.1 / 2 ^ (8 * (off % 4)) % 2 ^ (8 * size)) a.2.1
  else h.respond m 0 false

/-- Two 32-bit writes, the lower offset first. -/
def Hub.write64 (h : Hub) (mem : Mem) (m : Master) (off v : Nat) : Bool × Hub :=
  let a := h.write32 mem m off (v % 2 ^ 32)
  let b := a.2.write32 mem m (off + 4) (v / 2 ^ 32 % 2 ^ 32)
  (a.1 || b.1, b.2)

/-- A write of `size` bytes at an offset; narrow and unaligned writes are dropped. -/
def Hub.busWrite (h : Hub) (mem : Mem) (m : Master) (off size v : Nat) : Hub :=
  if !h.reaches m then h
  else if size = 8 ∧ off % 8 = 0 then
    let a := h.write64 mem m off v
    a.2.respond m 0 a.1
  else if size = 4 ∧ off % 4 = 0 then
    let a := h.write32 mem m off (v % 2 ^ 32)
    a.2.respond m 0 a.1
  else h.respond m 0 false

/-- A write of a _LO/_HI pair as two 32-bit writes, at any offset. -/
def Hub.pairWrite (h : Hub) (mem : Mem) (m : Master) (off v : Nat) : Hub :=
  if !h.reaches m then h
  else
    let a := h.write64 mem m off v
    a.2.respond m 0 a.1

/-- The word of a request with go, an operation number at bit `lo`, and an operand. -/
def goWord (op lo arg : Nat) : Nat := 2 ^ 31 + at_ op lo + arg

end Sys2Proof.Machine
end

