-- ==== Sys2Proof/Machine/Span.lean ====
section
/-!
DEFINITION. Machine/Span.lean: the Span port (chapter 15): command frames and their checks, the commands and their responses, BULK, ABORT, and
TAP mode.
-/
namespace Sys2Proof.Machine

/-! ## Responses (R460, R461) -/

/-- A CRC as a frame carries it, high byte first. -/
def crcBytes (b : List Byte) : List Byte := beBytes 2 (crc16 b)

/-- A part of a frame followed by its CRC; an empty payload has none. -/
def withCrc (b : List Byte) : List Byte := if b.isEmpty then [] else b ++ crcBytes b

/-- SPATN is low: an enabled attention reason is set (R470). -/
def Hub.attnPending (h : Hub) : Bool := (h.span.attn &&& h.rwGet 0x1FF 0x90008 0) != 0

/-- The port sends a response frame (Table 15.4); `flags` are bits 1 and 2. -/
def Hub.spanFrame (h : Hub) (c : SpanCmd) (flags st : Nat) (p : List Byte) : Hub :=
  let hd := leBytes 1 0x6B ++ leBytes 1 c.cmd ++ leBytes 1 c.tag ++ leBytes 1 (flags + b2n h.attnPending) ++ leBytes 2 st ++ leBytes 2 p.length
  { h with span := { h.span with sent := h.span.sent ++ [withCrc hd ++ withCrc p] } }

/-- The last response frame of a command; SPN_ERR.cmd counts the statuses of R476. -/
def Hub.spanAnswer (h : Hub) (c : SpanCmd) (flags st : Nat) (p : List Byte) : Hub :=
  let h := h.spanFrame c flags st p
  let h := { h with span := { h.span with status := st } }
  if st = stSpnCmd ∨ st = stSpnRange then h.rcAdd 0x90014 0 0 255 1 else h

/-- Commands at the front of the queue that are answered without effect are answered in their place. -/
def Hub.spanFlush (h : Hub) : Hub :=
  let l := h.span.held.takeWhile fun c => c.refuse != 0
  let h := l.foldl (fun h c => h.spanAnswer c 0 c.refuse []) h
  { h with span := { h.span with held := h.span.held.drop l.length } }

/-- The command at the front has been answered. -/
def Hub.spanNext (h : Hub) : Hub := ({ h with span := { h.span with held := h.span.held.tail, bulk := none } }).spanFlush

/-! ## Command frames (R460, R462, R463) -/

/-- A payload length that a command allows (Table 15.5). -/
def spanLenOk (cmd : Nat) (p : List Byte) : Bool :=
  match cmd with
  | 1 | 5 | 6 => p.isEmpty
  | 2 => p.length == 8
  | 3 => decide (8 ≤ p.length) && p.length == 8 + 4 * leAt p 4 2
  | 4 => p.length == 16
  | _ => false

/-- A frame that has passed its checks: ABORT acts at once, another command is held, or answered with ST_BUSY while four are. -/
def Hub.spanAccept (h : Hub) (cmd tag : Nat) (p : List Byte) : Hub :=
  let hold := fun (st : Nat) =>
    ({ h with span := { h.span with held := h.span.held ++ [SpanCmd.mk cmd tag p st], mode := h.span.mode || (cmd == 6 && st == 0) } }).spanFlush
  if !spanLenOk cmd p then hold stSpnCmd
  else if cmd = 5 then { h with span := { h.span with abort := some tag } }
  else if 4 ≤ (h.span.held.filter fun c => c.refuse == 0).length then hold stBusy
  else hold 0

/-- SPAN_FRAME_RECEIVE: the bytes of a frame from its sync byte on. -/
def Hub.spanReceive (h : Hub) (f : List Byte) : Hub :=
  let n := leAt f 4 2
  let body := slice f 8 n
  let bad := fun (lsb : Nat) =>
    (({ h with span := { h.span with held := h.span.held ++ [SpanCmd.mk (leAt f 1 1) (leAt f 2 1) [] stSpnCrc] } }).rcAdd 0x90014 0 lsb 255 1).spanFlush
  if h.span.tap || h.span.mode || h.span.resync then h
  else if f.length < 8 ∨ leAt f 0 1 ≠ 0x5A ∨ ofBe (slice f 6 2) ≠ crc16 (f.take 6) ∨ 1024 < n ∨ leAt f 3 1 ≠ 0 then
    ({ h with span := { h.span with resync := true } }).rcAdd 0x90014 0 24 255 1
  else if f.length < 8 + n + (if n = 0 then 0 else 2) then bad 8
  else if n ≠ 0 ∧ ofBe (slice f (8 + n) 2) ≠ crc16 body then bad 16
  else h.spanAccept (leAt f 1 1) (leAt f 2 1) body

/-- SPAN_LANE_RESYNC: 8 idle bytes have been seen. -/
def Hub.spanResync (h : Hub) : Hub := { h with span := { h.span with resync := false } }

/-- The oldest command held, when it is of kind `cmd` and may start. -/
def Hub.spanHead (h : Hub) (cmd : Nat) : Option SpanCmd :=
  if h.span.abort.isSome || h.span.bulk.isSome then none else h.span.held.head?.filter fun c => c.cmd == cmd && c.refuse == 0

/-! ## STATUS, READ and WRITE (R464) -/

/-- SPAN_STATUS: the four registers, read in one hub cycle. -/
def Hub.spanStatus (h : Hub) : Hub :=
  match h.spanHead 1 with
  | none => h
  | some c => (h.spanAnswer c 0 stOk ([0, 0x60, 0x94, 0x90004].flatMap fun o => leBytes 4 (h.wordAt .span o))).spanNext

/-- The offsets of a READ or WRITE, none outside the allowed range. -/
def spanOffsets (p : List Byte) : Option (List Nat) :=
  let o := leAt p 0 4
  let n := leAt p 4 2
  let rep := bit (leAt p 6 1) 0
  if n = 0 ∨ 254 < n ∨ o % 4 ≠ 0 ∨ 0x2000000 < o + (if rep then 4 else 4 * n) then none
  else some ((List.range n).map fun k => if rep then o else o + 4 * k)

/-- Status of a READ or WRITE, one of whose words may have been refused. -/
def wordStatus (refused : Bool) : Nat := if refused then stDenied else stOk

/-- A word read: its value, and whether it was refused. -/
def Hub.spanGet (o : Nat) (mem : Mem) (h : Hub) : (Nat × Bool) × Hub :=
  let a := h.read32 mem .span o
  ((a.1, a.2.1), a.2.2)

/-- A word written: whether it was refused. -/
def Hub.spanPut (x : Nat × Nat) (mem : Mem) (h : Hub) : (Nat × Bool) × Hub :=
  let a := h.write32 mem .span x.1 x.2
  ((0, a.1), a.2)

/-- The answer to a READ or WRITE whose words are done. -/
def Hub.spanDone (h : Hub) (c : SpanCmd) (refused : Bool) (p : List Byte) : Hub := (h.spanAnswer c (4 * b2n refused) (wordStatus refused) p).spanNext

/-- A READ or WRITE whose count or offsets are outside the allowed range is answered so. -/
def Hub.spanRange (h : Hub) (c : SpanCmd) : Hub := (h.spanAnswer c 0 stSpnRange []).spanNext

/-- The words of a WRITE, with their offsets. -/
def spanWords (p : List Byte) (l : List Nat) : List (Nat × Nat) := l.zip ((List.range l.length).map fun k => leAt p (8 + 4 * k) 4)

/-! ## BULK (R466) -/

/-- Status with which a BULK of `len` bytes from `off` is refused. -/
def Hub.bulkCheck (h : Hub) (space off len : Nat) : Nat :=
  if 1 < space then stSpnCmd
  else if off % 8 ≠ 0 ∨ len % 8 ≠ 0 ∨ len < 8 ∨ (if space = 0 then firkinSize else h.boot.tunSize) < off + len then stSpnRange
  else stOk

/-- SPAN_BULK: the command is refused, or its frames follow. -/
def Hub.spanBulk (h : Hub) : Hub :=
  match h.spanHead 4 with
  | none => h
  | some c =>
    let off := leAt c.payload 4 8
    let len := leAt c.payload 12 4
    let st := h.bulkCheck (leAt c.payload 0 1) off len
    if st = stOk then { h with span := { h.span with bulk := some { firkin := leAt c.payload 0 1 == 0, off := off, len := len } } }
    else (h.spanAnswer c 0 st []).spanNext

/-- Tun bytes can be read: the NoC and the channels that hold them are up (R466). -/
def Hub.tunPath (h : Hub) (off n : Nat) : Bool :=
  let a := h.boot.tunBase + off
  h.nocUp && !h.boot.failedCh.contains (hbmChannel a) && !h.boot.failedCh.contains (hbmChannel (a + n - 1))

/-- A data frame of a BULK. -/
def Hub.bulkData (h : Hub) (mem : Mem) (c : SpanCmd) (b : Bulk) (a n : Nat) : Hub :=
  let data := if b.firkin then mem.firkinRead a n else mem.hbmRead (h.boot.tunBase + a) n
  let ecc := b.firkin && h.ecc.firkinBad.any fun w => decide (a / 8 ≤ w) && decide (8 * w < a + n)
  let st := if b.status = stOk ∧ ecc then stHubEcc else b.status
  if b.sent + n < b.len then
    let h := { h with span := { h.span with bulk := some { b with sent := b.sent + n, status := st } } }
    h.spanFrame c 0 st (leBytes 8 a ++ data)
  else (h.spanAnswer c 2 st (leBytes 8 a ++ data)).spanNext

/-- SPAN_BULK_FRAME: the next data frame, or the end where the Tun cannot be reached. -/
def Hub.spanBulkFrame (h : Hub) (mem : Mem) : Hub :=
  if h.span.abort.isSome then h
  else match h.span.bulk, h.span.held with
    | some b, c :: _ =>
      let a := b.off + b.sent
      let n := Nat.min 1016 (b.len - b.sent)
      if !b.firkin && !h.tunPath a n then (h.spanAnswer c 2 stSpnNopath (if b.sent = 0 then [] else leBytes 8 a)).spanNext
      else h.bulkData mem c b a n
    | _, _ => h

/-! ## ABORT and MODE (R468, R469) -/

/-- What ABORT answers for a command held: the running BULK, another that has not started, or one refused before. -/
def Hub.abortOne (h : Hub) (b : Option Bulk) (c : SpanCmd) : Hub :=
  match b with
  | some b => h.spanAnswer c 2 stAborted (leBytes 8 (b.off + b.sent))
  | none => h.spanAnswer c 0 (if c.refuse = 0 then stAborted else c.refuse) []

/-- SPAN_ABORT. -/
def Hub.spanAbort (h : Hub) : Hub :=
  match h.span.abort with
  | none => h
  | some tag =>
    let l := h.span.held
    let h1 := match l with | c :: _ => h.abortOne h.span.bulk c | [] => h
    let h2 := l.tail.foldl (fun h c => h.abortOne none c) h1
    let h3 := { h2 with span := { h2.span with held := [], bulk := none, abort := none, mode := false } }
    h3.spanAnswer ⟨5, tag, [], 0⟩ 0 stOk []

/-- SPAN_MODE. -/
def Hub.spanMode (h : Hub) : Hub :=
  match h.spanHead 6 with
  | none => h
  | some c =>
    let h := h.spanAnswer c 0 stOk []
    { h with span := { h.span with held := [], mode := false, tap := true, ir := 1 } }

/-! ## TAP mode (R471 to R473) -/

/-- The IDCODE. -/
def idcode : Nat := 0x3C1085B3

/-- An instruction `ir` is selected in TAP mode, with `f` done on the port. -/
def Hub.tapDo (h : Hub) (ir : Nat) (f : Span → Span) : Hub := if h.span.tap then { h with span := { f h.span with ir := ir } } else h

/-- TAP_REGACC_UPDATE: an access starts unless one is in progress or the data register is out of order. -/
def Span.regacc (x : Span) (dr : Nat) : Span :=
  let dr := dr % 2 ^ 64
  if x.acc.isSome then { x with dr := dr }
  else if field dr 63 58 ≠ 0 ∨ field dr 56 32 % 4 ≠ 0 then { x with dr := dr, tapStatus := stSpnRange }
  else { x with dr := dr, acc := some dr }

/-- The access that Update-DR started completes, at the end of the hub cycle. -/
def Hub.tapAccess (h : Hub) (mem : Mem) : Hub :=
  match h.span.acc with
  | none => h
  | some dr =>
    let o := field dr 56 32
    let r := if bit dr 57 then
        let w := h.write32 mem .span o (dr % 2 ^ 32)
        (0, w.1, w.2)
      else h.read32 mem .span o
    let h := r.2.2
    { h with span := { h.span with acc := none, tapData := r.1, tapStatus := wordStatus r.2.1 } }

/-- TAP_REGACC_CAPTURE: the data register takes the last result and the busy bit. -/
def Span.capture (x : Span) : Span := { x with dr := x.tapData + at_ x.tapStatus 32 + at_ (b2n x.acc.isSome) 63 }

end Sys2Proof.Machine
end

