-- ==== Sys2Proof/Machine/Tick.lean ====
section
/-!
DEFINITION. Machine/Tick.lean: what one hub cycle brings of itself, whatever is commanded (log entry 1): counters and fields take the additions of the
cycle, messages that are due are sent, the Perches do what stands at the end of the cycle's order, the timebase and the hub's own counts advance.
-/
namespace Sys2Proof.Machine

/-- The RC fields take what the hub added in the cycle (R12). -/
def foldRc (m : SMap RcCell) : SMap RcCell := (m.map fun e => (e.1, e.2.fold)).filter fun e => e.2.old != 0

/-- The clock and the timebase (R63, R126, R127). -/
def Clk.next (k : Nat) (c : Clk) : Clk :=
  { c with realNs := c.realNs + k, cycle := c.cycle + 1, tick := if c.started then (c.tick + k) % 2 ^ 64 else c.tick,
           epochCycle := if c.started then c.epochCycle + 1 else c.epochCycle }

/-- The token buckets of the drain: TRC_DRAIN.share bytes a tick, and 128 bytes a tick for rebinding flushes (R215, R217). -/
def Hub.tickTokens (h : Hub) (k : Nat) : Hub :=
  let share := field (h.act 0x64 0x80010) 8 0
  { h with trc := { h.trc with
      tokens := satAdd (4096 * share) h.trc.tokens (share * k), flushTokens := satAdd 524288 h.trc.flushTokens (128 * k) } }

/-- What the cycle's events leave for the next one. -/
def Hub.tickFold (h : Hub) (k : Nat) : Hub :=
  let h := h.grainCycle
  { h with rc := foldRc h.rc, irq := h.irq.flush, cyc := {}, hang := { h.hang with fifoNew := 0 }, stn := SMap.mapVal {} (fun _ t => t.correct k) h.stn }

/-- The hub's counts of ticks and hub cycles: the leases (R411) and the watchdog (R122). -/
def Hub.tickCounts (h : Hub) (k : Nat) : Hub :=
  { h with clk := h.clk.next k, sec := { h.sec with lease := h.sec.lease + k },
           wdog := { h.wdog with silent := if h.wdogOn then h.wdog.silent + 1 else h.wdog.silent } }

/-- One hub cycle on the hub; a hub in reset stands still (R91, R92). -/
def Hub.tick (mem : Mem) (h : Hub) : Hub :=
  if h.live then
    let k := h.perCycle
    ((((((h.tapAccess mem).settle.resumeWaits).tickFold k).tickCounts k).tickTokens k).resetsDue).noncesDue
  else h

/-- One hub cycle passes; a read of the Firkin returns what it held at the end of the last one (R496). -/
def State.cycle (s : State) : State :=
  let h := Hub.tick s.mem s.hub
  let m := s.mem.apply h.out
  { s with hub := { h with out := [], turn := [] }, mem := { m with firkin0 := m.firkin } }

/-- One hub cycle passes; the outputs of the one before are gone. -/
def hubCycle (s : State) : State := State.cycle { s with hub := s.hub.fresh }

end Sys2Proof.Machine
end

