-- ==== Sys2Proof/Machine/Turns.lean ====
section
/-!
DEFINITION. Machine/Turns.lean: the order of the commands within one hub cycle (R10, R17, R24): the orders a command keeps, and whether it may still be taken in the
hub cycle that runs (log entry 1).
-/
namespace Sys2Proof.Machine

/-- A place in one order of a hub cycle: the order's number, the highest rank that may have been taken before, and the rank taken. -/
structure Turn where
  key : Nat
  after : Nat
  rank : Nat
  deriving DecidableEq, Repr

/-- The place of a hub event or a table row: it may follow its own rank. -/
def Turn.row (key rank : Nat) : Turn := ⟨key, rank, rank⟩

/-- The place of a register access (R10, R17): after the hub's own actions of the cycle, masters in the order of R17, each once. -/
def Turn.access (m : Master) : Turn := ⟨0, m.idx, m.idx + 1⟩

/-- The place of a hub action: before every register access of the cycle, whose new values it must not use (R10). -/
def Turn.event : Turn := .row 0 0

/-- Orders with a number of their own for each object `n` of a kind `k` below 64; kind 0 is the order of all commands. -/
def orderOf (k n : Nat) : Nat := k + 64 * n

/-- The place of a register access, or of a hub action before every access of its hub cycle (R10, R17). A commit may begin in the hub cycle of its own write,
before the accesses that R17 puts after that write (R69). -/
def Hub.accessTurn (h : Hub) : Instr → List Turn
  | .registerWrite m _ _ _ | .loReadLatch m _ _ | .rcFieldRead m _ _ | .contextCreate m _ | .contextDestroy m _ | .trgFireWrite m _ _ | .peckFlush m _
  | .peckRelease m _ | .traceRingRdWrite m _ _ | .attExport m _ | .sampleRingRdWrite m _ _ | .commitRequest m _ _ | .chwinAcquire m _ | .chwinRelease m
  | .aszStart m | .aszDataWrite m _ | .aszAbort m | .firkinRelease m | .restartReuseImage m | .restartNewImage m | .calendarSetRequest m _
  | .cutRequest m _ _ _ _ _ | .cutResume m _ _ _ _ | .cutStep m _ _ _ _ | .benchModeWrite m _ | .verdictPop m | .dumpRequest m _ _ _ | .dumpContextRequest m _
  | .tunRdWrite m _ | .watchCancel m _ | .ceEncodeJob m _ _ | .ceDecodeJob m _ _ | .erCursorAcquire m _ | .erCursorRelease m | .spillRdWrite m _ | .roleCommand m
  | .roleDrop m | .ownerRegister m _ | .tokenLodge m | .sliceCreate m _ | .sliceReset m _ | .sliceDestroy m _ | .sliceProcessDied m _ | .exportAllocate m _ _
  | .exportRelease m _ _ | .irqEnableWrite m _ | .hostDoorbell m _ | .doorbellPop m | .mailboxWdata m _ | .mailboxGo m _ | .mailboxAbort m | .mailboxRdata m
  | .tlmThermalQuery m _ | .tlmClockQuery m _ | .tlmPowerQuery m _ | .tlmSummaryQuery m | .erWindowRead m _ _ => [.access m]
  | .fwReady | .wdogKick | .scanStart | .erFwRecord _ _ | .attnMessageSet _ | .fwDoorbell _ => [.access .pair]
  | .aszLoadDone | .reloadCommit => [.access .loader]
  | .msixUnmask _ => [.access .host]
  | .spanStatus | .spanRead | .spanWrite => [.access .span]
  | .commitBegin => match h.chain.queue with
    | { owner := .master m, .. } :: _ => [⟨0, m.idx + 1, 0⟩]
    | _ => [.event]
  | _ => [.event]

/-- Registers whose write resets or destroys a slice, or releases an exported fence, and so error-signals fences (R437, R446). -/
def errorWrite (off : Nat) : Bool := off == 0xB0000 || off == 0xB0020

/-- The order of the events that reach fences in one hub cycle (R46, Table 01.9): error signals, signals, re-arms, waits. -/
def Hub.fenceTurn (h : Hub) : Instr → List Turn
  | .fenceErrorSignal _ _ _ _ | .commandFault _ _ _ _ | .sliceReset _ _ | .sliceDestroy _ _ | .sliceProcessDied _ _ | .exportRelease _ _ _
  | .engineResetReport _ _ | .sliceResetTimeout _ | .spanWrite => [.row 1 0]
  | .registerWrite _ off _ _ => if errorWrite off then [.row 1 0] else []
  | .commandComplete c _ _ => [.row 1 (if (h.getCtx c).st = .lost then 0 else 1)]
  | .transferEnd _ _ status => [.row 1 (if status = stOk then 1 else 0)]
  | .fenceSignal _ _ _ _ _ | .watchHoldExpiry _ | .watchReadDone => [.row 1 1]
  | .fenceRearm _ _ => [.row 1 2]
  | .fenceWait _ _ _ _ _ => [.row 1 3]
  | _ => []

/-- The order of the events that reach a context in one hub cycle: a fault first (R38), then the rows of Table 01.5. -/
def contextTurn : Instr → List Turn
  | .commandFault c _ _ _ => [.row (orderOf 2 c) 0]
  | .commandSubmit c _ _ _ _ _ => [.row (orderOf 2 c) 2]
  | .contextDestroy _ c => [.row (orderOf 2 c) 3]
  | _ => []

/-- The order of the transfers that reach an engine in one hub cycle: ascending station ID of the issuing unit (R439). -/
def engineTurn : Instr → List Turn
  | .transferArrive e r _ _ => [.row (orderOf 3 e) (unitStn r.issuer)]
  | _ => []

/-- The order of the events that reach bring-up and the restart machine in one hub cycle: a ready write before an expiry (R113), else the rows of Tables 03.1
and 03.11. -/
def bootTurn : Instr → List Turn
  | .pllLock | .restartReuseImage _ | .restartNewImage _ => [.row 3 0]
  | .pllLockTimeout | .restartHashCheck => [.row 3 1]
  | .fwReady | .restartPairStart _ => [.row 3 2]
  | .lockstepMismatch _ _ _ => [.row 3 3]
  | .aszLoadDone => [.row 3 4]
  | .fwReadyTimeout | .restartTimeout => [.row 3 5]
  | .epochBoundary => [.row 3 6]
  | .hbmTrainingDone _ => [.row 3 7]
  | .tileResetComplete => [.row 3 8]
  | .clockMonitorWindow _ | .pllLossOfLock _ => [.row 3 9]
  | .coldResetAssert => [.row 3 10]
  | _ => []

/-- The order of the events that reach the loader in one hub cycle: the rows of Table 03.8. -/
def loaderTurn : Instr → List Turn
  | .aszStart _ => [.row 4 0]
  | .aszDataWrite _ _ => [.row 4 1]
  | .aszSectionVerified => [.row 4 2]
  | .aszLoadDone => [.row 4 3]
  | .aszAbort _ => [.row 4 4]
  | .aszTimeout => [.row 4 5]
  | .aszIdleReturn => [.row 4 6]
  | _ => []

/-- The order of what reaches the Perches in one hub cycle (R169): a commit that takes effect, then the events of their units. Orders follow at the end of
the cycle (Hub.settle). -/
def perchTurn : Instr → List Turn
  | .epochBoundary => [.row 5 0]
  | .commandSubmit _ _ _ _ _ _ | .commandStart _ | .commandComplete _ _ _ | .commandFault _ _ _ _ | .fenceSignal _ _ _ _ _ | .fenceErrorSignal _ _ _ _
  | .fenceWait _ _ _ _ _ | .rmoIssue _ _ | .rmoArrive _ _ | .programFlowEvent _ _ _ _ _ _ _ _ | .linkMessage _ _ _ _ _ | .routeMessage _ _ _
  | .channelRequest _ _ | .transferStart _ | .transferEnd _ _ _ | .unitSleep _ _ | .unitWake _ _ | .atomsFlushTimeout _ => [.row 5 1]
  | _ => []

/-- The order of the requests that reach the cut engine in one hub cycle: the trigger matrix before other hubs (R258); register masters follow with the accesses. -/
def cutTurn : Instr → List Turn
  | .triggerMatrix _ => [.row 8 0]
  | .cutScheduleMessage _ _ => [.row 8 1]
  | _ => []

/-- The order of the updates of the attribution table in one hub cycle: at most four, in ascending station ID (R241). -/
def Hub.updateTurn (h : Hub) : Instr → List Turn
  | .attributionUpdate => [⟨6, 3, SMap.get 0 h.turn 6 + 1⟩, .row 7 (match h.cnt.flits with | c :: _ => c.station | [] => 0)]
  | _ => []

/-- The places a command takes in the orders of its hub cycle. -/
def Hub.turns (h : Hub) (c : Instr) : List Turn :=
  h.accessTurn c ++ h.fenceTurn c ++ contextTurn c ++ engineTurn c ++ bootTurn c ++ loaderTurn c ++ perchTurn c ++ cutTurn c ++ h.updateTurn c

/-- The command may be taken in the hub cycle that runs. -/
def Hub.inTurn (h : Hub) (c : Instr) : Bool := (h.turns c).all fun t => decide (SMap.get 0 h.turn t.key ≤ t.after)

/-- The places taken in the hub cycle that runs, a command's among them. -/
def Hub.taken (h : Hub) (c : Instr) : SMap Nat := (h.turns c).foldl (fun m t => SMap.upd 0 m t.key (Nat.max t.rank)) h.turn

/-- The hub as it takes a command: the command's places are taken, and no write to memory waits. -/
def Hub.takes (h : Hub) (c : Instr) : Hub := { h with turn := h.taken c, out := [] }

end Sys2Proof.Machine
end

