-- ==== Sys2Proof/Machine/Run.lean ====
section
/-!
DEFINITION. Machine/Run.lean: running a command: a command whose turn has passed opens the next hub cycle, then its effect takes place.
-/
namespace Sys2Proof.Machine

/-- The state with a command's places in the hub cycle taken. -/
def State.taken (s : State) (c : Instr) : State := { s with hub := s.hub.takes c }

/-- The state in which a command takes effect: the hub cycle that runs, or the next one where the order of the cycle puts the command before one
already taken (R10, R17, R24; log entry 1). -/
def State.atTurn (s : State) (c : Instr) : State := (if s.hub.inTurn c then s else hubCycle s).taken c

/-- The state after an effect on the hub that may read the memories; the effect's memory writes happen at its end. -/
def State.does (s : State) (f : Mem → Hub → Hub) : State :=
  let h := f s.mem s.hub
  { hub := { h with out := [] }, mem := s.mem.apply h.out, pending := s.pending }

/-- Run an effect of a command, whatever the hub's supply. -/
def runAny (c : Instr) (f : Mem → Hub → Hub) (s : State) : Host.Outcome State Fault Refusal := .next ((s.atTurn c).does f)

/-- Run an effect of a command on a hub that is out of reset; while COLD_N is low or the island has no supply nothing happens (R91, R92). -/
def run (c : Instr) (f : Mem → Hub → Hub) (s : State) : Host.Outcome State Fault Refusal :=
  runAny c (fun m h => if h.live then f m h else h) s

/-- Accesses that one command makes one after the other, each in a hub cycle of its own (log entry 1): what they answer, and the state after the last. -/
def State.each {α β : Type} (c : Instr) (f : α → Mem → Hub → β × Hub) : List α → State → List β × State
  | [], s => ([], s)
  | [a], s => ([(f a s.mem s.hub).1], s.does fun m h => (f a m h).2)
  | a :: b :: r, s =>
    let y := State.each c f (b :: r) ((s.does fun m h => (f a m h).2).cycle.taken c)
    ((f a s.mem s.hub).1 :: y.1, y.2)

/-- Run a command that takes several hub cycles, on a hub that is out of reset. -/
def runCycles (c : Instr) (f : State → State) (s : State) : Host.Outcome State Fault Refusal :=
  .next (if (s.atTurn c).hub.live then f (s.atTurn c) else s.atTurn c)

end Sys2Proof.Machine
end

