-- ==== Sys2Proof/Machine/AccessCommands.lean ====
section
/-!
DEFINITION. Machine/AccessCommands.lean: the commands whose effects Machine/Access.lean holds, one meaning for each.
-/
namespace Sys2Proof.Machine

/-- REGISTER_WRITE (R10). -/
def execRegisterWrite (m : Master) (off size data : Nat) (s : State) : Host.Outcome State Fault Refusal :=
  run (.registerWrite m off size data) (fun mem h => h.busWrite mem m off size data) s

/-- LO_READ_LATCH (R13). -/
def execLoReadLatch (m : Master) (off size : Nat) (s : State) : Host.Outcome State Fault Refusal := run (.loReadLatch m off size) (fun mem h => h.busRead mem m off size) s

/-- RC_FIELD_READ (R10). -/
def execRcFieldRead (m : Master) (off size : Nat) (s : State) : Host.Outcome State Fault Refusal := run (.rcFieldRead m off size) (fun mem h => h.busRead mem m off size) s

/-- ER_WINDOW_READ (R389). -/
def execErWindowRead (m : Master) (off size : Nat) (s : State) : Host.Outcome State Fault Refusal := run (.erWindowRead m off size) (fun mem h => h.busRead mem m off size) s

/-- CONTEXT_CREATE (R436). -/
def execContextCreate (m : Master) (slice : Nat) (s : State) : Host.Outcome State Fault Refusal :=
  run (.contextCreate m slice) (fun mem h => h.busWrite mem m 0xB0010 4 (goWord (slice % 64) 24 0)) s

/-- CONTEXT_DESTROY (R436). -/
def execContextDestroy (m : Master) (context : Nat) (s : State) : Host.Outcome State Fault Refusal :=
  run (.contextDestroy m context) (fun mem h => h.busWrite mem m 0xB0010 4 (goWord 1 30 (context % 2 ^ 18))) s

/-- TRG_FIRE_WRITE (R174). -/
def execTrgFireWrite (m : Master) (station mask : Nat) (s : State) : Host.Outcome State Fault Refusal :=
  run (.trgFireWrite m station mask) (fun mem h => h.busWrite mem m (pchOff (station % 2048) 0x4B8) 4 mask) s

/-- PECK_FLUSH (R210). -/
def execPeckFlush (m : Master) (station : Nat) (s : State) : Host.Outcome State Fault Refusal :=
  run (.peckFlush m station) (fun mem h => h.busWrite mem m (pchOff (station % 2048) 0x514) 4 2) s

/-- PECK_RELEASE (R210). -/
def execPeckRelease (m : Master) (station : Nat) (s : State) : Host.Outcome State Fault Refusal :=
  run (.peckRelease m station) (fun mem h => h.busWrite mem m (pchOff (station % 2048) 0x514) 4 1) s

/-- TRACE_RING_RD_WRITE (R216). -/
def execTraceRingRdWrite (m : Master) (slice value : Nat) (s : State) : Host.Outcome State Fault Refusal :=
  run (.traceRingRdWrite m slice value) (fun mem h => h.pairWrite mem m (0x82014 + 0x20 * (slice % 64)) value) s

/-- ATT_EXPORT (R243). -/
def execAttExport (m : Master) (slice : Nat) (s : State) : Host.Outcome State Fault Refusal :=
  run (.attExport m slice) (fun mem h => h.busWrite mem m 0x72008 4 (goWord 0 0 (slice % 64))) s

/-- SAMPLE_RING_RD_WRITE (R235). -/
def execSampleRingRdWrite (m : Master) (slice value : Nat) (s : State) : Host.Outcome State Fault Refusal :=
  run (.sampleRingRdWrite m slice value) (fun mem h => h.pairWrite mem m (0x71014 + 0x20 * (slice % 64)) value) s

/-- COMMIT_REQUEST (R82). -/
def execCommitRequest (m : Master) (scope target : Nat) (s : State) : Host.Outcome State Fault Refusal :=
  run (.commitRequest m scope target) (fun mem h => h.busWrite mem m 0x20 4 (goWord (scope % 4) 16 (target % 2048))) s

/-- CHWIN_ACQUIRE (R70). -/
def execChwinAcquire (m : Master) (station : Nat) (s : State) : Host.Outcome State Fault Refusal :=
  run (.chwinAcquire m station) (fun mem h => h.busWrite mem m 0x40 4 (2 ^ 12 + station % 2048)) s

/-- CHWIN_RELEASE (R70). -/
def execChwinRelease (m : Master) (s : State) : Host.Outcome State Fault Refusal :=
  run (.chwinRelease m) (fun mem h => h.busWrite mem m 0x40 4 (2 ^ 13 + (h.getWin m).sel % 2048)) s

/-- ASZ_START (R99). -/
def execAszStart (m : Master) (s : State) : Host.Outcome State Fault Refusal := run (.aszStart m) (fun mem h => h.busWrite mem m 0x64 4 (2 ^ 31)) s

/-- ASZ_DATA_WRITE (R99). -/
def execAszDataWrite (m : Master) (word : Nat) (s : State) : Host.Outcome State Fault Refusal := run (.aszDataWrite m word) (fun mem h => h.busWrite mem m 0x6C 4 word) s

/-- ASZ_ABORT (R99). -/
def execAszAbort (m : Master) (s : State) : Host.Outcome State Fault Refusal := run (.aszAbort m) (fun mem h => h.busWrite mem m 0x64 4 (2 ^ 30)) s

/-- FW_READY (R121). -/
def execFwReady (s : State) : Host.Outcome State Fault Refusal := run .fwReady (fun mem h => h.busWrite mem .pair 0x98 4 (2 ^ 31)) s

/-- FIRKIN_RELEASE (R123). -/
def execFirkinRelease (m : Master) (s : State) : Host.Outcome State Fault Refusal := run (.firkinRelease m) (fun mem h => h.busWrite mem m 0xA4 4 (2 ^ 31)) s

/-- RESTART_REUSE_IMAGE (R113). -/
def execRestartReuseImage (m : Master) (s : State) : Host.Outcome State Fault Refusal := run (.restartReuseImage m) (fun mem h => h.busWrite mem m 0x90 4 (2 ^ 31)) s

/-- RESTART_NEW_IMAGE (R113). -/
def execRestartNewImage (m : Master) (s : State) : Host.Outcome State Fault Refusal :=
  run (.restartNewImage m) (fun mem h => h.busWrite mem m 0x90 4 (goWord 1 30 0)) s

/-- WDOG_KICK (R122). -/
def execWdogKick (s : State) : Host.Outcome State Fault Refusal := run .wdogKick (fun mem h => h.busWrite mem .pair 0x9C 4 (2 ^ 31)) s

/-- CALENDAR_SET_REQUEST (R134). -/
def execCalendarSetRequest (m : Master) (value : Nat) (s : State) : Host.Outcome State Fault Refusal :=
  run (.calendarSetRequest m value) (fun mem h => h.pairWrite mem m 0x10018 value) s

/-- CUT_REQUEST (R256). -/
def execCutRequest (m : Master) (die xpkg hang auto : Bool) (slice : Nat) (s : State) : Host.Outcome State Fault Refusal :=
  run (.cutRequest m die xpkg hang auto slice) (fun mem h => h.busWrite mem m 0x30000 4
    (goWord (b2n die) 30 (at_ (b2n xpkg) 29 + at_ (b2n hang) 28 + at_ (b2n auto) 27 + slice % 64))) s

/-- CUT_RESUME (R266). -/
def execCutResume (m : Master) (die xpkg auto : Bool) (slice : Nat) (s : State) : Host.Outcome State Fault Refusal :=
  run (.cutResume m die xpkg auto slice) (fun mem h => h.busWrite mem m 0x30030 4 (goWord (b2n die) 30 (at_ (b2n xpkg) 29 + at_ (b2n auto) 27 + slice % 64))) s

/-- CUT_STEP (R269). -/
def execCutStep (m : Master) (mode single auto : Bool) (n : Nat) (s : State) : Host.Outcome State Fault Refusal :=
  run (.cutStep m mode single auto n) (fun mem h => h.busWrite mem m 0x30040 4 (goWord (b2n mode) 30 (at_ (b2n single) 29 + at_ (b2n auto) 28 + n % 2 ^ 24))) s

/-- BENCH_MODE_WRITE (R268). -/
def execBenchModeWrite (m : Master) (enable : Bool) (s : State) : Host.Outcome State Fault Refusal :=
  run (.benchModeWrite m enable) (fun mem h => h.busWrite mem m 0x30050 4 (at_ (b2n enable) 31)) s

/-- SCAN_START (R289). -/
def execScanStart (s : State) : Host.Outcome State Fault Refusal := run .scanStart (fun mem h => h.busWrite mem .pair 0x110 4 (2 ^ 31)) s

/-- VERDICT_POP (R310). -/
def execVerdictPop (m : Master) (s : State) : Host.Outcome State Fault Refusal := run (.verdictPop m) (fun mem h => h.busRead mem m 0x120 4) s

/-- DUMP_REQUEST (R314). -/
def execDumpRequest (m : Master) (die live : Bool) (slice : Nat) (s : State) : Host.Outcome State Fault Refusal :=
  run (.dumpRequest m die live slice) (fun mem h => h.busWrite mem m 0x40000 4 (goWord (b2n die) 29 (at_ (b2n live) 28 + slice % 64))) s

/-- DUMP_CONTEXT_REQUEST (R315): the context in DMP_CTX, and in the next hub cycle, from which on it is in use (R10), the request. -/
def execDumpContextRequest (m : Master) (context : Nat) (s : State) : Host.Outcome State Fault Refusal :=
  runCycles (.dumpContextRequest m context) (fun t => (State.each (.dumpContextRequest m context) (fun x mem h => ((), h.busWrite mem m x.1 4 x.2))
    [(0x40004, context), (0x40000, goWord 2 29 0)] t).2) s

/-- TUN_RD_WRITE (R327). -/
def execTunRdWrite (m : Master) (value : Nat) (s : State) : Host.Outcome State Fault Refusal :=
  run (.tunRdWrite m value) (fun mem h => h.pairWrite mem m 0x40040 value) s

/-- WATCH_CANCEL (R350). -/
def execWatchCancel (m : Master) (slot : Nat) (s : State) : Host.Outcome State Fault Refusal :=
  run (.watchCancel m slot) (fun mem h => h.busWrite mem m 0x4004C 4 (goWord 0 0 (slot % 128))) s

/-- CE_ENCODE_JOB (R373). -/
def execCeEncodeJob (m : Master) (bank xform : Nat) (s : State) : Host.Outcome State Fault Refusal :=
  run (.ceEncodeJob m bank xform) (fun mem h => h.busWrite mem m (0x50118 + 0x4000 * (bank % 4)) 4 (goWord (xform % 4) 28 0)) s

/-- CE_DECODE_JOB (R373). -/
def execCeDecodeJob (m : Master) (bank xform : Nat) (s : State) : Host.Outcome State Fault Refusal :=
  run (.ceDecodeJob m bank xform) (fun mem h => h.busWrite mem m (0x50118 + 0x4000 * (bank % 4)) 4 (goWord 1 30 (at_ (xform % 4) 28))) s

/-- ER_CURSOR_ACQUIRE (R389). -/
def execErCursorAcquire (m : Master) (slot : Nat) (s : State) : Host.Outcome State Fault Refusal :=
  run (.erCursorAcquire m slot) (fun mem h => h.busWrite mem m 0x60020 4 (goWord 0 0 (slot % 8192))) s

/-- ER_CURSOR_RELEASE (R389). -/
def execErCursorRelease (m : Master) (s : State) : Host.Outcome State Fault Refusal :=
  run (.erCursorRelease m) (fun mem h => h.busWrite mem m 0x60020 4 (2 ^ 30 + (h.getCursor m).slot % 8192)) s

/-- ER_FW_RECORD (R400). -/
def execErFwRecord (cls code : Nat) (s : State) : Host.Outcome State Fault Refusal :=
  run (.erFwRecord cls code) (fun mem h => h.busWrite mem .pair 0x60028 4 (goWord (cls % 16) 24 (code % 65536))) s

/-- SPILL_RD_WRITE (R396). -/
def execSpillRdWrite (m : Master) (value : Nat) (s : State) : Host.Outcome State Fault Refusal :=
  run (.spillRdWrite m value) (fun mem h => h.pairWrite mem m 0x600C8 value) s

/-- ROLE_COMMAND (R409). -/
def execRoleCommand (m : Master) (s : State) : Host.Outcome State Fault Refusal := run (.roleCommand m) (fun mem h => h.busWrite mem m 0x20004 4 (goWord 1 28 0)) s

/-- ROLE_DROP (R411). -/
def execRoleDrop (m : Master) (s : State) : Host.Outcome State Fault Refusal := run (.roleDrop m) (fun mem h => h.busWrite mem m 0x20004 4 (goWord 2 28 0)) s

/-- OWNER_REGISTER (R413). -/
def execOwnerRegister (m : Master) (slice : Nat) (s : State) : Host.Outcome State Fault Refusal :=
  run (.ownerRegister m slice) (fun mem h => h.busWrite mem m 0x20004 4 (goWord 3 28 (slice % 64))) s

/-- TOKEN_LODGE (R417). -/
def execTokenLodge (m : Master) (s : State) : Host.Outcome State Fault Refusal := run (.tokenLodge m) (fun mem h => h.busWrite mem m 0x20004 4 (goWord 4 28 0)) s

/-- SLICE_CREATE (R433). -/
def execSliceCreate (m : Master) (slice : Nat) (s : State) : Host.Outcome State Fault Refusal :=
  run (.sliceCreate m slice) (fun mem h => h.busWrite mem m 0xB0000 4 (goWord 1 28 (slice % 64))) s

/-- SLICE_RESET (R445). -/
def execSliceReset (m : Master) (slice : Nat) (s : State) : Host.Outcome State Fault Refusal :=
  run (.sliceReset m slice) (fun mem h => h.busWrite mem m 0xB0000 4 (goWord 2 28 (slice % 64))) s

/-- SLICE_DESTROY (R433). -/
def execSliceDestroy (m : Master) (slice : Nat) (s : State) : Host.Outcome State Fault Refusal :=
  run (.sliceDestroy m slice) (fun mem h => h.busWrite mem m 0xB0000 4 (goWord 3 28 (slice % 64))) s

/-- SLICE_PROCESS_DIED (R446). -/
def execSliceProcessDied (m : Master) (slice : Nat) (s : State) : Host.Outcome State Fault Refusal :=
  run (.sliceProcessDied m slice) (fun mem h => h.busWrite mem m 0xB0000 4 (goWord 4 28 (slice % 64))) s

/-- EXPORT_ALLOCATE (R437). -/
def execExportAllocate (m : Master) (slice index : Nat) (s : State) : Host.Outcome State Fault Refusal :=
  run (.exportAllocate m slice index) (fun mem h => h.busWrite mem m 0xB0020 4 (goWord (slice % 64) 24 (index % 65536))) s

/-- EXPORT_RELEASE (R437). -/
def execExportRelease (m : Master) (slice index : Nat) (s : State) : Host.Outcome State Fault Refusal :=
  run (.exportRelease m slice index) (fun mem h => h.busWrite mem m 0xB0020 4 (goWord 1 30 (at_ (slice % 64) 24 + index % 65536))) s

/-- ATTN_MESSAGE_SET (R476). -/
def execAttnMessageSet (code : Nat) (s : State) : Host.Outcome State Fault Refusal :=
  run (.attnMessageSet code) (fun mem h => h.busWrite mem .pair 0x9000C 4 (goWord 0 0 (code % 65536))) s

/-- MSIX_UNMASK (R481): the host clears the mask bit of an entry. -/
def execMsixUnmask (entry : Nat) (s : State) : Host.Outcome State Fault Refusal :=
  run (.msixUnmask entry) (fun mem h => h.busWrite mem .host (0x40C + 16 * (entry % 16)) 4 0) s

/-- IRQ_ENABLE_WRITE (R481). -/
def execIrqEnableWrite (m : Master) (value : Nat) (s : State) : Host.Outcome State Fault Refusal :=
  run (.irqEnableWrite m value) (fun mem h => h.busWrite mem m 0x204 4 value) s

/-- HOST_DOORBELL (R483). -/
def execHostDoorbell (m : Master) (code : Nat) (s : State) : Host.Outcome State Fault Refusal :=
  run (.hostDoorbell m code) (fun mem h => h.busWrite mem m 0x210 4 code) s

/-- DOORBELL_POP (R483). -/
def execDoorbellPop (m : Master) (s : State) : Host.Outcome State Fault Refusal := run (.doorbellPop m) (fun mem h => h.busRead mem m 0x218 4) s

/-- FW_DOORBELL (R483). -/
def execFwDoorbell (code : Nat) (s : State) : Host.Outcome State Fault Refusal := run (.fwDoorbell code) (fun mem h => h.busWrite mem .pair 0x21C 4 code) s

/-- MAILBOX_WDATA (R485). -/
def execMailboxWdata (m : Master) (word : Nat) (s : State) : Host.Outcome State Fault Refusal := run (.mailboxWdata m word) (fun mem h => h.busWrite mem m 0x24C 4 word) s

/-- MAILBOX_GO (R485). -/
def execMailboxGo (m : Master) (len : Nat) (s : State) : Host.Outcome State Fault Refusal :=
  run (.mailboxGo m len) (fun mem h => h.busWrite mem m 0x240 4 (goWord 0 0 (len % 65536))) s

/-- MAILBOX_ABORT (R486). -/
def execMailboxAbort (m : Master) (s : State) : Host.Outcome State Fault Refusal := run (.mailboxAbort m) (fun mem h => h.busWrite mem m 0x240 4 (2 ^ 30)) s

/-- MAILBOX_RDATA (R485). -/
def execMailboxRdata (m : Master) (s : State) : Host.Outcome State Fault Refusal := run (.mailboxRdata m) (fun mem h => h.busRead mem m 0x250 4) s

/-- TLM_THERMAL_QUERY (R488). -/
def execTlmThermalQuery (m : Master) (index : Nat) (s : State) : Host.Outcome State Fault Refusal :=
  run (.tlmThermalQuery m index) (fun mem h => h.busWrite mem m 0xA0000 4 (goWord 0 24 (index % 256))) s

/-- TLM_CLOCK_QUERY (R488). -/
def execTlmClockQuery (m : Master) (index : Nat) (s : State) : Host.Outcome State Fault Refusal :=
  run (.tlmClockQuery m index) (fun mem h => h.busWrite mem m 0xA0000 4 (goWord 1 24 (index % 256))) s

/-- TLM_POWER_QUERY (R488). -/
def execTlmPowerQuery (m : Master) (index : Nat) (s : State) : Host.Outcome State Fault Refusal :=
  run (.tlmPowerQuery m index) (fun mem h => h.busWrite mem m 0xA0000 4 (goWord 2 24 (index % 256))) s

/-- TLM_SUMMARY_QUERY (R488). -/
def execTlmSummaryQuery (m : Master) (s : State) : Host.Outcome State Fault Refusal :=
  run (.tlmSummaryQuery m) (fun mem h => h.busWrite mem m 0xA0000 4 (goWord 3 24 0)) s

end Sys2Proof.Machine
end

