-- ==== Sys2Proof/Machine/BringupCommands.lean ====
section
/-!
DEFINITION. Machine/BringupCommands.lean: the commands whose effects Machine/Bringup.lean holds, one meaning for each.
-/
namespace Sys2Proof.Machine

/-- COLD_RESET_ASSERT (R93). -/
def execColdResetAssert (s : State) : Host.Outcome State Fault Refusal := runAny .coldResetAssert (fun _ h => h.coldFall) s

/-- COLD_RESET_RELEASE (R93). -/
def execColdResetRelease (spdiLow : Bool) (s : State) : Host.Outcome State Fault Refusal := runAny (.coldResetRelease spdiLow) (fun _ h => h.coldRise spdiLow) s

/-- ISLAND_SUPPLY_LOSS (R95). -/
def execIslandSupplyLoss (s : State) : Host.Outcome State Fault Refusal :=
  let t := s.atTurn .islandSupplyLoss
  .next { hub := t.hub.islandLoss, mem := t.mem.islandLoss t.hub, pending := s.pending }

/-- PLL_LOCK (R93). -/
def execPllLock (s : State) : Host.Outcome State Fault Refusal := run .pllLock (fun _ h => h.pllLock) s

/-- PLL_LOCK_TIMEOUT (R93). -/
def execPllLockTimeout (s : State) : Host.Outcome State Fault Refusal := run .pllLockTimeout (fun _ h => h.pllTimeout) s

/-- SELFTEST_DONE (R93). -/
def execSelftestDone (pass : Bool) (s : State) : Host.Outcome State Fault Refusal := run (.selftestDone pass) (fun m h => h.selftest m pass) s

/-- PUF_CAPTURE_DONE (R96). -/
def execPufCaptureDone (response : List Byte) (s : State) : Host.Outcome State Fault Refusal := run (.pufCaptureDone response) (fun _ h => h.pufDone response) s

/-- CHAIN_TRAINING_DONE (R93). -/
def execChainTrainingDone (untrained deadRings : List Nat) (s : State) : Host.Outcome State Fault Refusal :=
  run (.chainTrainingDone untrained deadRings) (fun _ h => h.trained untrained deadRings) s

/-- FW_READY_TIMEOUT (R93). -/
def execFwReadyTimeout (s : State) : Host.Outcome State Fault Refusal := run .fwReadyTimeout (fun _ h => h.readyTimeout) s

/-- HBM_TRAINING_DONE (R93). -/
def execHbmTrainingDone (failed : List Nat) (s : State) : Host.Outcome State Fault Refusal := run (.hbmTrainingDone failed) (fun _ h => h.hbmTrained failed) s

/-- TILE_RESET_COMPLETE (R93). -/
def execTileResetComplete (s : State) : Host.Outcome State Fault Refusal := run .tileResetComplete (fun _ h => h.tilesUp) s

/-- RESTART_HASH_CHECK (R113). -/
def execRestartHashCheck (s : State) : Host.Outcome State Fault Refusal := run .restartHashCheck (fun _ h => h.hashCheck) s

/-- RESTART_PAIR_START (R113). -/
def execRestartPairStart (selftestPass : Bool) (s : State) : Host.Outcome State Fault Refusal := run (.restartPairStart selftestPass) (fun _ h => h.pairStart selftestPass) s

/-- RESTART_TIMEOUT (R113). -/
def execRestartTimeout (s : State) : Host.Outcome State Fault Refusal := run .restartTimeout (fun _ h => h.restartTimeout) s

/-- LOCKSTEP_MISMATCH (R52). -/
def execLockstepMismatch (pc out0 out1 : Nat) (s : State) : Host.Outcome State Fault Refusal := run (.lockstepMismatch pc out0 out1) (fun _ h => h.mismatch pc out0 out1) s

/-- WATCHDOG_EXPIRY (R305). -/
def execWatchdogExpiry (pc : Nat) (s : State) : Host.Outcome State Fault Refusal := run (.watchdogExpiry pc) (fun m h => h.wdogExpire m pc) s

/-- WATCHDOG_CRASH_CORE_DONE (R305). -/
def execWatchdogCrashCoreDone (s : State) : Host.Outcome State Fault Refusal := run .watchdogCrashCoreDone (fun _ h => h.wdogCore) s

end Sys2Proof.Machine
end

