-- ==== Sys2Proof/Machine/ChainCommands.lean ====
section
/-!
DEFINITION. Machine/ChainCommands.lean: the commands whose effects Machine/Chain.lean and Machine/Boundary.lean hold, one meaning for each.
-/
namespace Sys2Proof.Machine

/-- COMMIT_BEGIN (R65). -/
def execCommitBegin (s : State) : Host.Outcome State Fault Refusal := run .commitBegin (fun _ h => h.commitBegin) s

/-- SNAPSHOT_FLIT (R65). -/
def execSnapshotFlit (station : Nat) (s : State) : Host.Outcome State Fault Refusal := run (.snapshotFlit station) (fun _ h => h.snapshotFlit station) s

/-- SNAPSHOT_ACK (R65). -/
def execSnapshotAck (station : Nat) (s : State) : Host.Outcome State Fault Refusal := run (.snapshotAck station) (fun _ h => h.snapshotAck station) s

/-- SNAPSHOT_TIMEOUT (R65). -/
def execSnapshotTimeout (station : Nat) (s : State) : Host.Outcome State Fault Refusal := run (.snapshotTimeout station) (fun _ h => h.snapshotTimeout station) s

/-- EPOCH_ACK (R61). -/
def execEpochAck (station epoch : Nat) (s : State) : Host.Outcome State Fault Refusal := run (.epochAck station epoch) (fun _ h => h.epochAck station epoch) s

/-- RING_MARKER_TIMEOUT (R62). -/
def execRingMarkerTimeout (ring : Nat) (s : State) : Host.Outcome State Fault Refusal := run (.ringMarkerTimeout ring) (fun _ h => h.ringTimeout ring) s

/-- CHAIN_FLIT_CRC_ERROR (R504). -/
def execChainFlitCrcError (station : Nat) (s : State) : Host.Outcome State Fault Refusal := run (.chainFlitCrcError station) (fun _ h => h.flitError station) s

/-- CLASS2_RETRY_TIMEOUT (R504). -/
def execClass2RetryTimeout (station : Nat) (s : State) : Host.Outcome State Fault Refusal := run (.class2RetryTimeout station) (fun _ h => h.class2Timeout station) s

/-- MOVE_ORDER_ISSUE (R443). -/
def execMoveOrderIssue (s : State) : Host.Outcome State Fault Refusal := run .moveOrderIssue (fun _ h => h.moveOrders) s

/-- CHWIN_LEASE_EXPIRY (R70). -/
def execChwinLeaseExpiry (m : Master) (s : State) : Host.Outcome State Fault Refusal := run (.chwinLeaseExpiry m) (fun _ h => h.winExpiry m) s

/-- EPOCH_BOUNDARY (R63). -/
def execEpochBoundary (s : State) : Host.Outcome State Fault Refusal := run .epochBoundary (fun _ h => h.boundary) s

end Sys2Proof.Machine
end

