-- ==== Sys2Proof/Machine/ContextsCommands.lean ====
section
/-!
DEFINITION. Machine/ContextsCommands.lean: the commands whose effects Machine/Contexts.lean holds, one meaning for each.
-/
namespace Sys2Proof.Machine

/-- COMMAND_SUBMIT (R36). -/
def execCommandSubmit (context unit tag : Nat) (signal : Option FenceRef) (value mode : Nat) (s : State) : Host.Outcome State Fault Refusal :=
  run (.commandSubmit context unit tag signal value mode) (fun _ h => h.submit context unit tag signal value mode) s

/-- COMMAND_START (R33). -/
def execCommandStart (context : Nat) (s : State) : Host.Outcome State Fault Refusal := run (.commandStart context) (fun _ h => h.start context) s

/-- COMMAND_COMPLETE (R37). -/
def execCommandComplete (context unit status : Nat) (s : State) : Host.Outcome State Fault Refusal :=
  run (.commandComplete context unit status) (fun _ h => h.complete context unit status) s

/-- COMMAND_FAULT (R37). -/
def execCommandFault (context unit code addr : Nat) (s : State) : Host.Outcome State Fault Refusal :=
  run (.commandFault context unit code addr) (fun _ h => h.fault context unit code addr) s

/-- FENCE_SIGNAL (R45). -/
def execFenceSignal (unit context : Nat) (fence : FenceRef) (value mode : Nat) (s : State) : Host.Outcome State Fault Refusal :=
  run (.fenceSignal unit context fence value mode) (fun _ h => h.fenceSignal unit context fence value mode) s

/-- FENCE_ERROR_SIGNAL (R45). -/
def execFenceErrorSignal (unit context : Nat) (fence : FenceRef) (mode : Nat) (s : State) : Host.Outcome State Fault Refusal :=
  run (.fenceErrorSignal unit context fence mode) (fun _ h => h.fenceErrorSignal unit context fence mode) s

/-- FENCE_WAIT (R44). -/
def execFenceWait (unit context : Nat) (fence : FenceRef) (value mode : Nat) (s : State) : Host.Outcome State Fault Refusal :=
  run (.fenceWait unit context fence value mode) (fun _ h => h.fenceWait unit context fence value mode) s

/-- FENCE_REARM (R45). -/
def execFenceRearm (unit : Nat) (fence : FenceRef) (s : State) : Host.Outcome State Fault Refusal := run (.fenceRearm unit fence) (fun _ h => h.fenceRearm unit fence) s

/-- RMO_ISSUE (R157). -/
def execRmoIssue (r : Rmo) (edge : Option Edge) (s : State) : Host.Outcome State Fault Refusal := run (.rmoIssue r edge) (fun _ h => h.rmoIssue r edge) s

/-- RMO_COMPLETE (R240). -/
def execRmoComplete (r : Rmo) (status : Nat) (s : State) : Host.Outcome State Fault Refusal := run (.rmoComplete r status) (fun _ h => h.rmoComplete r status) s

/-- UNIT_STALL (R293). -/
def execUnitStall (unit context : Nat) (edge : Edge) (s : State) : Host.Outcome State Fault Refusal := run (.unitStall unit context edge) (fun _ h => h.unitStall unit context edge) s

/-- CREDIT_RETURN (R294). -/
def execCreditReturn (unit : Nat) (next : Option Edge) (s : State) : Host.Outcome State Fault Refusal := run (.creditReturn unit next) (fun _ h => h.creditReturn unit next) s

end Sys2Proof.Machine
end

