-- ==== Sys2Proof/Machine/CountersCommands.lean ====
section
/-!
DEFINITION. Machine/CountersCommands.lean: the commands whose effects Machine/Counters.lean holds, one meaning for each.
-/
namespace Sys2Proof.Machine

/-- GRAIN_INCREMENT (R225). -/
def execGrainIncrement (unit counter amount : Nat) (s : State) : Host.Outcome State Fault Refusal :=
  run (.grainIncrement unit counter amount) (fun _ h => h.grainIncrement unit counter amount) s

/-- SAMPLE_TICK (R230). -/
def execSampleTick (s : State) : Host.Outcome State Fault Refusal := run .sampleTick (fun _ h => h.sampleTick) s

/-- SAMPLE_CAPTURE_ARRIVE (R232). -/
def execSampleCaptureArrive (station : Nat) (s : State) : Host.Outcome State Fault Refusal := run (.sampleCaptureArrive station) (fun _ h => h.captureArrive station) s

/-- SEAL_FRAME_WRITE (R238). -/
def execSealFrameWrite (slice : Nat) (s : State) : Host.Outcome State Fault Refusal := run (.sealFrameWrite slice) (fun _ h => h.sealWrite slice) s

/-- SEAL_FRAME_TIMEOUT (R238). -/
def execSealFrameTimeout (slice : Nat) (s : State) : Host.Outcome State Fault Refusal := run (.sealFrameTimeout slice) (fun _ h => h.sealTimeout slice) s

/-- ATTRIBUTION_UPDATE (R241). -/
def execAttributionUpdate (s : State) : Host.Outcome State Fault Refusal := run .attributionUpdate (fun _ h => h.attUpdate) s

/-- ATTRIBUTION_EXPORT_TICK (R243). -/
def execAttributionExportTick (s : State) : Host.Outcome State Fault Refusal := run .attributionExportTick (fun _ h => h.attExportTick) s

/-- ATTRIBUTION_FINAL_RECORDS (R244). -/
def execAttributionFinalRecords (context : Nat) (s : State) : Host.Outcome State Fault Refusal := run (.attributionFinalRecords context) (fun _ h => h.finalRecords context) s

end Sys2Proof.Machine
end

