-- ==== Sys2Proof/Machine/CutCommands.lean ====
section
/-!
DEFINITION. Machine/CutCommands.lean: the commands whose effects Machine/Cut.lean holds, one meaning for each.
-/
namespace Sys2Proof.Machine

/-- ROUTE_MESSAGE (R157, R261). The length of the message is the operation's. -/
def execRouteMessage (unit : Nat) (r : Rmo) (_len : Nat) (s : State) : Host.Outcome State Fault Refusal := run (.routeMessage unit r _len) (fun _ h => h.routeMessage unit r) s

/-- LINK_MESSAGE (R143, R261). -/
def execLinkMessage (unit : Nat) (sent : Bool) (r : Rmo) (msn len : Nat) (s : State) : Host.Outcome State Fault Refusal :=
  run (.linkMessage unit sent r msn len) (fun _ h => h.linkMessage unit sent r msn len) s

/-- CUT_SCHEDULE_FLIT (R257). -/
def execCutScheduleFlit (station : Nat) (s : State) : Host.Outcome State Fault Refusal := run (.cutScheduleFlit station) (fun _ h => h.cutFlit station) s

/-- CUT_TICK_T (R259). -/
def execCutTickT (s : State) : Host.Outcome State Fault Refusal := run .cutTickT (fun _ h => h.cutTickT) s

/-- UNIT_STOP_CLEAN (R260). -/
def execUnitStopClean (unit : Nat) (s : State) : Host.Outcome State Fault Refusal := run (.unitStopClean unit) (fun _ h => h.stopClean unit) s

/-- CUT_FORCED_STOP (R264). -/
def execCutForcedStop (station : Nat) (s : State) : Host.Outcome State Fault Refusal := run (.cutForcedStop station) (fun _ h => h.forcedStop station) s

/-- CUT_REPORT (R265). -/
def execCutReport (station : Nat) (s : State) : Host.Outcome State Fault Refusal := run (.cutReport station) (fun _ h => h.cutReport station) s

/-- CUT_REPORT_TIMEOUT (R265). -/
def execCutReportTimeout (s : State) : Host.Outcome State Fault Refusal := run .cutReportTimeout (fun _ h => h.cutReportTimeout) s

/-- CUT_RESUME_TICK (R266). -/
def execCutResumeTick (s : State) : Host.Outcome State Fault Refusal := run .cutResumeTick (fun _ h => h.cutResumeTick) s

/-- STEP_START (R269). -/
def execStepStart (s : State) : Host.Outcome State Fault Refusal := run .stepStart (fun _ h => h.stepStart) s

/-- STEP_END (R269). -/
def execStepEnd (unit : Nat) (s : State) : Host.Outcome State Fault Refusal := run (.stepEnd unit) (fun _ h => h.stepEnd unit) s

/-- STEP_TIMEOUT (R269). -/
def execStepTimeout (s : State) : Host.Outcome State Fault Refusal := run .stepTimeout (fun _ h => h.stepTimeout) s

/-- CUT_SCHEDULE_MESSAGE (R270). -/
def execCutScheduleMessage (link : Nat) (msg : List Byte) (s : State) : Host.Outcome State Fault Refusal := run (.cutScheduleMessage link msg) (fun _ h => h.scheduleMsg link msg) s

/-- CUT_DONE_MESSAGE (R272). -/
def execCutDoneMessage (link : Nat) (msg : List Byte) (s : State) : Host.Outcome State Fault Refusal := run (.cutDoneMessage link msg) (fun _ h => h.doneMsg link msg) s

/-- CUT_RESUME_MESSAGE (R272). -/
def execCutResumeMessage (link : Nat) (msg : List Byte) (s : State) : Host.Outcome State Fault Refusal := run (.cutResumeMessage link msg) (fun _ h => h.resumeMsg link msg) s

/-- CUT_XRESULT_WINDOW_END (R272). -/
def execCutXresultWindowEnd (s : State) : Host.Outcome State Fault Refusal := run .cutXresultWindowEnd (fun _ h => h.xWindowEnd) s

end Sys2Proof.Machine
end

