-- ==== Sys2Proof/Machine/DumpCommands.lean ====
section
/-!
DEFINITION. Machine/DumpCommands.lean: the commands whose effects Machine/Dump.lean holds, one meaning for each.
-/
namespace Sys2Proof.Machine

/-- DUMP_PLAN_DONE (R328). -/
def execDumpPlanDone (s : State) : Host.Outcome State Fault Refusal := run .dumpPlanDone (fun m h => h.dumpPlanDone m) s

/-- DUMP_TUN_FULL (R330). -/
def execDumpTunFull (s : State) : Host.Outcome State Fault Refusal := run .dumpTunFull (fun _ h => h.dumpFull) s

/-- DUMP_FINISH (R328). -/
def execDumpFinish (s : State) : Host.Outcome State Fault Refusal := run .dumpFinish (fun _ h => h.dumpFinish) s

/-- DUMP_SIGNED (R331). -/
def execDumpSigned (s : State) : Host.Outcome State Fault Refusal := run .dumpSigned (fun _ h => h.dumpSigned) s

/-- FIRKIN_WRITE_DONE (R335). -/
def execFirkinWriteDone (s : State) : Host.Outcome State Fault Refusal := run .firkinWriteDone (fun _ h => h.firkinDone) s

end Sys2Proof.Machine
end

