-- ==== Sys2Proof/Machine/HangCommands.lean ====
section
/-!
DEFINITION. Machine/HangCommands.lean: the commands whose effects Machine/Hang.lean holds, one meaning for each.
-/
namespace Sys2Proof.Machine

/-- SCAN_CONTEXT (R290). -/
def execScanContext (s : State) : Host.Outcome State Fault Refusal := run .scanContext (fun _ h => h.scanContext) s

/-- HANG_STEP_ADVANCE (R77). -/
def execHangStepAdvance (status : Nat) (s : State) : Host.Outcome State Fault Refusal := run (.hangStepAdvance status) (fun _ h => h.hangStep status) s

/-- WAIT_EDGE_COLLECT (R300). -/
def execWaitEdgeCollect (s : State) : Host.Outcome State Fault Refusal := run .waitEdgeCollect (fun _ h => h.waitEdgeCollect) s

/-- CONTEXT_WALK (R300). -/
def execContextWalk (s : State) : Host.Outcome State Fault Refusal := run .contextWalk (fun _ h => h.contextWalk) s

/-- GRAPH_AREA_WRITE (R302). -/
def execGraphAreaWrite (s : State) : Host.Outcome State Fault Refusal := run .graphAreaWrite (fun _ h => h.graphWrite) s

/-- GRAPH_REQUEST_MESSAGE (R304). -/
def execGraphRequestMessage (link : Nat) (msg : List Byte) (s : State) : Host.Outcome State Fault Refusal := run (.graphRequestMessage link msg) (fun _ h => h.graphRequest link msg) s

/-- GRAPH_EDGE_MESSAGE (R304). -/
def execGraphEdgeMessage (link : Nat) (msg : List Byte) (s : State) : Host.Outcome State Fault Refusal := run (.graphEdgeMessage link msg) (fun _ h => h.graphEdge link msg) s

/-- GRAPH_PEER_TIMEOUT (R304). -/
def execGraphPeerTimeout (s : State) : Host.Outcome State Fault Refusal := run .graphPeerTimeout (fun _ h => h.graphPeerTimeout) s

end Sys2Proof.Machine
end

