-- ==== Sys2Proof/Machine/HostIfCommands.lean ====
section
/-!
DEFINITION. Machine/HostIfCommands.lean: the commands whose effects Machine/HostIf.lean holds, one meaning for each.
-/
namespace Sys2Proof.Machine

/-- MAILBOX_RESPONSE_READY (R485). -/
def execMailboxResponseReady (m : Master) (s : State) : Host.Outcome State Fault Refusal := run (.mailboxResponseReady m) (fun _ h => h.mbxReady m) s

/-- SPDM_GET_VERSION (R423). -/
def execSpdmGetVersion (m : Master) (s : State) : Host.Outcome State Fault Refusal := run (.spdmGetVersion m) (fun _ h => h.spdmVersion m) s

/-- SPDM_GET_CAPABILITIES (R487). -/
def execSpdmGetCapabilities (m : Master) (s : State) : Host.Outcome State Fault Refusal := run (.spdmGetCapabilities m) (fun _ h => h.spdmCapabilities m) s

/-- SPDM_NEGOTIATE_ALGORITHMS (R423). -/
def execSpdmNegotiateAlgorithms (m : Master) (s : State) : Host.Outcome State Fault Refusal := run (.spdmNegotiateAlgorithms m) (fun _ h => h.spdmAlgorithms m) s

/-- SPDM_CHALLENGE (R423). -/
def execSpdmChallenge (m : Master) (s : State) : Host.Outcome State Fault Refusal := run (.spdmChallenge m) (fun _ h => h.spdmChallenge m) s

/-- SPDM_GET_MEASUREMENTS (R424). -/
def execSpdmGetMeasurements (m : Master) (s : State) : Host.Outcome State Fault Refusal := run (.spdmGetMeasurements m) (fun _ h => h.spdmMeasurements m) s

/-- SPDM_UNSUPPORTED (R423). -/
def execSpdmUnsupported (m : Master) (s : State) : Host.Outcome State Fault Refusal := run (.spdmUnsupported m) (fun _ h => h.spdmUnsupported m) s

/-- TLM_QUERY_COMPLETE (R488). -/
def execTlmQueryComplete (m : Master) (s : State) : Host.Outcome State Fault Refusal := run (.tlmQueryComplete m) (fun _ h => h.tlmComplete m) s

/-- TLM_REFRESH (R490). -/
def execTlmRefresh (readings : List Nat) (s : State) : Host.Outcome State Fault Refusal := run (.tlmRefresh readings) (fun _ h => h.tlmRefresh readings) s

end Sys2Proof.Machine
end

