-- ==== Sys2Proof/Machine/LoaderCommands.lean ====
section
/-!
DEFINITION. Machine/LoaderCommands.lean: the commands whose effects Machine/Loader.lean holds, one meaning for each.
-/
namespace Sys2Proof.Machine

/-- ASZ_SECTION_VERIFIED (R103). -/
def execAszSectionVerified (s : State) : Host.Outcome State Fault Refusal := run .aszSectionVerified (fun _ h => h.sectionVerified) s

/-- ASZ_LOAD_DONE (R107). -/
def execAszLoadDone (s : State) : Host.Outcome State Fault Refusal := run .aszLoadDone (fun _ h => h.loadDone) s

/-- RELOAD_COMMIT (R111). -/
def execReloadCommit (s : State) : Host.Outcome State Fault Refusal := run .reloadCommit (fun _ h => h.reloadCommit) s

/-- ASZ_TIMEOUT (R107). -/
def execAszTimeout (s : State) : Host.Outcome State Fault Refusal := run .aszTimeout (fun _ h => h.aszTimeout) s

/-- ASZ_IDLE_RETURN (R107). -/
def execAszIdleReturn (s : State) : Host.Outcome State Fault Refusal := run .aszIdleReturn (fun _ h => h.idleReturn) s

end Sys2Proof.Machine
end

