-- ==== Sys2Proof/Machine/MatrixCommands.lean ====
section
/-!
DEFINITION. Machine/MatrixCommands.lean: the commands whose effects Machine/Matrix.lean holds, one meaning for each.
-/
namespace Sys2Proof.Machine

/-- TRIGGER_MATRIX (R177). -/
def execTriggerMatrix (flits : Nat) (s : State) : Host.Outcome State Fault Refusal := run (.triggerMatrix flits) (fun _ h => h.triggerMatrix flits) s

/-- MATRIX_ORDER (R180). -/
def execMatrixOrder (station : Nat) (s : State) : Host.Outcome State Fault Refusal := run (.matrixOrder station) (fun _ h => h.matrixOrder station) s

end Sys2Proof.Machine
end

