-- ==== Sys2Proof/Machine/PowerCommands.lean ====
section
/-!
DEFINITION. Machine/PowerCommands.lean: the commands whose effects Machine/Power.lean and Machine/Dependability.lean hold, one meaning for each.
-/
namespace Sys2Proof.Machine

/-- UNIT_SLEEP (R184). -/
def execUnitSleep (n : Nat) (what : Supply) (s : State) : Host.Outcome State Fault Refusal := run (.unitSleep n what) (fun _ h => h.supply n what true) s

/-- UNIT_WAKE (R184). -/
def execUnitWake (n : Nat) (what : Supply) (s : State) : Host.Outcome State Fault Refusal := run (.unitWake n what) (fun _ h => h.supply n what false) s

/-- CLOCK_MONITOR_WINDOW (R74). -/
def execClockMonitorWindow (cycles : Nat) (s : State) : Host.Outcome State Fault Refusal := run (.clockMonitorWindow cycles) (fun _ h => h.clockWindow cycles) s

/-- PLL_LOSS_OF_LOCK (R74). -/
def execPllLossOfLock (cycles : Nat) (s : State) : Host.Outcome State Fault Refusal := run (.pllLossOfLock cycles) (fun _ h => h.lossOfLock cycles) s

/-- RAIL_BELOW_NOMINAL (R517). -/
def execRailBelowNominal (s : State) : Host.Outcome State Fault Refusal := run .railBelowNominal (fun _ h => h.railLow) s

/-- RAIL_RESTORED (R517). -/
def execRailRestored (s : State) : Host.Outcome State Fault Refusal := run .railRestored (fun _ h => h.railOk) s

/-- RAIL_COLLAPSE (R509). -/
def execRailCollapse (s : State) : Host.Outcome State Fault Refusal := run .railCollapse (fun _ h => h.railCollapse) s

/-- SCRUB_READ (R501). -/
def execScrubRead (store station word errors : Nat) (s : State) : Host.Outcome State Fault Refusal :=
  run (.scrubRead store station word errors) (fun _ h => h.scrubRead store station word errors) s

end Sys2Proof.Machine
end

