-- ==== Sys2Proof/Machine/RecorderCommands.lean ====
section
/-!
DEFINITION. Machine/RecorderCommands.lean: the commands whose effects Machine/Recorder.lean holds, one meaning for each.
-/
namespace Sys2Proof.Machine

/-- ER_BUILD_START (R387). -/
def execErBuildStart (s : State) : Host.Outcome State Fault Refusal := run .erBuildStart (fun _ h => h.erBuildStart) s

/-- ER_STATION_COPY (R386). -/
def execErStationCopy (s : State) : Host.Outcome State Fault Refusal := run .erStationCopy (fun _ h => h.erStationCopy) s

/-- ER_STATION_COPY_TIMEOUT (R386). -/
def execErStationCopyTimeout (s : State) : Host.Outcome State Fault Refusal := run .erStationCopyTimeout (fun _ h => h.erStationCopyTimeout) s

/-- ER_RECORD_COMMIT (R380). -/
def execErRecordCommit (s : State) : Host.Outcome State Fault Refusal := run .erRecordCommit (fun _ h => h.erRecordCommit) s

/-- LOST_RECORD_ENQUEUE (R388). -/
def execLostRecordEnqueue (s : State) : Host.Outcome State Fault Refusal := run .lostRecordEnqueue (fun _ h => h.lostRecordEnqueue) s

/-- ER_CURSOR_EXPIRY (R391). -/
def execErCursorExpiry (m : Master) (s : State) : Host.Outcome State Fault Refusal := run (.erCursorExpiry m) (fun _ h => h.erCursorExpiry m) s

/-- AUDIT_GAP_ENQUEUE (R395). -/
def execAuditGapEnqueue (s : State) : Host.Outcome State Fault Refusal := run .auditGapEnqueue (fun _ h => h.auditGapEnqueue) s

/-- AUDIT_SPILL_START (R396). -/
def execAuditSpillStart (s : State) : Host.Outcome State Fault Refusal := run .auditSpillStart (fun _ h => h.auditSpillStart) s

/-- AUDIT_SPILL_DONE (R396). -/
def execAuditSpillDone (s : State) : Host.Outcome State Fault Refusal := run .auditSpillDone (fun _ h => h.auditSpillDone) s

end Sys2Proof.Machine
end

