-- ==== Sys2Proof/Machine/SecurityCommands.lean ====
section
/-!
DEFINITION. Machine/SecurityCommands.lean: the commands whose effects Machine/Security.lean holds, one meaning for each.
-/
namespace Sys2Proof.Machine

/-- SEC_CHECK_COMPLETE (R411). -/
def execSecCheckComplete (m : Master) (s : State) : Host.Outcome State Fault Refusal := run (.secCheckComplete m) (fun _ h => h.secCheck m) s

/-- REVOKE_COMMIT (R419). -/
def execRevokeCommit (s : State) : Host.Outcome State Fault Refusal := run .revokeCommit (fun _ h => h.revokeCommit) s

/-- ROLE_LEASE_EXPIRY (R411). -/
def execRoleLeaseExpiry (m : Master) (s : State) : Host.Outcome State Fault Refusal := run (.roleLeaseExpiry m) (fun _ h => h.leaseExpiry m) s

/-- KEYOUT_EXPIRY (R421). -/
def execKeyoutExpiry (m : Master) (s : State) : Host.Outcome State Fault Refusal := run (.keyoutExpiry m) (fun _ h => h.keyoutExpiry m) s

end Sys2Proof.Machine
end

