-- ==== Sys2Proof/Machine/SlicesCommands.lean ====
section
/-!
DEFINITION. Machine/SlicesCommands.lean: the commands whose effects Machine/Slices.lean holds, one meaning for each.
-/
namespace Sys2Proof.Machine

/-- TRANSFER_ARRIVE (R439). -/
def execTransferArrive (engine : Nat) (r : Rmo) (signal : Option FenceRef) (value : Nat) (s : State) : Host.Outcome State Fault Refusal :=
  run (.transferArrive engine r signal value) (fun _ h => h.transferArrive engine r signal value) s

/-- TRANSFER_START (R440). -/
def execTransferStart (engine : Nat) (s : State) : Host.Outcome State Fault Refusal := run (.transferStart engine) (fun _ h => h.transferStart engine) s

/-- TRANSFER_END (R157, R445). -/
def execTransferEnd (engine context status : Nat) (s : State) : Host.Outcome State Fault Refusal :=
  run (.transferEnd engine context status) (fun _ h => h.transferEnd engine context status) s

/-- ENGINE_RESET_REPORT (R445). -/
def execEngineResetReport (engine slice : Nat) (s : State) : Host.Outcome State Fault Refusal := run (.engineResetReport engine slice) (fun _ h => h.engineReport engine slice) s

/-- SLICE_RESET_TIMEOUT (R445). -/
def execSliceResetTimeout (slice : Nat) (s : State) : Host.Outcome State Fault Refusal := run (.sliceResetTimeout slice) (fun _ h => h.resetTimeout slice) s

end Sys2Proof.Machine
end

