-- ==== Sys2Proof/Machine/SpanCommands.lean ====
section
/-!
DEFINITION. Machine/SpanCommands.lean: the commands whose effects Machine/Span.lean holds, one meaning for each.
-/
namespace Sys2Proof.Machine

/-- SPAN_FRAME_RECEIVE (R462). -/
def execSpanFrameReceive (frame : List Byte) (s : State) : Host.Outcome State Fault Refusal := run (.spanFrameReceive frame) (fun _ h => h.spanReceive frame) s

/-- SPAN_LANE_RESYNC (R462). -/
def execSpanLaneResync (s : State) : Host.Outcome State Fault Refusal := run .spanLaneResync (fun _ h => h.spanResync) s

/-- SPAN_STATUS (R463). -/
def execSpanStatus (s : State) : Host.Outcome State Fault Refusal := run .spanStatus (fun _ h => h.spanStatus) s

/-- The READ at the front of the queue: its words, each in a hub cycle of its own, then the answer. -/
def State.spanRead (s : State) : State :=
  match s.hub.spanHead 2 with
  | none => s
  | some c =>
    match spanOffsets c.payload with
    | none => s.does fun _ h => h.spanRange c
    | some l =>
      let r := State.each .spanRead Hub.spanGet l s
      r.2.does fun _ h => h.spanDone c (r.1.any (·.2)) (r.1.flatMap fun x => leBytes 4 x.1)

/-- The WRITE at the front of the queue. -/
def State.spanWrite (s : State) : State :=
  match s.hub.spanHead 3 with
  | none => s
  | some c =>
    match spanOffsets c.payload with
    | none => s.does fun _ h => h.spanRange c
    | some l =>
      let r := State.each .spanWrite Hub.spanPut (spanWords c.payload l) s
      r.2.does fun _ h => h.spanDone c (r.1.any (·.2)) []

/-- SPAN_READ (R464). -/
def execSpanRead (s : State) : Host.Outcome State Fault Refusal := runCycles .spanRead State.spanRead s

/-- SPAN_WRITE (R464). -/
def execSpanWrite (s : State) : Host.Outcome State Fault Refusal := runCycles .spanWrite State.spanWrite s

/-- SPAN_BULK (R466). -/
def execSpanBulk (s : State) : Host.Outcome State Fault Refusal := run .spanBulk (fun _ h => h.spanBulk) s

/-- SPAN_BULK_FRAME (R466). -/
def execSpanBulkFrame (s : State) : Host.Outcome State Fault Refusal := run .spanBulkFrame (fun mem h => h.spanBulkFrame mem) s

/-- SPAN_ABORT (R468). -/
def execSpanAbort (s : State) : Host.Outcome State Fault Refusal := run .spanAbort (fun _ h => h.spanAbort) s

/-- SPAN_MODE (R469). -/
def execSpanMode (s : State) : Host.Outcome State Fault Refusal := run .spanMode (fun _ h => h.spanMode) s

/-- TAP_IDCODE (R472). -/
def execTapIdcode (s : State) : Host.Outcome State Fault Refusal := run .tapIdcode (fun _ h => h.tapDo 1 fun x => { x with dr := idcode }) s

/-- TAP_BYPASS (R472). -/
def execTapBypass (s : State) : Host.Outcome State Fault Refusal := run .tapBypass (fun _ h => h.tapDo 15 fun x => { x with dr := 0 }) s

/-- TAP_FRAME (R471). -/
def execTapFrame (s : State) : Host.Outcome State Fault Refusal := run .tapFrame (fun _ h => h.tapDo 9 fun x => { x with dr := 0, tap := false }) s

/-- TAP_RESET (R471): Test-Logic-Reset selects IDCODE. -/
def execTapReset (s : State) : Host.Outcome State Fault Refusal := run .tapReset (fun _ h => h.tapDo 1 id) s

/-- TAP_REGACC_UPDATE (R473). -/
def execTapRegaccUpdate (dr : Nat) (s : State) : Host.Outcome State Fault Refusal := run (.tapRegaccUpdate dr) (fun _ h => h.tapDo 8 fun x => x.regacc dr) s

/-- TAP_REGACC_CAPTURE (R473). -/
def execTapRegaccCapture (s : State) : Host.Outcome State Fault Refusal := run .tapRegaccCapture (fun _ h => h.tapDo 8 Span.capture) s

end Sys2Proof.Machine
end

