-- ==== Sys2Proof/Machine/StreamCommands.lean ====
section
/-!
DEFINITION. Machine/StreamCommands.lean: the commands whose effects Machine/Stream.lean holds, one meaning for each.
-/
namespace Sys2Proof.Machine

/-- DRAIN_RESERVE_REQUEST (R215). -/
def execDrainReserveRequest (station : Nat) (s : State) : Host.Outcome State Fault Refusal := run (.drainReserveRequest station) (fun _ h => h.drainRequest station) s

/-- DRAIN_BLOCK_TIMEOUT (R212). -/
def execDrainBlockTimeout (station : Nat) (s : State) : Host.Outcome State Fault Refusal := run (.drainBlockTimeout station) (fun _ h => h.drainTimeout station) s

/-- DRAIN_GRANT (R215). -/
def execDrainGrant (s : State) : Host.Outcome State Fault Refusal := run .drainGrant (fun _ h => h.drainGrant) s

/-- BLOCK_SEAL (R213). -/
def execBlockSeal (s : State) : Host.Outcome State Fault Refusal := run .blockSeal (fun _ h => h.blockSeal) s

/-- DRAIN_BLOCK_WRITTEN (R213). -/
def execDrainBlockWritten (station : Nat) (s : State) : Host.Outcome State Fault Refusal := run (.drainBlockWritten station) (fun _ h => h.blockWritten station) s

/-- REBIND_FLUSH_EXPIRY (R217). -/
def execRebindFlushExpiry (station : Nat) (s : State) : Host.Outcome State Fault Refusal := run (.rebindFlushExpiry station) (fun _ h => h.rebindExpiry station) s

end Sys2Proof.Machine
end

