-- ==== Sys2Proof/Machine/TimeCommands.lean ====
section
/-!
DEFINITION. Machine/TimeCommands.lean: the commands whose effects Machine/Time.lean holds, one meaning for each.
-/
namespace Sys2Proof.Machine

/-- TIMEBASE_START_FLIT (R130). -/
def execTimebaseStartFlit (station : Nat) (s : State) : Host.Outcome State Fault Refusal := run (.timebaseStartFlit station) (fun _ h => h.tbStart station) s

/-- TIMEBASE_CHECK_FLIT (R131). -/
def execTimebaseCheckFlit (station value : Nat) (s : State) : Host.Outcome State Fault Refusal := run (.timebaseCheckFlit station value) (fun _ h => h.tbCheck station value) s

/-- CALENDAR_APPLY (R134). -/
def execCalendarApply (s : State) : Host.Outcome State Fault Refusal := run .calendarApply (fun _ h => h.calDue) s

/-- TIME_MARK_SEND (R144). -/
def execTimeMarkSend (station : Nat) (s : State) : Host.Outcome State Fault Refusal := run (.timeMarkSend station) (fun _ h => h.markSend station) s

/-- TIME_MARK_RECEIVE (R145). -/
def execTimeMarkReceive (station : Nat) (mark : List Byte) (s : State) : Host.Outcome State Fault Refusal :=
  run (.timeMarkReceive station mark) (fun _ h => h.markReceive station mark) s

/-- LINK_RETRAIN (R142). -/
def execLinkRetrain (station : Nat) (s : State) : Host.Outcome State Fault Refusal := run (.linkRetrain station) (fun _ h => h.linkRetrain station) s

end Sys2Proof.Machine
end

