-- ==== Sys2Proof/Machine/TraceCommands.lean ====
section
/-!
DEFINITION. Machine/TraceCommands.lean: the commands whose effects Machine/Trace.lean holds, one meaning for each.
-/
namespace Sys2Proof.Machine

/-- A scalar core takes a branch, exception or mode change (R157). -/
def execProgramFlowEvent (unit kind addr target : Nat) (taken : Bool) (mode after cause : Nat) (s : State) : Host.Outcome State Fault Refusal :=
  run (.programFlowEvent unit kind addr target taken mode after cause) (fun _ h => h.coreEvent unit kind addr target taken mode after cause) s

/-- CHANNEL_REQUEST (R157): a memory channel serves a request. -/
def execChannelRequest (unit : Nat) (r : Rmo) (s : State) : Host.Outcome State Fault Refusal := run (.channelRequest unit r) (fun _ h => h.channelServe unit r) s

/-- RMO_ARRIVE (R157): an operation arrives at a tile's scratch SRAM. -/
def execRmoArrive (unit : Nat) (r : Rmo) (s : State) : Host.Outcome State Fault Refusal := run (.rmoArrive unit r) (fun _ h => h.rmoArrive unit r) s

/-- ATOMS_FLUSH_TIMEOUT (R203): 1,024 ticks have passed since the first atom collected for a core. While an exclusion run is open the source emits nothing
(R172), and the atoms leave as the run closes. -/
def execAtomsFlushTimeout (unit : Nat) (s : State) : Host.Outcome State Fault Refusal :=
  run (.atomsFlushTimeout unit) (fun _ h => [0, 1, 2, 3].foldl (fun h k =>
    let st := unitStn unit
    let a := SMap.get {} (h.getSrc st k).atoms (unitSub unit)
    if !a.bits.isEmpty && decide (a.first + 1024 ≤ h.stnTick st) && (h.getSrc st k).excl.isNone then h.flushTo st k a.last else h) h) s

end Sys2Proof.Machine
end

