-- ==== Sys2Proof/Machine/TunCommands.lean ====
section
/-!
DEFINITION. Machine/TunCommands.lean: the commands whose effects Machine/Tun.lean holds, one meaning for each.
-/
namespace Sys2Proof.Machine

/-- TUN_RECORD_COMPLETE (R326). -/
def execTunRecordComplete (s : State) : Host.Outcome State Fault Refusal := run .tunRecordComplete (fun _ h => h.tunComplete) s

end Sys2Proof.Machine
end

