-- ==== Sys2Proof/Machine/WatchCommands.lean ====
section
/-!
DEFINITION. Machine/WatchCommands.lean: the commands whose effects Machine/Watch.lean holds, one meaning for each.
-/
namespace Sys2Proof.Machine

/-- DUMP_CHUNK_WRITTEN (R322, R341). -/
def execDumpChunkWritten (s : State) : Host.Outcome State Fault Refusal := run .dumpChunkWritten (fun _ h => h.chunkWritten) s

/-- WATCH_SERVE (R339). -/
def execWatchServe (s : State) : Host.Outcome State Fault Refusal := run .watchServe (fun _ h => h.watchServe) s

/-- WATCH_READ_DONE (R344). -/
def execWatchReadDone (s : State) : Host.Outcome State Fault Refusal := run .watchReadDone (fun _ h => h.watchReadDone) s

/-- WATCH_HOLD_EXPIRY (R338). -/
def execWatchHoldExpiry (slot : Nat) (s : State) : Host.Outcome State Fault Refusal := run (.watchHoldExpiry slot) (fun _ h => h.watchHold slot) s

/-- WATCH_OUTPUT_FULL (R343). -/
def execWatchOutputFull (s : State) : Host.Outcome State Fault Refusal := run .watchOutputFull (fun _ h => h.watchFull) s

/-- WATCH_RESUME (R343). -/
def execWatchResume (s : State) : Host.Outcome State Fault Refusal := run .watchResume (fun _ h => h.watchResume) s

/-- CE_BLOCK_RELEASE (R370). -/
def execCeBlockRelease (bank : Nat) (raw : List Byte) (verified rawOk : Bool) (s : State) : Host.Outcome State Fault Refusal :=
  run (.ceBlockRelease bank raw verified rawOk) (fun m h => h.blockRelease m bank raw verified rawOk) s

end Sys2Proof.Machine
end

