-- ==== Sys2Proof/Machine/Dispatch.lean ====
section
/-!
DEFINITION. Machine/Dispatch.lean: the effect of each command on the state: one arm for each row of the table, one direct call of
its meaning.
-/
namespace Sys2Proof.Machine

/-- The effect of a command (one arm for each row of the table). -/
def exec (i : Instr) (s : State) : Host.Outcome State Fault Refusal :=
  match i with
  | .registerWrite m off size data => Sys2Proof.Machine.execRegisterWrite m off size data s
  | .loReadLatch m off size => Sys2Proof.Machine.execLoReadLatch m off size s
  | .rcFieldRead m off size => Sys2Proof.Machine.execRcFieldRead m off size s
  | .contextCreate m slice => Sys2Proof.Machine.execContextCreate m slice s
  | .contextDestroy m context => Sys2Proof.Machine.execContextDestroy m context s
  | .attributionFinalRecords context => Sys2Proof.Machine.execAttributionFinalRecords context s
  | .commandSubmit context unit tag signal value mode => Sys2Proof.Machine.execCommandSubmit context unit tag signal value mode s
  | .commandStart context => Sys2Proof.Machine.execCommandStart context s
  | .commandComplete context unit status => Sys2Proof.Machine.execCommandComplete context unit status s
  | .commandFault context unit code addr => Sys2Proof.Machine.execCommandFault context unit code addr s
  | .fenceSignal unit context fence value mode => Sys2Proof.Machine.execFenceSignal unit context fence value mode s
  | .fenceErrorSignal unit context fence mode => Sys2Proof.Machine.execFenceErrorSignal unit context fence mode s
  | .fenceWait unit context fence value mode => Sys2Proof.Machine.execFenceWait unit context fence value mode s
  | .rmoIssue r edge => Sys2Proof.Machine.execRmoIssue r edge s
  | .rmoArrive unit r => Sys2Proof.Machine.execRmoArrive unit r s
  | .rmoComplete r status => Sys2Proof.Machine.execRmoComplete r status s
  | .programFlowEvent unit kind addr target taken mode after cause => Sys2Proof.Machine.execProgramFlowEvent unit kind addr target taken mode after cause s
  | .linkMessage unit sent r msn len => Sys2Proof.Machine.execLinkMessage unit sent r msn len s
  | .routeMessage unit r len => Sys2Proof.Machine.execRouteMessage unit r len s
  | .channelRequest unit r => Sys2Proof.Machine.execChannelRequest unit r s
  | .transferArrive engine r signal value => Sys2Proof.Machine.execTransferArrive engine r signal value s
  | .transferStart engine => Sys2Proof.Machine.execTransferStart engine s
  | .transferEnd engine context status => Sys2Proof.Machine.execTransferEnd engine context status s
  | .unitSleep n what => Sys2Proof.Machine.execUnitSleep n what s
  | .unitWake n what => Sys2Proof.Machine.execUnitWake n what s
  | .trgFireWrite m station mask => Sys2Proof.Machine.execTrgFireWrite m station mask s
  | .triggerMatrix flits => Sys2Proof.Machine.execTriggerMatrix flits s
  | .matrixOrder station => Sys2Proof.Machine.execMatrixOrder station s
  | .atomsFlushTimeout unit => Sys2Proof.Machine.execAtomsFlushTimeout unit s
  | .peckFlush m station => Sys2Proof.Machine.execPeckFlush m station s
  | .peckRelease m station => Sys2Proof.Machine.execPeckRelease m station s
  | .drainBlockTimeout station => Sys2Proof.Machine.execDrainBlockTimeout station s
  | .drainReserveRequest station => Sys2Proof.Machine.execDrainReserveRequest station s
  | .drainGrant => Sys2Proof.Machine.execDrainGrant s
  | .blockSeal => Sys2Proof.Machine.execBlockSeal s
  | .drainBlockWritten station => Sys2Proof.Machine.execDrainBlockWritten station s
  | .traceRingRdWrite m slice value => Sys2Proof.Machine.execTraceRingRdWrite m slice value s
  | .rebindFlushExpiry station => Sys2Proof.Machine.execRebindFlushExpiry station s
  | .sampleTick => Sys2Proof.Machine.execSampleTick s
  | .sampleCaptureArrive station => Sys2Proof.Machine.execSampleCaptureArrive station s
  | .sealFrameWrite slice => Sys2Proof.Machine.execSealFrameWrite slice s
  | .sealFrameTimeout slice => Sys2Proof.Machine.execSealFrameTimeout slice s
  | .attributionUpdate => Sys2Proof.Machine.execAttributionUpdate s
  | .attributionExportTick => Sys2Proof.Machine.execAttributionExportTick s
  | .attExport m slice => Sys2Proof.Machine.execAttExport m slice s
  | .sampleRingRdWrite m slice value => Sys2Proof.Machine.execSampleRingRdWrite m slice value s
  | .epochBoundary => Sys2Proof.Machine.execEpochBoundary s
  | .epochAck station epoch => Sys2Proof.Machine.execEpochAck station epoch s
  | .ringMarkerTimeout ring => Sys2Proof.Machine.execRingMarkerTimeout ring s
  | .commitRequest m scope target => Sys2Proof.Machine.execCommitRequest m scope target s
  | .commitBegin => Sys2Proof.Machine.execCommitBegin s
  | .snapshotFlit station => Sys2Proof.Machine.execSnapshotFlit station s
  | .snapshotAck station => Sys2Proof.Machine.execSnapshotAck station s
  | .snapshotTimeout station => Sys2Proof.Machine.execSnapshotTimeout station s
  | .moveOrderIssue => Sys2Proof.Machine.execMoveOrderIssue s
  | .chwinAcquire m station => Sys2Proof.Machine.execChwinAcquire m station s
  | .chwinRelease m => Sys2Proof.Machine.execChwinRelease m s
  | .chwinLeaseExpiry m => Sys2Proof.Machine.execChwinLeaseExpiry m s
  | .chainFlitCrcError station => Sys2Proof.Machine.execChainFlitCrcError station s
  | .class2RetryTimeout station => Sys2Proof.Machine.execClass2RetryTimeout station s
  | .lockstepMismatch pc out0 out1 => Sys2Proof.Machine.execLockstepMismatch pc out0 out1 s
  | .clockMonitorWindow cycles => Sys2Proof.Machine.execClockMonitorWindow cycles s
  | .pllLossOfLock cycles => Sys2Proof.Machine.execPllLossOfLock cycles s
  | .hangStepAdvance status => Sys2Proof.Machine.execHangStepAdvance status s
  | .coldResetAssert => Sys2Proof.Machine.execColdResetAssert s
  | .coldResetRelease spdiLow => Sys2Proof.Machine.execColdResetRelease spdiLow s
  | .pllLock => Sys2Proof.Machine.execPllLock s
  | .pllLockTimeout => Sys2Proof.Machine.execPllLockTimeout s
  | .selftestDone pass => Sys2Proof.Machine.execSelftestDone pass s
  | .pufCaptureDone response => Sys2Proof.Machine.execPufCaptureDone response s
  | .chainTrainingDone untrained deadRings => Sys2Proof.Machine.execChainTrainingDone untrained deadRings s
  | .aszStart m => Sys2Proof.Machine.execAszStart m s
  | .aszDataWrite m word => Sys2Proof.Machine.execAszDataWrite m word s
  | .aszSectionVerified => Sys2Proof.Machine.execAszSectionVerified s
  | .aszLoadDone => Sys2Proof.Machine.execAszLoadDone s
  | .reloadCommit => Sys2Proof.Machine.execReloadCommit s
  | .aszAbort m => Sys2Proof.Machine.execAszAbort m s
  | .aszTimeout => Sys2Proof.Machine.execAszTimeout s
  | .aszIdleReturn => Sys2Proof.Machine.execAszIdleReturn s
  | .fwReady => Sys2Proof.Machine.execFwReady s
  | .fwReadyTimeout => Sys2Proof.Machine.execFwReadyTimeout s
  | .hbmTrainingDone failed => Sys2Proof.Machine.execHbmTrainingDone failed s
  | .tileResetComplete => Sys2Proof.Machine.execTileResetComplete s
  | .firkinRelease m => Sys2Proof.Machine.execFirkinRelease m s
  | .restartReuseImage m => Sys2Proof.Machine.execRestartReuseImage m s
  | .restartNewImage m => Sys2Proof.Machine.execRestartNewImage m s
  | .restartHashCheck => Sys2Proof.Machine.execRestartHashCheck s
  | .restartPairStart selftestPass => Sys2Proof.Machine.execRestartPairStart selftestPass s
  | .restartTimeout => Sys2Proof.Machine.execRestartTimeout s
  | .wdogKick => Sys2Proof.Machine.execWdogKick s
  | .watchdogExpiry pc => Sys2Proof.Machine.execWatchdogExpiry pc s
  | .watchdogCrashCoreDone => Sys2Proof.Machine.execWatchdogCrashCoreDone s
  | .timebaseStartFlit station => Sys2Proof.Machine.execTimebaseStartFlit station s
  | .timebaseCheckFlit station value => Sys2Proof.Machine.execTimebaseCheckFlit station value s
  | .calendarSetRequest m value => Sys2Proof.Machine.execCalendarSetRequest m value s
  | .calendarApply => Sys2Proof.Machine.execCalendarApply s
  | .timeMarkSend station => Sys2Proof.Machine.execTimeMarkSend station s
  | .timeMarkReceive station mark => Sys2Proof.Machine.execTimeMarkReceive station mark s
  | .linkRetrain station => Sys2Proof.Machine.execLinkRetrain station s
  | .cutRequest m die xpkg hang auto slice => Sys2Proof.Machine.execCutRequest m die xpkg hang auto slice s
  | .cutScheduleFlit station => Sys2Proof.Machine.execCutScheduleFlit station s
  | .cutTickT => Sys2Proof.Machine.execCutTickT s
  | .unitStopClean unit => Sys2Proof.Machine.execUnitStopClean unit s
  | .cutForcedStop station => Sys2Proof.Machine.execCutForcedStop station s
  | .cutReport station => Sys2Proof.Machine.execCutReport station s
  | .cutReportTimeout => Sys2Proof.Machine.execCutReportTimeout s
  | .cutResume m die xpkg auto slice => Sys2Proof.Machine.execCutResume m die xpkg auto slice s
  | .cutResumeTick => Sys2Proof.Machine.execCutResumeTick s
  | .cutStep m mode single auto n => Sys2Proof.Machine.execCutStep m mode single auto n s
  | .stepStart => Sys2Proof.Machine.execStepStart s
  | .stepEnd unit => Sys2Proof.Machine.execStepEnd unit s
  | .stepTimeout => Sys2Proof.Machine.execStepTimeout s
  | .benchModeWrite m enable => Sys2Proof.Machine.execBenchModeWrite m enable s
  | .cutScheduleMessage link msg => Sys2Proof.Machine.execCutScheduleMessage link msg s
  | .cutDoneMessage link msg => Sys2Proof.Machine.execCutDoneMessage link msg s
  | .cutResumeMessage link msg => Sys2Proof.Machine.execCutResumeMessage link msg s
  | .cutXresultWindowEnd => Sys2Proof.Machine.execCutXresultWindowEnd s
  | .scanStart => Sys2Proof.Machine.execScanStart s
  | .scanContext => Sys2Proof.Machine.execScanContext s
  | .verdictPop m => Sys2Proof.Machine.execVerdictPop m s
  | .waitEdgeCollect => Sys2Proof.Machine.execWaitEdgeCollect s
  | .contextWalk => Sys2Proof.Machine.execContextWalk s
  | .graphRequestMessage link msg => Sys2Proof.Machine.execGraphRequestMessage link msg s
  | .graphEdgeMessage link msg => Sys2Proof.Machine.execGraphEdgeMessage link msg s
  | .graphPeerTimeout => Sys2Proof.Machine.execGraphPeerTimeout s
  | .dumpRequest m die live slice => Sys2Proof.Machine.execDumpRequest m die live slice s
  | .dumpContextRequest m context => Sys2Proof.Machine.execDumpContextRequest m context s
  | .dumpPlanDone => Sys2Proof.Machine.execDumpPlanDone s
  | .dumpChunkWritten => Sys2Proof.Machine.execDumpChunkWritten s
  | .dumpTunFull => Sys2Proof.Machine.execDumpTunFull s
  | .dumpFinish => Sys2Proof.Machine.execDumpFinish s
  | .dumpSigned => Sys2Proof.Machine.execDumpSigned s
  | .firkinWriteDone => Sys2Proof.Machine.execFirkinWriteDone s
  | .tunRecordComplete => Sys2Proof.Machine.execTunRecordComplete s
  | .tunRdWrite m value => Sys2Proof.Machine.execTunRdWrite m value s
  | .watchServe => Sys2Proof.Machine.execWatchServe s
  | .watchReadDone => Sys2Proof.Machine.execWatchReadDone s
  | .watchHoldExpiry slot => Sys2Proof.Machine.execWatchHoldExpiry slot s
  | .watchOutputFull => Sys2Proof.Machine.execWatchOutputFull s
  | .watchResume => Sys2Proof.Machine.execWatchResume s
  | .watchCancel m slot => Sys2Proof.Machine.execWatchCancel m slot s
  | .ceBlockRelease bank raw verified rawOk => Sys2Proof.Machine.execCeBlockRelease bank raw verified rawOk s
  | .ceEncodeJob m bank xform => Sys2Proof.Machine.execCeEncodeJob m bank xform s
  | .ceDecodeJob m bank xform => Sys2Proof.Machine.execCeDecodeJob m bank xform s
  | .erBuildStart => Sys2Proof.Machine.execErBuildStart s
  | .erStationCopy => Sys2Proof.Machine.execErStationCopy s
  | .erStationCopyTimeout => Sys2Proof.Machine.execErStationCopyTimeout s
  | .erRecordCommit => Sys2Proof.Machine.execErRecordCommit s
  | .lostRecordEnqueue => Sys2Proof.Machine.execLostRecordEnqueue s
  | .erCursorAcquire m slot => Sys2Proof.Machine.execErCursorAcquire m slot s
  | .erCursorRelease m => Sys2Proof.Machine.execErCursorRelease m s
  | .erCursorExpiry m => Sys2Proof.Machine.execErCursorExpiry m s
  | .erFwRecord cls code => Sys2Proof.Machine.execErFwRecord cls code s
  | .auditGapEnqueue => Sys2Proof.Machine.execAuditGapEnqueue s
  | .auditSpillStart => Sys2Proof.Machine.execAuditSpillStart s
  | .auditSpillDone => Sys2Proof.Machine.execAuditSpillDone s
  | .spillRdWrite m value => Sys2Proof.Machine.execSpillRdWrite m value s
  | .roleCommand m => Sys2Proof.Machine.execRoleCommand m s
  | .roleDrop m => Sys2Proof.Machine.execRoleDrop m s
  | .ownerRegister m slice => Sys2Proof.Machine.execOwnerRegister m slice s
  | .tokenLodge m => Sys2Proof.Machine.execTokenLodge m s
  | .secCheckComplete m => Sys2Proof.Machine.execSecCheckComplete m s
  | .revokeCommit => Sys2Proof.Machine.execRevokeCommit s
  | .roleLeaseExpiry m => Sys2Proof.Machine.execRoleLeaseExpiry m s
  | .keyoutExpiry m => Sys2Proof.Machine.execKeyoutExpiry m s
  | .sliceCreate m slice => Sys2Proof.Machine.execSliceCreate m slice s
  | .sliceReset m slice => Sys2Proof.Machine.execSliceReset m slice s
  | .sliceDestroy m slice => Sys2Proof.Machine.execSliceDestroy m slice s
  | .sliceProcessDied m slice => Sys2Proof.Machine.execSliceProcessDied m slice s
  | .engineResetReport engine slice => Sys2Proof.Machine.execEngineResetReport engine slice s
  | .sliceResetTimeout slice => Sys2Proof.Machine.execSliceResetTimeout slice s
  | .exportAllocate m slice index => Sys2Proof.Machine.execExportAllocate m slice index s
  | .exportRelease m slice index => Sys2Proof.Machine.execExportRelease m slice index s
  | .spanFrameReceive frame => Sys2Proof.Machine.execSpanFrameReceive frame s
  | .spanStatus => Sys2Proof.Machine.execSpanStatus s
  | .spanRead => Sys2Proof.Machine.execSpanRead s
  | .spanWrite => Sys2Proof.Machine.execSpanWrite s
  | .spanBulk => Sys2Proof.Machine.execSpanBulk s
  | .spanBulkFrame => Sys2Proof.Machine.execSpanBulkFrame s
  | .spanAbort => Sys2Proof.Machine.execSpanAbort s
  | .spanMode => Sys2Proof.Machine.execSpanMode s
  | .attnMessageSet code => Sys2Proof.Machine.execAttnMessageSet code s
  | .tapIdcode => Sys2Proof.Machine.execTapIdcode s
  | .tapBypass => Sys2Proof.Machine.execTapBypass s
  | .tapFrame => Sys2Proof.Machine.execTapFrame s
  | .tapRegaccUpdate dr => Sys2Proof.Machine.execTapRegaccUpdate dr s
  | .tapRegaccCapture => Sys2Proof.Machine.execTapRegaccCapture s
  | .tapReset => Sys2Proof.Machine.execTapReset s
  | .msixUnmask entry => Sys2Proof.Machine.execMsixUnmask entry s
  | .irqEnableWrite m value => Sys2Proof.Machine.execIrqEnableWrite m value s
  | .hostDoorbell m code => Sys2Proof.Machine.execHostDoorbell m code s
  | .doorbellPop m => Sys2Proof.Machine.execDoorbellPop m s
  | .fwDoorbell code => Sys2Proof.Machine.execFwDoorbell code s
  | .mailboxWdata m word => Sys2Proof.Machine.execMailboxWdata m word s
  | .mailboxGo m len => Sys2Proof.Machine.execMailboxGo m len s
  | .mailboxAbort m => Sys2Proof.Machine.execMailboxAbort m s
  | .mailboxRdata m => Sys2Proof.Machine.execMailboxRdata m s
  | .mailboxResponseReady m => Sys2Proof.Machine.execMailboxResponseReady m s
  | .spdmGetVersion m => Sys2Proof.Machine.execSpdmGetVersion m s
  | .spdmGetCapabilities m => Sys2Proof.Machine.execSpdmGetCapabilities m s
  | .spdmNegotiateAlgorithms m => Sys2Proof.Machine.execSpdmNegotiateAlgorithms m s
  | .spdmChallenge m => Sys2Proof.Machine.execSpdmChallenge m s
  | .spdmGetMeasurements m => Sys2Proof.Machine.execSpdmGetMeasurements m s
  | .spdmUnsupported m => Sys2Proof.Machine.execSpdmUnsupported m s
  | .tlmThermalQuery m index => Sys2Proof.Machine.execTlmThermalQuery m index s
  | .tlmClockQuery m index => Sys2Proof.Machine.execTlmClockQuery m index s
  | .tlmPowerQuery m index => Sys2Proof.Machine.execTlmPowerQuery m index s
  | .tlmSummaryQuery m => Sys2Proof.Machine.execTlmSummaryQuery m s
  | .tlmQueryComplete m => Sys2Proof.Machine.execTlmQueryComplete m s
  | .tlmRefresh readings => Sys2Proof.Machine.execTlmRefresh readings s
  | .scrubRead store station word errors => Sys2Proof.Machine.execScrubRead store station word errors s
  | .railCollapse => Sys2Proof.Machine.execRailCollapse s
  | .fenceRearm unit fence => Sys2Proof.Machine.execFenceRearm unit fence s
  | .unitStall unit context edge => Sys2Proof.Machine.execUnitStall unit context edge s
  | .creditReturn unit next => Sys2Proof.Machine.execCreditReturn unit next s
  | .grainIncrement unit counter amount => Sys2Proof.Machine.execGrainIncrement unit counter amount s
  | .spanLaneResync => Sys2Proof.Machine.execSpanLaneResync s
  | .erWindowRead m off size => Sys2Proof.Machine.execErWindowRead m off size s
  | .railBelowNominal => Sys2Proof.Machine.execRailBelowNominal s
  | .railRestored => Sys2Proof.Machine.execRailRestored s
  | .islandSupplyLoss => Sys2Proof.Machine.execIslandSupplyLoss s
  | .graphAreaWrite => Sys2Proof.Machine.execGraphAreaWrite s

end Sys2Proof.Machine
end

