-- ==== Sys2Proof/Safety.lean ====
section
/-!
DEFINITION. Safety.lean: what counts as a safe step: it neither faults nor refuses, and the memories keep their canonical form.
-/
namespace Sys2Proof.Machine

/-- A step that goes on and leaves the memories in canonical form. -/
def SafeStep (s : State) : Prop := ∃ t, step s = .next t ∧ t.mem.wf = true

end Sys2Proof.Machine
end

