-- ==== Sys2Proof/Certificates/Slice0/Obligations.lean ====
section
/-!
DEFINITION. Certificates/Slice0/Obligations.lean: the statements about the hub that the provers prove. `Yields c s P` is the form of a statement of what a
command does: taken in its turn it answers a next state with the property `P` and leaves the queue of waiting commands alone.
-/
open Sys2Proof Sys2Proof.Machine

/-- Command `c`, whose turn in the hub cycle that runs has not passed, answers on state `s` a next state that satisfies `P`; the queue stays as it is.
`P` is told the hub as it takes the command: it differs from that of `s` in the places taken in the cycle's orders alone (and holds no write that
waits). A command whose turn has passed runs as it does in the next hub cycle (Obligations.IdleStepIsHubCycle). -/
def Sys2Proof.Yields (c : Instr) (s : State) (P : Hub → State → Prop) : Prop :=
  s.hub.inTurn c = true → ∃ t, exec c s = .next t ∧ t.pending = s.pending ∧ P (s.hub.takes c) t

/-- The state after an effect that leaves the hub as `g`: the writes that wait in `g` reach the memories. -/
def Sys2Proof.lands (s : State) (g : Hub) : State := { s with mem := s.mem.apply g.out, hub := { g with out := [] } }

/-- `h` with every part that a record request may touch taken from `g`: the recorder, RC fields, the interrupts and the marks of the cycle. -/
def Sys2Proof.asideRecords (h g : Hub) : Hub := { h with er := g.er, rc := g.rc, irq := g.irq, cyc := g.cyc }

/-! ## The machine as a whole -/

/-- With a command waiting, a step takes the one at the front and executes it with the queue's rest. -/
def Obligations.StepTakesFront : Prop :=
  ∀ (c : Instr) (q : List Instr) (s : State), step { s with pending := c :: q } = exec c { s with pending := q }

/-- With no command waiting, a step lets one hub cycle pass (the model's choice of log entry 1). At the start of a hub cycle no command's turn has
passed, and a command whose turn has passed in the hub cycle that runs is executed as at the start of the next one (R10, R17 and R24 order what one
hub cycle takes; which orders the model keeps is in log entry 1). -/
def Obligations.IdleStepIsHubCycle : Prop :=
   (∀ s : State, s.pending = [] → step s = .next (hubCycle s) ∧ (hubCycle s).pending = []) ∧
   (∀ (c : Instr) (s : State), (hubCycle s).hub.inTurn c = true ∧ (s.hub.inTurn c = false → exec c s = exec c (hubCycle s)))

/-- The hub that a cold reset of `h` leaves: every register at its reset value and every hub SRAM clear (R92); the island's supply stays as `island`
says, the Firkin's bad words stay while the island is supplied (R95), and so do the random source and the free values, which are the model's own. -/
def Sys2Proof.coldHub (h : Hub) (island : Bool) : Hub :=
  { State.reset.hub with
    boot := { State.reset.hub.boot with island := island }, sec := { State.reset.hub.sec with drbg := h.sec.drbg }, free := h.free,
    ecc := { State.reset.hub.ecc with firkinBad := if island then h.ecc.firkinBad else [] } }

/-- While COLD_N is low or the island has no supply, only the commands of reset and supply do anything (R91, R92): any other, in its turn, leaves
registers, memories and queue as they are. Every command of the hub answers a next state, whatever the state: no fault and no refusal, and the queue
is left alone. COLD_N falls: the hub is at its reset values and both memories keep their bytes. COLD_N rises: bring-up enters CLOCK, domains 20, 21
and 27 run, and the strap selects the TAP or the frames (R93). The island loses its supply: the hub is at its reset values and the Firkin is empty
(R95). Each again does nothing. -/
def Obligations.ResetHoldsTheHub : Prop :=
   (∀ (c : Instr) (s : State), s.hub.live = false → c ≠ .coldResetAssert → (∀ b, c ≠ .coldResetRelease b) → c ≠ .islandSupplyLoss →
      s.hub.inTurn c = true → exec c s = .next { s with hub := s.hub.takes c }) ∧
   (∀ (c : Instr) (s : State), ∃ t, exec c s = .next t ∧ t.pending = s.pending) ∧
   (∀ s : State,
      (s.hub.boot.coldN = true → Yields .coldResetAssert s fun _ t => t = { s with hub := coldHub s.hub s.hub.boot.island }) ∧
      (s.hub.boot.coldN = false → Yields .coldResetAssert s fun h0 t => t = { s with hub := h0 }) ∧
      (∀ low : Bool, s.hub.boot.coldN = false →
        Yields (.coldResetRelease low) s fun h0 t =>
          t = { s with hub := { h0 with
            boot := { s.hub.boot with coldN := true, island := true, domains := 2 ^ 20 + 2 ^ 21 + 2 ^ 27, phase := 1, since := s.hub.clk.realNs },
            span := { s.hub.span with tap := low, ir := 1 } } }) ∧
      (∀ low : Bool, s.hub.boot.coldN = true → Yields (.coldResetRelease low) s fun h0 t => t = { s with hub := h0 }) ∧
      (s.hub.boot.island = true →
        Yields .islandSupplyLoss s fun _ t => t = { s with hub := coldHub s.hub false, mem := { s.mem with firkin := [], firkin0 := [] } }) ∧
      (s.hub.boot.island = false → Yields .islandSupplyLoss s fun h0 t => t = { s with hub := h0 }))

/-- Every step keeps the two memories in canonical form and within their sizes: the Firkin below 8 MiB, HBM below 576 GB. -/
def Obligations.StepKeepsMemory : Prop :=
  ∀ s t : State, step s = .next t → s.mem.wf = true → t.mem.wf = true

/-- The state after reset: memories in canonical form with nothing listed, an empty queue, bring-up in phase RESET, no role held, no slice, the three
registers with a nonzero reset value of Table 17.3 that no command has touched. -/
def Obligations.ResetState : Prop :=
  State.reset.mem.wf = true ∧ State.reset.pending = [] ∧ State.reset.hub.boot.phase = 0 ∧ State.reset.hub.live = false ∧
    (∀ m, State.reset.hub.role m = 0) ∧ (∀ k, State.reset.hub.getSlice k = {}) ∧ State.reset.hub.wordAt .span 0 = 0xC1080003 ∧
    State.reset.hub.wordAt .span 0x90008 = 0x1FF ∧ State.reset.hub.wordAt .host 0x100 = 0x800000FA ∧ State.reset.hub.wordAt .host 0x30 = 0xFFFFFFFF

/-! ## The form of an accepted register write -/

/-- The event recorder after an accepted write of `w` at `off`: record 0x0813 of a master that holds a role (R408). -/
def Sys2Proof.roleEr (h : Hub) (m : Master) (off w : Nat) : Er :=
  if h.role m = 0 then h.er else h.er.audit { h.auditBy m 0x0813 with arg := off, words := [w] }

/-- The answers of the masters after an accepted write by `m`. -/
def Sys2Proof.answered (h : Hub) (m : Master) : SMap Resp := SMap.set {} h.resp m.idx ⟨0, false⟩

/-- The state after an accepted write of `w` at `off` by `m` whose effect on the hub is `g`: nothing else but the master's answer and the audit record
of a role. -/
def Sys2Proof.wrote (s : State) (m : Master) (off w : Nat) (g : Hub) : State :=
  { s with hub := { g with er := roleEr s.hub m off w, resp := answered s.hub m } }

/-- No cut schedule and no matrix order that left the hub core in an earlier hub cycle is still on its way to station `x` (R58). -/
def Sys2Proof.nothingDue (h : Hub) (x : Nat) : Prop :=
  (∀ r ∈ h.cut.cuts, x ∈ r.toArm → h.clk.cycle ≤ r.issued) ∧ ∀ o ∈ h.trc.orders, o.station = x → h.clk.cycle ≤ o.issued

/-- The same for the station, if any, in whose slot an offset lies. -/
def Sys2Proof.slotQuiet (h : Hub) (off : Nat) : Prop := 0x100000 ≤ off → off < 0x900000 → nothingDue h ((off - 0x100000) / 0x1000)

/-- The same where the write leaves no audit record (R408), or `g` holds it. -/
def Sys2Proof.wroteQuiet (s : State) (m : Master) (g : Hub) : State := { s with hub := { g with resp := answered s.hub m } }

/-! ## The Chain and commits (chapter 02) -/

/-- What arrives on the Chain: an acknowledgement in time clears the station's count of missed ones (R61); a marker not back in 256 hub cycles counts,
and the second in a row fails the ring from the next boundary (R62); the third flit error of an epoch bypasses the station from the next boundary
(R61); a class-2 request without a response is repeated, and is no longer waited for after the third repeat (R504). -/
def Obligations.ChainArrivals : Prop :=
  ∀ s : State, s.hub.live = true →
    (∀ st, s.hub.clk.started = true → s.hub.observed st = true →
      Yields (.epochAck st s.hub.clk.epoch) s fun h0 t =>
        t.hub.getLink st = { s.hub.getLink st with missed := 0, acked := true } ∧ (∀ x, x ≠ st → t.hub.getLink x = s.hub.getLink x) ∧
        t = { s with hub := { h0 with chain := { s.hub.chain with link := t.hub.chain.link } } }) ∧
    (∀ r, r < 32 → bit s.hub.chain.ringBad r = false → s.hub.chain.ringLate.contains r = false → s.hub.clk.started = true →
        256 ≤ s.hub.clk.epochCycle →
      Yields (.ringMarkerTimeout r) s fun h0 t =>
        SMap.get 0 t.hub.chain.ringMiss r = SMap.get 0 s.hub.chain.ringMiss r + 1 ∧
        (∀ k, k ≠ r → SMap.get 0 t.hub.chain.ringMiss k = SMap.get 0 s.hub.chain.ringMiss k) ∧
        (1 ≤ SMap.get 0 s.hub.chain.ringMiss r → ∀ k, bit t.hub.chain.ringNext k = (bit s.hub.chain.ringNext k || k == r)) ∧
        (SMap.get 0 s.hub.chain.ringMiss r = 0 → t.hub.chain.ringNext = s.hub.chain.ringNext) ∧
        t = { s with hub := { h0 with chain := { s.hub.chain with
          ringMiss := t.hub.chain.ringMiss, ringNext := t.hub.chain.ringNext, ringLate := s.hub.chain.ringLate ++ [r] } } }) ∧
    (∀ st, s.hub.observed st = true →
      Yields (.chainFlitCrcError st) s fun h0 t =>
        t.hub.getLink st = { s.hub.getLink st with
          errFlits := (s.hub.getLink st).errFlits + 1,
          next := if 2 ≤ (s.hub.getLink st).errFlits ∧ (s.hub.getLink st).next = .observed then .errors else (s.hub.getLink st).next } ∧
        (∀ x, x ≠ st → t.hub.getLink x = s.hub.getLink x) ∧
        t = { s with hub := { h0 with chain := { s.hub.chain with link := t.hub.chain.link } } }) ∧
    (∀ st, s.hub.observed st = true → (∀ r ∈ s.hub.chain.req2, r.station ≠ st) →
      Yields (.class2RetryTimeout st) s fun h0 t =>
        t = { s with hub := { h0 with chain := { s.hub.chain with req2 := s.hub.chain.req2 ++ [⟨st, 1⟩] } } }) ∧
    (∀ (st n : Nat) (a q : List Req2), s.hub.observed st = true → s.hub.chain.req2 = a ++ ⟨st, n⟩ :: q → (∀ r ∈ a, r.station ≠ st) →
      Yields (.class2RetryTimeout st) s fun h0 t =>
        t = { s with hub := { h0 with chain := { s.hub.chain with req2 := if n < 3 then a ++ ⟨st, n + 1⟩ :: q else a ++ q } } })

/-- A commit on its way to its boundary (R65, R69, R82, R83): it begins once no other is under way, names the observed stations of its scope and
stages the dirty registers of its scope and of their slots, and the spent entries of the trigger matrix (R178); a station's snapshot flit arrives and
its acknowledgement is awaited; the last acknowledgement, before the guard cycles, arms the commit for the next boundary and reports ST_OK; a station
silent for 4,096 hub cycles is excluded and counted as missing, and its registers are dirty again. The move orders of the next boundary name the units
of the move queue whose stations are taken, once in an epoch (R443). -/
def Obligations.CommitProgress : Prop :=
   (∀ (s : State) (c : Commit), s.hub.live = true →
      (∀ q, s.hub.chain.cur = none → s.hub.chain.queue = c :: q → c.effective = none → c.toAck = [] → c.owner ≠ .slices →
          s.hub.commitCheck c.scope c.target = stOk → s.hub.commitStations c ≠ [] →
        Yields .commitBegin s fun h0 t =>
          t.hub.chain.cur = some { c with issued := s.hub.clk.cycle, toSnap := s.hub.commitStations c } ∧ t.hub.chain.queue = q ∧
          (∀ d k, t.hub.rwsGet d k =
            if (c.covers k || (s.hub.commitStations c).any fun x => inSlot x k) && ((s.hub.rwsGet d k).st == .dirty || spent k (s.hub.rwsGet d k)) then
              { s.hub.rwsGet d k with staged := (s.hub.rwsGet d k).shadow, st := .staged }
            else s.hub.rwsGet d k) ∧
          t = { s with hub := { h0 with chain := { s.hub.chain with cur := t.hub.chain.cur, queue := q }, rws := t.hub.rws } }) ∧
      (∀ st, s.hub.chain.cur = some c → c.toSnap.contains st = true → s.hub.observed st = true →
        Yields (.snapshotFlit st) s fun h0 t =>
          t = { s with hub := { h0 with chain := { s.hub.chain with cur := some { c with toSnap := c.toSnap.filter (· != st), toAck := c.toAck ++ [st] } } } }) ∧
      (∀ st m, s.hub.chain.cur = some c → c.toAck = [st] → c.toSnap = [] → c.effective = none → c.excluded = [] → c.scope = 2 →
          c.owner = .master m → m ≠ .loader → s.hub.clk.cycle < c.issued + 4096 → s.hub.clk.epochCycle < 3840 →
        Yields (.snapshotAck st) s fun h0 t =>
          t.hub.getLink st = { s.hub.getLink st with missed := 0 } ∧ (∀ x, x ≠ st → t.hub.getLink x = s.hub.getLink x) ∧
          t.hub.getStat m = { s.hub.getStat m with status := stOk, excluded := 0 } ∧ (∀ n, n ≠ m → t.hub.getStat n = s.hub.getStat n) ∧
          t = { s with hub := { h0 with chain := { s.hub.chain with
            cur := some { c with toAck := [], effective := some (s.hub.clk.epoch + 1) }, link := t.hub.chain.link, stat := t.hub.chain.stat } } }) ∧
      (∀ st, s.hub.chain.cur = some c → c.toSnap = [] → c.toAck.contains st = true → (c.toAck.filter (· != st)) ≠ [] →
          c.issued + 4096 ≤ s.hub.clk.cycle →
        Yields (.snapshotTimeout st) s fun h0 t =>
          t.hub.getLink st = { s.hub.getLink st with
            missed := (s.hub.getLink st).missed + 1,
            next := if 2 ≤ (s.hub.getLink st).missed ∧ (s.hub.getLink st).next = .observed then .missed else (s.hub.getLink st).next } ∧
          (∀ x, x ≠ st → t.hub.getLink x = s.hub.getLink x) ∧
          (∀ d k, t.hub.rwsGet d k = if inSlot st k && ((s.hub.rwsGet d k).st == .staged || (s.hub.rwsGet d k).st == .stagedDirty) then
              { s.hub.rwsGet d k with st := .dirty } else s.hub.rwsGet d k) ∧
          t = { s with hub := { h0 with
            chain := { s.hub.chain with
              cur := some { c with toAck := c.toAck.filter (· != st), excluded := c.excluded ++ [st] }, link := t.hub.chain.link },
            rws := t.hub.rws } })) ∧
   (∀ s : State, s.hub.live = true → s.hub.clk.started = true → s.hub.slc.moves ≠ [] → s.hub.slc.ordersEpoch ≠ s.hub.clk.epoch + 1 →
      Yields .moveOrderIssue s fun h0 t =>
        t = { s with hub := { h0 with slc := { s.hub.slc with
          orders := (s.hub.slc.moves.filter fun m => s.hub.moveStations.contains (unitStn m.1)).map Prod.fst, ordersEpoch := s.hub.clk.epoch + 1 } } })

/-! ## The event recorder (chapter 12) -/

/-- Requests become builds: from the system queue first, then from the trigger FIFO, while fewer than four run (R387); the station copy of the oldest
build that waits for one fills its words, or 8,192 hub cycles without it leave the record incomplete (R386). -/
def Obligations.RecordBuilds : Prop :=
  ∀ s : State, s.hub.live = true →
    (∀ (r : Req) (q : List Req), s.hub.er.builds.length < 4 → s.hub.er.sysq = r :: q →
      Yields .erBuildStart s fun h0 t =>
        t = { s with hub := { h0 with er := { s.hub.er with sysq := q, builds := s.hub.er.builds ++ [s.hub.buildOf r] } } }) ∧
    (∀ (r : Req) (q : List Req), s.hub.er.builds.length < 4 → s.hub.er.sysq = [] → s.hub.er.fifo = r :: q →
      Yields .erBuildStart s fun h0 t =>
        t = { s with hub := { h0 with er := { s.hub.er with fifo := q, builds := s.hub.er.builds ++ [s.hub.buildOf r] } } }) ∧
    (∀ (b : Build) (q : List Build), s.hub.er.builds = b :: q → b.stnPending = true →
      Yields .erStationCopy s fun h0 t =>
        t = { s with hub := { h0 with er := { s.hub.er with builds :=
          { b with stnPending := false, stnTaken := true, words := s.hub.snapStation (b.req.snap.getD 0) (unitStn b.req.unit) b.words } :: q } } }) ∧
    (∀ (b : Build) (q : List Build), s.hub.er.builds = b :: q → b.stnPending = true → b.start + 8192 ≤ s.hub.clk.cycle →
      Yields .erStationCopyTimeout s fun h0 t =>
        t = { s with hub := { h0 with er := { s.hub.er with builds := { b with stnPending := false, incomplete := true } :: q } } })

/-- What a record of an event at tick `x` takes at its commit besides its number: the tick of the commit, calendar time and generation, those before a
calendar set of the same hub cycle (R136, R379, R393). -/
def Sys2Proof.stampOf (h : Hub) (x : Nat) : RecStamp :=
  ⟨h.er.seq, h.now, if h.cal.setCyc = h.clk.cycle + 1 then (if h.cal.oldGen = 0 then 0 else (x + h.cal.oldOffset) % 2 ^ 64) else h.calendar x,
    if h.cal.setCyc = h.clk.cycle + 1 then h.cal.oldGen else h.cal.gen⟩

/-- The bytes that slot `k` of the recorder holds are `b`, the other slots hold what they held, and the slot shows what it held before for the rest of
the hub cycle (R380). -/
def Sys2Proof.slotTakes (e f : Er) (cycle k : Nat) (b : List Byte) : Prop :=
  SMap.get [] f.store k = b ∧ (∀ j, j ≠ k → SMap.get [] f.store j = SMap.get [] e.store j) ∧ f.oldSlot = some (k, cycle, SMap.get [] e.store k) ∧
    f.bad = e.bad.filter (· != k)

/-- A record commits, at the earliest 8 hub cycles after the last one (R380): the oldest build takes the next sequence number and the next slot of its
ring, 7,680 general slots or 512 audit slots (R378); an audit record extends the chain by the hash of the last link, or of the chain's seed, and its
own bytes (R394); a clock-set record goes first, but not in the hub cycle of its own set (R393); only the recorder and the vectors of Table 16.2
change. -/
def Obligations.RecordCommit : Prop :=
  ∀ (s : State), s.hub.live = true → s.hub.er.nextCommit ≤ s.hub.clk.cycle →
    (∀ (b : Build) (q : List Build), s.hub.er.clockSet = [] → s.hub.er.builds = b :: q → b.stnPending = false → b.req.gap = false → b.req.image = [] →
        b.req.cls ≠ 8 →
      Yields .erRecordCommit s fun h0 t =>
        slotTakes s.hub.er t.hub.er s.hub.clk.cycle (s.hub.er.gcount % 7680) (recGeneral b (stampOf s.hub b.req.tick)) ∧
        t = { s with hub := { h0 with
          er := { s.hub.er with
            builds := q, seq := (s.hub.er.seq + 1) % 2 ^ 32, nextCommit := s.hub.clk.cycle + 8, gcount := s.hub.er.gcount + 1,
            store := t.hub.er.store, oldSlot := t.hub.er.oldSlot, bad := t.hub.er.bad },
          irq := (s.hub.irqAll (recVectors b.req.cls b.req.code)).irq, cyc := (s.hub.irqAll (recVectors b.req.cls b.req.code)).cyc } }) ∧
    (∀ (b : Build) (q : List Build), s.hub.er.clockSet = [] → s.hub.er.builds = b :: q → b.stnPending = false → b.req.gap = false → b.req.image = [] →
        b.req.cls = 8 →
      Yields .erRecordCommit s fun h0 t =>
        (∃ head, head = recAuditHead { b.req with words := b.words } (stampOf s.hub b.req.tick) s.hub.er.acount ∧
          t.hub.er.link = sha384 ((if s.hub.er.acount = 0 then chainSeed s.hub.er.chainNonce else s.hub.er.link) ++ head) ∧
          slotTakes s.hub.er t.hub.er s.hub.clk.cycle (7680 + s.hub.er.acount % 512) (head ++ t.hub.er.link ++ echoWord s.hub.er.seq 8)) ∧
        t = { s with hub := { h0 with
          er := { s.hub.er with
            builds := q, seq := (s.hub.er.seq + 1) % 2 ^ 32, nextCommit := s.hub.clk.cycle + 8, acount := s.hub.er.acount + 1, link := t.hub.er.link,
            store := t.hub.er.store, oldSlot := t.hub.er.oldSlot, bad := t.hub.er.bad },
          irq := (s.hub.irqAll (recVectors 8 b.req.code)).irq, cyc := (s.hub.irqAll (recVectors 8 b.req.code)).cyc } }) ∧
    (∀ (r : Req) (q : List Req), s.hub.er.clockSet = r :: q → s.hub.cal.setCyc ≠ s.hub.clk.cycle + 1 → r.cls = 8 → r.code = 0x0804 → r.gap = false →
        r.image = [] →
      Yields .erRecordCommit s fun h0 t =>
        (∃ head, head = recAuditHead r (stampOf s.hub r.tick) s.hub.er.acount ∧
          t.hub.er.link = sha384 ((if s.hub.er.acount = 0 then chainSeed s.hub.er.chainNonce else s.hub.er.link) ++ head) ∧
          slotTakes s.hub.er t.hub.er s.hub.clk.cycle (7680 + s.hub.er.acount % 512) (head ++ t.hub.er.link ++ echoWord s.hub.er.seq 8)) ∧
        t = { s with hub := { h0 with
          er := { s.hub.er with
            clockSet := q, seq := (s.hub.er.seq + 1) % 2 ^ 32, nextCommit := s.hub.clk.cycle + 8, acount := s.hub.er.acount + 1, link := t.hub.er.link,
            store := t.hub.er.store, oldSlot := t.hub.er.oldSlot, bad := t.hub.er.bad } } })

/-- What floods leave behind: the pending lost record enters the FIFO with the count of triggers and of all requests coalesced, the counts by class,
the first and last tick and their stations (R388); the pending audit gap enters the head of the system queue (R395). The audit spill (R396): a block
of at most 63 records is taken once 63 wait, or once the oldest that waits is 100 ms old; when it is written its bytes and the signature over them
stand in block spillWr mod 1,024 of the spill area of the Tun, no other byte of memory has changed, the positions advance and vector 11 is raised. -/
def Obligations.RecorderQueues : Prop :=
   (∀ s : State, s.hub.live = true →
      (s.hub.er.lost.any = true → s.hub.er.fifo.length < 64 →
        Yields .lostRecordEnqueue s fun h0 t =>
          t = { s with hub := { h0 with er := { s.hub.er with
            fifo := s.hub.er.fifo ++ [{
              cls := 2, code := 0x0201, tick := s.hub.er.lost.first, aux := s.hub.er.lost.triggers, arg := s.hub.er.lost.all,
              words := (List.range 16).map (fun k => SMap.get 0 s.hub.er.lost.counts k) ++
                [s.hub.er.lost.first, s.hub.er.lost.last, s.hub.er.lost.firstStn + s.hub.er.lost.lastStn * 2 ^ 32] }],
            lost := {} } } }) ∧
      (s.hub.er.gap.pending = true → s.hub.er.gap.queued = false → s.hub.er.auditLoad < 511 → s.hub.er.sysq.length < 32 →
        Yields .auditGapEnqueue s fun h0 t =>
          t = { s with hub := { h0 with er := { s.hub.er with
            sysq := { cls := 8, code := 0x0809, tick := s.hub.now, gap := true } :: s.hub.er.sysq, gap := { s.hub.er.gap with queued := true } } } })) ∧
   (∀ s : State, s.hub.live = true → s.hub.nocUp = true →
      (s.hub.boot.tunHeader = true → s.hub.er.spilling = none → s.hub.er.spillWr - s.hub.er.spillRd < 1024 → s.hub.er.spillFirst < s.hub.er.acount →
          (63 ≤ s.hub.er.acount - s.hub.er.spillFirst ∨ leAt (s.hub.slotNow (7680 + s.hub.er.spillFirst % 512)) 0x10 8 + 100000000 ≤ s.hub.now) →
        Yields .auditSpillStart s fun h0 t =>
          t = { s with hub := { h0 with er := { s.hub.er with spilling := some (Nat.min 63 (s.hub.er.acount - s.hub.er.spillFirst), s.hub.now) } } }) ∧
      (∀ n tick, s.hub.er.spilling = some (n, tick) →
        Yields .auditSpillDone s fun h0 t =>
          (∀ k, k < 32768 → s.hub.boot.tunBase + 0x200000 + s.hub.er.spillWr % 1024 * 32768 + k < hbmSize →
            SMap.get 0 t.mem.hbm (s.hub.boot.tunBase + 0x200000 + s.hub.er.spillWr % 1024 * 32768 + k) =
              (s.hub.spillBlock n tick ++ padTo 96 (Config.ecdsaSign s.hub.boot.diePriv (sha384 (s.hub.spillBlock n tick)))).getD k 0) ∧
          (∀ a, (a < s.hub.boot.tunBase + 0x200000 + s.hub.er.spillWr % 1024 * 32768 ∨
              s.hub.boot.tunBase + 0x200000 + s.hub.er.spillWr % 1024 * 32768 + 32768 ≤ a) → SMap.get 0 t.mem.hbm a = SMap.get 0 s.mem.hbm a) ∧
          t = { s with
            mem := { s.mem with hbm := t.mem.hbm },
            hub := { h0 with
              er := { s.hub.er with
                spilling := none, spillFirst := s.hub.er.spillFirst + n, spillWr := s.hub.er.spillWr + 1,
                spillLink := slice (SMap.get [] s.hub.er.store (7680 + (s.hub.er.spillFirst + n - 1) % 512)) 0x1C8 48 },
              irq := (s.hub.irqRaise 11).irq, cyc := (s.hub.irqRaise 11).cyc } }))

/-! ## Counters, samples and attribution (chapter 07) -/

/-- A counter takes an increment (R225, R228): only that counter's addition of this hub cycle changes, a read still returns the old value; a cycle
counter of a gated or stopped unit takes none (R267); counter 1 of a tile unit also advances the progress of its command's context, once for every
2^20 instructions (R287), unless that command is of a context since destroyed (R37). -/
def Obligations.GrainCounts : Prop :=
  ∀ (s : State) (u k n : Nat), s.hub.live = true → unitOk u = true → k < 8 → s.hub.boot.units = true →
    (¬ (cycleCounter (unitClass u) k = true ∧ (s.hub.asleep u = true ∨ (s.hub.getGate u).st ≠ .run)) →
      Yields (.grainIncrement u k n) s fun h0 t =>
        (∀ j, SMap.get 0 (t.hub.getGrain u).inc j = SMap.get 0 (s.hub.getGrain u).inc j + if j = k then n else 0) ∧
        { t.hub.getGrain u with inc := [], retired := 0 } = { s.hub.getGrain u with inc := [], retired := 0 } ∧
        (∀ v, v ≠ u → t.hub.getGrain v = s.hub.getGrain v) ∧ (∀ x, { t.hub.getStn x with grain := [] } = { s.hub.getStn x with grain := [] }) ∧
        (∀ c g, (s.hub.getGrain u).cmd = some (c, g) → k = 1 → isTileUnit u = true →
            ((s.hub.getCtx c).cmds.any fun x => x.gone && x.started && x.unit == u) = false →
          (t.hub.getGrain u).retired = ((s.hub.getGrain u).retired + n) % 2 ^ 20 ∧ (∀ d, d ≠ c → t.hub.getCtx d = s.hub.getCtx d) ∧
          t.hub.getCtx c = Ctx.mark (s.hub.clk.cycle + 1) (s.hub.getCtx c)
            { s.hub.getCtx c with progress := ((s.hub.getCtx c).progress + ((s.hub.getGrain u).retired + n) / 2 ^ 20) % 2 ^ 32 }) ∧
        (k ≠ 1 ∨ isTileUnit u = false ∨ (s.hub.getGrain u).cmd = none ∨
            (∃ c g, (s.hub.getGrain u).cmd = some (c, g) ∧ ((s.hub.getCtx c).cmds.any fun x => x.gone && x.started && x.unit == u) = true) →
          t.hub.ctx = s.hub.ctx ∧ (t.hub.getGrain u).retired = (s.hub.getGrain u).retired) ∧
        t = { s with hub := { h0 with stn := t.hub.stn, ctx := t.hub.ctx } }) ∧
    (cycleCounter (unitClass u) k = true → (s.hub.asleep u = true ∨ (s.hub.getGate u).st ≠ .run) →
      Yields (.grainIncrement u k n) s fun h0 t => t = { s with hub := h0 })

/-- HBM after an extent of `len` bytes has been written into ring `r` where R215 places it: the bytes of `frame` there, past the filler where the
extent would cross the ring's end, and no other byte changed; the Firkin is as it was. -/
def Sys2Proof.framed (r : Ring) (len : Nat) (filler frame : List Byte) (m n : Mem) : Prop :=
  n = { m with hbm := n.hbm } ∧
  ∀ a, SMap.get 0 n.hbm a =
    if r.base + r.place len % r.size ≤ a ∧ a < r.base + r.place len % r.size + len then frame.getD (a - (r.base + r.place len % r.size)) 0
    else if r.base + r.wr % r.size ≤ a ∧ a < r.base + r.wr % r.size + Nat.min filler.length (r.place len - r.wr) then
      filler.getD (a - (r.base + r.wr % r.size)) 0
    else SMap.get 0 m.hbm a

/-- The ring of slice `k` takes an extent of `len` bytes, which lies in HBM and passes no RD. -/
def Sys2Proof.takesFrame (h : Hub) (k len : Nat) : Prop :=
  h.nocUp = true ∧ (SMap.get ({} : Ring) h.cnt.ring k).on = true ∧ (SMap.get ({} : Ring) h.cnt.ring k).fits len = true ∧
  len ≤ (SMap.get ({} : Ring) h.cnt.ring k).size ∧ (SMap.get ({} : Ring) h.cnt.ring k).base + (SMap.get ({} : Ring) h.cnt.ring k).size ≤ hbmSize

/-- The sample rings after slice `k`'s has taken an extent of `len` bytes: its WR stands behind the extent. -/
def Sys2Proof.ringMoved (m n : SMap Ring) (k len : Nat) : Prop :=
  SMap.get ({} : Ring) n k = { SMap.get ({} : Ring) m k with wr := (SMap.get ({} : Ring) m k).place len + len } ∧
  ∀ j, j ≠ k → SMap.get ({} : Ring) n j = SMap.get ({} : Ring) m j

/-- The filler that ring `k` of the sampler needs before an extent of `len` bytes (Table 07.3; its tick field is the model's choice, log entry 85). -/
def Sys2Proof.sampleFiller (h : Hub) (k len : Nat) : List Byte :=
  frameHeader k 3 0 (SMap.get ({} : Ring) h.cnt.ring k).wr 0 0
    ((SMap.get ({} : Ring) h.cnt.ring k).place len - (SMap.get ({} : Ring) h.cnt.ring k).wr) 0 0

/-- Length and bytes of a seal frame at ring position `pos` (R238): the header with the boundary tick and the number of the last sample before it, the
records, and for a tenant the tag under the slice's counter key. -/
def Sys2Proof.sealLen (x : Seal) : Nat := 40 + (x.recs.flatMap URec.bytes).length + if x.slice = 0 then 0 else 16
def Sys2Proof.sealPlain (x : Seal) (pos : Nat) : List Byte :=
  frameHeader x.slice 1 (if x.slice = 0 then 0 else 1) pos x.b x.seq (sealLen x) x.recs.length 0 ++ x.recs.flatMap URec.bytes
def Sys2Proof.sealBytes (x : Seal) (pos : Nat) : List Byte :=
  sealPlain x pos ++ if x.slice = 0 then [] else padTo 16 (Config.aesGcm x.key (leBytes 4 x.seq ++ leBytes 8 x.b) (sealPlain x pos) [])

/-- The sampler (R230 to R232): a due sample captures the units of every observed station whose last capture has left it and waits for them, a station
that still holds one counts an overrun, and the next sample is due a period later; one that comes while the last is not all written, or while the path
to HBM is down, is skipped, counted for the enabled rings and reported on vector 10. The captures of a sample (R231 to R233): a station's capture
arrives, and the sample waits for the others; with the last one the sample ends and takes the next number; where one slice owns the units, no seal
waits and its ring has room, its frame stands in the ring with the records of its units, and the count of skipped samples starts again; where no ring
is enabled nothing is written. Seal frames (R237, R238): one that fits is written into its ring and nothing else of memory changes; a disabled ring
discards it; one that has not fitted 4,095 ticks after its boundary is discarded with record 0x0709 and the sealed flag of its ring. -/
def Obligations.Samples : Prop :=
   (∀ s : State, s.hub.live = true →
      (s.hub.cntOn = true → s.hub.clk.started = true → s.hub.cnt.next ≤ s.hub.now → s.hub.cnt.cur = none → s.hub.nocUp = true →
        Yields .sampleTick s fun h0 t =>
          (∀ x, x ∈ allStations → s.hub.observed x = true → s.hub.cnt.busy.contains x = true → 1 ≤ t.hub.rcTotal (pchOff x 0x24) 0 0) ∧
          (s.hub.cnt.busy = [] → t.hub.rc = s.hub.rc) ∧
          t = { s with hub := { h0 with
            rc := t.hub.rc,
            cnt := { s.hub.cnt with
              cur := some (s.hub.now, (allStations.filter s.hub.observed).filter fun x => !s.hub.cnt.busy.contains x),
              recs := ((allStations.filter s.hub.observed).filter fun x => !s.hub.cnt.busy.contains x).flatMap fun x => (stnUnits x).map s.hub.capture,
              busy := s.hub.cnt.busy ++ (allStations.filter s.hub.observed).filter fun x => !s.hub.cnt.busy.contains x,
              owners := (List.range 64).filter fun k => allUnits.any fun u => s.hub.unitSlice u == k,
              next := s.hub.cnt.next + s.hub.act 0x3E8 0x70000 % 2 ^ 24 * 1000, capCycle := s.hub.clk.cycle + 1 } } }) ∧
      (s.hub.cntOn = true → s.hub.clk.started = true → s.hub.cnt.next ≤ s.hub.now → (s.hub.cnt.cur ≠ none ∨ s.hub.nocUp = false) →
        Yields .sampleTick s fun h0 t =>
          (∀ k, SMap.get 0 t.hub.cnt.skipped k =
            if k < 64 ∧ (SMap.get ({} : Ring) s.hub.cnt.ring k).on = true then satAdd 65535 (SMap.get 0 s.hub.cnt.skipped k) 1
            else SMap.get 0 s.hub.cnt.skipped k) ∧
          t = { s with hub := { h0 with
            cnt := { s.hub.cnt with next := s.hub.cnt.next + s.hub.act 0x3E8 0x70000 % 2 ^ 24 * 1000, skipped := t.hub.cnt.skipped },
            rc := (s.hub.rcAdd 0x70004 0 16 65535 1).rc, irq := (s.hub.irqRaise 10).irq, cyc := (s.hub.irqRaise 10).cyc } })) ∧
   (∀ (s : State) (st x : Nat) (l : List Nat), s.hub.live = true → s.hub.cnt.cur = some (x, l) → l.contains st = true →
      (l.filter (· != st) ≠ [] →
        Yields (.sampleCaptureArrive st) s fun h0 t =>
          t = { s with hub := { h0 with cnt := { s.hub.cnt with cur := some (x, l.filter (· != st)), busy := s.hub.cnt.busy.filter (· != st) } } }) ∧
      (l.filter (· != st) = [] → s.hub.cnt.seals = [] → (∀ k ∈ s.hub.cnt.owners, (SMap.get ({} : Ring) s.hub.cnt.ring k).on = false) →
        Yields (.sampleCaptureArrive st) s fun h0 t =>
          t = { s with hub := { h0 with cnt := { s.hub.cnt with
            cur := none, recs := [], owners := [], busy := s.hub.cnt.busy.filter (· != st), seq := s.hub.cnt.count,
            count := (s.hub.cnt.count + 1) % 2 ^ 32 } } }) ∧
      (∀ k recs len, l.filter (· != st) = [] → s.hub.cnt.seals = [] → s.hub.cnt.owners = [k] → recs = s.hub.cnt.recs.filter (·.slice == k) →
          (∀ r ∈ recs, r.joined = 0) → len = 40 + 64 * recs.length → takesFrame s.hub k len →
        Yields (.sampleCaptureArrive st) s fun h0 t =>
          framed (SMap.get ({} : Ring) s.hub.cnt.ring k) len (sampleFiller s.hub k len)
            (frameHeader k 0 0 ((SMap.get ({} : Ring) s.hub.cnt.ring k).place len) x s.hub.cnt.count len recs.length (SMap.get 0 s.hub.cnt.skipped k) ++
              recs.flatMap URec.bytes) s.mem t.mem ∧
          ringMoved s.hub.cnt.ring t.hub.cnt.ring k len ∧
          (∀ j, SMap.get 0 t.hub.cnt.skipped j = if j = k then 0 else SMap.get 0 s.hub.cnt.skipped j) ∧
          t = { s with
            mem := t.mem,
            hub := { h0 with cnt := { s.hub.cnt with
              cur := none, recs := [], owners := [], busy := s.hub.cnt.busy.filter (· != st), seq := s.hub.cnt.count,
              count := (s.hub.cnt.count + 1) % 2 ^ 32, ring := t.hub.cnt.ring, skipped := t.hub.cnt.skipped } } })) ∧
   (∀ (s : State) (x : Seal) (q : List Seal), s.hub.live = true → s.hub.cnt.seals = x :: q →
      (takesFrame s.hub x.slice (sealLen x) →
        Yields (.sealFrameWrite x.slice) s fun h0 t =>
          framed (SMap.get ({} : Ring) s.hub.cnt.ring x.slice) (sealLen x) (sampleFiller s.hub x.slice (sealLen x))
            (sealBytes x ((SMap.get ({} : Ring) s.hub.cnt.ring x.slice).place (sealLen x))) s.mem t.mem ∧
          ringMoved s.hub.cnt.ring t.hub.cnt.ring x.slice (sealLen x) ∧
          t = { s with mem := t.mem, hub := { h0 with cnt := { s.hub.cnt with seals := q, ring := t.hub.cnt.ring } } }) ∧
      ((SMap.get ({} : Ring) s.hub.cnt.ring x.slice).on = false →
        Yields (.sealFrameWrite x.slice) s fun h0 t => t = { s with hub := { h0 with cnt := { s.hub.cnt with seals := q } } }) ∧
      (x.b + 4095 ≤ s.hub.now →
        Yields (.sealFrameTimeout x.slice) s fun h0 t =>
          1 ≤ t.hub.rcTotal (0x7101C + 0x20 * x.slice) 0 31 ∧
          (s.hub.er.sysq.length < 32 →
            t.hub.er.sysq = s.hub.er.sysq ++ [{ cls := 7, code := 0x0709, tick := s.hub.now, slice := x.slice, arg := x.b }]) ∧
          t = { s with hub := asideRecords { h0 with cnt := { s.hub.cnt with seals := q } } t.hub }))

/-- The records of entries `es` as an attribution frame carries them: `final` is bit 19 of the key in a final record (Table 07.6). -/
def Sys2Proof.attRecords (final : Nat) (es : List (Nat × AttEntry)) : List Byte :=
  es.flatMap fun e => attRecord (e.1 / 2 ^ 32 + final) (e.1 % 2 ^ 32) e.2.out 0

/-- Attribution (R241): an update flit adds its six fields to the entry of its context and tag; without an entry it takes a new one within the slice's
quota; without a free entry or quota it goes to the slice's bucket, whose overflow counts it, and the first such flit makes record 0x070A. Attribution
exports (R243, R244): an export is due again a period later; with nothing changed it writes nothing; the changed entries of one slice whose ring has
room stand in one frame of its ring and count as unchanged; a destroyed context with no entry is done with; its entries, where its slice's ring has
room, stand there in one frame as final records, and are freed. -/
def Obligations.Attribution : Prop :=
   (∀ (s : State) (c : Charge) (q : List Charge), s.hub.live = true → s.hub.cnt.flits = c :: q →
      ((SMap.get {} s.hub.cnt.att (attKey c.context c.tag)).bad = false →
          (SMap.get {} s.hub.cnt.att (attKey c.context c.tag) ≠ {} ∨ (s.hub.cnt.att.length < 262144 ∧ s.hub.attUsed c.slice < s.hub.attQuota c.slice)) →
        Yields .attributionUpdate s fun h0 t =>
          SMap.get {} t.hub.cnt.att (attKey c.context c.tag) = { SMap.get {} s.hub.cnt.att (attKey c.context c.tag) with
            slice := c.slice, f := (addFields (SMap.get {} s.hub.cnt.att (attKey c.context c.tag)).f c.f).map (· % 2 ^ 48), changed := true } ∧
          (∀ k, k ≠ attKey c.context c.tag → SMap.get {} t.hub.cnt.att k = SMap.get {} s.hub.cnt.att k) ∧
          t = { s with hub := { h0 with cnt := { s.hub.cnt with flits := q, att := t.hub.cnt.att } } }) ∧
      (((SMap.get {} s.hub.cnt.att (attKey c.context c.tag)).bad = true ∨ (SMap.get {} s.hub.cnt.att (attKey c.context c.tag) = {} ∧
          (262144 ≤ s.hub.cnt.att.length ∨ s.hub.attQuota c.slice ≤ s.hub.attUsed c.slice))) →
        Yields .attributionUpdate s fun h0 t =>
          SMap.get {} t.hub.cnt.bucket c.slice = { SMap.get {} s.hub.cnt.bucket c.slice with
            slice := c.slice, f := (addFields (SMap.get {} s.hub.cnt.bucket c.slice).f c.f).map (· % 2 ^ 48),
            overflow := satAdd (2 ^ 32 - 1) (SMap.get {} s.hub.cnt.bucket c.slice).overflow 1, changed := true } ∧
          (∀ k, k ≠ c.slice → SMap.get {} t.hub.cnt.bucket k = SMap.get {} s.hub.cnt.bucket k) ∧
          ((SMap.get {} s.hub.cnt.bucket c.slice).overflow ≠ 0 → t = { s with hub := { h0 with
            cnt := { s.hub.cnt with flits := q, bucket := t.hub.cnt.bucket } } }) ∧
          ((SMap.get {} s.hub.cnt.bucket c.slice).overflow = 0 → s.hub.er.sysq.length < 32 →
            t.hub.er.sysq = s.hub.er.sysq ++
              [{ cls := 7, code := 0x070A, tick := s.hub.now, slice := c.slice, arg := c.context + c.tag * 2 ^ 32 }]) ∧
          t = { s with hub := asideRecords { h0 with cnt := { s.hub.cnt with flits := q, bucket := t.hub.cnt.bucket } } t.hub })) ∧
   (∀ s : State, s.hub.live = true →
      (bit (s.hub.act 0x3E8 0x72000) 31 = true → s.hub.clk.started = true → s.hub.cnt.attNext ≤ s.hub.now → s.hub.cnt.att.any (·.2.changed) = false →
          (∀ k, (SMap.get {} s.hub.cnt.bucket k).changed = false) →
        Yields .attributionExportTick s fun h0 t =>
          (∀ k, SMap.get {} t.hub.cnt.bucket k = SMap.get {} s.hub.cnt.bucket k) ∧
          t = { s with hub := { h0 with cnt := { s.hub.cnt with
            attNext := s.hub.cnt.attNext + s.hub.act 0x3E8 0x72000 % 65536 * 1000000, bucket := t.hub.cnt.bucket } } }) ∧
      (∀ k es, bit (s.hub.act 0x3E8 0x72000) 31 = true → s.hub.clk.started = true → s.hub.cnt.attNext ≤ s.hub.now → k < 64 →
          es = s.hub.cnt.att.filter (·.2.changed) → es ≠ [] → es.length ≤ 4096 → (∀ e ∈ es, e.2.slice = k) →
          (∀ j, (SMap.get {} s.hub.cnt.bucket j).changed = false) → takesFrame s.hub k (40 + 48 * es.length) →
        Yields .attributionExportTick s fun h0 t =>
          framed (SMap.get ({} : Ring) s.hub.cnt.ring k) (40 + 48 * es.length) (sampleFiller s.hub k (40 + 48 * es.length))
            (frameHeader k 2 0 ((SMap.get ({} : Ring) s.hub.cnt.ring k).place (40 + 48 * es.length)) s.hub.now s.hub.cnt.seq (40 + 48 * es.length) es.length 0 ++
              attRecords 0 es) s.mem t.mem ∧
          ringMoved s.hub.cnt.ring t.hub.cnt.ring k (40 + 48 * es.length) ∧ (∀ j, SMap.get {} t.hub.cnt.bucket j = SMap.get {} s.hub.cnt.bucket j) ∧
          t = { s with
            mem := t.mem,
            hub := { h0 with cnt := { s.hub.cnt with
              attNext := s.hub.cnt.attNext + s.hub.act 0x3E8 0x72000 % 65536 * 1000000, bucket := t.hub.cnt.bucket, ring := t.hub.cnt.ring,
              att := s.hub.cnt.att.map fun e => (e.1, { e.2 with changed := false }) } } }) ∧
      (∀ c, (s.hub.getCtx c).finals = true → s.hub.cnt.att.any (fun e => e.1 / 2 ^ 32 == c) = false →
        Yields (.attributionFinalRecords c) s fun h0 t =>
          t.hub.getCtx c = Ctx.mark (s.hub.clk.cycle + 1) (s.hub.getCtx c) { s.hub.getCtx c with finals := false } ∧
          (∀ d, d ≠ c → t.hub.getCtx d = s.hub.getCtx d) ∧ t = { s with hub := { h0 with ctx := t.hub.ctx } }) ∧
      (∀ c k es, (s.hub.getCtx c).finals = true → k = (s.hub.getCtx c).slice → k < 64 → es = s.hub.cnt.att.filter (fun e => e.1 / 2 ^ 32 == c) →
          es ≠ [] → es.length ≤ 4096 → takesFrame s.hub k (40 + 48 * es.length) →
        Yields (.attributionFinalRecords c) s fun h0 t =>
          framed (SMap.get ({} : Ring) s.hub.cnt.ring k) (40 + 48 * es.length) (sampleFiller s.hub k (40 + 48 * es.length))
            (frameHeader k 2 0 ((SMap.get ({} : Ring) s.hub.cnt.ring k).place (40 + 48 * es.length)) s.hub.now s.hub.cnt.seq (40 + 48 * es.length) es.length 0 ++
              attRecords (2 ^ 19) es) s.mem t.mem ∧
          ringMoved s.hub.cnt.ring t.hub.cnt.ring k (40 + 48 * es.length) ∧
          t.hub.getCtx c = Ctx.mark (s.hub.clk.cycle + 1) (s.hub.getCtx c) { s.hub.getCtx c with finals := false } ∧
          (∀ d, d ≠ c → t.hub.getCtx d = s.hub.getCtx d) ∧
          t = { s with
            mem := t.mem,
            hub := { h0 with
              ctx := t.hub.ctx,
              cnt := { s.hub.cnt with ring := t.hub.cnt.ring, att := s.hub.cnt.att.filter fun e => e.1 / 2 ^ 32 != c } } }))

/-! ## Drain and trace (chapters 05 and 06) -/

/-- `h` with every part that the observation of an event may touch taken from `g`: the Perches, the trigger flits, RC fields, the report items and the
draws of free values. -/
def Sys2Proof.asideTrace (h g : Hub) : Hub :=
  { h with stn := g.stn, trc := { h.trc with flits := g.trc.flits }, rc := g.rc, free := g.free, items := g.items }

/-- A station without the parts that the observation of an event may touch. -/
def Sys2Proof.stnCore (t : Stn) : Stn := { t with src := [], inRange := [], holdoff := [], reportSeq := 0, ord := {}, peck := {} }

/-- A station whose unit at sub `k` has the stall conditions `w` from hub cycle `n` on (R293 to R295). -/
def Sys2Proof.stalledOn (t : Stn) (n k : Nat) (w : List Stall) : Stn :=
  { t with
    wait := SMap.set [] t.wait k w, waitCyc := SMap.set 0 t.waitCyc k (n + 1),
    waitOld := if SMap.get 0 t.waitCyc k = n + 1 then t.waitOld else SMap.set [] t.waitOld k (SMap.get [] t.wait k) }

/-- No station but `n` differs. -/
def Sys2Proof.onlyStation (n : Nat) (h g : Hub) : Prop := ∀ x, x ≠ n → g.getStn x = h.getStn x

/-- Length of a block that holds the items `l` of a slice: header, items and tag, padded to whole lines (R212). -/
def Sys2Proof.blockLen (slice : Nat) (l : List Held) : Nat := roundUp 64 (32 + (l.flatMap (·.bytes)).length + (if slice = 0 then 0 else 16))

/-- The block that closes over the items `l` at the front of region `q` of station `st`, `i` the first; the station's Peck is `p` (R212, R213). -/
def Sys2Proof.blockOf (st : Nat) (q : Nat × Bool) (p : Peck) (i : Held) (l : List Held) : Block :=
  { station := st, slice := i.slice, seq := p.blockSeq, len := blockLen i.slice l, packets := l.length, partition := if q.1 = 4 then 0 else q.1,
    rsv := q.1 == 4, flush := i.flush == 1, flushB := p.flushB,
    body := padTo (blockLen i.slice l - 32 - (if i.slice = 0 then 0 else 16)) (l.flatMap (·.bytes)), srcs := blockSrcs l }

/-- The drain of a Peck (R212, R213, R215, R217): a closed block asks for its reservation; a region in which nothing was stored for 4,096 ticks closes
its block, which takes the station's next block number and the packets that fit; a granted block is written where its grant placed it, header
included, and no other byte of memory changes; flush content that is still there 4,095 ticks after its boundary is discarded, with a LOSS marker of
reason 3 for its source. -/
def Obligations.PeckDrain : Prop :=
  ∀ (s : State) (st : Nat), s.hub.live = true →
    (∀ (a q : List Block) (b : Block), s.hub.drains st = true → (s.hub.getStn st).peck.blocks = a ++ b :: q → a.all (·.requested) = true → b.requested = false →
        ((a ++ b :: q).filter (·.requested)).length < 4 →
      Yields (.drainReserveRequest st) s fun h0 t =>
        t.hub.getStn st = { s.hub.getStn st with peck := { (s.hub.getStn st).peck with blocks := a ++ { b with requested := true } :: q } } ∧
        onlyStation st s.hub t.hub ∧
        t = { s with hub := { h0 with stn := t.hub.stn, trc := { s.hub.trc with queue := s.hub.trc.queue ++ [(st, b.seq)] } } }) ∧
    (∀ (q : Nat × Bool) (i : Held) (l : List Held), s.hub.drains st = true → (s.hub.getStn st).peck.stalled = [] →
        ((s.hub.drainOrder st).find? fun x => decide ((if x.1 = 4 then (s.hub.getStn st).peck.rsvStore
          else (SMap.get {} (s.hub.getStn st).peck.part x.1).lastStore) + 4096 ≤ s.hub.stnTick st)) = some q →
        s.hub.drainable st q = i :: l → (SMap.get ({} : Ring) s.hub.trc.ring i.slice).on = true →
      Yields (.drainBlockTimeout st) s fun h0 t =>
        t.hub.getStn st = { s.hub.getStn st with peck :=
          { (s.hub.getStn st).peck.takeItems q (frontBlock (i :: l)).length with
            blockSeq := (s.hub.getStn st).peck.blockSeq + 1,
            blocks := (s.hub.getStn st).peck.blocks ++ [blockOf st q (s.hub.getStn st).peck i (frontBlock (i :: l))] } } ∧
        onlyStation st s.hub t.hub ∧ t = { s with hub := { h0 with stn := t.hub.stn } }) ∧
    (∀ (a q : List Block) (b : Block), s.hub.nocUp = true → (s.hub.getStn st).peck.blocks = a ++ b :: q →
        (∀ x ∈ a, (x.granted && (x.slice == 0 || x.sealed_)) = false) → (b.granted && (b.slice == 0 || b.sealed_)) = true →
      Yields (.drainBlockWritten st) s fun h0 t =>
        t.hub.getStn st = { s.hub.getStn st with peck := { (s.hub.getStn st).peck with blocks := a ++ q } } ∧
        (∀ k, k < b.len → b.base + b.pos % b.size + k < hbmSize →
          SMap.get 0 t.mem.hbm (b.base + b.pos % b.size + k) = (b.header ++ b.body).getD k 0) ∧
        (∀ x, (x < b.base + b.pos % b.size ∨ b.base + b.pos % b.size + b.len ≤ x) → SMap.get 0 t.mem.hbm x = SMap.get 0 s.mem.hbm x) ∧
        onlyStation st s.hub t.hub ∧ t = { s with mem := { s.mem with hbm := t.mem.hbm }, hub := { h0 with stn := t.hub.stn } }) ∧
    (∀ (r k : Nat) (g f : List Pkt) (i : Pkt), (s.hub.getStn st).peck.stalled = [] → (s.hub.getStn st).peck.blocks = [] → (s.hub.getStn st).peck.rsv = [] →
        (s.hub.getStn st).peck.flushB + 4095 ≤ s.hub.stnTick st → r < 4 → k < 4 → (SMap.get {} (s.hub.getStn st).peck.part r).pkts = i :: f ++ g →
        (∀ x ∈ i :: f, x.flush = 1 ∧ x.src = k) → (∀ x ∈ g, x.flush ≠ 1) → (SMap.wf {} (s.hub.getStn st).peck.part = true) →
        (∀ y, y < 4 → y ≠ r → ∀ x ∈ (SMap.get ({} : Part) (s.hub.getStn st).peck.part y).pkts, x.flush ≠ 1) →
        (∀ y, 4 ≤ y → SMap.get {} (s.hub.getStn st).peck.part y = {}) →
      Yields (.rebindFlushExpiry st) s fun h0 t =>
        (∀ y, SMap.get {} (t.hub.getStn st).peck.part y =
          if y = r then { SMap.get {} (s.hub.getStn st).peck.part r with pkts := g } else SMap.get {} (s.hub.getStn st).peck.part y) ∧
        t.hub.getStn st = { s.hub.getStn st with peck := { (s.hub.getStn st).peck with
          part := (t.hub.getStn st).peck.part, rsvStore := s.hub.stnTick st,
          rsv := [{ loss := true, slice := i.slice, src := k, reason := 3, seq := i.seq, packets := f.length + 1,
                    words := (i :: f).foldl (fun n x => n + x.bytes.length / 4) 0, tick := s.hub.stnTick st }] } } ∧
        onlyStation st s.hub t.hub ∧ t = { s with hub := { h0 with stn := t.hub.stn } })

/-- Grants and seals (R213, R215, R216): a grant changes nothing but the drain's own records, interrupts and the rings, and no byte of the Firkin; the
one request that waits is granted its extent, past a filler block where it would cross the ring's end, and takes its tokens; a block for a disabled
ring is discarded and its packets counted; a granted block of a tenant is sealed once, under the key of its grant, its body longer by the 16-byte tag. -/
def Obligations.DrainGrants : Prop :=
  ∀ (s : State) (st n i : Nat) (b : Block), s.hub.live = true →
    (Yields .drainGrant s fun h0 t => t.mem.firkin = s.mem.firkin ∧
      t.hub = { h0 with
        rc := t.hub.rc, irq := t.hub.irq, cyc := t.hub.cyc, stn := t.hub.stn,
        trc := { s.hub.trc with queue := t.hub.trc.queue, ring := t.hub.trc.ring, tokens := t.hub.trc.tokens, flushTokens := t.hub.trc.flushTokens,
                                rr := t.hub.trc.rr } }) ∧
    (s.hub.nocUp = true → s.hub.trc.queue = [(st, n)] → s.hub.reqBlock (st, n) = some b → b.flush = false →
        (SMap.get ({} : Ring) s.hub.trc.ring b.slice).on = true → (SMap.get ({} : Ring) s.hub.trc.ring b.slice).fits b.len = true → b.len ≤ s.hub.trc.tokens →
      Yields .drainGrant s fun h0 t =>
        SMap.get ({} : Ring) t.hub.trc.ring b.slice =
          { SMap.get ({} : Ring) s.hub.trc.ring b.slice with
            wr := (SMap.get ({} : Ring) s.hub.trc.ring b.slice).place b.len + b.len, waiting := false } ∧
        (∀ k, k ≠ b.slice → SMap.get ({} : Ring) t.hub.trc.ring k = SMap.get ({} : Ring) s.hub.trc.ring k) ∧
        t.hub.getStn st = { s.hub.getStn st with peck := { (s.hub.getStn st).peck with blocks := (s.hub.getStn st).peck.blocks.map fun x =>
          if x.seq = b.seq then
            { x with
              granted := true, pos := (SMap.get ({} : Ring) s.hub.trc.ring b.slice).place b.len,
              base := (SMap.get ({} : Ring) s.hub.trc.ring b.slice).base, size := (SMap.get ({} : Ring) s.hub.trc.ring b.slice).size,
              key := (s.hub.getKeys b.slice).cur.trace }
          else x } } ∧
        onlyStation st s.hub t.hub ∧
        t.mem = s.mem.apply
          (if (SMap.get ({} : Ring) s.hub.trc.ring b.slice).place b.len = (SMap.get ({} : Ring) s.hub.trc.ring b.slice).wr then []
           else [⟨1, (SMap.get ({} : Ring) s.hub.trc.ring b.slice).base +
                    (SMap.get ({} : Ring) s.hub.trc.ring b.slice).wr % (SMap.get ({} : Ring) s.hub.trc.ring b.slice).size,
                  blockHeader 0x7FF b.slice 8 (SMap.get ({} : Ring) s.hub.trc.ring b.slice).wr 0
                    ((SMap.get ({} : Ring) s.hub.trc.ring b.slice).place b.len - (SMap.get ({} : Ring) s.hub.trc.ring b.slice).wr) 0 0⟩]) ∧
        t.hub = { h0 with
          stn := t.hub.stn,
          trc := { s.hub.trc with
            queue := [], ring := t.hub.trc.ring, tokens := s.hub.trc.tokens - b.len, rr := if b.rsv then s.hub.trc.rr else st } }) ∧
    (s.hub.nocUp = true → s.hub.trc.queue = [(st, n)] → s.hub.reqBlock (st, n) = some b → b.flush = false → 0 < b.packets →
        (SMap.get ({} : Ring) s.hub.trc.ring b.slice).on = false →
      Yields .drainGrant s fun h0 t =>
        t.hub.getStn st = { s.hub.getStn st with peck := { (s.hub.getStn st).peck with
          blocks := (s.hub.getStn st).peck.blocks.filter fun x => x.seq != b.seq } } ∧
        onlyStation st s.hub t.hub ∧ Nat.min 65535 b.packets ≤ t.hub.rcTotal 0x80014 0 0 ∧
        SMap.get ({} : Ring) t.hub.trc.ring b.slice = { SMap.get ({} : Ring) s.hub.trc.ring b.slice with waiting := false } ∧
        (∀ k, k ≠ b.slice → SMap.get ({} : Ring) t.hub.trc.ring k = SMap.get ({} : Ring) s.hub.trc.ring k) ∧
        t = { s with hub := { h0 with
          stn := t.hub.stn, rc := t.hub.rc, trc := { s.hub.trc with queue := [], ring := t.hub.trc.ring, rr := if b.rsv then s.hub.trc.rr else st } } }) ∧
    (∀ (x : Stn), s.hub.sealsDump = false → s.hub.stn.find? (fun y => y.2.peck.blocks.any fun b => b.granted && b.slice != 0 && !b.sealed_) = some (st, x) →
        s.hub.getStn st = x → firstIdx (fun b => b.granted && b.slice != 0 && !b.sealed_) x.peck.blocks = some i → x.peck.blocks.getD i default = b →
      Yields .blockSeal s fun h0 t =>
        t.hub.getStn st =
          { x with
            peck :=
              { x.peck with
                blocks := setAt x.peck.blocks i
                  { b with
                    sealed_ := true,
                    body := padTo (b.body.length + 16)
                      (Config.aesGcm (padTo 32 b.key) (leBytes 2 b.station ++ leBytes 8 b.seq ++ [0x54, 0x43]) b.header b.body) } } } ∧
        onlyStation st s.hub t.hub ∧ t = { s with hub := { h0 with stn := t.hub.stn } })

/-- A Perch on whose unit the event `e` makes one packet and nothing else: source 0 is ON and follows the event's feed and unit without selection, the
other sources are OFF, no condition and no match unit is set, the source's stream is running in the event's slice, and its stop-mode partition has
room. -/
def Sys2Proof.plainTrace (h : Hub) (e : Ev) : Prop :=
  h.unitRuns e.unit = true ∧ (h.getStn (unitStn e.unit)).tbOn = true ∧ bit (h.spol e.slice) e.feed = true ∧ modeOk (h.spol e.slice) e.mode = true ∧
  (h.getSrc (unitStn e.unit) 0).st = .on ∧ (∀ k, k = 1 ∨ k = 2 ∨ k = 3 → (h.getSrc (unitStn e.unit) k).st = .off) ∧
  h.srcFeed (unitStn e.unit) 0 = e.feed ∧ bit (h.srcMask (unitStn e.unit) 0) (unitSub e.unit) = true ∧ h.typePass (unitStn e.unit) 0 e = true ∧
  h.srcSel (unitStn e.unit) 0 = 0 ∧ bit (h.srcCfg (unitStn e.unit) 0) 28 = false ∧
  (∀ c, c < 4 → bit (h.pact (unitStn e.unit) 0x4 (0x4A0 + 4 * c)) 31 = false) ∧
  (∀ r, r < 2 → bit (h.pact (unitStn e.unit) 0 (0x460 + 32 * r)) 31 = false) ∧
  (h.getSrc (unitStn e.unit) 0).excl = none ∧ (h.getSrc (unitStn e.unit) 0).slice = e.slice + 1 ∧ (h.getSrc (unitStn e.unit) 0).lost = false ∧
  (h.getSrc (unitStn e.unit) 0).atoms = [] ∧ (h.getSrc (unitStn e.unit) 0).base ≤ h.stnTick (unitStn e.unit) ∧
  h.stnTick (unitStn e.unit) ≤ (h.getSrc (unitStn e.unit) 0).base + 65534 ∧ field (h.peckCfg (unitStn e.unit)) 23 20 = 0 ∧
  (h.getStn (unitStn e.unit)).peck.stalled = [] ∧ h.partRing (unitStn e.unit) (h.srcPart (unitStn e.unit) 0) = false ∧
  (SMap.get {} (h.getStn (unitStn e.unit)).peck.part (h.srcPart (unitStn e.unit) 0)).st = .run

/-- The bytes of the packet that `plainTrace` speaks of (Tables 06.1 and 06.3). -/
def Sys2Proof.plainBytes (h : Hub) (e : Ev) (p : Pk) : List Byte :=
  p.bytes (h.pkCtx (unitStn e.unit) 0) (h.getSrc (unitStn e.unit) 0) (unitSub e.unit) (h.stnTick (unitStn e.unit))
    (h.stnTick (unitStn e.unit) - (h.getSrc (unitStn e.unit) 0).base)

/-- The packet that `plainTrace` speaks of is stored: it is the last of its partition, with the source's number, the Perch's tick and the words of
Table 06.3; the source's number, predictors and time base move on; the source's open LOSS markers close (R139, R157, R199, R200, R208); `gr` is what
the Perch then counts. Nothing else of the Perch changes, and no other Perch. -/
def Sys2Proof.onePacket (h g : Hub) (e : Ev) (p : Pk) (gr : SMap Grain) : Prop :=
  g.getStn (unitStn e.unit) = { h.getStn (unitStn e.unit) with
    grain := gr,
    src := SMap.set {} (h.getStn (unitStn e.unit)).src 0
      { p.after (unitSub e.unit) (h.stnTick (unitStn e.unit)) (h.getSrc (unitStn e.unit) 0) with
        slice := e.slice + 1, lost := false, count := (h.getSrc (unitStn e.unit) 0).count + 1 },
    peck := { (h.getStn (unitStn e.unit)).peck with
      part := SMap.set {} (h.getStn (unitStn e.unit)).peck.part (h.srcPart (unitStn e.unit) 0)
        { SMap.get {} (h.getStn (unitStn e.unit)).peck.part (h.srcPart (unitStn e.unit) 0) with
          lastStore := h.stnTick (unitStn e.unit),
          pkts := (SMap.get {} (h.getStn (unitStn e.unit)).peck.part (h.srcPart (unitStn e.unit) 0)).pkts ++
            [{ slice := e.slice, src := 0, seq := (h.getSrc (unitStn e.unit) 0).seq, tick := h.stnTick (unitStn e.unit), bytes := plainBytes h e p }] },
      rsv := (h.getStn (unitStn e.unit)).peck.rsv.map fun r => if r.src = 0 then { r with open_ := false } else r } } ∧
  onlyStation (unitStn e.unit) h g

/-- The partition of source 0 takes a packet of the given bytes (R206, R207). -/
def Sys2Proof.hasRoom (h : Hub) (e : Ev) (p : Pk) : Prop :=
  (SMap.get {} (h.getStn (unitStn e.unit)).peck.part (h.srcPart (unitStn e.unit) 0)).accepts false (h.partCap (unitStn e.unit) (h.srcPart (unitStn e.unit) 0))
    (plainBytes h e p).length (field (h.srcCfg (unitStn e.unit) 0) 30 29) = true

/-- The counters of one sub of a station, `n` added to counter `k` of it (R225). -/
def Sys2Proof.counted (g : SMap Grain) (sub k n : Nat) : SMap Grain := SMap.upd {} g sub fun x => { x with inc := SMap.upd 0 x.inc k (· + n) }

/-- Traced operations (R157, R163, R199, R225): an operation that a memory channel serves, one that arrives at a tile's scratch SRAM and one that a
unit issues each touch their own Perch alone and what trace may touch. At a plainly traced unit each makes the packet of its feed and the channel
counts its request and bytes; an issuer that needs the response stalls on it. -/
def Obligations.TracedOperations : Prop :=
  ∀ (s : State) (u : Nat) (r : Rmo), s.hub.live = true →
    (Yields (.channelRequest u r) s fun h0 t => onlyStation (unitStn u) s.hub t.hub ∧ t = { s with hub := asideTrace h0 t.hub }) ∧
    (Yields (.rmoArrive u r) s fun h0 t => onlyStation (unitStn u) s.hub t.hub ∧ t = { s with hub := asideTrace h0 t.hub }) ∧
    (∀ e, (unitClass r.issuer = 3 → (s.hub.getGrain r.issuer).cmd = none) →
      Yields (.rmoIssue r e) s fun h0 t => onlyStation (unitStn r.issuer) s.hub t.hub ∧ t = { s with hub := asideTrace h0 t.hub }) ∧
    (r.op = .get → unitClass u = 4 → plainTrace s.hub (s.hub.rmoEv 6 u r (Nat.min 65535 r.waited)) →
        hasRoom s.hub (s.hub.rmoEv 6 u r (Nat.min 65535 r.waited)) (rmoPk r (Nat.min 65535 r.waited)) →
      Yields (.channelRequest u r) s fun h0 t =>
        onePacket s.hub t.hub (s.hub.rmoEv 6 u r (Nat.min 65535 r.waited)) (rmoPk r (Nat.min 65535 r.waited))
          (counted (counted (s.hub.getStn (unitStn u)).grain (unitSub u) 1 1) (unitSub u) 3 r.len) ∧
        t = { s with hub := { h0 with stn := t.hub.stn } }) ∧
    (r.op = .put → unitClass u = 4 → plainTrace s.hub (s.hub.rmoEv 6 u r (Nat.min 65535 r.waited)) →
        hasRoom s.hub (s.hub.rmoEv 6 u r (Nat.min 65535 r.waited)) (rmoPk r (Nat.min 65535 r.waited)) →
      Yields (.channelRequest u r) s fun h0 t =>
        onePacket s.hub t.hub (s.hub.rmoEv 6 u r (Nat.min 65535 r.waited)) (rmoPk r (Nat.min 65535 r.waited))
          (counted (counted (s.hub.getStn (unitStn u)).grain (unitSub u) 2 1) (unitSub u) 4 r.len) ∧
        t = { s with hub := { h0 with stn := t.hub.stn } }) ∧
    (isTileUnit u = true → plainTrace s.hub { s.hub.rmoEv 3 u r 0 with arr := some r.addr } →
        hasRoom s.hub { s.hub.rmoEv 3 u r 0 with arr := some r.addr } (rmoPk r 0) →
      Yields (.rmoArrive u r) s fun h0 t =>
        onePacket s.hub t.hub { s.hub.rmoEv 3 u r 0 with arr := some r.addr } (rmoPk r 0) (s.hub.getStn (unitStn u)).grain ∧
        t = { s with hub := { h0 with stn := t.hub.stn } }) ∧
    (r.issuer = u → isTileUnit u = true → unitClass u < 2 → plainTrace s.hub { s.hub.rmoEv 2 u r 0 with addr := some r.addr } →
        hasRoom s.hub { s.hub.rmoEv 2 u r 0 with addr := some r.addr } (rmoPk r 0) →
      Yields (.rmoIssue r none) s fun h0 t =>
        onePacket s.hub t.hub { s.hub.rmoEv 2 u r 0 with addr := some r.addr } (rmoPk r 0) (s.hub.getStn (unitStn u)).grain ∧
        t = { s with hub := { h0 with stn := t.hub.stn } }) ∧
    (∀ e, r.issuer = u → s.hub.unitRuns u = true → unitClass u < 2 → edgeAllowed u e = true → (∀ k, k < 4 → (s.hub.getSrc (unitStn u) k).st = .off) →
        (∀ c, c < 4 → bit (s.hub.pact (unitStn u) 0x4 (0x4A0 + 4 * c)) 31 = false) → (∀ k, k < 2 → bit (s.hub.pact (unitStn u) 0 (0x460 + 32 * k)) 31 = false) →
      Yields (.rmoIssue r (some e)) s fun h0 t =>
        t.hub.getStn (unitStn u) = stalledOn (s.hub.getStn (unitStn u)) s.hub.clk.cycle (unitSub u)
          (addStall ⟨e, r.context, (s.hub.getCtx r.context).slice, s.hub.stnTick (unitStn u)⟩ (SMap.get [] (s.hub.getStn (unitStn u)).wait (unitSub u))) ∧
        onlyStation (unitStn u) s.hub t.hub ∧ t = { s with hub := { h0 with stn := t.hub.stn } })

/-- Program flow (R157, R203, R225): an event of a core, and the flush of its atoms, touch its own Perch alone and what trace may touch. A branch of a
plainly traced core joins its atoms, and is counted if taken; 1,024 ticks after the first of them they leave as one packet. -/
def Obligations.ProgramFlow : Prop :=
  ∀ (s : State) (u : Nat), s.hub.live = true →
    (∀ (kind addr target : Nat) (taken : Bool) (mode after cause : Nat),
      Yields (.programFlowEvent u kind addr target taken mode after cause) s fun h0 t =>
        onlyStation (unitStn u) s.hub t.hub ∧ t = { s with hub := asideTrace h0 t.hub }) ∧
    (Yields (.atomsFlushTimeout u) s fun h0 t => onlyStation (unitStn u) s.hub t.hub ∧ t = { s with hub := asideTrace h0 t.hub }) ∧
    (∀ (addr target : Nat) (taken : Bool) (mode after cause : Nat), isScalar u = true →
        plainTrace s.hub { feed := 1, unit := u, slice := s.hub.unitSlice u, mode := mode, pc := some addr, atom := some taken } →
      Yields (.programFlowEvent u 0 addr target taken mode after cause) s fun h0 t =>
        t.hub.getStn (unitStn u) = { s.hub.getStn (unitStn u) with
          src := SMap.set {} (s.hub.getStn (unitStn u)).src 0 { s.hub.getSrc (unitStn u) 0 with
            atoms := [(unitSub u, { bits := [taken], first := s.hub.stnTick (unitStn u), last := s.hub.stnTick (unitStn u), slice := s.hub.unitSlice u })] },
          grain := if taken then counted (s.hub.getStn (unitStn u)).grain (unitSub u) 2 1 else (s.hub.getStn (unitStn u)).grain } ∧
        onlyStation (unitStn u) s.hub t.hub ∧ t = { s with hub := { h0 with stn := t.hub.stn } }) ∧
    (∀ (a : Atoms) (p : Part) (x : Src), isScalar u = true →
        (∀ k, k = 1 ∨ k = 2 ∨ k = 3 → (SMap.get {} (s.hub.getSrc (unitStn u) k).atoms (unitSub u)).bits = []) →
        s.hub.getSrc (unitStn u) 0 = x → x.atoms = [(unitSub u, a)] → a.bits ≠ [] → a.first + 1024 ≤ s.hub.stnTick (unitStn u) → x.excl = none →
        x.slice = a.slice + 1 → x.lost = false → a.last ≤ x.base + 65534 → field (s.hub.peckCfg (unitStn u)) 23 20 = 0 →
        (s.hub.getStn (unitStn u)).peck.stalled = [] → s.hub.partRing (unitStn u) (s.hub.srcPart (unitStn u) 0) = false →
        SMap.get {} (s.hub.getStn (unitStn u)).peck.part (s.hub.srcPart (unitStn u) 0) = p →
        p.st = .run → p.accepts false (s.hub.partCap (unitStn u) (s.hub.srcPart (unitStn u) 0)) ((Pk.atoms a.bits).bytes (s.hub.pkCtx (unitStn u) 0)
          x (unitSub u) a.last (a.last - x.base)).length (field (s.hub.srcCfg (unitStn u) 0) 30 29) = true →
      Yields (.atomsFlushTimeout u) s fun h0 t =>
        t.hub.getStn (unitStn u) = { s.hub.getStn (unitStn u) with
          src := SMap.set {} (s.hub.getStn (unitStn u)).src 0
            { x with seq := (x.seq + 1) % 2 ^ 32, base := a.last, slice := a.slice + 1, count := x.count + 1, atoms := [] },
          peck := { (s.hub.getStn (unitStn u)).peck with
            part := SMap.set {} (s.hub.getStn (unitStn u)).peck.part (s.hub.srcPart (unitStn u) 0) { p with
              lastStore := s.hub.stnTick (unitStn u),
              pkts := p.pkts ++ [{ slice := a.slice, src := 0, seq := x.seq, tick := a.last,
                                   bytes := (Pk.atoms a.bits).bytes (s.hub.pkCtx (unitStn u) 0) x (unitSub u) a.last (a.last - x.base) }] },
            rsv := (s.hub.getStn (unitStn u)).peck.rsv.map fun r => if r.src = 0 then { r with open_ := false } else r } } ∧
        onlyStation (unitStn u) s.hub t.hub ∧ t = { s with hub := { h0 with stn := t.hub.stn } })
/-! ## Contexts, fences and wait edges (chapters 01 and 09) -/

/-- Every context but `c` is as it was, and `c` is `y`, with a mark of what it was before the hub cycle (R289). -/
def Sys2Proof.onlyContext (c : Nat) (y : Ctx) (h g : Hub) : Prop :=
  g.getCtx c = Ctx.mark (h.clk.cycle + 1) (h.getCtx c) y ∧ ∀ d, d ≠ c → g.getCtx d = h.getCtx d

/-- The counters of unit `u` are `x`, those of every other unit are as they were, and beside trace nothing else of a station differs. -/
def Sys2Proof.onlyGrain (u : Nat) (x : Grain) (h g : Hub) : Prop :=
  g.getGrain u = x ∧ (∀ v, v ≠ u → g.getGrain v = h.getGrain v) ∧ ∀ y, { stnCore (g.getStn y) with grain := [] } = { stnCore (h.getStn y) with grain := [] }

/-- Fence `id` is `x`, every other fence is as it was. -/
def Sys2Proof.onlyFence (id : Nat) (x : Fence) (h g : Hub) : Prop := g.getFence id = x ∧ ∀ f, f ≠ id → g.getFence f = h.getFence f

/-- The commands of a context (Table 01.5, R33, R37, R287): a command is queued in an ACTIVE context of its unit's slice; the oldest one not started
starts at a unit that may take it and counts as progress; a completed one leaves the list, is answered, frees its unit, counts in Grain counter 6 and
as progress, and its signal goes to its fence, which is progress again. A command for a FREE or LOST context, or for no unit, is answered
ST_NOCONTEXT, ST_LOST or ST_NOUNIT and changes nothing. A fault of the command in progress (R37): the context is LOST, its queued commands are gone
and answered ST_LOST, those that run on are marked, and record 0x0301 names the unit, the code, the address and how many commands were discarded. -/
def Obligations.ContextCommands : Prop :=
   (∀ (s : State) (c : Nat), s.hub.live = true →
      (∀ (unit tag : Nat) (signal : Option FenceRef) (value mode : Nat),
        ((s.hub.getCtx c).st = .free → Yields (.commandSubmit c unit tag signal value mode) s fun h0 t =>
          t = { s with hub := { h0 with reply := s.hub.reply ++ [⟨unit, c, tag, stNocontext⟩] } }) ∧
        ((s.hub.getCtx c).st = .lost → Yields (.commandSubmit c unit tag signal value mode) s fun h0 t =>
          t = { s with hub := { h0 with reply := s.hub.reply ++ [⟨unit, c, tag, stLost⟩] } }) ∧
        ((s.hub.getCtx c).st = .active → unitOk unit = false → Yields (.commandSubmit c unit tag signal value mode) s fun h0 t =>
          t = { s with hub := { h0 with reply := s.hub.reply ++ [⟨unit, c, tag, stNounit⟩] } })) ∧
      (∀ (unit tag : Nat) (signal : Option FenceRef) (value mode : Nat), (s.hub.getCtx c).st = .active → unitOk unit = true → isTileUnit unit = true →
          s.hub.unitSlice unit = (s.hub.getCtx c).slice →
        Yields (.commandSubmit c unit tag signal value mode) s fun h0 t =>
          onlyContext c { s.hub.getCtx c with cmds := (s.hub.getCtx c).cmds ++
            [{ unit := unit, tag := tag, signal := signal, value := value, mode := mode, submitTick := s.hub.now, slice := (s.hub.getCtx c).slice }] } s.hub t.hub ∧
          onlyStation (unitStn unit) s.hub t.hub ∧ stnCore (t.hub.getStn (unitStn unit)) = stnCore (s.hub.getStn (unitStn unit)) ∧
          t = { s with hub := asideTrace { h0 with ctx := t.hub.ctx } t.hub }) ∧
      (∀ (a q : List Cmd) (x : Cmd), (s.hub.getCtx c).st = .active → (s.hub.getCtx c).cmds = a ++ x :: q → (∀ y ∈ a, y.started = true) → x.started = false →
          s.hub.mayStart x.unit = true → s.hub.unitSlice x.unit = (s.hub.getCtx c).slice →
        Yields (.commandStart c) s fun h0 t =>
          onlyContext c { s.hub.getCtx c with
            cmds := a ++ { x with started := true, startTick := s.hub.stnTick (unitStn x.unit) } :: q,
            progress := ((s.hub.getCtx c).progress + 1) % 2 ^ 32 } s.hub t.hub ∧
          onlyGrain x.unit { s.hub.getGrain x.unit with
            resetNow := (s.hub.getGrain x.unit).resetNow ||| s.hub.pact (unitStn x.unit) 0 0x20 % 256,
            startsNow := satAdd 65535 (s.hub.getGrain x.unit).startsNow 1, cmd := some (c, x.tag), retired := 0 } s.hub t.hub ∧
          onlyStation (unitStn x.unit) s.hub t.hub ∧ t = { s with hub := asideTrace { h0 with ctx := t.hub.ctx } t.hub }) ∧
      (∀ (a q : List Cmd) (x : Cmd) (status : Nat), (s.hub.getCtx c).cmds = a ++ x :: q → (∀ y ∈ a, (y.started && y.unit == x.unit && y.held.isEmpty) = false) →
          x.started = true → x.held = [] → x.gone = false → x.lost = false → s.hub.unitRuns x.unit = true → bit (s.hub.dmpSpol x.slice) 30 = false →
          (s.hub.getGate x.unit).st = .run →
        (x.signal = none →
          Yields (.commandComplete c x.unit status) s fun h0 t =>
            onlyContext c { s.hub.getCtx c with cmds := a ++ q, progress := ((s.hub.getCtx c).progress + 1) % 2 ^ 32 } s.hub t.hub ∧
            onlyGrain x.unit { s.hub.getGrain x.unit with
              cmd := none, retired := 0, inc := SMap.upd 0 (s.hub.getGrain x.unit).inc 6 (· + 1) } s.hub t.hub ∧
            t = { s with hub := asideTrace { h0 with ctx := t.hub.ctx, reply := s.hub.reply ++ [⟨x.unit, c, x.tag, status⟩] } t.hub }) ∧
        (∀ (ref : FenceRef), x.signal = some ref → ref.pkg = s.hub.pkg → s.hub.maySignal ref.id (some x.slice) = true →
            (s.hub.getFence ref.id).st ≠ .error → (s.hub.getFence ref.id).waiters = [] → (s.hub.getFence ref.id).cyc ≠ s.hub.clk.cycle + 1 →
            ahead64 x.value (s.hub.getFence ref.id).value = true →
          Yields (.commandComplete c x.unit status) s fun h0 t =>
            onlyContext c { s.hub.getCtx c with cmds := a ++ q, progress := (((s.hub.getCtx c).progress + 1) % 2 ^ 32 + 1) % 2 ^ 32 } s.hub t.hub ∧
            onlyGrain x.unit { s.hub.getGrain x.unit with
              cmd := none, retired := 0, inc := SMap.upd 0 (s.hub.getGrain x.unit).inc 6 (· + 1) } s.hub t.hub ∧
            onlyFence ref.id { s.hub.getFence ref.id with
              st := .signalled, value := x.value % 2 ^ 64, base := (s.hub.getFence ref.id).value, baseSt := (s.hub.getFence ref.id).st,
              cyc := s.hub.clk.cycle + 1 } s.hub t.hub ∧
            t = { s with hub := asideTrace { h0 with
              ctx := t.hub.ctx, fence := t.hub.fence, reply := s.hub.reply ++ [⟨x.unit, c, x.tag, status⟩] } t.hub }))) ∧
   (∀ (s : State) (c code addr : Nat) (a q : List Cmd) (x : Cmd), s.hub.live = true → (s.hub.getCtx c).st = .active →
      (s.hub.getCtx c).cmds = a ++ x :: q → (∀ y ∈ a, (y.started && y.unit == x.unit && y.held.isEmpty) = false) → x.started = true → x.held = [] →
      x.gone = false → x.signal = none → (∀ y ∈ a ++ q, y.started = false → y.signal = none) →
      s.hub.unitRuns x.unit = true → (∀ f ∈ s.hub.dmp.fires, f.context ≠ c) → s.hub.classOn 3 = true → s.hub.er.sysq.length < 32 →
      Yields (.commandFault c x.unit code addr) s fun h0 t =>
        onlyContext c { s.hub.getCtx c with
          st := .lost, lostFaults := 0, cmds := ((a ++ q).filter (·.started)).map fun y => { y with lost := y.lost || !y.gone } } s.hub t.hub ∧
        onlyGrain x.unit { s.hub.getGrain x.unit with cmd := none, retired := 0 } s.hub t.hub ∧
        t = { s with hub := asideTrace { h0 with
          ctx := t.hub.ctx, reply := s.hub.reply ++ ((a ++ q).filter fun y => !y.started).map fun y => ⟨y.unit, c, y.tag, stLost⟩,
          er := { s.hub.er with sysq := s.hub.er.sysq ++ [{ s.hub.evt 3 0x0301 with
            slice := x.slice, unit := x.unit, status := stLost, ctx := some c, aux := x.tag, arg := addr, tenant := addr != 0,
            words := [code, ((a ++ q).filter fun y => !y.started).length] }] } } t.hub })

/-- Signals of fences (R42, R45, R46, Table 01.9): a signal whose value is ahead of the fence's sets it and the fence is SIGNALLED, and it is progress
of the context it is made for; an error signal keeps the value and leaves the fence in ERROR; a fence in ERROR is re-armed by its owner alone,
UNSIGNALLED at 0; a signal that is not ahead changes no value and, as the first of its owner in the epoch, asks for record 0x0303 (R447). Waits on
fences (R43, R44, R47, R293): a wait that the fence satisfies completes at once with ST_OK; any other joins the fence's waiters, and its unit stalls
on a fence edge that names the fence and the value; a wait on a malformed ID or an index that is not allocated completes with ST_BADFENCE. -/
def Obligations.Fences : Prop :=
   (∀ (s : State) (unit ctx : Nat) (ref : FenceRef) (mode : Nat), s.hub.live = true → s.hub.boot.units = true → ref.pkg = s.hub.pkg →
      (s.hub.getFence ref.id).cyc ≠ s.hub.clk.cycle + 1 → (s.hub.getFence ref.id).waiters = [] →
      (∀ value, s.hub.unitRuns unit = true → s.hub.maySignal ref.id (some (s.hub.getCtx ctx).slice) = true → (s.hub.getFence ref.id).st ≠ .error →
          ahead64 value (s.hub.getFence ref.id).value = true →
        Yields (.fenceSignal unit ctx ref value mode) s fun h0 t =>
          onlyFence ref.id { s.hub.getFence ref.id with
            st := .signalled, value := value % 2 ^ 64, base := (s.hub.getFence ref.id).value, baseSt := (s.hub.getFence ref.id).st,
            cyc := s.hub.clk.cycle + 1 } s.hub t.hub ∧
          onlyContext ctx { s.hub.getCtx ctx with progress := ((s.hub.getCtx ctx).progress + 1) % 2 ^ 32 } s.hub t.hub ∧
          onlyGrain unit { s.hub.getGrain unit with
            retired := if (s.hub.getGrain unit).cmd.map Prod.fst = some ctx then 0 else (s.hub.getGrain unit).retired } s.hub t.hub ∧
          t = { s with hub := asideTrace { h0 with ctx := t.hub.ctx, fence := t.hub.fence } t.hub }) ∧
      (∀ value, unitOk unit = false → s.hub.maySignal ref.id none = true → (s.hub.getFence ref.id).st ≠ .error →
          ahead64 value (s.hub.getFence ref.id).value = true →
        Yields (.fenceSignal unit ctx ref value mode) s fun h0 t =>
          onlyFence ref.id { s.hub.getFence ref.id with
            st := .signalled, value := value % 2 ^ 64, base := (s.hub.getFence ref.id).value, baseSt := (s.hub.getFence ref.id).st,
            cyc := s.hub.clk.cycle + 1 } s.hub t.hub ∧
          t = { s with hub := { h0 with fence := t.hub.fence } }) ∧
      (∀ value, unitOk unit = false → s.hub.maySignal ref.id none = true → (s.hub.getFence ref.id).st = .signalled →
          ahead64 value (s.hub.getFence ref.id).value = false → value % 2 ^ 64 ≠ (s.hub.getFence ref.id).value →
          SMap.get 0 s.hub.slc.forder noUnit ≠ s.hub.clk.epoch + 1 → s.hub.classOn 3 = true → s.hub.er.sysq.length < 32 →
        Yields (.fenceSignal unit ctx ref value mode) s fun h0 t =>
          onlyFence ref.id { s.hub.getFence ref.id with
            base := (s.hub.getFence ref.id).value, baseSt := .signalled, cyc := s.hub.clk.cycle + 1 } s.hub t.hub ∧
          t = { s with hub := { h0 with
            fence := t.hub.fence, slc := { s.hub.slc with forder := SMap.set 0 s.hub.slc.forder noUnit (s.hub.clk.epoch + 1) },
            er := { s.hub.er with sysq := s.hub.er.sysq ++ [{ s.hub.evt 3 0x0303 with
              unit := noUnit, slice := (s.hub.fenceSlice ref.id).getD 0, arg := value,
              words := [ref.id + at_ s.hub.pkg 32, (s.hub.getFence ref.id).value] }] } } }) ∧
      (s.hub.unitRuns unit = true → s.hub.maySignal ref.id (some (s.hub.getCtx ctx).slice) = true → (s.hub.getFence ref.id).st ≠ .error →
        Yields (.fenceErrorSignal unit ctx ref mode) s fun h0 t =>
          onlyFence ref.id { s.hub.getFence ref.id with
            st := .error, base := (s.hub.getFence ref.id).value, baseSt := (s.hub.getFence ref.id).st, cyc := s.hub.clk.cycle + 1 } s.hub t.hub ∧
          (∀ y, stnCore (t.hub.getStn y) = stnCore (s.hub.getStn y)) ∧
          t = { s with hub := asideTrace { h0 with fence := t.hub.fence } t.hub }) ∧
      (fenceIdOk ref.id = true → fenceExported ref.id = false → fenceOwner ref.id = unit → s.hub.unitRuns unit = true → (s.hub.getFence ref.id).st = .error →
        Yields (.fenceRearm unit ref) s fun h0 t =>
          onlyFence ref.id { s.hub.getFence ref.id with st := .unsignalled, value := 0, base := 0, baseSt := .unsignalled, cyc := s.hub.clk.cycle + 1 } s.hub t.hub ∧
          t = { s with hub := { h0 with fence := t.hub.fence } })) ∧
   (∀ (s : State) (unit ctx : Nat) (ref : FenceRef) (value mode : Nat), s.hub.live = true → ref.pkg = s.hub.pkg → s.hub.unitRuns unit = true →
      (isTileUnit unit = true ∨ unitClass unit = 7) →
      (fenceIdOk ref.id = false ∨ s.hub.fenceSlice ref.id = none →
        Yields (.fenceWait unit ctx ref value mode) s fun h0 t =>
          onlyStation (unitStn unit) s.hub t.hub ∧ stnCore (t.hub.getStn (unitStn unit)) = stnCore (s.hub.getStn (unitStn unit)) ∧
          t = { s with hub := asideTrace { h0 with reply := s.hub.reply ++ [⟨unit, ctx, 0, stBadfence⟩] } t.hub }) ∧
      (fenceIdOk ref.id = true → (s.hub.fenceSlice ref.id).isSome = true → (fenceExported ref.id = true ∨ s.hub.fenceSlice ref.id = some (s.hub.getCtx ctx).slice) →
          (s.hub.getFence ref.id).st ≠ .error → (s.hub.getFence ref.id).satisfies (value % 2 ^ 64) = true →
          SMap.get [] (s.hub.getStn (unitStn unit)).wait (unitSub unit) = [] →
        Yields (.fenceWait unit ctx ref value mode) s fun h0 t =>
          onlyStation (unitStn unit) s.hub t.hub ∧ stnCore (t.hub.getStn (unitStn unit)) = stnCore (s.hub.getStn (unitStn unit)) ∧
          t = { s with hub := asideTrace { h0 with reply := s.hub.reply ++ [⟨unit, ctx, 0, stOk⟩] } t.hub }) ∧
      (fenceIdOk ref.id = true → (s.hub.fenceSlice ref.id).isSome = true → (fenceExported ref.id = true ∨ s.hub.fenceSlice ref.id = some (s.hub.getCtx ctx).slice) →
          (s.hub.getFence ref.id).st ≠ .error → (s.hub.getFence ref.id).satisfies (value % 2 ^ 64) = false →
        Yields (.fenceWait unit ctx ref value mode) s fun h0 t =>
          onlyFence ref.id { s.hub.getFence ref.id with waiters := (s.hub.getFence ref.id).waiters ++ [⟨unit, ctx, value % 2 ^ 64, mode⟩] } s.hub t.hub ∧
          onlyStation (unitStn unit) s.hub t.hub ∧
          stnCore (t.hub.getStn (unitStn unit)) = stnCore (stalledOn (s.hub.getStn (unitStn unit)) s.hub.clk.cycle (unitSub unit)
            (addStall ⟨⟨1, 0, ref.pkg, noUnit, ref.id, value % 2 ^ 64⟩, ctx, (s.hub.getCtx ctx).slice, s.hub.stnTick (unitStn unit)⟩
              (SMap.get [] (s.hub.getStn (unitStn unit)).wait (unitSub unit)))) ∧
          t = { s with hub := asideTrace { h0 with fence := t.hub.fence } t.hub }))

/-- Stalls and completions (R225, R240, R293, R294): a unit that stalls holds the condition in the order in which conditions began; a returned credit
and a completed operation end theirs; an operation that ends ST_OK charges its six fields to its context and tag in the Perch's cache, one of a DMA
engine that ends otherwise counts in its counter 5. -/
def Obligations.UnitStalls : Prop :=
  ∀ (s : State) (unit : Nat), s.hub.live = true → s.hub.unitRuns unit = true →
    (∀ (ctx : Nat) (e : Edge), edgeAllowed unit e = true →
      Yields (.unitStall unit ctx e) s fun h0 t =>
        t.hub.getStn (unitStn unit) = stalledOn (s.hub.getStn (unitStn unit)) s.hub.clk.cycle (unitSub unit)
          (addStall ⟨e, ctx, (s.hub.getCtx ctx).slice, s.hub.stnTick (unitStn unit)⟩ (SMap.get [] (s.hub.getStn (unitStn unit)).wait (unitSub unit))) ∧
        onlyStation (unitStn unit) s.hub t.hub ∧ t = { s with hub := { h0 with stn := t.hub.stn } }) ∧
    (∀ (a q : List Stall) (x : Stall), SMap.get [] (s.hub.getStn (unitStn unit)).wait (unitSub unit) = a ++ x :: q → (∀ y ∈ a, y.edge.kind ≠ 3) → x.edge.kind = 3 →
      Yields (.creditReturn unit none) s fun h0 t =>
        t.hub.getStn (unitStn unit) = stalledOn (s.hub.getStn (unitStn unit)) s.hub.clk.cycle (unitSub unit) (a ++ q) ∧
        onlyStation (unitStn unit) s.hub t.hub ∧ t = { s with hub := { h0 with stn := t.hub.stn } }) ∧
    (∀ (r : Rmo), r.issuer = unit → (isTileUnit unit = true ∨ unitClass unit = 7) → (r.op = .get ∨ r.op = .put ∨ r.op = .atomic) →
        SMap.get [] (s.hub.getStn (unitStn unit)).wait (unitSub unit) = [] →
        (∀ c ∈ (s.hub.getStn (unitStn unit)).cache, ¬ (c.context = r.context ∧ c.tag = r.tag)) → (s.hub.getStn (unitStn unit)).cache.length < 16 →
      Yields (.rmoComplete r stOk) s fun h0 t =>
        t.hub.getStn (unitStn unit) =
          { s.hub.getStn (unitStn unit) with
            cache := (s.hub.getStn (unitStn unit)).cache ++ [⟨unitStn unit, r.context, r.tag, (s.hub.getCtx r.context).slice, addFields [] (rmoCharge r)⟩] } ∧
        onlyStation (unitStn unit) s.hub t.hub ∧ t = { s with hub := { h0 with stn := t.hub.stn } }) ∧
    (∀ (r : Rmo) (a q : List Stall) (x : Stall) (status : Nat), r.issuer = unit → (r.op = .get ∨ r.op = .put ∨ r.op = .atomic) → status ≠ stOk →
        SMap.get [] (s.hub.getStn (unitStn unit)).wait (unitSub unit) = a ++ x :: q → (∀ y ∈ a, ¬ (y.edge.kind = 2 ∧ y.edge.arg = r.addr)) →
        x.edge.kind = 2 → x.edge.arg = r.addr →
      Yields (.rmoComplete r status) s fun h0 t =>
        t.hub.getStn (unitStn unit) = { stalledOn (s.hub.getStn (unitStn unit)) s.hub.clk.cycle (unitSub unit) (a ++ q) with
          grain := if unitClass unit = 3 then counted (s.hub.getStn (unitStn unit)).grain (unitSub unit) 5 1 else (s.hub.getStn (unitStn unit)).grain } ∧
        onlyStation (unitStn unit) s.hub t.hub ∧ t = { s with hub := { h0 with stn := t.hub.stn } })

/-! ## The trigger matrix (chapter 05) -/

/-- The matrix takes a trigger flit (R177 to R181): it is counted and shown as the last one; with the slice's policy and the matrix open, its matching
entries give their orders, their event record and their interrupt. An order that reaches its station waits for the end of the hub cycle (R169, R211):
then a start puts an armed source ON, and a hold puts every running partition in its post-trigger phase, or freezes it. -/
def Obligations.TriggerMatrix : Prop :=
  ∀ (s : State), s.hub.live = true →
    (∀ (g : Trig) (q : List Trig), s.hub.trc.flits = g :: q → (bit (s.hub.spol g.slice) 15 && bit (s.hub.act 0xA0000000 0x80000) 29) = false →
      Yields (.triggerMatrix 1) s fun h0 t =>
        t = { s with hub := { h0 with trc := { s.hub.trc with flits := q, last := some g }, rc := t.hub.rc } } ∧ 1 ≤ t.hub.rcTotal 0x80008 0 0) ∧
    (∀ (g : Trig) (q : List Trig), s.hub.trc.flits = g :: q → bit (s.hub.spol g.slice) 15 = true → bit (s.hub.act 0xA0000000 0x80000) 29 = true →
        (∀ k, k < 64 → s.hub.mxHit k g = true → bit (s.hub.mxAct k) 30 = false ∧ bit (s.hub.mxMatch k) 30 = false) → s.hub.classOn 1 = true → s.hub.er.fifo.length < 64 →
      Yields (.triggerMatrix 1) s fun h0 t =>
        1 ≤ t.hub.rcTotal 0x80008 0 0 ∧
        ((∃ k, k < 64 ∧ s.hub.mxHit k g = true ∧ bit (s.hub.mxAct k) 25 = true) → bit t.hub.irq.status 8 = true) ∧
        t = { s with hub := { h0 with
          trc := { s.hub.trc with
            flits := q, last := some g,
            orders := s.hub.trc.orders ++ ((List.range 64).filter fun k => s.hub.mxHit k g).foldl (fun l k => s.hub.entryOrders l k) [] },
          er := (if ((List.range 64).filter fun k => s.hub.mxHit k g).any fun k => bit (s.hub.mxAct k) 31 then
            { s.hub.er with fifo := s.hub.er.fifo ++ [s.hub.triggerReq g ((List.range 64).filter fun k => s.hub.mxHit k g)] } else s.hub.er),
          rc := t.hub.rc, irq := t.hub.irq, cyc := t.hub.cyc } }) ∧
    (∀ (o : Order) (q : List Order), s.hub.trc.orders = o :: q → s.hub.observed o.station = true → (∀ x ∈ q, x.station ≠ o.station) →
        (∀ r ∈ s.hub.cut.cuts, r.toArm.contains o.station = false) →
      Yields (.matrixOrder o.station) s fun h0 t =>
        t.hub.getStn o.station = { s.hub.getStn o.station with ord := { (s.hub.getStn o.station).ord with
          mstop := (s.hub.getStn o.station).ord.mstop ||| o.stop, mstart := (s.hub.getStn o.station).ord.mstart ||| o.start,
          hold := (s.hub.getStn o.station).ord.hold || o.hold } } ∧
        onlyStation o.station s.hub t.hub ∧ t = { s with hub := { h0 with stn := t.hub.stn, trc := { s.hub.trc with orders := q } } }) ∧
    (∀ (st p : Nat), (s.hub.getStn st).ord = { hold := true } → (s.hub.getStn st).peck.stalled = [] → p < 4 →
      SMap.get {} ((s.hub.settleStn st).getStn st).peck.part p =
        (if (SMap.get {} (s.hub.getStn st).peck.part p).st = .run then
          if 96 ≤ field (s.hub.peckCfg st) 31 24 * 256 then
            { SMap.get {} (s.hub.getStn st).peck.part p with
              st := .post, budget := field (s.hub.peckCfg st) 31 24 * 256, budget0 := field (s.hub.peckCfg st) 31 24 * 256 }
          else { SMap.get {} (s.hub.getStn st).peck.part p with st := .frozen }
        else SMap.get {} (s.hub.getStn st).peck.part p) ∧
      onlyStation st s.hub (s.hub.settleStn st) ∧ s.hub.settleStn st = { s.hub with stn := (s.hub.settleStn st).stn }) ∧
    (∀ (st : Nat), (s.hub.getStn st).ord = { mstart := 1 } → (s.hub.getSrc st 0).st = .armed →
      ((s.hub.settleStn st).getSrc st 0).st = .on ∧ (∀ k, k = 1 ∨ k = 2 ∨ k = 3 → (s.hub.settleStn st).getSrc st k = s.hub.getSrc st k) ∧
      onlyStation st s.hub (s.hub.settleStn st) ∧ s.hub.settleStn st = asideTrace s.hub (s.hub.settleStn st))
/-! ## Cuts (chapter 08) -/

/-- What a capture store takes of message `r` at station `st` (Table 08.4): flags `fl`, ports `ports`, MSN `msn`. -/
def Sys2Proof.captured (h : Hub) (st : Nat) (r : Rmo) (fl ports msn : Nat) : Capture :=
  { kind := captureKind r, flags := fl, ports := ports, tick := h.stnTick st,
    addr := (match r.op with | .fenceSignal | .fenceWait => addrPkg r.addr * 2 ^ 32 + addrOff r.addr % 2 ^ 32 | _ => r.addr),
    tag := r.tag, unit := r.issuer, msn := msn, shape := (r.len - 1) % 4096 + at_ (r.level % 4) 12 + at_ (r.mode % 4) 14, context := r.context,
    slice := (h.getCtx r.context).slice, value := (match r.op with | .get | .put => 0 | _ => r.value), data := r.data }

/-- A message that carries all its data. -/
def Sys2Proof.whole (r : Rmo) : Prop := ((r.op == .put && !r.resp || r.op == .get && r.resp) && decide (r.data.length < r.len)) = false

/-- Messages that pass a link or a router (R142, R143, R157, R225, R261, R262): where a cut captures their slice, the capture store takes them whole
while it has room, and else overflows and they stay in the buffer; a message that is not captured makes its packet and is counted, one sent takes the
link's next MSN, and each is stamped. -/
def Obligations.MessagesInFlight : Prop :=
  ∀ (s : State) (u : Nat) (r : Rmo) (len : Nat), s.hub.live = true → unitOk u = true → s.hub.boot.units = true → s.hub.asleep u = false →
    (∀ (c : CutRec), unitClass u = 6 → s.hub.captures (unitStn u) (s.hub.getCtx r.context).slice = some c → whole r →
        (s.hub.getStn (unitStn u)).cap.entries.length < 1024 → (s.hub.getStn (unitStn u)).cap.used + (48 + roundUp 8 r.data.length) ≤ 262144 →
        s.hub.stnTick (unitStn u) ≤ c.t + 64 →
      Yields (.routeMessage u r len) s fun h0 t =>
        t.hub.getStn (unitStn u) = { s.hub.getStn (unitStn u) with cap := { (s.hub.getStn (unitStn u)).cap with
          entries := (s.hub.getStn (unitStn u)).cap.entries ++ [captured s.hub (unitStn u) r 0 (r.inPort % 16 + at_ (r.outPort % 16) 4) 0] } } ∧
        onlyStation (unitStn u) s.hub t.hub ∧ t = { s with hub := { h0 with stn := t.hub.stn } }) ∧
    (∀ (c : CutRec), unitClass u = 6 → s.hub.captures (unitStn u) (s.hub.getCtx r.context).slice = some c → whole r →
        (1024 ≤ (s.hub.getStn (unitStn u)).cap.entries.length ∨ 262144 < (s.hub.getStn (unitStn u)).cap.used + (48 + roundUp 8 r.data.length)) →
      Yields (.routeMessage u r len) s fun h0 t =>
        t.hub.getStn (unitStn u) = { s.hub.getStn (unitStn u) with cap := { (s.hub.getStn (unitStn u)).cap with
          overflow := true,
          held := (s.hub.getStn (unitStn u)).cap.held ++
            [captured s.hub (unitStn u) r (b2n (decide (c.t + 64 < s.hub.stnTick (unitStn u)))) (r.inPort % 16 + at_ (r.outPort % 16) 4) 0] } } ∧
        onlyStation (unitStn u) s.hub t.hub ∧ t = { s with hub := { h0 with stn := t.hub.stn } }) ∧
    (unitClass u = 6 → s.hub.captures (unitStn u) (s.hub.getCtx r.context).slice = none →
        plainTrace s.hub (s.hub.rmoEv 8 u r (r.inPort % 16 + at_ (r.outPort % 16) 4)) →
        hasRoom s.hub (s.hub.rmoEv 8 u r (r.inPort % 16 + at_ (r.outPort % 16) 4)) (rmoPk r (r.inPort % 16 + at_ (r.outPort % 16) 4)) →
      Yields (.routeMessage u r len) s fun h0 t =>
        onePacket s.hub t.hub (s.hub.rmoEv 8 u r (r.inPort % 16 + at_ (r.outPort % 16) 4)) (rmoPk r (r.inPort % 16 + at_ (r.outPort % 16) 4))
          (counted (counted (s.hub.getStn (unitStn u)).grain (unitSub u) 5 1) (unitSub u) 2 r.data.length) ∧
        t = { s with hub := { h0 with stn := t.hub.stn } }) ∧
    (∀ msn, unitClass u = 5 → (s.hub.getStn (unitStn u)).mark.trained = true → s.hub.captures (unitStn u) (s.hub.getCtx r.context).slice = none →
        plainTrace s.hub { s.hub.rmoEv 7 u r 0 with data := [] } →
        hasRoom s.hub { s.hub.rmoEv 7 u r 0 with data := [] }
          (.link 0 r.op.code r.mode (s.hub.getStn (unitStn u)).mark.peerPkg (s.hub.getStn (unitStn u)).mark.msnOut len r.context r.tag) →
      Yields (.linkMessage u true r msn len) s fun h0 t =>
        onePacket (s.hub.stampSent (unitStn u)) t.hub { s.hub.rmoEv 7 u r 0 with data := [] }
          (.link 0 r.op.code r.mode (s.hub.getStn (unitStn u)).mark.peerPkg (s.hub.getStn (unitStn u)).mark.msnOut len r.context r.tag)
          (counted (counted (s.hub.getStn (unitStn u)).grain (unitSub u) 1 1) (unitSub u) 3 r.data.length) ∧
        t = { s with hub := { h0.stampSent (unitStn u) with stn := t.hub.stn } }) ∧
    (∀ msn, unitClass u = 5 → (s.hub.getStn (unitStn u)).mark.trained = true → s.hub.captures (unitStn u) (s.hub.getCtx r.context).slice = none →
        plainTrace s.hub { s.hub.rmoEv 7 u r 0 with data := [] } →
        hasRoom s.hub { s.hub.rmoEv 7 u r 0 with data := [] }
          (.link 1 r.op.code r.mode (s.hub.getStn (unitStn u)).mark.peerPkg (msn % 65536) len r.context r.tag) →
      Yields (.linkMessage u false r msn len) s fun h0 t =>
        onePacket (s.hub.stampReceived (unitStn u) (msn % 65536)) t.hub { s.hub.rmoEv 7 u r 0 with data := [] }
          (.link 1 r.op.code r.mode (s.hub.getStn (unitStn u)).mark.peerPkg (msn % 65536) len r.context r.tag)
          (counted (counted (s.hub.getStn (unitStn u)).grain (unitSub u) 2 1) (unitSub u) 4 r.data.length) ∧
        t = { s with hub := { h0.stampReceived (unitStn u) (msn % 65536) with stn := t.hub.stn } })

/-- A gate that cut `id` freezes at tick `t`: a unit that sleeps or is blocked stops at once, any other when it meets its stop condition (R260). -/
def Sys2Proof.frozenGate (h : Hub) (u id t : Nat) : Gate :=
  { h.getGate u with
    st := if h.asleep u || h.blocked u then .stopped else .stopping, cut := id, t := t, cmds := false, left := 0,
    result := if h.asleep u then 4 else if h.blocked u then 1 else 0 }

/-- A cut from its schedule to its tick (R257, R259, R260): the schedule flit arms the running units of the cut's scope at its station, and the
capture or hold of a router, link or shared-engine Perch; at tick T the units of the scope that run, at every observed station that has armed, stop:
at once where they sleep or are blocked, else when they meet their stop condition. The slices of the units at T are kept for the dump. -/
def Obligations.CutSchedules : Prop :=
  ∀ (s : State) (r : CutRec), s.hub.live = true →
    (∀ st, s.hub.cut.cuts.find? (fun r => r.toArm.contains st) = some r → r.holding = false → (∀ c ∈ s.hub.cut.cuts, c.toArm.contains st = true → c = r) →
        (∀ o ∈ s.hub.trc.orders, o.station ≠ st) →
      Yields (.cutScheduleFlit st) s fun h0 t =>
        (∀ u, u ∈ stnUnits st → t.hub.getGate u =
          if s.hub.inScope r u = true ∧ (s.hub.getGate u).st = .run then { st := .armed, cut := r.id, t := r.t } else s.hub.getGate u) ∧
        t.hub.getStn st = { s.hub.getStn st with
          gate := (t.hub.getStn st).gate,
          cap := if arms st then { (s.hub.getStn st).cap with
            armed := (s.hub.getStn st).cap.armed ++ [r.id],
            overflow := if (s.hub.getStn st).cap.armed.isEmpty then false else (s.hub.getStn st).cap.overflow } else (s.hub.getStn st).cap } ∧
        onlyStation st s.hub t.hub ∧
        t = { s with hub := { h0 with
          stn := t.hub.stn,
          cut := { s.hub.cut with cuts := s.hub.cut.cuts.map fun c => if c.id = r.id then { c with toArm := c.toArm.filter (· != st) } else c } } }) ∧
    (s.hub.cut.cuts.find? (fun r => r.st == .scheduled && decide (r.t ≤ s.hub.now)) = some r →
      Yields .cutTickT s fun h0 t =>
        (∀ u, t.hub.getGate u =
          if unitOk u = true ∧ r.bypassed.contains (unitStn u) = false ∧ r.toArm.contains (unitStn u) = false ∧
              (s.hub.scopeMask r (unitStn u) ≠ 0 ∨ capturing (unitStn u) = true) then
            if s.hub.inScope r u = true ∧ ((s.hub.getGate u).st = .run ∨ (s.hub.getGate u).st = .armed ∧ (s.hub.getGate u).cut = r.id) then
              frozenGate s.hub u r.id r.t
            else if (s.hub.getGate u).st = .armed ∧ (s.hub.getGate u).cut = r.id then {}
            else s.hub.getGate u
          else s.hub.getGate u) ∧
        (∀ x, { t.hub.getStn x with gate := [], gateTick := 0 } = { s.hub.getStn x with gate := [], gateTick := 0 }) ∧
        t = { s with hub := { h0 with
          stn := t.hub.stn,
          cut := { s.hub.cut with cuts := s.hub.cut.cuts.map fun c => if c.id = r.id then
            { c with
              st := .stopping,
              toReport := (allStations.filter fun x => !r.bypassed.contains x).filterMap fun x =>
                if s.hub.scopeMask r x ≠ 0 ∨ capturing x = true then some (x, s.hub.scopeMask r x) else none,
              unobserved := r.bypassed.foldl (fun a x => a + popcount8 (s.hub.scopeMask r x)) 0,
              unitMap := s.hub.slc.unit, pasids := s.hub.slc.e.map fun e => (e.1, e.2.pasid) } else c } } })

/-- A cut that is complete (Table 08.5): `n` units have not reported, its status is `st`. -/
def Sys2Proof.cutDone (r : CutRec) (n st now : Nat) : CutRec :=
  { r with st := .stopped, unreported := n, status := st, done := now, toReport := [], missing := r.toReport, up := [] }

/-- Cut `r` of `h` completes as `r'` (Table 08.5): results, the record 0x0502, vector 4, and the status of the masters that asked for it; `g` is the
hub then. -/
def Sys2Proof.cutCompleted (h g : Hub) (r r' : CutRec) : Prop :=
  g.cut = { h.cut with
    cuts := h.cut.cuts.map (fun c => if c.id = r.id then r' else c), m := g.cut.m,
    clean := r'.clean, forced := r'.forced, unobserved := r'.unobserved, unreported := r'.unreported, overflow := r'.overflow, excl := r'.excl, done := h.now,
    reported := h.cut.reported + b2n (h.cut.counting && h.cut.xid == r.id) } ∧
  (∀ m : Master, SMap.get {} g.cut.m m.idx =
    if r.masters.contains m = true ∧ (SMap.get {} h.cut.m m.idx).cut = r.id then { SMap.get {} h.cut.m m.idx with status := r'.status }
    else SMap.get {} h.cut.m m.idx) ∧
  bit g.irq.status 4 = true ∧
  g.er = { h.er with sysq := h.er.sysq ++ [{ h.evt 5 0x0502 with
    slice := if r.die then 255 else r.slice, status := r'.status, arg := r.id, words := [r'.result0, r'.result1, r.excl, h.now] }] }

/-- How units and stations finish with a cut (R260, R264, R265): a stopping unit stops clean before T + 3,800 ticks, or is forced then; the report of
an observed station that has finished counts its units and says how each stopped; with the last report, or with the reports still missing at T +
4,000, the cut is stopped, its results stand, record 0x0502 is asked for and vector 4 is raised. -/
def Obligations.CutCompletion : Prop :=
  ∀ (s : State), s.hub.live = true →
    (∀ u, unitOk u = true → (s.hub.getGate u).st = .stopping → s.hub.stnTick (unitStn u) < (s.hub.getGate u).t + s.hub.forceAfter →
        (∀ c, s.hub.cut.byId (s.hub.getGate u).cut = some c → c.st ≠ .stepping) →
      Yields (.unitStopClean u) s fun h0 t =>
        t.hub.getGate u = { s.hub.getGate u with st := .stopped, result := 1 } ∧ (∀ v, v ≠ u → t.hub.getGate v = s.hub.getGate v) ∧
        (∀ x, { t.hub.getStn x with gate := [] } = { s.hub.getStn x with gate := [] }) ∧ t = { s with hub := { h0 with stn := t.hub.stn } }) ∧
    (∀ st, (∀ c ∈ s.hub.cut.cuts, c.st ≠ .stepping) →
      Yields (.cutForcedStop st) s fun h0 t =>
        (∀ u, u ∈ stnUnits st → t.hub.getGate u =
          if (s.hub.getGate u).st = .stopping ∧ (s.hub.getGate u).t + s.hub.forceAfter ≤ s.hub.stnTick st then
            { s.hub.getGate u with st := .forced, result := 2 } else s.hub.getGate u) ∧
        onlyStation st s.hub t.hub ∧
        (∀ x, { t.hub.getStn x with gate := [] } = { s.hub.getStn x with gate := [] }) ∧ t = { s with hub := { h0 with stn := t.hub.stn } }) ∧
    (∀ (st : Nat) (r : CutRec) (mask : Nat) (a q : List (Nat × Nat)),
        s.hub.cut.cuts.find? (fun r => r.st == .stopping && s.hub.observed st && r.toReport.any fun x => x.1 == st && s.hub.cutFinished r st x.2) = some r →
        r.toReport = a ++ (st, mask) :: q → (∀ x ∈ a ++ q, x.1 ≠ st) → a ++ q ≠ [] → capturing st = false →
      Yields (.cutReport st) s fun h0 t =>
        t.hub.getStn st = { s.hub.getStn st with reportSeq := ((s.hub.getStn st).reportSeq + 1) % 2 ^ 32 } ∧ onlyStation st s.hub t.hub ∧
        t = { s with hub := { h0 with
          stn := t.hub.stn,
          items := s.hub.items ++ [⟨st * 8 + 4, (s.hub.getStn st).reportSeq, s.hub.stnTick st, .cutReport,
            [r.id, ((stnUnits st).filter fun u => bit mask (unitSub u)).foldl
              (fun n u => n + at_ (if (s.hub.getGate u).cut = r.id then (s.hub.getGate u).result else 3) (3 * unitSub u)) 0]⟩],
          cut := { s.hub.cut with cuts := s.hub.cut.cuts.map fun c => if c.id = r.id then
            { c with
              toReport := a ++ q,
              forced := c.forced +
                (((stnUnits st).filter fun u => bit mask (unitSub u)).filter fun u => (s.hub.getGate u).st == .forced && (s.hub.getGate u).cut == r.id).length,
              clean := c.clean + (((stnUnits st).filter fun u => bit mask (unitSub u)).length -
                (((stnUnits st).filter fun u => bit mask (unitSub u)).filter fun u => (s.hub.getGate u).st == .forced && (s.hub.getGate u).cut == r.id).length) }
            else c } } }) ∧
    (∀ (r : CutRec), s.hub.cut.cuts.find? (fun r => r.st == .stopping && decide (r.t + s.hub.reportAfter ≤ s.hub.now)) = some r → s.hub.cut.byId r.id = some r →
        r.up = [] → 0 < r.toReport.foldl (fun a x => a + popcount8 x.2) 0 →
        (∀ x ∈ s.hub.stn, (capturing x.1 && x.2.cap.overflow && x.2.cap.armed.contains r.id) = false) → s.hub.classOn 5 = true → s.hub.er.sysq.length < 32 →
      Yields .cutReportTimeout s fun h0 t =>
        cutCompleted s.hub t.hub r (cutDone r (r.toReport.foldl (fun a x => a + popcount8 x.2) 0) stPartial s.hub.now) ∧
        t = { s with hub := { h0 with cut := t.hub.cut, er := t.hub.er, irq := t.hub.irq, cyc := t.hub.cyc } }) ∧
    (∀ (st : Nat) (r : CutRec) (mask : Nat),
        s.hub.cut.cuts.find? (fun r => r.st == .stopping && s.hub.observed st && r.toReport.any fun x => x.1 == st && s.hub.cutFinished r st x.2) = some r →
        s.hub.cut.byId r.id = some r → r.toReport = [(st, mask)] → capturing st = false → r.up = [] → r.forced = 0 → r.unobserved = 0 → r.excl = 0 → r.overflow = false →
        (∀ x ∈ s.hub.stn, (capturing x.1 && x.2.cap.overflow && x.2.cap.armed.contains r.id) = false) →
        (∀ u ∈ stnUnits st, (s.hub.getGate u).st ≠ .forced) → s.hub.classOn 5 = true → s.hub.er.sysq.length < 32 →
      Yields (.cutReport st) s fun h0 t =>
        cutCompleted s.hub t.hub r
          (cutDone { r with toReport := [], clean := r.clean + ((stnUnits st).filter fun u => bit mask (unitSub u)).length } 0 stOk s.hub.now) ∧
        t.hub.getStn st = { s.hub.getStn st with reportSeq := ((s.hub.getStn st).reportSeq + 1) % 2 ^ 32 } ∧ onlyStation st s.hub t.hub ∧
        t = { s with hub := { h0 with
          stn := t.hub.stn, cut := t.hub.cut, er := t.hub.er, irq := t.hub.irq, cyc := t.hub.cyc,
          items := s.hub.items ++ [⟨st * 8 + 4, (s.hub.getStn st).reportSeq, s.hub.stnTick st, .cutReport,
            [r.id, ((stnUnits st).filter fun u => bit mask (unitSub u)).foldl
              (fun n u => n + at_ (if (s.hub.getGate u).cut = r.id then (s.hub.getGate u).result else 3) (3 * unitSub u)) 0]⟩] } })

/-- Resume and steps of the one cut there is (R266, R269): at the resume tick its captured messages leave the stores and are injected again in capture
order, its gates open and the cut is gone; a single step opens the gate of its unit, in cycle mode the unit freezes again when it has run its cycles,
and at the step's timeout the units that still run are stopped with ST_TIMEOUT and record 0x0503. -/
def Obligations.ResumesAndSteps : Prop :=
  ∀ (s : State) (r : CutRec), s.hub.live = true → s.hub.cut.cuts = [r] → (∀ u, (s.hub.getGate u).port = none) →
    (r.st = .resuming → r.u ≤ s.hub.now → (∀ x, (s.hub.getStn x).thaw = []) →
      Yields .cutResumeTick s fun h0 t =>
        (∀ u, unitOk u = true → (s.hub.getGate u).st ≠ .run → (s.hub.getGate u).cut = r.id → t.hub.getGate u = {}) ∧
        (∀ u, t.hub.getGate u = s.hub.getGate u ∨ t.hub.getGate u = {}) ∧
        (∀ x, (t.hub.getStn x).cap = if arms x then
          { (s.hub.getStn x).cap with
            entries := (s.hub.getStn x).cap.entries.filter fun e => !(r.full || r.set.contains e.slice),
            held := (s.hub.getStn x).cap.held.filter fun e => !(r.full || r.set.contains e.slice),
            armed := (s.hub.getStn x).cap.armed.filter (· != r.id) } else (s.hub.getStn x).cap) ∧
        (∀ x, { t.hub.getStn x with gate := [], cap := {} } = { s.hub.getStn x with gate := [], cap := {} }) ∧
        t = { s with hub := { h0 with
          stn := t.hub.stn, cut := { s.hub.cut with cuts := [] },
          inject := s.hub.inject ++ s.hub.stn.flatMap fun x =>
            ((x.2.cap.entries ++ x.2.cap.held).filter fun e => r.full || r.set.contains e.slice).map fun e => ⟨x.1, e.unit, 0, e⟩ } }) ∧
    (r.st = .stepping → r.timeout = 0 → r.u ≤ s.hub.now → r.single = true → r.mode = false → s.hub.stepUnits r = [r.stepUnit] → r.steps ≠ 0 →
        unitOk r.stepUnit = true → (s.hub.getStn (unitStn r.stepUnit)).thaw = [] →
      Yields .stepStart s fun h0 t =>
        t.hub.getGate r.stepUnit = { s.hub.getGate r.stepUnit with st := .step, cut := r.id, cmds := false, left := r.n } ∧
        (∀ v, v ≠ r.stepUnit → t.hub.getGate v = s.hub.getGate v) ∧ (∀ x, { t.hub.getStn x with gate := [] } = { s.hub.getStn x with gate := [] }) ∧
        t = { s with hub := { h0 with
          stn := t.hub.stn,
          cut := { s.hub.cut with
            cuts := [{ r with stepEnd := r.u + (r.n + 1) / 2, timeout := r.u + Nat.max 1 (s.hub.rwGet 1000 0x30048 0) * 1000 }] } } }) ∧
    (∀ u, unitOk u = true → isTileUnit u = true → (s.hub.getGate u).st = .step → (s.hub.getGate u).cut = r.id → r.mode = false → s.hub.asleep u = false →
        s.hub.blocked u = false →
      Yields (.stepEnd u) s fun h0 t =>
        t.hub.getGate u = frozenGate s.hub u r.id (s.hub.stnTick (unitStn u)) ∧ (∀ v, v ≠ u → t.hub.getGate v = s.hub.getGate v) ∧
        t.hub.getStn (unitStn u) = { s.hub.getStn (unitStn u) with gate := (t.hub.getStn (unitStn u)).gate, gateTick := s.hub.stnTick (unitStn u) } ∧
        onlyStation (unitStn u) s.hub t.hub ∧ t = { s with hub := { h0 with stn := t.hub.stn } }) ∧
    (r.st = .stepping → r.timeout ≠ 0 → r.timeout ≤ s.hub.now → r.steps ≠ 0 → s.hub.classOn 5 = true → s.hub.er.sysq.length < 32 →
      Yields .stepTimeout s fun h0 t =>
        (∀ u, unitOk u = true → (s.hub.getGate u).st = .step → (s.hub.getGate u).cut = r.id → t.hub.getGate u = frozenGate s.hub u r.id r.timeout) ∧
        (∀ u, (s.hub.getGate u).st ≠ .step → t.hub.getGate u = s.hub.getGate u) ∧
        (∀ x, { t.hub.getStn x with gate := [], gateTick := 0 } = { s.hub.getStn x with gate := [], gateTick := 0 }) ∧
        (∀ m : Master, SMap.get {} t.hub.cut.m m.idx =
          if r.masters.contains m = true ∧ (SMap.get {} s.hub.cut.m m.idx).cut = r.id then { SMap.get {} s.hub.cut.m m.idx with status := stTimeout }
          else SMap.get {} s.hub.cut.m m.idx) ∧
        t = { s with hub := { h0 with
          stn := t.hub.stn,
          cut := { s.hub.cut with cuts := [{ r with st := .stopped, timeout := 0, t := s.hub.now, status := stTimeout }], m := t.hub.cut.m },
          er := { s.hub.er with sysq := s.hub.er.sysq ++ [{ s.hub.evt 5 0x0503 with
            slice := if r.die then 255 else r.slice, unit := if r.single then r.stepUnit else noUnit, status := stTimeout,
            aux := r.steps % 65536 + at_ (b2n r.mode) 16 + at_ (b2n r.single) 17, arg := r.id, words := [r.n, s.hub.now] }] } } })

/-- Cuts across packages (R143, R270 to R272): every message that arrives is stamped; a schedule seen for the first time is remembered, its tick
converted and cut here under the sender's ID; a done message is counted at the origin while the window is open, and relayed elsewhere; a resume seen
for the first time starts the resume of its slice's cut; the window closes. -/
def Obligations.CutMessages : Prop :=
  ∀ (s : State) (link : Nat) (b : List Byte), s.hub.live = true → s.hub.nocUp = true → link < 32 → b.length = 64 →
    (∀ sl, leAt b 0 1 = 0x21 → (∀ x ∈ s.hub.cut.known, x.1 ≠ leAt b 4 4) → (∀ l, l < 32 → l ≠ link → (s.hub.getStn (linkStn l)).mark.trained = false) →
        bit (leAt b 2 2) 0 = false → s.hub.sliceOfPasid (leAt b 8 4 % 2 ^ 20) = some sl → s.hub.sliceExists sl = true →
        s.hub.cutAllowed .hub (bit (leAt b 2 2) 1) sl = true → s.hub.cut.cuts = [] →
        s.hub.leadOk (s.hub.convertTick link (leAt b 0x10 8)).1 = true → s.hub.classOn 5 = true → s.hub.er.sysq.length < 32 →
      Yields (.cutScheduleMessage link b) s fun h0 t =>
        t = { s with hub := { h0.stampHub (linkStn link) with
          cut := { s.hub.cut with
            cuts := [{ id := leAt b 4 4, die := false, slice := sl, st := .scheduled, t := (s.hub.convertTick link (leAt b 0x10 8)).1,
                       issued := s.hub.clk.cycle + 1, hang := bit (leAt b 2 2) 1, xpkg := true, origin := 1, set := [sl],
                       up := [(link, leAt b 4 4, (s.hub.convertTick link (leAt b 0x10 8)).2)],
                       toArm := allStations.filter s.hub.observed, bypassed := allStations.filter fun x => !s.hub.observed x }],
            known := remember s.hub.cut.known (leAt b 4 4, link),
            sentOn := if leAt b 1 1 < 31 then ((leAt b 4 4, []) :: s.hub.cut.sentOn).take 64 else s.hub.cut.sentOn },
          er := { s.hub.er with sysq := s.hub.er.sysq ++ [{ s.hub.evt 5 0x0501 with
            slice := sl, arg := leAt b 4 4, words := [(s.hub.convertTick link (leAt b 0x10 8)).1],
            aux := 2 + 4 * b2n (bit (leAt b 2 2) 1) + at_ 1 3 }] } } }) ∧
    (leAt b 0 1 = 0x23 → leAt b 4 4 = s.hub.cut.xid → cutPkg (leAt b 4 4) = s.hub.pkg → s.hub.cut.counting = true → s.hub.now ≤ s.hub.cut.xend →
      Yields (.cutDoneMessage link b) s fun h0 t =>
        t = { s with hub := { h0.stampHub (linkStn link) with
          cut := { s.hub.cut with
            reported := s.hub.cut.reported + 1, late := s.hub.cut.late + b2n (bit (leAt b 2 2) 2 || bit (leAt b 2 2) 3) },
          hang := { s.hub.hang with
            reported := if s.hub.hang.reported.contains (leAt b 0x18 2 % 1024) then s.hub.hang.reported
              else s.hub.hang.reported ++ [leAt b 0x18 2 % 1024] } } }) ∧
    (∀ l, leAt b 0 1 = 0x23 → cutPkg (leAt b 4 4) ≠ s.hub.pkg → s.hub.cut.known.find? (fun x => x.1 == leAt b 4 4) = some (leAt b 4 4, l) → l < 32 →
      Yields (.cutDoneMessage link b) s fun h0 t => t = { s with hub := ((h0.stampHub (linkStn link)).send l b).stampSent (linkStn l) }) ∧
    (∀ (sl : Nat) (r : CutRec), leAt b 0 1 = 0x22 → bit (leAt b 2 2) 0 = false →
        s.hub.cut.knownResume.contains (leAt b 4 4, leAt b 8 4 % 2 ^ 20) = false → (∀ l, l < 32 → l ≠ link → (s.hub.getStn (linkStn l)).mark.trained = false) →
        s.hub.sliceOfPasid (leAt b 8 4 % 2 ^ 20) = some sl → s.hub.cut.ofSlice sl = some r → r.die = false → r.st = .stopped → r.sub = [] →
        s.hub.dumpHolds r false sl = false → s.hub.leadOk (s.hub.convertTick link (leAt b 0x10 8)).1 = true →
      Yields (.cutResumeMessage link b) s fun h0 t =>
        t = { s with hub := { h0.stampHub (linkStn link) with
          cut := { s.hub.cut with
            knownResume := remember s.hub.cut.knownResume (leAt b 4 4, leAt b 8 4 % 2 ^ 20),
            cuts := s.hub.cut.cuts.map fun c => if c.id = r.id then { c with st := .resuming, u := (s.hub.convertTick link (leAt b 0x10 8)).1 } else c } } }) ∧
    (s.hub.cut.counting = true → s.hub.cut.xend ≤ s.hub.now →
      Yields .cutXresultWindowEnd s fun h0 t => t = { s with hub := { h0 with cut := { s.hub.cut with counting := false } } })
/-! ## Hang detection (chapter 09) -/

/-- The scan (R289 to R291, Table 09.1): a context that is in scope and has made no progress since the last scan grows its idle count; at the
threshold its verdict is queued once; one that has made progress starts again at 0; with the last context the scan is over and counted. -/
def Obligations.HangScan : Prop :=
  ∀ (s : State) (n : Nat), s.hub.live = true → s.hub.rst.st = 0 → s.hub.hang.scan = some n → (s.hub.getCtx n).cyc ≠ s.hub.clk.cycle + 1 →
    (s.hub.getCtx n).st = .active → bit s.hub.hangCfg 31 = true → bit s.hub.hangMask (s.hub.getCtx n).slice = true → (s.hub.getCtx n).own ≠ [] →
    (∀ c ∈ (s.hub.getCtx n).own, c.started = true → (s.hub.getGate c.unit).st = .run) →
    (n + 1 < 262144 → (s.hub.getCtx n).progress = (s.hub.getCtx n).stored →
        Nat.max 1 (s.hub.hangCfg % 65536) ≤ satAdd 65535 (s.hub.getCtx n).idle 1 → (s.hub.getCtx n).reported = false → s.hub.hang.fifo.length < 64 →
      Yields .scanContext s fun h0 t =>
        t.hub.getCtx n = { s.hub.getCtx n with idle := satAdd 65535 (s.hub.getCtx n).idle 1, reported := true } ∧
        t.hub.hang = { s.hub.hang with
          scan := some (n + 1), fifo := s.hub.hang.fifo ++ [(n, (s.hub.getCtx n).slice)], fifoNew := s.hub.hang.fifoNew + 1,
          overNow := s.hub.hang.overNow + 1 } ∧
        (∀ d, d ≠ n → t.hub.getCtx d = s.hub.getCtx d) ∧ t = { s with hub := { h0 with hang := t.hub.hang, ctx := t.hub.ctx } }) ∧
    (n + 1 < 262144 → (s.hub.getCtx n).progress = (s.hub.getCtx n).stored →
        satAdd 65535 (s.hub.getCtx n).idle 1 < Nat.max 1 (s.hub.hangCfg % 65536) →
      Yields .scanContext s fun h0 t =>
        t.hub.getCtx n = { s.hub.getCtx n with idle := satAdd 65535 (s.hub.getCtx n).idle 1 } ∧ t.hub.hang = { s.hub.hang with scan := some (n + 1) } ∧
        (∀ d, d ≠ n → t.hub.getCtx d = s.hub.getCtx d) ∧ t = { s with hub := { h0 with hang := t.hub.hang, ctx := t.hub.ctx } }) ∧
    (n + 1 = 262144 → (s.hub.getCtx n).progress ≠ (s.hub.getCtx n).stored →
      Yields .scanContext s fun h0 t =>
        t.hub.getCtx n = { s.hub.getCtx n with idle := 0, reported := false, stored := (s.hub.getCtx n).progress } ∧
        t.hub.hang = { s.hub.hang with scan := none, overCount := s.hub.hang.overNow, scans := (s.hub.hang.scans + 1) % 2 ^ 32 } ∧
        (∀ d, d ≠ n → t.hub.getCtx d = s.hub.getCtx d) ∧ t = { s with hub := { h0 with hang := t.hub.hang, ctx := t.hub.ctx } })

/-- The hang sequence (R77, Table 02.12): the end of step 1 asks for record 0x0401; a failed later step asks for record 0x0402, and the next step
begins all the same; step 6 begins with the attention line's reason 3; with the end of step 6 no sequence runs. -/
def Obligations.HangSequence : Prop :=
  ∀ (s : State) (status : Nat), s.hub.live = true → s.hub.boot.pairRunning = true → s.hub.er.sysq.length < 32 →
    (s.hub.hang.seq.step = 1 →
      Yields (.hangStepAdvance status) s fun h0 t =>
        t = { s with hub := { h0 with
          hang := { s.hub.hang with seq := { s.hub.hang.seq with step := 2 } },
          er := { s.hub.er with sysq := s.hub.er.sysq ++ [{ s.hub.fwEvt 0x0401 with
            slice := (s.hub.hang.seq.joined.headD (0, 255, 0)).2.1, ctx := s.hub.hang.seq.joined.head?.map (·.1),
            aux := (s.hub.hang.seq.joined.headD (0, 255, 0)).2.2, arg := s.hub.hang.seq.number,
            words := (s.hub.hang.seq.joined.tail.take 16).map fun x => x.1 + at_ x.2.1 18 }] } } }) ∧
    ((s.hub.hang.seq.step = 2 ∨ s.hub.hang.seq.step = 3 ∨ s.hub.hang.seq.step = 4) → (status = stOk ∨ status = stPartial) →
      Yields (.hangStepAdvance status) s fun h0 t =>
        t = { s with hub := { h0 with hang := { s.hub.hang with seq := { s.hub.hang.seq with step := s.hub.hang.seq.step + 1 } } } }) ∧
    ((s.hub.hang.seq.step = 2 ∨ s.hub.hang.seq.step = 3 ∨ s.hub.hang.seq.step = 4) → status ≠ stOk → status ≠ stPartial →
      Yields (.hangStepAdvance status) s fun h0 t =>
        t = { s with hub := { h0 with
          hang := { s.hub.hang with seq := { s.hub.hang.seq with step := s.hub.hang.seq.step + 1 } },
          er := { s.hub.er with sysq := s.hub.er.sysq ++ [{ s.hub.fwEvt 0x0402 with
            slice := if s.hub.hang.seq.die then 255 else s.hub.hang.seq.slice, status := status, aux := s.hub.hang.seq.step,
            arg := s.hub.hang.seq.cut }] } } }) ∧
    (s.hub.hang.seq.step = 5 →
      Yields (.hangStepAdvance status) s fun h0 t =>
        t = { s with hub := { h0 with
          hang := { s.hub.hang with seq := { s.hub.hang.seq with step := 6 } },
          span := { s.hub.span with attn := s.hub.span.attn ||| 2 ^ 3 }, cyc := { s.hub.cyc with attn := s.hub.cyc.attn ||| 2 ^ 3 },
          er := if status = stOk ∨ status = stPartial then s.hub.er else { s.hub.er with sysq := s.hub.er.sysq ++ [{ s.hub.fwEvt 0x0402 with
            slice := if s.hub.hang.seq.die then 255 else s.hub.hang.seq.slice, status := status, aux := 5, arg := s.hub.hang.seq.object }] } } }) ∧
    (s.hub.hang.seq.step = 6 → s.hub.hang.waiting = [] → s.hub.hang.dieWaiting = false →
      Yields (.hangStepAdvance status) s fun h0 t =>
        t = { s with hub := { h0 with
          hang := { s.hub.hang with seq := {} },
          er := if status = stOk ∨ status = stPartial then s.hub.er else { s.hub.er with sysq := s.hub.er.sysq ++ [{ s.hub.fwEvt 0x0402 with
            slice := if s.hub.hang.seq.die then 255 else s.hub.hang.seq.slice, status := status, aux := 6, arg := s.hub.hang.seq.object }] } } })

/-- The wait-for graph (R300 to R304, R519): once the cut of step 3 is stopped its edges are collected; the walk finds the contexts that have
commands; the area is written with the header's magic in front, within its 4 MiB, and record 0x0403 follows; the origin of a cross-package cut takes
edges of other packages, and gives up those that are missing. -/
def Obligations.WaitForGraph : Prop :=
  ∀ (s : State) (r : CutRec), s.hub.live = true → s.hub.boot.pairRunning = true →
    (s.hub.hang.seq.step = 3 → s.hub.cut.byId s.hub.hang.seq.cut = some r → r.st = .stopped → r.xpkg = false → s.hub.rst.st = 0 → s.hub.hang.building = false →
      Yields .waitEdgeCollect s fun h0 t =>
        t = { s with hub := { h0.edgeReports (s.hub.collect r).1 with hang := { s.hub.hang with
          building := true, parent := none, cut := r.id, cutTick := r.t, cutDone := r.done, cutPartial := r.status == stPartial, xpkg := false, scope := r.set,
          unitMap := r.unitMap, joined := s.hub.hang.seq.joined, edges := (s.hub.collect r).1, units := (s.hub.collect r).2.1,
          unobserved := (s.hub.collect r).2.2, walk := none, remote := [], peersDone := [], peerTrunc := false, noPeer := false,
          wfgStatus := 2 ^ 31 + s.hub.hang.wfgStatus / 2 ^ 30 % 2 * 2 ^ 30 } } }) ∧
    (s.hub.hang.building = true → s.hub.hang.scan = none → s.hub.rst.st = 0 →
      Yields .contextWalk s fun h0 t =>
        t = { s with hub := { h0 with hang := { s.hub.hang with walk := some (s.hub.ctx.filter fun c => !c.2.own.isEmpty) } } }) ∧
    (∀ w, s.hub.hang.building = true → s.hub.hang.walk = some w → s.hub.hang.parent = none → s.hub.hang.xpkg = false → s.hub.hang.joined.length ≤ 65536 →
        s.hub.er.sysq.length < 32 →
      Yields .graphAreaWrite s fun h0 t =>
        t.mem = s.mem.apply [⟨0, 0x100000, zeros 4⟩,
          ⟨0, 0x100040, s.hub.graphOf.2.1.flatMap HungRec.bytes ++ (s.hub.graphOf.1.map fun x => maskEdge x.1 x.2).flatMap GEdge.bytes⟩,
          ⟨0, 0x100000, s.hub.graphHeader (s.hub.graphOf.1.map fun x => maskEdge x.1 x.2) s.hub.graphOf.2.1 s.hub.graphOf.2.2.1.length s.hub.graphOf.2.2.2
            (if s.hub.graphOf.2.2.2 then stWfgTrunc else stOk)⟩] ∧
        (∀ k, k < 4 → SMap.get 0 t.mem.firkin (0x100000 + k) = (leBytes 4 0x52474657).getD k 0) ∧
        (∀ a, (a < 0x100000 ∨ 0x100000 + 4194304 ≤ a) → SMap.get 0 t.mem.firkin a = SMap.get 0 s.mem.firkin a) ∧ t.mem.hbm = s.mem.hbm ∧
        t.hub = { h0 with
          hang := { s.hub.hang with
            building := false, graph := s.hub.graphOf.1, hung := s.hub.graphOf.2.1, wfgCut := s.hub.hang.cut, wfgEdges := s.hub.graphOf.1.length,
            wfgStatus := 2 ^ 30 + if s.hub.graphOf.2.2.2 then stWfgTrunc else stOk },
          er := { s.hub.er with sysq := s.hub.er.sysq ++ [{ s.hub.fwEvt 0x0403 with
            aux := s.hub.graphOf.2.2.1.length, arg := s.hub.hang.cut, status := if s.hub.graphOf.2.2.2 then stWfgTrunc else stOk,
            words := [s.hub.graphOf.1.length, s.hub.graphOf.2.1.length, s.hub.now] }] },
          ecc := { s.hub.ecc with firkinBad := t.hub.ecc.firkinBad } }) ∧
    (∀ link b, s.hub.nocUp = true → link < 32 → b.length = 64 → leAt b 0 1 = 0x24 → cutPkg (leAt b 4 4) ≠ s.hub.pkg → leAt b 4 4 ∉ s.hub.hang.knownGraph →
        s.hub.rst.st = 0 → s.hub.cut.sentOn.find? (fun x => x.1 == leAt b 4 4) = none →
      Yields (.graphRequestMessage link b) s fun h0 t =>
        t = { s with hub := { h0.stampHub (linkStn link) with hang := { s.hub.hang with
          knownGraph := (leAt b 4 4 :: s.hub.hang.knownGraph).take 64, jobs := s.hub.hang.jobs ++ [(leAt b 4 4, link)] } } }) ∧
    (∀ link b, s.hub.nocUp = true → link < 32 → b.length = 64 → leAt b 0 1 = 0x25 → cutPkg (leAt b 4 4) = s.hub.pkg → s.hub.hang.building = true →
        s.hub.hang.parent = none → s.hub.hang.cut = leAt b 4 4 → bit (leAt b 2 2) 0 = false → (edgeOf (slice b 16 40)).src ≠ 0 →
      Yields (.graphEdgeMessage link b) s fun h0 t =>
        t = { s with hub := { h0.stampHub (linkStn link) with hang := { s.hub.hang with
          remote := s.hub.hang.remote ++ [{ edgeOf (slice b 16 40) with flags := (edgeOf (slice b 16 40)).flags ||| 2 }], peerTrunc := s.hub.hang.peerTrunc || bit (leAt b 2 2) 1 } } }) ∧
    (s.hub.hang.building = true → s.hub.hang.parent = none → s.hub.hang.xpkg = true → s.hub.hang.cutDone + 4000000 ≤ s.hub.now → s.hub.missingPeers = true →
      Yields .graphPeerTimeout s fun h0 t => t = { s with hub := { h0 with hang := { s.hub.hang with noPeer := true } } })

/-! ## Dumps, the Tun and the Firkin (chapter 10) -/

/-- The course of a dump (Table 10.6, R328, R331, R335): without room for its manifest it goes to FINISH with ST_DMP_NOTUN; with room the manifest
record is reserved; in FINISH it waits for its records and then goes to SIGN; signed, it leaves the engine idle, with its directory entry, vector 5,
attention reason 7 and record 0x0601. -/
def Obligations.DumpCourse : Prop :=
  ∀ (s : State) (d : Dump), s.hub.live = true → s.hub.dmp.cur = some d →
    (s.hub.dmp.st = .plan → s.hub.dmp.jobs = [] → s.hub.nocUp = true → s.hub.tunFits 262144 = false → d.req.scope = 2 →
      Yields .dumpPlanDone s fun h0 t =>
        t = { s with hub := { h0 with dmp := { s.hub.dmp with st := .finish, cur := some { d with notun := true, status := stDmpNotun } } } }) ∧
    (s.hub.dmp.st = .plan → s.hub.dmp.jobs = [] → s.hub.nocUp = true → s.hub.tunFits 262144 = true → s.hub.tunData ≠ 0 → d.req.scope = 2 → d.stop = false →
      Yields .dumpPlanDone s fun h0 t =>
        t.hub.dmp.wr = s.hub.dmp.wr + s.hub.tunGap 262144 + 262144 ∧ (t.hub.dmp.st = .stream ∨ t.hub.dmp.st = .finish) ∧
        (∃ e, t.hub.dmp.cur = some e ∧ e.req = d.req ∧ e.man = s.hub.dmp.wr + s.hub.tunGap 262144 ∧ e.out = 262144 ∧ e.status = d.status) ∧
        (∃ r ∈ t.hub.dmp.recs, r.pos = s.hub.dmp.wr + s.hub.tunGap 262144 ∧ r.len = 262144 ∧ r.manifest = true ∧ r.done = false) ∧
        (s.hub.tunGap 262144 = 0 → t.mem = s.mem) ∧
        t = lands s ({ h0.tunReserve 262144 (tunHeader 1 0 255 0 d.req.object 0 0 262144 0) true with
          dmp := { (h0.tunReserve 262144 (tunHeader 1 0 255 0 d.req.object 0 0 262144 0) true).dmp with
            st := .stream,
            cur := some { d with
              segs := s.hub.dumpPlan s.mem d, units := 0, unitBytes := [], man := s.hub.dmp.wr + s.hub.tunGap 262144, out := 262144,
              rawTotal := (s.hub.dumpPlan s.mem d).foldl (fun a g => a + g.raw) 0 } } } : Hub).goOn) ∧
    (s.hub.dmp.st = .finish → s.hub.dmp.fk = none → (∀ r ∈ s.hub.dmp.recs, r.done = true ∨ r.manifest = true) →
      Yields .dumpFinish s fun h0 t =>
        t = { s with hub := { h0 with dmp := { s.hub.dmp with st := .sign, cur := some { d with endTick := if d.endTick = 0 then s.hub.now else d.endTick } } } }) ∧
    (s.hub.dmp.st = .sign → d.notun = false → s.hub.nocUp = true → s.hub.dmp.next = none → s.hub.dmp.fires = [] → s.hub.classOn 6 = true →
        s.hub.er.sysq.length < 32 → 0x2200000 < s.hub.boot.tunSize → d.man % s.hub.tunData + 262144 ≤ s.hub.tunData →
        s.hub.boot.tunBase + s.hub.boot.tunSize ≤ hbmSize → (SMap.get {} s.hub.dmp.m d.req.owner.idx).object = d.req.object →
        (SMap.get {} s.hub.dmp.m d.req.owner.idx).running = true →
      Yields .dumpSigned s fun h0 t =>
        t.hub.dmp.st = .idle ∧ t.hub.dmp.cur = none ∧ t.hub.dmp.dirNext = (s.hub.dmp.dirNext + 1) % 2 ^ 32 ∧ t.hub.dmp.dirCount = Nat.min 64 (s.hub.dmp.dirCount + 1) ∧
        SMap.get {} t.hub.dmp.m d.req.owner.idx = { SMap.get {} s.hub.dmp.m d.req.owner.idx with status := d.status, running := false } ∧
        bit t.hub.irq.status 5 = true ∧ bit t.hub.span.attn 7 = true ∧
        t.hub.er = { s.hub.er with sysq := s.hub.er.sysq ++ [{ s.hub.evt 6 0x0601 with
          slice := if d.req.scope = 1 then 255 else d.req.slice, ctx := if d.req.scope = 2 then some d.req.context else none,
          status := d.status, aux := d.req.cause, arg := d.req.object, words := [d.rawWritten, d.out] }] } ∧
        (∀ k, k < 4 → SMap.get 0 t.mem.hbm (s.hub.tunAddr d.man + k) = (leBytes 4 0x43455254).getD k 0) ∧
        (∀ a, (a < s.hub.boot.tunBase ∨ s.hub.boot.tunBase + s.hub.boot.tunSize ≤ a) → SMap.get 0 t.mem.hbm a = SMap.get 0 s.mem.hbm a) ∧
        t = lands s { (h0.dumpManifest d).irqRaise 5 with
          er := t.hub.er,
          dmp := { (h0.dumpManifest d).dmp with
            st := .idle, cur := none,
            m := SMap.upd {} s.hub.dmp.m d.req.owner.idx fun x => { x with status := d.status, running := false } } }) ∧
    (∀ cause cut, s.hub.dmp.fk = some (cause, d.req.object, cut) →
      Yields .firkinWriteDone s fun h0 t =>
        (∀ k, k < 8 → SMap.get 0 t.mem.firkin k = (leBytes 4 0x4E4B5246 ++ leBytes 2 1 ++ leBytes 2 2).getD k 0) ∧
        (∀ a, 0x100000 ≤ a → a < 0x500000 → SMap.get 0 t.mem.firkin a = SMap.get 0 s.mem.firkin a) ∧ t.mem.hbm = s.mem.hbm ∧
        t = lands s { h0.firkinEnd d.sliceOf cause d.status d.req.object cut with dmp := { s.hub.dmp with fk := none, cur := some { d with firkin := true } } })

/-- Chunks of a dump and records of the Tun (R322, R326, R330): the last chunk of the last segment becomes a record and ends the stream; an engine
that ran out of space leaves the segment PARTIAL and the dump truncated; a record is complete once its header is written, and DMP_TUN_DONE passes it. -/
def Obligations.DumpChunks : Prop :=
  ∀ (s : State), s.hub.live = true → s.hub.nocUp = true →
    (∀ (d : Dump) (g : Seg) (j : Job) (key : List Byte), s.hub.dmp.cur = some d → s.hub.dmp.st = .stream → s.hub.dmp.jobs = [j] → j.watch = false →
        j.ended = some stOk → d.segs = [g] → j.seg = 0 → d.stop = false → 0 < j.inDone → g.written = j.off → j.off + j.inDone = g.raw →
        s.hub.dumpMisfit d j = false → d.keyOf g.slice = key →
      Yields .dumpChunkWritten s fun h0 t =>
        t.hub.dmp.wr = s.hub.dmp.wr + s.hub.tunGap (chunkLen (!key.isEmpty) j.out.length) + chunkLen (!key.isEmpty) j.out.length ∧
        t = lands s { (h0.chunkRecord key g.cls g.slice 2 d.req.object d.chunk j.off j.inDone j.out).2.2 with
          dmp := { (h0.chunkRecord key g.cls g.slice 2 d.req.object d.chunk j.off j.inDone j.out).2.2.dmp with
            st := .finish, jobs := [],
            cur := some { d with
              chunk := d.chunk + 1, out := d.out + chunkLen (!key.isEmpty) j.out.length,
              segs := [{ g with
                chunks := g.chunks + 1, written := g.raw,
                pos := if g.chunks = 0 then s.hub.dmp.wr + s.hub.tunGap (chunkLen (!key.isEmpty) j.out.length) else g.pos }] } } }) ∧
    (∀ (d : Dump) (g : Seg) (j : Job), s.hub.dmp.cur = some d → s.hub.dmp.st = .stream → s.hub.dmp.jobs = [j] → j.watch = false → j.ended = some stPartial →
        d.segs = [g] → j.seg = 0 → d.stop = false → j.inDone = 0 → g.status = stOk →
      Yields .dumpTunFull s fun h0 t =>
        t = { s with hub := { h0 with dmp := { s.hub.dmp with
          st := .finish, jobs := [],
          cur := some { d with truncated := true, status := stPartial, segs := [{ g with status := stPartial }] } } } }) ∧
    (∀ (r : TunRec), s.hub.dmp.recs = [r] → r.done = false → r.manifest = false → s.hub.dmp.cur = none → s.hub.tunAddr r.pos + r.hdr.length ≤ hbmSize →
      Yields .tunRecordComplete s fun h0 t =>
        t = lands s { h0.hbmWrite (s.hub.tunAddr r.pos) r.hdr with dmp := { s.hub.dmp with recs := [], done := r.pos + r.len } } ∧
        (∀ k, k < r.hdr.length → SMap.get 0 t.mem.hbm (s.hub.tunAddr r.pos + k) = r.hdr.getD k 0) ∧
        (∀ a, (a < s.hub.tunAddr r.pos ∨ s.hub.tunAddr r.pos + r.hdr.length ≤ a) → SMap.get 0 t.mem.hbm a = SMap.get 0 s.mem.hbm a))

/-- Tensor watches (R338 to R344, Table 10.17): a queued firing is served with the next object ID and a header record; read whole, it leaves its slot
spent, or armed again for its repeat count, with vector 6 and record 0x0602; an engine out of space leaves it PARTIAL, and it reads on once the Tun
has room; at its hold limit the command it held completes. -/
def Obligations.Watches : Prop :=
  ∀ (s : State) (f : Firing), s.hub.live = true → s.hub.dmp.fires = [f] → s.hub.dmp.st = .idle → s.hub.nocUp = true →
    ((s.hub.getWatch f.slot).st = .queued → s.hub.tunFits 256 = true → s.hub.tunData ≠ 0 → s.hub.dmp.object ≠ 0xFFFFFFFF →
      Yields .watchServe s fun h0 t =>
        t.hub.getWatch f.slot = { s.hub.getWatch f.slot with st := .reading, object := s.hub.dmp.object + 1, done := 0 } ∧
        (∀ w, w ≠ f.slot → t.hub.getWatch w = s.hub.getWatch w) ∧ t.hub.dmp.object = s.hub.dmp.object + 1 ∧
        t.hub.dmp.wr = s.hub.dmp.wr + s.hub.tunGap 256 + 256 ∧
        t.hub.dmp.fires = [{ f with
          object := s.hub.dmp.object + 1, key := s.hub.dumpKey f.slice, pos := s.hub.dmp.wr + s.hub.tunGap 256, out := 256 }] ∧
        t.mem = s.mem.apply (((h0.tunFiller (s.hub.tunGap 256)).tunBody (s.hub.dmp.wr + s.hub.tunGap 256)
          ({ f with object := s.hub.dmp.object + 1 }.header stOk)).out) ∧
        t.hub = { h0 with dmp := t.hub.dmp, ce := t.hub.ce, irq := t.hub.irq, cyc := t.hub.cyc }) ∧
    ((s.hub.getWatch f.slot).st = .reading → f.len ≤ f.read → s.hub.dmp.jobs = [] → f.held = false → f.kind = 0 → f.object ≠ 0 → s.hub.classOn 6 = true →
        s.hub.er.sysq.length < 32 →
      Yields .watchReadDone s fun h0 t =>
        t.hub.getWatch f.slot = { s.hub.getWatch f.slot with
          st := if f.again = 0 then .spent else .armed, status := stOk, count := 0, occ := if f.again = 0 then (s.hub.getWatch f.slot).occ else f.again } ∧
        (∀ w, w ≠ f.slot → t.hub.getWatch w = s.hub.getWatch w) ∧ bit t.hub.irq.status 6 = true ∧
        t = lands s { (h0.watchNote f stOk 1).irqRaise 6 with
          dmp := { (h0.watchNote f stOk 1).dmp with fires := [], w := t.hub.dmp.w },
          er := { s.hub.er with sysq := s.hub.er.sysq ++ [{ s.hub.evt 6 0x0602 with
            slice := f.slice, unit := f.unit, status := stOk, aux := f.slot, arg := f.object, words := [f.read] }] } }) ∧
    (∀ (j : Job), (s.hub.getWatch f.slot).st = .reading → s.hub.dmp.jobs = [j] → j.watch = true → j.ended = some stPartial → j.inDone = 0 → j.seen = [] → f.carry = [] →
      Yields .watchOutputFull s fun h0 t =>
        t.hub.getWatch f.slot = { s.hub.getWatch f.slot with st := .partial_, status := stPartial, done := f.read } ∧
        (∀ w, w ≠ f.slot → t.hub.getWatch w = s.hub.getWatch w) ∧ bit t.hub.irq.status 6 = true ∧
        t = lands s { (h0.watchNote f stPartial 2).irqRaise 6 with
          dmp := { (h0.watchNote f stPartial 2).dmp with jobs := [], fires := [{ f with late := f.late || j.late }], w := t.hub.dmp.w } }) ∧
    ((s.hub.getWatch f.slot).st = .partial_ → 0x400000 ≤ s.hub.tunFree →
      Yields .watchResume s fun h0 t =>
        t.hub.getWatch f.slot = { s.hub.getWatch f.slot with st := .reading } ∧ (∀ w, w ≠ f.slot → t.hub.getWatch w = s.hub.getWatch w) ∧
        t = { s with hub := { h0 with dmp := { s.hub.dmp with w := t.hub.dmp.w, jobs := t.hub.dmp.jobs }, ce := t.hub.ce } }) ∧
    (∀ (a q : List Cmd) (x : Cmd), f.held = true → f.holdEnd ≤ s.hub.now → (s.hub.getCtx f.context).cmds = a ++ x :: q → (∀ y ∈ a, y.held.contains f.slot = false) →
        x.held = [f.slot] → x.signal = none → x.lost = false → x.gone = false → unitOk x.unit = true → (s.hub.getGate x.unit).st = .run →
      Yields (.watchHoldExpiry f.slot) s fun h0 t =>
        onlyContext f.context { s.hub.getCtx f.context with cmds := a ++ q, progress := ((s.hub.getCtx f.context).progress + 1) % 2 ^ 32 } s.hub t.hub ∧
        onlyGrain x.unit { s.hub.getGrain x.unit with cmd := none, retired := 0, inc := SMap.upd 0 (s.hub.getGrain x.unit).inc 6 (· + 1) } s.hub t.hub ∧
        t = { s with hub := asideTrace { h0 with
          ctx := t.hub.ctx, dmp := { s.hub.dmp with fires := [{ f with held := false, releaseTick := s.hub.now }] },
          reply := s.hub.reply ++ [⟨x.unit, f.context, x.tag, x.status⟩] } t.hub })

/-! ## Compression engines (chapter 11) -/

/-- The register job of master `m` in bank `b` has ended (R373): the bank, which stood as `k`, is IDLE, and the master's results, else as in `j`, tell
the status and the counts; every other bank and every other result is as it was. -/
def Sys2Proof.jobEnded (h g : Hub) (b : Nat) (m : Master) (k : Bank) (status : Nat) (j : JobRes) : Prop :=
  SMap.get {} g.ce.bank b = { k with busy := false, owner := none, decode := false, block := 0 } ∧
  (∀ x, x ≠ b → SMap.get {} g.ce.bank x = SMap.get {} h.ce.bank x) ∧
  SMap.get {} g.ce.job (b * 4 + m.idx) = { j with busy := false, status := status, in_ := k.inDone, out := k.outDone } ∧
  ∀ x, x ≠ b * 4 + m.idx → SMap.get {} g.ce.job x = SMap.get {} h.ce.job x

/-- A block of a register job (R366 to R374): an encode job writes the block it releases after the last one and counts what it covers; a decode job
writes the raw bytes of a sound block, ends with its last one, and ends with the status of the failed check at a bad one. No other byte of memory
changes. -/
def Obligations.RegisterJobBlocks : Prop :=
  ∀ (s : State) (b : Nat) (k : Bank) (m : Master) (ok rawOk : Bool) (raw : List Byte), s.hub.live = true → s.hub.nocUp = true → b < 4 →
    SMap.get {} s.hub.ce.bank b = k → k.busy = true → k.owner = some m →
    (∀ (r : Release), k.decode = false → r = releaseBlock k.xform k.raw (decide (k.inDone + Nat.min blockMax (k.len - k.inDone) = k.len)) k.block (k.limit - k.outDone)
          (s.mem.hbmRead (k.src + k.inDone) (Nat.min blockMax (k.len - k.inDone))) ok rawOk → r.ended = none → r.vfail = false →
      Yields (.ceBlockRelease b raw ok rawOk) s fun h0 t =>
        SMap.get {} t.hub.ce.bank b = { k with
          inDone := k.inDone + r.cover, outDone := k.outDone + r.block.length, block := k.block + 1, in_ := (k.in_ + r.cover) % 2 ^ 64,
          out := (k.out + r.block.length) % 2 ^ 64, blocks := k.blocks + b2n (!r.block.isEmpty) } ∧ (∀ x, x ≠ b → SMap.get {} t.hub.ce.bank x = SMap.get {} s.hub.ce.bank x) ∧
        (∀ i, i < r.block.length → k.dst + k.outDone + i < hbmSize → SMap.get 0 t.mem.hbm (k.dst + k.outDone + i) = r.block.getD i 0) ∧
        (∀ a, (a < k.dst + k.outDone ∨ k.dst + k.outDone + r.block.length ≤ a) → SMap.get 0 t.mem.hbm a = SMap.get 0 s.mem.hbm a) ∧
        t = { s with mem := { s.mem with hbm := t.mem.hbm }, hub := { h0 with ce := { s.hub.ce with bank := t.hub.ce.bank }, rc := t.hub.rc } }) ∧
    (∀ (len : Nat) (out : List Byte), k.decode = true → decodeBlock (s.mem.hbmRead (k.src + k.inDone) (Nat.min 65544 (k.len - k.inDone))) = .good len out →
        k.outDone + out.length ≤ k.limit → k.inDone + len = k.len →
      Yields (.ceBlockRelease b raw ok rawOk) s fun h0 t =>
        jobEnded s.hub t.hub b m { k with inDone := k.inDone + len, outDone := k.outDone + out.length } stOk
          (SMap.get {} s.hub.ce.job (b * 4 + m.idx)) ∧
        (∀ i, i < out.length → k.dst + k.outDone + i < hbmSize → SMap.get 0 t.mem.hbm (k.dst + k.outDone + i) = out.getD i 0) ∧
        (∀ a, (a < k.dst + k.outDone ∨ k.dst + k.outDone + out.length ≤ a) → SMap.get 0 t.mem.hbm a = SMap.get 0 s.mem.hbm a) ∧
        t = { s with
          mem := { s.mem with hbm := t.mem.hbm }, hub := { h0 with ce := { s.hub.ce with bank := t.hub.ce.bank, job := t.hub.ce.job } } }) ∧
    (∀ st, k.decode = true → decodeBlock (s.mem.hbmRead (k.src + k.inDone) (Nat.min 65544 (k.len - k.inDone))) = .bad st →
      Yields (.ceBlockRelease b raw ok rawOk) s fun h0 t =>
        jobEnded s.hub t.hub b m k st { SMap.get {} s.hub.ce.job (b * 4 + m.idx) with failValid := true, fail := k.block } ∧
        t = { s with hub := { h0 with ce := { s.hub.ce with bank := t.hub.ce.bank, job := t.hub.ce.job } } })

/-- The Bushel format loses nothing (R358 to R365, R374): the block that the engine chooses for some raw bytes, encoded or raw, decodes to exactly
these bytes. -/
def Obligations.BushelRoundTrip : Prop :=
  ∀ (set index flags : Nat) (force : Bool) (raw : List Byte), 0 < raw.length → raw.length ≤ 65520 → (flags = 0 ∨ flags = 4 ∨ flags = 8) →
    (∀ x body, bestBody set force raw = some (x, body) →
      decodeBlock (mkBlock flags x index raw body) = .good (blockLen body.length) raw) ∧
    decodeBlock (mkBlock (flags + 1) 0 index raw raw) = .good (blockLen raw.length) raw ∧
    decodeBlock (mkBlock (flags + 3) 0 index raw raw) = .good (blockLen raw.length) raw

/-! ## Security (chapter 13) -/

/-- The keys of slice `k` are `x`, those of every other slice as they were. -/
def Sys2Proof.onlyKeys (k : Nat) (x : SliceKeys) (h g : Hub) : Prop := g.getKeys k = x ∧ ∀ j, j ≠ k → g.getKeys j = h.getKeys j

/-- The check of master `m` has ended with a status and a reason, and nothing else of any master's registers differs. -/
def Sys2Proof.checkDone (m : Master) (status reason : Nat) (h g : Hub) : Prop :=
  g.getSecM m = { h.getSecM m with check := none, status := status, reason := reason } ∧ ∀ x : Master, x ≠ m → g.getSecM x = h.getSecM x

/-- The audit record of an accepted token (0x0821). -/
def Sys2Proof.tokenTaken (h : Hub) (m : Master) (c : SecCheck) : Req :=
  { h.secEvt m 0x0821 (leAt c.buf 7 1) with aux := leAt c.buf 6 1, arg := leAt c.buf 0x20 8, words := digestWords (sha384 (slice c.buf 0 192)) }

/-- The end of a check (R405, R411, R413, R417 to R420): an accepted role command gives its master the role for its lease, one refused changes no
role; an accepted registration binds the slice to its owner and draws the next key generation; an accepted POLICY token takes the slice's slot, an
OPEN releases the dump key and marks a rekey, a REVOKE clears the slot and the fields that need consent and waits for its commit. Each asks for its
audit record. -/
def Obligations.SecurityChecks : Prop :=
  ∀ (s : State) (m : Master) (c : SecCheck), s.hub.live = true → (s.hub.getSecM m).check = some c → s.hub.lodgeWaits m c = false →
    (c.op = 1 → s.hub.roleReason m c.buf c.nonce = 0 → (s.hub.getSecM m).role = 0 →
      Yields (.secCheckComplete m) s fun h0 t =>
        t.hub.getSecM m = { s.hub.getSecM m with
          check := none, status := stOk, reason := 0, role := leAt c.buf 6 1, leaseEnd := s.hub.sec.lease + leAt c.buf 8 4 * 1000000000 } ∧
        (∀ x : Master, x ≠ m → t.hub.getSecM x = s.hub.getSecM x) ∧
        t = { s with hub := { h0 with
          sec := { s.hub.sec with m := t.hub.sec.m },
          er := s.hub.er.audit { s.hub.auditBy m 0x0810 with
            origin := m.origin + 16 * leAt c.buf 6 1, aux := leAt c.buf 8 4, arg := s.hub.boot.keys.serial,
            words := [leAt c.nonce 0 8, leAt c.nonce 8 8] } } }) ∧
    (c.op = 1 → s.hub.roleReason m c.buf c.nonce ≠ 0 →
      Yields (.secCheckComplete m) s fun h0 t =>
        t.hub.getSecM m = { s.hub.getSecM m with
          check := none, status := reasonStatus (s.hub.roleReason m c.buf c.nonce), reason := s.hub.roleReason m c.buf c.nonce } ∧
        (∀ x : Master, x ≠ m → t.hub.getSecM x = s.hub.getSecM x) ∧
        t = { s with hub := { h0 with
          sec := { s.hub.sec with m := t.hub.sec.m },
          er := s.hub.er.audit { s.hub.auditBy m 0x0812 with
            status := reasonStatus (s.hub.roleReason m c.buf c.nonce), aux := s.hub.roleReason m c.buf c.nonce, arg := leAt c.buf 6 1 } } }) ∧
    (c.op = 3 → s.hub.ownerStatus c.slice c.buf = stOk →
      Yields (.secCheckComplete m) s fun h0 t =>
        onlyKeys c.slice { s.hub.getKeys c.slice with
          owner := sha384 (slice c.buf 0 192), sigPub := slice c.buf 0 96, kexPub := slice c.buf 96 96,
          next := some (s.hub.newGen c.slice ((s.hub.getKeys c.slice).lastGen + 1) (slice c.buf 96 96)).1 } s.hub t.hub ∧
        checkDone m stOk 0 s.hub t.hub ∧
        t = { s with hub := { h0 with
          sec := { s.hub.sec with m := t.hub.sec.m, drbg := s.hub.sec.drbg + 48 }, slc := { s.hub.slc with keys := t.hub.slc.keys },
          er := s.hub.er.audit { s.hub.secEvt m 0x0820 c.slice with
            aux := (s.hub.getKeys c.slice).lastGen + 1,
            arg := (s.hub.newGen c.slice ((s.hub.getKeys c.slice).lastGen + 1) (slice c.buf 96 96)).1.keyId,
            words := digestWords (sha384 (slice c.buf 0 192)) } } }) ∧
    (c.op = 4 → s.hub.tokenReason c = 0 → leAt c.buf 6 1 = 1 →
      Yields (.secCheckComplete m) s fun h0 t =>
        onlyKeys (leAt c.buf 7 1) ((s.hub.getKeys (leAt c.buf 7 1)).lodge (s.hub.clk.cycle + 1) (slice c.buf 0 192)) s.hub t.hub ∧
        checkDone m stOk 0 s.hub t.hub ∧
        t = { s with hub := { h0 with
          sec := { s.hub.sec with m := t.hub.sec.m }, slc := { s.hub.slc with keys := t.hub.slc.keys },
          er := s.hub.er.audit (tokenTaken s.hub m c) } }) ∧
    (c.op = 4 → s.hub.tokenReason c = 0 → leAt c.buf 6 1 = 2 → (s.hub.getKeys (leAt c.buf 7 1)).rekey = false →
      Yields (.secCheckComplete m) s fun h0 t =>
        onlyKeys (leAt c.buf 7 1) { s.hub.getKeys (leAt c.buf 7 1) with
          opens := (s.hub.getKeys (leAt c.buf 7 1)).opens + 1, rekey := true,
          next := some (s.hub.newGen (leAt c.buf 7 1) ((s.hub.getKeys (leAt c.buf 7 1)).lastGen + 1) (s.hub.getKeys (leAt c.buf 7 1)).kexPub).1 }
          s.hub t.hub ∧
        (∀ i, i < 8 → SMap.get 0 (t.hub.getSecM m).keyout i = leAt (s.hub.getKeys (leAt c.buf 7 1)).cur.dump (4 * i) 4) ∧
        t.hub.getSecM m = { s.hub.getSecM m with
          check := none, status := stOk, reason := 0, keyout := (t.hub.getSecM m).keyout, keyoutEnd := s.hub.now + 1000000000, keyoutFull := true,
          keyoutCyc := s.hub.clk.cycle + 1, keyoutOld := s.hub.keyoutShown m } ∧
        (∀ x : Master, x ≠ m → t.hub.getSecM x = s.hub.getSecM x) ∧
        t = { s with hub := { h0 with
          sec := { s.hub.sec with m := t.hub.sec.m, drbg := s.hub.sec.drbg + 48 }, slc := { s.hub.slc with keys := t.hub.slc.keys },
          er := (s.hub.er.audit (tokenTaken s.hub m c)).audit { s.hub.secEvt m 0x0825 (leAt c.buf 7 1) with
            aux := leAt c.buf 0x28 4, arg := (s.hub.getKeys (leAt c.buf 7 1)).cur.keyId } } }) ∧
    (c.op = 4 → s.hub.tokenReason c = 0 → leAt c.buf 6 1 = 3 →
      Yields (.secCheckComplete m) s fun h0 t =>
        onlyKeys (leAt c.buf 7 1) ((s.hub.getKeys (leAt c.buf 7 1)).lodge (s.hub.clk.cycle + 1) []) s.hub t.hub ∧ checkDone m stOk 0 s.hub t.hub ∧
        bit (t.hub.shd 0 (0x40100 + 4 * leAt c.buf 7 1)) 31 = false ∧ (∀ k, (t.hub.rwsGet 0 k).active = (s.hub.rwsGet 0 k).active) ∧
        t = { s with hub := { h0 with
          sec := { s.hub.sec with m := t.hub.sec.m, revokes := s.hub.sec.revokes ++ [leAt c.buf 7 1] }, slc := { s.hub.slc with keys := t.hub.slc.keys },
          rws := ((consentFields (leAt c.buf 7 1)).foldl (fun h f => h.rwsUpd f.2.1 f.1 fun r => r.write (clearBits r.shadow f.2.2)) s.hub).rws,
          er := s.hub.er.audit (tokenTaken s.hub m c) } }) ∧
    (c.op = 4 → s.hub.tokenReason c ≠ 0 →
      Yields (.secCheckComplete m) s fun h0 t =>
        checkDone m (reasonStatus (s.hub.tokenReason c)) (s.hub.tokenReason c) s.hub t.hub ∧
        t = { s with hub := { h0 with
          sec := { s.hub.sec with m := t.hub.sec.m },
          er := s.hub.er.audit { s.hub.secEvt m 0x0822 (tokenSlice c.buf) with
            status := reasonStatus (s.hub.tokenReason c), aux := s.hub.tokenReason c + 256 * leAt c.buf 6 1, arg := leAt c.buf 0x20 8 } } })

/-! ## Slices and shared engines (chapter 14) -/

/-- The hub with the queue of engine `e` as `x`. -/
def Sys2Proof.withEngine (h : Hub) (e : Nat) (x : Engine) : Hub := { h with slc := { h.slc with engine := SMap.set {} h.slc.engine e x } }

/-- The event of a transfer at its engine, in feed 9 (Table 05.1). -/
def Sys2Proof.xferEvent (e ev status : Nat) (x : Transfer) : Ev :=
  { feed := 9, unit := engineUnit e, slice := x.slice, mode := x.mode, op := x.op, level := x.level, pk := some (.xfer ev x.context x.tag status x.len) }

/-- Beside trace and `n` more in Grain counter `k` of unit `u`, the stations are as they were (R225). -/
def Sys2Proof.countedAlone (u k n : Nat) (h g : Hub) : Prop :=
  onlyGrain u { h.getGrain u with inc := SMap.upd 0 (h.getGrain u).inc k (· + n) } h g ∧ onlyStation (unitStn u) h g

/-- The hub with slice `k` as `y`. -/
def Sys2Proof.withSlice (h : Hub) (k : Nat) (y : Slice) : Hub := { h with slc := { h.slc with e := SMap.set {} h.slc.e k y } }

/-- The queue of a shared engine (R439, R440, R445): a transfer of an ACTIVE context is admitted at the end while its slice is below its share, else
refused with ST_FULL and counted in Grain counter 6; in a full queue it takes the place of the youngest queued one of the slice that most exceeds its
share, which is answered ST_SLC_DISPLACED; the engine starts the oldest transfer of the slice whose turn it is; one that ends leaves the queue, is
answered and counts, as complete, with its signal applied, or as aborted by its slice's reset. At a plainly traced engine a start and an end each make
one XFER packet. The end of a slice reset (R445): an engine that reports is struck off, and with the last one's report the return to ACTIVE is due;
100,000 ticks after the reset the slice returns to ACTIVE with record 0x0312, at once if no engine holds a transfer of it, and with one more transfer
answered ST_ABORTED and counted for the one that is still in flight. -/
def Obligations.Transfers : Prop :=
   (∀ (s : State) (e : Nat), s.hub.live = true → e < 16 → s.hub.unitRuns (engineUnit e) = true →
      (∀ (r : Rmo) (signal : Option FenceRef) (value : Nat), (s.hub.getCtx r.context).st = .active →
        ((s.hub.getEngine e).queued (s.hub.getCtx r.context).slice < s.hub.share (s.hub.getCtx r.context).slice → (s.hub.getEngine e).queue.length < 256 →
          Yields (.transferArrive e r signal value) s fun h0 t =>
            t = { s with hub := withEngine h0 e { s.hub.getEngine e with q := (s.hub.getEngine e).q ++ [{
              issuer := r.issuer, slice := (s.hub.getCtx r.context).slice, context := r.context, tag := r.tag, len := r.len, signal := signal, value := value,
              mode := r.mode, op := r.op.code, level := r.level }] } } ∧
            ∀ x, x ≠ e → t.hub.getEngine x = s.hub.getEngine x) ∧
        (s.hub.share (s.hub.getCtx r.context).slice ≤ (s.hub.getEngine e).queued (s.hub.getCtx r.context).slice →
          Yields (.transferArrive e r signal value) s fun h0 t =>
            countedAlone (engineUnit e) 6 1 s.hub t.hub ∧
            t.hub.getStn (unitStn (engineUnit e)) = { s.hub.getStn (unitStn (engineUnit e)) with
              grain := counted (s.hub.getStn (unitStn (engineUnit e))).grain (unitSub (engineUnit e)) 6 1 } ∧
            t = { s with hub := { h0 with stn := t.hub.stn, reply := s.hub.reply ++ [⟨r.issuer, r.context, r.tag, stFull⟩] } }) ∧
        (∀ (b : Nat) (a q : List Transfer) (x : Transfer), 256 ≤ (s.hub.getEngine e).queue.length →
            (s.hub.getEngine e).queued (s.hub.getCtx r.context).slice < s.hub.share (s.hub.getCtx r.context).slice → s.hub.excess (s.hub.getEngine e) = some b →
            (s.hub.getEngine e).q = a ++ x :: q → x.slice = b → x.started = false → (∀ y ∈ q, ¬ (y.slice = b ∧ y.started = false)) →
          Yields (.transferArrive e r signal value) s fun h0 t =>
            t = { s with hub := withEngine { h0 with
              reply := s.hub.reply ++ [⟨x.issuer, x.context, x.tag, stSlcDisplaced⟩],
              rc := SMap.upd {} s.hub.rc (rcKey 0xB0038 0 16) fun k => { k with new := satAdd 65535 k.new 1, max := 65535 } } e { s.hub.getEngine e with q := a ++ q ++ [{
                issuer := r.issuer, slice := (s.hub.getCtx r.context).slice, context := r.context, tag := r.tag, len := r.len, signal := signal, value := value,
                mode := r.mode, op := r.op.code, level := r.level }] } })) ∧
      (∀ (k : Nat) (a q : List Transfer) (x : Transfer), s.hub.nextTurn e (s.hub.getEngine e) = some k → (s.hub.getEngine e).q = a ++ x :: q →
          (∀ y ∈ a, ¬ (y.slice = k ∧ y.started = false)) → x.slice = k → x.started = false →
        Yields (.transferStart e) s fun h0 t =>
          countedAlone (engineUnit e) 1 1 s.hub t.hub ∧
          t = { s with hub := asideTrace (withEngine h0 e {
            q := a ++ { x with started := true } :: q, turn := k,
            used := if k = (s.hub.getEngine e).turn ∧ (s.hub.getEngine e).used < s.hub.weight k then (s.hub.getEngine e).used + 1 else 1 }) t.hub } ∧
          (plainTrace s.hub (xferEvent e 0 stOk x) → hasRoom s.hub (xferEvent e 0 stOk x) (.xfer 0 x.context x.tag stOk x.len) →
            onePacket s.hub t.hub (xferEvent e 0 stOk x) (.xfer 0 x.context x.tag stOk x.len)
              (counted (s.hub.getStn (unitStn (engineUnit e))).grain (unitSub (engineUnit e)) 1 1))) ∧
      (∀ (c : Nat) (a q : List Transfer) (x : Transfer), (s.hub.getEngine e).q = a ++ x :: q → (∀ y ∈ a, ¬ (y.started = true ∧ y.context = c)) → x.started = true →
          x.context = c →
        (x.signal = none →
          Yields (.transferEnd e c stOk) s fun h0 t =>
            countedAlone (engineUnit e) 2 1 s.hub t.hub ∧
            t = { s with hub := asideTrace (withEngine { h0 with reply := s.hub.reply ++ [⟨x.issuer, c, x.tag, stOk⟩] } e { s.hub.getEngine e with q := a ++ q }) t.hub } ∧
            (plainTrace s.hub (xferEvent e 1 stOk x) → hasRoom s.hub (xferEvent e 1 stOk x) (.xfer 1 c x.tag stOk x.len) →
              onePacket s.hub t.hub (xferEvent e 1 stOk x) (.xfer 1 c x.tag stOk x.len)
                (counted (s.hub.getStn (unitStn (engineUnit e))).grain (unitSub (engineUnit e)) 2 1))) ∧
        (∀ (ref : FenceRef), x.signal = some ref → ref.pkg = s.hub.pkg → s.hub.maySignal ref.id (some x.slice) = true → (s.hub.getFence ref.id).st ≠ .error →
            (s.hub.getFence ref.id).waiters = [] → (s.hub.getFence ref.id).cyc ≠ s.hub.clk.cycle + 1 → ahead64 x.value (s.hub.getFence ref.id).value = true →
          Yields (.transferEnd e c stOk) s fun h0 t =>
            onlyFence ref.id { s.hub.getFence ref.id with
              st := .signalled, value := x.value % 2 ^ 64, base := (s.hub.getFence ref.id).value, baseSt := (s.hub.getFence ref.id).st,
              cyc := s.hub.clk.cycle + 1 } s.hub t.hub ∧
            onlyContext c { s.hub.getCtx c with progress := ((s.hub.getCtx c).progress + 1) % 2 ^ 32 } s.hub t.hub ∧
            onlyGrain (engineUnit e) { s.hub.getGrain (engineUnit e) with
              inc := SMap.upd 0 (s.hub.getGrain (engineUnit e)).inc 2 (· + 1),
              retired := if (s.hub.getGrain (engineUnit e)).cmd.map Prod.fst = some c then 0 else (s.hub.getGrain (engineUnit e)).retired } s.hub t.hub ∧
            t = { s with hub := asideTrace (withEngine { h0 with
              ctx := t.hub.ctx, fence := t.hub.fence, reply := s.hub.reply ++ [⟨x.issuer, c, x.tag, stOk⟩] } e { s.hub.getEngine e with q := a ++ q }) t.hub }) ∧
        (x.signal = none → x.aborting = true →
          Yields (.transferEnd e c stAborted) s fun h0 t =>
            countedAlone (engineUnit e) 3 1 s.hub t.hub ∧ (∀ k, k ≠ x.slice → t.hub.getSlice k = s.hub.getSlice k) ∧
            t = { s with hub := asideTrace { withEngine { h0 with reply := s.hub.reply ++ [⟨x.issuer, c, x.tag, stAborted⟩] } e { s.hub.getEngine e with q := a ++ q } with
              slc := { (withEngine h0 e { s.hub.getEngine e with q := a ++ q }).slc with
                e := SMap.set {} s.hub.slc.e x.slice { s.hub.getSlice x.slice with aborted := (s.hub.getSlice x.slice).aborted + 1 } } } t.hub } ∧
            (plainTrace s.hub (xferEvent e 2 stAborted x) → hasRoom s.hub (xferEvent e 2 stAborted x) (.xfer 2 c x.tag stAborted x.len) →
              onePacket s.hub t.hub (xferEvent e 2 stAborted x) (.xfer 2 c x.tag stAborted x.len)
                (counted (s.hub.getStn (unitStn (engineUnit e))).grain (unitSub (engineUnit e)) 3 1))))) ∧
   (∀ (s : State) (k : Nat), s.hub.live = true → (s.hub.getSlice k).st = .resetting →
      (∀ e, e ∈ (s.hub.getSlice k).engines → (s.hub.getEngine e).held k = 0 →
        Yields (.engineResetReport e k) s fun h0 t =>
          t = { s with hub := withSlice h0 k { s.hub.getSlice k with
            engines := (s.hub.getSlice k).engines.filter (· != e),
            reported := if ((s.hub.getSlice k).engines.filter (· != e)).isEmpty then some s.hub.clk.cycle else none } } ∧
          ∀ x, x ≠ k → t.hub.getSlice x = s.hub.getSlice x) ∧
      ((s.hub.getSlice k).reset + 100000 ≤ s.hub.now → s.hub.classOn 3 = true → s.hub.er.sysq.length < 32 →
        ((∀ e, e < 16 → (s.hub.getEngine e).held k = 0) →
          Yields (.sliceResetTimeout k) s fun h0 t =>
            t = { s with hub := { withSlice h0 k { s.hub.getSlice k with st := .active, engines := [], reported := none } with
              er := { s.hub.er with sysq := s.hub.er.sysq ++ [{ s.hub.evt 3 0x0312 with
                slice := k, aux := (s.hub.getSlice k).cause, arg := (s.hub.getSlice k).reset,
                words := [(s.hub.getSlice k).lostCtx, (s.hub.getSlice k).discarded, (s.hub.getSlice k).aborted, (s.hub.getSlice k).fenceErr,
                  (s.hub.getSlice k).expErr, s.hub.now] }] } } }) ∧
        (∀ (e : Nat) (x : Transfer), e < 16 → (s.hub.getEngine e).q = [x] → x.slice = k → x.signal = none → (∀ d, d < 16 → d ≠ e → (s.hub.getEngine d).held k = 0) →
          Yields (.sliceResetTimeout k) s fun h0 t =>
            countedAlone (engineUnit e) 3 1 s.hub t.hub ∧
            t = { s with hub := asideTrace { h0 with
              reply := s.hub.reply ++ [⟨x.issuer, x.context, x.tag, stAborted⟩],
              slc := { s.hub.slc with
                engine := SMap.set {} s.hub.slc.engine e { s.hub.getEngine e with q := [] },
                e := SMap.set {} s.hub.slc.e k { s.hub.getSlice k with st := .active, engines := [], reported := none, aborted := (s.hub.getSlice k).aborted + 1 } },
              er := { s.hub.er with sysq := s.hub.er.sysq ++ [{ s.hub.evt 3 0x0312 with
                slice := k, aux := (s.hub.getSlice k).cause, arg := (s.hub.getSlice k).reset,
                words := [(s.hub.getSlice k).lostCtx, (s.hub.getSlice k).discarded, (s.hub.getSlice k).aborted + 1, (s.hub.getSlice k).fenceErr,
                  (s.hub.getSlice k).expErr, s.hub.now] }] } } t.hub })))

/-- An epoch boundary is due, and nothing but the Chain's own counts and the drain of the caches follows of itself: no bypass and no ring failure is
due, no new key generation waits, no slice is being destroyed. -/
def Sys2Proof.quietBoundary (h : Hub) : Prop :=
  h.clk.started = true ∧ 4096 ≤ h.clk.epochCycle ∧ (∀ e ∈ h.chain.link, e.2.bypass = .observed → e.2.next = .observed) ∧ h.chain.ringNext = 0 ∧
  (∀ e ∈ h.slc.keys, e.2.next = none) ∧ (∀ e ∈ h.slc.e, e.2.st ≠ .destroying)

/-- The tick of the boundary that is due. -/
def Sys2Proof.boundaryTick (h : Hub) : Nat := h.now - (h.clk.epochCycle - 4096) * h.perCycle

/-- The hub past the boundary, before a commit or a move there: the epoch has advanced, the Chain master has counted acknowledgements, and the
attribution caches have drained. -/
def Sys2Proof.pastBoundary (h : Hub) : Hub :=
  (allStations.filter h.observed).foldl Hub.drainCache
    { h with clk := { h.clk with epoch := h.clk.epoch + 1, epochCycle := h.clk.epochCycle - 4096 } }.chainBoundary

/-- An epoch boundary (R61, R63, R64, R65, R86, R242, R442, R444): the epoch counter advances, each observed station's acknowledgement is counted as
missed or not, the errors of the epoch are counted afresh, and every observed station's attribution cache leaves it; the armed commit makes the staged
copy active and its master's request is over; a unit that was ordered to move and need not wait is of its new slice, its counters sealed and reset,
with record 0x0313, and at the end of the queue vector 15. -/
def Obligations.EpochBoundary : Prop :=
  ∀ (s : State), s.hub.live = true → quietBoundary s.hub →
    (s.hub.chain.cur = none → s.hub.slc.ordersEpoch ≠ s.hub.clk.epoch + 1 →
      Yields .epochBoundary s fun h0 t =>
        t.hub.clk = { s.hub.clk with epoch := s.hub.clk.epoch + 1, epochCycle := s.hub.clk.epochCycle - 4096 } ∧
        (∀ x, t.hub.getLink x = if s.hub.observed x then (s.hub.getLink x).boundary else if stnOk x then { s.hub.getLink x with errFlits := 0 } else s.hub.getLink x) ∧
        (∀ x, t.hub.getStn x = if s.hub.observed x then { s.hub.getStn x with cache := [] } else s.hub.getStn x) ∧
        t = { s with hub := { h0 with
          clk := t.hub.clk, stn := t.hub.stn,
          chain := { s.hub.chain with
            link := t.hub.chain.link, ringLate := [], ringMiss := s.hub.chain.ringMiss.filter fun e => s.hub.chain.ringLate.contains e.1 },
          cnt := { s.hub.cnt with flits := s.hub.cnt.flits ++ (allStations.filter s.hub.observed).flatMap fun x => (s.hub.getStn x).cache } } }) ∧
    (∀ (c : Commit) (m : Master) (r : Rws), s.hub.chain.cur = some c → c.effective = some (s.hub.clk.epoch + 1) → c.owner = .master m →
        s.hub.slc.ordersEpoch ≠ s.hub.clk.epoch + 1 → s.hub.rws = [(0x100, r)] → r.st = .staged → (∀ x k, (s.hub.getSrc x k).st = .off) →
      Yields .epochBoundary s fun h0 t =>
        t.hub.rwsGet 0x800000FA 0x100 = { r with active := r.staged, st := .clean } ∧ (∀ d k, k ≠ 0x100 → t.hub.rwsGet d k = s.hub.rwsGet d k) ∧
        t.hub.chain.cur = none ∧ t.hub.getStat m = { s.hub.getStat m with pending := false, epoch := s.hub.clk.epoch + 1 } ∧
        t.hub.clk.epoch = s.hub.clk.epoch + 1 ∧
        t = lands s (({ (pastBoundary h0).activate.afterActivate (pastBoundary h0) (boundaryTick s.hub) with
          chain := { (pastBoundary h0).chain with cur := none } }).commitDone c (boundaryTick s.hub))) ∧
    (∀ (u k : Nat), s.hub.chain.cur = none → s.hub.slc.moves = [(u, k)] → s.hub.slc.orders = [u] → s.hub.slc.ordersEpoch = s.hub.clk.epoch + 1 →
        (s.hub.getSlice k).st = .active → s.hub.moveDeferred u = false → unitOk u = true → s.hub.unitSlice u < 64 → s.hub.classOn 3 = true → s.hub.er.sysq.length < 32 →
      Yields .epochBoundary s fun h0 t =>
        t.hub.unitSlice u = k ∧ (∀ v, v ≠ u → t.hub.unitSlice v = s.hub.unitSlice v) ∧
        (t.hub.getGrain u).resetNow = 255 ∧ (t.hub.getGrain u).joined = s.hub.clk.cycle + 1 ∧ bit t.hub.irq.status 15 = true ∧
        t.hub.cnt.seals = s.hub.cnt.seals ++ [⟨s.hub.unitSlice u, boundaryTick s.hub, (s.hub.getKeys (s.hub.unitSlice u)).cur.counter, s.hub.cnt.seq,
          [{ s.hub.capture u with bnd := 255 }]⟩] ∧
        (∃ r, t.hub.er = { s.hub.er with sysq := s.hub.er.sysq ++ [r] } ∧ r.cls = 3 ∧ r.code = 0x0313 ∧ r.unit = unitStn u * 8 ∧ r.slice = k ∧
          r.arg = boundaryTick s.hub ∧ r.aux = 2 ^ unitSub u) ∧
        t = { s with hub := ({ (pastBoundary h0).moveUnits (boundaryTick s.hub) [(u, k)] [] with
          slc := { ((pastBoundary h0).moveUnits (boundaryTick s.hub) [(u, k)] []).slc with moves := [], orders := [], moveStatus := stOk } } : Hub).irqRaise 15 })

/-! ## Power, clocks and time (chapters 02, 04 and 18) -/

/-- The hub with station `n` as `x`. -/
def Sys2Proof.withStation (h : Hub) (n : Nat) (x : Stn) : Hub := { h with stn := SMap.set {} h.stn n x }

/-- No trace source is on and no wait stands still with its unit: units sleep and wake without a packet. -/
def Sys2Proof.quietSleep (h : Hub) : Prop := (∀ x k, (h.getSrc x k).st = .off) ∧ ∀ x, (h.getStn x).thaw = []

/-- Sleep and rails (R48, R51, R184, R509, R517): a tile's power and a gateable clock domain go and come back, and its units sleep and wake; whatever
is traced then, a tile's sleep touches its own Perch's trace alone, and one without a running source has no packet; a rail's fall below nominal starts
its microsecond, a return ends it, and a collapse is the compute side's end, kept with its tick; what routers and links held is lost. The clock
monitor (R74, R126): a window of 634 to 646 hub cycles changes nothing; one outside, or the loss of lock, puts the hub on the board reference for
good: record 0x0704, attention reason 6, every unit asleep. -/
def Obligations.SleepRailsAndClocks : Prop :=
   (∀ (s : State), s.hub.live = true →
      (∀ u, unitOk u = true → s.hub.boot.units = true → isTileUnit u = true →
        ((s.hub.getStn (unitStn u)).powerGated = false →
          Yields (.unitSleep u .power) s fun h0 t =>
            stnCore (t.hub.getStn (unitStn u)) = stnCore { s.hub.getStn (unitStn u) with powerGated := true } ∧ t.hub.asleep u = true ∧
            onlyStation (unitStn u) s.hub t.hub ∧ t = { s with hub := asideTrace h0 t.hub } ∧
            (quietSleep s.hub → t = { s with hub := withStation h0 (unitStn u) { s.hub.getStn (unitStn u) with powerGated := true } })) ∧
        ((s.hub.getStn (unitStn u)).powerGated = true → quietSleep s.hub →
          Yields (.unitWake u .power) s fun h0 t =>
            t = { s with hub := withStation h0 (unitStn u) { s.hub.getStn (unitStn u) with powerGated := false } })) ∧
      (∀ d, domainGateable d = true → bit s.hub.boot.domains d = true → (d < 25 → s.hub.boot.units = true) → quietSleep s.hub →
        (bit s.hub.gated d = false →
          Yields (.unitSleep d .clock) s fun h0 t =>
            (∀ u, unitOk u = true → unitDomain u = d → t.hub.asleep u = true) ∧
            (∀ x, t.hub.getStn x = if x ∈ domainStations d then
              { s.hub.getStn x with clkGated := (s.hub.getStn x).clkGated ||| domainSubs x d } else s.hub.getStn x) ∧
            t = { s with hub := { h0 with stn := t.hub.stn, gated := s.hub.gated ||| 2 ^ d } }) ∧
        (bit s.hub.gated d = true →
          Yields (.unitWake d .clock) s fun h0 t =>
            (∀ u, unitOk u = true → unitDomain u = d → bit (t.hub.getStn (unitStn u)).clkGated (unitSub u) = false) ∧
            (∀ x, t.hub.getStn x = if x ∈ domainStations d then
              { s.hub.getStn x with clkGated := clearBits (s.hub.getStn x).clkGated (domainSubs x d) } else s.hub.getStn x) ∧
            t = { s with hub := { h0 with stn := t.hub.stn, gated := clearBits s.hub.gated (2 ^ d) } })) ∧
      (s.hub.rail.low = none →
        Yields .railBelowNominal s fun h0 t => t = { s with hub := { h0 with rail := { s.hub.rail with low := some s.hub.clk.realNs } } }) ∧
      Yields .railRestored s (fun h0 t => t = { s with hub := { h0 with rail := { s.hub.rail with low := none } } }) ∧
      (∀ n, s.hub.rail.low = some n → s.hub.rail.collapsed = false → n + 1000 ≤ s.hub.clk.realNs → quietSleep s.hub → s.hub.dmp.st = .idle → s.hub.dmp.fires = [] →
          (∀ b, b < 4 → (SMap.get {} s.hub.ce.bank b).owner = none) → s.hub.fwRuns = false →
        Yields .railCollapse s fun h0 t =>
          (∀ u, t.hub.asleep u = true) ∧
          (∀ x, t.hub.getStn x = { s.hub.getStn x with cap := { (s.hub.getStn x).cap with held := [] } }) ∧
          t = { s with hub := { h0 with
            stn := t.hub.stn, rail := { s.hub.rail with collapsed := true, tick := s.hub.now }, fwDue := s.hub.fwDue ++ [0x1810], hang := { s.hub.hang with dieWaiting := true } } })) ∧
   (∀ (s : State) (n : Nat), s.hub.live = true → s.hub.clk.monitorArmed = true →
      (634 ≤ n → n ≤ 646 → Yields (.clockMonitorWindow n) s fun h0 t => t = { s with hub := h0 }) ∧
      (∀ (c : Instr) (loss : Bool), (c = .clockMonitorWindow n ∧ (n < 634 ∨ 646 < n) ∧ loss = false ∨ c = .pllLossOfLock n ∧ loss = true) → quietSleep s.hub →
          s.hub.dmp.st = .idle → s.hub.dmp.fires = [] → (∀ b, b < 4 → (SMap.get {} s.hub.ce.bank b).owner = none) → s.hub.boot.phase = 11 → s.hub.fwRuns = false →
          s.hub.er.sysq.length < 32 →
        Yields c s fun h0 t =>
          (∀ u, t.hub.asleep u = true) ∧
          t = { s with hub := { h0 with
            clk := { s.hub.clk with
              onPll := false, monitorArmed := false, fallback := true, pllLoss := true, fbTick := if s.hub.clk.started = true then s.hub.now + 10 else 0 },
            cyc := { s.hub.cyc with pllLoss := true, attn := s.hub.cyc.attn ||| 2 ^ 6 },
            span := { s.hub.span with attn := s.hub.span.attn ||| 2 ^ 6 },
            hang := { s.hub.hang with dieWaiting := true },
            er := { s.hub.er with sysq := s.hub.er.sysq ++ [{ s.hub.evt 7 0x0704 with
              aux := Nat.min 65535 n + if loss = true then 65536 else 0, arg := if s.hub.clk.started = true then s.hub.now + 10 else 0 }] } } }))

/-- The clock-set record of the calendar set that is due (R137, Table 12.3). -/
def Sys2Proof.clockSetOf (h : Hub) : Req :=
  { cls := 8, code := 0x0804, tick := h.cal.applyAt, origin := h.cal.by_, arg := h.cal.value,
    words := [h.cal.offset, (h.cal.value + 2 ^ 64 - h.cal.applyAt % 2 ^ 64) % 2 ^ 64,
      (if h.cal.gen = 0xFFFF then 1 else h.cal.gen + 1) +
        if ahead64 h.cal.offset ((h.cal.value + 2 ^ 64 - h.cal.applyAt % 2 ^ 64) % 2 ^ 64) = true then 65536 else 0] }

/-- Timebases and marks (R130, R131, R138, R142 to R145): the start flit loads a station's copy with its compensation; a check flit sets what the copy
has still to correct, counts it and names the station, and beyond 8 ticks asks for record 0x0705; a due mark goes out on its link, stamped with the
link's next MSN; one received is stamped, is an item of source 5 and, unless a later one of the same tick came before it, loads the exchange's
registers; a trained link numbers from 0, with a resync item in its report stream. A calendar set takes effect at its tick (R134, R137, R393, R395):
the offset is the value minus the apply tick, the generation is the next one that is not 0, and the hub cycle's commits keep the old ones; the
clock-set record, if the audit rules accept it, takes the next commit, and is counted as not written if they do not. -/
def Obligations.TimebaseMarksAndCalendar : Prop :=
   (∀ (s : State) (n : Nat), s.hub.live = true →
      (s.hub.clk.started = true → s.hub.observed n = true → (s.hub.getStn n).tbOn = false →
        Yields (.timebaseStartFlit n) s fun h0 t =>
          t.hub.stnTick n = (s.hub.getStn n).comp * s.hub.perCycle % 2 ^ 64 ∧
          t = { s with hub := withStation h0 n { s.hub.getStn n with
            tbOn := true, tbLead := ((s.hub.getStn n).comp * s.hub.perCycle : Nat) - (s.hub.now : Int) } }) ∧
      (∀ v, s.hub.clk.started = true → s.hub.observed n = true → (s.hub.getStn n).tbOn = true → s.hub.clk.epoch % 256 = 0 → s.hub.tbError n v ≠ 0 →
        ((s.hub.tbError n v).natAbs ≤ 8 →
          Yields (.timebaseCheckFlit n v) s fun h0 t =>
            t = { s with hub := { withStation h0 n { s.hub.getStn n with tbErr := s.hub.tbError n v } with
              rc := ((h0.rcAdd 0x1003C 0 20 4095 1).rcPeak 0x1003C 0 16 15 (s.hub.tbError n v).natAbs).rc, cal := { s.hub.cal with lastSkew := n } } }) ∧
        (8 < (s.hub.tbError n v).natAbs → s.hub.er.sysq.length < 32 →
          Yields (.timebaseCheckFlit n v) s fun h0 t =>
            t = { s with hub := { withStation h0 n { s.hub.getStn n with tbErr := s.hub.tbError n v } with
              rc := ((h0.rcAdd 0x1003C 0 20 4095 1).rcPeak 0x1003C 0 16 15 (s.hub.tbError n v).natAbs).rc, cal := { s.hub.cal with lastSkew := n },
              er := { s.hub.er with sysq := s.hub.er.sysq ++ [{ s.hub.evt 7 0x0705 with unit := n * 8, arg := (s.hub.tbError n v % 2 ^ 64).toNat }] } } })) ∧
      (isLinkStn n = true → s.hub.boot.units = true → s.hub.observed n = true → (s.hub.getStn n).mark.trained = true → (s.hub.getStn n).tbOn = true →
          bit (s.hub.rwGet 0x80000014 0x10038 0) 31 = true → s.hub.nocUp = true → (s.hub.getStn n).mark.next ≤ s.hub.stnTick n →
        Yields (.timeMarkSend n) s fun h0 t =>
          t = { s with hub := { withStation h0 n { s.hub.getStn n with mark := { (s.hub.getStn n).mark with
              tx := s.hub.stnTick n, msnOut := ((s.hub.getStn n).mark.msnOut + 1) % 65536,
              next := if (s.hub.getStn n).mark.next + 2 ^ field (s.hub.rwGet 0x80000014 0x10038 0) 4 0 ≤ s.hub.stnTick n
                then s.hub.stnTick n + 2 ^ field (s.hub.rwGet 0x80000014 0x10038 0) 4 0
                else (s.hub.getStn n).mark.next + 2 ^ field (s.hub.rwGet 0x80000014 0x10038 0) 4 0 } } with
            tx := s.hub.tx ++ [⟨n - 1072, markBytes s.hub.pkg (n - 1072) (s.hub.getStn n).mark.msnOut (s.hub.stnTick n)
              (if (s.hub.getStn n).mark.valid = true then (s.hub.getStn n).mark.rxPeer else 0)
              (if (s.hub.getStn n).mark.valid = true then (s.hub.getStn n).mark.rxLocal else 0)⟩],
            stamps := s.hub.stamps ++ [{ station := n, sent := true, msn := (s.hub.getStn n).mark.msnOut, tick := s.hub.stnTick n }] } }) ∧
      (∀ b : List Byte, isLinkStn n = true → s.hub.boot.units = true → (s.hub.getStn n).mark.trained = true → s.hub.nocUp = true → b.length = 64 → leAt b 0 1 = 0x20 →
        ((s.hub.getStn n).mark.valid = false ∨ (s.hub.getStn n).mark.rxLocal ≠ s.hub.stnTick n ∨ msnAfter (leAt b 4 2) (s.hub.getStn n).mark.msn = true →
          Yields (.timeMarkReceive n b) s fun h0 t =>
            t = { s with hub := { withStation h0 n { s.hub.getStn n with mark := { (s.hub.getStn n).mark with
                valid := true, peerPkg := leAt b 2 2 % 1024, peerLink := leAt b 2 2 / 1024 % 32, msn := leAt b 4 2, rxPeer := leAt b 8 8,
                rxLocal := s.hub.stnTick n, echoTx := leAt b 16 8, echoRx := leAt b 24 8, seq5 := ((s.hub.getStn n).mark.seq5 + 1) % 2 ^ 32,
                msnIn := (leAt b 4 2 + 1) % 65536 } } with
              items := t.hub.items, stamps := t.hub.stamps } }) ∧
        ((s.hub.getStn n).mark.valid = true → (s.hub.getStn n).mark.rxLocal = s.hub.stnTick n → msnAfter (leAt b 4 2) (s.hub.getStn n).mark.msn = false →
          Yields (.timeMarkReceive n b) s fun h0 t =>
            t = { s with hub := { withStation h0 n { s.hub.getStn n with mark := { (s.hub.getStn n).mark with
                seq5 := ((s.hub.getStn n).mark.seq5 + 1) % 2 ^ 32, msnIn := (leAt b 4 2 + 1) % 65536 } } with
              items := t.hub.items, stamps := t.hub.stamps } }) ∧
        Yields (.timeMarkReceive n b) s fun h0 t =>
          t.hub.items = s.hub.items ++ [{
            src := n * 8 + 5, seq := (s.hub.getStn n).mark.seq5, tick := s.hub.stnTick n, kind := .timeMark,
            data := [leAt b 2 2 % 1024, leAt b 2 2 / 1024 % 32, leAt b 4 2, leAt b 8 8, leAt b 16 8, leAt b 24 8] }] ∧
          t.hub.stamps = s.hub.stamps ++ [{ station := n, sent := false, msn := leAt b 4 2 % 65536, tick := s.hub.stnTick n }] ∧
          onlyStation n s.hub t.hub ∧ t = { s with hub := { h0 with stn := t.hub.stn, items := t.hub.items, stamps := t.hub.stamps } }) ∧
      (isLinkStn n = true → s.hub.boot.units = true →
        Yields (.linkRetrain n) s fun h0 t =>
          t = { s with hub := { withStation h0 n { s.hub.getStn n with
              reportSeq := ((s.hub.getStn n).reportSeq + 1) % 2 ^ 32,
              mark := { (s.hub.getStn n).mark with trained := true, valid := false, msnOut := 0, msnIn := 0 } } with
            items := s.hub.items ++ [{ src := n * 8 + 4, seq := (s.hub.getStn n).reportSeq, tick := s.hub.stnTick n, kind := .resync, data := [] }] } })) ∧
   (∀ (s : State), s.hub.live = true → s.hub.cal.pending = true → s.hub.cal.applyAt ≤ s.hub.now →
      Yields .calendarApply s fun h0 t =>
        (s.hub.er.chainStarted = true → s.hub.er.gap.pending = false → s.hub.er.auditLoad < 511 → s.hub.er.sysq.length < 32 →
          t.hub.er = { s.hub.er with clockSet := s.hub.er.clockSet ++ [clockSetOf s.hub] }) ∧
        (s.hub.er.chainStarted = false ∨ s.hub.er.gap.pending = true ∨ 511 ≤ s.hub.er.auditLoad ∨ 32 ≤ s.hub.er.sysq.length →
          t.hub.er = s.hub.er.auditGap (clockSetOf s.hub)) ∧
        t = { s with hub := { h0 with
          er := t.hub.er,
          cal := { s.hub.cal with
            valid := true, pending := false, offset := (s.hub.cal.value + 2 ^ 64 - s.hub.cal.applyAt % 2 ^ 64) % 2 ^ 64,
            gen := if s.hub.cal.gen = 0xFFFF then 1 else s.hub.cal.gen + 1, setCyc := s.hub.clk.cycle + 1, oldOffset := s.hub.cal.offset, oldGen := s.hub.cal.gen } } })

/-! ## The assize loader (chapter 03) -/

/-- The loader at the end of a load that fails with a status (R106, Table 03.8). -/
def Sys2Proof.failedLdr (h : Hub) (status : Nat) (l : Ldr) : Ldr :=
  { l with st := .failed, status := status, endNs := h.clk.realNs, toVerify := [], cand := {} }

/-- The hub after a load has ended at the loader `l` while bring-up stands in ASSIZE: AWAIT with the status, and attention reason 0; the record of the
load follows `e` (R106, Table 03.1). -/
def Sys2Proof.backToAwait (h : Hub) (l : Ldr) (e : Er) : Hub :=
  { h with
    ldr := l, er := e.audit { h with ldr := l }.loadRecord,
    boot := { h.boot with phase := 5, since := h.clk.realNs, status := l.status, section_ := l.section_, imemValid := false },
    span := { h.span with attn := h.span.attn ||| 2 ^ 0 }, cyc := { h.cyc with attn := h.cyc.attn ||| 2 ^ 0 } }

/-- The hub after a load has ended at the loader `l` on a running die: the loader, and the record of the load. -/
def Sys2Proof.endsLoad (h : Hub) (l : Ldr) : Hub := { h with ldr := l, er := h.er.audit { h with ldr := l }.loadRecord }

/-- The course of a load (R99 to R107, R110, R111, R113): a start in AWAIT takes the loader, one while it is taken reports ST_BUSY; the owner's words
are gathered, any other master's are dropped; a stream header that checks opens the sections, one with another mark, or in modes 1 and 2 with another
die's die_id, ends the load with ST_ASZ_FORMAT; an abort ends it with ST_ABORTED; a section that verifies joins what the load will install, one whose
signature does not verify ends the load with ST_BADSIG; a whole stream in mode 0 installs keys, identity and image and starts the controller pair in
FWSTART, in mode 1 it installs the slice's section and asks for its commit, in mode 2 the restart goes on with the new image; a reload commits its
slice; 100 ms without a word ends a load; 1 ms after its end the loader is idle. -/
def Obligations.LoaderCourse : Prop :=
  ∀ (s : State) (m : Master), s.hub.live = true →
    ((m = .host ∨ m = .span) → s.hub.reaches m = true → s.hub.boot.phase = 5 → s.hub.rst.st = 0 → s.hub.ldr.st = .idle → s.hub.ldr.reserved = none →
      Yields (.aszStart m) s fun h0 t =>
        t = wrote s m 0x64 (2 ^ 31) { h0 with
          boot := { s.hub.boot with phase := 6, since := s.hub.clk.realNs },
          ldr := { s.hub.ldr with
            result := SMap.set 0 s.hub.ldr.result m.idx stOk, st := .header, owner := some m, mode := 0, section_ := 0, count := 0, buf := [], need := 64,
            length := 0, sectionCount := 0, dieId := [], types := [], targets := [], cur := {}, toVerify := [], cand := {}, lastNs := s.hub.clk.realNs } }) ∧
    ((m = .host ∨ m = .span) → s.hub.reaches m = true → s.hub.aszMay m = true → s.hub.ldr.st ≠ .idle →
      Yields (.aszStart m) s fun h0 t =>
        t = wrote s m 0x64 (2 ^ 31) { h0 with ldr := { s.hub.ldr with result := SMap.set 0 s.hub.ldr.result m.idx stBusy } }) ∧
    (∀ w : Nat, w < 2 ^ 32 → s.hub.reaches m = true → s.hub.ldr.owner ≠ some m →
      Yields (.aszDataWrite m w) s fun h0 t => t = wroteQuiet s m h0) ∧
    (∀ w : Nat, w < 2 ^ 32 → s.hub.reaches m = true → s.hub.ldr.owner = some m → s.hub.ldr.st = .payload → leAt s.hub.ldr.cur.hdr 0 2 ≠ 3 →
        s.hub.ldr.buf.length + 4 < s.hub.ldr.need → s.hub.ldr.count + 4 ≤ s.hub.ldr.length →
      Yields (.aszDataWrite m w) s fun h0 t =>
        t = wroteQuiet s m { h0 with
          ldr := { s.hub.ldr with count := s.hub.ldr.count + 4, lastNs := s.hub.clk.realNs, buf := s.hub.ldr.buf ++ leBytes 4 w } }) ∧
    (∀ (w : Nat) (b : List Byte), w < 2 ^ 32 → s.hub.reaches m = true → s.hub.ldr.owner = some m → s.hub.ldr.st = .header → s.hub.ldr.buf.length = 60 →
        s.hub.ldr.need = 64 → b = s.hub.ldr.buf ++ leBytes 4 w →
      (s.hub.boot.phase = 6 → leAt b 0 4 = 0x335A5341 → leAt b 4 2 = 1 → leAt b 6 2 = 0 → leAt b 8 8 % 8 = 0 → 64 ≤ leAt b 8 8 → zeroAt b 0x12 14 = true →
          zeroAt b 0x30 16 = true →
        Yields (.aszDataWrite m w) s fun h0 t =>
          t = wroteQuiet s m { h0 with
            ldr := { s.hub.ldr with
              st := .section_, mode := 0, count := s.hub.ldr.count + 4, lastNs := s.hub.clk.realNs, length := leAt b 8 8, sectionCount := leAt b 0x10 2,
              dieId := slice b 0x20 16, need := 32, buf := [] } }) ∧
      (s.hub.boot.phase = 6 → leAt b 0 4 ≠ 0x335A5341 →
        Yields (.aszDataWrite m w) s fun h0 t =>
          t = wroteQuiet s m (backToAwait h0 (failedLdr s.hub stAszFormat { s.hub.ldr with
            mode := if leAt b 6 2 ≤ 2 then leAt b 6 2 else s.hub.ldr.mode, count := s.hub.ldr.count + 4, lastNs := s.hub.clk.realNs, buf := b,
            section_ := 0 }) s.hub.er)) ∧
      (s.hub.boot.phase = 11 → s.hub.rst.st = 0 → leAt b 6 2 = 1 → zeroAt (slice b 0x20 16) 0 16 = false → slice b 0x20 16 ≠ s.hub.boot.dieId →
        Yields (.aszDataWrite m w) s fun h0 t =>
          t = wroteQuiet s m (endsLoad h0 (failedLdr s.hub stAszFormat { s.hub.ldr with
            mode := 1, count := s.hub.ldr.count + 4, lastNs := s.hub.clk.realNs, buf := b, section_ := 0 })))) ∧
    ((m = .host ∨ m = .span) → s.hub.reaches m = true → s.hub.ldr.owner = some m → s.hub.loading = true → s.hub.boot.phase = 6 →
      Yields (.aszAbort m) s fun h0 t =>
        t = wroteQuiet s m (backToAwait h0 (failedLdr s.hub stAborted s.hub.ldr) (roleEr s.hub m 0x64 (2 ^ 30)))) ∧
    (∀ (x : Section) (q : List Section) (key : List Byte) (c : Cand), s.hub.ldr.toVerify = x :: q →
        s.hub.signerKey (leAt x.hdr 0 2) x.body = (stOk, key) → Config.ecdsaVerify key (sha384 (x.hdr ++ x.body)) (padTo 96 x.sig) = true →
        s.hub.takeSection x (x.record (sha384 (x.hdr ++ x.body))) = (stOk, c) →
      Yields .aszSectionVerified s fun h0 t => t = { s with hub := { h0 with ldr := { s.hub.ldr with toVerify := q, cand := c } } }) ∧
    (∀ (x : Section) (q : List Section) (key : List Byte), s.hub.ldr.toVerify = x :: q → s.hub.boot.phase = 11 → s.hub.rst.st = 0 →
        s.hub.signerKey (leAt x.hdr 0 2) x.body = (stOk, key) → Config.ecdsaVerify key (sha384 (x.hdr ++ x.body)) (padTo 96 x.sig) = false →
      Yields .aszSectionVerified s fun h0 t => t = { s with hub := endsLoad h0 (failedLdr s.hub stBadsig { s.hub.ldr with section_ := x.index }) }) ∧
    (s.hub.ldr.st = .check → s.hub.ldr.toVerify = [] →
      (s.hub.ldr.checkStatus = stOk → s.hub.ldr.mode = 0 → s.hub.ldr.cand.slices = [] →
        Yields .aszLoadDone s fun h0 t =>
          t.hub.boot = { s.hub.boot with
            phase := 7, since := s.hub.clk.realNs, keys := s.hub.ldr.cand.keys, dieId := s.hub.ldr.cand.dieId, diePub := s.hub.ldr.cand.diePub,
            diePriv := s.hub.ldr.cand.diePriv, rootKey := s.hub.ldr.cand.rootKey, identity := true, pkg := s.hub.ldr.cand.pkg, pkgValid := true,
            tunBase := s.hub.ldr.cand.tunBase, tunSize := s.hub.ldr.cand.tunSize, recs := s.hub.ldr.cand.recs, imemValid := true, imemBad := false,
            entry := s.hub.ldr.cand.entry, imageHash := s.hub.boot.imemHash, writes := s.hub.ldr.cand.writes, pairRunning := true, mismatches := 0, dmem := [] } ∧
          t.hub.ldr = { s.hub.ldr with st := .done, status := stOk, endNs := s.hub.clk.realNs, cand := {} } ∧
          t = { s with hub := { h0 with ldr := t.hub.ldr, boot := t.hub.boot, rst := { s.hub.rst with st := 0 }, er := s.hub.er.audit t.hub.loadRecord } }) ∧
      (∀ (k : Nat) (r : SecRec) (ws : List (Nat × Nat)), s.hub.ldr.checkStatus = stOk → s.hub.ldr.mode = 1 → s.hub.ldr.cand.slices = [(k, r, ws)] →
          s.hub.ldr.cand.consent = [] → s.hub.sliceExists k = true →
        Yields .aszLoadDone s fun h0 t =>
          t.hub.getKeys k = { s.hub.getKeys k with section_ := r } ∧ (∀ j, j ≠ k → t.hub.getKeys j = s.hub.getKeys j) ∧
          t.hub.ldr = { s.hub.ldr with st := .done, status := stOk, endNs := s.hub.clk.realNs, cand := {}, reload := s.hub.ldr.reload ++ [k] } ∧
          t = { s with hub := { ({ h0 with slc := { s.hub.slc with keys := t.hub.slc.keys } } : Hub).applyWrites ws with
            ldr := t.hub.ldr,
            er := Er.audit (({ h0 with slc := { s.hub.slc with keys := t.hub.slc.keys } } : Hub).applyWrites ws).er t.hub.loadRecord } }) ∧
      (s.hub.ldr.checkStatus = stOk → s.hub.ldr.mode = 2 → s.hub.rst.st = 2 →
        Yields .aszLoadDone s fun h0 t =>
          t.hub.boot = { s.hub.boot with
            imemValid := true, imemBad := false, entry := s.hub.ldr.cand.entry, imageHash := s.hub.boot.imemHash,
            recs := SMap.set {} s.hub.boot.recs 3 (SMap.get {} s.hub.ldr.cand.recs 3) } ∧
          t.hub.ldr = { s.hub.ldr with st := .done, status := stOk, endNs := s.hub.clk.realNs, cand := {}, reserved := none } ∧
          t = { s with hub := { h0 with
            ldr := t.hub.ldr, boot := t.hub.boot, rst := { s.hub.rst with st := 1, hashed := false, started := false }, er := s.hub.er.audit t.hub.loadRecord } }) ∧
      (s.hub.ldr.checkStatus ≠ stOk → s.hub.boot.phase = 11 → s.hub.rst.st = 0 →
        Yields .aszLoadDone s fun h0 t => t = { s with hub := endsLoad h0 (failedLdr s.hub s.hub.ldr.checkStatus s.hub.ldr) })) ∧
    (∀ (k : Nat) (q : List Nat), s.hub.ldr.reload = k :: q → (s.hub.getStat .loader).pending = false → s.hub.sliceExists k = true →
      Yields .reloadCommit s fun h0 t =>
        t.hub.getStat .loader = { s.hub.getStat .loader with pending := true } ∧ (∀ x : Master, x ≠ .loader → t.hub.getStat x = s.hub.getStat x) ∧
        t = { s with hub := { h0 with
          ldr := { s.hub.ldr with reload := q },
          chain := { s.hub.chain with queue := s.hub.chain.queue ++ [{ owner := .master .loader, scope := 1, target := k }], stat := t.hub.chain.stat } } }) ∧
    ((s.hub.ldr.st = .header ∨ s.hub.ldr.st = .section_ ∨ s.hub.ldr.st = .payload) → s.hub.ldr.lastNs + 100000000 ≤ s.hub.clk.realNs → s.hub.boot.phase = 11 →
        s.hub.rst.st = 0 →
      Yields .aszTimeout s fun h0 t => t = { s with hub := endsLoad h0 (failedLdr s.hub stTimeout s.hub.ldr) }) ∧
    ((s.hub.ldr.st = .done ∨ s.hub.ldr.st = .failed) → s.hub.ldr.endNs + 1000000 ≤ s.hub.clk.realNs →
      Yields .aszIdleReturn s fun h0 t => t = { s with hub := { h0 with ldr := { s.hub.ldr with st := .idle, owner := none } } })

/-! ## Bring-up and the warm restart (chapter 03) -/

/-- The hub with attention reason `n` set (R470). -/
def Sys2Proof.withAttn (h : Hub) (n : Nat) : Hub :=
  { h with span := { h.span with attn := h.span.attn ||| 2 ^ n }, cyc := { h.cyc with attn := h.cyc.attn ||| 2 ^ n } }

/-- The hub after bring-up has halted with a status: the pair stops, attention reason 1 is set and, where the endpoint is up, vector 0 (Table 03.1). -/
def Sys2Proof.haltedAs (h : Hub) (status : Nat) : Hub :=
  let g := withAttn { h with boot := { h.boot with phase := 13, since := h.clk.realNs, status := status, section_ := 0, pairRunning := false } } 1
  if h.endpointUp = true then g.irqRaise 0 else g

/-- The bring-up sequencer (Table 03.1): each phase ends with its event and the next is entered, or bring-up halts; the pair stops with HALTED and
attention reason 1 is set. The nonces are drawn in SELFTEST, the audit chain's first record is asked for with CHAIN, a trained station takes its
compensation and an untrained one is bypassed with record 0x0702, HUB_FW_READY in FWSTART starts the timebase, makes the load's writes and asks for
the commit of the configuration, the Tun header is written in HBM, and RUNNING begins with slice 0. A released Firkin core is marked so, with audit
record 0x0808. -/
def Obligations.BringUp : Prop :=
  ∀ s : State, s.hub.live = true →
    (s.hub.boot.phase = 1 →
      Yields .pllLock s fun h0 t =>
        t = { s with hub := { h0 with
          clk := { s.hub.clk with onPll := true, monitorArmed := true }, boot := { s.hub.boot with phase := 2, since := s.hub.clk.realNs } } }) ∧
    (s.hub.boot.phase = 1 → 1000000 ≤ s.hub.clk.realNs → Yields .pllLockTimeout s fun h0 t => t = { s with hub := haltedAs h0 stBuPll }) ∧
    (s.hub.boot.phase = 2 →
      Yields (.selftestDone true) s fun h0 t =>
        t.hub.er.chainNonce = (List.range 32).map (fun i => Config.drbg (s.hub.sec.drbg + 32 + i)) ∧
        t.hub.getSecM .host = { s.hub.getSecM .host with nonce := (List.range 16).map fun i => Config.drbg (s.hub.sec.drbg + i) } ∧
        t.hub.getSecM .span = { s.hub.getSecM .span with nonce := (List.range 16).map fun i => Config.drbg (s.hub.sec.drbg + 16 + i) } ∧
        (∀ m : Master, m ≠ .host → m ≠ .span → t.hub.getSecM m = s.hub.getSecM m) ∧
        t = { s with hub := { h0 with
          boot := { s.hub.boot with phase := 3, since := s.hub.clk.realNs, kept := s.hub.firkinHeld s.mem },
          er := { s.hub.er with chainNonce := t.hub.er.chainNonce }, sec := { s.hub.sec with m := t.hub.sec.m, drbg := s.hub.sec.drbg + 64 } } }) ∧
    (s.hub.boot.phase = 2 → Yields (.selftestDone false) s fun h0 t => t = { s with hub := haltedAs h0 stBuSelftest }) ∧
    (∀ b : List Byte, s.hub.boot.phase = 3 →
      Yields (.pufCaptureDone b) s fun h0 t =>
        t = { s with hub := { h0 with
          boot := { s.hub.boot with phase := 4, since := s.hub.clk.realNs, puf := b },
          er := { s.hub.er with
            chainStarted := true, spillLink := sha384 (ascii "CLOIR-AUDIT" ++ padTo 32 s.hub.er.chainNonce),
            sysq := s.hub.er.sysq ++ [{ s.hub.evt 8 0x0801 with
              words := (List.range 4).map (fun i => leAt (padTo 32 s.hub.er.chainNonce) (8 * i) 8) ++
                (List.range 5).map fun o => SMap.get 0 s.hub.er.preGap o }] } } }) ∧
    (s.hub.boot.phase = 4 → s.hub.chain.ringBad = 0 →
      Yields (.chainTrainingDone [] []) s fun h0 t =>
        (∀ x : Nat, x < 1184 → t.hub.getStn x = { s.hub.getStn x with compA := 30 + 2 * stnPos x, compB := 176 - 2 * stnPos x, compDesign := false, compRing := 0 }) ∧
        (∀ x : Nat, 1184 ≤ x → t.hub.getStn x = s.hub.getStn x) ∧
        t = { s with hub := withAttn { h0 with
          stn := t.hub.stn,
          boot := { s.hub.boot with phase := 5, since := s.hub.clk.realNs, domains := s.hub.boot.domains ||| 2 ^ 25, endpoint := true } } 0 }) ∧
    (∀ x : Nat, s.hub.boot.phase = 4 → s.hub.chain.ringBad = 0 → x < 1184 → s.hub.cnt.cur = none → s.hub.er.sysq.length < 32 →
      Yields (.chainTrainingDone [x] []) s fun h0 t =>
        t.hub.getLink x = { s.hub.getLink x with bypass := .untrained, next := .untrained } ∧ (∀ y : Nat, y ≠ x → t.hub.getLink y = s.hub.getLink y) ∧
        t.hub.getStn x = s.hub.getStn x ∧
        (∀ y : Nat, y < 1184 → y ≠ x →
          t.hub.getStn y = { s.hub.getStn y with compA := 30 + 2 * stnPos y, compB := 176 - 2 * stnPos y, compDesign := false, compRing := 0 }) ∧
        (∀ y : Nat, 1184 ≤ y → t.hub.getStn y = s.hub.getStn y) ∧
        t = { s with hub := withAttn { h0 with
          stn := t.hub.stn, chain := { s.hub.chain with link := t.hub.chain.link },
          er := { s.hub.er with sysq := s.hub.er.sysq ++ [{ s.hub.evt 7 0x0702 with unit := x * 8, aux := Bypass.untrained.code }] },
          boot := { s.hub.boot with phase := 5, since := s.hub.clk.realNs, domains := s.hub.boot.domains ||| 2 ^ 25, endpoint := true } } 0 }) ∧
    (s.hub.boot.phase = 4 → Yields (.chainTrainingDone [] (List.range 32)) s fun h0 t => t = { s with hub := haltedAs h0 stBuChain }) ∧
    (s.hub.boot.phase = 7 → s.hub.boot.pairRunning = true → s.hub.rst.st ≠ 1 →
      Yields .fwReady s fun h0 t =>
        (∀ w : Nat, w < 2 ^ 32 → s.hub.boot.writes = [(0x81000, w)] →
          t.hub.rwsGet 0 0x81000 = (s.hub.rwsGet 0 0x81000).write (w &&& 0x783fe) ∧ (∀ d k : Nat, k ≠ 0x81000 → t.hub.rwsGet d k = s.hub.rwsGet d k)) ∧
        t = { s with hub := { (({ h0 with
          er := roleEr s.hub .pair 0x98 (2 ^ 31), boot := { s.hub.boot with phase := 8, since := s.hub.clk.realNs },
          clk := { s.hub.clk with started := true, tick := 0, epoch := 0, epochCycle := 0 }, wdog := { s.hub.wdog with silent := 0 },
          chain := { s.hub.chain with queue := s.hub.chain.queue ++ [{ owner := .bringup, scope := 0, target := 0 }] } } : Hub).applyWrites s.hub.boot.writes) with
            resp := answered s.hub .pair } }) ∧
    (s.hub.boot.phase = 7 → s.hub.boot.since + 100000000 ≤ s.hub.clk.realNs →
      Yields .fwReadyTimeout s fun h0 t =>
        t = { s with hub := withAttn { h0 with boot := { s.hub.boot with
          phase := 5, since := s.hub.clk.realNs, status := stTimeout, section_ := 0, imemValid := false, pairRunning := false } } 0 }) ∧
    (s.hub.boot.phase = 9 →
      Yields (.hbmTrainingDone []) s fun h0 t =>
        (∀ i : Nat, i < 128 → s.hub.boot.tunBase + i < hbmSize → SMap.get (0 : Byte) t.mem.hbm (s.hub.boot.tunBase + i) = s.hub.tunHeaderBytes.getD i 0) ∧
        (∀ a : Nat, a < s.hub.boot.tunBase ∨ s.hub.boot.tunBase + 128 ≤ a → SMap.get (0 : Byte) t.mem.hbm a = SMap.get (0 : Byte) s.mem.hbm a) ∧
        t = lands s { h0.hbmWrite s.hub.boot.tunBase s.hub.tunHeaderBytes with
          boot := { s.hub.boot with phase := 10, since := s.hub.clk.realNs, failedCh := [], tunHeader := true } }) ∧
    (∀ c : Nat, s.hub.boot.phase = 9 → c < 96 → tunChannel s.hub.boot.tunBase s.hub.boot.tunSize c = true →
      Yields (.hbmTrainingDone [c]) s fun h0 t => t = { s with hub := haltedAs h0 stBuHbm }) ∧
    (s.hub.boot.phase = 10 → (s.hub.getKeys 0).heldValid = false → s.hub.classOn 3 = true → s.hub.er.sysq.length < 32 →
      Yields .tileResetComplete s fun h0 t =>
        t.hub.getSlice 0 = { st := .active, pasid := 0, created := s.hub.now } ∧ (∀ k : Nat, k ≠ 0 → t.hub.getSlice k = s.hub.getSlice k) ∧
        onlyKeys 0 { section_ := (s.hub.getKeys 0).section_, policyEpoch := s.hub.clk.epoch } s.hub t.hub ∧
        t = { s with hub := withAttn (({ h0 with
          boot := { s.hub.boot with phase := 11, since := s.hub.clk.realNs, domains := s.hub.boot.domains ||| (2 ^ 20 - 1 + 2 ^ 24), units := true },
          slc := { s.hub.slc with e := t.hub.slc.e, keys := t.hub.slc.keys },
          er := { s.hub.er with sysq := s.hub.er.sysq ++ [{ s.hub.evt 3 0x0310 with slice := 0 }] } } : Hub).irqRaise 0) 2 }) ∧
    (∀ m : Master, s.hub.reaches m = true → (m = .span ∨ s.hub.role m = 1 ∨ s.hub.role m = 2) → s.hub.firkinHeld s.mem = true →
      Yields (.firkinRelease m) s fun h0 t =>
        SMap.get (0 : Byte) t.mem.firkin 6 = 3 ∧ SMap.get (0 : Byte) t.mem.firkin 7 = 0 ∧
        (∀ a : Nat, a ≠ 6 → a ≠ 7 → SMap.get (0 : Byte) t.mem.firkin a = SMap.get (0 : Byte) s.mem.firkin a) ∧
        t = lands s { h0.firkinWrite 6 [3, 0] with
          boot := { s.hub.boot with kept := false }, resp := answered s.hub m,
          er := (roleEr s.hub m 0xA4 (2 ^ 31)).audit { s.hub.auditBy m 0x0808 with arg := leAt (s.mem.firkinRead 0xC 4) 0 4 } })

/-- The hub `h`, its event recorder being `e`, after a warm restart from RUN (Table 03.13): the pair is stopped, its data memory, latch, staging
register and Chain window go, and so do the hang sequence, the graph, and the mailbox messages and queries its firmware had in progress, which `g`,
the hub after, holds; the restart machine stands in `st` with its cause, and record 0x0706 is asked for. -/
def Sys2Proof.restarted (h g : Hub) (e : Er) (cause st n : Nat) (reserved : Option Master) : Hub :=
  let k := ({ (if (h.getWin .pair).held = true then h.rcZero 0x44 Master.pair.idx 30 else h) with er := e } : Hub).record
    { h.evt 7 0x0706 with aux := cause, arg := h.now }
  { h with
    er := k.er, rc := k.rc, boot := { h.boot with pairRunning := false, dmem := [] }, latch := SMap.set 0 h.latch 0 0, stageLo := SMap.set 0 h.stageLo 0 0,
    chain := { h.chain with
      win := if (h.getWin .pair).held = true then SMap.upd {} h.chain.win Master.pair.idx fun w => { w with held := false, copy := [], status := stOk }
        else h.chain.win },
    hang := h.hangDrop.hang, mbx := g.mbx, tlm := { h.tlm with q := g.tlm.q },
    rst := { h.rst with
      st := st, cause := cause, mismatches := n, restarts := satAdd 255 h.rst.restarts 1, w := h.now, timer := h.clk.cycle, hashed := false, started := false },
    ldr := { h.ldr with reserved := reserved }, wdog := { h.wdog with silent := 0 } }

/-- What a warm restart from RUN stops: every mailbox message and query in progress, which completes with ST_BUSY. -/
def Sys2Proof.stopped (h g : Hub) : Prop :=
  (∀ x, g.getMbx x = if (h.getMbx x).busy = true then { h.getMbx x with busy := false, forming := none, sub := [], status := stBusy } else h.getMbx x) ∧
  (∀ x, g.getQuery x = if (h.getQuery x).busy = true then { h.getQuery x with busy := false, status := stBusy } else h.getQuery x)

/-- The warm restart (R52, R112 to R116, R305, R306, Table 03.11): a restart on request stops the pair and keeps the image or waits for a new one, and
is refused with ST_BUSY while another runs; one by the firmware itself has cause 4; an intact image starts the pair again, a damaged one waits for a
new image; HUB_FW_READY ends the restart; 100 ms end it in HW_ONLY. A lockstep mismatch restarts a running pair, and the third one ends bring-up or a
restart. A kick clears the watchdog's count; at 100 ms of silence it stops the pair and begins the crash core, after which the restart of cause 3 is
taken. -/
def Obligations.WarmRestart : Prop :=
  ∀ s : State, s.hub.live = true →
    (∀ m : Master, m ≠ .pair → s.hub.reaches m = true → 2 ≤ s.hub.role m → s.hub.boot.phase = 11 → s.hub.loading = false → s.hub.rst.st = 0 → s.hub.dmp.st = .idle →
      Yields (.restartReuseImage m) s (fun h0 t =>
        stopped s.hub t.hub ∧
        t = { s with hub := { restarted h0 t.hub ((roleEr s.hub m 0x90 (2 ^ 31)).audit (s.hub.auditBy m 0x0806)) 0 1 0 none with resp := answered s.hub m } }) ∧
      Yields (.restartNewImage m) s (fun h0 t =>
        stopped s.hub t.hub ∧
        t = { s with hub := { restarted h0 t.hub ((roleEr s.hub m 0x90 (2 ^ 31 + 2 ^ 30)).audit { s.hub.auditBy m 0x0806 with aux := 1 }) 1 2 0 (some m) with
          resp := answered s.hub m } })) ∧
    (s.hub.boot.pairRunning = true → 7 ≤ s.hub.boot.phase → s.hub.rst.st = 0 → s.hub.dmp.st = .idle →
      Yields (.restartReuseImage .pair) s fun h0 t =>
        stopped s.hub t.hub ∧
        t = { s with hub := { restarted h0 t.hub ((roleEr s.hub .pair 0x90 (2 ^ 31)).audit (s.hub.auditBy .pair 0x0806)) 4 1 0 none with
          resp := answered s.hub .pair } }) ∧
    (∀ m : Master, m ≠ .pair → s.hub.reaches m = true → 2 ≤ s.hub.role m → s.hub.rst.st = 1 →
      Yields (.restartReuseImage m) s fun h0 t =>
        t = { s with hub := { h0 with
          rst := { s.hub.rst with status := stBusy }, er := (roleEr s.hub m 0x90 (2 ^ 31)).audit { s.hub.auditBy m 0x0806 with status := stBusy },
          resp := answered s.hub m } }) ∧
    (s.hub.rst.st = 1 → s.hub.rst.hashed = false → s.hub.boot.imemValid = true → s.hub.boot.imemBad = false → s.hub.boot.imemHash = s.hub.boot.imageHash →
      Yields .restartHashCheck s fun h0 t => t = { s with hub := { h0 with rst := { s.hub.rst with hashed := true } } }) ∧
    (s.hub.rst.st = 1 → s.hub.rst.hashed = false → s.hub.boot.imemBad = true →
      Yields .restartHashCheck s fun h0 t =>
        t = { s with hub := (withAttn { h0 with rst := { s.hub.rst with st := 2, status := stBadsig }, ldr := { s.hub.ldr with reserved := none } } 5).irqRaise 1 }) ∧
    (s.hub.rst.st = 1 → s.hub.rst.hashed = true → s.hub.rst.started = false → s.hub.boot.phase ≠ 13 →
      Yields (.restartPairStart true) s fun h0 t =>
        t = { s with hub := { h0 with rst := { s.hub.rst with started := true }, boot := { s.hub.boot with pairRunning := true, dmem := [] } } }) ∧
    (s.hub.rst.st = 1 → s.hub.boot.pairRunning = true → s.hub.boot.phase = 11 → s.hub.fwDue = [] → s.hub.hang.dieWaiting = false → s.hub.hang.waiting = [] →
      Yields .fwReady s fun h0 t =>
        t = wrote s .pair 0x98 (2 ^ 31) (({ h0 with
          rst := { s.hub.rst with st := 0, mismatches := 0, status := stOk }, wdog := { s.hub.wdog with silent := 0 } } : Hub).irqRaise 1)) ∧
    ((s.hub.rst.st = 1 ∨ s.hub.rst.st = 2) → s.hub.rst.timer + 100000000 ≤ s.hub.clk.cycle → s.hub.er.sysq.length < 32 →
      Yields .restartTimeout s fun h0 t =>
        t = { s with hub := (withAttn { h0 with
          rst := { s.hub.rst with st := 3, status := stTimeout }, boot := { s.hub.boot with pairRunning := false }, ldr := { s.hub.ldr with reserved := none },
          er := { s.hub.er with sysq := s.hub.er.sysq ++ [{ s.hub.evt 7 0x0707 with
            status := stTimeout, aux := s.hub.rst.st, arg := s.hub.rst.w }] } } 5).irqRaise 1 }) ∧
    (∀ pc o0 o1 : Nat, s.hub.boot.pairRunning = true → s.hub.er.sysq.length < 32 →
      (s.hub.boot.phase = 7 → s.hub.boot.mismatches < 2 →
        Yields (.lockstepMismatch pc o0 o1) s fun h0 t =>
          t = { s with hub := { h0 with
            boot := { s.hub.boot with mismatches := s.hub.boot.mismatches + 1 },
            er := { s.hub.er with sysq := s.hub.er.sysq ++ [{ s.hub.evt 7 0x0701 with
              aux := s.hub.boot.mismatches + 1, arg := pc, words := [o0, o1] }] } } }) ∧
      (s.hub.boot.phase = 7 → s.hub.boot.mismatches = 2 →
        Yields (.lockstepMismatch pc o0 o1) s fun h0 t =>
          t = { s with hub := haltedAs { h0 with
            boot := { s.hub.boot with mismatches := 3 },
            er := { s.hub.er with sysq := s.hub.er.sysq ++ [{ s.hub.evt 7 0x0701 with aux := 3, arg := pc, words := [o0, o1] }] } } stBuLockstep }) ∧
      (8 ≤ s.hub.boot.phase → s.hub.rst.st = 0 → s.hub.dmp.st = .idle →
        Yields (.lockstepMismatch pc o0 o1) s fun h0 t =>
          stopped s.hub t.hub ∧
          t = { s with hub := restarted h0 t.hub { s.hub.er with sysq := s.hub.er.sysq ++ [{ s.hub.evt 7 0x0701 with
            aux := 1, arg := pc, words := [o0, o1] }] } 2 1 1 none }) ∧
      (8 ≤ s.hub.boot.phase → s.hub.rst.st = 1 → s.hub.rst.mismatches = 2 →
        Yields (.lockstepMismatch pc o0 o1) s fun h0 t =>
          t = { s with hub := withAttn { h0 with
            rst := { s.hub.rst with st := 3, status := stBuLockstep, mismatches := 3 }, boot := { s.hub.boot with pairRunning := false },
            ldr := { s.hub.ldr with reserved := none },
            er := { s.hub.er with sysq := s.hub.er.sysq ++ [{ s.hub.evt 7 0x0701 with aux := 3, arg := pc, words := [o0, o1] }] } } 5 })) ∧
    (s.hub.boot.pairRunning = true →
      Yields .wdogKick s fun h0 t => t = wrote s .pair 0x9C (2 ^ 31) { h0 with wdog := { s.hub.wdog with silent := 0 } }) ∧
    (∀ pc : Nat, s.hub.wdogOn = true → 100000000 ≤ s.hub.wdog.silent → s.hub.boot.kept = false → s.hub.er.sysq.length < 32 →
      Yields (.watchdogExpiry pc) s fun h0 t =>
        (∀ i : Nat, i < 8 → SMap.get (0 : Byte) t.mem.firkin i = ([0x46, 0x52, 0x4B, 0x4E, 1, 0, 1, 0] : List Byte).getD i 0) ∧
        (∀ a, 8 ≤ a → SMap.get (0 : Byte) t.mem.firkin a = SMap.get (0 : Byte) s.mem.firkin a) ∧
        t = lands s { h0.firkinWrite 0 [0x46, 0x52, 0x4B, 0x4E, 1, 0, 1, 0] with
          wdog := { s.hub.wdog with expired := true, core := true }, cyc := { s.hub.cyc with wdog := true }, boot := { s.hub.boot with pairRunning := false },
          dmp := { s.hub.dmp with fk := none }, hang := s.hub.hangDrop.hang,
          er := { s.hub.er with sysq := s.hub.er.sysq ++ [{ s.hub.evt 4 0x0404 with
            aux := s.hub.wdog.silent / 1000000, arg := pc, words := s.hub.hang.wfgStatus :: s.hub.cutWords }] } }) ∧
    (s.hub.wdog.core = true → s.hub.rst.st = 0 → s.hub.boot.phase = 11 → s.hub.dmp.st = .idle →
      Yields .watchdogCrashCoreDone s fun h0 t =>
        stopped s.hub t.hub ∧ SMap.get (0 : Byte) t.mem.firkin 6 = 2 ∧ SMap.get (0 : Byte) t.mem.firkin 7 = 0 ∧ SMap.get (0 : Byte) t.mem.firkin 8 = 3 ∧
        t = lands s (restarted ((withAttn (({ h0 with wdog := { s.hub.wdog with core := false } } : Hub).firkinEnd s.hub.cutSlice 3 stOk 0 0) 4).irqRaise 1)
          t.hub s.hub.er 3 1 0 none))
/-! ## The host interface (chapter 16) -/

/-- Interrupts and doorbells (R480, R481, R483): an enable write stores the word and makes due the message of every vector that it enables and whose
status bit is set; unmasking an entry sends the message that is pending; a host code enters the doorbell FIFO, a code of 0 does nothing, and a full
FIFO counts it as lost; the controller pair takes the oldest code; its own doorbell stores the code and raises vector 14. -/
def Obligations.InterruptsAndDoorbells : Prop :=
  ∀ (s : State) (m : Master), s.hub.live = true → s.hub.reaches m = true →
    (∀ v : Nat, v < 65536 → (s.hub.role m = 1 ∨ s.hub.role m = 3) →
      Yields (.irqEnableWrite m v) s fun h0 t =>
        t = wrote s m 0x204 v { h0 with irq := { s.hub.irq with
          en := v, due := s.hub.irq.due ||| (if s.hub.irq.fnOn then clearBits v s.hub.irq.en &&& s.hub.irq.status else 0) } }) ∧
    (∀ e : Nat, e < 16 → m = .host → bit s.hub.irq.pba e = true →
      Yields (.msixUnmask e) s fun h0 t =>
        t = wrote s .host (0x40C + 16 * e) 0 { h0 with irq := { s.hub.irq with
          table := SMap.set 1 s.hub.irq.table (4 * e + 3) 0, pba := clearBits s.hub.irq.pba (2 ^ e), sent := SMap.upd 0 s.hub.irq.sent e (· + 1) } }) ∧
    (∀ e : Nat, e < 16 → m = .host → bit s.hub.irq.pba e = false →
      Yields (.msixUnmask e) s fun h0 t =>
        t = wrote s .host (0x40C + 16 * e) 0 { h0 with irq := { s.hub.irq with table := SMap.set 1 s.hub.irq.table (4 * e + 3) 0 } }) ∧
    (∀ c : Nat, 0 < c → c < 2 ^ 32 → (s.hub.role m = 1 ∨ s.hub.role m = 3) → s.hub.db.fifo.length < 16 →
      Yields (.hostDoorbell m c) s fun h0 t => t = wrote s m 0x210 c { h0 with db := { s.hub.db with fifo := s.hub.db.fifo ++ [c] } }) ∧
    (∀ c : Nat, 0 < c → c < 2 ^ 32 → (s.hub.role m = 1 ∨ s.hub.role m = 3) → 16 ≤ s.hub.db.fifo.length →
      Yields (.hostDoorbell m c) s fun h0 t => t = wrote s m 0x210 c (h0.rcAdd 0x214 0 16 65535 1)) ∧
    ((s.hub.role m = 1 ∨ s.hub.role m = 3) → Yields (.hostDoorbell m 0) s fun h0 t => t = wrote s m 0x210 0 h0) ∧
    (∀ (c : Nat) (q : List Nat), m = .pair → s.hub.db.fifo = c :: q → c < 2 ^ 32 →
      Yields (.doorbellPop m) s fun h0 t =>
        t = { s with hub := { h0 with db := { s.hub.db with fifo := q }, resp := SMap.set {} s.hub.resp m.idx ⟨c, false⟩ } }) ∧
    (∀ c : Nat, m = .pair → c < 65536 →
      Yields (.fwDoorbell c) s fun h0 t => t = wrote s .pair 0x21C c (({ h0 with db := { s.hub.db with fwCode := c } }).irqRaise 14))

/-- The SPDM mailboxes and the responder (R423, R424, R484 to R487): words are gathered, a go hands them to the responder or is refused with ST_BUSY
or ST_HOST_MBXLEN, an abort empties the mailbox, the response is read word by word, its arrival raises vector 12 for the host window. The responder
answers version, capabilities, algorithms, a challenge and measurements, the latter two over fresh nonces, and any other request with an error. -/
def Obligations.Mailbox : Prop :=
  ∀ (s : State) (m : Master), s.hub.live = true → (m = .host ∨ m = .span) → s.hub.reaches m = true →
    (∀ w : Nat, w < 2 ^ 32 → (s.hub.getMbx m).busy = false → (s.hub.getMbx m).req.length + 4 ≤ 32768 →
      Yields (.mailboxWdata m w) s fun h0 t => t = wrote s m 0x24C w (h0.updMbx m fun x => { x with req := x.req ++ leBytes 4 w })) ∧
    (∀ n : Nat, (s.hub.getMbx m).busy = false → s.hub.rst.st = 0 → 0 < n → n ≤ 32768 → roundUp 4 n ≤ (s.hub.getMbx m).req.length →
      Yields (.mailboxGo m n) s fun h0 t =>
        t = wrote s m 0x240 (2 ^ 31 + n) (h0.updMbx m fun x =>
          { x with busy := true, ready := false, forming := none, resp := [], pos := 0, req := [], sub := x.req.take n })) ∧
    (∀ n : Nat, n < 65536 → (s.hub.getMbx m).busy = true →
      Yields (.mailboxGo m n) s fun h0 t => t = wrote s m 0x240 (2 ^ 31 + n) (h0.updMbx m fun x => { x with status := stBusy })) ∧
    (∀ n : Nat, n < 65536 → (s.hub.getMbx m).busy = false → s.hub.rst.st = 0 → (n = 0 ∨ 32768 < n ∨ (s.hub.getMbx m).req.length < roundUp 4 n) →
      Yields (.mailboxGo m n) s fun h0 t =>
        t = wrote s m 0x240 (2 ^ 31 + n) (h0.updMbx m fun x =>
          { x with status := stHostMbxlen, ready := false, forming := none, resp := [], pos := 0, req := [] })) ∧
    Yields (.mailboxAbort m) s (fun h0 t =>
        t = wrote s m 0x240 (2 ^ 30) (h0.updMbx m fun x =>
          { x with busy := false, ready := false, forming := none, resp := [], pos := 0, req := [], sub := [], status := stOk })) ∧
    ((s.hub.getMbx m).ready = true →
      Yields (.mailboxRdata m) s fun h0 t =>
        t = { s with hub := { h0.updMbx m fun x => { x with pos := x.pos + 4, ready := decide (x.pos + 4 < x.resp.length) } with
          resp := SMap.set {} s.hub.resp m.idx ⟨leAt (s.hub.getMbx m).resp (s.hub.getMbx m).pos 4 % 2 ^ 32, false⟩ } }) ∧
    (∀ r : List Byte, (s.hub.getMbx m).forming = some r → (s.hub.getMbx m).busy = true →
      Yields (.mailboxResponseReady m) s fun h0 t =>
        (m = .host → bit t.hub.irq.status 12 = true) ∧ (∀ x : Master, x ≠ m → t.hub.getMbx x = s.hub.getMbx x) ∧
        (m = .host → t = { s with hub := (h0.updMbx m fun x =>
          { x with forming := none, busy := false, ready := true, sub := [], resp := r, pos := 0, status := stOk }).irqRaise 12 }) ∧
        (m = .span → t = { s with hub := h0.updMbx m fun x =>
          { x with forming := none, busy := false, ready := true, sub := [], resp := r, pos := 0, status := stOk } })) ∧
    (∀ b : List Byte, s.hub.spdmReq m = some b → spdmCode b = 0x84 → leAt b 0 1 = 0x10 →
      Yields (.spdmGetVersion m) s fun h0 t =>
        t = { s with hub := h0.updMbx m fun x =>
          { x with forming := some [0x10, 0x04, 0, 0, 0, 1, 0, 0x12], transcript := b ++ [0x10, 0x04, 0, 0, 0, 1, 0, 0x12], l1 := [] } }) ∧
    (∀ (b r : List Byte), s.hub.spdmReq m = some b → spdmCode b = 0xE1 → leAt b 0 1 = 0x12 → 20 ≤ b.length →
        r = [0x12, 0x61, 0, 0, 0, 14, 0, 0, 0x14, 0, 1, 0, 0, 0x80, 0, 0, 0, 0x80, 0, 0] →
      Yields (.spdmGetCapabilities m) s fun h0 t =>
        t = { s with hub := h0.updMbx m fun x => { x with forming := some r, transcript := x.transcript ++ b ++ r, l1 := [] } }) ∧
    (∀ (b r : List Byte), s.hub.spdmReq m = some b → spdmCode b = 0xE3 → leAt b 0 1 = 0x12 → 32 ≤ b.length → leAt b 6 1 = 1 → leAt b 8 4 = 0x80 → leAt b 12 4 = 2 →
        r = [0x12, 0x63, 0, 0, 36, 0, 1, 0, 4, 0, 0, 0, 0x80, 0, 0, 0, 2, 0, 0, 0] ++ zeros 16 →
      Yields (.spdmNegotiateAlgorithms m) s fun h0 t =>
        t = { s with hub := h0.updMbx m fun x => { x with forming := some r, transcript := x.transcript ++ b ++ r, l1 := [] } }) ∧
    (∀ (b : List Byte), s.hub.spdmReq m = some b → spdmCode b = 0x83 → leAt b 0 1 = 0x12 → 36 ≤ b.length → leAt b 2 1 = 0xFF → leAt b 3 1 = 0 →
      Yields (.spdmChallenge m) s fun h0 t =>
        ∃ n r : List Byte, n = (List.range 32).map (fun i => Config.drbg (s.hub.sec.drbg + i)) ∧ r = [0x12, 0x03, 0x0F, 0] ++ sha384 s.hub.boot.diePub ++ n ++ [0, 0] ∧
          t = { s with hub := { h0.updMbx m fun x =>
            { x with forming := some (r ++ s.hub.spdmSign "responder-challenge_auth signing" (x.transcript ++ b ++ r)), l1 := [] } with
              sec := { s.hub.sec with drbg := s.hub.sec.drbg + 32 } } }) ∧
    (∀ (b : List Byte), s.hub.spdmReq m = some b → spdmCode b = 0xE0 → leAt b 0 1 = 0x12 → 4 ≤ b.length → leAt b 2 1 = 0 → leAt b 3 1 = 0x01 → (s.hub.getMbx m).l1 = [] →
      Yields (.spdmGetMeasurements m) s fun h0 t =>
        ∃ n r : List Byte, n = (List.range 32).map (fun i => Config.drbg (s.hub.sec.drbg + i)) ∧
          r = [0x12, 0x60, 0, 0, 1, 55, 0, 0, 0x01, 0x01, 51, 0, 0x00, 48, 0] ++ padTo 48 Config.romDigest ++ n ++ [0, 0] ∧
          t = { s with hub := { h0.updMbx m fun x => { x with forming := some r, l1 := x.transcript ++ b ++ r } with
            sec := { s.hub.sec with drbg := s.hub.sec.drbg + 32 } } }) ∧
    (∀ b : List Byte, s.hub.spdmReq m = some b → leAt b 0 1 = 0x12 → spdmCode b = 0x85 →
      Yields (.spdmUnsupported m) s fun h0 t =>
        t = { s with hub := h0.updMbx m fun x => { x with forming := some [0x12, 0x7F, 0x07, 0x85], l1 := [] } })

/-- Telemetry (R488 to R490): a query is taken and a sensor's completes with its last and highest reading; it is refused at once with ST_DENIED for a
host without a role, with ST_TLM_INDEX beyond its range, and with ST_BUSY while one is in progress, and completes with ST_TLM_NOSOURCE while die
management does not answer; a clock query gives the domain's nominal and present frequency. A refresh takes every reading, a sensor that reports 2^16
or more is faulty, the highest reading is kept, and reaching the alert threshold raises vector 13. -/
def Obligations.Telemetry : Prop :=
  ∀ (s : State) (m : Master), s.hub.live = true →
    (s.hub.reaches m = true → (m = .host → s.hub.role m ≠ 0) → (s.hub.getQuery m).busy = false → s.hub.rst.st = 0 →
      (∀ i : Nat, i < 64 → Yields (.tlmThermalQuery m i) s fun h0 t =>
        t = wrote s m 0xA0000 (2 ^ 31 + i) (h0.updQuery m fun q => { q with busy := true, kind := 0, index := i })) ∧
      (∀ i : Nat, i < 28 → Yields (.tlmClockQuery m i) s fun h0 t =>
        t = wrote s m 0xA0000 (2 ^ 31 + 2 ^ 24 + i) (h0.updQuery m fun q => { q with busy := true, kind := 1, index := i })) ∧
      (∀ i : Nat, i < 4 → Yields (.tlmPowerQuery m i) s fun h0 t =>
        t = wrote s m 0xA0000 (2 ^ 31 + 2 ^ 25 + i) (h0.updQuery m fun q => { q with busy := true, kind := 2, index := i })) ∧
      Yields (.tlmSummaryQuery m) s (fun h0 t =>
        t = wrote s m 0xA0000 (2 ^ 31 + 3 * 2 ^ 24) (h0.updQuery m fun q => { q with busy := true, kind := 3, index := 0 }))) ∧
    (∀ i : Nat, m = .host → s.hub.reaches m = true → s.hub.role m = 0 → i < 256 → (s.hub.getQuery m).busy = false → s.hub.rst.st = 0 →
      Yields (.tlmThermalQuery m i) s fun h0 t =>
        t = wrote s m 0xA0000 (2 ^ 31 + i) (h0.updQuery m fun q => { q with status := stDenied, res := [] })) ∧
    (∀ i : Nat, s.hub.reaches m = true → 28 ≤ i → i < 256 → (s.hub.getQuery m).busy = false → s.hub.rst.st = 0 →
      Yields (.tlmClockQuery m i) s fun h0 t =>
        t = wrote s m 0xA0000 (2 ^ 31 + 2 ^ 24 + i) (h0.updQuery m fun q => { q with status := stTlmIndex, res := [] })) ∧
    (∀ i : Nat, s.hub.reaches m = true → i < 256 → (s.hub.getQuery m).busy = true →
      Yields (.tlmPowerQuery m i) s fun h0 t =>
        t = wrote s m 0xA0000 (2 ^ 31 + 2 ^ 25 + i) (h0.updQuery m fun q => { q with status := stBusy })) ∧
    (∀ i : Nat, (s.hub.getQuery m).busy = true → s.hub.queryBefore m = false → (s.hub.getQuery m).kind = 0 → (s.hub.getQuery m).index = i → s.hub.sourceUp = true → s.hub.tlm.faulty.contains i = false →
      Yields (.tlmQueryComplete m) s fun h0 t =>
        t = { s with hub := { h0 with tlm := { s.hub.tlm with
          resTick := s.hub.tlm.refreshTick,
          q := SMap.upd {} s.hub.tlm.q m.idx fun q => { q with
            busy := false, status := stOk,
            res := resultMap [SMap.get 0 s.hub.tlm.last i + at_ (SMap.get 0 s.hub.tlm.high i % 65536) 16, (sensorPlace i).1 + at_ (sensorPlace i).2 8] } } } }) ∧
    (∀ i : Nat, (s.hub.getQuery m).busy = true → s.hub.queryBefore m = false → (s.hub.getQuery m).kind = 1 → (s.hub.getQuery m).index = i → i < 28 →
      Yields (.tlmQueryComplete m) s fun h0 t =>
        t = { s with hub := { h0 with tlm := { s.hub.tlm with
          resTick := s.hub.tlm.refreshTick,
          q := SMap.upd {} s.hub.tlm.q m.idx fun q => { q with
            busy := false, status := stOk,
            res := resultMap [(domainClock i).1,
              if bit s.hub.gated i = true ∨ domainAlwaysOn i = false ∧ (s.hub.clk.fallback = true ∨ bit s.hub.boot.domains i = false) then 0
                else if domainAlwaysOn i = true ∧ s.hub.clk.onPll = false then 100000 else SMap.get (domainClock i).1 s.hub.tlm.last (64 + i),
              (if bit s.hub.gated i = true then 1 else 0) + (if domainAlwaysOn i = true ∧ s.hub.clk.onPll = false then 2 else 0) +
                (domainClock i).2 * 256] } } } }) ∧
    ((s.hub.getQuery m).busy = true → s.hub.queryBefore m = false → (s.hub.getQuery m).kind ≠ 1 → s.hub.sourceUp = false →
      Yields (.tlmQueryComplete m) s fun h0 t =>
        t = { s with hub := { h0 with tlm := { s.hub.tlm with
          resTick := s.hub.tlm.refreshTick, q := SMap.upd {} s.hub.tlm.q m.idx fun q => { q with busy := false, status := stTlmNosource, res := [] } } } }) ∧
    (∀ l : List Nat, bit s.hub.boot.domains 25 = true → bit s.hub.gated 25 = false → s.hub.nocUp = true →
      Yields (.tlmRefresh l) s fun h0 t =>
        (∀ k v : Nat, l[k]? = some v → k < 64 → v < 65536 → SMap.get 0 t.hub.tlm.last k = v ∧ t.hub.tlm.faulty.contains k = false) ∧
        (∀ k v : Nat, l[k]? = some v → k < 64 → 65536 ≤ v → SMap.get 0 t.hub.tlm.last k = SMap.get 0 s.hub.tlm.last k ∧ t.hub.tlm.faulty.contains k = true) ∧
        (∀ k v : Nat, l[k]? = some v → 64 ≤ k → SMap.get 0 t.hub.tlm.last k = v) ∧
        (∀ k : Nat, k < 64 → t.hub.tlm.faulty.contains k = false → signed16 (SMap.get 0 t.hub.tlm.last k) ≤ signed16 t.hub.tlm.topTemp) ∧
        t.hub.tlm.refreshed = true ∧ t.hub.tlm.refreshTick = s.hub.now ∧
        (bit (s.hub.rwGet 0x80000690 0xA0020 0) 31 = true → s.hub.tlm.above = false →
          signed16 (s.hub.rwGet 0x80000690 0xA0020 0) ≤ signed16 t.hub.tlm.topTemp → t.hub.tlm.above = true ∧ bit t.hub.irq.status 13 = true) ∧
        t = { s with hub := ({ h0 with tlm := { l.zipIdx.foldl Tlm.take s.hub.tlm with
          refreshed := true, refreshTick := s.hub.now, topSensor := (l.zipIdx.foldl Tlm.take s.hub.tlm).top.1 % 64,
          topTemp := (l.zipIdx.foldl Tlm.take s.hub.tlm).top.2 } } : Hub).tlmAlert })

/-! ## Storage errors (chapter 18) -/

/-- The scrubber's read of a word (R500 to R503, R516, Table 18.1): one error is corrected and counted; more are counted, latched with their place,
cost the store what the table says and are reported by firmware once it runs. Word numbers follow the model's layout (log entry 41). -/
def Obligations.StorageErrors : Prop :=
  ∀ s : State, s.hub.live = true →
    (∀ store st w : Nat, store < 8 → w < storeWords store st →
      Yields (.scrubRead store st w 1) s (fun h0 t => t = { s with hub := h0.rcAdd (0x300 + 4 * store) 0 16 65535 1 }) ∧
      Yields (.scrubRead store st w 0) s (fun h0 t => t = { s with hub := h0 })) ∧
    (∀ w n : Nat, 2 ≤ n → w < 524288 → s.hub.fwRuns = false → SMap.get [] s.hub.er.store (w / 64) ≠ [] → s.hub.er.bad.contains (w / 64) = false →
      Yields (.scrubRead 1 0 w n) s fun h0 t =>
        t = { s with hub := { h0 with
          ecc := { s.hub.ecc with valid := true, store := 1, station := 0x7FF, word := w }, rc := (s.hub.rcAdd 0x304 0 0 65535 1).rc,
          er := { s.hub.er with bad := s.hub.er.bad ++ [w / 64] }, fwDue := s.hub.fwDue ++ [0x1801] } }) ∧
    (∀ w n : Nat, 2 ≤ n → w < 1048576 → s.hub.fwRuns = true → s.hub.ecc.firkinBad.contains w = false →
      Yields (.scrubRead 2 0 w n) s fun h0 t =>
        t = { s with hub := withAttn (({ h0 with
          ecc := { s.hub.ecc with valid := true, store := 2, station := 0x7FF, word := w, firkinBad := s.hub.ecc.firkinBad ++ [w] },
          rc := (s.hub.rcAdd 0x308 0 0 65535 1).rc, db := { s.hub.db with fwCode := 0x1802 },
          span := { s.hub.span with msg := 0x1802 } } : Hub).irqRaise 14) 8 }) ∧
    (∀ (w n k : Nat) (x : AttEntry), 2 ≤ n → w < 2097152 → s.hub.fwRuns = false → s.hub.cnt.att[w / 8]? = some (k, x) →
      Yields (.scrubRead 3 0 w n) s fun h0 t =>
        SMap.get {} t.hub.cnt.att k = { SMap.get {} s.hub.cnt.att k with bad := true } ∧ (∀ j : Nat, j ≠ k → SMap.get {} t.hub.cnt.att j = SMap.get {} s.hub.cnt.att j) ∧
        t = { s with hub := { h0 with
          ecc := { s.hub.ecc with valid := true, store := 3, station := 0x7FF, word := w }, rc := (s.hub.rcAdd 0x30C 0 0 65535 1).rc,
          cnt := { s.hub.cnt with att := t.hub.cnt.att }, fwDue := s.hub.fwDue ++ [0x1803] } }) ∧
    (∀ k n : Nat, 2 ≤ n → k < 64 → s.hub.fwRuns = false →
      Yields (.scrubRead 4 0 (128 + k) n) s fun h0 t =>
        onlyKeys k { s.hub.getKeys k with token := [] } s.hub t.hub ∧
        t = { s with hub := { h0 with
          ecc := { s.hub.ecc with valid := true, store := 4, station := 0x7FF, word := 128 + k }, rc := (s.hub.rcAdd 0x310 0 0 65535 1).rc,
          slc := { s.hub.slc with keys := t.hub.slc.keys }, fwDue := s.hub.fwDue ++ [0x1804] } }) ∧
    (∀ k n : Nat, 2 ≤ n → s.hub.fwRuns = false → 0 < k → k < 64 → s.hub.sliceExists k = true → (s.hub.getKeys k).rekey = false → (s.hub.getKeys k).owner = [] →
      Yields (.scrubRead 4 0 k n) s fun h0 t =>
        onlyKeys k { s.hub.getKeys k with
          rekey := true,
          cur := s.hub.deriveKeys k (s.hub.getKeys k).cur.gen ((List.range 32).map fun i => Config.drbg (s.hub.sec.drbg + i)) (s.hub.getKeys k).cur.epub
            (s.hub.getKeys k).cur.keyId,
          next := some (s.hub.deriveKeys k 0 ((List.range 32).map fun i => Config.drbg (s.hub.sec.drbg + 32 + i)) [] 0xFFFFFFFFFFFFFFFF) } s.hub t.hub ∧
        t = { s with hub := { h0 with
          ecc := { s.hub.ecc with valid := true, store := 4, station := 0x7FF, word := k }, rc := (s.hub.rcAdd 0x310 0 0 65535 1).rc,
          slc := { s.hub.slc with keys := t.hub.slc.keys }, sec := { s.hub.sec with drbg := s.hub.sec.drbg + 64 }, fwDue := s.hub.fwDue ++ [0x1804] } }) ∧
    (∀ (c n : Nat) (q : List Nat), 2 ≤ n → s.hub.fwRuns = false → s.hub.db.fifo = c :: q →
      Yields (.scrubRead 7 0 96 n) s fun h0 t =>
        t = { s with hub := { h0 with
          ecc := { s.hub.ecc with valid := true, store := 7, station := 0x7FF, word := 96 },
          rc := ((s.hub.rcAdd 0x31C 0 0 65535 1).rcAdd 0x214 0 16 65535 1).rc, db := { s.hub.db with fifo := q }, fwDue := s.hub.fwDue ++ [0x1807] } }) ∧
    (∀ k n : Nat, 2 ≤ n → k < 64 → s.hub.fwRuns = false →
      Yields (.scrubRead 4 0 (192 + k) n) s fun h0 t =>
        (∀ d o, t.hub.rwsGet d o =
          if (entryOffs k).contains o && (s.hub.rwsGet d o).st == .clean && (s.hub.rwsGet d o).shadow != (s.hub.rwsGet d o).active then
            { s.hub.rwsGet d o with st := .dirty } else s.hub.rwsGet d o) ∧
        t = { s with hub := { h0 with
          ecc := { s.hub.ecc with valid := true, store := 4, station := 0x7FF, word := 192 + k }, rc := (s.hub.rcAdd 0x310 0 0 65535 1).rc,
          rws := t.hub.rws, fwDue := s.hub.fwDue ++ [0x1804] } })

/-! ## Register accesses (chapter 00) -/

/-- A register access that the requesting role is not permitted to make (R18, R407) returns 0 on a read and is dropped on a write, a write of TRC_CTRL
or CE_CTL that would change the maker's bit included; its only effect is audit record 0x0802, and the master is told that it was refused. -/
def Obligations.RefusedAccess : Prop :=
  ∀ (s : State) (m : Master) (off : Nat) (l : Loc), s.hub.live = true → s.hub.reaches m = true → off % 4 = 0 →
    (locate off = some l → s.hub.mayRead m l.row.rd = false → inFirkin off = false → inWindow off = false →
      Yields (.loReadLatch m off 4) s fun h0 t =>
        t = { s with hub := { h0 with
          er := s.hub.er.audit { s.hub.auditBy m 0x0802 with status := stDenied, aux := 0, arg := off, words := [0] },
          resp := SMap.set {} s.hub.resp m.idx ⟨0, true⟩ } }) ∧
    ((inFirkin off = true ∧ s.hub.mayRead m .tun = false ∨ inWindow off = true ∧ s.hub.mayRead m .er = false) →
      Yields (.loReadLatch m off 4) s fun h0 t =>
        t = { s with hub := { h0 with
          er := s.hub.er.audit { s.hub.auditBy m 0x0802 with status := stDenied, aux := 0, arg := off, words := [0] },
          resp := SMap.set {} s.hub.resp m.idx ⟨0, true⟩ } }) ∧
    (∀ w : Nat, locate off = some l → w < 2 ^ 32 → l.writable = true → s.hub.mayWrite m l w = false →
      Yields (.registerWrite m off 4 w) s fun h0 t =>
        t = { s with hub := { h0 with
          er := s.hub.er.audit { s.hub.auditBy m 0x0802 with status := stDenied, aux := 1, arg := off, words := [w] },
          resp := SMap.set {} s.hub.resp m.idx ⟨0, true⟩ } }) ∧
    (∀ w : Nat, s.hub.role m ≠ 3 → (l.row.wr = .trcctl ∨ l.row.wr = .cectl) → bit w 30 ≠ bit (s.hub.shd l.reset l.base) 30 → s.hub.mayWrite m l w = false)

/-- A _LO/_HI pair (R13, R15): a read of _LO answers bits [31:0] and latches bits [63:32] for its master; a read of _HI answers the latch, whatever it
holds; a write of _LO goes to the master's staging register alone; a write of _HI writes the register with the staging register as bits [31:0], an RWS
pair in its shadow, an RW pair at once. After reset latches and staging registers hold 0. -/
def Obligations.PairRegisters : Prop :=
  (∀ m : Master, SMap.get 0 State.reset.hub.latch m.idx = 0 ∧ SMap.get 0 State.reset.hub.stageLo m.idx = 0) ∧
  ∀ (s : State) (m : Master) (off : Nat) (l : Loc), s.hub.live = true → s.hub.reaches m = true → off % 4 = 0 → locate off = some l → l.row.pair = true →
    s.hub.lostSlot l = false → inFirkin off = false → inWindow off = false → slotQuiet s.hub off →
    (l.hi = false → s.hub.mayRead m l.row.rd = true →
      Yields (.loReadLatch m off 4) s fun h0 t =>
        t = { s with hub := { h0 with
          latch := SMap.set 0 s.hub.latch m.idx (l.value s.hub m / 2 ^ 32), resp := SMap.set {} s.hub.resp m.idx ⟨l.value s.hub m % 2 ^ 32, false⟩ } }) ∧
    (l.hi = true → s.hub.mayRead m l.row.rd = true →
      Yields (.loReadLatch m off 4) s fun h0 t =>
        t = { s with hub := { h0 with resp := SMap.set {} s.hub.resp m.idx ⟨SMap.get 0 s.hub.latch m.idx % 2 ^ 32, false⟩ } }) ∧
    (∀ w : Nat, w < 2 ^ 32 → l.writable = true → s.hub.mayWrite m l w = true → l.hi = false →
      Yields (.registerWrite m off 4 w) s fun h0 t =>
        t = { s with hub := { h0 with
          stageLo := SMap.set 0 s.hub.stageLo m.idx w, er := if l.exempt w then s.hub.er else roleEr s.hub m off w, resp := answered s.hub m } }) ∧
    (∀ w : Nat, w < 2 ^ 32 → l.writable = true → s.hub.mayWrite m l w = true → l.hi = true →
      Yields (.registerWrite m off 4 w) s fun h0 t =>
        (l.row.kind = .rws →
          t.hub.rwsGet l.reset l.base = (s.hub.rwsGet l.reset l.base).write (l.clamp s.hub (w * 2 ^ 32 + SMap.get 0 s.hub.stageLo m.idx))) ∧
        (l.row.kind = .rw →
          t.hub.rwGet l.reset l.base (if l.row.own then m.idx else 0) = l.clamp s.hub (w * 2 ^ 32 + SMap.get 0 s.hub.stageLo m.idx)) ∧
        ∃ g : Hub, g = Hub.regWrite { h0 with er := if l.exempt w then s.hub.er else roleEr s.hub m off w } s.mem m l
            (w * 2 ^ 32 + SMap.get 0 s.hub.stageLo m.idx) ∧
          t = lands s { g with resp := SMap.set {} g.resp m.idx ⟨0, false⟩ })

/-- Bits that an access clears (R10 to R12). A write of 1 clears a W1C bit of SPN_ATTN, HUB_IRQ_STATUS, HUB_CLK_STATUS or HUB_WDOG_STATUS, but a bit
that the hub has set in this hub cycle remains 1. A read of a register with RC fields answers them as they stood before the hub cycle, clears them and
leaves what the hub has added in this cycle for the next read. -/
def Obligations.ClearingAccesses : Prop :=
  ∀ (s : State) (m : Master), s.hub.live = true → s.hub.reaches m = true →
    (∀ w : Nat, w < 2 ^ 32 → (m = .span ∨ m = .pair ∨ s.hub.role m = 1) →
      Yields (.registerWrite m 0x90004 4 w) s fun h0 t =>
        (∀ k : Nat, bit t.hub.span.attn k = (bit s.hub.span.attn k && !(bit (w % 512) k && !bit s.hub.cyc.attn k))) ∧
        t = wrote s m 0x90004 w { h0 with span := { s.hub.span with attn := t.hub.span.attn } }) ∧
    (∀ w : Nat, w < 2 ^ 32 → (s.hub.role m = 1 ∨ s.hub.role m = 3) →
      Yields (.registerWrite m 0x200 4 w) s fun h0 t =>
        (∀ k : Nat, bit t.hub.irq.status k = (bit s.hub.irq.status k && !(bit (w % 65536) k && !bit s.hub.cyc.irq k))) ∧
        t = wrote s m 0x200 w { h0 with irq := { s.hub.irq with
          status := t.hub.irq.status,
          due := s.hub.irq.due ||| if s.hub.irq.fnOn then (w % 65536 &&& s.hub.cyc.irq) &&& s.hub.irq.en else 0 } }) ∧
    (∀ w : Nat, w < 2 ^ 32 → bit w 1 = true → (m = .pair ∨ s.hub.role m = 1 ∨ s.hub.role m = 3) →
      Yields (.registerWrite m 0x34 4 w) s fun h0 t =>
        t = wrote s m 0x34 w { h0 with clk := { s.hub.clk with pllLoss := s.hub.clk.pllLoss && s.hub.cyc.pllLoss } }) ∧
    (∀ w : Nat, w < 2 ^ 32 → bit w 31 = true → (m = .pair ∨ s.hub.role m = 1 ∨ s.hub.role m = 3) →
      Yields (.registerWrite m 0xA0 4 w) s fun h0 t =>
        t = wrote s m 0xA0 w { h0 with wdog := { s.hub.wdog with expired := s.hub.wdog.expired && s.hub.cyc.wdog } }) ∧
    (∀ (off : Nat) (l : Loc), off % 4 = 0 → locate off = some l → l.mirror = false → l.row.fam.rcBits ≠ [] → s.hub.lostSlot l = false → inFirkin off = false → inWindow off = false →
        s.hub.mayRead m l.row.rd = true → slotQuiet s.hub off →
      Yields (.rcFieldRead m off 4) s fun h0 t =>
        (∀ b ∈ l.row.fam.rcBits, ∀ c : RcCell, SMap.get {} s.hub.rc (rcKey l.base (if l.row.own then m.idx else 0) b) = c →
          SMap.get {} t.hub.rc (rcKey l.base (if l.row.own then m.idx else 0) b) = if c.new = 0 then {} else { c with old := 0 }) ∧
        (∀ k : Nat, (∀ b ∈ l.row.fam.rcBits, k ≠ rcKey l.base (if l.row.own then m.idx else 0) b) → SMap.get {} t.hub.rc k = SMap.get {} s.hub.rc k) ∧
        t = { s with hub := { h0 with rc := t.hub.rc, resp := SMap.set {} s.hub.resp m.idx ⟨l.value s.hub m % 2 ^ 32, false⟩ } })

/-- The recorder's cursor (R389, R391): its lease is 10^9 ticks from the acquire, and an acquire by its holder starts it again; a write of the slot
alone does not; a release gives it back; at its end the cursor is released, the expired bit is set, ST_EXPIRED is reported and audit record 0x0803
asked for. The window answers the slot's words, masked for every master but the controller pair, and 0 with ST_ER_NOCURSOR to a master that holds no
cursor. -/
def Obligations.RecorderCursor : Prop :=
  ∀ (s : State) (m : Master), s.hub.live = true → s.hub.reaches m = true → (m = .pair ∨ s.hub.role m ≠ 0) →
    (∀ k : Nat, k < 8192 →
      Yields (.erCursorAcquire m k) s fun h0 t =>
        t.hub.getCursor m = { held := true, slot := k, from_ := s.hub.now, role := s.hub.role m, status := stOk } ∧
        (∀ x : Master, x ≠ m → t.hub.getCursor x = s.hub.getCursor x) ∧
        t = { s with hub := { h0 with er := { roleEr s.hub m 0x60020 (2 ^ 31 + k) with cursor := t.hub.er.cursor }, resp := answered s.hub m } }) ∧
    (∀ k : Nat, k < 8192 →
      Yields (.registerWrite m 0x60020 4 k) s fun h0 t =>
        t.hub.getCursor m = { s.hub.getCursor m with slot := k } ∧ (∀ x : Master, x ≠ m → t.hub.getCursor x = s.hub.getCursor x) ∧
        t = { s with hub := { h0 with er := { s.hub.er with cursor := t.hub.er.cursor }, resp := answered s.hub m } }) ∧
    ((s.hub.getCursor m).held = true → (s.hub.getCursor m).slot < 8192 →
      Yields (.erCursorRelease m) s fun h0 t =>
        t.hub.getCursor m = { s.hub.getCursor m with held := false, status := stOk } ∧ (∀ x : Master, x ≠ m → t.hub.getCursor x = s.hub.getCursor x) ∧
        t = { s with hub := { h0 with
          er := { roleEr s.hub m 0x60020 (2 ^ 30 + (s.hub.getCursor m).slot) with cursor := t.hub.er.cursor }, resp := answered s.hub m } }) ∧
    ((s.hub.getCursor m).held = true → (s.hub.getCursor m).from_ + 1000000000 ≤ s.hub.now →
      Yields (.erCursorExpiry m) s fun h0 t =>
        t.hub.getCursor m = { s.hub.getCursor m with held := false, status := stExpired } ∧ (∀ x : Master, x ≠ m → t.hub.getCursor x = s.hub.getCursor x) ∧
        1 ≤ t.hub.rcTotal 0x60024 m.idx 30 ∧
        t = { s with hub := { h0 with
          rc := (s.hub.rcSet 0x60024 m.idx 30).rc,
          er := Er.audit { s.hub.er with cursor := t.hub.er.cursor } { s.hub.auditBy m 0x0803 with
            aux := 1, status := stExpired, arg := (s.hub.getCursor m).from_ } } }) ∧
    ((s.hub.getCursor m).held = true → s.hub.now < (s.hub.getCursor m).from_ + 1000000000 →
      Yields (.erCursorExpiry m) s fun h0 t => t = { s with hub := h0 }) ∧
    (∀ i : Nat, i < 128 → (s.hub.getCursor m).held = true →
      Yields (.erWindowRead m (0x60200 + 4 * i) 4) s fun h0 t =>
        ∃ b : List Byte, b = (if m = .pair then s.hub.slotBytes (s.hub.getCursor m).slot else maskRecord (s.hub.slotBytes (s.hub.getCursor m).slot)) ∧
          t = { s with hub := { h0 with resp := SMap.set {} s.hub.resp m.idx ⟨leAt b (4 * i) 4 % 2 ^ 32, false⟩ } }) ∧
    (∀ i : Nat, i < 128 → (s.hub.getCursor m).held = false →
      Yields (.erWindowRead m (0x60200 + 4 * i) 4) s fun h0 t =>
        t.hub.getCursor m = { s.hub.getCursor m with status := stErNocursor } ∧ (∀ x : Master, x ≠ m → t.hub.getCursor x = s.hub.getCursor x) ∧
        t = { s with hub := { h0 with er := { s.hub.er with cursor := t.hub.er.cursor }, resp := SMap.set {} s.hub.resp m.idx ⟨0, false⟩ } })

/-- Chain windows (R26, R70, R87): an acquire takes a copy of the station's slot for 10^9 ticks unless another window holds the station, and an old
window of its master ends first; one that names no station changes nothing but the status; a release ends the window; how the last window ended is
told afresh; at the end of its lease the window ends with its copy gone, the expired bit set, ST_EXPIRED and audit record 0x0803. -/
def Obligations.ChainWindows : Prop :=
  ∀ (s : State) (m : Master), s.hub.live = true →
    (s.hub.reaches m = true → (m = .pair ∨ s.hub.role m ≠ 0) →
      (∀ x : Nat, x < 1184 → s.hub.observed x = true → s.hub.windowHeld x = false →
        Yields (.chwinAcquire m x) s fun h0 t =>
          t.hub.getWin m = { s.hub.getWin m with
            sel := x, held := true, station := x, from_ := s.hub.now, status := stOk, copy := s.hub.slotCopy x } ∧
          (∀ k : Nat, k < 1024 → SMap.get 0 (t.hub.getWin m).copy (4 * k) = s.hub.wordAt .host (pchOff x (4 * k))) ∧
          (∀ y : Master, y ≠ m → t.hub.getWin y = s.hub.getWin y) ∧
          t = wrote s m 0x40 (2 ^ 12 + x) { h0 with
            chain := { s.hub.chain with win := t.hub.chain.win },
            rc := if (s.hub.getWin m).held = true then (s.hub.rcZero 0x44 m.idx 30).rc else s.hub.rc }) ∧
      (∀ x : Nat, x < 1184 → s.hub.observed x = true → (s.hub.getWin m).held = false →
          (∃ y : Master, y ≠ m ∧ (s.hub.getWin y).held = true ∧ (s.hub.getWin y).station = x) →
        Yields (.chwinAcquire m x) s fun h0 t =>
          t.hub.getWin m = { s.hub.getWin m with sel := x, status := stBusy } ∧ (∀ y : Master, y ≠ m → t.hub.getWin y = s.hub.getWin y) ∧
          t = wrote s m 0x40 (2 ^ 12 + x) { h0 with chain := { s.hub.chain with win := t.hub.chain.win } }) ∧
      (∀ x : Nat, 1184 ≤ x → x < 2048 →
        Yields (.chwinAcquire m x) s fun h0 t =>
          t.hub.getWin m = { s.hub.getWin m with sel := x, status := stNounit } ∧ (∀ y : Master, y ≠ m → t.hub.getWin y = s.hub.getWin y) ∧
          t = wrote s m 0x40 (2 ^ 12 + x) { h0 with chain := { s.hub.chain with win := t.hub.chain.win } }) ∧
      ((s.hub.getWin m).sel < 2048 →
        Yields (.chwinRelease m) s fun h0 t =>
          t.hub.getWin m = { s.hub.getWin m with held := false, copy := [], status := stOk } ∧ (∀ y : Master, y ≠ m → t.hub.getWin y = s.hub.getWin y) ∧
          t = wrote s m 0x40 (2 ^ 13 + (s.hub.getWin m).sel) { h0 with
            chain := { s.hub.chain with win := t.hub.chain.win },
            rc := if (s.hub.getWin m).held = true then (s.hub.rcZero 0x44 m.idx 30).rc else s.hub.rc })) ∧
    ((s.hub.getWin m).held = true → (s.hub.getWin m).from_ + 1000000000 ≤ s.hub.now →
      Yields (.chwinLeaseExpiry m) s fun h0 t =>
        t.hub.getWin m = { s.hub.getWin m with held := false, copy := [], status := stExpired } ∧ (∀ x : Master, x ≠ m → t.hub.getWin x = s.hub.getWin x) ∧
        1 ≤ t.hub.rcTotal 0x44 m.idx 30 ∧
        t = { s with hub := { h0 with
          chain := { s.hub.chain with win := t.hub.chain.win }, rc := ((s.hub.rcZero 0x44 m.idx 30).rcSet 0x44 m.idx 30).rc,
          er := s.hub.er.audit { s.hub.auditBy m 0x0803 with
            unit := (s.hub.getWin m).station * 8, status := stExpired, arg := (s.hub.getWin m).from_ } } })

/-! ## Requests of the masters (chapters 02, 05 to 10, 14) -/

/-- Every ACTIVE context of slice `k` is LOST, every other context is as it was. -/
def Sys2Proof.contextsLost (k : Nat) (h g : Hub) : Prop :=
  ∀ c : Nat, g.getCtx c = if (h.getCtx c).st = .active ∧ (h.getCtx c).slice = k
    then Ctx.mark (h.clk.cycle + 1) (h.getCtx c) { h.getCtx c with st := .lost, lostFaults := 0 } else h.getCtx c

/-- The hub after record 0x0302 of every ACTIVE context of slice `k`, none of which had a command to discard (R37). -/
def Sys2Proof.lostRecords (h : Hub) (k : Nat) : Hub :=
  (h.activeCtxs k).foldl (fun g c => g.record { h.evt 3 0x0302 with slice := k, status := stLost, ctx := some c, words := [0, 0] }) h

/-- Requests for contexts and exports, and slice commands, by the operator (R36, R431 to R438, R445, R446, Table 14.2): a context takes the lowest
free ID, and a request for one is refused with ST_FULL at the slice's quota; a destroyed context is free; a slice is created with its PASID, a drawn
key and its commit under way; a reset puts its contexts into LOST, with record 0x0302 of each; a destroyed slice loses its keys and its owner, its
units move to slice 0; a dead process is a reset whose entry says so; an export is allocated to its slice and released with an error signal. -/
def Obligations.SliceRequests : Prop :=
  ∀ (s : State) (m : Master), s.hub.live = true → s.hub.reaches m = true → s.hub.role m = 1 → s.hub.er.sysq.length < 31 →
    (∀ k c : Nat, k < 64 → (s.hub.getSlice k).st = .active → s.hub.ctxCount < 262144 →
        (s.hub.sliceCtxs k).length < Nat.min 262144 (s.hub.act 0x40000 (slcOff k 0x18)) → c = lowestFree 0 s.hub.ctx → (s.hub.getCtx c).finals = false →
      Yields (.contextCreate m k) s fun h0 t =>
        (SMap.wf {} s.hub.ctx = true → (s.hub.getCtx c).st = .free ∧ ∀ x : Nat, x < c → (s.hub.getCtx x).st ≠ .free) ∧
        t.hub.getCtx c = Ctx.mark (s.hub.clk.cycle + 1) (s.hub.getCtx c) { s.hub.getCtx c with st := .active, slice := k, progress := 0, lostFaults := 0 } ∧
        (∀ x : Nat, x ≠ c → t.hub.getCtx x = s.hub.getCtx x) ∧
        t.hub.getSlcM m = { s.hub.getSlcM m with ctxStatus := stOk, ctxValid := true, ctxId := c } ∧
        (∀ x : Master, x ≠ m → t.hub.getSlcM x = s.hub.getSlcM x) ∧
        t = wrote s m 0xB0010 (2 ^ 31 + k * 2 ^ 24) { h0 with ctx := t.hub.ctx, slc := { s.hub.slc with m := t.hub.slc.m } }) ∧
    (∀ k : Nat, k < 64 → s.hub.ctxCount < 262144 → Nat.min 262144 (s.hub.act 0x40000 (slcOff k 0x18)) ≤ (s.hub.sliceCtxs k).length → s.hub.classOn 3 = true →
      Yields (.contextCreate m k) s fun h0 t =>
        t.hub.getSlcM m = { s.hub.getSlcM m with ctxStatus := stFull, ctxValid := false, ctxId := 0 } ∧
        (∀ x : Master, x ≠ m → t.hub.getSlcM x = s.hub.getSlcM x) ∧
        t = { s with hub := { h0 with
          slc := { s.hub.slc with m := t.hub.slc.m }, resp := answered s.hub m,
          er := { roleEr s.hub m 0xB0010 (2 ^ 31 + k * 2 ^ 24) with
            sysq := (roleEr s.hub m 0xB0010 (2 ^ 31 + k * 2 ^ 24)).sysq ++ [{ s.hub.evt 3 0x0311 with
              slice := k, origin := s.hub.originOf m, status := stFull, aux := 3, words := [(s.hub.sliceCtxs k).length] }] } } }) ∧
    (∀ c : Nat, c < 2 ^ 18 → (s.hub.getCtx c).st ≠ .free → (∀ x ∈ (s.hub.getCtx c).cmds, x.started = true) →
      Yields (.contextDestroy m c) s fun h0 t =>
        onlyContext c { s.hub.getCtx c with
          st := .free, lostFaults := 0, cmds := (s.hub.getCtx c).cmds.map (fun x => { x with gone := true }),
          finals := s.hub.cnt.att.any fun e => e.1 / 2 ^ 32 == c } s.hub t.hub ∧
        t.hub.getSlcM m = { s.hub.getSlcM m with ctxStatus := stOk } ∧ (∀ x : Master, x ≠ m → t.hub.getSlcM x = s.hub.getSlcM x) ∧
        t = wrote s m 0xB0010 (2 ^ 31 + 2 ^ 30 + c) { h0 with ctx := t.hub.ctx, slc := { s.hub.slc with m := t.hub.slc.m } }) ∧
    (∀ k : Nat, k < 64 → s.hub.slc.busy = none → s.hub.createStatus k (s.hub.rwGet 0 0xB0004 m.idx) = stOk → 0 < k → (s.hub.getKeys k).heldValid = false → s.hub.classOn 3 = true →
      Yields (.sliceCreate m k) s fun h0 t =>
        t.hub.getSlice k = { st := .active, pasid := s.hub.rwGet 0 0xB0004 m.idx, created := s.hub.now } ∧ (∀ j : Nat, j ≠ k → t.hub.getSlice j = s.hub.getSlice j) ∧
        onlyKeys k {
          cur := t.hub.deriveKeys k 0 ((List.range 32).map fun i => Config.drbg (s.hub.sec.drbg + i)) [] 0xFFFFFFFFFFFFFFFF,
          section_ := (s.hub.getKeys k).section_, policyEpoch := s.hub.clk.epoch } s.hub t.hub ∧
        t.hub.getSlcM m = { s.hub.getSlcM m with cmdStatus := stOk } ∧ (∀ x : Master, x ≠ m → t.hub.getSlcM x = s.hub.getSlcM x) ∧
        t = { s with hub := { h0 with
          slc := { s.hub.slc with e := t.hub.slc.e, keys := t.hub.slc.keys, m := t.hub.slc.m, busy := some (m, k) },
          sec := { s.hub.sec with drbg := s.hub.sec.drbg + 32 },
          chain := { s.hub.chain with queue := s.hub.chain.queue ++ [{ owner := .slices, scope := 1, target := k }] }, resp := answered s.hub m,
          er := { roleEr s.hub m 0xB0000 (2 ^ 31 + 2 ^ 28 + k) with
            sysq := (roleEr s.hub m 0xB0000 (2 ^ 31 + 2 ^ 28 + k)).sysq ++ [{ s.hub.evt 3 0x0310 with
              slice := k, origin := s.hub.originOf m, arg := s.hub.rwGet 0 0xB0004 m.idx }] } } }) ∧
    (∀ k : Nat, k < 64 → s.hub.slc.busy = none → (s.hub.getSlice k).st = .active → SMap.wf {} s.hub.ctx = true → (∀ c : Nat, (s.hub.getCtx c).cmds = []) → s.hub.cut.cuts = [] →
        s.hub.dmp.st = .idle → s.hub.dmp.next = none → s.hub.dmp.w = [] → s.hub.dmp.fires = [] → (∀ e : Nat, e < 16 → (s.hub.getEngine e).held k = 0) →
      Yields (.sliceReset m k) s (fun h0 t =>
        t.hub.slc.e = SMap.set {} s.hub.slc.e k { s.hub.getSlice k with
          st := .resetting, resets := satAdd 65535 (s.hub.getSlice k).resets 1, reset := s.hub.now, cause := 0, lostCtx := (s.hub.activeCtxs k).length,
          discarded := 0, aborted := 0, fenceErr := 0, expErr := 0, engines := [], reported := some s.hub.clk.cycle } ∧
        contextsLost k s.hub t.hub ∧ t.hub.getSlcM m = { s.hub.getSlcM m with cmdStatus := stOk } ∧
        (∀ x : Master, x ≠ m → t.hub.getSlcM x = s.hub.getSlcM x) ∧
        t = { s with hub := { lostRecords { h0 with er := roleEr s.hub m 0xB0000 (2 ^ 31 + 2 ^ 29 + k) } k with
          ctx := t.hub.ctx, slc := { s.hub.slc with e := t.hub.slc.e, m := t.hub.slc.m }, resp := answered s.hub m } }) ∧
      (s.hub.slc.exports = [] → 0 < k →
        Yields (.sliceProcessDied m k) s fun h0 t =>
          t.hub.slc.e = SMap.set {} s.hub.slc.e k { s.hub.getSlice k with
            st := .resetting, resets := satAdd 65535 (s.hub.getSlice k).resets 1, reset := s.hub.now, cause := 1, lostCtx := (s.hub.activeCtxs k).length,
            discarded := 0, aborted := 0, fenceErr := 0, expErr := 0, engines := [], reported := some s.hub.clk.cycle, died := true } ∧
          contextsLost k s.hub t.hub ∧ t.hub.getSlcM m = { s.hub.getSlcM m with cmdStatus := stOk } ∧
          (∀ x : Master, x ≠ m → t.hub.getSlcM x = s.hub.getSlcM x) ∧
          t = { s with hub := { lostRecords { h0 with er := roleEr s.hub m 0xB0000 (2 ^ 31 + 2 ^ 30 + k) } k with
            ctx := t.hub.ctx, slc := { s.hub.slc with e := t.hub.slc.e, m := t.hub.slc.m }, resp := answered s.hub m } })) ∧
    (∀ k : Nat, k < 64 → s.hub.slc.busy = none → s.hub.destroyStatus k = stOk → s.hub.slc.exports = [] → s.hub.cut.cuts = [] → s.hub.dmp.st = .idle → s.hub.dmp.next = none →
        s.hub.dmp.w = [] →
      Yields (.sliceDestroy m k) s fun h0 t =>
        (∀ u ∈ s.hub.sliceUnits k, k ≠ 0 → (u, 0) ∈ t.hub.slc.moves) ∧
        t.hub.getSlcM m = { s.hub.getSlcM m with cmdStatus := stOk } ∧ (∀ x : Master, x ≠ m → t.hub.getSlcM x = s.hub.getSlcM x) ∧
        t = wrote s m 0xB0000 (2 ^ 31 + 3 * 2 ^ 28 + k) { h0 with
          slc := { s.hub.slc with
            e := SMap.set {} s.hub.slc.e k { s.hub.getSlice k with st := .destroying, destroyTick := s.hub.now, expReleased := 0 },
            keys := SMap.set {} s.hub.slc.keys k { policyEpoch := (s.hub.getKeys k).policyEpoch }, m := t.hub.slc.m,
            moves := ((s.hub.sliceUnits k).foldl (fun h u => h.queueMove u 0) s.hub).slc.moves },
          rws := ((s.hub.sliceUnits k).foldl (fun h u => h.umapByte u 0) s.hub).rws,
          sec := { s.hub.sec with revokes := s.hub.sec.revokes.filter (· != k) } }) ∧
    (∀ k i : Nat, k < 64 → i < 65536 → (s.hub.getSlice k).st = .active → s.hub.slc.exports.length < 65536 → s.hub.exportSlice i = none → (s.hub.getFence (exportId i)).st ≠ .error →
      Yields (.exportAllocate m k i) s fun h0 t =>
        t = wrote s m 0xB0020 (2 ^ 31 + k * 2 ^ 24 + i) { h0 with slc := { s.hub.slc with
          exports := SMap.set 0 s.hub.slc.exports i (k + 1), m := SMap.upd {} s.hub.slc.m m.idx fun x => { x with expStatus := stOk } } }) ∧
    (∀ k j i : Nat, k < 64 → i < 65536 → s.hub.exportSlice i = some j → (s.hub.getFence (exportId i)).waiters = [] → (s.hub.getFence (exportId i)).st ≠ .error →
        (s.hub.getFence (exportId i)).cyc ≠ s.hub.clk.cycle + 1 →
      Yields (.exportRelease m k i) s fun h0 t =>
        onlyFence (exportId i) { s.hub.getFence (exportId i) with
          st := .error, base := (s.hub.getFence (exportId i)).value, baseSt := (s.hub.getFence (exportId i)).st, cyc := s.hub.clk.cycle + 1 } s.hub t.hub ∧
        t.hub.exportSlice i = none ∧
        t = wrote s m 0xB0020 (2 ^ 31 + 2 ^ 30 + k * 2 ^ 24 + i) { h0 with
          fence := t.hub.fence, slc := { s.hub.slc with
            exports := SMap.set 0 s.hub.slc.exports i 0, m := SMap.upd {} s.hub.slc.m m.idx fun x => { x with expStatus := stOk } } })

/-- The ID that the next cut takes (R257), and the cut of slice `k` that master `m` schedules for tick `t`. -/
def Sys2Proof.cutIdOf (h : Hub) : Nat := h.pkg * 2 ^ 22 + nextSerial h.cut.serial
def Sys2Proof.scheduledCut (h : Hub) (m : Master) (k t : Nat) (xpkg : Bool) : CutRec :=
  { id := cutIdOf h, die := false, slice := k, st := .scheduled, t := t, issued := h.clk.cycle + 1, xpkg := xpkg, origin := 2, set := [k], masters := [m],
    toArm := allStations.filter h.observed, bypassed := allStations.filter fun x => !h.observed x }

/-- Requests to the cut engine (R256, R257, R266, R268, R269, R508, R274 to R280): an auto request takes the tick CUT_LEAD.lead from now, a
cross-package one CUT_XLEAD.lead from now, each at least 5,120 ticks from now while the hub runs in fallback; a cut is scheduled with an ID and record
0x0501, or refused where policy does not allow it; a stopped cut resumes, a step begins in bench mode alone, which is enabled while only slice 0
exists. -/
def Obligations.CutRequests : Prop :=
  ∀ (s : State) (m : Master) (lead xlead : Nat), s.hub.live = true → s.hub.reaches m = true → (m = .pair ∨ s.hub.role m = 1 ∨ s.hub.role m = 3) → s.hub.er.sysq.length < 31 →
    lead = (if s.hub.clk.fallback then Nat.max (s.hub.rwGet 0x400 0x30054 0 % 2 ^ 20) 5120 else s.hub.rwGet 0x400 0x30054 0 % 2 ^ 20) →
    xlead = (if s.hub.clk.fallback then Nat.max (s.hub.rwGet 0x3E810000 0x30058 0 % 2 ^ 20) 5120 else s.hub.rwGet 0x3E810000 0x30058 0 % 2 ^ 20) →
    s.hub.leastLead ≤ lead → lead ≤ 1000000000 → s.hub.leastLead ≤ xlead → xlead ≤ 1000000000 →
    (∀ k : Nat, k < 64 → s.hub.sliceExists k = true → s.hub.cutAllowed (.master m) false k = true → s.hub.cut.cuts = [] → s.hub.classOn 5 = true →
      Yields (.cutRequest m false false false true k) s (fun h0 t =>
        t = { s with hub := { h0 with
          cut := { s.hub.cut with
            cuts := [scheduledCut s.hub m k (s.hub.now + lead) false], serial := nextSerial s.hub.cut.serial,
            known := remember s.hub.cut.known (cutIdOf s.hub, 255),
            m := SMap.set {} s.hub.cut.m m.idx { status := stOk, id := cutIdOf s.hub, cut := cutIdOf s.hub } },
          resp := answered s.hub m,
          er := { roleEr s.hub m 0x30000 (2 ^ 31 + 2 ^ 27 + k) with
            sysq := (roleEr s.hub m 0x30000 (2 ^ 31 + 2 ^ 27 + k)).sysq ++ [{ s.hub.evt 5 0x0501 with
              slice := k, origin := s.hub.originOf m, arg := cutIdOf s.hub, words := [s.hub.now + lead], aux := 16 }] } } }) ∧
      (s.hub.trainedLinks = [] →
        Yields (.cutRequest m false true false true k) s fun h0 t =>
          t = { s with hub := { h0 with
            cut := { s.hub.cut with
              cuts := [scheduledCut s.hub m k (s.hub.now + xlead) true], serial := nextSerial s.hub.cut.serial,
              known := remember s.hub.cut.known (cutIdOf s.hub, 255), sentOn := ((cutIdOf s.hub, []) :: s.hub.cut.sentOn).take 64,
              xid := cutIdOf s.hub, reported := 0, late := 0, counting := true,
              xend := s.hub.now + xlead + Nat.max 1 (field (s.hub.rwGet 0x3E810000 0x30058 0) 31 20) * 1000,
              m := SMap.set {} s.hub.cut.m m.idx { status := stOk, id := cutIdOf s.hub, cut := cutIdOf s.hub } },
            hang := { s.hub.hang with reported := [] }, resp := answered s.hub m,
            er := { roleEr s.hub m 0x30000 (2 ^ 31 + 2 ^ 29 + 2 ^ 27 + k) with
              sysq := (roleEr s.hub m 0x30000 (2 ^ 31 + 2 ^ 29 + 2 ^ 27 + k)).sysq ++ [{ s.hub.evt 5 0x0501 with
                slice := k, origin := s.hub.originOf m, arg := cutIdOf s.hub, words := [s.hub.now + xlead], aux := 18 }] } } })) ∧
    (∀ k : Nat, k < 64 → s.hub.sliceExists k = true → s.hub.cutAllowed (.master m) false k = false →
      Yields (.cutRequest m false false false true k) s fun h0 t =>
        t = wrote s m 0x30000 (2 ^ 31 + 2 ^ 27 + k) { h0 with cut := { s.hub.cut with
          m := SMap.upd {} s.hub.cut.m m.idx fun x => { x with status := stDenied, cut := 0 } } }) ∧
    (∀ (k : Nat) (r : CutRec), k < 64 → s.hub.cut.cuts = [r] → r.die = false → r.set = [k] → r.sub = [] → r.st = .stopped → s.hub.dumpHolds r false k = false →
      Yields (.cutResume m false false true k) s fun h0 t =>
        t = wrote s m 0x30030 (2 ^ 31 + 2 ^ 27 + k) { h0 with cut := { s.hub.cut with
          cuts := [{ r with st := .resuming, u := s.hub.now + lead }], m := SMap.upd {} s.hub.cut.m m.idx fun x => { x with status := stOk, cut := r.id } } }) ∧
    (∀ (n : Nat) (r : CutRec), 0 < n → n < 2 ^ 24 → s.hub.cut.bench = true → s.hub.cut.cuts = [r] → r.die = true → r.st = .stopped → r.masters = [m] →
      Yields (.cutStep m true false true n) s fun h0 t =>
        t = wrote s m 0x30040 (2 ^ 31 + 2 ^ 30 + 2 ^ 28 + n) { h0 with cut := { s.hub.cut with
          cuts := [{ r with
            st := .stepping, steps := r.steps + 1, mode := true, single := false, n := n, stepUnit := s.hub.rwGet 0 0x30044 0, u := s.hub.now + lead, timeout := 0 }],
          m := SMap.upd {} s.hub.cut.m m.idx fun x => { x with status := stOk, cut := r.id } } }) ∧
    (∀ n : Nat, n < 2 ^ 24 → s.hub.cut.bench = false →
      Yields (.cutStep m true false true n) s fun h0 t =>
        t = wrote s m 0x30040 (2 ^ 31 + 2 ^ 30 + 2 ^ 28 + n) { h0 with cut := { s.hub.cut with
          m := SMap.upd {} s.hub.cut.m m.idx fun x => { x with status := stCutBench, cut := 0 } } }) ∧
    (s.hub.role m = 3 → s.hub.cut.bench = false → (∀ k : Nat, 0 < k → s.hub.sliceExists k = false) →
      Yields (.benchModeWrite m true) s fun h0 t =>
        bit t.hub.modeBits 0 = true ∧
        t = { s with hub := { h0 with
          cut := { s.hub.cut with benchEn := true, bench := true, benchStatus := stOk }, resp := answered s.hub m,
          er := (roleEr s.hub m 0x30050 (2 ^ 31)).audit { s.hub.auditBy m 0x0807 with aux := t.hub.modeBits } } }) ∧
    (∀ k : Nat, s.hub.role m = 3 → s.hub.cut.bench = false → 0 < k → s.hub.sliceExists k = true →
      Yields (.benchModeWrite m true) s fun h0 t =>
        t = wrote s m 0x30050 (2 ^ 31) { h0 with cut := { s.hub.cut with benchEn := true, bench := false, benchStatus := stCutBench } })

/-- The hub as the idle dump engine takes the dump `d` of master `m`, with object ID `o` (Table 10.6, R348). -/
def Sys2Proof.startedDump (h : Hub) (m : Master) (d : Dump) (o : Nat) : Hub :=
  { h with dmp := { h.dmp with
    st := .plan, cur := some d, object := o, prog := 0, m := SMap.set {} h.dmp.m m.idx { status := stOk, object := o, running := true } } }

/-- Requests to the dump engine (R314 to R317, R327, R347, R350, R519): a request by the controller pair at step 5 of its hang sequence has cause 1
and the scope of that sequence's cut, any other of it, and of another master, cause 2, a context's cause 3; each takes the next object ID and puts the
idle engine into PLAN, while a busy one answers ST_BUSY. The request for a context's dump is a write of DMP_CTX and, in the hub cycle after it, one of
DMP_REQ (log entry 1). A reader moves DMP_TUN_RD forward up to the complete records; a cancelled watch slot is OFF. -/
def Obligations.DumpRequests : Prop :=
  ∀ (s : State) (m : Master) (o : Nat), s.hub.live = true → s.hub.reaches m = true → (m = .pair ∨ s.hub.role m = 1 ∨ s.hub.role m = 3) →
    o = (if s.hub.dmp.object = 0xFFFFFFFF then 1 else s.hub.dmp.object + 1) →
    (∀ k : Nat, k < 64 → (m = .pair → s.hub.hang.seq.step ≠ 5) → s.hub.rst.st = 0 → s.hub.dmp.st = .idle → s.hub.dmp.fires = [] → s.hub.sliceExists k = true →
      Yields (.dumpRequest m false true k) s fun h0 t =>
        (∃ d, t.hub.dmp.cur = some d ∧ d.req = { owner := m, cause := 2, scope := 0, slice := k, context := 0, live := true, object := o } ∧ d.start = s.hub.now ∧ d.status = stOk) ∧
        t = wrote s m 0x40000 (2 ^ 31 + 2 ^ 28 + k)
          (startedDump h0 m (s.hub.dumpOf { owner := m, cause := 2, scope := 0, slice := k, context := 0, live := true, object := o }) o)) ∧
    (∀ k : Nat, k < 64 → m = .pair → s.hub.hang.seq.step = 5 → s.hub.rst.st = 0 → s.hub.dmp.st = .idle → s.hub.dmp.fires = [] →
      Yields (.dumpRequest m false true k) s fun h0 t =>
        (∃ d, t.hub.dmp.cur = some d ∧ d.req.cause = 1 ∧ d.req.owner = .pair ∧ d.req.object = o ∧ d.req.scope = b2n s.hub.seqScope.2.1 ∧
          d.req.slice = if s.hub.seqScope.2.1 then 0 else s.hub.seqScope.2.2) ∧
        t = wrote s m 0x40000 (2 ^ 31 + 2 ^ 28 + k) { startedDump h0 m (s.hub.dumpOf {
          owner := .pair, cause := 1, scope := b2n s.hub.seqScope.2.1, slice := if s.hub.seqScope.2.1 then 0 else s.hub.seqScope.2.2, context := 0,
          live := match s.hub.seqScope.1 with | some c => c.st != .stopped | none => true, object := o }) o with
            hang := { s.hub.hang with seq := { s.hub.hang.seq with object := o } } }) ∧
    (∀ (k : Nat) (d : Dump), k < 64 → (m = .pair → s.hub.hang.seq.step ≠ 5) → s.hub.rst.st = 0 → s.hub.dmp.st = .stream → s.hub.dmp.cur = some d → s.hub.sliceExists k = true →
      Yields (.dumpRequest m false true k) s fun h0 t =>
        t = wrote s m 0x40000 (2 ^ 31 + 2 ^ 28 + k) { h0 with dmp := { s.hub.dmp with
          m := SMap.upd {} s.hub.dmp.m m.idx fun x => { x with status := stBusy, running := false } } }) ∧
    (∀ c : Nat, c < 2 ^ 18 → (m = .pair → s.hub.hang.seq.step ≠ 5) → s.hub.rst.st = 0 → s.hub.dmp.st = .idle → s.hub.dmp.fires = [] → (s.hub.getCtx c).st ≠ .free →
        s.hub.rwGet 0 0x40004 m.idx = c →
      Yields (.registerWrite m 0x40000 4 (2 ^ 31 + 2 ^ 30)) s fun h0 t =>
        (∃ d, t.hub.dmp.cur = some d ∧
          d.req = { owner := m, cause := 3, scope := 2, slice := (s.hub.getCtx c).slice, context := c, live := true, object := o }) ∧
        t = wrote s m 0x40000 (2 ^ 31 + 2 ^ 30)
          (startedDump h0 m (s.hub.dumpOf { owner := m, cause := 3, scope := 2, slice := (s.hub.getCtx c).slice, context := c, live := true, object := o }) o)) ∧
    (∀ c : Nat, c < 2 ^ 18 →
      Yields (.dumpContextRequest m c) s fun _ t =>
        ∃ u : State, exec (.registerWrite m 0x40004 4 c) s = .next u ∧ u.hub.rwGet 0 0x40004 m.idx = c ∧
          exec (.registerWrite m 0x40000 4 (2 ^ 31 + 2 ^ 30)) u.cycle = .next t) ∧
    (∀ v : Nat, v < 2 ^ 64 → s.hub.dmp.rd ≤ v → v ≤ s.hub.dmp.done →
      Yields (.tunRdWrite m v) s fun h0 t =>
        t = wroteQuiet s m { h0 with dmp := { s.hub.dmp with rd := v }, stageLo := SMap.set 0 s.hub.stageLo m.idx (v % 2 ^ 32) }) ∧
    (∀ w : Nat, w < 128 → (s.hub.getWatch w).st = .armed → (∀ f ∈ s.hub.dmp.fires, f.slot ≠ w) →
      Yields (.watchCancel m w) s fun h0 t =>
        t = wrote s m 0x4004C (2 ^ 31 + w) { h0 with dmp := { s.hub.dmp with
          w := SMap.set {} s.hub.dmp.w w { s.hub.getWatch w with st := .off, count := 0 } } })

/-- The trigger that a write of PCH_TRG_FIRE fires with condition `c` of station `x` (R174, R176). -/
def Sys2Proof.firedBy (h : Hub) (x c : Nat) : Trig :=
  { station := x, unit := x * 8, cond := c, cls := 7, tick := h.stnTick x, suppressed := h.rcTotal (pchOff x 0x4BC) 0 (8 * c), seq := (h.getStn x).reportSeq,
    slice := h.unitSlice (x * 8) }

/-- Requests about observation (R82, R174, R175, R210, R211, R216, R235, R243): a commit is queued with its scope and target, or answered with ST_BUSY
while the master's last one is pending; a write of PCH_TRG_FIRE fires the condition that waits for it, in the unit's slice and under no slice policy
(log entry 67), or counts it as suppressed during its hold-off; a flush and a release are kept to the end of the hub cycle, where the flush marks
every stored packet and the release lets every partition run; a reader moves the RD of a ring forward up to its WR; an export settles the changed
entries of its slice. -/
def Obligations.ObservationRequests : Prop :=
  ∀ (s : State) (m : Master), s.hub.live = true → s.hub.reaches m = true → (m = .pair ∨ s.hub.role m ≠ 0) →
    (∀ k : Nat, k < 64 → (s.hub.getStat m).pending = false → s.hub.sliceExists k = true →
      Yields (.commitRequest m 1 k) s fun h0 t =>
        t.hub.getStat m = { s.hub.getStat m with pending := true } ∧ (∀ x : Master, x ≠ m → t.hub.getStat x = s.hub.getStat x) ∧
        t = wrote s m 0x20 (2 ^ 31 + 2 ^ 16 + k) { h0 with chain := { s.hub.chain with
          queue := s.hub.chain.queue ++ [{ owner := .master m, scope := 1, target := k }], stat := t.hub.chain.stat } }) ∧
    (∀ p k : Nat, p < 4 → k < 2048 → (s.hub.getStat m).pending = true →
      Yields (.commitRequest m p k) s fun h0 t =>
        t.hub.getStat m = { s.hub.getStat m with status := stBusy } ∧ (∀ x : Master, x ≠ m → t.hub.getStat x = s.hub.getStat x) ∧
        t = wrote s m 0x20 (2 ^ 31 + p * 2 ^ 16 + k) { h0 with chain := { s.hub.chain with stat := t.hub.chain.stat } }) ∧
    (∀ x : Nat, s.hub.observed x = true → nothingDue s.hub x →
      (∀ c r : Nat, c < 4 → r = s.hub.pact x 4 (0x4A0 + 4 * c) → bit r 31 = true → field r 30 28 = 7 → (s.hub.getStn x).tbOn = true →
        (SMap.get 0 (s.hub.getStn x).holdoff c ≤ s.hub.clk.cycle →
          Yields (.trgFireWrite m x (2 ^ c)) s fun h0 t =>
            t = wrote s m (pchOff x 0x4B8) (2 ^ c) { withStation h0 x { s.hub.getStn x with
                holdoff := SMap.set 0 (s.hub.getStn x).holdoff c (s.hub.clk.cycle + 16 * (r % 256)),
                reportSeq := if bit r 10 = true ∨ bit r 9 = true then ((s.hub.getStn x).reportSeq + 1) % 2 ^ 32 else (s.hub.getStn x).reportSeq,
                ord := { (s.hub.getStn x).ord with
                  trig := (s.hub.getStn x).ord.trig ++ if bit r 10 = true then [firedBy s.hub x c] else [],
                  lstop := (s.hub.getStn x).ord.lstop ||| field r 15 12, lstart := (s.hub.getStn x).ord.lstart ||| field r 19 16,
                  hold := (s.hub.getStn x).ord.hold || bit r 11 } } with
              rc := SMap.set {} s.hub.rc (rcKey (pchOff x 0x4BC) 0 (8 * c)) {},
              items := s.hub.items ++ if bit r 10 = true ∨ bit r 9 = true then [{
                src := x * 8 + 4, seq := (s.hub.getStn x).reportSeq, tick := s.hub.stnTick x, kind := .trigger,
                data := [x * 8, c, 7, (firedBy s.hub x c).suppressed] }] else [],
              trc := { s.hub.trc with flits := s.hub.trc.flits ++ if bit r 9 = true then [firedBy s.hub x c] else [] } }) ∧
        (s.hub.clk.cycle < SMap.get 0 (s.hub.getStn x).holdoff c →
          Yields (.trgFireWrite m x (2 ^ c)) s fun h0 t => t = wrote s m (pchOff x 0x4B8) (2 ^ c) (h0.rcAdd (pchOff x 0x4BC) 0 (8 * c) 255 1))) ∧
      Yields (.peckFlush m x) s (fun h0 t =>
        t = wrote s m (pchOff x 0x514) 2 (withStation h0 x { s.hub.getStn x with ord := { (s.hub.getStn x).ord with flush := true } })) ∧
      Yields (.peckRelease m x) s (fun h0 t =>
        t = wrote s m (pchOff x 0x514) 1 (withStation h0 x { s.hub.getStn x with ord := { (s.hub.getStn x).ord with release := true } }))) ∧
    (∀ x : Nat, (s.hub.getStn x).ord = { flush := true } →
      s.hub.settleStn x = withStation s.hub x { s.hub.getStn x with
        ord := {},
        peck := { (s.hub.getStn x).peck with
          gen := (s.hub.getStn x).peck.gen + 1,
          part := (s.hub.getStn x).peck.part.map fun p => (p.1, { p.2 with pkts := p.2.pkts.map fun k =>
            { k with flush := if k.flush = 0 then (s.hub.getStn x).peck.gen else k.flush } }),
          rsv := (s.hub.getStn x).peck.rsv.map fun e => { e with flush := if e.flush = 0 then (s.hub.getStn x).peck.gen else e.flush } } }) ∧
    (∀ x p : Nat, (s.hub.getStn x).ord = { release := true } → p < 4 → (SMap.get {} (s.hub.getStn x).peck.part p).st ≠ .run → (s.hub.getStn x).peck.stalled = [] →
      (∀ q : Nat, SMap.get {} ((s.hub.settleStn x).getStn x).peck.part q = if q < 4 then
        { SMap.get {} (s.hub.getStn x).peck.part q with st := .run, budget := 0, budget0 := 0 } else SMap.get {} (s.hub.getStn x).peck.part q) ∧
      s.hub.settleStn x = withStation s.hub x { s.hub.getStn x with
        ord := {},
        peck := { (s.hub.getStn x).peck with
          part := ((s.hub.settleStn x).getStn x).peck.part, rsv := (s.hub.getStn x).peck.rsv.map fun e => { e with open_ := false } } }) ∧
    (∀ k v : Nat, s.hub.role m = 1 → k < 64 → v < 2 ^ 64 → (SMap.get {} s.hub.cnt.ring k).rd ≤ v → v ≤ (SMap.get {} s.hub.cnt.ring k).wr →
      Yields (.sampleRingRdWrite m k v) s fun h0 t =>
        SMap.get {} t.hub.cnt.ring k = { SMap.get {} s.hub.cnt.ring k with rd := v } ∧ (∀ j : Nat, j ≠ k → SMap.get {} t.hub.cnt.ring j = SMap.get {} s.hub.cnt.ring j) ∧
        t = wroteQuiet s m { h0 with cnt := { s.hub.cnt with ring := t.hub.cnt.ring }, stageLo := SMap.set 0 s.hub.stageLo m.idx (v % 2 ^ 32) }) ∧
    (∀ k v : Nat, s.hub.role m = 1 → k < 64 → v < 2 ^ 64 → (SMap.get {} s.hub.trc.ring k).rd ≤ v → v ≤ (SMap.get {} s.hub.trc.ring k).wr → s.hub.trc.queue = [] →
      Yields (.traceRingRdWrite m k v) s fun h0 t =>
        SMap.get {} t.hub.trc.ring k = { SMap.get {} s.hub.trc.ring k with rd := v, waiting := false } ∧
        (∀ j : Nat, j ≠ k → SMap.get {} t.hub.trc.ring j = SMap.get {} s.hub.trc.ring j) ∧
        t = wroteQuiet s m { h0 with trc := { s.hub.trc with ring := t.hub.trc.ring }, stageLo := SMap.set 0 s.hub.stageLo m.idx (v % 2 ^ 32) }) ∧
    (∀ k : Nat, s.hub.role m = 1 → k < 64 → (SMap.get {} s.hub.cnt.ring k).on = false →
      Yields (.attExport m k) s fun h0 t =>
        (∀ j : Nat, SMap.get {} t.hub.cnt.att j =
          if (SMap.get {} s.hub.cnt.att j).slice = k then { SMap.get {} s.hub.cnt.att j with changed := false } else SMap.get {} s.hub.cnt.att j) ∧
        t = wrote s m 0x72008 (2 ^ 31 + k) { h0 with cnt := { s.hub.cnt with
          att := s.hub.cnt.att.map (fun e => if e.2.slice = k then (e.1, { e.2 with changed := false }) else e),
          bucket := SMap.upd {} s.hub.cnt.bucket k fun b => { b with changed := false } } })

/-! ## The Span port (chapter 15) -/

/-- A response frame (R460, R461): header and payload of Tables 15.3 and 15.4, each followed by its CRC; bit 0 of the flags is the attention line. -/
def Sys2Proof.reply (h : Hub) (c : SpanCmd) (flags st : Nat) (p : List Byte) : List Byte :=
  withCrc (leBytes 1 0x6B ++ leBytes 1 c.cmd ++ leBytes 1 c.tag ++ leBytes 1 (flags + b2n h.attnPending) ++ leBytes 2 st ++ leBytes 2 p.length) ++ withCrc p

/-- The header of a command frame passes the checks of R462: sync byte, CRC, a payload of at most 1,024 bytes, reserved byte 0. -/
def Sys2Proof.headerOk (f : List Byte) : Prop :=
  8 ≤ f.length ∧ leAt f 0 1 = 0x5A ∧ ofBe (slice f 6 2) = crc16 (f.take 6) ∧ leAt f 4 2 ≤ 1024 ∧ leAt f 3 1 = 0

/-- The payload of a command frame is whole and its CRC is right. -/
def Sys2Proof.payloadOk (f : List Byte) : Prop :=
  leAt f 4 2 = 0 ∨ (8 + leAt f 4 2 + 2 ≤ f.length ∧ ofBe (slice f (8 + leAt f 4 2) 2) = crc16 (slice f 8 (leAt f 4 2)))

/-- Command frames (R460, R462, R463, R468, R469): a sound frame is held, while fewer than four are, and answered with ST_BUSY in its place otherwise;
a bad header is not answered and the port waits for 8 idle bytes; a missing payload or a bad CRC of it is answered with ST_SPN_CRC, a length that the
command does not allow with ST_SPN_CMD; ABORT is taken at once; in TAP mode, behind a MODE and until the idle bytes have been seen no frame does
anything. -/
def Obligations.SpanFrames : Prop :=
  ∀ (s : State) (f p : List Byte) (cmd tag : Nat), s.hub.live = true → cmd = leAt f 1 1 → tag = leAt f 2 1 → p = slice f 8 (leAt f 4 2) →
    ((s.hub.span.tap = true ∨ s.hub.span.mode = true ∨ s.hub.span.resync = true) →
      Yields (.spanFrameReceive f) s fun h0 t => t = { s with hub := h0 }) ∧
    (s.hub.span.resync = true →
      Yields .spanLaneResync s fun h0 t => t = { s with hub := { h0 with span := { s.hub.span with resync := false } } }) ∧
    (s.hub.span.tap = false → s.hub.span.mode = false → s.hub.span.resync = false →
      (¬ headerOk f →
        Yields (.spanFrameReceive f) s fun h0 t =>
          t = { s with hub := { h0 with span := { s.hub.span with resync := true }, rc := (h0.rcAdd 0x90014 0 24 255 1).rc } }) ∧
      (headerOk f → ¬ payloadOk f → s.hub.span.held = [] →
        Yields (.spanFrameReceive f) s fun h0 t =>
          t = { s with hub := { h0 with
            span := { s.hub.span with sent := s.hub.span.sent ++ [reply s.hub ⟨cmd, tag, [], 0⟩ 0 stSpnCrc []], status := stSpnCrc },
            rc := (h0.rcAdd 0x90014 0 (if 8 + leAt f 4 2 + 2 ≤ f.length then 16 else 8) 255 1).rc } }) ∧
      (∀ (c : SpanCmd) (q : List SpanCmd), headerOk f → ¬ payloadOk f → s.hub.span.held = c :: q → c.refuse = 0 →
        Yields (.spanFrameReceive f) s fun h0 t =>
          t = { s with hub := { h0 with
            span := { s.hub.span with held := s.hub.span.held ++ [⟨cmd, tag, [], stSpnCrc⟩] },
            rc := (h0.rcAdd 0x90014 0 (if 8 + leAt f 4 2 + 2 ≤ f.length then 16 else 8) 255 1).rc } }) ∧
      (∀ (c : SpanCmd) (q : List SpanCmd), headerOk f → payloadOk f → spanLenOk cmd p = false → s.hub.span.held = c :: q → c.refuse = 0 →
        Yields (.spanFrameReceive f) s fun h0 t =>
          t = { s with hub := { h0 with span := { s.hub.span with held := s.hub.span.held ++ [⟨cmd, tag, p, stSpnCmd⟩] } } }) ∧
      (headerOk f → payloadOk f → spanLenOk cmd p = true → cmd ≠ 5 → (∀ c, s.hub.span.held.head? = some c → c.refuse = 0) →
          (s.hub.span.held.filter fun c => c.refuse == 0).length < 4 →
        Yields (.spanFrameReceive f) s fun h0 t =>
          t = { s with hub := { h0 with
            span := { s.hub.span with held := s.hub.span.held ++ [⟨cmd, tag, p, 0⟩], mode := decide (cmd = 6) } } }) ∧
      (headerOk f → payloadOk f → spanLenOk cmd p = true → cmd ≠ 5 → (∀ c, s.hub.span.held.head? = some c → c.refuse = 0) →
          4 ≤ (s.hub.span.held.filter fun c => c.refuse == 0).length →
        Yields (.spanFrameReceive f) s fun h0 t =>
          t = { s with hub := { h0 with span := { s.hub.span with held := s.hub.span.held ++ [⟨cmd, tag, p, stBusy⟩] } } }) ∧
      (headerOk f → leAt f 4 2 = 0 → cmd = 5 →
        Yields (.spanFrameReceive f) s fun h0 t => t = { s with hub := { h0 with span := { s.hub.span with abort := some tag } } }))

/-- The commands of the Span port (R463 to R469): STATUS answers four registers; READ answers the words from its offset on, WRITE writes them, the
words one after the other in hub cycles of their own (log entry 1), and both answer ST_SPN_RANGE for what lies outside the hub's range; a BULK from
the firkin or the Tun sends its bytes in frames of at most 1,016, the last one marked, with ST_HUB_ECC from the frame on that holds an uncorrectable
word, and ends with ST_SPN_NOPATH where the Tun cannot be reached; ABORT ends a running BULK, or answers the commands held, with ST_ABORTED, then
itself; MODE selects TAP mode with the instruction IDCODE. -/
def Obligations.SpanCommands : Prop :=
  ∀ (s : State) (c : SpanCmd) (q : List SpanCmd), s.hub.live = true →
    (s.hub.span.abort = none → s.hub.span.bulk = none → s.hub.span.held = c :: q → c.refuse = 0 → (∀ d, q.head? = some d → d.refuse = 0) →
      (c.cmd = 1 →
        Yields .spanStatus s fun h0 t =>
          t = { s with hub := { h0 with span := { s.hub.span with
            held := q, status := stOk, sent := s.hub.span.sent ++ [reply s.hub c 0 stOk (leBytes 4 (s.hub.wordAt .span 0) ++ leBytes 4 (s.hub.wordAt .span 0x60) ++
              leBytes 4 (s.hub.wordAt .span 0x94) ++ leBytes 4 (s.hub.wordAt .span 0x90004))] } } }) ∧
      (∀ o : Nat, c.cmd = 2 → leAt c.payload 0 4 = o → leAt c.payload 4 2 = 1 → o % 4 = 0 → 0x1000000 ≤ o → o + 4 ≤ 0x1800000 →
        Yields .spanRead s fun h0 t =>
          t = { s with hub := { h0 with span := { s.hub.span with
            held := q, status := stOk, sent := s.hub.span.sent ++ [reply s.hub c 0 stOk (s.mem.firkinRead (o - 0x1000000) 4)] } } }) ∧
      (∀ (o n : Nat) (l : List Nat), c.cmd = 2 → leAt c.payload 0 4 = o → leAt c.payload 4 2 = n → 0 < n → n ≤ 254 → o % 4 = 0 →
          o + (if bit (leAt c.payload 6 1) 0 then 4 else 4 * n) ≤ 0x2000000 →
          l = (List.range n).map (fun k => if bit (leAt c.payload 6 1) 0 then o else o + 4 * k) →
        Yields .spanRead s fun h0 t =>
          ∃ (a : List (Nat × Bool)) (u : State), (a, u) = State.each .spanRead Hub.spanGet l { s with hub := h0 } ∧ a.length = n ∧
            t = u.does fun _ h => h.spanDone c (a.any (·.2)) (a.flatMap fun x => leBytes 4 x.1)) ∧
      (∀ w : Nat, c.cmd = 3 → leAt c.payload 0 4 = 0x90008 → leAt c.payload 4 2 = 1 → bit (leAt c.payload 6 1) 0 = false → leAt c.payload 8 4 = w →
        Yields .spanWrite s fun h0 t =>
          t.hub.rwGet 0x1FF 0x90008 0 = w % 512 ∧ (∀ k : Nat, k ≠ 0x90008 * 4 → SMap.get 0 t.hub.rw k = SMap.get 0 s.hub.rw k) ∧
          t = { s with hub := { h0 with
            rw := t.hub.rw, er := roleEr s.hub .span 0x90008 w,
            span := { s.hub.span with held := q, status := stOk, sent := s.hub.span.sent ++ [reply t.hub c 0 stOk []] } } }) ∧
      (∀ (o n : Nat) (l : List Nat), c.cmd = 3 → leAt c.payload 0 4 = o → leAt c.payload 4 2 = n → 0 < n → n ≤ 254 → o % 4 = 0 →
          o + (if bit (leAt c.payload 6 1) 0 then 4 else 4 * n) ≤ 0x2000000 →
          l = (List.range n).map (fun k => if bit (leAt c.payload 6 1) 0 then o else o + 4 * k) →
        Yields .spanWrite s fun h0 t =>
          ∃ (a : List (Nat × Bool)) (u : State),
            (a, u) = State.each .spanWrite Hub.spanPut (l.zip ((List.range n).map fun k => leAt c.payload (8 + 4 * k) 4)) { s with hub := h0 } ∧ a.length = n ∧
            t = u.does fun _ h => h.spanDone c (a.any (·.2)) []) ∧
      (∀ o n : Nat, (c.cmd = 2 ∨ c.cmd = 3) → leAt c.payload 0 4 = o → leAt c.payload 4 2 = n →
          (n = 0 ∨ 254 < n ∨ o % 4 ≠ 0 ∨ 0x2000000 < o + (if bit (leAt c.payload 6 1) 0 then 4 else 4 * n)) →
        Yields (if c.cmd = 2 then .spanRead else .spanWrite) s fun h0 t =>
          t = { s with hub := { h0 with
            span := { s.hub.span with held := q, status := stSpnRange, sent := s.hub.span.sent ++ [reply s.hub c 0 stSpnRange []] },
            rc := (h0.rcAdd 0x90014 0 0 255 1).rc } }) ∧
      (∀ space o n : Nat, c.cmd = 4 → leAt c.payload 0 1 = space → space ≤ 1 → leAt c.payload 4 8 = o → leAt c.payload 12 4 = n → o % 8 = 0 → n % 8 = 0 → 8 ≤ n →
          o + n ≤ (if space = 0 then 0x800000 else s.hub.boot.tunSize) →
        Yields .spanBulk s fun h0 t =>
          t = { s with hub := { h0 with span := { s.hub.span with bulk := some { firkin := decide (space = 0), off := o, len := n } } } }) ∧
      (c.cmd = 4 → leAt c.payload 0 1 ≤ 1 → leAt c.payload 12 4 % 8 ≠ 0 →
        Yields .spanBulk s fun h0 t =>
          t = { s with hub := { h0 with
            span := { s.hub.span with held := q, status := stSpnRange, sent := s.hub.span.sent ++ [reply s.hub c 0 stSpnRange []] },
            rc := (h0.rcAdd 0x90014 0 0 255 1).rc } }) ∧
      (c.cmd = 6 →
        Yields .spanMode s fun h0 t =>
          t = { s with hub := { h0 with span := { s.hub.span with
            held := [], mode := false, tap := true, ir := 1, status := stOk, sent := s.hub.span.sent ++ [reply s.hub c 0 stOk []] } } })) ∧
    (∀ (b : Bulk) (a n : Nat), s.hub.span.abort = none → s.hub.span.bulk = some b → s.hub.span.held = c :: q → (∀ d, q.head? = some d → d.refuse = 0) →
        a = b.off + b.sent → n = Nat.min 1016 (b.len - b.sent) →
      (∀ (st : Nat) (d : List Byte),
          (b.firkin = true ∧ d = s.mem.firkinRead a n ∨
            b.firkin = false ∧ d = s.mem.hbmRead (s.hub.boot.tunBase + a) n ∧ s.hub.nocUp = true ∧ s.hub.boot.failedCh = []) →
          (b.status = stOk ∧ b.firkin = true ∧ (∃ w ∈ s.hub.ecc.firkinBad, a / 8 ≤ w ∧ 8 * w < a + n) ∧ st = stHubEcc ∨
            (b.status ≠ stOk ∨ b.firkin = false ∨ ∀ w ∈ s.hub.ecc.firkinBad, 8 * w + 8 ≤ a ∨ a + n ≤ 8 * w) ∧ st = b.status) →
        (b.sent + n < b.len →
          Yields .spanBulkFrame s fun h0 t =>
            t = { s with hub := { h0 with span := { s.hub.span with
              bulk := some { b with sent := b.sent + n, status := st }, sent := s.hub.span.sent ++ [reply s.hub c 0 st (leBytes 8 a ++ d)] } } }) ∧
        (b.len ≤ b.sent + n → st ≠ stSpnCmd → st ≠ stSpnRange →
          Yields .spanBulkFrame s fun h0 t =>
            t = { s with hub := { h0 with span := { s.hub.span with
              held := q, bulk := none, status := st, sent := s.hub.span.sent ++ [reply s.hub c 2 st (leBytes 8 a ++ d)] } } })) ∧
      (b.firkin = false → s.hub.nocUp = false →
        Yields .spanBulkFrame s fun h0 t =>
          t = { s with hub := { h0 with span := { s.hub.span with
            held := q, bulk := none, status := stSpnNopath,
            sent := s.hub.span.sent ++ [reply s.hub c 2 stSpnNopath (if b.sent = 0 then [] else leBytes 8 a)] } } })) ∧
    (∀ (tag : Nat) (b : Bulk), s.hub.span.abort = some tag → s.hub.span.held = [c] → s.hub.span.bulk = some b →
      Yields .spanAbort s fun h0 t =>
        t = { s with hub := { h0 with span := { s.hub.span with
          held := [], bulk := none, abort := none, mode := false, status := stOk,
          sent := s.hub.span.sent ++ [reply s.hub c 2 stAborted (leBytes 8 (b.off + b.sent)), reply s.hub ⟨5, tag, [], 0⟩ 0 stOk []] } } }) ∧
    (∀ (tag : Nat) (d : SpanCmd), s.hub.span.abort = some tag → s.hub.span.held = [c, d] → s.hub.span.bulk = none → c.refuse = 0 → d.refuse = 0 →
      Yields .spanAbort s fun h0 t =>
        t = { s with hub := { h0 with span := { s.hub.span with
          held := [], abort := none, mode := false, status := stOk,
          sent := s.hub.span.sent ++ [reply s.hub c 0 stAborted [], reply s.hub d 0 stAborted [], reply s.hub ⟨5, tag, [], 0⟩ 0 stOk []] } } })

/-- TAP mode (R471 to R473): an instruction selects its data register: the IDCODE, one bit of BYPASS, or that of REGACC, whose update starts one
access unless another runs or a reserved field is not 0, and whose capture takes the data, status and busy bit of the last one; FRAME leaves TAP mode;
in frame mode (the model's choice of log entry 33) none of them does anything. -/
def Obligations.TapAccess : Prop :=
  ∀ (s : State) (dr : Nat), s.hub.live = true →
    (s.hub.span.tap = true →
      Yields .tapIdcode s (fun h0 t => t = { s with hub := { h0 with span := { s.hub.span with ir := 1, dr := 0x3C1085B3 } } }) ∧
      Yields .tapBypass s (fun h0 t => t = { s with hub := { h0 with span := { s.hub.span with ir := 15, dr := 0 } } }) ∧
      Yields .tapReset s (fun h0 t => t = { s with hub := { h0 with span := { s.hub.span with ir := 1 } } }) ∧
      Yields .tapFrame s (fun h0 t => t = { s with hub := { h0 with span := { s.hub.span with ir := 9, dr := 0, tap := false } } }) ∧
      Yields .tapRegaccCapture s (fun h0 t => t = { s with hub := { h0 with span := { s.hub.span with
        ir := 8, dr := s.hub.span.tapData + s.hub.span.tapStatus * 2 ^ 32 + (if s.hub.span.acc.isSome then 2 ^ 63 else 0) } } })) ∧
    (s.hub.span.tap = true → dr < 2 ^ 64 →
      (s.hub.span.acc = none → dr < 2 ^ 58 → dr / 2 ^ 32 % 4 = 0 →
        Yields (.tapRegaccUpdate dr) s fun h0 t =>
          t = { s with hub := { h0 with span := { s.hub.span with ir := 8, dr := dr, acc := some dr } } }) ∧
      (s.hub.span.acc = none → (2 ^ 58 ≤ dr ∨ dr / 2 ^ 32 % 4 ≠ 0) →
        Yields (.tapRegaccUpdate dr) s fun h0 t =>
          t = { s with hub := { h0 with span := { s.hub.span with ir := 8, dr := dr, tapStatus := stSpnRange } } }) ∧
      (s.hub.span.acc ≠ none →
        Yields (.tapRegaccUpdate dr) s fun h0 t => t = { s with hub := { h0 with span := { s.hub.span with ir := 8, dr := dr } } })) ∧
    (s.hub.span.tap = false → ∀ c ∈ [Instr.tapIdcode, .tapBypass, .tapReset, .tapFrame, .tapRegaccCapture, .tapRegaccUpdate dr],
      Yields c s fun h0 t => t = { s with hub := h0 })
/-! ## Requests of firmware and of the other masters -/

/-- The hub with master `m`'s part of the security unit as `x`. -/
def Sys2Proof.withSecM (h : Hub) (m : Master) (x : SecM) : Hub := { h with sec := { h.sec with m := SMap.set {} h.sec.m m.idx x } }

/-- Requests to the hub's engines (R77, R134, R289, R310, R372 to R374, R396, R400, R476): a scan starts, or counts an overrun while one runs; a read
of HUB_VERDICT removes the head entry, and firmware that reads one begins a hang sequence when none runs, joins the one that runs up to its second
step, or waits for the next; firmware's record takes its class, code and buffer, and a class that firmware may not write is answered with ST_ER_CLASS;
the spill's reader moves forward; firmware's message sets attention reason 8; a calendar value is pending for its tick, applies at once where that has
passed, or is refused while another is pending or where the tick is too far away; a go gives an idle enabled bank its job, and answers ST_BUSY while
the bank has one. -/
def Obligations.EngineRequests : Prop :=
  ∀ (s : State) (m : Master), s.hub.live = true → s.hub.er.sysq.length < 31 →
    (s.hub.boot.pairRunning = true →
      (s.hub.hang.scan = none →
        Yields .scanStart s fun h0 t => t = wrote s .pair 0x110 (2 ^ 31) { h0 with hang := { s.hub.hang with scan := some 0, overNow := 0 } }) ∧
      (s.hub.hang.scan ≠ none →
        Yields .scanStart s fun h0 t => t = wrote s .pair 0x110 (2 ^ 31) { h0 with rc := (h0.rcSet 0x114 0 30).rc }) ∧
      (∀ cls code : Nat, 3 ≤ cls → cls ≤ 7 → code < 65536 → s.hub.classOn cls = true →
        Yields (.erFwRecord cls code) s fun h0 t =>
          t = wroteQuiet s .pair { h0 with er := { roleEr s.hub .pair 0x60028 (2 ^ 31 + cls * 2 ^ 24 + code) with
            sysq := (roleEr s.hub .pair 0x60028 (2 ^ 31 + cls * 2 ^ 24 + code)).sysq ++ [{ s.hub.evt cls code with
              origin := Master.pair.origin, image := (List.range 128).flatMap fun i => leBytes 4 (SMap.get 0 s.hub.er.fwBuf i) }],
            fwQueued := ((s.hub.er.sysq ++ s.hub.er.builds.map (·.req)).filter fun r => !r.image.isEmpty).length + 1, fwStatus := stOk } }) ∧
      (∀ cls code : Nat, (cls < 3 ∨ 7 < cls ∨ s.hub.classOn cls = false) → cls < 16 → code < 65536 →
        Yields (.erFwRecord cls code) s fun h0 t =>
          t = wroteQuiet s .pair { h0 with er := { roleEr s.hub .pair 0x60028 (2 ^ 31 + cls * 2 ^ 24 + code) with fwQueued := 0, fwStatus := stErClass } }) ∧
      (∀ code : Nat, code < 65536 →
        Yields (.attnMessageSet code) s fun h0 t =>
          t = wrote s .pair 0x9000C (2 ^ 31 + code) { h0 with
            span := { s.hub.span with msg := code, attn := s.hub.span.attn ||| 256 }, cyc := { s.hub.cyc with attn := s.hub.cyc.attn ||| 256 } })) ∧
    (s.hub.reaches m = true → (m = .pair ∨ s.hub.role m = 1 ∨ s.hub.role m = 3) →
      (∀ (c k : Nat) (q : List (Nat × Nat)), s.hub.verdicts = (c, k) :: q →
        (m ≠ .pair →
          Yields (.verdictPop m) s fun h0 t =>
            t = { s with hub := { h0 with
              hang := { s.hub.hang with fifo := s.hub.hang.fifo.tail }, resp := SMap.set {} s.hub.resp m.idx ⟨(2 ^ 31 + k * 2 ^ 18 + c) % 2 ^ 32, false⟩ } }) ∧
        (m = .pair → s.hub.hang.seq.step = 0 → s.hub.hang.waiting = [] → s.hub.hang.dieWaiting = false →
          Yields (.verdictPop m) s fun h0 t =>
            t = { s with hub := { h0 with
              hang := { s.hub.hang with
                fifo := s.hub.hang.fifo.tail, sequences := s.hub.hang.sequences + 1,
                seq := { step := 1, number := s.hub.hang.sequences + 1, joined := [(c, k, (s.hub.getCtx c).idle)], die := bit s.hub.hangCfg 30, slice := k } },
              resp := SMap.set {} s.hub.resp m.idx ⟨(2 ^ 31 + k * 2 ^ 18 + c) % 2 ^ 32, false⟩ } }) ∧
        (m = .pair → s.hub.hang.seq.step ≠ 0 →
          Yields (.verdictPop m) s fun h0 t =>
            t = { s with hub := { h0 with
              hang := if s.hub.hang.seq.step < 3 ∧ (s.hub.hang.seq.die = true ∨ s.hub.hang.seq.slice = k)
                then { s.hub.hang with
                  fifo := s.hub.hang.fifo.tail, seq := { s.hub.hang.seq with joined := s.hub.hang.seq.joined ++ [(c, k, (s.hub.getCtx c).idle)] } }
                else { s.hub.hang with fifo := s.hub.hang.fifo.tail, waiting := s.hub.hang.waiting ++ [(c, k, (s.hub.getCtx c).idle)] },
              resp := SMap.set {} s.hub.resp m.idx ⟨(2 ^ 31 + k * 2 ^ 18 + c) % 2 ^ 32, false⟩ } })) ∧
      (s.hub.verdicts = [] →
        Yields (.verdictPop m) s fun h0 t => t = { s with hub := { h0 with resp := SMap.set {} s.hub.resp m.idx ⟨0, false⟩ } }) ∧
      (∀ v : Nat, v < 2 ^ 64 → s.hub.er.spillRd ≤ v → v ≤ s.hub.er.spillWr →
        Yields (.spillRdWrite m v) s fun h0 t =>
          t = wroteQuiet s m { h0 with er := { s.hub.er with spillRd := v }, stageLo := SMap.set 0 s.hub.stageLo m.idx (v % 2 ^ 32) }) ∧
      (∀ (b x len limit : Nat) (dec : Bool), b < 4 → x < 4 → len = s.hub.rwGet 0 (0x50110 + 0x4000 * b) m.idx → limit = s.hub.rwGet 0 (0x50114 + 0x4000 * b) m.idx →
        ((SMap.get {} s.hub.ce.bank b).busy = true →
          Yields (if dec then .ceDecodeJob m b x else .ceEncodeJob m b x) s fun h0 t =>
            t = wrote s m (0x50118 + 0x4000 * b) (2 ^ 31 + (if dec then 2 ^ 30 else 0) + x * 2 ^ 28) { h0 with ce := { s.hub.ce with
              job := SMap.upd {} s.hub.ce.job (b * 4 + m.idx) fun j => { j with status := stBusy } } }) ∧
        ((SMap.get {} s.hub.ce.bank b).busy = false → bit (s.hub.ceCtl b) 31 = true → 0 < len → len ≤ chunkSize → 0 < limit → limit ≤ 16777216 → s.hub.nocUp = true →
            s.hub.boot.tunBase + tunDataOff ≤ s.hub.rwGet 0 (0x50100 + 0x4000 * b) m.idx →
            s.hub.rwGet 0 (0x50100 + 0x4000 * b) m.idx + len ≤ s.hub.boot.tunBase + s.hub.boot.tunSize →
            s.hub.boot.tunBase + tunDataOff ≤ s.hub.rwGet 0 (0x50108 + 0x4000 * b) m.idx →
            s.hub.rwGet 0 (0x50108 + 0x4000 * b) m.idx + limit ≤ s.hub.boot.tunBase + s.hub.boot.tunSize →
          Yields (if dec then .ceDecodeJob m b x else .ceEncodeJob m b x) s fun h0 t =>
            t = wrote s m (0x50118 + 0x4000 * b) (2 ^ 31 + (if dec then 2 ^ 30 else 0) + x * 2 ^ 28) { h0 with ce := { s.hub.ce with
              bank := SMap.upd {} s.hub.ce.bank b fun k => { k with
                busy := true, owner := some m, decode := dec, block := 0, src := s.hub.rwGet 0 (0x50100 + 0x4000 * b) m.idx,
                dst := s.hub.rwGet 0 (0x50108 + 0x4000 * b) m.idx, len := len, limit := limit, xform := x, raw := bit (s.hub.ceCtl b) 30, inDone := 0, outDone := 0 },
              job := SMap.upd {} s.hub.ce.job (b * 4 + m.idx) fun j => { busy := true, failValid := !dec && j.failValid, fail := if dec then 0 else j.fail } } }))) ∧
    (∀ (v at_ : Nat) (e : Er), s.hub.reaches m = true → s.hub.role m = 1 → v < 2 ^ 64 → at_ = s.hub.rwGet 0 0x10010 0 →
        e = roleEr { s.hub with er := roleEr s.hub m 0x10018 (v % 2 ^ 32) } m 0x1001C (v / 2 ^ 32) →
      (s.hub.cal.pending = false → s.hub.now < at_ → at_ ≤ s.hub.now + 10000000000 →
        Yields (.calendarSetRequest m v) s fun h0 t =>
          t.hub.rwGet 0 0x10018 0 = v ∧ (∀ k : Nat, k ≠ 0x10018 * 4 → SMap.get 0 t.hub.rw k = SMap.get 0 s.hub.rw k) ∧
          t = wroteQuiet s m { h0 with
            cal := { s.hub.cal with status := stOk, pending := true, applyAt := at_, value := v, by_ := s.hub.originOf m },
            rw := t.hub.rw, er := e, stageLo := SMap.set 0 s.hub.stageLo m.idx (v % 2 ^ 32) }) ∧
      (s.hub.cal.pending = false → at_ ≤ s.hub.now → s.hub.now ≤ at_ + 1000000000 →
        Yields (.calendarSetRequest m v) s fun h0 t =>
          t.hub.rwGet 0 0x10018 0 = v ∧ (∀ k : Nat, k ≠ 0x10018 * 4 → SMap.get 0 t.hub.rw k = SMap.get 0 s.hub.rw k) ∧
          ∃ r : Req, r = clockSetOf { s.hub with cal := { s.hub.cal with applyAt := at_, value := v, by_ := s.hub.originOf m } } ∧
            t = wroteQuiet s m { h0 with
              cal := { s.hub.cal with
                status := stOk, valid := true, pending := false, applyAt := at_, value := v, by_ := s.hub.originOf m,
                offset := (v + 2 ^ 64 - at_ % 2 ^ 64) % 2 ^ 64, gen := if s.hub.cal.gen = 0xFFFF then 1 else s.hub.cal.gen + 1,
                setCyc := s.hub.clk.cycle + 1, oldOffset := s.hub.cal.offset, oldGen := s.hub.cal.gen },
              rw := t.hub.rw, stageLo := SMap.set 0 s.hub.stageLo m.idx (v % 2 ^ 32),
              er := if e.chainStarted = true ∧ e.gap.pending = false ∧ e.auditLoad < 511 ∧ e.sysq.length < 32
                then { e with clockSet := e.clockSet ++ [r] } else e.auditGap r }) ∧
      (s.hub.cal.pending = true ∨ at_ + 1000000000 < s.hub.now ∨ s.hub.now + 10000000000 < at_ →
        Yields (.calendarSetRequest m v) s fun h0 t =>
          t.hub.rwGet 0 0x10018 0 = v ∧ (∀ k : Nat, k ≠ 0x10018 * 4 → SMap.get 0 t.hub.rw k = SMap.get 0 s.hub.rw k) ∧
          t = wroteQuiet s m { h0 with
            cal := { s.hub.cal with status := if s.hub.cal.pending then stBusy else stTimRange },
            rw := t.hub.rw, er := e, stageLo := SMap.set 0 s.hub.stageLo m.idx (v % 2 ^ 32) }))

/-- Commands to the security unit (R406, R409 to R411, R413, R417): a go of a role command, a registration or a token starts the check of the master's
buffer against the nonce in force and the role held, and a drop ends the role at once with record 0x0811; while a check runs a go is answered with
ST_BUSY, and one other than a drop leaves its refusal record. After each a new nonce is due, which is drawn at the end of the hub cycle. What ends by
itself (R411, R419, R421): a role at the end of its lease, with audit record 0x0811; the released key one second after the release; a revoke issues
its scope-1 commit once the security unit's last one has taken effect and the loader is idle. -/
def Obligations.SecurityRequests : Prop :=
   (∀ (s : State) (m : Master), s.hub.live = true → s.hub.reaches m = true → (m = .host ∨ m = .span) →
      (∀ k op : Nat, (s.hub.getSecM m).check = none → k < 64 → (op = 1 ∧ k = 0 ∨ op = 4 ∧ k = 0 ∨ op = 3 ∧ s.hub.role m = 1) →
        Yields (if op = 1 then .roleCommand m else if op = 4 then .tokenLodge m else .ownerRegister m k) s fun h0 t =>
          t = wroteQuiet s m (withSecM h0 m { s.hub.getSecM m with
            nonceDue := true,
            check := some ⟨op, k, (s.hub.getSecM m).bytes 256, (s.hub.getSecM m).nonce, s.hub.role m, s.hub.clk.cycle⟩ })) ∧
      ((s.hub.getSecM m).check = none →
        Yields (.roleDrop m) s fun h0 t =>
          t = wroteQuiet s m { withSecM h0 m (if s.hub.role m = 0
              then { s.hub.getSecM m with check := none, nonceDue := true, status := stOk, reason := 0 }
              else { s.hub.getSecM m with check := none, nonceDue := true, role := 0, leaseEnd := 0, status := stOk, reason := 0 }) with
            er := if s.hub.role m = 0 then s.hub.er
              else s.hub.er.audit { s.hub.auditBy m 0x0811 with origin := m.origin + 16 * (s.hub.getSecM m).role, aux := 0 } }) ∧
      ((s.hub.getSecM m).check ≠ none →
        (∀ (c : Instr) (r : Req),
            (c = .roleCommand m ∧ r = { s.hub.auditBy m 0x0812 with status := stBusy, arg := leAt ((s.hub.getSecM m).bytes 256) 6 1 }) ∨
            (c = .tokenLodge m ∧ r = { s.hub.secEvt m 0x0822 (tokenSlice ((s.hub.getSecM m).bytes 256)) with
              status := stBusy, aux := 256 * leAt ((s.hub.getSecM m).bytes 256) 6 1, arg := leAt ((s.hub.getSecM m).bytes 256) 0x20 8 }) ∨
            (s.hub.role m = 1 ∧ ∃ k : Nat, k < 64 ∧ c = .ownerRegister m k ∧ r = { s.hub.secEvt m 0x0828 k with status := stBusy, aux := stBusy, arg := k }) →
          Yields c s fun h0 t =>
            t = wroteQuiet s m { withSecM h0 m { s.hub.getSecM m with nonceDue := true, status := stBusy, reason := 0 } with er := s.hub.er.audit r }) ∧
        Yields (.roleDrop m) s fun h0 t =>
          t = wroteQuiet s m (withSecM h0 m { s.hub.getSecM m with nonceDue := true, status := stBusy, reason := 0 })) ∧
      ((s.hub.getSecM m).nonceDue = true → (∀ x : Master, x ≠ m → (s.hub.getSecM x).nonceDue = false) →
        s.hub.noncesDue = { withSecM s.hub m { s.hub.getSecM m with
            nonceDue := false, nonce := (List.range 16).map fun i => Config.drbg (s.hub.sec.drbg + i) } with
          sec := { (withSecM s.hub m { s.hub.getSecM m with
            nonceDue := false, nonce := (List.range 16).map fun i => Config.drbg (s.hub.sec.drbg + i) }).sec with drbg := s.hub.sec.drbg + 16 } })) ∧
   (∀ (s : State) (m : Master), s.hub.live = true →
      ((s.hub.getSecM m).role ≠ 0 → (s.hub.getSecM m).leaseEnd ≤ s.hub.sec.lease →
        Yields (.roleLeaseExpiry m) s fun h0 t =>
          t.hub.getSecM m = { s.hub.getSecM m with role := 0, leaseEnd := 0 } ∧ (∀ x : Master, x ≠ m → t.hub.getSecM x = s.hub.getSecM x) ∧
          t = { s with hub := { h0 with
            sec := { s.hub.sec with m := t.hub.sec.m },
            er := s.hub.er.audit { s.hub.auditBy m 0x0811 with origin := m.origin + 16 * (s.hub.getSecM m).role, aux := 1 } } }) ∧
      ((s.hub.getSecM m).keyoutFull = true → (s.hub.getSecM m).keyoutEnd ≤ s.hub.now →
        Yields (.keyoutExpiry m) s fun h0 t =>
          t.hub.getSecM m = { s.hub.getSecM m with keyout := [], keyoutOld := [], keyoutFull := false } ∧ (∀ x : Master, x ≠ m → t.hub.getSecM x = s.hub.getSecM x) ∧
          t = { s with hub := { h0 with sec := { s.hub.sec with m := t.hub.sec.m } } }) ∧
      (∀ (k : Nat) (q : List Nat), s.hub.sec.revokes = k :: q → (∀ c ∈ s.hub.chain.queue, c.owner ≠ .security) → (∀ c, s.hub.chain.cur = some c → c.owner ≠ .security) →
          s.hub.ldr.st = .idle →
        Yields .revokeCommit s fun h0 t =>
          t.hub.chain.queue = s.hub.chain.queue ++ [{ owner := .security, scope := 1, target := k }] ∧
          t = { s with hub := { h0 with sec := { s.hub.sec with revokes := q }, chain := { s.hub.chain with queue := t.hub.chain.queue } } }))
end

