-- ==== Sys2Proof/Laws/SMap.lean ====
section
/-!
SUPPORT. Laws/SMap.lean: what sparse data reads as after a write, and that every write keeps its canonical form.
-/
namespace Sys2Proof.Machine

variable {α : Type}

/-! ## Reads after writes -/

@[simp] theorem SMap.get_nil (d : α) (k : Nat) : SMap.get d [] k = d := rfl

theorem SMap.get_all (p : α → Prop) (d : α) (m : SMap α) (hd : p d) (hm : ∀ e ∈ m, p e.2) (k : Nat) : p (SMap.get d m k) := by
  induction m with
  | nil => exact hd
  | cons e m ih =>
    simp only [SMap.get]
    split
    · exact hm e (by simp)
    · exact ih fun x hx => hm x (by simp [hx])

theorem SMap.get_del_self (d : α) (m : SMap α) (k : Nat) : SMap.get d (SMap.del m k) k = d := by
  induction m with
  | nil => rfl
  | cons e r ih =>
    obtain ⟨j, v⟩ := e
    by_cases h : k = j <;> simp [SMap.del, SMap.get, h]
    · subst h; exact ih
    · exact ih

theorem SMap.get_del_ne (d : α) (m : SMap α) {k a : Nat} (h : a ≠ k) : SMap.get d (SMap.del m k) a = SMap.get d m a := by
  induction m with
  | nil => rfl
  | cons e r ih =>
    obtain ⟨j, v⟩ := e
    by_cases hj : k = j
    · subst hj; simp [SMap.del, SMap.get, h, ih]
    · by_cases ha : a = j <;> simp [SMap.del, SMap.get, hj, ha]
      exact ih

theorem SMap.get_put_self (d : α) (m : SMap α) (k : Nat) (v : α) (h : ∀ e ∈ m, e.1 ≠ k) : SMap.get d (SMap.put m k v) k = v := by
  induction m with
  | nil => simp [SMap.put, SMap.get]
  | cons e r ih =>
    obtain ⟨j, w⟩ := e
    have hj : k ≠ j := fun x => h (j, w) (by simp) x.symm
    by_cases hlt : k < j
    · simp [SMap.put, SMap.get, hlt]
    · simp [SMap.put, SMap.get, hlt, hj]
      exact ih fun e he => h e (by simp [he])

theorem SMap.get_put_ne (d : α) (m : SMap α) {k a : Nat} (v : α) (h : a ≠ k) : SMap.get d (SMap.put m k v) a = SMap.get d m a := by
  induction m with
  | nil => simp [SMap.put, SMap.get, h]
  | cons e r ih =>
    obtain ⟨j, w⟩ := e
    by_cases hlt : k < j
    · simp [SMap.put, SMap.get, hlt, h]
    · by_cases ha : a = j <;> simp [SMap.put, SMap.get, hlt, ha]
      exact ih

theorem SMap.del_keys (m : SMap α) (k : Nat) : ∀ e ∈ SMap.del m k, e.1 ≠ k := by
  induction m with
  | nil => intro e he; cases he
  | cons x r ih =>
    obtain ⟨j, w⟩ := x
    intro e he
    by_cases hj : k = j
    · subst hj; simp [SMap.del] at he; exact ih e he
    · simp [SMap.del, hj] at he
      rcases he with rfl | he
      · exact fun x => hj x.symm
      · exact ih e he

/-! ## Runs and splices -/

theorem SMap.get_append_left (d : α) (m n : SMap α) (a : Nat) (h : ∀ e ∈ n, e.1 ≠ a) : SMap.get d (m ++ n) a = SMap.get d m a := by
  induction m with
  | nil =>
    induction n with
    | nil => rfl
    | cons e r ih =>
      obtain ⟨j, w⟩ := e
      have hj : a ≠ j := fun x => h (j, w) (by simp) x.symm
      simp [SMap.get, hj]
      have := ih fun e he => h e (by simp [he])
      simpa using this
  | cons e r ih =>
    obtain ⟨j, w⟩ := e
    by_cases hj : a = j <;> simp [SMap.get, hj]
    exact ih

theorem SMap.get_append_right (d : α) (m n : SMap α) (a : Nat) (h : ∀ e ∈ m, e.1 ≠ a) : SMap.get d (m ++ n) a = SMap.get d n a := by
  induction m with
  | nil => rfl
  | cons e r ih =>
    obtain ⟨j, w⟩ := e
    have hj : a ≠ j := fun x => h (j, w) (by simp) x.symm
    simp [SMap.get, hj]
    exact ih fun e he => h e (by simp [he])

theorem SMap.get_filter (d : α) (m : SMap α) (p : Nat → Bool) (a : Nat) (h : p a = true) :
    SMap.get d (m.filter fun e => p e.1) a = SMap.get d m a := by
  induction m with
  | nil => rfl
  | cons e r ih =>
    obtain ⟨j, w⟩ := e
    by_cases hj : a = j
    · subst hj; simp [SMap.get, h]
    · by_cases hp : p j <;> simp [hp, SMap.get, hj, ih]

/-- A map whose values are changed by a function that keeps the default reads as changed. -/
theorem SMap.get_map (d : α) (m : SMap α) (f : Nat → α → α) (k : Nat) (h : f k d = d) :
    SMap.get d (m.map fun r => (r.1, f r.1 r.2)) k = f k (SMap.get d m k) := by
  induction m with
  | nil => exact h.symm
  | cons e r ih =>
    obtain ⟨j, v⟩ := e
    by_cases hj : k = j
    · subst hj; simp [SMap.get]
    · simp [SMap.get, hj, ih]

variable [DecidableEq α]

@[simp] theorem SMap.get_set_self (d : α) (m : SMap α) (k : Nat) (v : α) : SMap.get d (SMap.set d m k v) k = v := by
  unfold SMap.set
  split
  · next h => rw [SMap.get_del_self, h]
  · exact SMap.get_put_self d _ k v (SMap.del_keys m k)

@[simp] theorem SMap.get_set_ne (d : α) (m : SMap α) {k a : Nat} (v : α) (h : a ≠ k) :
    SMap.get d (SMap.set d m k v) a = SMap.get d m a := by
  unfold SMap.set
  split
  · exact SMap.get_del_ne d m h
  · rw [SMap.get_put_ne d _ v h, SMap.get_del_ne d m h]

@[simp] theorem SMap.get_upd_self (d : α) (m : SMap α) (k : Nat) (f : α → α) : SMap.get d (SMap.upd d m k f) k = f (SMap.get d m k) :=
  SMap.get_set_self d m k _

@[simp] theorem SMap.get_upd_ne (d : α) (m : SMap α) {k a : Nat} (f : α → α) (h : a ≠ k) :
    SMap.get d (SMap.upd d m k f) a = SMap.get d m a := SMap.get_set_ne d m _ h

theorem SMap.run_keys (d : α) (l : List α) (k : Nat) : ∀ e ∈ SMap.run d k l, k ≤ e.1 ∧ e.1 < k + l.length := by
  induction l generalizing k with
  | nil => intro e he; cases he
  | cons v vs ih =>
    intro e he
    have step : e ∈ SMap.run d (k + 1) vs → k ≤ e.1 ∧ e.1 < k + (v :: vs).length := fun h => by
      have := ih (k + 1) e h
      simp; omega
    unfold SMap.run at he
    split at he
    · exact step he
    · rcases List.mem_cons.mp he with rfl | he
      · simp
      · exact step he

/-- A run reads as its list. -/
theorem SMap.get_run (d : α) (l : List α) (k i : Nat) (h : i < l.length) : SMap.get d (SMap.run d k l) (k + i) = l.getD i d := by
  induction l generalizing k i with
  | nil => simp at h
  | cons v vs ih =>
    cases i with
    | zero =>
      unfold SMap.run
      split
      · next hv =>
        have : ∀ e ∈ SMap.run d (k + 1) vs, e.1 ≠ k := fun e he => by
          have := SMap.run_keys d vs (k + 1) e he
          omega
        have := SMap.get_append_left d [] (SMap.run d (k + 1) vs) k this
        simpa [hv] using this
      · simp [SMap.get]
    | succ i =>
      have hi : i < vs.length := by simpa using h
      have := ih (k + 1) i hi
      unfold SMap.run
      have hk : k + (i + 1) ≠ k := by omega
      have hc : k + 1 + i = k + (i + 1) := by omega
      rw [hc] at this
      split <;> simp [SMap.get, this]

/-- Outside the spliced keys nothing changes. -/
theorem SMap.get_splice_out (d : α) (m : SMap α) (k : Nat) (l : List α) (a : Nat) (h : a < k ∨ k + l.length ≤ a) :
    SMap.get d (SMap.splice d m k l) a = SMap.get d m a := by
  unfold SMap.splice
  have hr : ∀ e ∈ SMap.run d k l, e.1 ≠ a := fun e he => by
    have := SMap.run_keys d l k e he
    omega
  rcases h with h | h
  · have h3 : ∀ e ∈ m.filter (fun e => decide (k + l.length ≤ e.1)), e.1 ≠ a := fun e he => by
      have := (List.mem_filter.mp he).2
      simp at this; omega
    rw [SMap.get_append_left d _ _ a h3, SMap.get_append_left d _ _ a hr]
    exact SMap.get_filter d m (fun j => decide (j < k)) a (by simpa using h)
  · have h1 : ∀ e ∈ m.filter (fun e => decide (e.1 < k)) ++ SMap.run d k l, e.1 ≠ a := fun e he => by
      rcases List.mem_append.mp he with he | he
      · have := (List.mem_filter.mp he).2
        simp at this; omega
      · exact hr e he
    rw [SMap.get_append_right d _ _ a h1]
    exact SMap.get_filter d m (fun j => decide (k + l.length ≤ j)) a (by simpa using h)

/-- The spliced keys read as the list. -/
theorem SMap.get_splice_in (d : α) (m : SMap α) (k : Nat) (l : List α) (i : Nat) (h : i < l.length) :
    SMap.get d (SMap.splice d m k l) (k + i) = l.getD i d := by
  unfold SMap.splice
  have h3 : ∀ e ∈ m.filter (fun e => decide (k + l.length ≤ e.1)), e.1 ≠ k + i := fun e he => by
    have := (List.mem_filter.mp he).2
    simp at this; omega
  have h1 : ∀ e ∈ m.filter (fun e => decide (e.1 < k)), e.1 ≠ k + i := fun e he => by
    have := (List.mem_filter.mp he).2
    simp at this; omega
  rw [SMap.get_append_left d _ _ _ h3, SMap.get_append_right d _ _ _ h1, SMap.get_run d l k i h]

/-! ## The canonical form -/

theorem SMap.wfFrom_cons (d : α) (n j : Nat) (v : α) (r : SMap α) :
    SMap.wfFrom d n ((j, v) :: r) = true ↔ n ≤ j ∧ v ≠ d ∧ SMap.wfFrom d (j + 1) r = true := by
  simp [SMap.wfFrom, and_assoc]

theorem SMap.wfFrom_mono (d : α) (m : SMap α) {n k : Nat} (h : n ≤ k) (w : SMap.wfFrom d k m = true) : SMap.wfFrom d n m = true := by
  cases m with
  | nil => rfl
  | cons e r =>
    obtain ⟨j, v⟩ := e
    rw [SMap.wfFrom_cons] at *
    exact ⟨by omega, w.2⟩

theorem SMap.wfFrom_append (d : α) (m n : SMap α) (a b : Nat) (hm : SMap.wfFrom d a m = true) (hn : SMap.wfFrom d b n = true)
    (h : ∀ e ∈ m, e.1 < b) (hab : a ≤ b) : SMap.wfFrom d a (m ++ n) = true := by
  induction m generalizing a with
  | nil => exact SMap.wfFrom_mono d n hab hn
  | cons e r ih =>
    obtain ⟨j, v⟩ := e
    rw [SMap.wfFrom_cons] at hm
    have hj : j < b := h (j, v) (by simp)
    rw [List.cons_append, SMap.wfFrom_cons]
    exact ⟨hm.1, hm.2.1, ih (j + 1) hm.2.2 (fun e he => h e (by simp [he])) hj⟩

theorem SMap.wfFrom_filter (d : α) (m : SMap α) (n : Nat) (p : Nat × α → Bool) (w : SMap.wfFrom d n m = true) :
    SMap.wfFrom d n (m.filter p) = true := by
  induction m generalizing n with
  | nil => rfl
  | cons e r ih =>
    obtain ⟨j, v⟩ := e
    rw [SMap.wfFrom_cons] at w
    by_cases hp : p (j, v)
    · rw [List.filter_cons_of_pos hp, SMap.wfFrom_cons]
      exact ⟨w.1, w.2.1, ih (j + 1) w.2.2⟩
    · rw [List.filter_cons_of_neg hp]
      exact SMap.wfFrom_mono d _ (by omega : n ≤ j + 1) (ih (j + 1) w.2.2)

theorem SMap.wfFrom_run (d : α) (l : List α) (k : Nat) : SMap.wfFrom d k (SMap.run d k l) = true := by
  induction l generalizing k with
  | nil => rfl
  | cons v vs ih =>
    unfold SMap.run
    split
    · exact SMap.wfFrom_mono d _ (by omega : k ≤ k + 1) (ih (k + 1))
    · next hv => exact (SMap.wfFrom_cons d k k v _).mpr ⟨by omega, hv, ih (k + 1)⟩

theorem SMap.wfFrom_raise (d : α) (m : SMap α) (n k : Nat) (w : SMap.wfFrom d n m = true) (h : ∀ e ∈ m, k ≤ e.1) :
    SMap.wfFrom d k m = true := by
  cases m with
  | nil => rfl
  | cons e r =>
    obtain ⟨j, v⟩ := e
    rw [SMap.wfFrom_cons] at *
    exact ⟨h (j, v) (by simp), w.2⟩

/-- A splice keeps the canonical form. -/
theorem SMap.wf_splice (d : α) (m : SMap α) (k : Nat) (l : List α) (w : SMap.wf d m = true) : SMap.wf d (SMap.splice d m k l) = true := by
  unfold SMap.wf SMap.splice at *
  have h1 : ∀ e ∈ m.filter (fun e => decide (e.1 < k)), e.1 < k := fun e he => by simpa using (List.mem_filter.mp he).2
  have h2 : ∀ e ∈ m.filter (fun e => decide (k + l.length ≤ e.1)), k + l.length ≤ e.1 := fun e he => by
    simpa using (List.mem_filter.mp he).2
  have hr : ∀ e ∈ SMap.run d k l, e.1 < k + l.length := fun e he => (SMap.run_keys d l k e he).2
  have a := SMap.wfFrom_append d _ _ 0 k (SMap.wfFrom_filter d m 0 _ w) (SMap.wfFrom_run d l k) h1 (by omega)
  refine SMap.wfFrom_append d _ _ 0 (k + l.length) a (SMap.wfFrom_raise d _ 0 _ (SMap.wfFrom_filter d m 0 _ w) h2) ?_ (by omega)
  intro e he
  rcases List.mem_append.mp he with he | he
  · have := h1 e he; omega
  · exact hr e he

theorem SMap.wfFrom_del (d : α) (m : SMap α) (n k : Nat) (w : SMap.wfFrom d n m = true) : SMap.wfFrom d n (SMap.del m k) = true := by
  induction m generalizing n with
  | nil => rfl
  | cons e r ih =>
    obtain ⟨j, v⟩ := e
    rw [SMap.wfFrom_cons] at w
    by_cases hj : k = j
    · simp only [SMap.del, hj, if_true]
      rw [hj] at ih
      exact SMap.wfFrom_mono d _ (by omega : n ≤ j + 1) (ih (j + 1) w.2.2)
    · simp only [SMap.del, hj, if_false]
      exact (SMap.wfFrom_cons d n j v _).mpr ⟨w.1, w.2.1, ih (j + 1) w.2.2⟩

theorem SMap.wfFrom_put (d : α) (m : SMap α) (n k : Nat) (v : α) (hv : v ≠ d) (hn : n ≤ k) (w : SMap.wfFrom d n m = true)
    (h : ∀ e ∈ m, e.1 ≠ k) : SMap.wfFrom d n (SMap.put m k v) = true := by
  induction m generalizing n with
  | nil => exact (SMap.wfFrom_cons d n k v []).mpr ⟨hn, hv, rfl⟩
  | cons e r ih =>
    obtain ⟨j, x⟩ := e
    rw [SMap.wfFrom_cons] at w
    have hj : j ≠ k := h (j, x) (by simp)
    by_cases hlt : k < j
    · simp only [SMap.put, hlt, if_true]
      exact (SMap.wfFrom_cons d n k v _).mpr ⟨hn, hv, (SMap.wfFrom_cons d (k + 1) j x r).mpr ⟨by omega, w.2.1, w.2.2⟩⟩
    · simp only [SMap.put, hlt, if_false]
      exact (SMap.wfFrom_cons d n j x _).mpr ⟨w.1, w.2.1, ih (j + 1) (by omega) w.2.2 fun e he => h e (by simp [he])⟩

/-- A write of one key keeps the canonical form. -/
theorem SMap.wf_set (d : α) (m : SMap α) (k : Nat) (v : α) (w : SMap.wf d m = true) : SMap.wf d (SMap.set d m k v) = true := by
  unfold SMap.wf SMap.set at *
  split
  · exact SMap.wfFrom_del d m 0 k w
  · next hv => exact SMap.wfFrom_put d _ 0 k v hv (by omega) (SMap.wfFrom_del d m 0 k w) (SMap.del_keys m k)

theorem SMap.mem_splice (d : α) (m : SMap α) (k : Nat) (l : List α) : ∀ e ∈ SMap.splice d m k l, e ∈ m ∨ e.1 < k + l.length := by
  intro e he
  unfold SMap.splice at he
  rcases List.mem_append.mp he with he | he
  · rcases List.mem_append.mp he with he | he
    · exact .inl (List.mem_filter.mp he).1
    · exact .inr (SMap.run_keys d l k e he).2
  · exact .inl (List.mem_filter.mp he).1

/-- Reading a map whose values have been changed reads the changed value, where the change keeps the default. -/
theorem SMap.get_mapVal (d : α) (f : Nat → α → α) (h : ∀ k, f k d = d) (m : SMap α) (k : Nat) :
    SMap.get d (SMap.mapVal d f m) k = f k (SMap.get d m k) := by
  induction m with
  | nil => simp [SMap.mapVal, SMap.get, h]
  | cons e r ih =>
    obtain ⟨j, v⟩ := e
    unfold SMap.mapVal
    by_cases hk : k = j
    · subst hk
      split
      · rename_i hd
        rw [SMap.get_del_self]; simp [SMap.get, hd]
      · simp [SMap.get]
    · split
      · rw [SMap.get_del_ne d _ hk, ih]; simp [SMap.get, hk]
      · simp [SMap.get, hk, ih]

end Sys2Proof.Machine
end

