-- ==== Sys2Proof/Laws/Run.lean ====
section
/-!
SUPPORT. Laws/Run.lean: what running a command can do: the state that follows, the queue, the memories and their canonical form; and what a record
request and an interrupt leave alone.
-/
namespace Sys2Proof.Machine

/-! ## The hub before a command -/

@[simp] theorem takes_live (h : Hub) (c : Instr) : (h.takes c).live = h.live := rfl

@[simp] theorem taken_hub (s : State) (c : Instr) : (s.taken c).hub = s.hub.takes c := rfl

@[simp] theorem taken_mem (s : State) (c : Instr) : (s.taken c).mem = s.mem := rfl

@[simp] theorem taken_pending (s : State) (c : Instr) : (s.taken c).pending = s.pending := rfl

@[simp] theorem does_pending (s : State) (f : Mem → Hub → Hub) : (s.does f).pending = s.pending := rfl

@[simp] theorem cycle_pending (s : State) : s.cycle.pending = s.pending := rfl

@[simp] theorem hubCycle_pending (s : State) : (hubCycle s).pending = s.pending := rfl

/-- A hub cycle that begins has no place taken. -/
@[simp] theorem hubCycle_turn (s : State) : (hubCycle s).hub.turn = [] := rfl

/-- With no place taken, every command may be taken. -/
theorem inTurn_start (h : Hub) (c : Instr) (e : h.turn = []) : h.inTurn c = true := by
  unfold Hub.inTurn
  rw [e]
  simp

@[simp] theorem hubCycle_inTurn (s : State) (c : Instr) : (hubCycle s).hub.inTurn c = true := inTurn_start _ c rfl

/-- A command in its turn takes its places in the hub cycle that runs. -/
theorem atTurn_in (s : State) (c : Instr) (e : s.hub.inTurn c = true) : s.atTurn c = { s with hub := s.hub.takes c } := by
  unfold State.atTurn
  rw [e]
  rfl

/-- A command whose turn has passed is taken in the next hub cycle. -/
theorem atTurn_out (s : State) (c : Instr) (e : s.hub.inTurn c = false) : s.atTurn c = (hubCycle s).atTurn c := by
  rw [atTurn_in (hubCycle s) c (hubCycle_inTurn s c)]
  unfold State.atTurn
  rw [e]
  rfl

@[simp] theorem atTurn_pending (s : State) (c : Instr) : (s.atTurn c).pending = s.pending := by
  unfold State.atTurn
  split <;> rfl

/-- A command on a hub that is out of reset has its effect. -/
theorem run_live (c : Instr) (f : Mem → Hub → Hub) (s : State) (e : s.hub.inTurn c = true) (l : s.hub.live = true) :
    run c f s = .next (State.does { s with hub := s.hub.takes c } f) := by
  unfold run runAny
  rw [atTurn_in s c e]
  unfold State.does
  simp [l]

/-- A command on a hub in reset has none. -/
theorem run_dead (c : Instr) (f : Mem → Hub → Hub) (s : State) (e : s.hub.inTurn c = true) (l : s.hub.live = false) :
    run c f s = .next { s with hub := s.hub.takes c } := by
  unfold run runAny
  rw [atTurn_in s c e]
  unfold State.does
  simp [l]
  exact ⟨rfl, rfl⟩

/-- A command whose turn has passed runs as it does at the start of the next hub cycle. -/
theorem run_out (c : Instr) (f : Mem → Hub → Hub) (s : State) (e : s.hub.inTurn c = false) : run c f s = run c f (hubCycle s) := by
  unfold run runAny
  rw [atTurn_out s c e]

/-! ## Memory -/

@[simp] theorem Mem.apply_nil (m : Mem) : m.apply [] = m := rfl

theorem Mem.apply_cons (m : Mem) (w : MemWrite) (l : List MemWrite) : m.apply (w :: l) = (m.write w).apply l := rfl

theorem writeBytes_bound (size : Nat) (m : SMap Byte) (a : Nat) (b : List Byte) (h : m.all (fun c => decide (c.1 < size)) = true) :
    (writeBytes size m a b).all (fun c => decide (c.1 < size)) = true := by
  unfold writeBytes
  rw [List.all_eq_true] at *
  intro e he
  by_cases hz : size ≤ a
  · have hb : b.take (size - a) = [] := by
      have : size - a = 0 := by omega
      rw [this]; rfl
    rw [hb] at he
    have hm : e ∈ m := by
      unfold SMap.splice at he
      simp [SMap.run] at he
      rcases he with he | he
      · exact he.1
      · exact he.1
    exact h e hm
  · rcases SMap.mem_splice (0 : Byte) m a _ e he with he | he
    · exact h e he
    · have : (b.take (size - a)).length ≤ size - a := List.length_take_le _ _
      simp; omega

/-- One write of the hub keeps the canonical form of the memories. -/
theorem Mem.wf_write (m : Mem) (w : MemWrite) (h : m.wf = true) : (m.write w).wf = true := by
  unfold Mem.wf at *
  simp only [Bool.and_eq_true] at h
  obtain ⟨⟨⟨⟨⟨h1, h2⟩, h3⟩, h4⟩, h5⟩, h6⟩ := h
  unfold Mem.write
  split <;> simp only [Bool.and_eq_true]
  · exact ⟨⟨⟨⟨⟨SMap.wf_splice _ _ _ _ h1, h2⟩, h3⟩, writeBytes_bound _ _ _ _ h4⟩, h5⟩, h6⟩
  · exact ⟨⟨⟨⟨⟨h1, h2⟩, SMap.wf_splice _ _ _ _ h3⟩, h4⟩, h5⟩, writeBytes_bound _ _ _ _ h6⟩

/-- The writes of a command keep the canonical form of the memories. -/
theorem Mem.wf_apply (m : Mem) (l : List MemWrite) (h : m.wf = true) : (m.apply l).wf = true := by
  induction l generalizing m with
  | nil => exact h
  | cons w l ih => exact ih (m.write w) (Mem.wf_write m w h)

/-- An effect on the hub keeps the canonical form of the memories. -/
theorem does_wf (s : State) (f : Mem → Hub → Hub) (w : s.mem.wf = true) : (s.does f).mem.wf = true := Mem.wf_apply _ _ w

/-- One hub cycle keeps the canonical form of the memories. -/
theorem cycle_wf (s : State) (w : s.mem.wf = true) : s.cycle.mem.wf = true := by
  have h := Mem.wf_apply s.mem (Hub.tick s.mem s.hub).out w
  unfold State.cycle Mem.wf at *
  simp only [Bool.and_eq_true] at *
  obtain ⟨⟨⟨⟨⟨h1, -⟩, h3⟩, h4⟩, -⟩, h6⟩ := h
  exact ⟨⟨⟨⟨⟨h1, h1⟩, h3⟩, h4⟩, h4⟩, h6⟩

/-- One hub cycle keeps the canonical form of the memories. -/
theorem hubCycle_wf (s : State) (w : s.mem.wf = true) : (hubCycle s).mem.wf = true := cycle_wf _ w

theorem atTurn_wf (s : State) (c : Instr) (w : s.mem.wf = true) : (s.atTurn c).mem.wf = true := by
  unfold State.atTurn
  split
  · exact w
  · exact hubCycle_wf s w

theorem runAny_wf (c : Instr) (f : Mem → Hub → Hub) (s t : State) (h : runAny c f s = .next t) (w : s.mem.wf = true) : t.mem.wf = true := by
  cases h
  exact does_wf _ _ (atTurn_wf s c w)

/-- Every command that is run keeps the canonical form of the memories. -/
theorem run_wf (c : Instr) (f : Mem → Hub → Hub) (s t : State) (h : run c f s = .next t) (w : s.mem.wf = true) : t.mem.wf = true :=
  runAny_wf c _ s t h w

/-- Every command that is run leaves the queue alone. -/
theorem run_pending (c : Instr) (f : Mem → Hub → Hub) (s t : State) (h : run c f s = .next t) : t.pending = s.pending := by
  cases h
  simp

/-- Accesses made one after the other keep the canonical form of the memories. -/
theorem each_wf {α β : Type} (c : Instr) (f : α → Mem → Hub → β × Hub) (l : List α) (s : State) (w : s.mem.wf = true) :
    (State.each c f l s).2.mem.wf = true := by
  fun_induction State.each c f l s with
  | case1 s => exact w
  | case2 s a => exact does_wf _ _ w
  | case3 s a b r y ih => exact ih (cycle_wf _ (does_wf _ _ w))

/-- They leave the queue alone. -/
@[simp] theorem each_pending {α β : Type} (c : Instr) (f : α → Mem → Hub → β × Hub) (l : List α) (s : State) :
    (State.each c f l s).2.pending = s.pending := by
  fun_induction State.each c f l s with
  | case1 s => rfl
  | case2 s a => rfl
  | case3 s a b r y ih => exact ih

/-- Losing the island's supply keeps the canonical form of the memories. -/
theorem Mem.wf_islandLoss (m : Mem) (h : Hub) (w : m.wf = true) : (m.islandLoss h).wf = true := by
  unfold Mem.islandLoss
  split
  · unfold Mem.wf at *
    simp only [Bool.and_eq_true] at *
    obtain ⟨⟨⟨⟨⟨-, -⟩, h3⟩, -⟩, -⟩, h6⟩ := w
    exact ⟨⟨⟨⟨⟨rfl, rfl⟩, h3⟩, rfl⟩, rfl⟩, h6⟩
  · exact w

/-! ## What interrupts and record requests leave alone -/

/-- `h` with the parts of `g` that a record request may change: the recorder, RC fields, the interrupts and the cycle's marks. -/
def Hub.withRecords (h g : Hub) : Hub := { h with er := g.er, rc := g.rc, irq := g.irq, cyc := g.cyc }

theorem irqRaise_frame (h : Hub) (v : Nat) : h.irqRaise v = { h with irq := (h.irqRaise v).irq, cyc := (h.irqRaise v).cyc } := rfl

theorem irqAll_frame (h : Hub) (l : List Nat) : h.irqAll l = { h with irq := (h.irqAll l).irq, cyc := (h.irqAll l).cyc } := by
  induction l generalizing h with
  | nil => rfl
  | cons v l ih =>
    have : h.irqAll (v :: l) = (h.irqRaise v).irqAll l := rfl
    rw [this, ih (h.irqRaise v)]
    rfl

theorem rcAdd_frame (h : Hub) (off mi lsb max n : Nat) : h.rcAdd off mi lsb max n = { h with rc := (h.rcAdd off mi lsb max n).rc } := by
  unfold Hub.rcAdd
  split <;> rfl

/-- A record request changes nothing but the recorder, its lost counts and the interrupts. -/
theorem record_frame (h : Hub) (r : Req) : h.record r = h.withRecords (h.record r) := by
  unfold Hub.record
  split
  · rw [irqAll_frame]; rfl
  · split
    · rfl
    · split
      · split
        · rfl
        · rw [rcAdd_frame]; rfl
      · split
        · rfl
        · rw [rcAdd_frame]; rfl

/-- A record request of a class that is on and not audit enters the system queue while that has room. -/
theorem record_sysq (h : Hub) (r : Req) (on : h.classOn r.cls = true) (c : r.cls ≠ 8) (t : r.trigger = none) (q : h.er.sysq.length < 32) :
    h.record r = { h with er := { h.er with sysq := h.er.sysq ++ [r] } } := by
  unfold Hub.record
  simp [on, c, t, q]

end Sys2Proof.Machine
end

