-- ==== Sys2Proof/Laws/Access.lean ====
section
/-!
SUPPORT. Laws/Access.lean: everything a register access of a master can do, said once for each shared operation: the audit records of an access, a
32-bit write, an access of one word, and the random draws.
-/
namespace Sys2Proof.Machine

/-- An audit request changes nothing but the recorder. -/
theorem record_audit (h : Hub) (r : Req) (c : r.cls = 8) : h.record r = { h with er := h.er.audit r } := by
  unfold Hub.record Hub.classOn
  simp [c]

/-- A refused access changes nothing but the recorder (R18). -/
theorem refusal_eq (h : Hub) (m : Master) (b : Bool) (off v : Nat) :
    h.refusal m b off v = { h with er := h.er.audit { h.auditBy m 0x0802 with status := stDenied, aux := b2n b, arg := off, words := [v] } } :=
  record_audit _ _ rfl

/-- The record of an accepted write changes nothing but the recorder (R408). -/
theorem roleWrite_eq (h : Hub) (m : Master) (l : Loc) (off v : Nat) :
    h.roleWrite m l off v =
      if h.role m = 0 ∨ l.exempt v = true then h else { h with er := h.er.audit { h.auditBy m 0x0813 with arg := off, words := [v] } } := by
  unfold Hub.roleWrite
  split
  · rfl
  · exact record_audit _ _ rfl

/-- An audit request enters the system queue, or is counted as not written; nothing else of the recorder changes (R395). -/
theorem audit_cases (e : Er) (r : Req) :
    e.audit r = { e with sysq := e.sysq ++ [r] } ∨
      e.audit r = { e with gapTotal := (e.audit r).gapTotal, preGap := (e.audit r).preGap, gap := (e.audit r).gap } := by
  unfold Er.audit
  split
  · right
    unfold Er.auditGap
    simp only
    split <;> rfl
  · exact .inl rfl

/-- A 32-bit write: nothing, a refusal, or the register's effect with the staged word joined (R8, R13, R18, R407, R408). -/
theorem write32_cases (h : Hub) (mem : Mem) (m : Master) (off w : Nat) :
    h.write32 mem m off w = (false, h) ∨
    (∃ l, locate off = some l ∧ l.writable = true ∧ h.mayWrite m l w = false ∧ h.write32 mem m off w = (true, h.refusal m true off w)) ∨
    (∃ l, locate off = some l ∧ l.writable = true ∧ h.mayWrite m l w = true ∧ h.lostSlot l = false ∧
      ((∃ v g, ((h.slotReached off).roleWrite m l off w).stageWord m l w = (some v, g) ∧ h.write32 mem m off w = (false, g.regWrite mem m l v)) ∨
       ∃ g, ((h.slotReached off).roleWrite m l off w).stageWord m l w = (none, g) ∧ h.write32 mem m off w = (false, g))) := by
  unfold Hub.write32
  cases e : locate off with
  | none => exact .inl rfl
  | some l =>
    simp only
    by_cases a : l.writable = true
    · by_cases b : h.mayWrite m l w = true
      · by_cases c : h.lostSlot l = true
        · simp [a, b, c]
        · have c : h.lostSlot l = false := by simpa using c
          refine .inr (.inr ⟨l, rfl, a, b, c, ?_⟩)
          simp only [a, b, c]
          cases d : ((h.slotReached off).roleWrite m l off w).stageWord m l w with
          | mk x g => cases x with
            | none => exact .inr ⟨g, rfl, rfl⟩
            | some v => exact .inl ⟨v, g, rfl, rfl⟩
      · have b : h.mayWrite m l w = false := by simpa using b
        exact .inr (.inl ⟨l, rfl, a, b, by simp [a, b]⟩)
    · simp [a]

/-- A write of one aligned word (R7). -/
theorem busWrite_word (h : Hub) (mem : Mem) (m : Master) (off w : Nat) (r : h.reaches m = true) (a : off % 4 = 0) (b : w < 2 ^ 32) :
    h.busWrite mem m off 4 w = (h.write32 mem m off w).2.respond m 0 (h.write32 mem m off w).1 := by
  have e : w % 4294967296 = w := Nat.mod_eq_of_lt b
  unfold Hub.busWrite
  simp [r, a, e]

/-- A read of one aligned word (R7). -/
theorem busRead_word (h : Hub) (mem : Mem) (m : Master) (off : Nat) (r : h.reaches m = true) (a : off % 4 = 0) :
    h.busRead mem m off 4 = (h.read32 mem m off).2.2.respond m ((h.read32 mem m off).1 % 2 ^ 32) (h.read32 mem m off).2.1 := by
  have e : off / 4 * 4 = off := by omega
  unfold Hub.busRead
  simp [r, a, e]

/-- A master that does not reach the hub does nothing (R99, R477). -/
theorem bus_unreached (h : Hub) (mem : Mem) (m : Master) (off size v : Nat) (r : h.reaches m = false) :
    h.busRead mem m off size = h ∧ h.busWrite mem m off size v = h := by
  unfold Hub.busRead Hub.busWrite
  simp [r]

/-- A flag that is set touches only its field, the vector and the marks of the cycle. -/
theorem rcFlag_frame (h : Hub) (off lsb v : Nat) :
    h.rcFlag off lsb v = { h with rc := (h.rcFlag off lsb v).rc, irq := (h.rcFlag off lsb v).irq, cyc := (h.rcFlag off lsb v).cyc } := by
  unfold Hub.rcFlag Hub.rcSet Hub.rcAdd
  simp only
  split <;> rfl

end Sys2Proof.Machine
end

