-- ==== Sys2Proof/Laws/Bits.lean ====
section
/-!
SUPPORT. Laws/Bits.lean: lengths of byte lists, values of little-endian bytes, and bits of the masks of Machine/Bits.lean.
-/
namespace Sys2Proof.Machine

@[simp] theorem leBytes_length (n v : Nat) : (leBytes n v).length = n := by
  induction n generalizing v with
  | zero => rfl
  | succ n ih => simp [leBytes, ih]

@[simp] theorem beBytes_length (n v : Nat) : (beBytes n v).length = n := by simp [beBytes]

@[simp] theorem zeros_length (n : Nat) : (zeros n).length = n := by simp [zeros]

@[simp] theorem slice_length (l : List Byte) (off n : Nat) : (slice l off n).length = n := by
  simp [slice]

@[simp] theorem padTo_length (n : Nat) (l : List Byte) : (padTo n l).length = n := by simp [padTo]

@[simp] theorem sha384_length (b : List Byte) : (sha384 b).length = 48 := by simp [sha384]

@[simp] theorem SMap.getList_length {α : Type} (d : α) (m : SMap α) (k n : Nat) : (SMap.getList d m k n).length = n := by
  simp [SMap.getList]

theorem roundUp_ge (n v : Nat) (h : 0 < n) : v ≤ roundUp n v := by
  have e := Nat.div_add_mod (v + n - 1) n
  have m := Nat.mod_lt (v + n - 1) h
  rw [Nat.mul_comm] at e
  show v ≤ (v + n - 1) / n * n
  omega

/-- A block is as long as its body says. -/
@[simp] theorem mkBlock_length (flags x index : Nat) (raw body : List Byte) : (mkBlock flags x index raw body).length = blockLen body.length := by
  have := roundUp_ge 8 (16 + body.length + 4) (by omega)
  simp [mkBlock, blockLen]
  omega

/-- The value of a number's bytes is the number, cut to their width. -/
theorem ofLe_leBytes (n v : Nat) : ofLe (leBytes n v) = v % 256 ^ n := by
  induction n generalizing v with
  | zero => simp [leBytes, ofLe, Nat.mod_one]
  | succ n ih =>
    show (BitVec.ofNat 8 v).toNat + 256 * ofLe (leBytes n (v / 256)) = v % 256 ^ (n + 1)
    rw [ih, Nat.pow_succ, Nat.mul_comm (256 ^ n) 256, Nat.mod_mul]
    rfl

/-- The bytes of the value of `l` are `l`. -/
theorem leBytes_ofLe (l : List Byte) : leBytes l.length (ofLe l) = l := by
  induction l with
  | nil => rfl
  | cons b r ih =>
    have hb := b.isLt
    have h1 : (b.toNat + 256 * ofLe r) / 256 = ofLe r := by omega
    have h2 : BitVec.ofNat 8 (b.toNat + 256 * ofLe r) = b := by
      apply BitVec.eq_of_toNat_eq
      simp only [BitVec.toNat_ofNat]; omega
    simp [leBytes, ofLe, h1, h2, ih]

/-- A field written at an offset reads back there. -/
theorem leAt_append (a : List Byte) (n v : Nat) (r : List Byte) : leAt (a ++ leBytes n v ++ r) a.length n = v % 256 ^ n := by
  have h : ((leBytes n v ++ r).take n) = leBytes n v := by
    rw [List.take_append_of_le_length (by simp)]; simp [List.take_of_length_le]
  simp [leAt, slice, List.append_assoc, h, zeros, ofLe_leBytes]

/-- Numbers that share no bit add to their union. -/
theorem add_eq_or (x : Nat) : ∀ y : Nat, x &&& y = 0 → x + y = x ||| y := by
  induction x using Nat.strongRecOn with
  | _ x ih =>
    intro y h
    by_cases hx : x = 0
    · simp [hx]
    · have h2 := ih (x / 2) (by omega) (y / 2) (by rw [← Nat.and_div_two, h])
      have o2 : (x ||| y) / 2 = x / 2 ||| y / 2 := Nat.or_div_two
      have om := @Nat.or_mod_two_eq_one x y
      have am := @Nat.and_mod_two_eq_one x y
      rw [h] at am
      omega

/-- Clearing bits clears those and no others. -/
theorem testBit_clearBits (old m n : Nat) : (clearBits old m).testBit n = (old.testBit n && !m.testBit n) := by
  have e : clearBits old m = old ^^^ (old &&& m) := by
    have h0 : (old ^^^ (old &&& m)) &&& (old &&& m) = 0 := by
      apply Nat.eq_of_testBit_eq; intro i
      simp only [Nat.testBit_and, Nat.testBit_xor, Nat.zero_testBit]
      cases old.testBit i <;> cases m.testBit i <;> rfl
    have h1 : (old ^^^ (old &&& m)) ||| (old &&& m) = old := by
      apply Nat.eq_of_testBit_eq; intro i
      simp only [Nat.testBit_and, Nat.testBit_xor, Nat.testBit_or]
      cases old.testBit i <;> cases m.testBit i <;> rfl
    have h2 := add_eq_or _ _ h0
    unfold clearBits
    omega
  rw [e, Nat.testBit_xor, Nat.testBit_and]
  cases old.testBit n <;> cases m.testBit n <;> rfl

end Sys2Proof.Machine
end

