-- ==== Sys2Proof/Laws/Form.lean ====
section
/-!
SUPPORT. Laws/Form.lean: what any command can do: every command but those of reset and supply, and the three that take several hub cycles, is the running of
an effect on the hub; every command leaves the queue alone and keeps the canonical form of the memories; a command whose turn has passed opens a hub cycle.
-/
namespace Sys2Proof.Machine

/-- A command that takes several hub cycles leaves the queue alone and keeps the canonical form of the memories. -/
def Steady (f : State → State) : Prop := ∀ s, (f s).pending = s.pending ∧ (s.mem.wf = true → (f s).mem.wf = true)

theorem spanRead_steady : Steady State.spanRead := by
  intro s
  unfold State.spanRead
  split
  · exact ⟨rfl, id⟩
  · split
    · exact ⟨rfl, fun w => does_wf _ _ w⟩
    · exact ⟨by simp, fun w => does_wf _ _ (each_wf _ _ _ _ w)⟩

theorem spanWrite_steady : Steady State.spanWrite := by
  intro s
  unfold State.spanWrite
  split
  · exact ⟨rfl, id⟩
  · split
    · exact ⟨rfl, fun w => does_wf _ _ w⟩
    · exact ⟨by simp, fun w => does_wf _ _ (each_wf _ _ _ _ w)⟩

theorem each_steady {α β : Type} (c : Instr) (f : α → Mem → Hub → β × Hub) (l : List α) : Steady fun s => (State.each c f l s).2 :=
  fun s => ⟨each_pending c f l s, each_wf c f l s⟩

/-- The four forms of a command's execution. -/
theorem exec_form (c : Instr) (s : State) :
    (∃ f, exec c s = run c f s) ∨ ((c = .coldResetAssert ∨ ∃ b, c = .coldResetRelease b) ∧ ∃ f, exec c s = runAny c f s) ∨
      (c = .islandSupplyLoss ∧
        exec c s = .next { hub := (s.atTurn c).hub.islandLoss, mem := (s.atTurn c).mem.islandLoss (s.atTurn c).hub, pending := s.pending }) ∨
      ((c = .spanRead ∨ c = .spanWrite ∨ ∃ m x, c = .dumpContextRequest m x) ∧ ∃ f, Steady f ∧ exec c s = runCycles c f s) := by
  cases c with
  | coldResetAssert => exact .inr (.inl ⟨.inl rfl, fun _ h => h.coldFall, rfl⟩)
  | coldResetRelease b => exact .inr (.inl ⟨.inr ⟨b, rfl⟩, fun _ h => h.coldRise b, rfl⟩)
  | islandSupplyLoss => exact .inr (.inr (.inl ⟨rfl, rfl⟩))
  | spanRead => exact .inr (.inr (.inr ⟨.inl rfl, _, spanRead_steady, rfl⟩))
  | spanWrite => exact .inr (.inr (.inr ⟨.inr (.inl rfl), _, spanWrite_steady, rfl⟩))
  | dumpContextRequest m x => exact .inr (.inr (.inr ⟨.inr (.inr ⟨m, x, rfl⟩), _, each_steady _ _ _, rfl⟩))
  | registerWrite _ _ _ _ => exact .inl (by unfold exec; dsimp only; unfold Sys2Proof.Machine.execRegisterWrite; exact ⟨_, rfl⟩)
  | loReadLatch _ _ _ => exact .inl (by unfold exec; dsimp only; unfold Sys2Proof.Machine.execLoReadLatch; exact ⟨_, rfl⟩)
  | rcFieldRead _ _ _ => exact .inl (by unfold exec; dsimp only; unfold Sys2Proof.Machine.execRcFieldRead; exact ⟨_, rfl⟩)
  | contextCreate _ _ => exact .inl (by unfold exec; dsimp only; unfold Sys2Proof.Machine.execContextCreate; exact ⟨_, rfl⟩)
  | contextDestroy _ _ => exact .inl (by unfold exec; dsimp only; unfold Sys2Proof.Machine.execContextDestroy; exact ⟨_, rfl⟩)
  | attributionFinalRecords _ => exact .inl (by unfold exec; dsimp only; unfold Sys2Proof.Machine.execAttributionFinalRecords; exact ⟨_, rfl⟩)
  | commandSubmit _ _ _ _ _ _ => exact .inl (by unfold exec; dsimp only; unfold Sys2Proof.Machine.execCommandSubmit; exact ⟨_, rfl⟩)
  | commandStart _ => exact .inl (by unfold exec; dsimp only; unfold Sys2Proof.Machine.execCommandStart; exact ⟨_, rfl⟩)
  | commandComplete _ _ _ => exact .inl (by unfold exec; dsimp only; unfold Sys2Proof.Machine.execCommandComplete; exact ⟨_, rfl⟩)
  | commandFault _ _ _ _ => exact .inl (by unfold exec; dsimp only; unfold Sys2Proof.Machine.execCommandFault; exact ⟨_, rfl⟩)
  | fenceSignal _ _ _ _ _ => exact .inl (by unfold exec; dsimp only; unfold Sys2Proof.Machine.execFenceSignal; exact ⟨_, rfl⟩)
  | fenceErrorSignal _ _ _ _ => exact .inl (by unfold exec; dsimp only; unfold Sys2Proof.Machine.execFenceErrorSignal; exact ⟨_, rfl⟩)
  | fenceWait _ _ _ _ _ => exact .inl (by unfold exec; dsimp only; unfold Sys2Proof.Machine.execFenceWait; exact ⟨_, rfl⟩)
  | rmoIssue _ _ => exact .inl (by unfold exec; dsimp only; unfold Sys2Proof.Machine.execRmoIssue; exact ⟨_, rfl⟩)
  | rmoArrive _ _ => exact .inl (by unfold exec; dsimp only; unfold Sys2Proof.Machine.execRmoArrive; exact ⟨_, rfl⟩)
  | rmoComplete _ _ => exact .inl (by unfold exec; dsimp only; unfold Sys2Proof.Machine.execRmoComplete; exact ⟨_, rfl⟩)
  | programFlowEvent _ _ _ _ _ _ _ _ => exact .inl (by unfold exec; dsimp only; unfold Sys2Proof.Machine.execProgramFlowEvent; exact ⟨_, rfl⟩)
  | linkMessage _ _ _ _ _ => exact .inl (by unfold exec; dsimp only; unfold Sys2Proof.Machine.execLinkMessage; exact ⟨_, rfl⟩)
  | routeMessage _ _ _ => exact .inl (by unfold exec; dsimp only; unfold Sys2Proof.Machine.execRouteMessage; exact ⟨_, rfl⟩)
  | channelRequest _ _ => exact .inl (by unfold exec; dsimp only; unfold Sys2Proof.Machine.execChannelRequest; exact ⟨_, rfl⟩)
  | transferArrive _ _ _ _ => exact .inl (by unfold exec; dsimp only; unfold Sys2Proof.Machine.execTransferArrive; exact ⟨_, rfl⟩)
  | transferStart _ => exact .inl (by unfold exec; dsimp only; unfold Sys2Proof.Machine.execTransferStart; exact ⟨_, rfl⟩)
  | transferEnd _ _ _ => exact .inl (by unfold exec; dsimp only; unfold Sys2Proof.Machine.execTransferEnd; exact ⟨_, rfl⟩)
  | unitSleep _ _ => exact .inl (by unfold exec; dsimp only; unfold Sys2Proof.Machine.execUnitSleep; exact ⟨_, rfl⟩)
  | unitWake _ _ => exact .inl (by unfold exec; dsimp only; unfold Sys2Proof.Machine.execUnitWake; exact ⟨_, rfl⟩)
  | trgFireWrite _ _ _ => exact .inl (by unfold exec; dsimp only; unfold Sys2Proof.Machine.execTrgFireWrite; exact ⟨_, rfl⟩)
  | triggerMatrix _ => exact .inl (by unfold exec; dsimp only; unfold Sys2Proof.Machine.execTriggerMatrix; exact ⟨_, rfl⟩)
  | matrixOrder _ => exact .inl (by unfold exec; dsimp only; unfold Sys2Proof.Machine.execMatrixOrder; exact ⟨_, rfl⟩)
  | atomsFlushTimeout _ => exact .inl (by unfold exec; dsimp only; unfold Sys2Proof.Machine.execAtomsFlushTimeout; exact ⟨_, rfl⟩)
  | peckFlush _ _ => exact .inl (by unfold exec; dsimp only; unfold Sys2Proof.Machine.execPeckFlush; exact ⟨_, rfl⟩)
  | peckRelease _ _ => exact .inl (by unfold exec; dsimp only; unfold Sys2Proof.Machine.execPeckRelease; exact ⟨_, rfl⟩)
  | drainBlockTimeout _ => exact .inl (by unfold exec; dsimp only; unfold Sys2Proof.Machine.execDrainBlockTimeout; exact ⟨_, rfl⟩)
  | drainReserveRequest _ => exact .inl (by unfold exec; dsimp only; unfold Sys2Proof.Machine.execDrainReserveRequest; exact ⟨_, rfl⟩)
  | drainGrant => exact .inl (by unfold exec; dsimp only; unfold Sys2Proof.Machine.execDrainGrant; exact ⟨_, rfl⟩)
  | blockSeal => exact .inl (by unfold exec; dsimp only; unfold Sys2Proof.Machine.execBlockSeal; exact ⟨_, rfl⟩)
  | drainBlockWritten _ => exact .inl (by unfold exec; dsimp only; unfold Sys2Proof.Machine.execDrainBlockWritten; exact ⟨_, rfl⟩)
  | traceRingRdWrite _ _ _ => exact .inl (by unfold exec; dsimp only; unfold Sys2Proof.Machine.execTraceRingRdWrite; exact ⟨_, rfl⟩)
  | rebindFlushExpiry _ => exact .inl (by unfold exec; dsimp only; unfold Sys2Proof.Machine.execRebindFlushExpiry; exact ⟨_, rfl⟩)
  | sampleTick => exact .inl (by unfold exec; dsimp only; unfold Sys2Proof.Machine.execSampleTick; exact ⟨_, rfl⟩)
  | sampleCaptureArrive _ => exact .inl (by unfold exec; dsimp only; unfold Sys2Proof.Machine.execSampleCaptureArrive; exact ⟨_, rfl⟩)
  | sealFrameWrite _ => exact .inl (by unfold exec; dsimp only; unfold Sys2Proof.Machine.execSealFrameWrite; exact ⟨_, rfl⟩)
  | sealFrameTimeout _ => exact .inl (by unfold exec; dsimp only; unfold Sys2Proof.Machine.execSealFrameTimeout; exact ⟨_, rfl⟩)
  | attributionUpdate => exact .inl (by unfold exec; dsimp only; unfold Sys2Proof.Machine.execAttributionUpdate; exact ⟨_, rfl⟩)
  | attributionExportTick => exact .inl (by unfold exec; dsimp only; unfold Sys2Proof.Machine.execAttributionExportTick; exact ⟨_, rfl⟩)
  | attExport _ _ => exact .inl (by unfold exec; dsimp only; unfold Sys2Proof.Machine.execAttExport; exact ⟨_, rfl⟩)
  | sampleRingRdWrite _ _ _ => exact .inl (by unfold exec; dsimp only; unfold Sys2Proof.Machine.execSampleRingRdWrite; exact ⟨_, rfl⟩)
  | epochBoundary => exact .inl (by unfold exec; dsimp only; unfold Sys2Proof.Machine.execEpochBoundary; exact ⟨_, rfl⟩)
  | epochAck _ _ => exact .inl (by unfold exec; dsimp only; unfold Sys2Proof.Machine.execEpochAck; exact ⟨_, rfl⟩)
  | ringMarkerTimeout _ => exact .inl (by unfold exec; dsimp only; unfold Sys2Proof.Machine.execRingMarkerTimeout; exact ⟨_, rfl⟩)
  | commitRequest _ _ _ => exact .inl (by unfold exec; dsimp only; unfold Sys2Proof.Machine.execCommitRequest; exact ⟨_, rfl⟩)
  | commitBegin => exact .inl (by unfold exec; dsimp only; unfold Sys2Proof.Machine.execCommitBegin; exact ⟨_, rfl⟩)
  | snapshotFlit _ => exact .inl (by unfold exec; dsimp only; unfold Sys2Proof.Machine.execSnapshotFlit; exact ⟨_, rfl⟩)
  | snapshotAck _ => exact .inl (by unfold exec; dsimp only; unfold Sys2Proof.Machine.execSnapshotAck; exact ⟨_, rfl⟩)
  | snapshotTimeout _ => exact .inl (by unfold exec; dsimp only; unfold Sys2Proof.Machine.execSnapshotTimeout; exact ⟨_, rfl⟩)
  | moveOrderIssue => exact .inl (by unfold exec; dsimp only; unfold Sys2Proof.Machine.execMoveOrderIssue; exact ⟨_, rfl⟩)
  | chwinAcquire _ _ => exact .inl (by unfold exec; dsimp only; unfold Sys2Proof.Machine.execChwinAcquire; exact ⟨_, rfl⟩)
  | chwinRelease _ => exact .inl (by unfold exec; dsimp only; unfold Sys2Proof.Machine.execChwinRelease; exact ⟨_, rfl⟩)
  | chwinLeaseExpiry _ => exact .inl (by unfold exec; dsimp only; unfold Sys2Proof.Machine.execChwinLeaseExpiry; exact ⟨_, rfl⟩)
  | chainFlitCrcError _ => exact .inl (by unfold exec; dsimp only; unfold Sys2Proof.Machine.execChainFlitCrcError; exact ⟨_, rfl⟩)
  | class2RetryTimeout _ => exact .inl (by unfold exec; dsimp only; unfold Sys2Proof.Machine.execClass2RetryTimeout; exact ⟨_, rfl⟩)
  | lockstepMismatch _ _ _ => exact .inl (by unfold exec; dsimp only; unfold Sys2Proof.Machine.execLockstepMismatch; exact ⟨_, rfl⟩)
  | clockMonitorWindow _ => exact .inl (by unfold exec; dsimp only; unfold Sys2Proof.Machine.execClockMonitorWindow; exact ⟨_, rfl⟩)
  | pllLossOfLock _ => exact .inl (by unfold exec; dsimp only; unfold Sys2Proof.Machine.execPllLossOfLock; exact ⟨_, rfl⟩)
  | hangStepAdvance _ => exact .inl (by unfold exec; dsimp only; unfold Sys2Proof.Machine.execHangStepAdvance; exact ⟨_, rfl⟩)
  | pllLock => exact .inl (by unfold exec; dsimp only; unfold Sys2Proof.Machine.execPllLock; exact ⟨_, rfl⟩)
  | pllLockTimeout => exact .inl (by unfold exec; dsimp only; unfold Sys2Proof.Machine.execPllLockTimeout; exact ⟨_, rfl⟩)
  | selftestDone _ => exact .inl (by unfold exec; dsimp only; unfold Sys2Proof.Machine.execSelftestDone; exact ⟨_, rfl⟩)
  | pufCaptureDone _ => exact .inl (by unfold exec; dsimp only; unfold Sys2Proof.Machine.execPufCaptureDone; exact ⟨_, rfl⟩)
  | chainTrainingDone _ _ => exact .inl (by unfold exec; dsimp only; unfold Sys2Proof.Machine.execChainTrainingDone; exact ⟨_, rfl⟩)
  | aszStart _ => exact .inl (by unfold exec; dsimp only; unfold Sys2Proof.Machine.execAszStart; exact ⟨_, rfl⟩)
  | aszDataWrite _ _ => exact .inl (by unfold exec; dsimp only; unfold Sys2Proof.Machine.execAszDataWrite; exact ⟨_, rfl⟩)
  | aszSectionVerified => exact .inl (by unfold exec; dsimp only; unfold Sys2Proof.Machine.execAszSectionVerified; exact ⟨_, rfl⟩)
  | aszLoadDone => exact .inl (by unfold exec; dsimp only; unfold Sys2Proof.Machine.execAszLoadDone; exact ⟨_, rfl⟩)
  | reloadCommit => exact .inl (by unfold exec; dsimp only; unfold Sys2Proof.Machine.execReloadCommit; exact ⟨_, rfl⟩)
  | aszAbort _ => exact .inl (by unfold exec; dsimp only; unfold Sys2Proof.Machine.execAszAbort; exact ⟨_, rfl⟩)
  | aszTimeout => exact .inl (by unfold exec; dsimp only; unfold Sys2Proof.Machine.execAszTimeout; exact ⟨_, rfl⟩)
  | aszIdleReturn => exact .inl (by unfold exec; dsimp only; unfold Sys2Proof.Machine.execAszIdleReturn; exact ⟨_, rfl⟩)
  | fwReady => exact .inl (by unfold exec; dsimp only; unfold Sys2Proof.Machine.execFwReady; exact ⟨_, rfl⟩)
  | fwReadyTimeout => exact .inl (by unfold exec; dsimp only; unfold Sys2Proof.Machine.execFwReadyTimeout; exact ⟨_, rfl⟩)
  | hbmTrainingDone _ => exact .inl (by unfold exec; dsimp only; unfold Sys2Proof.Machine.execHbmTrainingDone; exact ⟨_, rfl⟩)
  | tileResetComplete => exact .inl (by unfold exec; dsimp only; unfold Sys2Proof.Machine.execTileResetComplete; exact ⟨_, rfl⟩)
  | firkinRelease _ => exact .inl (by unfold exec; dsimp only; unfold Sys2Proof.Machine.execFirkinRelease; exact ⟨_, rfl⟩)
  | restartReuseImage _ => exact .inl (by unfold exec; dsimp only; unfold Sys2Proof.Machine.execRestartReuseImage; exact ⟨_, rfl⟩)
  | restartNewImage _ => exact .inl (by unfold exec; dsimp only; unfold Sys2Proof.Machine.execRestartNewImage; exact ⟨_, rfl⟩)
  | restartHashCheck => exact .inl (by unfold exec; dsimp only; unfold Sys2Proof.Machine.execRestartHashCheck; exact ⟨_, rfl⟩)
  | restartPairStart _ => exact .inl (by unfold exec; dsimp only; unfold Sys2Proof.Machine.execRestartPairStart; exact ⟨_, rfl⟩)
  | restartTimeout => exact .inl (by unfold exec; dsimp only; unfold Sys2Proof.Machine.execRestartTimeout; exact ⟨_, rfl⟩)
  | wdogKick => exact .inl (by unfold exec; dsimp only; unfold Sys2Proof.Machine.execWdogKick; exact ⟨_, rfl⟩)
  | watchdogExpiry _ => exact .inl (by unfold exec; dsimp only; unfold Sys2Proof.Machine.execWatchdogExpiry; exact ⟨_, rfl⟩)
  | watchdogCrashCoreDone => exact .inl (by unfold exec; dsimp only; unfold Sys2Proof.Machine.execWatchdogCrashCoreDone; exact ⟨_, rfl⟩)
  | timebaseStartFlit _ => exact .inl (by unfold exec; dsimp only; unfold Sys2Proof.Machine.execTimebaseStartFlit; exact ⟨_, rfl⟩)
  | timebaseCheckFlit _ _ => exact .inl (by unfold exec; dsimp only; unfold Sys2Proof.Machine.execTimebaseCheckFlit; exact ⟨_, rfl⟩)
  | calendarSetRequest _ _ => exact .inl (by unfold exec; dsimp only; unfold Sys2Proof.Machine.execCalendarSetRequest; exact ⟨_, rfl⟩)
  | calendarApply => exact .inl (by unfold exec; dsimp only; unfold Sys2Proof.Machine.execCalendarApply; exact ⟨_, rfl⟩)
  | timeMarkSend _ => exact .inl (by unfold exec; dsimp only; unfold Sys2Proof.Machine.execTimeMarkSend; exact ⟨_, rfl⟩)
  | timeMarkReceive _ _ => exact .inl (by unfold exec; dsimp only; unfold Sys2Proof.Machine.execTimeMarkReceive; exact ⟨_, rfl⟩)
  | linkRetrain _ => exact .inl (by unfold exec; dsimp only; unfold Sys2Proof.Machine.execLinkRetrain; exact ⟨_, rfl⟩)
  | cutRequest _ _ _ _ _ _ => exact .inl (by unfold exec; dsimp only; unfold Sys2Proof.Machine.execCutRequest; exact ⟨_, rfl⟩)
  | cutScheduleFlit _ => exact .inl (by unfold exec; dsimp only; unfold Sys2Proof.Machine.execCutScheduleFlit; exact ⟨_, rfl⟩)
  | cutTickT => exact .inl (by unfold exec; dsimp only; unfold Sys2Proof.Machine.execCutTickT; exact ⟨_, rfl⟩)
  | unitStopClean _ => exact .inl (by unfold exec; dsimp only; unfold Sys2Proof.Machine.execUnitStopClean; exact ⟨_, rfl⟩)
  | cutForcedStop _ => exact .inl (by unfold exec; dsimp only; unfold Sys2Proof.Machine.execCutForcedStop; exact ⟨_, rfl⟩)
  | cutReport _ => exact .inl (by unfold exec; dsimp only; unfold Sys2Proof.Machine.execCutReport; exact ⟨_, rfl⟩)
  | cutReportTimeout => exact .inl (by unfold exec; dsimp only; unfold Sys2Proof.Machine.execCutReportTimeout; exact ⟨_, rfl⟩)
  | cutResume _ _ _ _ _ => exact .inl (by unfold exec; dsimp only; unfold Sys2Proof.Machine.execCutResume; exact ⟨_, rfl⟩)
  | cutResumeTick => exact .inl (by unfold exec; dsimp only; unfold Sys2Proof.Machine.execCutResumeTick; exact ⟨_, rfl⟩)
  | cutStep _ _ _ _ _ => exact .inl (by unfold exec; dsimp only; unfold Sys2Proof.Machine.execCutStep; exact ⟨_, rfl⟩)
  | stepStart => exact .inl (by unfold exec; dsimp only; unfold Sys2Proof.Machine.execStepStart; exact ⟨_, rfl⟩)
  | stepEnd _ => exact .inl (by unfold exec; dsimp only; unfold Sys2Proof.Machine.execStepEnd; exact ⟨_, rfl⟩)
  | stepTimeout => exact .inl (by unfold exec; dsimp only; unfold Sys2Proof.Machine.execStepTimeout; exact ⟨_, rfl⟩)
  | benchModeWrite _ _ => exact .inl (by unfold exec; dsimp only; unfold Sys2Proof.Machine.execBenchModeWrite; exact ⟨_, rfl⟩)
  | cutScheduleMessage _ _ => exact .inl (by unfold exec; dsimp only; unfold Sys2Proof.Machine.execCutScheduleMessage; exact ⟨_, rfl⟩)
  | cutDoneMessage _ _ => exact .inl (by unfold exec; dsimp only; unfold Sys2Proof.Machine.execCutDoneMessage; exact ⟨_, rfl⟩)
  | cutResumeMessage _ _ => exact .inl (by unfold exec; dsimp only; unfold Sys2Proof.Machine.execCutResumeMessage; exact ⟨_, rfl⟩)
  | cutXresultWindowEnd => exact .inl (by unfold exec; dsimp only; unfold Sys2Proof.Machine.execCutXresultWindowEnd; exact ⟨_, rfl⟩)
  | scanStart => exact .inl (by unfold exec; dsimp only; unfold Sys2Proof.Machine.execScanStart; exact ⟨_, rfl⟩)
  | scanContext => exact .inl (by unfold exec; dsimp only; unfold Sys2Proof.Machine.execScanContext; exact ⟨_, rfl⟩)
  | verdictPop _ => exact .inl (by unfold exec; dsimp only; unfold Sys2Proof.Machine.execVerdictPop; exact ⟨_, rfl⟩)
  | waitEdgeCollect => exact .inl (by unfold exec; dsimp only; unfold Sys2Proof.Machine.execWaitEdgeCollect; exact ⟨_, rfl⟩)
  | contextWalk => exact .inl (by unfold exec; dsimp only; unfold Sys2Proof.Machine.execContextWalk; exact ⟨_, rfl⟩)
  | graphRequestMessage _ _ => exact .inl (by unfold exec; dsimp only; unfold Sys2Proof.Machine.execGraphRequestMessage; exact ⟨_, rfl⟩)
  | graphEdgeMessage _ _ => exact .inl (by unfold exec; dsimp only; unfold Sys2Proof.Machine.execGraphEdgeMessage; exact ⟨_, rfl⟩)
  | graphPeerTimeout => exact .inl (by unfold exec; dsimp only; unfold Sys2Proof.Machine.execGraphPeerTimeout; exact ⟨_, rfl⟩)
  | dumpRequest _ _ _ _ => exact .inl (by unfold exec; dsimp only; unfold Sys2Proof.Machine.execDumpRequest; exact ⟨_, rfl⟩)
  | dumpPlanDone => exact .inl (by unfold exec; dsimp only; unfold Sys2Proof.Machine.execDumpPlanDone; exact ⟨_, rfl⟩)
  | dumpChunkWritten => exact .inl (by unfold exec; dsimp only; unfold Sys2Proof.Machine.execDumpChunkWritten; exact ⟨_, rfl⟩)
  | dumpTunFull => exact .inl (by unfold exec; dsimp only; unfold Sys2Proof.Machine.execDumpTunFull; exact ⟨_, rfl⟩)
  | dumpFinish => exact .inl (by unfold exec; dsimp only; unfold Sys2Proof.Machine.execDumpFinish; exact ⟨_, rfl⟩)
  | dumpSigned => exact .inl (by unfold exec; dsimp only; unfold Sys2Proof.Machine.execDumpSigned; exact ⟨_, rfl⟩)
  | firkinWriteDone => exact .inl (by unfold exec; dsimp only; unfold Sys2Proof.Machine.execFirkinWriteDone; exact ⟨_, rfl⟩)
  | tunRecordComplete => exact .inl (by unfold exec; dsimp only; unfold Sys2Proof.Machine.execTunRecordComplete; exact ⟨_, rfl⟩)
  | tunRdWrite _ _ => exact .inl (by unfold exec; dsimp only; unfold Sys2Proof.Machine.execTunRdWrite; exact ⟨_, rfl⟩)
  | watchServe => exact .inl (by unfold exec; dsimp only; unfold Sys2Proof.Machine.execWatchServe; exact ⟨_, rfl⟩)
  | watchReadDone => exact .inl (by unfold exec; dsimp only; unfold Sys2Proof.Machine.execWatchReadDone; exact ⟨_, rfl⟩)
  | watchHoldExpiry _ => exact .inl (by unfold exec; dsimp only; unfold Sys2Proof.Machine.execWatchHoldExpiry; exact ⟨_, rfl⟩)
  | watchOutputFull => exact .inl (by unfold exec; dsimp only; unfold Sys2Proof.Machine.execWatchOutputFull; exact ⟨_, rfl⟩)
  | watchResume => exact .inl (by unfold exec; dsimp only; unfold Sys2Proof.Machine.execWatchResume; exact ⟨_, rfl⟩)
  | watchCancel _ _ => exact .inl (by unfold exec; dsimp only; unfold Sys2Proof.Machine.execWatchCancel; exact ⟨_, rfl⟩)
  | ceBlockRelease _ _ _ _ => exact .inl (by unfold exec; dsimp only; unfold Sys2Proof.Machine.execCeBlockRelease; exact ⟨_, rfl⟩)
  | ceEncodeJob _ _ _ => exact .inl (by unfold exec; dsimp only; unfold Sys2Proof.Machine.execCeEncodeJob; exact ⟨_, rfl⟩)
  | ceDecodeJob _ _ _ => exact .inl (by unfold exec; dsimp only; unfold Sys2Proof.Machine.execCeDecodeJob; exact ⟨_, rfl⟩)
  | erBuildStart => exact .inl (by unfold exec; dsimp only; unfold Sys2Proof.Machine.execErBuildStart; exact ⟨_, rfl⟩)
  | erStationCopy => exact .inl (by unfold exec; dsimp only; unfold Sys2Proof.Machine.execErStationCopy; exact ⟨_, rfl⟩)
  | erStationCopyTimeout => exact .inl (by unfold exec; dsimp only; unfold Sys2Proof.Machine.execErStationCopyTimeout; exact ⟨_, rfl⟩)
  | erRecordCommit => exact .inl (by unfold exec; dsimp only; unfold Sys2Proof.Machine.execErRecordCommit; exact ⟨_, rfl⟩)
  | lostRecordEnqueue => exact .inl (by unfold exec; dsimp only; unfold Sys2Proof.Machine.execLostRecordEnqueue; exact ⟨_, rfl⟩)
  | erCursorAcquire _ _ => exact .inl (by unfold exec; dsimp only; unfold Sys2Proof.Machine.execErCursorAcquire; exact ⟨_, rfl⟩)
  | erCursorRelease _ => exact .inl (by unfold exec; dsimp only; unfold Sys2Proof.Machine.execErCursorRelease; exact ⟨_, rfl⟩)
  | erCursorExpiry _ => exact .inl (by unfold exec; dsimp only; unfold Sys2Proof.Machine.execErCursorExpiry; exact ⟨_, rfl⟩)
  | erFwRecord _ _ => exact .inl (by unfold exec; dsimp only; unfold Sys2Proof.Machine.execErFwRecord; exact ⟨_, rfl⟩)
  | auditGapEnqueue => exact .inl (by unfold exec; dsimp only; unfold Sys2Proof.Machine.execAuditGapEnqueue; exact ⟨_, rfl⟩)
  | auditSpillStart => exact .inl (by unfold exec; dsimp only; unfold Sys2Proof.Machine.execAuditSpillStart; exact ⟨_, rfl⟩)
  | auditSpillDone => exact .inl (by unfold exec; dsimp only; unfold Sys2Proof.Machine.execAuditSpillDone; exact ⟨_, rfl⟩)
  | spillRdWrite _ _ => exact .inl (by unfold exec; dsimp only; unfold Sys2Proof.Machine.execSpillRdWrite; exact ⟨_, rfl⟩)
  | roleCommand _ => exact .inl (by unfold exec; dsimp only; unfold Sys2Proof.Machine.execRoleCommand; exact ⟨_, rfl⟩)
  | roleDrop _ => exact .inl (by unfold exec; dsimp only; unfold Sys2Proof.Machine.execRoleDrop; exact ⟨_, rfl⟩)
  | ownerRegister _ _ => exact .inl (by unfold exec; dsimp only; unfold Sys2Proof.Machine.execOwnerRegister; exact ⟨_, rfl⟩)
  | tokenLodge _ => exact .inl (by unfold exec; dsimp only; unfold Sys2Proof.Machine.execTokenLodge; exact ⟨_, rfl⟩)
  | secCheckComplete _ => exact .inl (by unfold exec; dsimp only; unfold Sys2Proof.Machine.execSecCheckComplete; exact ⟨_, rfl⟩)
  | revokeCommit => exact .inl (by unfold exec; dsimp only; unfold Sys2Proof.Machine.execRevokeCommit; exact ⟨_, rfl⟩)
  | roleLeaseExpiry _ => exact .inl (by unfold exec; dsimp only; unfold Sys2Proof.Machine.execRoleLeaseExpiry; exact ⟨_, rfl⟩)
  | keyoutExpiry _ => exact .inl (by unfold exec; dsimp only; unfold Sys2Proof.Machine.execKeyoutExpiry; exact ⟨_, rfl⟩)
  | sliceCreate _ _ => exact .inl (by unfold exec; dsimp only; unfold Sys2Proof.Machine.execSliceCreate; exact ⟨_, rfl⟩)
  | sliceReset _ _ => exact .inl (by unfold exec; dsimp only; unfold Sys2Proof.Machine.execSliceReset; exact ⟨_, rfl⟩)
  | sliceDestroy _ _ => exact .inl (by unfold exec; dsimp only; unfold Sys2Proof.Machine.execSliceDestroy; exact ⟨_, rfl⟩)
  | sliceProcessDied _ _ => exact .inl (by unfold exec; dsimp only; unfold Sys2Proof.Machine.execSliceProcessDied; exact ⟨_, rfl⟩)
  | engineResetReport _ _ => exact .inl (by unfold exec; dsimp only; unfold Sys2Proof.Machine.execEngineResetReport; exact ⟨_, rfl⟩)
  | sliceResetTimeout _ => exact .inl (by unfold exec; dsimp only; unfold Sys2Proof.Machine.execSliceResetTimeout; exact ⟨_, rfl⟩)
  | exportAllocate _ _ _ => exact .inl (by unfold exec; dsimp only; unfold Sys2Proof.Machine.execExportAllocate; exact ⟨_, rfl⟩)
  | exportRelease _ _ _ => exact .inl (by unfold exec; dsimp only; unfold Sys2Proof.Machine.execExportRelease; exact ⟨_, rfl⟩)
  | spanFrameReceive _ => exact .inl (by unfold exec; dsimp only; unfold Sys2Proof.Machine.execSpanFrameReceive; exact ⟨_, rfl⟩)
  | spanStatus => exact .inl (by unfold exec; dsimp only; unfold Sys2Proof.Machine.execSpanStatus; exact ⟨_, rfl⟩)
  | spanBulk => exact .inl (by unfold exec; dsimp only; unfold Sys2Proof.Machine.execSpanBulk; exact ⟨_, rfl⟩)
  | spanBulkFrame => exact .inl (by unfold exec; dsimp only; unfold Sys2Proof.Machine.execSpanBulkFrame; exact ⟨_, rfl⟩)
  | spanAbort => exact .inl (by unfold exec; dsimp only; unfold Sys2Proof.Machine.execSpanAbort; exact ⟨_, rfl⟩)
  | spanMode => exact .inl (by unfold exec; dsimp only; unfold Sys2Proof.Machine.execSpanMode; exact ⟨_, rfl⟩)
  | attnMessageSet _ => exact .inl (by unfold exec; dsimp only; unfold Sys2Proof.Machine.execAttnMessageSet; exact ⟨_, rfl⟩)
  | tapIdcode => exact .inl (by unfold exec; dsimp only; unfold Sys2Proof.Machine.execTapIdcode; exact ⟨_, rfl⟩)
  | tapBypass => exact .inl (by unfold exec; dsimp only; unfold Sys2Proof.Machine.execTapBypass; exact ⟨_, rfl⟩)
  | tapFrame => exact .inl (by unfold exec; dsimp only; unfold Sys2Proof.Machine.execTapFrame; exact ⟨_, rfl⟩)
  | tapRegaccUpdate _ => exact .inl (by unfold exec; dsimp only; unfold Sys2Proof.Machine.execTapRegaccUpdate; exact ⟨_, rfl⟩)
  | tapRegaccCapture => exact .inl (by unfold exec; dsimp only; unfold Sys2Proof.Machine.execTapRegaccCapture; exact ⟨_, rfl⟩)
  | tapReset => exact .inl (by unfold exec; dsimp only; unfold Sys2Proof.Machine.execTapReset; exact ⟨_, rfl⟩)
  | msixUnmask _ => exact .inl (by unfold exec; dsimp only; unfold Sys2Proof.Machine.execMsixUnmask; exact ⟨_, rfl⟩)
  | irqEnableWrite _ _ => exact .inl (by unfold exec; dsimp only; unfold Sys2Proof.Machine.execIrqEnableWrite; exact ⟨_, rfl⟩)
  | hostDoorbell _ _ => exact .inl (by unfold exec; dsimp only; unfold Sys2Proof.Machine.execHostDoorbell; exact ⟨_, rfl⟩)
  | doorbellPop _ => exact .inl (by unfold exec; dsimp only; unfold Sys2Proof.Machine.execDoorbellPop; exact ⟨_, rfl⟩)
  | fwDoorbell _ => exact .inl (by unfold exec; dsimp only; unfold Sys2Proof.Machine.execFwDoorbell; exact ⟨_, rfl⟩)
  | mailboxWdata _ _ => exact .inl (by unfold exec; dsimp only; unfold Sys2Proof.Machine.execMailboxWdata; exact ⟨_, rfl⟩)
  | mailboxGo _ _ => exact .inl (by unfold exec; dsimp only; unfold Sys2Proof.Machine.execMailboxGo; exact ⟨_, rfl⟩)
  | mailboxAbort _ => exact .inl (by unfold exec; dsimp only; unfold Sys2Proof.Machine.execMailboxAbort; exact ⟨_, rfl⟩)
  | mailboxRdata _ => exact .inl (by unfold exec; dsimp only; unfold Sys2Proof.Machine.execMailboxRdata; exact ⟨_, rfl⟩)
  | mailboxResponseReady _ => exact .inl (by unfold exec; dsimp only; unfold Sys2Proof.Machine.execMailboxResponseReady; exact ⟨_, rfl⟩)
  | spdmGetVersion _ => exact .inl (by unfold exec; dsimp only; unfold Sys2Proof.Machine.execSpdmGetVersion; exact ⟨_, rfl⟩)
  | spdmGetCapabilities _ => exact .inl (by unfold exec; dsimp only; unfold Sys2Proof.Machine.execSpdmGetCapabilities; exact ⟨_, rfl⟩)
  | spdmNegotiateAlgorithms _ => exact .inl (by unfold exec; dsimp only; unfold Sys2Proof.Machine.execSpdmNegotiateAlgorithms; exact ⟨_, rfl⟩)
  | spdmChallenge _ => exact .inl (by unfold exec; dsimp only; unfold Sys2Proof.Machine.execSpdmChallenge; exact ⟨_, rfl⟩)
  | spdmGetMeasurements _ => exact .inl (by unfold exec; dsimp only; unfold Sys2Proof.Machine.execSpdmGetMeasurements; exact ⟨_, rfl⟩)
  | spdmUnsupported _ => exact .inl (by unfold exec; dsimp only; unfold Sys2Proof.Machine.execSpdmUnsupported; exact ⟨_, rfl⟩)
  | tlmThermalQuery _ _ => exact .inl (by unfold exec; dsimp only; unfold Sys2Proof.Machine.execTlmThermalQuery; exact ⟨_, rfl⟩)
  | tlmClockQuery _ _ => exact .inl (by unfold exec; dsimp only; unfold Sys2Proof.Machine.execTlmClockQuery; exact ⟨_, rfl⟩)
  | tlmPowerQuery _ _ => exact .inl (by unfold exec; dsimp only; unfold Sys2Proof.Machine.execTlmPowerQuery; exact ⟨_, rfl⟩)
  | tlmSummaryQuery _ => exact .inl (by unfold exec; dsimp only; unfold Sys2Proof.Machine.execTlmSummaryQuery; exact ⟨_, rfl⟩)
  | tlmQueryComplete _ => exact .inl (by unfold exec; dsimp only; unfold Sys2Proof.Machine.execTlmQueryComplete; exact ⟨_, rfl⟩)
  | tlmRefresh _ => exact .inl (by unfold exec; dsimp only; unfold Sys2Proof.Machine.execTlmRefresh; exact ⟨_, rfl⟩)
  | scrubRead _ _ _ _ => exact .inl (by unfold exec; dsimp only; unfold Sys2Proof.Machine.execScrubRead; exact ⟨_, rfl⟩)
  | railCollapse => exact .inl (by unfold exec; dsimp only; unfold Sys2Proof.Machine.execRailCollapse; exact ⟨_, rfl⟩)
  | fenceRearm _ _ => exact .inl (by unfold exec; dsimp only; unfold Sys2Proof.Machine.execFenceRearm; exact ⟨_, rfl⟩)
  | unitStall _ _ _ => exact .inl (by unfold exec; dsimp only; unfold Sys2Proof.Machine.execUnitStall; exact ⟨_, rfl⟩)
  | creditReturn _ _ => exact .inl (by unfold exec; dsimp only; unfold Sys2Proof.Machine.execCreditReturn; exact ⟨_, rfl⟩)
  | grainIncrement _ _ _ => exact .inl (by unfold exec; dsimp only; unfold Sys2Proof.Machine.execGrainIncrement; exact ⟨_, rfl⟩)
  | spanLaneResync => exact .inl (by unfold exec; dsimp only; unfold Sys2Proof.Machine.execSpanLaneResync; exact ⟨_, rfl⟩)
  | erWindowRead _ _ _ => exact .inl (by unfold exec; dsimp only; unfold Sys2Proof.Machine.execErWindowRead; exact ⟨_, rfl⟩)
  | railBelowNominal => exact .inl (by unfold exec; dsimp only; unfold Sys2Proof.Machine.execRailBelowNominal; exact ⟨_, rfl⟩)
  | railRestored => exact .inl (by unfold exec; dsimp only; unfold Sys2Proof.Machine.execRailRestored; exact ⟨_, rfl⟩)
  | graphAreaWrite => exact .inl (by unfold exec; dsimp only; unfold Sys2Proof.Machine.execGraphAreaWrite; exact ⟨_, rfl⟩)

/-- Every command answers a next state. -/
theorem exec_next (c : Instr) (s : State) : ∃ t, exec c s = .next t := by
  rcases exec_form c s with ⟨f, e⟩ | ⟨-, f, e⟩ | ⟨-, e⟩ | ⟨-, f, -, e⟩ <;> exact ⟨_, e⟩

theorem runCycles_steady (c : Instr) (f : State → State) (s : State) (k : Steady f) :
    ∃ t, runCycles c f s = .next t ∧ t.pending = s.pending ∧ (s.mem.wf = true → t.mem.wf = true) := by
  refine ⟨_, rfl, ?_, fun w => ?_⟩
  · split
    · rw [(k _).1, atTurn_pending]
    · exact atTurn_pending s c
  · split
    · exact (k _).2 (atTurn_wf s c w)
    · exact atTurn_wf s c w

/-- Every command leaves the queue alone. -/
theorem exec_pending (c : Instr) (s t : State) (h : exec c s = .next t) : t.pending = s.pending := by
  rcases exec_form c s with ⟨f, e⟩ | ⟨-, f, e⟩ | ⟨-, e⟩ | ⟨-, f, k, e⟩ <;> rw [e] at h
  · exact run_pending c f s t h
  · cases h; simp
  · cases h; rfl
  · obtain ⟨u, x, p, -⟩ := runCycles_steady c f s k
    rw [x] at h; cases h; exact p

/-- Every command keeps the canonical form of the memories. -/
theorem exec_mem_wf (c : Instr) (s t : State) (h : exec c s = .next t) (w : s.mem.wf = true) : t.mem.wf = true := by
  rcases exec_form c s with ⟨f, e⟩ | ⟨-, f, e⟩ | ⟨-, e⟩ | ⟨-, f, k, e⟩ <;> rw [e] at h
  · exact run_wf c f s t h w
  · exact runAny_wf c f s t h w
  · cases h; exact Mem.wf_islandLoss _ _ (atTurn_wf s c w)
  · obtain ⟨u, x, -, p⟩ := runCycles_steady c f s k
    rw [x] at h; cases h; exact p w

end Sys2Proof.Machine
end

