-- ==== Sys2Proof/Laws/State.lean ====
section
/-!
SUPPORT. Laws/State.lean: what each update of the hub leaves alone, field by field; and what each part of the hub reads after an update of that part.
No proof needs to unfold an update of the record.
-/
namespace Sys2Proof.Machine

variable (h : Hub)

/-! ## `Hub.fresh` -/

@[simp] theorem Hub.fresh_clk : h.fresh.clk = h.clk := rfl
@[simp] theorem Hub.fresh_rw : h.fresh.rw = h.rw := rfl
@[simp] theorem Hub.fresh_rws : h.fresh.rws = h.rws := rfl
@[simp] theorem Hub.fresh_rc : h.fresh.rc = h.rc := rfl
@[simp] theorem Hub.fresh_latch : h.fresh.latch = h.latch := rfl
@[simp] theorem Hub.fresh_stageLo : h.fresh.stageLo = h.stageLo := rfl
@[simp] theorem Hub.fresh_resp : h.fresh.resp = h.resp := rfl
@[simp] theorem Hub.fresh_cyc : h.fresh.cyc = h.cyc := rfl
@[simp] theorem Hub.fresh_turn : h.fresh.turn = h.turn := rfl
@[simp] theorem Hub.fresh_chain : h.fresh.chain = h.chain := rfl
@[simp] theorem Hub.fresh_er : h.fresh.er = h.er := rfl
@[simp] theorem Hub.fresh_sec : h.fresh.sec = h.sec := rfl
@[simp] theorem Hub.fresh_irq : h.fresh.irq = h.irq := rfl
@[simp] theorem Hub.fresh_db : h.fresh.db = h.db := rfl
@[simp] theorem Hub.fresh_mbx : h.fresh.mbx = h.mbx := rfl
@[simp] theorem Hub.fresh_tlm : h.fresh.tlm = h.tlm := rfl
@[simp] theorem Hub.fresh_boot : h.fresh.boot = h.boot := rfl
@[simp] theorem Hub.fresh_ldr : h.fresh.ldr = h.ldr := rfl
@[simp] theorem Hub.fresh_rst : h.fresh.rst = h.rst := rfl
@[simp] theorem Hub.fresh_wdog : h.fresh.wdog = h.wdog := rfl
@[simp] theorem Hub.fresh_cal : h.fresh.cal = h.cal := rfl
@[simp] theorem Hub.fresh_ecc : h.fresh.ecc = h.ecc := rfl
@[simp] theorem Hub.fresh_rail : h.fresh.rail = h.rail := rfl
@[simp] theorem Hub.fresh_ctx : h.fresh.ctx = h.ctx := rfl
@[simp] theorem Hub.fresh_fence : h.fresh.fence = h.fence := rfl
@[simp] theorem Hub.fresh_slc : h.fresh.slc = h.slc := rfl
@[simp] theorem Hub.fresh_cut : h.fresh.cut = h.cut := rfl
@[simp] theorem Hub.fresh_trc : h.fresh.trc = h.trc := rfl
@[simp] theorem Hub.fresh_cnt : h.fresh.cnt = h.cnt := rfl
@[simp] theorem Hub.fresh_hang : h.fresh.hang = h.hang := rfl
@[simp] theorem Hub.fresh_dmp : h.fresh.dmp = h.dmp := rfl
@[simp] theorem Hub.fresh_ce : h.fresh.ce = h.ce := rfl
@[simp] theorem Hub.fresh_stn : h.fresh.stn = h.stn := rfl
@[simp] theorem Hub.fresh_gated : h.fresh.gated = h.gated := rfl
@[simp] theorem Hub.fresh_fwDue : h.fresh.fwDue = h.fwDue := rfl
@[simp] theorem Hub.fresh_free : h.fresh.free = h.free := rfl

/-! ## `Hub.takes` -/

@[simp] theorem Hub.takes_clk (c : Instr) : (h.takes c).clk = h.clk := rfl
@[simp] theorem Hub.takes_rw (c : Instr) : (h.takes c).rw = h.rw := rfl
@[simp] theorem Hub.takes_rws (c : Instr) : (h.takes c).rws = h.rws := rfl
@[simp] theorem Hub.takes_rc (c : Instr) : (h.takes c).rc = h.rc := rfl
@[simp] theorem Hub.takes_latch (c : Instr) : (h.takes c).latch = h.latch := rfl
@[simp] theorem Hub.takes_stageLo (c : Instr) : (h.takes c).stageLo = h.stageLo := rfl
@[simp] theorem Hub.takes_resp (c : Instr) : (h.takes c).resp = h.resp := rfl
@[simp] theorem Hub.takes_cyc (c : Instr) : (h.takes c).cyc = h.cyc := rfl
@[simp] theorem Hub.takes_chain (c : Instr) : (h.takes c).chain = h.chain := rfl
@[simp] theorem Hub.takes_er (c : Instr) : (h.takes c).er = h.er := rfl
@[simp] theorem Hub.takes_sec (c : Instr) : (h.takes c).sec = h.sec := rfl
@[simp] theorem Hub.takes_irq (c : Instr) : (h.takes c).irq = h.irq := rfl
@[simp] theorem Hub.takes_db (c : Instr) : (h.takes c).db = h.db := rfl
@[simp] theorem Hub.takes_mbx (c : Instr) : (h.takes c).mbx = h.mbx := rfl
@[simp] theorem Hub.takes_tlm (c : Instr) : (h.takes c).tlm = h.tlm := rfl
@[simp] theorem Hub.takes_boot (c : Instr) : (h.takes c).boot = h.boot := rfl
@[simp] theorem Hub.takes_ldr (c : Instr) : (h.takes c).ldr = h.ldr := rfl
@[simp] theorem Hub.takes_rst (c : Instr) : (h.takes c).rst = h.rst := rfl
@[simp] theorem Hub.takes_wdog (c : Instr) : (h.takes c).wdog = h.wdog := rfl
@[simp] theorem Hub.takes_cal (c : Instr) : (h.takes c).cal = h.cal := rfl
@[simp] theorem Hub.takes_ecc (c : Instr) : (h.takes c).ecc = h.ecc := rfl
@[simp] theorem Hub.takes_rail (c : Instr) : (h.takes c).rail = h.rail := rfl
@[simp] theorem Hub.takes_ctx (c : Instr) : (h.takes c).ctx = h.ctx := rfl
@[simp] theorem Hub.takes_fence (c : Instr) : (h.takes c).fence = h.fence := rfl
@[simp] theorem Hub.takes_slc (c : Instr) : (h.takes c).slc = h.slc := rfl
@[simp] theorem Hub.takes_cut (c : Instr) : (h.takes c).cut = h.cut := rfl
@[simp] theorem Hub.takes_trc (c : Instr) : (h.takes c).trc = h.trc := rfl
@[simp] theorem Hub.takes_cnt (c : Instr) : (h.takes c).cnt = h.cnt := rfl
@[simp] theorem Hub.takes_hang (c : Instr) : (h.takes c).hang = h.hang := rfl
@[simp] theorem Hub.takes_dmp (c : Instr) : (h.takes c).dmp = h.dmp := rfl
@[simp] theorem Hub.takes_ce (c : Instr) : (h.takes c).ce = h.ce := rfl
@[simp] theorem Hub.takes_span (c : Instr) : (h.takes c).span = h.span := rfl
@[simp] theorem Hub.takes_stn (c : Instr) : (h.takes c).stn = h.stn := rfl
@[simp] theorem Hub.takes_gated (c : Instr) : (h.takes c).gated = h.gated := rfl
@[simp] theorem Hub.takes_fwDue (c : Instr) : (h.takes c).fwDue = h.fwDue := rfl
@[simp] theorem Hub.takes_tx (c : Instr) : (h.takes c).tx = h.tx := rfl
@[simp] theorem Hub.takes_reply (c : Instr) : (h.takes c).reply = h.reply := rfl
@[simp] theorem Hub.takes_items (c : Instr) : (h.takes c).items = h.items := rfl
@[simp] theorem Hub.takes_stamps (c : Instr) : (h.takes c).stamps = h.stamps := rfl
@[simp] theorem Hub.takes_inject (c : Instr) : (h.takes c).inject = h.inject := rfl
@[simp] theorem Hub.takes_free (c : Instr) : (h.takes c).free = h.free := rfl

/-! ## `Hub.send` -/

@[simp] theorem Hub.send_clk (l : Nat) (b : List Byte) : (h.send l b).clk = h.clk := rfl
@[simp] theorem Hub.send_rw (l : Nat) (b : List Byte) : (h.send l b).rw = h.rw := rfl
@[simp] theorem Hub.send_rws (l : Nat) (b : List Byte) : (h.send l b).rws = h.rws := rfl
@[simp] theorem Hub.send_rc (l : Nat) (b : List Byte) : (h.send l b).rc = h.rc := rfl
@[simp] theorem Hub.send_latch (l : Nat) (b : List Byte) : (h.send l b).latch = h.latch := rfl
@[simp] theorem Hub.send_stageLo (l : Nat) (b : List Byte) : (h.send l b).stageLo = h.stageLo := rfl
@[simp] theorem Hub.send_resp (l : Nat) (b : List Byte) : (h.send l b).resp = h.resp := rfl
@[simp] theorem Hub.send_cyc (l : Nat) (b : List Byte) : (h.send l b).cyc = h.cyc := rfl
@[simp] theorem Hub.send_turn (l : Nat) (b : List Byte) : (h.send l b).turn = h.turn := rfl
@[simp] theorem Hub.send_chain (l : Nat) (b : List Byte) : (h.send l b).chain = h.chain := rfl
@[simp] theorem Hub.send_er (l : Nat) (b : List Byte) : (h.send l b).er = h.er := rfl
@[simp] theorem Hub.send_sec (l : Nat) (b : List Byte) : (h.send l b).sec = h.sec := rfl
@[simp] theorem Hub.send_irq (l : Nat) (b : List Byte) : (h.send l b).irq = h.irq := rfl
@[simp] theorem Hub.send_db (l : Nat) (b : List Byte) : (h.send l b).db = h.db := rfl
@[simp] theorem Hub.send_mbx (l : Nat) (b : List Byte) : (h.send l b).mbx = h.mbx := rfl
@[simp] theorem Hub.send_tlm (l : Nat) (b : List Byte) : (h.send l b).tlm = h.tlm := rfl
@[simp] theorem Hub.send_boot (l : Nat) (b : List Byte) : (h.send l b).boot = h.boot := rfl
@[simp] theorem Hub.send_ldr (l : Nat) (b : List Byte) : (h.send l b).ldr = h.ldr := rfl
@[simp] theorem Hub.send_rst (l : Nat) (b : List Byte) : (h.send l b).rst = h.rst := rfl
@[simp] theorem Hub.send_wdog (l : Nat) (b : List Byte) : (h.send l b).wdog = h.wdog := rfl
@[simp] theorem Hub.send_cal (l : Nat) (b : List Byte) : (h.send l b).cal = h.cal := rfl
@[simp] theorem Hub.send_ecc (l : Nat) (b : List Byte) : (h.send l b).ecc = h.ecc := rfl
@[simp] theorem Hub.send_rail (l : Nat) (b : List Byte) : (h.send l b).rail = h.rail := rfl
@[simp] theorem Hub.send_ctx (l : Nat) (b : List Byte) : (h.send l b).ctx = h.ctx := rfl
@[simp] theorem Hub.send_fence (l : Nat) (b : List Byte) : (h.send l b).fence = h.fence := rfl
@[simp] theorem Hub.send_slc (l : Nat) (b : List Byte) : (h.send l b).slc = h.slc := rfl
@[simp] theorem Hub.send_cut (l : Nat) (b : List Byte) : (h.send l b).cut = h.cut := rfl
@[simp] theorem Hub.send_trc (l : Nat) (b : List Byte) : (h.send l b).trc = h.trc := rfl
@[simp] theorem Hub.send_cnt (l : Nat) (b : List Byte) : (h.send l b).cnt = h.cnt := rfl
@[simp] theorem Hub.send_hang (l : Nat) (b : List Byte) : (h.send l b).hang = h.hang := rfl
@[simp] theorem Hub.send_dmp (l : Nat) (b : List Byte) : (h.send l b).dmp = h.dmp := rfl
@[simp] theorem Hub.send_ce (l : Nat) (b : List Byte) : (h.send l b).ce = h.ce := rfl
@[simp] theorem Hub.send_span (l : Nat) (b : List Byte) : (h.send l b).span = h.span := rfl
@[simp] theorem Hub.send_stn (l : Nat) (b : List Byte) : (h.send l b).stn = h.stn := rfl
@[simp] theorem Hub.send_gated (l : Nat) (b : List Byte) : (h.send l b).gated = h.gated := rfl
@[simp] theorem Hub.send_fwDue (l : Nat) (b : List Byte) : (h.send l b).fwDue = h.fwDue := rfl
@[simp] theorem Hub.send_reply (l : Nat) (b : List Byte) : (h.send l b).reply = h.reply := rfl
@[simp] theorem Hub.send_items (l : Nat) (b : List Byte) : (h.send l b).items = h.items := rfl
@[simp] theorem Hub.send_stamps (l : Nat) (b : List Byte) : (h.send l b).stamps = h.stamps := rfl
@[simp] theorem Hub.send_inject (l : Nat) (b : List Byte) : (h.send l b).inject = h.inject := rfl
@[simp] theorem Hub.send_free (l : Nat) (b : List Byte) : (h.send l b).free = h.free := rfl
@[simp] theorem Hub.send_out (l : Nat) (b : List Byte) : (h.send l b).out = h.out := rfl

/-! ## `Hub.updStn` -/

@[simp] theorem Hub.updStn_clk (s : Nat) (f : Stn → Stn) : (h.updStn s f).clk = h.clk := rfl
@[simp] theorem Hub.updStn_rw (s : Nat) (f : Stn → Stn) : (h.updStn s f).rw = h.rw := rfl
@[simp] theorem Hub.updStn_rws (s : Nat) (f : Stn → Stn) : (h.updStn s f).rws = h.rws := rfl
@[simp] theorem Hub.updStn_rc (s : Nat) (f : Stn → Stn) : (h.updStn s f).rc = h.rc := rfl
@[simp] theorem Hub.updStn_latch (s : Nat) (f : Stn → Stn) : (h.updStn s f).latch = h.latch := rfl
@[simp] theorem Hub.updStn_stageLo (s : Nat) (f : Stn → Stn) : (h.updStn s f).stageLo = h.stageLo := rfl
@[simp] theorem Hub.updStn_resp (s : Nat) (f : Stn → Stn) : (h.updStn s f).resp = h.resp := rfl
@[simp] theorem Hub.updStn_cyc (s : Nat) (f : Stn → Stn) : (h.updStn s f).cyc = h.cyc := rfl
@[simp] theorem Hub.updStn_turn (s : Nat) (f : Stn → Stn) : (h.updStn s f).turn = h.turn := rfl
@[simp] theorem Hub.updStn_chain (s : Nat) (f : Stn → Stn) : (h.updStn s f).chain = h.chain := rfl
@[simp] theorem Hub.updStn_er (s : Nat) (f : Stn → Stn) : (h.updStn s f).er = h.er := rfl
@[simp] theorem Hub.updStn_sec (s : Nat) (f : Stn → Stn) : (h.updStn s f).sec = h.sec := rfl
@[simp] theorem Hub.updStn_irq (s : Nat) (f : Stn → Stn) : (h.updStn s f).irq = h.irq := rfl
@[simp] theorem Hub.updStn_db (s : Nat) (f : Stn → Stn) : (h.updStn s f).db = h.db := rfl
@[simp] theorem Hub.updStn_mbx (s : Nat) (f : Stn → Stn) : (h.updStn s f).mbx = h.mbx := rfl
@[simp] theorem Hub.updStn_tlm (s : Nat) (f : Stn → Stn) : (h.updStn s f).tlm = h.tlm := rfl
@[simp] theorem Hub.updStn_boot (s : Nat) (f : Stn → Stn) : (h.updStn s f).boot = h.boot := rfl
@[simp] theorem Hub.updStn_ldr (s : Nat) (f : Stn → Stn) : (h.updStn s f).ldr = h.ldr := rfl
@[simp] theorem Hub.updStn_rst (s : Nat) (f : Stn → Stn) : (h.updStn s f).rst = h.rst := rfl
@[simp] theorem Hub.updStn_wdog (s : Nat) (f : Stn → Stn) : (h.updStn s f).wdog = h.wdog := rfl
@[simp] theorem Hub.updStn_cal (s : Nat) (f : Stn → Stn) : (h.updStn s f).cal = h.cal := rfl
@[simp] theorem Hub.updStn_ecc (s : Nat) (f : Stn → Stn) : (h.updStn s f).ecc = h.ecc := rfl
@[simp] theorem Hub.updStn_rail (s : Nat) (f : Stn → Stn) : (h.updStn s f).rail = h.rail := rfl
@[simp] theorem Hub.updStn_ctx (s : Nat) (f : Stn → Stn) : (h.updStn s f).ctx = h.ctx := rfl
@[simp] theorem Hub.updStn_fence (s : Nat) (f : Stn → Stn) : (h.updStn s f).fence = h.fence := rfl
@[simp] theorem Hub.updStn_slc (s : Nat) (f : Stn → Stn) : (h.updStn s f).slc = h.slc := rfl
@[simp] theorem Hub.updStn_cut (s : Nat) (f : Stn → Stn) : (h.updStn s f).cut = h.cut := rfl
@[simp] theorem Hub.updStn_trc (s : Nat) (f : Stn → Stn) : (h.updStn s f).trc = h.trc := rfl
@[simp] theorem Hub.updStn_cnt (s : Nat) (f : Stn → Stn) : (h.updStn s f).cnt = h.cnt := rfl
@[simp] theorem Hub.updStn_hang (s : Nat) (f : Stn → Stn) : (h.updStn s f).hang = h.hang := rfl
@[simp] theorem Hub.updStn_dmp (s : Nat) (f : Stn → Stn) : (h.updStn s f).dmp = h.dmp := rfl
@[simp] theorem Hub.updStn_ce (s : Nat) (f : Stn → Stn) : (h.updStn s f).ce = h.ce := rfl
@[simp] theorem Hub.updStn_span (s : Nat) (f : Stn → Stn) : (h.updStn s f).span = h.span := rfl
@[simp] theorem Hub.updStn_gated (s : Nat) (f : Stn → Stn) : (h.updStn s f).gated = h.gated := rfl
@[simp] theorem Hub.updStn_fwDue (s : Nat) (f : Stn → Stn) : (h.updStn s f).fwDue = h.fwDue := rfl
@[simp] theorem Hub.updStn_tx (s : Nat) (f : Stn → Stn) : (h.updStn s f).tx = h.tx := rfl
@[simp] theorem Hub.updStn_reply (s : Nat) (f : Stn → Stn) : (h.updStn s f).reply = h.reply := rfl
@[simp] theorem Hub.updStn_items (s : Nat) (f : Stn → Stn) : (h.updStn s f).items = h.items := rfl
@[simp] theorem Hub.updStn_stamps (s : Nat) (f : Stn → Stn) : (h.updStn s f).stamps = h.stamps := rfl
@[simp] theorem Hub.updStn_inject (s : Nat) (f : Stn → Stn) : (h.updStn s f).inject = h.inject := rfl
@[simp] theorem Hub.updStn_free (s : Nat) (f : Stn → Stn) : (h.updStn s f).free = h.free := rfl
@[simp] theorem Hub.updStn_out (s : Nat) (f : Stn → Stn) : (h.updStn s f).out = h.out := rfl

/-! ## `Hub.updSlice` -/

@[simp] theorem Hub.updSlice_clk (s : Nat) (f : Slice → Slice) : (h.updSlice s f).clk = h.clk := rfl
@[simp] theorem Hub.updSlice_rw (s : Nat) (f : Slice → Slice) : (h.updSlice s f).rw = h.rw := rfl
@[simp] theorem Hub.updSlice_rws (s : Nat) (f : Slice → Slice) : (h.updSlice s f).rws = h.rws := rfl
@[simp] theorem Hub.updSlice_rc (s : Nat) (f : Slice → Slice) : (h.updSlice s f).rc = h.rc := rfl
@[simp] theorem Hub.updSlice_latch (s : Nat) (f : Slice → Slice) : (h.updSlice s f).latch = h.latch := rfl
@[simp] theorem Hub.updSlice_stageLo (s : Nat) (f : Slice → Slice) : (h.updSlice s f).stageLo = h.stageLo := rfl
@[simp] theorem Hub.updSlice_resp (s : Nat) (f : Slice → Slice) : (h.updSlice s f).resp = h.resp := rfl
@[simp] theorem Hub.updSlice_cyc (s : Nat) (f : Slice → Slice) : (h.updSlice s f).cyc = h.cyc := rfl
@[simp] theorem Hub.updSlice_turn (s : Nat) (f : Slice → Slice) : (h.updSlice s f).turn = h.turn := rfl
@[simp] theorem Hub.updSlice_chain (s : Nat) (f : Slice → Slice) : (h.updSlice s f).chain = h.chain := rfl
@[simp] theorem Hub.updSlice_er (s : Nat) (f : Slice → Slice) : (h.updSlice s f).er = h.er := rfl
@[simp] theorem Hub.updSlice_sec (s : Nat) (f : Slice → Slice) : (h.updSlice s f).sec = h.sec := rfl
@[simp] theorem Hub.updSlice_irq (s : Nat) (f : Slice → Slice) : (h.updSlice s f).irq = h.irq := rfl
@[simp] theorem Hub.updSlice_db (s : Nat) (f : Slice → Slice) : (h.updSlice s f).db = h.db := rfl
@[simp] theorem Hub.updSlice_mbx (s : Nat) (f : Slice → Slice) : (h.updSlice s f).mbx = h.mbx := rfl
@[simp] theorem Hub.updSlice_tlm (s : Nat) (f : Slice → Slice) : (h.updSlice s f).tlm = h.tlm := rfl
@[simp] theorem Hub.updSlice_boot (s : Nat) (f : Slice → Slice) : (h.updSlice s f).boot = h.boot := rfl
@[simp] theorem Hub.updSlice_ldr (s : Nat) (f : Slice → Slice) : (h.updSlice s f).ldr = h.ldr := rfl
@[simp] theorem Hub.updSlice_rst (s : Nat) (f : Slice → Slice) : (h.updSlice s f).rst = h.rst := rfl
@[simp] theorem Hub.updSlice_wdog (s : Nat) (f : Slice → Slice) : (h.updSlice s f).wdog = h.wdog := rfl
@[simp] theorem Hub.updSlice_cal (s : Nat) (f : Slice → Slice) : (h.updSlice s f).cal = h.cal := rfl
@[simp] theorem Hub.updSlice_ecc (s : Nat) (f : Slice → Slice) : (h.updSlice s f).ecc = h.ecc := rfl
@[simp] theorem Hub.updSlice_rail (s : Nat) (f : Slice → Slice) : (h.updSlice s f).rail = h.rail := rfl
@[simp] theorem Hub.updSlice_ctx (s : Nat) (f : Slice → Slice) : (h.updSlice s f).ctx = h.ctx := rfl
@[simp] theorem Hub.updSlice_fence (s : Nat) (f : Slice → Slice) : (h.updSlice s f).fence = h.fence := rfl
@[simp] theorem Hub.updSlice_cut (s : Nat) (f : Slice → Slice) : (h.updSlice s f).cut = h.cut := rfl
@[simp] theorem Hub.updSlice_trc (s : Nat) (f : Slice → Slice) : (h.updSlice s f).trc = h.trc := rfl
@[simp] theorem Hub.updSlice_cnt (s : Nat) (f : Slice → Slice) : (h.updSlice s f).cnt = h.cnt := rfl
@[simp] theorem Hub.updSlice_hang (s : Nat) (f : Slice → Slice) : (h.updSlice s f).hang = h.hang := rfl
@[simp] theorem Hub.updSlice_dmp (s : Nat) (f : Slice → Slice) : (h.updSlice s f).dmp = h.dmp := rfl
@[simp] theorem Hub.updSlice_ce (s : Nat) (f : Slice → Slice) : (h.updSlice s f).ce = h.ce := rfl
@[simp] theorem Hub.updSlice_span (s : Nat) (f : Slice → Slice) : (h.updSlice s f).span = h.span := rfl
@[simp] theorem Hub.updSlice_stn (s : Nat) (f : Slice → Slice) : (h.updSlice s f).stn = h.stn := rfl
@[simp] theorem Hub.updSlice_gated (s : Nat) (f : Slice → Slice) : (h.updSlice s f).gated = h.gated := rfl
@[simp] theorem Hub.updSlice_fwDue (s : Nat) (f : Slice → Slice) : (h.updSlice s f).fwDue = h.fwDue := rfl
@[simp] theorem Hub.updSlice_tx (s : Nat) (f : Slice → Slice) : (h.updSlice s f).tx = h.tx := rfl
@[simp] theorem Hub.updSlice_reply (s : Nat) (f : Slice → Slice) : (h.updSlice s f).reply = h.reply := rfl
@[simp] theorem Hub.updSlice_items (s : Nat) (f : Slice → Slice) : (h.updSlice s f).items = h.items := rfl
@[simp] theorem Hub.updSlice_stamps (s : Nat) (f : Slice → Slice) : (h.updSlice s f).stamps = h.stamps := rfl
@[simp] theorem Hub.updSlice_inject (s : Nat) (f : Slice → Slice) : (h.updSlice s f).inject = h.inject := rfl
@[simp] theorem Hub.updSlice_free (s : Nat) (f : Slice → Slice) : (h.updSlice s f).free = h.free := rfl
@[simp] theorem Hub.updSlice_out (s : Nat) (f : Slice → Slice) : (h.updSlice s f).out = h.out := rfl

/-! ## `Hub.updKeys` -/

@[simp] theorem Hub.updKeys_clk (s : Nat) (f : SliceKeys → SliceKeys) : (h.updKeys s f).clk = h.clk := rfl
@[simp] theorem Hub.updKeys_rw (s : Nat) (f : SliceKeys → SliceKeys) : (h.updKeys s f).rw = h.rw := rfl
@[simp] theorem Hub.updKeys_rws (s : Nat) (f : SliceKeys → SliceKeys) : (h.updKeys s f).rws = h.rws := rfl
@[simp] theorem Hub.updKeys_rc (s : Nat) (f : SliceKeys → SliceKeys) : (h.updKeys s f).rc = h.rc := rfl
@[simp] theorem Hub.updKeys_latch (s : Nat) (f : SliceKeys → SliceKeys) : (h.updKeys s f).latch = h.latch := rfl
@[simp] theorem Hub.updKeys_stageLo (s : Nat) (f : SliceKeys → SliceKeys) : (h.updKeys s f).stageLo = h.stageLo := rfl
@[simp] theorem Hub.updKeys_resp (s : Nat) (f : SliceKeys → SliceKeys) : (h.updKeys s f).resp = h.resp := rfl
@[simp] theorem Hub.updKeys_cyc (s : Nat) (f : SliceKeys → SliceKeys) : (h.updKeys s f).cyc = h.cyc := rfl
@[simp] theorem Hub.updKeys_turn (s : Nat) (f : SliceKeys → SliceKeys) : (h.updKeys s f).turn = h.turn := rfl
@[simp] theorem Hub.updKeys_chain (s : Nat) (f : SliceKeys → SliceKeys) : (h.updKeys s f).chain = h.chain := rfl
@[simp] theorem Hub.updKeys_er (s : Nat) (f : SliceKeys → SliceKeys) : (h.updKeys s f).er = h.er := rfl
@[simp] theorem Hub.updKeys_sec (s : Nat) (f : SliceKeys → SliceKeys) : (h.updKeys s f).sec = h.sec := rfl
@[simp] theorem Hub.updKeys_irq (s : Nat) (f : SliceKeys → SliceKeys) : (h.updKeys s f).irq = h.irq := rfl
@[simp] theorem Hub.updKeys_db (s : Nat) (f : SliceKeys → SliceKeys) : (h.updKeys s f).db = h.db := rfl
@[simp] theorem Hub.updKeys_mbx (s : Nat) (f : SliceKeys → SliceKeys) : (h.updKeys s f).mbx = h.mbx := rfl
@[simp] theorem Hub.updKeys_tlm (s : Nat) (f : SliceKeys → SliceKeys) : (h.updKeys s f).tlm = h.tlm := rfl
@[simp] theorem Hub.updKeys_boot (s : Nat) (f : SliceKeys → SliceKeys) : (h.updKeys s f).boot = h.boot := rfl
@[simp] theorem Hub.updKeys_ldr (s : Nat) (f : SliceKeys → SliceKeys) : (h.updKeys s f).ldr = h.ldr := rfl
@[simp] theorem Hub.updKeys_rst (s : Nat) (f : SliceKeys → SliceKeys) : (h.updKeys s f).rst = h.rst := rfl
@[simp] theorem Hub.updKeys_wdog (s : Nat) (f : SliceKeys → SliceKeys) : (h.updKeys s f).wdog = h.wdog := rfl
@[simp] theorem Hub.updKeys_cal (s : Nat) (f : SliceKeys → SliceKeys) : (h.updKeys s f).cal = h.cal := rfl
@[simp] theorem Hub.updKeys_ecc (s : Nat) (f : SliceKeys → SliceKeys) : (h.updKeys s f).ecc = h.ecc := rfl
@[simp] theorem Hub.updKeys_rail (s : Nat) (f : SliceKeys → SliceKeys) : (h.updKeys s f).rail = h.rail := rfl
@[simp] theorem Hub.updKeys_ctx (s : Nat) (f : SliceKeys → SliceKeys) : (h.updKeys s f).ctx = h.ctx := rfl
@[simp] theorem Hub.updKeys_fence (s : Nat) (f : SliceKeys → SliceKeys) : (h.updKeys s f).fence = h.fence := rfl
@[simp] theorem Hub.updKeys_cut (s : Nat) (f : SliceKeys → SliceKeys) : (h.updKeys s f).cut = h.cut := rfl
@[simp] theorem Hub.updKeys_trc (s : Nat) (f : SliceKeys → SliceKeys) : (h.updKeys s f).trc = h.trc := rfl
@[simp] theorem Hub.updKeys_cnt (s : Nat) (f : SliceKeys → SliceKeys) : (h.updKeys s f).cnt = h.cnt := rfl
@[simp] theorem Hub.updKeys_hang (s : Nat) (f : SliceKeys → SliceKeys) : (h.updKeys s f).hang = h.hang := rfl
@[simp] theorem Hub.updKeys_dmp (s : Nat) (f : SliceKeys → SliceKeys) : (h.updKeys s f).dmp = h.dmp := rfl
@[simp] theorem Hub.updKeys_ce (s : Nat) (f : SliceKeys → SliceKeys) : (h.updKeys s f).ce = h.ce := rfl
@[simp] theorem Hub.updKeys_span (s : Nat) (f : SliceKeys → SliceKeys) : (h.updKeys s f).span = h.span := rfl
@[simp] theorem Hub.updKeys_stn (s : Nat) (f : SliceKeys → SliceKeys) : (h.updKeys s f).stn = h.stn := rfl
@[simp] theorem Hub.updKeys_gated (s : Nat) (f : SliceKeys → SliceKeys) : (h.updKeys s f).gated = h.gated := rfl
@[simp] theorem Hub.updKeys_fwDue (s : Nat) (f : SliceKeys → SliceKeys) : (h.updKeys s f).fwDue = h.fwDue := rfl
@[simp] theorem Hub.updKeys_tx (s : Nat) (f : SliceKeys → SliceKeys) : (h.updKeys s f).tx = h.tx := rfl
@[simp] theorem Hub.updKeys_reply (s : Nat) (f : SliceKeys → SliceKeys) : (h.updKeys s f).reply = h.reply := rfl
@[simp] theorem Hub.updKeys_items (s : Nat) (f : SliceKeys → SliceKeys) : (h.updKeys s f).items = h.items := rfl
@[simp] theorem Hub.updKeys_stamps (s : Nat) (f : SliceKeys → SliceKeys) : (h.updKeys s f).stamps = h.stamps := rfl
@[simp] theorem Hub.updKeys_inject (s : Nat) (f : SliceKeys → SliceKeys) : (h.updKeys s f).inject = h.inject := rfl
@[simp] theorem Hub.updKeys_free (s : Nat) (f : SliceKeys → SliceKeys) : (h.updKeys s f).free = h.free := rfl
@[simp] theorem Hub.updKeys_out (s : Nat) (f : SliceKeys → SliceKeys) : (h.updKeys s f).out = h.out := rfl

/-! ## `Hub.updCtx` -/

@[simp] theorem Hub.updCtx_clk (c : Nat) (f : Ctx → Ctx) : (h.updCtx c f).clk = h.clk := rfl
@[simp] theorem Hub.updCtx_rw (c : Nat) (f : Ctx → Ctx) : (h.updCtx c f).rw = h.rw := rfl
@[simp] theorem Hub.updCtx_rws (c : Nat) (f : Ctx → Ctx) : (h.updCtx c f).rws = h.rws := rfl
@[simp] theorem Hub.updCtx_rc (c : Nat) (f : Ctx → Ctx) : (h.updCtx c f).rc = h.rc := rfl
@[simp] theorem Hub.updCtx_latch (c : Nat) (f : Ctx → Ctx) : (h.updCtx c f).latch = h.latch := rfl
@[simp] theorem Hub.updCtx_stageLo (c : Nat) (f : Ctx → Ctx) : (h.updCtx c f).stageLo = h.stageLo := rfl
@[simp] theorem Hub.updCtx_resp (c : Nat) (f : Ctx → Ctx) : (h.updCtx c f).resp = h.resp := rfl
@[simp] theorem Hub.updCtx_cyc (c : Nat) (f : Ctx → Ctx) : (h.updCtx c f).cyc = h.cyc := rfl
@[simp] theorem Hub.updCtx_turn (c : Nat) (f : Ctx → Ctx) : (h.updCtx c f).turn = h.turn := rfl
@[simp] theorem Hub.updCtx_chain (c : Nat) (f : Ctx → Ctx) : (h.updCtx c f).chain = h.chain := rfl
@[simp] theorem Hub.updCtx_er (c : Nat) (f : Ctx → Ctx) : (h.updCtx c f).er = h.er := rfl
@[simp] theorem Hub.updCtx_sec (c : Nat) (f : Ctx → Ctx) : (h.updCtx c f).sec = h.sec := rfl
@[simp] theorem Hub.updCtx_irq (c : Nat) (f : Ctx → Ctx) : (h.updCtx c f).irq = h.irq := rfl
@[simp] theorem Hub.updCtx_db (c : Nat) (f : Ctx → Ctx) : (h.updCtx c f).db = h.db := rfl
@[simp] theorem Hub.updCtx_mbx (c : Nat) (f : Ctx → Ctx) : (h.updCtx c f).mbx = h.mbx := rfl
@[simp] theorem Hub.updCtx_tlm (c : Nat) (f : Ctx → Ctx) : (h.updCtx c f).tlm = h.tlm := rfl
@[simp] theorem Hub.updCtx_boot (c : Nat) (f : Ctx → Ctx) : (h.updCtx c f).boot = h.boot := rfl
@[simp] theorem Hub.updCtx_ldr (c : Nat) (f : Ctx → Ctx) : (h.updCtx c f).ldr = h.ldr := rfl
@[simp] theorem Hub.updCtx_rst (c : Nat) (f : Ctx → Ctx) : (h.updCtx c f).rst = h.rst := rfl
@[simp] theorem Hub.updCtx_wdog (c : Nat) (f : Ctx → Ctx) : (h.updCtx c f).wdog = h.wdog := rfl
@[simp] theorem Hub.updCtx_cal (c : Nat) (f : Ctx → Ctx) : (h.updCtx c f).cal = h.cal := rfl
@[simp] theorem Hub.updCtx_ecc (c : Nat) (f : Ctx → Ctx) : (h.updCtx c f).ecc = h.ecc := rfl
@[simp] theorem Hub.updCtx_rail (c : Nat) (f : Ctx → Ctx) : (h.updCtx c f).rail = h.rail := rfl
@[simp] theorem Hub.updCtx_fence (c : Nat) (f : Ctx → Ctx) : (h.updCtx c f).fence = h.fence := rfl
@[simp] theorem Hub.updCtx_slc (c : Nat) (f : Ctx → Ctx) : (h.updCtx c f).slc = h.slc := rfl
@[simp] theorem Hub.updCtx_cut (c : Nat) (f : Ctx → Ctx) : (h.updCtx c f).cut = h.cut := rfl
@[simp] theorem Hub.updCtx_trc (c : Nat) (f : Ctx → Ctx) : (h.updCtx c f).trc = h.trc := rfl
@[simp] theorem Hub.updCtx_cnt (c : Nat) (f : Ctx → Ctx) : (h.updCtx c f).cnt = h.cnt := rfl
@[simp] theorem Hub.updCtx_hang (c : Nat) (f : Ctx → Ctx) : (h.updCtx c f).hang = h.hang := rfl
@[simp] theorem Hub.updCtx_dmp (c : Nat) (f : Ctx → Ctx) : (h.updCtx c f).dmp = h.dmp := rfl
@[simp] theorem Hub.updCtx_ce (c : Nat) (f : Ctx → Ctx) : (h.updCtx c f).ce = h.ce := rfl
@[simp] theorem Hub.updCtx_span (c : Nat) (f : Ctx → Ctx) : (h.updCtx c f).span = h.span := rfl
@[simp] theorem Hub.updCtx_stn (c : Nat) (f : Ctx → Ctx) : (h.updCtx c f).stn = h.stn := rfl
@[simp] theorem Hub.updCtx_gated (c : Nat) (f : Ctx → Ctx) : (h.updCtx c f).gated = h.gated := rfl
@[simp] theorem Hub.updCtx_fwDue (c : Nat) (f : Ctx → Ctx) : (h.updCtx c f).fwDue = h.fwDue := rfl
@[simp] theorem Hub.updCtx_tx (c : Nat) (f : Ctx → Ctx) : (h.updCtx c f).tx = h.tx := rfl
@[simp] theorem Hub.updCtx_reply (c : Nat) (f : Ctx → Ctx) : (h.updCtx c f).reply = h.reply := rfl
@[simp] theorem Hub.updCtx_items (c : Nat) (f : Ctx → Ctx) : (h.updCtx c f).items = h.items := rfl
@[simp] theorem Hub.updCtx_stamps (c : Nat) (f : Ctx → Ctx) : (h.updCtx c f).stamps = h.stamps := rfl
@[simp] theorem Hub.updCtx_inject (c : Nat) (f : Ctx → Ctx) : (h.updCtx c f).inject = h.inject := rfl
@[simp] theorem Hub.updCtx_free (c : Nat) (f : Ctx → Ctx) : (h.updCtx c f).free = h.free := rfl
@[simp] theorem Hub.updCtx_out (c : Nat) (f : Ctx → Ctx) : (h.updCtx c f).out = h.out := rfl

/-! ## `Hub.updLink` -/

@[simp] theorem Hub.updLink_clk (s : Nat) (f : Link → Link) : (h.updLink s f).clk = h.clk := rfl
@[simp] theorem Hub.updLink_rw (s : Nat) (f : Link → Link) : (h.updLink s f).rw = h.rw := rfl
@[simp] theorem Hub.updLink_rws (s : Nat) (f : Link → Link) : (h.updLink s f).rws = h.rws := rfl
@[simp] theorem Hub.updLink_rc (s : Nat) (f : Link → Link) : (h.updLink s f).rc = h.rc := rfl
@[simp] theorem Hub.updLink_latch (s : Nat) (f : Link → Link) : (h.updLink s f).latch = h.latch := rfl
@[simp] theorem Hub.updLink_stageLo (s : Nat) (f : Link → Link) : (h.updLink s f).stageLo = h.stageLo := rfl
@[simp] theorem Hub.updLink_resp (s : Nat) (f : Link → Link) : (h.updLink s f).resp = h.resp := rfl
@[simp] theorem Hub.updLink_cyc (s : Nat) (f : Link → Link) : (h.updLink s f).cyc = h.cyc := rfl
@[simp] theorem Hub.updLink_turn (s : Nat) (f : Link → Link) : (h.updLink s f).turn = h.turn := rfl
@[simp] theorem Hub.updLink_er (s : Nat) (f : Link → Link) : (h.updLink s f).er = h.er := rfl
@[simp] theorem Hub.updLink_sec (s : Nat) (f : Link → Link) : (h.updLink s f).sec = h.sec := rfl
@[simp] theorem Hub.updLink_irq (s : Nat) (f : Link → Link) : (h.updLink s f).irq = h.irq := rfl
@[simp] theorem Hub.updLink_db (s : Nat) (f : Link → Link) : (h.updLink s f).db = h.db := rfl
@[simp] theorem Hub.updLink_mbx (s : Nat) (f : Link → Link) : (h.updLink s f).mbx = h.mbx := rfl
@[simp] theorem Hub.updLink_tlm (s : Nat) (f : Link → Link) : (h.updLink s f).tlm = h.tlm := rfl
@[simp] theorem Hub.updLink_boot (s : Nat) (f : Link → Link) : (h.updLink s f).boot = h.boot := rfl
@[simp] theorem Hub.updLink_ldr (s : Nat) (f : Link → Link) : (h.updLink s f).ldr = h.ldr := rfl
@[simp] theorem Hub.updLink_rst (s : Nat) (f : Link → Link) : (h.updLink s f).rst = h.rst := rfl
@[simp] theorem Hub.updLink_wdog (s : Nat) (f : Link → Link) : (h.updLink s f).wdog = h.wdog := rfl
@[simp] theorem Hub.updLink_cal (s : Nat) (f : Link → Link) : (h.updLink s f).cal = h.cal := rfl
@[simp] theorem Hub.updLink_ecc (s : Nat) (f : Link → Link) : (h.updLink s f).ecc = h.ecc := rfl
@[simp] theorem Hub.updLink_rail (s : Nat) (f : Link → Link) : (h.updLink s f).rail = h.rail := rfl
@[simp] theorem Hub.updLink_ctx (s : Nat) (f : Link → Link) : (h.updLink s f).ctx = h.ctx := rfl
@[simp] theorem Hub.updLink_fence (s : Nat) (f : Link → Link) : (h.updLink s f).fence = h.fence := rfl
@[simp] theorem Hub.updLink_slc (s : Nat) (f : Link → Link) : (h.updLink s f).slc = h.slc := rfl
@[simp] theorem Hub.updLink_cut (s : Nat) (f : Link → Link) : (h.updLink s f).cut = h.cut := rfl
@[simp] theorem Hub.updLink_trc (s : Nat) (f : Link → Link) : (h.updLink s f).trc = h.trc := rfl
@[simp] theorem Hub.updLink_cnt (s : Nat) (f : Link → Link) : (h.updLink s f).cnt = h.cnt := rfl
@[simp] theorem Hub.updLink_hang (s : Nat) (f : Link → Link) : (h.updLink s f).hang = h.hang := rfl
@[simp] theorem Hub.updLink_dmp (s : Nat) (f : Link → Link) : (h.updLink s f).dmp = h.dmp := rfl
@[simp] theorem Hub.updLink_ce (s : Nat) (f : Link → Link) : (h.updLink s f).ce = h.ce := rfl
@[simp] theorem Hub.updLink_span (s : Nat) (f : Link → Link) : (h.updLink s f).span = h.span := rfl
@[simp] theorem Hub.updLink_stn (s : Nat) (f : Link → Link) : (h.updLink s f).stn = h.stn := rfl
@[simp] theorem Hub.updLink_gated (s : Nat) (f : Link → Link) : (h.updLink s f).gated = h.gated := rfl
@[simp] theorem Hub.updLink_fwDue (s : Nat) (f : Link → Link) : (h.updLink s f).fwDue = h.fwDue := rfl
@[simp] theorem Hub.updLink_tx (s : Nat) (f : Link → Link) : (h.updLink s f).tx = h.tx := rfl
@[simp] theorem Hub.updLink_reply (s : Nat) (f : Link → Link) : (h.updLink s f).reply = h.reply := rfl
@[simp] theorem Hub.updLink_items (s : Nat) (f : Link → Link) : (h.updLink s f).items = h.items := rfl
@[simp] theorem Hub.updLink_stamps (s : Nat) (f : Link → Link) : (h.updLink s f).stamps = h.stamps := rfl
@[simp] theorem Hub.updLink_inject (s : Nat) (f : Link → Link) : (h.updLink s f).inject = h.inject := rfl
@[simp] theorem Hub.updLink_free (s : Nat) (f : Link → Link) : (h.updLink s f).free = h.free := rfl
@[simp] theorem Hub.updLink_out (s : Nat) (f : Link → Link) : (h.updLink s f).out = h.out := rfl

/-! ## `Hub.updSecM` -/

@[simp] theorem Hub.updSecM_clk (m : Master) (f : SecM → SecM) : (h.updSecM m f).clk = h.clk := rfl
@[simp] theorem Hub.updSecM_rw (m : Master) (f : SecM → SecM) : (h.updSecM m f).rw = h.rw := rfl
@[simp] theorem Hub.updSecM_rws (m : Master) (f : SecM → SecM) : (h.updSecM m f).rws = h.rws := rfl
@[simp] theorem Hub.updSecM_rc (m : Master) (f : SecM → SecM) : (h.updSecM m f).rc = h.rc := rfl
@[simp] theorem Hub.updSecM_latch (m : Master) (f : SecM → SecM) : (h.updSecM m f).latch = h.latch := rfl
@[simp] theorem Hub.updSecM_stageLo (m : Master) (f : SecM → SecM) : (h.updSecM m f).stageLo = h.stageLo := rfl
@[simp] theorem Hub.updSecM_resp (m : Master) (f : SecM → SecM) : (h.updSecM m f).resp = h.resp := rfl
@[simp] theorem Hub.updSecM_cyc (m : Master) (f : SecM → SecM) : (h.updSecM m f).cyc = h.cyc := rfl
@[simp] theorem Hub.updSecM_turn (m : Master) (f : SecM → SecM) : (h.updSecM m f).turn = h.turn := rfl
@[simp] theorem Hub.updSecM_chain (m : Master) (f : SecM → SecM) : (h.updSecM m f).chain = h.chain := rfl
@[simp] theorem Hub.updSecM_er (m : Master) (f : SecM → SecM) : (h.updSecM m f).er = h.er := rfl
@[simp] theorem Hub.updSecM_irq (m : Master) (f : SecM → SecM) : (h.updSecM m f).irq = h.irq := rfl
@[simp] theorem Hub.updSecM_db (m : Master) (f : SecM → SecM) : (h.updSecM m f).db = h.db := rfl
@[simp] theorem Hub.updSecM_mbx (m : Master) (f : SecM → SecM) : (h.updSecM m f).mbx = h.mbx := rfl
@[simp] theorem Hub.updSecM_tlm (m : Master) (f : SecM → SecM) : (h.updSecM m f).tlm = h.tlm := rfl
@[simp] theorem Hub.updSecM_boot (m : Master) (f : SecM → SecM) : (h.updSecM m f).boot = h.boot := rfl
@[simp] theorem Hub.updSecM_ldr (m : Master) (f : SecM → SecM) : (h.updSecM m f).ldr = h.ldr := rfl
@[simp] theorem Hub.updSecM_rst (m : Master) (f : SecM → SecM) : (h.updSecM m f).rst = h.rst := rfl
@[simp] theorem Hub.updSecM_wdog (m : Master) (f : SecM → SecM) : (h.updSecM m f).wdog = h.wdog := rfl
@[simp] theorem Hub.updSecM_cal (m : Master) (f : SecM → SecM) : (h.updSecM m f).cal = h.cal := rfl
@[simp] theorem Hub.updSecM_ecc (m : Master) (f : SecM → SecM) : (h.updSecM m f).ecc = h.ecc := rfl
@[simp] theorem Hub.updSecM_rail (m : Master) (f : SecM → SecM) : (h.updSecM m f).rail = h.rail := rfl
@[simp] theorem Hub.updSecM_ctx (m : Master) (f : SecM → SecM) : (h.updSecM m f).ctx = h.ctx := rfl
@[simp] theorem Hub.updSecM_fence (m : Master) (f : SecM → SecM) : (h.updSecM m f).fence = h.fence := rfl
@[simp] theorem Hub.updSecM_slc (m : Master) (f : SecM → SecM) : (h.updSecM m f).slc = h.slc := rfl
@[simp] theorem Hub.updSecM_cut (m : Master) (f : SecM → SecM) : (h.updSecM m f).cut = h.cut := rfl
@[simp] theorem Hub.updSecM_trc (m : Master) (f : SecM → SecM) : (h.updSecM m f).trc = h.trc := rfl
@[simp] theorem Hub.updSecM_cnt (m : Master) (f : SecM → SecM) : (h.updSecM m f).cnt = h.cnt := rfl
@[simp] theorem Hub.updSecM_hang (m : Master) (f : SecM → SecM) : (h.updSecM m f).hang = h.hang := rfl
@[simp] theorem Hub.updSecM_dmp (m : Master) (f : SecM → SecM) : (h.updSecM m f).dmp = h.dmp := rfl
@[simp] theorem Hub.updSecM_ce (m : Master) (f : SecM → SecM) : (h.updSecM m f).ce = h.ce := rfl
@[simp] theorem Hub.updSecM_span (m : Master) (f : SecM → SecM) : (h.updSecM m f).span = h.span := rfl
@[simp] theorem Hub.updSecM_stn (m : Master) (f : SecM → SecM) : (h.updSecM m f).stn = h.stn := rfl
@[simp] theorem Hub.updSecM_gated (m : Master) (f : SecM → SecM) : (h.updSecM m f).gated = h.gated := rfl
@[simp] theorem Hub.updSecM_fwDue (m : Master) (f : SecM → SecM) : (h.updSecM m f).fwDue = h.fwDue := rfl
@[simp] theorem Hub.updSecM_tx (m : Master) (f : SecM → SecM) : (h.updSecM m f).tx = h.tx := rfl
@[simp] theorem Hub.updSecM_reply (m : Master) (f : SecM → SecM) : (h.updSecM m f).reply = h.reply := rfl
@[simp] theorem Hub.updSecM_items (m : Master) (f : SecM → SecM) : (h.updSecM m f).items = h.items := rfl
@[simp] theorem Hub.updSecM_stamps (m : Master) (f : SecM → SecM) : (h.updSecM m f).stamps = h.stamps := rfl
@[simp] theorem Hub.updSecM_inject (m : Master) (f : SecM → SecM) : (h.updSecM m f).inject = h.inject := rfl
@[simp] theorem Hub.updSecM_free (m : Master) (f : SecM → SecM) : (h.updSecM m f).free = h.free := rfl
@[simp] theorem Hub.updSecM_out (m : Master) (f : SecM → SecM) : (h.updSecM m f).out = h.out := rfl

/-! ## `Hub.rwSet` -/

@[simp] theorem Hub.rwSet_clk (reset off mi v : Nat) : (h.rwSet reset off mi v).clk = h.clk := rfl
@[simp] theorem Hub.rwSet_rws (reset off mi v : Nat) : (h.rwSet reset off mi v).rws = h.rws := rfl
@[simp] theorem Hub.rwSet_rc (reset off mi v : Nat) : (h.rwSet reset off mi v).rc = h.rc := rfl
@[simp] theorem Hub.rwSet_latch (reset off mi v : Nat) : (h.rwSet reset off mi v).latch = h.latch := rfl
@[simp] theorem Hub.rwSet_stageLo (reset off mi v : Nat) : (h.rwSet reset off mi v).stageLo = h.stageLo := rfl
@[simp] theorem Hub.rwSet_resp (reset off mi v : Nat) : (h.rwSet reset off mi v).resp = h.resp := rfl
@[simp] theorem Hub.rwSet_cyc (reset off mi v : Nat) : (h.rwSet reset off mi v).cyc = h.cyc := rfl
@[simp] theorem Hub.rwSet_turn (reset off mi v : Nat) : (h.rwSet reset off mi v).turn = h.turn := rfl
@[simp] theorem Hub.rwSet_chain (reset off mi v : Nat) : (h.rwSet reset off mi v).chain = h.chain := rfl
@[simp] theorem Hub.rwSet_er (reset off mi v : Nat) : (h.rwSet reset off mi v).er = h.er := rfl
@[simp] theorem Hub.rwSet_sec (reset off mi v : Nat) : (h.rwSet reset off mi v).sec = h.sec := rfl
@[simp] theorem Hub.rwSet_irq (reset off mi v : Nat) : (h.rwSet reset off mi v).irq = h.irq := rfl
@[simp] theorem Hub.rwSet_db (reset off mi v : Nat) : (h.rwSet reset off mi v).db = h.db := rfl
@[simp] theorem Hub.rwSet_mbx (reset off mi v : Nat) : (h.rwSet reset off mi v).mbx = h.mbx := rfl
@[simp] theorem Hub.rwSet_tlm (reset off mi v : Nat) : (h.rwSet reset off mi v).tlm = h.tlm := rfl
@[simp] theorem Hub.rwSet_boot (reset off mi v : Nat) : (h.rwSet reset off mi v).boot = h.boot := rfl
@[simp] theorem Hub.rwSet_ldr (reset off mi v : Nat) : (h.rwSet reset off mi v).ldr = h.ldr := rfl
@[simp] theorem Hub.rwSet_rst (reset off mi v : Nat) : (h.rwSet reset off mi v).rst = h.rst := rfl
@[simp] theorem Hub.rwSet_wdog (reset off mi v : Nat) : (h.rwSet reset off mi v).wdog = h.wdog := rfl
@[simp] theorem Hub.rwSet_cal (reset off mi v : Nat) : (h.rwSet reset off mi v).cal = h.cal := rfl
@[simp] theorem Hub.rwSet_ecc (reset off mi v : Nat) : (h.rwSet reset off mi v).ecc = h.ecc := rfl
@[simp] theorem Hub.rwSet_rail (reset off mi v : Nat) : (h.rwSet reset off mi v).rail = h.rail := rfl
@[simp] theorem Hub.rwSet_ctx (reset off mi v : Nat) : (h.rwSet reset off mi v).ctx = h.ctx := rfl
@[simp] theorem Hub.rwSet_fence (reset off mi v : Nat) : (h.rwSet reset off mi v).fence = h.fence := rfl
@[simp] theorem Hub.rwSet_slc (reset off mi v : Nat) : (h.rwSet reset off mi v).slc = h.slc := rfl
@[simp] theorem Hub.rwSet_cut (reset off mi v : Nat) : (h.rwSet reset off mi v).cut = h.cut := rfl
@[simp] theorem Hub.rwSet_trc (reset off mi v : Nat) : (h.rwSet reset off mi v).trc = h.trc := rfl
@[simp] theorem Hub.rwSet_cnt (reset off mi v : Nat) : (h.rwSet reset off mi v).cnt = h.cnt := rfl
@[simp] theorem Hub.rwSet_hang (reset off mi v : Nat) : (h.rwSet reset off mi v).hang = h.hang := rfl
@[simp] theorem Hub.rwSet_dmp (reset off mi v : Nat) : (h.rwSet reset off mi v).dmp = h.dmp := rfl
@[simp] theorem Hub.rwSet_ce (reset off mi v : Nat) : (h.rwSet reset off mi v).ce = h.ce := rfl
@[simp] theorem Hub.rwSet_span (reset off mi v : Nat) : (h.rwSet reset off mi v).span = h.span := rfl
@[simp] theorem Hub.rwSet_stn (reset off mi v : Nat) : (h.rwSet reset off mi v).stn = h.stn := rfl
@[simp] theorem Hub.rwSet_gated (reset off mi v : Nat) : (h.rwSet reset off mi v).gated = h.gated := rfl
@[simp] theorem Hub.rwSet_fwDue (reset off mi v : Nat) : (h.rwSet reset off mi v).fwDue = h.fwDue := rfl
@[simp] theorem Hub.rwSet_tx (reset off mi v : Nat) : (h.rwSet reset off mi v).tx = h.tx := rfl
@[simp] theorem Hub.rwSet_reply (reset off mi v : Nat) : (h.rwSet reset off mi v).reply = h.reply := rfl
@[simp] theorem Hub.rwSet_items (reset off mi v : Nat) : (h.rwSet reset off mi v).items = h.items := rfl
@[simp] theorem Hub.rwSet_stamps (reset off mi v : Nat) : (h.rwSet reset off mi v).stamps = h.stamps := rfl
@[simp] theorem Hub.rwSet_inject (reset off mi v : Nat) : (h.rwSet reset off mi v).inject = h.inject := rfl
@[simp] theorem Hub.rwSet_free (reset off mi v : Nat) : (h.rwSet reset off mi v).free = h.free := rfl
@[simp] theorem Hub.rwSet_out (reset off mi v : Nat) : (h.rwSet reset off mi v).out = h.out := rfl

/-! ## `Hub.rwsUpd` -/

@[simp] theorem Hub.rwsUpd_clk (reset off : Nat) (f : Rws → Rws) : (h.rwsUpd reset off f).clk = h.clk := rfl
@[simp] theorem Hub.rwsUpd_rw (reset off : Nat) (f : Rws → Rws) : (h.rwsUpd reset off f).rw = h.rw := rfl
@[simp] theorem Hub.rwsUpd_rc (reset off : Nat) (f : Rws → Rws) : (h.rwsUpd reset off f).rc = h.rc := rfl
@[simp] theorem Hub.rwsUpd_latch (reset off : Nat) (f : Rws → Rws) : (h.rwsUpd reset off f).latch = h.latch := rfl
@[simp] theorem Hub.rwsUpd_stageLo (reset off : Nat) (f : Rws → Rws) : (h.rwsUpd reset off f).stageLo = h.stageLo := rfl
@[simp] theorem Hub.rwsUpd_resp (reset off : Nat) (f : Rws → Rws) : (h.rwsUpd reset off f).resp = h.resp := rfl
@[simp] theorem Hub.rwsUpd_cyc (reset off : Nat) (f : Rws → Rws) : (h.rwsUpd reset off f).cyc = h.cyc := rfl
@[simp] theorem Hub.rwsUpd_turn (reset off : Nat) (f : Rws → Rws) : (h.rwsUpd reset off f).turn = h.turn := rfl
@[simp] theorem Hub.rwsUpd_chain (reset off : Nat) (f : Rws → Rws) : (h.rwsUpd reset off f).chain = h.chain := rfl
@[simp] theorem Hub.rwsUpd_er (reset off : Nat) (f : Rws → Rws) : (h.rwsUpd reset off f).er = h.er := rfl
@[simp] theorem Hub.rwsUpd_sec (reset off : Nat) (f : Rws → Rws) : (h.rwsUpd reset off f).sec = h.sec := rfl
@[simp] theorem Hub.rwsUpd_irq (reset off : Nat) (f : Rws → Rws) : (h.rwsUpd reset off f).irq = h.irq := rfl
@[simp] theorem Hub.rwsUpd_db (reset off : Nat) (f : Rws → Rws) : (h.rwsUpd reset off f).db = h.db := rfl
@[simp] theorem Hub.rwsUpd_mbx (reset off : Nat) (f : Rws → Rws) : (h.rwsUpd reset off f).mbx = h.mbx := rfl
@[simp] theorem Hub.rwsUpd_tlm (reset off : Nat) (f : Rws → Rws) : (h.rwsUpd reset off f).tlm = h.tlm := rfl
@[simp] theorem Hub.rwsUpd_boot (reset off : Nat) (f : Rws → Rws) : (h.rwsUpd reset off f).boot = h.boot := rfl
@[simp] theorem Hub.rwsUpd_ldr (reset off : Nat) (f : Rws → Rws) : (h.rwsUpd reset off f).ldr = h.ldr := rfl
@[simp] theorem Hub.rwsUpd_rst (reset off : Nat) (f : Rws → Rws) : (h.rwsUpd reset off f).rst = h.rst := rfl
@[simp] theorem Hub.rwsUpd_wdog (reset off : Nat) (f : Rws → Rws) : (h.rwsUpd reset off f).wdog = h.wdog := rfl
@[simp] theorem Hub.rwsUpd_cal (reset off : Nat) (f : Rws → Rws) : (h.rwsUpd reset off f).cal = h.cal := rfl
@[simp] theorem Hub.rwsUpd_ecc (reset off : Nat) (f : Rws → Rws) : (h.rwsUpd reset off f).ecc = h.ecc := rfl
@[simp] theorem Hub.rwsUpd_rail (reset off : Nat) (f : Rws → Rws) : (h.rwsUpd reset off f).rail = h.rail := rfl
@[simp] theorem Hub.rwsUpd_ctx (reset off : Nat) (f : Rws → Rws) : (h.rwsUpd reset off f).ctx = h.ctx := rfl
@[simp] theorem Hub.rwsUpd_fence (reset off : Nat) (f : Rws → Rws) : (h.rwsUpd reset off f).fence = h.fence := rfl
@[simp] theorem Hub.rwsUpd_slc (reset off : Nat) (f : Rws → Rws) : (h.rwsUpd reset off f).slc = h.slc := rfl
@[simp] theorem Hub.rwsUpd_cut (reset off : Nat) (f : Rws → Rws) : (h.rwsUpd reset off f).cut = h.cut := rfl
@[simp] theorem Hub.rwsUpd_trc (reset off : Nat) (f : Rws → Rws) : (h.rwsUpd reset off f).trc = h.trc := rfl
@[simp] theorem Hub.rwsUpd_cnt (reset off : Nat) (f : Rws → Rws) : (h.rwsUpd reset off f).cnt = h.cnt := rfl
@[simp] theorem Hub.rwsUpd_hang (reset off : Nat) (f : Rws → Rws) : (h.rwsUpd reset off f).hang = h.hang := rfl
@[simp] theorem Hub.rwsUpd_dmp (reset off : Nat) (f : Rws → Rws) : (h.rwsUpd reset off f).dmp = h.dmp := rfl
@[simp] theorem Hub.rwsUpd_ce (reset off : Nat) (f : Rws → Rws) : (h.rwsUpd reset off f).ce = h.ce := rfl
@[simp] theorem Hub.rwsUpd_span (reset off : Nat) (f : Rws → Rws) : (h.rwsUpd reset off f).span = h.span := rfl
@[simp] theorem Hub.rwsUpd_stn (reset off : Nat) (f : Rws → Rws) : (h.rwsUpd reset off f).stn = h.stn := rfl
@[simp] theorem Hub.rwsUpd_gated (reset off : Nat) (f : Rws → Rws) : (h.rwsUpd reset off f).gated = h.gated := rfl
@[simp] theorem Hub.rwsUpd_fwDue (reset off : Nat) (f : Rws → Rws) : (h.rwsUpd reset off f).fwDue = h.fwDue := rfl
@[simp] theorem Hub.rwsUpd_tx (reset off : Nat) (f : Rws → Rws) : (h.rwsUpd reset off f).tx = h.tx := rfl
@[simp] theorem Hub.rwsUpd_reply (reset off : Nat) (f : Rws → Rws) : (h.rwsUpd reset off f).reply = h.reply := rfl
@[simp] theorem Hub.rwsUpd_items (reset off : Nat) (f : Rws → Rws) : (h.rwsUpd reset off f).items = h.items := rfl
@[simp] theorem Hub.rwsUpd_stamps (reset off : Nat) (f : Rws → Rws) : (h.rwsUpd reset off f).stamps = h.stamps := rfl
@[simp] theorem Hub.rwsUpd_inject (reset off : Nat) (f : Rws → Rws) : (h.rwsUpd reset off f).inject = h.inject := rfl
@[simp] theorem Hub.rwsUpd_free (reset off : Nat) (f : Rws → Rws) : (h.rwsUpd reset off f).free = h.free := rfl
@[simp] theorem Hub.rwsUpd_out (reset off : Nat) (f : Rws → Rws) : (h.rwsUpd reset off f).out = h.out := rfl

/-! ## `Hub.rcZero` -/

@[simp] theorem Hub.rcZero_clk (off mi lsb : Nat) : (h.rcZero off mi lsb).clk = h.clk := rfl
@[simp] theorem Hub.rcZero_rw (off mi lsb : Nat) : (h.rcZero off mi lsb).rw = h.rw := rfl
@[simp] theorem Hub.rcZero_rws (off mi lsb : Nat) : (h.rcZero off mi lsb).rws = h.rws := rfl
@[simp] theorem Hub.rcZero_latch (off mi lsb : Nat) : (h.rcZero off mi lsb).latch = h.latch := rfl
@[simp] theorem Hub.rcZero_stageLo (off mi lsb : Nat) : (h.rcZero off mi lsb).stageLo = h.stageLo := rfl
@[simp] theorem Hub.rcZero_resp (off mi lsb : Nat) : (h.rcZero off mi lsb).resp = h.resp := rfl
@[simp] theorem Hub.rcZero_cyc (off mi lsb : Nat) : (h.rcZero off mi lsb).cyc = h.cyc := rfl
@[simp] theorem Hub.rcZero_turn (off mi lsb : Nat) : (h.rcZero off mi lsb).turn = h.turn := rfl
@[simp] theorem Hub.rcZero_chain (off mi lsb : Nat) : (h.rcZero off mi lsb).chain = h.chain := rfl
@[simp] theorem Hub.rcZero_er (off mi lsb : Nat) : (h.rcZero off mi lsb).er = h.er := rfl
@[simp] theorem Hub.rcZero_sec (off mi lsb : Nat) : (h.rcZero off mi lsb).sec = h.sec := rfl
@[simp] theorem Hub.rcZero_irq (off mi lsb : Nat) : (h.rcZero off mi lsb).irq = h.irq := rfl
@[simp] theorem Hub.rcZero_db (off mi lsb : Nat) : (h.rcZero off mi lsb).db = h.db := rfl
@[simp] theorem Hub.rcZero_mbx (off mi lsb : Nat) : (h.rcZero off mi lsb).mbx = h.mbx := rfl
@[simp] theorem Hub.rcZero_tlm (off mi lsb : Nat) : (h.rcZero off mi lsb).tlm = h.tlm := rfl
@[simp] theorem Hub.rcZero_boot (off mi lsb : Nat) : (h.rcZero off mi lsb).boot = h.boot := rfl
@[simp] theorem Hub.rcZero_ldr (off mi lsb : Nat) : (h.rcZero off mi lsb).ldr = h.ldr := rfl
@[simp] theorem Hub.rcZero_rst (off mi lsb : Nat) : (h.rcZero off mi lsb).rst = h.rst := rfl
@[simp] theorem Hub.rcZero_wdog (off mi lsb : Nat) : (h.rcZero off mi lsb).wdog = h.wdog := rfl
@[simp] theorem Hub.rcZero_cal (off mi lsb : Nat) : (h.rcZero off mi lsb).cal = h.cal := rfl
@[simp] theorem Hub.rcZero_ecc (off mi lsb : Nat) : (h.rcZero off mi lsb).ecc = h.ecc := rfl
@[simp] theorem Hub.rcZero_rail (off mi lsb : Nat) : (h.rcZero off mi lsb).rail = h.rail := rfl
@[simp] theorem Hub.rcZero_ctx (off mi lsb : Nat) : (h.rcZero off mi lsb).ctx = h.ctx := rfl
@[simp] theorem Hub.rcZero_fence (off mi lsb : Nat) : (h.rcZero off mi lsb).fence = h.fence := rfl
@[simp] theorem Hub.rcZero_slc (off mi lsb : Nat) : (h.rcZero off mi lsb).slc = h.slc := rfl
@[simp] theorem Hub.rcZero_cut (off mi lsb : Nat) : (h.rcZero off mi lsb).cut = h.cut := rfl
@[simp] theorem Hub.rcZero_trc (off mi lsb : Nat) : (h.rcZero off mi lsb).trc = h.trc := rfl
@[simp] theorem Hub.rcZero_cnt (off mi lsb : Nat) : (h.rcZero off mi lsb).cnt = h.cnt := rfl
@[simp] theorem Hub.rcZero_hang (off mi lsb : Nat) : (h.rcZero off mi lsb).hang = h.hang := rfl
@[simp] theorem Hub.rcZero_dmp (off mi lsb : Nat) : (h.rcZero off mi lsb).dmp = h.dmp := rfl
@[simp] theorem Hub.rcZero_ce (off mi lsb : Nat) : (h.rcZero off mi lsb).ce = h.ce := rfl
@[simp] theorem Hub.rcZero_span (off mi lsb : Nat) : (h.rcZero off mi lsb).span = h.span := rfl
@[simp] theorem Hub.rcZero_stn (off mi lsb : Nat) : (h.rcZero off mi lsb).stn = h.stn := rfl
@[simp] theorem Hub.rcZero_gated (off mi lsb : Nat) : (h.rcZero off mi lsb).gated = h.gated := rfl
@[simp] theorem Hub.rcZero_fwDue (off mi lsb : Nat) : (h.rcZero off mi lsb).fwDue = h.fwDue := rfl
@[simp] theorem Hub.rcZero_tx (off mi lsb : Nat) : (h.rcZero off mi lsb).tx = h.tx := rfl
@[simp] theorem Hub.rcZero_reply (off mi lsb : Nat) : (h.rcZero off mi lsb).reply = h.reply := rfl
@[simp] theorem Hub.rcZero_items (off mi lsb : Nat) : (h.rcZero off mi lsb).items = h.items := rfl
@[simp] theorem Hub.rcZero_stamps (off mi lsb : Nat) : (h.rcZero off mi lsb).stamps = h.stamps := rfl
@[simp] theorem Hub.rcZero_inject (off mi lsb : Nat) : (h.rcZero off mi lsb).inject = h.inject := rfl
@[simp] theorem Hub.rcZero_free (off mi lsb : Nat) : (h.rcZero off mi lsb).free = h.free := rfl
@[simp] theorem Hub.rcZero_out (off mi lsb : Nat) : (h.rcZero off mi lsb).out = h.out := rfl

/-! ## `Hub.rcClear` -/

@[simp] theorem Hub.rcClear_clk (off mi lsb : Nat) : (h.rcClear off mi lsb).clk = h.clk := rfl
@[simp] theorem Hub.rcClear_rw (off mi lsb : Nat) : (h.rcClear off mi lsb).rw = h.rw := rfl
@[simp] theorem Hub.rcClear_rws (off mi lsb : Nat) : (h.rcClear off mi lsb).rws = h.rws := rfl
@[simp] theorem Hub.rcClear_latch (off mi lsb : Nat) : (h.rcClear off mi lsb).latch = h.latch := rfl
@[simp] theorem Hub.rcClear_stageLo (off mi lsb : Nat) : (h.rcClear off mi lsb).stageLo = h.stageLo := rfl
@[simp] theorem Hub.rcClear_resp (off mi lsb : Nat) : (h.rcClear off mi lsb).resp = h.resp := rfl
@[simp] theorem Hub.rcClear_cyc (off mi lsb : Nat) : (h.rcClear off mi lsb).cyc = h.cyc := rfl
@[simp] theorem Hub.rcClear_turn (off mi lsb : Nat) : (h.rcClear off mi lsb).turn = h.turn := rfl
@[simp] theorem Hub.rcClear_chain (off mi lsb : Nat) : (h.rcClear off mi lsb).chain = h.chain := rfl
@[simp] theorem Hub.rcClear_er (off mi lsb : Nat) : (h.rcClear off mi lsb).er = h.er := rfl
@[simp] theorem Hub.rcClear_sec (off mi lsb : Nat) : (h.rcClear off mi lsb).sec = h.sec := rfl
@[simp] theorem Hub.rcClear_irq (off mi lsb : Nat) : (h.rcClear off mi lsb).irq = h.irq := rfl
@[simp] theorem Hub.rcClear_db (off mi lsb : Nat) : (h.rcClear off mi lsb).db = h.db := rfl
@[simp] theorem Hub.rcClear_mbx (off mi lsb : Nat) : (h.rcClear off mi lsb).mbx = h.mbx := rfl
@[simp] theorem Hub.rcClear_tlm (off mi lsb : Nat) : (h.rcClear off mi lsb).tlm = h.tlm := rfl
@[simp] theorem Hub.rcClear_boot (off mi lsb : Nat) : (h.rcClear off mi lsb).boot = h.boot := rfl
@[simp] theorem Hub.rcClear_ldr (off mi lsb : Nat) : (h.rcClear off mi lsb).ldr = h.ldr := rfl
@[simp] theorem Hub.rcClear_rst (off mi lsb : Nat) : (h.rcClear off mi lsb).rst = h.rst := rfl
@[simp] theorem Hub.rcClear_wdog (off mi lsb : Nat) : (h.rcClear off mi lsb).wdog = h.wdog := rfl
@[simp] theorem Hub.rcClear_cal (off mi lsb : Nat) : (h.rcClear off mi lsb).cal = h.cal := rfl
@[simp] theorem Hub.rcClear_ecc (off mi lsb : Nat) : (h.rcClear off mi lsb).ecc = h.ecc := rfl
@[simp] theorem Hub.rcClear_rail (off mi lsb : Nat) : (h.rcClear off mi lsb).rail = h.rail := rfl
@[simp] theorem Hub.rcClear_ctx (off mi lsb : Nat) : (h.rcClear off mi lsb).ctx = h.ctx := rfl
@[simp] theorem Hub.rcClear_fence (off mi lsb : Nat) : (h.rcClear off mi lsb).fence = h.fence := rfl
@[simp] theorem Hub.rcClear_slc (off mi lsb : Nat) : (h.rcClear off mi lsb).slc = h.slc := rfl
@[simp] theorem Hub.rcClear_cut (off mi lsb : Nat) : (h.rcClear off mi lsb).cut = h.cut := rfl
@[simp] theorem Hub.rcClear_trc (off mi lsb : Nat) : (h.rcClear off mi lsb).trc = h.trc := rfl
@[simp] theorem Hub.rcClear_cnt (off mi lsb : Nat) : (h.rcClear off mi lsb).cnt = h.cnt := rfl
@[simp] theorem Hub.rcClear_hang (off mi lsb : Nat) : (h.rcClear off mi lsb).hang = h.hang := rfl
@[simp] theorem Hub.rcClear_dmp (off mi lsb : Nat) : (h.rcClear off mi lsb).dmp = h.dmp := rfl
@[simp] theorem Hub.rcClear_ce (off mi lsb : Nat) : (h.rcClear off mi lsb).ce = h.ce := rfl
@[simp] theorem Hub.rcClear_span (off mi lsb : Nat) : (h.rcClear off mi lsb).span = h.span := rfl
@[simp] theorem Hub.rcClear_stn (off mi lsb : Nat) : (h.rcClear off mi lsb).stn = h.stn := rfl
@[simp] theorem Hub.rcClear_gated (off mi lsb : Nat) : (h.rcClear off mi lsb).gated = h.gated := rfl
@[simp] theorem Hub.rcClear_fwDue (off mi lsb : Nat) : (h.rcClear off mi lsb).fwDue = h.fwDue := rfl
@[simp] theorem Hub.rcClear_tx (off mi lsb : Nat) : (h.rcClear off mi lsb).tx = h.tx := rfl
@[simp] theorem Hub.rcClear_reply (off mi lsb : Nat) : (h.rcClear off mi lsb).reply = h.reply := rfl
@[simp] theorem Hub.rcClear_items (off mi lsb : Nat) : (h.rcClear off mi lsb).items = h.items := rfl
@[simp] theorem Hub.rcClear_stamps (off mi lsb : Nat) : (h.rcClear off mi lsb).stamps = h.stamps := rfl
@[simp] theorem Hub.rcClear_inject (off mi lsb : Nat) : (h.rcClear off mi lsb).inject = h.inject := rfl
@[simp] theorem Hub.rcClear_free (off mi lsb : Nat) : (h.rcClear off mi lsb).free = h.free := rfl
@[simp] theorem Hub.rcClear_out (off mi lsb : Nat) : (h.rcClear off mi lsb).out = h.out := rfl

/-! ## `Hub.irqRaise` -/

@[simp] theorem Hub.irqRaise_clk (v : Nat) : (h.irqRaise v).clk = h.clk := rfl
@[simp] theorem Hub.irqRaise_rw (v : Nat) : (h.irqRaise v).rw = h.rw := rfl
@[simp] theorem Hub.irqRaise_rws (v : Nat) : (h.irqRaise v).rws = h.rws := rfl
@[simp] theorem Hub.irqRaise_rc (v : Nat) : (h.irqRaise v).rc = h.rc := rfl
@[simp] theorem Hub.irqRaise_latch (v : Nat) : (h.irqRaise v).latch = h.latch := rfl
@[simp] theorem Hub.irqRaise_stageLo (v : Nat) : (h.irqRaise v).stageLo = h.stageLo := rfl
@[simp] theorem Hub.irqRaise_resp (v : Nat) : (h.irqRaise v).resp = h.resp := rfl
@[simp] theorem Hub.irqRaise_turn (v : Nat) : (h.irqRaise v).turn = h.turn := rfl
@[simp] theorem Hub.irqRaise_chain (v : Nat) : (h.irqRaise v).chain = h.chain := rfl
@[simp] theorem Hub.irqRaise_er (v : Nat) : (h.irqRaise v).er = h.er := rfl
@[simp] theorem Hub.irqRaise_sec (v : Nat) : (h.irqRaise v).sec = h.sec := rfl
@[simp] theorem Hub.irqRaise_db (v : Nat) : (h.irqRaise v).db = h.db := rfl
@[simp] theorem Hub.irqRaise_mbx (v : Nat) : (h.irqRaise v).mbx = h.mbx := rfl
@[simp] theorem Hub.irqRaise_tlm (v : Nat) : (h.irqRaise v).tlm = h.tlm := rfl
@[simp] theorem Hub.irqRaise_boot (v : Nat) : (h.irqRaise v).boot = h.boot := rfl
@[simp] theorem Hub.irqRaise_ldr (v : Nat) : (h.irqRaise v).ldr = h.ldr := rfl
@[simp] theorem Hub.irqRaise_rst (v : Nat) : (h.irqRaise v).rst = h.rst := rfl
@[simp] theorem Hub.irqRaise_wdog (v : Nat) : (h.irqRaise v).wdog = h.wdog := rfl
@[simp] theorem Hub.irqRaise_cal (v : Nat) : (h.irqRaise v).cal = h.cal := rfl
@[simp] theorem Hub.irqRaise_ecc (v : Nat) : (h.irqRaise v).ecc = h.ecc := rfl
@[simp] theorem Hub.irqRaise_rail (v : Nat) : (h.irqRaise v).rail = h.rail := rfl
@[simp] theorem Hub.irqRaise_ctx (v : Nat) : (h.irqRaise v).ctx = h.ctx := rfl
@[simp] theorem Hub.irqRaise_fence (v : Nat) : (h.irqRaise v).fence = h.fence := rfl
@[simp] theorem Hub.irqRaise_slc (v : Nat) : (h.irqRaise v).slc = h.slc := rfl
@[simp] theorem Hub.irqRaise_cut (v : Nat) : (h.irqRaise v).cut = h.cut := rfl
@[simp] theorem Hub.irqRaise_trc (v : Nat) : (h.irqRaise v).trc = h.trc := rfl
@[simp] theorem Hub.irqRaise_cnt (v : Nat) : (h.irqRaise v).cnt = h.cnt := rfl
@[simp] theorem Hub.irqRaise_hang (v : Nat) : (h.irqRaise v).hang = h.hang := rfl
@[simp] theorem Hub.irqRaise_dmp (v : Nat) : (h.irqRaise v).dmp = h.dmp := rfl
@[simp] theorem Hub.irqRaise_ce (v : Nat) : (h.irqRaise v).ce = h.ce := rfl
@[simp] theorem Hub.irqRaise_span (v : Nat) : (h.irqRaise v).span = h.span := rfl
@[simp] theorem Hub.irqRaise_stn (v : Nat) : (h.irqRaise v).stn = h.stn := rfl
@[simp] theorem Hub.irqRaise_gated (v : Nat) : (h.irqRaise v).gated = h.gated := rfl
@[simp] theorem Hub.irqRaise_fwDue (v : Nat) : (h.irqRaise v).fwDue = h.fwDue := rfl
@[simp] theorem Hub.irqRaise_tx (v : Nat) : (h.irqRaise v).tx = h.tx := rfl
@[simp] theorem Hub.irqRaise_reply (v : Nat) : (h.irqRaise v).reply = h.reply := rfl
@[simp] theorem Hub.irqRaise_items (v : Nat) : (h.irqRaise v).items = h.items := rfl
@[simp] theorem Hub.irqRaise_stamps (v : Nat) : (h.irqRaise v).stamps = h.stamps := rfl
@[simp] theorem Hub.irqRaise_inject (v : Nat) : (h.irqRaise v).inject = h.inject := rfl
@[simp] theorem Hub.irqRaise_free (v : Nat) : (h.irqRaise v).free = h.free := rfl
@[simp] theorem Hub.irqRaise_out (v : Nat) : (h.irqRaise v).out = h.out := rfl

/-! ## `Hub.attnSet` -/

@[simp] theorem Hub.attnSet_clk (n : Nat) : (h.attnSet n).clk = h.clk := rfl
@[simp] theorem Hub.attnSet_rw (n : Nat) : (h.attnSet n).rw = h.rw := rfl
@[simp] theorem Hub.attnSet_rws (n : Nat) : (h.attnSet n).rws = h.rws := rfl
@[simp] theorem Hub.attnSet_rc (n : Nat) : (h.attnSet n).rc = h.rc := rfl
@[simp] theorem Hub.attnSet_latch (n : Nat) : (h.attnSet n).latch = h.latch := rfl
@[simp] theorem Hub.attnSet_stageLo (n : Nat) : (h.attnSet n).stageLo = h.stageLo := rfl
@[simp] theorem Hub.attnSet_resp (n : Nat) : (h.attnSet n).resp = h.resp := rfl
@[simp] theorem Hub.attnSet_turn (n : Nat) : (h.attnSet n).turn = h.turn := rfl
@[simp] theorem Hub.attnSet_chain (n : Nat) : (h.attnSet n).chain = h.chain := rfl
@[simp] theorem Hub.attnSet_er (n : Nat) : (h.attnSet n).er = h.er := rfl
@[simp] theorem Hub.attnSet_sec (n : Nat) : (h.attnSet n).sec = h.sec := rfl
@[simp] theorem Hub.attnSet_irq (n : Nat) : (h.attnSet n).irq = h.irq := rfl
@[simp] theorem Hub.attnSet_db (n : Nat) : (h.attnSet n).db = h.db := rfl
@[simp] theorem Hub.attnSet_mbx (n : Nat) : (h.attnSet n).mbx = h.mbx := rfl
@[simp] theorem Hub.attnSet_tlm (n : Nat) : (h.attnSet n).tlm = h.tlm := rfl
@[simp] theorem Hub.attnSet_boot (n : Nat) : (h.attnSet n).boot = h.boot := rfl
@[simp] theorem Hub.attnSet_ldr (n : Nat) : (h.attnSet n).ldr = h.ldr := rfl
@[simp] theorem Hub.attnSet_rst (n : Nat) : (h.attnSet n).rst = h.rst := rfl
@[simp] theorem Hub.attnSet_wdog (n : Nat) : (h.attnSet n).wdog = h.wdog := rfl
@[simp] theorem Hub.attnSet_cal (n : Nat) : (h.attnSet n).cal = h.cal := rfl
@[simp] theorem Hub.attnSet_ecc (n : Nat) : (h.attnSet n).ecc = h.ecc := rfl
@[simp] theorem Hub.attnSet_rail (n : Nat) : (h.attnSet n).rail = h.rail := rfl
@[simp] theorem Hub.attnSet_ctx (n : Nat) : (h.attnSet n).ctx = h.ctx := rfl
@[simp] theorem Hub.attnSet_fence (n : Nat) : (h.attnSet n).fence = h.fence := rfl
@[simp] theorem Hub.attnSet_slc (n : Nat) : (h.attnSet n).slc = h.slc := rfl
@[simp] theorem Hub.attnSet_cut (n : Nat) : (h.attnSet n).cut = h.cut := rfl
@[simp] theorem Hub.attnSet_trc (n : Nat) : (h.attnSet n).trc = h.trc := rfl
@[simp] theorem Hub.attnSet_cnt (n : Nat) : (h.attnSet n).cnt = h.cnt := rfl
@[simp] theorem Hub.attnSet_hang (n : Nat) : (h.attnSet n).hang = h.hang := rfl
@[simp] theorem Hub.attnSet_dmp (n : Nat) : (h.attnSet n).dmp = h.dmp := rfl
@[simp] theorem Hub.attnSet_ce (n : Nat) : (h.attnSet n).ce = h.ce := rfl
@[simp] theorem Hub.attnSet_stn (n : Nat) : (h.attnSet n).stn = h.stn := rfl
@[simp] theorem Hub.attnSet_gated (n : Nat) : (h.attnSet n).gated = h.gated := rfl
@[simp] theorem Hub.attnSet_fwDue (n : Nat) : (h.attnSet n).fwDue = h.fwDue := rfl
@[simp] theorem Hub.attnSet_tx (n : Nat) : (h.attnSet n).tx = h.tx := rfl
@[simp] theorem Hub.attnSet_reply (n : Nat) : (h.attnSet n).reply = h.reply := rfl
@[simp] theorem Hub.attnSet_items (n : Nat) : (h.attnSet n).items = h.items := rfl
@[simp] theorem Hub.attnSet_stamps (n : Nat) : (h.attnSet n).stamps = h.stamps := rfl
@[simp] theorem Hub.attnSet_inject (n : Nat) : (h.attnSet n).inject = h.inject := rfl
@[simp] theorem Hub.attnSet_free (n : Nat) : (h.attnSet n).free = h.free := rfl
@[simp] theorem Hub.attnSet_out (n : Nat) : (h.attnSet n).out = h.out := rfl

/-! ## `Hub.drawFree` -/

@[simp] theorem Hub.drawFree_clk : h.drawFree.2.clk = h.clk := rfl
@[simp] theorem Hub.drawFree_rw : h.drawFree.2.rw = h.rw := rfl
@[simp] theorem Hub.drawFree_rws : h.drawFree.2.rws = h.rws := rfl
@[simp] theorem Hub.drawFree_rc : h.drawFree.2.rc = h.rc := rfl
@[simp] theorem Hub.drawFree_latch : h.drawFree.2.latch = h.latch := rfl
@[simp] theorem Hub.drawFree_stageLo : h.drawFree.2.stageLo = h.stageLo := rfl
@[simp] theorem Hub.drawFree_resp : h.drawFree.2.resp = h.resp := rfl
@[simp] theorem Hub.drawFree_cyc : h.drawFree.2.cyc = h.cyc := rfl
@[simp] theorem Hub.drawFree_turn : h.drawFree.2.turn = h.turn := rfl
@[simp] theorem Hub.drawFree_chain : h.drawFree.2.chain = h.chain := rfl
@[simp] theorem Hub.drawFree_er : h.drawFree.2.er = h.er := rfl
@[simp] theorem Hub.drawFree_sec : h.drawFree.2.sec = h.sec := rfl
@[simp] theorem Hub.drawFree_irq : h.drawFree.2.irq = h.irq := rfl
@[simp] theorem Hub.drawFree_db : h.drawFree.2.db = h.db := rfl
@[simp] theorem Hub.drawFree_mbx : h.drawFree.2.mbx = h.mbx := rfl
@[simp] theorem Hub.drawFree_tlm : h.drawFree.2.tlm = h.tlm := rfl
@[simp] theorem Hub.drawFree_boot : h.drawFree.2.boot = h.boot := rfl
@[simp] theorem Hub.drawFree_ldr : h.drawFree.2.ldr = h.ldr := rfl
@[simp] theorem Hub.drawFree_rst : h.drawFree.2.rst = h.rst := rfl
@[simp] theorem Hub.drawFree_wdog : h.drawFree.2.wdog = h.wdog := rfl
@[simp] theorem Hub.drawFree_cal : h.drawFree.2.cal = h.cal := rfl
@[simp] theorem Hub.drawFree_ecc : h.drawFree.2.ecc = h.ecc := rfl
@[simp] theorem Hub.drawFree_rail : h.drawFree.2.rail = h.rail := rfl
@[simp] theorem Hub.drawFree_ctx : h.drawFree.2.ctx = h.ctx := rfl
@[simp] theorem Hub.drawFree_fence : h.drawFree.2.fence = h.fence := rfl
@[simp] theorem Hub.drawFree_slc : h.drawFree.2.slc = h.slc := rfl
@[simp] theorem Hub.drawFree_cut : h.drawFree.2.cut = h.cut := rfl
@[simp] theorem Hub.drawFree_trc : h.drawFree.2.trc = h.trc := rfl
@[simp] theorem Hub.drawFree_cnt : h.drawFree.2.cnt = h.cnt := rfl
@[simp] theorem Hub.drawFree_hang : h.drawFree.2.hang = h.hang := rfl
@[simp] theorem Hub.drawFree_dmp : h.drawFree.2.dmp = h.dmp := rfl
@[simp] theorem Hub.drawFree_ce : h.drawFree.2.ce = h.ce := rfl
@[simp] theorem Hub.drawFree_span : h.drawFree.2.span = h.span := rfl
@[simp] theorem Hub.drawFree_stn : h.drawFree.2.stn = h.stn := rfl
@[simp] theorem Hub.drawFree_gated : h.drawFree.2.gated = h.gated := rfl
@[simp] theorem Hub.drawFree_fwDue : h.drawFree.2.fwDue = h.fwDue := rfl
@[simp] theorem Hub.drawFree_tx : h.drawFree.2.tx = h.tx := rfl
@[simp] theorem Hub.drawFree_reply : h.drawFree.2.reply = h.reply := rfl
@[simp] theorem Hub.drawFree_items : h.drawFree.2.items = h.items := rfl
@[simp] theorem Hub.drawFree_stamps : h.drawFree.2.stamps = h.stamps := rfl
@[simp] theorem Hub.drawFree_inject : h.drawFree.2.inject = h.inject := rfl
@[simp] theorem Hub.drawFree_out : h.drawFree.2.out = h.out := rfl

/-! ## `Hub.draw` -/

@[simp] theorem Hub.draw_clk (n : Nat) : (h.draw n).2.clk = h.clk := rfl
@[simp] theorem Hub.draw_rw (n : Nat) : (h.draw n).2.rw = h.rw := rfl
@[simp] theorem Hub.draw_rws (n : Nat) : (h.draw n).2.rws = h.rws := rfl
@[simp] theorem Hub.draw_rc (n : Nat) : (h.draw n).2.rc = h.rc := rfl
@[simp] theorem Hub.draw_latch (n : Nat) : (h.draw n).2.latch = h.latch := rfl
@[simp] theorem Hub.draw_stageLo (n : Nat) : (h.draw n).2.stageLo = h.stageLo := rfl
@[simp] theorem Hub.draw_resp (n : Nat) : (h.draw n).2.resp = h.resp := rfl
@[simp] theorem Hub.draw_cyc (n : Nat) : (h.draw n).2.cyc = h.cyc := rfl
@[simp] theorem Hub.draw_turn (n : Nat) : (h.draw n).2.turn = h.turn := rfl
@[simp] theorem Hub.draw_chain (n : Nat) : (h.draw n).2.chain = h.chain := rfl
@[simp] theorem Hub.draw_er (n : Nat) : (h.draw n).2.er = h.er := rfl
@[simp] theorem Hub.draw_irq (n : Nat) : (h.draw n).2.irq = h.irq := rfl
@[simp] theorem Hub.draw_db (n : Nat) : (h.draw n).2.db = h.db := rfl
@[simp] theorem Hub.draw_mbx (n : Nat) : (h.draw n).2.mbx = h.mbx := rfl
@[simp] theorem Hub.draw_tlm (n : Nat) : (h.draw n).2.tlm = h.tlm := rfl
@[simp] theorem Hub.draw_boot (n : Nat) : (h.draw n).2.boot = h.boot := rfl
@[simp] theorem Hub.draw_ldr (n : Nat) : (h.draw n).2.ldr = h.ldr := rfl
@[simp] theorem Hub.draw_rst (n : Nat) : (h.draw n).2.rst = h.rst := rfl
@[simp] theorem Hub.draw_wdog (n : Nat) : (h.draw n).2.wdog = h.wdog := rfl
@[simp] theorem Hub.draw_cal (n : Nat) : (h.draw n).2.cal = h.cal := rfl
@[simp] theorem Hub.draw_ecc (n : Nat) : (h.draw n).2.ecc = h.ecc := rfl
@[simp] theorem Hub.draw_rail (n : Nat) : (h.draw n).2.rail = h.rail := rfl
@[simp] theorem Hub.draw_ctx (n : Nat) : (h.draw n).2.ctx = h.ctx := rfl
@[simp] theorem Hub.draw_fence (n : Nat) : (h.draw n).2.fence = h.fence := rfl
@[simp] theorem Hub.draw_slc (n : Nat) : (h.draw n).2.slc = h.slc := rfl
@[simp] theorem Hub.draw_cut (n : Nat) : (h.draw n).2.cut = h.cut := rfl
@[simp] theorem Hub.draw_trc (n : Nat) : (h.draw n).2.trc = h.trc := rfl
@[simp] theorem Hub.draw_cnt (n : Nat) : (h.draw n).2.cnt = h.cnt := rfl
@[simp] theorem Hub.draw_hang (n : Nat) : (h.draw n).2.hang = h.hang := rfl
@[simp] theorem Hub.draw_dmp (n : Nat) : (h.draw n).2.dmp = h.dmp := rfl
@[simp] theorem Hub.draw_ce (n : Nat) : (h.draw n).2.ce = h.ce := rfl
@[simp] theorem Hub.draw_span (n : Nat) : (h.draw n).2.span = h.span := rfl
@[simp] theorem Hub.draw_stn (n : Nat) : (h.draw n).2.stn = h.stn := rfl
@[simp] theorem Hub.draw_gated (n : Nat) : (h.draw n).2.gated = h.gated := rfl
@[simp] theorem Hub.draw_fwDue (n : Nat) : (h.draw n).2.fwDue = h.fwDue := rfl
@[simp] theorem Hub.draw_tx (n : Nat) : (h.draw n).2.tx = h.tx := rfl
@[simp] theorem Hub.draw_reply (n : Nat) : (h.draw n).2.reply = h.reply := rfl
@[simp] theorem Hub.draw_items (n : Nat) : (h.draw n).2.items = h.items := rfl
@[simp] theorem Hub.draw_stamps (n : Nat) : (h.draw n).2.stamps = h.stamps := rfl
@[simp] theorem Hub.draw_inject (n : Nat) : (h.draw n).2.inject = h.inject := rfl
@[simp] theorem Hub.draw_free (n : Nat) : (h.draw n).2.free = h.free := rfl
@[simp] theorem Hub.draw_out (n : Nat) : (h.draw n).2.out = h.out := rfl

/-! ## Updates of one part: what each leaves alone, as one lemma of many rewrite rules -/

@[simp] theorem Hub.updFence_frame (i : Nat) (f : Fence → Fence) :
    (h.updFence i f).clk = h.clk ∧ (h.updFence i f).rw = h.rw ∧ (h.updFence i f).rws = h.rws ∧ (h.updFence i f).rc = h.rc ∧
    (h.updFence i f).latch = h.latch ∧ (h.updFence i f).stageLo = h.stageLo ∧ (h.updFence i f).resp = h.resp ∧ (h.updFence i f).cyc = h.cyc ∧
    (h.updFence i f).turn = h.turn ∧ (h.updFence i f).chain = h.chain ∧ (h.updFence i f).er = h.er ∧ (h.updFence i f).sec = h.sec ∧
    (h.updFence i f).irq = h.irq ∧ (h.updFence i f).db = h.db ∧ (h.updFence i f).mbx = h.mbx ∧ (h.updFence i f).tlm = h.tlm ∧
    (h.updFence i f).boot = h.boot ∧ (h.updFence i f).ldr = h.ldr ∧ (h.updFence i f).rst = h.rst ∧ (h.updFence i f).wdog = h.wdog ∧
    (h.updFence i f).cal = h.cal ∧ (h.updFence i f).ecc = h.ecc ∧ (h.updFence i f).rail = h.rail ∧ (h.updFence i f).ctx = h.ctx ∧
    (h.updFence i f).slc = h.slc ∧ (h.updFence i f).cut = h.cut ∧ (h.updFence i f).trc = h.trc ∧ (h.updFence i f).cnt = h.cnt ∧
    (h.updFence i f).hang = h.hang ∧ (h.updFence i f).dmp = h.dmp ∧ (h.updFence i f).ce = h.ce ∧ (h.updFence i f).span = h.span ∧
    (h.updFence i f).stn = h.stn ∧ (h.updFence i f).gated = h.gated ∧ (h.updFence i f).fwDue = h.fwDue ∧ (h.updFence i f).tx = h.tx ∧
    (h.updFence i f).reply = h.reply ∧ (h.updFence i f).items = h.items ∧ (h.updFence i f).stamps = h.stamps ∧ (h.updFence i f).inject = h.inject ∧
    (h.updFence i f).free = h.free ∧ (h.updFence i f).out = h.out :=
  ⟨rfl, rfl, rfl, rfl, rfl, rfl, rfl, rfl, rfl, rfl, rfl, rfl, rfl, rfl, rfl, rfl, rfl, rfl, rfl, rfl, rfl, rfl, rfl, rfl, rfl, rfl, rfl, rfl, rfl,
    rfl, rfl, rfl, rfl, rfl, rfl, rfl, rfl, rfl, rfl, rfl, rfl, rfl⟩

@[simp] theorem Hub.updWait_frame (u : Nat) (f : List Stall → List Stall) :
    (h.updWait u f).clk = h.clk ∧ (h.updWait u f).rw = h.rw ∧ (h.updWait u f).rws = h.rws ∧ (h.updWait u f).rc = h.rc ∧
    (h.updWait u f).latch = h.latch ∧ (h.updWait u f).stageLo = h.stageLo ∧ (h.updWait u f).resp = h.resp ∧ (h.updWait u f).cyc = h.cyc ∧
    (h.updWait u f).turn = h.turn ∧ (h.updWait u f).chain = h.chain ∧ (h.updWait u f).er = h.er ∧ (h.updWait u f).sec = h.sec ∧
    (h.updWait u f).irq = h.irq ∧ (h.updWait u f).db = h.db ∧ (h.updWait u f).mbx = h.mbx ∧ (h.updWait u f).tlm = h.tlm ∧
    (h.updWait u f).boot = h.boot ∧ (h.updWait u f).ldr = h.ldr ∧ (h.updWait u f).rst = h.rst ∧ (h.updWait u f).wdog = h.wdog ∧
    (h.updWait u f).cal = h.cal ∧ (h.updWait u f).ecc = h.ecc ∧ (h.updWait u f).rail = h.rail ∧ (h.updWait u f).ctx = h.ctx ∧
    (h.updWait u f).fence = h.fence ∧ (h.updWait u f).slc = h.slc ∧ (h.updWait u f).cut = h.cut ∧ (h.updWait u f).trc = h.trc ∧
    (h.updWait u f).cnt = h.cnt ∧ (h.updWait u f).hang = h.hang ∧ (h.updWait u f).dmp = h.dmp ∧ (h.updWait u f).ce = h.ce ∧
    (h.updWait u f).span = h.span ∧ (h.updWait u f).gated = h.gated ∧ (h.updWait u f).fwDue = h.fwDue ∧ (h.updWait u f).tx = h.tx ∧
    (h.updWait u f).reply = h.reply ∧ (h.updWait u f).items = h.items ∧ (h.updWait u f).stamps = h.stamps ∧ (h.updWait u f).inject = h.inject ∧
    (h.updWait u f).free = h.free ∧ (h.updWait u f).out = h.out :=
  ⟨rfl, rfl, rfl, rfl, rfl, rfl, rfl, rfl, rfl, rfl, rfl, rfl, rfl, rfl, rfl, rfl, rfl, rfl, rfl, rfl, rfl, rfl, rfl, rfl, rfl, rfl, rfl, rfl, rfl,
    rfl, rfl, rfl, rfl, rfl, rfl, rfl, rfl, rfl, rfl, rfl, rfl, rfl⟩

@[simp] theorem Hub.updGrain_frame (u : Nat) (f : Grain → Grain) :
    (h.updGrain u f).clk = h.clk ∧ (h.updGrain u f).rw = h.rw ∧ (h.updGrain u f).rws = h.rws ∧ (h.updGrain u f).rc = h.rc ∧
    (h.updGrain u f).latch = h.latch ∧ (h.updGrain u f).stageLo = h.stageLo ∧ (h.updGrain u f).resp = h.resp ∧ (h.updGrain u f).cyc = h.cyc ∧
    (h.updGrain u f).turn = h.turn ∧ (h.updGrain u f).chain = h.chain ∧ (h.updGrain u f).er = h.er ∧ (h.updGrain u f).sec = h.sec ∧
    (h.updGrain u f).irq = h.irq ∧ (h.updGrain u f).db = h.db ∧ (h.updGrain u f).mbx = h.mbx ∧ (h.updGrain u f).tlm = h.tlm ∧
    (h.updGrain u f).boot = h.boot ∧ (h.updGrain u f).ldr = h.ldr ∧ (h.updGrain u f).rst = h.rst ∧ (h.updGrain u f).wdog = h.wdog ∧
    (h.updGrain u f).cal = h.cal ∧ (h.updGrain u f).ecc = h.ecc ∧ (h.updGrain u f).rail = h.rail ∧ (h.updGrain u f).ctx = h.ctx ∧
    (h.updGrain u f).fence = h.fence ∧ (h.updGrain u f).slc = h.slc ∧ (h.updGrain u f).cut = h.cut ∧ (h.updGrain u f).trc = h.trc ∧
    (h.updGrain u f).cnt = h.cnt ∧ (h.updGrain u f).hang = h.hang ∧ (h.updGrain u f).dmp = h.dmp ∧ (h.updGrain u f).ce = h.ce ∧
    (h.updGrain u f).span = h.span ∧ (h.updGrain u f).gated = h.gated ∧ (h.updGrain u f).fwDue = h.fwDue ∧ (h.updGrain u f).tx = h.tx ∧
    (h.updGrain u f).reply = h.reply ∧ (h.updGrain u f).items = h.items ∧ (h.updGrain u f).stamps = h.stamps ∧ (h.updGrain u f).inject = h.inject ∧
    (h.updGrain u f).free = h.free ∧ (h.updGrain u f).out = h.out :=
  ⟨rfl, rfl, rfl, rfl, rfl, rfl, rfl, rfl, rfl, rfl, rfl, rfl, rfl, rfl, rfl, rfl, rfl, rfl, rfl, rfl, rfl, rfl, rfl, rfl, rfl, rfl, rfl, rfl, rfl,
    rfl, rfl, rfl, rfl, rfl, rfl, rfl, rfl, rfl, rfl, rfl, rfl, rfl⟩

@[simp] theorem Hub.updGate_frame (u : Nat) (f : Gate → Gate) :
    (h.updGate u f).clk = h.clk ∧ (h.updGate u f).rw = h.rw ∧ (h.updGate u f).rws = h.rws ∧ (h.updGate u f).rc = h.rc ∧
    (h.updGate u f).latch = h.latch ∧ (h.updGate u f).stageLo = h.stageLo ∧ (h.updGate u f).resp = h.resp ∧ (h.updGate u f).cyc = h.cyc ∧
    (h.updGate u f).turn = h.turn ∧ (h.updGate u f).chain = h.chain ∧ (h.updGate u f).er = h.er ∧ (h.updGate u f).sec = h.sec ∧
    (h.updGate u f).irq = h.irq ∧ (h.updGate u f).db = h.db ∧ (h.updGate u f).mbx = h.mbx ∧ (h.updGate u f).tlm = h.tlm ∧
    (h.updGate u f).boot = h.boot ∧ (h.updGate u f).ldr = h.ldr ∧ (h.updGate u f).rst = h.rst ∧ (h.updGate u f).wdog = h.wdog ∧
    (h.updGate u f).cal = h.cal ∧ (h.updGate u f).ecc = h.ecc ∧ (h.updGate u f).rail = h.rail ∧ (h.updGate u f).ctx = h.ctx ∧
    (h.updGate u f).fence = h.fence ∧ (h.updGate u f).slc = h.slc ∧ (h.updGate u f).cut = h.cut ∧ (h.updGate u f).trc = h.trc ∧
    (h.updGate u f).cnt = h.cnt ∧ (h.updGate u f).hang = h.hang ∧ (h.updGate u f).dmp = h.dmp ∧ (h.updGate u f).ce = h.ce ∧
    (h.updGate u f).span = h.span ∧ (h.updGate u f).gated = h.gated ∧ (h.updGate u f).fwDue = h.fwDue ∧ (h.updGate u f).tx = h.tx ∧
    (h.updGate u f).reply = h.reply ∧ (h.updGate u f).items = h.items ∧ (h.updGate u f).stamps = h.stamps ∧ (h.updGate u f).inject = h.inject ∧
    (h.updGate u f).free = h.free ∧ (h.updGate u f).out = h.out :=
  ⟨rfl, rfl, rfl, rfl, rfl, rfl, rfl, rfl, rfl, rfl, rfl, rfl, rfl, rfl, rfl, rfl, rfl, rfl, rfl, rfl, rfl, rfl, rfl, rfl, rfl, rfl, rfl, rfl, rfl,
    rfl, rfl, rfl, rfl, rfl, rfl, rfl, rfl, rfl, rfl, rfl, rfl, rfl⟩

@[simp] theorem Hub.updSrc_frame (s k : Nat) (f : Src → Src) :
    (h.updSrc s k f).clk = h.clk ∧ (h.updSrc s k f).rw = h.rw ∧ (h.updSrc s k f).rws = h.rws ∧ (h.updSrc s k f).rc = h.rc ∧
    (h.updSrc s k f).latch = h.latch ∧ (h.updSrc s k f).stageLo = h.stageLo ∧ (h.updSrc s k f).resp = h.resp ∧ (h.updSrc s k f).cyc = h.cyc ∧
    (h.updSrc s k f).turn = h.turn ∧ (h.updSrc s k f).chain = h.chain ∧ (h.updSrc s k f).er = h.er ∧ (h.updSrc s k f).sec = h.sec ∧
    (h.updSrc s k f).irq = h.irq ∧ (h.updSrc s k f).db = h.db ∧ (h.updSrc s k f).mbx = h.mbx ∧ (h.updSrc s k f).tlm = h.tlm ∧
    (h.updSrc s k f).boot = h.boot ∧ (h.updSrc s k f).ldr = h.ldr ∧ (h.updSrc s k f).rst = h.rst ∧ (h.updSrc s k f).wdog = h.wdog ∧
    (h.updSrc s k f).cal = h.cal ∧ (h.updSrc s k f).ecc = h.ecc ∧ (h.updSrc s k f).rail = h.rail ∧ (h.updSrc s k f).ctx = h.ctx ∧
    (h.updSrc s k f).fence = h.fence ∧ (h.updSrc s k f).slc = h.slc ∧ (h.updSrc s k f).cut = h.cut ∧ (h.updSrc s k f).trc = h.trc ∧
    (h.updSrc s k f).cnt = h.cnt ∧ (h.updSrc s k f).hang = h.hang ∧ (h.updSrc s k f).dmp = h.dmp ∧ (h.updSrc s k f).ce = h.ce ∧
    (h.updSrc s k f).span = h.span ∧ (h.updSrc s k f).gated = h.gated ∧ (h.updSrc s k f).fwDue = h.fwDue ∧ (h.updSrc s k f).tx = h.tx ∧
    (h.updSrc s k f).reply = h.reply ∧ (h.updSrc s k f).items = h.items ∧ (h.updSrc s k f).stamps = h.stamps ∧ (h.updSrc s k f).inject = h.inject ∧
    (h.updSrc s k f).free = h.free ∧ (h.updSrc s k f).out = h.out :=
  ⟨rfl, rfl, rfl, rfl, rfl, rfl, rfl, rfl, rfl, rfl, rfl, rfl, rfl, rfl, rfl, rfl, rfl, rfl, rfl, rfl, rfl, rfl, rfl, rfl, rfl, rfl, rfl, rfl, rfl,
    rfl, rfl, rfl, rfl, rfl, rfl, rfl, rfl, rfl, rfl, rfl, rfl, rfl⟩

@[simp] theorem Hub.updPeck_frame (s : Nat) (f : Peck → Peck) :
    (h.updPeck s f).clk = h.clk ∧ (h.updPeck s f).rw = h.rw ∧ (h.updPeck s f).rws = h.rws ∧ (h.updPeck s f).rc = h.rc ∧
    (h.updPeck s f).latch = h.latch ∧ (h.updPeck s f).stageLo = h.stageLo ∧ (h.updPeck s f).resp = h.resp ∧ (h.updPeck s f).cyc = h.cyc ∧
    (h.updPeck s f).turn = h.turn ∧ (h.updPeck s f).chain = h.chain ∧ (h.updPeck s f).er = h.er ∧ (h.updPeck s f).sec = h.sec ∧
    (h.updPeck s f).irq = h.irq ∧ (h.updPeck s f).db = h.db ∧ (h.updPeck s f).mbx = h.mbx ∧ (h.updPeck s f).tlm = h.tlm ∧
    (h.updPeck s f).boot = h.boot ∧ (h.updPeck s f).ldr = h.ldr ∧ (h.updPeck s f).rst = h.rst ∧ (h.updPeck s f).wdog = h.wdog ∧
    (h.updPeck s f).cal = h.cal ∧ (h.updPeck s f).ecc = h.ecc ∧ (h.updPeck s f).rail = h.rail ∧ (h.updPeck s f).ctx = h.ctx ∧
    (h.updPeck s f).fence = h.fence ∧ (h.updPeck s f).slc = h.slc ∧ (h.updPeck s f).cut = h.cut ∧ (h.updPeck s f).trc = h.trc ∧
    (h.updPeck s f).cnt = h.cnt ∧ (h.updPeck s f).hang = h.hang ∧ (h.updPeck s f).dmp = h.dmp ∧ (h.updPeck s f).ce = h.ce ∧
    (h.updPeck s f).span = h.span ∧ (h.updPeck s f).gated = h.gated ∧ (h.updPeck s f).fwDue = h.fwDue ∧ (h.updPeck s f).tx = h.tx ∧
    (h.updPeck s f).reply = h.reply ∧ (h.updPeck s f).items = h.items ∧ (h.updPeck s f).stamps = h.stamps ∧ (h.updPeck s f).inject = h.inject ∧
    (h.updPeck s f).free = h.free ∧ (h.updPeck s f).out = h.out :=
  ⟨rfl, rfl, rfl, rfl, rfl, rfl, rfl, rfl, rfl, rfl, rfl, rfl, rfl, rfl, rfl, rfl, rfl, rfl, rfl, rfl, rfl, rfl, rfl, rfl, rfl, rfl, rfl, rfl, rfl,
    rfl, rfl, rfl, rfl, rfl, rfl, rfl, rfl, rfl, rfl, rfl, rfl, rfl⟩

@[simp] theorem Hub.updStat_frame (m : Master) (f : CommitStat → CommitStat) :
    (h.updStat m f).clk = h.clk ∧ (h.updStat m f).rw = h.rw ∧ (h.updStat m f).rws = h.rws ∧ (h.updStat m f).rc = h.rc ∧
    (h.updStat m f).latch = h.latch ∧ (h.updStat m f).stageLo = h.stageLo ∧ (h.updStat m f).resp = h.resp ∧ (h.updStat m f).cyc = h.cyc ∧
    (h.updStat m f).turn = h.turn ∧ (h.updStat m f).er = h.er ∧ (h.updStat m f).sec = h.sec ∧ (h.updStat m f).irq = h.irq ∧
    (h.updStat m f).db = h.db ∧ (h.updStat m f).mbx = h.mbx ∧ (h.updStat m f).tlm = h.tlm ∧ (h.updStat m f).boot = h.boot ∧
    (h.updStat m f).ldr = h.ldr ∧ (h.updStat m f).rst = h.rst ∧ (h.updStat m f).wdog = h.wdog ∧ (h.updStat m f).cal = h.cal ∧
    (h.updStat m f).ecc = h.ecc ∧ (h.updStat m f).rail = h.rail ∧ (h.updStat m f).ctx = h.ctx ∧ (h.updStat m f).fence = h.fence ∧
    (h.updStat m f).slc = h.slc ∧ (h.updStat m f).cut = h.cut ∧ (h.updStat m f).trc = h.trc ∧ (h.updStat m f).cnt = h.cnt ∧
    (h.updStat m f).hang = h.hang ∧ (h.updStat m f).dmp = h.dmp ∧ (h.updStat m f).ce = h.ce ∧ (h.updStat m f).span = h.span ∧
    (h.updStat m f).stn = h.stn ∧ (h.updStat m f).gated = h.gated ∧ (h.updStat m f).fwDue = h.fwDue ∧ (h.updStat m f).tx = h.tx ∧
    (h.updStat m f).reply = h.reply ∧ (h.updStat m f).items = h.items ∧ (h.updStat m f).stamps = h.stamps ∧ (h.updStat m f).inject = h.inject ∧
    (h.updStat m f).free = h.free ∧ (h.updStat m f).out = h.out :=
  ⟨rfl, rfl, rfl, rfl, rfl, rfl, rfl, rfl, rfl, rfl, rfl, rfl, rfl, rfl, rfl, rfl, rfl, rfl, rfl, rfl, rfl, rfl, rfl, rfl, rfl, rfl, rfl, rfl, rfl,
    rfl, rfl, rfl, rfl, rfl, rfl, rfl, rfl, rfl, rfl, rfl, rfl, rfl⟩

@[simp] theorem Hub.updWin_frame (m : Master) (f : Window → Window) :
    (h.updWin m f).clk = h.clk ∧ (h.updWin m f).rw = h.rw ∧ (h.updWin m f).rws = h.rws ∧ (h.updWin m f).rc = h.rc ∧ (h.updWin m f).latch = h.latch ∧
    (h.updWin m f).stageLo = h.stageLo ∧ (h.updWin m f).resp = h.resp ∧ (h.updWin m f).cyc = h.cyc ∧ (h.updWin m f).turn = h.turn ∧
    (h.updWin m f).er = h.er ∧ (h.updWin m f).sec = h.sec ∧ (h.updWin m f).irq = h.irq ∧ (h.updWin m f).db = h.db ∧ (h.updWin m f).mbx = h.mbx ∧
    (h.updWin m f).tlm = h.tlm ∧ (h.updWin m f).boot = h.boot ∧ (h.updWin m f).ldr = h.ldr ∧ (h.updWin m f).rst = h.rst ∧
    (h.updWin m f).wdog = h.wdog ∧ (h.updWin m f).cal = h.cal ∧ (h.updWin m f).ecc = h.ecc ∧ (h.updWin m f).rail = h.rail ∧
    (h.updWin m f).ctx = h.ctx ∧ (h.updWin m f).fence = h.fence ∧ (h.updWin m f).slc = h.slc ∧ (h.updWin m f).cut = h.cut ∧
    (h.updWin m f).trc = h.trc ∧ (h.updWin m f).cnt = h.cnt ∧ (h.updWin m f).hang = h.hang ∧ (h.updWin m f).dmp = h.dmp ∧ (h.updWin m f).ce = h.ce ∧
    (h.updWin m f).span = h.span ∧ (h.updWin m f).stn = h.stn ∧ (h.updWin m f).gated = h.gated ∧ (h.updWin m f).fwDue = h.fwDue ∧
    (h.updWin m f).tx = h.tx ∧ (h.updWin m f).reply = h.reply ∧ (h.updWin m f).items = h.items ∧ (h.updWin m f).stamps = h.stamps ∧
    (h.updWin m f).inject = h.inject ∧ (h.updWin m f).free = h.free ∧ (h.updWin m f).out = h.out :=
  ⟨rfl, rfl, rfl, rfl, rfl, rfl, rfl, rfl, rfl, rfl, rfl, rfl, rfl, rfl, rfl, rfl, rfl, rfl, rfl, rfl, rfl, rfl, rfl, rfl, rfl, rfl, rfl, rfl, rfl,
    rfl, rfl, rfl, rfl, rfl, rfl, rfl, rfl, rfl, rfl, rfl, rfl, rfl⟩

@[simp] theorem Hub.updCut_frame (i : Nat) (f : CutRec → CutRec) :
    (h.updCut i f).clk = h.clk ∧ (h.updCut i f).rw = h.rw ∧ (h.updCut i f).rws = h.rws ∧ (h.updCut i f).rc = h.rc ∧ (h.updCut i f).latch = h.latch ∧
    (h.updCut i f).stageLo = h.stageLo ∧ (h.updCut i f).resp = h.resp ∧ (h.updCut i f).cyc = h.cyc ∧ (h.updCut i f).turn = h.turn ∧
    (h.updCut i f).chain = h.chain ∧ (h.updCut i f).er = h.er ∧ (h.updCut i f).sec = h.sec ∧ (h.updCut i f).irq = h.irq ∧ (h.updCut i f).db = h.db ∧
    (h.updCut i f).mbx = h.mbx ∧ (h.updCut i f).tlm = h.tlm ∧ (h.updCut i f).boot = h.boot ∧ (h.updCut i f).ldr = h.ldr ∧
    (h.updCut i f).rst = h.rst ∧ (h.updCut i f).wdog = h.wdog ∧ (h.updCut i f).cal = h.cal ∧ (h.updCut i f).ecc = h.ecc ∧
    (h.updCut i f).rail = h.rail ∧ (h.updCut i f).ctx = h.ctx ∧ (h.updCut i f).fence = h.fence ∧ (h.updCut i f).slc = h.slc ∧
    (h.updCut i f).trc = h.trc ∧ (h.updCut i f).cnt = h.cnt ∧ (h.updCut i f).hang = h.hang ∧ (h.updCut i f).dmp = h.dmp ∧ (h.updCut i f).ce = h.ce ∧
    (h.updCut i f).span = h.span ∧ (h.updCut i f).stn = h.stn ∧ (h.updCut i f).gated = h.gated ∧ (h.updCut i f).fwDue = h.fwDue ∧
    (h.updCut i f).tx = h.tx ∧ (h.updCut i f).reply = h.reply ∧ (h.updCut i f).items = h.items ∧ (h.updCut i f).stamps = h.stamps ∧
    (h.updCut i f).inject = h.inject ∧ (h.updCut i f).free = h.free ∧ (h.updCut i f).out = h.out :=
  ⟨rfl, rfl, rfl, rfl, rfl, rfl, rfl, rfl, rfl, rfl, rfl, rfl, rfl, rfl, rfl, rfl, rfl, rfl, rfl, rfl, rfl, rfl, rfl, rfl, rfl, rfl, rfl, rfl, rfl,
    rfl, rfl, rfl, rfl, rfl, rfl, rfl, rfl, rfl, rfl, rfl, rfl, rfl⟩

@[simp] theorem Hub.updCutM_frame (m : Master) (f : CutM → CutM) :
    (h.updCutM m f).clk = h.clk ∧ (h.updCutM m f).rw = h.rw ∧ (h.updCutM m f).rws = h.rws ∧ (h.updCutM m f).rc = h.rc ∧
    (h.updCutM m f).latch = h.latch ∧ (h.updCutM m f).stageLo = h.stageLo ∧ (h.updCutM m f).resp = h.resp ∧ (h.updCutM m f).cyc = h.cyc ∧
    (h.updCutM m f).turn = h.turn ∧ (h.updCutM m f).chain = h.chain ∧ (h.updCutM m f).er = h.er ∧ (h.updCutM m f).sec = h.sec ∧
    (h.updCutM m f).irq = h.irq ∧ (h.updCutM m f).db = h.db ∧ (h.updCutM m f).mbx = h.mbx ∧ (h.updCutM m f).tlm = h.tlm ∧
    (h.updCutM m f).boot = h.boot ∧ (h.updCutM m f).ldr = h.ldr ∧ (h.updCutM m f).rst = h.rst ∧ (h.updCutM m f).wdog = h.wdog ∧
    (h.updCutM m f).cal = h.cal ∧ (h.updCutM m f).ecc = h.ecc ∧ (h.updCutM m f).rail = h.rail ∧ (h.updCutM m f).ctx = h.ctx ∧
    (h.updCutM m f).fence = h.fence ∧ (h.updCutM m f).slc = h.slc ∧ (h.updCutM m f).trc = h.trc ∧ (h.updCutM m f).cnt = h.cnt ∧
    (h.updCutM m f).hang = h.hang ∧ (h.updCutM m f).dmp = h.dmp ∧ (h.updCutM m f).ce = h.ce ∧ (h.updCutM m f).span = h.span ∧
    (h.updCutM m f).stn = h.stn ∧ (h.updCutM m f).gated = h.gated ∧ (h.updCutM m f).fwDue = h.fwDue ∧ (h.updCutM m f).tx = h.tx ∧
    (h.updCutM m f).reply = h.reply ∧ (h.updCutM m f).items = h.items ∧ (h.updCutM m f).stamps = h.stamps ∧ (h.updCutM m f).inject = h.inject ∧
    (h.updCutM m f).free = h.free ∧ (h.updCutM m f).out = h.out :=
  ⟨rfl, rfl, rfl, rfl, rfl, rfl, rfl, rfl, rfl, rfl, rfl, rfl, rfl, rfl, rfl, rfl, rfl, rfl, rfl, rfl, rfl, rfl, rfl, rfl, rfl, rfl, rfl, rfl, rfl,
    rfl, rfl, rfl, rfl, rfl, rfl, rfl, rfl, rfl, rfl, rfl, rfl, rfl⟩

@[simp] theorem Hub.updWatch_frame (w : Nat) (f : Watch → Watch) :
    (h.updWatch w f).clk = h.clk ∧ (h.updWatch w f).rw = h.rw ∧ (h.updWatch w f).rws = h.rws ∧ (h.updWatch w f).rc = h.rc ∧
    (h.updWatch w f).latch = h.latch ∧ (h.updWatch w f).stageLo = h.stageLo ∧ (h.updWatch w f).resp = h.resp ∧ (h.updWatch w f).cyc = h.cyc ∧
    (h.updWatch w f).turn = h.turn ∧ (h.updWatch w f).chain = h.chain ∧ (h.updWatch w f).er = h.er ∧ (h.updWatch w f).sec = h.sec ∧
    (h.updWatch w f).irq = h.irq ∧ (h.updWatch w f).db = h.db ∧ (h.updWatch w f).mbx = h.mbx ∧ (h.updWatch w f).tlm = h.tlm ∧
    (h.updWatch w f).boot = h.boot ∧ (h.updWatch w f).ldr = h.ldr ∧ (h.updWatch w f).rst = h.rst ∧ (h.updWatch w f).wdog = h.wdog ∧
    (h.updWatch w f).cal = h.cal ∧ (h.updWatch w f).ecc = h.ecc ∧ (h.updWatch w f).rail = h.rail ∧ (h.updWatch w f).ctx = h.ctx ∧
    (h.updWatch w f).fence = h.fence ∧ (h.updWatch w f).slc = h.slc ∧ (h.updWatch w f).cut = h.cut ∧ (h.updWatch w f).trc = h.trc ∧
    (h.updWatch w f).cnt = h.cnt ∧ (h.updWatch w f).hang = h.hang ∧ (h.updWatch w f).ce = h.ce ∧ (h.updWatch w f).span = h.span ∧
    (h.updWatch w f).stn = h.stn ∧ (h.updWatch w f).gated = h.gated ∧ (h.updWatch w f).fwDue = h.fwDue ∧ (h.updWatch w f).tx = h.tx ∧
    (h.updWatch w f).reply = h.reply ∧ (h.updWatch w f).items = h.items ∧ (h.updWatch w f).stamps = h.stamps ∧ (h.updWatch w f).inject = h.inject ∧
    (h.updWatch w f).free = h.free ∧ (h.updWatch w f).out = h.out :=
  ⟨rfl, rfl, rfl, rfl, rfl, rfl, rfl, rfl, rfl, rfl, rfl, rfl, rfl, rfl, rfl, rfl, rfl, rfl, rfl, rfl, rfl, rfl, rfl, rfl, rfl, rfl, rfl, rfl, rfl,
    rfl, rfl, rfl, rfl, rfl, rfl, rfl, rfl, rfl, rfl, rfl, rfl, rfl⟩

@[simp] theorem Hub.updDump_frame (f : Dump → Dump) :
    (h.updDump f).clk = h.clk ∧ (h.updDump f).rw = h.rw ∧ (h.updDump f).rws = h.rws ∧ (h.updDump f).rc = h.rc ∧ (h.updDump f).latch = h.latch ∧
    (h.updDump f).stageLo = h.stageLo ∧ (h.updDump f).resp = h.resp ∧ (h.updDump f).cyc = h.cyc ∧ (h.updDump f).turn = h.turn ∧
    (h.updDump f).chain = h.chain ∧ (h.updDump f).er = h.er ∧ (h.updDump f).sec = h.sec ∧ (h.updDump f).irq = h.irq ∧ (h.updDump f).db = h.db ∧
    (h.updDump f).mbx = h.mbx ∧ (h.updDump f).tlm = h.tlm ∧ (h.updDump f).boot = h.boot ∧ (h.updDump f).ldr = h.ldr ∧ (h.updDump f).rst = h.rst ∧
    (h.updDump f).wdog = h.wdog ∧ (h.updDump f).cal = h.cal ∧ (h.updDump f).ecc = h.ecc ∧ (h.updDump f).rail = h.rail ∧ (h.updDump f).ctx = h.ctx ∧
    (h.updDump f).fence = h.fence ∧ (h.updDump f).slc = h.slc ∧ (h.updDump f).cut = h.cut ∧ (h.updDump f).trc = h.trc ∧ (h.updDump f).cnt = h.cnt ∧
    (h.updDump f).hang = h.hang ∧ (h.updDump f).ce = h.ce ∧ (h.updDump f).span = h.span ∧ (h.updDump f).stn = h.stn ∧
    (h.updDump f).gated = h.gated ∧ (h.updDump f).fwDue = h.fwDue ∧ (h.updDump f).tx = h.tx ∧ (h.updDump f).reply = h.reply ∧
    (h.updDump f).items = h.items ∧ (h.updDump f).stamps = h.stamps ∧ (h.updDump f).inject = h.inject ∧ (h.updDump f).free = h.free ∧
    (h.updDump f).out = h.out :=
  ⟨rfl, rfl, rfl, rfl, rfl, rfl, rfl, rfl, rfl, rfl, rfl, rfl, rfl, rfl, rfl, rfl, rfl, rfl, rfl, rfl, rfl, rfl, rfl, rfl, rfl, rfl, rfl, rfl, rfl,
    rfl, rfl, rfl, rfl, rfl, rfl, rfl, rfl, rfl, rfl, rfl, rfl, rfl⟩

@[simp] theorem Hub.updDmpM_frame (m : Master) (f : DmpM → DmpM) :
    (h.updDmpM m f).clk = h.clk ∧ (h.updDmpM m f).rw = h.rw ∧ (h.updDmpM m f).rws = h.rws ∧ (h.updDmpM m f).rc = h.rc ∧
    (h.updDmpM m f).latch = h.latch ∧ (h.updDmpM m f).stageLo = h.stageLo ∧ (h.updDmpM m f).resp = h.resp ∧ (h.updDmpM m f).cyc = h.cyc ∧
    (h.updDmpM m f).turn = h.turn ∧ (h.updDmpM m f).chain = h.chain ∧ (h.updDmpM m f).er = h.er ∧ (h.updDmpM m f).sec = h.sec ∧
    (h.updDmpM m f).irq = h.irq ∧ (h.updDmpM m f).db = h.db ∧ (h.updDmpM m f).mbx = h.mbx ∧ (h.updDmpM m f).tlm = h.tlm ∧
    (h.updDmpM m f).boot = h.boot ∧ (h.updDmpM m f).ldr = h.ldr ∧ (h.updDmpM m f).rst = h.rst ∧ (h.updDmpM m f).wdog = h.wdog ∧
    (h.updDmpM m f).cal = h.cal ∧ (h.updDmpM m f).ecc = h.ecc ∧ (h.updDmpM m f).rail = h.rail ∧ (h.updDmpM m f).ctx = h.ctx ∧
    (h.updDmpM m f).fence = h.fence ∧ (h.updDmpM m f).slc = h.slc ∧ (h.updDmpM m f).cut = h.cut ∧ (h.updDmpM m f).trc = h.trc ∧
    (h.updDmpM m f).cnt = h.cnt ∧ (h.updDmpM m f).hang = h.hang ∧ (h.updDmpM m f).ce = h.ce ∧ (h.updDmpM m f).span = h.span ∧
    (h.updDmpM m f).stn = h.stn ∧ (h.updDmpM m f).gated = h.gated ∧ (h.updDmpM m f).fwDue = h.fwDue ∧ (h.updDmpM m f).tx = h.tx ∧
    (h.updDmpM m f).reply = h.reply ∧ (h.updDmpM m f).items = h.items ∧ (h.updDmpM m f).stamps = h.stamps ∧ (h.updDmpM m f).inject = h.inject ∧
    (h.updDmpM m f).free = h.free ∧ (h.updDmpM m f).out = h.out :=
  ⟨rfl, rfl, rfl, rfl, rfl, rfl, rfl, rfl, rfl, rfl, rfl, rfl, rfl, rfl, rfl, rfl, rfl, rfl, rfl, rfl, rfl, rfl, rfl, rfl, rfl, rfl, rfl, rfl, rfl,
    rfl, rfl, rfl, rfl, rfl, rfl, rfl, rfl, rfl, rfl, rfl, rfl, rfl⟩

@[simp] theorem Hub.updBank_frame (b : Nat) (f : Bank → Bank) :
    (h.updBank b f).clk = h.clk ∧ (h.updBank b f).rw = h.rw ∧ (h.updBank b f).rws = h.rws ∧ (h.updBank b f).rc = h.rc ∧
    (h.updBank b f).latch = h.latch ∧ (h.updBank b f).stageLo = h.stageLo ∧ (h.updBank b f).resp = h.resp ∧ (h.updBank b f).cyc = h.cyc ∧
    (h.updBank b f).turn = h.turn ∧ (h.updBank b f).chain = h.chain ∧ (h.updBank b f).er = h.er ∧ (h.updBank b f).sec = h.sec ∧
    (h.updBank b f).irq = h.irq ∧ (h.updBank b f).db = h.db ∧ (h.updBank b f).mbx = h.mbx ∧ (h.updBank b f).tlm = h.tlm ∧
    (h.updBank b f).boot = h.boot ∧ (h.updBank b f).ldr = h.ldr ∧ (h.updBank b f).rst = h.rst ∧ (h.updBank b f).wdog = h.wdog ∧
    (h.updBank b f).cal = h.cal ∧ (h.updBank b f).ecc = h.ecc ∧ (h.updBank b f).rail = h.rail ∧ (h.updBank b f).ctx = h.ctx ∧
    (h.updBank b f).fence = h.fence ∧ (h.updBank b f).slc = h.slc ∧ (h.updBank b f).cut = h.cut ∧ (h.updBank b f).trc = h.trc ∧
    (h.updBank b f).cnt = h.cnt ∧ (h.updBank b f).hang = h.hang ∧ (h.updBank b f).dmp = h.dmp ∧ (h.updBank b f).span = h.span ∧
    (h.updBank b f).stn = h.stn ∧ (h.updBank b f).gated = h.gated ∧ (h.updBank b f).fwDue = h.fwDue ∧ (h.updBank b f).tx = h.tx ∧
    (h.updBank b f).reply = h.reply ∧ (h.updBank b f).items = h.items ∧ (h.updBank b f).stamps = h.stamps ∧ (h.updBank b f).inject = h.inject ∧
    (h.updBank b f).free = h.free ∧ (h.updBank b f).out = h.out :=
  ⟨rfl, rfl, rfl, rfl, rfl, rfl, rfl, rfl, rfl, rfl, rfl, rfl, rfl, rfl, rfl, rfl, rfl, rfl, rfl, rfl, rfl, rfl, rfl, rfl, rfl, rfl, rfl, rfl, rfl,
    rfl, rfl, rfl, rfl, rfl, rfl, rfl, rfl, rfl, rfl, rfl, rfl, rfl⟩

@[simp] theorem Hub.updJobRes_frame (b : Nat) (m : Master) (f : JobRes → JobRes) :
    (h.updJobRes b m f).clk = h.clk ∧ (h.updJobRes b m f).rw = h.rw ∧ (h.updJobRes b m f).rws = h.rws ∧ (h.updJobRes b m f).rc = h.rc ∧
    (h.updJobRes b m f).latch = h.latch ∧ (h.updJobRes b m f).stageLo = h.stageLo ∧ (h.updJobRes b m f).resp = h.resp ∧
    (h.updJobRes b m f).cyc = h.cyc ∧ (h.updJobRes b m f).turn = h.turn ∧ (h.updJobRes b m f).chain = h.chain ∧ (h.updJobRes b m f).er = h.er ∧
    (h.updJobRes b m f).sec = h.sec ∧ (h.updJobRes b m f).irq = h.irq ∧ (h.updJobRes b m f).db = h.db ∧ (h.updJobRes b m f).mbx = h.mbx ∧
    (h.updJobRes b m f).tlm = h.tlm ∧ (h.updJobRes b m f).boot = h.boot ∧ (h.updJobRes b m f).ldr = h.ldr ∧ (h.updJobRes b m f).rst = h.rst ∧
    (h.updJobRes b m f).wdog = h.wdog ∧ (h.updJobRes b m f).cal = h.cal ∧ (h.updJobRes b m f).ecc = h.ecc ∧ (h.updJobRes b m f).rail = h.rail ∧
    (h.updJobRes b m f).ctx = h.ctx ∧ (h.updJobRes b m f).fence = h.fence ∧ (h.updJobRes b m f).slc = h.slc ∧ (h.updJobRes b m f).cut = h.cut ∧
    (h.updJobRes b m f).trc = h.trc ∧ (h.updJobRes b m f).cnt = h.cnt ∧ (h.updJobRes b m f).hang = h.hang ∧ (h.updJobRes b m f).dmp = h.dmp ∧
    (h.updJobRes b m f).span = h.span ∧ (h.updJobRes b m f).stn = h.stn ∧ (h.updJobRes b m f).gated = h.gated ∧
    (h.updJobRes b m f).fwDue = h.fwDue ∧ (h.updJobRes b m f).tx = h.tx ∧ (h.updJobRes b m f).reply = h.reply ∧
    (h.updJobRes b m f).items = h.items ∧ (h.updJobRes b m f).stamps = h.stamps ∧ (h.updJobRes b m f).inject = h.inject ∧
    (h.updJobRes b m f).free = h.free ∧ (h.updJobRes b m f).out = h.out :=
  ⟨rfl, rfl, rfl, rfl, rfl, rfl, rfl, rfl, rfl, rfl, rfl, rfl, rfl, rfl, rfl, rfl, rfl, rfl, rfl, rfl, rfl, rfl, rfl, rfl, rfl, rfl, rfl, rfl, rfl,
    rfl, rfl, rfl, rfl, rfl, rfl, rfl, rfl, rfl, rfl, rfl, rfl, rfl⟩

@[simp] theorem Hub.updMbx_frame (m : Master) (f : Mbx → Mbx) :
    (h.updMbx m f).clk = h.clk ∧ (h.updMbx m f).rw = h.rw ∧ (h.updMbx m f).rws = h.rws ∧ (h.updMbx m f).rc = h.rc ∧ (h.updMbx m f).latch = h.latch ∧
    (h.updMbx m f).stageLo = h.stageLo ∧ (h.updMbx m f).resp = h.resp ∧ (h.updMbx m f).cyc = h.cyc ∧ (h.updMbx m f).turn = h.turn ∧
    (h.updMbx m f).chain = h.chain ∧ (h.updMbx m f).er = h.er ∧ (h.updMbx m f).sec = h.sec ∧ (h.updMbx m f).irq = h.irq ∧ (h.updMbx m f).db = h.db ∧
    (h.updMbx m f).tlm = h.tlm ∧ (h.updMbx m f).boot = h.boot ∧ (h.updMbx m f).ldr = h.ldr ∧ (h.updMbx m f).rst = h.rst ∧
    (h.updMbx m f).wdog = h.wdog ∧ (h.updMbx m f).cal = h.cal ∧ (h.updMbx m f).ecc = h.ecc ∧ (h.updMbx m f).rail = h.rail ∧
    (h.updMbx m f).ctx = h.ctx ∧ (h.updMbx m f).fence = h.fence ∧ (h.updMbx m f).slc = h.slc ∧ (h.updMbx m f).cut = h.cut ∧
    (h.updMbx m f).trc = h.trc ∧ (h.updMbx m f).cnt = h.cnt ∧ (h.updMbx m f).hang = h.hang ∧ (h.updMbx m f).dmp = h.dmp ∧ (h.updMbx m f).ce = h.ce ∧
    (h.updMbx m f).span = h.span ∧ (h.updMbx m f).stn = h.stn ∧ (h.updMbx m f).gated = h.gated ∧ (h.updMbx m f).fwDue = h.fwDue ∧
    (h.updMbx m f).tx = h.tx ∧ (h.updMbx m f).reply = h.reply ∧ (h.updMbx m f).items = h.items ∧ (h.updMbx m f).stamps = h.stamps ∧
    (h.updMbx m f).inject = h.inject ∧ (h.updMbx m f).free = h.free ∧ (h.updMbx m f).out = h.out :=
  ⟨rfl, rfl, rfl, rfl, rfl, rfl, rfl, rfl, rfl, rfl, rfl, rfl, rfl, rfl, rfl, rfl, rfl, rfl, rfl, rfl, rfl, rfl, rfl, rfl, rfl, rfl, rfl, rfl, rfl,
    rfl, rfl, rfl, rfl, rfl, rfl, rfl, rfl, rfl, rfl, rfl, rfl, rfl⟩

@[simp] theorem Hub.updQuery_frame (m : Master) (f : Query → Query) :
    (h.updQuery m f).clk = h.clk ∧ (h.updQuery m f).rw = h.rw ∧ (h.updQuery m f).rws = h.rws ∧ (h.updQuery m f).rc = h.rc ∧
    (h.updQuery m f).latch = h.latch ∧ (h.updQuery m f).stageLo = h.stageLo ∧ (h.updQuery m f).resp = h.resp ∧ (h.updQuery m f).cyc = h.cyc ∧
    (h.updQuery m f).turn = h.turn ∧ (h.updQuery m f).chain = h.chain ∧ (h.updQuery m f).er = h.er ∧ (h.updQuery m f).sec = h.sec ∧
    (h.updQuery m f).irq = h.irq ∧ (h.updQuery m f).db = h.db ∧ (h.updQuery m f).mbx = h.mbx ∧ (h.updQuery m f).boot = h.boot ∧
    (h.updQuery m f).ldr = h.ldr ∧ (h.updQuery m f).rst = h.rst ∧ (h.updQuery m f).wdog = h.wdog ∧ (h.updQuery m f).cal = h.cal ∧
    (h.updQuery m f).ecc = h.ecc ∧ (h.updQuery m f).rail = h.rail ∧ (h.updQuery m f).ctx = h.ctx ∧ (h.updQuery m f).fence = h.fence ∧
    (h.updQuery m f).slc = h.slc ∧ (h.updQuery m f).cut = h.cut ∧ (h.updQuery m f).trc = h.trc ∧ (h.updQuery m f).cnt = h.cnt ∧
    (h.updQuery m f).hang = h.hang ∧ (h.updQuery m f).dmp = h.dmp ∧ (h.updQuery m f).ce = h.ce ∧ (h.updQuery m f).span = h.span ∧
    (h.updQuery m f).stn = h.stn ∧ (h.updQuery m f).gated = h.gated ∧ (h.updQuery m f).fwDue = h.fwDue ∧ (h.updQuery m f).tx = h.tx ∧
    (h.updQuery m f).reply = h.reply ∧ (h.updQuery m f).items = h.items ∧ (h.updQuery m f).stamps = h.stamps ∧ (h.updQuery m f).inject = h.inject ∧
    (h.updQuery m f).free = h.free ∧ (h.updQuery m f).out = h.out :=
  ⟨rfl, rfl, rfl, rfl, rfl, rfl, rfl, rfl, rfl, rfl, rfl, rfl, rfl, rfl, rfl, rfl, rfl, rfl, rfl, rfl, rfl, rfl, rfl, rfl, rfl, rfl, rfl, rfl, rfl,
    rfl, rfl, rfl, rfl, rfl, rfl, rfl, rfl, rfl, rfl, rfl, rfl, rfl⟩

@[simp] theorem Hub.updCursor_frame (m : Master) (f : Cursor → Cursor) :
    (h.updCursor m f).clk = h.clk ∧ (h.updCursor m f).rw = h.rw ∧ (h.updCursor m f).rws = h.rws ∧ (h.updCursor m f).rc = h.rc ∧
    (h.updCursor m f).latch = h.latch ∧ (h.updCursor m f).stageLo = h.stageLo ∧ (h.updCursor m f).resp = h.resp ∧ (h.updCursor m f).cyc = h.cyc ∧
    (h.updCursor m f).turn = h.turn ∧ (h.updCursor m f).chain = h.chain ∧ (h.updCursor m f).sec = h.sec ∧ (h.updCursor m f).irq = h.irq ∧
    (h.updCursor m f).db = h.db ∧ (h.updCursor m f).mbx = h.mbx ∧ (h.updCursor m f).tlm = h.tlm ∧ (h.updCursor m f).boot = h.boot ∧
    (h.updCursor m f).ldr = h.ldr ∧ (h.updCursor m f).rst = h.rst ∧ (h.updCursor m f).wdog = h.wdog ∧ (h.updCursor m f).cal = h.cal ∧
    (h.updCursor m f).ecc = h.ecc ∧ (h.updCursor m f).rail = h.rail ∧ (h.updCursor m f).ctx = h.ctx ∧ (h.updCursor m f).fence = h.fence ∧
    (h.updCursor m f).slc = h.slc ∧ (h.updCursor m f).cut = h.cut ∧ (h.updCursor m f).trc = h.trc ∧ (h.updCursor m f).cnt = h.cnt ∧
    (h.updCursor m f).hang = h.hang ∧ (h.updCursor m f).dmp = h.dmp ∧ (h.updCursor m f).ce = h.ce ∧ (h.updCursor m f).span = h.span ∧
    (h.updCursor m f).stn = h.stn ∧ (h.updCursor m f).gated = h.gated ∧ (h.updCursor m f).fwDue = h.fwDue ∧ (h.updCursor m f).tx = h.tx ∧
    (h.updCursor m f).reply = h.reply ∧ (h.updCursor m f).items = h.items ∧ (h.updCursor m f).stamps = h.stamps ∧
    (h.updCursor m f).inject = h.inject ∧ (h.updCursor m f).free = h.free ∧ (h.updCursor m f).out = h.out :=
  ⟨rfl, rfl, rfl, rfl, rfl, rfl, rfl, rfl, rfl, rfl, rfl, rfl, rfl, rfl, rfl, rfl, rfl, rfl, rfl, rfl, rfl, rfl, rfl, rfl, rfl, rfl, rfl, rfl, rfl,
    rfl, rfl, rfl, rfl, rfl, rfl, rfl, rfl, rfl, rfl, rfl, rfl, rfl⟩

@[simp] theorem Hub.updEngine_frame (e : Nat) (f : Engine → Engine) :
    (h.updEngine e f).clk = h.clk ∧ (h.updEngine e f).rw = h.rw ∧ (h.updEngine e f).rws = h.rws ∧ (h.updEngine e f).rc = h.rc ∧
    (h.updEngine e f).latch = h.latch ∧ (h.updEngine e f).stageLo = h.stageLo ∧ (h.updEngine e f).resp = h.resp ∧ (h.updEngine e f).cyc = h.cyc ∧
    (h.updEngine e f).turn = h.turn ∧ (h.updEngine e f).chain = h.chain ∧ (h.updEngine e f).er = h.er ∧ (h.updEngine e f).sec = h.sec ∧
    (h.updEngine e f).irq = h.irq ∧ (h.updEngine e f).db = h.db ∧ (h.updEngine e f).mbx = h.mbx ∧ (h.updEngine e f).tlm = h.tlm ∧
    (h.updEngine e f).boot = h.boot ∧ (h.updEngine e f).ldr = h.ldr ∧ (h.updEngine e f).rst = h.rst ∧ (h.updEngine e f).wdog = h.wdog ∧
    (h.updEngine e f).cal = h.cal ∧ (h.updEngine e f).ecc = h.ecc ∧ (h.updEngine e f).rail = h.rail ∧ (h.updEngine e f).ctx = h.ctx ∧
    (h.updEngine e f).fence = h.fence ∧ (h.updEngine e f).cut = h.cut ∧ (h.updEngine e f).trc = h.trc ∧ (h.updEngine e f).cnt = h.cnt ∧
    (h.updEngine e f).hang = h.hang ∧ (h.updEngine e f).dmp = h.dmp ∧ (h.updEngine e f).ce = h.ce ∧ (h.updEngine e f).span = h.span ∧
    (h.updEngine e f).stn = h.stn ∧ (h.updEngine e f).gated = h.gated ∧ (h.updEngine e f).fwDue = h.fwDue ∧ (h.updEngine e f).tx = h.tx ∧
    (h.updEngine e f).reply = h.reply ∧ (h.updEngine e f).items = h.items ∧ (h.updEngine e f).stamps = h.stamps ∧
    (h.updEngine e f).inject = h.inject ∧ (h.updEngine e f).free = h.free ∧ (h.updEngine e f).out = h.out :=
  ⟨rfl, rfl, rfl, rfl, rfl, rfl, rfl, rfl, rfl, rfl, rfl, rfl, rfl, rfl, rfl, rfl, rfl, rfl, rfl, rfl, rfl, rfl, rfl, rfl, rfl, rfl, rfl, rfl, rfl,
    rfl, rfl, rfl, rfl, rfl, rfl, rfl, rfl, rfl, rfl, rfl, rfl, rfl⟩

@[simp] theorem Hub.updSlcM_frame (m : Master) (f : SlcM → SlcM) :
    (h.updSlcM m f).clk = h.clk ∧ (h.updSlcM m f).rw = h.rw ∧ (h.updSlcM m f).rws = h.rws ∧ (h.updSlcM m f).rc = h.rc ∧
    (h.updSlcM m f).latch = h.latch ∧ (h.updSlcM m f).stageLo = h.stageLo ∧ (h.updSlcM m f).resp = h.resp ∧ (h.updSlcM m f).cyc = h.cyc ∧
    (h.updSlcM m f).turn = h.turn ∧ (h.updSlcM m f).chain = h.chain ∧ (h.updSlcM m f).er = h.er ∧ (h.updSlcM m f).sec = h.sec ∧
    (h.updSlcM m f).irq = h.irq ∧ (h.updSlcM m f).db = h.db ∧ (h.updSlcM m f).mbx = h.mbx ∧ (h.updSlcM m f).tlm = h.tlm ∧
    (h.updSlcM m f).boot = h.boot ∧ (h.updSlcM m f).ldr = h.ldr ∧ (h.updSlcM m f).rst = h.rst ∧ (h.updSlcM m f).wdog = h.wdog ∧
    (h.updSlcM m f).cal = h.cal ∧ (h.updSlcM m f).ecc = h.ecc ∧ (h.updSlcM m f).rail = h.rail ∧ (h.updSlcM m f).ctx = h.ctx ∧
    (h.updSlcM m f).fence = h.fence ∧ (h.updSlcM m f).cut = h.cut ∧ (h.updSlcM m f).trc = h.trc ∧ (h.updSlcM m f).cnt = h.cnt ∧
    (h.updSlcM m f).hang = h.hang ∧ (h.updSlcM m f).dmp = h.dmp ∧ (h.updSlcM m f).ce = h.ce ∧ (h.updSlcM m f).span = h.span ∧
    (h.updSlcM m f).stn = h.stn ∧ (h.updSlcM m f).gated = h.gated ∧ (h.updSlcM m f).fwDue = h.fwDue ∧ (h.updSlcM m f).tx = h.tx ∧
    (h.updSlcM m f).reply = h.reply ∧ (h.updSlcM m f).items = h.items ∧ (h.updSlcM m f).stamps = h.stamps ∧ (h.updSlcM m f).inject = h.inject ∧
    (h.updSlcM m f).free = h.free ∧ (h.updSlcM m f).out = h.out :=
  ⟨rfl, rfl, rfl, rfl, rfl, rfl, rfl, rfl, rfl, rfl, rfl, rfl, rfl, rfl, rfl, rfl, rfl, rfl, rfl, rfl, rfl, rfl, rfl, rfl, rfl, rfl, rfl, rfl, rfl,
    rfl, rfl, rfl, rfl, rfl, rfl, rfl, rfl, rfl, rfl, rfl, rfl, rfl⟩

@[simp] theorem Hub.respond_frame (m : Master) (d : Nat) (r : Bool) :
    (h.respond m d r).clk = h.clk ∧ (h.respond m d r).rw = h.rw ∧ (h.respond m d r).rws = h.rws ∧ (h.respond m d r).rc = h.rc ∧
    (h.respond m d r).latch = h.latch ∧ (h.respond m d r).stageLo = h.stageLo ∧ (h.respond m d r).cyc = h.cyc ∧ (h.respond m d r).turn = h.turn ∧
    (h.respond m d r).chain = h.chain ∧ (h.respond m d r).er = h.er ∧ (h.respond m d r).sec = h.sec ∧ (h.respond m d r).irq = h.irq ∧
    (h.respond m d r).db = h.db ∧ (h.respond m d r).mbx = h.mbx ∧ (h.respond m d r).tlm = h.tlm ∧ (h.respond m d r).boot = h.boot ∧
    (h.respond m d r).ldr = h.ldr ∧ (h.respond m d r).rst = h.rst ∧ (h.respond m d r).wdog = h.wdog ∧ (h.respond m d r).cal = h.cal ∧
    (h.respond m d r).ecc = h.ecc ∧ (h.respond m d r).rail = h.rail ∧ (h.respond m d r).ctx = h.ctx ∧ (h.respond m d r).fence = h.fence ∧
    (h.respond m d r).slc = h.slc ∧ (h.respond m d r).cut = h.cut ∧ (h.respond m d r).trc = h.trc ∧ (h.respond m d r).cnt = h.cnt ∧
    (h.respond m d r).hang = h.hang ∧ (h.respond m d r).dmp = h.dmp ∧ (h.respond m d r).ce = h.ce ∧ (h.respond m d r).span = h.span ∧
    (h.respond m d r).stn = h.stn ∧ (h.respond m d r).gated = h.gated ∧ (h.respond m d r).fwDue = h.fwDue ∧ (h.respond m d r).tx = h.tx ∧
    (h.respond m d r).reply = h.reply ∧ (h.respond m d r).items = h.items ∧ (h.respond m d r).stamps = h.stamps ∧
    (h.respond m d r).inject = h.inject ∧ (h.respond m d r).free = h.free ∧ (h.respond m d r).out = h.out :=
  ⟨rfl, rfl, rfl, rfl, rfl, rfl, rfl, rfl, rfl, rfl, rfl, rfl, rfl, rfl, rfl, rfl, rfl, rfl, rfl, rfl, rfl, rfl, rfl, rfl, rfl, rfl, rfl, rfl, rfl,
    rfl, rfl, rfl, rfl, rfl, rfl, rfl, rfl, rfl, rfl, rfl, rfl, rfl⟩

/-! ## Reading a part after its update -/

/-- The four masters have numbers of their own. -/
theorem Master.idx_inj {m n : Master} (e : m.idx = n.idx) : m = n := by
  cases m <;> cases n <;> first | rfl | cases e

theorem Master.idx_ne {m n : Master} (e : m ≠ n) : m.idx ≠ n.idx := fun i => e (Master.idx_inj i)

@[simp] theorem Hub.getStn_updStn (s : Nat) (f : Stn → Stn) : (h.updStn s f).getStn s = f (h.getStn s) := by
  simp [Hub.getStn, Hub.updStn]
theorem Hub.getStn_updStn_ne {s x : Nat} (f : Stn → Stn) (e : x ≠ s) : (h.updStn s f).getStn x = h.getStn x :=
  SMap.get_upd_ne _ _ _ e

@[simp] theorem Hub.getSlice_updSlice (s : Nat) (f : Slice → Slice) : (h.updSlice s f).getSlice s = f (h.getSlice s) := by
  simp [Hub.getSlice, Hub.updSlice]
theorem Hub.getSlice_updSlice_ne {s x : Nat} (f : Slice → Slice) (e : x ≠ s) : (h.updSlice s f).getSlice x = h.getSlice x :=
  SMap.get_upd_ne _ _ _ e

@[simp] theorem Hub.getKeys_updKeys (s : Nat) (f : SliceKeys → SliceKeys) : (h.updKeys s f).getKeys s = f (h.getKeys s) := by
  simp [Hub.getKeys, Hub.updKeys]
theorem Hub.getKeys_updKeys_ne {s x : Nat} (f : SliceKeys → SliceKeys) (e : x ≠ s) : (h.updKeys s f).getKeys x = h.getKeys x :=
  SMap.get_upd_ne _ _ _ e

@[simp] theorem Hub.getLink_updLink (s : Nat) (f : Link → Link) : (h.updLink s f).getLink s = f (h.getLink s) := by
  simp [Hub.getLink, Hub.updLink]
theorem Hub.getLink_updLink_ne {s x : Nat} (f : Link → Link) (e : x ≠ s) : (h.updLink s f).getLink x = h.getLink x :=
  SMap.get_upd_ne _ _ _ e

@[simp] theorem Hub.getSecM_updSecM (m : Master) (f : SecM → SecM) : (h.updSecM m f).getSecM m = f (h.getSecM m) := by
  simp [Hub.getSecM, Hub.updSecM]
theorem Hub.getSecM_updSecM_ne {m x : Master} (f : SecM → SecM) (e : x ≠ m) : (h.updSecM m f).getSecM x = h.getSecM x :=
  SMap.get_upd_ne _ _ _ (Master.idx_ne e)

@[simp] theorem Hub.getFence_updFence (s : Nat) (f : Fence → Fence) : (h.updFence s f).getFence s = f (h.getFence s) := by
  simp [Hub.getFence, Hub.updFence]
theorem Hub.getFence_updFence_ne {s x : Nat} (f : Fence → Fence) (e : x ≠ s) : (h.updFence s f).getFence x = h.getFence x :=
  SMap.get_upd_ne _ _ _ e

@[simp] theorem Hub.getStat_updStat (m : Master) (f : CommitStat → CommitStat) : (h.updStat m f).getStat m = f (h.getStat m) := by
  simp [Hub.getStat, Hub.updStat]
theorem Hub.getStat_updStat_ne {m x : Master} (f : CommitStat → CommitStat) (e : x ≠ m) : (h.updStat m f).getStat x = h.getStat x :=
  SMap.get_upd_ne _ _ _ (Master.idx_ne e)

@[simp] theorem Hub.getWin_updWin (m : Master) (f : Window → Window) : (h.updWin m f).getWin m = f (h.getWin m) := by
  simp [Hub.getWin, Hub.updWin]
theorem Hub.getWin_updWin_ne {m x : Master} (f : Window → Window) (e : x ≠ m) : (h.updWin m f).getWin x = h.getWin x :=
  SMap.get_upd_ne _ _ _ (Master.idx_ne e)

@[simp] theorem Hub.getCursor_updCursor (m : Master) (f : Cursor → Cursor) : (h.updCursor m f).getCursor m = f (h.getCursor m) := by
  simp [Hub.getCursor, Hub.updCursor]
theorem Hub.getCursor_updCursor_ne {m x : Master} (f : Cursor → Cursor) (e : x ≠ m) : (h.updCursor m f).getCursor x = h.getCursor x :=
  SMap.get_upd_ne _ _ _ (Master.idx_ne e)

@[simp] theorem Hub.getEngine_updEngine (s : Nat) (f : Engine → Engine) : (h.updEngine s f).getEngine s = f (h.getEngine s) := by
  simp [Hub.getEngine, Hub.updEngine]
theorem Hub.getEngine_updEngine_ne {s x : Nat} (f : Engine → Engine) (e : x ≠ s) : (h.updEngine s f).getEngine x = h.getEngine x :=
  SMap.get_upd_ne _ _ _ e

@[simp] theorem Hub.getCtx_updCtx (c : Nat) (f : Ctx → Ctx) :
    (h.updCtx c f).getCtx c = Ctx.mark (h.clk.cycle + 1) (h.getCtx c) (f (h.getCtx c)) := by
  simp [Hub.getCtx, Hub.updCtx]

theorem Hub.getCtx_updCtx_ne {c x : Nat} (f : Ctx → Ctx) (e : x ≠ c) : (h.updCtx c f).getCtx x = h.getCtx x := by
  simp [Hub.getCtx, Hub.updCtx, e]

@[simp] theorem Hub.rwGet_rwSet (reset off mi v : Nat) : (h.rwSet reset off mi v).rwGet reset off mi = v := by
  simp [Hub.rwGet, Hub.rwSet]

@[simp] theorem Hub.rwsGet_rwsUpd (reset off : Nat) (f : Rws → Rws) : (h.rwsUpd reset off f).rwsGet reset off = f (h.rwsGet reset off) := by
  simp [Hub.rwsGet, Hub.rwsUpd]

theorem Hub.rwsGet_rwsUpd_ne (r reset off x : Nat) (f : Rws → Rws) (e : x ≠ off) : (h.rwsUpd reset off f).rwsGet r x = h.rwsGet r x := by
  unfold Hub.rwsGet Hub.rwsUpd SMap.upd SMap.set
  split
  · exact SMap.get_del_ne _ _ e
  · exact (SMap.get_put_ne _ _ _ e).trans (SMap.get_del_ne _ _ e)

end Sys2Proof.Machine
end

