-- ==== Sys2Proof/WellFormed.lean ====
section
/-!
DEFINITION. WellFormed.lean: the widths of the operands of a command (R2, R7, R25, R33, R39, R42, R293): numbers of stations, units, contexts and
slices, register offsets and data, and the sizes of the messages and frames that reach the hub. A well-formed operand may still name nothing (an
invalid unit number, R26); the meaning of the command answers that.
-/
namespace Sys2Proof

/-- A number of at most `w` bits. -/
def below (w n : Nat) : Bool := decide (n < 2 ^ w)

/-- The sizes of a register access (R7). -/
def accessSize (n : Nat) : Bool := n == 1 || n == 2 || n == 4 || n == 8

/-- A fence reference: a 10-bit package index and a 32-bit fence ID (R43). -/
def FenceRef.wf (f : FenceRef) : Bool := below 10 f.pkg && below 32 f.id

/-- The size limits of Table 01.6: 1 to 4,096 bytes for a get or a put, 4 or 8 bytes naturally aligned for an atomic; a fence operation has no length. -/
def Rmo.lenOk (r : Rmo) : Bool :=
  match r.op with
  | .get | .put => decide (1 ≤ r.len ∧ r.len ≤ 4096)
  | .atomic => (r.len == 4 || r.len == 8) && r.addr % r.len == 0
  | .fenceSignal | .fenceWait => r.len == 0

/-- A supply: a 14-bit unit, or one of the 28 clock domains (Table 01.10). -/
def Supply.wf (n : Nat) : Supply → Bool
  | .power => below 14 n
  | .clock => decide (n < 28)

/-- A remote memory operation (R39 to R41): 14-bit units, an 18-bit context, a 32-bit tag, a 20-bit PASID, a 64-bit address, a length within the limits of
its kind and at most 4,096 bytes of data. -/
def Rmo.wf (r : Rmo) : Bool :=
  below 14 r.issuer && below 14 r.target && below 18 r.context && below 32 r.tag && below 64 r.addr && r.lenOk && below 20 r.pasid && below 2 r.level &&
  below 2 r.mode && below 8 r.opcode && below 64 r.value && decide (r.data.length ≤ 4096) && below 4 r.inPort && below 4 r.outPort

/-- A wait edge (Table 09.2): one of three kinds and operations, package, peer, object and argument. -/
def Edge.wf (e : Edge) : Bool :=
  decide (1 ≤ e.kind ∧ e.kind ≤ 3) && decide (e.op < 3) && below 10 e.pkg && below 14 e.peer && below 32 e.obj && below 64 e.arg

/-- The operands of a command have the widths of the spec. -/
def Instr.wf (i : Instr) : Bool :=
  match i with
  | .registerWrite _ off size data => below 25 off && accessSize size && below 64 data
  | .loReadLatch _ off size => below 25 off && accessSize size
  | .rcFieldRead _ off size => below 25 off && accessSize size
  | .contextCreate _ slice => below 6 slice
  | .contextDestroy _ context => below 18 context
  | .attributionFinalRecords context => below 18 context
  | .commandSubmit context unit tag signal value mode => below 18 context && below 14 unit && below 32 tag && signal.all FenceRef.wf &&
      below 64 value && below 2 mode
  | .commandStart context => below 18 context
  | .commandComplete context unit status => below 18 context && below 14 unit && below 16 status
  | .commandFault context unit code addr => below 18 context && below 14 unit && below 32 code && below 64 addr
  | .fenceSignal unit context fence value mode => below 14 unit && below 18 context && fence.wf && below 64 value && below 2 mode
  | .fenceErrorSignal unit context fence mode => below 14 unit && below 18 context && fence.wf && below 2 mode
  | .fenceWait unit context fence value mode => below 14 unit && below 18 context && fence.wf && below 64 value && below 2 mode
  | .rmoIssue r edge => r.wf && edge.all Edge.wf
  | .rmoArrive unit r => below 14 unit && r.wf
  | .rmoComplete r status => r.wf && below 16 status
  | .programFlowEvent unit kind addr target _ mode after cause => below 14 unit && below 3 kind && below 64 addr && below 64 target &&
      below 2 mode && below 2 after && below 8 cause
  | .linkMessage unit _ r msn len => below 14 unit && r.wf && below 32 msn && below 13 len
  | .routeMessage unit r len => below 14 unit && r.wf && below 13 len
  | .channelRequest unit r => below 14 unit && r.wf
  | .transferArrive engine r signal value => below 4 engine && r.wf && signal.all FenceRef.wf && below 64 value
  | .transferStart engine => below 4 engine
  | .transferEnd engine context status => below 4 engine && below 18 context && below 16 status
  | .unitSleep n what => what.wf n
  | .unitWake n what => what.wf n
  | .trgFireWrite _ station mask => below 11 station && below 4 mask
  | .triggerMatrix flits => below 16 flits
  | .matrixOrder station => below 11 station
  | .atomsFlushTimeout unit => below 14 unit
  | .peckFlush _ station => below 11 station
  | .peckRelease _ station => below 11 station
  | .drainBlockTimeout station => below 11 station
  | .drainReserveRequest station => below 11 station
  | .drainGrant => true
  | .blockSeal => true
  | .drainBlockWritten station => below 11 station
  | .traceRingRdWrite _ slice value => below 6 slice && below 64 value
  | .rebindFlushExpiry station => below 11 station
  | .sampleTick => true
  | .sampleCaptureArrive station => below 11 station
  | .sealFrameWrite slice => below 6 slice
  | .sealFrameTimeout slice => below 6 slice
  | .attributionUpdate => true
  | .attributionExportTick => true
  | .attExport _ slice => below 6 slice
  | .sampleRingRdWrite _ slice value => below 6 slice && below 64 value
  | .epochBoundary => true
  | .epochAck station epoch => below 11 station && below 64 epoch
  | .ringMarkerTimeout ring => below 5 ring
  | .commitRequest _ scope target => below 2 scope && below 11 target
  | .commitBegin => true
  | .snapshotFlit station => below 11 station
  | .snapshotAck station => below 11 station
  | .snapshotTimeout station => below 11 station
  | .moveOrderIssue => true
  | .chwinAcquire _ station => below 11 station
  | .chwinRelease _ => true
  | .chwinLeaseExpiry _ => true
  | .chainFlitCrcError station => below 11 station
  | .class2RetryTimeout station => below 11 station
  | .lockstepMismatch pc out0 out1 => below 64 pc && below 64 out0 && below 64 out1
  | .clockMonitorWindow cycles => below 32 cycles
  | .pllLossOfLock cycles => below 32 cycles
  | .hangStepAdvance status => below 16 status
  | .coldResetAssert => true
  | .coldResetRelease _ => true
  | .pllLock => true
  | .pllLockTimeout => true
  | .selftestDone _ => true
  | .pufCaptureDone _ => true
  | .chainTrainingDone untrained deadRings => untrained.all (below 11) && deadRings.all (below 5)
  | .aszStart _ => true
  | .aszDataWrite _ word => below 32 word
  | .aszSectionVerified => true
  | .aszLoadDone => true
  | .reloadCommit => true
  | .aszAbort _ => true
  | .aszTimeout => true
  | .aszIdleReturn => true
  | .fwReady => true
  | .fwReadyTimeout => true
  | .hbmTrainingDone failed => failed.all (below 4)
  | .tileResetComplete => true
  | .firkinRelease _ => true
  | .restartReuseImage _ => true
  | .restartNewImage _ => true
  | .restartHashCheck => true
  | .restartPairStart _ => true
  | .restartTimeout => true
  | .wdogKick => true
  | .watchdogExpiry pc => below 64 pc
  | .watchdogCrashCoreDone => true
  | .timebaseStartFlit station => below 11 station
  | .timebaseCheckFlit station value => below 11 station && below 64 value
  | .calendarSetRequest _ value => below 64 value
  | .calendarApply => true
  | .timeMarkSend station => below 11 station
  | .timeMarkReceive station mark => below 11 station && mark.length == 64
  | .linkRetrain station => below 11 station
  | .cutRequest _ _ _ _ _ slice => below 6 slice
  | .cutScheduleFlit station => below 11 station
  | .cutTickT => true
  | .unitStopClean unit => below 14 unit
  | .cutForcedStop station => below 11 station
  | .cutReport station => below 11 station
  | .cutReportTimeout => true
  | .cutResume _ _ _ _ slice => below 6 slice
  | .cutResumeTick => true
  | .cutStep _ _ _ _ n => below 24 n
  | .stepStart => true
  | .stepEnd unit => below 14 unit
  | .stepTimeout => true
  | .benchModeWrite _ _ => true
  | .cutScheduleMessage link msg => below 5 link && msg.length == 64
  | .cutDoneMessage link msg => below 5 link && msg.length == 64
  | .cutResumeMessage link msg => below 5 link && msg.length == 64
  | .cutXresultWindowEnd => true
  | .scanStart => true
  | .scanContext => true
  | .verdictPop _ => true
  | .waitEdgeCollect => true
  | .contextWalk => true
  | .graphRequestMessage link msg => below 5 link && msg.length == 64
  | .graphEdgeMessage link msg => below 5 link && msg.length == 64
  | .graphPeerTimeout => true
  | .dumpRequest _ _ _ slice => below 6 slice
  | .dumpContextRequest _ context => below 18 context
  | .dumpPlanDone => true
  | .dumpChunkWritten => true
  | .dumpTunFull => true
  | .dumpFinish => true
  | .dumpSigned => true
  | .firkinWriteDone => true
  | .tunRecordComplete => true
  | .tunRdWrite _ value => below 64 value
  | .watchServe => true
  | .watchReadDone => true
  | .watchHoldExpiry slot => below 4 slot
  | .watchOutputFull => true
  | .watchResume => true
  | .watchCancel _ slot => below 4 slot
  | .ceBlockRelease bank raw _ _ => below 2 bank && decide (raw.length ≤ 65520)
  | .ceEncodeJob _ bank xform => below 2 bank && below 2 xform
  | .ceDecodeJob _ bank xform => below 2 bank && below 2 xform
  | .erBuildStart => true
  | .erStationCopy => true
  | .erStationCopyTimeout => true
  | .erRecordCommit => true
  | .lostRecordEnqueue => true
  | .erCursorAcquire _ slot => below 13 slot
  | .erCursorRelease _ => true
  | .erCursorExpiry _ => true
  | .erFwRecord cls code => below 4 cls && below 16 code
  | .auditGapEnqueue => true
  | .auditSpillStart => true
  | .auditSpillDone => true
  | .spillRdWrite _ value => below 64 value
  | .roleCommand _ => true
  | .roleDrop _ => true
  | .ownerRegister _ slice => below 6 slice
  | .tokenLodge _ => true
  | .secCheckComplete _ => true
  | .revokeCommit => true
  | .roleLeaseExpiry _ => true
  | .keyoutExpiry _ => true
  | .sliceCreate _ slice => below 6 slice
  | .sliceReset _ slice => below 6 slice
  | .sliceDestroy _ slice => below 6 slice
  | .sliceProcessDied _ slice => below 6 slice
  | .engineResetReport engine slice => below 4 engine && below 6 slice
  | .sliceResetTimeout slice => below 6 slice
  | .exportAllocate _ slice index => below 6 slice && below 16 index
  | .exportRelease _ slice index => below 6 slice && below 16 index
  | .spanFrameReceive frame => decide (frame.length ≤ 1034)
  | .spanStatus => true
  | .spanRead => true
  | .spanWrite => true
  | .spanBulk => true
  | .spanBulkFrame => true
  | .spanAbort => true
  | .spanMode => true
  | .attnMessageSet code => below 16 code
  | .tapIdcode => true
  | .tapBypass => true
  | .tapFrame => true
  | .tapRegaccUpdate dr => below 64 dr
  | .tapRegaccCapture => true
  | .tapReset => true
  | .msixUnmask entry => below 5 entry
  | .irqEnableWrite _ value => below 32 value
  | .hostDoorbell _ code => below 32 code
  | .doorbellPop _ => true
  | .fwDoorbell code => below 32 code
  | .mailboxWdata _ word => below 32 word
  | .mailboxGo _ len => below 16 len
  | .mailboxAbort _ => true
  | .mailboxRdata _ => true
  | .mailboxResponseReady _ => true
  | .spdmGetVersion _ => true
  | .spdmGetCapabilities _ => true
  | .spdmNegotiateAlgorithms _ => true
  | .spdmChallenge _ => true
  | .spdmGetMeasurements _ => true
  | .spdmUnsupported _ => true
  | .tlmThermalQuery _ index => below 16 index
  | .tlmClockQuery _ index => below 16 index
  | .tlmPowerQuery _ index => below 16 index
  | .tlmSummaryQuery _ => true
  | .tlmQueryComplete _ => true
  | .tlmRefresh readings => readings.all (below 32)
  | .scrubRead store station word errors => below 4 store && below 11 station && below 34 word && below 8 errors
  | .railCollapse => true
  | .fenceRearm unit fence => below 14 unit && fence.wf
  | .unitStall unit context edge => below 14 unit && below 18 context && edge.wf
  | .creditReturn unit next => below 14 unit && next.all Edge.wf
  | .grainIncrement unit counter amount => below 14 unit && below 4 counter && below 48 amount
  | .spanLaneResync => true
  | .erWindowRead _ off size => below 25 off && accessSize size
  | .railBelowNominal => true
  | .railRestored => true
  | .islandSupplyLoss => true
  | .graphAreaWrite => true

end Sys2Proof
end

