-- ==== Sys2Proof/Tests/Slice0.lean ====
section
/-!
SUPPORT. Tests/Slice0.lean: tests of the model against worked cases and tables of the spec; ill-formed commands that WellFormed refuses; and for
each clause of each statement a witness that its premises can be met together.
-/
open Sys2Proof Sys2Proof.Machine
namespace Sys2Proof.Tests
set_option Elab.async false

/-- A register whose copies all hold `v`. -/
def rg (v : Nat) : Rws := ⟨v, v, v, .clean⟩

/-- A hub that has finished bring-up, ten seconds after it. -/
def base : Hub :=
  { boot := { coldN := true, phase := 11, units := true, pairRunning := true, endpoint := true, domains := 0xFFFFFFF, tunHeader := true, tunSize := 0x10000000 },
    clk := { started := true, onPll := true, tick := 10000000000, cycle := 10000000000, realNs := 10000000000, epoch := 5 },
    er := { chainStarted := true } }

/-- The state whose hub is `f` of that hub, with empty memories. -/
def world (f : Hub → Hub) : State := { hub := f base, mem := {}, pending := [] }

/-- An operation of a unit. -/
def rmo (op : RmoOp) (u : Nat) : Rmo := { op := op, issuer := u, target := 0, context := 262143, tag := 1, addr := 0x40, len := 64, level := 2 }

/-- `h` with source 0 of the unit's Perch ON, following the unit in a feed that the policy of slice 0 permits. -/
def traced (u feed : Nat) (h : Hub) : Hub :=
  { h with
    rws := [(0x81000, rg 0x303FE), (pchOff (unitStn u) 0x400, rg (2 ^ 31 + feed * 2 ^ 24 + 0xFFFF80))],
    stn := [(unitStn u, { tbOn := true, src := [(0, { st := .on, slice := 1, base := 10000000000 })] })] }

/-- A SLICEOBS section of slice 0 with an empty write list (R104). -/
def sliceobs : Section := { hdr := leBytes 2 6 ++ zeros 2 ++ leBytes 4 8 ++ zeros 24, body := zeros 8 }

/-! ## Well-formedness: each check refuses a term -/

theorem test_wf_fence_pkg : FenceRef.wf ⟨1024, 0⟩ = false := by decide
theorem test_wf_fence_id : FenceRef.wf ⟨0, 2 ^ 32⟩ = false := by decide
theorem test_wf_offset : Instr.wf (.loReadLatch .host (2 ^ 25) 4) = false := by decide
theorem test_wf_size : Instr.wf (.loReadLatch .host 0 3) = false := by decide
theorem test_wf_data : Instr.wf (.registerWrite .host 0 8 (2 ^ 64)) = false := by decide
theorem test_wf_word : Instr.wf (.mailboxWdata .host (2 ^ 32)) = false := by decide
theorem test_wf_slice : Instr.wf (.sliceReset .host 64) = false := by decide
theorem test_wf_context : Instr.wf (.contextDestroy .host 262144) = false := by decide
theorem test_wf_unit : Instr.wf (.unitSleep 16384 .power) = false := by decide
theorem test_wf_station : Instr.wf (.peckFlush .host 2048) = false := by decide
theorem test_wf_tag : Instr.wf (.commandSubmit 0 0 (2 ^ 32) none 0 0) = false := by decide
theorem test_wf_signal : Instr.wf (.commandSubmit 0 0 0 (some ⟨1024, 0⟩) 0 0) = false := by decide
theorem test_wf_status : Instr.wf (.hangStepAdvance 65536) = false := by decide
theorem test_wf_rmo : Instr.wf (.rmoArrive 0 { op := .get, issuer := 0, target := 0, context := 0, tag := 0, addr := 0, len := 4097, level := 0 }) = false := by decide
theorem test_wf_rmo_data :
    Rmo.wf { op := .put, issuer := 0, target := 0, context := 0, tag := 0, addr := 0, len := 1, level := 0, data := List.replicate 4097 0 } = false := by
  decide +kernel
theorem test_wf_edge_kind : Edge.wf ⟨4, 0, 0, 0, 0, 0⟩ = false := by decide
theorem test_wf_edge_op : Edge.wf ⟨2, 3, 0, 0, 0, 0⟩ = false := by decide
theorem test_wf_message : Instr.wf (.cutDoneMessage 0 []) = false := by decide
theorem test_wf_link : Instr.wf (.cutDoneMessage 32 (List.replicate 64 0)) = false := by decide
theorem test_wf_frame : Instr.wf (.spanFrameReceive (List.replicate 1035 0)) = false := by decide +kernel
theorem test_wf_block : Instr.wf (.ceBlockRelease 4 [] true true) = false := by decide
theorem test_wf_readings : Instr.wf (.tlmRefresh [2 ^ 32]) = false := by decide

/-! ## Worked cases and tables of the spec -/

/-- Chapter 01, worked case: unit 5,203 is station 650, sub 3; fence 0x28A6_004D is private, of unit 5,203, index 77. -/
theorem test_blocked_core :
    unitStn 5203 = 650 ∧ unitSub 5203 = 3 ∧ fenceExported 0x28A6004D = false ∧ fenceOwner 0x28A6004D = 5203 ∧ field 0x28A6004D 16 0 = 77 := by decide

/-- Chapter 01, worked case: the signal of 0x20 is ahead of 0xFFFF_FFFF_FFFF_FFF0, and satisfies the wait for 0x10, which the old value does not. -/
theorem test_fence_wraps :
    ahead64 0x20 0xFFFFFFFFFFFFFFF0 = true ∧ signalSatisfies 0x20 0x10 = true ∧ signalSatisfies 0xFFFFFFFFFFFFFFF0 0x10 = false := by decide

/-- R359 and Table 15.5: the two CRCs of the nine characters "123456789". -/
theorem test_crcs : crc32c [0x31, 0x32, 0x33, 0x34, 0x35, 0x36, 0x37, 0x38, 0x39] = 0xE3069283 ∧
    crc16 [0x31, 0x32, 0x33, 0x34, 0x35, 0x36, 0x37, 0x38, 0x39] = 0x29B1 := by decide +kernel

/-- Chapter 11, worked case: the 64 raw bytes, element by element. -/
def bf16Case : List Byte :=
  let eight : List Nat := [0x3F91, 0x3FA2, 0x3FB3, 0x3FC4, 0x3FD5, 0x3FE6, 0x3FF7, 0x3F88]
  (List.replicate 8 0x3F80 ++ List.replicate 8 0 ++ eight ++ eight.map (· + 0x8000)).flatMap (leBytes 2)

/-- Table 11.7: the engine keeps transform 1; the block has 40 bytes, with these tokens. -/
theorem test_bushel_block :
    (releaseBlock 3 false true 0 65544 bf16Case true true).block.take 8 = [0x42, 0x55, 4, 1, 0x40, 0, 5, 0] ∧
    ((releaseBlock 3 false true 0 65544 bf16Case true true).block.drop 16).take 20 =
      [0x86, 0x80, 0x45, 0xB0, 0x91, 0xA2, 0xB3, 0xC4, 0xD5, 0xE6, 0xF7, 0x88, 0x86, 0x3F, 0x45, 0x86, 0x3F, 0x86, 0xBF, 0] ∧
    (releaseBlock 3 false true 0 65544 bf16Case true true).block.length = 40 := by decide +kernel

/-- Table 11.6: the blocks of transforms 0, 1 and 2 and the raw block have 64, 40, 72 and 88 bytes. -/
theorem test_bushel_lengths :
    Machine.blockLen (tokens 64 [] (planes 0 bf16Case)).length = 64 ∧ Machine.blockLen (tokens 64 [] (planes 1 bf16Case)).length = 40 ∧
    Machine.blockLen (tokens 64 [] (planes 2 bf16Case)).length = 72 ∧ Machine.blockLen bf16Case.length = 88 := by decide +kernel

/-- Table 06.10: the SYNC, PF_ATOMS and PF_TARGET packets of the capture of Table 05.7, word by word. -/
theorem test_packet_words :
    let c : PkCtx := ⟨2, 0, 1, 8, 0⟩
    Pk.bytes (.sync 1 0x41C80) c { seq := 0x3C10 } 3 8998800000 0 =
      wordBytes [0xF0406781, 0x00003C10, 0x185ECA80, 0x00000002, 0x00000811, 0, 0x00041C80, 0] ∧
    Pk.bytes (.atoms [true, true, false, true, true]) c { seq := 0x3C11 } 3 8998800038 38 = wordBytes [0xF0446289, 0x00040026, 0x0000001B] ∧
    Pk.bytes (.target 0x49A00) c { seq := 0x3C12, pc := [(3, 0x41C80)] } 3 8998800052 14 = wordBytes [0xF048618C, 0x7D80000E] := by decide +kernel

/-- Chapter 04, worked case: tick 7,048,400,000 of package 9 is 7,000,186,625 on package 3. -/
theorem test_skew :
    ({ base with clk := { base.clk with tick := 7000107239 }, stn := [(linkStn 5, { mark :=
        { valid := true, rxPeer := 7048320000, rxLocal := 7000107239, echoTx := 7000100000, echoRx := 7048313989 } })] } : Hub).convertTick 5 7048400000 =
      (7000186625, 0) := by decide +kernel

/-- Chapter 17, worked case: the active copy of watch slot 14 stands at 0x0004_A380, that of PCH_TRG2 of station 1100 at 0x0054_CCA8; the tile
register at 0x0054_C420 is reserved at a link Perch. -/
theorem test_mirrors :
    (locate 0x4A380).map (fun l => (l.base, l.mirror)) = some (0x42380, true) ∧ pchOff 1100 0xCA8 = 0x54CCA8 ∧
    (locate 0x54CCA8).map (fun l => (l.base, l.mirror)) = some (0x54C4A8, true) ∧ locate 0x54C420 = none := by decide +kernel

/-- Chapter 09, worked case: the hung slice 7 of package 12, its two edges collected and its contexts walked. -/
def hungCase : Hub :=
  { base with
    boot := { base.boot with pkg := 12 }
    slc := { base.slc with e := [(7, { st := .active })] }
    hang := { base.hang with
      building := true, joined := [(0x413, 7, 250), (0x412, 7, 250)]
      edges := [⟨98, 7, 0x412, ⟨1, 0, 12, 0x3FFF, 0x028C0009, 7⟩, 19999700000⟩, ⟨326, 7, 0x413, ⟨1, 0, 12, 0x3FFF, 0x00C40005, 3⟩, 19999700450⟩]
      walk := some
        [(0x412, { st := .active, slice := 7, cmds := [{ unit := 98, tag := 0x28001, signal := some ⟨12, 0x00C40005⟩, value := 3, started := true, startTick := 19999650000, submitTick := 19999600000 }] }),
         (0x413, { st := .active, slice := 7, cmds := [{ unit := 326, tag := 0x28002, signal := some ⟨12, 0x028C0009⟩, value := 7, started := true, startTick := 19999680000, submitTick := 19999610000 }] })] } }

/-- Table 09.12: the six edge records in their order, each on cycle 1. -/
theorem test_graph_edges :
    hungCase.graphOf.1.map (·.2) =
      [⟨0x1030000000000062, 0x30300000028C0009, 7, 19999700000, 0, 0, 1⟩, ⟨0x1030000000000146, 0x3030000000C40005, 3, 19999700450, 0, 0, 1⟩,
       ⟨0x2030000000000412, 0x1030000000000062, 0x28001, 19999650000, 3, 0, 1⟩, ⟨0x2030000000000413, 0x1030000000000146, 0x28002, 19999680000, 3, 0, 1⟩,
       ⟨0x3030000000C40005, 0x2030000000000412, 3, 19999600000, 4, 0, 1⟩, ⟨0x30300000028C0009, 0x2030000000000413, 7, 19999610000, 4, 0, 1⟩] := by
  decide +kernel

/-- The two hung records carry class 0, idle 250, cycle 1 and the root of unit 98. -/
theorem test_graph_hung :
    hungCase.graphOf.2.1 = [⟨0x412, 7, 0, 250, 1, 0x1030000000000062⟩, ⟨0x413, 7, 0, 250, 1, 0x1030000000000062⟩] := by decide +kernel

/-- Table 17.3: HUB_ID at offset 0 reads 0xC108_0003 over the Span port. -/
theorem test_hub_id :
    ∃ t, exec (.loReadLatch .span 0 4) (world id) = .next t ∧ SMap.get ⟨0, false⟩ t.hub.resp 3 = ⟨0xC1080003, false⟩ := by
  refine ⟨_, rfl, ?_⟩; decide +kernel

/-- No row of the table has bits, so no word spells a command. -/
theorem test_no_words : decodeTableWord 32 0 = none := by decide

/-! ## Witnesses: states and operands that meet the premises of each clause of each statement -/

theorem wit_IdleStepIsHubCycle_0 :
    ∃ (s : State), s.pending = [] :=
  ⟨(world fun h => h), by decide +kernel⟩

theorem wit_IdleStepIsHubCycle_1 :
    ∃ (s : State), s.pending = [] :=
  ⟨(world fun h => h), by decide +kernel⟩

theorem wit_IdleStepIsHubCycle_3 :
    ∃ (c : Instr) (s : State), s.hub.inTurn c = false :=
  ⟨(.loReadLatch .host 0 4), (world fun h => { h with turn := [(0, 4)] }), by decide +kernel⟩

theorem wit_ResetHoldsTheHub_0 :
    ∃ (c : Instr) (s : State), s.hub.live = false ∧ c ≠ .coldResetAssert ∧ (∀ b, c ≠ .coldResetRelease b) ∧ c ≠ .islandSupplyLoss ∧ s.hub.inTurn c = true :=
  ⟨.scanStart, (world fun h => { h with boot := { h.boot with coldN := false } }), by decide +kernel, by decide +kernel, by intro b; simp, by decide +kernel, by decide +kernel⟩

theorem wit_ResetHoldsTheHub_3 :
    ∃ (s : State), s.hub.boot.coldN = true ∧ s.hub.inTurn .coldResetAssert = true :=
  ⟨(world fun h => { h with boot := { h.boot with island := true } }), by decide +kernel⟩

theorem wit_ResetHoldsTheHub_4 :
    ∃ (s : State), s.hub.boot.coldN = false ∧ s.hub.inTurn .coldResetAssert = true :=
  ⟨(world fun h => { h with boot := { h.boot with coldN := false, island := false } }), by decide +kernel⟩

theorem wit_ResetHoldsTheHub_5 :
    ∃ (s : State) (low : Bool), s.hub.boot.coldN = false ∧ s.hub.inTurn (.coldResetRelease low) = true :=
  ⟨(world fun h => { h with boot := { h.boot with coldN := false, island := false } }), true, by decide +kernel⟩

theorem wit_ResetHoldsTheHub_6 :
    ∃ (s : State) (low : Bool), s.hub.boot.coldN = true ∧ s.hub.inTurn (.coldResetRelease low) = true :=
  ⟨(world fun h => { h with boot := { h.boot with island := true } }), true, by decide +kernel⟩

theorem wit_ResetHoldsTheHub_7 :
    ∃ (s : State), s.hub.boot.island = true ∧ s.hub.inTurn .islandSupplyLoss = true :=
  ⟨(world fun h => { h with boot := { h.boot with island := true } }), by decide +kernel⟩

theorem wit_ResetHoldsTheHub_8 :
    ∃ (s : State), s.hub.boot.island = false ∧ s.hub.inTurn .islandSupplyLoss = true :=
  ⟨(world fun h => { h with boot := { h.boot with coldN := false, island := false } }), by decide +kernel⟩

theorem wit_StepKeepsMemory_0 :
    ∃ (s : State) (t : State), step s = .next t ∧ s.mem.wf = true :=
  ⟨(world fun h => h), (hubCycle (world fun h => h)), by exact ⟨rfl, by decide +kernel⟩⟩

theorem wit_ChainArrivals_0 :
    ∃ (s : State) (st : _), s.hub.live = true ∧ s.hub.clk.started = true ∧ s.hub.observed st = true ∧ s.hub.inTurn (.epochAck st s.hub.clk.epoch) = true :=
  ⟨(world fun h => h), 1183, by decide +kernel⟩

theorem wit_ChainArrivals_1 :
    ∃ (s : State) (r : _), s.hub.live = true ∧ r < 32 ∧ bit s.hub.chain.ringBad r = false ∧ s.hub.chain.ringLate.contains r = false ∧ s.hub.clk.started = true ∧ 256 ≤ s.hub.clk.epochCycle ∧ s.hub.inTurn (.ringMarkerTimeout r) = true :=
  ⟨(world fun h => { h with clk := { h.clk with epochCycle := 256 } }), 31, by decide +kernel⟩

theorem wit_ChainArrivals_2 :
    ∃ (s : State) (st : _), s.hub.live = true ∧ s.hub.observed st = true ∧ s.hub.inTurn (.chainFlitCrcError st) = true :=
  ⟨(world fun h => h), 0, by decide +kernel⟩

theorem wit_ChainArrivals_3 :
    ∃ (s : State) (st : _), s.hub.live = true ∧ s.hub.observed st = true ∧ (∀ r ∈ s.hub.chain.req2, r.station ≠ st) ∧ s.hub.inTurn (.class2RetryTimeout st) = true :=
  ⟨(world fun h => h), 1183, by decide +kernel⟩

theorem wit_ChainArrivals_4 :
    ∃ (s : State) (st : Nat) (n : Nat) (a : List Req2) (q : List Req2), s.hub.live = true ∧ s.hub.observed st = true ∧ s.hub.chain.req2 = a ++ ⟨st, n⟩ :: q ∧ (∀ r ∈ a, r.station ≠ st) ∧ s.hub.inTurn (.class2RetryTimeout st) = true :=
  ⟨(world fun h => { h with chain := { req2 := [⟨5, 2⟩, ⟨1183, 3⟩, ⟨7, 1⟩] } }), 1183, 3, [⟨5, 2⟩], [⟨7, 1⟩], by decide +kernel⟩

theorem wit_CommitProgress_0 :
    ∃ (s : State) (c : Commit) (q : _), s.hub.live = true ∧ s.hub.chain.cur = none ∧ s.hub.chain.queue = c :: q ∧ c.effective = none ∧ c.toAck = [] ∧ c.owner ≠ .slices ∧ s.hub.commitCheck c.scope c.target = stOk ∧ s.hub.commitStations c ≠ [] ∧ s.hub.inTurn .commitBegin = true :=
  ⟨(world fun h => { h with chain := { queue := [{ owner := .master .host, scope := 2, target := 1183 }] } }), { owner := .master .host, scope := 2, target := 1183 }, [], by decide +kernel⟩

theorem wit_CommitProgress_1 :
    ∃ (s : State) (c : Commit) (st : _), s.hub.live = true ∧ s.hub.chain.cur = some c ∧ c.toSnap.contains st = true ∧ s.hub.observed st = true ∧ s.hub.inTurn (.snapshotFlit st) = true :=
  ⟨(world fun h => { h with chain := { cur := some { owner := .master .host, scope := 2, target := 1183, toSnap := [1183] } } }), { owner := .master .host, scope := 2, target := 1183, toSnap := [1183] }, 1183, by decide +kernel⟩

theorem wit_CommitProgress_2 :
    ∃ (s : State) (c : Commit) (st : _) (m : _), s.hub.live = true ∧ s.hub.chain.cur = some c ∧ c.toAck = [st] ∧ c.toSnap = [] ∧ c.effective = none ∧ c.excluded = [] ∧ c.scope = 2 ∧ c.owner = .master m ∧ m ≠ .loader ∧ s.hub.clk.cycle < c.issued + 4096 ∧ s.hub.clk.epochCycle < 3840 ∧ s.hub.inTurn (.snapshotAck st) = true :=
  ⟨(world fun h => { h with chain := { cur := some { owner := .master .host, scope := 2, target := 0, toAck := [0], issued := 10000000000 - 4095 } }, clk := { h.clk with epochCycle := 3839 } }), { owner := .master .host, scope := 2, target := 0, toAck := [0], issued := 10000000000 - 4095 }, 0, .host, by decide +kernel⟩

theorem wit_CommitProgress_3 :
    ∃ (s : State) (c : Commit) (st : _), s.hub.live = true ∧ s.hub.chain.cur = some c ∧ c.toSnap = [] ∧ c.toAck.contains st = true ∧ (c.toAck.filter (· != st)) ≠ [] ∧ c.issued + 4096 ≤ s.hub.clk.cycle ∧ s.hub.inTurn (.snapshotTimeout st) = true :=
  ⟨(world fun h => { h with chain := { cur := some { owner := .master .host, scope := 0, target := 0, toAck := [0, 1], issued := 10000000000 - 4096 } } }), { owner := .master .host, scope := 0, target := 0, toAck := [0, 1], issued := 10000000000 - 4096 }, 0, by decide +kernel⟩

theorem wit_CommitProgress_4 :
    ∃ (s : State), s.hub.live = true ∧ s.hub.clk.started = true ∧ s.hub.slc.moves ≠ [] ∧ s.hub.slc.ordersEpoch ≠ s.hub.clk.epoch + 1 ∧ s.hub.inTurn .moveOrderIssue = true :=
  ⟨(world fun h => { h with slc := { moves := [(9464, 63)] } }), by decide +kernel⟩

theorem wit_RecordBuilds_0 :
    ∃ (s : State) (r : Req) (q : List Req), s.hub.live = true ∧ s.hub.er.builds.length < 4 ∧ s.hub.er.sysq = r :: q ∧ s.hub.inTurn .erBuildStart = true :=
  ⟨(world fun h => { h with er := { builds := [default, default, default], sysq := [{ cls := 4, code := 0x0401 }] } }), { cls := 4, code := 0x0401 }, [], by decide +kernel⟩

theorem wit_RecordBuilds_1 :
    ∃ (s : State) (r : Req) (q : List Req), s.hub.live = true ∧ s.hub.er.builds.length < 4 ∧ s.hub.er.sysq = [] ∧ s.hub.er.fifo = r :: q ∧ s.hub.inTurn .erBuildStart = true :=
  ⟨(world fun h => { h with er := { fifo := [{ cls := 1, trigger := some (7, 1183) }] } }), { cls := 1, trigger := some (7, 1183) }, [], by decide +kernel⟩

theorem wit_RecordBuilds_2 :
    ∃ (s : State) (b : Build) (q : List Build), s.hub.live = true ∧ s.hub.er.builds = b :: q ∧ b.stnPending = true ∧ s.hub.inTurn .erStationCopy = true :=
  ⟨(world fun h => { h with er := { builds := [⟨{}, 0, [], true, false, false⟩] } }), ⟨{}, 0, [], true, false, false⟩, [], by decide +kernel⟩

theorem wit_RecordBuilds_3 :
    ∃ (s : State) (b : Build) (q : List Build), s.hub.live = true ∧ s.hub.er.builds = b :: q ∧ b.stnPending = true ∧ b.start + 8192 ≤ s.hub.clk.cycle ∧ s.hub.inTurn .erStationCopyTimeout = true :=
  ⟨(world fun h => { h with er := { builds := [⟨{}, 10000000000 - 8192, [], true, false, false⟩] } }), ⟨{}, 10000000000 - 8192, [], true, false, false⟩, [], by decide +kernel⟩

theorem wit_RecordCommit_0 :
    ∃ (s : State) (b : Build) (q : List Build), s.hub.live = true ∧ s.hub.er.nextCommit ≤ s.hub.clk.cycle ∧ s.hub.er.clockSet = [] ∧ s.hub.er.builds = b :: q ∧ b.stnPending = false ∧ b.req.gap = false ∧ b.req.image = [] ∧ b.req.cls ≠ 8 ∧ s.hub.inTurn .erRecordCommit = true :=
  ⟨(world fun h => { h with er := { builds := [⟨{ cls := 4, code := 0x0401 }, 0, [], false, false, false⟩], nextCommit := 10000000000 } }), ⟨{ cls := 4, code := 0x0401 }, 0, [], false, false, false⟩, [], by decide +kernel⟩

theorem wit_RecordCommit_1 :
    ∃ (s : State) (b : Build) (q : List Build), s.hub.live = true ∧ s.hub.er.nextCommit ≤ s.hub.clk.cycle ∧ s.hub.er.clockSet = [] ∧ s.hub.er.builds = b :: q ∧ b.stnPending = false ∧ b.req.gap = false ∧ b.req.image = [] ∧ b.req.cls = 8 ∧ s.hub.inTurn .erRecordCommit = true :=
  ⟨(world fun h => { h with er := { h.er with builds := [⟨{ cls := 8, code := 0x0801, words := [7] }, 0, [1], false, false, false⟩], acount := 511, link := [3], nextCommit := 10000000000 } }), ⟨{ cls := 8, code := 0x0801, words := [7] }, 0, [1], false, false, false⟩, [], by decide +kernel⟩

theorem wit_RecordCommit_2 :
    ∃ (s : State) (r : Req) (q : List Req), s.hub.live = true ∧ s.hub.er.nextCommit ≤ s.hub.clk.cycle ∧ s.hub.er.clockSet = r :: q ∧ s.hub.cal.setCyc ≠ s.hub.clk.cycle + 1 ∧ r.cls = 8 ∧ r.code = 0x0804 ∧ r.gap = false ∧ r.image = [] ∧ s.hub.inTurn .erRecordCommit = true :=
  ⟨(world fun h => { h with er := { h.er with clockSet := [{ cls := 8, code := 0x0804, words := [7, 8, 65537] }], builds := [default] } }), { cls := 8, code := 0x0804, words := [7, 8, 65537] }, [], by decide +kernel⟩

theorem wit_RecorderQueues_0 :
    ∃ (s : State), s.hub.live = true ∧ s.hub.er.lost.any = true ∧ s.hub.er.fifo.length < 64 ∧ s.hub.inTurn .lostRecordEnqueue = true :=
  ⟨(world fun h => { h with er := { lost := { any := true, all := 1 }, fifo := List.replicate 63 {} } }), by decide +kernel⟩

theorem wit_RecorderQueues_1 :
    ∃ (s : State), s.hub.live = true ∧ s.hub.er.gap.pending = true ∧ s.hub.er.gap.queued = false ∧ s.hub.er.auditLoad < 511 ∧ s.hub.er.sysq.length < 32 ∧ s.hub.inTurn .auditGapEnqueue = true :=
  ⟨(world fun h => { h with er := { gap := { pending := true, count := 1 }, acount := 510, chainStarted := true } }), by decide +kernel⟩

theorem wit_RecorderQueues_2 :
    ∃ (s : State), s.hub.live = true ∧ s.hub.nocUp = true ∧ s.hub.boot.tunHeader = true ∧ s.hub.er.spilling = none ∧ s.hub.er.spillWr - s.hub.er.spillRd < 1024 ∧ s.hub.er.spillFirst < s.hub.er.acount ∧ (63 ≤ s.hub.er.acount - s.hub.er.spillFirst ∨ leAt (s.hub.slotNow (7680 + s.hub.er.spillFirst % 512)) 0x10 8 + 100000000 ≤ s.hub.now) ∧ s.hub.inTurn .auditSpillStart = true :=
  ⟨(world fun h => { h with er := { acount := 63, spillWr := 1023 } }), by decide +kernel⟩

theorem wit_RecorderQueues_3 :
    ∃ (s : State) (n : _) (tick : _), s.hub.live = true ∧ s.hub.nocUp = true ∧ s.hub.er.spilling = some (n, tick) ∧ s.hub.inTurn .auditSpillDone = true :=
  ⟨(world fun h => { h with er := { acount := 63, spilling := some (63, 9999999999) } }), 63, 9999999999, by decide +kernel⟩

theorem wit_GrainCounts_0 :
    ∃ (s : State) (u : Nat) (k : Nat) (n : Nat), s.hub.live = true ∧ unitOk u = true ∧ k < 8 ∧ s.hub.boot.units = true ∧ (¬ (cycleCounter (unitClass u) k = true ∧ (s.hub.asleep u = true ∨ (s.hub.getGate u).st ≠ .run))) ∧ s.hub.inTurn (.grainIncrement u k n) = true :=
  ⟨(world fun h => h), 9464, 7, 1, by decide +kernel⟩

theorem wit_GrainCounts_1 :
    ∃ (s : State) (u : Nat) (k : Nat) (n : Nat), s.hub.live = true ∧ unitOk u = true ∧ k < 8 ∧ s.hub.boot.units = true ∧ cycleCounter (unitClass u) k = true ∧ (s.hub.asleep u = true ∨ (s.hub.getGate u).st ≠ .run) ∧ s.hub.inTurn (.grainIncrement u k n) = true :=
  ⟨(world fun h => { h with gated := 1, stn := [(0, { clkGated := 0xFF })] }), 7, 0, 1, by decide +kernel⟩

theorem wit_Samples_0 :
    ∃ (s : State), s.hub.live = true ∧ s.hub.cntOn = true ∧ s.hub.clk.started = true ∧ s.hub.cnt.next ≤ s.hub.now ∧ s.hub.cnt.cur = none ∧ s.hub.nocUp = true ∧ s.hub.inTurn .sampleTick = true :=
  ⟨(world fun h => { h with rws := [(0x70000, rg 0x80000014)], cnt := { next := 10000000000 } }), by decide +kernel⟩

theorem wit_Samples_1 :
    ∃ (s : State), s.hub.live = true ∧ s.hub.cntOn = true ∧ s.hub.clk.started = true ∧ s.hub.cnt.next ≤ s.hub.now ∧ (s.hub.cnt.cur ≠ none ∨ s.hub.nocUp = false) ∧ s.hub.inTurn .sampleTick = true :=
  ⟨(world fun h => { h with rws := [(0x70000, rg 0x80000014)], cnt := { next := 10000000000, cur := some (9999999999, [1183]) } }), by decide +kernel⟩

theorem wit_Samples_2 :
    ∃ (s : State) (st : Nat) (x : Nat) (l : List Nat), s.hub.live = true ∧ s.hub.cnt.cur = some (x, l) ∧ l.contains st = true ∧ l.filter (· != st) ≠ [] ∧ s.hub.inTurn (.sampleCaptureArrive st) = true :=
  ⟨(world fun h => { h with cnt := { cur := some (9999999999, [0, 1183]) } }), 0, 9999999999, [0, 1183], by decide +kernel⟩

theorem wit_Samples_3 :
    ∃ (s : State) (st : Nat) (x : Nat) (l : List Nat), s.hub.live = true ∧ s.hub.cnt.cur = some (x, l) ∧ l.contains st = true ∧ l.filter (· != st) = [] ∧ s.hub.cnt.seals = [] ∧ (∀ k ∈ s.hub.cnt.owners, (SMap.get ({} : Ring) s.hub.cnt.ring k).on = false) ∧ s.hub.inTurn (.sampleCaptureArrive st) = true :=
  ⟨(world fun h => { h with cnt := { cur := some (9999999999, [1183]), ring := [(5, { on := true })] } }), 1183, 9999999999, [1183], by decide +kernel⟩

theorem wit_Samples_4 :
    ∃ (s : State) (st : Nat) (x : Nat) (l : List Nat) (k : _) (recs : _) (len : _), s.hub.live = true ∧ s.hub.cnt.cur = some (x, l) ∧ l.contains st = true ∧ l.filter (· != st) = [] ∧ s.hub.cnt.seals = [] ∧ s.hub.cnt.owners = [k] ∧ recs = s.hub.cnt.recs.filter (·.slice == k) ∧ (∀ r ∈ recs, r.joined = 0) ∧ len = 40 + 64 * recs.length ∧ takesFrame s.hub k len ∧ s.hub.inTurn (.sampleCaptureArrive st) = true :=
  ⟨(world fun h => { h with cnt := { cur := some (9999999999, [1183]), owners := [63], recs := [⟨9464, 63, 4096, 0, 0, 0, none, [0, 0, 0, 0, 0, 0, 0, 0], 0⟩], ring := [(63, { on := true, base := 0x10000000, size := 65536, rd := 65408, wr := 65472 })] } }), 1183, 9999999999, [1183], 63, [⟨9464, 63, 4096, 0, 0, 0, none, [0, 0, 0, 0, 0, 0, 0, 0], 0⟩], 104, by decide +kernel, by decide +kernel, by decide +kernel, by decide +kernel, by decide +kernel, by decide +kernel, by decide +kernel, by decide +kernel, by decide +kernel, by unfold takesFrame; decide +kernel, by decide +kernel⟩

theorem wit_Samples_5 :
    ∃ (s : State) (x : Seal) (q : List Seal), s.hub.live = true ∧ s.hub.cnt.seals = x :: q ∧ takesFrame s.hub x.slice (sealLen x) ∧ s.hub.inTurn (.sealFrameWrite x.slice) = true :=
  ⟨(world fun h => { h with cnt := { seals := [⟨63, 4096, [1], 7, []⟩, default], ring := [(63, { on := true, base := 0x10000000, size := 65536, wr := 65472 })] } }), ⟨63, 4096, [1], 7, []⟩, [default], by decide +kernel, by decide +kernel, by unfold takesFrame; decide +kernel, by decide +kernel⟩

theorem wit_Samples_6 :
    ∃ (s : State) (x : Seal) (q : List Seal), s.hub.live = true ∧ s.hub.cnt.seals = x :: q ∧ (SMap.get ({} : Ring) s.hub.cnt.ring x.slice).on = false ∧ s.hub.inTurn (.sealFrameWrite x.slice) = true :=
  ⟨(world fun h => { h with cnt := { seals := [⟨63, 4096, [], 0, []⟩] } }), ⟨63, 4096, [], 0, []⟩, [], by decide +kernel⟩

theorem wit_Samples_7 :
    ∃ (s : State) (x : Seal) (q : List Seal), s.hub.live = true ∧ s.hub.cnt.seals = x :: q ∧ x.b + 4095 ≤ s.hub.now ∧ s.hub.inTurn (.sealFrameTimeout x.slice) = true :=
  ⟨(world fun h => { h with cnt := { seals := [⟨63, 10000000000 - 4095, [], 0, []⟩] } }), ⟨63, 10000000000 - 4095, [], 0, []⟩, [], by decide +kernel⟩

theorem wit_Attribution_0 :
    ∃ (s : State) (c : Charge) (q : List Charge), s.hub.live = true ∧ s.hub.cnt.flits = c :: q ∧ (SMap.get {} s.hub.cnt.att (attKey c.context c.tag)).bad = false ∧ (SMap.get {} s.hub.cnt.att (attKey c.context c.tag) ≠ {} ∨ (s.hub.cnt.att.length < 262144 ∧ s.hub.attUsed c.slice < s.hub.attQuota c.slice)) ∧ s.hub.inTurn .attributionUpdate = true :=
  ⟨(world fun h => { h with cnt := { flits := [⟨0, 1, 2, 0, [1, 1, 1, 1, 1, 1]⟩], att := [(attKey 1 2, { f := [1, 0, 0, 0, 0, 0] })] } }), ⟨0, 1, 2, 0, [1, 1, 1, 1, 1, 1]⟩, [], by decide +kernel⟩

theorem wit_Attribution_1 :
    ∃ (s : State) (c : Charge) (q : List Charge), s.hub.live = true ∧ s.hub.cnt.flits = c :: q ∧ ((SMap.get {} s.hub.cnt.att (attKey c.context c.tag)).bad = true ∨ (SMap.get {} s.hub.cnt.att (attKey c.context c.tag) = {} ∧ (262144 ≤ s.hub.cnt.att.length ∨ s.hub.attQuota c.slice ≤ s.hub.attUsed c.slice))) ∧ s.hub.inTurn .attributionUpdate = true :=
  ⟨(world fun h => { h with rws := [(0x72100, rg 0)], cnt := { flits := [⟨0, 1, 2, 0, [1, 1, 1, 1, 1, 1]⟩] } }), ⟨0, 1, 2, 0, [1, 1, 1, 1, 1, 1]⟩, [], by decide +kernel⟩

theorem wit_Attribution_2 :
    ∃ (s : State), s.hub.live = true ∧ bit (s.hub.act 0x3E8 0x72000) 31 = true ∧ s.hub.clk.started = true ∧ s.hub.cnt.attNext ≤ s.hub.now ∧ s.hub.cnt.att.any (·.2.changed) = false ∧ (∀ k, (SMap.get {} s.hub.cnt.bucket k).changed = false) ∧ s.hub.inTurn .attributionExportTick = true :=
  ⟨(world fun h => { h with rws := [(0x72000, rg 0x800003E8)], cnt := { attNext := 10000000000 } }), by decide +kernel, by decide +kernel, by decide +kernel, by decide +kernel, by decide +kernel, fun _ => rfl, by decide +kernel⟩

theorem wit_Attribution_3 :
    ∃ (s : State) (k : Nat) (es : List (Nat × AttEntry)), s.hub.live = true ∧ bit (s.hub.act 0x3E8 0x72000) 31 = true ∧ s.hub.clk.started = true ∧ s.hub.cnt.attNext ≤ s.hub.now ∧ k < 64 ∧ es = s.hub.cnt.att.filter (·.2.changed) ∧ es ≠ [] ∧ es.length ≤ 4096 ∧ (∀ e ∈ es, e.2.slice = k) ∧ (∀ j, (SMap.get {} s.hub.cnt.bucket j).changed = false) ∧ takesFrame s.hub k (40 + 48 * es.length) ∧ s.hub.inTurn .attributionExportTick = true :=
  ⟨(world fun h => { h with rws := [(0x72000, rg 0x800003E8)], cnt := { att := [(attKey 5 1, { slice := 63, f := [1, 2, 3, 4, 5, 6], changed := true })], ring := [(63, { on := true, base := 0x10000000, size := 65536, rd := 65408, wr := 65472 })], attNext := 10000000000 } }), 63, [(attKey 5 1, { slice := 63, f := [1, 2, 3, 4, 5, 6], changed := true })], by decide +kernel, by decide +kernel, by decide +kernel, by decide +kernel, by decide +kernel, by decide +kernel, by decide +kernel, by decide +kernel, by decide +kernel, fun _ => rfl, by unfold takesFrame; decide +kernel, by decide +kernel⟩

theorem wit_Attribution_4 :
    ∃ (s : State) (c : _), s.hub.live = true ∧ (s.hub.getCtx c).finals = true ∧ s.hub.cnt.att.any (fun e => e.1 / 2 ^ 32 == c) = false ∧ s.hub.inTurn (.attributionFinalRecords c) = true :=
  ⟨(world fun h => { h with ctx := [(262143, { finals := true })] }), 262143, by decide +kernel⟩

theorem wit_Attribution_5 :
    ∃ (s : State) (c : _) (k : Nat) (es : List (Nat × AttEntry)), s.hub.live = true ∧ (s.hub.getCtx c).finals = true ∧ k = (s.hub.getCtx c).slice ∧ k < 64 ∧ es = s.hub.cnt.att.filter (fun e => e.1 / 2 ^ 32 == c) ∧ es ≠ [] ∧ es.length ≤ 4096 ∧ takesFrame s.hub k (40 + 48 * es.length) ∧ s.hub.inTurn (.attributionFinalRecords c) = true :=
  ⟨(world fun h => { h with ctx := [(5, { finals := true, slice := 63 })], cnt := { att := [(attKey 5 1, { slice := 63, f := [1, 2, 3, 4, 5, 6], changed := true }), (attKey 6 0, {})], ring := [(63, { on := true, base := 0x10000000, size := 65536, rd := 65408, wr := 65472 })] } }), 5, 63, [(attKey 5 1, { slice := 63, f := [1, 2, 3, 4, 5, 6], changed := true })], by decide +kernel, by decide +kernel, by decide +kernel, by decide +kernel, by decide +kernel, by decide +kernel, by decide +kernel, by unfold takesFrame; decide +kernel, by decide +kernel⟩

theorem wit_PeckDrain_0 :
    ∃ (s : State) (st : Nat) (a : List Block) (q : List Block) (b : Block), s.hub.live = true ∧ s.hub.drains st = true ∧ (s.hub.getStn st).peck.blocks = a ++ b :: q ∧ a.all (·.requested) = true ∧ b.requested = false ∧ ((a ++ b :: q).filter (·.requested)).length < 4 ∧ s.hub.inTurn (.drainReserveRequest st) = true :=
  ⟨(world fun h => { h with stn := [(1183, { tbOn := true, peck := { blocks := [{ station := 1183, slice := 1, seq := 0, len := 128, packets := 1, partition := 0, rsv := false, flush := false, body := List.replicate 80 0, requested := true }, { station := 1183, slice := 1, seq := 0, len := 128, packets := 1, partition := 0, rsv := false, flush := false, body := List.replicate 80 0 }] } })] }), 1183, [{ station := 1183, slice := 1, seq := 0, len := 128, packets := 1, partition := 0, rsv := false, flush := false, body := List.replicate 80 0, requested := true }], [], { station := 1183, slice := 1, seq := 0, len := 128, packets := 1, partition := 0, rsv := false, flush := false, body := List.replicate 80 0 }, by decide +kernel⟩

theorem wit_PeckDrain_1 :
    ∃ (s : State) (st : Nat) (q : Nat × Bool) (i : Held) (l : List Held), s.hub.live = true ∧ s.hub.drains st = true ∧ (s.hub.getStn st).peck.stalled = [] ∧ ((s.hub.drainOrder st).find? fun x => decide ((if x.1 = 4 then (s.hub.getStn st).peck.rsvStore else (SMap.get {} (s.hub.getStn st).peck.part x.1).lastStore) + 4096 ≤ s.hub.stnTick st)) = some q ∧ s.hub.drainable st q = i :: l ∧ (SMap.get ({} : Ring) s.hub.trc.ring i.slice).on = true ∧ s.hub.inTurn (.drainBlockTimeout st) = true :=
  ⟨(world fun h => { h with stn := [(1183, { tbOn := true, peck := { part := [(0, { pkts := [{ slice := 0, src := 0, tick := 5, bytes := [1, 2, 3, 4] }], lastStore := 10000000000 - 4096 })] } })], trc := { ring := [(0, { on := true, base := 0x10000000, size := 65536 })] } }), 1183, (0, false), (Pkt.held { slice := 0, src := 0, tick := 5, bytes := [1, 2, 3, 4] }), [], by decide +kernel⟩

theorem wit_PeckDrain_2 :
    ∃ (s : State) (st : Nat) (a : List Block) (q : List Block) (b : Block), s.hub.live = true ∧ s.hub.nocUp = true ∧ (s.hub.getStn st).peck.blocks = a ++ b :: q ∧ (∀ x ∈ a, (x.granted && (x.slice == 0 || x.sealed_)) = false) ∧ (b.granted && (b.slice == 0 || b.sealed_)) = true ∧ s.hub.inTurn (.drainBlockWritten st) = true :=
  ⟨(world fun h => { h with stn := [(1183, { tbOn := true, peck := { blocks := [{ station := 1183, slice := 1, seq := 0, len := 128, packets := 1, partition := 0, rsv := false, flush := false, body := List.replicate 80 0, granted := true, sealed_ := true }] } })] }), 1183, [], [], { station := 1183, slice := 1, seq := 0, len := 128, packets := 1, partition := 0, rsv := false, flush := false, body := List.replicate 80 0, granted := true, sealed_ := true }, by decide +kernel⟩

theorem wit_PeckDrain_3 :
    ∃ (s : State) (st : Nat) (r : Nat) (k : Nat) (g : List Pkt) (f : List Pkt) (i : Pkt), s.hub.live = true ∧ (s.hub.getStn st).peck.stalled = [] ∧ (s.hub.getStn st).peck.blocks = [] ∧ (s.hub.getStn st).peck.rsv = [] ∧ (s.hub.getStn st).peck.flushB + 4095 ≤ s.hub.stnTick st ∧ r < 4 ∧ k < 4 ∧ (SMap.get {} (s.hub.getStn st).peck.part r).pkts = i :: f ++ g ∧ (∀ x ∈ i :: f, x.flush = 1 ∧ x.src = k) ∧ (∀ x ∈ g, x.flush ≠ 1) ∧ (SMap.wf {} (s.hub.getStn st).peck.part = true) ∧ (∀ y, y < 4 → y ≠ r → ∀ x ∈ (SMap.get ({} : Part) (s.hub.getStn st).peck.part y).pkts, x.flush ≠ 1) ∧ (∀ y, 4 ≤ y → SMap.get {} (s.hub.getStn st).peck.part y = {}) ∧ s.hub.inTurn (.rebindFlushExpiry st) = true :=
  ⟨(world fun h => { h with stn := [(1183, { tbOn := true, peck := { flushB := 10000000000 - 4095, part := [(3, { pkts := [{ slice := 0, src := 2, tick := 5, bytes := [1, 2, 3, 4], flush := 1 }, { slice := 1, src := 2, tick := 5, bytes := [1, 2, 3, 4] }] })] } })] }), 1183, 3, 2, [{ slice := 1, src := 2, tick := 5, bytes := [1, 2, 3, 4] }], [], { slice := 0, src := 2, tick := 5, bytes := [1, 2, 3, 4], flush := 1 }, by decide +kernel, by decide +kernel, by decide +kernel, by decide +kernel, by decide +kernel, by decide +kernel, by decide +kernel, by decide +kernel, by decide +kernel, by decide +kernel, by decide +kernel, by decide +kernel, by intro y hy; obtain ⟨z, rfl⟩ : ∃ z, y = z + 4 := ⟨y - 4, by omega⟩; rfl, by decide +kernel⟩

theorem wit_DrainGrants_0 :
    ∃ (s : State), s.hub.live = true ∧ s.hub.inTurn .drainGrant = true :=
  ⟨(world fun h => h), by decide +kernel⟩

theorem wit_DrainGrants_1 :
    ∃ (s : State) (st : Nat) (n : Nat) (b : Block), s.hub.live = true ∧ s.hub.nocUp = true ∧ s.hub.trc.queue = [(st, n)] ∧ s.hub.reqBlock (st, n) = some b ∧ b.flush = false ∧ (SMap.get ({} : Ring) s.hub.trc.ring b.slice).on = true ∧ (SMap.get ({} : Ring) s.hub.trc.ring b.slice).fits b.len = true ∧ b.len ≤ s.hub.trc.tokens ∧ s.hub.inTurn .drainGrant = true :=
  ⟨(world fun h => { h with stn := [(1183, { peck := { blocks := [{ station := 1183, slice := 1, seq := 0, len := 128, packets := 1, partition := 0, rsv := false, flush := false, body := List.replicate 80 0, requested := true }] } })], trc := { queue := [(1183, 0)], tokens := 128, ring := [(1, { on := true, base := 0x10000000, size := 128 })] } }), 1183, 0, { station := 1183, slice := 1, seq := 0, len := 128, packets := 1, partition := 0, rsv := false, flush := false, body := List.replicate 80 0, requested := true }, by decide +kernel⟩

theorem wit_DrainGrants_2 :
    ∃ (s : State) (st : Nat) (n : Nat) (b : Block), s.hub.live = true ∧ s.hub.nocUp = true ∧ s.hub.trc.queue = [(st, n)] ∧ s.hub.reqBlock (st, n) = some b ∧ b.flush = false ∧ 0 < b.packets ∧ (SMap.get ({} : Ring) s.hub.trc.ring b.slice).on = false ∧ s.hub.inTurn .drainGrant = true :=
  ⟨(world fun h => { h with stn := [(1183, { peck := { blocks := [{ station := 1183, slice := 1, seq := 0, len := 128, packets := 1, partition := 0, rsv := false, flush := false, body := List.replicate 80 0, requested := true }] } })], trc := { queue := [(1183, 0)] } }), 1183, 0, { station := 1183, slice := 1, seq := 0, len := 128, packets := 1, partition := 0, rsv := false, flush := false, body := List.replicate 80 0, requested := true }, by decide +kernel⟩

theorem wit_DrainGrants_3 :
    ∃ (s : State) (st : Nat) (i : Nat) (b : Block) (x : Stn), s.hub.live = true ∧ s.hub.sealsDump = false ∧ s.hub.stn.find? (fun y => y.2.peck.blocks.any fun b => b.granted && b.slice != 0 && !b.sealed_) = some (st, x) ∧ s.hub.getStn st = x ∧ firstIdx (fun b => b.granted && b.slice != 0 && !b.sealed_) x.peck.blocks = some i ∧ x.peck.blocks.getD i default = b ∧ s.hub.inTurn .blockSeal = true :=
  ⟨(world fun h => { h with stn := [(1183, { peck := { blocks := [{ station := 1183, slice := 1, seq := 0, len := 128, packets := 1, partition := 0, rsv := false, flush := false, body := List.replicate 80 0, granted := true }] } })] }), 1183, 0, { station := 1183, slice := 1, seq := 0, len := 128, packets := 1, partition := 0, rsv := false, flush := false, body := List.replicate 80 0, granted := true }, { peck := { blocks := [{ station := 1183, slice := 1, seq := 0, len := 128, packets := 1, partition := 0, rsv := false, flush := false, body := List.replicate 80 0, granted := true }] } }, by decide +kernel⟩

theorem wit_TracedOperations_0 :
    ∃ (s : State) (u : Nat) (r : Rmo), s.hub.live = true ∧ s.hub.inTurn (.channelRequest u r) = true :=
  ⟨(world fun h => h), 8569, (rmo .get 2), by decide +kernel⟩

theorem wit_TracedOperations_1 :
    ∃ (s : State) (u : Nat) (r : Rmo), s.hub.live = true ∧ s.hub.inTurn (.rmoArrive u r) = true :=
  ⟨(world fun h => h), 7, (rmo .get 2), by decide +kernel⟩

theorem wit_TracedOperations_2 :
    ∃ (s : State) (r : Rmo) (e : _), s.hub.live = true ∧ (unitClass r.issuer = 3 → (s.hub.getGrain r.issuer).cmd = none) ∧ s.hub.inTurn (.rmoIssue r e) = true :=
  ⟨(world fun h => h), (rmo .get 2), default, by decide +kernel⟩

theorem wit_TracedOperations_3 :
    ∃ (s : State) (u : Nat) (r : Rmo), s.hub.live = true ∧ r.op = .get ∧ unitClass u = 4 ∧ plainTrace s.hub (s.hub.rmoEv 6 u r (Nat.min 65535 r.waited)) ∧ hasRoom s.hub (s.hub.rmoEv 6 u r (Nat.min 65535 r.waited)) (rmoPk r (Nat.min 65535 r.waited)) ∧ s.hub.inTurn (.channelRequest u r) = true :=
  ⟨(world fun h => traced 8569 6 h), 8569, (rmo .get 2), by unfold plainTrace hasRoom; and_intros <;> first | decide +kernel | (rintro k (rfl | rfl | rfl) <;> decide +kernel)⟩

theorem wit_TracedOperations_4 :
    ∃ (s : State) (u : Nat) (r : Rmo), s.hub.live = true ∧ r.op = .put ∧ unitClass u = 4 ∧ plainTrace s.hub (s.hub.rmoEv 6 u r (Nat.min 65535 r.waited)) ∧ hasRoom s.hub (s.hub.rmoEv 6 u r (Nat.min 65535 r.waited)) (rmoPk r (Nat.min 65535 r.waited)) ∧ s.hub.inTurn (.channelRequest u r) = true :=
  ⟨(world fun h => traced 8569 6 h), 8569, (rmo .put 2), by unfold plainTrace hasRoom; and_intros <;> first | decide +kernel | (rintro k (rfl | rfl | rfl) <;> decide +kernel)⟩

theorem wit_TracedOperations_5 :
    ∃ (s : State) (u : Nat) (r : Rmo), s.hub.live = true ∧ isTileUnit u = true ∧ (plainTrace s.hub { s.hub.rmoEv 3 u r 0 with arr := some r.addr }) ∧ (hasRoom s.hub { s.hub.rmoEv 3 u r 0 with arr := some r.addr } (rmoPk r 0)) ∧ s.hub.inTurn (.rmoArrive u r) = true :=
  ⟨(world fun h => traced 7 3 h), 7, (rmo .atomic 2), by unfold plainTrace hasRoom; and_intros <;> first | decide +kernel | (rintro k (rfl | rfl | rfl) <;> decide +kernel)⟩

theorem wit_TracedOperations_6 :
    ∃ (s : State) (u : Nat) (r : Rmo), s.hub.live = true ∧ r.issuer = u ∧ isTileUnit u = true ∧ unitClass u < 2 ∧ (plainTrace s.hub { s.hub.rmoEv 2 u r 0 with addr := some r.addr }) ∧ (hasRoom s.hub { s.hub.rmoEv 2 u r 0 with addr := some r.addr } (rmoPk r 0)) ∧ s.hub.inTurn (.rmoIssue r none) = true :=
  ⟨(world fun h => traced 8184 2 h), 8184, (rmo .get 8184), by unfold plainTrace hasRoom; and_intros <;> first | decide +kernel | (rintro k (rfl | rfl | rfl) <;> decide +kernel)⟩

theorem wit_TracedOperations_7 :
    ∃ (s : State) (u : Nat) (r : Rmo) (e : _), s.hub.live = true ∧ r.issuer = u ∧ s.hub.unitRuns u = true ∧ unitClass u < 2 ∧ edgeAllowed u e = true ∧ (∀ k, k < 4 → (s.hub.getSrc (unitStn u) k).st = .off) ∧ (∀ c, c < 4 → bit (s.hub.pact (unitStn u) 0x4 (0x4A0 + 4 * c)) 31 = false) ∧ (∀ k, k < 2 → bit (s.hub.pact (unitStn u) 0 (0x460 + 32 * k)) 31 = false) ∧ s.hub.inTurn (.rmoIssue r (some e)) = true :=
  ⟨(world fun h => h), 1, (rmo .get 1), ⟨2, 0, 0, 1, 0, 64⟩, by decide +kernel⟩

theorem wit_ProgramFlow_0 :
    ∃ (s : State) (u : Nat) (kind : Nat) (addr : Nat) (target : Nat) (taken : Bool) (mode : Nat) (after : Nat) (cause : Nat), s.hub.live = true ∧ s.hub.inTurn (.programFlowEvent u kind addr target taken mode after cause) = true :=
  ⟨(world fun h => h), 2, 0, 0, 0, true, 0, 0, 0, by decide +kernel⟩

theorem wit_ProgramFlow_1 :
    ∃ (s : State) (u : Nat), s.hub.live = true ∧ s.hub.inTurn (.atomsFlushTimeout u) = true :=
  ⟨(world fun h => h), 2, by decide +kernel⟩

theorem wit_ProgramFlow_2 :
    ∃ (s : State) (u : Nat) (addr : Nat) (target : Nat) (taken : Bool) (mode : Nat) (after : Nat) (cause : Nat), s.hub.live = true ∧ isScalar u = true ∧ (plainTrace s.hub { feed := 1, unit := u, slice := s.hub.unitSlice u, mode := mode, pc := some addr, atom := some taken }) ∧ s.hub.inTurn (.programFlowEvent u 0 addr target taken mode after cause) = true :=
  ⟨(world fun h => traced 8189 1 h), 8189, 0x1000, 0x2000, true, 0, 0, 0, by unfold plainTrace; and_intros <;> first | decide +kernel | (rintro k (rfl | rfl | rfl) <;> decide +kernel)⟩

theorem wit_ProgramFlow_3 :
    ∃ (s : State) (u : Nat) (a : Atoms) (p : Part) (x : Src), s.hub.live = true ∧ isScalar u = true ∧ (∀ k, k = 1 ∨ k = 2 ∨ k = 3 → (SMap.get {} (s.hub.getSrc (unitStn u) k).atoms (unitSub u)).bits = []) ∧ s.hub.getSrc (unitStn u) 0 = x ∧ x.atoms = [(unitSub u, a)] ∧ a.bits ≠ [] ∧ a.first + 1024 ≤ s.hub.stnTick (unitStn u) ∧ x.excl = none ∧ x.slice = a.slice + 1 ∧ x.lost = false ∧ a.last ≤ x.base + 65534 ∧ field (s.hub.peckCfg (unitStn u)) 23 20 = 0 ∧ (s.hub.getStn (unitStn u)).peck.stalled = [] ∧ s.hub.partRing (unitStn u) (s.hub.srcPart (unitStn u) 0) = false ∧ SMap.get {} (s.hub.getStn (unitStn u)).peck.part (s.hub.srcPart (unitStn u) 0) = p ∧ p.st = .run ∧ p.accepts false (s.hub.partCap (unitStn u) (s.hub.srcPart (unitStn u) 0)) ((Pk.atoms a.bits).bytes (s.hub.pkCtx (unitStn u) 0) x (unitSub u) a.last (a.last - x.base)).length (field (s.hub.srcCfg (unitStn u) 0) 30 29) = true ∧ s.hub.inTurn (.atomsFlushTimeout u) = true :=
  ⟨(world fun h => { h with stn := [(0, { tbOn := true, src := [(0, { st := .on, slice := 1, base := 10000000000 - 66559, atoms := [(2, ⟨[true], 10000000000 - 1025, 10000000000 - 1025, 0⟩)] })] })] }), 2, ⟨[true], 10000000000 - 1025, 10000000000 - 1025, 0⟩, {}, { st := .on, slice := 1, base := 10000000000 - 66559, atoms := [(2, ⟨[true], 10000000000 - 1025, 10000000000 - 1025, 0⟩)] }, by and_intros <;> first | decide +kernel | (rintro k (rfl | rfl | rfl) <;> decide +kernel)⟩

theorem wit_ContextCommands_0 :
    ∃ (s : State) (c : Nat) (unit : Nat) (tag : Nat) (signal : Option FenceRef) (value : Nat) (mode : Nat), s.hub.live = true ∧ (s.hub.getCtx c).st = .free ∧ s.hub.inTurn (.commandSubmit c unit tag signal value mode) = true :=
  ⟨(world fun h => { h with ctx := [(262143, { st := .free })] }), 262143, 8191, 0xFFFFFFFF, none, 0, 1, by decide +kernel⟩

theorem wit_ContextCommands_1 :
    ∃ (s : State) (c : Nat) (unit : Nat) (tag : Nat) (signal : Option FenceRef) (value : Nat) (mode : Nat), s.hub.live = true ∧ (s.hub.getCtx c).st = .lost ∧ s.hub.inTurn (.commandSubmit c unit tag signal value mode) = true :=
  ⟨(world fun h => { h with ctx := [(262143, { st := .lost })] }), 262143, 8191, 0xFFFFFFFF, none, 0, 1, by decide +kernel⟩

theorem wit_ContextCommands_2 :
    ∃ (s : State) (c : Nat) (unit : Nat) (tag : Nat) (signal : Option FenceRef) (value : Nat) (mode : Nat), s.hub.live = true ∧ (s.hub.getCtx c).st = .active ∧ unitOk unit = false ∧ s.hub.inTurn (.commandSubmit c unit tag signal value mode) = true :=
  ⟨(world fun h => { h with ctx := [(262143, { st := .active })] }), 262143, 0x3FFF, 0xFFFFFFFF, none, 0, 1, by decide +kernel⟩

theorem wit_ContextCommands_3 :
    ∃ (s : State) (c : Nat) (unit : Nat) (tag : Nat) (signal : Option FenceRef) (value : Nat) (mode : Nat), s.hub.live = true ∧ (s.hub.getCtx c).st = .active ∧ unitOk unit = true ∧ isTileUnit unit = true ∧ s.hub.unitSlice unit = (s.hub.getCtx c).slice ∧ s.hub.inTurn (.commandSubmit c unit tag signal value mode) = true :=
  ⟨(world fun h => { traced 8191 4 h with ctx := [(262143, { st := .active, cmds := [{ unit := 3, tag := 1, signal := none, value := 0 }] })] }), 262143, 8191, 0xFFFFFFFF, (some ⟨0, 5⟩), 9, 1, by decide +kernel⟩

theorem wit_ContextCommands_4 :
    ∃ (s : State) (c : Nat) (a : List Cmd) (q : List Cmd) (x : Cmd), s.hub.live = true ∧ (s.hub.getCtx c).st = .active ∧ (s.hub.getCtx c).cmds = a ++ x :: q ∧ (∀ y ∈ a, y.started = true) ∧ x.started = false ∧ s.hub.mayStart x.unit = true ∧ s.hub.unitSlice x.unit = (s.hub.getCtx c).slice ∧ s.hub.inTurn (.commandStart c) = true :=
  ⟨(world fun h => { h with ctx := [(262143, { st := .active, cmds := [{ unit := 3, tag := 1, signal := none, value := 0, mode := 0, started := true, startTick := 0, submitTick := 0, held := [], status := 0 }, { unit := 2, tag := 0xFFFFFFFF, signal := none, value := 0, mode := 0, started := false, startTick := 0, submitTick := 0, held := [], status := 0 }] })] }), 262143, [{ unit := 3, tag := 1, signal := none, value := 0, mode := 0, started := true, startTick := 0, submitTick := 0, held := [], status := 0 }], [], { unit := 2, tag := 0xFFFFFFFF, signal := none, value := 0, mode := 0, started := false, startTick := 0, submitTick := 0, held := [], status := 0 }, by decide +kernel⟩

theorem wit_ContextCommands_5 :
    ∃ (s : State) (c : Nat) (a : List Cmd) (q : List Cmd) (x : Cmd) (status : Nat), s.hub.live = true ∧ (s.hub.getCtx c).cmds = a ++ x :: q ∧ (∀ y ∈ a, (y.started && y.unit == x.unit && y.held.isEmpty) = false) ∧ x.started = true ∧ x.held = [] ∧ x.gone = false ∧ x.lost = false ∧ s.hub.unitRuns x.unit = true ∧ bit (s.hub.dmpSpol x.slice) 30 = false ∧ (s.hub.getGate x.unit).st = .run ∧ x.signal = none ∧ s.hub.inTurn (.commandComplete c x.unit status) = true :=
  ⟨(world fun h => { h with ctx := [(262143, { st := .active, cmds := [{ unit := 3, tag := 1, signal := none, value := 0, mode := 0, started := true, startTick := 0, submitTick := 0, held := [], status := 0 }, { unit := 2, tag := 0xFFFFFFFF, signal := none, value := 0, mode := 0, started := true, startTick := 0, submitTick := 0, held := [], status := 0 }] })] }), 262143, [{ unit := 3, tag := 1, signal := none, value := 0, mode := 0, started := true, startTick := 0, submitTick := 0, held := [], status := 0 }], [], { unit := 2, tag := 0xFFFFFFFF, signal := none, value := 0, mode := 0, started := true, startTick := 0, submitTick := 0, held := [], status := 0 }, 0, by decide +kernel⟩

theorem wit_ContextCommands_6 :
    ∃ (s : State) (c : Nat) (a : List Cmd) (q : List Cmd) (x : Cmd) (status : Nat) (ref : FenceRef), s.hub.live = true ∧ (s.hub.getCtx c).cmds = a ++ x :: q ∧ (∀ y ∈ a, (y.started && y.unit == x.unit && y.held.isEmpty) = false) ∧ x.started = true ∧ x.held = [] ∧ x.gone = false ∧ x.lost = false ∧ s.hub.unitRuns x.unit = true ∧ bit (s.hub.dmpSpol x.slice) 30 = false ∧ (s.hub.getGate x.unit).st = .run ∧ x.signal = some ref ∧ ref.pkg = s.hub.pkg ∧ s.hub.maySignal ref.id (some x.slice) = true ∧ (s.hub.getFence ref.id).st ≠ .error ∧ (s.hub.getFence ref.id).waiters = [] ∧ (s.hub.getFence ref.id).cyc ≠ s.hub.clk.cycle + 1 ∧ ahead64 x.value (s.hub.getFence ref.id).value = true ∧ s.hub.inTurn (.commandComplete c x.unit status) = true :=
  ⟨(world fun h => { h with slc := { exports := [(0, 1)] }, ctx := [(262143, { st := .active, cmds := [{ unit := 3, tag := 1, signal := none, value := 0, mode := 0, started := true, startTick := 0, submitTick := 0, held := [], status := 0 }, { unit := 2, tag := 0xFFFFFFFF, signal := some ⟨0, 0x80000000⟩, value := 1, mode := 0, started := true, startTick := 0, submitTick := 0, held := [], status := 0 }] })] }), 262143, [{ unit := 3, tag := 1, signal := none, value := 0, mode := 0, started := true, startTick := 0, submitTick := 0, held := [], status := 0 }], [], { unit := 2, tag := 0xFFFFFFFF, signal := some ⟨0, 0x80000000⟩, value := 1, mode := 0, started := true, startTick := 0, submitTick := 0, held := [], status := 0 }, 0, ⟨0, 0x80000000⟩, by decide +kernel⟩

theorem wit_ContextCommands_7 :
    ∃ (s : State) (c : Nat) (code : Nat) (addr : Nat) (a : List Cmd) (q : List Cmd) (x : Cmd), s.hub.live = true ∧ (s.hub.getCtx c).st = .active ∧ (s.hub.getCtx c).cmds = a ++ x :: q ∧ (∀ y ∈ a, (y.started && y.unit == x.unit && y.held.isEmpty) = false) ∧ x.started = true ∧ x.held = [] ∧ x.gone = false ∧ x.signal = none ∧ (∀ y ∈ a ++ q, y.started = false → y.signal = none) ∧ s.hub.unitRuns x.unit = true ∧ (∀ f ∈ s.hub.dmp.fires, f.context ≠ c) ∧ s.hub.classOn 3 = true ∧ s.hub.er.sysq.length < 32 ∧ s.hub.inTurn (.commandFault c x.unit code addr) = true :=
  ⟨(world fun h => { h with ctx := [(262143, { st := .active, cmds := [{ unit := 3, tag := 1, signal := none, value := 0, mode := 0, started := true, startTick := 0, submitTick := 0, held := [], status := 0 }, { unit := 2, tag := 0xFFFFFFFF, signal := none, value := 0, mode := 0, started := true, startTick := 0, submitTick := 0, held := [], status := 0 }] })] }), 262143, 0xFFFF, 0, [{ unit := 3, tag := 1, signal := none, value := 0, mode := 0, started := true, startTick := 0, submitTick := 0, held := [], status := 0 }], [], { unit := 2, tag := 0xFFFFFFFF, signal := none, value := 0, mode := 0, started := true, startTick := 0, submitTick := 0, held := [], status := 0 }, by decide +kernel⟩

theorem wit_Fences_0 :
    ∃ (s : State) (unit : Nat) (ctx : Nat) (ref : FenceRef) (mode : Nat) (value : _), s.hub.live = true ∧ s.hub.boot.units = true ∧ ref.pkg = s.hub.pkg ∧ (s.hub.getFence ref.id).cyc ≠ s.hub.clk.cycle + 1 ∧ (s.hub.getFence ref.id).waiters = [] ∧ s.hub.unitRuns unit = true ∧ s.hub.maySignal ref.id (some (s.hub.getCtx ctx).slice) = true ∧ (s.hub.getFence ref.id).st ≠ .error ∧ ahead64 value (s.hub.getFence ref.id).value = true ∧ s.hub.inTurn (.fenceSignal unit ctx ref value mode) = true :=
  ⟨(world fun h => { h with slc := { exports := [(65535, 1)] } }), 9464, 262143, ⟨0, 0x8000FFFF⟩, 0, (2 ^ 63 - 1), by decide +kernel⟩

theorem wit_Fences_1 :
    ∃ (s : State) (unit : Nat) (ctx : Nat) (ref : FenceRef) (mode : Nat) (value : _), s.hub.live = true ∧ s.hub.boot.units = true ∧ ref.pkg = s.hub.pkg ∧ (s.hub.getFence ref.id).cyc ≠ s.hub.clk.cycle + 1 ∧ (s.hub.getFence ref.id).waiters = [] ∧ unitOk unit = false ∧ s.hub.maySignal ref.id none = true ∧ (s.hub.getFence ref.id).st ≠ .error ∧ ahead64 value (s.hub.getFence ref.id).value = true ∧ s.hub.inTurn (.fenceSignal unit ctx ref value mode) = true :=
  ⟨(world fun h => { h with slc := { exports := [(65535, 1)] } }), 16383, 0, ⟨0, 0x8000FFFF⟩, 0, 1, by decide +kernel⟩

theorem wit_Fences_2 :
    ∃ (s : State) (unit : Nat) (ctx : Nat) (ref : FenceRef) (mode : Nat) (value : _), s.hub.live = true ∧ s.hub.boot.units = true ∧ ref.pkg = s.hub.pkg ∧ (s.hub.getFence ref.id).cyc ≠ s.hub.clk.cycle + 1 ∧ (s.hub.getFence ref.id).waiters = [] ∧ unitOk unit = false ∧ s.hub.maySignal ref.id none = true ∧ (s.hub.getFence ref.id).st = .signalled ∧ ahead64 value (s.hub.getFence ref.id).value = false ∧ value % 2 ^ 64 ≠ (s.hub.getFence ref.id).value ∧ SMap.get 0 s.hub.slc.forder noUnit ≠ s.hub.clk.epoch + 1 ∧ s.hub.classOn 3 = true ∧ s.hub.er.sysq.length < 32 ∧ s.hub.inTurn (.fenceSignal unit ctx ref value mode) = true :=
  ⟨(world fun h => { h with slc := { exports := [(65535, 1)] }, fence := [(0x8000FFFF, { st := .signalled, value := 2 ^ 63 })] }), 16383, 0, ⟨0, 0x8000FFFF⟩, 0, 0, by decide +kernel⟩

theorem wit_Fences_3 :
    ∃ (s : State) (unit : Nat) (ctx : Nat) (ref : FenceRef) (mode : Nat), s.hub.live = true ∧ s.hub.boot.units = true ∧ ref.pkg = s.hub.pkg ∧ (s.hub.getFence ref.id).cyc ≠ s.hub.clk.cycle + 1 ∧ (s.hub.getFence ref.id).waiters = [] ∧ s.hub.unitRuns unit = true ∧ s.hub.maySignal ref.id (some (s.hub.getCtx ctx).slice) = true ∧ (s.hub.getFence ref.id).st ≠ .error ∧ s.hub.inTurn (.fenceErrorSignal unit ctx ref mode) = true :=
  ⟨(world fun h => { h with slc := { exports := [(65535, 1)] } }), 9464, 0, ⟨0, 0x8000FFFF⟩, 0, by decide +kernel⟩

theorem wit_Fences_4 :
    ∃ (s : State) (unit : Nat) (ref : FenceRef), s.hub.live = true ∧ s.hub.boot.units = true ∧ ref.pkg = s.hub.pkg ∧ (s.hub.getFence ref.id).cyc ≠ s.hub.clk.cycle + 1 ∧ (s.hub.getFence ref.id).waiters = [] ∧ fenceIdOk ref.id = true ∧ fenceExported ref.id = false ∧ fenceOwner ref.id = unit ∧ s.hub.unitRuns unit = true ∧ (s.hub.getFence ref.id).st = .error ∧ s.hub.inTurn (.fenceRearm unit ref) = true :=
  ⟨(world fun h => { h with fence := [(0, { st := .error, value := 7 })] }), 0, ⟨0, 0⟩, by decide +kernel⟩

theorem wit_Fences_5 :
    ∃ (s : State) (unit : Nat) (ctx : Nat) (ref : FenceRef) (value : Nat) (mode : Nat), s.hub.live = true ∧ ref.pkg = s.hub.pkg ∧ s.hub.unitRuns unit = true ∧ (isTileUnit unit = true ∨ unitClass unit = 7) ∧ (fenceIdOk ref.id = false ∨ s.hub.fenceSlice ref.id = none) ∧ s.hub.inTurn (.fenceWait unit ctx ref value mode) = true :=
  ⟨(world fun h => { h with fence := [(0x1FFFF, { st := .signalled, value := 0 })] }), 8191, 262143, ⟨0, 0x7FFE0000⟩, (2 ^ 63), 0, by decide +kernel⟩

theorem wit_Fences_6 :
    ∃ (s : State) (unit : Nat) (ctx : Nat) (ref : FenceRef) (value : Nat) (mode : Nat), s.hub.live = true ∧ ref.pkg = s.hub.pkg ∧ s.hub.unitRuns unit = true ∧ (isTileUnit unit = true ∨ unitClass unit = 7) ∧ fenceIdOk ref.id = true ∧ (s.hub.fenceSlice ref.id).isSome = true ∧ (fenceExported ref.id = true ∨ s.hub.fenceSlice ref.id = some (s.hub.getCtx ctx).slice) ∧ (s.hub.getFence ref.id).st ≠ .error ∧ (s.hub.getFence ref.id).satisfies (value % 2 ^ 64) = true ∧ SMap.get [] (s.hub.getStn (unitStn unit)).wait (unitSub unit) = [] ∧ s.hub.inTurn (.fenceWait unit ctx ref value mode) = true :=
  ⟨(world fun h => { h with fence := [(0x1FFFF, { st := .signalled, value := 0 })] }), 9464, 262143, ⟨0, 0x1FFFF⟩, (2 ^ 63 + 1), 0, by decide +kernel⟩

theorem wit_Fences_7 :
    ∃ (s : State) (unit : Nat) (ctx : Nat) (ref : FenceRef) (value : Nat) (mode : Nat), s.hub.live = true ∧ ref.pkg = s.hub.pkg ∧ s.hub.unitRuns unit = true ∧ (isTileUnit unit = true ∨ unitClass unit = 7) ∧ fenceIdOk ref.id = true ∧ (s.hub.fenceSlice ref.id).isSome = true ∧ (fenceExported ref.id = true ∨ s.hub.fenceSlice ref.id = some (s.hub.getCtx ctx).slice) ∧ (s.hub.getFence ref.id).st ≠ .error ∧ (s.hub.getFence ref.id).satisfies (value % 2 ^ 64) = false ∧ s.hub.inTurn (.fenceWait unit ctx ref value mode) = true :=
  ⟨(world fun h => { h with fence := [(0x1FFFF, { st := .signalled, value := 6, waiters := [⟨1, 2, 3, 0⟩] })] }), 0, 0, ⟨0, 0⟩, 7, 0, by decide +kernel⟩

theorem wit_UnitStalls_0 :
    ∃ (s : State) (unit : Nat) (ctx : Nat) (e : Edge), s.hub.live = true ∧ s.hub.unitRuns unit = true ∧ edgeAllowed unit e = true ∧ s.hub.inTurn (.unitStall unit ctx e) = true :=
  ⟨(world fun h => h), 9464, 262143, ⟨2, 0, 0, 2, 0, 64⟩, by decide +kernel⟩

theorem wit_UnitStalls_1 :
    ∃ (s : State) (unit : Nat) (a : List Stall) (q : List Stall) (x : Stall), s.hub.live = true ∧ s.hub.unitRuns unit = true ∧ SMap.get [] (s.hub.getStn (unitStn unit)).wait (unitSub unit) = a ++ x :: q ∧ (∀ y ∈ a, y.edge.kind ≠ 3) ∧ x.edge.kind = 3 ∧ s.hub.inTurn (.creditReturn unit none) = true :=
  ⟨(world fun h => { h with stn := [(0, { wait := [(2, [⟨⟨2, 0, 0, 5, 0, 0x40⟩, 1, 0, 0⟩, ⟨⟨3, 0, 0, 5, 0, 0⟩, 1, 0, 0⟩])] })] }), 2, [⟨⟨2, 0, 0, 5, 0, 0x40⟩, 1, 0, 0⟩], [], ⟨⟨3, 0, 0, 5, 0, 0⟩, 1, 0, 0⟩, by decide +kernel⟩

theorem wit_UnitStalls_2 :
    ∃ (s : State) (unit : Nat) (r : Rmo), s.hub.live = true ∧ s.hub.unitRuns unit = true ∧ r.issuer = unit ∧ (isTileUnit unit = true ∨ unitClass unit = 7) ∧ (r.op = .get ∨ r.op = .put ∨ r.op = .atomic) ∧ SMap.get [] (s.hub.getStn (unitStn unit)).wait (unitSub unit) = [] ∧ (∀ c ∈ (s.hub.getStn (unitStn unit)).cache, ¬ (c.context = r.context ∧ c.tag = r.tag)) ∧ (s.hub.getStn (unitStn unit)).cache.length < 16 ∧ s.hub.inTurn (.rmoComplete r stOk) = true :=
  ⟨(world fun h => h), 8191, (rmo .get 8191), by decide +kernel⟩

theorem wit_UnitStalls_3 :
    ∃ (s : State) (unit : Nat) (r : Rmo) (a : List Stall) (q : List Stall) (x : Stall) (status : Nat), s.hub.live = true ∧ s.hub.unitRuns unit = true ∧ r.issuer = unit ∧ (r.op = .get ∨ r.op = .put ∨ r.op = .atomic) ∧ status ≠ stOk ∧ SMap.get [] (s.hub.getStn (unitStn unit)).wait (unitSub unit) = a ++ x :: q ∧ (∀ y ∈ a, ¬ (y.edge.kind = 2 ∧ y.edge.arg = r.addr)) ∧ x.edge.kind = 2 ∧ x.edge.arg = r.addr ∧ s.hub.inTurn (.rmoComplete r status) = true :=
  ⟨(world fun h => { h with stn := [(0, { wait := [(2, [⟨⟨3, 0, 0, 5, 0, 0⟩, 1, 0, 0⟩, ⟨⟨2, 0, 0, 5, 0, 0x40⟩, 1, 0, 0⟩])] })] }), 2, (rmo .get 2), [⟨⟨3, 0, 0, 5, 0, 0⟩, 1, 0, 0⟩], [], ⟨⟨2, 0, 0, 5, 0, 0x40⟩, 1, 0, 0⟩, 9, by decide +kernel⟩

theorem wit_TriggerMatrix_0 :
    ∃ (s : State) (g : Trig) (q : List Trig), s.hub.live = true ∧ s.hub.trc.flits = g :: q ∧ (bit (s.hub.spol g.slice) 15 && bit (s.hub.act 0xA0000000 0x80000) 29) = false ∧ s.hub.inTurn (.triggerMatrix 1) = true :=
  ⟨(world fun h => { h with trc := { flits := [⟨1183, 9464, 3, 7, 5, 0, 0, 0⟩] } }), ⟨1183, 9464, 3, 7, 5, 0, 0, 0⟩, [], by decide +kernel⟩

theorem wit_TriggerMatrix_1 :
    ∃ (s : State) (g : Trig) (q : List Trig), s.hub.live = true ∧ s.hub.trc.flits = g :: q ∧ bit (s.hub.spol g.slice) 15 = true ∧ bit (s.hub.act 0xA0000000 0x80000) 29 = true ∧ (∀ k, k < 64 → s.hub.mxHit k g = true → bit (s.hub.mxAct k) 30 = false ∧ bit (s.hub.mxMatch k) 30 = false) ∧ s.hub.classOn 1 = true ∧ s.hub.er.fifo.length < 64 ∧ s.hub.inTurn (.triggerMatrix 1) = true :=
  ⟨(world fun h => { h with rws := [(0x80000, rg 0xA0000000), (0x81000, rg 0x8000)], trc := { flits := [⟨1183, 9464, 3, 7, 5, 0, 0, 0⟩] } }), ⟨1183, 9464, 3, 7, 5, 0, 0, 0⟩, [], by decide +kernel⟩

theorem wit_TriggerMatrix_2 :
    ∃ (s : State) (o : Order) (q : List Order), s.hub.live = true ∧ s.hub.trc.orders = o :: q ∧ s.hub.observed o.station = true ∧ (∀ x ∈ q, x.station ≠ o.station) ∧ (∀ r ∈ s.hub.cut.cuts, r.toArm.contains o.station = false) ∧ s.hub.inTurn (.matrixOrder o.station) = true :=
  ⟨(world fun h => { h with trc := { orders := [⟨1183, 0, 0, true, 0⟩] } }), ⟨1183, 0, 0, true, 0⟩, [], by decide +kernel⟩

theorem wit_TriggerMatrix_3 :
    ∃ (s : State) (st : Nat) (p : Nat), s.hub.live = true ∧ ((s.hub.getStn st).ord = { hold := true }) ∧ (s.hub.getStn st).peck.stalled = [] ∧ p < 4 :=
  ⟨(world fun h => { h with rws := [(pchOff 1183 0x500, rg 0x03000000)], stn := [(1183, { tbOn := true, ord := { hold := true }, peck := { part := [(1, { st := .frozen }), (2, { pkts := [{ slice := 0, src := 0, tick := 5, bytes := [1, 2, 3, 4] }] })] } })] }), 1183, 2, by decide +kernel⟩

theorem wit_TriggerMatrix_4 :
    ∃ (s : State) (st : Nat) (p : Nat), s.hub.live = true ∧ ((s.hub.getStn st).ord = { hold := true }) ∧ (s.hub.getStn st).peck.stalled = [] ∧ p < 4 :=
  ⟨(world fun h => { h with rws := [(pchOff 1183 0x500, rg 0x03000000)], stn := [(1183, { tbOn := true, ord := { hold := true }, peck := { part := [(1, { st := .frozen }), (2, { pkts := [{ slice := 0, src := 0, tick := 5, bytes := [1, 2, 3, 4] }] })] } })] }), 1183, 2, by decide +kernel⟩

theorem wit_TriggerMatrix_5 :
    ∃ (s : State) (st : Nat) (p : Nat), s.hub.live = true ∧ ((s.hub.getStn st).ord = { hold := true }) ∧ (s.hub.getStn st).peck.stalled = [] ∧ p < 4 :=
  ⟨(world fun h => { h with rws := [(pchOff 1183 0x500, rg 0x03000000)], stn := [(1183, { tbOn := true, ord := { hold := true }, peck := { part := [(1, { st := .frozen }), (2, { pkts := [{ slice := 0, src := 0, tick := 5, bytes := [1, 2, 3, 4] }] })] } })] }), 1183, 2, by decide +kernel⟩

theorem wit_TriggerMatrix_6 :
    ∃ (s : State) (st : Nat), s.hub.live = true ∧ ((s.hub.getStn st).ord = { mstart := 1 }) ∧ (s.hub.getSrc st 0).st = .armed :=
  ⟨(world fun h => { h with stn := [(1183, { tbOn := true, ord := { mstart := 1 }, src := [(0, { st := .armed })] })] }), 1183, by decide +kernel⟩

theorem wit_TriggerMatrix_7 :
    ∃ (s : State) (st : Nat) (k : _), s.hub.live = true ∧ ((s.hub.getStn st).ord = { mstart := 1 }) ∧ (s.hub.getSrc st 0).st = .armed ∧ (k = 1 ∨ k = 2 ∨ k = 3) :=
  ⟨(world fun h => { h with stn := [(1183, { tbOn := true, ord := { mstart := 1 }, src := [(0, { st := .armed })] })] }), 1183, 1, by decide +kernel⟩

theorem wit_TriggerMatrix_8 :
    ∃ (s : State) (st : Nat), s.hub.live = true ∧ ((s.hub.getStn st).ord = { mstart := 1 }) ∧ (s.hub.getSrc st 0).st = .armed :=
  ⟨(world fun h => { h with stn := [(1183, { tbOn := true, ord := { mstart := 1 }, src := [(0, { st := .armed })] })] }), 1183, by decide +kernel⟩

theorem wit_TriggerMatrix_9 :
    ∃ (s : State) (st : Nat), s.hub.live = true ∧ ((s.hub.getStn st).ord = { mstart := 1 }) ∧ (s.hub.getSrc st 0).st = .armed :=
  ⟨(world fun h => { h with stn := [(1183, { tbOn := true, ord := { mstart := 1 }, src := [(0, { st := .armed })] })] }), 1183, by decide +kernel⟩

theorem wit_MessagesInFlight_0 :
    ∃ (s : State) (u : Nat) (r : Rmo) (len : Nat) (c : CutRec), s.hub.live = true ∧ unitOk u = true ∧ s.hub.boot.units = true ∧ s.hub.asleep u = false ∧ unitClass u = 6 ∧ s.hub.captures (unitStn u) (s.hub.getCtx r.context).slice = some c ∧ whole r ∧ (s.hub.getStn (unitStn u)).cap.entries.length < 1024 ∧ (s.hub.getStn (unitStn u)).cap.used + (48 + roundUp 8 r.data.length) ≤ 262144 ∧ s.hub.stnTick (unitStn u) ≤ c.t + 64 ∧ s.hub.inTurn (.routeMessage u r len) = true :=
  ⟨(world fun h => { h with cut := { cuts := [{ id := 1, die := true, slice := 0, st := .stopping, t := 10000000000 - 64, set := [0], xpkg := false }] }, stn := [(1167, { tbOn := true, cap := { armed := [1] } })] }), 9336, { rmo .put 2 with data := List.replicate 64 7 }, 64, { id := 1, die := true, slice := 0, st := .stopping, t := 10000000000 - 64, set := [0], xpkg := false }, by decide +kernel, by decide +kernel, by decide +kernel, by decide +kernel, by decide +kernel, by decide +kernel, by unfold whole; decide +kernel, by decide +kernel, by decide +kernel, by decide +kernel, by decide +kernel⟩

theorem wit_MessagesInFlight_1 :
    ∃ (s : State) (u : Nat) (r : Rmo) (len : Nat) (c : CutRec), s.hub.live = true ∧ unitOk u = true ∧ s.hub.boot.units = true ∧ s.hub.asleep u = false ∧ unitClass u = 6 ∧ s.hub.captures (unitStn u) (s.hub.getCtx r.context).slice = some c ∧ whole r ∧ (1024 ≤ (s.hub.getStn (unitStn u)).cap.entries.length ∨ 262144 < (s.hub.getStn (unitStn u)).cap.used + (48 + roundUp 8 r.data.length)) ∧ s.hub.inTurn (.routeMessage u r len) = true :=
  ⟨(world fun h => { h with cut := { cuts := [{ id := 1, die := true, slice := 0, st := .stopping, t := 10000000000 - 64, set := [0], xpkg := false }] }, stn := [(1167, { tbOn := true, cap := { armed := [1], entries := List.replicate 1024 default } })] }), 9336, { rmo .put 2 with data := List.replicate 64 7 }, 64, { id := 1, die := true, slice := 0, st := .stopping, t := 10000000000 - 64, set := [0], xpkg := false }, by decide +kernel, by decide +kernel, by decide +kernel, by decide +kernel, by decide +kernel, by decide +kernel, by unfold whole; decide +kernel, by decide +kernel, by decide +kernel⟩

theorem wit_MessagesInFlight_2 :
    ∃ (s : State) (u : Nat) (r : Rmo) (len : Nat), s.hub.live = true ∧ unitOk u = true ∧ s.hub.boot.units = true ∧ s.hub.asleep u = false ∧ unitClass u = 6 ∧ s.hub.captures (unitStn u) (s.hub.getCtx r.context).slice = none ∧ plainTrace s.hub (s.hub.rmoEv 8 u r (r.inPort % 16 + at_ (r.outPort % 16) 4)) ∧ hasRoom s.hub (s.hub.rmoEv 8 u r (r.inPort % 16 + at_ (r.outPort % 16) 4)) (rmoPk r (r.inPort % 16 + at_ (r.outPort % 16) 4)) ∧ s.hub.inTurn (.routeMessage u r len) = true :=
  ⟨(world fun h => traced 9336 8 h), 9336, (rmo .put 2), 64, by unfold plainTrace hasRoom; and_intros <;> first | decide +kernel | (rintro k (rfl | rfl | rfl) <;> decide +kernel)⟩

theorem wit_MessagesInFlight_3 :
    ∃ (s : State) (u : Nat) (r : Rmo) (len : Nat) (msn : _), s.hub.live = true ∧ unitOk u = true ∧ s.hub.boot.units = true ∧ s.hub.asleep u = false ∧ unitClass u = 5 ∧ (s.hub.getStn (unitStn u)).mark.trained = true ∧ s.hub.captures (unitStn u) (s.hub.getCtx r.context).slice = none ∧ (plainTrace s.hub { s.hub.rmoEv 7 u r 0 with data := [] }) ∧ (hasRoom s.hub { s.hub.rmoEv 7 u r 0 with data := [] } (.link 0 r.op.code r.mode (s.hub.getStn (unitStn u)).mark.peerPkg (s.hub.getStn (unitStn u)).mark.msnOut len r.context r.tag)) ∧ s.hub.inTurn (.linkMessage u true r msn len) = true :=
  ⟨(world fun h => { traced 8824 7 h with stn := [(1103, { tbOn := true, src := [(0, { st := .on, slice := 1, base := 10000000000 })], mark := { trained := true } })] }), 8824, (rmo .put 2), 64, 0, by unfold plainTrace hasRoom; and_intros <;> first | decide +kernel | (rintro k (rfl | rfl | rfl) <;> decide +kernel)⟩

theorem wit_MessagesInFlight_4 :
    ∃ (s : State) (u : Nat) (r : Rmo) (len : Nat) (msn : _), s.hub.live = true ∧ unitOk u = true ∧ s.hub.boot.units = true ∧ s.hub.asleep u = false ∧ unitClass u = 5 ∧ (s.hub.getStn (unitStn u)).mark.trained = true ∧ s.hub.captures (unitStn u) (s.hub.getCtx r.context).slice = none ∧ (plainTrace s.hub { s.hub.rmoEv 7 u r 0 with data := [] }) ∧ (hasRoom s.hub { s.hub.rmoEv 7 u r 0 with data := [] } (.link 1 r.op.code r.mode (s.hub.getStn (unitStn u)).mark.peerPkg (msn % 65536) len r.context r.tag)) ∧ s.hub.inTurn (.linkMessage u false r msn len) = true :=
  ⟨(world fun h => { traced 8824 7 h with stn := [(1103, { tbOn := true, src := [(0, { st := .on, slice := 1, base := 10000000000 })], mark := { trained := true } })] }), 8824, (rmo .put 2), 64, 0, by unfold plainTrace hasRoom; and_intros <;> first | decide +kernel | (rintro k (rfl | rfl | rfl) <;> decide +kernel)⟩

theorem wit_CutSchedules_0 :
    ∃ (s : State) (r : CutRec) (st : _), s.hub.live = true ∧ s.hub.cut.cuts.find? (fun r => r.toArm.contains st) = some r ∧ r.holding = false ∧ (∀ c ∈ s.hub.cut.cuts, c.toArm.contains st = true → c = r) ∧ (∀ o ∈ s.hub.trc.orders, o.station ≠ st) ∧ s.hub.inTurn (.cutScheduleFlit st) = true :=
  ⟨(world fun h => { h with cut := { cuts := [{ id := 1, die := true, slice := 0, st := .scheduled, t := 10000000512, set := [0], toArm := [1183] }] } }), { id := 1, die := true, slice := 0, st := .scheduled, t := 10000000512, set := [0], toArm := [1183] }, 1183, by decide +kernel⟩

theorem wit_CutSchedules_1 :
    ∃ (s : State) (r : CutRec), s.hub.live = true ∧ s.hub.cut.cuts.find? (fun r => r.st == .scheduled && decide (r.t ≤ s.hub.now)) = some r ∧ s.hub.inTurn .cutTickT = true :=
  ⟨(world fun h => { h with cut := { cuts := [{ id := 1, die := true, slice := 0, st := .scheduled, t := 10000000000, set := [0] }] } }), { id := 1, die := true, slice := 0, st := .scheduled, t := 10000000000, set := [0] }, by decide +kernel⟩

theorem wit_CutCompletion_0 :
    ∃ (s : State) (u : _), s.hub.live = true ∧ unitOk u = true ∧ (s.hub.getGate u).st = .stopping ∧ s.hub.stnTick (unitStn u) < (s.hub.getGate u).t + s.hub.forceAfter ∧ (∀ c, s.hub.cut.byId (s.hub.getGate u).cut = some c → c.st ≠ .stepping) ∧ s.hub.inTurn (.unitStopClean u) = true :=
  ⟨(world fun h => { h with stn := [(1183, { tbOn := true, gate := [(0, { st := .stopping, cut := 1, t := 10000000000 - 3799 })] })] }), 9464, by decide +kernel⟩

theorem wit_CutCompletion_1 :
    ∃ (s : State) (st : _), s.hub.live = true ∧ (∀ c ∈ s.hub.cut.cuts, c.st ≠ .stepping) ∧ s.hub.inTurn (.cutForcedStop st) = true :=
  ⟨(world fun h => h), 1183, by decide +kernel⟩

theorem wit_CutCompletion_2 :
    ∃ (s : State) (st : Nat) (r : CutRec) (mask : Nat) (a : List (Nat × Nat)) (q : List (Nat × Nat)), s.hub.live = true ∧ s.hub.cut.cuts.find? (fun r => r.st == .stopping && s.hub.observed st && r.toReport.any fun x => x.1 == st && s.hub.cutFinished r st x.2) = some r ∧ r.toReport = a ++ (st, mask) :: q ∧ (∀ x ∈ a ++ q, x.1 ≠ st) ∧ a ++ q ≠ [] ∧ capturing st = false ∧ s.hub.inTurn (.cutReport st) = true :=
  ⟨(world fun h => { h with cut := { cuts := [{ id := 1, die := true, slice := 0, st := .stopping, t := 9999999999, set := [0], toReport := [(0, 1), (1183, 1)] }] }, stn := [(1183, { gate := [(0, { st := .stopped, cut := 1 })] })] }), 1183, { id := 1, die := true, slice := 0, st := .stopping, t := 9999999999, set := [0], toReport := [(0, 1), (1183, 1)] }, 1, [(0, 1)], [], by decide +kernel⟩

theorem wit_CutCompletion_3 :
    ∃ (s : State) (r : CutRec), s.hub.live = true ∧ s.hub.cut.cuts.find? (fun r => r.st == .stopping && decide (r.t + s.hub.reportAfter ≤ s.hub.now)) = some r ∧ s.hub.cut.byId r.id = some r ∧ r.up = [] ∧ 0 < r.toReport.foldl (fun a x => a + popcount8 x.2) 0 ∧ (∀ x ∈ s.hub.stn, (capturing x.1 && x.2.cap.overflow && x.2.cap.armed.contains r.id) = false) ∧ s.hub.classOn 5 = true ∧ s.hub.er.sysq.length < 32 ∧ s.hub.inTurn .cutReportTimeout = true :=
  ⟨(world fun h => { h with cut := { cuts := [{ id := 1, die := true, slice := 0, st := .stopping, t := 10000000000 - 4000, set := [0], toReport := [(1183, 1)] }] } }), { id := 1, die := true, slice := 0, st := .stopping, t := 10000000000 - 4000, set := [0], toReport := [(1183, 1)] }, by decide +kernel⟩

theorem wit_CutCompletion_4 :
    ∃ (s : State) (st : Nat) (r : CutRec) (mask : Nat), s.hub.live = true ∧ s.hub.cut.cuts.find? (fun r => r.st == .stopping && s.hub.observed st && r.toReport.any fun x => x.1 == st && s.hub.cutFinished r st x.2) = some r ∧ s.hub.cut.byId r.id = some r ∧ r.toReport = [(st, mask)] ∧ capturing st = false ∧ r.up = [] ∧ r.forced = 0 ∧ r.unobserved = 0 ∧ r.excl = 0 ∧ r.overflow = false ∧ (∀ x ∈ s.hub.stn, (capturing x.1 && x.2.cap.overflow && x.2.cap.armed.contains r.id) = false) ∧ (∀ u ∈ stnUnits st, (s.hub.getGate u).st ≠ .forced) ∧ s.hub.classOn 5 = true ∧ s.hub.er.sysq.length < 32 ∧ s.hub.inTurn (.cutReport st) = true :=
  ⟨(world fun h => { h with cut := { cuts := [{ id := 1, die := true, slice := 0, st := .stopping, t := 9999999999, set := [0], toReport := [(1183, 1)] }] }, stn := [(1183, { gate := [(0, { st := .stopped, cut := 1 })] })] }), 1183, { id := 1, die := true, slice := 0, st := .stopping, t := 9999999999, set := [0], toReport := [(1183, 1)] }, 1, by decide +kernel⟩

theorem wit_ResumesAndSteps_0 :
    ∃ (s : State) (r : CutRec), s.hub.live = true ∧ s.hub.cut.cuts = [r] ∧ (∀ u, (s.hub.getGate u).port = none) ∧ r.st = .resuming ∧ r.u ≤ s.hub.now ∧ (∀ x, (s.hub.getStn x).thaw = []) ∧ s.hub.inTurn .cutResumeTick = true :=
  ⟨(world fun h => { h with cut := { cuts := [{ id := 1, die := true, slice := 0, st := .resuming, t := 0, u := 10000000000, set := [0] }] } }), { id := 1, die := true, slice := 0, st := .resuming, t := 0, u := 10000000000, set := [0] }, by and_intros <;> first | decide +kernel | exact fun _ => rfl⟩

theorem wit_ResumesAndSteps_1 :
    ∃ (s : State) (r : CutRec), s.hub.live = true ∧ s.hub.cut.cuts = [r] ∧ (∀ u, (s.hub.getGate u).port = none) ∧ r.st = .stepping ∧ r.timeout = 0 ∧ r.u ≤ s.hub.now ∧ r.single = true ∧ r.mode = false ∧ s.hub.stepUnits r = [r.stepUnit] ∧ r.steps ≠ 0 ∧ unitOk r.stepUnit = true ∧ (s.hub.getStn (unitStn r.stepUnit)).thaw = [] ∧ s.hub.inTurn .stepStart = true :=
  ⟨(world fun h => { h with cut := { cuts := [{ id := 1, die := true, slice := 0, st := .stepping, t := 0, u := 10000000000, set := [0], single := true, stepUnit := 8191, steps := 1 }] }, stn := [(1023, { gate := [(7, { st := .stopped, cut := 1 })] })] }), { id := 1, die := true, slice := 0, st := .stepping, t := 0, u := 10000000000, set := [0], single := true, stepUnit := 8191, steps := 1 }, by decide +kernel, by decide +kernel, by refine fun u => SMap.get_all (fun g : Gate => g.port = none) {} _ rfl ?_ (unitSub u); exact SMap.get_all (fun y : Stn => ∀ e ∈ y.gate, e.2.port = none) {} _ (by decide) (by decide) (unitStn u), by decide +kernel, by decide +kernel, by decide +kernel, by decide +kernel, by decide +kernel, by decide +kernel, by decide +kernel, by decide +kernel, by decide +kernel, by decide +kernel⟩

theorem wit_ResumesAndSteps_2 :
    ∃ (s : State) (r : CutRec) (u : _), s.hub.live = true ∧ s.hub.cut.cuts = [r] ∧ (∀ u, (s.hub.getGate u).port = none) ∧ unitOk u = true ∧ isTileUnit u = true ∧ (s.hub.getGate u).st = .step ∧ (s.hub.getGate u).cut = r.id ∧ r.mode = false ∧ s.hub.asleep u = false ∧ s.hub.blocked u = false ∧ s.hub.inTurn (.stepEnd u) = true :=
  ⟨(world fun h => { h with cut := { cuts := [{ id := 1, die := true, slice := 0, st := .stepping, t := 0, set := [0], steps := 1, timeout := 10000000000 }] }, stn := [(1023, { gate := [(7, { st := .step, cut := 1 })] })] }), { id := 1, die := true, slice := 0, st := .stepping, t := 0, set := [0], steps := 1, timeout := 10000000000 }, 8191, by decide +kernel, by decide +kernel, by refine fun u => SMap.get_all (fun g : Gate => g.port = none) {} _ rfl ?_ (unitSub u); exact SMap.get_all (fun y : Stn => ∀ e ∈ y.gate, e.2.port = none) {} _ (by decide) (by decide) (unitStn u), by decide +kernel, by decide +kernel, by decide +kernel, by decide +kernel, by decide +kernel, by decide +kernel, by decide +kernel, by decide +kernel⟩

theorem wit_ResumesAndSteps_3 :
    ∃ (s : State) (r : CutRec), s.hub.live = true ∧ s.hub.cut.cuts = [r] ∧ (∀ u, (s.hub.getGate u).port = none) ∧ r.st = .stepping ∧ r.timeout ≠ 0 ∧ r.timeout ≤ s.hub.now ∧ r.steps ≠ 0 ∧ s.hub.classOn 5 = true ∧ s.hub.er.sysq.length < 32 ∧ s.hub.inTurn .stepTimeout = true :=
  ⟨(world fun h => { h with cut := { cuts := [{ id := 1, die := true, slice := 0, st := .stepping, t := 0, set := [0], steps := 1, timeout := 10000000000 }] } }), { id := 1, die := true, slice := 0, st := .stepping, t := 0, set := [0], steps := 1, timeout := 10000000000 }, by decide +kernel, by decide +kernel, by refine fun u => SMap.get_all (fun g : Gate => g.port = none) {} _ rfl ?_ (unitSub u); exact SMap.get_all (fun y : Stn => ∀ e ∈ y.gate, e.2.port = none) {} _ (by decide) (by decide) (unitStn u), by decide +kernel, by decide +kernel, by decide +kernel, by decide +kernel, by decide +kernel, by decide +kernel, by decide +kernel⟩

theorem wit_CutMessages_0 :
    ∃ (s : State) (link : Nat) (b : List Byte) (sl : _), s.hub.live = true ∧ s.hub.nocUp = true ∧ link < 32 ∧ b.length = 64 ∧ leAt b 0 1 = 0x21 ∧ (∀ x ∈ s.hub.cut.known, x.1 ≠ leAt b 4 4) ∧ (∀ l, l < 32 → l ≠ link → (s.hub.getStn (linkStn l)).mark.trained = false) ∧ bit (leAt b 2 2) 0 = false ∧ s.hub.sliceOfPasid (leAt b 8 4 % 2 ^ 20) = some sl ∧ s.hub.sliceExists sl = true ∧ s.hub.cutAllowed .hub (bit (leAt b 2 2) 1) sl = true ∧ s.hub.cut.cuts = [] ∧ s.hub.leadOk (s.hub.convertTick link (leAt b 0x10 8)).1 = true ∧ s.hub.classOn 5 = true ∧ s.hub.er.sysq.length < 32 ∧ s.hub.inTurn (.cutScheduleMessage link b) = true :=
  ⟨(world fun h => { h with slc := { e := [(0, { st := .active })] } }), 31, (leBytes 1 0x21 ++ [0] ++ leBytes 2 0 ++ leBytes 4 4194305 ++ leBytes 4 0 ++ zeros 4 ++ leBytes 8 10000001000 ++ zeros 40), 0, by decide +kernel⟩

theorem wit_CutMessages_1 :
    ∃ (s : State) (link : Nat) (b : List Byte), s.hub.live = true ∧ s.hub.nocUp = true ∧ link < 32 ∧ b.length = 64 ∧ leAt b 0 1 = 0x23 ∧ leAt b 4 4 = s.hub.cut.xid ∧ cutPkg (leAt b 4 4) = s.hub.pkg ∧ s.hub.cut.counting = true ∧ s.hub.now ≤ s.hub.cut.xend ∧ s.hub.inTurn (.cutDoneMessage link b) = true :=
  ⟨(world fun h => { h with cut := { xid := 5, counting := true, xend := 10000000000 } }), 31, (leBytes 1 0x23 ++ [0] ++ leBytes 2 0 ++ leBytes 4 5 ++ leBytes 4 0 ++ zeros 4 ++ leBytes 8 0 ++ zeros 40), by decide +kernel⟩

theorem wit_CutMessages_2 :
    ∃ (s : State) (link : Nat) (b : List Byte) (l : _), s.hub.live = true ∧ s.hub.nocUp = true ∧ link < 32 ∧ b.length = 64 ∧ leAt b 0 1 = 0x23 ∧ cutPkg (leAt b 4 4) ≠ s.hub.pkg ∧ s.hub.cut.known.find? (fun x => x.1 == leAt b 4 4) = some (leAt b 4 4, l) ∧ l < 32 ∧ s.hub.inTurn (.cutDoneMessage link b) = true :=
  ⟨(world fun h => { h with cut := { known := [(4194305, 0)] } }), 31, (leBytes 1 0x23 ++ [0] ++ leBytes 2 0 ++ leBytes 4 4194305 ++ leBytes 4 0 ++ zeros 4 ++ leBytes 8 0 ++ zeros 40), 0, by decide +kernel⟩

theorem wit_CutMessages_3 :
    ∃ (s : State) (link : Nat) (b : List Byte) (sl : Nat) (r : CutRec), s.hub.live = true ∧ s.hub.nocUp = true ∧ link < 32 ∧ b.length = 64 ∧ leAt b 0 1 = 0x22 ∧ bit (leAt b 2 2) 0 = false ∧ s.hub.cut.knownResume.contains (leAt b 4 4, leAt b 8 4 % 2 ^ 20) = false ∧ (∀ l, l < 32 → l ≠ link → (s.hub.getStn (linkStn l)).mark.trained = false) ∧ s.hub.sliceOfPasid (leAt b 8 4 % 2 ^ 20) = some sl ∧ s.hub.cut.ofSlice sl = some r ∧ r.die = false ∧ r.st = .stopped ∧ r.sub = [] ∧ s.hub.dumpHolds r false sl = false ∧ s.hub.leadOk (s.hub.convertTick link (leAt b 0x10 8)).1 = true ∧ s.hub.inTurn (.cutResumeMessage link b) = true :=
  ⟨(world fun h => { h with cut := { cuts := [{ id := 1, die := false, slice := 0, st := .stopped, t := 0, set := [0] }] }, slc := { e := [(0, { st := .active })] } }), 31, (leBytes 1 0x22 ++ [0] ++ leBytes 2 0 ++ leBytes 4 4194305 ++ leBytes 4 0 ++ zeros 4 ++ leBytes 8 10000001000 ++ zeros 40), 0, { id := 1, die := false, slice := 0, st := .stopped, t := 0, set := [0] }, by decide +kernel⟩

theorem wit_CutMessages_4 :
    ∃ (s : State) (link : Nat) (b : List Byte), s.hub.live = true ∧ s.hub.nocUp = true ∧ link < 32 ∧ b.length = 64 ∧ s.hub.cut.counting = true ∧ s.hub.cut.xend ≤ s.hub.now ∧ s.hub.inTurn .cutXresultWindowEnd = true :=
  ⟨(world fun h => { h with cut := { counting := true, xend := 10000000000 } }), 31, (leBytes 1 0x21 ++ [0] ++ leBytes 2 0 ++ leBytes 4 1 ++ leBytes 4 0 ++ zeros 4 ++ leBytes 8 0 ++ zeros 40), by decide +kernel⟩

theorem wit_HangScan_0 :
    ∃ (s : State) (n : Nat), s.hub.live = true ∧ s.hub.rst.st = 0 ∧ s.hub.hang.scan = some n ∧ (s.hub.getCtx n).cyc ≠ s.hub.clk.cycle + 1 ∧ (s.hub.getCtx n).st = .active ∧ bit s.hub.hangCfg 31 = true ∧ bit s.hub.hangMask (s.hub.getCtx n).slice = true ∧ (s.hub.getCtx n).own ≠ [] ∧ (∀ c ∈ (s.hub.getCtx n).own, c.started = true → (s.hub.getGate c.unit).st = .run) ∧ n + 1 < 262144 ∧ (s.hub.getCtx n).progress = (s.hub.getCtx n).stored ∧ Nat.max 1 (s.hub.hangCfg % 65536) ≤ satAdd 65535 (s.hub.getCtx n).idle 1 ∧ (s.hub.getCtx n).reported = false ∧ s.hub.hang.fifo.length < 64 ∧ s.hub.inTurn .scanContext = true :=
  ⟨(world fun h => { h with ctx := [(262142, { st := .active, cmds := [{ unit := 2, tag := 0xFFFFFFFF, signal := none, value := 0, mode := 0, started := true, startTick := 0, submitTick := 0, held := [], status := 0 }], progress := 3, stored := 3, idle := 249 })], hang := { scan := some 262142 } }), 262142, by decide +kernel⟩

theorem wit_HangScan_1 :
    ∃ (s : State) (n : Nat), s.hub.live = true ∧ s.hub.rst.st = 0 ∧ s.hub.hang.scan = some n ∧ (s.hub.getCtx n).cyc ≠ s.hub.clk.cycle + 1 ∧ (s.hub.getCtx n).st = .active ∧ bit s.hub.hangCfg 31 = true ∧ bit s.hub.hangMask (s.hub.getCtx n).slice = true ∧ (s.hub.getCtx n).own ≠ [] ∧ (∀ c ∈ (s.hub.getCtx n).own, c.started = true → (s.hub.getGate c.unit).st = .run) ∧ n + 1 < 262144 ∧ (s.hub.getCtx n).progress = (s.hub.getCtx n).stored ∧ satAdd 65535 (s.hub.getCtx n).idle 1 < Nat.max 1 (s.hub.hangCfg % 65536) ∧ s.hub.inTurn .scanContext = true :=
  ⟨(world fun h => { h with ctx := [(0, { st := .active, cmds := [{ unit := 2, tag := 0xFFFFFFFF, signal := none, value := 0, mode := 0, started := true, startTick := 0, submitTick := 0, held := [], status := 0 }], progress := 3, stored := 3, idle := 248 })], hang := { scan := some 0 } }), 0, by decide +kernel⟩

theorem wit_HangScan_2 :
    ∃ (s : State) (n : Nat), s.hub.live = true ∧ s.hub.rst.st = 0 ∧ s.hub.hang.scan = some n ∧ (s.hub.getCtx n).cyc ≠ s.hub.clk.cycle + 1 ∧ (s.hub.getCtx n).st = .active ∧ bit s.hub.hangCfg 31 = true ∧ bit s.hub.hangMask (s.hub.getCtx n).slice = true ∧ (s.hub.getCtx n).own ≠ [] ∧ (∀ c ∈ (s.hub.getCtx n).own, c.started = true → (s.hub.getGate c.unit).st = .run) ∧ n + 1 = 262144 ∧ (s.hub.getCtx n).progress ≠ (s.hub.getCtx n).stored ∧ s.hub.inTurn .scanContext = true :=
  ⟨(world fun h => { h with ctx := [(262143, { st := .active, cmds := [{ unit := 2, tag := 0xFFFFFFFF, signal := none, value := 0, mode := 0, started := true, startTick := 0, submitTick := 0, held := [], status := 0 }], progress := 3, stored := 2, idle := 249 })], hang := { scan := some 262143 } }), 262143, by decide +kernel⟩

theorem wit_HangSequence_0 :
    ∃ (s : State) (status : Nat), s.hub.live = true ∧ s.hub.boot.pairRunning = true ∧ s.hub.er.sysq.length < 32 ∧ s.hub.hang.seq.step = 1 ∧ s.hub.inTurn (.hangStepAdvance status) = true :=
  ⟨(world fun h => { h with hang := { seq := { step := 1, number := 1 } } }), 0, by decide +kernel⟩

theorem wit_HangSequence_1 :
    ∃ (s : State) (status : Nat), s.hub.live = true ∧ s.hub.boot.pairRunning = true ∧ s.hub.er.sysq.length < 32 ∧ (s.hub.hang.seq.step = 2 ∨ s.hub.hang.seq.step = 3 ∨ s.hub.hang.seq.step = 4) ∧ (status = stOk ∨ status = stPartial) ∧ s.hub.inTurn (.hangStepAdvance status) = true :=
  ⟨(world fun h => { h with hang := { seq := { step := 4, number := 1 } } }), 3, by decide +kernel⟩

theorem wit_HangSequence_2 :
    ∃ (s : State) (status : Nat), s.hub.live = true ∧ s.hub.boot.pairRunning = true ∧ s.hub.er.sysq.length < 32 ∧ (s.hub.hang.seq.step = 2 ∨ s.hub.hang.seq.step = 3 ∨ s.hub.hang.seq.step = 4) ∧ status ≠ stOk ∧ status ≠ stPartial ∧ s.hub.inTurn (.hangStepAdvance status) = true :=
  ⟨(world fun h => { h with hang := { seq := { step := 4, number := 1 } } }), 8, by decide +kernel⟩

theorem wit_HangSequence_3 :
    ∃ (s : State) (status : Nat), s.hub.live = true ∧ s.hub.boot.pairRunning = true ∧ s.hub.er.sysq.length < 32 ∧ s.hub.hang.seq.step = 5 ∧ s.hub.inTurn (.hangStepAdvance status) = true :=
  ⟨(world fun h => { h with hang := { seq := { step := 5, number := 1 } } }), 8, by decide +kernel⟩

theorem wit_HangSequence_4 :
    ∃ (s : State) (status : Nat), s.hub.live = true ∧ s.hub.boot.pairRunning = true ∧ s.hub.er.sysq.length < 32 ∧ s.hub.hang.seq.step = 6 ∧ s.hub.hang.waiting = [] ∧ s.hub.hang.dieWaiting = false ∧ s.hub.inTurn (.hangStepAdvance status) = true :=
  ⟨(world fun h => { h with hang := { seq := { step := 6, number := 1 } } }), 8, by decide +kernel⟩

theorem wit_WaitForGraph_0 :
    ∃ (s : State) (r : CutRec), s.hub.live = true ∧ s.hub.boot.pairRunning = true ∧ s.hub.hang.seq.step = 3 ∧ s.hub.cut.byId s.hub.hang.seq.cut = some r ∧ r.st = .stopped ∧ r.xpkg = false ∧ s.hub.rst.st = 0 ∧ s.hub.hang.building = false ∧ s.hub.inTurn .waitEdgeCollect = true :=
  ⟨(world fun h => { h with hang := { seq := { step := 3, number := 1, cut := 1 } }, cut := { cuts := [{ id := 1, die := true, slice := 0, st := .stopped, t := 0, set := [0] }] } }), { id := 1, die := true, slice := 0, st := .stopped, t := 0, set := [0] }, by decide +kernel⟩

theorem wit_WaitForGraph_1 :
    ∃ (s : State), s.hub.live = true ∧ s.hub.boot.pairRunning = true ∧ s.hub.hang.building = true ∧ s.hub.hang.scan = none ∧ s.hub.rst.st = 0 ∧ s.hub.inTurn .contextWalk = true :=
  ⟨(world fun h => { h with hang := { building := true } }), by decide +kernel⟩

theorem wit_WaitForGraph_2 :
    ∃ (s : State) (w : _), s.hub.live = true ∧ s.hub.boot.pairRunning = true ∧ s.hub.hang.building = true ∧ s.hub.hang.walk = some w ∧ s.hub.hang.parent = none ∧ s.hub.hang.xpkg = false ∧ s.hub.hang.joined.length ≤ 65536 ∧ s.hub.er.sysq.length < 32 ∧ s.hub.inTurn .graphAreaWrite = true :=
  ⟨(world fun h => { h with hang := { building := true, walk := some [] } }), [], by decide +kernel⟩

theorem wit_WaitForGraph_3 :
    ∃ (s : State) (link : _) (b : _), s.hub.live = true ∧ s.hub.boot.pairRunning = true ∧ s.hub.nocUp = true ∧ link < 32 ∧ b.length = 64 ∧ leAt b 0 1 = 0x24 ∧ cutPkg (leAt b 4 4) ≠ s.hub.pkg ∧ leAt b 4 4 ∉ s.hub.hang.knownGraph ∧ s.hub.rst.st = 0 ∧ s.hub.cut.sentOn.find? (fun x => x.1 == leAt b 4 4) = none ∧ s.hub.inTurn (.graphRequestMessage link b) = true :=
  ⟨(world fun h => h), 31, (leBytes 1 0x24 ++ [0] ++ leBytes 2 0 ++ leBytes 4 4194305 ++ leBytes 4 0 ++ zeros 4 ++ leBytes 8 0 ++ zeros 40), by decide +kernel⟩

theorem wit_WaitForGraph_4 :
    ∃ (s : State) (link : _) (b : _), s.hub.live = true ∧ s.hub.boot.pairRunning = true ∧ s.hub.nocUp = true ∧ link < 32 ∧ b.length = 64 ∧ leAt b 0 1 = 0x25 ∧ cutPkg (leAt b 4 4) = s.hub.pkg ∧ s.hub.hang.building = true ∧ s.hub.hang.parent = none ∧ s.hub.hang.cut = leAt b 4 4 ∧ bit (leAt b 2 2) 0 = false ∧ (edgeOf (slice b 16 40)).src ≠ 0 ∧ s.hub.inTurn (.graphEdgeMessage link b) = true :=
  ⟨(world fun h => { h with hang := { building := true, cut := 1 } }), 31, [0x25, 0, 0, 0] ++ leBytes 4 1 ++ zeros 8 ++ leBytes 8 1 ++ zeros 40, by decide +kernel⟩

theorem wit_WaitForGraph_5 :
    ∃ (s : State), s.hub.live = true ∧ s.hub.boot.pairRunning = true ∧ s.hub.hang.building = true ∧ s.hub.hang.parent = none ∧ s.hub.hang.xpkg = true ∧ s.hub.hang.cutDone + 4000000 ≤ s.hub.now ∧ s.hub.missingPeers = true ∧ s.hub.inTurn .graphPeerTimeout = true :=
  ⟨(world fun h => { h with hang := { building := true, xpkg := true, cutDone := 10000000000 - 4000000, noPeer := false, reported := [1] } }), by decide +kernel⟩

theorem wit_DumpCourse_0 :
    ∃ (s : State) (d : Dump), s.hub.live = true ∧ s.hub.dmp.cur = some d ∧ s.hub.dmp.st = .plan ∧ s.hub.dmp.jobs = [] ∧ s.hub.nocUp = true ∧ s.hub.tunFits 262144 = false ∧ d.req.scope = 2 ∧ s.hub.inTurn .dumpPlanDone = true :=
  ⟨(world fun h => { h with dmp := { st := .plan, cur := some { req := ⟨.host, 3, 2, 0, 0, false, 1⟩ }, wr := 0x10000000 } }), { req := ⟨.host, 3, 2, 0, 0, false, 1⟩ }, by decide +kernel⟩

theorem wit_DumpCourse_1 :
    ∃ (s : State) (d : Dump), s.hub.live = true ∧ s.hub.dmp.cur = some d ∧ s.hub.dmp.st = .plan ∧ s.hub.dmp.jobs = [] ∧ s.hub.nocUp = true ∧ s.hub.tunFits 262144 = true ∧ s.hub.tunData ≠ 0 ∧ d.req.scope = 2 ∧ d.stop = false ∧ s.hub.inTurn .dumpPlanDone = true :=
  ⟨(world fun h => { h with dmp := { st := .plan, cur := some { req := ⟨.host, 3, 2, 0, 0, false, 1⟩ } } }), { req := ⟨.host, 3, 2, 0, 0, false, 1⟩ }, by decide +kernel⟩

theorem wit_DumpCourse_2 :
    ∃ (s : State) (d : Dump), s.hub.live = true ∧ s.hub.dmp.cur = some d ∧ s.hub.dmp.st = .finish ∧ s.hub.dmp.fk = none ∧ (∀ r ∈ s.hub.dmp.recs, r.done = true ∨ r.manifest = true) ∧ s.hub.inTurn .dumpFinish = true :=
  ⟨(world fun h => { h with dmp := { st := .finish, cur := some { req := ⟨.host, 3, 2, 0, 0, false, 1⟩ }, recs := [{ pos := 0, len := 64, hdr := [], manifest := true }] } }), { req := ⟨.host, 3, 2, 0, 0, false, 1⟩ }, by decide +kernel⟩

theorem wit_DumpCourse_3 :
    ∃ (s : State) (d : Dump), s.hub.live = true ∧ s.hub.dmp.cur = some d ∧ s.hub.dmp.st = .sign ∧ d.notun = false ∧ s.hub.nocUp = true ∧ s.hub.dmp.next = none ∧ s.hub.dmp.fires = [] ∧ s.hub.classOn 6 = true ∧ s.hub.er.sysq.length < 32 ∧ 0x2200000 < s.hub.boot.tunSize ∧ d.man % s.hub.tunData + 262144 ≤ s.hub.tunData ∧ s.hub.boot.tunBase + s.hub.boot.tunSize ≤ hbmSize ∧ (SMap.get {} s.hub.dmp.m d.req.owner.idx).object = d.req.object ∧ (SMap.get {} s.hub.dmp.m d.req.owner.idx).running = true ∧ s.hub.inTurn .dumpSigned = true :=
  ⟨(world fun h => { h with dmp := { st := .sign, cur := some { req := ⟨.host, 3, 2, 0, 0, false, 1⟩ }, m := [(2, { object := 1, running := true })] } }), { req := ⟨.host, 3, 2, 0, 0, false, 1⟩ }, by decide +kernel⟩

theorem wit_DumpCourse_4 :
    ∃ (s : State) (d : Dump) (cause : _) (cut : _), s.hub.live = true ∧ s.hub.dmp.cur = some d ∧ s.hub.dmp.fk = some (cause, d.req.object, cut) ∧ s.hub.inTurn .firkinWriteDone = true :=
  ⟨(world fun h => { h with dmp := { st := .finish, cur := some { req := ⟨.host, 3, 2, 0, 0, false, 1⟩ }, fk := some (3, 1, 0) } }), { req := ⟨.host, 3, 2, 0, 0, false, 1⟩ }, 3, 0, by decide +kernel⟩

theorem wit_DumpChunks_0 :
    ∃ (s : State) (d : Dump) (g : Seg) (j : Job) (key : List Byte), s.hub.live = true ∧ s.hub.nocUp = true ∧ s.hub.dmp.cur = some d ∧ s.hub.dmp.st = .stream ∧ s.hub.dmp.jobs = [j] ∧ j.watch = false ∧ j.ended = some stOk ∧ d.segs = [g] ∧ j.seg = 0 ∧ d.stop = false ∧ 0 < j.inDone ∧ g.written = j.off ∧ j.off + j.inDone = g.raw ∧ s.hub.dumpMisfit d j = false ∧ d.keyOf g.slice = key ∧ s.hub.inTurn .dumpChunkWritten = true :=
  ⟨(world fun h => { h with dmp := { st := .stream, cur := some { req := ⟨.host, 3, 2, 0, 0, false, 1⟩, segs := [{ cls := 1, slice := 255, raw := 64 }] }, jobs := [{ bank := 3, off := 0, len := 64, limit := 1024, xform := 0, raw := false, inDone := 64, ended := some 0 }] } }), { req := ⟨.host, 3, 2, 0, 0, false, 1⟩, segs := [{ cls := 1, slice := 255, raw := 64 }] }, { cls := 1, slice := 255, raw := 64 }, { bank := 3, off := 0, len := 64, limit := 1024, xform := 0, raw := false, inDone := 64, ended := some 0 }, [], by decide +kernel⟩

theorem wit_DumpChunks_1 :
    ∃ (s : State) (d : Dump) (g : Seg) (j : Job), s.hub.live = true ∧ s.hub.nocUp = true ∧ s.hub.dmp.cur = some d ∧ s.hub.dmp.st = .stream ∧ s.hub.dmp.jobs = [j] ∧ j.watch = false ∧ j.ended = some stPartial ∧ d.segs = [g] ∧ j.seg = 0 ∧ d.stop = false ∧ j.inDone = 0 ∧ g.status = stOk ∧ s.hub.inTurn .dumpTunFull = true :=
  ⟨(world fun h => { h with dmp := { st := .stream, cur := some { req := ⟨.host, 3, 2, 0, 0, false, 1⟩, segs := [{ cls := 1, slice := 255, raw := 64 }] }, jobs := [{ bank := 3, off := 0, len := 64, limit := 1024, xform := 0, raw := false, ended := some 3 }] } }), { req := ⟨.host, 3, 2, 0, 0, false, 1⟩, segs := [{ cls := 1, slice := 255, raw := 64 }] }, { cls := 1, slice := 255, raw := 64 }, { bank := 3, off := 0, len := 64, limit := 1024, xform := 0, raw := false, ended := some 3 }, by decide +kernel⟩

theorem wit_DumpChunks_2 :
    ∃ (s : State) (r : TunRec), s.hub.live = true ∧ s.hub.nocUp = true ∧ s.hub.dmp.recs = [r] ∧ r.done = false ∧ r.manifest = false ∧ s.hub.dmp.cur = none ∧ s.hub.tunAddr r.pos + r.hdr.length ≤ hbmSize ∧ s.hub.inTurn .tunRecordComplete = true :=
  ⟨(world fun h => { h with dmp := { recs := [{ pos := 0, len := 64, hdr := [0x54] }] } }), { pos := 0, len := 64, hdr := [0x54] }, by decide +kernel⟩

theorem wit_Watches_0 :
    ∃ (s : State) (f : Firing), s.hub.live = true ∧ s.hub.dmp.fires = [f] ∧ s.hub.dmp.st = .idle ∧ s.hub.nocUp = true ∧ (s.hub.getWatch f.slot).st = .queued ∧ s.hub.tunFits 256 = true ∧ s.hub.tunData ≠ 0 ∧ s.hub.dmp.object ≠ 0xFFFFFFFF ∧ s.hub.inTurn .watchServe = true :=
  ⟨(world fun h => { h with dmp := { fires := [{ slot := 127, len := 64 }], w := [(127, { st := .queued })] } }), { slot := 127, len := 64 }, by decide +kernel⟩

theorem wit_Watches_1 :
    ∃ (s : State) (f : Firing), s.hub.live = true ∧ s.hub.dmp.fires = [f] ∧ s.hub.dmp.st = .idle ∧ s.hub.nocUp = true ∧ (s.hub.getWatch f.slot).st = .reading ∧ f.len ≤ f.read ∧ s.hub.dmp.jobs = [] ∧ f.held = false ∧ f.kind = 0 ∧ f.object ≠ 0 ∧ s.hub.classOn 6 = true ∧ s.hub.er.sysq.length < 32 ∧ s.hub.inTurn .watchReadDone = true :=
  ⟨(world fun h => { h with dmp := { fires := [{ slot := 127, len := 64, read := 64, object := 1 }], w := [(127, { st := .reading })] } }), { slot := 127, len := 64, read := 64, object := 1 }, by decide +kernel⟩

theorem wit_Watches_2 :
    ∃ (s : State) (f : Firing) (j : Job), s.hub.live = true ∧ s.hub.dmp.fires = [f] ∧ s.hub.dmp.st = .idle ∧ s.hub.nocUp = true ∧ (s.hub.getWatch f.slot).st = .reading ∧ s.hub.dmp.jobs = [j] ∧ j.watch = true ∧ j.ended = some stPartial ∧ j.inDone = 0 ∧ j.seen = [] ∧ f.carry = [] ∧ s.hub.inTurn .watchOutputFull = true :=
  ⟨(world fun h => { h with dmp := { fires := [{ slot := 127, len := 64 }], w := [(127, { st := .reading })], jobs := [{ bank := 0, watch := true, off := 0, len := 64, limit := 1024, xform := 0, raw := false, ended := some 3 }] } }), { slot := 127, len := 64 }, { bank := 0, watch := true, off := 0, len := 64, limit := 1024, xform := 0, raw := false, ended := some 3 }, by decide +kernel⟩

theorem wit_Watches_3 :
    ∃ (s : State) (f : Firing), s.hub.live = true ∧ s.hub.dmp.fires = [f] ∧ s.hub.dmp.st = .idle ∧ s.hub.nocUp = true ∧ (s.hub.getWatch f.slot).st = .partial_ ∧ 0x400000 ≤ s.hub.tunFree ∧ s.hub.inTurn .watchResume = true :=
  ⟨(world fun h => { h with dmp := { fires := [{ slot := 127, len := 64 }], w := [(127, { st := .partial_ })] } }), { slot := 127, len := 64 }, by decide +kernel⟩

theorem wit_Watches_4 :
    ∃ (s : State) (f : Firing) (a : List Cmd) (q : List Cmd) (x : Cmd), s.hub.live = true ∧ s.hub.dmp.fires = [f] ∧ s.hub.dmp.st = .idle ∧ s.hub.nocUp = true ∧ f.held = true ∧ f.holdEnd ≤ s.hub.now ∧ (s.hub.getCtx f.context).cmds = a ++ x :: q ∧ (∀ y ∈ a, y.held.contains f.slot = false) ∧ x.held = [f.slot] ∧ x.signal = none ∧ x.lost = false ∧ x.gone = false ∧ unitOk x.unit = true ∧ (s.hub.getGate x.unit).st = .run ∧ s.hub.inTurn (.watchHoldExpiry f.slot) = true :=
  ⟨(world fun h => { h with dmp := { fires := [{ slot := 127, len := 64, context := 262143, held := true, holdEnd := 10000000000 }], w := [(127, { st := .reading })] }, ctx := [(262143, { st := .active, cmds := [{ unit := 3, tag := 1, signal := none, value := 0, mode := 0, started := true, startTick := 0, submitTick := 0, held := [126], status := 0 }, { unit := 2, tag := 1, signal := none, value := 0, mode := 0, started := true, startTick := 0, submitTick := 0, held := [127], status := 0 }] })] }), { slot := 127, len := 64, context := 262143, held := true, holdEnd := 10000000000 }, [{ unit := 3, tag := 1, signal := none, value := 0, mode := 0, started := true, startTick := 0, submitTick := 0, held := [126], status := 0 }], [], { unit := 2, tag := 1, signal := none, value := 0, mode := 0, started := true, startTick := 0, submitTick := 0, held := [127], status := 0 }, by decide +kernel⟩

theorem wit_RegisterJobBlocks_0 :
    ∃ (s : State) (b : Nat) (k : Bank) (m : Master) (ok : Bool) (rawOk : Bool) (raw : List Byte) (r : Release), s.hub.live = true ∧ s.hub.nocUp = true ∧ b < 4 ∧ SMap.get {} s.hub.ce.bank b = k ∧ k.busy = true ∧ k.owner = some m ∧ k.decode = false ∧ r = releaseBlock k.xform k.raw (decide (k.inDone + Nat.min blockMax (k.len - k.inDone) = k.len)) k.block (k.limit - k.outDone) (s.mem.hbmRead (k.src + k.inDone) (Nat.min blockMax (k.len - k.inDone))) ok rawOk ∧ r.ended = none ∧ r.vfail = false ∧ s.hub.inTurn (.ceBlockRelease b raw ok rawOk) = true :=
  ⟨(world fun h => { h with ce := { bank := [(3, { busy := true, owner := some .host, len := 65521, limit := 0x1000000, raw := true })] } }), 3, { busy := true, owner := some .host, len := 65521, limit := 0x1000000, raw := true }, .host, true, true, [], (releaseBlock 0 true false 0 0x1000000 (SMap.getList 0 [] 0 65520) true true), by refine ⟨rfl, rfl, by decide, rfl, rfl, rfl, rfl, rfl, ?_, ?_, by decide +kernel⟩ <;> simp [releaseBlock, encodedLen, bestBody, verifyBlock, Machine.blockLen, roundUp, b2n]⟩

theorem wit_RegisterJobBlocks_1 :
    ∃ (s : State) (b : Nat) (k : Bank) (m : Master) (ok : Bool) (rawOk : Bool) (raw : List Byte) (len : Nat) (out : List Byte), s.hub.live = true ∧ s.hub.nocUp = true ∧ b < 4 ∧ SMap.get {} s.hub.ce.bank b = k ∧ k.busy = true ∧ k.owner = some m ∧ k.decode = true ∧ decodeBlock (s.mem.hbmRead (k.src + k.inDone) (Nat.min 65544 (k.len - k.inDone))) = .good len out ∧ k.outDone + out.length ≤ k.limit ∧ k.inDone + len = k.len ∧ s.hub.inTurn (.ceBlockRelease b raw ok rawOk) = true :=
  ⟨({ world (fun h => { h with ce := { bank := [(3, { busy := true, owner := some .pair, decode := true, len := 24, limit := 1 })] } }) with mem := { hbm := SMap.run (0 : Byte) 0 (mkBlock 5 0 0 [1] [1]) } }), 3, { busy := true, owner := some .pair, decode := true, len := 24, limit := 1 }, .pair, true, true, [], 24, [1], by decide +kernel⟩

theorem wit_RegisterJobBlocks_2 :
    ∃ (s : State) (b : Nat) (k : Bank) (m : Master) (ok : Bool) (rawOk : Bool) (raw : List Byte) (st : _), s.hub.live = true ∧ s.hub.nocUp = true ∧ b < 4 ∧ SMap.get {} s.hub.ce.bank b = k ∧ k.busy = true ∧ k.owner = some m ∧ k.decode = true ∧ decodeBlock (s.mem.hbmRead (k.src + k.inDone) (Nat.min 65544 (k.len - k.inDone))) = .bad st ∧ s.hub.inTurn (.ceBlockRelease b raw ok rawOk) = true :=
  ⟨(world fun h => { h with ce := { bank := [(0, { busy := true, owner := some .pair, decode := true, len := 24, limit := 1 })] } }), 0, { busy := true, owner := some .pair, decode := true, len := 24, limit := 1 }, .pair, true, true, [], 0x0B00, by decide +kernel⟩

theorem wit_BushelRoundTrip_0 :
    ∃ (set : Nat) (flags : Nat) (force : Bool) (raw : List Byte) (x : _) (body : _), 0 < raw.length ∧ raw.length ≤ 65520 ∧ (flags = 0 ∨ flags = 4 ∨ flags = 8) ∧ bestBody set force raw = some (x, body) :=
  ⟨3, 4, false, (List.replicate 100 0), 0, [0x7E, 35], by decide +kernel⟩

theorem wit_BushelRoundTrip_1 :
    ∃ (flags : Nat) (raw : List Byte), 0 < raw.length ∧ raw.length ≤ 65520 ∧ (flags = 0 ∨ flags = 4 ∨ flags = 8) :=
  ⟨8, (List.replicate 65520 0), by refine ⟨by rw [List.length_replicate]; decide, by rw [List.length_replicate], by decide⟩⟩

theorem wit_BushelRoundTrip_2 :
    ∃ (flags : Nat) (raw : List Byte), 0 < raw.length ∧ raw.length ≤ 65520 ∧ (flags = 0 ∨ flags = 4 ∨ flags = 8) :=
  ⟨0, [0], by decide +kernel⟩

theorem wit_SecurityChecks_0 (hv : Config.ecdsaVerify [1] (sha384 (slice (leBytes 4 0x454C4F52 ++ leBytes 2 1 ++ [1, 1] ++ leBytes 4 86400 ++ zeros 148) 0 0x40)) (slice (leBytes 4 0x454C4F52 ++ leBytes 2 1 ++ [1, 1] ++ leBytes 4 86400 ++ zeros 148) 0x40 96) = true) :
    ∃ (s : State) (m : Master) (c : SecCheck), s.hub.live = true ∧ (s.hub.getSecM m).check = some c ∧ s.hub.lodgeWaits m c = false ∧ c.op = 1 ∧ s.hub.roleReason m c.buf c.nonce = 0 ∧ (s.hub.getSecM m).role = 0 ∧ s.hub.inTurn (.secCheckComplete m) = true :=
  ⟨(world fun h => { h with sec := { m := [(2, { check := some (⟨1, 0, leBytes 4 0x454C4F52 ++ leBytes 2 1 ++ [1, 1] ++ leBytes 4 86400 ++ zeros 148, [], 1, 0⟩) })] }, boot := { h.boot with keys := { valid := true, opValid := true, op := [1] } } }), .host, ⟨1, 0, leBytes 4 0x454C4F52 ++ leBytes 2 1 ++ [1, 1] ++ leBytes 4 86400 ++ zeros 148, [], 1, 0⟩, by decide +kernel, by decide +kernel, by decide +kernel, by decide +kernel, Eq.trans (b := if Config.ecdsaVerify [1] (sha384 (slice (leBytes 4 0x454C4F52 ++ leBytes 2 1 ++ [1, 1] ++ leBytes 4 86400 ++ zeros 148) 0 0x40)) (slice (leBytes 4 0x454C4F52 ++ leBytes 2 1 ++ [1, 1] ++ leBytes 4 86400 ++ zeros 148) 0x40 96) then 0 else 10) rfl (by rw [hv]; rfl), by decide +kernel, by decide +kernel⟩

theorem wit_SecurityChecks_1 :
    ∃ (s : State) (m : Master) (c : SecCheck), s.hub.live = true ∧ (s.hub.getSecM m).check = some c ∧ s.hub.lodgeWaits m c = false ∧ c.op = 1 ∧ s.hub.roleReason m c.buf c.nonce ≠ 0 ∧ s.hub.inTurn (.secCheckComplete m) = true :=
  ⟨(world fun h => { h with sec := { m := [(2, { check := some (⟨1, 0, [], [], 1, 0⟩) })] } }), .host, ⟨1, 0, [], [], 1, 0⟩, by decide +kernel⟩

theorem wit_SecurityChecks_2 (hv : Config.p384Valid (slice [] 0 96) = true) (hw : Config.p384Valid (slice [] 96 96) = true) :
    ∃ (s : State) (m : Master) (c : SecCheck), s.hub.live = true ∧ (s.hub.getSecM m).check = some c ∧ s.hub.lodgeWaits m c = false ∧ c.op = 3 ∧ s.hub.ownerStatus c.slice c.buf = stOk ∧ s.hub.inTurn (.secCheckComplete m) = true :=
  ⟨(world fun h => { h with sec := { m := [(2, { check := some (⟨3, 63, [], [], 1, 0⟩) })] }, slc := { e := [(63, { st := .active, pasid := 0xFFFFF })], keys := [(63, { sigPub := [2], cur := { keyId := 0 } })] } }), .host, ⟨3, 63, [], [], 1, 0⟩, by decide +kernel, by decide +kernel, by decide +kernel, by decide +kernel, Eq.trans (b := if Config.p384Valid (slice [] 0 96) && Config.p384Valid (slice [] 96 96) then stOk else stSecFormat) rfl (by rw [hv, hw]; rfl), by decide +kernel⟩

theorem wit_SecurityChecks_3 (hv : Config.ecdsaVerify [2] (sha384 (slice (leBytes 4 0x54534E43 ++ leBytes 2 1 ++ [1, 63] ++ leBytes 4 1048575 ++ zeros 180) 0 0x60)) (slice (leBytes 4 0x54534E43 ++ leBytes 2 1 ++ [1, 63] ++ leBytes 4 1048575 ++ zeros 180) 0x60 96) = true) :
    ∃ (s : State) (m : Master) (c : SecCheck), s.hub.live = true ∧ (s.hub.getSecM m).check = some c ∧ s.hub.lodgeWaits m c = false ∧ c.op = 4 ∧ s.hub.tokenReason c = 0 ∧ leAt c.buf 6 1 = 1 ∧ s.hub.inTurn (.secCheckComplete m) = true :=
  ⟨(world fun h => { h with sec := { m := [(2, { check := some ⟨4, 0, leBytes 4 0x54534E43 ++ leBytes 2 1 ++ [1, 63] ++ leBytes 4 1048575 ++ zeros 180, [], 1, 0⟩ })] }, slc := { e := [(63, { st := .active, pasid := 0xFFFFF })], keys := [(63, { owner := [1], sigPub := [2], cur := { keyId := 0 }, kexPub := [4] })] } }), .host, ⟨4, 0, leBytes 4 0x54534E43 ++ leBytes 2 1 ++ [1, 63] ++ leBytes 4 1048575 ++ zeros 180, [], 1, 0⟩, by decide +kernel, by decide +kernel, by decide +kernel, by decide +kernel, Eq.trans (b := if Config.ecdsaVerify [2] (sha384 (slice (leBytes 4 0x54534E43 ++ leBytes 2 1 ++ [1, 63] ++ leBytes 4 1048575 ++ zeros 180) 0 0x60)) (slice (leBytes 4 0x54534E43 ++ leBytes 2 1 ++ [1, 63] ++ leBytes 4 1048575 ++ zeros 180) 0x60 96) then 0 else 10) rfl (by rw [hv]; rfl), by decide +kernel, by decide +kernel⟩

theorem wit_SecurityChecks_4 (hv : Config.ecdsaVerify [2] (sha384 (slice (leBytes 4 0x54534E43 ++ leBytes 2 1 ++ [2, 63] ++ leBytes 4 1048575 ++ zeros 180) 0 0x60)) (slice (leBytes 4 0x54534E43 ++ leBytes 2 1 ++ [2, 63] ++ leBytes 4 1048575 ++ zeros 180) 0x60 96) = true) :
    ∃ (s : State) (m : Master) (c : SecCheck), s.hub.live = true ∧ (s.hub.getSecM m).check = some c ∧ s.hub.lodgeWaits m c = false ∧ c.op = 4 ∧ s.hub.tokenReason c = 0 ∧ leAt c.buf 6 1 = 2 ∧ (s.hub.getKeys (leAt c.buf 7 1)).rekey = false ∧ s.hub.inTurn (.secCheckComplete m) = true :=
  ⟨(world fun h => { h with sec := { m := [(2, { check := some ⟨4, 0, leBytes 4 0x54534E43 ++ leBytes 2 1 ++ [2, 63] ++ leBytes 4 1048575 ++ zeros 180, [], 1, 0⟩ })] }, slc := { e := [(63, { st := .active, pasid := 0xFFFFF })], keys := [(63, { owner := [1], sigPub := [2], cur := { keyId := 0 }, kexPub := [4] })] } }), .host, ⟨4, 0, leBytes 4 0x54534E43 ++ leBytes 2 1 ++ [2, 63] ++ leBytes 4 1048575 ++ zeros 180, [], 1, 0⟩, by decide +kernel, by decide +kernel, by decide +kernel, by decide +kernel, Eq.trans (b := if Config.ecdsaVerify [2] (sha384 (slice (leBytes 4 0x54534E43 ++ leBytes 2 1 ++ [2, 63] ++ leBytes 4 1048575 ++ zeros 180) 0 0x60)) (slice (leBytes 4 0x54534E43 ++ leBytes 2 1 ++ [2, 63] ++ leBytes 4 1048575 ++ zeros 180) 0x60 96) then 0 else 10) rfl (by rw [hv]; rfl), by decide +kernel, by decide +kernel, by decide +kernel⟩

theorem wit_SecurityChecks_5 (hv : Config.ecdsaVerify [2] (sha384 (slice (leBytes 4 0x54534E43 ++ leBytes 2 1 ++ [3, 63] ++ leBytes 4 1048575 ++ zeros 180) 0 0x60)) (slice (leBytes 4 0x54534E43 ++ leBytes 2 1 ++ [3, 63] ++ leBytes 4 1048575 ++ zeros 180) 0x60 96) = true) :
    ∃ (s : State) (m : Master) (c : SecCheck), s.hub.live = true ∧ (s.hub.getSecM m).check = some c ∧ s.hub.lodgeWaits m c = false ∧ c.op = 4 ∧ s.hub.tokenReason c = 0 ∧ leAt c.buf 6 1 = 3 ∧ s.hub.inTurn (.secCheckComplete m) = true :=
  ⟨(world fun h => { h with sec := { m := [(2, { check := some ⟨4, 0, leBytes 4 0x54534E43 ++ leBytes 2 1 ++ [3, 63] ++ leBytes 4 1048575 ++ zeros 180, [], 1, 0⟩ })] }, slc := { e := [(63, { st := .active, pasid := 0xFFFFF })], keys := [(63, { owner := [1], sigPub := [2], cur := { keyId := 0 }, kexPub := [4] })] } }), .host, ⟨4, 0, leBytes 4 0x54534E43 ++ leBytes 2 1 ++ [3, 63] ++ leBytes 4 1048575 ++ zeros 180, [], 1, 0⟩, by decide +kernel, by decide +kernel, by decide +kernel, by decide +kernel, Eq.trans (b := if Config.ecdsaVerify [2] (sha384 (slice (leBytes 4 0x54534E43 ++ leBytes 2 1 ++ [3, 63] ++ leBytes 4 1048575 ++ zeros 180) 0 0x60)) (slice (leBytes 4 0x54534E43 ++ leBytes 2 1 ++ [3, 63] ++ leBytes 4 1048575 ++ zeros 180) 0x60 96) then 0 else 10) rfl (by rw [hv]; rfl), by decide +kernel, by decide +kernel⟩

theorem wit_SecurityChecks_6 :
    ∃ (s : State) (m : Master) (c : SecCheck), s.hub.live = true ∧ (s.hub.getSecM m).check = some c ∧ s.hub.lodgeWaits m c = false ∧ c.op = 4 ∧ s.hub.tokenReason c ≠ 0 ∧ s.hub.inTurn (.secCheckComplete m) = true :=
  ⟨(world fun h => { h with sec := { m := [(2, { check := some ⟨4, 0, [], [], 1, 0⟩ })] } }), .host, ⟨4, 0, [], [], 1, 0⟩, by decide +kernel⟩

theorem wit_Transfers_0 :
    ∃ (s : State) (e : Nat) (r : Rmo) (signal : Option FenceRef) (value : Nat), s.hub.live = true ∧ e < 16 ∧ s.hub.unitRuns (engineUnit e) = true ∧ (s.hub.getCtx r.context).st = .active ∧ (s.hub.getEngine e).queued (s.hub.getCtx r.context).slice < s.hub.share (s.hub.getCtx r.context).slice ∧ (s.hub.getEngine e).queue.length < 256 ∧ s.hub.inTurn (.transferArrive e r signal value) = true :=
  ⟨(world fun h => { h with ctx := [(262143, { st := .active })] }), 15, (rmo .put 2), none, 0, by decide +kernel⟩

theorem wit_Transfers_1 :
    ∃ (s : State) (e : Nat) (r : Rmo) (signal : Option FenceRef) (value : Nat), s.hub.live = true ∧ e < 16 ∧ s.hub.unitRuns (engineUnit e) = true ∧ (s.hub.getCtx r.context).st = .active ∧ s.hub.share (s.hub.getCtx r.context).slice ≤ (s.hub.getEngine e).queued (s.hub.getCtx r.context).slice ∧ s.hub.inTurn (.transferArrive e r signal value) = true :=
  ⟨(world fun h => { h with ctx := [(262143, { st := .active })], slc := { engine := [(15, { q := List.replicate 256 { slice := 0, context := 262143, tag := 1, len := 64, signal := none, value := 0, mode := 0, op := 0, level := 0, started := false, aborting := false } })] } }), 15, (rmo .put 2), none, 0, by decide +kernel⟩

theorem wit_Transfers_2 :
    ∃ (s : State) (e : Nat) (r : Rmo) (signal : Option FenceRef) (value : Nat) (b : Nat) (a : List Transfer) (q : List Transfer) (x : Transfer), s.hub.live = true ∧ e < 16 ∧ s.hub.unitRuns (engineUnit e) = true ∧ (s.hub.getCtx r.context).st = .active ∧ 256 ≤ (s.hub.getEngine e).queue.length ∧ (s.hub.getEngine e).queued (s.hub.getCtx r.context).slice < s.hub.share (s.hub.getCtx r.context).slice ∧ s.hub.excess (s.hub.getEngine e) = some b ∧ (s.hub.getEngine e).q = a ++ x :: q ∧ x.slice = b ∧ x.started = false ∧ (∀ y ∈ q, ¬ (y.slice = b ∧ y.started = false)) ∧ s.hub.inTurn (.transferArrive e r signal value) = true :=
  ⟨(world fun h => { h with ctx := [(5, { st := .active, slice := 1 })], slc := { engine := [(15, { q := ({ issuer := 7, slice := 62, context := 1, tag := 1, len := 64, started := true } :: List.replicate 254 { issuer := 5, slice := 62, context := 1, tag := 1, len := 64 }) ++ { issuer := 6, slice := 62, context := 1, tag := 9, len := 32 } :: [{ issuer := 6, slice := 63, context := 2, tag := 5, len := 64 }] })] } }), 15, { rmo .put 4 with context := 5 }, (some ⟨0, 9⟩), 7, 62, { issuer := 7, slice := 62, context := 1, tag := 1, len := 64, started := true } :: List.replicate 254 { issuer := 5, slice := 62, context := 1, tag := 1, len := 64 }, [{ issuer := 6, slice := 63, context := 2, tag := 5, len := 64 }], { issuer := 6, slice := 62, context := 1, tag := 9, len := 32 }, by decide +kernel⟩

theorem wit_Transfers_3 :
    ∃ (s : State) (e : Nat) (k : Nat) (a : List Transfer) (q : List Transfer) (x : Transfer), s.hub.live = true ∧ e < 16 ∧ s.hub.unitRuns (engineUnit e) = true ∧ s.hub.nextTurn e (s.hub.getEngine e) = some k ∧ (s.hub.getEngine e).q = a ++ x :: q ∧ (∀ y ∈ a, ¬ (y.slice = k ∧ y.started = false)) ∧ x.slice = k ∧ x.started = false ∧ s.hub.inTurn (.transferStart e) = true :=
  ⟨(world fun h => { h with slc := { engine := [(15, { turn := 62, used := 16, q := [{ slice := 62, context := 1, tag := 1, len := 64, signal := none, value := 0, mode := 0, op := 0, level := 0, started := false, aborting := false }, { slice := 63, context := 262143, tag := 1, len := 64, signal := none, value := 0, mode := 0, op := 0, level := 0, started := false, aborting := false }] })] } }), 15, 63, [{ slice := 62, context := 1, tag := 1, len := 64, signal := none, value := 0, mode := 0, op := 0, level := 0, started := false, aborting := false }], [], { slice := 63, context := 262143, tag := 1, len := 64, signal := none, value := 0, mode := 0, op := 0, level := 0, started := false, aborting := false }, by decide +kernel⟩

theorem wit_Transfers_4 :
    ∃ (s : State) (e : Nat) (c : Nat) (a : List Transfer) (q : List Transfer) (x : Transfer), s.hub.live = true ∧ e < 16 ∧ s.hub.unitRuns (engineUnit e) = true ∧ (s.hub.getEngine e).q = a ++ x :: q ∧ (∀ y ∈ a, ¬ (y.started = true ∧ y.context = c)) ∧ x.started = true ∧ x.context = c ∧ x.signal = none ∧ s.hub.inTurn (.transferEnd e c stOk) = true :=
  ⟨(world fun h => { h with slc := { engine := [(15, { q := [{ slice := 62, context := 1, tag := 1, len := 64, signal := none, value := 0, mode := 0, op := 0, level := 0, started := false, aborting := false }, { slice := 63, context := 262143, tag := 1, len := 64, signal := none, value := 0, mode := 0, op := 0, level := 0, started := true, aborting := false }] })] } }), 15, 262143, [{ slice := 62, context := 1, tag := 1, len := 64, signal := none, value := 0, mode := 0, op := 0, level := 0, started := false, aborting := false }], [], { slice := 63, context := 262143, tag := 1, len := 64, signal := none, value := 0, mode := 0, op := 0, level := 0, started := true, aborting := false }, by decide +kernel⟩

theorem wit_Transfers_5 :
    ∃ (s : State) (e : Nat) (c : Nat) (a : List Transfer) (q : List Transfer) (x : Transfer) (ref : FenceRef), s.hub.live = true ∧ e < 16 ∧ s.hub.unitRuns (engineUnit e) = true ∧ (s.hub.getEngine e).q = a ++ x :: q ∧ (∀ y ∈ a, ¬ (y.started = true ∧ y.context = c)) ∧ x.started = true ∧ x.context = c ∧ x.signal = some ref ∧ ref.pkg = s.hub.pkg ∧ s.hub.maySignal ref.id (some x.slice) = true ∧ (s.hub.getFence ref.id).st ≠ .error ∧ (s.hub.getFence ref.id).waiters = [] ∧ (s.hub.getFence ref.id).cyc ≠ s.hub.clk.cycle + 1 ∧ ahead64 x.value (s.hub.getFence ref.id).value = true ∧ s.hub.inTurn (.transferEnd e c stOk) = true :=
  ⟨(world fun h => { h with fence := [(5, { st := .signalled, value := 8 })], slc := { unit := [(0, 63)], engine := [(15, { q := [{ slice := 62, context := 1, tag := 1, len := 64 }, { issuer := 6, slice := 63, context := 262143, tag := 1, len := 64, signal := some ⟨0, 5⟩, value := 9, started := true }] })] } }), 15, 262143, [{ slice := 62, context := 1, tag := 1, len := 64 }], [], { issuer := 6, slice := 63, context := 262143, tag := 1, len := 64, signal := some ⟨0, 5⟩, value := 9, started := true }, ⟨0, 5⟩, by decide +kernel⟩

theorem wit_Transfers_6 :
    ∃ (s : State) (e : Nat) (c : Nat) (a : List Transfer) (q : List Transfer) (x : Transfer), s.hub.live = true ∧ e < 16 ∧ s.hub.unitRuns (engineUnit e) = true ∧ (s.hub.getEngine e).q = a ++ x :: q ∧ (∀ y ∈ a, ¬ (y.started = true ∧ y.context = c)) ∧ x.started = true ∧ x.context = c ∧ x.signal = none ∧ x.aborting = true ∧ s.hub.inTurn (.transferEnd e c stAborted) = true :=
  ⟨(world fun h => { h with slc := { e := [(63, { st := .resetting })], engine := [(15, { q := [{ slice := 62, context := 1, tag := 1, len := 64 }, { issuer := 6, slice := 63, context := 262143, tag := 1, len := 64, value := 9, started := true, aborting := true }] })] } }), 15, 262143, [{ slice := 62, context := 1, tag := 1, len := 64 }], [], { issuer := 6, slice := 63, context := 262143, tag := 1, len := 64, value := 9, started := true, aborting := true }, by decide +kernel⟩

theorem wit_Transfers_7 :
    ∃ (s : State) (k : Nat) (e : _), s.hub.live = true ∧ (s.hub.getSlice k).st = .resetting ∧ e ∈ (s.hub.getSlice k).engines ∧ (s.hub.getEngine e).held k = 0 ∧ s.hub.inTurn (.engineResetReport e k) = true :=
  ⟨(world fun h => { h with slc := { e := [(63, { st := .resetting, engines := [15] })] } }), 63, 15, by decide +kernel⟩

theorem wit_Transfers_8 :
    ∃ (s : State) (k : Nat), s.hub.live = true ∧ (s.hub.getSlice k).st = .resetting ∧ (s.hub.getSlice k).reset + 100000 ≤ s.hub.now ∧ s.hub.classOn 3 = true ∧ s.hub.er.sysq.length < 32 ∧ (∀ e, e < 16 → (s.hub.getEngine e).held k = 0) ∧ s.hub.inTurn (.sliceResetTimeout k) = true :=
  ⟨(world fun h => { h with slc := { e := [(63, { st := .resetting, engines := [15], reset := 10000000000 - 100000 })] } }), 63, by decide +kernel⟩

theorem wit_Transfers_9 :
    ∃ (s : State) (k : Nat) (e : Nat) (x : Transfer), s.hub.live = true ∧ (s.hub.getSlice k).st = .resetting ∧ (s.hub.getSlice k).reset + 100000 ≤ s.hub.now ∧ s.hub.classOn 3 = true ∧ s.hub.er.sysq.length < 32 ∧ e < 16 ∧ (s.hub.getEngine e).q = [x] ∧ x.slice = k ∧ x.signal = none ∧ (∀ d, d < 16 → d ≠ e → (s.hub.getEngine d).held k = 0) ∧ s.hub.inTurn (.sliceResetTimeout k) = true :=
  ⟨(world fun h => { h with slc := { e := [(63, { st := .resetting, reset := 9999900000 })], engine := [(15, { q := [{ issuer := 6, slice := 63, context := 262143, tag := 1, len := 64, value := 9, started := true, aborting := true }] })] } }), 63, 15, { issuer := 6, slice := 63, context := 262143, tag := 1, len := 64, value := 9, started := true, aborting := true }, by decide +kernel⟩

theorem wit_EpochBoundary_0 :
    ∃ (s : State), s.hub.live = true ∧ quietBoundary s.hub ∧ s.hub.chain.cur = none ∧ s.hub.slc.ordersEpoch ≠ s.hub.clk.epoch + 1 ∧ s.hub.inTurn .epochBoundary = true :=
  ⟨(world fun h => { h with clk := { h.clk with epochCycle := 4096 } }), by unfold quietBoundary; decide +kernel⟩

theorem wit_EpochBoundary_1 :
    ∃ (s : State) (c : Commit) (m : Master) (r : Rws), s.hub.live = true ∧ quietBoundary s.hub ∧ s.hub.chain.cur = some c ∧ c.effective = some (s.hub.clk.epoch + 1) ∧ c.owner = .master m ∧ s.hub.slc.ordersEpoch ≠ s.hub.clk.epoch + 1 ∧ s.hub.rws = [(0x100, r)] ∧ r.st = .staged ∧ (∀ x k, (s.hub.getSrc x k).st = .off) ∧ s.hub.inTurn .epochBoundary = true :=
  ⟨(world fun h => { h with clk := { h.clk with epochCycle := 4096 }, chain := { cur := some { owner := .master .host, scope := 3, target := 0, effective := some 6 } }, rws := [(0x100, ⟨1, 1, 0, .staged⟩)] }), { owner := .master .host, scope := 3, target := 0, effective := some 6 }, .host, ⟨1, 1, 0, .staged⟩, by unfold quietBoundary; and_intros <;> first | decide +kernel | exact fun _ _ => rfl⟩

theorem wit_EpochBoundary_2 :
    ∃ (s : State) (u : Nat) (k : Nat), s.hub.live = true ∧ quietBoundary s.hub ∧ s.hub.chain.cur = none ∧ s.hub.slc.moves = [(u, k)] ∧ s.hub.slc.orders = [u] ∧ s.hub.slc.ordersEpoch = s.hub.clk.epoch + 1 ∧ (s.hub.getSlice k).st = .active ∧ s.hub.moveDeferred u = false ∧ unitOk u = true ∧ s.hub.unitSlice u < 64 ∧ s.hub.classOn 3 = true ∧ s.hub.er.sysq.length < 32 ∧ s.hub.inTurn .epochBoundary = true :=
  ⟨(world fun h => { h with clk := { h.clk with epochCycle := 4096 }, slc := { e := [(63, { st := .active })], moves := [(9464, 63)], orders := [9464], ordersEpoch := 6 } }), 9464, 63, by unfold quietBoundary; decide +kernel⟩

theorem wit_SleepRailsAndClocks_0 :
    ∃ (s : State) (u : _), s.hub.live = true ∧ unitOk u = true ∧ s.hub.boot.units = true ∧ isTileUnit u = true ∧ (s.hub.getStn (unitStn u)).powerGated = false ∧ s.hub.inTurn (.unitSleep u .power) = true :=
  ⟨(world fun h => h), 8191, by decide +kernel⟩

theorem wit_SleepRailsAndClocks_1 :
    ∃ (s : State) (u : Nat), s.hub.live = true ∧ unitOk u = true ∧ s.hub.boot.units = true ∧ isTileUnit u = true ∧ (s.hub.getStn (unitStn u)).powerGated = true ∧ quietSleep s.hub ∧ s.hub.inTurn (.unitWake u .power) = true :=
  ⟨(world fun h => { h with stn := [(1023, { powerGated := true })] }), 8191, by decide +kernel, by decide +kernel, by decide +kernel, by decide +kernel, by decide +kernel, ⟨fun x k => by refine SMap.get_all (fun y : Src => y.st = .off) {} _ rfl ?_ k; exact SMap.get_all (fun y : Stn => ∀ e ∈ y.src, e.2.st = .off) {} _ (by decide) (by decide) x, fun x => SMap.get_all (fun y : Stn => y.thaw = []) {} _ rfl (by decide) x⟩, by decide +kernel⟩

theorem wit_SleepRailsAndClocks_2 :
    ∃ (s : State) (d : Nat), s.hub.live = true ∧ domainGateable d = true ∧ bit s.hub.boot.domains d = true ∧ (d < 25 → s.hub.boot.units = true) ∧ quietSleep s.hub ∧ bit s.hub.gated d = false ∧ s.hub.inTurn (.unitSleep d .clock) = true :=
  ⟨(world fun h => h), 26, by decide +kernel, by decide +kernel, by decide +kernel, by decide +kernel, ⟨fun _ _ => rfl, fun _ => rfl⟩, by decide +kernel, by decide +kernel⟩

theorem wit_SleepRailsAndClocks_3 :
    ∃ (s : State) (d : Nat), s.hub.live = true ∧ domainGateable d = true ∧ bit s.hub.boot.domains d = true ∧ (d < 25 → s.hub.boot.units = true) ∧ quietSleep s.hub ∧ bit s.hub.gated d = true ∧ s.hub.inTurn (.unitWake d .clock) = true :=
  ⟨(world fun h => { h with gated := 2 ^ 19 + 1, stn := [(0, { clkGated := 0xFF })] }), 0, by decide +kernel, by decide +kernel, by decide +kernel, by decide +kernel, ⟨fun x k => by refine SMap.get_all (fun y : Src => y.st = .off) {} _ rfl ?_ k; exact SMap.get_all (fun y : Stn => ∀ e ∈ y.src, e.2.st = .off) {} _ (by decide) (by decide) x, fun x => SMap.get_all (fun y : Stn => y.thaw = []) {} _ rfl (by decide) x⟩, by decide +kernel, by decide +kernel⟩

theorem wit_SleepRailsAndClocks_4 :
    ∃ (s : State), s.hub.live = true ∧ s.hub.rail.low = none ∧ s.hub.inTurn .railBelowNominal = true :=
  ⟨(world fun h => h), by decide +kernel⟩

theorem wit_SleepRailsAndClocks_5 :
    ∃ (s : State), s.hub.live = true ∧ s.hub.inTurn .railRestored = true :=
  ⟨(world fun h => { h with rail := { low := some 5 } }), by decide +kernel⟩

theorem wit_SleepRailsAndClocks_6 :
    ∃ (s : State) (n : _), s.hub.live = true ∧ s.hub.rail.low = some n ∧ s.hub.rail.collapsed = false ∧ n + 1000 ≤ s.hub.clk.realNs ∧ quietSleep s.hub ∧ s.hub.dmp.st = .idle ∧ s.hub.dmp.fires = [] ∧ (∀ b, b < 4 → (SMap.get {} s.hub.ce.bank b).owner = none) ∧ s.hub.fwRuns = false ∧ s.hub.inTurn .railCollapse = true :=
  ⟨(world fun h => { h with boot := { h.boot with pairRunning := false }, rail := { low := some (10000000000 - 1000) } }), (10000000000 - 1000), by and_intros <;> first | decide +kernel | exact fun _ => rfl | exact fun _ _ => rfl⟩

theorem wit_SleepRailsAndClocks_7 :
    ∃ (s : State) (n : Nat), s.hub.live = true ∧ s.hub.clk.monitorArmed = true ∧ 634 ≤ n ∧ n ≤ 646 ∧ s.hub.inTurn (.clockMonitorWindow n) = true :=
  ⟨(world fun h => { h with clk := { h.clk with monitorArmed := true } }), 646, by decide +kernel⟩

theorem wit_SleepRailsAndClocks_8 :
    ∃ (s : State) (n : Nat) (c : Instr) (loss : Bool), s.hub.live = true ∧ s.hub.clk.monitorArmed = true ∧ (c = .clockMonitorWindow n ∧ (n < 634 ∨ 646 < n) ∧ loss = false ∨ c = .pllLossOfLock n ∧ loss = true) ∧ quietSleep s.hub ∧ s.hub.dmp.st = .idle ∧ s.hub.dmp.fires = [] ∧ (∀ b, b < 4 → (SMap.get {} s.hub.ce.bank b).owner = none) ∧ s.hub.boot.phase = 11 ∧ s.hub.fwRuns = false ∧ s.hub.er.sysq.length < 32 ∧ s.hub.inTurn c = true :=
  ⟨(world fun h => { h with clk := { h.clk with monitorArmed := true }, boot := { h.boot with pairRunning := false } }), 647, (.clockMonitorWindow 647), false, by refine ⟨rfl, rfl, Or.inl ⟨rfl, by decide, rfl⟩, ⟨fun _ _ => rfl, fun _ => rfl⟩, ?_⟩; decide +kernel⟩

theorem wit_TimebaseMarksAndCalendar_0 :
    ∃ (s : State) (n : Nat), s.hub.live = true ∧ s.hub.clk.started = true ∧ s.hub.observed n = true ∧ (s.hub.getStn n).tbOn = false ∧ s.hub.inTurn (.timebaseStartFlit n) = true :=
  ⟨(world fun h => h), 1183, by decide +kernel⟩

theorem wit_TimebaseMarksAndCalendar_1 :
    ∃ (s : State) (n : Nat) (v : _), s.hub.live = true ∧ s.hub.clk.started = true ∧ s.hub.observed n = true ∧ (s.hub.getStn n).tbOn = true ∧ s.hub.clk.epoch % 256 = 0 ∧ s.hub.tbError n v ≠ 0 ∧ (s.hub.tbError n v).natAbs ≤ 8 ∧ s.hub.inTurn (.timebaseCheckFlit n v) = true :=
  ⟨(world fun h => { h with clk := { h.clk with epoch := 256 }, stn := [(1183, { tbOn := true })] }), 1183, 9999999992, by decide +kernel⟩

theorem wit_TimebaseMarksAndCalendar_2 :
    ∃ (s : State) (n : Nat) (v : _), s.hub.live = true ∧ s.hub.clk.started = true ∧ s.hub.observed n = true ∧ (s.hub.getStn n).tbOn = true ∧ s.hub.clk.epoch % 256 = 0 ∧ s.hub.tbError n v ≠ 0 ∧ 8 < (s.hub.tbError n v).natAbs ∧ s.hub.er.sysq.length < 32 ∧ s.hub.inTurn (.timebaseCheckFlit n v) = true :=
  ⟨(world fun h => { h with clk := { h.clk with epoch := 256 }, stn := [(1183, { tbOn := true })] }), 1183, 10000000009, by decide +kernel⟩

theorem wit_TimebaseMarksAndCalendar_3 :
    ∃ (s : State) (n : Nat), s.hub.live = true ∧ isLinkStn n = true ∧ s.hub.boot.units = true ∧ s.hub.observed n = true ∧ (s.hub.getStn n).mark.trained = true ∧ (s.hub.getStn n).tbOn = true ∧ bit (s.hub.rwGet 0x80000014 0x10038 0) 31 = true ∧ s.hub.nocUp = true ∧ (s.hub.getStn n).mark.next ≤ s.hub.stnTick n ∧ s.hub.inTurn (.timeMarkSend n) = true :=
  ⟨(world fun h => { h with rw := [(0x10038 * 4, 0x80000014)], stn := [(1103, { tbOn := true, mark := { trained := true, next := 10000000000 - 2 ^ 20 + 1 } })] }), 1103, by decide +kernel⟩

theorem wit_TimebaseMarksAndCalendar_4 :
    ∃ (s : State) (n : Nat) (b : List Byte), s.hub.live = true ∧ isLinkStn n = true ∧ s.hub.boot.units = true ∧ (s.hub.getStn n).mark.trained = true ∧ s.hub.nocUp = true ∧ b.length = 64 ∧ leAt b 0 1 = 0x20 ∧ ((s.hub.getStn n).mark.valid = false ∨ (s.hub.getStn n).mark.rxLocal ≠ s.hub.stnTick n ∨ msnAfter (leAt b 4 2) (s.hub.getStn n).mark.msn = true) ∧ s.hub.inTurn (.timeMarkReceive n b) = true :=
  ⟨(world fun h => { h with stn := [(1072, { tbOn := true, mark := { trained := true } })] }), 1072, [0x20, 0, 5, 8, 7, 0, 0, 0, 1, 2] ++ zeros 54, by decide +kernel⟩

theorem wit_TimebaseMarksAndCalendar_5 :
    ∃ (s : State) (n : Nat) (b : List Byte), s.hub.live = true ∧ isLinkStn n = true ∧ s.hub.boot.units = true ∧ (s.hub.getStn n).mark.trained = true ∧ s.hub.nocUp = true ∧ b.length = 64 ∧ leAt b 0 1 = 0x20 ∧ (s.hub.getStn n).mark.valid = true ∧ (s.hub.getStn n).mark.rxLocal = s.hub.stnTick n ∧ msnAfter (leAt b 4 2) (s.hub.getStn n).mark.msn = false ∧ s.hub.inTurn (.timeMarkReceive n b) = true :=
  ⟨(world fun h => { h with stn := [(1072, { tbOn := true, mark := { trained := true, valid := true, rxLocal := 10000000000, msn := 8 } })] }), 1072, [0x20, 0, 5, 8, 7, 0, 0, 0, 1, 2] ++ zeros 54, by decide +kernel⟩

theorem wit_TimebaseMarksAndCalendar_6 :
    ∃ (s : State) (n : Nat) (b : List Byte), s.hub.live = true ∧ isLinkStn n = true ∧ s.hub.boot.units = true ∧ (s.hub.getStn n).mark.trained = true ∧ s.hub.nocUp = true ∧ b.length = 64 ∧ leAt b 0 1 = 0x20 ∧ s.hub.inTurn (.timeMarkReceive n b) = true :=
  ⟨(world fun h => { h with stn := [(1072, { tbOn := true, mark := { trained := true, valid := true, rxLocal := 10000000000, msn := 6 } })] }), 1072, [0x20, 0, 5, 8, 7, 0, 0, 0, 1, 2] ++ zeros 54, by decide +kernel⟩

theorem wit_TimebaseMarksAndCalendar_7 :
    ∃ (s : State) (n : Nat), s.hub.live = true ∧ isLinkStn n = true ∧ s.hub.boot.units = true ∧ s.hub.inTurn (.linkRetrain n) = true :=
  ⟨(world fun h => h), 1103, by decide +kernel⟩

theorem wit_TimebaseMarksAndCalendar_8 :
    ∃ (s : State), s.hub.live = true ∧ s.hub.cal.pending = true ∧ s.hub.cal.applyAt ≤ s.hub.now ∧ s.hub.inTurn .calendarApply = true :=
  ⟨(world fun h => { h with cal := { pending := true, applyAt := 10000000000, value := 7 } }), by decide +kernel⟩

theorem wit_LoaderCourse_0 :
    ∃ (s : State) (m : Master), s.hub.live = true ∧ (m = .host ∨ m = .span) ∧ s.hub.reaches m = true ∧ s.hub.boot.phase = 5 ∧ s.hub.rst.st = 0 ∧ s.hub.ldr.st = .idle ∧ s.hub.ldr.reserved = none ∧ s.hub.inTurn (.aszStart m) = true :=
  ⟨(world fun h => { h with boot := { h.boot with phase := 5 }, ldr := { st := .idle } }), .host, by decide +kernel⟩

theorem wit_LoaderCourse_1 :
    ∃ (s : State) (m : Master), s.hub.live = true ∧ (m = .host ∨ m = .span) ∧ s.hub.reaches m = true ∧ s.hub.aszMay m = true ∧ s.hub.ldr.st ≠ .idle ∧ s.hub.inTurn (.aszStart m) = true :=
  ⟨(world fun h => { h with boot := { h.boot with phase := 5 }, ldr := { st := .header } }), .span, by decide +kernel⟩

theorem wit_LoaderCourse_2 :
    ∃ (s : State) (m : Master) (w : Nat), s.hub.live = true ∧ w < 2 ^ 32 ∧ s.hub.reaches m = true ∧ s.hub.ldr.owner ≠ some m ∧ s.hub.inTurn (.aszDataWrite m w) = true :=
  ⟨(world fun h => h), .host, 0xFFFFFFFF, by decide +kernel⟩

theorem wit_LoaderCourse_3 :
    ∃ (s : State) (m : Master) (w : Nat), s.hub.live = true ∧ w < 2 ^ 32 ∧ s.hub.reaches m = true ∧ s.hub.ldr.owner = some m ∧ s.hub.ldr.st = .payload ∧ leAt s.hub.ldr.cur.hdr 0 2 ≠ 3 ∧ s.hub.ldr.buf.length + 4 < s.hub.ldr.need ∧ s.hub.ldr.count + 4 ≤ s.hub.ldr.length ∧ s.hub.inTurn (.aszDataWrite m w) = true :=
  ⟨(world fun h => { h with boot := { h.boot with phase := 6 }, ldr := { st := .payload, owner := some .host, need := 8, length := 8, cur := { hdr := leBytes 2 1 ++ zeros 30 }, count := 4, buf := [1, 2, 3] } }), .host, 0xFFFFFFFF, by decide +kernel⟩

theorem wit_LoaderCourse_4 :
    ∃ (s : State) (m : Master) (w : Nat) (b : List Byte), s.hub.live = true ∧ w < 2 ^ 32 ∧ s.hub.reaches m = true ∧ s.hub.ldr.owner = some m ∧ s.hub.ldr.st = .header ∧ s.hub.ldr.buf.length = 60 ∧ s.hub.ldr.need = 64 ∧ b = s.hub.ldr.buf ++ leBytes 4 w ∧ s.hub.boot.phase = 6 ∧ leAt b 0 4 = 0x335A5341 ∧ leAt b 4 2 = 1 ∧ leAt b 6 2 = 0 ∧ leAt b 8 8 % 8 = 0 ∧ 64 ≤ leAt b 8 8 ∧ zeroAt b 0x12 14 = true ∧ zeroAt b 0x30 16 = true ∧ s.hub.inTurn (.aszDataWrite m w) = true :=
  ⟨(world fun h => { h with boot := { h.boot with phase := 6 }, ldr := { st := .header, owner := some .span, need := 64, buf := leBytes 4 0x335A5341 ++ leBytes 2 1 ++ leBytes 2 0 ++ leBytes 8 64 ++ zeros 44 } }), .span, 0, (leBytes 4 0x335A5341 ++ leBytes 2 1 ++ leBytes 2 0 ++ leBytes 8 64 ++ zeros 44) ++ leBytes 4 0, by decide +kernel⟩

theorem wit_LoaderCourse_5 :
    ∃ (s : State) (m : Master) (w : Nat) (b : List Byte), s.hub.live = true ∧ w < 2 ^ 32 ∧ s.hub.reaches m = true ∧ s.hub.ldr.owner = some m ∧ s.hub.ldr.st = .header ∧ s.hub.ldr.buf.length = 60 ∧ s.hub.ldr.need = 64 ∧ b = s.hub.ldr.buf ++ leBytes 4 w ∧ s.hub.boot.phase = 6 ∧ leAt b 0 4 ≠ 0x335A5341 ∧ s.hub.inTurn (.aszDataWrite m w) = true :=
  ⟨(world fun h => { h with boot := { h.boot with phase := 6 }, ldr := { st := .header, owner := some .span, need := 64, buf := leBytes 4 0x335A5342 ++ leBytes 2 1 ++ leBytes 2 1 ++ leBytes 8 64 ++ zeros 44 } }), .span, 0, (leBytes 4 0x335A5342 ++ leBytes 2 1 ++ leBytes 2 1 ++ leBytes 8 64 ++ zeros 44) ++ leBytes 4 0, by decide +kernel⟩

theorem wit_LoaderCourse_6 :
    ∃ (s : State) (m : Master) (w : Nat) (b : List Byte), s.hub.live = true ∧ w < 2 ^ 32 ∧ s.hub.reaches m = true ∧ s.hub.ldr.owner = some m ∧ s.hub.ldr.st = .header ∧ s.hub.ldr.buf.length = 60 ∧ s.hub.ldr.need = 64 ∧ b = s.hub.ldr.buf ++ leBytes 4 w ∧ s.hub.boot.phase = 11 ∧ s.hub.rst.st = 0 ∧ leAt b 6 2 = 1 ∧ zeroAt (slice b 0x20 16) 0 16 = false ∧ slice b 0x20 16 ≠ s.hub.boot.dieId ∧ s.hub.inTurn (.aszDataWrite m w) = true :=
  ⟨(world fun h => { h with sec := { m := [(3, { role := 2, leaseEnd := 2 ^ 70 })] }, ldr := { st := .header, owner := some .span, need := 64, buf := leBytes 4 0x335A5341 ++ leBytes 2 1 ++ leBytes 2 1 ++ leBytes 8 64 ++ zeros 16 ++ [1] ++ zeros 27 } }), .span, 0, (leBytes 4 0x335A5341 ++ leBytes 2 1 ++ leBytes 2 1 ++ leBytes 8 64 ++ zeros 16 ++ [1] ++ zeros 27) ++ leBytes 4 0, by decide +kernel⟩

theorem wit_LoaderCourse_7 :
    ∃ (s : State) (m : Master), s.hub.live = true ∧ (m = .host ∨ m = .span) ∧ s.hub.reaches m = true ∧ s.hub.ldr.owner = some m ∧ s.hub.loading = true ∧ s.hub.boot.phase = 6 ∧ s.hub.inTurn (.aszAbort m) = true :=
  ⟨(world fun h => { h with boot := { h.boot with phase := 6 }, ldr := { st := .payload, owner := some .host } }), .host, by decide +kernel⟩

theorem wit_LoaderCourse_8 (hv : Config.ecdsaVerify [1] (sha384 (sliceobs.hdr ++ sliceobs.body)) (padTo 96 sliceobs.sig) = true) :
    ∃ (s : State) (x : Section) (q : List Section) (key : List Byte) (c : Sys2Proof.Machine.Cand), s.hub.live = true ∧ s.hub.ldr.toVerify = x :: q ∧ s.hub.signerKey (leAt x.hdr 0 2) x.body = (stOk, key) ∧ Config.ecdsaVerify key (sha384 (x.hdr ++ x.body)) (padTo 96 x.sig) = true ∧ s.hub.takeSection x (x.record (sha384 (x.hdr ++ x.body))) = (stOk, c) ∧ s.hub.inTurn .aszSectionVerified = true :=
  ⟨(world fun h => { h with boot := { h.boot with keys := { valid := true, fw := [1], inst := [1], root := [1] } }, ldr := { mode := 1, st := .section_, toVerify := [sliceobs] } }), sliceobs, [], [1], { slices := [(0, sliceobs.record (sha384 (sliceobs.hdr ++ sliceobs.body)), [])] }, by decide +kernel, by decide +kernel, by decide +kernel, hv, rfl, by decide +kernel⟩

theorem wit_LoaderCourse_9 (hv : Config.ecdsaVerify [0xEE] (sha384 (sliceobs.hdr ++ sliceobs.body)) (padTo 96 sliceobs.sig) = false) :
    ∃ (s : State) (x : Section) (q : List Section) (key : List Byte), s.hub.live = true ∧ s.hub.ldr.toVerify = x :: q ∧ s.hub.boot.phase = 11 ∧ s.hub.rst.st = 0 ∧ s.hub.signerKey (leAt x.hdr 0 2) x.body = (stOk, key) ∧ Config.ecdsaVerify key (sha384 (x.hdr ++ x.body)) (padTo 96 x.sig) = false ∧ s.hub.inTurn .aszSectionVerified = true :=
  ⟨(world fun h => { h with boot := { h.boot with keys := { valid := true, fw := [0xEE], inst := [0xEE], root := [0xEE] } }, ldr := { mode := 1, st := .section_, toVerify := [sliceobs] } }), sliceobs, [], [0xEE], by decide +kernel, by decide +kernel, by decide +kernel, by decide +kernel, by decide +kernel, hv, by decide +kernel⟩

theorem wit_LoaderCourse_10 :
    ∃ (s : State), s.hub.live = true ∧ s.hub.ldr.st = .check ∧ s.hub.ldr.toVerify = [] ∧ s.hub.ldr.checkStatus = stOk ∧ s.hub.ldr.mode = 0 ∧ s.hub.ldr.cand.slices = [] ∧ s.hub.inTurn .aszLoadDone = true :=
  ⟨(world fun h => { h with boot := { h.boot with phase := 6 }, ldr := { st := .check, types := [1, 2, 3, 4], sectionCount := 1, mode := 0 } }), by decide +kernel⟩

theorem wit_LoaderCourse_11 :
    ∃ (s : State) (k : Nat) (r : SecRec) (ws : List (Nat × Nat)), s.hub.live = true ∧ s.hub.ldr.st = .check ∧ s.hub.ldr.toVerify = [] ∧ s.hub.ldr.checkStatus = stOk ∧ s.hub.ldr.mode = 1 ∧ s.hub.ldr.cand.slices = [(k, r, ws)] ∧ s.hub.ldr.cand.consent = [] ∧ s.hub.sliceExists k = true ∧ s.hub.inTurn .aszLoadDone = true :=
  ⟨(world fun h => { h with slc := { e := [(63, { st := .active })] }, ldr := { st := .check, mode := 1, types := [6], sectionCount := 1, section_ := 0, cand := { slices := [(63, { present := true, typ := 6, target := 63, version := 1 }, [(0x810FC, 7)])] } } }), 63, { present := true, typ := 6, target := 63, version := 1 }, [(0x810FC, 7)], by decide +kernel⟩

theorem wit_LoaderCourse_12 :
    ∃ (s : State), s.hub.live = true ∧ s.hub.ldr.st = .check ∧ s.hub.ldr.toVerify = [] ∧ s.hub.ldr.checkStatus = stOk ∧ s.hub.ldr.mode = 2 ∧ s.hub.rst.st = 2 ∧ s.hub.inTurn .aszLoadDone = true :=
  ⟨(world fun h => { h with rst := { st := 2 }, ldr := { st := .check, mode := 2, types := [3], sectionCount := 1, cand := { entry := 64, recs := [(3, { present := true, typ := 3 })] } } }), by decide +kernel⟩

theorem wit_LoaderCourse_13 :
    ∃ (s : State), s.hub.live = true ∧ s.hub.ldr.st = .check ∧ s.hub.ldr.toVerify = [] ∧ s.hub.ldr.checkStatus ≠ stOk ∧ s.hub.boot.phase = 11 ∧ s.hub.rst.st = 0 ∧ s.hub.inTurn .aszLoadDone = true :=
  ⟨(world fun h => { h with ldr := { st := .check, mode := 1, types := [6], sectionCount := 2, cand := { consent := [] } } }), by decide +kernel⟩

theorem wit_LoaderCourse_14 :
    ∃ (s : State) (k : Nat) (q : List Nat), s.hub.live = true ∧ s.hub.ldr.reload = k :: q ∧ (s.hub.getStat .loader).pending = false ∧ s.hub.sliceExists k = true ∧ s.hub.inTurn .reloadCommit = true :=
  ⟨(world fun h => { h with ldr := { reload := [63] }, slc := { e := [(63, { st := .active })] } }), 63, [], by decide +kernel⟩

theorem wit_LoaderCourse_15 :
    ∃ (s : State), s.hub.live = true ∧ (s.hub.ldr.st = .header ∨ s.hub.ldr.st = .section_ ∨ s.hub.ldr.st = .payload) ∧ s.hub.ldr.lastNs + 100000000 ≤ s.hub.clk.realNs ∧ s.hub.boot.phase = 11 ∧ s.hub.rst.st = 0 ∧ s.hub.inTurn .aszTimeout = true :=
  ⟨(world fun h => { h with boot := { h.boot with phase := 11 }, ldr := { st := .payload, owner := some .host, lastNs := 10000000000 - 100000000 } }), by decide +kernel⟩

theorem wit_LoaderCourse_16 :
    ∃ (s : State), s.hub.live = true ∧ (s.hub.ldr.st = .done ∨ s.hub.ldr.st = .failed) ∧ s.hub.ldr.endNs + 1000000 ≤ s.hub.clk.realNs ∧ s.hub.inTurn .aszIdleReturn = true :=
  ⟨(world fun h => { h with ldr := { st := .done, endNs := 10000000000 - 1000000 } }), by decide +kernel⟩

theorem wit_BringUp_0 :
    ∃ (s : State), s.hub.live = true ∧ s.hub.boot.phase = 1 ∧ s.hub.inTurn .pllLock = true :=
  ⟨(world fun h => { h with boot := { h.boot with phase := 1 } }), by decide +kernel⟩

theorem wit_BringUp_1 :
    ∃ (s : State), s.hub.live = true ∧ s.hub.boot.phase = 1 ∧ 1000000 ≤ s.hub.clk.realNs ∧ s.hub.inTurn .pllLockTimeout = true :=
  ⟨(world fun h => { h with boot := { h.boot with phase := 1 }, clk := { h.clk with realNs := 1000000 } }), by decide +kernel⟩

theorem wit_BringUp_2 :
    ∃ (s : State), s.hub.live = true ∧ s.hub.boot.phase = 2 ∧ s.hub.inTurn (.selftestDone true) = true :=
  ⟨(world fun h => { h with boot := { h.boot with phase := 2 } }), by decide +kernel⟩

theorem wit_BringUp_3 :
    ∃ (s : State), s.hub.live = true ∧ s.hub.boot.phase = 2 ∧ s.hub.inTurn (.selftestDone false) = true :=
  ⟨(world fun h => { h with boot := { h.boot with phase := 2 } }), by decide +kernel⟩

theorem wit_BringUp_4 :
    ∃ (s : State) (b : List Byte), s.hub.live = true ∧ s.hub.boot.phase = 3 ∧ s.hub.inTurn (.pufCaptureDone b) = true :=
  ⟨(world fun h => { h with boot := { h.boot with phase := 3 } }), (zeros 48), by decide +kernel⟩

theorem wit_BringUp_5 :
    ∃ (s : State), s.hub.live = true ∧ s.hub.boot.phase = 4 ∧ s.hub.chain.ringBad = 0 ∧ s.hub.inTurn (.chainTrainingDone [] []) = true :=
  ⟨(world fun h => { h with boot := { h.boot with phase := 4 } }), by decide +kernel⟩

theorem wit_BringUp_6 :
    ∃ (s : State) (x : Nat), s.hub.live = true ∧ s.hub.boot.phase = 4 ∧ s.hub.chain.ringBad = 0 ∧ x < 1184 ∧ s.hub.cnt.cur = none ∧ s.hub.er.sysq.length < 32 ∧ s.hub.inTurn (.chainTrainingDone [x] []) = true :=
  ⟨(world fun h => { h with boot := { h.boot with phase := 4 } }), 1183, by decide +kernel⟩

theorem wit_BringUp_7 :
    ∃ (s : State), s.hub.live = true ∧ s.hub.boot.phase = 4 ∧ s.hub.inTurn (.chainTrainingDone [] (List.range 32)) = true :=
  ⟨(world fun h => { h with boot := { h.boot with phase := 4 } }), by decide +kernel⟩

theorem wit_BringUp_8 :
    ∃ (s : State), s.hub.live = true ∧ s.hub.boot.phase = 7 ∧ s.hub.boot.pairRunning = true ∧ s.hub.rst.st ≠ 1 ∧ s.hub.inTurn .fwReady = true :=
  ⟨(world fun h => { h with boot := { h.boot with phase := 7, writes := [(0x81000, 0xFFFFFFFF)] } }), by decide +kernel⟩

theorem wit_BringUp_9 :
    ∃ (s : State), s.hub.live = true ∧ s.hub.boot.phase = 7 ∧ s.hub.boot.since + 100000000 ≤ s.hub.clk.realNs ∧ s.hub.inTurn .fwReadyTimeout = true :=
  ⟨(world fun h => { h with boot := { h.boot with phase := 7, since := 10000000000 - 100000000 } }), by decide +kernel⟩

theorem wit_BringUp_10 :
    ∃ (s : State), s.hub.live = true ∧ s.hub.boot.phase = 9 ∧ s.hub.inTurn (.hbmTrainingDone []) = true :=
  ⟨(world fun h => { h with boot := { h.boot with phase := 9 } }), by decide +kernel⟩

theorem wit_BringUp_11 :
    ∃ (s : State) (c : Nat), s.hub.live = true ∧ s.hub.boot.phase = 9 ∧ c < 96 ∧ tunChannel s.hub.boot.tunBase s.hub.boot.tunSize c = true ∧ s.hub.inTurn (.hbmTrainingDone [c]) = true :=
  ⟨(world fun h => { h with boot := { h.boot with phase := 9 } }), 0, by decide +kernel⟩

theorem wit_BringUp_12 :
    ∃ (s : State), s.hub.live = true ∧ s.hub.boot.phase = 10 ∧ (s.hub.getKeys 0).heldValid = false ∧ s.hub.classOn 3 = true ∧ s.hub.er.sysq.length < 32 ∧ s.hub.inTurn .tileResetComplete = true :=
  ⟨(world fun h => { h with boot := { h.boot with phase := 10 } }), by decide +kernel⟩

theorem wit_BringUp_13 :
    ∃ (s : State) (m : Master), s.hub.live = true ∧ s.hub.reaches m = true ∧ (m = .span ∨ s.hub.role m = 1 ∨ s.hub.role m = 2) ∧ s.hub.firkinHeld s.mem = true ∧ s.hub.inTurn (.firkinRelease m) = true :=
  ⟨({ world (fun h => h) with mem := { firkin := SMap.run (0 : Byte) 0 (leBytes 4 0x4E4B5246 ++ leBytes 2 1 ++ leBytes 2 2) } }), .span, by decide +kernel⟩

theorem wit_WarmRestart_0 :
    ∃ (s : State) (m : Master), s.hub.live = true ∧ m ≠ .pair ∧ s.hub.reaches m = true ∧ 2 ≤ s.hub.role m ∧ s.hub.boot.phase = 11 ∧ s.hub.loading = false ∧ s.hub.rst.st = 0 ∧ s.hub.dmp.st = .idle ∧ s.hub.inTurn (.restartReuseImage m) = true :=
  ⟨(world fun h => { h with sec := { m := [(2, { role := 2, leaseEnd := 2 ^ 70 })] } }), .host, by decide +kernel⟩

theorem wit_WarmRestart_1 :
    ∃ (s : State) (m : Master), s.hub.live = true ∧ m ≠ .pair ∧ s.hub.reaches m = true ∧ 2 ≤ s.hub.role m ∧ s.hub.boot.phase = 11 ∧ s.hub.loading = false ∧ s.hub.rst.st = 0 ∧ s.hub.dmp.st = .idle ∧ s.hub.inTurn (.restartNewImage m) = true :=
  ⟨(world fun h => { h with sec := { m := [(2, { role := 2, leaseEnd := 2 ^ 70 })] } }), .host, by decide +kernel⟩

theorem wit_WarmRestart_2 :
    ∃ (s : State), s.hub.live = true ∧ s.hub.boot.pairRunning = true ∧ 7 ≤ s.hub.boot.phase ∧ s.hub.rst.st = 0 ∧ s.hub.dmp.st = .idle ∧ s.hub.inTurn (.restartReuseImage .pair) = true :=
  ⟨(world fun h => h), by decide +kernel⟩

theorem wit_WarmRestart_3 :
    ∃ (s : State) (m : Master), s.hub.live = true ∧ m ≠ .pair ∧ s.hub.reaches m = true ∧ 2 ≤ s.hub.role m ∧ s.hub.rst.st = 1 ∧ s.hub.inTurn (.restartReuseImage m) = true :=
  ⟨(world fun h => { h with sec := { m := [(2, { role := 2, leaseEnd := 2 ^ 70 })] }, rst := { st := 1 } }), .host, by decide +kernel⟩

theorem wit_WarmRestart_4 :
    ∃ (s : State), s.hub.live = true ∧ s.hub.rst.st = 1 ∧ s.hub.rst.hashed = false ∧ s.hub.boot.imemValid = true ∧ s.hub.boot.imemBad = false ∧ s.hub.boot.imemHash = s.hub.boot.imageHash ∧ s.hub.inTurn .restartHashCheck = true :=
  ⟨(world fun h => { h with boot := { h.boot with imemValid := true, imageHash := Boot.imemHash { h.boot with imemValid := true } }, rst := { st := 1 } }), by exact ⟨rfl, rfl, rfl, rfl, rfl, rfl, by decide +kernel⟩⟩

theorem wit_WarmRestart_5 :
    ∃ (s : State), s.hub.live = true ∧ s.hub.rst.st = 1 ∧ s.hub.rst.hashed = false ∧ s.hub.boot.imemBad = true ∧ s.hub.inTurn .restartHashCheck = true :=
  ⟨(world fun h => { h with boot := { h.boot with imemBad := true }, rst := { st := 1 } }), by decide +kernel⟩

theorem wit_WarmRestart_6 :
    ∃ (s : State), s.hub.live = true ∧ s.hub.rst.st = 1 ∧ s.hub.rst.hashed = true ∧ s.hub.rst.started = false ∧ s.hub.boot.phase ≠ 13 ∧ s.hub.inTurn (.restartPairStart true) = true :=
  ⟨(world fun h => { h with rst := { st := 1, hashed := true } }), by decide +kernel⟩

theorem wit_WarmRestart_7 :
    ∃ (s : State), s.hub.live = true ∧ s.hub.rst.st = 1 ∧ s.hub.boot.pairRunning = true ∧ s.hub.boot.phase = 11 ∧ s.hub.fwDue = [] ∧ s.hub.hang.dieWaiting = false ∧ s.hub.hang.waiting = [] ∧ s.hub.inTurn .fwReady = true :=
  ⟨(world fun h => { h with rst := { st := 1, started := true } }), by decide +kernel⟩

theorem wit_WarmRestart_8 :
    ∃ (s : State), s.hub.live = true ∧ (s.hub.rst.st = 1 ∨ s.hub.rst.st = 2) ∧ s.hub.rst.timer + 100000000 ≤ s.hub.clk.cycle ∧ s.hub.er.sysq.length < 32 ∧ s.hub.inTurn .restartTimeout = true :=
  ⟨(world fun h => { h with rst := { st := 2, timer := 10000000000 - 100000000 } }), by decide +kernel⟩

theorem wit_WarmRestart_9 :
    ∃ (s : State) (pc : Nat) (o0 : Nat) (o1 : Nat), s.hub.live = true ∧ s.hub.boot.pairRunning = true ∧ s.hub.er.sysq.length < 32 ∧ s.hub.boot.phase = 7 ∧ s.hub.boot.mismatches < 2 ∧ s.hub.inTurn (.lockstepMismatch pc o0 o1) = true :=
  ⟨(world fun h => { h with boot := { h.boot with phase := 7, mismatches := 1 } }), 0, 0, 1, by decide +kernel⟩

theorem wit_WarmRestart_10 :
    ∃ (s : State) (pc : Nat) (o0 : Nat) (o1 : Nat), s.hub.live = true ∧ s.hub.boot.pairRunning = true ∧ s.hub.er.sysq.length < 32 ∧ s.hub.boot.phase = 7 ∧ s.hub.boot.mismatches = 2 ∧ s.hub.inTurn (.lockstepMismatch pc o0 o1) = true :=
  ⟨(world fun h => { h with boot := { h.boot with phase := 7, mismatches := 2 } }), 0, 0, 1, by decide +kernel⟩

theorem wit_WarmRestart_11 :
    ∃ (s : State) (pc : Nat) (o0 : Nat) (o1 : Nat), s.hub.live = true ∧ s.hub.boot.pairRunning = true ∧ s.hub.er.sysq.length < 32 ∧ 8 ≤ s.hub.boot.phase ∧ s.hub.rst.st = 0 ∧ s.hub.dmp.st = .idle ∧ s.hub.inTurn (.lockstepMismatch pc o0 o1) = true :=
  ⟨(world fun h => h), 0, 0, 1, by decide +kernel⟩

theorem wit_WarmRestart_12 :
    ∃ (s : State) (pc : Nat) (o0 : Nat) (o1 : Nat), s.hub.live = true ∧ s.hub.boot.pairRunning = true ∧ s.hub.er.sysq.length < 32 ∧ 8 ≤ s.hub.boot.phase ∧ s.hub.rst.st = 1 ∧ s.hub.rst.mismatches = 2 ∧ s.hub.inTurn (.lockstepMismatch pc o0 o1) = true :=
  ⟨(world fun h => { h with rst := { st := 1, mismatches := 2 } }), 5, 1, 2, by decide +kernel⟩

theorem wit_WarmRestart_13 :
    ∃ (s : State), s.hub.live = true ∧ s.hub.boot.pairRunning = true ∧ s.hub.inTurn .wdogKick = true :=
  ⟨(world fun h => h), by decide +kernel⟩

theorem wit_WarmRestart_14 :
    ∃ (s : State) (pc : Nat), s.hub.live = true ∧ s.hub.wdogOn = true ∧ 100000000 ≤ s.hub.wdog.silent ∧ s.hub.boot.kept = false ∧ s.hub.er.sysq.length < 32 ∧ s.hub.inTurn (.watchdogExpiry pc) = true :=
  ⟨(world fun h => { h with wdog := { silent := 100000000 } }), 0, by decide +kernel⟩

theorem wit_WarmRestart_15 :
    ∃ (s : State), s.hub.live = true ∧ s.hub.wdog.core = true ∧ s.hub.rst.st = 0 ∧ s.hub.boot.phase = 11 ∧ s.hub.dmp.st = .idle ∧ s.hub.inTurn .watchdogCrashCoreDone = true :=
  ⟨(world fun h => { h with wdog := { core := true, expired := true } }), by decide +kernel⟩

theorem wit_InterruptsAndDoorbells_0 :
    ∃ (s : State) (m : Master) (v : Nat), s.hub.live = true ∧ s.hub.reaches m = true ∧ v < 65536 ∧ (s.hub.role m = 1 ∨ s.hub.role m = 3) ∧ s.hub.inTurn (.irqEnableWrite m v) = true :=
  ⟨(world fun h => { h with sec := { m := [(2, { role := 1, leaseEnd := 2 ^ 70 })] } }), .host, 65535, by decide +kernel⟩

theorem wit_InterruptsAndDoorbells_1 :
    ∃ (s : State) (m : Master) (e : Nat), s.hub.live = true ∧ s.hub.reaches m = true ∧ e < 16 ∧ m = .host ∧ bit s.hub.irq.pba e = true ∧ s.hub.inTurn (.msixUnmask e) = true :=
  ⟨(world fun h => { h with irq := { pba := 2 ^ 15 } }), .host, 15, by decide +kernel⟩

theorem wit_InterruptsAndDoorbells_2 :
    ∃ (s : State) (m : Master) (e : Nat), s.hub.live = true ∧ s.hub.reaches m = true ∧ e < 16 ∧ m = .host ∧ bit s.hub.irq.pba e = false ∧ s.hub.inTurn (.msixUnmask e) = true :=
  ⟨(world fun h => h), .host, 0, by decide +kernel⟩

theorem wit_InterruptsAndDoorbells_3 :
    ∃ (s : State) (m : Master) (c : Nat), s.hub.live = true ∧ s.hub.reaches m = true ∧ 0 < c ∧ c < 2 ^ 32 ∧ (s.hub.role m = 1 ∨ s.hub.role m = 3) ∧ s.hub.db.fifo.length < 16 ∧ s.hub.inTurn (.hostDoorbell m c) = true :=
  ⟨(world fun h => { h with sec := { m := [(2, { role := 3, leaseEnd := 2 ^ 70 })] }, db := { fifo := List.replicate 15 1 } }), .host, 0xFFFFFFFF, by decide +kernel⟩

theorem wit_InterruptsAndDoorbells_4 :
    ∃ (s : State) (m : Master) (c : Nat), s.hub.live = true ∧ s.hub.reaches m = true ∧ 0 < c ∧ c < 2 ^ 32 ∧ (s.hub.role m = 1 ∨ s.hub.role m = 3) ∧ 16 ≤ s.hub.db.fifo.length ∧ s.hub.inTurn (.hostDoorbell m c) = true :=
  ⟨(world fun h => { h with sec := { m := [(2, { role := 3, leaseEnd := 2 ^ 70 })] }, db := { fifo := List.replicate 16 1 } }), .host, 1, by decide +kernel⟩

theorem wit_InterruptsAndDoorbells_5 :
    ∃ (s : State) (m : Master), s.hub.live = true ∧ s.hub.reaches m = true ∧ (s.hub.role m = 1 ∨ s.hub.role m = 3) ∧ s.hub.inTurn (.hostDoorbell m 0) = true :=
  ⟨(world fun h => { h with sec := { m := [(2, { role := 3, leaseEnd := 2 ^ 70 })] } }), .host, by decide +kernel⟩

theorem wit_InterruptsAndDoorbells_6 :
    ∃ (s : State) (m : Master) (c : Nat) (q : List Nat), s.hub.live = true ∧ s.hub.reaches m = true ∧ m = .pair ∧ s.hub.db.fifo = c :: q ∧ c < 2 ^ 32 ∧ s.hub.inTurn (.doorbellPop m) = true :=
  ⟨(world fun h => { h with db := { fifo := [7] } }), .pair, 7, [], by decide +kernel⟩

theorem wit_InterruptsAndDoorbells_7 :
    ∃ (s : State) (m : Master) (c : Nat), s.hub.live = true ∧ s.hub.reaches m = true ∧ m = .pair ∧ c < 65536 ∧ s.hub.inTurn (.fwDoorbell c) = true :=
  ⟨(world fun h => h), .pair, 65535, by decide +kernel⟩

theorem wit_Mailbox_0 :
    ∃ (s : State) (m : Master) (w : Nat), s.hub.live = true ∧ (m = .host ∨ m = .span) ∧ s.hub.reaches m = true ∧ w < 2 ^ 32 ∧ (s.hub.getMbx m).busy = false ∧ (s.hub.getMbx m).req.length + 4 ≤ 32768 ∧ s.hub.inTurn (.mailboxWdata m w) = true :=
  ⟨(world fun h => { h with mbx := [(2, { req := zeros 8 })] }), .host, 0xFFFFFFFF, by decide +kernel⟩

theorem wit_Mailbox_1 :
    ∃ (s : State) (m : Master) (n : Nat), s.hub.live = true ∧ (m = .host ∨ m = .span) ∧ s.hub.reaches m = true ∧ (s.hub.getMbx m).busy = false ∧ s.hub.rst.st = 0 ∧ 0 < n ∧ n ≤ 32768 ∧ roundUp 4 n ≤ (s.hub.getMbx m).req.length ∧ s.hub.inTurn (.mailboxGo m n) = true :=
  ⟨(world fun h => { h with mbx := [(2, { req := zeros 8 })] }), .host, 8, by decide +kernel⟩

theorem wit_Mailbox_2 :
    ∃ (s : State) (m : Master) (n : Nat), s.hub.live = true ∧ (m = .host ∨ m = .span) ∧ s.hub.reaches m = true ∧ n < 65536 ∧ (s.hub.getMbx m).busy = true ∧ s.hub.inTurn (.mailboxGo m n) = true :=
  ⟨(world fun h => { h with mbx := [(2, { busy := true })] }), .host, 65535, by decide +kernel⟩

theorem wit_Mailbox_3 :
    ∃ (s : State) (m : Master) (n : Nat), s.hub.live = true ∧ (m = .host ∨ m = .span) ∧ s.hub.reaches m = true ∧ n < 65536 ∧ (s.hub.getMbx m).busy = false ∧ s.hub.rst.st = 0 ∧ (n = 0 ∨ 32768 < n ∨ (s.hub.getMbx m).req.length < roundUp 4 n) ∧ s.hub.inTurn (.mailboxGo m n) = true :=
  ⟨(world fun h => { h with mbx := [(2, { req := zeros 4 })] }), .host, 32769, by decide +kernel⟩

theorem wit_Mailbox_4 :
    ∃ (s : State) (m : Master), s.hub.live = true ∧ (m = .host ∨ m = .span) ∧ s.hub.reaches m = true ∧ s.hub.inTurn (.mailboxAbort m) = true :=
  ⟨(world fun h => h), .host, by decide +kernel⟩

theorem wit_Mailbox_5 :
    ∃ (s : State) (m : Master), s.hub.live = true ∧ (m = .host ∨ m = .span) ∧ s.hub.reaches m = true ∧ (s.hub.getMbx m).ready = true ∧ s.hub.inTurn (.mailboxRdata m) = true :=
  ⟨(world fun h => { h with mbx := [(2, { ready := true, resp := [1] })] }), .host, by decide +kernel⟩

theorem wit_Mailbox_6 :
    ∃ (s : State) (m : Master) (r : List Byte), s.hub.live = true ∧ (m = .host ∨ m = .span) ∧ s.hub.reaches m = true ∧ (s.hub.getMbx m).forming = some r ∧ (s.hub.getMbx m).busy = true ∧ s.hub.inTurn (.mailboxResponseReady m) = true :=
  ⟨(world fun h => { h with mbx := [(2, { busy := true, forming := some [1] })] }), .host, [1], by decide +kernel⟩

theorem wit_Mailbox_7 :
    ∃ (s : State) (m : Master) (b : List Byte), s.hub.live = true ∧ (m = .host ∨ m = .span) ∧ s.hub.reaches m = true ∧ s.hub.spdmReq m = some b ∧ spdmCode b = 0x84 ∧ leAt b 0 1 = 0x10 ∧ s.hub.inTurn (.spdmGetVersion m) = true :=
  ⟨(world fun h => { h with mbx := [(2, { busy := true, sub := [0x10, 0x84, 0, 0] })] }), .host, [0x10, 0x84, 0, 0], by decide +kernel⟩

theorem wit_Mailbox_8 :
    ∃ (s : State) (m : Master) (b : List Byte) (r : List Byte), s.hub.live = true ∧ (m = .host ∨ m = .span) ∧ s.hub.reaches m = true ∧ s.hub.spdmReq m = some b ∧ spdmCode b = 0xE1 ∧ leAt b 0 1 = 0x12 ∧ 20 ≤ b.length ∧ r = [0x12, 0x61, 0, 0, 0, 14, 0, 0, 0x14, 0, 1, 0, 0, 0x80, 0, 0, 0, 0x80, 0, 0] ∧ s.hub.inTurn (.spdmGetCapabilities m) = true :=
  ⟨(world fun h => { h with mbx := [(2, { busy := true, sub := [0x12, 0xE1, 0, 0] ++ zeros 16 })] }), .host, [0x12, 0xE1, 0, 0] ++ zeros 16, [0x12, 0x61, 0, 0, 0, 14, 0, 0, 0x14, 0, 1, 0, 0, 0x80, 0, 0, 0, 0x80, 0, 0], by decide +kernel⟩

theorem wit_Mailbox_9 :
    ∃ (s : State) (m : Master) (b : List Byte) (r : List Byte), s.hub.live = true ∧ (m = .host ∨ m = .span) ∧ s.hub.reaches m = true ∧ s.hub.spdmReq m = some b ∧ spdmCode b = 0xE3 ∧ leAt b 0 1 = 0x12 ∧ 32 ≤ b.length ∧ leAt b 6 1 = 1 ∧ leAt b 8 4 = 0x80 ∧ leAt b 12 4 = 2 ∧ r = [0x12, 0x63, 0, 0, 36, 0, 1, 0, 4, 0, 0, 0, 0x80, 0, 0, 0, 2, 0, 0, 0] ++ zeros 16 ∧ s.hub.inTurn (.spdmNegotiateAlgorithms m) = true :=
  ⟨(world fun h => { h with mbx := [(2, { busy := true, sub := [0x12, 0xE3, 0, 0, 32, 0, 1, 0] ++ leBytes 4 0x80 ++ leBytes 4 2 ++ zeros 16 })] }), .host, [0x12, 0xE3, 0, 0, 32, 0, 1, 0] ++ leBytes 4 0x80 ++ leBytes 4 2 ++ zeros 16, [0x12, 0x63, 0, 0, 36, 0, 1, 0, 4, 0, 0, 0, 0x80, 0, 0, 0, 2, 0, 0, 0] ++ zeros 16, by decide +kernel⟩

theorem wit_Mailbox_10 :
    ∃ (s : State) (m : Master) (b : List Byte), s.hub.live = true ∧ (m = .host ∨ m = .span) ∧ s.hub.reaches m = true ∧ s.hub.spdmReq m = some b ∧ spdmCode b = 0x83 ∧ leAt b 0 1 = 0x12 ∧ 36 ≤ b.length ∧ leAt b 2 1 = 0xFF ∧ leAt b 3 1 = 0 ∧ s.hub.inTurn (.spdmChallenge m) = true :=
  ⟨(world fun h => { h with mbx := [(2, { busy := true, sub := [0x12, 0x83, 0xFF, 0] ++ zeros 32 })] }), .host, [0x12, 0x83, 0xFF, 0] ++ zeros 32, by decide +kernel⟩

theorem wit_Mailbox_11 :
    ∃ (s : State) (m : Master) (b : List Byte), s.hub.live = true ∧ (m = .host ∨ m = .span) ∧ s.hub.reaches m = true ∧ s.hub.spdmReq m = some b ∧ spdmCode b = 0xE0 ∧ leAt b 0 1 = 0x12 ∧ 4 ≤ b.length ∧ leAt b 2 1 = 0 ∧ leAt b 3 1 = 0x01 ∧ (s.hub.getMbx m).l1 = [] ∧ s.hub.inTurn (.spdmGetMeasurements m) = true :=
  ⟨(world fun h => { h with mbx := [(2, { busy := true, sub := [0x12, 0xE0, 0, 1] })] }), .host, [0x12, 0xE0, 0, 1], by decide +kernel⟩

theorem wit_Mailbox_12 :
    ∃ (s : State) (m : Master) (b : List Byte), s.hub.live = true ∧ (m = .host ∨ m = .span) ∧ s.hub.reaches m = true ∧ s.hub.spdmReq m = some b ∧ leAt b 0 1 = 0x12 ∧ spdmCode b = 0x85 ∧ s.hub.inTurn (.spdmUnsupported m) = true :=
  ⟨(world fun h => { h with mbx := [(2, { busy := true, sub := [0x12, 0x85, 0, 0] })] }), .host, [0x12, 0x85, 0, 0], by decide +kernel⟩

theorem wit_Telemetry_0 :
    ∃ (s : State) (m : Master) (i : Nat), s.hub.live = true ∧ s.hub.reaches m = true ∧ (m = .host → s.hub.role m ≠ 0) ∧ (s.hub.getQuery m).busy = false ∧ s.hub.rst.st = 0 ∧ i < 64 ∧ s.hub.inTurn (.tlmThermalQuery m i) = true :=
  ⟨(world fun h => { h with sec := { m := [(2, { role := 1, leaseEnd := 2 ^ 70 })] } }), .host, 63, by decide +kernel⟩

theorem wit_Telemetry_1 :
    ∃ (s : State) (m : Master) (i : Nat), s.hub.live = true ∧ s.hub.reaches m = true ∧ (m = .host → s.hub.role m ≠ 0) ∧ (s.hub.getQuery m).busy = false ∧ s.hub.rst.st = 0 ∧ i < 28 ∧ s.hub.inTurn (.tlmClockQuery m i) = true :=
  ⟨(world fun h => { h with sec := { m := [(2, { role := 1, leaseEnd := 2 ^ 70 })] } }), .host, 27, by decide +kernel⟩

theorem wit_Telemetry_2 :
    ∃ (s : State) (m : Master) (i : Nat), s.hub.live = true ∧ s.hub.reaches m = true ∧ (m = .host → s.hub.role m ≠ 0) ∧ (s.hub.getQuery m).busy = false ∧ s.hub.rst.st = 0 ∧ i < 4 ∧ s.hub.inTurn (.tlmPowerQuery m i) = true :=
  ⟨(world fun h => { h with sec := { m := [(2, { role := 1, leaseEnd := 2 ^ 70 })] } }), .host, 3, by decide +kernel⟩

theorem wit_Telemetry_3 :
    ∃ (s : State) (m : Master), s.hub.live = true ∧ s.hub.reaches m = true ∧ (m = .host → s.hub.role m ≠ 0) ∧ (s.hub.getQuery m).busy = false ∧ s.hub.rst.st = 0 ∧ s.hub.inTurn (.tlmSummaryQuery m) = true :=
  ⟨(world fun h => { h with sec := { m := [(2, { role := 1, leaseEnd := 2 ^ 70 })] } }), .host, by decide +kernel⟩

theorem wit_Telemetry_4 :
    ∃ (s : State) (m : Master) (i : Nat), s.hub.live = true ∧ m = .host ∧ s.hub.reaches m = true ∧ s.hub.role m = 0 ∧ i < 256 ∧ (s.hub.getQuery m).busy = false ∧ s.hub.rst.st = 0 ∧ s.hub.inTurn (.tlmThermalQuery m i) = true :=
  ⟨(world fun h => h), .host, 255, by decide +kernel⟩

theorem wit_Telemetry_5 :
    ∃ (s : State) (m : Master) (i : Nat), s.hub.live = true ∧ s.hub.reaches m = true ∧ 28 ≤ i ∧ i < 256 ∧ (s.hub.getQuery m).busy = false ∧ s.hub.rst.st = 0 ∧ s.hub.inTurn (.tlmClockQuery m i) = true :=
  ⟨(world fun h => { h with sec := { m := [(2, { role := 1, leaseEnd := 2 ^ 70 })] } }), .host, 28, by decide +kernel⟩

theorem wit_Telemetry_6 :
    ∃ (s : State) (m : Master) (i : Nat), s.hub.live = true ∧ s.hub.reaches m = true ∧ i < 256 ∧ (s.hub.getQuery m).busy = true ∧ s.hub.inTurn (.tlmPowerQuery m i) = true :=
  ⟨(world fun h => { h with tlm := { q := [(2, { busy := true })], refreshed := true } }), .host, 255, by decide +kernel⟩

theorem wit_Telemetry_7 :
    ∃ (s : State) (m : Master) (i : Nat), s.hub.live = true ∧ (s.hub.getQuery m).busy = true ∧ s.hub.queryBefore m = false ∧ (s.hub.getQuery m).kind = 0 ∧ (s.hub.getQuery m).index = i ∧ s.hub.sourceUp = true ∧ s.hub.tlm.faulty.contains i = false ∧ s.hub.inTurn (.tlmQueryComplete m) = true :=
  ⟨(world fun h => { h with tlm := { q := [(2, { busy := true, index := 63 })], refreshed := true } }), .host, 63, by decide +kernel⟩

theorem wit_Telemetry_8 :
    ∃ (s : State) (m : Master) (i : Nat), s.hub.live = true ∧ (s.hub.getQuery m).busy = true ∧ s.hub.queryBefore m = false ∧ (s.hub.getQuery m).kind = 1 ∧ (s.hub.getQuery m).index = i ∧ i < 28 ∧ s.hub.inTurn (.tlmQueryComplete m) = true :=
  ⟨(world fun h => { h with tlm := { q := [(2, { busy := true, kind := 1, index := 27 })], last := [(91, 5)] } }), .host, 27, by decide +kernel⟩

theorem wit_Telemetry_9 :
    ∃ (s : State) (m : Master), s.hub.live = true ∧ (s.hub.getQuery m).busy = true ∧ s.hub.queryBefore m = false ∧ (s.hub.getQuery m).kind ≠ 1 ∧ s.hub.sourceUp = false ∧ s.hub.inTurn (.tlmQueryComplete m) = true :=
  ⟨(world fun h => { h with tlm := { q := [(2, { busy := true, kind := 2 })] } }), .host, by decide +kernel⟩

theorem wit_Telemetry_10 :
    ∃ (s : State) (l : List Nat), s.hub.live = true ∧ bit s.hub.boot.domains 25 = true ∧ bit s.hub.gated 25 = false ∧ s.hub.nocUp = true ∧ s.hub.inTurn (.tlmRefresh l) = true :=
  ⟨(world fun h => h), [], by decide +kernel⟩

theorem wit_StorageErrors_0 :
    ∃ (s : State) (store : Nat) (st : Nat) (w : Nat), s.hub.live = true ∧ store < 8 ∧ w < storeWords store st ∧ s.hub.inTurn (.scrubRead store st w 1) = true :=
  ⟨(world fun h => h), 5, 1023, 8191, by decide +kernel⟩

theorem wit_StorageErrors_1 :
    ∃ (s : State) (store : Nat) (st : Nat) (w : Nat), s.hub.live = true ∧ store < 8 ∧ w < storeWords store st ∧ s.hub.inTurn (.scrubRead store st w 0) = true :=
  ⟨(world fun h => h), 7, 0, 270335, by decide +kernel⟩

theorem wit_StorageErrors_2 :
    ∃ (s : State) (w : Nat) (n : Nat), s.hub.live = true ∧ 2 ≤ n ∧ w < 524288 ∧ s.hub.fwRuns = false ∧ SMap.get [] s.hub.er.store (w / 64) ≠ [] ∧ s.hub.er.bad.contains (w / 64) = false ∧ s.hub.inTurn (.scrubRead 1 0 w n) = true :=
  ⟨(world fun h => { h with boot := { h.boot with pairRunning := false }, er := { store := [(8191, [1])] } }), 524287, 2, by decide +kernel⟩

theorem wit_StorageErrors_3 :
    ∃ (s : State) (w : Nat) (n : Nat), s.hub.live = true ∧ 2 ≤ n ∧ w < 1048576 ∧ s.hub.fwRuns = true ∧ s.hub.ecc.firkinBad.contains w = false ∧ s.hub.inTurn (.scrubRead 2 0 w n) = true :=
  ⟨(world fun h => h), 1048575, 2, by decide +kernel⟩

theorem wit_StorageErrors_4 :
    ∃ (s : State) (w : Nat) (n : Nat) (k : Nat) (x : AttEntry), s.hub.live = true ∧ 2 ≤ n ∧ w < 2097152 ∧ s.hub.fwRuns = false ∧ s.hub.cnt.att[w / 8]? = some (k, x) ∧ s.hub.inTurn (.scrubRead 3 0 w n) = true :=
  ⟨(world fun h => { h with boot := { h.boot with pairRunning := false }, cnt := { att := [(1, { f := [1] })] } }), 7, 2, 1, { f := [1] }, by decide +kernel⟩

theorem wit_StorageErrors_5 :
    ∃ (s : State) (k : Nat) (n : Nat), s.hub.live = true ∧ 2 ≤ n ∧ k < 64 ∧ s.hub.fwRuns = false ∧ s.hub.inTurn (.scrubRead 4 0 (128 + k) n) = true :=
  ⟨(world fun h => { h with boot := { h.boot with pairRunning := false } }), 63, 2, by decide +kernel⟩

theorem wit_StorageErrors_6 :
    ∃ (s : State) (k : Nat) (n : Nat), s.hub.live = true ∧ 2 ≤ n ∧ s.hub.fwRuns = false ∧ 0 < k ∧ k < 64 ∧ s.hub.sliceExists k = true ∧ (s.hub.getKeys k).rekey = false ∧ (s.hub.getKeys k).owner = [] ∧ s.hub.inTurn (.scrubRead 4 0 k n) = true :=
  ⟨(world fun h => { h with boot := { h.boot with pairRunning := false }, slc := { e := [(63, { st := .active })] } }), 63, 2, by decide +kernel⟩

theorem wit_StorageErrors_7 :
    ∃ (s : State) (c : Nat) (n : Nat) (q : List Nat), s.hub.live = true ∧ 2 ≤ n ∧ s.hub.fwRuns = false ∧ s.hub.db.fifo = c :: q ∧ s.hub.inTurn (.scrubRead 7 0 96 n) = true :=
  ⟨(world fun h => { h with boot := { h.boot with pairRunning := false }, db := { fifo := [7] } }), 7, 2, [], by decide +kernel⟩

theorem wit_StorageErrors_8 :
    ∃ (s : State) (k : Nat) (n : Nat), s.hub.live = true ∧ 2 ≤ n ∧ k < 64 ∧ s.hub.fwRuns = false ∧ s.hub.inTurn (.scrubRead 4 0 (192 + k) n) = true :=
  ⟨(world fun h => { h with boot := { h.boot with pairRunning := false }, rws := [(0xB1018 + 0x40 * 63, ⟨7, 7, 5, .clean⟩)] }), 63, 2, by decide +kernel⟩

theorem wit_RefusedAccess_0 :
    ∃ (s : State) (m : Master) (off : Nat) (l : Loc), s.hub.live = true ∧ s.hub.reaches m = true ∧ off % 4 = 0 ∧ locate off = some l ∧ s.hub.mayRead m l.row.rd = false ∧ inFirkin off = false ∧ inWindow off = false ∧ s.hub.inTurn (.loReadLatch m off 4) = true :=
  ⟨(world fun h => h), .host, 0x50000, (locate 0x50000).get (by decide +kernel), by decide +kernel⟩

theorem wit_RefusedAccess_1 :
    ∃ (s : State) (m : Master) (off : Nat), s.hub.live = true ∧ s.hub.reaches m = true ∧ off % 4 = 0 ∧ (inFirkin off = true ∧ s.hub.mayRead m .tun = false ∨ inWindow off = true ∧ s.hub.mayRead m .er = false) ∧ s.hub.inTurn (.loReadLatch m off 4) = true :=
  ⟨(world fun h => h), .host, 0x1000, by decide +kernel⟩

theorem wit_RefusedAccess_2 :
    ∃ (s : State) (m : Master) (off : Nat) (l : Loc) (w : Nat), s.hub.live = true ∧ s.hub.reaches m = true ∧ off % 4 = 0 ∧ locate off = some l ∧ w < 2 ^ 32 ∧ l.writable = true ∧ s.hub.mayWrite m l w = false ∧ s.hub.inTurn (.registerWrite m off 4 w) = true :=
  ⟨(world fun h => h), .host, 0x40000, (locate 0x40000).get (by decide +kernel), 0, by decide +kernel⟩

theorem wit_RefusedAccess_3 :
    ∃ (s : State) (m : Master) (off : Nat) (l : Loc) (w : Nat), s.hub.live = true ∧ s.hub.reaches m = true ∧ off % 4 = 0 ∧ s.hub.role m ≠ 3 ∧ (l.row.wr = .trcctl ∨ l.row.wr = .cectl) ∧ bit w 30 ≠ bit (s.hub.shd l.reset l.base) 30 :=
  ⟨(world fun h => h), .host, 0x80000, (locate 0x80000).get (by decide +kernel), 0xFFFFFFFF, by decide +kernel⟩

theorem wit_PairRegisters_2 :
    ∃ (s : State) (m : Master) (off : Nat) (l : Loc), s.hub.live = true ∧ s.hub.reaches m = true ∧ off % 4 = 0 ∧ locate off = some l ∧ l.row.pair = true ∧ s.hub.lostSlot l = false ∧ inFirkin off = false ∧ inWindow off = false ∧ slotQuiet s.hub off ∧ l.hi = false ∧ s.hub.mayRead m l.row.rd = true ∧ s.hub.inTurn (.loReadLatch m off 4) = true :=
  ⟨(world fun h => { h with sec := { m := [(2, { role := 1, leaseEnd := 2 ^ 70 })] } }), .host, 0x108, (locate 0x108).get (by decide +kernel), by decide +kernel, by decide +kernel, by decide +kernel, by decide +kernel, by decide +kernel, by decide +kernel, by decide +kernel, by decide +kernel, by unfold slotQuiet nothingDue; decide +kernel, by decide +kernel, by decide +kernel, by decide +kernel⟩

theorem wit_PairRegisters_3 :
    ∃ (s : State) (m : Master) (off : Nat) (l : Loc), s.hub.live = true ∧ s.hub.reaches m = true ∧ off % 4 = 0 ∧ locate off = some l ∧ l.row.pair = true ∧ s.hub.lostSlot l = false ∧ inFirkin off = false ∧ inWindow off = false ∧ slotQuiet s.hub off ∧ l.hi = true ∧ s.hub.mayRead m l.row.rd = true ∧ s.hub.inTurn (.loReadLatch m off 4) = true :=
  ⟨(world fun h => { h with sec := { m := [(2, { role := 1, leaseEnd := 2 ^ 70 })] } }), .host, 0x10C, (locate 0x10C).get (by decide +kernel), by decide +kernel, by decide +kernel, by decide +kernel, by decide +kernel, by decide +kernel, by decide +kernel, by decide +kernel, by decide +kernel, by unfold slotQuiet nothingDue; decide +kernel, by decide +kernel, by decide +kernel, by decide +kernel⟩

theorem wit_PairRegisters_4 :
    ∃ (s : State) (m : Master) (off : Nat) (l : Loc) (w : Nat), s.hub.live = true ∧ s.hub.reaches m = true ∧ off % 4 = 0 ∧ locate off = some l ∧ l.row.pair = true ∧ s.hub.lostSlot l = false ∧ inFirkin off = false ∧ inWindow off = false ∧ slotQuiet s.hub off ∧ w < 2 ^ 32 ∧ l.writable = true ∧ s.hub.mayWrite m l w = true ∧ l.hi = false ∧ s.hub.inTurn (.registerWrite m off 4 w) = true :=
  ⟨(world fun h => { h with sec := { m := [(2, { role := 1, leaseEnd := 2 ^ 70 })] } }), .host, 0x108, (locate 0x108).get (by decide +kernel), 0, by decide +kernel, by decide +kernel, by decide +kernel, by decide +kernel, by decide +kernel, by decide +kernel, by decide +kernel, by decide +kernel, by unfold slotQuiet nothingDue; decide +kernel, by decide +kernel, by decide +kernel, by decide +kernel, by decide +kernel, by decide +kernel⟩

theorem wit_PairRegisters_5 :
    ∃ (s : State) (m : Master) (off : Nat) (l : Loc) (w : Nat), s.hub.live = true ∧ s.hub.reaches m = true ∧ off % 4 = 0 ∧ locate off = some l ∧ l.row.pair = true ∧ s.hub.lostSlot l = false ∧ inFirkin off = false ∧ inWindow off = false ∧ slotQuiet s.hub off ∧ w < 2 ^ 32 ∧ l.writable = true ∧ s.hub.mayWrite m l w = true ∧ l.hi = true ∧ s.hub.inTurn (.registerWrite m off 4 w) = true :=
  ⟨(world fun h => { h with sec := { m := [(2, { role := 1, leaseEnd := 2 ^ 70 })] } }), .host, 0x10C, (locate 0x10C).get (by decide +kernel), 0, by decide +kernel, by decide +kernel, by decide +kernel, by decide +kernel, by decide +kernel, by decide +kernel, by decide +kernel, by decide +kernel, by unfold slotQuiet nothingDue; decide +kernel, by decide +kernel, by decide +kernel, by decide +kernel, by decide +kernel, by decide +kernel⟩

theorem wit_ClearingAccesses_0 :
    ∃ (s : State) (m : Master) (w : Nat), s.hub.live = true ∧ s.hub.reaches m = true ∧ w < 2 ^ 32 ∧ (m = .span ∨ m = .pair ∨ s.hub.role m = 1) ∧ s.hub.inTurn (.registerWrite m 0x90004 4 w) = true :=
  ⟨(world fun h => h), .span, 0xFFFFFFFF, by decide +kernel⟩

theorem wit_ClearingAccesses_1 :
    ∃ (s : State) (m : Master) (w : Nat), s.hub.live = true ∧ s.hub.reaches m = true ∧ w < 2 ^ 32 ∧ (s.hub.role m = 1 ∨ s.hub.role m = 3) ∧ s.hub.inTurn (.registerWrite m 0x200 4 w) = true :=
  ⟨(world fun h => { h with sec := { m := [(2, { role := 1, leaseEnd := 2 ^ 70 })] } }), .host, 0xFFFFFFFF, by decide +kernel⟩

theorem wit_ClearingAccesses_2 :
    ∃ (s : State) (m : Master) (w : Nat), s.hub.live = true ∧ s.hub.reaches m = true ∧ w < 2 ^ 32 ∧ bit w 1 = true ∧ (m = .pair ∨ s.hub.role m = 1 ∨ s.hub.role m = 3) ∧ s.hub.inTurn (.registerWrite m 0x34 4 w) = true :=
  ⟨(world fun h => h), .pair, 2, by decide +kernel⟩

theorem wit_ClearingAccesses_3 :
    ∃ (s : State) (m : Master) (w : Nat), s.hub.live = true ∧ s.hub.reaches m = true ∧ w < 2 ^ 32 ∧ bit w 31 = true ∧ (m = .pair ∨ s.hub.role m = 1 ∨ s.hub.role m = 3) ∧ s.hub.inTurn (.registerWrite m 0xA0 4 w) = true :=
  ⟨(world fun h => h), .pair, (2 ^ 31), by decide +kernel⟩

theorem wit_ClearingAccesses_4 :
    ∃ (s : State) (m : Master) (off : Nat) (l : Loc), s.hub.live = true ∧ s.hub.reaches m = true ∧ off % 4 = 0 ∧ locate off = some l ∧ l.mirror = false ∧ l.row.fam.rcBits ≠ [] ∧ s.hub.lostSlot l = false ∧ inFirkin off = false ∧ inWindow off = false ∧ s.hub.mayRead m l.row.rd = true ∧ slotQuiet s.hub off ∧ s.hub.inTurn (.rcFieldRead m off 4) = true :=
  ⟨(world fun h => { h with sec := { m := [(2, { role := 1, leaseEnd := 2 ^ 70 })] } }), .host, 0x60010, (locate 0x60010).get (by decide +kernel), by decide +kernel, by decide +kernel, by decide +kernel, by decide +kernel, by decide +kernel, by decide +kernel, by decide +kernel, by decide +kernel, by decide +kernel, by decide +kernel, by unfold slotQuiet nothingDue; decide +kernel, by decide +kernel⟩

theorem wit_RecorderCursor_0 :
    ∃ (s : State) (m : Master) (k : Nat), s.hub.live = true ∧ s.hub.reaches m = true ∧ (m = .pair ∨ s.hub.role m ≠ 0) ∧ k < 8192 ∧ s.hub.inTurn (.erCursorAcquire m k) = true :=
  ⟨(world fun h => { h with sec := { m := [(2, { role := 1, leaseEnd := 2 ^ 70 })] } }), .host, 8191, by decide +kernel⟩

theorem wit_RecorderCursor_1 :
    ∃ (s : State) (m : Master) (k : Nat), s.hub.live = true ∧ s.hub.reaches m = true ∧ (m = .pair ∨ s.hub.role m ≠ 0) ∧ k < 8192 ∧ s.hub.inTurn (.registerWrite m 0x60020 4 k) = true :=
  ⟨(world fun h => { h with sec := { m := [(2, { role := 1, leaseEnd := 2 ^ 70 })] } }), .host, 8191, by decide +kernel⟩

theorem wit_RecorderCursor_2 :
    ∃ (s : State) (m : Master), s.hub.live = true ∧ s.hub.reaches m = true ∧ (m = .pair ∨ s.hub.role m ≠ 0) ∧ (s.hub.getCursor m).held = true ∧ (s.hub.getCursor m).slot < 8192 ∧ s.hub.inTurn (.erCursorRelease m) = true :=
  ⟨(world fun h => { h with sec := { m := [(2, { role := 1, leaseEnd := 2 ^ 70 })] }, er := { cursor := [(2, { held := true, slot := 8191 })] } }), .host, by decide +kernel⟩

theorem wit_RecorderCursor_3 :
    ∃ (s : State) (m : Master), s.hub.live = true ∧ s.hub.reaches m = true ∧ (m = .pair ∨ s.hub.role m ≠ 0) ∧ (s.hub.getCursor m).held = true ∧ (s.hub.getCursor m).from_ + 1000000000 ≤ s.hub.now ∧ s.hub.inTurn (.erCursorExpiry m) = true :=
  ⟨(world fun h => { h with sec := { m := [(2, { role := 1, leaseEnd := 2 ^ 70 })] }, er := { cursor := [(2, { held := true, from_ := 9000000000 })] } }), .host, by decide +kernel⟩

theorem wit_RecorderCursor_4 :
    ∃ (s : State) (m : Master), s.hub.live = true ∧ s.hub.reaches m = true ∧ (m = .pair ∨ s.hub.role m ≠ 0) ∧ (s.hub.getCursor m).held = true ∧ s.hub.now < (s.hub.getCursor m).from_ + 1000000000 ∧ s.hub.inTurn (.erCursorExpiry m) = true :=
  ⟨(world fun h => { h with sec := { m := [(2, { role := 1, leaseEnd := 2 ^ 70 })] }, er := { cursor := [(2, { held := true, from_ := 9000000001 })] } }), .host, by decide +kernel⟩

theorem wit_RecorderCursor_5 :
    ∃ (s : State) (m : Master) (i : Nat), s.hub.live = true ∧ s.hub.reaches m = true ∧ (m = .pair ∨ s.hub.role m ≠ 0) ∧ i < 128 ∧ (s.hub.getCursor m).held = true ∧ s.hub.inTurn (.erWindowRead m (0x60200 + 4 * i) 4) = true :=
  ⟨(world fun h => { h with sec := { m := [(2, { role := 1, leaseEnd := 2 ^ 70 })] }, er := { cursor := [(2, { held := true })] } }), .host, 127, by decide +kernel⟩

theorem wit_RecorderCursor_6 :
    ∃ (s : State) (m : Master) (i : Nat), s.hub.live = true ∧ s.hub.reaches m = true ∧ (m = .pair ∨ s.hub.role m ≠ 0) ∧ i < 128 ∧ (s.hub.getCursor m).held = false ∧ s.hub.inTurn (.erWindowRead m (0x60200 + 4 * i) 4) = true :=
  ⟨(world fun h => { h with sec := { m := [(2, { role := 1, leaseEnd := 2 ^ 70 })] } }), .host, 127, by decide +kernel⟩

theorem wit_ChainWindows_0 :
    ∃ (s : State) (m : Master) (x : Nat), s.hub.live = true ∧ s.hub.reaches m = true ∧ (m = .pair ∨ s.hub.role m ≠ 0) ∧ x < 1184 ∧ s.hub.observed x = true ∧ s.hub.windowHeld x = false ∧ s.hub.inTurn (.chwinAcquire m x) = true :=
  ⟨(world fun h => { h with sec := { m := [(2, { role := 1, leaseEnd := 2 ^ 70 })] } }), .host, 1183, by decide +kernel⟩

theorem wit_ChainWindows_1 :
    ∃ (s : State) (m : Master) (x : Nat), s.hub.live = true ∧ s.hub.reaches m = true ∧ (m = .pair ∨ s.hub.role m ≠ 0) ∧ x < 1184 ∧ s.hub.observed x = true ∧ (s.hub.getWin m).held = false ∧ (∃ y : Master, y ≠ m ∧ (s.hub.getWin y).held = true ∧ (s.hub.getWin y).station = x) ∧ s.hub.inTurn (.chwinAcquire m x) = true :=
  ⟨(world fun h => { h with sec := { m := [(2, { role := 1, leaseEnd := 2 ^ 70 })] }, chain := { win := [(3, { held := true, station := 1183 })] } }), .host, 1183, by decide +kernel, by decide +kernel, by decide +kernel, by decide +kernel, by decide +kernel, by decide +kernel, ⟨.span, by decide +kernel⟩, by decide +kernel⟩

theorem wit_ChainWindows_2 :
    ∃ (s : State) (m : Master) (x : Nat), s.hub.live = true ∧ s.hub.reaches m = true ∧ (m = .pair ∨ s.hub.role m ≠ 0) ∧ 1184 ≤ x ∧ x < 2048 ∧ s.hub.inTurn (.chwinAcquire m x) = true :=
  ⟨(world fun h => { h with sec := { m := [(2, { role := 1, leaseEnd := 2 ^ 70 })] } }), .host, 2047, by decide +kernel⟩

theorem wit_ChainWindows_3 :
    ∃ (s : State) (m : Master), s.hub.live = true ∧ s.hub.reaches m = true ∧ (m = .pair ∨ s.hub.role m ≠ 0) ∧ (s.hub.getWin m).sel < 2048 ∧ s.hub.inTurn (.chwinRelease m) = true :=
  ⟨(world fun h => { h with sec := { m := [(2, { role := 1, leaseEnd := 2 ^ 70 })] } }), .host, by decide +kernel⟩

theorem wit_ChainWindows_4 :
    ∃ (s : State) (m : Master), s.hub.live = true ∧ (s.hub.getWin m).held = true ∧ (s.hub.getWin m).from_ + 1000000000 ≤ s.hub.now ∧ s.hub.inTurn (.chwinLeaseExpiry m) = true :=
  ⟨(world fun h => { h with chain := { win := [(2, { held := true, from_ := 9000000000 })] } }), .host, by decide +kernel⟩

theorem wit_SliceRequests_0 :
    ∃ (s : State) (m : Master) (k : Nat) (c : Nat), s.hub.live = true ∧ s.hub.reaches m = true ∧ s.hub.role m = 1 ∧ s.hub.er.sysq.length < 31 ∧ k < 64 ∧ (s.hub.getSlice k).st = .active ∧ s.hub.ctxCount < 262144 ∧ (s.hub.sliceCtxs k).length < Nat.min 262144 (s.hub.act 0x40000 (slcOff k 0x18)) ∧ c = lowestFree 0 s.hub.ctx ∧ (s.hub.getCtx c).finals = false ∧ s.hub.inTurn (.contextCreate m k) = true :=
  ⟨(world fun h => { h with sec := { m := [(2, { role := 1, leaseEnd := 2 ^ 70 })] }, slc := { e := [(63, { st := .active })] } }), .host, 63, 0, by decide +kernel⟩

theorem wit_SliceRequests_1 :
    ∃ (s : State) (m : Master) (k : Nat), s.hub.live = true ∧ s.hub.reaches m = true ∧ s.hub.role m = 1 ∧ s.hub.er.sysq.length < 31 ∧ k < 64 ∧ s.hub.ctxCount < 262144 ∧ Nat.min 262144 (s.hub.act 0x40000 (slcOff k 0x18)) ≤ (s.hub.sliceCtxs k).length ∧ s.hub.classOn 3 = true ∧ s.hub.inTurn (.contextCreate m k) = true :=
  ⟨(world fun h => { h with sec := { m := [(2, { role := 1, leaseEnd := 2 ^ 70 })] }, slc := { e := [(63, { st := .active })] }, rws := [(slcOff 63 0x18, rg 0)] }), .host, 63, by decide +kernel⟩

theorem wit_SliceRequests_2 :
    ∃ (s : State) (m : Master) (c : Nat), s.hub.live = true ∧ s.hub.reaches m = true ∧ s.hub.role m = 1 ∧ s.hub.er.sysq.length < 31 ∧ c < 2 ^ 18 ∧ (s.hub.getCtx c).st ≠ .free ∧ (∀ x ∈ (s.hub.getCtx c).cmds, x.started = true) ∧ s.hub.inTurn (.contextDestroy m c) = true :=
  ⟨(world fun h => { h with sec := { m := [(2, { role := 1, leaseEnd := 2 ^ 70 })] }, ctx := [(262143, { st := .lost })] }), .host, 262143, by decide +kernel⟩

theorem wit_SliceRequests_3 :
    ∃ (s : State) (m : Master) (k : Nat), s.hub.live = true ∧ s.hub.reaches m = true ∧ s.hub.role m = 1 ∧ s.hub.er.sysq.length < 31 ∧ k < 64 ∧ s.hub.slc.busy = none ∧ s.hub.createStatus k (s.hub.rwGet 0 0xB0004 m.idx) = stOk ∧ 0 < k ∧ (s.hub.getKeys k).heldValid = false ∧ s.hub.classOn 3 = true ∧ s.hub.inTurn (.sliceCreate m k) = true :=
  ⟨(world fun h => { h with sec := { m := [(2, { role := 1, leaseEnd := 2 ^ 70 })] }, rw := [(0xB0004 * 4 + 2, 1)] }), .host, 63, by decide +kernel⟩

theorem wit_SliceRequests_4 :
    ∃ (s : State) (m : Master) (k : Nat), s.hub.live = true ∧ s.hub.reaches m = true ∧ s.hub.role m = 1 ∧ s.hub.er.sysq.length < 31 ∧ k < 64 ∧ s.hub.slc.busy = none ∧ (s.hub.getSlice k).st = .active ∧ SMap.wf {} s.hub.ctx = true ∧ (∀ c : Nat, (s.hub.getCtx c).cmds = []) ∧ s.hub.cut.cuts = [] ∧ s.hub.dmp.st = .idle ∧ s.hub.dmp.next = none ∧ s.hub.dmp.w = [] ∧ s.hub.dmp.fires = [] ∧ (∀ e : Nat, e < 16 → (s.hub.getEngine e).held k = 0) ∧ s.hub.inTurn (.sliceReset m k) = true :=
  ⟨(world fun h => { h with sec := { m := [(2, { role := 1, leaseEnd := 2 ^ 70 })] }, slc := { e := [(63, { st := .active })] } }), .host, 63, by and_intros <;> first | decide +kernel | exact fun _ => rfl⟩

theorem wit_SliceRequests_5 :
    ∃ (s : State) (m : Master) (k : Nat), s.hub.live = true ∧ s.hub.reaches m = true ∧ s.hub.role m = 1 ∧ s.hub.er.sysq.length < 31 ∧ k < 64 ∧ s.hub.slc.busy = none ∧ (s.hub.getSlice k).st = .active ∧ SMap.wf {} s.hub.ctx = true ∧ (∀ c : Nat, (s.hub.getCtx c).cmds = []) ∧ s.hub.cut.cuts = [] ∧ s.hub.dmp.st = .idle ∧ s.hub.dmp.next = none ∧ s.hub.dmp.w = [] ∧ s.hub.dmp.fires = [] ∧ (∀ e : Nat, e < 16 → (s.hub.getEngine e).held k = 0) ∧ s.hub.slc.exports = [] ∧ 0 < k ∧ s.hub.inTurn (.sliceProcessDied m k) = true :=
  ⟨(world fun h => { h with sec := { m := [(2, { role := 1, leaseEnd := 2 ^ 70 })] }, slc := { e := [(63, { st := .active })] } }), .host, 63, by and_intros <;> first | decide +kernel | exact fun _ => rfl⟩

theorem wit_SliceRequests_6 :
    ∃ (s : State) (m : Master) (k : Nat), s.hub.live = true ∧ s.hub.reaches m = true ∧ s.hub.role m = 1 ∧ s.hub.er.sysq.length < 31 ∧ k < 64 ∧ s.hub.slc.busy = none ∧ s.hub.destroyStatus k = stOk ∧ s.hub.slc.exports = [] ∧ s.hub.cut.cuts = [] ∧ s.hub.dmp.st = .idle ∧ s.hub.dmp.next = none ∧ s.hub.dmp.w = [] ∧ s.hub.inTurn (.sliceDestroy m k) = true :=
  ⟨(world fun h => { h with sec := { m := [(2, { role := 1, leaseEnd := 2 ^ 70 })] }, slc := { e := [(63, { st := .active })] } }), .host, 63, by decide +kernel⟩

theorem wit_SliceRequests_7 :
    ∃ (s : State) (m : Master) (k : Nat) (i : Nat), s.hub.live = true ∧ s.hub.reaches m = true ∧ s.hub.role m = 1 ∧ s.hub.er.sysq.length < 31 ∧ k < 64 ∧ i < 65536 ∧ (s.hub.getSlice k).st = .active ∧ s.hub.slc.exports.length < 65536 ∧ s.hub.exportSlice i = none ∧ (s.hub.getFence (exportId i)).st ≠ .error ∧ s.hub.inTurn (.exportAllocate m k i) = true :=
  ⟨(world fun h => { h with sec := { m := [(2, { role := 1, leaseEnd := 2 ^ 70 })] }, slc := { e := [(63, { st := .active })] } }), .host, 63, 65535, by decide +kernel⟩

theorem wit_SliceRequests_8 :
    ∃ (s : State) (m : Master) (k : Nat) (j : Nat) (i : Nat), s.hub.live = true ∧ s.hub.reaches m = true ∧ s.hub.role m = 1 ∧ s.hub.er.sysq.length < 31 ∧ k < 64 ∧ i < 65536 ∧ s.hub.exportSlice i = some j ∧ (s.hub.getFence (exportId i)).waiters = [] ∧ (s.hub.getFence (exportId i)).st ≠ .error ∧ (s.hub.getFence (exportId i)).cyc ≠ s.hub.clk.cycle + 1 ∧ s.hub.inTurn (.exportRelease m k i) = true :=
  ⟨(world fun h => { h with sec := { m := [(2, { role := 1, leaseEnd := 2 ^ 70 })] }, slc := { e := [(63, { st := .active })], exports := [(65535, 64)] } }), .host, 63, 63, 65535, by decide +kernel⟩

theorem wit_CutRequests_0 :
    ∃ (s : State) (m : Master) (lead : Nat) (xlead : Nat) (k : Nat), s.hub.live = true ∧ s.hub.reaches m = true ∧ (m = .pair ∨ s.hub.role m = 1 ∨ s.hub.role m = 3) ∧ s.hub.er.sysq.length < 31 ∧ lead = (if s.hub.clk.fallback then Nat.max (s.hub.rwGet 0x400 0x30054 0 % 2 ^ 20) 5120 else s.hub.rwGet 0x400 0x30054 0 % 2 ^ 20) ∧ xlead = (if s.hub.clk.fallback then Nat.max (s.hub.rwGet 0x3E810000 0x30058 0 % 2 ^ 20) 5120 else s.hub.rwGet 0x3E810000 0x30058 0 % 2 ^ 20) ∧ s.hub.leastLead ≤ lead ∧ lead ≤ 1000000000 ∧ s.hub.leastLead ≤ xlead ∧ xlead ≤ 1000000000 ∧ k < 64 ∧ s.hub.sliceExists k = true ∧ s.hub.cutAllowed (.master m) false k = true ∧ s.hub.cut.cuts = [] ∧ s.hub.classOn 5 = true ∧ s.hub.inTurn (.cutRequest m false false false true k) = true :=
  ⟨(world fun h => { h with sec := { m := [(2, { role := 1, leaseEnd := 2 ^ 70 })] }, slc := { e := [(63, { st := .active })] }, rws := [(0x31000 + 4 * 63, rg 2)] }), .host, 1024, 0x10000, 63, by decide +kernel⟩

theorem wit_CutRequests_1 :
    ∃ (s : State) (m : Master) (lead : Nat) (xlead : Nat) (k : Nat), s.hub.live = true ∧ s.hub.reaches m = true ∧ (m = .pair ∨ s.hub.role m = 1 ∨ s.hub.role m = 3) ∧ s.hub.er.sysq.length < 31 ∧ lead = (if s.hub.clk.fallback then Nat.max (s.hub.rwGet 0x400 0x30054 0 % 2 ^ 20) 5120 else s.hub.rwGet 0x400 0x30054 0 % 2 ^ 20) ∧ xlead = (if s.hub.clk.fallback then Nat.max (s.hub.rwGet 0x3E810000 0x30058 0 % 2 ^ 20) 5120 else s.hub.rwGet 0x3E810000 0x30058 0 % 2 ^ 20) ∧ s.hub.leastLead ≤ lead ∧ lead ≤ 1000000000 ∧ s.hub.leastLead ≤ xlead ∧ xlead ≤ 1000000000 ∧ k < 64 ∧ s.hub.sliceExists k = true ∧ s.hub.cutAllowed (.master m) false k = true ∧ s.hub.cut.cuts = [] ∧ s.hub.classOn 5 = true ∧ s.hub.trainedLinks = [] ∧ s.hub.inTurn (.cutRequest m false true false true k) = true :=
  ⟨(world fun h => { h with sec := { m := [(2, { role := 1, leaseEnd := 2 ^ 70 })] }, slc := { e := [(63, { st := .active })] }, rws := [(0x31000 + 4 * 63, rg 2)] }), .host, 1024, 0x10000, 63, by decide +kernel⟩

theorem wit_CutRequests_2 :
    ∃ (s : State) (m : Master) (lead : Nat) (xlead : Nat) (k : Nat), s.hub.live = true ∧ s.hub.reaches m = true ∧ (m = .pair ∨ s.hub.role m = 1 ∨ s.hub.role m = 3) ∧ s.hub.er.sysq.length < 31 ∧ lead = (if s.hub.clk.fallback then Nat.max (s.hub.rwGet 0x400 0x30054 0 % 2 ^ 20) 5120 else s.hub.rwGet 0x400 0x30054 0 % 2 ^ 20) ∧ xlead = (if s.hub.clk.fallback then Nat.max (s.hub.rwGet 0x3E810000 0x30058 0 % 2 ^ 20) 5120 else s.hub.rwGet 0x3E810000 0x30058 0 % 2 ^ 20) ∧ s.hub.leastLead ≤ lead ∧ lead ≤ 1000000000 ∧ s.hub.leastLead ≤ xlead ∧ xlead ≤ 1000000000 ∧ k < 64 ∧ s.hub.sliceExists k = true ∧ s.hub.cutAllowed (.master m) false k = false ∧ s.hub.inTurn (.cutRequest m false false false true k) = true :=
  ⟨(world fun h => { h with sec := { m := [(2, { role := 1, leaseEnd := 2 ^ 70 })] }, slc := { e := [(63, { st := .active })] } }), .host, 1024, 0x10000, 63, by decide +kernel⟩

theorem wit_CutRequests_3 :
    ∃ (s : State) (m : Master) (lead : Nat) (xlead : Nat) (k : Nat) (r : CutRec), s.hub.live = true ∧ s.hub.reaches m = true ∧ (m = .pair ∨ s.hub.role m = 1 ∨ s.hub.role m = 3) ∧ s.hub.er.sysq.length < 31 ∧ lead = (if s.hub.clk.fallback then Nat.max (s.hub.rwGet 0x400 0x30054 0 % 2 ^ 20) 5120 else s.hub.rwGet 0x400 0x30054 0 % 2 ^ 20) ∧ xlead = (if s.hub.clk.fallback then Nat.max (s.hub.rwGet 0x3E810000 0x30058 0 % 2 ^ 20) 5120 else s.hub.rwGet 0x3E810000 0x30058 0 % 2 ^ 20) ∧ s.hub.leastLead ≤ lead ∧ lead ≤ 1000000000 ∧ s.hub.leastLead ≤ xlead ∧ xlead ≤ 1000000000 ∧ k < 64 ∧ s.hub.cut.cuts = [r] ∧ r.die = false ∧ r.set = [k] ∧ r.sub = [] ∧ r.st = .stopped ∧ s.hub.dumpHolds r false k = false ∧ s.hub.inTurn (.cutResume m false false true k) = true :=
  ⟨(world fun h => { h with sec := { m := [(2, { role := 1, leaseEnd := 2 ^ 70 })] }, cut := { cuts := [{ id := 1, die := false, slice := 63, st := .stopped, t := 0, set := [63] }] } }), .host, 1024, 0x10000, 63, { id := 1, die := false, slice := 63, st := .stopped, t := 0, set := [63] }, by decide +kernel⟩

theorem wit_CutRequests_4 :
    ∃ (s : State) (m : Master) (lead : Nat) (xlead : Nat) (n : Nat) (r : CutRec), s.hub.live = true ∧ s.hub.reaches m = true ∧ (m = .pair ∨ s.hub.role m = 1 ∨ s.hub.role m = 3) ∧ s.hub.er.sysq.length < 31 ∧ lead = (if s.hub.clk.fallback then Nat.max (s.hub.rwGet 0x400 0x30054 0 % 2 ^ 20) 5120 else s.hub.rwGet 0x400 0x30054 0 % 2 ^ 20) ∧ xlead = (if s.hub.clk.fallback then Nat.max (s.hub.rwGet 0x3E810000 0x30058 0 % 2 ^ 20) 5120 else s.hub.rwGet 0x3E810000 0x30058 0 % 2 ^ 20) ∧ s.hub.leastLead ≤ lead ∧ lead ≤ 1000000000 ∧ s.hub.leastLead ≤ xlead ∧ xlead ≤ 1000000000 ∧ 0 < n ∧ n < 2 ^ 24 ∧ s.hub.cut.bench = true ∧ s.hub.cut.cuts = [r] ∧ r.die = true ∧ r.st = .stopped ∧ r.masters = [m] ∧ s.hub.inTurn (.cutStep m true false true n) = true :=
  ⟨(world fun h => { h with sec := { m := [(2, { role := 1, leaseEnd := 2 ^ 70 })] }, cut := { bench := true, cuts := [{ id := 1, die := true, slice := 0, st := .stopped, t := 0, set := [0], masters := [.host] }] } }), .host, 1024, 0x10000, 0xFFFFFF, { id := 1, die := true, slice := 0, st := .stopped, t := 0, set := [0], masters := [.host] }, by decide +kernel⟩

theorem wit_CutRequests_5 :
    ∃ (s : State) (m : Master) (lead : Nat) (xlead : Nat) (n : Nat), s.hub.live = true ∧ s.hub.reaches m = true ∧ (m = .pair ∨ s.hub.role m = 1 ∨ s.hub.role m = 3) ∧ s.hub.er.sysq.length < 31 ∧ lead = (if s.hub.clk.fallback then Nat.max (s.hub.rwGet 0x400 0x30054 0 % 2 ^ 20) 5120 else s.hub.rwGet 0x400 0x30054 0 % 2 ^ 20) ∧ xlead = (if s.hub.clk.fallback then Nat.max (s.hub.rwGet 0x3E810000 0x30058 0 % 2 ^ 20) 5120 else s.hub.rwGet 0x3E810000 0x30058 0 % 2 ^ 20) ∧ s.hub.leastLead ≤ lead ∧ lead ≤ 1000000000 ∧ s.hub.leastLead ≤ xlead ∧ xlead ≤ 1000000000 ∧ n < 2 ^ 24 ∧ s.hub.cut.bench = false ∧ s.hub.inTurn (.cutStep m true false true n) = true :=
  ⟨(world fun h => { h with sec := { m := [(2, { role := 1, leaseEnd := 2 ^ 70 })] } }), .host, 1024, 0x10000, 0, by decide +kernel⟩

theorem wit_CutRequests_6 :
    ∃ (s : State) (m : Master) (lead : Nat) (xlead : Nat), s.hub.live = true ∧ s.hub.reaches m = true ∧ (m = .pair ∨ s.hub.role m = 1 ∨ s.hub.role m = 3) ∧ s.hub.er.sysq.length < 31 ∧ lead = (if s.hub.clk.fallback then Nat.max (s.hub.rwGet 0x400 0x30054 0 % 2 ^ 20) 5120 else s.hub.rwGet 0x400 0x30054 0 % 2 ^ 20) ∧ xlead = (if s.hub.clk.fallback then Nat.max (s.hub.rwGet 0x3E810000 0x30058 0 % 2 ^ 20) 5120 else s.hub.rwGet 0x3E810000 0x30058 0 % 2 ^ 20) ∧ s.hub.leastLead ≤ lead ∧ lead ≤ 1000000000 ∧ s.hub.leastLead ≤ xlead ∧ xlead ≤ 1000000000 ∧ s.hub.role m = 3 ∧ s.hub.cut.bench = false ∧ (∀ k : Nat, 0 < k → s.hub.sliceExists k = false) ∧ s.hub.inTurn (.benchModeWrite m true) = true :=
  ⟨(world fun h => { h with sec := { m := [(2, { role := 3, leaseEnd := 2 ^ 70 })] } }), .host, 1024, 0x10000, by and_intros <;> first | decide +kernel | (intro k _; simp [Hub.sliceExists, Hub.getSlice, world, base])⟩

theorem wit_CutRequests_7 :
    ∃ (s : State) (m : Master) (lead : Nat) (xlead : Nat) (k : Nat), s.hub.live = true ∧ s.hub.reaches m = true ∧ (m = .pair ∨ s.hub.role m = 1 ∨ s.hub.role m = 3) ∧ s.hub.er.sysq.length < 31 ∧ lead = (if s.hub.clk.fallback then Nat.max (s.hub.rwGet 0x400 0x30054 0 % 2 ^ 20) 5120 else s.hub.rwGet 0x400 0x30054 0 % 2 ^ 20) ∧ xlead = (if s.hub.clk.fallback then Nat.max (s.hub.rwGet 0x3E810000 0x30058 0 % 2 ^ 20) 5120 else s.hub.rwGet 0x3E810000 0x30058 0 % 2 ^ 20) ∧ s.hub.leastLead ≤ lead ∧ lead ≤ 1000000000 ∧ s.hub.leastLead ≤ xlead ∧ xlead ≤ 1000000000 ∧ s.hub.role m = 3 ∧ s.hub.cut.bench = false ∧ 0 < k ∧ s.hub.sliceExists k = true ∧ s.hub.inTurn (.benchModeWrite m true) = true :=
  ⟨(world fun h => { h with sec := { m := [(2, { role := 3, leaseEnd := 2 ^ 70 })] }, slc := { e := [(63, { st := .active })] } }), .host, 1024, 0x10000, 63, by decide +kernel⟩

theorem wit_DumpRequests_0 :
    ∃ (s : State) (m : Master) (o : Nat) (k : Nat), s.hub.live = true ∧ s.hub.reaches m = true ∧ (m = .pair ∨ s.hub.role m = 1 ∨ s.hub.role m = 3) ∧ o = (if s.hub.dmp.object = 0xFFFFFFFF then 1 else s.hub.dmp.object + 1) ∧ k < 64 ∧ (m = .pair → s.hub.hang.seq.step ≠ 5) ∧ s.hub.rst.st = 0 ∧ s.hub.dmp.st = .idle ∧ s.hub.dmp.fires = [] ∧ s.hub.sliceExists k = true ∧ s.hub.inTurn (.dumpRequest m false true k) = true :=
  ⟨(world fun h => { h with sec := { m := [(2, { role := 1, leaseEnd := 2 ^ 70 })] }, slc := { e := [(63, { st := .active })] } }), .host, 1, 63, by decide +kernel⟩

theorem wit_DumpRequests_1 :
    ∃ (s : State) (m : Master) (o : Nat) (k : Nat), s.hub.live = true ∧ s.hub.reaches m = true ∧ (m = .pair ∨ s.hub.role m = 1 ∨ s.hub.role m = 3) ∧ o = (if s.hub.dmp.object = 0xFFFFFFFF then 1 else s.hub.dmp.object + 1) ∧ k < 64 ∧ m = .pair ∧ s.hub.hang.seq.step = 5 ∧ s.hub.rst.st = 0 ∧ s.hub.dmp.st = .idle ∧ s.hub.dmp.fires = [] ∧ s.hub.inTurn (.dumpRequest m false true k) = true :=
  ⟨(world fun h => { h with hang := { seq := { step := 5 } } }), .pair, 1, 63, by decide +kernel⟩

theorem wit_DumpRequests_2 :
    ∃ (s : State) (m : Master) (o : Nat) (k : Nat) (d : Dump), s.hub.live = true ∧ s.hub.reaches m = true ∧ (m = .pair ∨ s.hub.role m = 1 ∨ s.hub.role m = 3) ∧ o = (if s.hub.dmp.object = 0xFFFFFFFF then 1 else s.hub.dmp.object + 1) ∧ k < 64 ∧ (m = .pair → s.hub.hang.seq.step ≠ 5) ∧ s.hub.rst.st = 0 ∧ s.hub.dmp.st = .stream ∧ s.hub.dmp.cur = some d ∧ s.hub.sliceExists k = true ∧ s.hub.inTurn (.dumpRequest m false true k) = true :=
  ⟨(world fun h => { h with sec := { m := [(2, { role := 1, leaseEnd := 2 ^ 70 })] }, slc := { e := [(63, { st := .active })] }, dmp := { st := .stream, object := 1, cur := some { req := ⟨.host, 3, 0, 0, 0, false, 1⟩ } } }), .host, 2, 63, { req := ⟨.host, 3, 0, 0, 0, false, 1⟩ }, by decide +kernel⟩

theorem wit_DumpRequests_3 :
    ∃ (s : State) (m : Master) (o : Nat) (c : Nat), s.hub.live = true ∧ s.hub.reaches m = true ∧ (m = .pair ∨ s.hub.role m = 1 ∨ s.hub.role m = 3) ∧ o = (if s.hub.dmp.object = 0xFFFFFFFF then 1 else s.hub.dmp.object + 1) ∧ c < 2 ^ 18 ∧ (m = .pair → s.hub.hang.seq.step ≠ 5) ∧ s.hub.rst.st = 0 ∧ s.hub.dmp.st = .idle ∧ s.hub.dmp.fires = [] ∧ (s.hub.getCtx c).st ≠ .free ∧ s.hub.rwGet 0 0x40004 m.idx = c ∧ s.hub.inTurn (.registerWrite m 0x40000 4 (2 ^ 31 + 2 ^ 30)) = true :=
  ⟨(world fun h => { h with sec := { m := [(2, { role := 1, leaseEnd := 2 ^ 70 })] }, ctx := [(262143, { st := .active })], rw := [(0x40004 * 4 + 2, 262143)] }), .host, 1, 262143, by decide +kernel⟩

theorem wit_DumpRequests_4 :
    ∃ (s : State) (m : Master) (o : Nat) (c : Nat), s.hub.live = true ∧ s.hub.reaches m = true ∧ (m = .pair ∨ s.hub.role m = 1 ∨ s.hub.role m = 3) ∧ o = (if s.hub.dmp.object = 0xFFFFFFFF then 1 else s.hub.dmp.object + 1) ∧ c < 2 ^ 18 ∧ s.hub.inTurn (.dumpContextRequest m c) = true :=
  ⟨(world fun h => { h with sec := { m := [(2, { role := 1, leaseEnd := 2 ^ 70 })] }, ctx := [(262143, { st := .active })] }), .host, 1, 262143, by decide +kernel⟩

theorem wit_DumpRequests_5 :
    ∃ (s : State) (m : Master) (o : Nat) (v : Nat), s.hub.live = true ∧ s.hub.reaches m = true ∧ (m = .pair ∨ s.hub.role m = 1 ∨ s.hub.role m = 3) ∧ o = (if s.hub.dmp.object = 0xFFFFFFFF then 1 else s.hub.dmp.object + 1) ∧ v < 2 ^ 64 ∧ s.hub.dmp.rd ≤ v ∧ v ≤ s.hub.dmp.done ∧ s.hub.inTurn (.tunRdWrite m v) = true :=
  ⟨(world fun h => { h with sec := { m := [(2, { role := 1, leaseEnd := 2 ^ 70 })] }, dmp := { done := 2 ^ 63 } }), .host, 1, (2 ^ 63), by decide +kernel⟩

theorem wit_DumpRequests_6 :
    ∃ (s : State) (m : Master) (o : Nat) (w : Nat), s.hub.live = true ∧ s.hub.reaches m = true ∧ (m = .pair ∨ s.hub.role m = 1 ∨ s.hub.role m = 3) ∧ o = (if s.hub.dmp.object = 0xFFFFFFFF then 1 else s.hub.dmp.object + 1) ∧ w < 128 ∧ (s.hub.getWatch w).st = .armed ∧ (∀ f ∈ s.hub.dmp.fires, f.slot ≠ w) ∧ s.hub.inTurn (.watchCancel m w) = true :=
  ⟨(world fun h => { h with sec := { m := [(2, { role := 1, leaseEnd := 2 ^ 70 })] }, dmp := { w := [(127, { st := .armed, count := 3 })] } }), .host, 1, 127, by decide +kernel⟩

theorem wit_ObservationRequests_0 :
    ∃ (s : State) (m : Master) (k : Nat), s.hub.live = true ∧ s.hub.reaches m = true ∧ (m = .pair ∨ s.hub.role m ≠ 0) ∧ k < 64 ∧ (s.hub.getStat m).pending = false ∧ s.hub.sliceExists k = true ∧ s.hub.inTurn (.commitRequest m 1 k) = true :=
  ⟨(world fun h => { h with sec := { m := [(2, { role := 1, leaseEnd := 2 ^ 70 })] }, slc := { e := [(63, { st := .active })] } }), .host, 63, by decide +kernel⟩

theorem wit_ObservationRequests_1 :
    ∃ (s : State) (m : Master) (p : Nat) (k : Nat), s.hub.live = true ∧ s.hub.reaches m = true ∧ (m = .pair ∨ s.hub.role m ≠ 0) ∧ p < 4 ∧ k < 2048 ∧ (s.hub.getStat m).pending = true ∧ s.hub.inTurn (.commitRequest m p k) = true :=
  ⟨(world fun h => { h with sec := { m := [(2, { role := 1, leaseEnd := 2 ^ 70 })] }, chain := { stat := [(2, { pending := true })] } }), .host, 3, 2047, by decide +kernel⟩

theorem wit_ObservationRequests_2 :
    ∃ (s : State) (m : Master) (x : Nat) (c : Nat) (r : Nat), s.hub.live = true ∧ s.hub.reaches m = true ∧ (m = .pair ∨ s.hub.role m ≠ 0) ∧ s.hub.observed x = true ∧ nothingDue s.hub x ∧ c < 4 ∧ r = s.hub.pact x 4 (0x4A0 + 4 * c) ∧ bit r 31 = true ∧ field r 30 28 = 7 ∧ (s.hub.getStn x).tbOn = true ∧ SMap.get 0 (s.hub.getStn x).holdoff c ≤ s.hub.clk.cycle ∧ s.hub.inTurn (.trgFireWrite m x (2 ^ c)) = true :=
  ⟨(world fun h => { h with sec := { m := [(2, { role := 1, leaseEnd := 2 ^ 70 })] }, rws := [(pchOff 1183 0x4AC, rg (2 ^ 31 + 7 * 2 ^ 28 + 2 ^ 9))], stn := [(1183, { tbOn := true, holdoff := [(3, 10000000000)] })] }), .host, 1183, 3, (2 ^ 31 + 7 * 2 ^ 28 + 2 ^ 9), by decide +kernel, by decide +kernel, by decide +kernel, by decide +kernel, by unfold nothingDue; decide +kernel, by decide +kernel, by decide +kernel, by decide +kernel, by decide +kernel, by decide +kernel, by decide +kernel, by decide +kernel⟩

theorem wit_ObservationRequests_3 :
    ∃ (s : State) (m : Master) (x : Nat) (c : Nat) (r : Nat), s.hub.live = true ∧ s.hub.reaches m = true ∧ (m = .pair ∨ s.hub.role m ≠ 0) ∧ s.hub.observed x = true ∧ nothingDue s.hub x ∧ c < 4 ∧ r = s.hub.pact x 4 (0x4A0 + 4 * c) ∧ bit r 31 = true ∧ field r 30 28 = 7 ∧ (s.hub.getStn x).tbOn = true ∧ s.hub.clk.cycle < SMap.get 0 (s.hub.getStn x).holdoff c ∧ s.hub.inTurn (.trgFireWrite m x (2 ^ c)) = true :=
  ⟨(world fun h => { h with sec := { m := [(2, { role := 1, leaseEnd := 2 ^ 70 })] }, rws := [(pchOff 1183 0x4AC, rg (2 ^ 31 + 7 * 2 ^ 28 + 2 ^ 9))], stn := [(1183, { tbOn := true, holdoff := [(3, 10000000001)] })] }), .host, 1183, 3, (2 ^ 31 + 7 * 2 ^ 28 + 2 ^ 9), by decide +kernel, by decide +kernel, by decide +kernel, by decide +kernel, by unfold nothingDue; decide +kernel, by decide +kernel, by decide +kernel, by decide +kernel, by decide +kernel, by decide +kernel, by decide +kernel, by decide +kernel⟩

theorem wit_ObservationRequests_4 :
    ∃ (s : State) (m : Master) (x : Nat), s.hub.live = true ∧ s.hub.reaches m = true ∧ (m = .pair ∨ s.hub.role m ≠ 0) ∧ s.hub.observed x = true ∧ nothingDue s.hub x ∧ s.hub.inTurn (.peckFlush m x) = true :=
  ⟨(world fun h => { h with sec := { m := [(2, { role := 1, leaseEnd := 2 ^ 70 })] } }), .host, 1183, by decide +kernel, by decide +kernel, by decide +kernel, by decide +kernel, by unfold nothingDue; decide +kernel, by decide +kernel⟩

theorem wit_ObservationRequests_5 :
    ∃ (s : State) (m : Master) (x : Nat), s.hub.live = true ∧ s.hub.reaches m = true ∧ (m = .pair ∨ s.hub.role m ≠ 0) ∧ s.hub.observed x = true ∧ nothingDue s.hub x ∧ s.hub.inTurn (.peckRelease m x) = true :=
  ⟨(world fun h => { h with sec := { m := [(2, { role := 1, leaseEnd := 2 ^ 70 })] }, stn := [(1183, { peck := { part := [(3, { st := .frozen })] } })] }), .host, 1183, by decide +kernel, by decide +kernel, by decide +kernel, by decide +kernel, by unfold nothingDue; decide +kernel, by decide +kernel⟩

theorem wit_ObservationRequests_6 :
    ∃ (s : State) (m : Master) (x : Nat), s.hub.live = true ∧ s.hub.reaches m = true ∧ (m = .pair ∨ s.hub.role m ≠ 0) ∧ ((s.hub.getStn x).ord = { flush := true }) :=
  ⟨(world fun h => { h with sec := { m := [(2, { role := 1, leaseEnd := 2 ^ 70 })] }, stn := [(1183, { tbOn := true, ord := { flush := true }, peck := { gen := 4, part := [(2, { pkts := [{ slice := 0, src := 0, tick := 5, bytes := [1, 2, 3, 4] }] })] } })] }), .host, 1183, by decide +kernel⟩

theorem wit_ObservationRequests_7 :
    ∃ (s : State) (m : Master) (x : Nat) (p : Nat), s.hub.live = true ∧ s.hub.reaches m = true ∧ (m = .pair ∨ s.hub.role m ≠ 0) ∧ ((s.hub.getStn x).ord = { release := true }) ∧ p < 4 ∧ (SMap.get {} (s.hub.getStn x).peck.part p).st ≠ .run ∧ (s.hub.getStn x).peck.stalled = [] :=
  ⟨(world fun h => { h with sec := { m := [(2, { role := 1, leaseEnd := 2 ^ 70 })] }, stn := [(1183, { tbOn := true, ord := { release := true }, peck := { gen := 4, part := [(3, { st := .frozen, pkts := [{ slice := 0, src := 0, tick := 5, bytes := [1, 2, 3, 4] }], budget := 5 })] } })] }), .host, 1183, 3, by decide +kernel⟩

theorem wit_ObservationRequests_8 :
    ∃ (s : State) (m : Master) (x : Nat) (p : Nat), s.hub.live = true ∧ s.hub.reaches m = true ∧ (m = .pair ∨ s.hub.role m ≠ 0) ∧ ((s.hub.getStn x).ord = { release := true }) ∧ p < 4 ∧ (SMap.get {} (s.hub.getStn x).peck.part p).st ≠ .run ∧ (s.hub.getStn x).peck.stalled = [] :=
  ⟨(world fun h => { h with sec := { m := [(2, { role := 1, leaseEnd := 2 ^ 70 })] }, stn := [(1183, { tbOn := true, ord := { release := true }, peck := { gen := 4, part := [(3, { st := .frozen, pkts := [{ slice := 0, src := 0, tick := 5, bytes := [1, 2, 3, 4] }], budget := 5 })] } })] }), .host, 1183, 3, by decide +kernel⟩

theorem wit_ObservationRequests_9 :
    ∃ (s : State) (m : Master) (k : Nat) (v : Nat), s.hub.live = true ∧ s.hub.reaches m = true ∧ (m = .pair ∨ s.hub.role m ≠ 0) ∧ s.hub.role m = 1 ∧ k < 64 ∧ v < 2 ^ 64 ∧ (SMap.get {} s.hub.cnt.ring k).rd ≤ v ∧ v ≤ (SMap.get {} s.hub.cnt.ring k).wr ∧ s.hub.inTurn (.sampleRingRdWrite m k v) = true :=
  ⟨(world fun h => { h with sec := { m := [(2, { role := 1, leaseEnd := 2 ^ 70 })] }, cnt := { ring := [(63, { on := true, base := 0x10000000, size := 65536, wr := 65536 })] } }), .host, 63, 65536, by decide +kernel⟩

theorem wit_ObservationRequests_10 :
    ∃ (s : State) (m : Master) (k : Nat) (v : Nat), s.hub.live = true ∧ s.hub.reaches m = true ∧ (m = .pair ∨ s.hub.role m ≠ 0) ∧ s.hub.role m = 1 ∧ k < 64 ∧ v < 2 ^ 64 ∧ (SMap.get {} s.hub.trc.ring k).rd ≤ v ∧ v ≤ (SMap.get {} s.hub.trc.ring k).wr ∧ s.hub.trc.queue = [] ∧ s.hub.inTurn (.traceRingRdWrite m k v) = true :=
  ⟨(world fun h => { h with sec := { m := [(2, { role := 1, leaseEnd := 2 ^ 70 })] }, trc := { ring := [(63, { on := true, base := 0x10000000, size := 65536, wr := 65536 })] } }), .host, 63, 65536, by decide +kernel⟩

theorem wit_ObservationRequests_11 :
    ∃ (s : State) (m : Master) (k : Nat), s.hub.live = true ∧ s.hub.reaches m = true ∧ (m = .pair ∨ s.hub.role m ≠ 0) ∧ s.hub.role m = 1 ∧ k < 64 ∧ (SMap.get {} s.hub.cnt.ring k).on = false ∧ s.hub.inTurn (.attExport m k) = true :=
  ⟨(world fun h => { h with sec := { m := [(2, { role := 1, leaseEnd := 2 ^ 70 })] } }), .host, 63, by decide +kernel⟩

theorem wit_SpanFrames_0 :
    ∃ (s : State) (f : List Byte) (p : List Byte) (cmd : Nat) (tag : Nat), s.hub.live = true ∧ cmd = leAt f 1 1 ∧ tag = leAt f 2 1 ∧ p = slice f 8 (leAt f 4 2) ∧ (s.hub.span.tap = true ∨ s.hub.span.mode = true ∨ s.hub.span.resync = true) ∧ s.hub.inTurn (.spanFrameReceive f) = true :=
  ⟨(world fun h => { h with span := { mode := true } }), (withCrc ([0x5A, 1, 7, 0] ++ leBytes 2 0)), [], 1, 7, by decide +kernel⟩

theorem wit_SpanFrames_1 :
    ∃ (s : State) (f : List Byte) (p : List Byte) (cmd : Nat) (tag : Nat), s.hub.live = true ∧ cmd = leAt f 1 1 ∧ tag = leAt f 2 1 ∧ p = slice f 8 (leAt f 4 2) ∧ s.hub.span.resync = true ∧ s.hub.inTurn .spanLaneResync = true :=
  ⟨(world fun h => { h with span := { resync := true } }), (withCrc ([0x5A, 1, 7, 0] ++ leBytes 2 0)), [], 1, 7, by decide +kernel⟩

theorem wit_SpanFrames_2 :
    ∃ (s : State) (f : List Byte) (p : List Byte) (cmd : Nat) (tag : Nat), s.hub.live = true ∧ cmd = leAt f 1 1 ∧ tag = leAt f 2 1 ∧ p = slice f 8 (leAt f 4 2) ∧ s.hub.span.tap = false ∧ s.hub.span.mode = false ∧ s.hub.span.resync = false ∧ ¬ headerOk f ∧ s.hub.inTurn (.spanFrameReceive f) = true :=
  ⟨(world fun h => h), (withCrc ([0x5A, 1, 7, 0] ++ leBytes 2 0)).take 7, [], 1, 7, by decide +kernel, by decide +kernel, by decide +kernel, by decide +kernel, by decide +kernel, by decide +kernel, by decide +kernel, by unfold headerOk; decide +kernel, by decide +kernel⟩

theorem wit_SpanFrames_3 :
    ∃ (s : State) (f : List Byte) (p : List Byte) (cmd : Nat) (tag : Nat), s.hub.live = true ∧ cmd = leAt f 1 1 ∧ tag = leAt f 2 1 ∧ p = slice f 8 (leAt f 4 2) ∧ s.hub.span.tap = false ∧ s.hub.span.mode = false ∧ s.hub.span.resync = false ∧ headerOk f ∧ ¬ payloadOk f ∧ s.hub.span.held = [] ∧ s.hub.inTurn (.spanFrameReceive f) = true :=
  ⟨(world fun h => h), (withCrc ([0x5A, 2, 255, 0] ++ leBytes 2 8) ++ withCrc [0, 0, 0, 1, 1, 0, 0, 0]).dropLast ++ [0], [0, 0, 0, 1, 1, 0, 0, 0], 2, 255, by decide +kernel, by decide +kernel, by decide +kernel, by decide +kernel, by decide +kernel, by decide +kernel, by decide +kernel, by unfold headerOk; decide +kernel, by unfold payloadOk; decide +kernel, by decide +kernel, by decide +kernel⟩

theorem wit_SpanFrames_4 :
    ∃ (s : State) (f : List Byte) (p : List Byte) (cmd : Nat) (tag : Nat) (c : SpanCmd) (q : List SpanCmd), s.hub.live = true ∧ cmd = leAt f 1 1 ∧ tag = leAt f 2 1 ∧ p = slice f 8 (leAt f 4 2) ∧ s.hub.span.tap = false ∧ s.hub.span.mode = false ∧ s.hub.span.resync = false ∧ headerOk f ∧ ¬ payloadOk f ∧ s.hub.span.held = c :: q ∧ c.refuse = 0 ∧ s.hub.inTurn (.spanFrameReceive f) = true :=
  ⟨(world fun h => { h with span := { held := [⟨1, 7, [], 0⟩, ⟨1, 7, [], 0⟩, ⟨1, 7, [], 0⟩] } }), (withCrc ([0x5A, 2, 255, 0] ++ leBytes 2 8) ++ withCrc [0, 0, 0, 1, 1, 0, 0, 0]).dropLast ++ [0], [0, 0, 0, 1, 1, 0, 0, 0], 2, 255, ⟨1, 7, [], 0⟩, [⟨1, 7, [], 0⟩, ⟨1, 7, [], 0⟩], by decide +kernel, by decide +kernel, by decide +kernel, by decide +kernel, by decide +kernel, by decide +kernel, by decide +kernel, by unfold headerOk; decide +kernel, by unfold payloadOk; decide +kernel, by decide +kernel, by decide +kernel, by decide +kernel⟩

theorem wit_SpanFrames_5 :
    ∃ (s : State) (f : List Byte) (p : List Byte) (cmd : Nat) (tag : Nat) (c : SpanCmd) (q : List SpanCmd), s.hub.live = true ∧ cmd = leAt f 1 1 ∧ tag = leAt f 2 1 ∧ p = slice f 8 (leAt f 4 2) ∧ s.hub.span.tap = false ∧ s.hub.span.mode = false ∧ s.hub.span.resync = false ∧ headerOk f ∧ payloadOk f ∧ spanLenOk cmd p = false ∧ s.hub.span.held = c :: q ∧ c.refuse = 0 ∧ s.hub.inTurn (.spanFrameReceive f) = true :=
  ⟨(world fun h => { h with span := { held := [⟨1, 7, [], 0⟩, ⟨1, 7, [], 0⟩, ⟨1, 7, [], 0⟩] } }), (withCrc ([0x5A, 2, 255, 0] ++ leBytes 2 4) ++ withCrc [0, 0, 0, 1]), [0, 0, 0, 1], 2, 255, ⟨1, 7, [], 0⟩, [⟨1, 7, [], 0⟩, ⟨1, 7, [], 0⟩], by decide +kernel, by decide +kernel, by decide +kernel, by decide +kernel, by decide +kernel, by decide +kernel, by decide +kernel, by unfold headerOk; decide +kernel, by unfold payloadOk; decide +kernel, by decide +kernel, by decide +kernel, by decide +kernel, by decide +kernel⟩

theorem wit_SpanFrames_6 :
    ∃ (s : State) (f : List Byte) (p : List Byte) (cmd : Nat) (tag : Nat), s.hub.live = true ∧ cmd = leAt f 1 1 ∧ tag = leAt f 2 1 ∧ p = slice f 8 (leAt f 4 2) ∧ s.hub.span.tap = false ∧ s.hub.span.mode = false ∧ s.hub.span.resync = false ∧ headerOk f ∧ payloadOk f ∧ spanLenOk cmd p = true ∧ cmd ≠ 5 ∧ (∀ c, s.hub.span.held.head? = some c → c.refuse = 0) ∧ (s.hub.span.held.filter fun c => c.refuse == 0).length < 4 ∧ s.hub.inTurn (.spanFrameReceive f) = true :=
  ⟨(world fun h => { h with span := { held := [⟨1, 7, [], 0⟩, ⟨1, 7, [], 0⟩, ⟨1, 7, [], 0⟩] } }), (withCrc ([0x5A, 2, 255, 0] ++ leBytes 2 8) ++ withCrc [0, 0, 0, 1, 1, 0, 0, 0]), [0, 0, 0, 1, 1, 0, 0, 0], 2, 255, by decide +kernel, by decide +kernel, by decide +kernel, by decide +kernel, by decide +kernel, by decide +kernel, by decide +kernel, by unfold headerOk; decide +kernel, by unfold payloadOk; decide +kernel, by decide +kernel, by decide +kernel, by intro c h; cases h; rfl, by decide +kernel, by decide +kernel⟩

theorem wit_SpanFrames_7 :
    ∃ (s : State) (f : List Byte) (p : List Byte) (cmd : Nat) (tag : Nat), s.hub.live = true ∧ cmd = leAt f 1 1 ∧ tag = leAt f 2 1 ∧ p = slice f 8 (leAt f 4 2) ∧ s.hub.span.tap = false ∧ s.hub.span.mode = false ∧ s.hub.span.resync = false ∧ headerOk f ∧ payloadOk f ∧ spanLenOk cmd p = true ∧ cmd ≠ 5 ∧ (∀ c, s.hub.span.held.head? = some c → c.refuse = 0) ∧ 4 ≤ (s.hub.span.held.filter fun c => c.refuse == 0).length ∧ s.hub.inTurn (.spanFrameReceive f) = true :=
  ⟨(world fun h => { h with span := { held := [⟨1, 7, [], 0⟩, ⟨1, 7, [], 0⟩, ⟨1, 7, [], 0⟩, ⟨1, 7, [], 0⟩] } }), (withCrc ([0x5A, 2, 255, 0] ++ leBytes 2 8) ++ withCrc [0, 0, 0, 1, 1, 0, 0, 0]), [0, 0, 0, 1, 1, 0, 0, 0], 2, 255, by decide +kernel, by decide +kernel, by decide +kernel, by decide +kernel, by decide +kernel, by decide +kernel, by decide +kernel, by unfold headerOk; decide +kernel, by unfold payloadOk; decide +kernel, by decide +kernel, by decide +kernel, by intro c h; cases h; rfl, by decide +kernel, by decide +kernel⟩

theorem wit_SpanFrames_8 :
    ∃ (s : State) (f : List Byte) (p : List Byte) (cmd : Nat) (tag : Nat), s.hub.live = true ∧ cmd = leAt f 1 1 ∧ tag = leAt f 2 1 ∧ p = slice f 8 (leAt f 4 2) ∧ s.hub.span.tap = false ∧ s.hub.span.mode = false ∧ s.hub.span.resync = false ∧ headerOk f ∧ leAt f 4 2 = 0 ∧ cmd = 5 ∧ s.hub.inTurn (.spanFrameReceive f) = true :=
  ⟨(world fun h => h), (withCrc ([0x5A, 5, 0, 0] ++ leBytes 2 0)), [], 5, 0, by decide +kernel, by decide +kernel, by decide +kernel, by decide +kernel, by decide +kernel, by decide +kernel, by decide +kernel, by unfold headerOk; decide +kernel, by decide +kernel, by decide +kernel, by decide +kernel⟩

theorem wit_SpanCommands_0 :
    ∃ (s : State) (c : SpanCmd) (q : List SpanCmd), s.hub.live = true ∧ s.hub.span.abort = none ∧ s.hub.span.bulk = none ∧ s.hub.span.held = c :: q ∧ c.refuse = 0 ∧ (∀ d, q.head? = some d → d.refuse = 0) ∧ c.cmd = 1 ∧ s.hub.inTurn .spanStatus = true :=
  ⟨(world fun h => { h with span := { held := ⟨1, 9, [], 0⟩ :: [] } }), ⟨1, 9, [], 0⟩, [], by decide +kernel⟩

theorem wit_SpanCommands_1 :
    ∃ (s : State) (c : SpanCmd) (q : List SpanCmd) (o : Nat), s.hub.live = true ∧ s.hub.span.abort = none ∧ s.hub.span.bulk = none ∧ s.hub.span.held = c :: q ∧ c.refuse = 0 ∧ (∀ d, q.head? = some d → d.refuse = 0) ∧ c.cmd = 2 ∧ leAt c.payload 0 4 = o ∧ leAt c.payload 4 2 = 1 ∧ o % 4 = 0 ∧ 0x1000000 ≤ o ∧ o + 4 ≤ 0x1800000 ∧ s.hub.inTurn .spanRead = true :=
  ⟨(world fun h => { h with span := { held := [⟨2, 9, leBytes 4 (0x1800000 - 4) ++ leBytes 2 1 ++ [0, 0], 0⟩] } }), ⟨2, 9, leBytes 4 (0x1800000 - 4) ++ leBytes 2 1 ++ [0, 0], 0⟩, [], 0x17FFFFC, by decide +kernel⟩

theorem wit_SpanCommands_2 :
    ∃ (s : State) (c : SpanCmd) (q : List SpanCmd) (o : Nat) (n : Nat) (l : List Nat), s.hub.live = true ∧ s.hub.span.abort = none ∧ s.hub.span.bulk = none ∧ s.hub.span.held = c :: q ∧ c.refuse = 0 ∧ (∀ d, q.head? = some d → d.refuse = 0) ∧ c.cmd = 2 ∧ leAt c.payload 0 4 = o ∧ leAt c.payload 4 2 = n ∧ 0 < n ∧ n ≤ 254 ∧ o % 4 = 0 ∧ o + (if bit (leAt c.payload 6 1) 0 then 4 else 4 * n) ≤ 0x2000000 ∧ l = (List.range n).map (fun k => if bit (leAt c.payload 6 1) 0 then o else o + 4 * k) ∧ s.hub.inTurn .spanRead = true :=
  ⟨(world fun h => { h with span := { held := [⟨2, 9, leBytes 4 0x40 ++ leBytes 2 3 ++ [0, 0], 0⟩] } }), ⟨2, 9, leBytes 4 0x40 ++ leBytes 2 3 ++ [0, 0], 0⟩, [], 0x40, 3, [0x40, 0x44, 0x48], by decide +kernel⟩

theorem wit_SpanCommands_3 :
    ∃ (s : State) (c : SpanCmd) (q : List SpanCmd) (w : Nat), s.hub.live = true ∧ s.hub.span.abort = none ∧ s.hub.span.bulk = none ∧ s.hub.span.held = c :: q ∧ c.refuse = 0 ∧ (∀ d, q.head? = some d → d.refuse = 0) ∧ c.cmd = 3 ∧ leAt c.payload 0 4 = 0x90008 ∧ leAt c.payload 4 2 = 1 ∧ bit (leAt c.payload 6 1) 0 = false ∧ leAt c.payload 8 4 = w ∧ s.hub.inTurn .spanWrite = true :=
  ⟨(world fun h => { h with span := { held := ⟨3, 9, leBytes 4 0x90008 ++ leBytes 2 1 ++ [0, 0] ++ leBytes 4 0x1FF, 0⟩ :: [] } }), ⟨3, 9, leBytes 4 0x90008 ++ leBytes 2 1 ++ [0, 0] ++ leBytes 4 0x1FF, 0⟩, [], 0x1FF, by decide +kernel⟩

theorem wit_SpanCommands_4 :
    ∃ (s : State) (c : SpanCmd) (q : List SpanCmd) (o : Nat) (n : Nat) (l : List Nat), s.hub.live = true ∧ s.hub.span.abort = none ∧ s.hub.span.bulk = none ∧ s.hub.span.held = c :: q ∧ c.refuse = 0 ∧ (∀ d, q.head? = some d → d.refuse = 0) ∧ c.cmd = 3 ∧ leAt c.payload 0 4 = o ∧ leAt c.payload 4 2 = n ∧ 0 < n ∧ n ≤ 254 ∧ o % 4 = 0 ∧ o + (if bit (leAt c.payload 6 1) 0 then 4 else 4 * n) ≤ 0x2000000 ∧ l = (List.range n).map (fun k => if bit (leAt c.payload 6 1) 0 then o else o + 4 * k) ∧ s.hub.inTurn .spanWrite = true :=
  ⟨(world fun h => { h with span := { held := [⟨3, 9, leBytes 4 0x90008 ++ leBytes 2 2 ++ [1, 0] ++ leBytes 4 7 ++ leBytes 4 9, 0⟩] } }), ⟨3, 9, leBytes 4 0x90008 ++ leBytes 2 2 ++ [1, 0] ++ leBytes 4 7 ++ leBytes 4 9, 0⟩, [], 0x90008, 2, [0x90008, 0x90008], by decide +kernel⟩

theorem wit_SpanCommands_5 :
    ∃ (s : State) (c : SpanCmd) (q : List SpanCmd) (o : Nat) (n : Nat), s.hub.live = true ∧ s.hub.span.abort = none ∧ s.hub.span.bulk = none ∧ s.hub.span.held = c :: q ∧ c.refuse = 0 ∧ (∀ d, q.head? = some d → d.refuse = 0) ∧ (c.cmd = 2 ∨ c.cmd = 3) ∧ leAt c.payload 0 4 = o ∧ leAt c.payload 4 2 = n ∧ (n = 0 ∨ 254 < n ∨ o % 4 ≠ 0 ∨ 0x2000000 < o + (if bit (leAt c.payload 6 1) 0 then 4 else 4 * n)) ∧ s.hub.inTurn (if c.cmd = 2 then .spanRead else .spanWrite) = true :=
  ⟨(world fun h => { h with span := { held := [⟨3, 9, leBytes 4 0x90008 ++ leBytes 2 255 ++ [0, 0], 0⟩] } }), ⟨3, 9, leBytes 4 0x90008 ++ leBytes 2 255 ++ [0, 0], 0⟩, [], 0x90008, 255, by decide +kernel⟩

theorem wit_SpanCommands_6 :
    ∃ (s : State) (c : SpanCmd) (q : List SpanCmd) (space : Nat) (o : Nat) (n : Nat), s.hub.live = true ∧ s.hub.span.abort = none ∧ s.hub.span.bulk = none ∧ s.hub.span.held = c :: q ∧ c.refuse = 0 ∧ (∀ d, q.head? = some d → d.refuse = 0) ∧ c.cmd = 4 ∧ leAt c.payload 0 1 = space ∧ space ≤ 1 ∧ leAt c.payload 4 8 = o ∧ leAt c.payload 12 4 = n ∧ o % 8 = 0 ∧ n % 8 = 0 ∧ 8 ≤ n ∧ o + n ≤ (if space = 0 then 0x800000 else s.hub.boot.tunSize) ∧ s.hub.inTurn .spanBulk = true :=
  ⟨(world fun h => { h with span := { held := ⟨4, 9, zeros 4 ++ leBytes 8 0x7FFFF8 ++ leBytes 4 8, 0⟩ :: [] } }), ⟨4, 9, zeros 4 ++ leBytes 8 0x7FFFF8 ++ leBytes 4 8, 0⟩, [], 0, 0x7FFFF8, 8, by decide +kernel⟩

theorem wit_SpanCommands_7 :
    ∃ (s : State) (c : SpanCmd) (q : List SpanCmd), s.hub.live = true ∧ s.hub.span.abort = none ∧ s.hub.span.bulk = none ∧ s.hub.span.held = c :: q ∧ c.refuse = 0 ∧ (∀ d, q.head? = some d → d.refuse = 0) ∧ c.cmd = 4 ∧ leAt c.payload 0 1 ≤ 1 ∧ leAt c.payload 12 4 % 8 ≠ 0 ∧ s.hub.inTurn .spanBulk = true :=
  ⟨(world fun h => { h with span := { held := ⟨4, 9, zeros 4 ++ leBytes 8 0 ++ leBytes 4 12, 0⟩ :: [] } }), ⟨4, 9, zeros 4 ++ leBytes 8 0 ++ leBytes 4 12, 0⟩, [], by decide +kernel⟩

theorem wit_SpanCommands_8 :
    ∃ (s : State) (c : SpanCmd) (q : List SpanCmd), s.hub.live = true ∧ s.hub.span.abort = none ∧ s.hub.span.bulk = none ∧ s.hub.span.held = c :: q ∧ c.refuse = 0 ∧ (∀ d, q.head? = some d → d.refuse = 0) ∧ c.cmd = 6 ∧ s.hub.inTurn .spanMode = true :=
  ⟨(world fun h => { h with span := { held := ⟨6, 9, [], 0⟩ :: [] } }), ⟨6, 9, [], 0⟩, [], by decide +kernel⟩

theorem wit_SpanCommands_9 :
    ∃ (s : State) (c : SpanCmd) (q : List SpanCmd) (b : Bulk) (a : Nat) (n : Nat) (st : Nat) (d : List Byte), s.hub.live = true ∧ s.hub.span.abort = none ∧ s.hub.span.bulk = some b ∧ s.hub.span.held = c :: q ∧ (∀ d, q.head? = some d → d.refuse = 0) ∧ a = b.off + b.sent ∧ n = Nat.min 1016 (b.len - b.sent) ∧ (b.firkin = true ∧ d = s.mem.firkinRead a n ∨ b.firkin = false ∧ d = s.mem.hbmRead (s.hub.boot.tunBase + a) n ∧ s.hub.nocUp = true ∧ s.hub.boot.failedCh = []) ∧ (b.status = stOk ∧ b.firkin = true ∧ (∃ w ∈ s.hub.ecc.firkinBad, a / 8 ≤ w ∧ 8 * w < a + n) ∧ st = stHubEcc ∨ (b.status ≠ stOk ∨ b.firkin = false ∨ ∀ w ∈ s.hub.ecc.firkinBad, 8 * w + 8 ≤ a ∨ a + n ≤ 8 * w) ∧ st = b.status) ∧ b.sent + n < b.len ∧ s.hub.inTurn .spanBulkFrame = true :=
  ⟨(world fun h => { h with ecc := { firkinBad := [63] }, span := { held := [⟨4, 9, zeros 4 ++ leBytes 8 0 ++ leBytes 4 1024, 0⟩], bulk := some { firkin := true, off := 0, len := 1024, sent := 0 } } }), ⟨4, 9, zeros 4 ++ leBytes 8 0 ++ leBytes 4 1024, 0⟩, [], { firkin := true, off := 0, len := 1024, sent := 0 }, 0, 1016, stHubEcc, (zeros 1016), by decide +kernel, by decide +kernel, by decide +kernel, by decide +kernel, by decide +kernel, by decide +kernel, by decide +kernel, Or.inl (by decide +kernel), Or.inl ⟨by decide +kernel, by decide +kernel, ⟨63, by decide +kernel⟩, rfl⟩, by decide +kernel, by decide +kernel⟩

theorem wit_SpanCommands_10 :
    ∃ (s : State) (c : SpanCmd) (q : List SpanCmd) (b : Bulk) (a : Nat) (n : Nat) (st : Nat) (d : List Byte), s.hub.live = true ∧ s.hub.span.abort = none ∧ s.hub.span.bulk = some b ∧ s.hub.span.held = c :: q ∧ (∀ d, q.head? = some d → d.refuse = 0) ∧ a = b.off + b.sent ∧ n = Nat.min 1016 (b.len - b.sent) ∧ (b.firkin = true ∧ d = s.mem.firkinRead a n ∨ b.firkin = false ∧ d = s.mem.hbmRead (s.hub.boot.tunBase + a) n ∧ s.hub.nocUp = true ∧ s.hub.boot.failedCh = []) ∧ (b.status = stOk ∧ b.firkin = true ∧ (∃ w ∈ s.hub.ecc.firkinBad, a / 8 ≤ w ∧ 8 * w < a + n) ∧ st = stHubEcc ∨ (b.status ≠ stOk ∨ b.firkin = false ∨ ∀ w ∈ s.hub.ecc.firkinBad, 8 * w + 8 ≤ a ∨ a + n ≤ 8 * w) ∧ st = b.status) ∧ b.len ≤ b.sent + n ∧ st ≠ stSpnCmd ∧ st ≠ stSpnRange ∧ s.hub.inTurn .spanBulkFrame = true :=
  ⟨(world fun h => { h with ecc := { firkinBad := [63] }, span := { held := [⟨4, 9, zeros 4 ++ leBytes 8 504 ++ leBytes 4 8, 0⟩], bulk := some { firkin := true, off := 504, len := 8, sent := 0 } } }), ⟨4, 9, zeros 4 ++ leBytes 8 504 ++ leBytes 4 8, 0⟩, [], { firkin := true, off := 504, len := 8, sent := 0 }, 504, 8, stHubEcc, (zeros 8), by decide +kernel, by decide +kernel, by decide +kernel, by decide +kernel, by decide +kernel, by decide +kernel, by decide +kernel, Or.inl (by decide +kernel), Or.inl ⟨by decide +kernel, by decide +kernel, ⟨63, by decide +kernel⟩, rfl⟩, by decide +kernel, by decide +kernel, by decide +kernel, by decide +kernel⟩

theorem wit_SpanCommands_11 :
    ∃ (s : State) (c : SpanCmd) (q : List SpanCmd) (b : Bulk) (a : Nat) (n : Nat), s.hub.live = true ∧ s.hub.span.abort = none ∧ s.hub.span.bulk = some b ∧ s.hub.span.held = c :: q ∧ (∀ d, q.head? = some d → d.refuse = 0) ∧ a = b.off + b.sent ∧ n = Nat.min 1016 (b.len - b.sent) ∧ b.firkin = false ∧ s.hub.nocUp = false ∧ s.hub.inTurn .spanBulkFrame = true :=
  ⟨(world fun h => { h with clk := { h.clk with fallback := true }, span := { held := ⟨4, 9, zeros 4 ++ leBytes 8 0x7FFFF8 ++ leBytes 4 8, 0⟩ :: [], bulk := some { firkin := false, off := 0, len := 2040, sent := 1016 } } }), ⟨4, 9, zeros 4 ++ leBytes 8 0x7FFFF8 ++ leBytes 4 8, 0⟩, [], { firkin := false, off := 0, len := 2040, sent := 1016 }, 1016, 1016, by decide +kernel⟩

theorem wit_SpanCommands_12 :
    ∃ (s : State) (c : SpanCmd) (tag : Nat) (b : Bulk), s.hub.live = true ∧ s.hub.span.abort = some tag ∧ s.hub.span.held = [c] ∧ s.hub.span.bulk = some b ∧ s.hub.inTurn .spanAbort = true :=
  ⟨(world fun h => { h with span := { held := [⟨4, 9, zeros 4 ++ leBytes 8 0x7FFFF8 ++ leBytes 4 8, 0⟩], abort := some 255, bulk := some { firkin := true, off := 0, len := 1016, sent := 0 } } }), ⟨4, 9, zeros 4 ++ leBytes 8 0x7FFFF8 ++ leBytes 4 8, 0⟩, 255, { firkin := true, off := 0, len := 1016, sent := 0 }, by decide +kernel⟩

theorem wit_SpanCommands_13 :
    ∃ (s : State) (c : SpanCmd) (tag : Nat) (d : SpanCmd), s.hub.live = true ∧ s.hub.span.abort = some tag ∧ s.hub.span.held = [c, d] ∧ s.hub.span.bulk = none ∧ c.refuse = 0 ∧ d.refuse = 0 ∧ s.hub.inTurn .spanAbort = true :=
  ⟨(world fun h => { h with span := { held := [⟨1, 9, [], 0⟩, ⟨2, 9, leBytes 4 (0x1800000 - 1016) ++ leBytes 2 254 ++ [0, 0], 0⟩], abort := some 0 } }), ⟨1, 9, [], 0⟩, 0, ⟨2, 9, leBytes 4 (0x1800000 - 1016) ++ leBytes 2 254 ++ [0, 0], 0⟩, by decide +kernel⟩

theorem wit_TapAccess_0 :
    ∃ (s : State), s.hub.live = true ∧ s.hub.span.tap = true ∧ s.hub.inTurn .tapIdcode = true :=
  ⟨(world fun h => { h with span := { tap := true } }), by decide +kernel⟩

theorem wit_TapAccess_1 :
    ∃ (s : State), s.hub.live = true ∧ s.hub.span.tap = true ∧ s.hub.inTurn .tapBypass = true :=
  ⟨(world fun h => { h with span := { tap := true } }), by decide +kernel⟩

theorem wit_TapAccess_2 :
    ∃ (s : State), s.hub.live = true ∧ s.hub.span.tap = true ∧ s.hub.inTurn .tapReset = true :=
  ⟨(world fun h => { h with span := { tap := true } }), by decide +kernel⟩

theorem wit_TapAccess_3 :
    ∃ (s : State), s.hub.live = true ∧ s.hub.span.tap = true ∧ s.hub.inTurn .tapFrame = true :=
  ⟨(world fun h => { h with span := { tap := true } }), by decide +kernel⟩

theorem wit_TapAccess_4 :
    ∃ (s : State), s.hub.live = true ∧ s.hub.span.tap = true ∧ s.hub.inTurn .tapRegaccCapture = true :=
  ⟨(world fun h => { h with span := { tap := true } }), by decide +kernel⟩

theorem wit_TapAccess_5 :
    ∃ (s : State) (dr : Nat), s.hub.live = true ∧ s.hub.span.tap = true ∧ dr < 2 ^ 64 ∧ s.hub.span.acc = none ∧ dr < 2 ^ 58 ∧ dr / 2 ^ 32 % 4 = 0 ∧ s.hub.inTurn (.tapRegaccUpdate dr) = true :=
  ⟨(world fun h => { h with span := { tap := true } }), (2 ^ 58 - 1 - 3 * 2 ^ 32), by decide +kernel⟩

theorem wit_TapAccess_6 :
    ∃ (s : State) (dr : Nat), s.hub.live = true ∧ s.hub.span.tap = true ∧ dr < 2 ^ 64 ∧ s.hub.span.acc = none ∧ (2 ^ 58 ≤ dr ∨ dr / 2 ^ 32 % 4 ≠ 0) ∧ s.hub.inTurn (.tapRegaccUpdate dr) = true :=
  ⟨(world fun h => { h with span := { tap := true } }), (2 ^ 58), by decide +kernel⟩

theorem wit_TapAccess_7 :
    ∃ (s : State) (dr : Nat), s.hub.live = true ∧ s.hub.span.tap = true ∧ dr < 2 ^ 64 ∧ s.hub.span.acc ≠ none ∧ s.hub.inTurn (.tapRegaccUpdate dr) = true :=
  ⟨(world fun h => { h with span := { tap := true, acc := some 0 } }), 0, by decide +kernel⟩

theorem wit_TapAccess_8 :
    ∃ (s : State) (dr : Nat) (c : Instr), s.hub.live = true ∧ s.hub.span.tap = false ∧ c ∈ [Instr.tapIdcode, .tapBypass, .tapReset, .tapFrame, .tapRegaccCapture, .tapRegaccUpdate dr] ∧ s.hub.inTurn c = true :=
  ⟨(world fun h => h), 0, .tapReset, by decide +kernel⟩

theorem wit_EngineRequests_0 :
    ∃ (s : State), s.hub.live = true ∧ s.hub.er.sysq.length < 31 ∧ s.hub.boot.pairRunning = true ∧ s.hub.hang.scan = none ∧ s.hub.inTurn .scanStart = true :=
  ⟨(world fun h => h), by decide +kernel⟩

theorem wit_EngineRequests_1 :
    ∃ (s : State), s.hub.live = true ∧ s.hub.er.sysq.length < 31 ∧ s.hub.boot.pairRunning = true ∧ s.hub.hang.scan ≠ none ∧ s.hub.inTurn .scanStart = true :=
  ⟨(world fun h => { h with hang := { scan := some 0 } }), by decide +kernel⟩

theorem wit_EngineRequests_2 :
    ∃ (s : State) (cls : Nat) (code : Nat), s.hub.live = true ∧ s.hub.er.sysq.length < 31 ∧ s.hub.boot.pairRunning = true ∧ 3 ≤ cls ∧ cls ≤ 7 ∧ code < 65536 ∧ s.hub.classOn cls = true ∧ s.hub.inTurn (.erFwRecord cls code) = true :=
  ⟨(world fun h => h), 7, 65535, by decide +kernel⟩

theorem wit_EngineRequests_3 :
    ∃ (s : State) (cls : Nat) (code : Nat), s.hub.live = true ∧ s.hub.er.sysq.length < 31 ∧ s.hub.boot.pairRunning = true ∧ (cls < 3 ∨ 7 < cls ∨ s.hub.classOn cls = false) ∧ cls < 16 ∧ code < 65536 ∧ s.hub.inTurn (.erFwRecord cls code) = true :=
  ⟨(world fun h => h), 2, 0, by decide +kernel⟩

theorem wit_EngineRequests_4 :
    ∃ (s : State) (code : Nat), s.hub.live = true ∧ s.hub.er.sysq.length < 31 ∧ s.hub.boot.pairRunning = true ∧ code < 65536 ∧ s.hub.inTurn (.attnMessageSet code) = true :=
  ⟨(world fun h => h), 65535, by decide +kernel⟩

theorem wit_EngineRequests_5 :
    ∃ (s : State) (m : Master) (c : Nat) (k : Nat) (q : List (Nat × Nat)), s.hub.live = true ∧ s.hub.er.sysq.length < 31 ∧ s.hub.reaches m = true ∧ (m = .pair ∨ s.hub.role m = 1 ∨ s.hub.role m = 3) ∧ s.hub.verdicts = (c, k) :: q ∧ m ≠ .pair ∧ s.hub.inTurn (.verdictPop m) = true :=
  ⟨(world fun h => { h with sec := { m := [(2, { role := 1, leaseEnd := 2 ^ 70 })] }, hang := { fifo := [(262143, 63)] } }), .host, 262143, 63, [], by decide +kernel⟩

theorem wit_EngineRequests_6 :
    ∃ (s : State) (m : Master) (c : Nat) (k : Nat) (q : List (Nat × Nat)), s.hub.live = true ∧ s.hub.er.sysq.length < 31 ∧ s.hub.reaches m = true ∧ (m = .pair ∨ s.hub.role m = 1 ∨ s.hub.role m = 3) ∧ s.hub.verdicts = (c, k) :: q ∧ m = .pair ∧ s.hub.hang.seq.step = 0 ∧ s.hub.hang.waiting = [] ∧ s.hub.hang.dieWaiting = false ∧ s.hub.inTurn (.verdictPop m) = true :=
  ⟨(world fun h => { h with hang := { fifo := [(262143, 63)] } }), .pair, 262143, 63, [], by decide +kernel⟩

theorem wit_EngineRequests_7 :
    ∃ (s : State) (m : Master) (c : Nat) (k : Nat) (q : List (Nat × Nat)), s.hub.live = true ∧ s.hub.er.sysq.length < 31 ∧ s.hub.reaches m = true ∧ (m = .pair ∨ s.hub.role m = 1 ∨ s.hub.role m = 3) ∧ s.hub.verdicts = (c, k) :: q ∧ m = .pair ∧ s.hub.hang.seq.step ≠ 0 ∧ s.hub.inTurn (.verdictPop m) = true :=
  ⟨(world fun h => { h with hang := { fifo := [(262143, 63)], seq := { step := 2, die := true, slice := 3 } } }), .pair, 262143, 63, [], by decide +kernel⟩

theorem wit_EngineRequests_8 :
    ∃ (s : State) (m : Master), s.hub.live = true ∧ s.hub.er.sysq.length < 31 ∧ s.hub.reaches m = true ∧ (m = .pair ∨ s.hub.role m = 1 ∨ s.hub.role m = 3) ∧ s.hub.verdicts = [] ∧ s.hub.inTurn (.verdictPop m) = true :=
  ⟨(world fun h => { h with sec := { m := [(2, { role := 1, leaseEnd := 2 ^ 70 })] } }), .host, by decide +kernel⟩

theorem wit_EngineRequests_9 :
    ∃ (s : State) (m : Master) (v : Nat), s.hub.live = true ∧ s.hub.er.sysq.length < 31 ∧ s.hub.reaches m = true ∧ (m = .pair ∨ s.hub.role m = 1 ∨ s.hub.role m = 3) ∧ v < 2 ^ 64 ∧ s.hub.er.spillRd ≤ v ∧ v ≤ s.hub.er.spillWr ∧ s.hub.inTurn (.spillRdWrite m v) = true :=
  ⟨(world fun h => { h with sec := { m := [(2, { role := 1, leaseEnd := 2 ^ 70 })] }, er := { spillWr := 63 } }), .host, 63, by decide +kernel⟩

theorem wit_EngineRequests_10 :
    ∃ (s : State) (m : Master) (b : Nat) (x : Nat) (len : Nat) (limit : Nat) (dec : Bool), s.hub.live = true ∧ s.hub.er.sysq.length < 31 ∧ s.hub.reaches m = true ∧ (m = .pair ∨ s.hub.role m = 1 ∨ s.hub.role m = 3) ∧ b < 4 ∧ x < 4 ∧ len = s.hub.rwGet 0 (0x50110 + 0x4000 * b) m.idx ∧ limit = s.hub.rwGet 0 (0x50114 + 0x4000 * b) m.idx ∧ (SMap.get {} s.hub.ce.bank b).busy = true ∧ s.hub.inTurn (if dec then .ceDecodeJob m b x else .ceEncodeJob m b x) = true :=
  ⟨(world fun h => { h with sec := { m := [(2, { role := 1, leaseEnd := 2 ^ 70 })] }, ce := { bank := [(3, { busy := true })] } }), .host, 3, 3, 0, 0, true, by decide +kernel⟩

theorem wit_EngineRequests_11 :
    ∃ (s : State) (m : Master) (b : Nat) (x : Nat) (len : Nat) (limit : Nat) (dec : Bool), s.hub.live = true ∧ s.hub.er.sysq.length < 31 ∧ s.hub.reaches m = true ∧ (m = .pair ∨ s.hub.role m = 1 ∨ s.hub.role m = 3) ∧ b < 4 ∧ x < 4 ∧ len = s.hub.rwGet 0 (0x50110 + 0x4000 * b) m.idx ∧ limit = s.hub.rwGet 0 (0x50114 + 0x4000 * b) m.idx ∧ (SMap.get {} s.hub.ce.bank b).busy = false ∧ bit (s.hub.ceCtl b) 31 = true ∧ 0 < len ∧ len ≤ chunkSize ∧ 0 < limit ∧ limit ≤ 16777216 ∧ s.hub.nocUp = true ∧ s.hub.boot.tunBase + tunDataOff ≤ s.hub.rwGet 0 (0x50100 + 0x4000 * b) m.idx ∧ s.hub.rwGet 0 (0x50100 + 0x4000 * b) m.idx + len ≤ s.hub.boot.tunBase + s.hub.boot.tunSize ∧ s.hub.boot.tunBase + tunDataOff ≤ s.hub.rwGet 0 (0x50108 + 0x4000 * b) m.idx ∧ s.hub.rwGet 0 (0x50108 + 0x4000 * b) m.idx + limit ≤ s.hub.boot.tunBase + s.hub.boot.tunSize ∧ s.hub.inTurn (if dec then .ceDecodeJob m b x else .ceEncodeJob m b x) = true :=
  ⟨(world fun h => { h with sec := { m := [(2, { role := 1, leaseEnd := 2 ^ 70 })] }, rw := [(0x5C100 * 4 + 2, 0x2200000), (0x5C108 * 4 + 2, 0xF000000), (0x5C110 * 4 + 2, 1048576), (0x5C114 * 4 + 2, 16777216)], rws := [(0x5C000, rg (2 ^ 31))] }), .host, 3, 3, 1048576, 16777216, true, by decide +kernel⟩

theorem wit_EngineRequests_12 :
    ∃ (s : State) (m : Master) (v : Nat) (at_ : Nat) (e : Er), s.hub.live = true ∧ s.hub.er.sysq.length < 31 ∧ s.hub.reaches m = true ∧ s.hub.role m = 1 ∧ v < 2 ^ 64 ∧ at_ = s.hub.rwGet 0 0x10010 0 ∧ (e = roleEr { s.hub with er := roleEr s.hub m 0x10018 (v % 2 ^ 32) } m 0x1001C (v / 2 ^ 32)) ∧ s.hub.cal.pending = false ∧ s.hub.now < at_ ∧ at_ ≤ s.hub.now + 10000000000 ∧ s.hub.inTurn (.calendarSetRequest m v) = true :=
  ⟨(world fun h => { h with sec := { m := [(2, { role := 1, leaseEnd := 2 ^ 70 })] }, rw := [(0x10010 * 4, 20000000000)] }), .host, (2 ^ 63), 20000000000, (roleEr { (world fun h => { h with sec := { m := [(2, { role := 1, leaseEnd := 2 ^ 70 })] }, rw := [(0x10010 * 4, 20000000000)] }).hub with er := roleEr (world fun h => { h with sec := { m := [(2, { role := 1, leaseEnd := 2 ^ 70 })] }, rw := [(0x10010 * 4, 20000000000)] }).hub .host 0x10018 ((2 ^ 63) % 2 ^ 32) } .host 0x1001C ((2 ^ 63) / 2 ^ 32)), by decide +kernel⟩

theorem wit_EngineRequests_13 :
    ∃ (s : State) (m : Master) (v : Nat) (at_ : Nat) (e : Er), s.hub.live = true ∧ s.hub.er.sysq.length < 31 ∧ s.hub.reaches m = true ∧ s.hub.role m = 1 ∧ v < 2 ^ 64 ∧ at_ = s.hub.rwGet 0 0x10010 0 ∧ (e = roleEr { s.hub with er := roleEr s.hub m 0x10018 (v % 2 ^ 32) } m 0x1001C (v / 2 ^ 32)) ∧ s.hub.cal.pending = false ∧ at_ ≤ s.hub.now ∧ s.hub.now ≤ at_ + 1000000000 ∧ s.hub.inTurn (.calendarSetRequest m v) = true :=
  ⟨(world fun h => { h with sec := { m := [(2, { role := 1, leaseEnd := 2 ^ 70 })] }, rw := [(0x10010 * 4, 9000000000)] }), .host, 0, 9000000000, (roleEr { (world fun h => { h with sec := { m := [(2, { role := 1, leaseEnd := 2 ^ 70 })] }, rw := [(0x10010 * 4, 9000000000)] }).hub with er := roleEr (world fun h => { h with sec := { m := [(2, { role := 1, leaseEnd := 2 ^ 70 })] }, rw := [(0x10010 * 4, 9000000000)] }).hub .host 0x10018 ((0) % 2 ^ 32) } .host 0x1001C ((0) / 2 ^ 32)), by decide +kernel⟩

theorem wit_EngineRequests_14 :
    ∃ (s : State) (m : Master) (v : Nat) (at_ : Nat) (e : Er), s.hub.live = true ∧ s.hub.er.sysq.length < 31 ∧ s.hub.reaches m = true ∧ s.hub.role m = 1 ∧ v < 2 ^ 64 ∧ at_ = s.hub.rwGet 0 0x10010 0 ∧ (e = roleEr { s.hub with er := roleEr s.hub m 0x10018 (v % 2 ^ 32) } m 0x1001C (v / 2 ^ 32)) ∧ (s.hub.cal.pending = true ∨ at_ + 1000000000 < s.hub.now ∨ s.hub.now + 10000000000 < at_) ∧ s.hub.inTurn (.calendarSetRequest m v) = true :=
  ⟨(world fun h => { h with sec := { m := [(2, { role := 1, leaseEnd := 2 ^ 70 })] }, rw := [(0x10010 * 4, 8999999999)] }), .host, (2 ^ 63 + 7), 8999999999, (roleEr { (world fun h => { h with sec := { m := [(2, { role := 1, leaseEnd := 2 ^ 70 })] }, rw := [(0x10010 * 4, 8999999999)] }).hub with er := roleEr (world fun h => { h with sec := { m := [(2, { role := 1, leaseEnd := 2 ^ 70 })] }, rw := [(0x10010 * 4, 8999999999)] }).hub .host 0x10018 ((2 ^ 63 + 7) % 2 ^ 32) } .host 0x1001C ((2 ^ 63 + 7) / 2 ^ 32)), by decide +kernel⟩

theorem wit_SecurityRequests_0 :
    ∃ (s : State) (m : Master) (k : Nat) (op : Nat), s.hub.live = true ∧ s.hub.reaches m = true ∧ (m = .host ∨ m = .span) ∧ (s.hub.getSecM m).check = none ∧ k < 64 ∧ (op = 1 ∧ k = 0 ∨ op = 4 ∧ k = 0 ∨ op = 3 ∧ s.hub.role m = 1) ∧ s.hub.inTurn (if op = 1 then .roleCommand m else if op = 4 then .tokenLodge m else .ownerRegister m k) = true :=
  ⟨(world fun h => { h with sec := { m := [(2, { role := 1, leaseEnd := 2 ^ 70 })] } }), .host, 63, 3, by decide +kernel⟩

theorem wit_SecurityRequests_1 :
    ∃ (s : State) (m : Master), s.hub.live = true ∧ s.hub.reaches m = true ∧ (m = .host ∨ m = .span) ∧ (s.hub.getSecM m).check = none ∧ s.hub.inTurn (.roleDrop m) = true :=
  ⟨(world fun h => { h with sec := { m := [(2, { role := 1, leaseEnd := 2 ^ 70 })] } }), .host, by decide +kernel⟩

theorem wit_SecurityRequests_2 :
    ∃ (s : State) (m : Master) (c : Instr) (r : Req), s.hub.live = true ∧ s.hub.reaches m = true ∧ (m = .host ∨ m = .span) ∧ (s.hub.getSecM m).check ≠ none ∧ ((c = .roleCommand m ∧ r = { s.hub.auditBy m 0x0812 with status := stBusy, arg := leAt ((s.hub.getSecM m).bytes 256) 6 1 }) ∨ (c = .tokenLodge m ∧ r = { s.hub.secEvt m 0x0822 (tokenSlice ((s.hub.getSecM m).bytes 256)) with status := stBusy, aux := 256 * leAt ((s.hub.getSecM m).bytes 256) 6 1, arg := leAt ((s.hub.getSecM m).bytes 256) 0x20 8 }) ∨ (s.hub.role m = 1 ∧ ∃ k : Nat, k < 64 ∧ c = .ownerRegister m k ∧ r = { s.hub.secEvt m 0x0828 k with status := stBusy, aux := stBusy, arg := k })) ∧ s.hub.inTurn c = true :=
  ⟨(world fun h => { h with sec := { m := [(2, { role := 1, leaseEnd := 2 ^ 70, check := some ⟨1, 0, [], [], 1, 0⟩ })] } }), .host, (.ownerRegister .host 63), { (world fun h => { h with sec := { m := [(2, { role := 1, leaseEnd := 2 ^ 70, check := some ⟨1, 0, [], [], 1, 0⟩ })] } }).hub.secEvt .host 0x0828 63 with status := stBusy, aux := stBusy, arg := 63 }, by decide +kernel, by decide +kernel, by decide +kernel, by decide +kernel, Or.inr (Or.inr ⟨by decide +kernel, 63, by decide, rfl, rfl⟩), by decide +kernel⟩

theorem wit_SecurityRequests_3 :
    ∃ (s : State) (m : Master), s.hub.live = true ∧ s.hub.reaches m = true ∧ (m = .host ∨ m = .span) ∧ (s.hub.getSecM m).check ≠ none ∧ s.hub.inTurn (.roleDrop m) = true :=
  ⟨(world fun h => { h with sec := { m := [(2, { role := 1, leaseEnd := 2 ^ 70, check := some ⟨1, 0, [], [], 1, 0⟩ })] } }), .host, by decide +kernel⟩

theorem wit_SecurityRequests_4 :
    ∃ (s : State) (m : Master), s.hub.live = true ∧ s.hub.reaches m = true ∧ (m = .host ∨ m = .span) ∧ (s.hub.getSecM m).nonceDue = true ∧ (∀ x : Master, x ≠ m → (s.hub.getSecM x).nonceDue = false) :=
  ⟨(world fun h => { h with sec := { m := [(2, { role := 1, leaseEnd := 2 ^ 70, nonceDue := true })] } }), .host, by decide +kernel, by decide +kernel, by decide +kernel, by decide +kernel, by intro x; cases x <;> decide +kernel⟩

theorem wit_SecurityRequests_5 :
    ∃ (s : State) (m : Master), s.hub.live = true ∧ (s.hub.getSecM m).role ≠ 0 ∧ (s.hub.getSecM m).leaseEnd ≤ s.hub.sec.lease ∧ s.hub.inTurn (.roleLeaseExpiry m) = true :=
  ⟨(world fun h => { h with sec := { lease := 100, m := [(2, { role := 3, leaseEnd := 100 })] } }), .host, by decide +kernel⟩

theorem wit_SecurityRequests_6 :
    ∃ (s : State) (m : Master), s.hub.live = true ∧ (s.hub.getSecM m).keyoutFull = true ∧ (s.hub.getSecM m).keyoutEnd ≤ s.hub.now ∧ s.hub.inTurn (.keyoutExpiry m) = true :=
  ⟨(world fun h => { h with sec := { m := [(2, { keyoutFull := true, keyoutEnd := 10000000000 })] } }), .host, by decide +kernel⟩

theorem wit_SecurityRequests_7 :
    ∃ (s : State) (k : Nat) (q : List Nat), s.hub.live = true ∧ s.hub.sec.revokes = k :: q ∧ (∀ c ∈ s.hub.chain.queue, c.owner ≠ .security) ∧ (∀ c, s.hub.chain.cur = some c → c.owner ≠ .security) ∧ s.hub.ldr.st = .idle ∧ s.hub.inTurn .revokeCommit = true :=
  ⟨(world fun h => { h with sec := { revokes := [63] } }), 63, [], by decide +kernel⟩

end Sys2Proof.Tests
end

section
/-!
Register accesses of a master (chapter 00): what the register index holds at an offset, what an aligned word read or write does once its rights are known,
and the obligations of that chapter.
-/
namespace Sys2Proof.Machine

/-! ## The register index -/

/-- A row found at an offset is one of the rows searched, and only a pair's row is hit at a _HI word (R13). -/
theorem findRow_some {rows : List RegRow} {off i : Nat} {r : RegRow} {b : Bool} (e : findRow rows off = some (r, i, b)) :
    r ∈ rows ∧ (b = true → r.pair = true) := by
  induction rows with
  | nil => cases e
  | cons r' rows ih =>
    unfold findRow at e
    split at e
    · next j c hit =>
      cases e
      refine ⟨List.mem_cons_self, fun hb => ?_⟩
      unfold RegRow.hit at hit
      grind
    · exact ⟨List.mem_cons_of_mem _ (ih e).1, (ih e).2⟩

/-- Every block's rows are rows of Table 17.3. -/
theorem rowsOf_subset (off : Nat) : rowsOf off ⊆ rowsAll := by
  intro r hr
  unfold rowsOf at hr
  unfold rowsAll
  simp only [List.mem_append]
  split at hr <;> simp_all

/-- A located register has a row of the index, and only a pair has a _HI word (R13). -/
def Loc.indexed (l : Loc) : Prop := l.row ∈ rowsAll ++ rowsPch ∧ (l.hi = true → l.row.pair = true)

theorem locHub_indexed {off : Nat} {l : Loc} (e : locHub off = some l) : l.indexed := by
  unfold locHub at e
  split at e
  · next r i b found =>
    cases e
    obtain ⟨mem, hi⟩ := findRow_some found
    exact ⟨List.mem_append_left _ (rowsOf_subset off mem), hi⟩
  · cases e

theorem locate_indexed {off : Nat} {l : Loc} (e : locate off = some l) : l.indexed := by
  unfold locate at e
  split at e
  · split at e
    · split at e
      · next found =>
        split at e <;> cases e
        obtain ⟨mem, hi⟩ := locHub_indexed found
        exact ⟨mem, hi⟩
      · cases e
    · exact locHub_indexed e
  · split at e
    · simp only at e
      split at e
      · cases e
      · split at e
        · next found =>
          split at e <;> cases e
          obtain ⟨mem, hi⟩ := findRow_some found
          exact ⟨List.mem_append_right _ mem, hi⟩
        · cases e
    · cases e

/-- Families whose read does more than clear RC fields (R310, R389, R421, R483, R485, Table 03.9). -/
def Fam.readActs : Fam → Bool
  | .hubVerdict | .hubHostDbPop | .hubMbxRdata | .secKeyout | .erWin | .hubAszStatus => true
  | _ => false

theorem Fam.readActs_rcBits {f : Fam} (e : f.readActs = true) : f.rcBits = [] := by
  unfold Fam.readActs at e
  split at e <;> simp_all [Fam.rcBits]

/-- In the register index no pair is read with a side effect, and HUB_WFG_STATUS is no pair. -/
theorem pair_rows_plain : ∀ r ∈ rowsAll ++ rowsPch, r.pair = true → r.fam.readActs = false ∧ r.fam.rcBits = [] ∧ r.fam ≠ .hubWfgStatus := by
  decide +kernel

/-! ## What a read clears (R10, R12) -/

/-- An RC field after its read: what the hub has added in this hub cycle alone. -/
def RcCell.afterRead (c : RcCell) : RcCell := if c.new = 0 then {} else { c with old := 0 }

theorem RcCell.afterRead_idem (c : RcCell) : c.afterRead.afterRead = c.afterRead := by
  unfold RcCell.afterRead
  grind

/-- The RC fields at the low bits `bits` of a register are read. -/
def Hub.rcClearAll (h : Hub) (off mi : Nat) (bits : List Nat) : Hub := bits.foldl (fun h b => h.rcClear off mi b) h

theorem rcClearAll_frame (h : Hub) (off mi : Nat) (bits : List Nat) :
    h.rcClearAll off mi bits = { h with rc := (h.rcClearAll off mi bits).rc } := by
  induction bits generalizing h with
  | nil => rfl
  | cons b bits ih => exact ih (h.rcClear off mi b)

theorem rcClear_self (h : Hub) (off mi b : Nat) :
    SMap.get {} (h.rcClear off mi b).rc (rcKey off mi b) = (SMap.get {} h.rc (rcKey off mi b)).afterRead := by
  simp [Hub.rcClear, RcCell.afterRead]

theorem rcClear_ne (h : Hub) (off mi b k : Nat) (e : k ≠ rcKey off mi b) : SMap.get {} (h.rcClear off mi b).rc k = SMap.get {} h.rc k := by
  simp [Hub.rcClear, e]

theorem rcKey_inj {off mi a b : Nat} (e : rcKey off mi a = rcKey off mi b) : a = b := Nat.add_left_cancel e

/-- Fields of other registers, and other fields of this one, keep their values. -/
theorem rcClearAll_other (h : Hub) (off mi k : Nat) (bits : List Nat) (e : ∀ b ∈ bits, k ≠ rcKey off mi b) :
    SMap.get {} (h.rcClearAll off mi bits).rc k = SMap.get {} h.rc k := by
  induction bits generalizing h with
  | nil => rfl
  | cons b bits ih =>
    calc SMap.get {} (h.rcClearAll off mi (b :: bits)).rc k
        = SMap.get {} (h.rcClear off mi b).rc k := ih (h.rcClear off mi b) fun x hx => e x (List.mem_cons_of_mem _ hx)
      _ = SMap.get {} h.rc k := rcClear_ne h off mi b k (e b List.mem_cons_self)

/-- Each field read keeps what the hub has added in this hub cycle. -/
theorem rcClearAll_field (h : Hub) (off mi b : Nat) (bits : List Nat) (e : b ∈ bits) :
    SMap.get {} (h.rcClearAll off mi bits).rc (rcKey off mi b) = (SMap.get {} h.rc (rcKey off mi b)).afterRead := by
  induction bits generalizing h with
  | nil => cases e
  | cons c bits ih =>
    have step : h.rcClearAll off mi (c :: bits) = (h.rcClear off mi c).rcClearAll off mi bits := rfl
    by_cases later : b ∈ bits
    · rw [step, ih _ later]
      by_cases same : b = c
      · rw [same, rcClear_self, RcCell.afterRead_idem]
      · rw [rcClear_ne _ _ _ _ _ fun k => same (rcKey_inj k)]
    · obtain rfl : b = c := (List.mem_cons.mp e).resolve_right later
      rw [step, rcClearAll_other _ _ _ _ _ fun x hx k => later (by rwa [rcKey_inj k]), rcClear_self]

/-- The read of a register whose family does nothing else clears its RC fields. -/
theorem readEffect_plain (h : Hub) (m : Master) (l : Loc) (p : l.row.fam.readActs = false) :
    h.readEffect m l = h.rcClearAll l.base (if l.row.own then m.idx else 0) l.row.fam.rcBits := by
  unfold Hub.readEffect
  split <;> simp_all [Fam.readActs, Hub.rcClearAll]

/-! ## Orders on their way to a station (R58) -/

theorem deliver_nothingDue (h : Hub) (x : Nat) (q : nothingDue h x) : h.deliver x h.clk.cycle = h := by
  obtain ⟨cuts, orders⟩ := q
  have noCut : (h.cut.cuts.filter fun r => r.toArm.contains x && decide (r.issued < h.clk.cycle)) = [] := by
    simpa [List.filter_eq_nil_iff] using cuts
  have noOrder : (h.trc.orders.filter fun o => o.station == x && decide (o.issued < h.clk.cycle)) = [] := by
    simpa [List.filter_eq_nil_iff] using orders
  simp only [Hub.deliver, noCut, noOrder, List.foldl_nil, List.isEmpty_nil, if_true]

theorem slotReached_quiet (h : Hub) (off : Nat) (q : slotQuiet h off) : h.slotReached off = h := by
  unfold Hub.slotReached
  split
  · next slot => exact deliver_nothingDue h _ (q slot.1 slot.2)
  · rfl

/-! ## The hub as it takes a command

What an access does depends neither on the places taken in the hub cycle nor on the command that took them. The facts below therefore speak of a hub with
any places `t` taken. -/

/-- `h` with the places `t` taken and no write to memory waiting. -/
def Hub.placed (h : Hub) (t : SMap Nat) : Hub := { h with turn := t, out := [] }

theorem takes_placed (h : Hub) (c : Instr) : h.takes c = h.placed (h.taken c) := rfl

theorem value_placed (h : Hub) (t : SMap Nat) (m : Master) (l : Loc) : l.value (h.placed t) m = l.value h m := rfl

theorem latch_placed (h : Hub) (t : SMap Nat) : (h.placed t).latch = h.latch := rfl

/-! ## An aligned word read -/

theorem inFirkin_of_inWindow {off : Nat} (w : inWindow off = true) : inFirkin off = false := by
  simp only [inWindow, inFirkin, Bool.and_eq_true, Bool.and_eq_false_iff, decide_eq_true_eq, decide_eq_false_iff_not] at *
  omega

section Reads

variable (h : Hub) (mem : Mem) (m : Master) (off : Nat) (l : Loc)

/-- A register read without the right to it (R18). -/
theorem read32_refused (e : locate off = some l) (may : h.mayRead m l.row.rd = false) (nf : inFirkin off = false) (nw : inWindow off = false) :
    h.read32 mem m off = (0, true, h.refusal m false off 0) := by
  simp [Hub.read32, e, may, nf, nw]

/-- A read of the Firkin or of the Chain window's copy without the right to it (R18, R496). -/
theorem read32_window_refused (may : inFirkin off = true ∧ h.mayRead m .tun = false ∨ inWindow off = true ∧ h.mayRead m .er = false) :
    h.read32 mem m off = (0, true, h.refusal m false off 0) := by
  rcases may with ⟨f, may⟩ | ⟨w, may⟩
  · simp [Hub.read32, f, may]
  · simp [Hub.read32, inFirkin_of_inWindow w, w, may]

/-- A register read with the right to it. -/
theorem read32_permitted (e : locate off = some l) (may : h.mayRead m l.row.rd = true) (nf : inFirkin off = false) (nw : inWindow off = false)
    (q : slotQuiet h off) : h.read32 mem m off = ((h.readReg m l).1, false, (h.readReg m l).2) := by
  simp [Hub.read32, e, may, nf, nw, slotReached_quiet h off q]

/-- A read of _HI answers the latch (R15). -/
theorem readReg_hi (lost : h.lostSlot l = false) (hi : l.hi = true) : h.readReg m l = (SMap.get 0 h.latch m.idx, h) := by
  simp [Hub.readReg, lost, hi]

/-- A read of a pair's _LO latches bits [63:32] and does nothing else (R13, R15). -/
theorem readReg_lo (e : locate off = some l) (lost : h.lostSlot l = false) (hi : l.hi = false) (pair : l.row.pair = true) :
    h.readReg m l = (l.value h m % 2 ^ 32, { h with latch := SMap.set 0 h.latch m.idx (l.value h m / 2 ^ 32) }) := by
  obtain ⟨plain, noRc, -⟩ := pair_rows_plain l.row (locate_indexed e).1 pair
  simp [Hub.readReg, lost, hi, pair, readEffect_plain _ m l plain, noRc, Hub.rcClearAll]

/-- A register with RC fields is no pair, and its read clears them (R10). -/
theorem readReg_rc (e : locate off = some l) (lost : h.lostSlot l = false) (mirror : l.mirror = false) (rc : l.row.fam.rcBits ≠ []) :
    h.readReg m l = (l.value h m % 2 ^ 32, h.rcClearAll l.base (if l.row.own then m.idx else 0) l.row.fam.rcBits) := by
  obtain ⟨row, hiPair⟩ := locate_indexed e
  have pair : l.row.pair = false := Bool.eq_false_iff.mpr fun p => rc (pair_rows_plain l.row row p).2.1
  have hi : l.hi = false := Bool.eq_false_iff.mpr fun p => by simp [hiPair p] at pair
  have plain : l.row.fam.readActs = false := Bool.eq_false_iff.mpr fun p => rc (Fam.readActs_rcBits p)
  simp [Hub.readReg, lost, hi, pair, mirror, readEffect_plain h m l plain]

end Reads

/-! ## An aligned word write -/

section Writes

variable (h : Hub) (mem : Mem) (m : Master) (off : Nat) (l : Loc) (w : Nat)

/-- The record of an accepted write, exempt registers included (R408). -/
theorem roleWrite_roleEr : h.roleWrite m l off w = { h with er := if l.exempt w then h.er else roleEr h m off w } := by
  rw [roleWrite_eq]
  unfold roleEr
  by_cases role : h.role m = 0 <;> by_cases ex : l.exempt w = true <;> simp [role, ex]

/-- A write without the right to it (R18, R407). -/
theorem write32_refused (e : locate off = some l) (wr : l.writable = true) (may : h.mayWrite m l w = false) :
    h.write32 mem m off w = (true, h.refusal m true off w) := by
  simp [Hub.write32, e, wr, may]

variable (e : locate off = some l) (wr : l.writable = true) (may : h.mayWrite m l w = true) (lost : h.lostSlot l = false)
  (q : slotQuiet h off) (b : w < 2 ^ 32)
include e wr may lost q b

/-- An accepted write of a pair's _LO goes to the staging register alone (R13, R15). -/
theorem write32_lo (pair : l.row.pair = true) (hi : l.hi = false) :
    h.write32 mem m off w =
      (false, { h with stageLo := SMap.set 0 h.stageLo m.idx w, er := if l.exempt w then h.er else roleEr h m off w }) := by
  have mod : w % 4294967296 = w := Nat.mod_eq_of_lt b
  simp [Hub.write32, e, wr, may, lost, slotReached_quiet h off q, roleWrite_roleEr, Hub.stageWord, pair, hi, mod]

/-- An accepted write of a pair's _HI writes the register, with the staging register as its low half (R13). -/
theorem write32_hi (pair : l.row.pair = true) (hi : l.hi = true) :
    h.write32 mem m off w =
      (false, Hub.regWrite { h with er := if l.exempt w then h.er else roleEr h m off w } mem m l (w * 2 ^ 32 + SMap.get 0 h.stageLo m.idx)) := by
  have mod : w % 4294967296 = w := Nat.mod_eq_of_lt b
  simp [Hub.write32, e, wr, may, lost, slotReached_quiet h off q, roleWrite_roleEr, Hub.stageWord, pair, hi, mod]

/-- An accepted write of a register of one word. -/
theorem write32_single (pair : l.row.pair = false) :
    h.write32 mem m off w = (false, Hub.regWrite { h with er := if l.exempt w then h.er else roleEr h m off w } mem m l w) := by
  have mod : w % 4294967296 = w := Nat.mod_eq_of_lt b
  simp [Hub.write32, e, wr, may, lost, slotReached_quiet h off q, roleWrite_roleEr, Hub.stageWord, pair, mod]

end Writes

/-- An RWS register takes a value in its shadow (R10, R64). -/
theorem regWrite_rwsGet (h : Hub) (mem : Mem) (m : Master) (l : Loc) (v : Nat) (k : l.row.kind = .rws) :
    (h.regWrite mem m l v).rwsGet l.reset l.base = (h.rwsGet l.reset l.base).write (l.clamp h v) := by
  have stored : (h.storeReg m l v).rwsGet l.reset l.base = (h.rwsGet l.reset l.base).write (l.clamp h v) := by
    simp [Hub.storeReg, k]
  have modeStored : (h.modeWrite m l v).rws = (h.storeReg m l v).rws := by
    unfold Hub.modeWrite
    simp only
    split
    · rw [record_frame]; rfl
    · rfl
  unfold Hub.regWrite
  simp only [k]
  split
  · unfold Hub.rwsGet at *
    rw [modeStored, stored]
  · exact stored

theorem clockSetRecord_rw (h : Hub) (r : Req) : (h.clockSetRecord r).rw = h.rw := by
  unfold Hub.clockSetRecord
  simp only
  split <;> rfl

/-- A request for a calendar set leaves the RW registers as they are. -/
theorem calRequest_rw (h : Hub) (m : Master) (v : Nat) : (h.calRequest m v).rw = h.rw := by
  unfold Hub.calRequest Hub.calApply
  simp only
  split
  · rfl
  · split
    · rfl
    · split
      · exact clockSetRecord_rw _ _
      · rfl

/-- An RW register takes a value at once (R10). -/
theorem regWrite_rwGet (h : Hub) (mem : Mem) (m : Master) (l : Loc) (v : Nat) (k : l.row.kind = .rw) (f : l.row.fam ≠ .hubWfgStatus) :
    (h.regWrite mem m l v).rwGet l.reset l.base (if l.row.own then m.idx else 0) = l.clamp h v := by
  have stored : (h.storeReg m l v).rwGet l.reset l.base (if l.row.own then m.idx else 0) = l.clamp h v := by
    simp [Hub.storeReg, k, f]
  unfold Hub.regWrite
  simp only [k]
  split
  · unfold Hub.rwGet at *
    rw [calRequest_rw, stored]
  · exact stored

/-! ## The commands that access one word -/

theorem exec_loReadLatch (m : Master) (off : Nat) (s : State) :
    exec (.loReadLatch m off 4) s = run (.loReadLatch m off 4) (fun mem h => h.busRead mem m off 4) s := rfl

theorem exec_rcFieldRead (m : Master) (off : Nat) (s : State) :
    exec (.rcFieldRead m off 4) s = run (.rcFieldRead m off 4) (fun mem h => h.busRead mem m off 4) s := rfl

theorem exec_registerWrite (m : Master) (off w : Nat) (s : State) :
    exec (.registerWrite m off 4 w) s = run (.registerWrite m off 4 w) (fun mem h => h.busWrite mem m off 4 w) s := rfl

/-- A command that runs `f` on a hub out of reset yields what `f` leaves, its writes in the memories. -/
theorem yields_run {c : Instr} {f : Mem → Hub → Hub} {s : State} {P : Hub → State → Prop} (x : exec c s = run c f s) (live : s.hub.live = true)
    (p : ∀ t, P (s.hub.placed t) (lands s (f s.mem (s.hub.placed t)))) : Yields c s P :=
  fun turn => ⟨_, x.trans (run_live c f s turn live), rfl, takes_placed s.hub c ▸ p (s.hub.taken c)⟩

section Commands

variable {s : State} {m : Master} {off : Nat} {P : Hub → State → Prop} (live : s.hub.live = true) (reach : s.hub.reaches m = true)
  (aligned : off % 4 = 0)
include live reach aligned

/-- A command that reads one aligned word (R7). -/
theorem yields_busRead {c : Instr} (x : exec c s = run c (fun mem h => h.busRead mem m off 4) s) {d : Nat} {refused : Bool} {g : SMap Nat → Hub}
    (r : ∀ t, (s.hub.placed t).read32 s.mem m off = (d, refused, g t))
    (p : ∀ t, P (s.hub.placed t) (lands s ((g t).respond m (d % 2 ^ 32) refused))) : Yields c s P := by
  refine yields_run x live fun t => ?_
  rw [busRead_word (s.hub.placed t) s.mem m off reach aligned, r]
  exact p t

/-- A register write of one aligned word (R7). -/
theorem yields_registerWrite {w : Nat} (b : w < 2 ^ 32) {refused : Bool} {g : SMap Nat → Hub}
    (r : ∀ t, (s.hub.placed t).write32 s.mem m off w = (refused, g t))
    (p : ∀ t, P (s.hub.placed t) (lands s ((g t).respond m 0 refused))) : Yields (.registerWrite m off 4 w) s P := by
  refine yields_run (exec_registerWrite m off w s) live fun t => ?_
  rw [busWrite_word (s.hub.placed t) s.mem m off w reach aligned b, r]
  exact p t

end Commands

/-- Settles O47: a refused read or write leaves record 0x0802 and the answer alone, and the maker's bit is the maker's. -/
theorem refusedAccess : Obligations.RefusedAccess := by
  unfold Obligations.RefusedAccess
  intro s m off l live reach aligned
  refine ⟨fun e may nf nw => ?_, fun may => ?_, fun w e b wr may => ?_, fun w role maker change => ?_⟩
  · refine yields_busRead live reach aligned (exec_loReadLatch m off s) (fun t => read32_refused (s.hub.placed t) s.mem m off l e may nf nw) fun t => ?_
    rw [refusal_eq]
    rfl
  · refine yields_busRead live reach aligned (exec_loReadLatch m off s) (fun t => read32_window_refused (s.hub.placed t) s.mem m off may) fun t => ?_
    rw [refusal_eq]
    rfl
  · refine yields_registerWrite live reach aligned b (fun t => write32_refused (s.hub.placed t) s.mem m off l w e wr may) fun t => ?_
    rw [refusal_eq]
    rfl
  · rcases maker with wr | wr <;> simp [Hub.mayWrite, wr, Hub.makerBit, role, change]

/-- Settles O48: what each word of a pair does, from the reads and writes of one word; no pair of the register index is read with a side effect. -/
theorem pairRegisters : Obligations.PairRegisters := by
  unfold Obligations.PairRegisters
  refine ⟨fun m => ⟨rfl, rfl⟩, fun s m off l live reach aligned e pair lost nf nw quiet => ⟨fun hi may => ?_, fun hi may => ?_, ?_, ?_⟩⟩
  · have read (t : SMap Nat) := read32_permitted (s.hub.placed t) s.mem m off l e may nf nw quiet
    simp only [readReg_lo (s.hub.placed _) m off l e lost hi pair, value_placed] at read
    refine yields_busRead live reach aligned (exec_loReadLatch m off s) read fun t => ?_
    rw [Nat.mod_mod]
    rfl
  · have read (t : SMap Nat) := read32_permitted (s.hub.placed t) s.mem m off l e may nf nw quiet
    simp only [readReg_hi (s.hub.placed _) m l lost hi, latch_placed] at read
    refine yields_busRead live reach aligned (exec_loReadLatch m off s) read fun t => rfl
  · intro w b wr may hi
    exact yields_registerWrite live reach aligned b (fun t => write32_lo (s.hub.placed t) s.mem m off l w e wr may lost quiet b pair hi) fun t => rfl
  · intro w b wr may hi
    refine yields_registerWrite live reach aligned b (fun t => write32_hi (s.hub.placed t) s.mem m off l w e wr may lost quiet b pair hi)
      fun t => ⟨fun k => ?_, fun k => ?_, _, rfl, rfl⟩
    · exact regWrite_rwsGet _ s.mem m l _ k
    · exact regWrite_rwGet _ s.mem m l _ k (pair_rows_plain l.row (locate_indexed e).1 pair).2.2

/-! ## Bits that a write of 1 clears (R11) -/

/-- A register of one word at the hub-block offset `off` whose write acts. -/
def Loc.action (f : Fam) (off : Nat) (rd : RdRight) (wr : WrRight) : Loc :=
  ⟨⟨f, off, 4, 1, false, .act, false, .all, rd, wr, 0, 0⟩, 0, false, 0, off, false⟩

theorem locate_spnAttn : locate 0x90004 = some (.action .spnAttn 0x90004 .any .attn) := by decide +kernel
theorem locate_hubIrqStatus : locate 0x200 = some (.action .hubIrqStatus 0x200 .glob .om) := by decide +kernel
theorem locate_hubClkStatus : locate 0x34 = some (.action .hubClkStatus 0x34 .any .glob) := by decide +kernel
theorem locate_hubWdogStatus : locate 0xA0 = some (.action .hubWdogStatus 0xA0 .glob .glob) := by decide +kernel

/-- An accepted write of an action register that leaves record 0x0813. -/
theorem yields_actionWrite {s : State} {m : Master} {off w : Nat} {f : Fam} {rd : RdRight} {wr : WrRight} {P : Hub → State → Prop}
    (live : s.hub.live = true) (reach : s.hub.reaches m = true) (b : w < 2 ^ 32) (aligned : off % 4 = 0) (low : off < 0x100000)
    (e : locate off = some (.action f off rd wr)) (writable : wr ≠ .none) (ex : (Loc.action f off rd wr).exempt w = false)
    (may : s.hub.mayWrite m (.action f off rd wr) w = true)
    (p : ∀ t, P (s.hub.placed t)
      (lands s ((Hub.regWrite { s.hub.placed t with er := roleEr s.hub m off w } s.mem m (.action f off rd wr) w).respond m 0 false))) :
    Yields (.registerWrite m off 4 w) s P := by
  have wable : (Loc.action f off rd wr).writable = true := by simp [Loc.writable, Loc.action, writable]
  have lost : s.hub.lostSlot (.action f off rd wr) = false := by
    have high : decide (0x100000 ≤ (Loc.action f off rd wr).base) = false := decide_eq_false (Nat.not_le.mpr low)
    rw [Hub.lostSlot, high, Bool.false_and]
  have quiet : slotQuiet s.hub off := fun slot => absurd low (Nat.not_lt.mpr slot)
  refine yields_registerWrite live reach aligned b (fun t => write32_single (s.hub.placed t) s.mem m off _ w e wable may lost quiet b rfl) fun t => ?_
  rw [ex]
  exact p t

/-- A bit written 1 is cleared, but one that the hub has set in this hub cycle remains (R11). -/
theorem bit_clear_but_set (old w set k : Nat) : bit (clearBits old (clearBits w set)) k = (bit old k && !(bit w k && !bit set k)) := by
  unfold bit
  rw [testBit_clearBits, testBit_clearBits]

theorem hubWrite_clkStatus (h : Hub) (mem : Mem) (m : Master) (l : Loc) (w : Nat) (f : l.row.fam = .hubClkStatus) (one : bit w 1 = true) :
    h.hubWrite mem m l w = { h with clk := { h.clk with pllLoss := h.clk.pllLoss && h.cyc.pllLoss } } := by
  unfold Hub.hubWrite
  cases h.cyc.pllLoss <;> simp [f, one]

theorem hubWrite_wdogStatus (h : Hub) (mem : Mem) (m : Master) (l : Loc) (w : Nat) (f : l.row.fam = .hubWdogStatus) (one : bit w 31 = true) :
    h.hubWrite mem m l w = { h with wdog := { h.wdog with expired := h.wdog.expired && h.cyc.wdog } } := by
  unfold Hub.hubWrite
  cases h.cyc.wdog <;> simp [f, one]

/-- Settles O49: the W1C registers by the bits that their writes keep, the RC fields by what their read leaves. -/
theorem clearingAccesses : Obligations.ClearingAccesses := by
  unfold Obligations.ClearingAccesses
  intro s m live reach
  refine ⟨fun w b who => ?_, fun w b who => ?_, fun w b one who => ?_, fun w b one who => ?_, ?_⟩
  · have may : s.hub.mayWrite m (.action .spnAttn 0x90004 .any .attn) w = true := by
      simpa [Hub.mayWrite, Loc.action, or_assoc] using who
    refine yields_actionWrite live reach b rfl (by decide) locate_spnAttn (by decide) rfl may fun t => ⟨fun k => ?_, rfl⟩
    exact bit_clear_but_set s.hub.span.attn (w % 512) s.hub.cyc.attn k
  · have may : s.hub.mayWrite m (.action .hubIrqStatus 0x200 .glob .om) w = true := by
      simpa [Hub.mayWrite, Loc.action] using who
    refine yields_actionWrite live reach b rfl (by decide) locate_hubIrqStatus (by decide) rfl may fun t => ⟨fun k => ?_, rfl⟩
    have kept := bit_clear_but_set s.hub.irq.status (w % 65536) (w % 65536 &&& s.hub.cyc.irq) k
    have both : bit (w % 65536 &&& s.hub.cyc.irq) k = (bit (w % 65536) k && bit s.hub.cyc.irq k) := Nat.testBit_and ..
    refine kept.trans ?_
    rw [both]
    cases bit (w % 65536) k <;> simp
  · have may : s.hub.mayWrite m (.action .hubClkStatus 0x34 .any .glob) w = true := by
      simpa [Hub.mayWrite, Loc.action, or_assoc] using who
    refine yields_actionWrite live reach b rfl (by decide) locate_hubClkStatus (by decide) rfl may fun t => ?_
    exact congrArg (fun g => lands s (g.respond m 0 false)) (hubWrite_clkStatus _ s.mem m (.action .hubClkStatus 0x34 .any .glob) w rfl one)
  · have may : s.hub.mayWrite m (.action .hubWdogStatus 0xA0 .glob .glob) w = true := by
      simpa [Hub.mayWrite, Loc.action, or_assoc] using who
    refine yields_actionWrite live reach b rfl (by decide) locate_hubWdogStatus (by decide) rfl may fun t => ?_
    exact congrArg (fun g => lands s (g.respond m 0 false)) (hubWrite_wdogStatus _ s.mem m (.action .hubWdogStatus 0xA0 .glob .glob) w rfl one)
  · intro off l aligned e mirror rc lost nf nw may quiet
    have read (t : SMap Nat) := read32_permitted (s.hub.placed t) s.mem m off l e may nf nw quiet
    simp only [readReg_rc (s.hub.placed _) m off l e lost mirror rc, value_placed] at read
    refine yields_busRead live reach aligned (exec_rcFieldRead m off s) read fun t => ⟨fun b mem c old => ?_, fun k other => ?_, ?_⟩
    · exact (rcClearAll_field _ l.base _ b _ mem).trans (congrArg RcCell.afterRead old)
    · exact rcClearAll_other _ l.base _ k _ other
    · rw [rcClearAll_frame, Nat.mod_mod]
      rfl

end Sys2Proof.Machine
end

section
/-!
The recorder's cursor and the window that shows its slot (R389, R391): the registers ER_CURSOR and ER_WIN, what a write of the one and a read of the other
do, and the obligation of chapter 12 about them.
-/
namespace Sys2Proof.Machine

/-! ## ER_CURSOR and the recorder's window in the register index (Table 17.3) -/

/-- ER_CURSOR, of which each master has a copy. -/
def Loc.erCursor : Loc := ⟨⟨.erCursor, 0x60020, 4, 1, false, .act, true, .all, .er, .er, 0, 0⟩, 0, false, 0, 0x60020, false⟩

/-- Word `i` of the window on the record that a master's cursor names. -/
def Loc.erWin (i : Nat) : Loc := ⟨⟨.erWin, 0x60200, 4, 128, false, .ro, true, .all, .er, .none, 0, 0⟩, i, false, 0, 0x60200 + 4 * i, false⟩

theorem locate_erCursor : locate 0x60020 = some .erCursor := by decide +kernel

theorem locate_erWin : ∀ i < 128, locate (0x60200 + 4 * i) = some (.erWin i) := by decide +kernel

/-- The recorder's registers are for the controller pair and every master that holds a role (Table 13.3). -/
theorem mayRead_er {h : Hub} {m : Master} (who : m = .pair ∨ h.role m ≠ 0) : h.mayRead m .er = true := by
  simpa [Hub.mayRead, Nat.one_le_iff_ne_zero] using who

theorem mayWrite_erCursor {h : Hub} {m : Master} (who : m = .pair ∨ h.role m ≠ 0) (w : Nat) : h.mayWrite m .erCursor w = true := by
  simpa [Hub.mayWrite, Loc.erCursor, Nat.one_le_iff_ne_zero] using who

/-! ## A record request and the cursors -/

theorem audit_cursor (e : Er) (r : Req) : (e.audit r).cursor = e.cursor := by
  rcases audit_cases e r with a | a <;> rw [a]

theorem audit_own_cursor (e : Er) (r : Req) : e.audit r = Er.audit { e with cursor := (e.audit r).cursor } r := by
  rw [audit_cursor]

theorem roleEr_cursor (h : Hub) (m : Master) (off w : Nat) : (roleEr h m off w).cursor = h.er.cursor := by
  unfold roleEr
  split
  · rfl
  · exact audit_cursor _ _

theorem getCursor_congr {g h : Hub} (keep : g.er.cursor = h.er.cursor) (m : Master) : g.getCursor m = h.getCursor m := by
  unfold Hub.getCursor
  rw [keep]

/-! ## A write of ER_CURSOR -/

/-- The words that the commands write: acquire is bit 31, release bit 30, the slot bits [12:0] (R389). -/
theorem cursorWord_fields {k : Nat} (b : k < 8192) :
    (bit (2 ^ 31 + k) 31 = true ∧ field (2 ^ 31 + k) 12 0 = k) ∧
    (bit (2 ^ 30 + k) 31 = false ∧ bit (2 ^ 30 + k) 30 = true ∧ field (2 ^ 30 + k) 12 0 = k) ∧
    (bit k 31 = false ∧ bit k 30 = false ∧ field k 12 0 = k) := by
  simp only [bit, field, Nat.testBit_eq_decide_div_mod_eq, Nat.shiftRight_zero, decide_eq_true_eq, decide_eq_false_iff_not]
  omega

section CursorWrite

variable (h : Hub) (m : Master) {v : Nat}

/-- An acquire, by the holder too, starts a lease at the present tick (R391). -/
theorem erCursorWrite_acquire (acquire : bit v 31 = true) :
    h.erCursorWrite m v = h.updCursor m fun _ => { held := true, slot := field v 12 0, from_ := h.now, role := h.role m, status := stOk } := by
  simp only [Hub.erCursorWrite, acquire, if_true]

/-- A write of the slot alone does not renew the lease (R391). -/
theorem erCursorWrite_slot (noAcquire : bit v 31 = false) (noRelease : bit v 30 = false) :
    h.erCursorWrite m v = h.updCursor m fun _ => { h.getCursor m with slot := field v 12 0 } := by
  unfold Hub.erCursorWrite
  simp only [noAcquire, noRelease, Bool.false_and, Bool.false_eq_true, if_false]
  rfl

theorem erCursorWrite_release (noAcquire : bit v 31 = false) (release : bit v 30 = true) (held : (h.getCursor m).held = true) :
    h.erCursorWrite m v = h.updCursor m fun _ => { h.getCursor m with held := false, slot := field v 12 0, status := stOk } := by
  unfold Hub.getCursor at held
  unfold Hub.erCursorWrite Hub.updCursor SMap.upd
  simp only [noAcquire, release, held, Bool.and_self, Bool.false_eq_true, if_false, if_true]
  rfl

/-- A write that acquires or releases leaves record 0x0813, a write of the slot alone none (R408). -/
theorem erCursor_exempt : Loc.erCursor.exempt v = (!bit v 31 && !bit v 30) := rfl

end CursorWrite

/-- What a change of one cursor leaves: the cursor of `m` is `c`, those of the other masters are as they were, the rest of the recorder is `e`, the
master is answered 0, and nothing else changes. -/
def CursorBecomes (s : State) (m : Master) (c : Cursor) (e : Er) (h0 : Hub) (t : State) : Prop :=
  t.hub.getCursor m = c ∧ (∀ x : Master, x ≠ m → t.hub.getCursor x = s.hub.getCursor x) ∧
    t = { s with hub := { h0 with er := { e with cursor := t.hub.er.cursor }, resp := answered s.hub m } }

section Update

variable {s : State} {m : Master} {c : Cursor} {e : Er}

/-- An update of one cursor, in a recorder `e` that holds the cursors of `s`, and the answer to the master. -/
theorem cursorBecomes_updCursor (keep : e.cursor = s.hub.er.cursor) (t : SMap Nat) :
    CursorBecomes s m c e (s.hub.placed t) (lands s ((Hub.updCursor { s.hub.placed t with er := e } m fun _ => c).respond m 0 false)) :=
  ⟨Hub.getCursor_updCursor _ m _, fun x other => (Hub.getCursor_updCursor_ne _ _ other).trans (getCursor_congr keep x), rfl⟩

/-- A command that writes `w` to ER_CURSOR, where the write makes the master's cursor `c` and leaves the recorder otherwise as `e`. -/
theorem yields_cursorWrite {i : Instr} {v : Hub → Nat} {w : Nat} (live : s.hub.live = true) (reach : s.hub.reaches m = true)
    (who : m = .pair ∨ s.hub.role m ≠ 0) (x : exec i s = run i (fun mem h => h.busWrite mem m 0x60020 4 (v h)) s)
    (word : ∀ t, v (s.hub.placed t) = w) (b : w < 2 ^ 32)
    (er : (if Loc.erCursor.exempt w then s.hub.er else roleEr s.hub m 0x60020 w) = e)
    (act : ∀ g : Hub, g.now = s.hub.now → g.role m = s.hub.role m → g.getCursor m = s.hub.getCursor m →
      g.erCursorWrite m w = g.updCursor m fun _ => c) :
    Yields i s (CursorBecomes s m c e) := by
  have keep : e.cursor = s.hub.er.cursor := by
    rw [← er]
    split
    · rfl
    · exact roleEr_cursor _ _ _ _
  have quiet : slotQuiet s.hub 0x60020 := fun slot => absurd slot (by decide)
  have write (t : SMap Nat) : (s.hub.placed t).write32 s.mem m 0x60020 w = (false, Hub.updCursor { s.hub.placed t with er := e } m fun _ => c) := by
    rw [← act { s.hub.placed t with er := e } rfl rfl (getCursor_congr keep m), ← er]
    exact write32_single (s.hub.placed t) s.mem m 0x60020 _ w locate_erCursor rfl (mayWrite_erCursor who w) rfl quiet b rfl
  refine yields_run x live fun t => ?_
  rw [word, busWrite_word (s.hub.placed t) s.mem m 0x60020 w reach rfl b, write]
  exact cursorBecomes_updCursor keep t

end Update

/-! ## The end of the lease -/

theorem erCursorExpiry_early (h : Hub) (m : Master) (early : h.now < (h.getCursor m).from_ + 1000000000) : h.erCursorExpiry m = h := by
  simp [Hub.erCursorExpiry, early]

/-- At the end of its lease a cursor is released with ST_EXPIRED, the expired bit is set and record 0x0803 asked for (R391). -/
theorem erCursorExpiry_due (h : Hub) (m : Master) (held : (h.getCursor m).held = true) (due : (h.getCursor m).from_ + 1000000000 ≤ h.now) :
    h.erCursorExpiry m = { (h.updCursor m fun c => { c with held := false, status := stExpired }) with
      rc := (h.rcSet 0x60024 m.idx 30).rc,
      er := (h.updCursor m fun c => { c with held := false, status := stExpired }).er.audit { h.auditBy m 0x0803 with
        aux := 1, status := stExpired, arg := (h.getCursor m).from_ } } := by
  simp only [Hub.erCursorExpiry, held, Nat.not_lt.mpr due, decide_false, Bool.not_true, Bool.or_false, Bool.false_eq_true, if_false]
  rw [record_audit _ _ rfl]
  rfl

theorem RcCell.one_le_sum {c : RcCell} (new : c.new = 1) (max : c.max = 1) : 1 ≤ c.sum := by
  unfold RcCell.sum satAdd
  rw [new, max]
  split
  · exact Nat.le_max_right _ _
  · exact Nat.le_min.mpr ⟨Nat.le_refl 1, Nat.le_add_left 1 _⟩

/-- A one-bit RC field that the hub has set counts at once, and a read shows it from the next hub cycle on (R10). -/
theorem rcTotal_rcSet (h : Hub) (off mi lsb : Nat) : 1 ≤ (h.rcSet off mi lsb).rcTotal off mi lsb := by
  have cell : SMap.get {} (h.rcSet off mi lsb).rc (rcKey off mi lsb) = { SMap.get {} h.rc (rcKey off mi lsb) with new := 1, max := 1 } := by
    simp [Hub.rcSet, Hub.rcAdd, satAdd]
  unfold Hub.rcTotal
  rw [cell]
  exact RcCell.one_le_sum rfl rfl

/-! ## A read of the recorder's window -/

/-- The record under a master's cursor as the window shows it: masked for every master but the controller pair (R389, R390). -/
def Hub.cursorRecord (h : Hub) (m : Master) : List Byte :=
  if m = .pair then h.slotBytes (h.getCursor m).slot else maskRecord (h.slotBytes (h.getCursor m).slot)

section WindowRead

variable (h : Hub) (mem : Mem) (m : Master) (i : Nat) (low : i < 128)
include low

/-- The window's words lie below the Perch slots and the Firkin, and above the Chain window's copy (Tables 17.1 and 17.3). -/
theorem erWin_offset : 0x60200 + 4 * i < 0x100000 ∧ inFirkin (0x60200 + 4 * i) = false ∧ inWindow (0x60200 + 4 * i) = false := by
  simp only [inFirkin, inWindow, Bool.and_eq_false_iff, decide_eq_false_iff_not]
  omega

/-- Without a cursor the window reads as 0 (R389). -/
theorem value_erWin :
    (Loc.erWin i).value h m = if (h.getCursor m).held then leAt (h.cursorRecord m) (4 * i) 4 else 0 := by
  have noPerch : ¬ 0x100000 ≤ (Loc.erWin i).base := Nat.not_le.mpr (erWin_offset i low).1
  have noHub : ¬ (Loc.erWin i).base < 0x20000 := Nat.not_lt.mpr (Nat.le_add_right_of_le (by decide))
  have noMid : ¬ (Loc.erWin i).base < 0x60000 := Nat.not_lt.mpr (Nat.le_add_right_of_le (by decide))
  unfold Loc.value
  simp only [noPerch, noHub, noMid, if_false]
  rfl

/-- A read of the window by a master with the right to it; without a cursor its status tells ST_ER_NOCURSOR (R389). -/
theorem read32_erWin (who : m = .pair ∨ h.role m ≠ 0) :
    h.read32 mem m (0x60200 + 4 * i) =
      ((Loc.erWin i).value h m % 2 ^ 32, false,
        if (h.getCursor m).held then h else h.updCursor m fun _ => { h.getCursor m with status := stErNocursor }) := by
  obtain ⟨noPerch, noFirkin, noWindow⟩ := erWin_offset i low
  have quiet : slotQuiet h (0x60200 + 4 * i) := fun slot => absurd noPerch (Nat.not_lt.mpr slot)
  have slot : decide (0x100000 ≤ (Loc.erWin i).base) = false := decide_eq_false (Nat.not_le.mpr noPerch)
  have lost : h.lostSlot (.erWin i) = false := by
    rw [Hub.lostSlot, slot, Bool.false_and]
  rw [read32_permitted h mem m _ _ (locate_erWin i low) (mayRead_er who) noFirkin noWindow quiet, Hub.readReg, lost]
  rfl

theorem read32_erWin_held (who : m = .pair ∨ h.role m ≠ 0) (held : (h.getCursor m).held = true) :
    h.read32 mem m (0x60200 + 4 * i) = (leAt (h.cursorRecord m) (4 * i) 4 % 2 ^ 32, false, h) := by
  rw [read32_erWin h mem m i low who, value_erWin h m i low, if_pos held, if_pos held]

theorem read32_erWin_free (who : m = .pair ∨ h.role m ≠ 0) (free : ¬ (h.getCursor m).held = true) :
    h.read32 mem m (0x60200 + 4 * i) = (0, false, h.updCursor m fun _ => { h.getCursor m with status := stErNocursor }) := by
  rw [read32_erWin h mem m i low who, value_erWin h m i low, if_neg free, if_neg free, Nat.zero_mod]

end WindowRead

/-- Settles O50: the three writes of ER_CURSOR by the cursor that each leaves, the end of the lease, and a read of the window with and without a
cursor. -/
theorem recorderCursor : Obligations.RecorderCursor := by
  unfold Obligations.RecorderCursor
  intro s m live reach who
  refine ⟨fun k b => ?_, fun k b => ?_, fun held b => ?_, fun held due => ?_, fun _ early => ?_, fun i low held => ?_, fun i low free => ?_⟩
  · obtain ⟨⟨acquire, slot⟩, -⟩ := cursorWord_fields b
    refine yields_cursorWrite live reach who rfl (fun _ => congrArg (2 ^ 31 + ·) (Nat.mod_eq_of_lt b)) (by omega)
      (by rw [erCursor_exempt, acquire]; rfl) fun g now role _ => ?_
    rw [erCursorWrite_acquire g m acquire, slot, now, role]
  · obtain ⟨-, -, noAcquire, noRelease, slot⟩ := cursorWord_fields b
    refine yields_cursorWrite live reach who rfl (fun _ => rfl) (by omega) (by rw [erCursor_exempt, noAcquire, noRelease]; rfl) fun g _ _ old => ?_
    rw [erCursorWrite_slot g m noAcquire noRelease, slot, old]
  · obtain ⟨-, ⟨noAcquire, release, slot⟩, -⟩ := cursorWord_fields b
    refine yields_cursorWrite live reach who rfl (fun _ => congrArg (2 ^ 30 + ·) (Nat.mod_eq_of_lt b)) (by omega)
      (by rw [erCursor_exempt, noAcquire, release]; rfl) fun g _ _ old => ?_
    rw [erCursorWrite_release g m noAcquire release (old ▸ held), slot, old]
  · refine yields_run rfl live fun t => ?_
    rw [erCursorExpiry_due (s.hub.placed t) m held due]
    refine ⟨?_, fun x other => ?_, rcTotal_rcSet s.hub 0x60024 m.idx 30, ?_⟩
    · exact (getCursor_congr (audit_cursor _ _) m).trans (Hub.getCursor_updCursor (s.hub.placed t) m _)
    · exact (getCursor_congr (audit_cursor _ _) x).trans (Hub.getCursor_updCursor_ne (s.hub.placed t) _ other)
    · exact congrArg (fun e => lands s { s.hub.placed t with rc := (s.hub.rcSet 0x60024 m.idx 30).rc, er := e }) (audit_own_cursor _ _)
  · refine yields_run rfl live fun t => ?_
    rw [erCursorExpiry_early (s.hub.placed t) m early]
    rfl
  · refine yields_busRead (d := leAt (s.hub.cursorRecord m) (4 * i) 4 % 2 ^ 32) live reach (by omega) rfl
      (fun t => read32_erWin_held (s.hub.placed t) s.mem m i low who held) fun t => ⟨s.hub.cursorRecord m, rfl, ?_⟩
    rw [Nat.mod_mod]
    rfl
  · refine yields_busRead live reach (by omega) rfl
      (fun t => read32_erWin_free (s.hub.placed t) s.mem m i low who (Bool.eq_false_iff.mp free)) fun t => ?_
    exact cursorBecomes_updCursor rfl t

end Sys2Proof.Machine
end

section
/-!
The machine as a whole: a step takes the command at the front of the queue or lets one hub cycle pass, every command answers a next state, and every step
keeps the canonical form of the memories. The obligations about reset and supply (R91 to R95).
-/
namespace Sys2Proof.Machine

/-! ## Steps -/

theorem step_cons (c : Instr) (q : List Instr) (s : State) : step { s with pending := c :: q } = exec c { s with pending := q } := rfl

theorem step_idle {s : State} (e : s.pending = []) : step s = .next (hubCycle s) := by
  unfold step
  rw [e]

/-- A step of the machine is a hub cycle, or a command on the rest of the queue. -/
theorem step_cases {s t : State} (h : step s = .next t) :
    (s.pending = [] ∧ t = hubCycle s) ∨ ∃ c q, s.pending = c :: q ∧ exec c { s with pending := q } = .next t := by
  cases e : s.pending with
  | nil =>
    rw [step_idle e] at h
    cases h
    exact .inl ⟨rfl, rfl⟩
  | cons c q =>
    unfold step at h
    rw [e] at h
    exact .inr ⟨c, q, rfl, h⟩

/-- Settles O1: the two sides are the same state under the front command. -/
theorem stepTakesFront : Obligations.StepTakesFront := step_cons

/-- Settles O4: a hub cycle and every command keep the canonical form, and a step is one of the two. -/
theorem stepKeepsMemory : Obligations.StepKeepsMemory := by
  intro s t h wf
  obtain ⟨-, rfl⟩ | ⟨c, q, -, e⟩ := step_cases h
  · exact hubCycle_wf s wf
  · exact exec_mem_wf c _ t e wf

/-- Settles O5: each part of the reset state by evaluation. -/
theorem resetState : Obligations.ResetState := by
  refine ⟨rfl, rfl, rfl, rfl, fun m => ?_, fun k => rfl, ?_, ?_, ?_, ?_⟩
  · cases m <;> rfl
  all_goals decide +kernel

/-! ## What a command is, whatever the state -/

theorem exec_dumpContextRequest (m : Master) (x : Nat) (s : State) :
    exec (.dumpContextRequest m x) s = runCycles (.dumpContextRequest m x) (fun t =>
      (State.each (.dumpContextRequest m x) (fun a mem h => ((), h.busWrite mem m a.1 4 a.2)) [(0x40004, x), (0x40000, goWord 2 29 0)] t).2) s := rfl

theorem exec_islandSupplyLoss (s : State) :
    exec .islandSupplyLoss s = .next
      { s with hub := (s.atTurn .islandSupplyLoss).hub.islandLoss,
               mem := (s.atTurn .islandSupplyLoss).mem.islandLoss (s.atTurn .islandSupplyLoss).hub } := rfl

/-- The forms of a command's execution, the effect chosen before the state. -/
theorem exec_uniform (c : Instr) :
    (∃ f, ∀ s, exec c s = run c f s) ∨ (∃ f, ∀ s, exec c s = runAny c f s) ∨
      (∀ s, exec c s = .next { hub := (s.atTurn c).hub.islandLoss, mem := (s.atTurn c).mem.islandLoss (s.atTurn c).hub, pending := s.pending }) ∨
      ∃ f, ∀ s, exec c s = runCycles c f s := by
  cases c
  case coldResetAssert => exact .inr (.inl ⟨_, fun _ => rfl⟩)
  case coldResetRelease => exact .inr (.inl ⟨_, fun _ => rfl⟩)
  case islandSupplyLoss => exact .inr (.inr (.inl fun _ => rfl))
  case spanRead => exact .inr (.inr (.inr ⟨_, fun _ => rfl⟩))
  case spanWrite => exact .inr (.inr (.inr ⟨_, fun _ => rfl⟩))
  case dumpContextRequest m x => exact .inr (.inr (.inr ⟨_, exec_dumpContextRequest m x⟩))
  all_goals exact .inl ⟨_, fun _ => rfl⟩

/-- A command whose turn has passed runs as it does at the start of the next hub cycle. -/
theorem exec_out {c : Instr} {s : State} (e : s.hub.inTurn c = false) : exec c s = exec c (hubCycle s) := by
  rcases exec_uniform c with ⟨f, x⟩ | ⟨f, x⟩ | x | ⟨f, x⟩
  · rw [x, x, run_out c f s e]
  · rw [x, x, runAny, runAny, atTurn_out s c e]
  · rw [x, x, atTurn_out s c e, hubCycle_pending]
  · rw [x, x, runCycles, runCycles, atTurn_out s c e]

/-- In reset a command of the hub changes nothing but the places taken (R91, R92). -/
theorem exec_dead {c : Instr} {s : State} (dead : s.hub.live = false) (fall : c ≠ .coldResetAssert) (rise : ∀ b, c ≠ .coldResetRelease b)
    (loss : c ≠ .islandSupplyLoss) (turn : s.hub.inTurn c = true) : exec c s = .next { s with hub := s.hub.takes c } := by
  rcases exec_form c s with ⟨f, x⟩ | ⟨(rfl | ⟨b, rfl⟩), -⟩ | ⟨rfl, -⟩ | ⟨-, f, -, x⟩
  · rw [x, run_dead c f s turn dead]
  · exact absurd rfl fall
  · exact absurd rfl (rise b)
  · exact absurd rfl loss
  · rw [x, runCycles, atTurn_in s c turn]
    simp [dead]

/-! ## Reset and supply -/

/-- The reset's own hub is the one that the statement names (R92). -/
theorem cold_eq_coldHub (h : Hub) (island : Bool) : h.cold island = coldHub h island := rfl

/-- A command that runs `f` whether the hub is out of reset or not yields what `f` leaves. -/
theorem yields_runAny {c : Instr} {f : Mem → Hub → Hub} {s : State} {P : Hub → State → Prop} (x : exec c s = runAny c f s)
    (p : ∀ t, P (s.hub.placed t) (lands s (f s.mem (s.hub.placed t)))) : Yields c s P :=
  fun turn => ⟨lands s (f s.mem (s.hub.takes c)), x.trans (by rw [runAny, atTurn_in s c turn]; rfl), rfl, takes_placed s.hub c ▸ p (s.hub.taken c)⟩

theorem coldFall_high {h : Hub} (high : h.boot.coldN = true) : h.coldFall = coldHub h h.boot.island := by
  rw [Hub.coldFall, high, if_pos rfl, cold_eq_coldHub]

theorem coldFall_low {h : Hub} (low : h.boot.coldN = false) : h.coldFall = h := by
  rw [Hub.coldFall, low, if_neg Bool.false_ne_true]

theorem coldRise_low {h : Hub} (low : h.boot.coldN = false) (b : Bool) :
    h.coldRise b = { h with
      boot := { h.boot with coldN := true, island := true, domains := 2 ^ 20 + 2 ^ 21 + 2 ^ 27, phase := 1, since := h.clk.realNs },
      span := { h.span with tap := b, ir := 1 } } := by
  rw [Hub.coldRise, low, if_neg Bool.false_ne_true]
  rfl

theorem coldRise_high {h : Hub} (high : h.boot.coldN = true) (b : Bool) : h.coldRise b = h := by
  rw [Hub.coldRise, high, if_pos rfl]

/-- The loss of the island's supply in its turn. -/
theorem yields_islandLoss {s : State} {P : Hub → State → Prop}
    (p : ∀ t, P (s.hub.placed t) { s with hub := (s.hub.placed t).islandLoss, mem := s.mem.islandLoss s.hub }) : Yields .islandSupplyLoss s P :=
  fun turn => ⟨{ s with hub := (s.hub.takes .islandSupplyLoss).islandLoss, mem := s.mem.islandLoss s.hub },
    by rw [exec_islandSupplyLoss, atTurn_in s .islandSupplyLoss turn]; rfl,
    rfl, takes_placed s.hub .islandSupplyLoss ▸ p _⟩

/-- Settles O2: with an empty queue by the definition of a step; a command of any form meets its state through its turn alone. -/
theorem idleStepIsHubCycle : Obligations.IdleStepIsHubCycle :=
  ⟨fun s e => ⟨step_idle e, (hubCycle_pending s).trans e⟩, fun c s => ⟨hubCycle_inTurn s c, exec_out⟩⟩

/-- Settles O3: a command in reset by its form, the three commands of reset and supply by the hub that each leaves. -/
theorem resetHoldsTheHub : Obligations.ResetHoldsTheHub := by
  unfold Obligations.ResetHoldsTheHub
  refine ⟨fun c s => exec_dead, fun c s => ?_, fun s => ⟨fun high => ?_, fun low => ?_, fun b low => ?_, fun b high => ?_, fun on => ?_, fun off => ?_⟩⟩
  · obtain ⟨t, e⟩ := exec_next c s
    exact ⟨t, e, exec_pending c s t e⟩
  · refine yields_runAny rfl fun t => ?_
    rw [coldFall_high (h := s.hub.placed t) high]
    rfl
  · refine yields_runAny rfl fun t => ?_
    rw [coldFall_low (h := s.hub.placed t) low]
    rfl
  · refine yields_runAny rfl fun t => ?_
    rw [coldRise_low (h := s.hub.placed t) low]
    rfl
  · refine yields_runAny rfl fun t => ?_
    rw [coldRise_high (h := s.hub.placed t) high]
    rfl
  · refine yields_islandLoss fun t => ?_
    have on' : (s.hub.placed t).boot.island = true := on
    rw [Hub.islandLoss, Mem.islandLoss, if_pos on, if_pos on']
    rfl
  · refine yields_islandLoss fun t => ?_
    have off' : ¬ (s.hub.placed t).boot.island = true := Bool.eq_false_iff.mp off
    rw [Hub.islandLoss, Mem.islandLoss, if_neg (Bool.eq_false_iff.mp off), if_neg off']

end Sys2Proof.Machine
end

section
/-!
The Bushel format loses nothing (chapter 11): the byte planes of some bytes are put together again, a token body spells the stream that it was made of, and
a block decodes to the raw bytes that it covers.
-/
namespace Sys2Proof.Machine

/-! ## The byte planes (R361) -/

theorem every_nil (w n : Nat) : every w n [] = [] := by
  cases n <;> rfl

/-- Counting down over `i` bytes is leaving them out. -/
theorem every_skip (w n i : Nat) (b : List Byte) : every w (n + i) b = every w n (b.drop i) := by
  induction i generalizing b with
  | zero => rfl
  | succ i ih =>
    cases b with
    | nil => rw [List.drop_nil, every_nil, every_nil]
    | cons x r => exact ih r

/-- Plane `k` of `w` takes byte `k` and goes on behind the first `w` bytes. -/
theorem every_cons {w k : Nat} {b : List Byte} (hk : k < w) (hb : w ≤ b.length) :
    every w k b = b[k] :: every w k (b.drop w) := by
  have first : every w k b = every w 0 (b.drop k) := by
    rw [← every_skip w 0 k, Nat.zero_add]
  have later : every w (w - 1) (b.drop (k + 1)) = every w k (b.drop w) := by
    have count : w - 1 = k + (w - 1 - k) := by omega
    have behind : k + 1 + (w - 1 - k) = w := by omega
    rw [count, every_skip, List.drop_drop, behind]
  rw [first, List.drop_eq_getElem_cons (Nat.lt_of_lt_of_le hk hb), every, later]

theorem every_length {w k : Nat} (hk : k < w) (m : Nat) (b : List Byte) (hb : b.length = m * w) : (every w k b).length = m := by
  induction m generalizing b with
  | zero =>
    obtain rfl : b = [] := List.eq_nil_of_length_eq_zero (by omega)
    rw [every_nil, List.length_nil]
  | succ m ih =>
    have long : w ≤ b.length := by rw [hb, Nat.succ_mul]; omega
    rw [every_cons hk long, List.length_cons, ih _ (by rw [List.length_drop, hb, Nat.succ_mul]; omega)]

theorem heads_every {w : Nat} {b : List Byte} (hb : w ≤ b.length) :
    (((List.range w).map fun k => every w k b).filterMap List.head?) = b.take w := by
  have heads : ((List.range w).map fun k => every w k b).filterMap List.head? = (List.range w).filterMap fun k => b[k]? := by
    rw [List.filterMap_map]
    refine List.filterMap_congr fun k hk => ?_
    have low : k < w := List.mem_range.mp hk
    rw [Function.comp_apply, every_cons low hb, List.head?_cons, List.getElem?_eq_getElem (Nat.lt_of_lt_of_le low hb)]
  rw [heads]
  clear heads
  induction w with
  | zero => rfl
  | succ w ih =>
    have low : w < b.length := hb
    rw [List.range_succ, List.filterMap_append, ih (Nat.le_of_lt low), List.take_add_one, List.getElem?_eq_getElem low]
    simp [List.getElem?_eq_getElem low]

theorem tails_every {w : Nat} {b : List Byte} (hb : w ≤ b.length) :
    (((List.range w).map fun k => every w k b).map List.tail) = (List.range w).map fun k => every w k (b.drop w) := by
  rw [List.map_map]
  refine List.map_congr_left fun k hk => ?_
  rw [Function.comp_apply, every_cons (List.mem_range.mp hk) hb, List.tail_cons]

/-- The planes of some groups of `w` bytes, taken in turn, are these bytes. -/
theorem interleave_every (w m : Nat) (b : List Byte) (hb : b.length = m * w) :
    interleave m ((List.range w).map fun k => every w k b) = b := by
  induction m generalizing b with
  | zero => exact (List.eq_nil_of_length_eq_zero (by omega)).symm
  | succ m ih =>
    have long : w ≤ b.length := by rw [hb, Nat.succ_mul]; omega
    rw [interleave, heads_every long, tails_every long, ih _ (by rw [List.length_drop, hb, Nat.succ_mul]; omega), List.take_append_drop]

theorem flatten_length_const {m : Nat} {l : List (List Byte)} (hl : ∀ p ∈ l, p.length = m) : l.flatten.length = l.length * m := by
  induction l with
  | nil => simp
  | cons p l ih =>
    rw [List.flatten_cons, List.length_append, hl p List.mem_cons_self, ih fun q hq => hl q (List.mem_cons_of_mem p hq), List.length_cons]
    ring

/-- Part `k` of equally long parts stands at `k` times their length. -/
theorem take_drop_flatten {m k : Nat} {l : List (List Byte)} (hl : ∀ p ∈ l, p.length = m) (hk : k < l.length) (r : List Byte) :
    ((l.flatten ++ r).drop (k * m)).take m = l[k] := by
  induction l generalizing k with
  | nil => exact absurd hk (Nat.not_lt_zero k)
  | cons p l ih =>
    have hp : p.length = m := hl p List.mem_cons_self
    cases k with
    | zero => simp [← hp]
    | succ k =>
      have skip : (k + 1) * m = p.length + k * m := by rw [hp]; ring
      rw [List.flatten_cons, List.append_assoc, skip, List.drop_length_add_append]
      exact ih (fun q hq => hl q (List.mem_cons_of_mem p hq)) (Nat.lt_of_succ_lt_succ hk)

section Planes

variable {w m : Nat} {b : List Byte} (hb : b.length = m * w)
include hb

theorem planes_parts : ∀ p ∈ (List.range w).map fun k => every w k b, p.length = m := by
  intro p hp
  obtain ⟨k, hk, rfl⟩ := List.mem_map.mp hp
  exact every_length (List.mem_range.mp hk) m _ hb

theorem flatMap_every_length : ((List.range w).flatMap fun k => every w k b).length = m * w := by
  rw [List.flatMap_def, flatten_length_const (planes_parts hb), List.length_map, List.length_range, Nat.mul_comm]

theorem slices_flatMap_every (r : List Byte) :
    ((List.range w).map fun k => ((((List.range w).flatMap fun k => every w k b) ++ r).drop (k * m)).take m) = (List.range w).map fun k => every w k b := by
  refine List.map_congr_left fun k hk => ?_
  rw [List.flatMap_def, take_drop_flatten (planes_parts hb) (by simpa using hk)]
  simp

end Planes

/-- The whole groups at the front of some bytes. -/
theorem groups_length (b : List Byte) (w : Nat) : (b.take (b.length / w * w)).length = b.length / w * w := by
  rw [List.length_take, Nat.min_eq_left (Nat.div_mul_le_self b.length w)]

@[simp] theorem planes_length (x : Nat) (b : List Byte) : (planes x b).length = b.length := by
  unfold planes
  by_cases plain : x = 0
  · rw [if_pos plain]
  · simp only [if_neg plain]
    rw [List.length_append, flatMap_every_length (groups_length b _), List.length_drop, Nat.add_sub_cancel' (Nat.div_mul_le_self _ _)]

/-- A transformed stream is turned back into the raw bytes. -/
theorem unplanes_planes (x : Nat) (b : List Byte) : unplanes x (planes x b) = b := by
  unfold unplanes
  by_cases plain : x = 0
  · simp [plain, planes]
  have front := groups_length b (planeCount x)
  simp only [if_neg plain, planes_length]
  simp only [planes, if_neg plain, slices_flatMap_every front]
  rw [interleave_every _ _ _ front, List.drop_left' (flatMap_every_length front), List.take_append_drop]

/-! ## Runs and repeats (R362) -/

theorem zeroRun_le (n : Nat) (s : List Byte) : zeroRun n s ≤ n := by
  fun_induction zeroRun n s with
  | case1 n r ih => omega
  | case2 n b r _ => omega
  | case3 => omega

theorem zeroRun_spec (n : Nat) (s : List Byte) : s = zeros (zeroRun n s) ++ s.drop (zeroRun n s) := by
  fun_induction zeroRun n s with
  | case1 n r ih => exact congrArg (0 :: ·) ih
  | case2 n b r _ => rfl
  | case3 => rfl

theorem repeats_le (word : List Byte) (n : Nat) (s : List Byte) : repeats word n s ≤ n := by
  fun_induction repeats word n s with
  | case1 => omega
  | case2 n s _ ih => omega
  | case3 n s _ => omega

/-- Repeats of a word at the front of a stream. -/
theorem repeats_spec (word : List Byte) (n : Nat) (s : List Byte) :
    s = (List.replicate (repeats word n s) word).flatten ++ s.drop (word.length * repeats word n s) := by
  fun_induction repeats word n s with
  | case1 s => rfl
  | case2 n s first ih =>
    have skip : word.length * (repeats word n (s.drop word.length) + 1) = word.length + word.length * repeats word n (s.drop word.length) := by
      ring
    rw [List.replicate_succ, List.flatten_cons, skip, List.append_assoc, ← List.drop_drop, ← ih]
    exact (first ▸ (List.take_append_drop word.length s)).symm
  | case3 n s _ => rfl

theorem copies_word {w : Nat} {s : List Byte} (some : 2 ≤ copies w s) : (s.take w).length = w := by
  unfold copies at some
  simp only at some
  split at some
  · omega
  · have := List.length_take_le w s
    omega

theorem copies_le {w : Nat} {s : List Byte} : copies w s ≤ repMax := by
  unfold copies
  simp only
  split
  · exact Nat.zero_le _
  · exact repeats_le _ _ _

theorem copies_spec {w : Nat} {s : List Byte} (some : 2 ≤ copies w s) :
    s = (List.replicate (copies w s) (s.take w)).flatten ++ s.drop (w * copies w s) := by
  have word := copies_word some
  have eq : copies w s = repeats (s.take w) repMax s := by
    unfold copies
    simp only [word, Nat.lt_irrefl, if_false]
  have spec := repeats_spec (s.take w) repMax s
  rw [word] at spec
  rw [eq]
  exact spec

/-- The parse's choice between the repeat that it has and that of width `w`. -/
def betterRep (s : List Byte) (best : Option (Nat × Nat)) (w : Nat) : Option (Nat × Nat) :=
  if 2 ≤ copies w s ∧ w + 4 ≤ copies w s * w ∧ (match best with | some (v, n) => v * n | none => 0) < copies w s * w then some (w, copies w s) else best

theorem bestRep_eq (s : List Byte) : bestRep s = [1, 2, 4, 8].foldl (betterRep s) none := rfl

/-- The repeat that the parse takes is one of the four widths, with its whole count. -/
theorem bestRep_spec {s : List Byte} {w c : Nat} (e : bestRep s = some (w, c)) : w ∈ [1, 2, 4, 8] ∧ c = copies w s ∧ 2 ≤ c := by
  rw [bestRep_eq] at e
  revert e w c
  refine List.foldlRecOn (motive := fun best => ∀ {w c}, best = some (w, c) → w ∈ [1, 2, 4, 8] ∧ c = copies w s ∧ 2 ≤ c) _ _ (fun e => by cases e) ?_
  intro best inv v hv w c e
  unfold betterRep at e
  split_ifs at e with better
  · cases e
    exact ⟨hv, rfl, better.1⟩
  · exact inv e

/-! ## Tokens spell a stream (R362 to R364) -/

/-- The rest of a token body's output behind the output `out` of its first token. -/
def outThen (k left : Nat) (out rest : List Byte) : Option (List Byte × List Byte) :=
  if left < out.length then none
  else match untokens k (left - out.length) rest with
    | some (o, q) => some (out ++ o, q)
    | none => none

/-- One token with the output `out`. -/
def Emits (tok out : List Byte) : Prop := tok ≠ [] ∧ out ≠ [] ∧ ∀ k left r, 0 < left → untokens (k + 1) left (tok ++ r) = outThen k left out r

/-- A token body with the output `out`, whatever follows it. -/
def Spells (body out : List Byte) : Prop := ∀ k p, body.length ≤ k → untokens k out.length (body ++ p) = some (out, p)

theorem spells_nil : Spells [] [] := fun k p _ => by
  cases k <;> rfl

theorem spells_token {tok out body o : List Byte} (e : Emits tok out) (h : Spells body o) : Spells (tok ++ body) (out ++ o) := by
  obtain ⟨tokNe, outNe, token⟩ := e
  intro k p long
  have one : 0 < tok.length := List.length_pos_iff.mpr tokNe
  have some : 0 < out.length := List.length_pos_iff.mpr outNe
  rw [List.length_append] at long
  obtain ⟨k, rfl⟩ : ∃ j, k = j + 1 := ⟨k - 1, by omega⟩
  rw [List.append_assoc, List.length_append, token k _ _ (by omega), outThen, if_neg (by omega), Nat.add_sub_cancel_left, h k p (by omega)]

/-- A first byte of class `q` with operand `n`. -/
theorem tokenByte {q n : Nat} (hq : q < 4) (hn : n < 64) : (BitVec.ofNat 8 (64 * q + n)).toNat / 64 = q ∧ (BitVec.ofNat 8 (64 * q + n)).toNat % 64 = n := by
  rw [BitVec.toNat_ofNat]
  omega

section FirstByte

variable {n k left : Nat} (hn : n < 64) (pos : 0 < left) (r : List Byte)
include hn pos

theorem untokens_lit (long : n + 1 ≤ r.length) :
    untokens (k + 1) left (BitVec.ofNat 8 (64 * 0 + n) :: r) = outThen k left (r.take (n + 1)) (r.drop (n + 1)) := by
  obtain ⟨cls, arg⟩ := tokenByte (q := 0) (by omega) hn
  obtain ⟨left, rfl⟩ : ∃ j, left = j + 1 := ⟨left - 1, by omega⟩
  unfold untokens
  simp only [cls, arg, if_neg (Nat.not_lt.mpr long), outThen] <;> rfl

theorem untokens_zrun :
    untokens (k + 1) left (BitVec.ofNat 8 (64 * 1 + n) :: r) =
      if n ≤ 61 then outThen k left (zeros (n + 3)) r
      else if n = 62 then (if r.length < 1 then none else outThen k left (zeros (leAt r 0 1 + 65)) (r.drop 1))
      else if r.length < 2 then none else outThen k left (zeros (leAt r 0 2 + 321)) (r.drop 2) := by
  obtain ⟨cls, arg⟩ := tokenByte (q := 1) (by omega) hn
  obtain ⟨left, rfl⟩ : ∃ j, left = j + 1 := ⟨left - 1, by omega⟩
  unfold untokens
  simp only [cls, arg, outThen] <;> (generalize zeros (n + 3) = a, zeros (leAt r 0 1 + 65) = b, zeros (leAt r 0 2 + 321) = c; rfl)

omit hn in
theorem untokens_rep {w a : Nat} (hw : w < 4) (ha : a < 16) :
    untokens (k + 1) left (BitVec.ofNat 8 (64 * 2 + (16 * w + a)) :: r) =
      if a ≤ 14 then (if r.length < 2 ^ w then none else outThen k left (List.replicate (a + 2) (r.take (2 ^ w))).flatten (r.drop (2 ^ w)))
      else if r.length < 2 ∨ (r.drop 2).length < 2 ^ w then none
      else outThen k left (List.replicate (leAt r 0 2 + 17) ((r.drop 2).take (2 ^ w))).flatten ((r.drop 2).drop (2 ^ w)) := by
  obtain ⟨cls, arg⟩ := tokenByte (q := 2) (n := 16 * w + a) (by omega) (by omega)
  obtain ⟨left, rfl⟩ : ∃ j, left = j + 1 := ⟨left - 1, by omega⟩
  have width : (16 * w + a) / 16 = w := by omega
  have count : (16 * w + a) % 16 = a := by omega
  unfold untokens
  simp only [cls, arg, width, count]
  by_cases short : a ≤ 14
  · simp only [if_pos short, Bool.not_true, Bool.false_or, decide_eq_true_eq, outThen] <;>
      (generalize (List.replicate (a + 2) (r.take (2 ^ w))).flatten = o; rfl)
  · simp only [if_neg short, Bool.or_eq_true, Bool.not_eq_true', decide_eq_true_eq, decide_eq_false_iff_not, Nat.not_le, outThen] <;>
      (generalize (List.replicate (leAt r 0 2 + 17) ((r.drop 2).take (2 ^ w))).flatten = o; rfl)

end FirstByte

theorem emits_lit {l : List Byte} (ne : l ≠ []) (short : l.length ≤ 64) : Emits (litToken l) l := by
  have pos : 0 < l.length := List.length_pos_iff.mpr ne
  have tok : litToken l = BitVec.ofNat 8 (64 * 0 + (l.length - 1)) :: l := by
    simp [litToken, ne, leBytes]
  have len : l.length - 1 + 1 = l.length := by omega
  refine ⟨by simp [tok], ne, fun k left r some => ?_⟩
  rw [tok, List.cons_append, untokens_lit (by omega) some (l ++ r) (by rw [len]; simp), len, List.take_left, List.drop_left]

/-- A little-endian field at the front of some bytes. -/
theorem leAt_front {n v : Nat} (r : List Byte) (b : v < 256 ^ n) : leAt (leBytes n v ++ r) 0 n = v :=
  (leAt_append [] n v r).trans (Nat.mod_eq_of_lt b)

theorem leBytes_one (v : Nat) : leBytes 1 v = [BitVec.ofNat 8 v] := rfl

theorem zeros_ne {n : Nat} (pos : 0 < n) : zeros n ≠ [] := by
  intro h
  have := congrArg List.length h
  simp at this
  omega

theorem emits_zrun {z : Nat} (low : 3 ≤ z) (high : z ≤ zrunMax) : Emits (zrunToken z) (zeros z) := by
  have zne : zeros z ≠ [] := zeros_ne (by omega)
  have high : z ≤ 65856 := high
  unfold zrunToken
  split_ifs with short mid
  · have tok : leBytes 1 (0x40 + (z - 3)) = [BitVec.ofNat 8 (64 * 1 + (z - 3))] := rfl
    have len : z - 3 + 3 = z := by omega
    refine ⟨by simp [tok], zne, fun k left r some => ?_⟩
    rw [tok, List.singleton_append, untokens_zrun (by omega) some, if_pos (by omega), len]
  · have tok : leBytes 1 0x7E = [BitVec.ofNat 8 (64 * 1 + 62)] := rfl
    have len : z - 65 + 65 = z := by omega
    refine ⟨by simp [tok], zne, fun k left r some => ?_⟩
    rw [tok, List.append_assoc, List.singleton_append, untokens_zrun (by omega) some, if_neg (by omega), if_pos rfl,
      if_neg (by simp [leBytes_one]), leAt_front r (by omega), len]
    rfl
  · have tok : leBytes 1 0x7F = [BitVec.ofNat 8 (64 * 1 + 63)] := rfl
    have len : z - 321 + 321 = z := by omega
    refine ⟨by simp [tok], zne, fun k left r some => ?_⟩
    rw [tok, List.append_assoc, List.singleton_append, untokens_zrun (by omega) some, if_neg (by omega), if_neg (by omega),
      if_neg (by simp; omega), leAt_front r (by omega), len]
    rfl

theorem emits_rep {word : List Byte} {c : Nat} (width : word.length ∈ [1, 2, 4, 8]) (low : 2 ≤ c) (high : c ≤ repMax) :
    Emits (repToken word c) (List.replicate c word).flatten := by
  have high : c ≤ 65552 := high
  obtain ⟨w, hw, len⟩ : ∃ w, w < 4 ∧ word.length = 2 ^ w := by
    simp only [List.mem_cons, List.not_mem_nil, or_false] at width
    rcases width with h | h | h | h
    · exact ⟨0, by omega, h⟩
    · exact ⟨1, by omega, h⟩
    · exact ⟨2, by omega, h⟩
    · exact ⟨3, by omega, h⟩
  have log : Nat.log2 word.length = w := by rw [len, Nat.log2_two_pow]
  have ne : (List.replicate c word).flatten ≠ [] := by
    intro h
    have := congrArg List.length h
    have : 0 < 2 ^ w := Nat.two_pow_pos w
    simp [len] at *
    omega
  unfold repToken
  simp only [log]
  split_ifs with short
  · have tok : leBytes 1 (0x80 + 16 * w + (c - 2)) = [BitVec.ofNat 8 (64 * 2 + (16 * w + (c - 2)))] := by
      rw [leBytes_one, ← Nat.add_assoc]
    have count : c - 2 + 2 = c := by omega
    refine ⟨by simp [tok], ne, fun k left r some => ?_⟩
    rw [tok, List.append_assoc, List.singleton_append, untokens_rep some _ hw (by omega), if_pos (by omega), if_neg (by simp [len]), count,
      ← len, List.take_left, List.drop_left]
  · have tok : leBytes 1 (0x80 + 16 * w + 15) = [BitVec.ofNat 8 (64 * 2 + (16 * w + 15))] := by
      rw [leBytes_one, ← Nat.add_assoc]
    have count : c - 17 + 17 = c := by omega
    refine ⟨by simp [tok], ne, fun k left r some => ?_⟩
    have behind : (leBytes 2 (c - 17) ++ (word ++ r)).drop 2 = word ++ r := List.drop_left' (leBytes_length 2 _)
    rw [tok, List.append_assoc, List.append_assoc, List.singleton_append, untokens_rep some _ hw (by omega), if_neg (by omega), behind,
      if_neg (by simp [len]; omega), leAt_front _ (by omega), count, ← len, List.take_left, List.drop_left]

theorem spells_lit {l body o : List Byte} (short : l.length ≤ 64) (h : Spells body o) : Spells (litToken l ++ body) (l ++ o) := by
  by_cases ne : l = []
  · rw [ne]
    exact h
  · exact spells_token (emits_lit ne short) h

/-- The parse of a stream spells the pending literals and the stream. -/
theorem tokens_spells (n : Nat) (lit s : List Byte) (fuel : s.length ≤ n) (pending : lit.length ≤ 63) : Spells (tokens n lit s) (lit.reverse ++ s) := by
  have short : lit.reverse.length ≤ 64 := by rw [List.length_reverse]; omega
  induction n generalizing lit s with
  | zero =>
    obtain rfl : s = [] := List.eq_nil_of_length_eq_zero (by omega)
    rw [tokens, ← List.append_nil (litToken _)]
    exact spells_lit short spells_nil
  | succ n ih =>
    cases s with
    | nil =>
      rw [tokens, ← List.append_nil (litToken _)]
      exact spells_lit short spells_nil
    | cons b r =>
      have rest : ∀ k, 0 < k → ((b :: r).drop k).length ≤ n := fun k pos => by
        rw [List.length_drop]
        omega
      unfold tokens
      simp only
      by_cases run : 3 ≤ zeroRun zrunMax (b :: r)
      · rw [if_pos run, List.append_assoc]
        conv in lit.reverse ++ (b :: r) => rw [zeroRun_spec zrunMax (b :: r)]
        exact spells_lit short (spells_token (emits_zrun run (zeroRun_le _ _)) (ih [] _ (rest _ (by omega)) (by simp) (by simp)))
      rw [if_neg run]
      cases e : bestRep (b :: r) with
      | some best =>
        obtain ⟨w, c⟩ := best
        obtain ⟨width, rfl, two⟩ := bestRep_spec e
        have wpos : 0 < w := by
          simp only [List.mem_cons, List.not_mem_nil, or_false] at width
          omega
        conv in lit.reverse ++ (b :: r) => rw [copies_spec two]
        simp only [List.append_assoc]
        refine spells_lit short (spells_token (emits_rep ((copies_word two).symm ▸ width) two copies_le)
          (ih [] _ (rest _ (Nat.mul_pos wpos (by omega))) (by simp) (by simp)))
      | none =>
        have rest1 : r.length ≤ n := Nat.le_of_succ_le_succ fuel
        have shift : lit.reverse ++ b :: r = (b :: lit).reverse ++ r := by simp
        simp only [shift]
        split_ifs with full
        · exact spells_lit (by simp [full]) (ih [] r rest1 (by simp) (by simp))
        · exact ih (b :: lit) r rest1 (by simp; omega) (by simp; omega)

/-- A stream is read back from its token body, whatever follows it. -/
theorem untokens_tokens (s p : List Byte) (k : Nat) (fuel : (tokens s.length [] s).length ≤ k) :
    untokens k s.length (tokens s.length [] s ++ p) = some (s, p) :=
  tokens_spells s.length [] s (Nat.le_refl _) (by simp) k p fuel

/-! ## Blocks (R358 to R360, R374) -/

theorem crcStep_lt {poly c : Nat} (hp : poly < 2 ^ 32) (hc : c < 2 ^ 32) : crcStep poly c < 2 ^ 32 := by
  have half : c / 2 < 2 ^ 32 := by omega
  unfold crcStep
  split
  · exact Nat.xor_lt_two_pow half hp
  · exact half

theorem crc32c_lt (l : List Byte) : crc32c l < 2 ^ 32 := by
  unfold crc32c
  refine Nat.xor_lt_two_pow ?_ (by omega)
  refine List.foldlRecOn (motive := (· < 2 ^ 32)) _ _ (by omega) fun c hc b _ => ?_
  refine List.foldlRecOn (motive := (· < 2 ^ 32)) _ _ (Nat.xor_lt_two_pow hc (by omega)) fun c hc _ _ => ?_
  exact crcStep_lt (by omega) hc

theorem padTo_eq {n : Nat} {l : List Byte} (h : l.length ≤ n) : padTo n l = l ++ zeros (n - l.length) := by
  simp [padTo, slice, List.take_of_length_le h]

/-- The bytes behind a block's body that fill its last eight. -/
def padOf (n : Nat) : Nat := blockLen n - 20 - n

theorem blockLen_eq (n : Nat) : blockLen n = 20 + n + padOf n ∧ padOf n ≤ 7 ∧ 8 * (blockLen n / 8) = blockLen n := by
  unfold padOf blockLen roundUp
  omega

theorem mkBlock_eq (flags x index : Nat) (raw body : List Byte) :
    ∃ crc, mkBlock flags x index raw body =
      leBytes 2 0x5542 ++ (leBytes 1 flags ++ (leBytes 1 x ++ (leBytes 2 raw.length ++ (leBytes 2 (blockLen body.length / 8) ++
        (leBytes 4 (crc32c raw) ++ (leBytes 4 index ++ (body ++ zeros (padOf body.length) ++ crc))))))) ∧ crc.length = 4 := by
  obtain ⟨len, -, -⟩ := blockLen_eq body.length
  have filled : ∀ l : List Byte, l.length = 16 + body.length → padTo (blockLen body.length - 4) l = l ++ zeros (padOf body.length) := fun l h => by
    rw [padTo_eq (by omega)]
    congr 2
    omega
  unfold mkBlock
  simp only
  rw [filled _ (by simp; omega)]
  simp only [List.append_assoc]
  exact ⟨_, rfl, leBytes_length 4 _⟩

theorem leAt_behind {a r : List Byte} {off n v : Nat} (h : a.length = off) (b : v < 256 ^ n) : leAt (a ++ (leBytes n v ++ r)) off n = v := by
  rw [← h, ← List.append_assoc, leAt_append, Nat.mod_eq_of_lt b]

section Block

variable {flags x index : Nat} {raw body : List Byte}

/-- The header of a block reads as what it was made of (Table 11.1). -/
theorem mkBlock_header (hf : flags < 16) (hx : x ≤ 2) (hr : raw.length ≤ 65520) (hb : blockLen body.length ≤ 65544) :
    leAt (mkBlock flags x index raw body) 0 2 = 0x5542 ∧ leAt (mkBlock flags x index raw body) 2 1 = flags ∧
    leAt (mkBlock flags x index raw body) 3 1 = x ∧ leAt (mkBlock flags x index raw body) 4 2 = raw.length ∧
    8 * leAt (mkBlock flags x index raw body) 6 2 = blockLen body.length ∧ leAt (mkBlock flags x index raw body) 8 4 = crc32c raw := by
  obtain ⟨crc, e, -⟩ := mkBlock_eq flags x index raw body
  have whole := (blockLen_eq body.length).2.2
  have c := crc32c_lt raw
  rw [e]
  refine ⟨leAt_front _ (by omega), leAt_behind rfl (by omega), ?_, ?_, ?_, ?_⟩
  · rw [← List.append_assoc]
    exact leAt_behind rfl (by omega)
  · rw [← List.append_assoc, ← List.append_assoc]
    exact leAt_behind rfl (by omega)
  · have field := leAt_behind (a := leBytes 2 0x5542 ++ leBytes 1 flags ++ leBytes 1 x ++ leBytes 2 raw.length) (off := 6) (n := 2)
      (r := leBytes 4 (crc32c raw) ++ (leBytes 4 index ++ (body ++ zeros (padOf body.length) ++ crc))) rfl
      (show blockLen body.length / 8 < 256 ^ 2 by omega)
    rw [← List.append_assoc, ← List.append_assoc, ← List.append_assoc, field, whole]
  · rw [← List.append_assoc, ← List.append_assoc, ← List.append_assoc, ← List.append_assoc]
    exact leAt_behind rfl (by omega)

/-- The trailer of a block is the check of what stands before it (R359). -/
theorem mkBlock_trailer :
    leAt (mkBlock flags x index raw body) (blockLen body.length - 4) 4 = crc32c ((mkBlock flags x index raw body).take (blockLen body.length - 4)) := by
  obtain ⟨len, -, -⟩ := blockLen_eq body.length
  unfold mkBlock
  simp only
  generalize leBytes 2 0x5542 ++ leBytes 1 flags ++ leBytes 1 x ++ leBytes 2 raw.length ++ leBytes 2 (blockLen body.length / 8) ++ leBytes 4 (crc32c raw) ++
    leBytes 4 index ++ body = l
  have front := padTo_length (blockLen body.length - 4) l
  rw [List.take_left' front, ← List.append_nil (leBytes 4 _), leAt_behind front (crc32c_lt _)]

theorem mkBlock_body : ((mkBlock flags x index raw body).drop 16).take (blockLen body.length - 20) = body ++ zeros (padOf body.length) := by
  obtain ⟨crc, e, -⟩ := mkBlock_eq flags x index raw body
  obtain ⟨len, -, -⟩ := blockLen_eq body.length
  have long : (body ++ zeros (padOf body.length)).length = blockLen body.length - 20 := by
    rw [List.length_append, zeros_length]
    omega
  have head : (leBytes 2 0x5542 ++ (leBytes 1 flags ++ (leBytes 1 x ++ (leBytes 2 raw.length ++ (leBytes 2 (blockLen body.length / 8) ++
        (leBytes 4 (crc32c raw) ++ leBytes 4 index)))))).length = 16 := by simp
  have parts : mkBlock flags x index raw body = leBytes 2 0x5542 ++ (leBytes 1 flags ++ (leBytes 1 x ++ (leBytes 2 raw.length ++
      (leBytes 2 (blockLen body.length / 8) ++ (leBytes 4 (crc32c raw) ++ leBytes 4 index))))) ++ (body ++ zeros (padOf body.length) ++ crc) := by
    rw [e]
    simp only [List.append_assoc]
  rw [parts, List.drop_left' head, List.take_left' long]

/-- A block whose header and trailer are sound decodes to what its body spells (R374). -/
theorem decodeBlock_mkBlock (hf : flags < 16) (hx : x ≤ 2) (plain : bit flags 0 = true → x = 0) (failed : bit flags 1 = true → bit flags 0 = true)
    (some : 0 < raw.length) (hr : raw.length ≤ 65520) (hb : blockLen body.length ≤ 65544)
    (spells : if bit flags 0 = true then body = raw else untokens (blockLen body.length - 20) raw.length (body ++ zeros (padOf body.length)) =
      Option.some (planes x raw, zeros (padOf body.length))) :
    decodeBlock (mkBlock flags x index raw body) = .good (blockLen body.length) raw := by
  obtain ⟨magic, flag, xform, inLen, outLen, check⟩ := mkBlock_header (index := index) (body := body) hf hx hr hb
  obtain ⟨len, pad, -⟩ := blockLen_eq body.length
  have long := mkBlock_length flags x index raw body
  have whole : (mkBlock flags x index raw body).take (blockLen body.length) = mkBlock flags x index raw body :=
    List.take_of_length_le (Nat.le_of_eq long)
  unfold decodeBlock blockInLen
  simp only [magic, flag, xform, inLen, outLen, check, whole, mkBlock_body, long]
  have sound : ¬ ((blockLen body.length < 16) ∨ 0x5542 ≠ 0x5542 ∨ 16 ≤ flags ∨ 2 < x ∨ (bit flags 0 = true ∧ x ≠ 0) ∨
      (bit flags 1 = true ∧ bit flags 0 = false)) := by
    rintro (h | h | h | h | ⟨h, nz⟩ | ⟨h, nr⟩)
    · omega
    · exact h rfl
    · omega
    · omega
    · exact nz (plain h)
    · rw [failed h] at nr
      cases nr
  have sizes : ¬ (raw.length = 0 ∨ blockMax < raw.length ∨ blockLen body.length < 24 ∨ 65544 < blockLen body.length ∨
      blockLen body.length < blockLen body.length) := by
    unfold blockMax
    omega
  rw [if_neg sound, if_neg sizes, if_neg (not_not.mpr mkBlock_trailer)]
  by_cases israw : bit flags 0 = true
  · rw [if_pos israw] at spells
    subst spells
    simp [israw]
  · rw [if_neg israw] at spells
    have padLen : (body ++ zeros (padOf body.length)).length = blockLen body.length - 20 := by
      rw [List.length_append, zeros_length]
      omega
    have zero : ∀ b ∈ zeros (padOf body.length), b = 0#8 := fun b hb => List.eq_of_mem_replicate hb
    simp [israw, padLen, spells, pad, if_pos zero, unplanes_planes]

end Block

/-! ## The choice of a block's form (R365) -/

/-- The choice between the body that the engine has and that of transform `x`. -/
def betterBody (raw : List Byte) (best : Option (Nat × List Byte)) (x : Nat) : Option (Nat × List Byte) :=
  match best with
  | some (_, b) => if blockLen (tokens raw.length [] (planes x raw)).length < blockLen b.length then some (x, tokens raw.length [] (planes x raw)) else best
  | none => some (x, tokens raw.length [] (planes x raw))

theorem betterBody_cases (raw : List Byte) (best : Option (Nat × List Byte)) (x : Nat) :
    betterBody raw best x = best ∨ betterBody raw best x = some (x, tokens raw.length [] (planes x raw)) := by
  unfold betterBody
  split
  · split
    · exact .inr rfl
    · exact .inl rfl
  · exact .inr rfl

theorem bestBody_eq (set : Nat) (force : Bool) (raw : List Byte) :
    bestBody set force raw = if force then none else match (xformSet set).foldl (betterBody raw) none with
      | some (x, b) => if blockLen b.length < blockLen raw.length then some (x, b) else none
      | none => none := rfl

theorem xformSet_le {set x : Nat} (h : x ∈ xformSet set) : x ≤ 2 := by
  unfold xformSet at h
  split at h <;> simp at h <;> omega

/-- The engine takes a body of one of the three transforms, and one that makes the block shorter. -/
theorem bestBody_spec {set : Nat} {force : Bool} {raw body : List Byte} {x : Nat} (e : bestBody set force raw = some (x, body)) :
    x ≤ 2 ∧ body = tokens raw.length [] (planes x raw) ∧ blockLen body.length < blockLen raw.length := by
  have coded : ∀ x body, (xformSet set).foldl (betterBody raw) none = some (x, body) → x ≤ 2 ∧ body = tokens raw.length [] (planes x raw) := by
    refine List.foldlRecOn (motive := fun best => ∀ x body, best = some (x, body) → x ≤ 2 ∧ body = tokens raw.length [] (planes x raw)) _ _
      (fun _ _ h => by cases h) fun best inv v hv x body e => ?_
    obtain h | h := betterBody_cases raw best v
    · exact inv x body (h ▸ e)
    · rw [h] at e
      cases e
      exact ⟨xformSet_le hv, rfl⟩
  rw [bestBody_eq] at e
  cases force with
  | true => cases e
  | false =>
    cases h : (xformSet set).foldl (betterBody raw) none with
    | none => simp [h] at e
    | some best =>
      simp only [h, Bool.false_eq_true, if_false] at e
      split_ifs at e with shorter
      cases e
      obtain ⟨hx, hbody⟩ := coded _ _ h
      exact ⟨hx, hbody, shorter⟩

/-- Settles O34: an encoded block by its token body, a raw one by its body itself. -/
theorem bushelRoundTrip : Obligations.BushelRoundTrip := by
  unfold Obligations.BushelRoundTrip
  intro set index flags force raw some hr hflags
  have full : blockLen raw.length ≤ 65544 := by
    unfold blockLen roundUp
    omega
  have rawFlags : ∀ k, k = 1 ∨ k = 3 → flags + k < 16 ∧ bit (flags + k) 0 = true := by
    rintro k (rfl | rfl) <;> rcases hflags with rfl | rfl | rfl <;> decide
  refine ⟨fun x body e => ?_, ?_, ?_⟩
  · obtain ⟨hx, rfl, shorter⟩ := bestBody_spec e
    have coded : flags < 16 ∧ bit flags 0 = false ∧ bit flags 1 = false := by
      rcases hflags with rfl | rfl | rfl <;> decide
    obtain ⟨small, noRaw, noFail⟩ := coded
    obtain ⟨len, -, -⟩ := blockLen_eq (tokens raw.length [] (planes x raw)).length
    refine decodeBlock_mkBlock small hx (by simp [noRaw]) (by simp [noFail]) some hr (by omega) ?_
    rw [noRaw, if_neg Bool.false_ne_true]
    have read := untokens_tokens (planes x raw) (zeros (padOf (tokens raw.length [] (planes x raw)).length))
    rw [planes_length] at read
    exact read _ (by omega)
  · obtain ⟨small, israw⟩ := rawFlags 1 (.inl rfl)
    exact decodeBlock_mkBlock small (by omega) (fun _ => rfl) (fun _ => israw) some hr full (by rw [if_pos israw])
  · obtain ⟨small, israw⟩ := rawFlags 3 (.inr rfl)
    exact decodeBlock_mkBlock small (by omega) (fun _ => rfl) (fun _ => israw) some hr full (by rw [if_pos israw])

end Sys2Proof.Machine
end

section
/-!
The Chain and its commits (chapter 02): acknowledgements, ring markers, flit errors and class-2 retries, and a commit on its way to its boundary.
-/
namespace Sys2Proof.Machine

/-- A command that runs `f` on a hub out of reset, where `f` leaves the hub `g`. -/
theorem yields_of_eq {c : Instr} {f : Mem → Hub → Hub} {s : State} {P : Hub → State → Prop} {g : SMap Nat → Hub} (x : exec c s = run c f s)
    (live : s.hub.live = true) (e : ∀ t, f s.mem (s.hub.placed t) = g t) (p : ∀ t, P (s.hub.placed t) (lands s (g t))) : Yields c s P :=
  yields_run x live fun t => (e t).symm ▸ p t

/-! ## The first element of a kind in a list -/

section First

variable {α : Type} {p : α → Bool} {a q : List α} {x : α} (before : ∀ y ∈ a, p y = false)
include before

theorem firstIdx_none : firstIdx p a = none := by
  induction a with
  | nil => rfl
  | cons y a ih => simp [firstIdx, before y List.mem_cons_self, ih fun z hz => before z (List.mem_cons_of_mem y hz)]

theorem firstIdx_some (hit : p x = true) : firstIdx p (a ++ x :: q) = some a.length := by
  induction a with
  | nil => simp [firstIdx, hit]
  | cons y a ih => simp [firstIdx, before y List.mem_cons_self, ih fun z hz => before z (List.mem_cons_of_mem y hz)]

end First

section At

variable {α : Type} (a q : List α) (x y : α)

@[simp] theorem getD_behind (d : α) : (a ++ x :: q).getD a.length d = x := by simp

@[simp] theorem setAt_behind : setAt (a ++ x :: q) a.length y = a ++ y :: q := by simp [setAt]

@[simp] theorem eraseAt_behind : eraseAt (a ++ x :: q) a.length = a ++ q := by
  rw [eraseAt, List.eraseIdx_append_of_length_le (Nat.le_refl _), Nat.sub_self, List.eraseIdx_cons_zero]

end At

/-- A bit set in a mask. -/
theorem bit_or_two_pow (v r k : Nat) : bit (v ||| 2 ^ r) k = (bit v k || k == r) := by
  unfold bit
  rw [Nat.testBit_or, Nat.testBit_two_pow]
  congr 1
  rw [Bool.eq_iff_iff, decide_eq_true_iff, beq_iff_eq, eq_comm]

/-! ## What arrives on the Chain (R61, R62, R504) -/

section Arrivals

variable {h : Hub} {st r : Nat}

theorem epochAck_eq (started : h.clk.started = true) (obs : h.observed st = true) :
    h.epochAck st h.clk.epoch = h.updLink st fun l => { l.ack with acked := true } :=
  if_pos ⟨started, rfl, obs⟩

theorem ringTimeout_eq (low : r < 32) (bad : bit h.chain.ringBad r = false) (late : h.chain.ringLate.contains r = false)
    (started : h.clk.started = true) (due : 256 ≤ h.clk.epochCycle) :
    h.ringTimeout r = { h with chain := { h.chain with
      ringLate := h.chain.ringLate ++ [r], ringMiss := SMap.set 0 h.chain.ringMiss r (SMap.get 0 h.chain.ringMiss r + 1),
      ringNext := if 2 ≤ SMap.get 0 h.chain.ringMiss r + 1 then h.chain.ringNext ||| 2 ^ r else h.chain.ringNext } } := by
  have early : ¬ h.clk.epochCycle < 256 := by omega
  have high : ¬ 32 ≤ r := by omega
  exact if_neg (by rw [bad, late, started]; simp [high, early])

theorem flitError_eq (obs : h.observed st = true) :
    h.flitError st = h.updLink st fun l =>
      { l with errFlits := l.errFlits + 1, next := if 2 ≤ l.errFlits ∧ l.next = .observed then .errors else l.next } := by
  simp [Hub.flitError, obs]

theorem class2Timeout_first (obs : h.observed st = true) (fresh : ∀ r ∈ h.chain.req2, r.station ≠ st) :
    h.class2Timeout st = { h with chain := { h.chain with req2 := h.chain.req2 ++ [⟨st, 1⟩] } } := by
  unfold Hub.class2Timeout
  rw [obs, firstIdx_none fun r hr => beq_false_of_ne (fresh r hr)]
  rfl

theorem class2Timeout_repeat {n : Nat} {a q : List Req2} (obs : h.observed st = true) (list : h.chain.req2 = a ++ ⟨st, n⟩ :: q)
    (fresh : ∀ r ∈ a, r.station ≠ st) :
    h.class2Timeout st = { h with chain := { h.chain with req2 := if n < 3 then a ++ ⟨st, n + 1⟩ :: q else a ++ q } } := by
  unfold Hub.class2Timeout
  rw [obs, list, firstIdx_some (fun r hr => beq_false_of_ne (fresh r hr)) (beq_self_eq_true st)]
  simp only [getD_behind, setAt_behind, eraseAt_behind, ← Nat.not_lt, ite_not]
  rfl

end Arrivals

/-- Settles O6: each arrival by the one part of the Chain master that it changes. -/
theorem chainArrivals : Obligations.ChainArrivals := by
  unfold Obligations.ChainArrivals
  intro s live
  refine ⟨fun st started obs => ?_, fun r low bad late started due => ?_, fun st obs => ?_, fun st obs fresh => ?_, fun st n a q obs list fresh => ?_⟩
  · exact yields_of_eq rfl live (fun t => epochAck_eq (h := s.hub.placed t) started obs) fun t =>
      ⟨Hub.getLink_updLink _ st _, fun x other => Hub.getLink_updLink_ne _ _ other, rfl⟩
  · refine yields_of_eq rfl live (fun t => ringTimeout_eq (h := s.hub.placed t) low bad late started due) fun t =>
      ⟨SMap.get_set_self 0 s.hub.chain.ringMiss r (SMap.get 0 s.hub.chain.ringMiss r + 1),
        fun k other => SMap.get_set_ne 0 s.hub.chain.ringMiss (SMap.get 0 s.hub.chain.ringMiss r + 1) other, fun once k => ?_, fun none => ?_, rfl⟩
    · have second : 2 ≤ SMap.get 0 s.hub.chain.ringMiss r + 1 := by omega
      exact (congrArg (bit · k) (if_pos second)).trans (bit_or_two_pow s.hub.chain.ringNext r k)
    · have first : ¬ 2 ≤ SMap.get 0 s.hub.chain.ringMiss r + 1 := by omega
      exact if_neg first
  · exact yields_of_eq rfl live (fun t => flitError_eq (h := s.hub.placed t) obs) fun t =>
      ⟨Hub.getLink_updLink _ st _, fun x other => Hub.getLink_updLink_ne _ _ other, rfl⟩
  · exact yields_of_eq rfl live (fun t => class2Timeout_first (h := s.hub.placed t) obs fresh) fun t => rfl
  · exact yields_of_eq rfl live (fun t => class2Timeout_repeat (h := s.hub.placed t) obs list fresh) fun t => rfl

/-! ## Commits (R65, R69, R178) -/

/-- What a commit's begin leaves of a register: it is staged where it is in the scope and dirty, or a spent matrix entry. -/
def stagedReg (p : Nat → Bool) (k : Nat) (r : Rws) : Rws :=
  if p k && (r.st == .dirty || spent k r) then { r with staged := r.shadow, st := .staged } else r

theorem stagedReg_reset (p : Nat → Bool) (k d : Nat) : stagedReg p k (Rws.atReset d) = Rws.atReset d := by
  simp [stagedReg, spent, Rws.atReset]

theorem stage_rwsGet (h : Hub) (p : Nat → Bool) (d k : Nat) : (h.stage p).rwsGet d k = stagedReg p k (h.rwsGet d k) :=
  SMap.get_map (Rws.atReset d) h.rws (stagedReg p) k (stagedReg_reset p k d)

/-- What the exclusion of station `s` leaves of a register. -/
def unstagedReg (s k : Nat) (r : Rws) : Rws :=
  if inSlot s k && (r.st == .staged || r.st == .stagedDirty) then { r with st := .dirty } else r

theorem unstage_rwsGet (h : Hub) (s d k : Nat) : (h.unstage s).rwsGet d k = unstagedReg s k (h.rwsGet d k) :=
  SMap.get_map (Rws.atReset d) h.rws (unstagedReg s) k (by simp [unstagedReg, Rws.atReset])

/-- A commit that still waits for a station is not armed. -/
theorem commitArm_waits {h : Hub} {c : Commit} (cur : h.chain.cur = some c) (waits : c.toSnap ≠ [] ∨ c.toAck ≠ []) : h.commitArm = h := by
  have open_ : (c.effective.isSome || !c.toSnap.isEmpty || !c.toAck.isEmpty) = true := by
    rcases waits with w | w <;> simp [w]
  unfold Hub.commitArm
  simp only [cur, open_, if_true]

section Commits

variable {h : Hub} {c : Commit} {q : List Commit} {st : Nat}

theorem commitBegin_eq (idle : h.chain.cur = none) (first : h.chain.queue = c :: q) (owner : c.owner ≠ .slices)
    (check : h.commitCheck c.scope c.target = stOk) (stations : h.commitStations c ≠ []) :
    h.commitBegin = { (h.stage fun k => c.covers k || (h.commitStations c).any fun x => inSlot x k) with
      chain := { h.chain with cur := some { c with issued := h.clk.cycle, toSnap := h.commitStations c }, queue := q } } := by
  unfold Hub.commitBegin
  simp only [idle, first, if_neg owner]
  refine (if_neg (not_not.mpr check)).trans (commitArm_waits (c := { c with issued := h.clk.cycle, toSnap := h.commitStations c }) rfl (.inl stations))

theorem snapshotFlit_eq (cur : h.chain.cur = some c) (awaited : c.toSnap.contains st = true) (obs : h.observed st = true) :
    h.snapshotFlit st = { h with chain := { h.chain with cur := some { c with toSnap := c.toSnap.filter (· != st), toAck := c.toAck ++ [st] } } } := by
  unfold Hub.snapshotFlit
  rw [cur]
  simp only [awaited, obs, Bool.not_true, Bool.or_self, Bool.false_eq_true, if_false]

theorem Link.miss_eq (l : Link) :
    l.miss = { l with missed := l.missed + 1, next := if 2 ≤ l.missed ∧ l.next = .observed then .missed else l.next } := by
  simp [Link.miss]

/-- A commit whose stations have all answered before the guard cycles is armed for the next boundary. -/
theorem commitArm_answered {h : Hub} {c : Commit} (cur : h.chain.cur = some c) (fresh : c.effective = none) (snap : c.toSnap = []) (ack : c.toAck = [])
    (early : h.clk.epochCycle < 3840) :
    h.commitArm = ({ h with chain := { h.chain with cur := some { c with effective := some (h.clk.epoch + 1) } } } : Hub).commitWritten
      { c with effective := some (h.clk.epoch + 1) } := by
  have guard : ¬ 3840 ≤ h.clk.epochCycle := Nat.not_le.mpr early
  unfold Hub.commitArm
  simp only [cur, fresh, snap, ack, guard, decide_false]
  rfl

/-- A master's commit without an excluded station reports ST_OK. -/
theorem commitWritten_master {h : Hub} {c : Commit} {m : Master} (all : c.excluded = []) (owner : c.owner = .master m) (notLoader : m ≠ .loader)
    (noMoves0 : c.scope ≠ 0) (noMoves3 : c.scope ≠ 3) : h.commitWritten c = h.updStat m fun x => { x with status := stOk, excluded := 0 } := by
  unfold Hub.commitWritten
  simp only [all, owner, noMoves0, noMoves3, Hub.ownerStat, Owner.master.injEq, notLoader, false_and, or_self, if_false]
  rfl

/-- The last acknowledgement of a master's commit of scope 2 before the guard cycles. -/
theorem snapshotAck_last {m : Master} (cur : h.chain.cur = some c) (last : c.toAck = [st]) (snap : c.toSnap = []) (fresh : c.effective = none)
    (all : c.excluded = []) (scope : c.scope = 2) (owner : c.owner = .master m) (notLoader : m ≠ .loader) (inTime : h.clk.cycle < c.issued + 4096)
    (early : h.clk.epochCycle < 3840) :
    h.snapshotAck st = Hub.updStat (({ h with chain := { h.chain with
        cur := some { c with toAck := [], effective := some (h.clk.epoch + 1) } } } : Hub).updLink st Link.ack) m
      fun x => { x with status := stOk, excluded := 0 } := by
  obtain ⟨owner', scope', target, toSnap, toAck, issued, excluded, staged, effective⟩ := c
  simp only at last snap fresh all scope owner inTime
  subst last snap fresh all scope owner
  have inTime' : ¬ issued + 4096 ≤ h.clk.cycle := Nat.not_le.mpr inTime
  have self : (st != st) = false := by simp
  unfold Hub.snapshotAck
  simp only [cur, List.contains_cons, beq_self_eq_true, Bool.true_or, Bool.not_true, inTime', decide_false, Bool.or_self, Bool.false_eq_true, if_false,
    List.filter_cons, self, List.filter_nil]
  refine Eq.trans (commitArm_answered (c := { owner := .master m, scope := 2, target, issued, staged }) rfl rfl rfl rfl early) ?_
  exact commitWritten_master rfl rfl notLoader (Nat.succ_ne_zero 1) (by simp)

theorem snapshotTimeout_eq (cur : h.chain.cur = some c) (snap : c.toSnap = []) (awaited : c.toAck.contains st = true)
    (others : (c.toAck.filter (· != st)) ≠ []) (late : c.issued + 4096 ≤ h.clk.cycle) :
    h.snapshotTimeout st = (({ h with chain := { h.chain with
      cur := some { c with toAck := c.toAck.filter (· != st), excluded := c.excluded ++ [st] } } } : Hub).unstage st).updLink st Link.miss := by
  have due : ¬ h.clk.cycle < c.issued + 4096 := Nat.not_lt.mpr late
  unfold Hub.snapshotTimeout
  rw [cur]
  simp only [snap, awaited, List.contains_nil, Bool.false_or, Bool.not_true, due, decide_false, Bool.or_self, Bool.false_eq_true, if_false,
    List.filter_nil]
  exact commitArm_waits rfl (.inr others)

theorem moveOrders_eq (started : h.clk.started = true) (moves : h.slc.moves ≠ []) (once : h.slc.ordersEpoch ≠ h.clk.epoch + 1) :
    h.moveOrders = { h with slc := { h.slc with
      orders := (h.slc.moves.filter fun m => h.moveStations.contains (unitStn m.1)).map Prod.fst, ordersEpoch := h.clk.epoch + 1 } } := by
  simp [Hub.moveOrders, started, moves, once]

end Commits

/-- Settles O7: each event of a commit by the hub that it leaves; what it does to the copies of a register is said for one register. -/
theorem commitProgress : Obligations.CommitProgress := by
  unfold Obligations.CommitProgress
  refine ⟨fun s c live => ⟨fun q idle first _ _ owner check stations => ?_, fun st cur awaited obs => ?_,
    fun st m cur last snap fresh all scope owner notLoader inTime early => ?_, fun st cur snap awaited others late => ?_⟩,
    fun s live started moves once => ?_⟩
  · exact yields_of_eq rfl live (fun t => commitBegin_eq (h := s.hub.placed t) idle first owner check stations) fun t =>
      ⟨rfl, rfl, fun d k => stage_rwsGet s.hub (fun k => c.covers k || (s.hub.commitStations c).any fun x => inSlot x k) d k, rfl⟩
  · exact yields_of_eq rfl live (fun t => snapshotFlit_eq (h := s.hub.placed t) cur awaited obs) fun t => rfl
  · refine yields_of_eq rfl live
      (fun t => snapshotAck_last (h := s.hub.placed t) cur last snap fresh all scope owner notLoader inTime early) fun t =>
      ⟨Hub.getLink_updLink s.hub st _, fun x other => Hub.getLink_updLink_ne s.hub _ other,
        Hub.getStat_updStat s.hub m _, fun n other => Hub.getStat_updStat_ne s.hub _ other, rfl⟩
  · exact yields_of_eq rfl live (fun t => snapshotTimeout_eq (h := s.hub.placed t) cur snap awaited others late) fun t =>
      ⟨(Hub.getLink_updLink s.hub st Link.miss).trans (Link.miss_eq _), fun x other => Hub.getLink_updLink_ne s.hub _ other, fun d k => unstage_rwsGet s.hub st d k, rfl⟩
  · exact yields_of_eq rfl live (fun t => moveOrders_eq (h := s.hub.placed t) started moves once) fun t => rfl

end Sys2Proof.Machine
end

section
/-!
The event recorder (chapter 12): builds and station copies, the commit of a record, lost and gap records, and the audit spill.
-/
namespace Sys2Proof.Machine

/-! ## Builds (R386, R387) -/

section Builds

variable {h : Hub} {r : Req} {b : Build}

theorem erBuildStart_sysq {q : List Req} (room : h.er.builds.length < 4) (first : h.er.sysq = r :: q) :
    h.erBuildStart = { h with er := { h.er with sysq := q, builds := h.er.builds ++ [h.buildOf r] } } := by
  rw [Hub.erBuildStart, if_neg (Nat.not_le.mpr room), first]

theorem erBuildStart_fifo {q : List Req} (room : h.er.builds.length < 4) (none : h.er.sysq = []) (first : h.er.fifo = r :: q) :
    h.erBuildStart = { h with er := { h.er with fifo := q, builds := h.er.builds ++ [h.buildOf r] } } := by
  rw [Hub.erBuildStart, if_neg (Nat.not_le.mpr room), none, first]

theorem waitingBuild_first {q : List Build} (first : h.er.builds = b :: q) (waits : b.stnPending = true) : h.er.waitingBuild = some 0 := by
  rw [Er.waitingBuild, first, firstIdx, if_pos waits]

theorem erStationCopy_first {q : List Build} (first : h.er.builds = b :: q) (waits : b.stnPending = true) :
    h.erStationCopy = { h with er := { h.er with builds :=
      { b with stnPending := false, stnTaken := true, words := h.snapStation (b.req.snap.getD 0) (unitStn b.req.unit) b.words } :: q } } := by
  rw [Hub.erStationCopy, waitingBuild_first first waits, first]
  rfl

theorem erStationCopyTimeout_first {q : List Build} (first : h.er.builds = b :: q) (waits : b.stnPending = true) (due : b.start + 8192 ≤ h.clk.cycle) :
    h.erStationCopyTimeout = { h with er := { h.er with builds := { b with stnPending := false, incomplete := true } :: q } } := by
  rw [Hub.erStationCopyTimeout, waitingBuild_first first waits, first]
  exact if_neg (Nat.not_lt.mpr due)

end Builds

/-- Settles O8: each event by the builds that it leaves. -/
theorem recordBuilds : Obligations.RecordBuilds := by
  unfold Obligations.RecordBuilds
  intro s live
  refine ⟨fun r q room first => ?_, fun r q room none first => ?_, fun b q first waits => ?_, fun b q first waits due => ?_⟩
  · exact yields_of_eq rfl live (fun t => erBuildStart_sysq (h := s.hub.placed t) room first) fun t => rfl
  · exact yields_of_eq rfl live (fun t => erBuildStart_fifo (h := s.hub.placed t) room none first) fun t => rfl
  · exact yields_of_eq rfl live (fun t => erStationCopy_first (h := s.hub.placed t) first waits) fun t => rfl
  · exact yields_of_eq rfl live (fun t => erStationCopyTimeout_first (h := s.hub.placed t) first waits due) fun t => rfl

/-! ## Interrupts -/

/-- What an interrupt changes depends on the interrupts and the marks of the cycle alone. -/
theorem irqAll_congr {g h : Hub} (irq : g.irq = h.irq) (cyc : g.cyc = h.cyc) (l : List Nat) :
    (g.irqAll l).irq = (h.irqAll l).irq ∧ (g.irqAll l).cyc = (h.irqAll l).cyc := by
  induction l generalizing g h with
  | nil => exact ⟨irq, cyc⟩
  | cons v l ih =>
    refine ih (g := g.irqRaise v) (h := h.irqRaise v) ?_ ?_
    · unfold Hub.irqRaise Hub.irqOpen
      rw [irq]
    · simp only [Hub.irqRaise, cyc]

/-- Vectors raised on a hub whose interrupts and marks are those of `h`. -/
theorem irqAll_eq {g h : Hub} (irq : g.irq = h.irq) (cyc : g.cyc = h.cyc) (l : List Nat) :
    g.irqAll l = { g with irq := (h.irqAll l).irq, cyc := (h.irqAll l).cyc } := by
  obtain ⟨irq', cyc'⟩ := irqAll_congr irq cyc l
  rw [irqAll_frame, irq', cyc']

/-- Vectors raised on a hub whose recorder has changed. -/
theorem irqAll_er {g h : Hub} (irq : h.irq = g.irq) (cyc : h.cyc = g.cyc) (e : Er) (l : List Nat) :
    Hub.irqAll { h with er := e } l = { h with er := e, irq := (g.irqAll l).irq, cyc := (g.irqAll l).cyc } :=
  irqAll_eq (g := { h with er := e }) irq cyc l

/-! ## The commit of a record (R378 to R380, R393, R394) -/

section Commit

variable (h : Hub) (b : Build)

theorem recCalendar_stamp (seq x : Nat) : (⟨seq, h.now, (h.recCalendar x).1, (h.recCalendar x).2⟩ : RecStamp) = { stampOf h x with seq := seq } := by
  unfold Hub.recCalendar Hub.setNow stampOf
  by_cases set : h.cal.setCyc = h.clk.cycle + 1 <;> simp [set]

variable {h b} {g : Hub} (irq : h.irq = g.irq) (cyc : h.cyc = g.cyc) (noGap : b.req.gap = false) (noImage : b.req.image = [])
include irq cyc noGap noImage

/-- The commit of a build that is no audit record. -/
theorem commitBuild_general (general : b.req.cls ≠ 8) :
    h.commitBuild b = { h with
      er := { h.er with
        oldSlot := some (h.er.gcount % 7680, h.clk.cycle, SMap.get [] h.er.store (h.er.gcount % 7680)),
        bad := h.er.bad.filter (· != h.er.gcount % 7680),
        store := SMap.set [] h.er.store (h.er.gcount % 7680) (recGeneral b (stampOf h b.req.tick)),
        seq := (h.er.seq + 1) % 2 ^ 32, nextCommit := h.clk.cycle + 8, gcount := h.er.gcount + 1 },
      irq := (g.irqAll (recVectors b.req.cls b.req.code)).irq, cyc := (g.irqAll (recVectors b.req.cls b.req.code)).cyc } := by
  unfold Hub.commitBuild
  simp only [noGap, noImage, general, decide_false, Bool.false_eq_true, if_false, List.isEmpty_nil, if_true, recCalendar_stamp]
  exact irqAll_er irq cyc _ _

/-- The commit of an audit record. -/
theorem commitBuild_audit (audit : b.req.cls = 8) :
    ∃ head link, head = recAuditHead { b.req with words := b.words } (stampOf h b.req.tick) h.er.acount ∧
      link = sha384 ((if h.er.acount = 0 then chainSeed h.er.chainNonce else h.er.link) ++ head) ∧
      h.commitBuild b = { h with
        er := { h.er with
          oldSlot := some (7680 + h.er.acount % 512, h.clk.cycle, SMap.get [] h.er.store (7680 + h.er.acount % 512)),
          bad := h.er.bad.filter (· != 7680 + h.er.acount % 512),
          store := SMap.set [] h.er.store (7680 + h.er.acount % 512) (head ++ link ++ echoWord h.er.seq 8),
          seq := (h.er.seq + 1) % 2 ^ 32, nextCommit := h.clk.cycle + 8, acount := h.er.acount + 1, link := link },
        irq := (g.irqAll (recVectors 8 b.req.code)).irq, cyc := (g.irqAll (recVectors 8 b.req.code)).cyc } := by
  refine ⟨_, _, rfl, rfl, ?_⟩
  unfold Hub.commitBuild
  simp only [noGap, noImage, audit, decide_true, Bool.false_eq_true, if_false, List.isEmpty_nil, if_true, recCalendar_stamp]
  exact irqAll_er irq cyc _ _

end Commit

section NextCommit

variable {h : Hub} (ready : h.er.nextCommit ≤ h.clk.cycle)
include ready

theorem erRecordCommit_build {b : Build} {q : List Build} (noSet : h.er.clockSet = []) (first : h.er.builds = b :: q) (done : b.stnPending = false) :
    h.erRecordCommit = Hub.commitBuild { h with er := { h.er with builds := q } } b := by
  have none : h.clockSetDue.toList = [] := by rw [Hub.clockSetDue, noSet]; rfl
  rw [Hub.erRecordCommit, if_neg (Nat.not_lt.mpr ready), none, first]
  exact if_neg (Bool.eq_false_iff.mp done)

theorem erRecordCommit_clockSet {r : Req} {q : List Req} (first : h.er.clockSet = r :: q) (later : h.cal.setCyc ≠ h.clk.cycle + 1) :
    h.erRecordCommit = Hub.commitBuild { h with er := { h.er with clockSet := q } } { req := r, start := h.clk.cycle, words := r.words } := by
  have due : h.clockSetDue.toList = [r] := by simp [Hub.clockSetDue, Hub.setNow, first, later]
  rw [Hub.erRecordCommit, if_neg (Nat.not_lt.mpr ready), due, first]
  rfl

end NextCommit

/-- A slot written by a commit (R380). -/
theorem slotTakes_set (e f : Er) (cycle k : Nat) (b : List Byte) (store : f.store = SMap.set [] e.store k b)
    (old : f.oldSlot = some (k, cycle, SMap.get [] e.store k)) (bad : f.bad = e.bad.filter (· != k)) : slotTakes e f cycle k b :=
  ⟨store ▸ SMap.get_set_self [] e.store k b, fun _ other => store ▸ SMap.get_set_ne [] e.store b other, old, bad⟩

/-- Settles O9: the build that commits, general or audit, and the clock-set record as an audit record that goes first. -/
theorem recordCommit : Obligations.RecordCommit := by
  unfold Obligations.RecordCommit
  intro s live ready
  refine ⟨fun b q noSet first done noGap noImage general => ?_, fun b q noSet first done noGap noImage audit => ?_,
    fun r q first later audit code noGap noImage => ?_⟩
  · refine yields_of_eq rfl live (fun t => (erRecordCommit_build (h := s.hub.placed t) ready noSet first done).trans
      (commitBuild_general (g := s.hub) rfl rfl noGap noImage general)) fun t => ⟨slotTakes_set _ _ _ _ _ rfl rfl rfl, ?_⟩
    rfl
  · refine yields_run rfl live fun t => ?_
    obtain ⟨head, link, hhead, hlink, e⟩ := commitBuild_audit (h := { s.hub.placed t with er := { s.hub.er with builds := q } }) (g := s.hub) rfl rfl noGap noImage audit
    rw [show (s.hub.placed t).erRecordCommit = _ from (erRecordCommit_build (h := s.hub.placed t) ready noSet first done).trans e]
    refine ⟨⟨head, hhead, hlink, slotTakes_set _ _ _ _ _ rfl rfl rfl⟩, rfl⟩
  · refine yields_run rfl live fun t => ?_
    obtain ⟨head, link, hhead, hlink, e⟩ := commitBuild_audit (h := { s.hub.placed t with er := { s.hub.er with clockSet := q } })
      (b := { req := r, start := s.hub.clk.cycle, words := r.words }) (g := s.hub) rfl rfl noGap noImage audit
    rw [show (s.hub.placed t).erRecordCommit = _ from (erRecordCommit_clockSet (h := s.hub.placed t) ready first later).trans e]
    rw [show recVectors 8 r.code = [] by rw [code]; rfl]
    refine ⟨⟨head, hhead, hlink, slotTakes_set _ _ _ _ _ rfl rfl rfl⟩, rfl⟩

/-! ## Bytes written to a memory -/

section WriteBytes

variable (size : Nat) (m : SMap Byte) {a x : Nat} (b : List Byte)

theorem get_writeBytes_in {i : Nat} (inside : i < b.length) (fits : a + i < size) : SMap.get 0 (writeBytes size m a b) (a + i) = b.getD i 0 := by
  have kept : i < (b.take (size - a)).length := by
    rw [List.length_take]
    omega
  rw [writeBytes, SMap.get_splice_in 0 m a _ i kept]
  have low : i < size - a := by omega
  simp [List.getD_eq_getElem?_getD, low]

theorem get_writeBytes_out (outside : x < a ∨ a + b.length ≤ x) : SMap.get 0 (writeBytes size m a b) x = SMap.get 0 m x := by
  refine SMap.get_splice_out 0 m a _ x ?_
  rw [List.length_take]
  omega

end WriteBytes

/-- Padding changes no byte. -/
theorem padTo_getD {n k : Nat} (l : List Byte) (low : k < n) : (padTo n l).getD k 0 = l.getD k 0 := by
  simp only [padTo, slice, List.drop_zero, List.getD_eq_getElem?_getD]
  by_cases inside : k < l.length
  · rw [List.getElem?_append_left (by rw [List.length_take]; omega), List.getElem?_take, if_pos low]
  · rw [List.getElem?_append_right (by rw [List.length_take]; omega), List.getElem?_eq_none (Nat.not_lt.mp inside)]
    simp only [zeros, List.getElem?_replicate]
    split <;> rfl

/-! ## Lost records, the audit gap and the audit spill (R388, R395, R396) -/

section Queues

variable {h : Hub}

theorem lostRecordEnqueue_eq (any : h.er.lost.any = true) (room : h.er.fifo.length < 64) :
    h.lostRecordEnqueue = { h with er := { h.er with
      fifo := h.er.fifo ++ [{
        cls := 2, code := 0x0201, tick := h.er.lost.first, aux := h.er.lost.triggers, arg := h.er.lost.all,
        words := (List.range 16).map (fun k => SMap.get 0 h.er.lost.counts k) ++
          [h.er.lost.first, h.er.lost.last, h.er.lost.firstStn + h.er.lost.lastStn * 2 ^ 32] }],
      lost := {} } } := by
  have full : ¬ 64 ≤ h.er.fifo.length := Nat.not_le.mpr room
  simp [Hub.lostRecordEnqueue, any, full, at_, Nat.shiftLeft_eq]

theorem auditGapEnqueue_eq (pending : h.er.gap.pending = true) (fresh : h.er.gap.queued = false) (load : h.er.auditLoad < 511)
    (room : h.er.sysq.length < 32) :
    h.auditGapEnqueue = { h with er := { h.er with
      sysq := { cls := 8, code := 0x0809, tick := h.now, gap := true } :: h.er.sysq, gap := { h.er.gap with queued := true } } } := by
  have light : ¬ 511 ≤ h.er.auditLoad := Nat.not_le.mpr load
  have short : ¬ 32 ≤ h.er.sysq.length := Nat.not_le.mpr room
  simp [Hub.auditGapEnqueue, pending, fresh, light, short, Hub.evt]

theorem auditSpillStart_eq (noc : h.nocUp = true) (tun : h.boot.tunHeader = true) (idle : h.er.spilling = none)
    (room : h.er.spillWr - h.er.spillRd < 1024) (some_ : h.er.spillFirst < h.er.acount)
    (due : 63 ≤ h.er.acount - h.er.spillFirst ∨ leAt (h.slotNow (7680 + h.er.spillFirst % 512)) 0x10 8 + 100000000 ≤ h.now) :
    h.auditSpillStart = { h with er := { h.er with spilling := some (Nat.min 63 (h.er.acount - h.er.spillFirst), h.now) } } := by
  have waits : 0 < h.er.acount - h.er.spillFirst := Nat.sub_pos_of_lt some_
  unfold Hub.auditSpillStart
  simp only [tun, noc, idle, room, Er.unspilled, auditSlot, waits, Option.isNone_none, decide_true, Bool.true_and, Bool.or_eq_true]
  exact if_pos (due.imp decide_eq_true decide_eq_true)

theorem auditSpillDone_eq {n tick : Nat} (noc : h.nocUp = true) (spilling : h.er.spilling = some (n, tick)) :
    h.auditSpillDone = { h with
      out := h.out ++ [⟨1, h.boot.tunBase + 0x200000 + h.er.spillWr % 1024 * 32768,
        padTo 32768 (h.spillBlock n tick ++ padTo 96 (Config.ecdsaSign h.boot.diePriv (sha384 (h.spillBlock n tick))))⟩],
      er := { h.er with
        spilling := none, spillFirst := h.er.spillFirst + n, spillWr := h.er.spillWr + 1,
        spillLink := slice (SMap.get [] h.er.store (7680 + (h.er.spillFirst + n - 1) % 512)) 0x1C8 48 },
      irq := (h.irqRaise 11).irq, cyc := (h.irqRaise 11).cyc } := by
  unfold Hub.auditSpillDone
  simp only [spilling, noc, Bool.not_true, Bool.false_eq_true, if_false]
  rfl

end Queues

/-- Settles O10: the two requests by the queues that they enter, the spill by the block that it takes and the bytes that it writes. -/
theorem recorderQueues : Obligations.RecorderQueues := by
  unfold Obligations.RecorderQueues
  refine ⟨fun s live => ⟨fun any room => ?_, fun pending fresh load room => ?_⟩, fun s live noc => ⟨fun tun idle room some_ due => ?_, fun n tick spilling => ?_⟩⟩
  · exact yields_of_eq rfl live (fun t => lostRecordEnqueue_eq (h := s.hub.placed t) any room) fun t => rfl
  · exact yields_of_eq rfl live (fun t => auditGapEnqueue_eq (h := s.hub.placed t) pending fresh load room) fun t => rfl
  · exact yields_of_eq rfl live (fun t => auditSpillStart_eq (h := s.hub.placed t) noc tun idle room some_ due) fun t => rfl
  · refine yields_of_eq rfl live (fun t => auditSpillDone_eq (h := s.hub.placed t) noc spilling) fun t => ⟨fun k low fits => ?_, fun a outside => ?_, rfl⟩
    · refine (get_writeBytes_in hbmSize s.mem.hbm _ (by rw [padTo_length]; exact low) fits).trans ?_
      exact padTo_getD _ low
    · exact get_writeBytes_out hbmSize s.mem.hbm _ (by rwa [padTo_length])

end Sys2Proof.Machine
end

section
/-!
The Grain counters (chapter 07): what an increment changes.
-/
namespace Sys2Proof.Machine

/-! ## The counters of a unit -/

section Grains

variable (h : Hub) (u : Nat) (f : Grain → Grain)

theorem getGrain_updGrain : (h.updGrain u f).getGrain u = f (h.getGrain u) := by
  simp [Hub.getGrain, Hub.updGrain]

/-- A station and a sub name one unit. -/
theorem unit_eq_of_stn_sub {u v : Nat} (stn : unitStn v = unitStn u) (sub : unitSub v = unitSub u) : v = u := by
  unfold unitStn unitSub at *
  omega

theorem getGrain_updGrain_ne {v : Nat} (other : v ≠ u) : (h.updGrain u f).getGrain v = h.getGrain v := by
  unfold Hub.getGrain Hub.updGrain
  by_cases stn : unitStn v = unitStn u
  · have sub : unitSub v ≠ unitSub u := fun sub => other (unit_eq_of_stn_sub stn sub)
    rw [stn, Hub.getStn_updStn]
    exact SMap.get_upd_ne _ _ _ sub
  · rw [Hub.getStn_updStn_ne _ _ stn]

/-- Only the counters of a station change. -/
theorem getStn_updGrain (x : Nat) : { (h.updGrain u f).getStn x with grain := [] } = { h.getStn x with grain := [] } := by
  unfold Hub.updGrain
  by_cases stn : x = unitStn u
  · subst stn
    rw [Hub.getStn_updStn]
  · rw [Hub.getStn_updStn_ne _ _ stn]

end Grains

/-- What a counter takes in a hub cycle. -/
def Grain.took (g : Grain) (k n : Nat) : Grain := { g with inc := SMap.upd 0 g.inc k (· + n) }

theorem Grain.took_inc (g : Grain) (k n j : Nat) : SMap.get 0 (g.took k n).inc j = SMap.get 0 g.inc j + if j = k then n else 0 := by
  unfold Grain.took
  by_cases same : j = k
  · subst same; simp
  · simp [same]

/-- The instructions that a command has retired make progress (R287). -/
def Hub.retire (h : Hub) (u c n : Nat) : Hub :=
  (h.updGrain u fun g => { g with retired := (g.retired + n) % 2 ^ 20 }).progress c (((h.getGrain u).retired + n) / 2 ^ 20)

theorem getGrain_retire (h : Hub) (u c n : Nat) :
    (h.retire u c n).getGrain u = { h.getGrain u with retired := ((h.getGrain u).retired + n) % 2 ^ 20 } :=
  getGrain_updGrain h u _

theorem getGrain_retire_ne (h : Hub) {u v : Nat} (c n : Nat) (other : v ≠ u) : (h.retire u c n).getGrain v = h.getGrain v :=
  getGrain_updGrain_ne h u _ other

theorem getCtx_retire (h : Hub) (u c n : Nat) :
    (h.retire u c n).getCtx c = Ctx.mark (h.clk.cycle + 1) (h.getCtx c)
      { h.getCtx c with progress := ((h.getCtx c).progress + ((h.getGrain u).retired + n) / 2 ^ 20) % 2 ^ 32 } :=
  Hub.getCtx_updCtx (h.updGrain u fun g => { g with retired := (g.retired + n) % 2 ^ 20 }) c _

theorem getCtx_retire_ne (h : Hub) (u n : Nat) {c d : Nat} (other : d ≠ c) : (h.retire u c n).getCtx d = h.getCtx d :=
  Hub.getCtx_updCtx_ne (h.updGrain u fun g => { g with retired := (g.retired + n) % 2 ^ 20 }) _ other

/-- The command of context `c` that unit `u` runs is of a context since destroyed (R37). -/
def Hub.ranOn (h : Hub) (u c : Nat) : Bool := (h.getCtx c).cmds.any fun x => x.gone && x.started && x.unit == u

section Increment

variable {h : Hub} {u k n : Nat} (unit : unitOk u = true) (counter : k < 8)
include unit counter

theorem grainAdd_progress {c g : Nat} (cmd : (h.getGrain u).cmd = some (c, g)) (one : k = 1) (tile : isTileUnit u = true) (own : h.ranOn u c = false) :
    h.grainAdd u k n = (h.updGrain u fun g => g.took k n).retire u c n := by
  have low : ¬ 8 ≤ k := Nat.not_le.mpr counter
  have retired : ((h.updGrain u fun g => g.took k n).getGrain u).retired = (h.getGrain u).retired := by rw [getGrain_updGrain]; rfl
  unfold Hub.grainAdd
  rw [unit, decide_eq_false low]
  simp only [Bool.not_true, Bool.or_self, Bool.false_eq_true, if_false, cmd, Hub.retire, retired]
  refine if_pos ⟨one, tile, ?_⟩
  exact (congrArg Bool.not own)

theorem grainAdd_plain
    (none : k ≠ 1 ∨ isTileUnit u = false ∨ (h.getGrain u).cmd = none ∨ ∃ c g, (h.getGrain u).cmd = some (c, g) ∧ h.ranOn u c = true) :
    h.grainAdd u k n = h.updGrain u fun g => g.took k n := by
  have low : ¬ 8 ≤ k := Nat.not_le.mpr counter
  unfold Hub.grainAdd
  rw [unit, decide_eq_false low]
  simp only [Bool.not_true, Bool.or_self, Bool.false_eq_true, if_false]
  cases cmd : (h.getGrain u).cmd with
  | none => rfl
  | some x =>
    obtain ⟨c, g⟩ := x
    refine if_neg fun ⟨one, tile, own⟩ => ?_
    rcases none with other | other | other | ⟨c', g', other, gone⟩
    · exact other one
    · rw [tile] at other; cases other
    · rw [cmd] at other; cases other
    · rw [cmd] at other
      cases other
      have own : (!h.ranOn u c) = true := own
      rw [gone] at own
      cases own

end Increment

theorem grainIncrement_counts {h : Hub} {u k n : Nat} (units : h.boot.units = true)
    (runs : ¬ (cycleCounter (unitClass u) k = true ∧ (h.asleep u = true ∨ (h.getGate u).st ≠ .run))) :
    h.grainIncrement u k n = h.grainAdd u k n := by
  unfold Hub.grainIncrement
  rw [if_neg (by simpa using runs), if_pos units]

theorem grainIncrement_gated {h : Hub} {u k n : Nat} (cycles : cycleCounter (unitClass u) k = true) (gated : h.asleep u = true ∨ (h.getGate u).st ≠ .run) :
    h.grainIncrement u k n = h :=
  if_pos (by simpa [cycles] using gated)

/-- Settles O11: an increment with and without the progress that it makes, and the gated cycle counter. -/
theorem grainCounts : Obligations.GrainCounts := by
  unfold Obligations.GrainCounts
  intro s u k n live unit counter units
  refine ⟨fun runs => ?_, fun cycles gated => ?_⟩
  · by_cases makes : ∃ c g, (s.hub.getGrain u).cmd = some (c, g) ∧ k = 1 ∧ isTileUnit u = true ∧ s.hub.ranOn u c = false
    · obtain ⟨c, g, cmd, one, tile, own⟩ := makes
      refine yields_of_eq rfl live (fun t => (grainIncrement_counts (h := s.hub.placed t) units runs).trans
        (grainAdd_progress (h := s.hub.placed t) unit counter cmd one tile own)) fun t => ?_
      have took := getGrain_updGrain s.hub u fun g => g.took k n
      have grain := getGrain_retire (s.hub.updGrain u fun g => g.took k n) u c n
      rw [took] at grain
      refine ⟨fun j => ?_, ?_, fun v other => ?_, fun x => ?_, fun c' g' cmd' _ _ _ => ?_, fun none => ?_, rfl⟩
      · exact (congrArg (fun g : Grain => SMap.get 0 g.inc j) grain).trans (Grain.took_inc _ k n j)
      · exact congrArg (fun g : Grain => { g with inc := [], retired := 0 }) grain
      · exact (getGrain_retire_ne _ c n other).trans (getGrain_updGrain_ne s.hub u _ other)
      · exact (getStn_updGrain _ u _ x).trans (getStn_updGrain s.hub u _ x)
      · rw [cmd] at cmd'
        cases cmd'
        refine ⟨congrArg Grain.retired grain, fun d other => getCtx_retire_ne (s.hub.updGrain u _) u n other, ?_⟩
        refine (getCtx_retire (s.hub.updGrain u fun g => g.took k n) u c n).trans ?_
        rw [took]
        rfl
      · rcases none with other | other | other | ⟨c', g', other, gone⟩
        · exact absurd one other
        · rw [tile] at other; cases other
        · rw [cmd] at other; cases other
        · rw [cmd] at other
          cases other
          rw [Hub.ranOn, gone] at own
          cases own
    · have none : k ≠ 1 ∨ isTileUnit u = false ∨ (s.hub.getGrain u).cmd = none ∨ ∃ c g, (s.hub.getGrain u).cmd = some (c, g) ∧ s.hub.ranOn u c = true := by
        by_contra all
        push Not at all
        obtain ⟨one, tile, cmd, own⟩ := all
        obtain ⟨⟨c, g⟩, cmd⟩ := Option.ne_none_iff_exists'.mp cmd
        exact makes ⟨c, g, cmd, one, by simpa using tile, by simpa using own c g cmd⟩
      refine yields_of_eq rfl live (fun t => (grainIncrement_counts (h := s.hub.placed t) units runs).trans
        (grainAdd_plain (h := s.hub.placed t) unit counter none)) fun t => ?_
      have grain := getGrain_updGrain s.hub u fun g => g.took k n
      refine ⟨fun j => ?_, ?_, fun v other => ?_, fun x => ?_, fun c g cmd one tile own => ?_, fun _ => ⟨rfl, ?_⟩, rfl⟩
      · exact (congrArg (fun g : Grain => SMap.get 0 g.inc j) grain).trans (Grain.took_inc _ k n j)
      · exact congrArg (fun g : Grain => { g with inc := [], retired := 0 }) grain
      · exact getGrain_updGrain_ne s.hub u _ other
      · exact getStn_updGrain s.hub u _ x
      · exact absurd ⟨c, g, cmd, one, tile, own⟩ makes
      · exact (congrArg Grain.retired grain).trans rfl
  · exact yields_of_eq rfl live (fun t => grainIncrement_gated (h := s.hub.placed t) cycles gated) fun t => rfl

end Sys2Proof.Machine
end

section
/-!
Frames in the rings of samples (R215, R235, R236): where an extent lies, what a frame that fits leaves in HBM, and the sampler with its seal frames
(R230 to R233, R237, R238).
-/
namespace Sys2Proof.Machine

/-! ## An extent in a ring (R215) -/

/-- The writes of a filler and of an extent of `len` bytes into ring `r`. -/
def Ring.writes (r : Ring) (len : Nat) (filler frame : List Byte) : List MemWrite :=
  (if r.place len - r.wr = 0 then [] else [⟨1, r.base + r.wr % r.size, filler.take (r.place len - r.wr)⟩]) ++
    [⟨1, r.base + r.place len % r.size, padTo len frame⟩]

/-- An extent lies in the ring, and what is left before it is the rest of the ring. -/
theorem place_cases {r : Ring} {len : Nat} (some_ : 0 < len) (fits : len ≤ r.size) :
    r.place len % r.size + len ≤ r.size ∧ r.wr % r.size + (r.place len - r.wr) ≤ r.size := by
  have size : 0 < r.size := by omega
  have low := Nat.mod_lt r.wr size
  unfold Ring.place
  split_ifs with past
  · have whole : r.wr + (r.size - r.wr % r.size) = r.size * (r.wr / r.size + 1) := by
      have := Nat.div_add_mod r.wr r.size
      rw [Nat.mul_add, Nat.mul_one]
      omega
    rw [whole, Nat.mul_mod_right, ← whole]
    omega
  · have stays : r.wr % r.size + len ≤ r.size := by
      by_contra out
      exact past ⟨by omega, by omega⟩
    omega

theorem Mem.apply_append (m : Mem) (a b : List MemWrite) : m.apply (a ++ b) = (m.apply a).apply b := List.foldl_append ..

theorem Mem.apply_hbm (m : Mem) (a : Nat) (b : List Byte) : m.apply [⟨1, a, b⟩] = { m with hbm := writeBytes hbmSize m.hbm a b } := rfl

/-- A byte of HBM after a write that fits into it. -/
theorem get_writeBytes {size : Nat} (m : SMap Byte) {a : Nat} {b : List Byte} (fits : a + b.length ≤ size) (x : Nat) :
    SMap.get 0 (writeBytes size m a b) x = if a ≤ x ∧ x < a + b.length then b.getD (x - a) 0 else SMap.get 0 m x := by
  split_ifs with inside
  · obtain ⟨i, rfl⟩ : ∃ i, x = a + i := ⟨x - a, by omega⟩
    rw [get_writeBytes_in size m b (by omega) (by omega), Nat.add_sub_cancel_left]
  · exact get_writeBytes_out size m b (by omega)

/-- The writes of an extent leave the bytes of the frame, those of the filler before it, and every other byte as it was. -/
theorem framed_writes (m : Mem) {r : Ring} {len : Nat} (filler frame : List Byte) (some_ : 0 < len) (fits : len ≤ r.size) (hbm : r.base + r.size ≤ hbmSize) :
    framed r len filler frame m (m.apply (r.writes len filler frame)) := by
  obtain ⟨extent, before⟩ := place_cases some_ fits
  have frameBytes : ∀ (m : SMap Byte) (x : Nat),
      SMap.get 0 (writeBytes hbmSize m (r.base + r.place len % r.size) (padTo len frame)) x =
        if r.base + r.place len % r.size ≤ x ∧ x < r.base + r.place len % r.size + len then frame.getD (x - (r.base + r.place len % r.size)) 0
        else SMap.get 0 m x := fun m x => by
    rw [get_writeBytes m (by rw [padTo_length]; omega), padTo_length]
    split_ifs with inside
    · exact padTo_getD _ (by omega)
    · rfl
  unfold Ring.writes
  by_cases adjacent : r.place len - r.wr = 0
  · rw [if_pos adjacent, List.nil_append, Mem.apply_hbm]
    refine ⟨rfl, fun x => (frameBytes m.hbm x).trans ?_⟩
    rw [adjacent, show Nat.min filler.length 0 = 0 from Nat.min_zero _]
    congr 1
    exact (if_neg (by omega)).symm
  · rw [if_neg adjacent, Mem.apply_append, Mem.apply_hbm, Mem.apply_hbm]
    refine ⟨rfl, fun x => (frameBytes _ x).trans ?_⟩
    have len_ : (filler.take (r.place len - r.wr)).length = Nat.min filler.length (r.place len - r.wr) := by
      rw [List.length_take]
      exact Nat.min_comm _ _
    congr 1
    rw [get_writeBytes m.hbm (by rw [List.length_take]; omega), len_]
    refine ite_congr rfl (fun inside => ?_) fun _ => rfl
    have early : x - (r.base + r.wr % r.size) < r.place len - r.wr := by
      have := Nat.min_le_right filler.length (r.place len - r.wr)
      have : Nat.min filler.length (r.place len - r.wr) ≤ r.place len - r.wr := this
      omega
    simp [List.getD_eq_getElem?_getD, early]

/-! ## A frame of the sampler (R235, R236) -/

/-- The ring of slice `k` in the sampler. -/
abbrev Hub.cntRing (h : Hub) (k : Nat) : Ring := SMap.get {} h.cnt.ring k

/-- A ring behind an extent of `len` bytes. -/
def Ring.moved (r : Ring) (len : Nat) : Ring := { r with wr := r.place len + len }

/-- The hub after ring `k` has taken an extent of `len` bytes. -/
def Hub.ringTook (h : Hub) (k len : Nat) (frame : List Byte) : Hub :=
  { h with
    out := h.out ++ (h.cntRing k).writes len (sampleFiller h k len) frame,
    cnt := { h.cnt with ring := SMap.set {} h.cnt.ring k ((h.cntRing k).moved len) } }

theorem ringMoved_set (m : SMap Ring) (k len : Nat) : ringMoved m (SMap.set {} m k ((SMap.get ({} : Ring) m k).moved len)) k len :=
  ⟨SMap.get_set_self _ m k _, fun _ other => SMap.get_set_ne _ m _ other⟩

/-- A frame that fits is written. -/
theorem cntPut_takes {h : Hub} {k len : Nat} (takes : takesFrame h k len) (mk : Nat → List Byte) :
    h.cntPut k len mk = (.written, h.ringTook k len (mk ((SMap.get ({} : Ring) h.cnt.ring k).place len))) := by
  obtain ⟨noc, on, fits, -, -⟩ := takes
  have room : (SMap.get ({} : Ring) h.cnt.ring k).place len + len ≤ (SMap.get ({} : Ring) h.cnt.ring k).rd + (SMap.get ({} : Ring) h.cnt.ring k).size := by
    simpa [Ring.fits] using fits
  unfold Hub.cntPut Hub.ringTook Ring.writes
  dsimp only
  rw [if_neg (by simp [on]), if_neg (by simp [noc, fits]), if_pos room]
  by_cases adjacent : (SMap.get ({} : Ring) h.cnt.ring k).place len - (SMap.get ({} : Ring) h.cnt.ring k).wr = 0
  · rw [if_pos adjacent, if_pos adjacent]
    rfl
  · rw [if_neg adjacent, if_neg adjacent, ← List.append_assoc]
    rfl

theorem cntPut_off {h : Hub} {k : Nat} (off : (SMap.get ({} : Ring) h.cnt.ring k).on = false) (len : Nat) (mk : Nat → List Byte) :
    h.cntPut k len mk = (.discarded, h) := by
  unfold Hub.cntPut
  simp only [off, Bool.not_false, if_true]

/-! ## Read-to-clear fields that the hub has counted in (R10) -/

/-- A field that the hub has counted in since its last read. -/
def RcCell.marked (c : RcCell) : Prop := 1 ≤ c.new ∧ 1 ≤ c.max

theorem RcCell.marked.one_le_sum {c : RcCell} (m : c.marked) : 1 ≤ c.sum := by
  unfold RcCell.sum
  split
  · exact m.1.trans (Nat.le_max_right _ _)
  · exact Nat.le_min.mpr ⟨m.2, by have := m.1; omega⟩

section Marked

variable {h : Hub} {off mi lsb max n : Nat} (room : 1 ≤ max) (some_ : 1 ≤ n)
include room some_

theorem rcAdd_marked_self : (SMap.get {} (h.rcAdd off mi lsb max n).rc (rcKey off mi lsb)).marked := by
  have new : 1 ≤ satAdd max (SMap.get ({} : RcCell) h.rc (rcKey off mi lsb)).new n := Nat.le_min.mpr ⟨room, by omega⟩
  rw [Hub.rcAdd, if_neg (by omega), SMap.get_upd_self]
  exact ⟨new, room⟩

theorem rcAdd_marked {k : Nat} (m : (SMap.get {} h.rc k).marked) : (SMap.get {} (h.rcAdd off mi lsb max n).rc k).marked := by
  by_cases same : k = rcKey off mi lsb
  · rw [same]
    exact rcAdd_marked_self room some_
  · rw [Hub.rcAdd, if_neg (by omega), SMap.get_upd_ne _ _ _ same]
    exact m

end Marked

theorem rcFlag_marked {h : Hub} {off lsb v : Nat} : (SMap.get {} (h.rcFlag off lsb v).rc (rcKey off 0 lsb)).marked := by
  unfold Hub.rcFlag
  dsimp only
  split
  · exact rcAdd_marked_self (Nat.le_refl 1) (Nat.le_refl 1)
  · exact rcAdd_marked_self (Nat.le_refl 1) (Nat.le_refl 1)

theorem record_marked {h : Hub} (r : Req) {k : Nat} (m : (SMap.get {} h.rc k).marked) : (SMap.get {} (h.record r).rc k).marked := by
  unfold Hub.record
  split_ifs
  · rw [irqAll_frame]
    exact m
  · exact m
  · exact m
  · exact rcAdd_marked (h := { h with er := h.er.coalesce h.now r }) (by decide) (Nat.le_refl 1) m
  · exact m
  · exact rcAdd_marked (h := { h with er := h.er.coalesce h.now r }) (by decide) (Nat.le_refl 1) m

/-! ## The sampler (R230 to R232) -/

/-- Stations that still hold a capture count an overrun (R231). -/
def Hub.overruns (h : Hub) (l : List Nat) : Hub := l.foldl (fun h s => h.rcAdd (pchOff s 0x24) 0 0 255 1) h

theorem overruns_frame (h : Hub) (l : List Nat) : h.overruns l = { h with rc := (h.overruns l).rc } := by
  induction l generalizing h with
  | nil => rfl
  | cons x l ih =>
    refine (ih (h.rcAdd (pchOff x 0x24) 0 0 255 1)).trans ?_
    conv_lhs => rw [rcAdd_frame h]
    rfl

/-- The counts of overruns follow from the fields before. -/
theorem overruns_congr {g h : Hub} (e : g.rc = h.rc) (l : List Nat) : (g.overruns l).rc = (h.overruns l).rc := by
  induction l generalizing g h with
  | nil => exact e
  | cons x l ih =>
    refine ih (g := g.rcAdd (pchOff x 0x24) 0 0 255 1) (h := h.rcAdd (pchOff x 0x24) 0 0 255 1) ?_
    simp only [Hub.rcAdd, Nat.one_ne_zero, if_false, e]

theorem overruns_keeps {h : Hub} {l : List Nat} {k : Nat} (m : (SMap.get {} h.rc k).marked) : (SMap.get {} (h.overruns l).rc k).marked := by
  induction l generalizing h with
  | nil => exact m
  | cons x l ih => exact ih (rcAdd_marked (by decide) (Nat.le_refl 1) m)

theorem overruns_marked {h : Hub} {l : List Nat} {x : Nat} (member : x ∈ l) : (SMap.get {} (h.overruns l).rc (rcKey (pchOff x 0x24) 0 0)).marked := by
  induction l generalizing h with
  | nil => cases member
  | cons y l ih =>
    obtain rfl | later := List.mem_cons.mp member
    · exact overruns_keeps (h := h.rcAdd (pchOff x 0x24) 0 0 255 1) (rcAdd_marked_self (by decide) (Nat.le_refl 1))
    · exact ih later

/-- Each of the first `n` keys that `p` names counts one more. -/
theorem get_foldl_upd (p : Nat → Bool) (f : Nat → Nat) (m : SMap Nat) (n j : Nat) :
    SMap.get 0 ((List.range n).foldl (fun m k => if p k then SMap.upd 0 m k f else m) m) j =
      if j < n ∧ p j = true then f (SMap.get 0 m j) else SMap.get 0 m j := by
  induction n with
  | zero => simp
  | succ n ih =>
    rw [List.range_succ, List.foldl_append, List.foldl_cons, List.foldl_nil]
    by_cases here : j = n
    · subst here
      cases on : p j with
      | true => simp [SMap.get_upd_self, ih, on]
      | false => simp [ih, on]
    · have range : j < n + 1 ↔ j < n := by omega
      simp only [range]
      rw [← ih]
      split
      · exact SMap.get_upd_ne _ _ _ here
      · rfl

/-- The capture of stations `stns`, of which `l` count an overrun. -/
def Hub.captureOf (h : Hub) (stns : List Nat) : Hub :=
  { h with cnt := { h.cnt with
    cur := some (h.now, stns), recs := stns.flatMap fun x => (stnUnits x).map h.capture, busy := h.cnt.busy ++ stns,
    owners := (List.range 64).filter fun k => allUnits.any fun u => h.unitSlice u == k, capCycle := h.clk.cycle + 1 } }

/-- The sampler's next sample is due a period later. -/
def Hub.sampleLater (h : Hub) : Hub := { h with cnt := { h.cnt with next := h.cnt.next + h.cntPeriod } }

/-- The enabled rings count one more sample that was skipped (R232). -/
def Hub.skipAll (h : Hub) : Hub :=
  { h with cnt := { h.cnt with
    skipped := (List.range 64).foldl (fun m k => if (SMap.get ({} : Ring) h.cnt.ring k).on then SMap.upd 0 m k (satAdd 65535 1) else m) h.cnt.skipped } }

section Sampler

variable {h : Hub} (on : h.cntOn = true) (started : h.clk.started = true) (due : h.cnt.next ≤ h.now)
include on started due

theorem sampleTick_due :
    h.sampleTick = if h.cnt.cur.isSome || !h.nocUp then ((h.sampleLater.rcAdd 0x70004 0 16 65535 1).irqRaise 10).skipAll
      else (h.sampleLater.overruns ((allStations.filter h.observed).filter h.cnt.busy.contains)).captureOf
        ((allStations.filter h.observed).filter fun x => !h.cnt.busy.contains x) := by
  have early : ¬ h.now < h.cnt.next := Nat.not_lt.mpr due
  unfold Hub.sampleTick
  rw [if_neg (by simp [on, started, early])]
  generalize allStations = all
  rfl

theorem sampleTick_captures {all stns : List Nat} (all_ : all = allStations.filter h.observed) (stns_ : stns = all.filter fun x => !h.cnt.busy.contains x)
    (idle : h.cnt.cur = none) (noc : h.nocUp = true) :
    h.sampleTick = { h.sampleLater.captureOf stns with rc := (h.overruns (all.filter h.cnt.busy.contains)).rc } := by
  rw [sampleTick_due on started due, if_neg (by simp [idle, noc]), overruns_frame, overruns_congr (g := h.sampleLater) (h := h) rfl, stns_, all_]
  generalize allStations = all
  rfl

theorem sampleTick_skips (held : h.cnt.cur ≠ none ∨ h.nocUp = false) :
    h.sampleTick = ((h.sampleLater.rcAdd 0x70004 0 16 65535 1).irqRaise 10).skipAll := by
  have holds : (h.cnt.cur.isSome || !h.nocUp) = true := by
    rcases held with waits | down
    · simp [Option.isSome_iff_ne_none.mpr waits]
    · simp [down]
  rw [sampleTick_due on started due, if_pos holds]

end Sampler

section Captures

variable {h : Hub} {st x : Nat} {l : List Nat} (cur : h.cnt.cur = some (x, l)) (waits : l.contains st = true)
include cur waits

/-- A station is ready for its next capture. -/
def Hub.stationFree (h : Hub) (st : Nat) : Hub := { h with cnt := { h.cnt with busy := h.cnt.busy.filter (· != st) } }

/-- The sampler after the last frame of a sample. -/
def Hub.sampleOver (h : Hub) : Hub :=
  { h with cnt := { h.cnt with cur := none, recs := [], owners := [], seq := h.cnt.count, count := (h.cnt.count + 1) % 2 ^ 32 } }

theorem captureArrive_waits (more : l.filter (· != st) ≠ []) :
    h.captureArrive st = { h with cnt := { h.cnt with cur := some (x, l.filter (· != st)), busy := h.cnt.busy.filter (· != st) } } := by
  have some_ : (!(l.filter (· != st)).isEmpty) = true := by simpa [List.isEmpty_iff] using more
  unfold Hub.captureArrive Hub.captureTake
  simp only [cur, waits, some_, Bool.not_true, Bool.false_eq_true, if_false, if_true]

theorem captureArrive_last (last : l.filter (· != st) = []) :
    h.captureArrive st = (h.cnt.owners.foldl (fun h k => h.sampleFrame x k) (h.stationFree st)).sampleOver := by
  have none_ : (!(l.filter (· != st)).isEmpty) = false := by rw [last]; rfl
  unfold Hub.captureArrive Hub.captureTake Hub.stationFree
  split
  · next no => exact absurd (no.symm.trans cur) nofun
  · next y m is =>
    obtain ⟨rfl, rfl⟩ := Prod.mk.inj (Option.some.inj (is.symm.trans cur))
    rw [if_neg (by rw [waits]; nofun)]
    dsimp only
    rw [if_neg (by rw [none_]; nofun)]
    rfl

end Captures

section Frames

variable {h : Hub} {k : Nat}

theorem sealWrite_none (noSeals : h.cnt.seals = []) : h.sealWrite k = h := by
  unfold Hub.sealWrite
  rw [noSeals]
  rfl

theorem sampleFrame_off (x : Nat) (noSeals : h.cnt.seals = []) (off : (SMap.get ({} : Ring) h.cnt.ring k).on = false) : h.sampleFrame x k = h := by
  unfold Hub.sampleFrame
  simp only [sealWrite_none noSeals, cntPut_off off, noSeals, List.any_nil, Bool.false_eq_true, if_false]

/-- The bytes of slice `k`'s frame of the sample of tick `x`, at a ring position. -/
def Hub.sampleBytes (h : Hub) (x k : Nat) (recs : List URec) (pos : Nat) : List Byte :=
  frameHeader k 0 0 pos x h.cnt.count (40 + 64 * recs.length) recs.length (SMap.get 0 h.cnt.skipped k) ++ recs.flatMap URec.bytes

theorem sampleFrame_takes {x : Nat} {recs : List URec} (noSeals : h.cnt.seals = []) (recs_ : recs = h.cnt.recs.filter (·.slice == k))
    (settled : ∀ r ∈ recs, r.joined = 0) (takes : takesFrame h k (40 + 64 * recs.length)) :
    h.sampleFrame x k =
      { h.ringTook k (40 + 64 * recs.length) (h.sampleBytes x k recs ((SMap.get ({} : Ring) h.cnt.ring k).place (40 + 64 * recs.length))) with
        cnt := { (h.ringTook k (40 + 64 * recs.length) []).cnt with skipped := SMap.set 0 h.cnt.skipped k 0 } } := by
  have noJoin : ∀ (l : List URec) (g : Hub), (∀ r ∈ l, r.joined = 0) →
      l.foldl (fun h r => if r.joined ≠ 0 ∧ (h.getGrain r.unit).joined = r.joined then h.updGrain r.unit fun g => { g with joined := 0 } else h) g = g := by
    intro l g zero
    induction l with
    | nil => rfl
    | cons r l ih =>
      rw [List.foldl_cons, if_neg (by simp [zero r List.mem_cons_self])]
      exact ih fun r member => zero r (List.mem_cons_of_mem _ member)
  subst recs_
  unfold Hub.sampleFrame
  simp only [sealWrite_none noSeals, noSeals, List.any_nil, Bool.false_eq_true, if_false]
  rw [cntPut_takes takes]
  exact noJoin _ _ settled

end Frames

/-! ## Seal frames (R237, R238) -/

section Seals

variable {h : Hub} {x : Seal} {q : List Seal} (seals : h.cnt.seals = x :: q)
include seals

/-- The hub without its oldest seal. -/
def Hub.sealsRest (h : Hub) (q : List Seal) : Hub := { h with cnt := { h.cnt with seals := q } }

theorem sealWrite_first :
    h.sealWrite x.slice = match h.cntPut x.slice (sealLen x) (sealBytes x) with
      | (.full, h) => h
      | (_, h) => h.sealsRest (eraseAt h.cnt.seals 0) := by
  have first : firstIdx (·.slice == x.slice) h.cnt.seals = some 0 := by simp [seals, firstIdx]
  have frame : (fun pos =>
      if x.slice = 0 then frameHeader x.slice 1 (b2n (decide (x.slice ≠ 0))) pos x.b x.seq (sealLen x) x.recs.length 0 ++ x.recs.flatMap URec.bytes
      else frameHeader x.slice 1 (b2n (decide (x.slice ≠ 0))) pos x.b x.seq (sealLen x) x.recs.length 0 ++ x.recs.flatMap URec.bytes ++
        padTo 16 (Config.aesGcm x.key (leBytes 4 x.seq ++ leBytes 8 x.b)
          (frameHeader x.slice 1 (b2n (decide (x.slice ≠ 0))) pos x.b x.seq (sealLen x) x.recs.length 0 ++ x.recs.flatMap URec.bytes) [])) = sealBytes x := by
    funext pos
    unfold sealBytes sealPlain
    by_cases zero : x.slice = 0 <;> simp [zero, b2n]
  rw [← frame]
  unfold Hub.sealWrite
  rw [first, seals]
  rfl

theorem sealWrite_takes (takes : takesFrame h x.slice (sealLen x)) :
    h.sealWrite x.slice =
      (h.ringTook x.slice (sealLen x) (sealBytes x ((SMap.get ({} : Ring) h.cnt.ring x.slice).place (sealLen x)))).sealsRest q := by
  rw [sealWrite_first seals, cntPut_takes takes]
  unfold Hub.ringTook
  simp only [seals]
  rfl

theorem sealWrite_off (off : (SMap.get ({} : Ring) h.cnt.ring x.slice).on = false) : h.sealWrite x.slice = h.sealsRest q := by
  rw [sealWrite_first seals, cntPut_off off]
  simp only [seals]
  rfl

theorem sealTimeout_late (late : x.b + 4095 ≤ h.now) :
    h.sealTimeout x.slice = ((h.sealsRest q).rcFlag (0x7101C + 0x20 * x.slice) 31 10).record
      { cls := 7, code := 0x0709, tick := h.now, slice := x.slice, arg := x.b } := by
  have first : firstIdx (fun y => y.slice == x.slice && decide (y.b + 4095 ≤ h.now)) h.cnt.seals = some 0 := by simp [seals, firstIdx, late]
  unfold Hub.sealTimeout
  rw [first]
  dsimp only
  rw [rcFlag_frame, seals]
  conv_rhs => rw [rcFlag_frame]
  rfl

end Seals

/-- Settles O12: each step of the sampler by its equation, the frames by the extent that their ring takes. -/
theorem samples : Obligations.Samples := by
  unfold Obligations.Samples
  refine ⟨fun s live => ⟨fun on started due idle noc => ?_, fun on started due held => ?_⟩,
    fun s st x l live cur waits => ⟨fun more => ?_, fun last noSeals off => ?_, fun k recs len last noSeals owner recs_ settled len_ takes => ?_⟩,
    fun s x q live seals => ⟨fun takes => ?_, fun off => ?_, fun late => ?_⟩⟩
  · refine yields_of_eq rfl live (fun t => sampleTick_captures (h := s.hub.placed t) on started due rfl rfl idle noc) fun t => ?_
    generalize allStations = all
    refine ⟨fun x member obs busy => ?_, fun empty => ?_, rfl⟩
    · exact (overruns_marked (h := s.hub.placed t) (List.mem_filter.mpr ⟨List.mem_filter.mpr ⟨member, obs⟩, busy⟩)).one_le_sum
    · have none_ : (all.filter s.hub.observed).filter s.hub.cnt.busy.contains = [] := by simp [empty]
      exact congrArg (fun l => ((s.hub.placed t).overruns l).rc) none_
  · refine yields_of_eq rfl live (fun t => sampleTick_skips (h := s.hub.placed t) on started due held) fun t => ⟨fun k => ?_, rfl⟩
    refine (get_foldl_upd (fun k => (SMap.get ({} : Ring) s.hub.cnt.ring k).on) (satAdd 65535 1) s.hub.cnt.skipped 64 k).trans ?_
    rw [satAdd, satAdd, Nat.add_comm]
  · exact yields_of_eq rfl live (fun t => captureArrive_waits (h := s.hub.placed t) cur waits more) fun t => rfl
  · refine yields_of_eq rfl live (fun t => captureArrive_last (h := s.hub.placed t) cur waits last) fun t => ?_
    have idle : ∀ (l : List Nat) (g : Hub), g.cnt.seals = [] → (∀ k ∈ l, (SMap.get ({} : Ring) g.cnt.ring k).on = false) →
        l.foldl (fun h k => h.sampleFrame x k) g = g := fun l g none_ off => by
      induction l with
      | nil => rfl
      | cons k l ih =>
        rw [List.foldl_cons, sampleFrame_off x none_ (off k List.mem_cons_self)]
        exact ih fun j member => off j (List.mem_cons_of_mem _ member)
    rw [idle (s.hub.placed t).cnt.owners ((s.hub.placed t).stationFree st) noSeals off]
    rfl
  · refine yields_of_eq rfl live (fun t => captureArrive_last (h := s.hub.placed t) cur waits last) fun t => ?_
    subst len_
    rw [show (s.hub.placed t).cnt.owners = [k] from owner, List.foldl_cons, List.foldl_nil,
      sampleFrame_takes (h := (s.hub.placed t).stationFree st) noSeals recs_ settled takes]
    obtain ⟨-, -, -, fits, hbm⟩ := takes
    refine ⟨framed_writes s.mem _ _ (by omega) fits hbm, ringMoved_set _ _ _, fun j => ?_, rfl⟩
    by_cases same : j = k
    · rw [if_pos same, same]
      exact SMap.get_set_self 0 s.hub.cnt.skipped k 0
    · rw [if_neg same]
      exact SMap.get_set_ne 0 s.hub.cnt.skipped 0 same
  · refine yields_of_eq rfl live (fun t => sealWrite_takes (h := s.hub.placed t) seals takes) fun t => ?_
    obtain ⟨-, -, -, fits, hbm⟩ := takes
    exact ⟨framed_writes s.mem _ _ (by unfold sealLen; omega) fits hbm, ringMoved_set _ _ _, rfl⟩
  · exact yields_of_eq rfl live (fun t => sealWrite_off (h := s.hub.placed t) seals off) fun t => rfl
  · refine yields_of_eq rfl live (fun t => sealTimeout_late (h := s.hub.placed t) seals late) fun t => ⟨?_, fun room => ?_, ?_⟩
    · exact (record_marked _ rcFlag_marked).one_le_sum
    · have kept : (((s.hub.placed t).sealsRest q).rcFlag (0x7101C + 0x20 * x.slice) 31 10).er = s.hub.er := by rw [rcFlag_frame]; rfl
      refine (congrArg (fun h : Hub => h.er.sysq) (record_sysq (((s.hub.placed t).sealsRest q).rcFlag (0x7101C + 0x20 * x.slice) 31 10)
        { cls := 7, code := 0x0709, tick := s.hub.now, slice := x.slice, arg := x.b } rfl ?_ rfl (by rwa [kept]))).trans ?_
      · exact (by decide : 7 ≠ 8)
      · dsimp only
        rw [kept]
    · rw [rcFlag_frame, record_frame]
      rfl

end Sys2Proof.Machine
end

section
/-!
The attribution table (R241): an update flit at its entry or at its slice's bucket; and what leaves the table (R243, R244): exports and final records.
-/
namespace Sys2Proof.Machine

section Update

variable {h : Hub} {c : Charge} {q : List Charge} (flits : h.cnt.flits = c :: q)

/-- The entry of a flit's context and tag. -/
abbrev Hub.attEntry (h : Hub) (c : Charge) : AttEntry := SMap.get {} h.cnt.att (attKey c.context c.tag)

/-- An entry that takes a flit. -/
def Charge.join (c : Charge) (e : AttEntry) : AttEntry := { e with slice := c.slice, f := (addFields e.f c.f).map (· % 2 ^ 48), changed := true }

/-- A bucket that takes a flit. -/
def Charge.spill (c : Charge) (b : AttEntry) : AttEntry := { c.join b with overflow := satAdd (2 ^ 32 - 1) b.overflow 1 }

/-- The oldest update flit joins its entry. -/
def Hub.attJoin (h : Hub) (c : Charge) (q : List Charge) : Hub :=
  { h with cnt := { h.cnt with flits := q, att := SMap.upd {} h.cnt.att (attKey c.context c.tag) c.join } }

/-- The oldest update flit joins the bucket of its slice. -/
def Hub.attSpill (h : Hub) (c : Charge) (q : List Charge) : Hub :=
  { h with cnt := { h.cnt with flits := q, bucket := SMap.upd {} h.cnt.bucket c.slice c.spill } }

theorem get_attJoin_ne (h : Hub) (c : Charge) (q : List Charge) {k : Nat} (other : k ≠ attKey c.context c.tag) :
    SMap.get {} (h.attJoin c q).cnt.att k = SMap.get {} h.cnt.att k := SMap.get_upd_ne {} h.cnt.att c.join other

theorem get_attSpill_ne (h : Hub) (c : Charge) (q : List Charge) {k : Nat} (other : k ≠ c.slice) :
    SMap.get {} (h.attSpill c q).cnt.bucket k = SMap.get {} h.cnt.bucket k := SMap.get_upd_ne {} h.cnt.bucket c.spill other

include flits

theorem attUpdate_joins (sound : (h.attEntry c).bad = false)
    (takes : h.attEntry c ≠ {} ∨ (h.cnt.att.length < 262144 ∧ h.attUsed c.slice < h.attQuota c.slice)) : h.attUpdate = h.attJoin c q := by
  unfold Hub.attUpdate
  rw [flits]
  dsimp only
  by_cases empty : h.attEntry c = {}
  · obtain ⟨free, quota⟩ := takes.resolve_left (not_not.mpr empty)
    have full : ¬ ((SMap.get ({} : AttEntry) h.cnt.att (attKey c.context c.tag)).bad = true ∨ 262144 ≤ h.cnt.att.length ∨
        h.attQuota c.slice ≤ h.attUsed c.slice) := by
      rintro (bad | many | spent)
      · exact absurd (bad.symm.trans sound) nofun
      · omega
      · omega
    exact (if_neg fun both => both.1 empty).trans (if_neg full)
  · exact if_pos ⟨empty, by rw [sound]; rfl⟩

theorem attUpdate_spills
    (full : (h.attEntry c).bad = true ∨ (h.attEntry c = {} ∧ (262144 ≤ h.cnt.att.length ∨ h.attQuota c.slice ≤ h.attUsed c.slice))) :
    h.attUpdate = if (SMap.get ({} : AttEntry) h.cnt.bucket c.slice).overflow = 0 then
        (h.attSpill c q).record { cls := 7, code := 0x070A, tick := h.now, slice := c.slice, arg := c.context + c.tag * 2 ^ 32 }
      else h.attSpill c q := by
  have misses : ¬ (h.attEntry c ≠ {} ∧ (!(h.attEntry c).bad) = true) := by
    rintro ⟨some_, sound⟩
    rcases full with bad | ⟨empty, -⟩
    · rw [bad] at sound
      cases sound
    · exact some_ empty
  have spills : (h.attEntry c).bad = true ∨ 262144 ≤ h.cnt.att.length ∨ h.attQuota c.slice ≤ h.attUsed c.slice := full.imp_right And.right
  unfold Hub.attUpdate
  rw [flits]
  dsimp only
  refine ((if_neg misses).trans (if_pos spills)).trans ?_
  rw [← Nat.shiftLeft_eq]
  by_cases first : (SMap.get ({} : AttEntry) h.cnt.bucket c.slice).overflow = 0
  · rw [if_pos first, if_pos (by rw [first]; rfl)]
    rfl
  · rw [if_neg first, if_neg (by simpa using first)]
    rfl

end Update

/-! ## Attribution frames -/

theorem chunksOf_one {α : Type} {n : Nat} {l : List α} (some_ : l ≠ []) (fits : l.length ≤ n) : chunksOf n (l.length + 1) l = [l] := by
  obtain ⟨x, l, rfl⟩ := List.exists_cons_of_ne_nil some_
  have whole : (x :: l).drop n = [] := List.drop_eq_nil_of_le fits
  rw [chunksOf, if_neg (by simp), List.take_of_length_le fits, whole]
  simp [chunksOf]

theorem attFrames_none (h : Hub) (k : Nat) : h.attFrames k [] = ([], h) := rfl

/-- Records that fit into one frame whose ring has room are written. -/
theorem attFrames_one {h : Hub} {k : Nat} {recs : List (Nat × List Byte)} (some_ : recs ≠ []) (fits : recs.length ≤ 4096)
    (takes : takesFrame h k (40 + 48 * recs.length)) :
    h.attFrames k recs = ([], h.ringTook k (40 + 48 * recs.length)
      (frameHeader k 2 0 ((SMap.get ({} : Ring) h.cnt.ring k).place (40 + 48 * recs.length)) h.now h.cnt.seq (40 + 48 * recs.length) recs.length 0 ++
        recs.flatMap (·.2))) := by
  unfold Hub.attFrames
  rw [show attPerFrame = 4096 from rfl, chunksOf_one some_ fits]
  dsimp only [List.zipIdx, List.foldl_cons, List.foldl_nil, List.length_singleton]
  rw [cntPut_takes takes]
  rfl

/-- The frame of the records of `es` at the next place of ring `k`. -/
def Hub.attFrame (h : Hub) (k final : Nat) (es : List (Nat × AttEntry)) : List Byte :=
  frameHeader k 2 0 ((SMap.get ({} : Ring) h.cnt.ring k).place (40 + 48 * es.length)) h.now h.cnt.seq (40 + 48 * es.length) es.length 0 ++ attRecords final es

theorem attFrames_entries {h : Hub} {k final : Nat} {es : List (Nat × AttEntry)} {key : Nat × AttEntry → Nat}
    (keys : ∀ e ∈ es, key e = e.1 / 2 ^ 32 + final) (some_ : es ≠ []) (fits : es.length ≤ 4096) (takes : takesFrame h k (40 + 48 * es.length)) :
    h.attFrames k (es.map fun e => (e.1, attRecord (key e) (e.1 % 2 ^ 32) e.2.out 0)) =
      ([], h.ringTook k (40 + 48 * es.length) (h.attFrame k final es)) := by
  have records : es.flatMap (fun e => attRecord (key e) (e.1 % 2 ^ 32) e.2.out 0) = attRecords final es :=
    List.flatMap_congr fun e member => by rw [keys e member]
  have frames := attFrames_one (h := h) (k := k) (recs := es.map fun e => (e.1, attRecord (key e) (e.1 % 2 ^ 32) e.2.out 0)) (by simpa using some_)
    (by simpa using fits) (by simpa using takes)
  rw [List.length_map, List.flatMap_map, records] at frames
  exact frames

/-! ## Exports (R243) -/

/-- An entry or bucket as it is once exported. -/
def AttEntry.settled (e : AttEntry) : AttEntry := { e with changed := false }

theorem AttEntry.settled_eq {e : AttEntry} (idle : e.changed = false) : e.settled = e := by
  cases e
  cases idle
  rfl

/-- The entries of a slice that have changed since it was last exported. -/
abbrev Hub.attChanged (h : Hub) (j : Nat) : List (Nat × AttEntry) := h.cnt.att.filter fun e => e.2.slice == j && e.2.changed

theorem get_upd_settled {m : SMap AttEntry} {j : Nat} (idle : (SMap.get {} m j).changed = false) (i : Nat) :
    SMap.get {} (SMap.upd {} m j AttEntry.settled) i = SMap.get {} m i := by
  by_cases same : i = j
  · subst same
    rw [SMap.get_upd_self]
    exact AttEntry.settled_eq idle
  · exact SMap.get_upd_ne _ _ _ same

/-- The hub after the exported frames of slice `j`, all of them written. -/
def Hub.exported (h : Hub) (j : Nat) : Hub :=
  { h with cnt := { h.cnt with
    att := h.cnt.att.map fun e => if e.2.slice = j then (e.1, e.2.settled) else e,
    bucket := SMap.upd {} h.cnt.bucket j AttEntry.settled } }

/-- Slice `j` is exported: its bucket has not changed and its frames are all written. -/
theorem attExport_written {h g : Hub} {j : Nat} {es : List (Nat × AttEntry)} (es_ : h.attChanged j = es)
    (idle : (SMap.get ({} : AttEntry) h.cnt.bucket j).changed = false)
    (frames : h.attFrames j (es.map fun e => (e.1, attRecord (e.1 / 2 ^ 32) (e.1 % 2 ^ 32) e.2.out 0)) = ([], g)) : h.attExport j = g.exported j := by
  subst es_
  unfold Hub.attExport
  dsimp only
  rw [idle, if_neg Bool.false_ne_true, List.append_nil, frames]
  simp only [ite_self, List.contains_nil, Bool.not_false, and_true, Bool.false_eq_true, if_false]
  rfl

/-- Entries that have not changed are settled already. -/
theorem settle_idle {att : List (Nat × AttEntry)} {j : Nat} (idle : ∀ e ∈ att, e.2.slice = j → e.2.changed = false) :
    att.map (fun e => if e.2.slice = j then (e.1, e.2.settled) else e) = att := by
  refine (List.map_congr_left fun e member => ?_).trans (List.map_id att)
  split
  · next here => rw [AttEntry.settled_eq (idle e member here)]; rfl
  · rfl

/-- Exports of slices in which nothing has changed write nothing. -/
theorem attExports_idle (l : List Nat) (h : Hub) (noEntry : ∀ e ∈ h.cnt.att, e.2.slice ∈ l → e.2.changed = false)
    (noBucket : ∀ j, (SMap.get ({} : AttEntry) h.cnt.bucket j).changed = false) :
    ∃ b, (∀ j, SMap.get {} b j = SMap.get {} h.cnt.bucket j) ∧
      l.foldl (fun h j => h.attExport j) h = { h with cnt := { h.cnt with bucket := b } } := by
  induction l generalizing h with
  | nil => exact ⟨h.cnt.bucket, fun _ => rfl, rfl⟩
  | cons j l ih =>
    have unchanged : h.attChanged j = [] := by
      rw [List.filter_eq_nil_iff]
      intro e member both
      obtain ⟨here, changed⟩ := Bool.and_eq_true_iff.mp both
      exact absurd (changed.symm.trans (noEntry e member (beq_iff_eq.mp here ▸ List.mem_cons_self))) nofun
    have first : h.attExport j = { h with cnt := { h.cnt with bucket := SMap.upd {} h.cnt.bucket j AttEntry.settled } } := by
      rw [attExport_written unchanged (noBucket j) (attFrames_none h j), Hub.exported,
        settle_idle fun e member here => noEntry e member (here ▸ List.mem_cons_self)]
    have same := get_upd_settled (noBucket j)
    obtain ⟨b, reads, rest⟩ := ih { h with cnt := { h.cnt with bucket := SMap.upd {} h.cnt.bucket j AttEntry.settled } }
      (fun e member inside => noEntry e member (List.mem_cons_of_mem _ inside)) (fun i => (congrArg AttEntry.changed (same i)).trans (noBucket i))
    refine ⟨b, fun i => (reads i).trans (same i), ?_⟩
    rw [List.foldl_cons, first, rest]

section Tick

variable {h : Hub}

/-- Entries are exported next at tick `n`. -/
def Hub.exportNext (h : Hub) (n : Nat) : Hub := { h with cnt := { h.cnt with attNext := n } }

theorem attExportTick_due {n : Nat} (on : bit (h.act 0x3E8 0x72000) 31 = true) (started : h.clk.started = true) (due : h.cnt.attNext ≤ h.now)
    (next : n = h.cnt.attNext + h.act 0x3E8 0x72000 % 65536 * 1000000) :
    h.attExportTick = (List.range 64).foldl (fun h j => h.attExport j) (h.exportNext n) := by
  have early : ¬ h.now < h.cnt.attNext := Nat.not_lt.mpr due
  rw [next]
  unfold Hub.attExportTick
  rw [if_neg (by simp [on, started, early])]
  rfl

variable {k : Nat} {es : List (Nat × AttEntry)} (low : k < 64) (es_ : es = h.cnt.att.filter (·.2.changed)) (some_ : es ≠ []) (fits : es.length ≤ 4096)
  (here : ∀ e ∈ es, e.2.slice = k) (noBucket : ∀ j, (SMap.get ({} : AttEntry) h.cnt.bucket j).changed = false)
  (takes : takesFrame h k (40 + 48 * es.length))
include low es_ some_ fits here noBucket takes

/-- The changed entries of one slice leave in one frame. -/
theorem attExports_one :
    ∃ b, (∀ j, SMap.get {} b j = SMap.get {} h.cnt.bucket j) ∧
      (List.range 64).foldl (fun h j => h.attExport j) h =
        { h.ringTook k (40 + 48 * es.length) (h.attFrame k 0 es) with
          cnt := { (h.ringTook k (40 + 48 * es.length) []).cnt with bucket := b, att := h.cnt.att.map fun e => (e.1, e.2.settled) } } := by
  obtain ⟨before, after, whole⟩ := List.append_of_mem (List.mem_range.mpr low)
  have once : (before ++ k :: after).Nodup := whole ▸ List.nodup_range
  have changedHere : ∀ e ∈ h.cnt.att, e.2.slice ≠ k → e.2.changed = false := fun e member other => by
    by_contra changed
    exact other (here e (es_ ▸ List.mem_filter.mpr ⟨member, by simpa using changed⟩))
  have notBefore : k ∉ before := fun member => (List.nodup_append.mp once).2.2 k member k List.mem_cons_self rfl
  have notAfter : k ∉ after := (List.nodup_cons.mp (List.nodup_append.mp once).2.1).1
  obtain ⟨b, reads, first⟩ := attExports_idle before h (fun e member inside => changedHere e member fun same => notBefore (same ▸ inside)) noBucket
  have changed : ({ h with cnt := { h.cnt with bucket := b } } : Hub).attChanged k = es := by
    rw [es_]
    refine List.filter_congr fun e member => ?_
    by_cases same : e.2.slice = k
    · simp [same]
    · simp [changedHere e member same]
  have written := attExport_written changed ((congrArg AttEntry.changed (reads k)).trans (noBucket k))
    (attFrames_entries (key := fun e => e.1 / 2 ^ 32) (final := 0) (fun _ _ => rfl) some_ fits takes)
  have settled : h.cnt.att.map (fun e => if e.2.slice = k then (e.1, e.2.settled) else e) = h.cnt.att.map fun e => (e.1, e.2.settled) := by
    refine List.map_congr_left fun e member => ?_
    split
    · rfl
    · next other => rw [AttEntry.settled_eq (changedHere e member other)]
  have still := get_upd_settled ((congrArg AttEntry.changed (reads k)).trans (noBucket k))
  have allSettled : ∀ e ∈ h.cnt.att.map (fun e => if e.2.slice = k then (e.1, e.2.settled) else e), e.2.slice ∈ after → e.2.changed = false := by
    rw [settled]
    intro e member _
    obtain ⟨x, -, rfl⟩ := List.mem_map.mp member
    rfl
  obtain ⟨b', reads', rest⟩ := attExports_idle after
    (Hub.exported (Hub.ringTook { h with cnt := { h.cnt with bucket := b } } k (40 + 48 * es.length) (h.attFrame k 0 es)) k)
    allSettled (fun i => (congrArg AttEntry.changed ((still i).trans (reads i))).trans (noBucket i))
  refine ⟨b', fun i => (reads' i).trans ((still i).trans (reads i)), ?_⟩
  rw [whole, List.foldl_append, List.foldl_cons, first, written]
  refine rest.trans ?_
  rw [Hub.exported, Hub.ringTook, settled]
  rfl

end Tick

/-! ## Final records (R244) -/

section Finals

variable {h : Hub} {c : Nat}

/-- A destroyed context is done with. -/
def Hub.finalsOver (h : Hub) (c : Nat) : Hub := h.updCtx c fun x => { x with finals := false }

/-- The table without the entries of context `c`. -/
def Hub.attWithout (h : Hub) (c : Nat) : Hub := { h with cnt := { h.cnt with att := h.cnt.att.filter fun e => e.1 / 2 ^ 32 != c } }

theorem getCtx_finalsOver (h : Hub) (c : Nat) :
    (h.finalsOver c).getCtx c = Ctx.mark (h.clk.cycle + 1) (h.getCtx c) { h.getCtx c with finals := false } := Hub.getCtx_updCtx h c _

theorem getCtx_finalsOver_ne (h : Hub) {c d : Nat} (other : d ≠ c) : (h.finalsOver c).getCtx d = h.getCtx d := Hub.getCtx_updCtx_ne h _ other

/-- A context whose final records are all written. -/
theorem finalRecords_written {es : List (Nat × AttEntry)} {g : Hub} (finals : (h.getCtx c).finals = true)
    (es_ : es = h.cnt.att.filter fun e => e.1 / 2 ^ 32 == c)
    (frames : h.attFrames (h.getCtx c).slice (es.map fun e => (e.1, attRecord (c + 2 ^ 19) (e.1 % 2 ^ 32) e.2.out 0)) = ([], g)) :
    h.finalRecords c = (g.attWithout c).finalsOver c := by
  subst es_
  unfold Hub.finalRecords
  rw [if_neg (by rw [finals]; nofun)]
  dsimp only
  rw [frames]
  have kept : ∀ (l : List (Nat × AttEntry)) (s : Nat),
      l.foldl (fun h e => if (([] : List Nat).contains e.1 && !e.2.bad) = true then h.bucketAdd s e.2.f 0 else h) g = g := fun l s => by
    induction l with
    | nil => rfl
    | cons e l ih => exact ih
  dsimp only
  rw [kept]
  rfl

theorem finalRecords_none (finals : (h.getCtx c).finals = true) (none_ : h.cnt.att.any (fun e => e.1 / 2 ^ 32 == c) = false) :
    h.finalRecords c = h.finalsOver c := by
  have all_ : h.cnt.att.filter (fun e => e.1 / 2 ^ 32 != c) = h.cnt.att :=
    List.filter_eq_self.mpr fun e member => by simpa using List.any_eq_false.mp none_ e member
  have empty : h.cnt.att.filter (fun e => e.1 / 2 ^ 32 == c) = [] := List.filter_eq_nil_iff.mpr (List.any_eq_false.mp none_)
  rw [finalRecords_written (g := h) (es := []) finals empty.symm (attFrames_none h _), Hub.attWithout, all_]

end Finals

/-- Settles O13: the flit by the place that takes it, exports and final records by the one frame that carries them. -/
theorem attribution : Obligations.Attribution := by
  unfold Obligations.Attribution
  refine ⟨fun s c q live flits => ⟨fun sound takes => ?_, fun full => ?_⟩,
    fun s live => ⟨fun on started due noEntry noBucket => ?_, fun k es on started due low es_ some_ fits here noBucket takes => ?_,
      fun c finals none_ => ?_, fun c k es finals k_ low es_ some_ fits takes => ?_⟩⟩
  · exact yields_of_eq rfl live (fun t => attUpdate_joins (h := s.hub.placed t) flits sound takes) fun t =>
      ⟨SMap.get_upd_self {} s.hub.cnt.att _ c.join, fun k other => get_attJoin_ne (s.hub.placed t) c q other, rfl⟩
  · refine yields_of_eq rfl live (fun t => attUpdate_spills (h := s.hub.placed t) flits full) fun t => ?_
    have self := SMap.get_upd_self {} s.hub.cnt.bucket c.slice c.spill
    have others : ∀ k, k ≠ c.slice → SMap.get {} ((s.hub.placed t).attSpill c q).cnt.bucket k = SMap.get {} s.hub.cnt.bucket k :=
      fun k other => get_attSpill_ne (s.hub.placed t) c q other
    split
    · next first =>
      refine ⟨?_, ?_, fun later => absurd first later, fun _ room => ?_, ?_⟩
      · rw [record_frame]; exact self
      · rw [record_frame]; exact others
      · exact congrArg (fun h : Hub => h.er.sysq) (record_sysq ((s.hub.placed t).attSpill c q)
          { cls := 7, code := 0x070A, tick := s.hub.now, slice := c.slice, arg := c.context + c.tag * 2 ^ 32 } rfl (by exact (by decide : 7 ≠ 8)) rfl room)
      · rw [record_frame]; rfl
    · next later => exact ⟨self, others, fun _ => rfl, fun first => absurd first later, rfl⟩
  · refine yields_run rfl live fun t => ?_
    obtain ⟨n, next⟩ : ∃ n, n = s.hub.cnt.attNext + s.hub.act 0x3E8 0x72000 % 65536 * 1000000 := ⟨_, rfl⟩
    obtain ⟨b, reads, e⟩ := attExports_idle (List.range 64) ((s.hub.placed t).exportNext n)
      (fun e member _ => by simpa using List.any_eq_false.mp noEntry e member) noBucket
    rw [attExportTick_due (h := s.hub.placed t) on started due next, e, ← next]
    exact ⟨reads, rfl⟩
  · refine yields_run rfl live fun t => ?_
    obtain ⟨n, next⟩ : ∃ n, n = s.hub.cnt.attNext + s.hub.act 0x3E8 0x72000 % 65536 * 1000000 := ⟨_, rfl⟩
    obtain ⟨b, reads, e⟩ := attExports_one (h := (s.hub.placed t).exportNext n) low es_ some_ fits here noBucket takes
    rw [attExportTick_due (h := s.hub.placed t) on started due next, e, ← next]
    obtain ⟨-, -, -, room, hbm⟩ := takes
    exact ⟨framed_writes s.mem _ _ (by omega) room hbm, ringMoved_set _ _ _, reads, rfl⟩
  · exact yields_of_eq rfl live (fun t => finalRecords_none (h := s.hub.placed t) finals none_) fun t =>
      ⟨getCtx_finalsOver (s.hub.placed t) c, fun d other => getCtx_finalsOver_ne (s.hub.placed t) other, rfl⟩
  · have keys : ∀ e ∈ es, c + 2 ^ 19 = e.1 / 2 ^ 32 + 2 ^ 19 := fun e member => by
      rw [es_] at member
      rw [beq_iff_eq.mp (List.mem_filter.mp member).2]
    subst k_
    refine yields_of_eq rfl live (fun t => finalRecords_written (h := s.hub.placed t) finals es_
      (attFrames_entries (h := s.hub.placed t) (key := fun _ => c + 2 ^ 19) keys some_ fits takes)) fun t => ?_
    obtain ⟨-, -, -, room, hbm⟩ := takes
    exact ⟨framed_writes s.mem _ _ (by omega) room hbm, ringMoved_set _ _ _, getCtx_finalsOver _ c, fun d other => getCtx_finalsOver_ne _ other, rfl⟩

end Sys2Proof.Machine
end

section
/-!
The drain of a Peck (R212, R213, R215, R217): its blocks, their reservations, grants, seals and writing, and the expiry of flush content.
-/
namespace Sys2Proof.Machine

/-! ## The Peck of a station -/

section PeckRules

variable (h : Hub) (st : Nat) (f : Peck → Peck)

@[simp] theorem getStn_updPeck : (h.updPeck st f).getStn st = { h.getStn st with peck := f (h.getStn st).peck } := Hub.getStn_updStn h st _

theorem onlyStation_updPeck : onlyStation st h (h.updPeck st f) := fun _ other => Hub.getStn_updStn_ne h _ other

theorem stnTick_updPeck : (h.updPeck st f).stnTick st = h.stnTick st := by
  unfold Hub.stnTick
  rw [getStn_updPeck]
  rfl

theorem onlyStation_trans {h g k : Hub} {st : Nat} (a : onlyStation st h g) (b : onlyStation st g k) : onlyStation st h k :=
  fun x other => (b x other).trans (a x other)

/-- With no stalled group there is none to try again. -/
theorem stallRetry_quiet {h : Hub} (quiet : (h.getStn st).peck.stalled = []) :
    (h.stallRetry st).getStn st = h.getStn st ∧ onlyStation st h (h.stallRetry st) ∧ h.stallRetry st = { h with stn := (h.stallRetry st).stn } := by
  have none_ : h.stallRetry st = h.updPeck st fun q => { q with stalled := [] } := by
    unfold Hub.stallRetry
    rw [quiet]
    rfl
  rw [none_]
  refine ⟨(getStn_updPeck h st _).trans ?_, onlyStation_updPeck h st _, rfl⟩
  dsimp only
  rw [← quiet]

end PeckRules

theorem modAt_behind {α : Type} (a q : List α) (x : α) (f : α → α) : modAt (a ++ x :: q) a.length f = a ++ f x :: q := by
  induction a with
  | nil => rfl
  | cons y a ih => exact congrArg (y :: ·) ih

/-! ## Reservations, blocks and their writing -/

/-- The block at index `n` asks for its reservation. -/
def Peck.ask (p : Peck) (n : Nat) : Peck := { p with blocks := modAt p.blocks n fun b => { b with requested := true } }

/-- The block at index `n` is written. -/
def Peck.wrote (p : Peck) (n : Nat) : Peck := { p with blocks := eraseAt p.blocks n }

/-- A region's block closes over its first `n` items. -/
def Peck.close (p : Peck) (q : Nat × Bool) (n : Nat) (b : Block) : Peck :=
  { p.takeItems q n with blockSeq := (p.takeItems q n).blockSeq + 1, blocks := (p.takeItems q n).blocks ++ [b] }

section Drain

variable {h : Hub} {st : Nat}

theorem drainRequest_next {a q : List Block} {b : Block} (drains : h.drains st = true) (blocks : (h.getStn st).peck.blocks = a ++ b :: q)
    (asked : a.all (·.requested) = true) (waits : b.requested = false) (few : ((a ++ b :: q).filter (·.requested)).length < 4) :
    h.drainRequest st =
      { h.updPeck st (Peck.ask · a.length) with
        trc := { h.trc with queue := h.trc.queue ++ [(st, b.seq)] } } := by
  have some_ : (a ++ b :: q).any (fun b => !b.requested) = true := by simp [waits]
  have first : firstIdx (fun b : Block => !b.requested) (a ++ b :: q) = some a.length :=
    firstIdx_some (fun y member => by simp [List.all_eq_true.mp asked y member]) (by simp [waits])
  unfold Hub.drainRequest Hub.requestBlock
  rw [if_neg (by rw [drains]; nofun)]
  dsimp only
  rw [blocks, if_pos some_, if_neg (Nat.not_le.mpr few), first]
  dsimp only
  rw [getD_behind]
  rfl

theorem takeItems_blocks (p : Peck) (q : Nat × Bool) (n : Nat) :
    (p.takeItems q n).blocks = p.blocks ∧ (p.takeItems q n).blockSeq = p.blockSeq ∧ (p.takeItems q n).stalled = p.stalled := by
  unfold Peck.takeItems
  split
  · exact ⟨rfl, rfl, rfl⟩
  · exact ⟨rfl, rfl, rfl⟩

/-- The hub after region `q` has closed its block. -/
def Hub.closed (h : Hub) (st : Nat) (q : Nat × Bool) (b : Block) (n : Nat) : Hub :=
  (h.updPeck st fun p => p.takeItems q n).updPeck st fun p => { p with blockSeq := p.blockSeq + 1, blocks := p.blocks ++ [b] }

theorem getStn_closed (q : Nat × Bool) (b : Block) (n : Nat) :
    (h.closed st q b n).getStn st = { h.getStn st with peck := (h.getStn st).peck.close q n b } := by
  unfold Hub.closed
  rw [getStn_updPeck, getStn_updPeck]
  rfl

theorem onlyStation_closed (q : Nat × Bool) (b : Block) (n : Nat) : onlyStation st h (h.closed st q b n) :=
  onlyStation_trans (onlyStation_updPeck h st _) (onlyStation_updPeck _ st _)

theorem drainTimeout_closes {q : Nat × Bool} {i : Held} {l : List Held} (drains : h.drains st = true)
    (due : ((h.drainOrder st).find? fun x => decide ((if x.1 = 4 then (h.getStn st).peck.rsvStore
      else (SMap.get {} (h.getStn st).peck.part x.1).lastStore) + 4096 ≤ h.stnTick st)) = some q)
    (items : h.drainable st q = i :: l) (on : (SMap.get ({} : Ring) h.trc.ring i.slice).on = true) :
    h.drainTimeout st = (h.closed st q (blockOf st q (h.getStn st).peck i (frontBlock (i :: l))) (frontBlock (i :: l)).length).stallRetry st := by
  have ringOn : ¬ (!(SMap.get ({} : Ring) h.trc.ring i.slice).on) = true := by rw [on]; nofun
  unfold Hub.drainTimeout Hub.closeBlock
  rw [if_neg (by rw [drains]; nofun)]
  dsimp only
  rw [due]
  dsimp only
  rw [items]
  exact if_neg ringOn

theorem blockWritten_first {a q : List Block} {b : Block} (noc : h.nocUp = true) (blocks : (h.getStn st).peck.blocks = a ++ b :: q)
    (before : ∀ x ∈ a, (x.granted && (x.slice == 0 || x.sealed_)) = false) (ready : (b.granted && (b.slice == 0 || b.sealed_)) = true) :
    h.blockWritten st =
      { h.updPeck st (Peck.wrote · a.length) with
        out := h.out ++ [⟨1, b.base + b.pos % b.size, padTo b.len (b.header ++ b.body)⟩] } := by
  unfold Hub.blockWritten
  rw [if_neg (by rw [noc]; nofun), blocks, firstIdx_some before ready]
  dsimp only
  rw [getD_behind]
  rfl

end Drain

/-! ## Flush content that has expired (R217) -/

/-- The numbers below `n`, cut at one of them. -/
theorem range_split {n k : Nat} (low : k < n) :
    ∃ a b, List.range n = a ++ k :: b ∧ (∀ y ∈ a, y < n ∧ y ≠ k) ∧ ∀ y ∈ b, y < n ∧ y ≠ k := by
  obtain ⟨a, b, whole⟩ := List.append_of_mem (List.mem_range.mpr low)
  have once : (a ++ k :: b).Nodup := whole ▸ List.nodup_range
  have below : ∀ y ∈ a ++ k :: b, y < n := fun y member => List.mem_range.mp (whole ▸ member)
  refine ⟨a, b, whole, fun y member => ⟨below y (by simp [member]), ?_⟩, fun y member => ⟨below y (by simp [member]), ?_⟩⟩
  · rintro rfl
    exact (List.nodup_append.mp once).2.2 y member y List.mem_cons_self rfl
  · rintro rfl
    exact (List.nodup_cons.mp (List.nodup_append.mp once).2.1).1 member

section One

variable {n k : Nat} (low : k < n)
include low

theorem flatMap_range_one {β : Type} {f : Nat → List β} (others : ∀ y, y < n → y ≠ k → f y = []) : (List.range n).flatMap f = f k := by
  obtain ⟨a, b, whole, before, after⟩ := range_split low
  rw [whole, List.flatMap_append, List.flatMap_cons, List.flatMap_eq_nil_iff.mpr fun y m => others y (before y m).1 (before y m).2,
    List.flatMap_eq_nil_iff.mpr fun y m => others y (after y m).1 (after y m).2, List.nil_append, List.append_nil]

theorem filterMap_range_one {β : Type} {f : Nat → Option β} {v : β} (others : ∀ y, y < n → y ≠ k → f y = none) (hit : f k = some v) :
    (List.range n).filterMap f = [v] := by
  obtain ⟨a, b, whole, before, after⟩ := range_split low
  rw [whole, List.filterMap_append, List.filterMap_cons, hit, List.filterMap_eq_nil_iff.mpr fun y m => others y (before y m).1 (before y m).2]
  simp only [List.filterMap_eq_nil_iff.mpr fun y m => others y (after y m).1 (after y m).2, List.nil_append]

theorem foldl_range_one {β : Type} {f : β → Nat → β} (others : ∀ x y, y < n → y ≠ k → f x y = x) (x : β) : (List.range n).foldl f x = f x k := by
  have idle : ∀ (l : List Nat), (∀ y ∈ l, y < n ∧ y ≠ k) → ∀ x, l.foldl f x = x := fun l out => by
    induction l with
    | nil => exact fun _ => rfl
    | cons y l ih =>
      intro x
      rw [List.foldl_cons, others x y (out y List.mem_cons_self).1 (out y List.mem_cons_self).2]
      exact ih (fun z m => out z (List.mem_cons_of_mem _ m)) x
  obtain ⟨a, b, whole, before, after⟩ := range_split low
  rw [whole, List.foldl_append, List.foldl_cons, idle a before, idle b after]

end One

theorem get_below {α : Type} [DecidableEq α] {d : α} {m : SMap α} {n y : Nat} (w : SMap.wfFrom d n m = true) (low : y < n) : SMap.get d m y = d := by
  induction m generalizing n with
  | nil => rfl
  | cons e m ih =>
    obtain ⟨first, -, rest⟩ := (SMap.wfFrom_cons d n e.1 e.2 m).mp w
    rw [SMap.get, if_neg (by omega)]
    exact ih rest (by omega)

/-- A partition without the flush content of a rebinding. -/
def Part.unflushed (x : Part) : Part := { x with pkts := x.pkts.filter fun k => k.flush != 1 }

theorem get_unflushed {m : SMap Part} {n : Nat} (w : SMap.wfFrom {} n m = true) (y : Nat) :
    SMap.get {} (m.filterMap fun x => if x.2.unflushed = {} then none else some (x.1, x.2.unflushed)) y = (SMap.get {} m y).unflushed := by
  induction m generalizing n with
  | nil => rfl
  | cons e m ih =>
    obtain ⟨first, -, rest⟩ := (SMap.wfFrom_cons {} n e.1 e.2 m).mp w
    by_cases here : y = e.1
    · have gone := ih rest
      rw [get_below rest (by omega : y < e.1 + 1)] at gone
      rw [List.filterMap_cons, SMap.get, if_pos here]
      split
      · next empty =>
        split at empty
        · next nothing => exact gone.trans nothing.symm
        · cases empty
      · next v kept =>
        split at kept
        · cases kept
        · obtain rfl := Option.some.inj kept
          exact if_pos here
    · rw [List.filterMap_cons, SMap.get, if_neg here]
      split
      · exact ih rest
      · next v kept =>
        split at kept
        · cases kept
        · obtain rfl := Option.some.inj kept
          exact (if_neg here).trans (ih rest)

/-- Packets of one source and slice that stand at the front, as a LOSS marker names them. -/
theorem blockSrcs_one {k : Nat} {i : Pkt} {f : List Pkt} (low : k < 4) (same : ∀ x ∈ i :: f, x.src = k) :
    blockSrcs ((i :: f).map Pkt.held) = [(k, i.seq, f.length + 1, (i :: f).foldl (fun n x => n + x.bytes.length / 4) 0)] := by
  refine filterMap_range_one low (fun y _ other => ?_) ?_
  · have none_ : ((i :: f).map Pkt.held).filter (fun j => !j.rsv && j.src == y) = [] := by
      rw [List.filter_eq_nil_iff]
      intro j member
      obtain ⟨x, inside, rfl⟩ := List.mem_map.mp member
      have : x.src ≠ y := fun e => other (e ▸ same x inside)
      simpa [Pkt.held] using this
    rw [none_]
  · have all_ : ((i :: f).map Pkt.held).filter (fun j => !j.rsv && j.src == k) = (i :: f).map Pkt.held := by
      rw [List.filter_eq_self]
      intro j member
      obtain ⟨x, inside, rfl⟩ := List.mem_map.mp member
      simpa [Pkt.held] using same x inside
    rw [all_, List.map_cons]
    simp only [List.foldl_cons, List.foldl_map, List.length_map]
    rfl



section Expiry

variable {h : Hub} {st r k : Nat} {g f : List Pkt} {i : Pkt}

/-- A Peck without its flush content. -/
def Peck.unflushed (p : Peck) (t : Nat) : Peck :=
  { p with
    part := p.part.filterMap fun x => if x.2.unflushed = {} then none else some (x.1, x.2.unflushed),
    rsv := p.rsv.filter fun r => r.flush != 1, blocks := p.blocks.filter fun b => !(b.flush && decide (b.flushB + 4095 ≤ t)) }

/-- A Peck whose reserved area takes an entry at tick `t`. -/
def Peck.reserve (p : Peck) (t : Nat) (r : Rsv) : Peck := { p with rsvStore := t, rsv := p.rsv ++ [r] }

/-- The marker of lost packets enters an empty reserved area. -/
theorem loss_empty (empty : (h.getStn st).peck.rsv = []) (k slice reason seq packets words tick : Nat) :
    h.loss st k slice reason seq packets words tick = h.updPeck st (Peck.reserve · (h.stnTick st)
      { loss := true, slice := slice, src := k, reason := reason, seq := seq, packets := packets, words := words, tick := tick }) := by
  unfold Hub.loss
  rw [empty]
  rfl

variable (noBlocks : (h.getStn st).peck.blocks = [])
  (late : (h.getStn st).peck.flushB + 4095 ≤ h.stnTick st) (region : r < 4) (source : k < 4)
  (pkts : (SMap.get {} (h.getStn st).peck.part r).pkts = i :: f ++ g) (marked : ∀ x ∈ i :: f, x.flush = 1 ∧ x.src = k) (rest : ∀ x ∈ g, x.flush ≠ 1)
  (others : ∀ y, y < 4 → y ≠ r → ∀ x ∈ (SMap.get ({} : Part) (h.getStn st).peck.part y).pkts, x.flush ≠ 1)
include noBlocks late region source pkts marked rest others

omit source noBlocks late in
theorem flushed_items : ((List.range 4).flatMap fun y => ((h.getStn st).peck.items y).filter fun i => i.flush == 1) = (i :: f).map Pkt.held := by
  have items : ∀ y, y < 4 → (((h.getStn st).peck.items y).filter fun i => i.flush == 1) =
      ((SMap.get ({} : Part) (h.getStn st).peck.part y).pkts.filter fun x => x.flush == 1).map Pkt.held := fun y low => by
    rw [Peck.items, if_neg (by omega), List.filter_map]
    rfl
  rw [flatMap_range_one region fun y low other => ?_, items r region, pkts, List.filter_append,
    List.filter_eq_self.mpr fun x member => by simp [(marked x member).1], List.filter_eq_nil_iff.mpr fun x member => by simp [rest x member], List.append_nil]
  rw [items y low, List.filter_eq_nil_iff.mpr fun x member => by simp [others y low other x member], List.map_nil]

theorem rebindExpiry_one :
    h.rebindExpiry st = ((h.updPeck st fun p => p.unflushed (h.stnTick st)).loss st k i.slice 3 i.seq
      (f.length + 1) ((i :: f).foldl (fun n x => n + x.bytes.length / 4) 0) (h.stnTick st)).stallRetry st := by
  have parts := flushed_items region pkts marked rest others
  have srcs := blockSrcs_one source fun x member => (marked x member).2
  have found : ((i :: f).map Pkt.held).find? (fun j => j.src == k) = some i.held := by
    rw [List.map_cons, List.find?_cons_of_pos (by simp [Pkt.held, (marked i List.mem_cons_self).2])]
  have goes : ¬ (h.stnTick st < (h.getStn st).peck.flushB + 4095 ∨
      (((i :: f).map Pkt.held).isEmpty ∧ ([] : List Block).isEmpty ∧ (h.getStn st).peck.rsv.all fun r => r.flush != 1)) := by
    rintro (early | ⟨none_, -⟩)
    · omega
    · cases none_
  unfold Hub.rebindExpiry
  dsimp only
  rw [parts, noBlocks, List.filter_nil, if_neg goes, srcs]
  simp only [List.flatMap_nil, List.nil_append, List.map_singleton, found, Option.map_some, Option.getD_some]
  refine (congrArg (Hub.stallRetry · st) (foldl_range_one source (fun _ y _ other => ?_) _)).trans ?_
  · rw [List.filter_cons_of_neg (by simpa using fun e => other e.symm), List.filter_nil]
  · rw [List.filter_cons_of_pos (by simp), List.filter_nil]
    simp only [List.foldl_cons, List.foldl_nil, Nat.zero_add, List.any_nil, Bool.and_false, Bool.not_false, List.filter_true]
    rfl

/-- The marker that takes the place of packets `i :: f`. -/
def lostFlush (k : Nat) (i : Pkt) (f : List Pkt) (t : Nat) : Rsv :=
  { loss := true, slice := i.slice, src := k, reason := 3, seq := i.seq, packets := f.length + 1,
    words := (i :: f).foldl (fun n x => n + x.bytes.length / 4) 0, tick := t }

/-- The hub after the flush content of one source has expired, with no other entry in the reserved area. -/
def Hub.expired (h : Hub) (st : Nat) (r : Rsv) : Hub :=
  (h.updPeck st (Peck.unflushed · (h.stnTick st))).updPeck st (Peck.reserve · (h.stnTick st) r)

theorem rebindExpiry_marks (noRsv : (h.getStn st).peck.rsv = []) :
    h.rebindExpiry st = (h.expired st (lostFlush k i f (h.stnTick st))).stallRetry st := by
  have empty : ((h.updPeck st (Peck.unflushed · (h.stnTick st))).getStn st).peck.rsv = [] := by
    rw [getStn_updPeck]
    exact congrArg (List.filter _) noRsv
  rw [rebindExpiry_one noBlocks late region source pkts marked rest others, loss_empty empty, stnTick_updPeck]
  rfl

omit noBlocks late region source pkts marked rest others in
theorem getStn_expired (m : Rsv) :
    (h.expired st m).getStn st = { h.getStn st with peck := ((h.getStn st).peck.unflushed (h.stnTick st)).reserve (h.stnTick st) m } := by
  unfold Hub.expired
  rw [getStn_updPeck, getStn_updPeck]

omit noBlocks late region source pkts marked rest others in
theorem onlyStation_expired (m : Rsv) : onlyStation st h (h.expired st m) :=
  onlyStation_trans (onlyStation_updPeck h st _) (onlyStation_updPeck _ st _)

omit pkts marked rest others source region late in
theorem expired_peck (noRsv : (h.getStn st).peck.rsv = []) (m : Rsv) :
    ((h.getStn st).peck.unflushed (h.stnTick st)).reserve (h.stnTick st) m =
      { (h.getStn st).peck with part := ((h.getStn st).peck.unflushed (h.stnTick st)).part, rsvStore := h.stnTick st, rsv := [m] } := by
  unfold Peck.unflushed Peck.reserve
  dsimp only
  rw [noRsv, noBlocks]
  rfl

omit noBlocks late source region in
/-- The partitions without the flush content of partition `r`. -/
theorem get_part_unflushed (wf : SMap.wf {} (h.getStn st).peck.part = true) (high : ∀ y, 4 ≤ y → SMap.get {} (h.getStn st).peck.part y = {}) (t y : Nat) :
    SMap.get {} ((h.getStn st).peck.unflushed t).part y =
      if y = r then { SMap.get {} (h.getStn st).peck.part r with pkts := g } else SMap.get {} (h.getStn st).peck.part y := by
  refine (get_unflushed wf y).trans ?_
  unfold Part.unflushed
  split
  · next here =>
    rw [here, pkts, List.filter_append, List.filter_eq_nil_iff.mpr fun x member => by simp [(marked x member).1],
      List.filter_eq_self.mpr fun x member => by simp [rest x member], List.nil_append]
  · next other =>
    by_cases low : y < 4
    · rw [List.filter_eq_self.mpr fun x member => by simp [others y low other x member]]
    · rw [high y (by omega)]
      rfl

end Expiry

/-- Settles O14: each step of the drain by the block that it touches, the expiry by the one source that has flush content. -/
theorem peckDrain : Obligations.PeckDrain := by
  unfold Obligations.PeckDrain
  refine fun s st live => ⟨fun a q b drains blocks asked waits few => ?_, fun q i l drains quiet due items on => ?_,
    fun a q b noc blocks before ready => ?_, fun r k g f i quiet noBlocks noRsv late region source pkts marked rest wf others high => ?_⟩
  · refine yields_of_eq rfl live (fun t => drainRequest_next (h := s.hub.placed t) drains blocks asked waits few) fun t => ?_
    have self := getStn_updPeck (s.hub.placed t) st (Peck.ask · a.length)
    have only := onlyStation_updPeck (s.hub.placed t) st (Peck.ask · a.length)
    refine ⟨self.trans ?_, only, rfl⟩
    unfold Peck.ask
    rw [show ((s.hub.placed t).getStn st).peck.blocks = a ++ b :: q from blocks, modAt_behind]
    rfl
  · refine yields_of_eq rfl live (fun t => drainTimeout_closes (h := s.hub.placed t) drains due items on) fun t => ?_
    obtain ⟨blocks, seq, stalled⟩ := takeItems_blocks (s.hub.getStn st).peck q (frontBlock (i :: l)).length
    have closed := getStn_closed (h := s.hub.placed t) (st := st) q (blockOf st q (s.hub.getStn st).peck i (frontBlock (i :: l))) (frontBlock (i :: l)).length
    have still : (((s.hub.placed t).closed st q (blockOf st q (s.hub.getStn st).peck i (frontBlock (i :: l))) (frontBlock (i :: l)).length).getStn st).peck.stalled = [] := by
      rw [closed]
      exact stalled.trans quiet
    obtain ⟨self, only, frame⟩ := stallRetry_quiet st still
    refine ⟨(self.trans closed).trans ?_, onlyStation_trans (onlyStation_closed _ _ _) only, ?_⟩
    · rw [Peck.close, show ((s.hub.placed t).getStn st).peck = (s.hub.getStn st).peck from rfl, blocks, seq]
      rfl
    · exact congrArg (lands s) frame
  · refine yields_of_eq rfl live (fun t => blockWritten_first (h := s.hub.placed t) noc blocks before ready) fun t => ?_
    have self := getStn_updPeck (s.hub.placed t) st (Peck.wrote · a.length)
    have only := onlyStation_updPeck (s.hub.placed t) st (Peck.wrote · a.length)
    refine ⟨self.trans ?_, fun k low fits => ?_, fun x outside => ?_, only, rfl⟩
    · unfold Peck.wrote
      rw [show ((s.hub.placed t).getStn st).peck.blocks = a ++ b :: q from blocks, eraseAt_behind]
      rfl
    · refine (get_writeBytes_in hbmSize s.mem.hbm _ (by rw [padTo_length]; exact low) fits).trans ?_
      exact padTo_getD _ low
    · exact get_writeBytes_out hbmSize s.mem.hbm _ (by rwa [padTo_length])
  · refine yields_of_eq rfl live
      (fun t => rebindExpiry_marks (h := s.hub.placed t) noBlocks late region source pkts marked rest others noRsv) fun t => ?_
    have expired := getStn_expired (h := s.hub.placed t) (st := st) (lostFlush k i f (s.hub.stnTick st))
    have still : (((s.hub.placed t).expired st (lostFlush k i f (s.hub.stnTick st))).getStn st).peck.stalled = [] := by
      rw [expired]
      exact quiet
    obtain ⟨self, only, frame⟩ := stallRetry_quiet st still
    refine ⟨fun y => ?_, (self.trans expired).trans ?_, onlyStation_trans (onlyStation_expired _) only,
      congrArg (lands s) frame⟩
    · exact (congrArg (fun x : Stn => SMap.get {} x.peck.part y) (self.trans expired)).trans
        (get_part_unflushed (h := s.hub.placed t) pkts marked rest others wf high (s.hub.stnTick st) y)
    · rw [expired_peck (h := s.hub.placed t) noBlocks noRsv]
      refine Eq.trans ?_ (congrArg (fun p => ({ s.hub.getStn st with peck := { (s.hub.getStn st).peck with
        part := p, rsvStore := s.hub.stnTick st, rsv := [lostFlush k i f (s.hub.stnTick st)] } } : Stn)) (congrArg (fun x : Stn => x.peck.part) (self.trans expired)).symm)
      rfl

end Sys2Proof.Machine
end

section
/-!
Grants and seals of blocks (R213, R215, R216): what a grant may touch, and the one request that waits.
-/
namespace Sys2Proof.Machine

/-! ## What a grant may touch -/

/-- The hub `g` differs from `h` in what a grant may touch: flags and interrupts, the Pecks, the drain's own records, and writes to HBM. -/
def Hub.drainOnly (h g : Hub) : Prop :=
  (∃ l, g.out = h.out ++ l ∧ ∀ w ∈ l, w.space = 1) ∧
    g = { h with
      rc := g.rc, irq := g.irq, cyc := g.cyc, stn := g.stn, out := g.out,
      trc := { h.trc with queue := g.trc.queue, ring := g.trc.ring, tokens := g.trc.tokens, flushTokens := g.trc.flushTokens, rr := g.trc.rr } }

theorem Hub.drainOnly.refl (h : Hub) : h.drainOnly h := ⟨⟨[], (List.append_nil _).symm, nofun⟩, rfl⟩

theorem Hub.drainOnly.trans {h g k : Hub} (a : h.drainOnly g) (b : g.drainOnly k) : h.drainOnly k := by
  obtain ⟨⟨l, lout, lspace⟩, ea⟩ := a
  obtain ⟨⟨m, mout, mspace⟩, eb⟩ := b
  refine ⟨⟨l ++ m, by rw [mout, lout, List.append_assoc], fun w member => ?_⟩, ?_⟩
  · exact (List.mem_append.mp member).elim (lspace w) (mspace w)
  · rw [eb, ea]

/-- No write, and the frame. -/
theorem Hub.drainOnly.of_eq {h g : Hub} (out : g.out = h.out)
    (e : g = { h with
      rc := g.rc, irq := g.irq, cyc := g.cyc, stn := g.stn, out := g.out,
      trc := { h.trc with queue := g.trc.queue, ring := g.trc.ring, tokens := g.trc.tokens, flushTokens := g.trc.flushTokens, rr := g.trc.rr } }) :
    h.drainOnly g := ⟨⟨[], by rw [out, List.append_nil], nofun⟩, e⟩

theorem setWaiting_drainOnly (h : Hub) (k : Nat) : h.drainOnly (h.setWaiting k) := by
  unfold Hub.setWaiting
  dsimp only
  split
  · exact .of_eq rfl rfl
  · exact .of_eq rfl rfl

theorem setWaitings_drainOnly (l : List Nat) (h : Hub) : h.drainOnly (l.foldl (fun h k => h.setWaiting k) h) := by
  induction l generalizing h with
  | nil => exact .refl h
  | cons k l ih => exact (setWaiting_drainOnly h k).trans (ih _)

theorem rcAdd_drainOnly (h : Hub) (off mi lsb max n : Nat) : h.drainOnly (h.rcAdd off mi lsb max n) := by
  rw [rcAdd_frame]
  exact .of_eq rfl rfl

theorem rcFlag_drainOnly (h : Hub) (off lsb v : Nat) : h.drainOnly (h.rcFlag off lsb v) := by
  rw [rcFlag_frame]
  exact .of_eq rfl rfl

theorem hbmWrite_drainOnly (h : Hub) (a : Nat) (b : List Byte) : h.drainOnly (h.hbmWrite a b) := ⟨⟨[⟨1, a, b⟩], rfl, by simp⟩, rfl⟩

theorem grant_drainOnly (h : Hub) (q : Nat × Nat) (b : Block) : h.drainOnly (h.grant q b) := by
  have taken : h.drainOnly { h with trc := { h.trc with queue := h.trc.queue.filter (· != q), rr := if b.flush || b.rsv then h.trc.rr else q.1 } } :=
    .of_eq rfl rfl
  unfold Hub.grant
  dsimp only
  split
  · exact (taken.trans (.of_eq rfl rfl)).trans (rcAdd_drainOnly _ _ _ _ _ _)
  · have filler : ∀ (c : Prop) [Decidable c] (a : Nat) (l : List Byte) (g : Hub), g.drainOnly (if c then g else g.hbmWrite a l) := fun c _ a l g => by
      split
      · exact .refl g
      · exact hbmWrite_drainOnly g a l
    have flag : ∀ (c : Prop) [Decidable c] (off : Nat) (g : Hub), g.drainOnly (if c then g else g.rcFlag off 30 9) := fun c _ off g => by
      split
      · exact .refl g
      · exact rcFlag_drainOnly g off 30 9
    exact ((taken.trans (filler _ _ _ _)).trans (flag _ _ _)).trans (.of_eq rfl rfl)

theorem drainGrant_drainOnly (h : Hub) : h.drainOnly h.drainGrant := by
  unfold Hub.drainGrant
  split
  · exact .refl h
  · dsimp only
    split
    · split
      · exact setWaitings_drainOnly _ h
      · exact ((setWaitings_drainOnly _ h).trans (grant_drainOnly _ _ _)).trans (setWaiting_drainOnly _ _)
    · exact setWaitings_drainOnly _ h

/-- Writes to HBM leave the Firkin. -/
theorem apply_firkin {l : List MemWrite} (m : Mem) (hbm : ∀ w ∈ l, w.space = 1) : (m.apply l).firkin = m.firkin := by
  induction l generalizing m with
  | nil => rfl
  | cons w l ih =>
    have first : (m.write w).firkin = m.firkin := by
      unfold Mem.write
      rw [hbm w List.mem_cons_self]
      rfl
    exact (ih (m.write w) fun x member => hbm x (List.mem_cons_of_mem _ member)).trans first

/-! ## The one request that waits -/

section Grant

variable {h : Hub} {st n : Nat} {b : Block}

/-- The ring of slice `k` does not wait. -/
def Hub.ringReady (h : Hub) (k : Nat) : Hub :=
  { h with trc := { h.trc with ring := SMap.upd {} h.trc.ring k fun r => { r with waiting := false } } }

theorem setWaiting_ready {k : Nat} (ready : h.ringWaits k = false) : h.setWaiting k = h.ringReady k := by
  unfold Hub.setWaiting
  rw [ready]
  rfl

theorem ringWaits_empty {k : Nat} (queue : h.trc.queue = []) : h.ringWaits k = false := by
  unfold Hub.ringWaits
  dsimp only
  rw [queue, List.any_nil, Bool.and_false]

variable (queue : h.trc.queue = [(st, n)]) (block : h.reqBlock (st, n) = some b) (plain : b.flush = false)
include queue block plain

theorem grantOrder_one : h.grantOrder = [(st, n)] := by
  unfold Hub.grantOrder
  dsimp only
  rw [queue]
  cases rsv : b.rsv with
  | true => simp [block, plain, rsv, sortBy]
  | false =>
    by_cases later : h.trc.rr < st
    · simp [block, plain, rsv, sortBy, later, Nat.not_le.mpr later, insertBy]
    · simp [block, plain, rsv, sortBy, later, Nat.not_lt.mp later, insertBy]

/-- The one request is granted, if its ring needs no wait and the bucket has its tokens. -/
theorem drainGrant_one (noc : h.nocUp = true) (ready : h.ringWaits b.slice = false) (room : (h.ringReady b.slice).grantable b = true)
    (tokens : (h.ringReady b.slice).lacksTokens b = false) : h.drainGrant = ((h.ringReady b.slice).grant (st, n) b).setWaiting b.slice := by
  unfold Hub.drainGrant
  rw [if_neg (by rw [noc]; nofun), grantOrder_one queue block plain]
  dsimp only [List.filterMap_cons, List.filterMap_nil]
  rw [block]
  simp only [Option.map_some, List.map_cons, List.map_nil, List.foldl_cons, List.foldl_nil]
  rw [setWaiting_ready ready, List.find?_cons_of_pos (a := ((st, n), b)) room]
  dsimp only
  rw [tokens, if_neg (by nofun)]

end Grant

section Granted

variable {h : Hub} {q : Nat × Nat} {b : Block}

/-- The ring of a block's slice. -/
abbrev Hub.blockRing (h : Hub) (b : Block) : Ring := SMap.get {} h.trc.ring b.slice

/-- A block that has its extent. -/
def Hub.grantOf (h : Hub) (b x : Block) : Block :=
  if x.seq = b.seq then
    { x with
      granted := true, pos := (h.blockRing b).place b.len, base := (h.blockRing b).base, size := (h.blockRing b).size, key := (h.getKeys b.slice).cur.trace }
  else x

/-- The write of the filler that an extent needs before it. -/
def Hub.grantFiller (h : Hub) (b : Block) : List MemWrite :=
  if (h.blockRing b).place b.len = (h.blockRing b).wr then []
  else [⟨1, (h.blockRing b).base + (h.blockRing b).wr % (h.blockRing b).size,
    blockHeader 0x7FF b.slice 8 (h.blockRing b).wr 0 ((h.blockRing b).place b.len - (h.blockRing b).wr) 0 0⟩]

/-- The drain's own records after a grant of ring space. -/
def Hub.grantTrc (h : Hub) (q : Nat × Nat) (b : Block) : Trc :=
  { h.trc with
    queue := h.trc.queue.filter (· != q), rr := if b.rsv then h.trc.rr else q.1, tokens := h.trc.tokens - b.len,
    ring := SMap.set {} h.trc.ring b.slice { h.blockRing b with wr := (h.blockRing b).place b.len + b.len } }

theorem grant_extent (on : (h.blockRing b).on = true) (plain : b.flush = false) (fits : (h.blockRing b).fits b.len = true) :
    h.grant q b = { h.updPeck q.1 (fun p => { p with blocks := p.blocks.map (h.grantOf b) }) with
      out := h.out ++ h.grantFiller b, trc := h.grantTrc q b } := by
  have room : (h.blockRing b).place b.len + b.len ≤ (h.blockRing b).rd + (h.blockRing b).size := by simpa [Ring.fits] using fits
  unfold Hub.grant Hub.grantTrc
  dsimp only
  rw [if_neg (by rw [on]; nofun), if_pos room, plain]
  simp only [Bool.false_or, Bool.false_eq_true, if_false]
  unfold Hub.grantFiller
  split
  · rw [List.append_nil]
    rfl
  · rfl

/-- The drain's own records after a discard. -/
def Hub.discardTrc (h : Hub) (q : Nat × Nat) (b : Block) : Trc :=
  { h.trc with queue := h.trc.queue.filter (· != q), rr := if b.rsv then h.trc.rr else q.1 }

theorem grant_discard (off : (h.blockRing b).on = false) (plain : b.flush = false) :
    h.grant q b = { h.updPeck q.1 (fun p => { p with blocks := p.blocks.filter fun x => x.seq != b.seq }) with
      rc := (h.rcAdd 0x80014 0 0 65535 b.packets).rc, trc := h.discardTrc q b } := by
  unfold Hub.grant Hub.discardTrc
  dsimp only
  rw [if_pos (by rw [off]; rfl), plain, Bool.false_or]
  unfold Hub.rcAdd
  by_cases none_ : b.packets = 0
  · rw [if_pos none_, if_pos none_]
    rfl
  · rw [if_neg none_, if_neg none_]
    rfl

end Granted

/-! ## What the grant of the one request leaves -/

section Left

variable {h : Hub} {st n : Nat} {b : Block}

theorem queue_empty (queue : h.trc.queue = [(st, n)]) : h.trc.queue.filter (· != (st, n)) = [] := by simp [queue]

theorem blockRing_ready (h : Hub) (b : Block) : (h.ringReady b.slice).blockRing b = { h.blockRing b with waiting := false } :=
  SMap.get_upd_self {} h.trc.ring b.slice fun r : Ring => { r with waiting := false }

theorem get_ringReady_ne (h : Hub) {j k : Nat} (other : j ≠ k) : SMap.get {} (h.ringReady k).trc.ring j = SMap.get {} h.trc.ring j :=
  SMap.get_upd_ne {} h.trc.ring (fun r : Ring => { r with waiting := false }) other

theorem grantOf_ready (h : Hub) (b : Block) : (h.ringReady b.slice).grantOf b = h.grantOf b := by
  funext x
  unfold Hub.grantOf
  rw [blockRing_ready]
  rfl

theorem grantFiller_ready (h : Hub) (b : Block) : (h.ringReady b.slice).grantFiller b = h.grantFiller b := by
  unfold Hub.grantFiller
  rw [blockRing_ready]
  rfl

/-- The hub after the grant of the one request. -/
def Hub.granted (h : Hub) (st n : Nat) (b : Block) : Hub :=
  Hub.ringReady { h.updPeck st (fun p => { p with blocks := p.blocks.map (h.grantOf b) }) with
    out := h.out ++ h.grantFiller b, trc := (h.ringReady b.slice).grantTrc (st, n) b } b.slice

/-- The hub after the discard of the one request. -/
def Hub.dropped (h : Hub) (st n : Nat) (b : Block) : Hub :=
  Hub.ringReady { h.updPeck st (fun p => { p with blocks := p.blocks.filter fun x => x.seq != b.seq }) with
    rc := ((h.ringReady b.slice).rcAdd 0x80014 0 0 65535 b.packets).rc, trc := (h.ringReady b.slice).discardTrc (st, n) b } b.slice

theorem get_granted (h : Hub) (st n : Nat) (b : Block) :
    SMap.get {} (h.granted st n b).trc.ring b.slice =
      { h.blockRing b with wr := (h.blockRing b).place b.len + b.len, waiting := false } := by
  unfold Hub.granted
  refine (blockRing_ready _ b).trans ?_
  unfold Hub.blockRing Hub.grantTrc
  rw [SMap.get_set_self, blockRing_ready]
  rfl

theorem get_granted_ne (h : Hub) (st n : Nat) (b : Block) {k : Nat} (other : k ≠ b.slice) :
    SMap.get {} (h.granted st n b).trc.ring k = SMap.get {} h.trc.ring k :=
  (get_ringReady_ne _ other).trans ((SMap.get_set_ne {} (h.ringReady b.slice).trc.ring _ other).trans (get_ringReady_ne h other))

theorem getStn_granted (h : Hub) (st n : Nat) (b : Block) :
    (h.granted st n b).getStn st = { h.getStn st with peck := { (h.getStn st).peck with blocks := (h.getStn st).peck.blocks.map (h.grantOf b) } } :=
  getStn_updPeck h st fun p => { p with blocks := p.blocks.map (h.grantOf b) }

theorem onlyStation_granted (h : Hub) (st n : Nat) (b : Block) : onlyStation st h (h.granted st n b) :=
  onlyStation_updPeck h st fun p => { p with blocks := p.blocks.map (h.grantOf b) }

theorem granted_out (h : Hub) (st n : Nat) (b : Block) : (h.granted st n b).out = h.out ++ h.grantFiller b := rfl

theorem granted_eq {h : Hub} {st n : Nat} (queue : h.trc.queue = [(st, n)]) (b : Block) :
    h.granted st n b = { h with
      stn := (h.granted st n b).stn, out := (h.granted st n b).out,
      trc := { h.trc with
        queue := [], ring := (h.granted st n b).trc.ring, tokens := h.trc.tokens - b.len, rr := if b.rsv then h.trc.rr else st } } := by
  rw [← queue_empty queue]
  rfl

theorem getStn_dropped (h : Hub) (st n : Nat) (b : Block) :
    (h.dropped st n b).getStn st =
      { h.getStn st with peck := { (h.getStn st).peck with blocks := (h.getStn st).peck.blocks.filter fun x => x.seq != b.seq } } :=
  getStn_updPeck h st fun p => { p with blocks := p.blocks.filter fun x => x.seq != b.seq }

theorem onlyStation_dropped (h : Hub) (st n : Nat) (b : Block) : onlyStation st h (h.dropped st n b) :=
  onlyStation_updPeck h st fun p => { p with blocks := p.blocks.filter fun x => x.seq != b.seq }

theorem dropped_eq {h : Hub} {st n : Nat} (queue : h.trc.queue = [(st, n)]) (b : Block) :
    h.dropped st n b = { h with
      stn := (h.dropped st n b).stn, rc := (h.dropped st n b).rc,
      trc := { h.trc with queue := [], ring := (h.dropped st n b).trc.ring, rr := if b.rsv then h.trc.rr else st } } := by
  rw [← queue_empty queue]
  rfl

theorem get_dropped (h : Hub) (st n : Nat) (b : Block) :
    SMap.get {} (h.dropped st n b).trc.ring b.slice = { h.blockRing b with waiting := false } :=
  (blockRing_ready _ b).trans (congrArg (fun r : Ring => { r with waiting := false }) (blockRing_ready h b))

theorem get_dropped_ne (h : Hub) (st n : Nat) (b : Block) {k : Nat} (other : k ≠ b.slice) :
    SMap.get {} (h.dropped st n b).trc.ring k = SMap.get {} h.trc.ring k :=
  (get_ringReady_ne _ other).trans (get_ringReady_ne h other)

variable (queue : h.trc.queue = [(st, n)]) (block : h.reqBlock (st, n) = some b) (plain : b.flush = false)
include queue block plain

theorem drainGrant_granted (noc : h.nocUp = true) (on : (h.blockRing b).on = true) (fits : (h.blockRing b).fits b.len = true)
    (tokens : b.len ≤ h.trc.tokens) : h.drainGrant = h.granted st n b := by
  have ready := blockRing_ready h b
  have waits : h.ringWaits b.slice = false := by
    unfold Hub.ringWaits
    dsimp only
    rw [queue]
    simp only [List.any_cons, List.any_nil, Bool.or_false, block, fits, Bool.not_true, Bool.and_false]
  have room : (h.ringReady b.slice).grantable b = true := by
    unfold Hub.grantable
    dsimp only
    rw [show (SMap.get ({} : Ring) (h.ringReady b.slice).trc.ring b.slice).fits b.len = true from (congrArg (fun r : Ring => r.fits b.len) ready).trans fits,
      Bool.or_true]
  have enough : (h.ringReady b.slice).lacksTokens b = false := by
    have few : ¬ h.trc.tokens < b.len := Nat.not_lt.mpr tokens
    unfold Hub.lacksTokens
    rw [plain, if_neg (by nofun), show (h.ringReady b.slice).trc.tokens = h.trc.tokens from rfl, decide_eq_false few, Bool.and_false]
  rw [drainGrant_one queue block plain noc waits room enough,
    grant_extent ((congrArg Ring.on ready).trans on) plain ((congrArg (fun r : Ring => r.fits b.len) ready).trans fits), grantOf_ready, grantFiller_ready]
  refine (setWaiting_ready (ringWaits_empty (queue_empty queue))).trans rfl

theorem drainGrant_dropped (noc : h.nocUp = true) (off : (h.blockRing b).on = false) : h.drainGrant = h.dropped st n b := by
  have ready := (congrArg Ring.on (blockRing_ready h b)).trans off
  have waits : h.ringWaits b.slice = false := by
    unfold Hub.ringWaits
    dsimp only
    rw [off, Bool.and_false, Bool.false_and]
  have room : (h.ringReady b.slice).grantable b = true := by
    unfold Hub.grantable
    dsimp only
    rw [ready]
    rfl
  have enough : (h.ringReady b.slice).lacksTokens b = false := by
    unfold Hub.lacksTokens
    rw [ready, Bool.false_and]
  rw [drainGrant_one queue block plain noc waits room enough, grant_discard ready plain]
  exact (setWaiting_ready (ringWaits_empty (queue_empty queue))).trans rfl

end Left

/-- A count enters a read-to-clear field, up to the field's largest value. -/
theorem rcTotal_rcAdd (h : Hub) (off mi lsb max : Nat) {n : Nat} (some_ : 0 < n) : Nat.min max n ≤ (h.rcAdd off mi lsb max n).rcTotal off mi lsb := by
  have new : Nat.min max n ≤ satAdd max (SMap.get ({} : RcCell) h.rc (rcKey off mi lsb)).new n :=
    Nat.le_min.mpr ⟨Nat.min_le_left _ _, (Nat.min_le_right _ _).trans (Nat.le_add_left _ _)⟩
  have cell : SMap.get {} (h.rcAdd off mi lsb max n).rc (rcKey off mi lsb) =
      { SMap.get {} h.rc (rcKey off mi lsb) with new := satAdd max (SMap.get ({} : RcCell) h.rc (rcKey off mi lsb)).new n, max := max } := by
    rw [Hub.rcAdd, if_neg (Nat.ne_of_gt some_), SMap.get_upd_self]
  unfold Hub.rcTotal RcCell.sum
  rw [cell]
  dsimp only
  split
  · exact new.trans (Nat.le_max_right _ _)
  · exact Nat.le_min.mpr ⟨Nat.min_le_left _ _, new.trans (Nat.le_add_left _ _)⟩

/-- A block of a tenant as it is sealed (R213). -/
def Block.encrypted (b : Block) : Block :=
  { b with
    sealed_ := true,
    body := padTo (b.body.length + 16) (Config.aesGcm (padTo 32 b.key) (leBytes 2 b.station ++ leBytes 8 b.seq ++ [0x54, 0x43]) b.header b.body) }

/-- Settles O15: the frame of a grant by its steps, the one request by the place that its ring has, the seal by the block it finds. -/
theorem drainGrants : Obligations.DrainGrants := by
  unfold Obligations.DrainGrants
  refine fun s st n i b live => ⟨?_, fun noc queue block plain on fits tokens => ?_, fun noc queue block plain some_ off => ?_,
    fun x free found here index block => ?_⟩
  · refine yields_run rfl live fun t => ?_
    obtain ⟨⟨l, out, hbm⟩, frame⟩ := drainGrant_drainOnly (s.hub.placed t)
    refine ⟨?_, ?_⟩
    · rw [← (out.trans rfl : (s.hub.placed t).drainGrant.out = l)] at hbm
      exact apply_firkin s.mem hbm
    · exact congrArg (fun g : Hub => (lands s g).hub) frame
  · refine yields_of_eq rfl live (fun t => drainGrant_granted (h := s.hub.placed t) queue block plain noc on fits tokens) fun t => ?_
    refine ⟨get_granted (s.hub.placed t) st n b, fun k other => get_granted_ne (s.hub.placed t) st n b other, getStn_granted (s.hub.placed t) st n b,
      onlyStation_granted (s.hub.placed t) st n b, ?_, ?_⟩
    · exact congrArg s.mem.apply ((granted_out (s.hub.placed t) st n b).trans (List.nil_append _))
    · exact congrArg (fun g : Hub => (lands s g).hub) (granted_eq (h := s.hub.placed t) queue b)
  · refine yields_of_eq rfl live (fun t => drainGrant_dropped (h := s.hub.placed t) queue block plain noc off) fun t => ?_
    refine ⟨getStn_dropped (s.hub.placed t) st n b, onlyStation_dropped (s.hub.placed t) st n b, ?_, get_dropped (s.hub.placed t) st n b, fun k other => get_dropped_ne (s.hub.placed t) st n b other, ?_⟩
    · exact rcTotal_rcAdd ((s.hub.placed t).ringReady b.slice) 0x80014 0 0 65535 some_
    · exact congrArg (lands s) (dropped_eq (h := s.hub.placed t) queue b)
  · have sealing : ∀ t, (s.hub.placed t).blockSeal = (s.hub.placed t).updPeck st fun p => { p with blocks := setAt p.blocks i b.encrypted } := fun t => by
      unfold Hub.blockSeal
      rw [if_neg (by rw [show (s.hub.placed t).sealsDump = false from free]; nofun), show (s.hub.placed t).stn = s.hub.stn from rfl, found]
      dsimp only
      rw [index]
      dsimp only
      rw [block]
      rfl
    refine yields_of_eq rfl live sealing fun t => ⟨?_, onlyStation_updPeck (s.hub.placed t) st fun p => { p with blocks := setAt p.blocks i b.encrypted }, rfl⟩
    rw [← here]
    exact getStn_updPeck (s.hub.placed t) st fun p => { p with blocks := setAt p.blocks i b.encrypted }

end Sys2Proof.Machine
end

section
/-!
What the observation of events may touch (chapters 05 and 06): the trace of one Perch, and of its station's state only what `stnCore` leaves out.
-/
namespace Sys2Proof.Machine

/-- The hub `g` differs from `h` in station `st` alone and in what the observation of an event may touch. -/
def Hub.touches (st : Nat) (h g : Hub) : Prop := onlyStation st h g ∧ g = asideTrace h g

/-- Of station `st` too only the trace is touched. -/
def Hub.traces (st : Nat) (h g : Hub) : Prop := h.touches st g ∧ stnCore (g.getStn st) = stnCore (h.getStn st)

section Rules

variable {st : Nat} {h g k : Hub}

theorem Hub.touches.refl : h.touches st h := ⟨fun _ _ => rfl, rfl⟩

theorem Hub.touches.trans (a : h.touches st g) (b : g.touches st k) : h.touches st k := by
  obtain ⟨onlyA, ea⟩ := a
  obtain ⟨onlyB, eb⟩ := b
  refine ⟨onlyStation_trans onlyA onlyB, ?_⟩
  rw [eb, ea]
  rfl

theorem Hub.traces.refl : h.traces st h := ⟨.refl, rfl⟩

theorem Hub.traces.trans (a : h.traces st g) (b : g.traces st k) : h.traces st k := ⟨a.1.trans b.1, b.2.trans a.2⟩

/-- A change of the station's own state. -/
theorem touches_updStn (f : Stn → Stn) : h.touches st (h.updStn st f) := ⟨fun _ other => Hub.getStn_updStn_ne h f other, rfl⟩

/-- A change of the station's trace. -/
theorem traces_updStn {f : Stn → Stn} (core : ∀ t, stnCore (f t) = stnCore t) : h.traces st (h.updStn st f) :=
  ⟨touches_updStn f, by rw [Hub.getStn_updStn, core]⟩

/-- A change outside the stations. -/
theorem traces_aside (stn : g.stn = h.stn) (e : g = asideTrace h g) : h.traces st g := by
  have same : ∀ x, g.getStn x = h.getStn x := fun x => congrArg (SMap.get ({} : Stn) · x) stn
  exact ⟨⟨fun x _ => same x, e⟩, congrArg stnCore (same st)⟩

theorem traces_foldl {α : Type} {f : Hub → α → Hub} (step : ∀ h x, Hub.traces st h (f h x)) (l : List α) (h : Hub) : h.traces st (l.foldl f h) := by
  induction l generalizing h with
  | nil => exact .refl
  | cons x l ih => exact (step h x).trans (ih _)

theorem traces_foldl_snd {α β : Type} {f : β × Hub → α → β × Hub} (step : ∀ y x, Hub.traces st y.2 (f y x).2) (l : List α) (y : β × Hub) :
    y.2.traces st (l.foldl f y).2 := by
  induction l generalizing y with
  | nil => exact .refl
  | cons x l ih => exact (step y x).trans (ih _)

theorem traces_ite_snd {β : Type} {c : Prop} [Decidable c] {x y : β × Hub} (a : h.traces st x.2) (b : h.traces st y.2) :
    h.traces st (if c then x else y).2 := by
  split
  · exact a
  · exact b

theorem traces_ite {c : Prop} [Decidable c] (a : h.traces st g) (b : h.traces st k) : h.traces st (if c then g else k) := by
  split
  · exact a
  · exact b

theorem traces_rcAdd (off mi lsb max n : Nat) : h.traces st (h.rcAdd off mi lsb max n) := by
  rw [rcAdd_frame]
  exact traces_aside rfl rfl

theorem traces_updPeck (f : Peck → Peck) : h.traces st (h.updPeck st f) := traces_updStn fun _ => rfl

theorem traces_updSrc (k : Nat) (f : Src → Src) : h.traces st (h.updSrc st k f) := traces_updStn fun _ => rfl

theorem traces_updOrd (f : CycOrd → CycOrd) : h.traces st (h.updOrd st f) := traces_updStn fun _ => rfl

end Rules

/-! ## Relations that the storing and the emission of a source's packets keep -/

/-- A relation of hubs that stores of source `k` of Perch `s` keep: it holds of a change of the Peck, of the source beside its state, of RC fields and
of a draw of a free value. -/
structure Kept (s k : Nat) (R : Hub → Hub → Prop) : Prop where
  refl : ∀ h, R h h
  trans : ∀ {h g j}, R h g → R g j → R h j
  peck : ∀ h f, R h (h.updPeck s f)
  src : ∀ h f, (f (h.getSrc s k)).st = (h.getSrc s k).st → R h (h.updSrc s k f)
  rc : ∀ h off mi lsb max n, R h (h.rcAdd off mi lsb max n)
  free : ∀ h : Hub, R h h.drawFree.2

theorem Kept.traces (s k : Nat) : Kept s k (Hub.traces s) :=
  ⟨fun _ => .refl, .trans, fun _ => traces_updPeck, fun _ f _ => traces_updSrc k f, fun _ => traces_rcAdd, fun _ => traces_aside rfl rfl⟩

/-- A packet of a source leaves the source's state. -/
theorem Pk.after_st (p : Pk) (sub t : Nat) (x : Src) : (p.after sub t x).st = x.st := by cases p <;> rfl

theorem buildPkts_st (c : PkCtx) (slice tick : Nat) (x : Src) (l : List (Nat × Pk)) : (buildPkts c slice tick x l).2.st = x.st := by
  induction l generalizing x with
  | nil => rfl
  | cons p l ih => exact (ih _).trans (Pk.after_st p.2 p.1 tick x)

namespace Kept

variable {s k : Nat} {R : Hub → Hub → Prop} (kept : Kept s k R)
include kept

omit kept in
theorem rel_ite {h g j : Hub} {c : Prop} [Decidable c] (a : R h g) (b : R h j) : R h (if c then g else j) := by
  split
  · exact a
  · exact b

omit kept in
theorem rel_ite_snd {h : Hub} {β : Type} {c : Prop} [Decidable c] {x y : β × Hub} (a : R h x.2) (b : R h y.2) : R h (if c then x else y).2 := by
  split
  · exact a
  · exact b

theorem foldl {α : Type} {f : Hub → α → Hub} (step : ∀ h x, R h (f h x)) (l : List α) (h : Hub) : R h (l.foldl f h) := by
  induction l generalizing h with
  | nil => exact kept.refl h
  | cons x l ih => exact kept.trans (step h x) (ih _)

theorem foldl_snd {α β : Type} {f : β × Hub → α → β × Hub} (step : ∀ y x, R y.2 (f y x).2) (l : List α) (y : β × Hub) : R y.2 (l.foldl f y).2 := by
  induction l generalizing y with
  | nil => exact kept.refl y.2
  | cons x l ih => exact kept.trans (step y x) (ih _)

variable (h : Hub)

theorem loss (slice reason seq packets words tick : Nat) : R h (h.loss s k slice reason seq packets words tick) := by
  unfold Hub.loss
  dsimp only
  split
  · exact kept.peck _ _
  · exact rel_ite (kept.peck _ _) (kept.rc _ _ _ _ _ _)

theorem tryStore {h g : Hub} {slice tick : Nat} {l : List (Nat × Pk)} (e : h.tryStore s k slice tick l = some g) : R h g := by
  unfold Hub.tryStore at e
  dsimp only at e
  split at e
  · obtain rfl := Option.some.inj e
    exact kept.trans (kept.src h _ (buildPkts_st _ _ _ _ _)) (kept.peck _ _)
  · cases e

theorem refuse (slice tick : Nat) (l : List (Nat × Pk)) : R h (h.refuse s k slice tick l) :=
  kept.trans (kept.trans (kept.src h _ rfl) (kept.rc _ _ _ _ _ _)) (kept.loss _ _ _ _ _ _ _)

theorem offer (wait : Bool) (slice tick : Nat) (l : List (Nat × Pk)) : R h (h.offer s k wait slice tick l).2 := by
  unfold Hub.offer
  split
  · exact kept.refl h
  · split
    · next stored => exact kept.tryStore stored
    · split
      · exact kept.refl h
      · exact kept.refuse _ _ _ _

theorem corePc (sub : Nat) (ev : Option (Nat × Nat)) : R h (h.corePc sub ev).2 := by
  unfold Hub.corePc
  split
  · split
    · exact kept.refl h
    · exact kept.free h
  · exact kept.free h

theorem syncOf (cores : List Nat) (mk : Nat → Pk) (ev : Option (Nat × Nat)) : R h (h.syncOf s k cores mk ev).2 := by
  unfold Hub.syncOf
  split
  · refine kept.foldl_snd (β := List (Nat × Pk)) (fun y j => ?_) cores ([], h)
    exact kept.corePc _ j ev
  · exact kept.refl h

theorem syncPks (mk : Nat → Pk) (ev : Option (Nat × Nat)) : R h (h.syncPks s k mk ev).2 := kept.syncOf _ _ _ _

theorem leadPks (cause : Nat) (ev : Option (Nat × Nat)) : R h (h.leadPks s k cause ev).2 := kept.syncOf _ _ _ _

theorem group {w : Group} (own : w.src = k) (wait : Bool) : R h (h.group s w wait).2 := by
  subst own
  unfold Hub.group
  dsimp only
  have timed : ∀ {x : List (Nat × Pk) × Hub} {c : Prop} [Decidable c] {l : List (Nat × Pk)}, R h x.2 →
      R h (if c then x.2.offer s w.src wait w.slice w.tick l else (true, x.2)).2 :=
    fun lead => rel_ite_snd (kept.trans lead (kept.offer _ _ _ _ _)) lead
  have again : ∀ {x : List (Nat × Pk) × Hub} {c d : Prop} [Decidable c] [Decidable d] {l : List (Nat × Pk)}, R h x.2 →
      R h (if d then (if c then x.2.offer s w.src wait w.slice w.tick l else (true, x.2)).2.leadPks s w.src 7 w.ev
        else (x.1, (if c then x.2.offer s w.src wait w.slice w.tick l else (true, x.2)).2)).2 :=
    fun lead => rel_ite_snd (kept.trans (timed lead) (kept.leadPks _ _ _)) (timed lead)
  split
  · have lead := kept.leadPks h ‹Nat› w.ev
    refine rel_ite_snd (kept.refl h) ?_
    split
    · next g isG =>
      rw [← show _ = g from congrArg Prod.snd isG]
      exact kept.trans (again lead) (kept.offer _ _ _ _ _)
    · exact rel_ite (again lead) (kept.refl h)
  · refine rel_ite_snd (kept.refl h) ?_
    split
    · next g isG =>
      rw [← show _ = g from congrArg Prod.snd isG]
      exact kept.trans (again (kept.refl h)) (kept.offer _ _ _ _ _)
    · exact rel_ite (again (kept.refl h)) (kept.refl h)

theorem give {w : Group} (own : w.src = k) : R h (h.give s w) := by
  unfold Hub.give
  dsimp only
  split
  · exact kept.peck _ _
  · split
    · next g isG =>
      rw [← show _ = g from congrArg Prod.snd isG]
      exact kept.group h own _
    · next g isG => exact kept.trans (show R h g by rw [← show _ = g from congrArg Prod.snd isG]; exact kept.group h own _) (kept.peck _ _)

theorem periodic (tick : Nat) : R h (h.periodic s k tick) := by
  unfold Hub.periodic
  dsimp only
  split
  · exact kept.refl h
  · have synced := kept.trans (kept.src h (fun x => { x with count := 0 }) rfl) (kept.syncPks _ (Pk.resync 8) none)
    split
    · exact synced
    · exact kept.trans synced (kept.give _ rfl)

theorem flushCore (sub : Nat) : R h (h.flushCore s k sub) := by
  unfold Hub.flushCore
  exact rel_ite (kept.refl h) (kept.trans (kept.trans (kept.src h _ rfl) (kept.give _ rfl)) (kept.periodic _ _))

theorem flushTo (t : Nat) : R h (h.flushTo s k t) := kept.foldl (fun _ _ => kept.flushCore _ _) _ _

theorem emit (sub slice tick : Nat) (pks : List Pk) (forced : Option Nat) (ev : Option (Nat × Nat)) : R h (h.emit s k sub slice tick pks forced ev) :=
  kept.trans (kept.trans (kept.flushTo h _) (kept.give _ rfl)) (kept.periodic _ _)

theorem emitSync (slice tick : Nat) (mk : Nat → Pk) (ev : Option (Nat × Nat)) : R h (h.emitSync s k slice tick mk ev) := by
  unfold Hub.emitSync
  have synced := kept.trans (kept.flushTo h tick) (kept.syncPks _ mk ev)
  exact rel_ite synced (kept.trans (kept.trans synced (kept.give _ rfl)) (kept.periodic _ _))

theorem closeRun (sub tick : Nat) : R h (h.closeRun s k sub tick) := by
  unfold Hub.closeRun
  dsimp only
  split
  · exact kept.refl h
  · exact kept.trans (kept.src h _ rfl) (kept.emit _ _ _ _ _ _ _)

end Kept

/-! ## Storing packets and emission, as trace -/

section Store

variable {h : Hub} {s : Nat}

theorem loss_traces (k slice reason seq packets words tick : Nat) : h.traces s (h.loss s k slice reason seq packets words tick) :=
  (Kept.traces s k).loss _ _ _ _ _ _ _

theorem putTrigger_traces (t : Trig) : h.traces s (h.putTrigger s t) := by
  unfold Hub.putTrigger
  exact (traces_updPeck _).trans (traces_ite (traces_updPeck _) ((traces_updPeck _).trans (traces_rcAdd _ _ _ _ _)))

theorem refuse_traces (k slice tick : Nat) (l : List (Nat × Pk)) : h.traces s (h.refuse s k slice tick l) := (Kept.traces s k).refuse _ _ _ _

theorem drawFree_traces : h.traces s h.drawFree.2 := traces_aside rfl rfl

theorem syncPks_traces (k : Nat) (mk : Nat → Pk) (ev : Option (Nat × Nat)) : h.traces s (h.syncPks s k mk ev).2 := (Kept.traces s k).syncPks _ _ _

theorem group_traces (w : Group) (wait : Bool) : h.traces s (h.group s w wait).2 := (Kept.traces s w.src).group _ rfl _

theorem give_traces (w : Group) : h.traces s (h.give s w) := (Kept.traces s w.src).give _ rfl

theorem periodic_traces (k tick : Nat) : h.traces s (h.periodic s k tick) := (Kept.traces s k).periodic _ _

theorem stallRetry_traces : h.traces s (h.stallRetry s) := by
  unfold Hub.stallRetry
  refine (traces_updPeck _).trans (traces_foldl (fun h w => ?_) _ _)
  split
  · exact traces_updPeck _
  · split
    · next g isG => exact (show h.traces s g by rw [← show _ = g from congrArg Prod.snd isG]; exact group_traces _ _).trans (periodic_traces _ _)
    · next g isG => exact (show h.traces s g by rw [← show _ = g from congrArg Prod.snd isG]; exact group_traces _ _).trans (traces_updPeck _)

theorem flushTo_traces (k t : Nat) : h.traces s (h.flushTo s k t) := (Kept.traces s k).flushTo _ _

theorem emit_traces (k sub slice tick : Nat) (pks : List Pk) (forced : Option Nat) (ev : Option (Nat × Nat)) :
    h.traces s (h.emit s k sub slice tick pks forced ev) := (Kept.traces s k).emit _ _ _ _ _ _ _

theorem emitSync_traces (k slice tick : Nat) (mk : Nat → Pk) (ev : Option (Nat × Nat)) : h.traces s (h.emitSync s k slice tick mk ev) :=
  (Kept.traces s k).emitSync _ _ _ _ _

theorem closeRun_traces (k sub tick : Nat) : h.traces s (h.closeRun s k sub tick) := (Kept.traces s k).closeRun _ _ _

theorem srcOn_traces (k slice tick cause : Nat) (ev : Option (Nat × Nat)) : h.traces s (h.srcOn s k slice tick cause ev) :=
  (traces_updSrc k _).trans (emitSync_traces _ _ _ _ _)

theorem srcStop_traces (k sub tick cause : Nat) (dst : SrcSt) : h.traces s (h.srcStop s k sub tick cause dst) :=
  ((closeRun_traces _ _ _).trans (emit_traces _ _ _ _ _ _ _)).trans (traces_updSrc k _)

/-! ## Events -/

theorem matchStep_traces (e : Ev) : h.traces s (h.matchStep s e).2 := by
  unfold Hub.matchStep
  refine traces_foldl_snd (β := Hits) (fun y r => ?_) _ _
  dsimp only
  split
  · exact .refl
  · exact traces_updStn fun _ => rfl

theorem addAtom_traces (k sub slice tick : Nat) (b : Bool) : h.traces s (h.addAtom s k sub slice tick b) := by
  unfold Hub.addAtom
  have joined := (traces_ite (c := ((h.getSrc s k).atoms.any fun a => a.2.slice != slice) = true) (flushTo_traces (h := h) (s := s) k tick) .refl).trans
    (traces_updSrc k fun x => { x with atoms := SMap.upd {} x.atoms sub fun a =>
      { bits := a.bits ++ [b], first := if a.bits.isEmpty then tick else a.first, last := tick, slice := slice } })
  exact traces_ite (joined.trans (flushTo_traces _ _)) joined

theorem emitEv_traces (k tick : Nat) (e : Ev) : h.traces s (h.emitEv s k tick e) := by
  unfold Hub.emitEv
  have closed := closeRun_traces (h := h) (s := s) k (unitSub e.unit) tick
  dsimp only
  split
  · exact (closed.trans (traces_ite (emitSync_traces _ _ _ _ _) .refl)).trans (addAtom_traces _ _ _ _ _)
  · exact closed.trans (emit_traces _ _ _ _ _ _ _)

theorem srcEvent_traces (k tick : Nat) (e : Ev) (x : Hits) (ok feedOk : Bool) : h.traces s (h.srcEvent s k tick e x ok feedOk) := by
  unfold Hub.srcEvent
  dsimp only
  split
  · exact .refl
  · have on := srcOn_traces (h := h) (s := s) k e.slice tick 1 (e.pc.map fun p => (unitSub e.unit, p))
    exact traces_ite (traces_ite (on.trans (emitEv_traces _ _ _)) on) .refl
  · exact traces_ite (srcStop_traces _ _ _ _ _) (traces_ite (emitEv_traces _ _ _) (traces_ite (traces_updSrc k _) .refl))

theorem hold_traces : h.traces s (h.hold s) := traces_updPeck _

theorem release_traces : h.traces s (h.release s) := by
  unfold Hub.release
  exact traces_ite .refl ((traces_updPeck _).trans stallRetry_traces)

theorem peckFlush_traces : h.traces s (h.peckFlush s) := traces_updPeck _

theorem applyOrder_traces (stop start cs ct : Nat) : h.traces s (h.applyOrder s stop start cs ct) :=
  traces_foldl (fun _ _ => traces_ite (traces_ite (srcStop_traces _ _ _ _ _) .refl) (traces_ite (srcOn_traces _ _ _ _ _) .refl)) _ _

theorem reportItem_traces (kind : ItemKind) (data : List Nat) : h.traces s (h.reportItem s kind data) :=
  (traces_aside (g := { h with items := h.items ++ [_] }) rfl rfl).trans (traces_updStn fun _ => rfl)

theorem fire_traces (tick unit slice c : Nat) : h.traces s (h.fire s tick unit slice c) := by
  unfold Hub.fire
  refine traces_ite (traces_rcAdd _ _ _ _ _) ?_
  have counted := (traces_aside (h := h) (g := h.rcZero (pchOff s 0x4BC) 0 (8 * c)) (st := s) rfl rfl).trans
    (traces_updStn (f := fun t => { t with holdoff := SMap.set 0 t.holdoff c (h.clk.cycle + 16 * (h.pact s 0x4 (0x4A0 + 4 * c) % 256)) }) fun _ => rfl)
  have sent : ∀ {c : Prop} [Decidable c] {g : Hub} {q : List Trig}, h.traces s g →
      h.traces s (if c then { g with trc := { g.trc with flits := g.trc.flits ++ q } } else g) :=
    fun before => before.trans (traces_ite (traces_aside rfl rfl) .refl)
  exact (sent (counted.trans (traces_ite (reportItem_traces _ _) .refl))).trans (traces_updOrd _)

theorem fireAll_traces (tick unit slice : Nat) (cs : List Nat) : h.traces s (h.fireAll s tick unit slice cs) := by
  unfold Hub.fireAll
  exact traces_ite (traces_foldl (fun _ _ => fire_traces _ _ _ _) _ _) .refl

theorem fireWrite_traces (mask : Nat) : h.traces s (h.fireWrite s mask) := fireAll_traces _ _ _ _

theorem observe_traces (e : Ev) : h.traces (unitStn e.unit) (h.observe e) := by
  unfold Hub.observe
  dsimp only
  refine traces_ite .refl ?_
  have matched := traces_ite_snd (c := (bit (h.spol e.slice) e.feed && modeOk (h.spol e.slice) e.mode && decide (stnClass (unitStn e.unit) = 0)) = true)
    (matchStep_traces (h := h) (s := unitStn e.unit) e) (y := (({} : Hits), h)) .refl
  have seen : ∀ {t x a b}, h.traces (unitStn e.unit) ([0, 1, 2, 3].foldl (fun h k => h.srcEvent (unitStn e.unit) k t e x a b) _) :=
    fun {_ _ _ _} => matched.trans (traces_foldl (fun _ k => srcEvent_traces k _ e _ _ _) _ _)
  exact traces_ite (seen.trans (fireAll_traces _ _ _ _)) seen

theorem observeU_traces (e : Ev) : h.traces (unitStn e.unit) (h.observeU e) := traces_ite (observe_traces e) .refl

theorem settleStn_traces : h.traces s (h.settleStn s) := by
  unfold Hub.settleStn
  dsimp only
  refine traces_ite .refl ?_
  refine ((((((traces_updOrd _).trans (traces_foldl (fun _ _ => putTrigger_traces _) _ _)).trans (applyOrder_traces _ _ _ _)).trans
    (applyOrder_traces _ _ _ _)).trans (traces_ite release_traces .refl)).trans (traces_ite peckFlush_traces .refl)).trans
    (traces_ite (hold_traces.trans stallRetry_traces) .refl)

theorem fenceEv_traces (u ctx slice mode ev : Nat) (err : Bool) (ref : FenceRef) (value : Nat) (ferr forder : Bool) :
    h.traces (unitStn u) (h.fenceEv u ctx slice mode ev err ref value ferr forder) :=
  observeU_traces { feed := 5, unit := u, slice := slice, mode := mode, pk := some (.fence ev err mode ref.pkg ref.id ctx value), ferr := ferr, forder := forder }

theorem cmdEv_traces (c ev st : Nat) (x : Cmd) : h.traces (unitStn x.unit) (h.cmdEv c ev st x) :=
  observeU_traces { feed := 4, unit := x.unit, slice := x.slice, mode := x.mode, pk := some (.cmd ev x.mode c x.tag st), start := if ev = 1 then some x.tag else none }

end Store

end Sys2Proof.Machine
end

section
/-!
One packet (R199 to R208): a group that its source stores, and what a plainly traced Perch makes of an event.
-/
namespace Sys2Proof.Machine

/-! ## One packet is stored -/

/-- The packet of `p`, as source `k` of station `s` stores it. -/
def Hub.packetOf (h : Hub) (s k sub slice tick : Nat) (p : Pk) : Pkt :=
  { slice := slice, src := k, seq := (h.getSrc s k).seq, tick := tick, bytes := p.bytes (h.pkCtx s k) (h.getSrc s k) sub tick (tick - (h.getSrc s k).base) }

/-- The partition of source `k`. -/
abbrev Hub.srcStore (h : Hub) (s k : Nat) : Part := SMap.get {} (h.getStn s).peck.part (h.srcPart s k)

/-- Source `k` after it has stored the packet. -/
def Hub.srcAfter (h : Hub) (s k sub slice tick : Nat) (p : Pk) : Src :=
  { p.after sub tick (h.getSrc s k) with slice := slice + 1, lost := false, count := (p.after sub tick (h.getSrc s k)).count + 1 }

/-- The Peck after source `k` has stored a packet. -/
def Hub.peckAfter (h : Hub) (s k : Nat) (x : Pkt) (q : Peck) : Peck :=
  { q with
    part := SMap.set {} q.part (h.srcPart s k) { h.srcStore s k with pkts := (h.srcStore s k).pkts ++ [x], lastStore := h.stnTick s },
    rsv := q.rsv.map fun r => if r.src = k then { r with open_ := false } else r }

/-- The hub after source `k` has stored the packet. -/
def Hub.storeOne (h : Hub) (s k sub slice tick : Nat) (p : Pk) : Hub :=
  (h.updSrc s k fun _ => h.srcAfter s k sub slice tick p).updPeck s (h.peckAfter s k (h.packetOf s k sub slice tick p))

section One

variable {h : Hub} {s k : Nat}

theorem getStn_updSrc (h : Hub) (s k : Nat) (f : Src → Src) :
    (h.updSrc s k f).getStn s = { h.getStn s with src := SMap.upd {} (h.getStn s).src k f } := Hub.getStn_updStn h s _

theorem getSrc_updSrc (h : Hub) (s k : Nat) (f : Src → Src) : (h.updSrc s k f).getSrc s k = f (h.getSrc s k) := by
  unfold Hub.getSrc
  rw [getStn_updSrc, SMap.get_upd_self]

theorem getSrc_updSrc_ne (h : Hub) (s : Nat) {k j : Nat} (f : Src → Src) (other : j ≠ k) : (h.updSrc s k f).getSrc s j = h.getSrc s j := by
  unfold Hub.getSrc
  rw [getStn_updSrc]
  exact SMap.get_upd_ne _ _ _ other

theorem stnTick_updSrc (h : Hub) (s k : Nat) (f : Src → Src) : (h.updSrc s k f).stnTick s = h.stnTick s := by
  unfold Hub.stnTick
  rw [getStn_updSrc]
  rfl

theorem getStn_storeOne (h : Hub) (s k sub slice tick : Nat) (p : Pk) :
    (h.storeOne s k sub slice tick p).getStn s = { h.getStn s with
      src := SMap.set {} (h.getStn s).src k (h.srcAfter s k sub slice tick p),
      peck := h.peckAfter s k (h.packetOf s k sub slice tick p) (h.getStn s).peck } := by
  unfold Hub.storeOne
  rw [getStn_updPeck, getStn_updSrc]
  rfl

theorem storeOne_traces (h : Hub) (s k sub slice tick : Nat) (p : Pk) : h.traces s (h.storeOne s k sub slice tick p) :=
  (traces_updSrc k _).trans (traces_updPeck _)

theorem getSrc_storeOne_ne (h : Hub) (s : Nat) {k j : Nat} (sub slice tick : Nat) (p : Pk) (other : j ≠ k) :
    (h.storeOne s k sub slice tick p).getSrc s j = h.getSrc s j := by
  unfold Hub.getSrc
  rw [getStn_storeOne]
  exact SMap.get_set_ne _ _ _ other

variable {sub slice tick : Nat} {p : Pk} (stream : h.partRing s (h.srcPart s k) = false) (run : (h.srcStore s k).st = .run)
  (accepts : (h.srcStore s k).accepts false (h.partCap s (h.srcPart s k)) (h.packetOf s k sub slice tick p).bytes.length
    (field (h.srcCfg s k) 30 29) = true)
include stream run accepts

theorem tryStore_one : h.tryStore s k slice tick [(sub, p)] = some (h.storeOne s k sub slice tick p) := by
  have len : pktLen [h.packetOf s k sub slice tick p] = (h.packetOf s k sub slice tick p).bytes.length := Nat.zero_add _
  unfold Hub.tryStore
  dsimp only [buildPkts]
  rw [stream]
  refine (if_pos (?_ : (h.srcStore s k).accepts false (h.partCap s (h.srcPart s k)) (pktLen [h.packetOf s k sub slice tick p])
    (field (h.srcCfg s k) 30 29) = true)).trans ?_
  · rw [len]
    exact accepts
  · have put : (h.srcStore s k).put false (h.partCap s (h.srcPart s k)) [h.packetOf s k sub slice tick p] (h.stnTick s) =
        { h.srcStore s k with pkts := (h.srcStore s k).pkts ++ [h.packetOf s k sub slice tick p], lastStore := h.stnTick s } := by
      unfold Part.put
      dsimp only
      rw [if_neg (by rw [run]; nofun)]
      rfl
    rw [stnTick_updSrc]
    unfold Hub.storeOne Hub.peckAfter
    rw [← put]
    rfl

/-- A source whose packet needs no RESYNC and no TIME before it. -/
structure Hub.steady (h : Hub) (s k slice tick : Nat) : Prop where
  quiet : (h.getStn s).peck.stalled = []
  kept : (h.getSrc s k).lost = false
  same : (h.getSrc s k).slice = slice + 1
  near : tick ≤ (h.getSrc s k).base + 65534

theorem give_one (steady : h.steady s k slice tick) (plain : p.isResync = false) (unit : Nat) (ev : Option (Nat × Nat)) :
    h.give s ⟨k, unit, slice, tick, [(sub, p)], none, ev⟩ = h.storeOne s k sub slice tick p := by
  obtain ⟨quiet, kept, same, near⟩ := steady
  have lead : (h.getSrc s k).resyncCause slice none = none := by
    unfold Src.resyncCause
    dsimp only
    rw [kept, if_neg (by nofun), if_pos same]
  have late : ¬ 65534 < tick - (h.getSrc s k).base := by omega
  have offers : ∀ wait, h.offer s k wait slice tick [(sub, p)] = (true, h.storeOne s k sub slice tick p) := fun wait => by
    unfold Hub.offer
    rw [if_neg (by nofun), tryStore_one stream run accepts]
  have grouped : ∀ wait, h.group s ⟨k, unit, slice, tick, [(sub, p)], none, ev⟩ wait = (true, h.storeOne s k sub slice tick p) := fun wait => by
    unfold Hub.group
    simp only [List.headD_cons, plain, Bool.false_eq_true, if_false, lead, decide_eq_false late, Bool.and_false, Bool.false_and, List.nil_append, offers] <;> rfl
  unfold Hub.give
  dsimp only
  rw [quiet, List.any_nil, if_neg (by nofun), grouped]

end One

/-! ## What a source does that has nothing to flush and no run to close -/

section Emit

variable {h : Hub} {s k : Nat}

theorem periodic_off (off : field (h.peckCfg s) 23 20 = 0) (tick : Nat) : h.periodic s k tick = h := if_pos (.inl off)

theorem flushCore_empty {sub : Nat} (empty : (SMap.get {} (h.getSrc s k).atoms sub).bits = []) : h.flushCore s k sub = h := by
  unfold Hub.flushCore
  exact if_pos (by rw [empty]; rfl)

theorem flushCores_empty {l : List Nat} (empty : ∀ j ∈ l, (SMap.get {} (h.getSrc s k).atoms j).bits = []) :
    l.foldl (fun h j => h.flushCore s k j) h = h := by
  induction l with
  | nil => rfl
  | cons j l ih =>
    rw [List.foldl_cons, flushCore_empty (empty j List.mem_cons_self)]
    exact ih fun i member => empty i (List.mem_cons_of_mem _ member)

theorem flushTo_empty (empty : (h.getSrc s k).atoms = []) (t : Nat) : h.flushTo s k t = h :=
  flushCores_empty fun _ _ => by rw [empty]; rfl

theorem closeRun_none (none_ : (h.getSrc s k).excl = none) (sub tick : Nat) : h.closeRun s k sub tick = h := by
  unfold Hub.closeRun
  dsimp only
  rw [none_]

theorem srcEvent_off (off : (h.getSrc s k).st = .off) (tick : Nat) (e : Ev) (x : Hits) (ok feedOk : Bool) : h.srcEvent s k tick e x ok feedOk = h := by
  unfold Hub.srcEvent
  rw [off]

theorem selHit_none (x : Hits) (rng : Nat) : selHit 0 x rng = false := by
  simp [selHit]

/-- Match units of which none compares a range leave the hub as it is. -/
theorem matchStep_noRange (e : Ev) (off : ∀ r, r < 2 → bit (h.pact s 0 (0x460 + 32 * r)) 31 = false) : ∃ x, h.matchStep s e = (x, h) := by
  have quantity : ∀ r, r < 2 → e.quantity (h.pact s 0 (0x460 + 32 * r)) = none := fun r low => by
    unfold Ev.quantity
    rw [off r low]
    rfl
  refine ⟨{ m := (List.range 4).foldl (fun a j => a + at_ (b2n (h.cmpHit s j e)) j) 0 }, ?_⟩
  unfold Hub.matchStep
  simp only [List.foldl_cons, List.foldl_nil, quantity 0 (by decide), quantity 1 (by decide)]

/-- With no condition enabled none is met. -/
theorem condMet_off (e : Ev) (x : Hits) (off : ∀ c, c < 4 → bit (h.pact s 0x4 (0x4A0 + 4 * c)) 31 = false) :
    ([0, 1, 2, 3].filter fun c => h.condMet s e x c) = [] := by
  refine List.filter_eq_nil_iff.mpr fun c member => ?_
  have low : c < 4 := by
    simp only [List.mem_cons, List.not_mem_nil, or_false] at member
    omega
  unfold Hub.condMet
  dsimp only
  rw [off c low, Bool.false_and]
  nofun

theorem fireAll_none (tick unit slice : Nat) : h.fireAll s tick unit slice [] = h := by
  unfold Hub.fireAll
  exact ite_self h

end Emit

/-! ## A plainly traced Perch -/

section Plain

variable {h : Hub} {e : Ev} (plain : plainTrace h e)
include plain

/-- An event at a plainly traced Perch reaches source 0 alone. -/
theorem observe_plain {g : Hub} (event : h.emitEv (unitStn e.unit) 0 (h.stnTick (unitStn e.unit)) e = g) (made : (e.pk.isSome || e.atom.isSome) = true)
    (off : ∀ k, k = 1 ∨ k = 2 ∨ k = 3 → (g.getSrc (unitStn e.unit) k).st = .off) (pact : ∀ r o, g.pact (unitStn e.unit) r o = h.pact (unitStn e.unit) r o) :
    h.observe e = g := by
  obtain ⟨-, tb, feed, mode, on, others, follows, mask, type, sel, -, conds, ranges, -⟩ := plain
  obtain ⟨x, matched⟩ : ∃ x, (if (bit (h.spol e.slice) e.feed && modeOk (h.spol e.slice) e.mode && decide (stnClass (unitStn e.unit) = 0)) = true
      then h.matchStep (unitStn e.unit) e else ({}, h)) = (x, h) := by
    obtain ⟨x, step⟩ := matchStep_noRange e ranges
    split
    · exact ⟨x, step⟩
    · exact ⟨{}, rfl⟩
  have first : h.srcEvent (unitStn e.unit) 0 (h.stnTick (unitStn e.unit)) e x (bit (h.spol e.slice) e.feed && modeOk (h.spol e.slice) e.mode)
      (bit (h.spol e.slice) e.feed) = g := by
    unfold Hub.srcEvent
    rw [on, sel, feed, mode]
    dsimp only
    rw [show field 0 21 16 = 0 from rfl, show field 0 13 8 = 0 from rfl, selHit_none, made, follows, mask, type]
    simpa using event
  unfold Hub.observe
  rw [if_neg (by rw [tb]; nofun)]
  dsimp only
  rw [matched]
  simp only [List.foldl_cons, List.foldl_nil]
  rw [first, srcEvent_off (off 1 (.inl rfl)), srcEvent_off (off 2 (.inr (.inl rfl))), srcEvent_off (off 3 (.inr (.inr rfl))),
    condMet_off e x fun c low => by rw [pact]; exact conds c low, fireAll_none, ite_self]

/-- The packet of an event that is no branch. -/
theorem observe_packet {p : Pk} (pk : e.pk = some p) (noAtom : e.atom = none) (pks : h.evPks (unitStn e.unit) 0 e = [p]) (notSync : p.isResync = false)
    (room : hasRoom h e p) : h.observe e = h.storeOne (unitStn e.unit) 0 (unitSub e.unit) e.slice (h.stnTick (unitStn e.unit)) p := by
  have plain' := plain
  obtain ⟨-, -, -, -, -, others, -, -, -, -, -, -, -, excl, slice, kept, atoms, -, near, period, quiet, stream, run⟩ := plain
  have given := give_one stream run room ⟨quiet, kept, slice, near⟩ notSync (unitStn e.unit * 8 + unitSub e.unit) (e.pc.map fun p => (unitSub e.unit, p))
  refine observe_plain plain' ?_ (by rw [pk]; rfl) (fun k other => ?_) fun _ _ => rfl
  · unfold Hub.emitEv Hub.emit
    dsimp only
    rw [closeRun_none excl, noAtom]
    dsimp only
    rw [excl, pks, flushTo_empty atoms]
    refine (congrArg (Hub.periodic · _ _ _) given).trans
      (periodic_off (h := h.storeOne (unitStn e.unit) 0 (unitSub e.unit) e.slice (h.stnTick (unitStn e.unit)) p) period _)
  · rw [getSrc_storeOne_ne _ _ _ _ _ _ (by omega)]
    exact others k other

omit plain in
theorem Pk.after_count (p : Pk) (sub t : Nat) (x : Src) : (p.after sub t x).count = x.count := by
  cases p <;> rfl

omit plain in
/-- The Perch after its packet, with the counters `gr`. -/
theorem onePacket_of {g : Hub} {p : Pk} {gr : SMap Grain}
    (self : g.getStn (unitStn e.unit) =
      { (h.storeOne (unitStn e.unit) 0 (unitSub e.unit) e.slice (h.stnTick (unitStn e.unit)) p).getStn (unitStn e.unit) with grain := gr })
    (only : onlyStation (unitStn e.unit) h g) : onePacket h g e p gr := by
  refine ⟨self.trans ?_, only⟩
  rw [getStn_storeOne, Hub.srcAfter, Pk.after_count]
  rfl

omit plain in
theorem onePacket_lands {s : State} {t : SMap Nat} {g : Hub} {p : Pk} {gr : SMap Grain} (one : onePacket (s.hub.placed t) g e p gr) :
    onePacket s.hub (lands s g).hub e p gr := one

end Plain

/-- The packets of an operation without captured data. -/
theorem evPks_rmo {h : Hub} {s k aux : Nat} {e : Ev} {r : Rmo} (pk : e.pk = some (rmoPk r aux)) (noData : bit (h.srcCfg s k) 28 = false) :
    h.evPks s k e = [rmoPk r aux] := by
  unfold Hub.evPks
  rw [pk, noData]
  unfold rmoPk
  cases r.op <;> rfl

theorem rmoPk_notSync (r : Rmo) (aux : Nat) : (rmoPk r aux).isResync = false := by
  unfold rmoPk
  cases r.op <;> rfl

/-! ## Counters and stalls -/

theorem getStn_updGrain_own (h : Hub) (u : Nat) (f : Grain → Grain) :
    (h.updGrain u f).getStn (unitStn u) = { h.getStn (unitStn u) with grain := SMap.upd {} (h.getStn (unitStn u)).grain (unitSub u) f } :=
  Hub.getStn_updStn h _ _

theorem grainAdd_touches {h : Hub} {u k n : Nat} (plain : k ≠ 1 ∨ isTileUnit u = false ∨ (h.getGrain u).cmd = none) :
    h.touches (unitStn u) (h.grainAdd u k n) := by
  cases ok : unitOk u with
  | false =>
    rw [Hub.grainAdd, if_pos (by rw [ok]; rfl)]
    exact .refl
  | true =>
    by_cases low : k < 8
    · rw [grainAdd_plain ok low (plain.imp_right (Or.imp_right .inl))]
      exact touches_updStn _
    · rw [Hub.grainAdd, if_pos (by simp [Nat.not_lt.mp low])]
      exact .refl

theorem class4_notTile {u : Nat} (channel : unitClass u = 4) : isTileUnit u = false := by
  unfold isTileUnit
  unfold unitClass stnClass at channel
  rw [decide_eq_false_iff_not]
  intro tile
  rw [if_pos tile] at channel
  split_ifs at channel <;> cases channel

theorem traces_grain {h g : Hub} {u : Nat} (t : h.traces (unitStn u) g) : g.getGrain u = h.getGrain u :=
  (congrArg (fun x : Stn => SMap.get ({} : Grain) x.grain (unitSub u)) t.2 : SMap.get {} (stnCore (g.getStn (unitStn u))).grain (unitSub u) =
    SMap.get {} (stnCore (h.getStn (unitStn u))).grain (unitSub u))

/-- An issue that is taken: the event, the counter, the stall. -/
theorem rmoIssue_touches {h : Hub} (r : Rmo) (edge : Option Edge) (dma : unitClass r.issuer = 3 → (h.getGrain r.issuer).cmd = none) :
    h.touches (unitStn r.issuer) (h.rmoIssue r edge) := by
  have seen := observe_traces (h := h) { h.rmoEv 2 r.issuer r 0 with addr := some r.addr }
  unfold Hub.rmoIssue
  split
  · exact .refl
  · have counted : h.touches (unitStn r.issuer) (match unitClass r.issuer with
        | 2 => (h.observe { h.rmoEv 2 r.issuer r 0 with addr := some r.addr }).grainAdd r.issuer 4 1
        | 3 => (h.observe { h.rmoEv 2 r.issuer r 0 with addr := some r.addr }).grainAdd r.issuer 1 1
        | _ => h.observe { h.rmoEv 2 r.issuer r 0 with addr := some r.addr }) := by
      split
      · exact seen.1.trans (grainAdd_touches (.inl (by decide)))
      · next three => exact seen.1.trans (grainAdd_touches (.inr (.inr ((congrArg Grain.cmd (traces_grain seen)).trans (dma three)))))
      · exact seen.1
    dsimp only
    split
    · split
      · exact counted.trans (touches_updStn _)
      · exact counted
    · exact counted

theorem channelServe_touches (h : Hub) (u : Nat) (r : Rmo) : h.touches (unitStn u) (h.channelServe u r) := by
  have requested : h.touches (unitStn u) (h.channelRequest u r) := by
    unfold Hub.channelRequest
    split
    · exact .refl
    · exact (observe_traces (h.rmoEv 6 u r (Nat.min 65535 r.waited))).1
  unfold Hub.channelServe
  dsimp only
  split
  · exact requested
  · next taken =>
    have channel : unitClass u = 4 := by
      rw [Bool.or_eq_true, not_or, decide_eq_true_iff, not_not] at taken
      exact taken.2
    have notTile := class4_notTile channel
    split
    · exact (requested.trans (grainAdd_touches (.inr (.inl notTile)))).trans (grainAdd_touches (.inr (.inl notTile)))
    · exact (requested.trans (grainAdd_touches (.inr (.inl notTile)))).trans (grainAdd_touches (.inr (.inl notTile)))
    · exact requested

theorem rmoArrive_touches (h : Hub) (u : Nat) (r : Rmo) : h.touches (unitStn u) (h.rmoArrive u r) := by
  unfold Hub.rmoArrive
  split
  · exact .refl
  · exact (observe_traces { h.rmoEv 3 u r 0 with arr := some r.addr }).1

section Served

variable {h : Hub} {u : Nat} {r : Rmo}

/-- A request that a plainly traced channel serves: its packet, and two counters. -/
theorem channelServe_counts {i j : Nat} (channel : unitClass u = 4) (plain : plainTrace h (h.rmoEv 6 u r (Nat.min 65535 r.waited)))
    (room : hasRoom h (h.rmoEv 6 u r (Nat.min 65535 r.waited)) (rmoPk r (Nat.min 65535 r.waited)))
    (op : (r.op = .get ∧ i = 1 ∧ j = 3) ∨ (r.op = .put ∧ i = 2 ∧ j = 4)) :
    h.channelServe u r = ((h.storeOne (unitStn u) 0 (unitSub u) (h.ctxSlice r.context) (h.stnTick (unitStn u)) (rmoPk r (Nat.min 65535 r.waited))).updGrain u
      fun g => g.took i 1).updGrain u fun g => g.took j r.len := by
  have runs : h.unitRuns u = true := plain.1
  have ok : unitOk u = true := by
    unfold Hub.unitRuns at runs
    simp only [Bool.and_eq_true] at runs
    exact runs.1.1.1.1
  have noData : bit (h.srcCfg (unitStn u) 0) 28 = false := by
    obtain ⟨-, -, -, -, -, -, -, -, -, -, noData, -⟩ := plain
    exact noData
  have notTile := class4_notTile channel
  have seen := observe_packet plain (p := rmoPk r (Nat.min 65535 r.waited)) rfl rfl (evPks_rmo rfl noData) (rmoPk_notSync _ _) room
  have taken : ¬ (!h.unitRuns u || decide (unitClass u ≠ 4)) = true := by simp [runs, channel]
  unfold Hub.channelServe Hub.channelRequest
  dsimp only
  rw [if_neg taken, if_neg taken, seen]
  obtain ⟨get, rfl, rfl⟩ | ⟨put, rfl, rfl⟩ := op
  · rw [get]
    dsimp only
    rw [grainAdd_plain ok (by decide) (.inr (.inl notTile)), grainAdd_plain ok (by decide) (.inr (.inl notTile))]
    rfl
  · rw [put]
    dsimp only
    rw [grainAdd_plain ok (by decide) (.inr (.inl notTile)), grainAdd_plain ok (by decide) (.inr (.inl notTile))]
    rfl

theorem getStn_twice (h : Hub) (u i n j m : Nat) :
    ((h.updGrain u fun g => g.took i n).updGrain u fun g => g.took j m).getStn (unitStn u) =
      { h.getStn (unitStn u) with grain := counted (counted (h.getStn (unitStn u)).grain (unitSub u) i n) (unitSub u) j m } := by
  rw [getStn_updGrain_own, getStn_updGrain_own]
  rfl

/-- The Perch of a channel after its packet and two counts. -/
theorem onePacket_counts (h : Hub) (e : Ev) (p : Pk) (i n j m : Nat) :
    onePacket h (((h.storeOne (unitStn e.unit) 0 (unitSub e.unit) e.slice (h.stnTick (unitStn e.unit)) p).updGrain e.unit fun g => g.took i n).updGrain e.unit
      fun g => g.took j m) e p (counted (counted (h.getStn (unitStn e.unit)).grain (unitSub e.unit) i n) (unitSub e.unit) j m) := by
  refine onePacket_of ((getStn_twice _ e.unit i n j m).trans ?_) (((storeOne_traces h _ _ _ _ _ p).1.trans (touches_updStn _)).trans (touches_updStn _)).1
  rw [getStn_storeOne]

theorem onePacket_alone (h : Hub) (e : Ev) (p : Pk) :
    onePacket h (h.storeOne (unitStn e.unit) 0 (unitSub e.unit) e.slice (h.stnTick (unitStn e.unit)) p) e p (h.getStn (unitStn e.unit)).grain := by
  refine onePacket_of ?_ (storeOne_traces h _ _ _ _ _ p).1.1
  rw [getStn_storeOne]

/-- An operation that arrives at a plainly traced scratch SRAM. -/
theorem rmoArrive_packet (tile : isTileUnit u = true) (plain : plainTrace h { h.rmoEv 3 u r 0 with arr := some r.addr })
    (room : hasRoom h { h.rmoEv 3 u r 0 with arr := some r.addr } (rmoPk r 0)) :
    h.rmoArrive u r = h.storeOne (unitStn u) 0 (unitSub u) (h.ctxSlice r.context) (h.stnTick (unitStn u)) (rmoPk r 0) := by
  have runs : h.unitRuns u = true := plain.1
  have noData : bit (h.srcCfg (unitStn u) 0) 28 = false := by
    obtain ⟨-, -, -, -, -, -, -, -, -, -, noData, -⟩ := plain
    exact noData
  unfold Hub.rmoArrive
  rw [if_neg]
  · exact observe_packet plain rfl rfl (evPks_rmo rfl noData) (rmoPk_notSync _ _) room
  · unfold Hub.unitRuns at runs
    simp only [Bool.and_eq_true, Bool.not_eq_true'] at runs
    obtain ⟨⟨⟨⟨ok, units⟩, awake⟩, -⟩, -⟩ := runs
    simp [ok, units, awake, tile]

/-- An issuer of a tile is no shared engine. -/
theorem tile_notEngine (tile : isTileUnit u = true) : unitClass u ≠ 7 ∧ ∀ e, engineUnit e ≠ u := by
  unfold isTileUnit unitStn at tile
  have low := of_decide_eq_true tile
  refine ⟨fun seven => ?_, fun e same => ?_⟩
  · unfold unitClass stnClass unitStn at seven
    rw [if_pos low] at seven
    split_ifs at seven <;> cases seven
  · unfold engineUnit engineStn at same
    omega

theorem class01_tile (low : unitClass u < 2) : isTileUnit u = true := by
  unfold isTileUnit
  unfold unitClass stnClass at low
  rw [decide_eq_true_iff]
  by_contra high
  rw [if_neg high] at low
  split_ifs at low <;> exact absurd low (by decide)

/-- A tile unit's issue that is taken. -/
theorem rmoIssue_tile {edge : Option Edge} (issuer : r.issuer = u) (low : unitClass u < 2) (runs : h.unitRuns u = true) :
    h.rmoIssue r edge = match edge with
      | some e => if edgeAllowed u e then (h.observe { h.rmoEv 2 u r 0 with addr := some r.addr }).stallOn_ u r.context e
        else h.observe { h.rmoEv 2 u r 0 with addr := some r.addr }
      | none => h.observe { h.rmoEv 2 u r 0 with addr := some r.addr } := by
  obtain ⟨notEngine, noEngine⟩ := tile_notEngine (class01_tile low)
  have free : h.engineHeld u r.context = false := by
    unfold Hub.engineHeld
    rw [decide_eq_false notEngine, Bool.false_and]
  have unset : h.engineReset u r.context r.tag = false := by
    unfold Hub.engineReset
    rw [List.any_eq_false]
    intro e _ both
    rw [Bool.and_eq_true, beq_iff_eq] at both
    exact noEngine e.1 both.1
  subst issuer
  unfold Hub.rmoIssue
  rw [if_neg (by rw [runs, free, unset]; nofun)]
  dsimp only
  obtain zero | one : unitClass r.issuer = 0 ∨ unitClass r.issuer = 1 := by omega
  · rw [zero]
    cases edge <;> rfl
  · rw [one]
    cases edge <;> rfl

/-- A Perch with no source ON and no condition or range set makes nothing of an event. -/
theorem observe_idle {e : Ev} (off : ∀ k, k < 4 → (h.getSrc (unitStn e.unit) k).st = .off)
    (conds : ∀ c, c < 4 → bit (h.pact (unitStn e.unit) 0x4 (0x4A0 + 4 * c)) 31 = false)
    (ranges : ∀ k, k < 2 → bit (h.pact (unitStn e.unit) 0 (0x460 + 32 * k)) 31 = false) : h.observe e = h := by
  obtain ⟨x, matched⟩ : ∃ x, (if (bit (h.spol e.slice) e.feed && modeOk (h.spol e.slice) e.mode && decide (stnClass (unitStn e.unit) = 0)) = true
      then h.matchStep (unitStn e.unit) e else ({}, h)) = (x, h) := by
    obtain ⟨x, step⟩ := matchStep_noRange e ranges
    split
    · exact ⟨x, step⟩
    · exact ⟨{}, rfl⟩
  unfold Hub.observe
  dsimp only
  rw [matched]
  simp only [List.foldl_cons, List.foldl_nil]
  rw [srcEvent_off (off 0 (by decide)), srcEvent_off (off 1 (by decide)), srcEvent_off (off 2 (by decide)), srcEvent_off (off 3 (by decide)),
    condMet_off e x conds, fireAll_none, ite_self, ite_self]

theorem getStn_updWait (h : Hub) (u : Nat) (f : List Stall → List Stall) :
    (h.updWait u f).getStn (unitStn u) =
      stalledOn (h.getStn (unitStn u)) h.clk.cycle (unitSub u) (f (SMap.get [] (h.getStn (unitStn u)).wait (unitSub u))) := by
  unfold Hub.updWait
  rw [Hub.getStn_updStn]
  unfold stalledOn
  by_cases first : SMap.get 0 (h.getStn (unitStn u)).waitCyc (unitSub u) = h.clk.cycle + 1
  · simp [first]
  · simp [first]

theorem stallOn_touches (h : Hub) (u ctx : Nat) (e : Edge) : h.touches (unitStn u) (h.stallOn_ u ctx e) := touches_updStn _

end Served

/-- Settles O16: the frames by the functions' own, the packets by the one that a plainly traced Perch stores. -/
theorem tracedOperations : Obligations.TracedOperations := by
  unfold Obligations.TracedOperations
  refine fun s u r live => ⟨?_, ?_, fun e dma => ?_, fun op channel plain room => ?_, fun op channel plain room => ?_, fun tile plain room => ?_,
    fun issuer tile low plain room => ?_, fun e issuer runs low allowed off conds ranges => ?_⟩
  · exact yields_run rfl live fun t => (channelServe_touches (s.hub.placed t) u r).imp_right (congrArg (lands s))
  · exact yields_run rfl live fun t => (rmoArrive_touches (s.hub.placed t) u r).imp_right (congrArg (lands s))
  · exact yields_run rfl live fun t => (rmoIssue_touches (h := s.hub.placed t) r e dma).imp_right (congrArg (lands s))
  · exact yields_of_eq rfl live (fun t => channelServe_counts (h := s.hub.placed t) channel plain room (.inl ⟨op, rfl, rfl⟩)) fun t =>
      ⟨onePacket_lands (onePacket_counts (s.hub.placed t) (s.hub.rmoEv 6 u r (Nat.min 65535 r.waited)) _ 1 1 3 r.len), rfl⟩
  · exact yields_of_eq rfl live (fun t => channelServe_counts (h := s.hub.placed t) channel plain room (.inr ⟨op, rfl, rfl⟩)) fun t =>
      ⟨onePacket_lands (onePacket_counts (s.hub.placed t) (s.hub.rmoEv 6 u r (Nat.min 65535 r.waited)) _ 2 1 4 r.len), rfl⟩
  · exact yields_of_eq rfl live (fun t => rmoArrive_packet (h := s.hub.placed t) tile plain room) fun t =>
      ⟨onePacket_lands (onePacket_alone (s.hub.placed t) { s.hub.rmoEv 3 u r 0 with arr := some r.addr } _), rfl⟩
  · have noData : bit (s.hub.srcCfg (unitStn u) 0) 28 = false := by
      obtain ⟨-, -, -, -, -, -, -, -, -, -, noData, -⟩ := plain
      exact noData
    exact yields_of_eq rfl live (fun t => (rmoIssue_tile (h := s.hub.placed t) (edge := none) issuer low plain.1).trans
      (observe_packet (h := s.hub.placed t) (e := { s.hub.rmoEv 2 u r 0 with addr := some r.addr }) plain rfl rfl (evPks_rmo rfl noData) (rmoPk_notSync r 0) room)) fun t =>
      ⟨onePacket_lands (onePacket_alone (s.hub.placed t) { s.hub.rmoEv 2 u r 0 with addr := some r.addr } _), rfl⟩
  · have issued : ∀ t, (s.hub.placed t).rmoIssue r (some e) = (s.hub.placed t).stallOn_ u r.context e := fun t => by
      rw [rmoIssue_tile (h := s.hub.placed t) (edge := some e) issuer low runs]
      dsimp only
      rw [if_pos allowed, observe_idle (h := s.hub.placed t) (e := { (s.hub.placed t).rmoEv 2 u r 0 with addr := some r.addr }) off conds ranges]
    exact yields_of_eq rfl live issued fun t =>
      ⟨getStn_updWait (s.hub.placed t) u _, (stallOn_touches (s.hub.placed t) u r.context e).1, rfl⟩

end Sys2Proof.Machine
end

section
/-!
Program flow (R157, R203, R225): a branch joins the atoms of its core, and the atoms of a core leave as one packet.
-/
namespace Sys2Proof.Machine

section Flow

variable {h : Hub} {u : Nat}

theorem programFlow_traces (kind addr target : Nat) (taken : Bool) (mode after cause : Nat) :
    h.traces (unitStn u) (h.programFlow u kind addr target taken mode after cause) := by
  unfold Hub.programFlow
  split
  · exact .refl
  · dsimp only
    split
    · exact observe_traces { feed := 1, unit := u, slice := h.unitSlice u, mode := mode, pc := some addr, atom := some taken }
    · exact observe_traces { feed := 1, unit := u, slice := h.unitSlice u, mode := mode, pc := some addr, pk := some (.target target) }
    · exact observe_traces { feed := 1, unit := u, slice := h.unitSlice u, mode := mode, pc := some addr, pk := some (.exc 0 after cause target) }
    · exact observe_traces { feed := 1, unit := u, slice := h.unitSlice u, mode := mode, pc := some addr, pk := some (.exc 1 after cause target) }
    · exact observe_traces { feed := 1, unit := u, slice := h.unitSlice u, mode := mode, pc := some addr, pk := some (.exc 2 after cause target) }

theorem coreEvent_touches (kind addr target : Nat) (taken : Bool) (mode after cause : Nat) :
    h.touches (unitStn u) (h.coreEvent u kind addr target taken mode after cause) := by
  have seen := (programFlow_traces (h := h) (u := u) kind addr target taken mode after cause).1
  unfold Hub.coreEvent
  dsimp only
  split
  · exact seen
  · split
    · split
      · exact seen.trans (grainAdd_touches (.inl (by decide)))
      · exact seen
    · exact seen.trans (grainAdd_touches (.inl (by decide)))
    · exact seen.trans (grainAdd_touches (.inl (by decide)))
    · exact seen

/-- The first atom of a core. -/
def firstAtom (tick slice : Nat) (taken : Bool) : Atoms := { bits := [taken], first := tick, last := tick, slice := slice }

/-- A source whose core `sub` has one atom more. -/
def Src.joins (x : Src) (sub slice tick : Nat) (b : Bool) : Src :=
  { x with atoms := SMap.upd {} x.atoms sub fun a =>
    { bits := a.bits ++ [b], first := if a.bits.isEmpty then tick else a.first, last := tick, slice := slice } }

theorem Src.joins_first {x : Src} (none_ : x.atoms = []) (sub slice tick : Nat) (b : Bool) :
    x.joins sub slice tick b = { x with atoms := [(sub, firstAtom tick slice b)] } := by
  have put : SMap.upd {} ([] : SMap Atoms) sub (fun a =>
      { bits := a.bits ++ [b], first := if a.bits.isEmpty then tick else a.first, last := tick, slice := slice }) = [(sub, firstAtom tick slice b)] := by
    unfold SMap.upd SMap.set
    rw [if_neg fun e => absurd (congrArg (fun a : Atoms => a.bits.length) e) (by exact (by decide : ¬ 1 = 0))]
    rfl
  unfold Src.joins
  rw [none_, put]

/-- A branch of a core that has no atoms yet. -/
theorem addAtom_first {s k sub slice tick : Nat} {b : Bool} (none_ : (h.getSrc s k).atoms = []) :
    h.addAtom s k sub slice tick b = h.updSrc s k (Src.joins · sub slice tick b) := by
  have few : ¬ 32 ≤ (SMap.get {} ((h.updSrc s k (Src.joins · sub slice tick b)).getSrc s k).atoms sub).bits.length := by
    rw [getSrc_updSrc, Src.joins_first none_, SMap.get, if_pos rfl]
    exact (by decide : ¬ 32 ≤ 1)
  have same : ¬ ((h.getSrc s k).atoms.any fun a => a.2.slice != slice) = true := by
    rw [none_]
    nofun
  unfold Hub.addAtom
  rw [if_neg same]
  exact if_neg few

/-- What a branch leaves of core `u`'s Perch: its atom alone in the source, and counted if taken. -/
def Hub.branchLeft (h : Hub) (u : Nat) (taken : Bool) : Stn :=
  { h.getStn (unitStn u) with
    src := SMap.set {} (h.getStn (unitStn u)).src 0 { h.getSrc (unitStn u) 0 with
      atoms := [(unitSub u, firstAtom (h.stnTick (unitStn u)) (h.unitSlice u) taken)] },
    grain := if taken then counted (h.getStn (unitStn u)).grain (unitSub u) 2 1 else (h.getStn (unitStn u)).grain }

/-- A branch of a plainly traced core. -/
theorem coreEvent_branch {addr target : Nat} {taken : Bool} {mode after cause : Nat} (scalar : isScalar u = true)
    (plain : plainTrace h { feed := 1, unit := u, slice := h.unitSlice u, mode := mode, pc := some addr, atom := some taken }) :
    (h.coreEvent u 0 addr target taken mode after cause).getStn (unitStn u) = h.branchLeft u taken ∧
    onlyStation (unitStn u) h (h.coreEvent u 0 addr target taken mode after cause) ∧
    h.coreEvent u 0 addr target taken mode after cause = { h with stn := (h.coreEvent u 0 addr target taken mode after cause).stn } := by
  have only := (coreEvent_touches (h := h) (u := u) 0 addr target taken mode after cause).1
  have plain' := plain
  obtain ⟨runs, -, -, -, -, others, -, -, -, -, -, -, -, excl, -, -, atoms, -⟩ := plain
  have runs : h.unitRuns u = true := runs
  have ok : unitOk u = true := by
    unfold Hub.unitRuns at runs
    simp only [Bool.and_eq_true] at runs
    exact runs.1.1.1.1
  have seen : h.observe { feed := 1, unit := u, slice := h.unitSlice u, mode := mode, pc := some addr, atom := some taken } =
      h.updSrc (unitStn u) 0 (Src.joins · (unitSub u) (h.unitSlice u) (h.stnTick (unitStn u)) taken) := by
    refine observe_plain plain' ?_ rfl (fun k other => ?_) fun _ _ => rfl
    · unfold Hub.emitEv
      dsimp only
      rw [closeRun_none excl, excl]
      exact addAtom_first atoms
    · rw [getSrc_updSrc_ne _ _ _ (by omega)]
      exact others k other
  have flow : h.programFlow u 0 addr target taken mode after cause = _ := (if_neg (by simp [runs, scalar])).trans seen
  have branch : h.coreEvent u 0 addr target taken mode after cause =
      if taken then (h.programFlow u 0 addr target taken mode after cause).updGrain u fun g => g.took 2 1
      else h.programFlow u 0 addr target taken mode after cause := by
    unfold Hub.coreEvent
    dsimp only
    rw [if_neg (by simp [runs, scalar]), grainAdd_plain ok (by decide) (.inl (by decide))]
    rfl
  have atoms : (h.getSrc (unitStn u) 0).atoms = [] := atoms
  have self : (h.updSrc (unitStn u) 0 (Src.joins · (unitSub u) (h.unitSlice u) (h.stnTick (unitStn u)) taken)).getStn (unitStn u) =
      { h.getStn (unitStn u) with src := SMap.set {} (h.getStn (unitStn u)).src 0 { h.getSrc (unitStn u) 0 with
        atoms := [(unitSub u, firstAtom (h.stnTick (unitStn u)) (h.unitSlice u) taken)] } } := by
    rw [getStn_updSrc, ← Src.joins_first atoms]
    rfl
  refine ⟨?_, only, ?_⟩
  · rw [branch, flow]
    cases taken with
    | false =>
      rw [if_neg Bool.false_ne_true]
      exact self
    | true =>
      rw [if_pos rfl, getStn_updGrain_own, self]
      rfl
  · rw [branch, flow]
    cases taken <;> rfl

end Flow

/-! ## Atoms that leave (R203) -/

theorem insertBy_perm {α : Type} (f : α → Nat) (a : α) (l : List α) : (insertBy f a l).Perm (a :: l) := by
  induction l with
  | nil => exact .refl _
  | cons b l ih =>
    unfold insertBy
    split
    · exact .refl _
    · exact (ih.cons b).trans (.swap a b l)

theorem sortBy_perm {α : Type} (f : α → Nat) (l : List α) : (sortBy f l).Perm l := by
  have all_ : ∀ (l r : List α), (l.foldl (fun r a => insertBy f a r) r).Perm (l ++ r) := fun l => by
    induction l with
    | nil => exact fun r => .refl r
    | cons a l ih => exact fun r => (ih _).trans (((insertBy_perm f a r).append_left l).trans List.perm_middle)
  exact (all_ l []).trans (by rw [List.append_nil])

theorem del_put {α : Type} (m : SMap α) (k : Nat) (v : α) : SMap.del (SMap.put m k v) k = SMap.del m k := by
  induction m with
  | nil => exact if_pos rfl
  | cons e m ih =>
    unfold SMap.put
    split
    · exact if_pos rfl
    · by_cases here : k = e.1
      · exact ((if_pos here).trans ih).trans (if_pos here).symm
      · exact ((if_neg here).trans (congrArg (e :: ·) ih)).trans (if_neg here).symm

theorem del_del {α : Type} (m : SMap α) (k : Nat) : SMap.del (SMap.del m k) k = SMap.del m k := by
  induction m with
  | nil => rfl
  | cons e m ih =>
    by_cases here : k = e.1
    · rw [show SMap.del (e :: m) k = SMap.del m k from if_pos here]
      exact ih
    · rw [show SMap.del (e :: m) k = e :: SMap.del m k from if_neg here]
      exact (if_neg here).trans (congrArg (e :: ·) ih)

/-- The last of two values set at a key stands. -/
theorem set_set {α : Type} [DecidableEq α] (d : α) (m : SMap α) (k : Nat) (v w : α) : SMap.set d (SMap.set d m k v) k w = SMap.set d m k w := by
  have clear : SMap.del (SMap.set d m k v) k = SMap.del m k := by
    unfold SMap.set
    split
    · exact del_del m k
    · exact (del_put _ k v).trans (del_del m k)
  unfold SMap.set at clear ⊢
  rw [clear]

section Flush

variable {h : Hub} {s sub : Nat} {a : Atoms} {x : Src} (source : h.getSrc s 0 = x) (atoms : x.atoms = [(sub, a)])
include source atoms

/-- A source without the atoms that leave. -/
def Hub.atomsGone (h : Hub) (s sub : Nat) : Hub := h.updSrc s 0 fun x => { x with atoms := SMap.set {} x.atoms sub {} }

theorem getSrc_atomsGone : (h.atomsGone s sub).getSrc s 0 = { x with atoms := [] } := by
  have gone : SMap.set {} [(sub, a)] sub {} = ([] : SMap Atoms) := (if_pos rfl).trans (if_pos rfl)
  rw [Hub.atomsGone, getSrc_updSrc, source, atoms, gone]

/-- The atoms of the one core may leave as one packet of source 0. -/
structure Hub.mayLeave (h : Hub) (s sub : Nat) (a : Atoms) (x : Src) : Prop where
  some_ : a.bits ≠ []
  lost : x.lost = false
  same : x.slice = a.slice + 1
  near : a.last ≤ x.base + 65534
  period : field (h.peckCfg s) 23 20 = 0
  quiet : (h.getStn s).peck.stalled = []
  stream : h.partRing s (h.srcPart s 0) = false
  run : (h.srcStore s 0).st = .run
  accepts : (h.srcStore s 0).accepts false (h.partCap s (h.srcPart s 0)) ((Pk.atoms a.bits).bytes (h.pkCtx s 0) x sub a.last (a.last - x.base)).length
    (field (h.srcCfg s 0) 30 29) = true

variable (leave : h.mayLeave s sub a x)
include leave

/-- The hub after the atoms have left. -/
def Hub.atomsLeft (h : Hub) (s sub : Nat) (a : Atoms) : Hub := (h.atomsGone s sub).storeOne s 0 sub a.slice a.last (.atoms a.bits)

omit source atoms leave in
theorem srcStore_atomsGone : (h.atomsGone s sub).srcStore s 0 = h.srcStore s 0 := by
  unfold Hub.srcStore Hub.atomsGone
  rw [getStn_updSrc]
  rfl

theorem flushCore_one : h.flushCore s 0 sub = h.atomsLeft s sub a := by
  obtain ⟨some_, lost, same, near, period, quiet, stream, run, accepts⟩ := leave
  have gone := getSrc_atomsGone source atoms
  have store : (h.atomsGone s sub).srcStore s 0 = h.srcStore s 0 := srcStore_atomsGone
  have given := give_one (h := h.atomsGone s sub) (s := s) (k := 0) (sub := sub) (slice := a.slice) (tick := a.last) (p := .atoms a.bits) stream
    (by rw [store]; exact run) (by rw [store, Hub.packetOf, gone]; exact accepts)
    ⟨by rw [Hub.atomsGone, getStn_updSrc]; exact quiet, by rw [gone]; exact lost, by rw [gone]; exact same, by rw [gone]; exact near⟩ rfl (s * 8 + sub) none
  have here : SMap.get {} (h.getSrc s 0).atoms sub = a := by
    rw [source, atoms]
    exact if_pos rfl
  unfold Hub.flushCore
  rw [here, if_neg (by simpa [List.isEmpty_iff] using some_)]
  refine (congrArg (Hub.periodic · s 0 a.last) given).trans
    (periodic_off (h := (h.atomsGone s sub).storeOne s 0 sub a.slice a.last (.atoms a.bits)) period _)

/-- Source 0 after its atoms have left. -/
theorem getSrc_atomsLeft : (h.atomsLeft s sub a).getSrc s 0 =
    { x with seq := (x.seq + 1) % 2 ^ 32, base := a.last, slice := a.slice + 1, count := x.count + 1, atoms := [] } := by
  have kept := leave.lost
  unfold Hub.atomsLeft Hub.getSrc
  rw [getStn_storeOne, SMap.get_set_self, Hub.srcAfter, getSrc_atomsGone source atoms, ← kept]
  rfl

omit source atoms leave in
/-- The packet of the atoms. -/
def Hub.atomsPacket (h : Hub) (s sub : Nat) (a : Atoms) (x : Src) : Pkt :=
  ⟨a.slice, 0, x.seq, a.last, (Pk.atoms a.bits).bytes (h.pkCtx s 0) x sub a.last (a.last - x.base), 0⟩

/-- The Perch after its atoms have left. -/
theorem getStn_atomsLeft : (h.atomsLeft s sub a).getStn s = { h.getStn s with
    src := SMap.set {} (h.getStn s).src 0
      { x with seq := (x.seq + 1) % 2 ^ 32, base := a.last, slice := a.slice + 1, count := x.count + 1, atoms := [] },
    peck := { (h.getStn s).peck with
      part := SMap.set {} (h.getStn s).peck.part (h.srcPart s 0)
        { h.srcStore s 0 with lastStore := h.stnTick s, pkts := (h.srcStore s 0).pkts ++ [h.atomsPacket s sub a x] },
      rsv := (h.getStn s).peck.rsv.map fun r => if r.src = 0 then { r with open_ := false } else r } } := by
  have kept := leave.lost
  have after : (h.atomsGone s sub).srcAfter s 0 sub a.slice a.last (.atoms a.bits) =
      { x with seq := (x.seq + 1) % 2 ^ 32, base := a.last, slice := a.slice + 1, count := x.count + 1, atoms := [] } := by
    rw [Hub.srcAfter, getSrc_atomsGone source atoms, ← kept]
    rfl
  have packet : (h.atomsGone s sub).packetOf s 0 sub a.slice a.last (.atoms a.bits) = h.atomsPacket s sub a x := by
    rw [Hub.packetOf, getSrc_atomsGone source atoms]
    rfl
  have src : SMap.set {} ((h.atomsGone s sub).getStn s).src 0 ((h.atomsGone s sub).srcAfter s 0 sub a.slice a.last (.atoms a.bits)) =
      SMap.set {} (h.getStn s).src 0 ((h.atomsGone s sub).srcAfter s 0 sub a.slice a.last (.atoms a.bits)) := by
    rw [Hub.atomsGone, getStn_updSrc]
    exact set_set _ _ _ _ _
  have peck : ((h.atomsGone s sub).getStn s).peck = (h.getStn s).peck := by
    rw [Hub.atomsGone, getStn_updSrc]
  have tick : (h.atomsGone s sub).stnTick s = h.stnTick s := stnTick_updSrc h s 0 _
  unfold Hub.atomsLeft
  rw [getStn_storeOne, src, after, peck, Hub.peckAfter, srcStore_atomsGone, tick, packet, Hub.atomsGone, getStn_updSrc]
  rfl

/-- Only the atoms of the one core leave. -/
theorem flushTo_one (core : sub ∈ [2, 3, 4, 5]) : h.flushTo s 0 a.last = h.atomsLeft s sub a := by
  have here : SMap.get {} (h.getSrc s 0).atoms sub = a := by
    rw [source, atoms]
    exact if_pos rfl
  have member : sub ∈ sortBy (fun j => (SMap.get {} (h.getSrc s 0).atoms j).last)
      ([2, 3, 4, 5].filter fun j => decide ((SMap.get {} (h.getSrc s 0).atoms j).last ≤ a.last)) :=
    (sortBy_perm _ _).mem_iff.mpr (List.mem_filter.mpr ⟨core, by rw [here]; exact decide_eq_true (Nat.le_refl _)⟩)
  obtain ⟨before, after, whole⟩ := List.append_of_mem member
  have once : (before ++ sub :: after).Nodup := whole ▸ (sortBy_perm _ _).nodup_iff.mpr ((by decide : [2, 3, 4, 5].Nodup).filter _)
  have notBefore : ∀ j ∈ before, j ≠ sub := fun j m => (List.nodup_append.mp once).2.2 j m sub List.mem_cons_self
  have notAfter : ∀ j ∈ after, j ≠ sub := fun j m same => (List.nodup_cons.mp (List.nodup_append.mp once).2.1).1 (same ▸ m)
  have first : before.foldl (fun h j => h.flushCore s 0 j) h = h := flushCores_empty fun j m => by
    rw [source, atoms]
    exact congrArg Atoms.bits (if_neg (notBefore j m))
  have last : after.foldl (fun h j => h.flushCore s 0 j) (h.atomsLeft s sub a) = h.atomsLeft s sub a := flushCores_empty fun j m => by
    rw [getSrc_atomsLeft source atoms leave]
    rfl
  unfold Hub.flushTo
  dsimp only
  rw [whole, List.foldl_append, List.foldl_cons, first, flushCore_one source atoms leave, last]

end Flush

/-! ## The flush of a core's atoms -/

/-- What the flush of core `u`'s atoms does with source `k`. -/
def Hub.flushDue (h : Hub) (u k : Nat) : Hub :=
  if !(SMap.get {} (h.getSrc (unitStn u) k).atoms (unitSub u)).bits.isEmpty &&
      decide ((SMap.get {} (h.getSrc (unitStn u) k).atoms (unitSub u)).first + 1024 ≤ h.stnTick (unitStn u)) && (h.getSrc (unitStn u) k).excl.isNone then
    h.flushTo (unitStn u) k (SMap.get {} (h.getSrc (unitStn u) k).atoms (unitSub u)).last
  else h

theorem flushDue_traces (h : Hub) (u k : Nat) : h.traces (unitStn u) (h.flushDue u k) := traces_ite (flushTo_traces _ _) .refl

/-- What the flush of core `u`'s atoms does with every source. -/
def Hub.flushDues (h : Hub) (u : Nat) : Hub := [0, 1, 2, 3].foldl (fun h k => h.flushDue u k) h

theorem flushDues_traces (h : Hub) (u : Nat) : h.traces (unitStn u) (h.flushDues u) := traces_foldl (fun h k => flushDue_traces h u k) [0, 1, 2, 3] h

theorem flushDue_empty {h : Hub} {u k : Nat} (empty : (SMap.get {} (h.getSrc (unitStn u) k).atoms (unitSub u)).bits = []) : h.flushDue u k = h :=
  if_neg (by rw [empty]; nofun)

theorem scalar_sub {u : Nat} (scalar : isScalar u = true) : unitSub u ∈ [2, 3, 4, 5] := by
  unfold isScalar unitClass at scalar
  have two := of_decide_eq_true scalar
  split at two
  · by_cases zero : unitSub u = 0
    · rw [if_pos zero] at two
      cases two
    · rw [if_neg zero] at two
      by_cases one : unitSub u = 1
      · rw [if_pos one] at two
        cases two
      · rw [if_neg one] at two
        by_cases low : unitSub u < 6
        · simp only [List.mem_cons, List.not_mem_nil, or_false]
          omega
        · rw [if_neg low] at two
          cases two
  all_goals cases two

theorem flushDues_one {h : Hub} {u : Nat} {a : Atoms} {x : Src} (scalar : isScalar u = true)
    (others : ∀ k, k = 1 ∨ k = 2 ∨ k = 3 → (SMap.get {} (h.getSrc (unitStn u) k).atoms (unitSub u)).bits = [])
    (source : h.getSrc (unitStn u) 0 = x) (atoms : x.atoms = [(unitSub u, a)]) (due : a.first + 1024 ≤ h.stnTick (unitStn u)) (excl : x.excl = none)
    (leave : h.mayLeave (unitStn u) (unitSub u) a x) :
    h.flushDues u = h.atomsLeft (unitStn u) (unitSub u) a := by
  have here : SMap.get {} (h.getSrc (unitStn u) 0).atoms (unitSub u) = a := by
    rw [source, atoms]
    exact if_pos rfl
  have first : h.flushDue u 0 = h.atomsLeft (unitStn u) (unitSub u) a := by
    have some_ : a.bits.isEmpty = false := by simpa [List.isEmpty_iff] using leave.some_
    unfold Hub.flushDue
    rw [here, some_, source, excl, decide_eq_true due]
    exact flushTo_one source atoms leave (scalar_sub scalar)
  have still : ∀ k, k = 1 ∨ k = 2 ∨ k = 3 → (h.atomsLeft (unitStn u) (unitSub u) a).flushDue u k = h.atomsLeft (unitStn u) (unitSub u) a := fun k other => by
    refine flushDue_empty ?_
    have same : (h.atomsLeft (unitStn u) (unitSub u) a).getSrc (unitStn u) k = h.getSrc (unitStn u) k :=
      (getSrc_storeOne_ne _ _ _ _ _ _ (by omega)).trans (getSrc_updSrc_ne h _ _ (by omega))
    rw [same]
    exact others k other
  unfold Hub.flushDues
  simp only [List.foldl_cons, List.foldl_nil]
  rw [first, still 1 (.inl rfl), still 2 (.inr (.inl rfl)), still 3 (.inr (.inr rfl))]

/-- What touches one Perch alone on a hub that a command is placed on does so when it lands. -/
theorem touches_lands {s : State} {t : SMap Nat} {g : Hub} {st : Nat} (all : (s.hub.placed t).touches st g) :
    onlyStation st s.hub (lands s g).hub ∧ lands s g = { s with hub := asideTrace (s.hub.placed t) (lands s g).hub } :=
  all.imp_right (congrArg (lands s))

theorem atomsLeft_frame (h : Hub) (st sub : Nat) (a : Atoms) : h.atomsLeft st sub a = { h with stn := (h.atomsLeft st sub a).stn } := rfl

theorem atomsLeft_only (h : Hub) (st sub : Nat) (a : Atoms) : onlyStation st h (h.atomsLeft st sub a) :=
  ((traces_updSrc (h := h) (st := st) 0 fun x => { x with atoms := SMap.set {} x.atoms sub {} }).trans (storeOne_traces _ _ _ _ _ _ _)).1.1

/-- Settles O17: the frames by the functions' own, the branch by the atom it leaves, the flush by the one packet. -/
theorem programFlow : Obligations.ProgramFlow := by
  unfold Obligations.ProgramFlow
  refine fun s u live => ⟨fun kind addr target taken mode after cause => ?_, ?_, fun addr target taken mode after cause scalar plain => ?_,
    fun a p x scalar others source atoms some_ due excl same lost near period quiet stream part run accepts => ?_⟩
  · exact yields_run rfl live fun t => (coreEvent_touches (h := s.hub.placed t) (u := u) kind addr target taken mode after cause).imp_right (congrArg (lands s))
  · refine yields_of_eq (g := fun t => (s.hub.placed t).flushDues u) rfl live (fun t => rfl) fun t => ?_
    exact touches_lands (flushDues_traces (s.hub.placed t) u).1
  · refine yields_run rfl live fun t => ?_
    obtain ⟨self, only, frame⟩ := coreEvent_branch (h := s.hub.placed t) (u := u) (addr := addr) (target := target) (taken := taken) (mode := mode)
      (after := after) (cause := cause) scalar plain
    exact ⟨self, only, congrArg (lands s) frame⟩
  · subst part
    have leave : ∀ t, (s.hub.placed t).mayLeave (unitStn u) (unitSub u) a x := fun t =>
      ⟨some_, lost, same, near, period, quiet, stream, run, accepts⟩
    refine yields_of_eq (g := fun t => (s.hub.placed t).flushDues u) rfl live (fun t => rfl) fun t => ?_
    rw [flushDues_one (h := s.hub.placed t) scalar others source atoms due excl (leave t)]
    have self := getStn_atomsLeft (h := s.hub.placed t) source atoms (leave t)
    have only := atomsLeft_only (s.hub.placed t) (unitStn u) (unitSub u) a
    have frame := atomsLeft_frame (s.hub.placed t) (unitStn u) (unitSub u) a
    generalize (s.hub.placed t).atomsLeft (unitStn u) (unitSub u) a = g at self only frame ⊢
    exact ⟨self, only, congrArg (lands s) frame⟩

end Sys2Proof.Machine
end

section
/-!
O20: stalls begin and end, and an operation completes at its unit (R225, R240, R293, R294).
-/
namespace Sys2Proof.Machine

/-- Station `st` alone may differ, and nothing outside the stations. -/
def Hub.alters (st : Nat) (h g : Hub) : Prop := onlyStation st h g ∧ g = { h with stn := g.stn }

section Alters

variable {st : Nat} {h g k : Hub}

theorem Hub.alters.trans (a : h.alters st g) (b : g.alters st k) : h.alters st k := by
  obtain ⟨onlyA, ea⟩ := a
  obtain ⟨onlyB, eb⟩ := b
  refine ⟨onlyStation_trans onlyA onlyB, ?_⟩
  rw [eb, ea]

theorem alters_updStn (h : Hub) (st : Nat) (f : Stn → Stn) : h.alters st (h.updStn st f) := ⟨fun _ other => Hub.getStn_updStn_ne h f other, rfl⟩

/-- What alters one station of a hub that a command is placed on does so when it lands; the station is as it was left. -/
theorem alters_lands {s : State} {t : SMap Nat} {x : Stn} (self : g.getStn st = x) (all : (s.hub.placed t).alters st g) :
    (lands s g).hub.getStn st = x ∧ onlyStation st s.hub (lands s g).hub ∧
      lands s g = { s with hub := { s.hub.placed t with stn := (lands s g).hub.stn } } :=
  ⟨self, all.1, congrArg (lands s) all.2⟩

end Alters

theorem unitRuns_ok {h : Hub} {u : Nat} (runs : h.unitRuns u = true) : unitOk u = true := by
  unfold Hub.unitRuns at runs
  simp only [Bool.and_eq_true] at runs
  exact runs.1.1.1.1

/-! ## Stall conditions -/

section Stalls

variable {h : Hub} {u : Nat} {p : Stall → Bool}

theorem stallOff_first {a q : List Stall} {x : Stall} (wait : SMap.get [] (h.getStn (unitStn u)).wait (unitSub u) = a ++ x :: q)
    (before : ∀ y ∈ a, p y = false) (hit : p x = true) : h.stallOff u p = h.updWait u fun l => eraseAt l a.length := by
  unfold Hub.stallOff
  rw [wait, firstIdx_some before hit]

theorem getStn_stallOff {a q : List Stall} {x : Stall} (wait : SMap.get [] (h.getStn (unitStn u)).wait (unitSub u) = a ++ x :: q)
    (before : ∀ y ∈ a, p y = false) (hit : p x = true) :
    (h.stallOff u p).getStn (unitStn u) = stalledOn (h.getStn (unitStn u)) h.clk.cycle (unitSub u) (a ++ q) := by
  rw [stallOff_first wait before hit, getStn_updWait, wait, eraseAt_behind]

theorem stallOff_none (wait : SMap.get [] (h.getStn (unitStn u)).wait (unitSub u) = []) : h.stallOff u p = h := by
  unfold Hub.stallOff
  rw [wait]
  rfl

theorem stallOff_alters (h : Hub) (u : Nat) (p : Stall → Bool) : h.alters (unitStn u) (h.stallOff u p) := by
  unfold Hub.stallOff
  split
  · exact ⟨fun _ _ => rfl, rfl⟩
  · exact alters_updStn _ _ _

theorem unitStall_runs {ctx : Nat} {e : Edge} (runs : h.unitRuns u = true) (allowed : edgeAllowed u e = true) : h.unitStall u ctx e = h.stallOn_ u ctx e :=
  if_pos (by rw [runs, allowed]; rfl)

theorem creditReturn_first {a q : List Stall} {x : Stall} (runs : h.unitRuns u = true)
    (wait : SMap.get [] (h.getStn (unitStn u)).wait (unitSub u) = a ++ x :: q) (before : ∀ y ∈ a, y.edge.kind ≠ 3) (credit : x.edge.kind = 3) :
    h.creditReturn u none = h.stallOff u fun x => x.edge.kind == 3 := by
  have found : (a ++ x :: q).find? (fun x => x.edge.kind == 3) = some x := by
    rw [List.find?_append, List.find?_eq_none.mpr fun y m => by simpa using before y m, List.find?_cons_of_pos (by simpa using credit)]
    rfl
  unfold Hub.creditReturn
  dsimp only
  rw [if_neg (by rw [runs]; nofun), wait, found]

end Stalls

/-! ## Operations that complete -/

section Completes

variable {h : Hub} {r : Rmo}

theorem notFence (op : r.op = .get ∨ r.op = .put ∨ r.op = .atomic) :
    r.op ≠ .fenceWait ∧ (r.op == .fenceSignal || r.op == .fenceWait) = false := by
  rcases op with op | op | op <;> rw [op] <;> decide

/-- The cache after a charge to a key that it does not hold. -/
def Stn.charged (t : Stn) (st ctx tag slice : Nat) (f : List Nat) : Stn := { t with cache := t.cache ++ [⟨st, ctx, tag, slice, addFields [] f⟩] }

theorem charge_new {st ctx tag slice : Nat} {f : List Nat} (absent : ∀ c ∈ (h.getStn st).cache, ¬ (c.context = ctx ∧ c.tag = tag))
    (room : (h.getStn st).cache.length < 16) : h.charge st ctx tag slice f = h.updStn st fun t => t.charged st ctx tag slice f := by
  have first : firstIdx (fun c : Charge => c.context == ctx && c.tag == tag) (h.getStn st).cache = none :=
    firstIdx_none fun c m => by simpa using absent c m
  unfold Hub.charge
  dsimp only
  rw [first]
  exact if_pos room

theorem rmoComplete_ok (runs : h.unitRuns r.issuer = true) (issuer : isTileUnit r.issuer = true ∨ unitClass r.issuer = 7)
    (op : r.op = .get ∨ r.op = .put ∨ r.op = .atomic) (wait : SMap.get [] (h.getStn (unitStn r.issuer)).wait (unitSub r.issuer) = [])
    (absent : ∀ c ∈ (h.getStn (unitStn r.issuer)).cache, ¬ (c.context = r.context ∧ c.tag = r.tag))
    (room : (h.getStn (unitStn r.issuer)).cache.length < 16) :
    h.rmoComplete r stOk = h.updStn (unitStn r.issuer) fun t => t.charged (unitStn r.issuer) r.context r.tag (h.ctxSlice r.context) (rmoCharge r) := by
  obtain ⟨notWait, notFence⟩ := notFence op
  have counts : (if unitClass r.issuer = 3 ∧ stOk ≠ stOk then h.grainAdd r.issuer 5 1 else h) = h := if_neg fun both => both.2 rfl
  have issues : (isTileUnit r.issuer || decide (unitClass r.issuer = 7)) = true := by simpa using issuer
  unfold Hub.rmoComplete
  dsimp only
  rw [if_neg (by rw [runs]; nofun), if_neg notWait, counts, notFence, issues, if_pos (by decide), charge_new absent room]
  refine stallOff_none ?_
  rw [Hub.getStn_updStn]
  exact wait

/-- The counter of a DMA engine's failed operations. -/
def Hub.failCounted (h : Hub) (u : Nat) : Hub := if unitClass u = 3 then h.updGrain u fun g => g.took 5 1 else h

theorem getStn_failCounted (h : Hub) (u : Nat) : (h.failCounted u).getStn (unitStn u) = { h.getStn (unitStn u) with
    grain := if unitClass u = 3 then counted (h.getStn (unitStn u)).grain (unitSub u) 5 1 else (h.getStn (unitStn u)).grain } := by
  unfold Hub.failCounted
  split
  · exact getStn_updGrain_own h u _
  · rfl

theorem failCounted_alters (h : Hub) (u : Nat) : h.alters (unitStn u) (h.failCounted u) := by
  unfold Hub.failCounted
  split
  · exact alters_updStn _ _ _
  · exact ⟨fun _ _ => rfl, rfl⟩

theorem rmoComplete_fails {status : Nat} (runs : h.unitRuns r.issuer = true) (op : r.op = .get ∨ r.op = .put ∨ r.op = .atomic) (fails : status ≠ stOk) :
    h.rmoComplete r status = (h.failCounted r.issuer).stallOff r.issuer fun x => x.edge.kind == 2 && x.edge.arg == r.addr := by
  obtain ⟨notWait, -⟩ := notFence op
  have counts : (if unitClass r.issuer = 3 ∧ status ≠ stOk then h.grainAdd r.issuer 5 1 else h) = h.failCounted r.issuer := by
    rw [grainAdd_plain (unitRuns_ok runs) (by decide) (.inl (by decide))]
    simp only [fails, Hub.failCounted, ne_eq, not_false_eq_true, and_true]
  unfold Hub.rmoComplete
  dsimp only
  rw [if_neg (by rw [runs]; nofun), if_neg notWait, counts, decide_eq_false fails, Bool.false_and, Bool.false_and, if_neg Bool.false_ne_true]

end Completes

/-- Settles O20: each completion through the one stall condition that it ends. -/
theorem unitStalls : Obligations.UnitStalls := by
  unfold Obligations.UnitStalls
  refine fun s unit live runs => ⟨fun ctx e allowed => ?_, fun a q x wait before credit => ?_, fun r same issuer op wait absent room => ?_,
    fun r a q x status same op fails wait before rmo addr => ?_⟩
  · exact yields_of_eq rfl live (fun t => unitStall_runs (h := s.hub.placed t) runs allowed) fun t =>
      alters_lands (getStn_updWait (s.hub.placed t) unit _) (alters_updStn _ _ _)
  · refine yields_of_eq rfl live (fun t => creditReturn_first (h := s.hub.placed t) runs wait before credit) fun t => ?_
    exact alters_lands (getStn_stallOff (h := s.hub.placed t) wait (fun y m => by simpa using before y m) (by simpa using credit)) (stallOff_alters _ _ _)
  · subst same
    exact yields_of_eq rfl live (fun t => rmoComplete_ok (h := s.hub.placed t) runs issuer op wait absent room) fun t =>
      alters_lands (Hub.getStn_updStn (s.hub.placed t) _ _) (alters_updStn _ _ _)
  · subst same
    refine yields_of_eq rfl live (fun t => rmoComplete_fails (h := s.hub.placed t) runs op fails) fun t => ?_
    have counts := getStn_failCounted (s.hub.placed t) r.issuer
    have still : SMap.get [] (((s.hub.placed t).failCounted r.issuer).getStn (unitStn r.issuer)).wait (unitSub r.issuer) = a ++ x :: q := by
      rw [counts]
      exact wait
    have ends := getStn_stallOff (p := fun x => x.edge.kind == 2 && x.edge.arg == r.addr) still (fun y m => by simpa using before y m) (by simp [rmo, addr])
    rw [counts] at ends
    refine alters_lands (ends.trans ?_) ((failCounted_alters _ _).trans (stallOff_alters _ _ _))
    unfold Hub.failCounted
    split <;> rfl

end Sys2Proof.Machine
end

section
/-!
O19: fences, their signals and the waits on them (R42 to R47, R437, R447).
-/
namespace Sys2Proof.Machine

/-- A command that runs `f` on a hub out of reset, where what `f` leaves is known by what holds of it. -/
theorem yields_ex {c : Instr} {f : Mem → Hub → Hub} {s : State} {P : Hub → State → Prop} (x : exec c s = run c f s)
    (live : s.hub.live = true) (p : ∀ t, ∃ g, f s.mem (s.hub.placed t) = g ∧ P (s.hub.placed t) (lands s g)) : Yields c s P :=
  yields_run x live fun t => by
    obtain ⟨g, e, holds⟩ := p t
    rw [e]
    exact holds

/-! ## What observation leaves of every station -/

/-- Observation alone has touched the hub: every station is the same beside its trace. -/
def Hub.aside (h g : Hub) : Prop := (∀ y, stnCore (g.getStn y) = stnCore (h.getStn y)) ∧ g = asideTrace h g

section Aside

variable {h g k : Hub} {st : Nat}

theorem Hub.traces.aside (t : h.traces st g) : h.aside g := by
  obtain ⟨⟨only, frame⟩, core⟩ := t
  refine ⟨fun y => ?_, frame⟩
  by_cases own : y = st
  · rw [own, core]
  · rw [only y own]

theorem Hub.aside.refl : h.aside h := ⟨fun _ => rfl, rfl⟩

theorem Hub.aside.trans (a : h.aside g) (b : g.aside k) : h.aside k := by
  obtain ⟨coreA, ea⟩ := a
  obtain ⟨coreB, eb⟩ := b
  refine ⟨fun y => (coreB y).trans (coreA y), ?_⟩
  rw [eb, ea]
  rfl

/-- The cores of all stations are the same. -/
def Hub.sameCore (h g : Hub) : Prop := ∀ y, stnCore (g.getStn y) = stnCore (h.getStn y)

theorem Hub.sameCore.trans (a : h.sameCore g) (b : g.sameCore k) : h.sameCore k := fun y => (b y).trans (a y)

theorem Hub.sameCore.getGrain (a : h.sameCore g) (u : Nat) : g.getGrain u = h.getGrain u :=
  (congrArg (fun x : Stn => SMap.get ({} : Grain) x.grain (unitSub u)) (a (unitStn u)) :
    SMap.get {} (stnCore (g.getStn (unitStn u))).grain (unitSub u) = SMap.get {} (stnCore (h.getStn (unitStn u))).grain (unitSub u))

end Aside

/-! ## One unit's counters, one context, one fence -/

section Only

variable {h g k : Hub} {u : Nat} {x : Grain}

theorem onlyGrain_updGrain (h : Hub) (u : Nat) (f : Grain → Grain) : onlyGrain u (f (h.getGrain u)) h (h.updGrain u f) := by
  refine ⟨getGrain_updGrain h u f, fun v other => getGrain_updGrain_ne h u f other, fun y => ?_⟩
  exact (congrArg stnCore (getStn_updGrain h u f y) : stnCore { (h.updGrain u f).getStn y with grain := [] } = stnCore { h.getStn y with grain := [] })

theorem onlyGrain_of_core (a : h.sameCore g) (same : h.getGrain u = x) : onlyGrain u x h g :=
  ⟨(a.getGrain u).trans same, fun v _ => a.getGrain v, fun y => by rw [a y]⟩

theorem onlyGrain_after (a : h.sameCore g) (b : onlyGrain u x g k) : onlyGrain u x h k := by
  obtain ⟨self, others, rest⟩ := b
  exact ⟨self, fun v other => (others v other).trans (a.getGrain v), fun y => (rest y).trans (by rw [a y])⟩

theorem onlyGrain_before (a : onlyGrain u x h g) (b : g.sameCore k) : onlyGrain u x h k := by
  obtain ⟨self, others, rest⟩ := a
  exact ⟨(b.getGrain u).trans self, fun v other => (b.getGrain v).trans (others v other), fun y => by rw [b y]; exact rest y⟩

theorem onlyGrain_twice {z : Grain} (a : onlyGrain u x h g) (b : onlyGrain u z g k) : onlyGrain u z h k := by
  obtain ⟨-, othersA, restA⟩ := a
  obtain ⟨self, others, rest⟩ := b
  exact ⟨self, fun v other => (others v other).trans (othersA v other), fun y => (rest y).trans (restA y)⟩

theorem onlyContext_updCtx (h : Hub) (c : Nat) (f : Ctx → Ctx) : onlyContext c (f (h.getCtx c)) h (h.updCtx c f) :=
  ⟨Hub.getCtx_updCtx h c f, fun _ other => Hub.getCtx_updCtx_ne h f other⟩

theorem onlyContext_of_ctx {c : Nat} {y : Ctx} (a : onlyContext c y h g) (same : k.ctx = g.ctx) : onlyContext c y h k := by
  have get : ∀ d, k.getCtx d = g.getCtx d := fun d => congrArg (fun l => SMap.get ({} : Ctx) l d) same
  exact ⟨(get c).trans a.1, fun d other => (get d).trans (a.2 d other)⟩

theorem onlyFence_updFence (h : Hub) (id : Nat) (f : Fence → Fence) : onlyFence id (f (h.getFence id)) h (h.updFence id f) :=
  ⟨Hub.getFence_updFence h id f, fun _ other => Hub.getFence_updFence_ne h f other⟩

theorem onlyFence_of_fence {id : Nat} {x : Fence} (a : onlyFence id x h g) (same : k.fence = g.fence) : onlyFence id x h k := by
  have get : ∀ d, k.getFence d = g.getFence d := fun d => congrArg (fun l => SMap.get ({} : Fence) l d) same
  exact ⟨(get id).trans a.1, fun d other => (get d).trans (a.2 d other)⟩

theorem onlyFence_twice {id : Nat} {x z : Fence} (a : onlyFence id x h g) (b : onlyFence id z g k) : onlyFence id z h k :=
  ⟨b.1, fun d other => (b.2 d other).trans (a.2 d other)⟩

end Only

/-! ## Signals -/

section Signals

variable {h : Hub} {id : Nat} {mode slice : Nat} {ctx : Option Nat}

/-- The first signal of a hub cycle compares with the fence as it stands. -/
theorem fenceBase_first {f : Fence} (first : f.cyc ≠ h.clk.cycle + 1) :
    h.fenceBase f = { f with base := f.value, baseSt := f.st, cyc := h.clk.cycle + 1 } := if_neg first

/-- A fence that a signal has set. -/
def Fence.signalledAt (f : Fence) (value cyc : Nat) : Fence :=
  { f with st := .signalled, value := value % 2 ^ 64, base := f.value, baseSt := f.st, cyc := cyc }

/-- A fence that an error signal has reached. -/
def Fence.failedAt (f : Fence) (cyc : Nat) : Fence := { f with st := .error, base := f.value, baseSt := f.st, cyc := cyc }

/-- Of a fence without waiters nobody wakes. -/
theorem wakeAll_alone (none : (h.getFence id).waiters = []) :
    h.wakeAll id = h.updFence id fun f => { f with waiters := f.waiters.filter fun w => !f.satisfies w.value } := by
  unfold Hub.wakeAll
  dsimp only
  rw [none]
  rfl

theorem onlyFence_wakeAll (none : (h.getFence id).waiters = []) : onlyFence id (h.getFence id) h (h.wakeAll id) := by
  rw [wakeAll_alone none]
  have same : h.getFence id = { h.getFence id with waiters := (h.getFence id).waiters.filter fun w => !(h.getFence id).satisfies w.value } := by
    rw [none]
    exact (congrArg (fun w => { h.getFence id with waiters := w }) none : { h.getFence id with waiters := (h.getFence id).waiters } = _)
  have upd := onlyFence_updFence h id fun f => { f with waiters := f.waiters.filter fun w => !f.satisfies w.value }
  rw [← same] at upd
  exact upd

theorem wakeAll_frame (none : (h.getFence id).waiters = []) : h.wakeAll id = { h with fence := (h.wakeAll id).fence } := by
  rw [wakeAll_alone none]
  rfl

/-- What the owner of a fence sees of an event of it. -/
def Hub.ownerEv (h : Hub) (id ctx slice mode ev : Nat) (err : Bool) (value : Nat) (ferr forder : Bool) : Hub :=
  if fenceExported id then h else h.fenceEv (fenceOwner id) ctx slice mode ev err (h.localRef id) value ferr forder

theorem ownerEv_aside (h : Hub) (id ctx slice mode ev : Nat) (err : Bool) (value : Nat) (ferr forder : Bool) :
    h.aside (h.ownerEv id ctx slice mode ev err value ferr forder) := by
  unfold Hub.ownerEv
  split
  · exact .refl
  · exact (fenceEv_traces _ _ _ _ _ _ _ _ _ _).aside

/-- A fence changes to `x`, its owner sees the event, and for the rest only trace has. -/
structure Hub.fenced (id : Nat) (x : Fence) (h g : Hub) : Prop where
  only : onlyFence id x h g
  core : h.sameCore g
  frame : g = asideTrace { h with fence := g.fence } g
  exported : fenceExported id = true → g = { h with fence := g.fence }

theorem fenced_ownerEv {x : Fence} {ev value : Nat} {err ferr forder : Bool} {c : Nat} :
    h.fenced id x ((h.updFence id fun _ => x).ownerEv id c slice mode ev err value ferr forder) := by
  obtain ⟨core, frame⟩ := ownerEv_aside (h.updFence id fun _ => x) id c slice mode ev err value ferr forder
  refine ⟨onlyFence_of_fence (onlyFence_updFence h id fun _ => x) ((congrArg Hub.fence frame :)), core, ?_, fun exported => ?_⟩
  · generalize (h.updFence id fun _ => x).ownerEv id c slice mode ev err value ferr forder = g at frame
    rw [frame]
    rfl
  · unfold Hub.ownerEv
    rw [if_pos exported]
    rfl

theorem Hub.fenced.wakeAll {g : Hub} {x : Fence} (a : h.fenced id x g) (none : x.waiters = []) : h.fenced id x (g.wakeAll id) := by
  have empty : (g.getFence id).waiters = [] := by rw [a.only.1, none]
  have frame := wakeAll_frame empty
  have only := onlyFence_twice a.only (onlyFence_wakeAll empty)
  rw [a.only.1] at only
  have same : ∀ y, (g.wakeAll id).getStn y = g.getStn y := fun y => by rw [frame]; rfl
  refine ⟨only, fun y => by rw [same]; exact a.core y, ?_, fun exported => ?_⟩
  · have before := a.frame
    generalize g.wakeAll id = k at frame
    rw [frame, before]
    rfl
  · rw [frame, a.exported exported]

/-- A signal ahead of the fence, the first of its hub cycle, where nobody waits. -/
theorem fenceApply_ahead {value : Nat} (first : (h.getFence id).cyc ≠ h.clk.cycle + 1) (none : (h.getFence id).waiters = [])
    (sound : (h.getFence id).st ≠ .error) (ahead : ahead64 value (h.getFence id).value = true) :
    ∃ g, h.fenceApply id value mode ctx slice = (true, g) ∧ h.fenced id ((h.getFence id).signalledAt value (h.clk.cycle + 1)) g := by
  have sets : h.fenceApply id value mode ctx slice = (true,
      ((h.updFence id fun _ => (h.getFence id).signalledAt value (h.clk.cycle + 1)).ownerEv id (ctx.getD 0) slice mode 0 false value false false).wakeAll id) := by
    unfold Hub.fenceApply
    dsimp only
    rw [fenceBase_first first, if_neg sound, if_pos ahead]
    simp only [decide_true, Bool.true_or, if_true]
    rfl
  exact ⟨_, sets, fenced_ownerEv.wakeAll none⟩

/-- An error signal, the first signal of its hub cycle, where nobody waits. -/
theorem fenceErr_first (first : (h.getFence id).cyc ≠ h.clk.cycle + 1) (none : (h.getFence id).waiters = []) (sound : (h.getFence id).st ≠ .error) :
    h.fenced id ((h.getFence id).failedAt (h.clk.cycle + 1)) (h.fenceErr id mode ctx slice) := by
  have sets : h.fenceErr id mode ctx slice =
      (h.updFence id fun _ => (h.getFence id).failedAt (h.clk.cycle + 1)).ownerEv id (ctx.getD 0) slice mode 0 true (h.getFence id).value true false := by
    unfold Hub.fenceErr
    dsimp only
    rw [fenceBase_first first, if_neg sound, none]
    unfold Fence.failedAt Hub.ownerEv
    rw [none]
    rfl
  rw [sets]
  exact fenced_ownerEv

theorem maySignal_exported (may : h.maySignal id none = true) : fenceExported id = true := by
  unfold Hub.maySignal at may
  simp only [Bool.and_eq_true] at may
  obtain ⟨-, may⟩ := may
  split at may
  · next b => cases b
  · exact may
  · cases may

/-- A signal that is applied is progress of its context, and the command's count of instructions starts again. -/
theorem onlyGrain_grainRestart (h : Hub) {unit : Nat} (ctx : Nat) (ok : unitOk unit = true) :
    onlyGrain unit { h.getGrain unit with retired := if (h.getGrain unit).cmd.map Prod.fst = some ctx then 0 else (h.getGrain unit).retired } h
      (h.grainRestart unit ctx) := by
  unfold Hub.grainRestart
  rw [ok, Bool.true_and]
  by_cases own : (h.getGrain unit).cmd.map Prod.fst = some ctx
  · simp only [own, beq_self_eq_true, if_true]
    exact onlyGrain_updGrain h unit fun g => { g with retired := 0 }
  · have other : ((h.getGrain unit).cmd.map Prod.fst == some ctx) = false := by simpa using own
    simp only [own, other, if_false, Bool.false_eq_true]
    exact onlyGrain_of_core (fun _ => rfl) rfl

theorem grainRestart_frame (h : Hub) (unit ctx : Nat) : h.grainRestart unit ctx = { h with stn := (h.grainRestart unit ctx).stn } := by
  unfold Hub.grainRestart
  split <;> rfl

/-- Progress of context `c` and the restart of its unit's count. -/
def Hub.signalMade (h : Hub) (unit c : Nat) : Hub := (h.progress c 1).grainRestart unit c

theorem signalMade_frame (h : Hub) (unit c : Nat) : h.signalMade unit c = { h with ctx := (h.signalMade unit c).ctx, stn := (h.signalMade unit c).stn } := by
  unfold Hub.signalMade
  rw [grainRestart_frame]
  rfl

theorem signalMade_context (h : Hub) (unit c : Nat) :
    onlyContext c { h.getCtx c with progress := ((h.getCtx c).progress + 1) % 2 ^ 32 } h (h.signalMade unit c) :=
  onlyContext_of_ctx (onlyContext_updCtx h c fun x => { x with progress := (x.progress + 1) % 2 ^ 32 })
    ((congrArg Hub.ctx (grainRestart_frame (h.progress c 1) unit c) :))

/-- What a signal that is applied leaves: the fence, its context's progress, the count of its unit. -/
theorem ctxSignal_ahead {unit c tag value : Nat} {ref : FenceRef} (here : ref.pkg = h.pkg) (may : h.maySignal ref.id (some slice) = true)
    (first : (h.getFence ref.id).cyc ≠ h.clk.cycle + 1) (none : (h.getFence ref.id).waiters = []) (sound : (h.getFence ref.id).st ≠ .error)
    (ahead : ahead64 value (h.getFence ref.id).value = true) :
    ∃ g, h.ctxSignal c slice unit tag false ref value mode = g.signalMade unit c ∧
      h.fenced ref.id ((h.getFence ref.id).signalledAt value (h.clk.cycle + 1)) g := by
  obtain ⟨g, sets, fenced⟩ := fenceApply_ahead (mode := mode) (ctx := some c) (slice := slice) first none sound ahead
  refine ⟨g, ?_, fenced⟩
  unfold Hub.ctxSignal
  rw [if_neg (not_not_intro here), if_neg (by rw [may]; nofun), sets]
  rfl

end Signals

theorem signalled_of_made {s : State} {t : SMap Nat} {g : Hub} {unit c id : Nat} {x : Fence} (ok : unitOk unit = true)
    (fenced : (s.hub.placed t).fenced id x g) :
    onlyFence id x s.hub (lands s (g.signalMade unit c)).hub ∧
    onlyContext c { s.hub.getCtx c with progress := ((s.hub.getCtx c).progress + 1) % 2 ^ 32 } s.hub (lands s (g.signalMade unit c)).hub ∧
    onlyGrain unit { s.hub.getGrain unit with
      retired := if (s.hub.getGrain unit).cmd.map Prod.fst = some c then 0 else (s.hub.getGrain unit).retired } s.hub (lands s (g.signalMade unit c)).hub ∧
    lands s (g.signalMade unit c) = { s with hub := asideTrace { s.hub.placed t with
      ctx := (lands s (g.signalMade unit c)).hub.ctx, fence := (lands s (g.signalMade unit c)).hub.fence } (lands s (g.signalMade unit c)).hub } := by
  obtain ⟨only, core, frame, -⟩ := fenced
  have made := signalMade_frame g unit c
  have context := signalMade_context g unit c
  have grain := onlyGrain_grainRestart (g.progress c 1) c ok
  have same : g.ctx = s.hub.ctx := (congrArg Hub.ctx frame :)
  have clock : g.clk = s.hub.clk := (congrArg Hub.clk frame :)
  refine ⟨onlyFence_of_fence only ((congrArg Hub.fence made :)), ?_, ?_, ?_⟩
  · have get : ∀ d, g.getCtx d = s.hub.getCtx d := fun d => congrArg (fun l => SMap.get ({} : Ctx) l d) same
    obtain ⟨self, others⟩ := context
    rw [get c, clock] at self
    exact ⟨self, fun d other => (others d other).trans (get d)⟩
  · have get : (g.progress c 1).getGrain unit = s.hub.getGrain unit := (core.getGrain unit)
    rw [get] at grain
    exact onlyGrain_after core grain
  · have whole : g.signalMade unit c = asideTrace { s.hub.placed t with ctx := (g.signalMade unit c).ctx, fence := (g.signalMade unit c).fence }
        (g.signalMade unit c) := by
      generalize g.signalMade unit c = k at made
      rw [made, frame]
      rfl
    exact congrArg (lands s) whole

/-- What changes one fence alone. -/
theorem fenced_lands {s : State} {t : SMap Nat} {g : Hub} {id : Nat} {x : Fence} (only : onlyFence id x (s.hub.placed t) g)
    (frame : g = { s.hub.placed t with fence := g.fence }) :
    onlyFence id x s.hub (lands s g).hub ∧ lands s g = { s with hub := { s.hub.placed t with fence := (lands s g).hub.fence } } :=
  ⟨only, congrArg (lands s) frame⟩

section Commands

variable {h : Hub} {unit ctx mode : Nat} {ref : FenceRef}

theorem fenceSignal_runs (value : Nat) (units : h.boot.units = true) (runs : h.unitRuns unit = true) :
    h.fenceSignal unit ctx ref value mode =
      h.ctxSignal ctx (h.ctxSlice ctx) unit (((h.getGrain unit).cmd.map Prod.snd).getD 0) false ref value mode := by
  unfold Hub.fenceSignal
  rw [if_neg (by rw [units]; nofun), if_pos (unitRuns_ok runs), if_pos runs]

/-- A signal from another package. -/
theorem fenceSignal_away {value : Nat} (units : h.boot.units = true) (here : ref.pkg = h.pkg) (away : unitOk unit = false)
    (may : h.maySignal ref.id none = true) :
    h.fenceSignal unit ctx ref value mode = (h.fenceApply ref.id value mode none ((h.fenceSlice ref.id).getD 0)).2 := by
  unfold Hub.fenceSignal
  rw [if_neg (by rw [units]; nofun), if_neg (by rw [away]; nofun), if_neg (not_not_intro here), if_neg (by rw [may]; nofun)]

theorem fenceErrorSignal_runs (units : h.boot.units = true) (here : ref.pkg = h.pkg) (runs : h.unitRuns unit = true)
    (may : h.maySignal ref.id (some (h.ctxSlice ctx)) = true) :
    h.fenceErrorSignal unit ctx ref mode = h.fenceErr ref.id mode (some ctx) (h.ctxSlice ctx) := by
  unfold Hub.fenceErrorSignal Hub.ctxSignalErr
  rw [if_neg (by rw [units]; nofun), if_pos (unitRuns_ok runs), if_pos runs, if_neg (not_not_intro here), if_neg (by rw [may]; nofun)]

/-- A fence that a signal has been compared with in this hub cycle. -/
def Fence.comparedAt (f : Fence) (cyc : Nat) : Fence := { f with base := f.value, baseSt := f.st, cyc := cyc }

/-- The order event of an exported fence is the first of the die in the epoch: its record. -/
def Hub.orderRecorded (h : Hub) (id value : Nat) (slice : Nat) : Hub :=
  { h.updFence id fun _ => (h.getFence id).comparedAt (h.clk.cycle + 1) with
    slc := { h.slc with forder := SMap.set 0 h.slc.forder noUnit (h.clk.epoch + 1) },
    er := { h.er with sysq := h.er.sysq ++ [{ h.evt 3 0x0303 with
      unit := noUnit, slice := slice, arg := value, words := [id + at_ h.pkg 32, (h.getFence id).value] }] } }

theorem fenceApply_behind {id value slice : Nat} (exported : fenceExported id = true) (first : (h.getFence id).cyc ≠ h.clk.cycle + 1)
    (signalled : (h.getFence id).st = .signalled) (behind : ahead64 value (h.getFence id).value = false) (other : value % 2 ^ 64 ≠ (h.getFence id).value)
    (fresh : SMap.get 0 h.slc.forder noUnit ≠ h.clk.epoch + 1) (on : h.classOn 3 = true) (room : h.er.sysq.length < 32) :
    (h.fenceApply id value mode none slice).2 = h.orderRecorded id value slice := by
  have owner : orderOwner id = noUnit := if_pos exported
  unfold Hub.fenceApply
  dsimp only
  rw [fenceBase_first first, if_neg (by rw [signalled]; nofun), if_neg (by rw [behind]; nofun), if_neg fun both => other both.2]
  unfold Hub.orderEvent
  dsimp only
  rw [owner, if_pos exported, Hub.getFence_updFence]
  exact (if_neg fresh).trans (record_sysq _ _ on (show 3 ≠ 8 by decide) rfl room)

theorem onlyFence_orderRecorded {id : Nat} (value slice : Nat) (signalled : (h.getFence id).st = .signalled) :
    onlyFence id { h.getFence id with base := (h.getFence id).value, baseSt := .signalled, cyc := h.clk.cycle + 1 } h (h.orderRecorded id value slice) := by
  have only : onlyFence id ((h.getFence id).comparedAt (h.clk.cycle + 1)) h (h.orderRecorded id value slice) :=
    onlyFence_of_fence (onlyFence_updFence h id fun _ => (h.getFence id).comparedAt (h.clk.cycle + 1)) rfl
  have same : (h.getFence id).comparedAt (h.clk.cycle + 1) = { h.getFence id with base := (h.getFence id).value, baseSt := .signalled, cyc := h.clk.cycle + 1 } :=
    congrArg (fun b => { h.getFence id with base := (h.getFence id).value, baseSt := b, cyc := h.clk.cycle + 1 }) signalled
  exact same ▸ only

/-- A fence that its owner has re-armed. -/
def Fence.rearmedAt (f : Fence) (cyc : Nat) : Fence := { f with st := .unsignalled, value := 0, base := 0, baseSt := .unsignalled, cyc := cyc }

theorem fenceRearm_owner (here : ref.pkg = h.pkg) (ok : fenceIdOk ref.id = true) (priv : fenceExported ref.id = false) (owner : fenceOwner ref.id = unit)
    (runs : h.unitRuns unit = true) (error : (h.getFence ref.id).st = .error) :
    h.fenceRearm unit ref = h.updFence ref.id fun f => f.rearmedAt (h.clk.cycle + 1) :=
  if_pos ⟨here, ok, by rw [priv]; rfl, owner, runs, error⟩

end Commands

/-! ## Waits -/

section Waits

variable {h : Hub} {unit ctx value mode : Nat} {ref : FenceRef} (here : ref.pkg = h.pkg) (runs : h.unitRuns unit = true)
  (issues : isTileUnit unit = true ∨ unitClass unit = 7)

include runs issues in
theorem mayWait : ¬ (unitOk unit = true ∧ ((!h.unitRuns unit) = true ∨ (!edgeAllowed unit ⟨1, 0, ref.pkg, noUnit, ref.id, value % 2 ^ 64⟩) = true)) := by
  have allowed : edgeAllowed unit ⟨1, 0, ref.pkg, noUnit, ref.id, value % 2 ^ 64⟩ = true := by
    unfold edgeAllowed
    simp [unitRuns_ok runs, issues]
  rw [runs, allowed]
  nofun

/-- The wait edge of a unit that waits for `value` of a fence. -/
def waitEdge (ref : FenceRef) (value : Nat) : Edge := ⟨1, 0, ref.pkg, noUnit, ref.id, value % 2 ^ 64⟩

include here runs issues

/-- A wait at a unit that runs, on a fence of this package, comes as far as the fence. -/
theorem fenceWait_bad (bad : fenceIdOk ref.id = false ∨ h.fenceSlice ref.id = none) :
    h.fenceWait unit ctx ref value mode =
      (h.answer unit ctx 0 stBadfence).drawFree.2.fenceEv unit ctx (h.ctxSlice ctx) mode 2 false ref (h.answer unit ctx 0 stBadfence).drawFree.1 false false := by
  have ok := unitRuns_ok runs
  unfold Hub.fenceWait
  dsimp only
  rw [if_neg (mayWait runs issues), if_neg (by simp [ok]), if_neg (not_not_intro here), if_pos (by simpa using bad), if_pos ok]

variable (good : fenceIdOk ref.id = true) (slice : (h.fenceSlice ref.id).isSome = true)
  (own : fenceExported ref.id = true ∨ h.fenceSlice ref.id = some (h.ctxSlice ctx)) (sound : (h.getFence ref.id).st ≠ .error)
include good slice own sound

theorem fenceWait_satisfied (satisfied : (h.getFence ref.id).satisfies (value % 2 ^ 64) = true) :
    h.fenceWait unit ctx ref value mode = h.waitDone ⟨unit, ctx, value % 2 ^ 64, mode⟩ ref (h.getFence ref.id).value false := by
  have ok := unitRuns_ok runs
  unfold Hub.fenceWait
  dsimp only
  rw [if_neg (mayWait runs issues), if_neg (by simp [ok]), if_neg (not_not_intro here), if_neg (by simp [good, ← Option.isSome_iff_ne_none, slice]),
    if_neg (by rcases own with own | own <;> simp [own, ok]), if_neg sound, if_pos satisfied, if_pos ok]

theorem fenceWait_waits (waits : (h.getFence ref.id).satisfies (value % 2 ^ 64) = false) :
    h.fenceWait unit ctx ref value mode =
      ((h.updFence ref.id fun f => { f with waiters := f.waiters ++ [⟨unit, ctx, value % 2 ^ 64, mode⟩] }).stallOn_ unit ctx (waitEdge ref value)).fenceEv
        unit ctx (h.ctxSlice ctx) mode 1 false ref (value % 2 ^ 64) false false := by
  have ok := unitRuns_ok runs
  unfold Hub.fenceWait
  dsimp only
  rw [if_neg (mayWait runs issues), if_neg (by simp [ok]), if_neg (not_not_intro here), if_neg (by simp [good, ← Option.isSome_iff_ne_none, slice]),
    if_neg (by rcases own with own | own <;> simp [own, ok]), if_neg sound, if_neg (by rw [waits]; nofun), if_pos ok]
  rfl

end Waits

/-- What a wait on a bad fence, or one that is satisfied, leaves: its answer. -/
theorem answered_lands {s : State} {t : SMap Nat} {g : Hub} {unit : Nat} {a : Reply}
    (seen : { s.hub.placed t with reply := s.hub.reply ++ [a] }.traces (unitStn unit) g) :
    onlyStation (unitStn unit) s.hub (lands s g).hub ∧ stnCore ((lands s g).hub.getStn (unitStn unit)) = stnCore (s.hub.getStn (unitStn unit)) ∧
      lands s g = { s with hub := asideTrace { s.hub.placed t with reply := s.hub.reply ++ [a] } (lands s g).hub } := by
  obtain ⟨⟨only, frame⟩, core⟩ := seen
  exact ⟨only, core, congrArg (lands s) frame⟩

/-- The end of a wait at a unit that does not stall. -/
theorem waitDone_quiet {h : Hub} {w : Waiter} (ref : FenceRef) (value : Nat) (lost : Bool)
    (wait : SMap.get [] (h.getStn (unitStn w.unit)).wait (unitSub w.unit) = []) :
    h.waitDone w ref value lost = (h.answer w.unit w.context 0 (if lost then stLost else stOk)).fenceEv w.unit w.context (h.ctxSlice w.context) w.mode 2 lost ref
      value lost false := by
  unfold Hub.waitDone
  dsimp only
  rw [stallOff_none wait]
  rfl

/-- What a wait that blocks leaves: the fence with its waiter, the stalled unit, the event. -/
theorem waiting_lands {s : State} {t : SMap Nat} {k g e : Hub} {id st : Nat} {x : Fence} {y : Stn} (only : onlyFence id x (s.hub.placed t) k)
    (stalls : k.alters st g) (self : g.getStn st = y) (seen : g.traces st e) (same : k = { s.hub.placed t with fence := k.fence }) :
    onlyFence id x s.hub (lands s e).hub ∧ onlyStation st s.hub (lands s e).hub ∧ stnCore ((lands s e).hub.getStn st) = stnCore y ∧
      lands s e = { s with hub := asideTrace { s.hub.placed t with fence := (lands s e).hub.fence } (lands s e).hub } := by
  obtain ⟨onlyA, frameA⟩ := stalls
  obtain ⟨⟨onlyB, frameB⟩, core⟩ := seen
  have fence : e.fence = k.fence := ((congrArg Hub.fence frameB :) : e.fence = g.fence).trans (congrArg Hub.fence frameA :)
  have before : ∀ x, k.getStn x = s.hub.getStn x := fun x => congrArg (fun l => SMap.get ({} : Stn) l x) (congrArg Hub.stn same :)
  refine ⟨onlyFence_of_fence only fence, fun x other => ((onlyB x other).trans (onlyA x other)).trans (before x), core.trans (congrArg stnCore self), ?_⟩
  have whole : e = asideTrace { s.hub.placed t with fence := e.fence } e := by
    rw [frameB, frameA, same]
    rfl
  exact congrArg (lands s) whole

/-- Settles O19: signals by the fence that they leave, waits by the branch that they reach. -/
theorem fences : Obligations.Fences := by
  unfold Obligations.Fences
  refine ⟨fun s unit ctx ref mode live units here first none => ⟨fun value runs may sound ahead => ?_, fun value away may sound ahead => ?_,
    fun value away may signalled behind other fresh on room => ?_, fun runs may sound => ?_, fun ok priv owner runs error => ?_⟩,
    fun s unit ctx ref value mode live here runs issues => ⟨fun bad => ?_, fun ok slice own sound satisfied wait => ?_, fun ok slice own sound waits => ?_⟩⟩
  · refine yields_ex rfl live fun t => ?_
    obtain ⟨g, sets, fenced⟩ := ctxSignal_ahead (h := s.hub.placed t) (mode := mode) (unit := unit) (c := ctx)
      (tag := ((s.hub.getGrain unit).cmd.map Prod.snd).getD 0) here may first none sound ahead
    exact ⟨_, (fenceSignal_runs (h := s.hub.placed t) value units runs).trans sets, signalled_of_made (unitRuns_ok runs) fenced⟩
  · refine yields_ex rfl live fun t => ?_
    obtain ⟨g, sets, fenced⟩ := fenceApply_ahead (h := s.hub.placed t) (mode := mode) (ctx := Option.none) (slice := (s.hub.fenceSlice ref.id).getD 0) first none
      sound ahead
    have applied := fenceSignal_away (h := s.hub.placed t) (ctx := ctx) (mode := mode) (value := value) units here away may
    exact ⟨g, applied.trans (congrArg Prod.snd sets), fenced_lands fenced.only (fenced.exported (maySignal_exported may))⟩
  · refine yields_ex rfl live fun t => ?_
    have applied := fenceSignal_away (h := s.hub.placed t) (ctx := ctx) (mode := mode) (value := value) units here away may
    have ordered := fenceApply_behind (h := s.hub.placed t) (mode := mode) (slice := (s.hub.fenceSlice ref.id).getD 0) (maySignal_exported may) first signalled behind
      other fresh on room
    exact ⟨_, applied.trans ordered, onlyFence_orderRecorded (h := s.hub.placed t) value _ signalled, rfl⟩
  · refine yields_ex rfl live fun t => ?_
    have fenced := fenceErr_first (h := s.hub.placed t) (mode := mode) (ctx := some ctx) (slice := (s.hub.getCtx ctx).slice) first none sound
    refine ⟨_, fenceErrorSignal_runs (h := s.hub.placed t) units here runs may, fenced.only, fenced.core, congrArg (lands s) fenced.frame⟩
  · exact yields_of_eq rfl live (fun t => fenceRearm_owner (h := s.hub.placed t) here ok priv owner runs error) fun t =>
      fenced_lands (onlyFence_updFence (s.hub.placed t) ref.id fun f => f.rearmedAt (s.hub.clk.cycle + 1)) rfl
  · refine yields_of_eq rfl live (fun t => fenceWait_bad (h := s.hub.placed t) here runs issues bad) fun t => ?_
    exact answered_lands ((drawFree_traces (h := (s.hub.placed t).answer unit ctx 0 stBadfence)).trans (fenceEv_traces _ _ _ _ _ _ _ _ _ _))
  · exact yields_of_eq rfl live (fun t => (fenceWait_satisfied (h := s.hub.placed t) here runs issues ok slice own sound satisfied).trans
      (waitDone_quiet (h := s.hub.placed t) (w := ⟨unit, ctx, value % 2 ^ 64, mode⟩) ref (s.hub.getFence ref.id).value false wait)) fun t =>
        answered_lands (fenceEv_traces (h := (s.hub.placed t).answer unit ctx 0 stOk) _ _ _ _ _ _ _ _ _ _)
  · refine yields_of_eq rfl live (fun t => fenceWait_waits (h := s.hub.placed t) here runs issues ok slice own sound waits) fun t => ?_
    have only := onlyFence_updFence (s.hub.placed t) ref.id fun f => { f with waiters := f.waiters ++ [⟨unit, ctx, value % 2 ^ 64, mode⟩] }
    have self := getStn_updWait ((s.hub.placed t).updFence ref.id fun f => { f with waiters := f.waiters ++ [⟨unit, ctx, value % 2 ^ 64, mode⟩] }) unit
      (addStall ⟨waitEdge ref value, ctx, (s.hub.getCtx ctx).slice, s.hub.stnTick (unitStn unit)⟩)
    exact waiting_lands only (alters_updStn _ _ _) self (fenceEv_traces _ _ _ _ _ _ _ _ _ _) rfl

end Sys2Proof.Machine
end

section
/-!
O18: the commands of a context (Table 01.5, R33, R37, R287).
-/
namespace Sys2Proof.Machine

/-! ## Changes of one context, one after the other -/

section Context

variable {h g k : Hub} {c : Nat} {y z : Ctx}

theorem Ctx.mark_mark (n : Nat) (x y z : Ctx) : Ctx.mark n (Ctx.mark n x y) z = Ctx.mark n x z := by
  unfold Ctx.mark
  simp

/-- A second change of a context in a hub cycle keeps the mark of what it was before the first. -/
theorem onlyContext_updCtx_after {f : Ctx → Ctx} (a : onlyContext c y h g) (clk : g.clk = h.clk)
    (f_mark : ∀ n x, Ctx.mark n x (f (Ctx.mark n x y)) = Ctx.mark n x z) : onlyContext c z h (g.updCtx c f) := by
  obtain ⟨self, others⟩ := a
  refine ⟨?_, fun d other => (Hub.getCtx_updCtx_ne g f other).trans (others d other)⟩
  rw [Hub.getCtx_updCtx, clk, self, Ctx.mark_mark, f_mark]

end Context

/-! ## What a hub keeps while commands move -/

/-- A context, answers and trace may differ, and the counters of units. -/
def Hub.commanded (h g : Hub) : Prop := g = asideTrace { h with ctx := g.ctx, reply := g.reply } g

section Commanded

variable {h g k : Hub}

theorem Hub.commanded.refl : h.commanded h := rfl

theorem Hub.commanded.trans (a : h.commanded g) (b : g.commanded k) : h.commanded k := by
  unfold Hub.commanded at *
  rw [b, a]
  rfl

theorem Hub.aside.commanded (a : h.aside g) : h.commanded g := by
  unfold Hub.commanded
  rw [a.2]
  rfl

theorem commanded_updCtx (h : Hub) (c : Nat) (f : Ctx → Ctx) : h.commanded (h.updCtx c f) := rfl

theorem commanded_answer (h : Hub) (u c tag st : Nat) : h.commanded (h.answer u c tag st) := rfl

theorem commanded_updStn (h : Hub) (st : Nat) (f : Stn → Stn) : h.commanded (h.updStn st f) := rfl

theorem Hub.aside.ctx (a : h.aside g) : g.ctx = h.ctx := (congrArg Hub.ctx a.2 :)

theorem Hub.aside.reply (a : h.aside g) : g.reply = h.reply := (congrArg Hub.reply a.2 :)

theorem Hub.commanded.clk (a : h.commanded g) : g.clk = h.clk := (congrArg Hub.clk a :)

end Commanded

theorem cmdEv_aside (h : Hub) (c ev st : Nat) (x : Cmd) : h.aside (h.cmdEv c ev st x) := (cmdEv_traces c ev st x).aside

/-! ## Submission and start -/

section Submit

variable {h : Hub} {c unit tag value mode : Nat} {signal : Option FenceRef}

/-- A command as it is queued. -/
def Hub.queued (h : Hub) (c unit tag : Nat) (signal : Option FenceRef) (value mode : Nat) : Cmd :=
  { unit := unit, tag := tag, signal := signal, value := value, mode := mode, submitTick := h.now, slice := (h.getCtx c).slice }

theorem submit_free (free : (h.getCtx c).st = .free) : h.submit c unit tag signal value mode = h.answer unit c tag stNocontext := if_pos free

theorem submit_lost (lost : (h.getCtx c).st = .lost) : h.submit c unit tag signal value mode = h.answer unit c tag stLost :=
  (if_neg (by rw [lost]; nofun)).trans (if_pos lost)

theorem submit_noUnit (active : (h.getCtx c).st = .active) (none : unitOk unit = false) :
    h.submit c unit tag signal value mode = h.answer unit c tag stNounit :=
  ((if_neg (by rw [active]; nofun)).trans (if_neg (by rw [active]; nofun))).trans (if_pos (by rw [none]; rfl))

theorem submit_queues (active : (h.getCtx c).st = .active) (ok : unitOk unit = true) (tile : isTileUnit unit = true)
    (own : h.unitSlice unit = (h.getCtx c).slice) :
    h.submit c unit tag signal value mode =
      (h.updCtx c fun x => { x with cmds := x.cmds ++ [h.queued c unit tag signal value mode] }).cmdEv c 0 0 (h.queued c unit tag signal value mode) := by
  unfold Hub.submit
  dsimp only
  rw [if_neg (by rw [active]; nofun), if_neg (by rw [active]; nofun), if_neg (by rw [ok]; nofun), if_neg (by simp [tile, own])]
  rfl

theorem start_first {a q : List Cmd} {x : Cmd} (active : (h.getCtx c).st = .active) (cmds : (h.getCtx c).cmds = a ++ x :: q)
    (before : ∀ y ∈ a, y.started = true) (fresh : x.started = false) (may : h.mayStart x.unit = true) (own : h.unitSlice x.unit = (h.getCtx c).slice) :
    h.start c =
      (((h.updCtx c fun k => { k with cmds := setAt k.cmds a.length { x with started := true, startTick := h.stnTick (unitStn x.unit) } }).grainStart x.unit c
        x.tag).cmdEv c 1 0 { x with started := true, startTick := h.stnTick (unitStn x.unit) }).progress c 1 := by
  have first : firstIdx (fun x : Cmd => !x.started) (a ++ x :: q) = some a.length := firstIdx_some (fun y m => by simp [before y m]) (by simp [fresh])
  unfold Hub.start
  rw [cmds, first]
  dsimp only
  rw [getD_behind, if_neg (by simp [active, may, own, Hub.ctxSlice])]

end Submit

/-! ## Completion -/

section Finish

variable {h : Hub} {c : Nat} {a q : List Cmd} {x : Cmd}

/-- Unit `u` is free of its command, which counts in its counter 6. -/
def Hub.unitFreed (h : Hub) (u : Nat) : Hub := (h.updGrain u fun g => { g with cmd := none, retired := 0 }).updGrain u fun g => g.took 6 1

theorem unitFreed_grain (h : Hub) (u : Nat) :
    onlyGrain u { h.getGrain u with cmd := none, retired := 0, inc := SMap.upd 0 (h.getGrain u).inc 6 (· + 1) } h (h.unitFreed u) := by
  have ends := onlyGrain_twice (onlyGrain_updGrain h u fun g => { g with cmd := none, retired := 0 })
    (onlyGrain_updGrain (h.updGrain u fun g => { g with cmd := none, retired := 0 }) u fun g => g.took 6 1)
  rw [getGrain_updGrain] at ends
  exact ends

/-- A command leaves its context's list and its unit. -/
def Hub.cmdLeft (h : Hub) (c i : Nat) (u : Nat) : Hub := (h.updCtx c fun k => { k with cmds := eraseAt k.cmds i }).unitFreed u

/-- A command that completes, before its signal. -/
def Hub.finished (h : Hub) (c i status : Nat) (x : Cmd) : Hub := (((h.cmdLeft c i x.unit).cmdEv c 2 status x).answer x.unit c x.tag status).progress c 1

/-- The signal of a command whose context and work are sound. -/
def Hub.cmdSignals (h : Hub) (c : Nat) (x : Cmd) : Hub :=
  match x.signal with
  | some ref => h.ctxSignal c x.slice x.unit x.tag false ref x.value x.mode
  | none => h

theorem getGate_of_stn {h g : Hub} {u : Nat} (same : (g.getStn (unitStn u)).gate = (h.getStn (unitStn u)).gate) : g.getGate u = h.getGate u :=
  (congrArg (SMap.get ({} : Gate) · (unitSub u)) same :)

theorem getGate_updGrain (h : Hub) (u : Nat) (f : Grain → Grain) : (h.updGrain u f).getGate u = h.getGate u :=
  getGate_of_stn (by rw [getStn_updGrain_own])

theorem finishCmd_finished (cmds : (h.getCtx c).cmds = a ++ x :: q) (ok : unitOk x.unit = true) (gate : (h.getGate x.unit).st = .run) (here : x.gone = false)
    (sound : x.lost = false) :
    h.finishCmd c a.length = (h.finished c a.length x.status x).cmdSignals c x := by
  have at_ : (a ++ x :: q)[a.length]? = some x := by simp
  have leaves : ((h.updCtx c fun k => { k with cmds := eraseAt k.cmds a.length }).grainEnd x.unit).grainAdd x.unit 6 1 = h.cmdLeft c a.length x.unit :=
    grainAdd_plain ok (by decide) (.inl (by decide))
  have runs : (h.cmdLeft c a.length x.unit).getGate x.unit = h.getGate x.unit := (getGate_updGrain _ _ _).trans (getGate_updGrain _ _ _)
  unfold Hub.finishCmd
  rw [cmds, at_]
  dsimp only
  rw [leaves, runs, gate, here, sound]
  rfl

theorem watchMatch_off {w : Nat} (off : bit (h.dmpSpol (w / 2)) 30 = false) : h.watchMatch w c x = (false, h) := by
  refine if_pos ?_
  unfold Hub.watchActs
  rw [off]
  simp

/-- A command in progress ends where no watch acts for its slice. -/
theorem complete_plain {status : Nat} (cmds : (h.getCtx c).cmds = a ++ x :: q)
    (before : ∀ y ∈ a, (y.started && y.unit == x.unit && y.held.isEmpty) = false) (started : x.started = true) (free : x.held = [])
    (runs : h.unitRuns x.unit = true) (off : bit (h.dmpSpol x.slice) 30 = false) :
    h.complete c x.unit status =
      (h.updCtx c fun k => { k with cmds := setAt k.cmds a.length { x with held := [], status := status } }).finishCmd c a.length := by
  have first : firstIdx (fun y : Cmd => y.started && y.unit == x.unit && y.held.isEmpty) (a ++ x :: q) = some a.length :=
    firstIdx_some before (by simp [started, free])
  have low : h.watchMatch (2 * x.slice) c x = (false, h) := watchMatch_off (by rw [Nat.mul_div_cancel_left _ (by decide)]; exact off)
  have high : h.watchMatch (2 * x.slice + 1) c x = (false, h) := watchMatch_off (by rw [show (2 * x.slice + 1) / 2 = x.slice by omega]; exact off)
  unfold Hub.complete
  rw [cmds, first]
  dsimp only
  rw [if_neg (by rw [runs]; nofun), getD_behind, low]
  dsimp only
  rw [high]
  rfl

/-- A command whose completion no watch holds. -/
def Cmd.ending (x : Cmd) (status : Nat) : Cmd := { x with held := [], status := status }

/-- The status of a completion joins its context. -/
def Hub.noted (h : Hub) (c i status : Nat) (x : Cmd) : Hub := h.updCtx c fun k => { k with cmds := setAt k.cmds i (x.ending status) }

/-- A command that completes plainly: its status in its context, then its end. -/
def Hub.ended (h : Hub) (c i status : Nat) (x : Cmd) : Hub := (h.noted c i status x).finished c i status (x.ending status)

theorem cmdLeft_context {g : Hub} {y : Ctx} (own : onlyContext c y h g) (clk : g.clk = h.clk) (i u : Nat) :
    onlyContext c { y with cmds := eraseAt y.cmds i } h (g.cmdLeft c i u) :=
  onlyContext_of_ctx (onlyContext_updCtx_after (f := fun k => { k with cmds := eraseAt k.cmds i }) own clk fun _ _ => rfl) rfl

theorem finished_context {g : Hub} {y : Ctx} (own : onlyContext c y h g) (clk : g.clk = h.clk) (i status : Nat) :
    onlyContext c { y with cmds := eraseAt y.cmds i, progress := (y.progress + 1) % 2 ^ 32 } h (g.finished c i status x) := by
  have left := cmdLeft_context own clk i x.unit
  have seen := cmdEv_aside (g.cmdLeft c i x.unit) c 2 status x
  have clk : ((g.cmdLeft c i x.unit).cmdEv c 2 status x).clk = h.clk := seen.commanded.clk.trans clk
  exact onlyContext_updCtx_after (onlyContext_of_ctx left (k := ((g.cmdLeft c i x.unit).cmdEv c 2 status x).answer x.unit c x.tag status) seen.ctx) clk
    fun _ _ => rfl

theorem ended_context {status : Nat} (cmds : (h.getCtx c).cmds = a ++ x :: q) :
    onlyContext c { h.getCtx c with cmds := a ++ q, progress := ((h.getCtx c).progress + 1) % 2 ^ 32 } h (h.ended c a.length status x) := by
  have all := finished_context (x := x.ending status) (onlyContext_updCtx h c fun k => { k with cmds := setAt k.cmds a.length (x.ending status) }) rfl a.length status
  rw [cmds, setAt_behind, eraseAt_behind] at all
  exact all

theorem onlyGrain_of_stn {g k : Hub} {u : Nat} {y : Grain} (own : onlyGrain u y g k) (same : g.stn = h.stn) : onlyGrain u y h k :=
  onlyGrain_after (fun z => congrArg (fun l => stnCore (SMap.get ({} : Stn) l z)) same) own

theorem finished_grain (h : Hub) (c i status : Nat) (x : Cmd) :
    onlyGrain x.unit { h.getGrain x.unit with cmd := none, retired := 0, inc := SMap.upd 0 (h.getGrain x.unit).inc 6 (· + 1) } h (h.finished c i status x) := by
  have left : onlyGrain x.unit _ h (h.cmdLeft c i x.unit) := onlyGrain_of_stn (unitFreed_grain (h.updCtx c fun k => { k with cmds := eraseAt k.cmds i }) x.unit) rfl
  exact onlyGrain_before left (cmdEv_aside (h.cmdLeft c i x.unit) c 2 status x).1

theorem unitFreed_commanded (h : Hub) (u : Nat) : h.commanded (h.unitFreed u) := (commanded_updStn h _ _).trans (commanded_updStn _ _ _)

theorem finished_commanded (h : Hub) (c i status : Nat) (x : Cmd) : h.commanded (h.finished c i status x) :=
  (((((commanded_updCtx h c fun k => { k with cmds := eraseAt k.cmds i }).trans (unitFreed_commanded _ x.unit)).trans
    (cmdEv_aside (h.cmdLeft c i x.unit) c 2 status x).commanded).trans (commanded_answer _ _ _ _ _)).trans (commanded_updCtx _ _ _) :)

theorem finished_reply (h : Hub) (c i status : Nat) (x : Cmd) : (h.finished c i status x).reply = h.reply ++ [⟨x.unit, c, x.tag, status⟩] :=
  congrArg (fun l : List Reply => l ++ [⟨x.unit, c, x.tag, status⟩]) (cmdEv_aside (h.cmdLeft c i x.unit) c 2 status x).reply

/-- A frame with the answers that a command gives. -/
theorem Hub.commanded.frame {g : Hub} {l : List Reply} (all : h.commanded g) (reply : g.reply = l) : g = asideTrace { h with ctx := g.ctx, reply := l } g := by
  subst reply
  exact all

theorem ended_grain (h : Hub) (c i status : Nat) (x : Cmd) :
    onlyGrain x.unit { h.getGrain x.unit with cmd := none, retired := 0, inc := SMap.upd 0 (h.getGrain x.unit).inc 6 (· + 1) } h (h.ended c i status x) :=
  onlyGrain_of_stn (finished_grain (h.noted c i status x) c i status (x.ending status)) rfl

theorem ended_commanded (h : Hub) (c i status : Nat) (x : Cmd) : h.commanded (h.ended c i status x) :=
  (commanded_updCtx h c _).trans (finished_commanded (h.noted c i status x) c i status (x.ending status))

theorem ended_reply (h : Hub) (c i status : Nat) (x : Cmd) : (h.ended c i status x).reply = h.reply ++ [⟨x.unit, c, x.tag, status⟩] :=
  finished_reply (h.noted c i status x) c i status (x.ending status)

/-- A command that completes plainly: its end, then its signal. -/
theorem complete_ended {status : Nat} (cmds : (h.getCtx c).cmds = a ++ x :: q)
    (before : ∀ y ∈ a, (y.started && y.unit == x.unit && y.held.isEmpty) = false) (started : x.started = true) (free : x.held = []) (here : x.gone = false)
    (sound : x.lost = false) (runs : h.unitRuns x.unit = true) (off : bit (h.dmpSpol x.slice) 30 = false) (gate : (h.getGate x.unit).st = .run) :
    h.complete c x.unit status = (h.ended c a.length status x).cmdSignals c (x.ending status) := by
  have listed : ((h.noted c a.length status x).getCtx c).cmds = a ++ x.ending status :: q := by
    unfold Hub.noted
    rw [Hub.getCtx_updCtx, cmds, setAt_behind]
    rfl
  refine (complete_plain cmds before started free runs off).trans ?_
  exact finishCmd_finished listed (unitRuns_ok runs) gate here sound

end Finish

/-! ## Signals of commands that completed -/

section Signals

variable {h g : Hub} {c : Nat} {x : Cmd}

/-- A signal in the name of a context whose unit has no command of it: no count starts again. -/
theorem signalMade_idle {unit : Nat} (idle : (h.getGrain unit).cmd = none) : h.signalMade unit c = h.progress c 1 := by
  have none_ : ((h.progress c 1).getGrain unit).cmd = none := idle
  refine if_neg ?_
  rw [none_]
  simp

theorem cmdSignals_none (none : x.signal = none) : h.cmdSignals c x = h := by
  unfold Hub.cmdSignals
  rw [none]

theorem cmdSignals_some {ref : FenceRef} (some_ : x.signal = some ref) :
    h.cmdSignals c x = h.ctxSignal c x.slice x.unit x.tag false ref x.value x.mode := by
  unfold Hub.cmdSignals
  rw [some_]

theorem Hub.commanded.maySignal (all : h.commanded g) (id : Nat) (slice : Option Nat) : g.maySignal id slice = h.maySignal id slice := by
  rw [all]
  rfl

theorem Hub.commanded.getFence (all : h.commanded g) (id : Nat) : g.getFence id = h.getFence id := by
  rw [all]
  rfl

theorem Hub.commanded.pkg (all : h.commanded g) : g.pkg = h.pkg := by
  rw [all]
  rfl

theorem Hub.commanded.er (all : h.commanded g) : g.er = h.er := (congrArg Hub.er all :)

theorem Hub.commanded.classOn (all : h.commanded g) (k : Nat) : g.classOn k = h.classOn k := by
  rw [all]
  rfl

theorem Hub.fenced.commands {id : Nat} {y : Fence} (f : h.fenced id y g) : g.ctx = h.ctx ∧ g.clk = h.clk ∧ g.reply = h.reply :=
  ⟨(congrArg Hub.ctx f.frame :), (congrArg Hub.clk f.frame :), (congrArg Hub.reply f.frame :)⟩

end Signals

/-- What a command that completes with a signal ahead leaves, after its own end `e`. -/
theorem signalled_after {s : State} {t : SMap Nat} {e g : Hub} {c id : Nat} {x : Fence} {y : Ctx} {u : Nat} {z : Grain} {l : List Reply}
    (own : onlyContext c y (s.hub.placed t) e) (grain : onlyGrain u z (s.hub.placed t) e) (all : (s.hub.placed t).commanded e) (reply : e.reply = l)
    (fenced : e.fenced id x g) :
    onlyContext c { y with progress := (y.progress + 1) % 2 ^ 32 } s.hub (lands s (g.progress c 1)).hub ∧
    onlyGrain u z s.hub (lands s (g.progress c 1)).hub ∧ onlyFence id x s.hub (lands s (g.progress c 1)).hub ∧
    lands s (g.progress c 1) = { s with hub := asideTrace { s.hub.placed t with
      ctx := (lands s (g.progress c 1)).hub.ctx, fence := (lands s (g.progress c 1)).hub.fence, reply := l } (lands s (g.progress c 1)).hub } := by
  obtain ⟨ctx, clk, -⟩ := fenced.commands
  have fence : ∀ f, e.getFence f = s.hub.getFence f := fun f => all.getFence f
  have progressed := onlyContext_updCtx_after (f := fun k => { k with progress := (k.progress + 1) % 2 ^ 32 })
    (z := { y with progress := (y.progress + 1) % 2 ^ 32 }) (onlyContext_of_ctx own ctx) (clk.trans all.clk) fun _ _ => rfl
  refine ⟨progressed, onlyGrain_before grain fenced.core, ⟨fenced.only.1, fun f other => (fenced.only.2 f other).trans (fence f)⟩, ?_⟩
  have whole : g = asideTrace { s.hub.placed t with ctx := g.ctx, fence := g.fence, reply := l } g := by
    have frame := fenced.frame
    have before := all.frame reply
    rw [frame, before]
    rfl
  have made : g.progress c 1 = asideTrace { s.hub.placed t with ctx := (g.progress c 1).ctx, fence := (g.progress c 1).fence, reply := l } (g.progress c 1) := by
    generalize s.hub.placed t = p at whole
    rw [whole]
    rfl
  exact congrArg (lands s) made

/-! ## Faults -/

section Fault

variable {h g : Hub} {c : Nat}

/-- A queued command of a lost context is answered. -/
def Hub.discard (h : Hub) (c : Nat) (x : Cmd) : Hub := (h.cmdEv c 2 stLost x).answer x.unit c x.tag stLost

/-- A context that a fault has lost. -/
def Ctx.lose (k : Ctx) : Ctx :=
  { k with st := .lost, cmds := (k.cmds.filter (·.started)).map fun x => { x with lost := x.lost || !x.gone }, lostFaults := 0 }

/-- What the discard of commands leaves. -/
structure Hub.discarded (c : Nat) (l : List Cmd) (h g : Hub) : Prop where
  core : h.sameCore g
  ctx : g.ctx = h.ctx
  all : h.commanded g
  reply : g.reply = h.reply ++ l.map fun y => ⟨y.unit, c, y.tag, stLost⟩

theorem discarded_foldl (c : Nat) (l : List Cmd) (h : Hub) : h.discarded c l (l.foldl (fun h x => h.discard c x) h) := by
  induction l generalizing h with
  | nil => exact ⟨fun _ => rfl, rfl, .refl, (List.append_nil _).symm⟩
  | cons x l ih =>
    have seen := cmdEv_aside h c 2 stLost x
    obtain ⟨core, ctx, all, reply⟩ := ih (h.discard c x)
    refine ⟨Hub.sameCore.trans seen.1 core, ctx.trans seen.ctx, (seen.commanded.trans (commanded_answer _ _ _ _ _)).trans all, reply.trans ?_⟩
    have first : (h.discard c x).reply = h.reply ++ [⟨x.unit, c, x.tag, stLost⟩] :=
      congrArg (fun l : List Reply => l ++ [⟨x.unit, c, x.tag, stLost⟩]) seen.reply
    rw [first, List.append_assoc]
    rfl

/-- A queued command of a lost context is answered, and its fence fails. -/
def Hub.discardSignal (h : Hub) (c : Nat) (x : Cmd) : Hub :=
  match x.signal with
  | some ref => (h.discard c x).ctxSignalErr c x.slice x.unit x.tag ref x.mode
  | none => h.discard c x

/-- The watches that fired for a context end. -/
def Hub.watchesOff (h : Hub) (c : Nat) : Hub :=
  ((h.dmp.fires.filter fun f => f.context == c).map (·.slot)).foldl (fun h w => h.watchEnd w .spent stAborted) h

theorem enterLost_eq (h : Hub) (c : Nat) :
    h.enterLost c = (((h.getCtx c).cmds.filter fun x => !x.started).length,
      (((h.getCtx c).cmds.filter fun x => !x.started).foldl (fun h x => h.discardSignal c x) (h.updCtx c Ctx.lose)).watchesOff c) := rfl

theorem watchesOff_none (fires : ∀ f ∈ h.dmp.fires, f.context ≠ c) : h.watchesOff c = h := by
  have empty : (h.dmp.fires.filter fun f => f.context == c) = [] := List.filter_eq_nil_iff.mpr fun f m => by simpa using fires f m
  unfold Hub.watchesOff
  rw [empty]
  rfl

/-- A context is lost whose queued commands have no signal, and for which no watch has fired. -/
theorem enterLost_quiet {l : List Cmd} (cmds : (h.getCtx c).cmds = l) (signals : ∀ y ∈ l, y.started = false → y.signal = none)
    (fires : ∀ f ∈ h.dmp.fires, f.context ≠ c) :
    h.enterLost c = ((l.filter fun x => !x.started).length, (l.filter fun x => !x.started).foldl (fun h x => h.discard c x) (h.updCtx c Ctx.lose)) := by
  have quiet : (l.filter fun x => !x.started).foldl (fun h x => h.discardSignal c x) (h.updCtx c Ctx.lose) =
      (l.filter fun x => !x.started).foldl (fun h x => h.discard c x) (h.updCtx c Ctx.lose) := List.foldl_ext _ _ _ fun k x m => by
    rw [List.mem_filter] at m
    unfold Hub.discardSignal
    rw [signals x m.1 (by simpa using m.2)]
  have all := (discarded_foldl c (l.filter fun x => !x.started) (h.updCtx c Ctx.lose)).all
  have same : ((l.filter fun x => !x.started).foldl (fun h x => h.discard c x) (h.updCtx c Ctx.lose)).dmp = h.dmp := (congrArg Hub.dmp all :)
  rw [enterLost_eq, cmds, quiet, watchesOff_none (by rw [same]; exact fires)]

/-- Record 0x0301 of a fault of command `x`, which discards `n` commands. -/
def Hub.faultReq (h : Hub) (c code addr n : Nat) (x : Cmd) : Req :=
  { h.evt 3 0x0301 with
    slice := x.slice, unit := x.unit, status := stLost, ctx := some c, aux := x.tag, arg := addr, tenant := addr != 0, words := [code, n] }

theorem Hub.commanded.faultReq (all : h.commanded g) (c code addr n : Nat) (x : Cmd) : g.faultReq c code addr n x = h.faultReq c code addr n x := by
  rw [all]
  rfl

/-- What a fault of `x` does before the record: the command is gone, its context lost, the trigger conditions have seen it. -/
def Hub.faulted (h : Hub) (c i : Nat) (l : List Cmd) (x : Cmd) : Hub :=
  (((l.filter fun x => !x.started).foldl (fun h x => h.discard c x)
    (((h.updCtx c fun k => { k with cmds := eraseAt k.cmds i }).grainEnd x.unit).updCtx c Ctx.lose))).observeU
    { feed := 4, unit := x.unit, slice := x.slice, mode := x.mode, fault := true }

theorem fault_first {code addr : Nat} {a q : List Cmd} {x : Cmd} (active : (h.getCtx c).st = .active) (cmds : (h.getCtx c).cmds = a ++ x :: q)
    (before : ∀ y ∈ a, (y.started && y.unit == x.unit && y.held.isEmpty) = false) (started : x.started = true) (free : x.held = []) (here : x.gone = false)
    (quiet : x.signal = none) (signals : ∀ y ∈ a ++ q, y.started = false → y.signal = none) (runs : h.unitRuns x.unit = true)
    (fires : ∀ f ∈ h.dmp.fires, f.context ≠ c) :
    h.fault c x.unit code addr = (h.faulted c a.length (a ++ q) x).record
      ((h.faulted c a.length (a ++ q) x).faultReq c code addr ((a ++ q).filter fun y => !y.started).length x) := by
  have first : (h.getCtx c).faulting x.unit = some a.length := by
    unfold Ctx.faulting
    rw [cmds, firstIdx_some before (by simp [started, free])]
    rfl
  have at_ : (a ++ x :: q)[a.length]? = some x := by simp
  have left : (((h.updCtx c fun k => { k with cmds := eraseAt k.cmds a.length }).grainEnd x.unit).getCtx c).cmds = a ++ q := by
    refine (congrArg Ctx.cmds (Hub.getCtx_updCtx h c fun k => { k with cmds := eraseAt k.cmds a.length })).trans ?_
    rw [cmds, eraseAt_behind]
    rfl
  have lost := enterLost_quiet (h := (h.updCtx c fun k => { k with cmds := eraseAt k.cmds a.length }).grainEnd x.unit) left signals fires
  unfold Hub.fault
  rw [first, active, cmds]
  dsimp only
  simp only [Option.bind_some, at_, Option.getD_some]
  rw [if_neg (by rw [runs]; nofun), here, lost, quiet]
  rfl

theorem faulted_discarded (h : Hub) (c i : Nat) (l : List Cmd) (x : Cmd) :
    Hub.discarded c (l.filter fun x => !x.started) (((h.updCtx c fun k => { k with cmds := eraseAt k.cmds i }).grainEnd x.unit).updCtx c Ctx.lose)
      (h.faulted c i l x) := by
  obtain ⟨core, ctx, all, reply⟩ := discarded_foldl c (l.filter fun x => !x.started)
    (((h.updCtx c fun k => { k with cmds := eraseAt k.cmds i }).grainEnd x.unit).updCtx c Ctx.lose)
  have seen := (observeU_traces (h := (l.filter fun x => !x.started).foldl (fun h x => h.discard c x)
    (((h.updCtx c fun k => { k with cmds := eraseAt k.cmds i }).grainEnd x.unit).updCtx c Ctx.lose))
      { feed := 4, unit := x.unit, slice := x.slice, mode := x.mode, fault := true }).aside
  exact ⟨core.trans seen.1, seen.ctx.trans ctx, all.trans seen.commanded, seen.reply.trans reply⟩

theorem faulted_context {a q : List Cmd} {x : Cmd} (cmds : (h.getCtx c).cmds = a ++ x :: q) :
    onlyContext c { h.getCtx c with
      st := .lost, lostFaults := 0, cmds := ((a ++ q).filter (·.started)).map fun y => { y with lost := y.lost || !y.gone } } h
      (h.faulted c a.length (a ++ q) x) := by
  have left := onlyContext_updCtx h c fun k => { k with cmds := eraseAt k.cmds a.length }
  rw [cmds, eraseAt_behind] at left
  have ended : onlyContext c _ h ((h.updCtx c fun k => { k with cmds := eraseAt k.cmds a.length }).grainEnd x.unit) := onlyContext_of_ctx left rfl
  exact onlyContext_of_ctx (onlyContext_updCtx_after (f := Ctx.lose) ended rfl fun _ _ => rfl) (faulted_discarded h c a.length (a ++ q) x).ctx

theorem faulted_grain (h : Hub) (c i : Nat) (l : List Cmd) (x : Cmd) :
    onlyGrain x.unit { h.getGrain x.unit with cmd := none, retired := 0 } h (h.faulted c i l x) :=
  onlyGrain_before (onlyGrain_of_stn (onlyGrain_updGrain (h.updCtx c fun k => { k with cmds := eraseAt k.cmds i }) x.unit fun g =>
    { g with cmd := none, retired := 0 }) rfl) (faulted_discarded h c i l x).core

theorem faulted_commanded (h : Hub) (c i : Nat) (l : List Cmd) (x : Cmd) : h.commanded (h.faulted c i l x) :=
  (((commanded_updCtx h c _).trans (commanded_updStn _ _ _)).trans (commanded_updCtx _ c _)).trans (faulted_discarded h c i l x).all

end Fault

/-- The record of a fault joins the system queue. -/
theorem faulted_lands {s : State} {t : SMap Nat} {g : Hub} {c u : Nat} {y : Ctx} {z : Grain} {l : List Reply} {r : Req} (own : onlyContext c y (s.hub.placed t) g)
    (grain : onlyGrain u z (s.hub.placed t) g) (all : (s.hub.placed t).commanded g) (reply : g.reply = l) :
    onlyContext c y s.hub (lands s { g with er := { g.er with sysq := g.er.sysq ++ [r] } }).hub ∧
    onlyGrain u z s.hub (lands s { g with er := { g.er with sysq := g.er.sysq ++ [r] } }).hub ∧
    lands s { g with er := { g.er with sysq := g.er.sysq ++ [r] } } = { s with hub := asideTrace { s.hub.placed t with
      ctx := g.ctx, reply := l, er := { s.hub.er with sysq := s.hub.er.sysq ++ [r] } } g } := by
  have frame := all.frame reply
  have er : g.er = s.hub.er := (congrArg Hub.er frame :)
  refine ⟨own, grain, ?_⟩
  rw [er]
  have whole : { g with er := { s.hub.er with sysq := s.hub.er.sysq ++ [r] } } = asideTrace { s.hub.placed t with
      ctx := g.ctx, reply := l, er := { s.hub.er with sysq := s.hub.er.sysq ++ [r] } } g := by
    generalize s.hub.placed t = p at frame
    rw [frame]
    rfl
  exact congrArg (lands s) whole

/-- What a submission that is queued leaves. -/
theorem queued_lands {s : State} {t : SMap Nat} {k g : Hub} {c st : Nat} {y : Ctx} (own : onlyContext c y (s.hub.placed t) k) (seen : k.traces st g)
    (same : k = { s.hub.placed t with ctx := k.ctx }) :
    onlyContext c y s.hub (lands s g).hub ∧ onlyStation st s.hub (lands s g).hub ∧ stnCore ((lands s g).hub.getStn st) = stnCore (s.hub.getStn st) ∧
      lands s g = { s with hub := asideTrace { s.hub.placed t with ctx := (lands s g).hub.ctx } (lands s g).hub } := by
  obtain ⟨⟨only, frame⟩, core⟩ := seen
  have before : ∀ x, k.getStn x = s.hub.getStn x := fun x => congrArg (fun l => SMap.get ({} : Stn) l x) (congrArg Hub.stn same :)
  refine ⟨onlyContext_of_ctx own (congrArg Hub.ctx frame :), fun x other => (only x other).trans (before x), core.trans (congrArg stnCore (before st)), ?_⟩
  have whole : g = asideTrace { s.hub.placed t with ctx := g.ctx } g := by
    rw [frame, same]
    rfl
  exact congrArg (lands s) whole

section Begin

variable {h : Hub} {c : Nat} {x : Cmd}

/-- Command `y` of a context begins at its unit, before the progress that this is. -/
def Hub.begun (h : Hub) (c i : Nat) (y : Cmd) : Hub :=
  ((h.updCtx c fun k => { k with cmds := setAt k.cmds i y }).grainStart y.unit c y.tag).cmdEv c 1 0 y

theorem begun_traces (h : Hub) (c i : Nat) (y : Cmd) :
    ((h.updCtx c fun k => { k with cmds := setAt k.cmds i y }).grainStart y.unit c y.tag).traces (unitStn y.unit) (h.begun c i y) := cmdEv_traces c 1 0 y

theorem begun_context {a q : List Cmd} (cmds : (h.getCtx c).cmds = a ++ x :: q) (y : Cmd) :
    onlyContext c { h.getCtx c with cmds := a ++ y :: q, progress := ((h.getCtx c).progress + 1) % 2 ^ 32 } h ((h.begun c a.length y).progress c 1) := by
  have listed := onlyContext_updCtx h c fun k => { k with cmds := setAt k.cmds a.length y }
  rw [cmds, setAt_behind] at listed
  have seen := (begun_traces h c a.length y).aside
  exact onlyContext_updCtx_after (f := fun k => { k with progress := (k.progress + 1) % 2 ^ 32 }) (onlyContext_of_ctx listed seen.ctx) seen.commanded.clk
    fun _ _ => rfl

theorem begun_grain (h : Hub) (c i : Nat) (y : Cmd) :
    onlyGrain y.unit { h.getGrain y.unit with
      resetNow := (h.getGrain y.unit).resetNow ||| h.pact (unitStn y.unit) 0 0x20 % 256,
      startsNow := satAdd 65535 (h.getGrain y.unit).startsNow 1, cmd := some (c, y.tag), retired := 0 } h ((h.begun c i y).progress c 1) :=
  onlyGrain_before (onlyGrain_of_stn (onlyGrain_updGrain (h.updCtx c fun k => { k with cmds := setAt k.cmds i y }) y.unit fun g => { g with
    resetNow := g.resetNow ||| h.pact (unitStn y.unit) 0 0x20 % 256, startsNow := satAdd 65535 g.startsNow 1, cmd := some (c, y.tag), retired := 0 }) rfl)
    (begun_traces h c i y).aside.1

theorem begun_only (h : Hub) (c i : Nat) (y : Cmd) : onlyStation (unitStn y.unit) h ((h.begun c i y).progress c 1) := fun z other =>
  ((begun_traces h c i y).1.1 z other).trans (Hub.getStn_updStn_ne (h.updCtx c fun k => { k with cmds := setAt k.cmds i y }) _ other)

theorem begun_frame (h : Hub) (c i : Nat) (y : Cmd) :
    (h.begun c i y).progress c 1 = asideTrace { h with ctx := ((h.begun c i y).progress c 1).ctx } ((h.begun c i y).progress c 1) := by
  have seen := (begun_traces h c i y).aside
  have all : h.commanded (h.begun c i y) := ((commanded_updCtx h c _).trans (commanded_updStn _ _ _)).trans seen.commanded
  have frame := all.frame seen.reply
  generalize h.begun c i y = g at frame
  rw [frame]
  rfl

theorem start_begun {a q : List Cmd} (active : (h.getCtx c).st = .active) (cmds : (h.getCtx c).cmds = a ++ x :: q)
    (before : ∀ y ∈ a, y.started = true) (fresh : x.started = false) (may : h.mayStart x.unit = true) (own : h.unitSlice x.unit = (h.getCtx c).slice) :
    h.start c = (h.begun c a.length { x with started := true, startTick := h.stnTick (unitStn x.unit) }).progress c 1 :=
  start_first active cmds before fresh may own

end Begin

theorem begun_lands {s : State} {t : SMap Nat} {g : Hub} {c u st : Nat} {y : Ctx} {z : Grain} (own : onlyContext c y (s.hub.placed t) g)
    (grain : onlyGrain u z (s.hub.placed t) g) (only : onlyStation st (s.hub.placed t) g) (frame : g = asideTrace { s.hub.placed t with ctx := g.ctx } g) :
    onlyContext c y s.hub (lands s g).hub ∧ onlyGrain u z s.hub (lands s g).hub ∧ onlyStation st s.hub (lands s g).hub ∧
      lands s g = { s with hub := asideTrace { s.hub.placed t with ctx := (lands s g).hub.ctx } (lands s g).hub } :=
  ⟨own, grain, only, congrArg (lands s) frame⟩

/-- Settles O18: each command by the changes of its context, its unit and its answers, one after the other. -/
theorem contextCommands : Obligations.ContextCommands := by
  unfold Obligations.ContextCommands
  refine ⟨fun s c live => ⟨fun unit tag signal value mode => ⟨fun free => ?_, fun lost => ?_, fun active none_ => ?_⟩,
    fun unit tag signal value mode active ok tile own => ?_, fun a q x active cmds before fresh may own => ?_,
    fun a q x status cmds before started free here sound runs off gate => ⟨fun none_ => ?_, fun ref some_ pkg may noErr alone first ahead => ?_⟩⟩,
    fun s c code addr a q x live active cmds before started free here none_ signals runs fires on room => ?_⟩
  · exact yields_of_eq rfl live (fun t => submit_free (h := s.hub.placed t) free) fun t => rfl
  · exact yields_of_eq rfl live (fun t => submit_lost (h := s.hub.placed t) lost) fun t => rfl
  · exact yields_of_eq rfl live (fun t => submit_noUnit (h := s.hub.placed t) active none_) fun t => rfl
  · refine yields_of_eq rfl live (fun t => submit_queues (h := s.hub.placed t) active ok tile own) fun t => ?_
    exact queued_lands (onlyContext_updCtx (s.hub.placed t) c fun x => { x with cmds := x.cmds ++ [s.hub.queued c unit tag signal value mode] })
      (cmdEv_traces c 0 0 ((s.hub.placed t).queued c unit tag signal value mode)) rfl
  · refine yields_of_eq rfl live (fun t => start_begun (h := s.hub.placed t) active cmds before fresh may own) fun t => ?_
    have context := begun_context (h := s.hub.placed t) cmds { x with started := true, startTick := s.hub.stnTick (unitStn x.unit) }
    have grain := begun_grain (s.hub.placed t) c a.length { x with started := true, startTick := s.hub.stnTick (unitStn x.unit) }
    have only := begun_only (s.hub.placed t) c a.length { x with started := true, startTick := s.hub.stnTick (unitStn x.unit) }
    have frame := begun_frame (s.hub.placed t) c a.length { x with started := true, startTick := s.hub.stnTick (unitStn x.unit) }
    exact begun_lands context grain only frame
  · refine yields_ex rfl live fun t => ⟨_, (complete_ended (h := s.hub.placed t) cmds before started free here sound runs off gate).trans (cmdSignals_none none_), ?_⟩
    have context := ended_context (h := s.hub.placed t) (status := status) cmds
    have grain := ended_grain (s.hub.placed t) c a.length status x
    have frame := (ended_commanded (s.hub.placed t) c a.length status x).frame (ended_reply (s.hub.placed t) c a.length status x)
    generalize (s.hub.placed t).ended c a.length status x = g at context grain frame ⊢
    exact ⟨context, grain, congrArg (lands s) frame⟩
  · refine yields_ex rfl live fun t => ?_
    have context := ended_context (h := s.hub.placed t) (status := status) cmds
    have grain := ended_grain (s.hub.placed t) c a.length status x
    have all := ended_commanded (s.hub.placed t) c a.length status x
    have reply := ended_reply (s.hub.placed t) c a.length status x
    have made := (complete_ended (h := s.hub.placed t) cmds before started free here sound runs off gate).trans (cmdSignals_some (x := x.ending status) some_)
    generalize (s.hub.placed t).ended c a.length status x = e at context grain all reply made
    obtain ⟨g, set, fenced⟩ := ctxSignal_ahead (h := e) (mode := x.mode) (slice := x.slice) (unit := x.unit) (c := c) (tag := x.tag) (value := x.value) (ref := ref)
      (pkg.trans all.pkg.symm) ((all.maySignal ref.id (some x.slice)).trans may) (by rw [all.getFence, all.clk]; exact first) (by rw [all.getFence]; exact alone)
      (by rw [all.getFence]; exact noErr) (by rw [all.getFence]; exact ahead)
    have idle : (g.getGrain x.unit).cmd = none := by
      rw [fenced.core.getGrain, grain.1]
    rw [signalMade_idle idle] at set
    have result := signalled_after context grain all reply fenced
    rw [all.getFence, all.clk] at result
    exact ⟨_, made.trans set, result⟩
  · refine yields_ex rfl live fun t => ⟨_, (fault_first (h := s.hub.placed t) active cmds before started free here none_ signals runs fires).trans
      (record_sysq _ _ ?_ (show 3 ≠ 8 by decide) rfl ?_), ?_⟩
    · exact (faulted_commanded (s.hub.placed t) c a.length (a ++ q) x).classOn 3 ▸ on
    · exact (faulted_commanded (s.hub.placed t) c a.length (a ++ q) x).er ▸ room
    · have context := faulted_context (h := s.hub.placed t) cmds
      have grain := faulted_grain (s.hub.placed t) c a.length (a ++ q) x
      have all := faulted_commanded (s.hub.placed t) c a.length (a ++ q) x
      have reply := (faulted_discarded (s.hub.placed t) c a.length (a ++ q) x).reply
      generalize (s.hub.placed t).faulted c a.length (a ++ q) x = g at context grain all reply ⊢
      rw [all.faultReq]
      exact faulted_lands context grain all reply

end Sys2Proof.Machine
end

section
/-!
O21: the trigger matrix and the orders that a station takes (R169, R177 to R181, R211).
-/
namespace Sys2Proof.Machine

theorem foldl_fixed_mem {α β : Type} {f : α → β → α} {a : α} {l : List β} (fixed : ∀ x ∈ l, f a x = a) : l.foldl f a = a := by
  induction l with
  | nil => rfl
  | cons x l ih =>
    rw [List.foldl_cons, fixed x List.mem_cons_self]
    exact ih fun y m => fixed y (List.mem_cons_of_mem x m)

/-- A trigger's record request of a class that is on enters the FIFO while that has room. -/
theorem record_fifo (h : Hub) (r : Req) (on : h.classOn r.cls = true) (c : r.cls ≠ 8) (t : r.trigger.isSome = true) (room : h.er.fifo.length < 64) :
    h.record r = { h with er := { h.er with fifo := h.er.fifo ++ [r] } } := by
  unfold Hub.record
  simp [on, c, t, room]

theorem irqRaise_status (h : Hub) (v : Nat) : bit (h.irqRaise v).irq.status v = true :=
  (bit_or_two_pow h.irq.status v v).trans (by rw [beq_self_eq_true, Bool.or_true])

/-! ## The matrix takes one flit -/

section Matrix

variable {h : Hub} {g : Trig}

/-- The matrix has seen a trigger: it is the last one, and counted. -/
def Hub.matrixSeen (h : Hub) (g : Trig) : Hub := Hub.rcAdd { h with trc := { h.trc with last := some g } } 0x80008 0 0 (2 ^ 32 - 1) 1

theorem matrixSeen_frame (h : Hub) (g : Trig) : h.matrixSeen g = { h with trc := { h.trc with last := some g }, rc := (h.matrixSeen g).rc } := rcAdd_frame _ _ _ _ _ _

theorem matrixSeen_counts (h : Hub) (g : Trig) : 1 ≤ (h.matrixSeen g).rcTotal 0x80008 0 0 := rcTotal_rcAdd _ 0x80008 0 0 (2 ^ 32 - 1) Nat.one_pos

/-- What the matrix reads of the hub it reads the same after it has counted the trigger. -/
theorem matrixSeen_reads (h : Hub) (g : Trig) :
    (h.matrixSeen g).spol = h.spol ∧ (h.matrixSeen g).act = h.act ∧ (h.matrixSeen g).entryOrders = h.entryOrders ∧
      (h.matrixSeen g).triggerReq = h.triggerReq ∧ (h.matrixSeen g).er = h.er ∧ (h.matrixSeen g).classOn = h.classOn := by
  rw [matrixSeen_frame]
  exact ⟨rfl, rfl, rfl, rfl, rfl, rfl⟩

theorem matrix_shut {l : List Order} (shut : (bit (h.spol g.slice) 15 && bit (h.act 0xA0000000 0x80000) 29) = false) :
    h.matrix l g = (l, h.matrixSeen g) := by
  obtain ⟨spol, act, -⟩ := matrixSeen_reads h g
  refine if_pos ?_
  change (!bit ((h.matrixSeen g).spol g.slice) 15 || !bit ((h.matrixSeen g).act 0xA0000000 0x80000) 29) = true
  rw [spol, act, ← Bool.not_and, shut]
  rfl

/-- The entries that a trigger matches. -/
def Hub.mxHits (h : Hub) (g : Trig) : List Nat := (List.range 64).filter fun k => h.mxHit k g

/-- Whether an entry that a trigger matches has bit `b` in its ACT. -/
def Hub.mxAny (h : Hub) (g : Trig) (b : Nat) : Bool := (h.mxHits g).any fun k => bit (h.mxAct k) b

/-- The record of a trigger, where an entry asks for it. -/
def Hub.matrixRecord (h : Hub) (g : Trig) : Hub := if h.mxAny g 31 then h.record (h.triggerReq g (h.mxHits g)) else h

theorem matrixRecord_er (on : h.classOn 1 = true) (room : h.er.fifo.length < 64) :
    h.matrixRecord g = { h with er := if h.mxAny g 31 then { h.er with fifo := h.er.fifo ++ [h.triggerReq g (h.mxHits g)] } else h.er } := by
  unfold Hub.matrixRecord
  split
  · exact record_fifo h _ on (show 1 ≠ 8 by decide) rfl room
  · rfl

/-- The matching entries that a trigger spends. -/
def Hub.matrixSpend (h : Hub) (g : Trig) : Hub :=
  (h.mxHits g).foldl (fun h k => if bit (h.mxMatch k) 30 then h.rwsUpd 0 (0x80100 + 8 * k) fun r => { r with active := clearBits r.active (2 ^ 31) } else h) h

/-- The cut of a trigger, where an entry asks for it. -/
def Hub.matrixCut (h : Hub) (die : Bool) (g : Trig) : Hub := (h.cutSchedule .matrix die false false g.slice h.autoTick none).2.2

/-- What the open matrix does with a trigger that it has seen. -/
def Hub.matrixActs (h : Hub) (l : List Order) (g : Trig) : List Order × Hub :=
  let record := if h.mxAny g 31 then (h.matrixSpend g).record ((h.matrixSpend g).triggerReq g (h.mxHits g)) else h.matrixSpend g
  let cut := if h.mxAny g 30 then record.matrixCut ((h.mxHits g).any fun k => bit (h.mxAct k) 30 && bit (h.mxAct k) 29) g else record
  ((h.mxHits g).foldl (fun l k => h.entryOrders l k) l, if h.mxAny g 25 then cut.irqRaise 8 else cut)

theorem matrix_eq (h : Hub) (l : List Order) (g : Trig) :
    h.matrix l g = if !bit ((h.matrixSeen g).spol g.slice) 15 || !bit ((h.matrixSeen g).act 0xA0000000 0x80000) 29 then (l, h.matrixSeen g)
      else (h.matrixSeen g).matrixActs l g := rfl

theorem matrix_open {l : List Order} (policy : bit (h.spol g.slice) 15 = true) (enabled : bit (h.act 0xA0000000 0x80000) 29 = true)
    (noCut : ∀ k ∈ h.mxHits g, bit (h.mxAct k) 30 = false) (kept : ∀ k ∈ h.mxHits g, bit (h.mxMatch k) 30 = false) :
    h.matrix l g = ((h.mxHits g).foldl (fun l k => h.entryOrders l k) l,
      if h.mxAny g 25 then ((h.matrixSeen g).matrixRecord g).irqRaise 8 else (h.matrixSeen g).matrixRecord g) := by
  obtain ⟨spol, act, orders, -⟩ := matrixSeen_reads h g
  have hits : (h.matrixSeen g).mxHits g = h.mxHits g := by
    unfold Hub.mxHits Hub.mxHit Hub.mxMatch
    rw [act]
  have asks : (h.matrixSeen g).mxAct = h.mxAct := by
    unfold Hub.mxAct
    rw [act]
  have matches_ : (h.matrixSeen g).mxMatch = h.mxMatch := by
    unfold Hub.mxMatch
    rw [act]
  have spend : ((h.matrixSeen g).mxHits g).foldl (fun h k =>
      if bit (h.mxMatch k) 30 then h.rwsUpd 0 (0x80100 + 8 * k) fun r => { r with active := clearBits r.active (2 ^ 31) } else h) (h.matrixSeen g) = h.matrixSeen g :=
    foldl_fixed_mem fun k m => if_neg (by rw [matches_, kept k (hits ▸ m)]; nofun)
  have cut : (h.matrixSeen g).mxAny g 30 = false := by
    unfold Hub.mxAny
    rw [hits, asks]
    exact List.any_eq_false.mpr fun k m => by rw [noCut k m]; nofun
  have irq : (h.matrixSeen g).mxAny g 25 = h.mxAny g 25 := by
    unfold Hub.mxAny
    rw [hits, asks]
  have gate : (!bit ((h.matrixSeen g).spol g.slice) 15 || !bit ((h.matrixSeen g).act 0xA0000000 0x80000) 29) = false := by
    rw [spol, act, policy, enabled]
    rfl
  rw [matrix_eq, gate, if_neg Bool.false_ne_true]
  unfold Hub.matrixActs Hub.matrixSpend
  dsimp only
  rw [spend, cut, if_neg Bool.false_ne_true, irq, orders]
  unfold Hub.matrixRecord
  rw [hits]

end Matrix

/-! ## The flit of a hub cycle -/

section Flit

variable {h : Hub} {g : Trig} {q : List Trig}

/-- The hub without its oldest trigger flit. -/
def Hub.flitTaken (h : Hub) (q : List Trig) : Hub := { h with trc := { h.trc with flits := q } }

theorem triggerMatrix_one (flits : h.trc.flits = g :: q) :
    h.triggerMatrix 1 = { ((h.flitTaken q).matrix [] g).2 with trc := { ((h.flitTaken q).matrix [] g).2.trc with
      orders := ((h.flitTaken q).matrix [] g).2.trc.orders ++ ((h.flitTaken q).matrix [] g).1 } } := by
  unfold Hub.triggerMatrix
  rw [flits]
  rfl

theorem triggerMatrix_shut (flits : h.trc.flits = g :: q) (shut : (bit (h.spol g.slice) 15 && bit (h.act 0xA0000000 0x80000) 29) = false) :
    h.triggerMatrix 1 = (h.flitTaken q).matrixSeen g := by
  rw [triggerMatrix_one flits, matrix_shut (h := h.flitTaken q) shut]
  dsimp only
  rw [List.append_nil]

/-- What the open matrix leaves of a trigger whose entries cut nothing. -/
def Hub.matrixDone (h : Hub) (g : Trig) : Hub :=
  if h.mxAny g 25 then ((h.matrixSeen g).matrixRecord g).irqRaise 8 else (h.matrixSeen g).matrixRecord g

theorem matrixDone_frame (on : h.classOn 1 = true) (room : h.er.fifo.length < 64) :
    h.matrixDone g = { h with
      trc := { h.trc with last := some g },
      er := if h.mxAny g 31 then { h.er with fifo := h.er.fifo ++ [h.triggerReq g (h.mxHits g)] } else h.er,
      rc := (h.matrixDone g).rc, irq := (h.matrixDone g).irq, cyc := (h.matrixDone g).cyc } := by
  obtain ⟨-, act, -, req, er, class_⟩ := matrixSeen_reads h g
  have hits : (h.matrixSeen g).mxHits g = h.mxHits g := by
    unfold Hub.mxHits Hub.mxHit Hub.mxMatch
    rw [act]
  have any : (h.matrixSeen g).mxAny g 31 = h.mxAny g 31 := by
    unfold Hub.mxAny Hub.mxAct
    rw [hits, act]
  have recorded := matrixRecord_er (h := h.matrixSeen g) (g := g) (by rw [class_]; exact on) (by rw [er]; exact room)
  rw [any, req, er, hits] at recorded
  have frame := matrixSeen_frame h g
  have seen : (h.matrixSeen g).matrixRecord g = { h with
      trc := { h.trc with last := some g }, rc := (h.matrixSeen g).rc,
      er := if h.mxAny g 31 then { h.er with fifo := h.er.fifo ++ [h.triggerReq g (h.mxHits g)] } else h.er } := by
    rw [recorded]
    generalize h.matrixSeen g = k at frame
    rw [frame]
  unfold Hub.matrixDone
  split
  · rw [seen]
    rfl
  · rw [seen]

theorem matrixDone_counts (on : h.classOn 1 = true) (room : h.er.fifo.length < 64) : 1 ≤ (h.matrixDone g).rcTotal 0x80008 0 0 := by
  obtain ⟨-, -, -, -, er, class_⟩ := matrixSeen_reads h g
  have recorded := matrixRecord_er (h := h.matrixSeen g) (g := g) (by rw [class_]; exact on) (by rw [er]; exact room)
  have counts := matrixSeen_counts h g
  unfold Hub.matrixDone
  rw [recorded]
  split <;> exact counts

theorem matrixDone_irq (asks : ∃ k, k < 64 ∧ h.mxHit k g = true ∧ bit (h.mxAct k) 25 = true) : bit (h.matrixDone g).irq.status 8 = true := by
  obtain ⟨k, low, hit, asks⟩ := asks
  have any : h.mxAny g 25 = true := List.any_eq_true.mpr ⟨k, List.mem_filter.mpr ⟨List.mem_range.mpr low, hit⟩, asks⟩
  unfold Hub.matrixDone
  rw [if_pos any]
  exact irqRaise_status _ _

end Flit

/-! ## Orders at a station -/

section Orders

variable {h : Hub} {o : Order} {q : List Order}

theorem deliver_first (orders : h.trc.orders = o :: q) (alone : ∀ x ∈ q, x.station ≠ o.station) (cuts : ∀ r ∈ h.cut.cuts, r.toArm.contains o.station = false) :
    h.deliver o.station o.issued = h := by
  have noCut : (h.cut.cuts.filter fun r => r.toArm.contains o.station && decide (r.issued < o.issued)) = [] :=
    List.filter_eq_nil_iff.mpr fun r m => by rw [cuts r m]; nofun
  have noOrder : (h.trc.orders.filter fun x => x.station == o.station && decide (x.issued < o.issued)) = [] := by
    rw [orders]
    refine List.filter_eq_nil_iff.mpr fun x m => ?_
    rcases List.mem_cons.mp m with rfl | m
    · simp
    · simp [alone x m]
  unfold Hub.deliver
  dsimp only
  rw [noCut, List.foldl_nil, noOrder]
  rfl

/-- Order `o` waits at its station for the end of the hub cycle; the orders `q` are still to come. -/
def Hub.orderLeft (h : Hub) (o : Order) (q : List Order) : Hub :=
  Hub.updStn { h with trc := { h.trc with orders := q } } o.station fun t => { t with ord := { t.ord with
    mstop := t.ord.mstop ||| o.stop, mstart := t.ord.mstart ||| o.start, hold := t.ord.hold || o.hold } }

theorem getStn_orderLeft (h : Hub) (o : Order) (q : List Order) : (h.orderLeft o q).getStn o.station = { h.getStn o.station with ord := { (h.getStn o.station).ord with
    mstop := (h.getStn o.station).ord.mstop ||| o.stop, mstart := (h.getStn o.station).ord.mstart ||| o.start, hold := (h.getStn o.station).ord.hold || o.hold } } :=
  Hub.getStn_updStn { h with trc := { h.trc with orders := q } } o.station _

theorem orderLeft_only (h : Hub) (o : Order) (q : List Order) : onlyStation o.station h (h.orderLeft o q) := fun _ other =>
  Hub.getStn_updStn_ne { h with trc := { h.trc with orders := q } } _ other

theorem matrixOrder_first (orders : h.trc.orders = o :: q) (alone : ∀ x ∈ q, x.station ≠ o.station)
    (cuts : ∀ r ∈ h.cut.cuts, r.toArm.contains o.station = false) (obs : h.observed o.station = true) :
    h.matrixOrder o.station = h.orderLeft o q := by
  have found : (o :: q).find? (fun x => x.station == o.station) = some o := List.find?_cons_of_pos (beq_self_eq_true _)
  have first : firstIdx (fun x : Order => x.station == o.station) (o :: q) = some 0 :=
    firstIdx_some (a := []) (p := fun x : Order => x.station == o.station) nofun (beq_self_eq_true _)
  unfold Hub.matrixOrder
  rw [orders, found]
  dsimp only
  rw [deliver_first orders alone cuts, orders, first]
  exact if_pos obs

end Orders

/-! ## The end of a hub cycle at a Perch -/

section Settle

variable {h : Hub} {s : Nat}

/-- The orders of the hub cycle are taken. -/
def Hub.ordTaken (h : Hub) (s : Nat) : Hub := h.updOrd s fun _ => {}

theorem stallRetry_none (none : (h.getStn s).peck.stalled = []) : h.stallRetry s = h.updPeck s fun q => { q with stalled := [] } := by
  unfold Hub.stallRetry
  rw [none]
  rfl

theorem applyOrder_none (cs ct : Nat) : h.applyOrder s 0 0 cs ct = h :=
  foldl_fixed_mem fun k _ => by
    have zero : bit 0 k = false := Nat.zero_testBit k
    dsimp only
    rw [zero, if_neg Bool.false_ne_true, if_neg (by simp)]

theorem settleStn_hold (ord : (h.getStn s).ord = { hold := true }) : h.settleStn s = ((h.ordTaken s).hold s).stallRetry s := by
  unfold Hub.settleStn
  rw [ord]
  dsimp only
  have zero : clearBits 0 (0 ||| 0) = 0 := rfl
  rw [if_neg (by decide), zero, applyOrder_none, applyOrder_none]
  rfl

/-- A partition as a hold leaves it. -/
def Part.heldAt (x : Part) (budget : Nat) : Part :=
  if x.st = .run then (if 96 ≤ budget then { x with st := .post, budget := budget, budget0 := budget } else { x with st := .frozen }) else x

theorem get_foldl_upd_all {α : Type} [DecidableEq α] (d : α) (f : α → α) (m : SMap α) (n p : Nat) :
    SMap.get d ((List.range n).foldl (fun m p => SMap.upd d m p f) m) p = if p < n then f (SMap.get d m p) else SMap.get d m p := by
  induction n with
  | zero => rfl
  | succ n ih =>
    rw [List.range_succ, List.foldl_append, List.foldl_cons, List.foldl_nil]
    by_cases here : p = n
    · subst here
      rw [SMap.get_upd_self, ih, if_neg (Nat.lt_irrefl _), if_pos (Nat.lt_succ_self _)]
    · rw [SMap.get_upd_ne _ _ _ here, ih]
      simp only [Nat.lt_succ_iff_lt_or_eq, here, or_false]

theorem hold_eq (h : Hub) (s : Nat) :
    h.hold s = h.updPeck s fun q => { q with
      part := (List.range 4).foldl (fun m p => SMap.upd {} m p fun x => x.heldAt (field (h.peckCfg s) 31 24 * 256)) q.part } := rfl

/-- Of a Perch that holds, every partition is held, and nothing waits. -/
theorem hold_part (none : (h.getStn s).peck.stalled = []) {p : Nat} (low : p < 4) :
    SMap.get {} (((h.hold s).stallRetry s).getStn s).peck.part p = (SMap.get {} (h.getStn s).peck.part p).heldAt (field (h.peckCfg s) 31 24 * 256) := by
  have still : ((h.hold s).getStn s).peck.stalled = [] := by
    rw [hold_eq, getStn_updPeck]
    exact none
  rw [stallRetry_none still, getStn_updPeck, hold_eq, getStn_updPeck]
  dsimp only
  rw [get_foldl_upd_all {} (fun x : Part => x.heldAt (field (h.peckCfg s) 31 24 * 256)), if_pos low]

theorem hold_alters (none : (h.getStn s).peck.stalled = []) : h.alters s ((h.hold s).stallRetry s) := by
  have still : ((h.hold s).getStn s).peck.stalled = [] := by
    rw [hold_eq, getStn_updPeck]
    exact none
  rw [stallRetry_none still]
  exact (alters_updStn h s _).trans (alters_updStn _ s _)

theorem applyOrder_start {cs ct : Nat} (armed : (h.getSrc s 0).st = .armed) : h.applyOrder s 0 1 cs ct = h.srcOn s 0 (h.srcSlice s 0) (h.stnTick s) ct none := by
  have zero : ∀ k, bit 0 k = false := Nat.zero_testBit
  unfold Hub.applyOrder
  simp only [List.foldl_cons, List.foldl_nil, zero, armed]
  rfl

theorem settleStn_start (ord : (h.getStn s).ord = { mstart := 1 }) (armed : (h.getSrc s 0).st = .armed) :
    h.settleStn s = (h.ordTaken s).srcOn s 0 ((h.ordTaken s).srcSlice s 0) ((h.ordTaken s).stnTick s) 3 none := by
  have same : ((h.ordTaken s).getSrc s 0).st = .armed := by
    unfold Hub.ordTaken Hub.updOrd Hub.getSrc
    rw [Hub.getStn_updStn]
    exact armed
  rw [← applyOrder_start (cs := 2) same]
  unfold Hub.settleStn
  rw [ord]
  dsimp only
  have zero : clearBits 0 (0 ||| 0) = 0 := rfl
  have one : clearBits 1 (0 ||| 0) = 1 := rfl
  rw [if_neg (by decide), zero, one, applyOrder_none]
  rfl

/-- The sources of a Perch but `k` are as they were, and `k` is in the state that it was in. -/
def Hub.keepsSrc (s k : Nat) (h g : Hub) : Prop := (g.getSrc s k).st = (h.getSrc s k).st ∧ ∀ j, j ≠ k → g.getSrc s j = h.getSrc s j

theorem Kept.keepsSrc (s k : Nat) : Kept s k (Hub.keepsSrc s k) where
  refl _ := ⟨rfl, fun _ _ => rfl⟩
  trans a b := ⟨b.1.trans a.1, fun j other => (b.2 j other).trans (a.2 j other)⟩
  peck h f := by
    have same : ∀ j, (h.updPeck s f).getSrc s j = h.getSrc s j := fun j => by
      unfold Hub.getSrc
      rw [getStn_updPeck]
    exact ⟨congrArg Src.st (same k), fun j _ => same j⟩
  src h f st := ⟨by rw [getSrc_updSrc, st], fun j other => getSrc_updSrc_ne h s f other⟩
  rc h off mi lsb max n := by
    rw [rcAdd_frame]
    exact ⟨rfl, fun _ _ => rfl⟩
  free _ := ⟨rfl, fun _ _ => rfl⟩

/-- A source that goes ON is ON after its SYNC, and the others are as they were. -/
theorem srcOn_sources (h : Hub) (s k slice tick cause : Nat) (ev : Option (Nat × Nat)) :
    ((h.srcOn s k slice tick cause ev).getSrc s k).st = .on ∧ ∀ j, j ≠ k → (h.srcOn s k slice tick cause ev).getSrc s j = h.getSrc s j := by
  obtain ⟨st, others⟩ := (Kept.keepsSrc s k).emitSync (h.updSrc s k fun x => { x with st := .on }) slice tick (Pk.sync cause) ev
  rw [getSrc_updSrc] at st
  exact ⟨st, fun j other => (others j other).trans (getSrc_updSrc_ne h s _ other)⟩

end Settle

theorem done_lands {s : State} {t : SMap Nat} {g : Trig} {k : Hub} {q : List Trig} {l : List Order} {e : Er}
    (frame : k = { (s.hub.placed t).flitTaken q with
      trc := { s.hub.trc with flits := q, last := some g }, er := e, rc := k.rc, irq := k.irq, cyc := k.cyc }) :
    lands s { k with trc := { k.trc with orders := k.trc.orders ++ l } } = { s with hub := { s.hub.placed t with
      trc := { s.hub.trc with flits := q, last := some g, orders := s.hub.trc.orders ++ l }, er := e, rc := k.rc, irq := k.irq, cyc := k.cyc } } := by
  have whole : { k with trc := { k.trc with orders := k.trc.orders ++ l } } = { s.hub.placed t with
      trc := { s.hub.trc with flits := q, last := some g, orders := s.hub.trc.orders ++ l }, er := e, rc := k.rc, irq := k.irq, cyc := k.cyc } := by
    rw [frame]
    rfl
  exact congrArg (lands s) whole

/-- Settles O21: the flit through the matrix, the order to its Perch, the end of the hub cycle there. -/
theorem triggerMatrix : Obligations.TriggerMatrix := by
  unfold Obligations.TriggerMatrix
  refine fun s live => ⟨fun g q flits shut => ?_, fun g q flits policy enabled kept on room => ?_, fun o q orders obs alone cuts => ?_,
    fun st p ord none_ low => ?_, fun st ord armed => ?_⟩
  · refine yields_of_eq rfl live (fun t => triggerMatrix_shut (h := s.hub.placed t) flits shut) fun t => ?_
    exact ⟨congrArg (lands s) (matrixSeen_frame ((s.hub.placed t).flitTaken q) g), matrixSeen_counts ((s.hub.placed t).flitTaken q) g⟩
  · refine yields_ex rfl live fun t => ?_
    have hits : ∀ k ∈ (s.hub.placed t).mxHits g, k < 64 ∧ s.hub.mxHit k g = true := fun k m =>
      ⟨List.mem_range.mp (List.mem_filter.mp m).1, (List.mem_filter.mp m).2⟩
    have acts := matrix_open (h := (s.hub.placed t).flitTaken q) (g := g) (l := []) policy enabled (fun k m => (kept k (hits k m).1 (hits k m).2).1)
      fun k m => (kept k (hits k m).1 (hits k m).2).2
    have taken := triggerMatrix_one (h := s.hub.placed t) flits
    rw [acts] at taken
    have counts := matrixDone_counts (h := (s.hub.placed t).flitTaken q) (g := g) on room
    have frame := matrixDone_frame (h := (s.hub.placed t).flitTaken q) (g := g) on room
    have irq := matrixDone_irq (h := (s.hub.placed t).flitTaken q) (g := g)
    refine ⟨_, taken, counts, irq, ?_⟩
    exact done_lands frame
  · refine yields_of_eq rfl live (fun t => matrixOrder_first (h := s.hub.placed t) orders alone cuts obs) fun t => ?_
    exact ⟨getStn_orderLeft (s.hub.placed t) o q, orderLeft_only (s.hub.placed t) o q, rfl⟩
  · have taken : ((s.hub.ordTaken st).getStn st).peck = (s.hub.getStn st).peck := by
      unfold Hub.ordTaken Hub.updOrd
      rw [Hub.getStn_updStn]
    have quiet : ((s.hub.ordTaken st).getStn st).peck.stalled = [] := by rw [taken, none_]
    have part := hold_part quiet low
    rw [taken] at part
    rw [settleStn_hold ord]
    obtain ⟨only, frame⟩ := (alters_updStn s.hub st _).trans (hold_alters quiet)
    exact ⟨part, only, frame⟩
  · rw [settleStn_start ord armed]
    obtain ⟨on, others⟩ := srcOn_sources (s.hub.ordTaken st) st 0 ((s.hub.ordTaken st).srcSlice st 0) ((s.hub.ordTaken st).stnTick st) 3 none
    obtain ⟨⟨only, frame⟩, -⟩ := (traces_updOrd (h := s.hub) (st := st) fun _ => {}).trans
      (srcOn_traces 0 ((s.hub.ordTaken st).srcSlice st 0) ((s.hub.ordTaken st).stnTick st) 3 none)
    refine ⟨on, fun k other => (others k (by omega)).trans ?_, only, frame⟩
    unfold Hub.ordTaken Hub.updOrd Hub.getSrc
    rw [Hub.getStn_updStn]

end Sys2Proof.Machine
end

section
/-!
O22: messages that pass a link or a router, captured by a cut or traced and counted (R142, R143, R157, R225, R261, R262).
-/
namespace Sys2Proof.Machine

/-! ## Capture -/

section Capture

variable {h : Hub} {u : Nat} {r : Rmo} {len : Nat}

theorem capture_none {st f n : Nat} (none_ : h.captures st (h.getCtx r.context).slice = none) : h.capture_ st r f n = (false, h) := by
  unfold Hub.capture_ Hub.ctxSlice
  dsimp only
  rw [none_]

/-- The entry that a router's Perch makes of a message for cut `c`. -/
def Hub.routed (h : Hub) (u : Nat) (r : Rmo) (c : CutRec) : Capture :=
  captured h (unitStn u) r (b2n (decide (c.t + 64 < h.stnTick (unitStn u)))) (r.inPort % 16 + at_ (r.outPort % 16) 4) 0

/-- What a capture does with a message that carries all its data. -/
theorem capture_whole {c : CutRec} (cut : h.captures (unitStn u) (h.getCtx r.context).slice = some c) (all : whole r) :
    h.capture_ (unitStn u) r 0 0 =
      if (h.getStn (unitStn u)).cap.entries.length < 1024 ∧ (h.getStn (unitStn u)).cap.used + (h.routed u r c).size ≤ 262144 then
        (true, if decide (c.t + 64 < h.stnTick (unitStn u)) then
            (h.updStn (unitStn u) fun x => { x with cap := { x.cap with entries := x.cap.entries ++ [h.routed u r c] } }).rcAdd (pchOff (unitStn u) 0x614) 0 0 65535 1
          else h.updStn (unitStn u) fun x => { x with cap := { x.cap with entries := x.cap.entries ++ [h.routed u r c] } })
      else (true, h.updStn (unitStn u) fun x => { x with cap := { x.cap with overflow := true, held := x.cap.held ++ [h.routed u r c] } }) := by
  unfold whole at all
  unfold Hub.capture_ Hub.ctxSlice
  dsimp only
  rw [cut, all]
  rfl

theorem routeMessage_captured {g : Hub} (ok : unitOk u = true) (units : h.boot.units = true) (awake : h.asleep u = false) (router : unitClass u = 6)
    (captured : h.capture_ (unitStn u) r 0 0 = (true, g)) : h.routeMessage u r = g := by
  unfold Hub.routeMessage
  rw [if_neg (by simp [ok, units, awake, router]), captured]
  rfl

end Capture

/-! ## Trace after a stamp and counts -/

/-- The hub `g` is `h` but for stamps, and at station `st` for the mark and the counters. -/
structure Hub.retold (st : Nat) (h g : Hub) : Prop where
  frame : ∃ l sm, g = { h with stn := l, stamps := sm }
  self : g.getStn st = { h.getStn st with mark := (g.getStn st).mark, grain := (g.getStn st).grain }

section Retold

variable {h g k : Hub} {st : Nat} {e : Ev} {p : Pk}

theorem Hub.retold.trans (a : h.retold st g) (b : g.retold st k) : h.retold st k := by
  obtain ⟨l, sm, frameA⟩ := a.frame
  obtain ⟨l', sm', frameB⟩ := b.frame
  refine ⟨⟨l', sm', by rw [frameB, frameA]⟩, ?_⟩
  rw [b.self, a.self]

theorem retold_updGrain (h : Hub) (u : Nat) (f : Grain → Grain) : h.retold (unitStn u) (h.updGrain u f) :=
  ⟨⟨_, _, rfl⟩, by rw [getStn_updGrain_own]⟩

theorem retold_stampSent (h : Hub) (st : Nat) : h.retold st (h.stampSent st) := ⟨⟨_, _, rfl⟩, by
  unfold Hub.stampSent
  rw [Hub.getStn_updStn]
  rfl⟩

theorem retold_stampReceived (h : Hub) (st n : Nat) : h.retold st (h.stampReceived st n) := ⟨⟨_, _, rfl⟩, by
  unfold Hub.stampReceived
  rw [Hub.getStn_updStn]
  rfl⟩

theorem stampSent_grain (h : Hub) (st : Nat) : ((h.stampSent st).getStn st).grain = (h.getStn st).grain := by
  unfold Hub.stampSent
  rw [Hub.getStn_updStn]
  rfl

theorem stampReceived_grain (h : Hub) (st n : Nat) : ((h.stampReceived st n).getStn st).grain = (h.getStn st).grain := by
  unfold Hub.stampReceived
  rw [Hub.getStn_updStn]
  rfl

/-- What trace reads of a station it reads the same. -/
theorem Hub.retold.reads (a : h.retold st g) : (g.getStn st).peck = (h.getStn st).peck ∧ (g.getStn st).tbOn = (h.getStn st).tbOn ∧
    (∀ k, g.getSrc st k = h.getSrc st k) ∧ g.stnTick st = h.stnTick st ∧ ∀ u, unitStn u = st → g.unitRuns u = h.unitRuns u := by
  obtain ⟨⟨l, sm, rfl⟩, self⟩ := a
  have peck : (Hub.getStn { h with stn := l, stamps := sm } st).peck = (h.getStn st).peck := by rw [self]
  refine ⟨peck, by rw [self], fun k => ?_, ?_, fun u own => ?_⟩
  · unfold Hub.getSrc
    rw [self]
  · unfold Hub.stnTick
    rw [self]
    rfl
  · subst own
    unfold Hub.unitRuns Hub.asleep Hub.frozen Hub.getGate
    rw [self]

theorem plainTrace_retold (a : h.retold (unitStn e.unit) g) (plain : plainTrace h e) : plainTrace g e := by
  obtain ⟨peck, tb, src, tick, runs⟩ := a.reads
  obtain ⟨⟨l, sm, rfl⟩, -⟩ := a
  unfold plainTrace at *
  rw [peck, tb, tick, runs e.unit rfl]
  simp only [src]
  exact plain

theorem plainBytes_retold (a : h.retold (unitStn e.unit) g) : plainBytes g e p = plainBytes h e p := by
  obtain ⟨-, -, src, tick, -⟩ := a.reads
  obtain ⟨⟨l, sm, rfl⟩, -⟩ := a
  unfold plainBytes
  rw [tick, src]
  rfl

theorem hasRoom_retold (a : h.retold (unitStn e.unit) g) (room : hasRoom h e p) : hasRoom g e p := by
  have bytes := plainBytes_retold (p := p) a
  obtain ⟨peck, -, -, -, -⟩ := a.reads
  unfold hasRoom
  rw [peck, bytes]
  obtain ⟨⟨l, sm, rfl⟩, -⟩ := a
  exact room

/-- One packet after counts: the counters that stood before it. -/
theorem onePacket_retold {gr : SMap Grain} (a : h.retold (unitStn e.unit) g) (only : onlyStation (unitStn e.unit) h g)
    (mark : (g.getStn (unitStn e.unit)).mark = (h.getStn (unitStn e.unit)).mark) (one : onePacket g k e p gr) : onePacket h k e p gr := by
  have bytes := plainBytes_retold (p := p) a
  obtain ⟨peck, -, src, tick, -⟩ := a.reads
  obtain ⟨self, rest⟩ := one
  refine ⟨?_, onlyStation_trans only rest⟩
  have same := a.self
  rw [mark] at same
  rw [bytes, peck, src, tick, same] at self
  obtain ⟨⟨l, sm, rfl⟩, -⟩ := a
  exact self

/-- Two counts of a unit. -/
def Hub.twice (h : Hub) (u i n j m : Nat) : Hub := (h.updGrain u fun g => g.took i n).updGrain u fun g => g.took j m

theorem twice_retold (h : Hub) (u i n j m : Nat) : h.retold (unitStn u) (h.twice u i n j m) := (retold_updGrain h u _).trans (retold_updGrain _ u _)

/-- The packet that a plainly traced Perch makes after two counts. -/
theorem onePacket_twice (h : Hub) (e : Ev) (p : Pk) (i n j m : Nat) {gr : SMap Grain} (before : (h.getStn (unitStn e.unit)).grain = gr) :
    onePacket h ((h.twice e.unit i n j m).storeOne (unitStn e.unit) 0 (unitSub e.unit) e.slice ((h.twice e.unit i n j m).stnTick (unitStn e.unit)) p) e p
      (counted (counted gr (unitSub e.unit) i n) (unitSub e.unit) j m) := by
  subst before
  have one := onePacket_alone (h.twice e.unit i n j m) e p
  have counts : (h.twice e.unit i n j m).getStn (unitStn e.unit) = _ := getStn_twice h e.unit i n j m
  rw [show ((h.twice e.unit i n j m).getStn (unitStn e.unit)).grain = _ from congrArg Stn.grain counts] at one
  exact onePacket_retold (twice_retold h e.unit i n j m) ((alters_updStn h _ _).trans (alters_updStn _ _ _)).1 (by rw [counts]) one

end Retold

/-! ## Routers and links -/

section Passing

variable {h : Hub} {u : Nat} {r : Rmo} {len : Nat} (ok : unitOk u = true) (units : h.boot.units = true) (awake : h.asleep u = false)
include ok units awake

omit ok units awake in
theorem routed_notTile (high : 4 ≤ unitClass u) : isTileUnit u = false := by
  unfold isTileUnit
  unfold unitClass stnClass at high
  rw [decide_eq_false_iff_not]
  intro tile
  rw [if_pos tile] at high
  split_ifs at high <;> exact absurd high (by decide)

theorem routeMessage_packet (router : unitClass u = 6) (free : h.captures (unitStn u) (h.getCtx r.context).slice = none)
    (plain : plainTrace h (h.rmoEv 8 u r (r.inPort % 16 + at_ (r.outPort % 16) 4)))
    (room : hasRoom h (h.rmoEv 8 u r (r.inPort % 16 + at_ (r.outPort % 16) 4)) (rmoPk r (r.inPort % 16 + at_ (r.outPort % 16) 4))) :
    h.routeMessage u r = ((h.storeOne (unitStn u) 0 (unitSub u) (h.ctxSlice r.context) (h.stnTick (unitStn u))
      (rmoPk r (r.inPort % 16 + at_ (r.outPort % 16) 4))).updGrain u fun g => g.took 5 1).updGrain u fun g => g.took 2 r.data.length := by
  have runs : h.unitRuns u = true := plain.1
  have noData : bit (h.srcCfg (unitStn u) 0) 28 = false := by
    obtain ⟨-, -, -, -, -, -, -, -, -, -, noData, -⟩ := plain
    exact noData
  have seen := observe_packet plain rfl rfl (evPks_rmo rfl noData) (rmoPk_notSync _ _) room
  unfold Hub.routeMessage
  rw [if_neg (by simp [ok, units, awake, router]), capture_none free]
  dsimp only
  rw [if_neg (by simp [runs]), seen, grainAdd_plain ok (by decide) (.inl (by decide)), grainAdd_plain ok (by decide) (.inl (by decide))]
  rfl

/-- A link's message after its stamp: two counts, then the packet. -/
theorem linkMessage_packet {msn n : Nat} {sent : Bool} {k : Hub} (link : unitClass u = 5) (trained : (h.getStn (unitStn u)).mark.trained = true)
    (free : h.captures (unitStn u) (h.getCtx r.context).slice = none)
    (number : (if sent then (h.getStn (unitStn u)).mark.msnOut else msn % 65536) = n)
    (stamp : (if sent then h.stampSent (unitStn u) else h.stampReceived (unitStn u) n) = k) (told : h.retold (unitStn u) k)
    (plain : plainTrace h { h.rmoEv 7 u r 0 with data := [] })
    (room : hasRoom h { h.rmoEv 7 u r 0 with data := [] }
      (.link (b2n (!sent)) r.op.code r.mode (h.getStn (unitStn u)).mark.peerPkg n len r.context r.tag)) :
    h.linkMessage u sent r msn len =
      (k.twice u (if sent then 1 else 2) 1 (if sent then 3 else 4) r.data.length).storeOne (unitStn u) 0 (unitSub u) (h.ctxSlice r.context)
        ((k.twice u (if sent then 1 else 2) 1 (if sent then 3 else 4) r.data.length).stnTick (unitStn u))
        (.link (b2n (!sent)) r.op.code r.mode (h.getStn (unitStn u)).mark.peerPkg n len r.context r.tag) := by
  have runs : h.unitRuns u = true := plain.1
  have notTile := routed_notTile (u := u) (by rw [link]; decide)
  have all := told.trans (twice_retold k u (if sent then 1 else 2) 1 (if sent then 3 else 4) r.data.length)
  have seen := observe_packet (h := k.twice u (if sent then 1 else 2) 1 (if sent then 3 else 4) r.data.length)
    (e := { h.rmoEv 7 u r 0 with pk := some (.link (b2n (!sent)) r.op.code r.mode (h.getStn (unitStn u)).mark.peerPkg n len r.context r.tag), data := [] })
    (plainTrace_retold all plain) rfl rfl rfl rfl (hasRoom_retold all room)
  have counts : (k.grainAdd u (if sent then 1 else 2) 1).grainAdd u (if sent then 3 else 4) r.data.length =
      k.twice u (if sent then 1 else 2) 1 (if sent then 3 else 4) r.data.length := by
    rw [grainAdd_plain ok (by cases sent <;> decide) (.inr (.inl notTile)), grainAdd_plain ok (by cases sent <;> decide) (.inr (.inl notTile))]
    rfl
  unfold Hub.linkMessage
  dsimp only
  rw [if_neg (by simp [ok, units, awake, link, trained]), capture_none free]
  dsimp only
  rw [if_neg (by simp [runs]), number, stamp, counts]
  obtain ⟨⟨l, sm, same⟩, -⟩ := all
  generalize k.twice u (if sent then 1 else 2) 1 (if sent then 3 else 4) r.data.length = g at seen same ⊢
  subst same
  exact seen

end Passing

theorem sent_lands {s : State} {t : SMap Nat} {g : Hub} {st : Nat} {e : Ev} {p : Pk} {gr : SMap Grain}
    (one : onePacket ((s.hub.placed t).stampSent st) g e p gr) : onePacket (s.hub.stampSent st) (lands s g).hub e p gr := one

theorem received_lands {s : State} {t : SMap Nat} {g : Hub} {st n : Nat} {e : Ev} {p : Pk} {gr : SMap Grain}
    (one : onePacket ((s.hub.placed t).stampReceived st n) g e p gr) : onePacket (s.hub.stampReceived st n) (lands s g).hub e p gr := one

/-- Settles O22: the capture by its store, the packet by the one that a plainly traced Perch stores. -/
theorem messagesInFlight : Obligations.MessagesInFlight := by
  unfold Obligations.MessagesInFlight
  refine fun s u r len live ok units awake => ⟨fun c router cut all entries used tick => ?_, fun c router cut all full => ?_, fun router free plain room => ?_,
    fun msn link trained free plain room => ?_, fun msn link trained free plain room => ?_⟩
  · refine yields_ex rfl live fun t => ?_
    have stored := capture_whole (h := s.hub.placed t) cut all
    have late : decide (c.t + 64 < (s.hub.placed t).stnTick (unitStn u)) = false := decide_eq_false (Nat.not_lt.mpr tick)
    have entry : (s.hub.placed t).routed u r c = captured (s.hub.placed t) (unitStn u) r 0 (r.inPort % 16 + at_ (r.outPort % 16) 4) 0 := by
      unfold Hub.routed
      rw [late]
      rfl
    rw [if_pos ⟨entries, used⟩, late, if_neg Bool.false_ne_true, entry] at stored
    exact ⟨_, routeMessage_captured (h := s.hub.placed t) ok units awake router stored, alters_lands (Hub.getStn_updStn _ _ _) (alters_updStn _ _ _)⟩
  · refine yields_ex rfl live fun t => ?_
    have stored := capture_whole (h := s.hub.placed t) cut all
    rw [if_neg fun room => full.elim (fun many => absurd room.1 (Nat.not_lt.mpr many)) fun big => absurd room.2 (Nat.not_le.mpr big)] at stored
    exact ⟨_, routeMessage_captured (h := s.hub.placed t) ok units awake router stored, alters_lands (Hub.getStn_updStn _ _ _) (alters_updStn _ _ _)⟩
  · exact yields_of_eq rfl live (fun t => routeMessage_packet (h := s.hub.placed t) ok units awake router free plain room) fun t =>
      ⟨onePacket_lands (onePacket_counts (s.hub.placed t) (s.hub.rmoEv 8 u r (r.inPort % 16 + at_ (r.outPort % 16) 4)) _ 5 1 2 r.data.length), rfl⟩
  · exact yields_of_eq rfl live (fun t => linkMessage_packet (h := s.hub.placed t) ok units awake (sent := true) link trained free rfl rfl (retold_stampSent _ _) plain room)
      fun t => ⟨sent_lands (onePacket_twice ((s.hub.placed t).stampSent (unitStn u)) { s.hub.rmoEv 7 u r 0 with data := [] } _ 1 1 3 r.data.length (stampSent_grain _ _)), rfl⟩
  · exact yields_of_eq rfl live (fun t => linkMessage_packet (h := s.hub.placed t) ok units awake (sent := false) link trained free rfl rfl (retold_stampReceived _ _ _) plain
      room) fun t =>
        ⟨received_lands (onePacket_twice ((s.hub.placed t).stampReceived (unitStn u) (msn % 65536)) { s.hub.rmoEv 7 u r 0 with data := [] } _ 2 1 4 r.data.length (stampReceived_grain _ _ _)), rfl⟩

end Sys2Proof.Machine
end

section
/-!
Gates of units (chapter 08): what a pass over units leaves of their gates. O23: a cut from its schedule to its tick (R257, R259, R260).
-/
namespace Sys2Proof.Machine

/-! ## Units of a station -/

theorem mem_stnUnits {u st : Nat} : u ∈ stnUnits st ↔ unitStn u = st ∧ unitOk u = true := by
  have low : subCount st ≤ 8 := by
    unfold subCount
    split
    · split <;> decide
    · decide
  unfold stnUnits unitOk unitStn unitSub
  rw [List.mem_map, decide_eq_true_iff]
  constructor
  · rintro ⟨k, m, rfl⟩
    have k8 := List.mem_range.mp m
    have stn : (st * 8 + k) / 8 = st := by omega
    have sub : (st * 8 + k) % 8 = k := by omega
    rw [stn, sub]
    exact ⟨rfl, k8⟩
  · rintro ⟨rfl, sub⟩
    exact ⟨u % 8, List.mem_range.mpr sub, by omega⟩

theorem mem_allStations_of_unit {u : Nat} (ok : unitOk u = true) : unitStn u ∈ allStations := by
  unfold unitOk subCount stnOk at ok
  have some_ := of_decide_eq_true ok
  unfold allStations
  rw [List.mem_range]
  by_contra high
  rw [if_neg (by simpa using high)] at some_
  exact absurd some_ (Nat.not_lt_zero _)

/-! ## Changes of gates alone -/

/-- Gates may differ, and the tick at which a station's gates froze. -/
def Hub.gatesMoved (h g : Hub) : Prop := (∀ x, { g.getStn x with gate := [], gateTick := 0 } = { h.getStn x with gate := [], gateTick := 0 }) ∧ g = { h with stn := g.stn }

/-- Gates alone may differ. -/
def Hub.gatesOnly (h g : Hub) : Prop := (∀ x, { g.getStn x with gate := [] } = { h.getStn x with gate := [] }) ∧ g = { h with stn := g.stn }

section Gates

variable {h g k : Hub}

theorem Hub.gatesMoved.refl : h.gatesMoved h := ⟨fun _ => rfl, rfl⟩

theorem Hub.gatesMoved.trans (a : h.gatesMoved g) (b : g.gatesMoved k) : h.gatesMoved k :=
  ⟨fun x => (b.1 x).trans (a.1 x), by rw [b.2, a.2]⟩

theorem Hub.gatesOnly.refl : h.gatesOnly h := ⟨fun _ => rfl, rfl⟩

theorem Hub.gatesOnly.trans (a : h.gatesOnly g) (b : g.gatesOnly k) : h.gatesOnly k :=
  ⟨fun x => (b.1 x).trans (a.1 x), by rw [b.2, a.2]⟩

theorem Hub.gatesOnly.moved (a : h.gatesOnly g) : h.gatesMoved g :=
  ⟨fun x => (congrArg (fun t : Stn => { t with gateTick := 0 }) (a.1 x) :), a.2⟩

theorem updGate_only (h : Hub) (u : Nat) (f : Gate → Gate) : h.gatesOnly (h.updGate u f) := by
  refine ⟨fun x => ?_, rfl⟩
  unfold Hub.updGate
  by_cases own : x = unitStn u
  · rw [own, Hub.getStn_updStn]
  · rw [Hub.getStn_updStn_ne h _ own]

theorem updGate_station (h : Hub) (u : Nat) (f : Gate → Gate) : onlyStation (unitStn u) h (h.updGate u f) := fun _ other => Hub.getStn_updStn_ne h _ other

theorem getGate_updGate (h : Hub) (u : Nat) (f : Gate → Gate) : (h.updGate u f).getGate u = f (h.getGate u) := by
  unfold Hub.getGate Hub.updGate
  rw [Hub.getStn_updStn, SMap.get_upd_self]

theorem getGate_updGate_ne (h : Hub) {u v : Nat} (f : Gate → Gate) (other : v ≠ u) : (h.updGate u f).getGate v = h.getGate v := by
  unfold Hub.getGate Hub.updGate
  by_cases stn : unitStn v = unitStn u
  · rw [stn, Hub.getStn_updStn]
    exact SMap.get_upd_ne _ _ _ fun sub => other (unit_eq_of_stn_sub stn sub)
  · rw [Hub.getStn_updStn_ne _ _ stn]

/-- A unit's sleep and its stalls are no matter of its gate. -/
theorem Hub.gatesMoved.halts (a : h.gatesMoved g) (u : Nat) : g.asleep u = h.asleep u ∧ g.blocked u = h.blocked u := by
  obtain ⟨stns, frame⟩ := a
  have same := stns (unitStn u)
  have power : (g.getStn (unitStn u)).powerGated = (h.getStn (unitStn u)).powerGated := (congrArg Stn.powerGated same :)
  have clock : (g.getStn (unitStn u)).clkGated = (h.getStn (unitStn u)).clkGated := (congrArg Stn.clkGated same :)
  have wait : (g.getStn (unitStn u)).wait = (h.getStn (unitStn u)).wait := (congrArg Stn.wait same :)
  have rail : g.rail = h.rail := (congrArg Hub.rail frame :)
  have clk : g.clk = h.clk := (congrArg Hub.clk frame :)
  constructor
  · unfold Hub.asleep
    dsimp only
    rw [power, clock, rail, clk]
  · unfold Hub.blocked
    rw [wait]

/-- A step over units, each of which moves its own gate alone, from `v` to `val u v`. -/
structure Hub.gateStep (inv : Hub → Prop) (val : Nat → Gate → Gate) (f : Hub → Nat → Hub) : Prop where
  kept : ∀ g u, inv g → inv (f g u)
  self : ∀ g u, inv g → (f g u).getGate u = val u (g.getGate u)
  others : ∀ g u v, inv g → v ≠ u → (f g u).getGate v = g.getGate v
  again : ∀ u v, val u (val u v) = val u v

/-- After a pass over the units `l` each of them has moved its gate once. -/
theorem Hub.gateStep.foldl {inv : Hub → Prop} {val : Nat → Gate → Gate} {f : Hub → Nat → Hub} (step : Hub.gateStep inv val f) (l : List Nat) {h : Hub} (start : inv h) :
    inv (l.foldl f h) ∧ ∀ u, (l.foldl f h).getGate u = if u ∈ l then val u (h.getGate u) else h.getGate u := by
  induction l generalizing h with
  | nil => exact ⟨start, fun u => (if_neg List.not_mem_nil).symm⟩
  | cons x l ih =>
    obtain ⟨kept, gates⟩ := ih (step.kept h x start)
    refine ⟨kept, fun u => (gates u).trans ?_⟩
    by_cases own : u = x
    · subst own
      rw [step.self h u start, step.again, ite_self, if_pos List.mem_cons_self]
    · rw [step.others h x u start own]
      simp only [List.mem_cons, own, false_or]

end Gates

/-! ## Arming and freezing -/

section Freeze

variable {h g : Hub}

theorem getGate_freeze (h : Hub) (id t u : Nat) : (h.freeze id t u).getGate u = frozenGate h u id t := by
  have tick : (h.freeze id t u).getGate u = (h.updGate u fun g => { g with
      st := if h.asleep u || h.blocked u then .stopped else .stopping, cut := id, t := t, cmds := false, left := 0,
      result := if h.asleep u then 4 else if h.blocked u then 1 else 0 }).getGate u := getGate_of_stn (by unfold Hub.freeze; dsimp only; rw [Hub.getStn_updStn])
  rw [tick, getGate_updGate]
  rfl

theorem freeze_ne (h : Hub) (id t : Nat) {u v : Nat} (other : v ≠ u) : (h.freeze id t u).getGate v = h.getGate v := by
  refine (getGate_of_stn ?_).trans (getGate_updGate_ne h (u := u) (fun g => { g with
    st := if h.asleep u || h.blocked u then .stopped else .stopping, cut := id, t := t, cmds := false, left := 0,
    result := if h.asleep u then 4 else if h.blocked u then 1 else 0 }) other)
  unfold Hub.freeze
  dsimp only
  by_cases own : unitStn v = unitStn u
  · rw [own, Hub.getStn_updStn]
  · rw [Hub.getStn_updStn_ne _ _ own]

theorem updTick_moved (h : Hub) (st t : Nat) : h.gatesMoved (h.updStn st fun x => { x with gateTick := t }) := by
  refine ⟨fun x => ?_, rfl⟩
  by_cases own : x = st
  · rw [own, Hub.getStn_updStn]
  · rw [Hub.getStn_updStn_ne _ _ own]

theorem freeze_moved (h : Hub) (id t u : Nat) : h.gatesMoved (h.freeze id t u) := by
  exact (updGate_only h u _).moved.trans (updTick_moved _ _ t)

theorem freeze_station (h : Hub) (id t u : Nat) : onlyStation (unitStn u) h (h.freeze id t u) :=
  onlyStation_trans (updGate_station h u _) fun _ other => Hub.getStn_updStn_ne _ _ other

/-- A frozen gate, seen from a hub whose gates alone have moved. -/
theorem frozenGate_moved (a : h.gatesMoved g) (u id t : Nat) : frozenGate g u id t = { g.getGate u with
    st := if h.asleep u || h.blocked u then .stopped else .stopping, cut := id, t := t, cmds := false, left := 0,
    result := if h.asleep u then 4 else if h.blocked u then 1 else 0 } := by
  obtain ⟨asleep, blocked⟩ := a.halts u
  unfold frozenGate
  rw [asleep, blocked]

/-- The gate that a freeze makes of gate `v` of unit `u`. -/
def Hub.frozenOf (h : Hub) (id t u : Nat) (v : Gate) : Gate :=
  { v with st := if h.asleep u || h.blocked u then .stopped else .stopping, cut := id, t := t, cmds := false, left := 0,
           result := if h.asleep u then 4 else if h.blocked u then 1 else 0 }

theorem frozenOf_st (h : Hub) (id t u : Nat) (v : Gate) : (h.frozenOf id t u v).st = .stopped ∨ (h.frozenOf id t u v).st = .stopping := by
  unfold Hub.frozenOf
  dsimp only
  split
  · exact .inl rfl
  · exact .inr rfl

/-- Tick T at a unit, of which gate `v` is in the scope of a cut or not. -/
def Hub.tickGate (h : Hub) (r : CutRec) (u : Nat) (v : Gate) : Gate :=
  if h.inScope r u = true ∧ (v.st = .run ∨ v.st = .armed ∧ v.cut = r.id) then h.frozenOf r.id r.t u v
  else if v.st = .armed ∧ v.cut = r.id then {} else v

theorem tickGate_again (h : Hub) (r : CutRec) (u : Nat) (v : Gate) : h.tickGate r u (h.tickGate r u v) = h.tickGate r u v := by
  by_cases frozen : h.inScope r u = true ∧ (v.st = .run ∨ v.st = .armed ∧ v.cut = r.id)
  · have first : h.tickGate r u v = h.frozenOf r.id r.t u v := if_pos frozen
    rw [first]
    unfold Hub.tickGate
    rcases frozenOf_st h r.id r.t u v with st | st <;> rw [st] <;> simp
  · by_cases armed : v.st = .armed ∧ v.cut = r.id
    · have first : h.tickGate r u v = {} := (if_neg frozen).trans (if_pos armed)
      have out : h.inScope r u ≠ true := fun scope => frozen ⟨scope, .inr armed⟩
      rw [first]
      unfold Hub.tickGate
      simp [out]
    · have first : h.tickGate r u v = v := (if_neg frozen).trans (if_neg armed)
      rw [first, first]

/-- One unit at tick T. -/
def Hub.tickUnit (r : CutRec) (h : Hub) (u : Nat) : Hub :=
  if h.inScope r u && ((h.getGate u).st == .run || ((h.getGate u).st == .armed && (h.getGate u).cut == r.id)) then h.freeze r.id r.t u
  else if (h.getGate u).st == .armed && (h.getGate u).cut == r.id then h.updGate u fun _ => {}
  else h

theorem freezeStation_eq (h : Hub) (r : CutRec) (st : Nat) : h.freezeStation r st = (stnUnits st).foldl (Hub.tickUnit r) h := rfl

theorem Hub.gatesMoved.inScope (a : h.gatesMoved g) (r : CutRec) (u : Nat) : g.inScope r u = h.inScope r u := by
  rw [a.2]
  rfl

theorem tickUnit_step (h : Hub) (r : CutRec) : Hub.gateStep h.gatesMoved (h.tickGate r) (Hub.tickUnit r) where
  kept g u a := by
    unfold Hub.tickUnit
    split
    · exact a.trans (freeze_moved _ _ _ _)
    · split
      · exact a.trans (updGate_only _ _ _).moved
      · exact a
  self g u a := by
    obtain ⟨asleep, blocked⟩ := a.halts u
    unfold Hub.tickUnit Hub.tickGate
    rw [a.inScope]
    simp only [Bool.and_eq_true, Bool.or_eq_true, beq_iff_eq]
    split
    · rw [getGate_freeze, frozenGate_moved a]
      rfl
    · split
      · exact getGate_updGate g u _
      · rfl
  others g u v a other := by
    unfold Hub.tickUnit
    split
    · exact freeze_ne g _ _ other
    · split
      · exact getGate_updGate_ne g _ other
      · rfl
  again := tickGate_again h r

end Freeze

/-! ## The schedule flit -/

section Schedule

variable {h g : Hub} {st : Nat} {r : CutRec}

theorem onlyStation_foldl {f : Hub → Nat → Hub} {l : List Nat} (step : ∀ g u, u ∈ l → onlyStation st g (f g u)) (h : Hub) : onlyStation st h (l.foldl f h) := by
  induction l generalizing h with
  | nil => exact fun _ _ => rfl
  | cons x l ih => exact onlyStation_trans (step h x List.mem_cons_self) (ih (fun g u m => step g u (List.mem_cons_of_mem x m)) _)

theorem getStn_gate (a : h.gatesOnly g) (x : Nat) : g.getStn x = { h.getStn x with gate := (g.getStn x).gate } :=
  (congrArg (fun t : Stn => { t with gate := (g.getStn x).gate }) (a.1 x) :)

theorem deliver_quiet {k : Nat} (cuts : ∀ c ∈ h.cut.cuts, c.toArm.contains st = true → k ≤ c.issued) (orders : ∀ o ∈ h.trc.orders, o.station ≠ st) :
    h.deliver st k = h := by
  have noCut : (h.cut.cuts.filter fun r => r.toArm.contains st && decide (r.issued < k)) = [] := List.filter_eq_nil_iff.mpr fun c m early => by
    rw [Bool.and_eq_true, decide_eq_true_iff] at early
    exact absurd (cuts c m early.1) (Nat.not_le.mpr early.2)
  have noOrder : (h.trc.orders.filter fun o => o.station == st && decide (o.issued < k)) = [] := List.filter_eq_nil_iff.mpr fun o m => by simp [orders o m]
  unfold Hub.deliver
  dsimp only
  rw [noCut, List.foldl_nil, noOrder]
  rfl

/-- A schedule at a unit, of which gate `v` is in the scope of a cut or not. -/
def Hub.armedGate (h : Hub) (r : CutRec) (u : Nat) (v : Gate) : Gate :=
  if h.inScope r u = true ∧ v.st = .run then { st := .armed, cut := r.id, t := r.t } else v

/-- One unit at a schedule. -/
def Hub.armUnit (r : CutRec) (h : Hub) (u : Nat) : Hub :=
  if h.inScope r u && (h.getGate u).st == .run then h.updGate u fun _ => { st := .armed, cut := r.id, t := r.t } else h

theorem armUnit_step (h : Hub) (r : CutRec) : Hub.gateStep h.gatesOnly (h.armedGate r) (Hub.armUnit r) where
  kept g u a := by
    unfold Hub.armUnit
    split
    · exact a.trans (updGate_only _ _ _)
    · exact a
  self g u a := by
    unfold Hub.armUnit Hub.armedGate
    rw [a.moved.inScope]
    simp only [Bool.and_eq_true, beq_iff_eq]
    split
    · exact getGate_updGate g u _
    · rfl
  others g u v a other := by
    unfold Hub.armUnit
    split
    · exact getGate_updGate_ne g _ other
    · rfl
  again u v := by
    unfold Hub.armedGate
    split
    · exact if_neg (by simp)
    · rfl

/-- A schedule's Perch arms its capture or its hold. -/
def CapStore.arm (c : CapStore) (id : Nat) : CapStore := { c with armed := c.armed ++ [id], overflow := if c.armed.isEmpty then false else c.overflow }

def Hub.capArmed (h : Hub) (st id : Nat) : Hub := if arms st then h.updStn st fun t => { t with cap := t.cap.arm id } else h

/-- The schedule no longer waits for a station. -/
def Hub.unawaited (h : Hub) (st id : Nat) : Hub := h.updCut id fun r => { r with toArm := r.toArm.filter (· != st) }

theorem armStation_eq (early : r.holding = false) :
    h.armStation st r = ((stnUnits st).foldl (Hub.armUnit r) (h.unawaited st r.id)).capArmed st r.id := by
  unfold Hub.armStation
  dsimp only
  rw [early, if_neg Bool.false_ne_true]
  rfl

theorem cutFlit_arms (found : h.cut.cuts.find? (fun r => r.toArm.contains st) = some r) (early : r.holding = false)
    (alone : ∀ c ∈ h.cut.cuts, c.toArm.contains st = true → c = r) (orders : ∀ o ∈ h.trc.orders, o.station ≠ st) :
    h.cutFlit st = ((stnUnits st).foldl (Hub.armUnit r) (h.unawaited st r.id)).capArmed st r.id := by
  unfold Hub.cutFlit
  rw [found]
  dsimp only
  rw [deliver_quiet (fun c m waits => Nat.le_of_eq (congrArg CutRec.issued (alone c m waits)).symm) orders, armStation_eq early]

theorem getStn_capArmed (h : Hub) (st id : Nat) :
    (h.capArmed st id).getStn st = { h.getStn st with cap := if arms st then (h.getStn st).cap.arm id else (h.getStn st).cap } := by
  unfold Hub.capArmed
  split
  · exact Hub.getStn_updStn h st _
  · rfl

theorem capArmed_only (h : Hub) (st id : Nat) : onlyStation st h (h.capArmed st id) := by
  unfold Hub.capArmed
  split
  · exact fun _ other => Hub.getStn_updStn_ne h _ other
  · exact fun _ _ => rfl

theorem capArmed_frame (h : Hub) (st id : Nat) : h.capArmed st id = { h with stn := (h.capArmed st id).stn } := by
  unfold Hub.capArmed
  split <;> rfl

theorem armUnit_only {r : CutRec} (g : Hub) (u : Nat) (m : u ∈ stnUnits st) : onlyStation st g (Hub.armUnit r g u) := by
  unfold Hub.armUnit
  split
  · exact (mem_stnUnits.mp m).1 ▸ updGate_station g u _
  · exact fun _ _ => rfl

end Schedule

/-! ## Tick T -/

section Tick

variable {h : Hub} {r : CutRec}

/-- The stations of which a cut awaits a report, with the units in its scope. -/
def Hub.dueStations (h : Hub) (r : CutRec) : List (Nat × Nat) :=
  (allStations.filter fun x => !r.bypassed.contains x).filterMap fun x =>
    if h.scopeMask r x ≠ 0 ∨ capturing x = true then some (x, h.scopeMask r x) else none

/-- The cut at its tick. -/
def Hub.cutTicked (h : Hub) (r : CutRec) : Hub := h.updCut r.id fun c => { c with
  st := .stopping, toReport := h.dueStations r, unobserved := r.bypassed.foldl (fun a x => a + popcount8 (h.scopeMask r x)) 0,
  unitMap := h.slc.unit, pasids := h.slc.e.map fun e => (e.1, e.2.pasid) }

/-- The units that a cut stops at its tick. -/
def Hub.dueUnits (h : Hub) (r : CutRec) : List Nat := (h.dueStations r).flatMap fun x => if r.toArm.contains x.1 then [] else stnUnits x.1

theorem cutTickT_found (found : h.cut.cuts.find? (fun r => r.st == .scheduled && decide (r.t ≤ h.now)) = some r) :
    h.cutTickT = (h.dueUnits r).foldl (Hub.tickUnit r) (h.cutTicked r) := by
  unfold Hub.cutTickT Hub.dueUnits
  rw [found, List.foldl_flatMap]
  change (h.dueStations r).foldl (fun g x => if r.toArm.contains x.1 then g else g.freezeStation r x.1) (h.cutTicked r) = _
  refine List.foldl_ext _ _ _ fun g x _ => ?_
  split
  · rfl
  · exact freezeStation_eq g r x.1

theorem mem_dueUnits {u : Nat} : u ∈ h.dueUnits r ↔ unitOk u = true ∧ r.bypassed.contains (unitStn u) = false ∧ r.toArm.contains (unitStn u) = false ∧
    (h.scopeMask r (unitStn u) ≠ 0 ∨ capturing (unitStn u) = true) := by
  unfold Hub.dueUnits Hub.dueStations
  rw [List.mem_flatMap]
  constructor
  · rintro ⟨⟨x, mask⟩, due, m⟩
    obtain ⟨y, observed, due⟩ := List.mem_filterMap.mp due
    obtain ⟨-, seen⟩ := List.mem_filter.mp observed
    split at m
    · cases m
    · next armed =>
      obtain ⟨stn, ok⟩ := mem_stnUnits.mp m
      split at due
      · next scope =>
        obtain ⟨rfl, rfl⟩ := Prod.mk.inj (Option.some.inj due)
        dsimp only at stn armed
        rw [← stn] at seen armed scope
        exact ⟨ok, by simpa using seen, by simpa using armed, scope⟩
      · cases due
  · rintro ⟨ok, seen, armed, scope⟩
    refine ⟨(unitStn u, h.scopeMask r (unitStn u)), List.mem_filterMap.mpr ⟨unitStn u, ?_, if_pos scope⟩, ?_⟩
    · exact List.mem_filter.mpr ⟨mem_allStations_of_unit ok, by rw [seen]; rfl⟩
    · rw [if_neg (by rw [armed]; nofun)]
      exact mem_stnUnits.mpr ⟨rfl, ok⟩

end Tick

theorem getGate_capArmed (h : Hub) (st id u : Nat) : (h.capArmed st id).getGate u = h.getGate u := by
  refine getGate_of_stn ?_
  by_cases own : unitStn u = st
  · rw [own, getStn_capArmed]
  · rw [capArmed_only h st id _ own]

/-- What a schedule flit leaves, after the pass over the station's units. -/
theorem armed_lands {s : State} {t : SMap Nat} {k g : Hub} {st id : Nat} {val : Nat → Gate} (moved : k.gatesOnly g) (only : onlyStation st k g)
    (gates : ∀ u, u ∈ stnUnits st → g.getGate u = val u) (same : k = { s.hub.placed t with cut := k.cut }) :
    (∀ u, u ∈ stnUnits st → (lands s (g.capArmed st id)).hub.getGate u = val u) ∧
    (lands s (g.capArmed st id)).hub.getStn st = { s.hub.getStn st with
      gate := ((lands s (g.capArmed st id)).hub.getStn st).gate,
      cap := if arms st then (s.hub.getStn st).cap.arm id else (s.hub.getStn st).cap } ∧
    onlyStation st s.hub (lands s (g.capArmed st id)).hub ∧
    lands s (g.capArmed st id) = { s with hub := { s.hub.placed t with stn := (lands s (g.capArmed st id)).hub.stn, cut := k.cut } } := by
  have before : ∀ x, k.getStn x = s.hub.getStn x := fun x => congrArg (fun l => SMap.get ({} : Stn) l x) (congrArg Hub.stn same :)
  have self : g.getStn st = { s.hub.getStn st with gate := (g.getStn st).gate } := before st ▸ getStn_gate moved st
  refine ⟨fun u m => (getGate_capArmed g st id u).trans (gates u m), ?_, fun x other => ((capArmed_only g st id x other).trans (only x other)).trans (before x), ?_⟩
  · have armed := getStn_capArmed g st id
    generalize g.capArmed st id = e at armed
    have armed : (lands s e).hub.getStn st = _ := armed
    rw [armed, self]
  · have frame := capArmed_frame g st id
    have whole : g.capArmed st id = { s.hub.placed t with stn := (g.capArmed st id).stn, cut := k.cut } := by
      generalize g.capArmed st id = e at frame
      rw [frame, moved.2, same]
    exact congrArg (lands s) whole

/-- Settles O23: the schedule flit and the tick by the pass over the units that each makes. -/
theorem cutSchedules : Obligations.CutSchedules := by
  unfold Obligations.CutSchedules
  refine fun s r live => ⟨fun st found early alone orders => ?_, fun found => ?_⟩
  · refine yields_of_eq rfl live (fun t => cutFlit_arms (h := s.hub.placed t) found early alone orders) fun t => ?_
    obtain ⟨moved, gates⟩ := (armUnit_step ((s.hub.placed t).unawaited st r.id) r).foldl (stnUnits st) (h := (s.hub.placed t).unawaited st r.id) .refl
    have only := onlyStation_foldl (armUnit_only (st := st) (r := r)) ((s.hub.placed t).unawaited st r.id)
    generalize (stnUnits st).foldl (Hub.armUnit r) ((s.hub.placed t).unawaited st r.id) = g at moved gates only
    refine armed_lands moved only (fun u m => (gates u).trans ?_) rfl
    rw [if_pos m]
    rfl
  · refine yields_of_eq rfl live (fun t => cutTickT_found (h := s.hub.placed t) found) fun t => ?_
    obtain ⟨moved, gates⟩ := (tickUnit_step ((s.hub.placed t).cutTicked r) r).foldl ((s.hub.placed t).dueUnits r) .refl
    generalize ((s.hub.placed t).dueUnits r).foldl (Hub.tickUnit r) ((s.hub.placed t).cutTicked r) = g at moved gates
    exact ⟨fun u => (gates u).trans (if_congr (mem_dueUnits (h := s.hub.placed t)) rfl rfl), moved.1, congrArg (lands s) moved.2⟩

end Sys2Proof.Machine
end

section
/-!
O24: how units and stations finish with a cut (R260, R264, R265).
-/
namespace Sys2Proof.Machine

/-! ## Keys of a map -/

theorem SMap.mem_of_mem_del {α : Type} {m : SMap α} {k : Nat} {e : Nat × α} (mem : e ∈ SMap.del m k) : e ∈ m := by
  induction m with
  | nil => exact mem
  | cons x m ih =>
    unfold SMap.del at mem
    split at mem
    · exact List.mem_cons_of_mem x (ih mem)
    · rcases List.mem_cons.mp mem with rfl | mem
      · exact List.mem_cons_self
      · exact List.mem_cons_of_mem x (ih mem)

theorem SMap.mem_put {α : Type} {m : SMap α} {k : Nat} {v : α} {e : Nat × α} (mem : e ∈ SMap.put m k v) : e ∈ m ∨ e = (k, v) := by
  induction m with
  | nil => exact .inr (List.mem_singleton.mp mem)
  | cons x m ih =>
    unfold SMap.put at mem
    split at mem
    · exact (List.mem_cons.mp mem).elim .inr .inl
    · rcases List.mem_cons.mp mem with rfl | mem
      · exact .inl List.mem_cons_self
      · exact (ih mem).imp_left (List.mem_cons_of_mem x)

/-- An entry of a changed map is one of the map, or has the changed key. -/
theorem SMap.mem_upd {α : Type} [DecidableEq α] {d : α} {m : SMap α} {k : Nat} {f : α → α} {e : Nat × α} (mem : e ∈ SMap.upd d m k f) : e ∈ m ∨ e.1 = k := by
  unfold SMap.upd SMap.set at mem
  split at mem
  · exact .inl (SMap.mem_of_mem_del mem)
  · exact (SMap.mem_put mem).elim (fun before => .inl (SMap.mem_of_mem_del before)) fun new => .inr (congrArg Prod.fst new)

/-! ## Stops of units -/

section Stops

variable {h g : Hub}

/-- Where no cut steps, no step is over. -/
theorem stepCheck_noStep {id status : Nat} {force : Bool} (none_ : ∀ c, h.cut.byId id = some c → c.st ≠ .stepping) : h.stepCheck id status force = h := by
  unfold Hub.stepCheck
  cases found : h.cut.byId id with
  | none => rfl
  | some c => exact if_pos (.inl (none_ c found))

theorem byId_mem {c : CutRec} {id : Nat} {cut : Cut} (found : cut.byId id = some c) : c ∈ cut.cuts ∧ c.id = id := by
  unfold Cut.byId at found
  exact ⟨List.mem_of_find?_eq_some found, by simpa using List.find?_some found⟩

theorem stopClean_stops {u : Nat} (ok : unitOk u = true) (stopping : (h.getGate u).st = .stopping)
    (early : h.stnTick (unitStn u) < (h.getGate u).t + h.forceAfter) (none_ : ∀ c, h.cut.byId (h.getGate u).cut = some c → c.st ≠ .stepping) :
    h.stopClean u = h.updGate u fun g => { g with st := .stopped, result := 1 } := by
  unfold Hub.stopClean
  dsimp only
  rw [if_neg (by simp [ok, stopping, Nat.not_le.mpr early])]
  exact stepCheck_noStep (h := h.updGate u fun g => { g with st := .stopped, result := 1 }) none_

/-- The gate of a unit that is forced to stop once its time is over. -/
def Hub.forcedGate (h : Hub) (st : Nat) (v : Gate) : Gate :=
  if v.st = .stopping ∧ v.t + h.forceAfter ≤ h.stnTick st then { v with st := .forced, result := 2 } else v

/-- One unit at the time of the forced stop. -/
def Hub.forceUnit (st : Nat) (h : Hub) (u : Nat) : Hub :=
  if (h.getGate u).st == .stopping && decide ((h.getGate u).t + h.forceAfter ≤ h.stnTick st) then
    (h.updGate u fun g => { g with st := .forced, result := 2 }).stepCheck (h.getGate u).cut stOk false
  else h

theorem forcedStop_eq (h : Hub) (st : Nat) : h.forcedStop st = (stnUnits st).foldl (Hub.forceUnit st) h := rfl

theorem Hub.gatesOnly.stnTick (a : h.gatesOnly g) (st : Nat) : g.stnTick st = h.stnTick st := by
  have clk : g.now = h.now := by rw [a.2]; rfl
  unfold Hub.stnTick
  rw [getStn_gate a st, clk]

theorem forceUnit_quiet {st : Nat} (a : h.gatesOnly g) (none_ : ∀ c ∈ h.cut.cuts, c.st ≠ .stepping) (u : Nat) :
    Hub.forceUnit st g u = if (g.getGate u).st = .stopping ∧ (g.getGate u).t + h.forceAfter ≤ h.stnTick st then
      g.updGate u fun g => { g with st := .forced, result := 2 } else g := by
  have cut : g.cut = h.cut := (congrArg Hub.cut a.2 :)
  have force : g.forceAfter = h.forceAfter := by rw [a.2]; rfl
  have quiet : (g.updGate u fun g => { g with st := .forced, result := 2 }).stepCheck (g.getGate u).cut stOk false =
      g.updGate u fun g => { g with st := .forced, result := 2 } := stepCheck_noStep fun c found => none_ c (cut ▸ (byId_mem found).1)
  unfold Hub.forceUnit
  rw [quiet, force, a.stnTick]
  simp only [Bool.and_eq_true, beq_iff_eq, decide_eq_true_eq]

theorem forceUnit_step {st : Nat} (none_ : ∀ c ∈ h.cut.cuts, c.st ≠ .stepping) : Hub.gateStep h.gatesOnly (fun _ => h.forcedGate st) (Hub.forceUnit st) where
  kept g u a := by
    rw [forceUnit_quiet a none_]
    split
    · exact a.trans (updGate_only _ _ _)
    · exact a
  self g u a := by
    rw [forceUnit_quiet a none_]
    unfold Hub.forcedGate
    split
    · exact getGate_updGate g u _
    · rfl
  others g u v a other := by
    rw [forceUnit_quiet a none_]
    split
    · exact getGate_updGate_ne g _ other
    · rfl
  again u v := by
    unfold Hub.forcedGate
    split
    · exact if_neg (by simp)
    · rfl

theorem forcedStop_only {st : Nat} (none_ : ∀ c ∈ h.cut.cuts, c.st ≠ .stepping) : onlyStation st h (h.forcedStop st) := by
  have all : ∀ (l : List Nat) (g : Hub), h.gatesOnly g → (∀ u ∈ l, u ∈ stnUnits st) → onlyStation st g (l.foldl (Hub.forceUnit st) g) := fun l => by
    induction l with
    | nil => exact fun _ _ _ _ _ => rfl
    | cons u l ih =>
      intro g a own
      refine onlyStation_trans ?_ (ih _ ((forceUnit_step none_).kept g u a) fun v m => own v (List.mem_cons_of_mem u m))
      rw [forceUnit_quiet a none_]
      split
      · exact (mem_stnUnits.mp (own u List.mem_cons_self)).1 ▸ updGate_station g u _
      · exact fun _ _ => rfl
  exact all (stnUnits st) h .refl fun _ m => m

end Stops

/-! ## The masters of a cut -/

section Masters

variable {h : Hub} {r : CutRec}

theorem tellMasters_frame (h : Hub) (r : CutRec) (st : Nat) : h.tellMasters r st = { h with cut := { h.cut with m := (h.tellMasters r st).cut.m } } := by
  have all : ∀ (l : List Master) (h : Hub), l.foldl (fun h m => h.updCutM m fun c => if c.cut = r.id then { c with status := st } else c) h =
      { h with cut := { h.cut with m := (l.foldl (fun h m => h.updCutM m fun c => if c.cut = r.id then { c with status := st } else c) h).cut.m } } := fun l => by
    induction l with
    | nil => exact fun _ => rfl
    | cons m l ih =>
      intro h
      rw [List.foldl_cons, ih]
      rfl
  exact all r.masters h

theorem tellMasters_get (h : Hub) (r : CutRec) (st : Nat) (m : Master) :
    SMap.get {} (h.tellMasters r st).cut.m m.idx =
      if r.masters.contains m = true ∧ (SMap.get {} h.cut.m m.idx).cut = r.id then { SMap.get {} h.cut.m m.idx with status := st } else SMap.get {} h.cut.m m.idx := by
  have all : ∀ (l : List Master) (h : Hub),
      SMap.get {} (l.foldl (fun h m => h.updCutM m fun c => if c.cut = r.id then { c with status := st } else c) h).cut.m m.idx =
        if m ∈ l ∧ (SMap.get {} h.cut.m m.idx).cut = r.id then { SMap.get {} h.cut.m m.idx with status := st } else SMap.get {} h.cut.m m.idx := fun l => by
    induction l with
    | nil => exact fun _ => by simp
    | cons x l ih =>
      intro h
      rw [List.foldl_cons, ih]
      by_cases own : m = x
      · subst own
        unfold Hub.updCutM
        rw [SMap.get_upd_self]
        by_cases cut : (SMap.get {} h.cut.m m.idx).cut = r.id
        · simp [cut]
        · simp [cut]
      · unfold Hub.updCutM
        rw [SMap.get_upd_ne _ _ _ (Master.idx_ne own)]
        simp [own]
  have told := all r.masters h
  simp only [← List.contains_iff_mem] at told
  exact told

end Masters

/-! ## Completion -/

section Completion

variable {h : Hub} {r : CutRec}

/-- The engine's registers and the cut itself as it completes as `r'`. -/
def Hub.cutResults (h : Hub) (id : Nat) (r' : CutRec) : Hub :=
  { h with cut := { h.cut with
    cuts := h.cut.cuts.map fun c => if c.id = id then r' else c,
    clean := r'.clean, forced := r'.forced, unobserved := r'.unobserved, unreported := r'.unreported, overflow := r'.overflow, excl := r'.excl, done := h.now,
    reported := h.cut.reported + b2n (h.cut.counting && h.cut.xid == id) } }

/-- Record 0x0502 of a cut that completes as `r'`. -/
def Hub.cutDoneReq (h : Hub) (r' : CutRec) : Req :=
  { h.evt 5 0x0502 with slice := if r'.die then 255 else r'.slice, status := r'.status, arg := r'.id, words := [r'.result0, r'.result1, r'.excl, h.now] }

/-- A cut that completes as `r'`: results, record, vector and masters. -/
def Hub.cutEnds (h : Hub) (r' : CutRec) : Hub := (((h.cutResults r'.id r').record (h.cutDoneReq r')).irqRaise 4).tellMasters r' r'.status

theorem cutComplete_ends {n : Nat} (found : h.cut.byId r.id = some r) (up : r.up = [])
    (dry : ∀ x ∈ h.stn, (capturing x.1 && x.2.cap.overflow && x.2.cap.armed.contains r.id) = false) :
    h.cutComplete r.id n = h.cutEnds (cutDone r n
      (if r.forced != 0 || r.unobserved != 0 || n != 0 || r.excl != 0 || r.overflow then stPartial else stOk) h.now) := by
  have any : (h.stn.any fun t => capturing t.1 && t.2.cap.overflow && t.2.cap.armed.contains r.id) = false :=
    List.any_eq_false.mpr fun x m => by rw [dry x m]; nofun
  unfold Hub.cutComplete
  rw [found]
  dsimp only
  rw [any, up, Bool.or_false]
  rfl

/-- Whether two states of a cut are of the same cut, for the same masters. -/
def CutRec.kin (r r' : CutRec) : Prop := r'.id = r.id ∧ r'.masters = r.masters ∧ r'.die = r.die ∧ r'.slice = r.slice ∧ r'.excl = r.excl

/-- The record and the vector of a cut that ends, before its masters are told. -/
theorem cutEnds_eq {r' : CutRec} (on : h.classOn 5 = true) (room : h.er.sysq.length < 32) :
    h.cutEnds r' = (Hub.irqRaise { h.cutResults r'.id r' with er := { h.er with sysq := h.er.sysq ++ [h.cutDoneReq r'] } } 4).tellMasters r' r'.status := by
  unfold Hub.cutEnds
  rw [record_sysq (h.cutResults r'.id r') (h.cutDoneReq r') on (show 5 ≠ 8 by decide) rfl room]
  rfl

theorem cutEnds_completed {r' : CutRec} (kin : r.kin r') (on : h.classOn 5 = true) (room : h.er.sysq.length < 32) : cutCompleted h (h.cutEnds r') r r' := by
  obtain ⟨id, masters, die, slice, excl⟩ := kin
  rw [cutEnds_eq on room]
  have frame := tellMasters_frame (Hub.irqRaise { h.cutResults r'.id r' with er := { h.er with sysq := h.er.sysq ++ [h.cutDoneReq r'] } } 4) r' r'.status
  have told := tellMasters_get (Hub.irqRaise { h.cutResults r'.id r' with er := { h.er with sysq := h.er.sysq ++ [h.cutDoneReq r'] } } 4) r' r'.status
  have raised := irqRaise_status { h.cutResults r'.id r' with er := { h.er with sysq := h.er.sysq ++ [h.cutDoneReq r'] } } 4
  have req : h.cutDoneReq r' = { h.evt 5 0x0502 with
      slice := if r.die then 255 else r.slice, status := r'.status, arg := r.id, words := [r'.result0, r'.result1, r.excl, h.now] } := by
    unfold Hub.cutDoneReq
    rw [die, slice, excl, id]
  generalize Hub.tellMasters _ r' r'.status = g at frame told
  refine ⟨?_, fun m => (told m).trans (by rw [masters, id]; rfl), ?_, ?_⟩
  · rw [congrArg Hub.cut frame, ← id]
    rfl
  · rw [congrArg Hub.irq frame]
    exact raised
  · rw [congrArg Hub.er frame, ← req]
    rfl

theorem cutEnds_frame {r' : CutRec} (on : h.classOn 5 = true) (room : h.er.sysq.length < 32) :
    h.cutEnds r' = { h with cut := (h.cutEnds r').cut, er := (h.cutEnds r').er, irq := (h.cutEnds r').irq, cyc := (h.cutEnds r').cyc } := by
  rw [cutEnds_eq on room]
  have frame := tellMasters_frame (Hub.irqRaise { h.cutResults r'.id r' with er := { h.er with sysq := h.er.sysq ++ [h.cutDoneReq r'] } } 4) r' r'.status
  generalize Hub.tellMasters _ r' r'.status = g at frame
  rw [frame]
  rfl

end Completion

/-! ## Reports -/

section Report

variable {h : Hub} {r : CutRec} {st mask : Nat} {a q : List (Nat × Nat)}

/-- The units of a station that a report names. -/
def reported (st mask : Nat) : List Nat := (stnUnits st).filter fun u => bit mask (unitSub u)

/-- How many of them the cut forced. -/
def Hub.forcedOf (h : Hub) (id st mask : Nat) : Nat := ((reported st mask).filter fun u => (h.getGate u).st == .forced && (h.getGate u).cut == id).length

/-- The item that a station's report leaves in its report stream. -/
def Hub.reportSent (h : Hub) (id st mask : Nat) : Hub :=
  h.reportItem st .cutReport [id, (reported st mask).foldl (fun n u => n + at_ (if (h.getGate u).cut = id then (h.getGate u).result else 3) (3 * unitSub u)) 0]

/-- The cut after a report. -/
def CutRec.reportIn (c : CutRec) (left : List (Nat × Nat)) (units forced : Nat) : CutRec :=
  { c with toReport := left, forced := c.forced + forced, clean := c.clean + (units - forced) }

theorem cutReport_counts (found : h.cut.cuts.find? (fun r => r.st == .stopping && h.observed st && r.toReport.any fun x => x.1 == st && h.cutFinished r st x.2) = some r)
    (reports : r.toReport = a ++ (st, mask) :: q) (others : ∀ x ∈ a ++ q, x.1 ≠ st) (plain : capturing st = false) :
    h.cutReport st = if (a ++ q).isEmpty then
      ((h.reportSent r.id st mask).updCut r.id fun c => c.reportIn (a ++ q) (reported st mask).length (h.forcedOf r.id st mask)).cutComplete r.id 0
    else (h.reportSent r.id st mask).updCut r.id fun c => c.reportIn (a ++ q) (reported st mask).length (h.forcedOf r.id st mask) := by
  have mine : (a ++ (st, mask) :: q).find? (fun x => x.1 == st) = some (st, mask) := by
    rw [List.find?_append, List.find?_eq_none.mpr fun x m => by simpa using others x (List.mem_append_left q m), List.find?_cons_of_pos (by simp)]
    rfl
  have left : (a ++ (st, mask) :: q).filter (fun x => x.1 != st) = a ++ q := by
    rw [List.filter_append, List.filter_cons_of_neg (by simp), ← List.filter_append]
    exact List.filter_eq_self.mpr fun x m => by simpa using others x m
  unfold Hub.cutReport
  rw [found]
  dsimp only
  rw [reports, mine, left, plain]
  simp only [Bool.false_and, Bool.or_false]
  rfl

theorem reportSent_frame (h : Hub) (id st mask : Nat) : h.reportSent id st mask = { h with
    stn := (h.reportSent id st mask).stn,
    items := h.items ++ [⟨st * 8 + 4, (h.getStn st).reportSeq, h.stnTick st, .cutReport,
      [id, (reported st mask).foldl (fun n u => n + at_ (if (h.getGate u).cut = id then (h.getGate u).result else 3) (3 * unitSub u)) 0]⟩] } := rfl

theorem getStn_reportSent (h : Hub) (id st mask : Nat) :
    (h.reportSent id st mask).getStn st = { h.getStn st with reportSeq := ((h.getStn st).reportSeq + 1) % 2 ^ 32 } := by
  unfold Hub.reportSent Hub.reportItem
  exact Hub.getStn_updStn _ _ _

theorem reportSent_only (h : Hub) (id st mask : Nat) : onlyStation st h (h.reportSent id st mask) := fun _ other => by
  unfold Hub.reportSent Hub.reportItem
  exact Hub.getStn_updStn_ne _ _ other

theorem byId_updCut {f : CutRec → CutRec} (found : h.cut.byId r.id = some r) (kept : ∀ c, (f c).id = c.id) : (h.updCut r.id f).cut.byId r.id = some (f r) := by
  unfold Cut.byId at *
  change (h.cut.cuts.map fun c => if c.id = r.id then f c else c).find? _ = _
  have same : ((fun c : CutRec => c.id == r.id) ∘ fun c => if c.id = r.id then f c else c) = fun c => c.id == r.id := by
    funext c
    dsimp only [Function.comp]
    split
    · rw [kept]
    · rfl
  rw [List.find?_map, same, found]
  exact congrArg some (if_pos rfl)

/-- A cut that completes after a report: the report's change of it is of no more matter. -/
theorem cutCompleted_after {k g : Hub} {r₁ r' : CutRec} {f : CutRec → CutRec} (cut : k.cut = { h.cut with cuts := h.cut.cuts.map fun c => if c.id = r.id then f c else c })
    (kept : ∀ c, (f c).id = c.id) (er : k.er = h.er) (clk : k.clk = h.clk) (kin : r.kin r₁) (all : cutCompleted k g r₁ r') : cutCompleted h g r r' := by
  obtain ⟨id, masters, die, slice, excl⟩ := kin
  obtain ⟨ended, told, raised, req⟩ := all
  have now : k.now = h.now := by
    unfold Hub.now
    rw [clk]
  have evt : k.evt 5 0x0502 = h.evt 5 0x0502 := by
    unfold Hub.evt
    rw [now]
  refine ⟨?_, ?_, raised, ?_⟩
  · rw [ended, cut, now, id]
    dsimp only
    rw [List.map_map]
    have once : ((fun c => if c.id = r.id then r' else c) ∘ fun c : CutRec => if c.id = r.id then f c else c) = fun c => if c.id = r.id then r' else c := by
      funext c
      dsimp only [Function.comp]
      by_cases own : c.id = r.id
      · simp only [own, if_true, kept]
      · simp only [own, if_false]
    rw [once]
  · intro m
    rw [told m, masters, id, cut]
  · rw [req, er, evt, now, die, slice, excl, id]

/-- The last report completes the cut. -/
theorem cutReport_last (found : h.cut.cuts.find? (fun r => r.st == .stopping && h.observed st && r.toReport.any fun x => x.1 == st && h.cutFinished r st x.2) = some r)
    (byId : h.cut.byId r.id = some r) (reports : r.toReport = [(st, mask)]) (plain : capturing st = false) (up : r.up = []) (clean : r.forced = 0)
    (unobserved : r.unobserved = 0) (excl : r.excl = 0) (overflow : r.overflow = false)
    (dry : ∀ x ∈ h.stn, (capturing x.1 && x.2.cap.overflow && x.2.cap.armed.contains r.id) = false) (gates : ∀ u ∈ stnUnits st, (h.getGate u).st ≠ .forced) :
    h.cutReport st = ((h.reportSent r.id st mask).updCut r.id fun c => c.reportIn [] (reported st mask).length 0).cutEnds
      (cutDone { r with toReport := [], clean := r.clean + (reported st mask).length } 0 stOk h.now) := by
  have forced : h.forcedOf r.id st mask = 0 := by
    refine List.length_eq_zero_iff.mpr (List.filter_eq_nil_iff.mpr fun u m => ?_)
    have none_ := gates u (List.mem_filter.mp m).1
    simp [none_]
  have report := cutReport_counts (a := []) (q := []) found reports nofun plain
  rw [List.append_nil, forced, List.isEmpty_nil, if_pos rfl] at report
  have same := byId_updCut (h := h.reportSent r.id st mask) (r := r) (f := fun c => c.reportIn [] (reported st mask).length 0) byId fun _ => rfl
  have still : ∀ x ∈ ((h.reportSent r.id st mask).updCut r.id fun c => c.reportIn [] (reported st mask).length 0).stn,
      (capturing x.1 && x.2.cap.overflow && x.2.cap.armed.contains r.id) = false := fun x m => by
    have m : x ∈ SMap.upd {} h.stn st fun t => { t with reportSeq := (t.reportSeq + 1) % 2 ^ 32 } := m
    rcases SMap.mem_upd m with before | own
    · exact dry x before
    · rw [own, plain]
      rfl
  rw [report]
  refine (cutComplete_ends (r := r.reportIn [] (reported st mask).length 0) same up still).trans ?_
  have fine : ((r.reportIn [] (reported st mask).length 0).forced != 0 || (r.reportIn [] (reported st mask).length 0).unobserved != 0 || (0 : Nat) != 0 ||
      (r.reportIn [] (reported st mask).length 0).excl != 0 || (r.reportIn [] (reported st mask).length 0).overflow) = false := by
    change (r.forced + 0 != 0 || r.unobserved != 0 || (0 : Nat) != 0 || r.excl != 0 || r.overflow) = false
    rw [clean, unobserved, excl, overflow]
    rfl
  rw [fine, if_neg Bool.false_ne_true]
  rfl

end Report

/-- What the last report leaves of the stations and of the hub, after the completion `g` of the cut. -/
theorem report_lands {s : State} {t : SMap Nat} {k g : Hub} {st : Nat} {x : Stn} {l : List Item}
    (frame : g = { k with cut := g.cut, er := g.er, irq := g.irq, cyc := g.cyc }) (self : k.getStn st = x) (only : onlyStation st (s.hub.placed t) k)
    (same : k = { s.hub.placed t with stn := k.stn, cut := k.cut, items := l }) :
    (lands s g).hub.getStn st = x ∧ onlyStation st s.hub (lands s g).hub ∧ lands s g = { s with hub := { s.hub.placed t with
      stn := (lands s g).hub.stn, cut := (lands s g).hub.cut, er := (lands s g).hub.er, irq := (lands s g).hub.irq, cyc := (lands s g).hub.cyc, items := l } } := by
  have stns : ∀ y, g.getStn y = k.getStn y := fun y => congrArg (fun l => SMap.get ({} : Stn) l y) (congrArg Hub.stn frame :)
  refine ⟨(stns st).trans self, fun y other => (stns y).trans (only y other), ?_⟩
  have whole : g = { s.hub.placed t with stn := g.stn, cut := g.cut, er := g.er, irq := g.irq, cyc := g.cyc, items := l } := by
    rw [frame, same]
  exact congrArg (lands s) whole

/-- Settles O24: stops by the gates that they move, reports by the cut that they complete. -/
theorem cutCompletion : Obligations.CutCompletion := by
  unfold Obligations.CutCompletion
  refine fun s live => ⟨fun u ok stopping early none_ => ?_, fun st none_ => ?_, fun st r mask a q found reports others more plain => ?_,
    fun r found byId up missing dry on room => ?_, fun st r mask found byId reports plain up forced unobserved excl overflow dry gates on room => ?_⟩
  · refine yields_of_eq rfl live (fun t => stopClean_stops (h := s.hub.placed t) ok stopping early none_) fun t => ?_
    obtain ⟨only, frame⟩ := updGate_only (s.hub.placed t) u fun g => { g with st := .stopped, result := 1 }
    exact ⟨getGate_updGate (s.hub.placed t) u _, fun v other => getGate_updGate_ne (s.hub.placed t) _ other, only, congrArg (lands s) frame⟩
  · refine yields_run rfl live fun t => ?_
    have only := forcedStop_only (h := s.hub.placed t) (st := st) none_
    obtain ⟨⟨rest, frame⟩, gates⟩ := (forceUnit_step (h := s.hub.placed t) (st := st) none_).foldl (stnUnits st) .refl
    rw [← forcedStop_eq] at gates rest frame
    generalize (s.hub.placed t).forcedStop st = g at only rest frame gates ⊢
    exact ⟨fun u m => (gates u).trans (if_pos m), only, rest, congrArg (lands s) frame⟩
  · refine yields_of_eq rfl live (fun t => (cutReport_counts (h := s.hub.placed t) found reports others plain).trans (if_neg (by simpa using more))) fun t => ?_
    exact ⟨getStn_reportSent (s.hub.placed t) r.id st mask, reportSent_only (s.hub.placed t) r.id st mask, rfl⟩
  · have some_ : (r.toReport.foldl (fun a x => a + popcount8 x.2) 0 != 0) = true := bne_iff_ne.mpr (Nat.ne_of_gt missing)
    have ends : ∀ t, (s.hub.placed t).cutReportTimeout =
        (s.hub.placed t).cutEnds (cutDone r (r.toReport.foldl (fun a x => a + popcount8 x.2) 0) stPartial s.hub.now) := fun t => by
      unfold Hub.cutReportTimeout
      rw [show (s.hub.placed t).cut.cuts.find? (fun r => r.st == .stopping && decide (r.t + (s.hub.placed t).reportAfter ≤ (s.hub.placed t).now)) = some r from found]
      refine (cutComplete_ends (h := s.hub.placed t) byId up dry).trans ?_
      rw [some_]
      simp only [Bool.or_true, Bool.true_or, if_true]
      rfl
    refine yields_of_eq rfl live ends fun t => ?_
    have frame := cutEnds_frame (h := s.hub.placed t) (r' := cutDone r (r.toReport.foldl (fun a x => a + popcount8 x.2) 0) stPartial s.hub.now) on room
    have completed := cutEnds_completed (h := s.hub.placed t) (r := r) (r' := cutDone r (r.toReport.foldl (fun a x => a + popcount8 x.2) 0) stPartial s.hub.now)
      ⟨rfl, rfl, rfl, rfl, rfl⟩ on room
    generalize (s.hub.placed t).cutEnds (cutDone r (r.toReport.foldl (fun a x => a + popcount8 x.2) 0) stPartial s.hub.now) = g at frame completed ⊢
    exact ⟨completed, congrArg (lands s) frame⟩
  · refine yields_of_eq rfl live (fun t => cutReport_last (h := s.hub.placed t) found byId reports plain up forced unobserved excl overflow dry gates) fun t => ?_
    have frame := cutEnds_frame (h := ((s.hub.placed t).reportSent r.id st mask).updCut r.id fun c => c.reportIn [] (reported st mask).length 0)
      (r' := cutDone { r with toReport := [], clean := r.clean + (reported st mask).length } 0 stOk s.hub.now) on room
    have completed := cutEnds_completed (h := ((s.hub.placed t).reportSent r.id st mask).updCut r.id fun c => c.reportIn [] (reported st mask).length 0) (r := r)
      (r' := cutDone { r with toReport := [], clean := r.clean + (reported st mask).length } 0 stOk s.hub.now) ⟨rfl, rfl, rfl, rfl, rfl⟩ on room
    have before := cutCompleted_after (h := s.hub.placed t) (r := r)
      (k := ((s.hub.placed t).reportSent r.id st mask).updCut r.id fun c => c.reportIn [] (reported st mask).length 0) (f := fun c => c.reportIn [] (reported st mask).length 0) rfl (fun _ => rfl) rfl rfl ⟨rfl, rfl, rfl, rfl, rfl⟩
      completed
    exact ⟨before, report_lands frame (getStn_reportSent (s.hub.placed t) r.id st mask) (reportSent_only (s.hub.placed t) r.id st mask) rfl⟩

end Sys2Proof.Machine
end

section
/-!
O27 and O28: the hang scan of the contexts (R289 to R291, Table 09.1) and the steps of the hang sequence (R77, Table 02.12).
-/
namespace Sys2Proof.Machine

/-! ## The scan of one context -/

section Scan

variable {h : Hub} {n : Nat}

/-- The scan goes over context `n` as over one that is ACTIVE, in scope and busy, and whose started commands run. -/
structure Hub.scans (h : Hub) (n : Nat) : Prop where
  running : h.rst.st = 0
  at_ : h.hang.scan = some n
  steady : (h.getCtx n).cyc ≠ h.clk.cycle + 1
  active : (h.getCtx n).st = .active
  enabled : bit h.hangCfg 31 = true
  masked : bit h.hangMask (h.getCtx n).slice = true
  busy : (h.getCtx n).own ≠ []
  free : ∀ c ∈ (h.getCtx n).own, c.started = true → (h.getGate c.unit).st = .run

theorem scanRow_inScope (c : h.scans n) :
    h.scanRow (h.getCtx n) =
      if (h.getCtx n).progress != (h.getCtx n).stored then (0, false) else (satAdd 65535 (h.getCtx n).idle 1, (h.getCtx n).reported) := by
  have open_ : ((h.getCtx n).own.any fun k => k.started && (h.getGate k.unit).st != .run) = false :=
    List.any_eq_false.mpr fun k mem held => by
      obtain ⟨started, closed⟩ := Bool.and_eq_true_iff.mp held
      exact absurd (c.free k mem started) (by simpa using closed)
  simp [Hub.scanRow, c.steady, c.active, c.enabled, c.masked, c.busy, open_]

/-- The scan engine after a context that left its row `idle` and was `pushed` or not. -/
def Hang.afterScan (g : Hang) (n slice : Nat) (hit pushed : Bool) : Hang :=
  let g := { g with fifo := if pushed then g.fifo ++ [(n, slice)] else g.fifo, fifoNew := g.fifoNew + b2n pushed, overNow := g.overNow + b2n hit }
  if n + 1 < contextCount then { g with scan := some (n + 1) } else { g with scan := none, overCount := g.overNow, scans := (g.scans + 1) % 2 ^ 32 }

/-- The scan of a context whose verdict is not lost: its row is stored, and no other context changes. -/
theorem scanContext_row {idle : Nat} {rep hit : Bool} (c : h.scans n) (row : h.scanRow (h.getCtx n) = (idle, rep))
    (reached : decide (Nat.max 1 (h.hangCfg % 65536) ≤ idle) = hit) (room : (hit && !rep) = true → h.hang.fifo.length < 64) :
    ∃ x, h.scanContext = { h with hang := h.hang.afterScan n (h.getCtx n).slice hit (hit && !rep), ctx := x } ∧
      SMap.get {} x n = { h.getCtx n with idle := idle, reported := rep || (hit && !rep), stored := (h.getCtx n).progress } ∧
      ∀ d, d ≠ n → SMap.get {} x d = h.getCtx d := by
  have full : ((hit && !rep) && decide (64 ≤ h.hang.fifo.length)) = false := by
    cases push : hit && !rep
    · rfl
    · simpa using room push
  have kept : ((hit && !rep) && !decide (64 ≤ h.hang.fifo.length)) = (hit && !rep) := by
    cases push : hit && !rep
    · rfl
    · simpa using room push
  have steady : ((h.getCtx n).cyc == h.clk.cycle + 1) = false := beq_eq_false_iff_ne.mpr c.steady
  unfold Hub.scanContext
  simp only [c.at_, c.running, row, reached, full, kept, steady, ne_eq, not_true_eq_false, if_false, Bool.false_eq_true]
  split
  · next same =>
    exact ⟨h.ctx, rfl, same, fun d _ => rfl⟩
  · exact ⟨_, rfl, SMap.get_set_self _ _ _ _, fun d other => SMap.get_set_ne _ _ _ other⟩

/-- The scan of context `n` leaves its row `y`, the scan engine `g` and everything else as it was. -/
def Hub.scannedTo (h : Hub) (n : Nat) (y : Ctx) (g : Hang) : Prop :=
  ∃ x, h.scanContext = { h with hang := g, ctx := x } ∧ SMap.get {} x n = y ∧ ∀ d, d ≠ n → SMap.get {} x d = h.getCtx d

section Idle

variable (c : h.scans n) (still : (h.getCtx n).progress = (h.getCtx n).stored)
include c still

theorem scanRow_still : h.scanRow (h.getCtx n) = (satAdd 65535 (h.getCtx n).idle 1, (h.getCtx n).reported) :=
  (scanRow_inScope c).trans (if_neg (by simp [still]))

variable (more : n + 1 < 262144)
include more

theorem scanContext_verdict (due : Nat.max 1 (h.hangCfg % 65536) ≤ satAdd 65535 (h.getCtx n).idle 1) (fresh : (h.getCtx n).reported = false)
    (room : h.hang.fifo.length < 64) :
    h.scannedTo n { h.getCtx n with idle := satAdd 65535 (h.getCtx n).idle 1, reported := true }
      { h.hang with
        scan := some (n + 1), fifo := h.hang.fifo ++ [(n, (h.getCtx n).slice)], fifoNew := h.hang.fifoNew + 1, overNow := h.hang.overNow + 1 } := by
  obtain ⟨x, eq, self, others⟩ := scanContext_row c (scanRow_still c still) (decide_eq_true due) fun _ => room
  refine ⟨x, eq.trans ?_, self.trans ?_, others⟩
  · rw [fresh, Hang.afterScan, if_pos (show n + 1 < contextCount from more)]
    rfl
  · rw [fresh, still]
    rfl

theorem scanContext_early (early : satAdd 65535 (h.getCtx n).idle 1 < Nat.max 1 (h.hangCfg % 65536)) :
    h.scannedTo n { h.getCtx n with idle := satAdd 65535 (h.getCtx n).idle 1 } { h.hang with scan := some (n + 1) } := by
  obtain ⟨x, eq, self, others⟩ :=
    scanContext_row c (scanRow_still c still) (decide_eq_false (Nat.not_le.mpr early)) fun push => absurd push (by simp)
  refine ⟨x, eq.trans ?_, self.trans ?_, others⟩
  · rw [Hang.afterScan, if_pos (show n + 1 < contextCount from more)]
    rfl
  · rw [still, Bool.false_and, Bool.or_false]

end Idle

theorem scanContext_progress (c : h.scans n) (last : n + 1 = 262144) (moved : (h.getCtx n).progress ≠ (h.getCtx n).stored) :
    h.scannedTo n { h.getCtx n with idle := 0, reported := false, stored := (h.getCtx n).progress }
      { h.hang with scan := none, overCount := h.hang.overNow, scans := (h.hang.scans + 1) % 2 ^ 32 } := by
  have row : h.scanRow (h.getCtx n) = (0, false) := (scanRow_inScope c).trans (if_pos (by simpa using moved))
  have early : decide (Nat.max 1 (h.hangCfg % 65536) ≤ 0) = false :=
    decide_eq_false (Nat.not_le.mpr (Nat.lt_of_lt_of_le Nat.one_pos (Nat.le_max_left _ _)))
  obtain ⟨x, eq, self, others⟩ := scanContext_row c row early fun push => absurd push (by simp)
  refine ⟨x, eq.trans ?_, self, others⟩
  rw [Hang.afterScan, if_neg fun more : n + 1 < contextCount => absurd last (Nat.ne_of_lt more)]
  rfl

end Scan

/-- The scan command, where the scan of a context is known. -/
theorem yields_scan {s : State} {n : Nat} {y : Ctx} {g : Hang} (live : s.hub.live = true) (done : ∀ t, (s.hub.placed t).scannedTo n y g) :
    Yields .scanContext s fun h0 t =>
      t.hub.getCtx n = y ∧ t.hub.hang = g ∧ (∀ d, d ≠ n → t.hub.getCtx d = s.hub.getCtx d) ∧
        t = { s with hub := { h0 with hang := t.hub.hang, ctx := t.hub.ctx } } :=
  yields_ex rfl live fun t =>
    have ⟨_, eq, self, others⟩ := done t
    ⟨_, eq, self, rfl, others, rfl⟩

/-- Settles O27: the row that a context's progress and idle count give is what the scan of it stores. -/
theorem hangScan : Obligations.HangScan := by
  intro s n live running scan steady active enabled masked busy free
  have c (t : SMap Nat) : (s.hub.placed t).scans n := ⟨running, scan, steady, active, enabled, masked, busy, free⟩
  exact ⟨fun more still due fresh room => yields_scan live fun t => scanContext_verdict (c t) still more due fresh room,
    fun more still early => yields_scan live fun t => scanContext_early (c t) still more early,
    fun last moved => yields_scan live fun t => scanContext_progress (c t) last moved⟩

/-! ## The steps of the sequence -/

section Steps

variable {h : Hub}

/-- A firmware record enters the system queue while that has room. -/
theorem record_firmware (r : Req) (cls : r.cls = 4) (trigger : r.trigger = none) (room : h.er.sysq.length < 32) :
    h.record r = { h with er := { h.er with sysq := h.er.sysq ++ [r] } } :=
  record_sysq h r (by rw [cls]; rfl) (by rw [cls]; decide) trigger room

/-- The record of a failed step. -/
def Hub.stepFailure (h : Hub) (status : Nat) : Req :=
  { h.fwEvt 0x0402 with
    slice := if h.hang.seq.die then 255 else h.hang.seq.slice, status := status, aux := h.hang.seq.step,
    arg := if 5 ≤ h.hang.seq.step then h.hang.seq.object else h.hang.seq.cut }

/-- What a later step that ends with `status` leaves in the recorder. -/
def Hub.stepNoted (h : Hub) (status : Nat) : Hub :=
  { h with er := if status = stOk ∨ status = stPartial then h.er else { h.er with sysq := h.er.sysq ++ [h.stepFailure status] } }

variable {status : Nat}

theorem stepNoted_well (h : Hub) (well : status = stOk ∨ status = stPartial) : h.stepNoted status = h := by
  rw [Hub.stepNoted, if_pos well]

theorem stepNoted_failed (h : Hub) (ill : ¬ (status = stOk ∨ status = stPartial)) :
    h.stepNoted status = { h with er := { h.er with sysq := h.er.sysq ++ [h.stepFailure status] } } := by
  rw [Hub.stepNoted, if_neg ill]

variable (pair : h.boot.pairRunning = true) (room : h.er.sysq.length < 32)
include pair room

theorem hangStep_first (first : h.hang.seq.step = 1) :
    h.hangStep status = { h with
      hang := { h.hang with seq := { h.hang.seq with step := 2 } },
      er := { h.er with sysq := h.er.sysq ++ [{ h.fwEvt 0x0401 with
        slice := (h.hang.seq.joined.headD (0, 255, 0)).2.1, ctx := h.hang.seq.joined.head?.map (·.1),
        aux := (h.hang.seq.joined.headD (0, 255, 0)).2.2, arg := h.hang.seq.number,
        words := (h.hang.seq.joined.tail.take 16).map fun x => x.1 + at_ x.2.1 18 }] } } := by
  have record : h.hangRecord = _ := record_firmware _ rfl rfl room
  unfold Hub.hangStep
  simp [first, pair, record]

/-- A step after the first, with its failure noted: the next one begins, or the sequence is over. -/
theorem hangStep_later (later : 2 ≤ h.hang.seq.step) :
    h.hangStep status =
      if h.hang.seq.step < 6 then
        let g := { h.stepNoted status with hang := { h.hang with seq := { h.hang.seq with step := h.hang.seq.step + 1 } } }
        if h.hang.seq.step = 5 then g.attnSet 3 else g
      else ({ h.stepNoted status with hang := { h.hang with seq := {} } } : Hub).nextSeq := by
  have begun : h.hang.seq.step ≠ 0 := by omega
  have notFirst : h.hang.seq.step ≠ 1 := by omega
  unfold Hub.hangStep
  by_cases well : status = stOk ∨ status = stPartial
  · have noBad : (decide (h.hang.seq.step ≠ 1) && decide (status ≠ stOk) && decide (status ≠ stPartial)) = false := by
      rcases well with rfl | rfl <;> simp
    rw [stepNoted_well h well]
    simp only [begun, notFirst, pair, noBad, if_false, Bool.not_true, Bool.false_eq_true, or_self]
  · have bad : (decide (h.hang.seq.step ≠ 1) && decide (status ≠ stOk) && decide (status ≠ stPartial)) = true := by
      simpa [notFirst] using not_or.mp well
    have record : h.record (h.stepFailure status) = _ := record_firmware _ rfl rfl room
    rw [stepNoted_failed h well]
    simp only [begun, notFirst, pair, bad, if_true, if_false, Bool.not_true, Bool.false_eq_true, or_self]
    rw [← Hub.stepFailure, record]

theorem hangStep_middle (middle : h.hang.seq.step = 2 ∨ h.hang.seq.step = 3 ∨ h.hang.seq.step = 4) :
    h.hangStep status = { h.stepNoted status with hang := { h.hang with seq := { h.hang.seq with step := h.hang.seq.step + 1 } } } := by
  rw [hangStep_later pair room (by omega), if_pos (by omega)]
  exact if_neg (by omega)

theorem hangStep_five (five : h.hang.seq.step = 5) :
    h.hangStep status = ({ h.stepNoted status with hang := { h.hang with seq := { h.hang.seq with step := 6 } } } : Hub).attnSet 3 := by
  rw [hangStep_later pair room (by omega), if_pos (by omega), five]
  rfl

theorem hangStep_last (six : h.hang.seq.step = 6) (nobody : h.hang.waiting = []) (noDie : h.hang.dieWaiting = false) :
    h.hangStep status = { h.stepNoted status with hang := { h.hang with seq := {} } } := by
  rw [hangStep_later pair room (by omega), if_neg (by omega)]
  unfold Hub.nextSeq
  simp [noDie, nobody]

omit pair room

theorem stepFailure_early (early : h.hang.seq.step < 5) :
    h.stepFailure status = { h.fwEvt 0x0402 with
      slice := if h.hang.seq.die then 255 else h.hang.seq.slice, status := status, aux := h.hang.seq.step, arg := h.hang.seq.cut } := by
  rw [Hub.stepFailure, if_neg (Nat.not_le.mpr early)]

theorem stepNoted_late {n : Nat} (step : h.hang.seq.step = n) (late : 5 ≤ n) :
    h.stepNoted status = { h with
      er := if status = stOk ∨ status = stPartial then h.er else { h.er with sysq := h.er.sysq ++ [{ h.fwEvt 0x0402 with
        slice := if h.hang.seq.die then 255 else h.hang.seq.slice, status := status, aux := n, arg := h.hang.seq.object }] } } := by
  rw [Hub.stepNoted, Hub.stepFailure, step, if_pos late]

end Steps

/-- Settles O28: each end of a step leaves its record, and the next step begins. -/
theorem hangSequence : Obligations.HangSequence := by
  intro s status live pair room
  refine ⟨fun first => ?_, fun middle well => ?_, fun middle bad partly => ?_, fun five => ?_, fun six nobody noDie => ?_⟩
  · exact yields_of_eq rfl live (fun t => hangStep_first (h := s.hub.placed t) pair room first) fun t => rfl
  · exact yields_of_eq rfl live (fun t => (hangStep_middle (h := s.hub.placed t) pair room middle).trans
      (by rw [stepNoted_well _ well])) fun t => rfl
  · have early (t : SMap Nat) : (s.hub.placed t).hang.seq.step < 5 := show s.hub.hang.seq.step < 5 by omega
    exact yields_of_eq rfl live (fun t => (hangStep_middle (h := s.hub.placed t) pair room middle).trans
      (by rw [stepNoted_failed _ (not_or.mpr ⟨bad, partly⟩), stepFailure_early (early t)])) fun t => rfl
  · exact yields_of_eq rfl live (fun t => (hangStep_five (h := s.hub.placed t) pair room five).trans
      (by rw [stepNoted_late (h := s.hub.placed t) five (Nat.le_refl 5)])) fun t => rfl
  · exact yields_of_eq rfl live (fun t => (hangStep_last (h := s.hub.placed t) pair room six nobody noDie).trans
      (by rw [stepNoted_late (h := s.hub.placed t) six (by decide)])) fun t => rfl

end Sys2Proof.Machine
end

section
/-!
O29: the wait-for graph (R300 to R304, R519): its collection, its walk, its area in the Firkin and its exchange across packages.
-/
namespace Sys2Proof.Machine

/-! ## A list of writes -/

section Writes

variable (m : Mem) {l : List MemWrite} {a : Nat}

/-- Bytes of a memory that no write of a list touches. -/
theorem firkin_untouched (aside : ∀ w ∈ l, w.space = 0 → a < w.addr ∨ w.addr + w.bytes.length ≤ a) :
    SMap.get 0 (m.apply l).firkin a = SMap.get 0 m.firkin a := by
  induction l generalizing m with
  | nil => rfl
  | cons w l ih =>
    refine (ih (m.write w) fun x mem => aside x (List.mem_cons_of_mem w mem)).trans ?_
    unfold Mem.write
    split
    · next space => exact get_writeBytes_out firkinSize m.firkin w.bytes (aside w List.mem_cons_self space)
    · rfl

theorem hbm_untouched (aside : ∀ w ∈ l, w.space ≠ 0 → a < w.addr ∨ w.addr + w.bytes.length ≤ a) :
    SMap.get 0 (m.apply l).hbm a = SMap.get 0 m.hbm a := by
  induction l generalizing m with
  | nil => rfl
  | cons w l ih =>
    refine (ih (m.write w) fun x mem => aside x (List.mem_cons_of_mem w mem)).trans ?_
    unfold Mem.write
    split
    · rfl
    · next space => exact get_writeBytes_out hbmSize m.hbm w.bytes (aside w List.mem_cons_self space)

theorem apply_hbm_kept (firkin : ∀ w ∈ l, w.space = 0) : (m.apply l).hbm = m.hbm := by
  induction l generalizing m with
  | nil => rfl
  | cons w l ih =>
    refine (ih (m.write w) fun x mem => firkin x (List.mem_cons_of_mem w mem)).trans ?_
    rw [Mem.write, if_pos (firkin w List.mem_cons_self)]

/-- The bytes that the last write of a list puts into the Firkin. -/
theorem firkin_last (l : List MemWrite) {b : List Byte} {k : Nat} (inside : k < b.length) (fits : a + k < firkinSize) :
    SMap.get 0 (m.apply (l ++ [⟨0, a, b⟩])).firkin (a + k) = b.getD k 0 := by
  rw [Mem.apply_append]
  exact get_writeBytes_in firkinSize _ b inside fits

end Writes

theorem flatMap_length_const {α : Type} {f : α → List Byte} {n : Nat} (l : List α) (each : ∀ x, (f x).length = n) :
    (l.flatMap f).length = n * l.length := by
  rw [List.length_flatMap, List.map_congr_left (fun x _ => each x), List.map_const', List.sum_replicate, smul_eq_mul, Nat.mul_comm]

/-! ## Collection and walk -/

section Collect

variable {h : Hub} {r : CutRec}

theorem edgeReports_hang (h : Hub) (g : Hang) (es : List WEdge) : ({ h with hang := g } : Hub).edgeReports es = { h.edgeReports es with hang := g } := by
  induction es generalizing h with
  | nil => rfl
  | cons e es ih => exact ih (h.edgeReports [e])

theorem edgeReports_out (h : Hub) (es : List WEdge) : (h.edgeReports es).out = h.out := by
  induction es generalizing h with
  | nil => rfl
  | cons e es ih => exact ih (h.edgeReports [e])

/-- A command that writes no memory. -/
theorem lands_of_out (s : State) {g g' : Hub} (out : g.out = []) (same : g = g') : lands s g = { s with hub := g' } := by
  subst same
  have whole : ({ g with out := [] } : Hub) = g := by rw [← out]
  rw [lands, whole, out]
  rfl

theorem graphTarget_step (step : h.hang.seq.step = 3) (cut : h.cut.byId h.hang.seq.cut = some r) : h.graphTarget = some (r, none) := by
  unfold Hub.graphTarget
  simp [step, cut]

variable (pair : h.boot.pairRunning = true) (steady : h.rst.st = 0)
include pair steady

theorem waitEdgeCollect_eq (step : h.hang.seq.step = 3) (cut : h.cut.byId h.hang.seq.cut = some r) (stopped : r.st = .stopped)
    (inside : r.xpkg = false) (free : h.hang.building = false) :
    h.waitEdgeCollect = { h.edgeReports (h.collect r).1 with hang := { h.hang with
      building := true, parent := none, cut := r.id, cutTick := r.t, cutDone := r.done, cutPartial := r.status == stPartial, xpkg := false, scope := r.set,
      unitMap := r.unitMap, joined := h.hang.seq.joined, edges := (h.collect r).1, units := (h.collect r).2.1,
      unobserved := (h.collect r).2.2, walk := none, remote := [], peersDone := [], peerTrunc := false, noPeer := false,
      wfgStatus := 2 ^ 31 + h.hang.wfgStatus / 2 ^ 30 % 2 * 2 ^ 30 } } := by
  unfold Hub.waitEdgeCollect
  simp only [graphTarget_step step cut]
  simp [stopped, pair, steady, free, inside, edgeReports_hang]

theorem contextWalk_eq (building : h.hang.building = true) (idle : h.hang.scan = none) :
    h.contextWalk = { h with hang := { h.hang with walk := some (h.ctx.filter fun c => !c.2.own.isEmpty) } } :=
  if_pos (by simp [building, idle, pair, steady])

end Collect

/-! ## The graph area -/

section Area

variable {h : Hub}

theorem GEdge.bytes_length (e : GEdge) : e.bytes.length = 40 := by simp [GEdge.bytes, zeros]

theorem HungRec.bytes_length (r : HungRec) : r.bytes.length = 16 := by simp [HungRec.bytes]

theorem graphHeader_length (h : Hub) (es : List GEdge) (hung : List HungRec) (cycles : Nat) (trunc : Bool) (status : Nat) :
    (h.graphHeader es hung cycles trunc status).length = 64 := by
  simp [Hub.graphHeader, zeros, flatMap_length_const _ fun _ => leBytes_length 2 _]

theorem graphHeader_magic (h : Hub) (es : List GEdge) (hung : List HungRec) (cycles : Nat) (trunc : Bool) (status k : Nat) (low : k < 4) :
    (h.graphHeader es hung cycles trunc status).getD k 0 = (leBytes 4 0x52474657).getD k 0 := by
  simp only [Hub.graphHeader, List.append_assoc]
  exact List.getD_append _ _ _ _ (by simpa using low)

theorem keepEdges_length (cap : Nat) (hung : List Nat) (es : List GEdge) : (keepEdges cap hung es).length ≤ cap := by
  unfold keepEdges
  split
  · next small => exact small
  · exact ((sortBy_perm _ _).length_eq.trans_le (List.length_take_le _ _))

theorem graphOf_hung (h : Hub) : h.graphOf.2.1.length = h.hang.joined.length := by
  unfold Hub.graphOf
  simp [(sortBy_perm _ _).length_eq]

theorem graphOf_edges (h : Hub) : h.graphOf.1.length ≤ (graphSize - 64 - 16 * h.graphOf.2.1.length) / 40 := by
  unfold Hub.graphOf
  simp only [List.length_map]
  exact keepEdges_length _ _ _

/-- The writes of the graph area: its magic cleared, its records, and its header. -/
def Hub.areaWrites (h : Hub) (status : Nat) : List MemWrite :=
  let masked := h.graphOf.1.map fun x => maskEdge x.1 x.2
  [⟨0, 0x100000, zeros 4⟩, ⟨0, 0x100040, h.graphOf.2.1.flatMap HungRec.bytes ++ masked.flatMap GEdge.bytes⟩,
   ⟨0, 0x100000, h.graphHeader masked h.graphOf.2.1 h.graphOf.2.2.1.length h.graphOf.2.2.2 status⟩]

theorem areaWrites_firkin (h : Hub) (status : Nat) : ∀ w ∈ h.areaWrites status, w.space = 0 := by simp [Hub.areaWrites]

/-- The writes lie within the 4 MiB of the area. -/
theorem areaWrites_inside (few : h.hang.joined.length ≤ 65536) (status : Nat) :
    ∀ w ∈ h.areaWrites status, 0x100000 ≤ w.addr ∧ w.addr + w.bytes.length ≤ 0x100000 + 4194304 := by
  have edges := (Nat.le_div_iff_mul_le (by decide)).mp (graphOf_edges h)
  have hung := graphOf_hung h
  rw [graphSize] at edges
  simp only [Hub.areaWrites, List.forall_mem_cons, List.length_append, flatMap_length_const _ HungRec.bytes_length, List.length_map,
    flatMap_length_const _ GEdge.bytes_length, graphHeader_length, zeros, List.length_replicate, List.not_mem_nil, false_imp_iff, implies_true, and_true]
  omega

theorem areaWrites_outside (m : Mem) (few : h.hang.joined.length ≤ 65536) (status : Nat) {a : Nat}
    (outside : a < 0x100000 ∨ 0x100000 + 4194304 ≤ a) : SMap.get 0 (m.apply (h.areaWrites status)).firkin a = SMap.get 0 m.firkin a :=
  firkin_untouched m fun w mem _ => by
    obtain ⟨above, below⟩ := areaWrites_inside few status w mem
    omega

theorem areaWrites_magic (h : Hub) (m : Mem) (status k : Nat) (low : k < 4) :
    SMap.get 0 (m.apply (h.areaWrites status)).firkin (0x100000 + k) = (leBytes 4 0x52474657).getD k 0 := by
  refine (firkin_last m [_, _] ?_ ?_).trans (graphHeader_magic h _ _ _ _ status k low)
  · rw [graphHeader_length]
    omega
  · rw [firkinSize]
    omega

/-- The status that the graph reports of itself within one package. -/
def Hub.graphStatus (h : Hub) : Nat := if h.graphOf.2.2.2 then stWfgTrunc else stOk

/-- The hub after the three writes. -/
def Hub.areaWritten (h : Hub) : Hub :=
  let masked := h.graphOf.1.map fun x => maskEdge x.1 x.2
  ((h.firkinWrite graphOff (zeros 4)).firkinWrite (graphOff + 64) (h.graphOf.2.1.flatMap HungRec.bytes ++ masked.flatMap GEdge.bytes)).firkinWrite graphOff
    (h.graphHeader masked h.graphOf.2.1 h.graphOf.2.2.1.length h.graphOf.2.2.2 h.graphStatus)

theorem areaWritten_frame (h : Hub) :
    h.areaWritten = { h with
      out := h.out ++ h.areaWrites h.graphStatus, ecc := { h.ecc with firkinBad := h.areaWritten.ecc.firkinBad } } := by
  have out : h.areaWritten.out = h.out ++ h.areaWrites h.graphStatus := by
    simp [Hub.areaWritten, Hub.areaWrites, Hub.firkinWrite, graphOff]
  rw [← out]
  rfl

theorem graphHeader_firkinWrite (h : Hub) (a : Nat) (b : List Byte) : (h.firkinWrite a b).graphHeader = h.graphHeader := rfl

/-- The graph that is shown once its area is written. -/
def Hub.graphShown (h : Hub) : Hang :=
  { h.hang with
    building := false, graph := h.graphOf.1, hung := h.graphOf.2.1, wfgCut := h.hang.cut, wfgEdges := h.graphOf.1.length, wfgStatus := 2 ^ 30 + h.graphStatus }

theorem graphWrite_eq {w : SMap Ctx} (pair : h.boot.pairRunning = true) (building : h.hang.building = true) (walk : h.hang.walk = some w)
    (origin : h.hang.parent = none) (inside : h.hang.xpkg = false) (room : h.er.sysq.length < 32) :
    h.graphWrite = { h with
      out := h.out ++ h.areaWrites h.graphStatus, ecc := { h.ecc with firkinBad := h.areaWritten.ecc.firkinBad },
      hang := h.graphShown,
      er := { h.er with sysq := h.er.sysq ++ [{ h.fwEvt 0x0403 with
        aux := h.graphOf.2.2.1.length, arg := h.hang.cut, status := h.graphStatus,
        words := [h.graphOf.1.length, h.graphOf.2.1.length, h.now] }] } } := by
  have status : (if h.graphOf.2.2.2 then stWfgTrunc else if h.missingPeers then stWfgNopeer else stOk) = h.graphStatus := by
    simp [Hub.missingPeers, inside, Hub.graphStatus]
  unfold Hub.graphWrite
  rw [if_neg (by simp [building, walk, pair, inside])]
  simp only [status, origin, graphHeader_firkinWrite]
  rw [← Hub.areaWritten]
  have frame := areaWritten_frame h
  generalize h.areaWritten = g at frame ⊢
  rw [frame]
  refine (record_firmware _ ?_ ?_ ?_).trans ?_
  · rfl
  · rfl
  · exact room
  · rfl

end Area

theorem collect_placed (h : Hub) (t : SMap Nat) (r : CutRec) : (h.placed t).collect r = h.collect r := rfl

/-! ## What the graph shows does not depend on whose turn it is -/

section Placed

variable (h : Hub) (t : SMap Nat)

theorem graphEdges_placed : (h.placed t).graphEdges = h.graphEdges := rfl
theorem nodeClass_placed : (h.placed t).nodeClass = h.nodeClass := rfl
theorem nodeSlice_placed : (h.placed t).nodeSlice = h.nodeSlice := rfl
theorem pkg_placed : (h.placed t).pkg = h.pkg := rfl
theorem hungRec_placed : (h.placed t).hungRec = h.hungRec := by
  funext es cs v
  unfold Hub.hungRec
  rw [nodeClass_placed, pkg_placed]
theorem graphOf_placed : (h.placed t).graphOf = h.graphOf := by
  unfold Hub.graphOf
  rw [graphEdges_placed, nodeSlice_placed, hungRec_placed, pkg_placed]
  rfl
theorem graphHeader_placed : (h.placed t).graphHeader = h.graphHeader := rfl

theorem graphStatus_placed : (h.placed t).graphStatus = h.graphStatus := by rw [Hub.graphStatus, graphOf_placed, Hub.graphStatus]

theorem areaWrites_placed : (h.placed t).areaWrites = h.areaWrites := by
  funext status
  rw [Hub.areaWrites, graphOf_placed, graphHeader_placed, Hub.areaWrites]

theorem graphShown_placed : (h.placed t).graphShown = h.graphShown := by
  rw [Hub.graphShown, graphOf_placed, graphStatus_placed]
  rfl

end Placed

/-! ## The exchange -/

section Exchange

variable {h : Hub} {link : Nat} {b : List Byte} (noc : h.nocUp = true) (known : link < 32) (size : b.length = 64)
include noc known size

theorem graphRequest_eq (type : leAt b 0 1 = 0x24) (away : cutPkg (leAt b 4 4) ≠ h.pkg) (new : leAt b 4 4 ∉ h.hang.knownGraph) (steady : h.rst.st = 0)
    (last : h.cut.sentOn.find? (fun x => x.1 == leAt b 4 4) = none) :
    h.graphRequest link b = { h.stampHub (linkStn link) with hang := { h.hang with
      knownGraph := (leAt b 4 4 :: h.hang.knownGraph).take 64, jobs := h.hang.jobs ++ [(leAt b 4 4, link)] } } := by
  unfold Hub.graphRequest
  rw [if_neg (by simp [size, type, noc, away, new, known])]
  have nobody : ((h.cut.sentOn.find? fun x => x.1 == leAt b 4 4).map Prod.snd).getD [] = [] := by rw [last]; rfl
  dsimp only
  rw [if_pos steady, Hub.askGraph]
  exact congrArg (List.foldl _ _) nobody

theorem graphEdge_eq (type : leAt b 0 1 = 0x25) (home : cutPkg (leAt b 4 4) = h.pkg) (building : h.hang.building = true) (origin : h.hang.parent = none)
    (cut : h.hang.cut = leAt b 4 4) (more : bit (leAt b 2 2) 0 = false) (edge : (edgeOf (slice b 16 40)).src ≠ 0) :
    h.graphEdge link b = { h.stampHub (linkStn link) with hang := { h.hang with
      remote := h.hang.remote ++ [{ edgeOf (slice b 16 40) with flags := (edgeOf (slice b 16 40)).flags ||| 2 }],
      peerTrunc := h.hang.peerTrunc || bit (leAt b 2 2) 1 } } := by
  have mine : (h.hang.building && h.hang.parent.isNone && h.hang.cut == leAt b 4 4) = true := by simp [building, origin, cut]
  unfold Hub.graphEdge
  rw [if_neg (by simp [size, type, noc, known])]
  refine (if_pos home).trans ((if_pos mine).trans ?_)
  dsimp only
  rw [if_neg edge, if_neg (by simp [more])]
  rfl

end Exchange

theorem graphPeerTimeout_eq {h : Hub} (building : h.hang.building = true) (origin : h.hang.parent = none) (across : h.hang.xpkg = true)
    (due : h.hang.cutDone + 4000000 ≤ h.now) (missing : h.missingPeers = true) :
    h.graphPeerTimeout = { h with hang := { h.hang with noPeer := true } } :=
  if_pos (by simp [building, origin, across, missing, Hub.peersDue, due])

/-- Settles O29: the stages of one graph, the area within its 4 MiB, and what other packages add. -/
theorem waitForGraph : Obligations.WaitForGraph := by
  intro s r live pair
  refine ⟨fun step cut stopped inside steady free => ?_, fun building idle steady => ?_, ?_,
    fun link b noc known size type away new steady last => ?_, fun link b noc known size type home building origin cut more edge => ?_,
    fun building origin across due missing => ?_⟩
  · refine yields_ex rfl live fun t => ?_
    have eq := waitEdgeCollect_eq (h := s.hub.placed t) pair steady step cut stopped inside free
    rw [collect_placed] at eq
    have out := edgeReports_out (s.hub.placed t) (s.hub.collect r).1
    refine ⟨_, eq, ?_⟩
    generalize (s.hub.placed t).edgeReports (s.hub.collect r).1 = g at out
    exact lands_of_out s out rfl
  · exact yields_of_eq rfl live (fun t => contextWalk_eq (h := s.hub.placed t) pair steady building idle) fun t => rfl
  · intro w building walk origin inside few room
    refine yields_ex rfl live fun t => ?_
    have eq := graphWrite_eq (h := s.hub.placed t) pair building walk origin inside room
    rw [graphOf_placed, graphStatus_placed, areaWrites_placed, graphShown_placed] at eq
    exact ⟨_, eq, rfl, fun k low => areaWrites_magic s.hub s.mem s.hub.graphStatus k low,
      fun a outside => areaWrites_outside s.mem few s.hub.graphStatus outside,
      apply_hbm_kept s.mem (areaWrites_firkin s.hub s.hub.graphStatus), rfl⟩
  · exact yields_of_eq rfl live (fun t => graphRequest_eq (h := s.hub.placed t) noc known size type away new steady last) fun t => rfl
  · exact yields_of_eq rfl live
      (fun t => graphEdge_eq (h := s.hub.placed t) noc known size type home building origin cut more edge) fun t => rfl
  · exact yields_of_eq rfl live (fun t => graphPeerTimeout_eq (h := s.hub.placed t) building origin across due missing) fun t => rfl

end Sys2Proof.Machine
end

section
/-!
O43: what a register access of a command does, for every action register, and with it the interrupts and the doorbells (R480, R481, R483).
-/
namespace Sys2Proof.Machine

/-! ## A command that writes an action register -/

/-- A register of one word in a hub block whose write acts. -/
def Loc.acts (l : Loc) : Bool := l.row.kind == .act && !l.row.pair && !l.mirror && decide (l.base < 0x100000) && l.row.wr != .none

theorem lostSlot_low (h : Hub) (l : Loc) (low : l.base < 0x100000) : h.lostSlot l = false := by
  rw [Hub.lostSlot, decide_eq_false (Nat.not_le.mpr low), Bool.false_and]

section Act

variable {s : State} {m : Master} {off w : Nat} {l : Loc} {c : Instr} {P : Hub → State → Prop}

/-- A command that is one write of a word of an action register: the effect on a hub whose recorder is `e`, and the state with the recorder after the
write's audit record. -/
theorem yields_act {g : SMap Nat → Er → Hub} (x : exec c s = run c (fun mem h => h.busWrite mem m off 4 w) s) (live : s.hub.live = true)
    (reach : s.hub.reaches m = true) (e : locate off = some l) (aligned : off % 4 = 0) (low : off < 0x100000) (acts : l.acts = true) (b : w < 2 ^ 32)
    (may : s.hub.mayWrite m l w = true) (effect : ∀ t r, Hub.regWrite { s.hub.placed t with er := r } s.mem m l w = g t r)
    (p : ∀ t, P (s.hub.placed t) (lands s ((g t (if l.exempt w then s.hub.er else roleEr s.hub m off w)).respond m 0 false))) : Yields c s P := by
  simp only [Loc.acts, Bool.and_eq_true, beq_iff_eq, bne_iff_ne, Bool.not_eq_true', decide_eq_true_eq] at acts
  obtain ⟨⟨⟨⟨kind, single⟩, direct⟩, base⟩, right⟩ := acts
  have wable : l.writable = true := by simp [Loc.writable, kind, direct, right]
  have quiet : slotQuiet s.hub off := fun slot => absurd low (Nat.not_lt.mpr slot)
  refine yields_run x live fun t => ?_
  rw [busWrite_word (s.hub.placed t) s.mem m off w reach aligned b,
    write32_single (s.hub.placed t) s.mem m off l w e wable may (lostSlot_low _ l base) quiet b single]
  exact effect t _ ▸ p t

end Act

/-- A command that is one read of a word of a register of one word in a hub block: the value answered, and the read's effect. -/
theorem yields_readAct {s : State} {m : Master} {off : Nat} {l : Loc} {c : Instr} {P : Hub → State → Prop}
    (x : exec c s = run c (fun mem h => h.busRead mem m off 4) s) (live : s.hub.live = true)
    (reach : s.hub.reaches m = true) (e : locate off = some l) (aligned : off % 4 = 0) (low : off < 0x100000) (base : l.base < 0x100000)
    (nw : inWindow off = false) (hi : l.hi = false) (single : l.row.pair = false) (direct : l.mirror = false) (may : s.hub.mayRead m l.row.rd = true)
    (p : ∀ t, P (s.hub.placed t) (lands s (((s.hub.placed t).readEffect m l).respond m (l.value s.hub m % 2 ^ 32) false))) : Yields c s P := by
  have nf : inFirkin off = false := by
    rw [inFirkin, decide_eq_false (Nat.not_le.mpr (Nat.lt_trans low (by decide))), Bool.false_and]
  have quiet : slotQuiet s.hub off := fun slot => absurd low (Nat.not_lt.mpr slot)
  have word (t : SMap Nat) : (s.hub.placed t).readReg m l = (l.value s.hub m % 2 ^ 32, (s.hub.placed t).readEffect m l) := by
    unfold Hub.readReg
    simp [lostSlot_low _ l base, hi, single, direct, value_placed]
  have read (t : SMap Nat) := read32_permitted (s.hub.placed t) s.mem m off l e may nf nw quiet
  simp only [word] at read
  refine yields_busRead live reach aligned x read fun t => ?_
  rw [Nat.mod_mod]
  exact p t

/-- A register of one word, one for each master where `own`, at the hub-block offset `off` whose access acts. -/
def Loc.acting (own : Bool) (f : Fam) (off : Nat) (rd : RdRight) (wr : WrRight) : Loc :=
  ⟨⟨f, off, 4, 1, false, .act, own, .all, rd, wr, 0, 0⟩, 0, false, 0, off, false⟩

/-! ## Interrupts and doorbells -/

theorem locate_hubIrqEn : locate 0x204 = some (.acting false .hubIrqEn 0x204 .glob .om) := by decide +kernel
theorem locate_hubHostDb : locate 0x210 = some (.acting false .hubHostDb 0x210 .glob .om) := by decide +kernel
theorem locate_hubHostDbPop : locate 0x218 = some (.acting false .hubHostDbPop 0x218 .pair .none) := by decide +kernel
theorem locate_hubFwDb : locate 0x21C = some (.acting false .hubFwDb 0x21C .glob .pair) := by decide +kernel

/-- Word `i` of the MSI-X table. -/
def Loc.msix (i : Nat) : Loc := ⟨⟨.msixTable, 0x400, 4, 64, false, .act, false, .all, .msix, .msix, 0, 0⟩, i, false, 0, 0x400 + 4 * i, false⟩

theorem locate_msixMask {e : Nat} (low : e < 16) : locate (0x40C + 16 * e) = some (.msix (4 * e + 3)) := by
  have all : ∀ e : Fin 16, locate (0x40C + 16 * e) = some (.msix (4 * e + 3)) := by decide +kernel
  exact all ⟨e, low⟩

theorem exec_msixUnmask {e : Nat} (low : e < 16) (s : State) :
    exec (.msixUnmask e) s = run (.msixUnmask e) (fun mem h => h.busWrite mem .host (0x40C + 16 * e) 4 0) s := by
  have entry : e % 16 = e := Nat.mod_eq_of_lt low
  calc
    exec (.msixUnmask e) s = run (.msixUnmask e) (fun mem h => h.busWrite mem .host (0x40C + 16 * (e % 16)) 4 0) s := rfl
    _ = _ := by rw [entry]

theorem msix_acts {e : Nat} (low : e < 16) : (Loc.msix (4 * e + 3)).acts = true := by
  have base : 0x400 + 4 * (4 * e + 3) < 0x100000 := by omega
  change (true && true && true && decide (0x400 + 4 * (4 * e + 3) < 0x100000) && true) = true
  rw [decide_eq_true base]
  rfl

theorem msix_regWrite (h : Hub) (mem : Mem) {e : Nat} (low : e < 16) :
    h.regWrite mem .host (.msix (4 * e + 3)) 0 = h.msixWrite (4 * e + 3) 0 :=
  if_pos (show 0x400 + 4 * (4 * e + 3) < 0x30000 by omega)

section Effects

variable (h : Hub)

theorem irqEnWrite_eq {v : Nat} (low : v < 65536) :
    h.irqEnWrite v = { h with irq := { h.irq with
      en := v, due := h.irq.due ||| (if h.irq.fnOn then clearBits v h.irq.en &&& h.irq.status else 0) } } := by
  rw [Hub.irqEnWrite, Nat.mod_eq_of_lt low]

theorem msixUnmask_pending {e : Nat} (pending : bit h.irq.pba e = true) :
    h.msixWrite (4 * e + 3) 0 = { h with irq := { h.irq with
      table := SMap.set 1 h.irq.table (4 * e + 3) 0, pba := clearBits h.irq.pba (2 ^ e), sent := SMap.upd 0 h.irq.sent e (· + 1) } } := by
  have word : (4 * e + 3) % 4 = 3 := by omega
  have entry : (4 * e + 3) / 4 = e := by omega
  unfold Hub.msixWrite
  simp [word, entry, pending, Irq.sendMsg]

theorem msixUnmask_idle {e : Nat} (idle : bit h.irq.pba e = false) :
    h.msixWrite (4 * e + 3) 0 = { h with irq := { h.irq with table := SMap.set 1 h.irq.table (4 * e + 3) 0 } } := by
  have word : (4 * e + 3) % 4 = 3 := by omega
  have entry : (4 * e + 3) / 4 = e := by omega
  unfold Hub.msixWrite
  simp [word, entry, idle]

theorem hostDoorbell_stored {c : Nat} (some_ : 0 < c) (room : h.db.fifo.length < 16) :
    h.hostDoorbell c = { h with db := { h.db with fifo := h.db.fifo ++ [c] } } :=
  (if_neg (Nat.pos_iff_ne_zero.mp some_)).trans (if_pos room)

theorem hostDoorbell_lost {c : Nat} (some_ : 0 < c) (full : 16 ≤ h.db.fifo.length) : h.hostDoorbell c = h.rcAdd 0x214 0 16 65535 1 :=
  (if_neg (Nat.pos_iff_ne_zero.mp some_)).trans (if_neg (Nat.not_lt.mpr full))

end Effects

/-- Settles O43: each register's write is its effect with the write's audit record and the answer. -/
theorem interruptsAndDoorbells : Obligations.InterruptsAndDoorbells := by
  intro s m live reach
  have om {l : Loc} {w : Nat} (wr : l.row.wr = .om) (role : s.hub.role m = 1 ∨ s.hub.role m = 3) : s.hub.mayWrite m l w = true := by
    simpa [Hub.mayWrite, wr] using role
  refine ⟨fun v low role => ?_, fun e low host pending => ?_, fun e low host idle => ?_, fun c pos low role room => ?_, fun c pos low role full => ?_,
    fun role => ?_, fun c q pair fifo low => ?_, fun c pair low => ?_⟩
  · exact yields_act rfl live reach locate_hubIrqEn rfl (by decide) rfl (Nat.lt_trans low (by decide)) (om rfl role)
      (fun t r => irqEnWrite_eq { s.hub.placed t with er := r } low) fun t => rfl
  · subst host
    exact yields_act (exec_msixUnmask low s) live reach (locate_msixMask low) (by omega) (by omega) (msix_acts low) (by decide) rfl
      (fun t r => (msix_regWrite _ s.mem low).trans (msixUnmask_pending { s.hub.placed t with er := r } pending)) fun t => rfl
  · subst host
    exact yields_act (exec_msixUnmask low s) live reach (locate_msixMask low) (by omega) (by omega) (msix_acts low) (by decide) rfl
      (fun t r => (msix_regWrite _ s.mem low).trans (msixUnmask_idle { s.hub.placed t with er := r } idle)) fun t => rfl
  · exact yields_act rfl live reach locate_hubHostDb rfl (by decide) rfl low (om rfl role)
      (fun t r => hostDoorbell_stored { s.hub.placed t with er := r } pos room) fun t => rfl
  · exact yields_act rfl live reach locate_hubHostDb rfl (by decide) rfl low (om rfl role)
      (fun t r => hostDoorbell_lost { s.hub.placed t with er := r } pos full) fun t => rfl
  · exact yields_act rfl live reach locate_hubHostDb rfl (by decide) rfl (by decide) (om rfl role) (fun t r => rfl) fun t => rfl
  · subst pair
    refine yields_readAct rfl live reach locate_hubHostDbPop rfl (by decide) (by decide) rfl rfl rfl rfl rfl fun t => ?_
    have head : (Loc.acting false .hubHostDbPop 0x218 .pair .none).value s.hub .pair % 2 ^ 32 = c := by
      have value : (Loc.acting false .hubHostDbPop 0x218 .pair .none).value s.hub .pair = s.hub.db.fifo.headD 0 := rfl
      rw [value, fifo]
      exact Nat.mod_eq_of_lt low
    have tail : (s.hub.placed t).doorbellPop = { s.hub.placed t with db := { s.hub.db with fifo := q } } := by
      rw [Hub.doorbellPop]
      exact congrArg (fun f => ({ s.hub.placed t with db := { s.hub.db with fifo := f } } : Hub)) (congrArg List.tail fifo)
    rw [head]
    exact congrArg (fun g : Hub => lands s (g.respond .pair c false)) tail
  · subst pair
    exact yields_act rfl live reach locate_hubFwDb rfl (by decide) rfl (Nat.lt_trans low (by decide)) rfl (fun t r => rfl) fun t => rfl

end Sys2Proof.Machine
end

section
/-!
O44: the SPDM mailboxes of the host and the Span and the responder that firmware carries (R423, R424, R484 to R487).
-/
namespace Sys2Proof.Machine

/-! ## The word of a request: go at bit 31 -/

section GoWord

variable {n i : Nat}

theorem goWord_plain (n : Nat) : goWord 0 0 n = 2 ^ 31 + n := rfl

theorem go_bit (low : n < 2 ^ 31) : bit (2 ^ 31 + n) 31 = true := by
  rw [bit, Nat.testBit_two_pow_add_eq, Nat.testBit_lt_two_pow low, Bool.not_false]

theorem go_bit_low (n : Nat) (below : i < 31) : bit (2 ^ 31 + n) i = bit n i := Nat.testBit_two_pow_add_gt below n

theorem bit_high (low : n < 2 ^ i) : bit n i = false := Nat.testBit_lt_two_pow low

end GoWord

/-! ## The mailbox of a master -/

section Mailboxes

variable (h : Hub) (m : Master)

theorem updMbx_congr {f g : Mbx → Mbx} (same : f (h.getMbx m) = g (h.getMbx m)) : h.updMbx m f = h.updMbx m g := by
  unfold Hub.updMbx SMap.upd
  exact congrArg (fun x => ({ h with mbx := SMap.set {} h.mbx m.idx x } : Hub)) same

theorem updMbx_twice (f g : Mbx → Mbx) : (h.updMbx m f).updMbx m g = h.updMbx m fun x => g (f x) := by
  unfold Hub.updMbx SMap.upd
  simp only [SMap.get_set_self, set_set]

theorem getMbx_updMbx_ne {x : Master} (f : Mbx → Mbx) (other : x ≠ m) : (h.updMbx m f).getMbx x = h.getMbx x :=
  SMap.get_upd_ne _ _ _ (Master.idx_ne other)

end Mailboxes

theorem locate_hubMbxCtl : locate 0x240 = some (.acting true .hubMbxCtl 0x240 .mbx .mbx) := by decide +kernel
theorem locate_hubMbxWdata : locate 0x24C = some (.acting true .hubMbxWdata 0x24C .mbx .mbx) := by decide +kernel
theorem locate_hubMbxRdata : locate 0x250 = some (.acting true .hubMbxRdata 0x250 .mbx .none) := by decide +kernel

/-! ## Writes and reads of the mailbox -/

section Effects

variable {h : Hub} {m : Master} {n : Nat}

theorem wdata_stored {x : Mbx} (idle : x.busy = false) (room : x.req.length + 4 ≤ 32768) (w : Nat) :
    x.wdata w = { x with req := x.req ++ leBytes 4 w } :=
  if_neg (by simp [idle, room])

theorem mbxCtl_go (h : Hub) (m : Master) (low : n < 65536) : h.mbxCtl m (2 ^ 31 + n) = h.updMbx m fun x => x.go (h.rst.st != 0) n := by
  have word : (2 ^ 31 + n) % 65536 = n := by omega
  unfold Hub.mbxCtl
  rw [go_bit_low n (by decide), bit_high (Nat.lt_trans low (by decide)), go_bit (Nat.lt_trans low (by decide)), word]
  rfl

theorem mbxCtl_abort (h : Hub) (m : Master) : h.mbxCtl m (2 ^ 30) = h.updMbx m Mbx.abort := rfl

theorem go_busy {x : Mbx} (busy : x.busy = true) (off : Bool) (n : Nat) : x.go off n = { x with status := stBusy } := if_pos busy

theorem go_taken {x : Mbx} (idle : x.busy = false) (some_ : 0 < n) (fits : n ≤ 32768) (whole : roundUp 4 n ≤ x.req.length) :
    x.go false n = { x with busy := true, ready := false, forming := none, resp := [], pos := 0, req := [], sub := x.req.take n } := by
  have sound : ¬ (n = 0 ∨ 32768 < n ∨ x.req.length < roundUp 4 n) := by omega
  unfold Mbx.go
  rw [if_neg (by simp [idle])]
  exact if_neg sound

theorem go_refused {x : Mbx} (idle : x.busy = false) (bad : n = 0 ∨ 32768 < n ∨ x.req.length < roundUp 4 n) :
    x.go false n = { x with status := stHostMbxlen, ready := false, forming := none, resp := [], pos := 0, req := [] } := by
  unfold Mbx.go
  rw [if_neg (by simp [idle])]
  exact if_pos bad

/-- The mailbox once the response `r` has been loaded. -/
def Mbx.loaded (r : List Byte) (x : Mbx) : Mbx :=
  { x with forming := none, busy := false, ready := true, sub := [], resp := r, pos := 0, status := stOk }

theorem mbxReady_eq {r : List Byte} (forming : (h.getMbx m).forming = some r) (busy : (h.getMbx m).busy = true) :
    h.mbxReady m = if m = .host then (h.updMbx m (Mbx.loaded r)).irqRaise 12 else h.updMbx m (Mbx.loaded r) := by
  unfold Hub.mbxReady
  simp only [forming, busy]
  rfl

end Effects

/-! ## The responder -/

/-- Block 1, the digest of the ROM, as GET_MEASUREMENTS answers it. -/
theorem measureBlock_rom (h : Hub) : h.measureBlock 1 = [0x01, 0x01, 51, 0, 0x00, 48, 0] ++ padTo 48 Config.romDigest := by
  have block : h.measureBlock 1 = leBytes 1 1 ++ [1] ++ leBytes 2 ((padTo 48 Config.romDigest).length + 3) ++ leBytes 1 0
    ++ leBytes 2 (padTo 48 Config.romDigest).length ++ padTo 48 Config.romDigest := rfl
  rw [block, padTo_length]
  rfl

/-- The answer to an unsigned request for block 1. -/
theorem measurements_rom (h : Hub) (n : List Byte) :
    [0x12, 0x60] ++ leBytes 1 0 ++ leBytes 1 0 ++ leBytes 1 (h.blocksOf 1).length ++ leBytes 3 ((h.blocksOf 1).flatMap h.measureBlock).length
        ++ (h.blocksOf 1).flatMap h.measureBlock ++ n ++ [0, 0] =
      [0x12, 0x60, 0, 0, 1, 55, 0, 0, 0x01, 0x01, 51, 0, 0x00, 48, 0] ++ padTo 48 Config.romDigest ++ n ++ [0, 0] := by
  have blocks : h.blocksOf 1 = [1] := rfl
  have only : [1].flatMap h.measureBlock = [0x01, 0x01, 51, 0, 0x00, 48, 0] ++ padTo 48 Config.romDigest := by
    rw [List.flatMap_singleton, measureBlock_rom]
  have size : ([0x01, 0x01, 51, 0, 0x00, 48, 0] ++ padTo 48 Config.romDigest).length = 55 := by
    rw [List.length_append, padTo_length]
    rfl
  rw [blocks, only, size]
  rfl

section Responder

variable {h : Hub} {m : Master} {b : List Byte} (request : h.spdmReq m = some b)
include request

theorem spdmVersion_eq (code : spdmCode b = 0x84) (version : leAt b 0 1 = 0x10) :
    h.spdmVersion m = h.updMbx m fun x =>
      { x with forming := some [0x10, 0x04, 0, 0, 0, 1, 0, 0x12], transcript := b ++ [0x10, 0x04, 0, 0, 0, 1, 0, 0x12], l1 := [] } := by
  unfold Hub.spdmVersion
  simp only [request, code, version, ne_eq, not_true_eq_false, if_false]
  exact updMbx_twice h m _ _

theorem spdmServe_eq {c n : Nat} {f : List Byte → Hub} (code : spdmCode b = c) (version : leAt b 0 1 = 0x12) (long : n ≤ b.length) :
    h.spdmServe m c n f = f b := by
  unfold Hub.spdmServe
  simp [request, code, version, long]

theorem spdmCapabilities_eq {r : List Byte} (code : spdmCode b = 0xE1) (version : leAt b 0 1 = 0x12) (long : 20 ≤ b.length)
    (answer : r = [0x12, 0x61, 0, 0, 0, 14, 0, 0, 0x14, 0, 1, 0, 0, 0x80, 0, 0, 0, 0x80, 0, 0]) :
    h.spdmCapabilities m = h.updMbx m fun x => { x with forming := some r, transcript := x.transcript ++ b ++ r, l1 := [] } := by
  subst answer
  exact (spdmServe_eq request code version long).trans (updMbx_twice h m _ _)

theorem spdmAlgorithms_eq {r : List Byte} (code : spdmCode b = 0xE3) (version : leAt b 0 1 = 0x12) (long : 32 ≤ b.length) (dmtf : leAt b 6 1 = 1)
    (asym : leAt b 8 4 = 0x80) (hash : leAt b 12 4 = 2)
    (answer : r = [0x12, 0x63, 0, 0, 36, 0, 1, 0, 4, 0, 0, 0, 0x80, 0, 0, 0, 2, 0, 0, 0] ++ zeros 16) :
    h.spdmAlgorithms m = h.updMbx m fun x => { x with forming := some r, transcript := x.transcript ++ b ++ r, l1 := [] } := by
  subst answer
  refine (spdmServe_eq request code version long).trans ?_
  dsimp only
  rw [dmtf, asym, hash]
  exact updMbx_twice h m _ _

theorem spdmUnsupported_eq (version : leAt b 0 1 = 0x12) (code : spdmCode b = 0x85) :
    h.spdmUnsupported m = h.updMbx m fun x => { x with forming := some [0x12, 0x7F, 0x07, 0x85], l1 := [] } := by
  unfold Hub.spdmUnsupported
  simp only [request, version, code]
  exact updMbx_twice h m _ _

theorem spdmChallenge_eq (code : spdmCode b = 0x83) (version : leAt b 0 1 = 0x12) (long : 36 ≤ b.length) (slot : leAt b 2 1 = 0xFF)
    (summary : leAt b 3 1 = 0) {n r : List Byte} (nonce : n = (List.range 32).map fun i => Config.drbg (h.sec.drbg + i))
    (answer : r = [0x12, 0x03, 0x0F, 0] ++ sha384 h.boot.diePub ++ n ++ [0, 0]) :
    h.spdmChallenge m = { h.updMbx m fun x =>
      { x with forming := some (r ++ h.spdmSign "responder-challenge_auth signing" (x.transcript ++ b ++ r)), l1 := [] } with
        sec := { h.sec with drbg := h.sec.drbg + 32 } } := by
  have sound : ¬ (leAt b 2 1 ≠ 0xFF ∨ (leAt b 3 1 ≠ 0 ∧ leAt b 3 1 ≠ 1 ∧ leAt b 3 1 ≠ 0xFF)) := by omega
  refine (spdmServe_eq request code version long).trans ?_
  dsimp only
  rw [if_neg sound, summary]
  refine (updMbx_twice _ m _ _).trans ?_
  have whole : [0x12, 0x03, 0x0F, 0] ++ sha384 h.boot.diePub ++ n ++ [] ++ [0, 0] = r := by rw [List.append_nil, answer]
  subst nonce
  rw [← whole]
  exact updMbx_congr _ m rfl

theorem spdmMeasurements_eq (code : spdmCode b = 0xE0) (version : leAt b 0 1 = 0x12) (long : 4 ≤ b.length) (unsigned : leAt b 2 1 = 0)
    (op : leAt b 3 1 = 1) (first : (h.getMbx m).l1 = []) {n r : List Byte} (nonce : n = (List.range 32).map fun i => Config.drbg (h.sec.drbg + i))
    (answer : r = [0x12, 0x60, 0, 0, 1, 55, 0, 0, 0x01, 0x01, 51, 0, 0x00, 48, 0] ++ padTo 48 Config.romDigest ++ n ++ [0, 0]) :
    h.spdmMeasurements m = { h.updMbx m fun x => { x with forming := some r, l1 := x.transcript ++ b ++ r } with
      sec := { h.sec with drbg := h.sec.drbg + 32 } } := by
  refine (spdmServe_eq request code version long).trans ?_
  dsimp only
  rw [unsigned, op]
  refine (updMbx_twice _ m _ _).trans ?_
  refine (updMbx_congr (h.draw 32).2 m (g := fun x => { x with forming := some r, l1 := x.transcript ++ b ++ r }) ?_).trans rfl
  have fresh : ((h.draw 32).2.getMbx m).l1 = [] := first
  have whole := (measurements_rom (h.draw 32).2 n).trans answer.symm
  subst nonce
  change ({ (h.draw 32).2.getMbx m with
    forming := some _, l1 := (if ((h.draw 32).2.getMbx m).l1.isEmpty then _ else _) ++ b ++ _ } : Mbx) = _
  rw [fresh]
  exact congrArg (fun r => ({ (h.draw 32).2.getMbx m with forming := some r, l1 := ((h.draw 32).2.getMbx m).transcript ++ b ++ r } : Mbx)) whole

end Responder

theorem exec_mailboxGo {m : Master} {n : Nat} (low : n < 65536) (s : State) :
    exec (.mailboxGo m n) s = run (.mailboxGo m n) (fun mem h => h.busWrite mem m 0x240 4 (2 ^ 31 + n)) s := by
  have size : n % 65536 = n := Nat.mod_eq_of_lt low
  calc
    exec (.mailboxGo m n) s = run (.mailboxGo m n) (fun mem h => h.busWrite mem m 0x240 4 (goWord 0 0 (n % 65536))) s := rfl
    _ = _ := by rw [size, goWord_plain]

/-- A go of a mailbox whose effect on the mailbox is `f`. -/
theorem yields_go {s : State} {m : Master} {n : Nat} {f : Mbx → Mbx} (live : s.hub.live = true) (port : m = .host ∨ m = .span)
    (reach : s.hub.reaches m = true) (low : n < 65536) (effect : (s.hub.getMbx m).go (s.hub.rst.st != 0) n = f (s.hub.getMbx m)) :
    Yields (.mailboxGo m n) s fun h0 t => t = wrote s m 0x240 (2 ^ 31 + n) (h0.updMbx m f) :=
  yields_act (exec_mailboxGo low s) live reach locate_hubMbxCtl rfl (by decide) rfl (by omega) (by simpa [Hub.mayWrite, Loc.acting] using port)
    (fun t r => (mbxCtl_go { s.hub.placed t with er := r } m low).trans (updMbx_congr _ m effect)) fun t => rfl

/-- Settles O44: each access is its effect on one mailbox, each served request the answer that is formed. -/
theorem mailbox : Obligations.Mailbox := by
  intro s m live port reach
  have may {l : Loc} {w : Nat} (wr : l.row.wr = .mbx) : s.hub.mayWrite m l w = true := by simpa [Hub.mayWrite, wr] using port
  refine ⟨fun w low idle room => ?_, fun n idle steady pos fits whole => ?_, fun n low busy => ?_, fun n low idle steady bad => ?_, ?_, fun ready => ?_,
    fun r forming busy => ?_, fun b request code version => ?_, fun b r request code version long answer => ?_,
    fun b r request code version long dmtf asym hash answer => ?_, fun b request code version long slot summary => ?_,
    fun b request code version long unsigned op first => ?_, fun b request version code => ?_⟩
  · exact yields_act rfl live reach locate_hubMbxWdata rfl (by decide) rfl low (may rfl)
      (fun t r => updMbx_congr { s.hub.placed t with er := r } m (f := fun x => x.wdata w) (g := fun x => { x with req := x.req ++ leBytes 4 w })
        (wdata_stored idle room w)) fun t => rfl
  · refine yields_go live port reach (by omega) ?_
    rw [steady]
    exact go_taken idle pos fits whole
  · exact yields_go live port reach low (go_busy busy _ n)
  · refine yields_go live port reach low ?_
    rw [steady]
    exact go_refused idle bad
  · exact yields_act rfl live reach locate_hubMbxCtl rfl (by decide) rfl (by decide) (may rfl)
      (fun t r => mbxCtl_abort { s.hub.placed t with er := r } m) fun t => rfl
  · refine yields_readAct rfl live reach locate_hubMbxRdata rfl (by decide) (by decide) rfl rfl rfl rfl ?_ fun t => ?_
    · simpa [Hub.mayRead, Loc.acting] using port
    · have read : (s.hub.placed t).readEffect m (.acting true .hubMbxRdata 0x250 .mbx .none) =
          (s.hub.placed t).updMbx m fun x => { x with pos := x.pos + 4, ready := decide (x.pos + 4 < x.resp.length) } :=
        updMbx_congr _ m (if_pos ready)
      have word : (Loc.acting true .hubMbxRdata 0x250 .mbx .none).value s.hub m = leAt (s.hub.getMbx m).resp (s.hub.getMbx m).pos 4 := rfl
      rw [read, word]
      rfl
  · refine yields_of_eq rfl live (fun t => mbxReady_eq (h := s.hub.placed t) forming busy) fun t => ?_
    rcases port with rfl | rfl
    · exact ⟨fun _ => irqRaise_status _ 12, fun x other => getMbx_updMbx_ne (s.hub.placed t) .host (Mbx.loaded r) other, fun _ => rfl, nofun⟩
    · exact ⟨nofun, fun x other => getMbx_updMbx_ne (s.hub.placed t) .span (Mbx.loaded r) other, nofun, fun _ => rfl⟩
  · exact yields_of_eq rfl live (fun t => spdmVersion_eq (h := s.hub.placed t) request code version) fun t => rfl
  · exact yields_of_eq rfl live (fun t => spdmCapabilities_eq (h := s.hub.placed t) request code version long answer) fun t => rfl
  · exact yields_of_eq rfl live (fun t => spdmAlgorithms_eq (h := s.hub.placed t) request code version long dmtf asym hash answer) fun t => rfl
  · exact yields_of_eq rfl live (fun t => spdmChallenge_eq (h := s.hub.placed t) request code version long slot summary rfl rfl)
      fun t => ⟨_, _, rfl, rfl, rfl⟩
  · exact yields_of_eq rfl live (fun t => spdmMeasurements_eq (h := s.hub.placed t) request code version long unsigned op first rfl rfl)
      fun t => ⟨_, _, rfl, rfl, rfl⟩
  · exact yields_of_eq rfl live (fun t => spdmUnsupported_eq (h := s.hub.placed t) request version code) fun t => rfl

end Sys2Proof.Machine
end

section
/-!
O45: telemetry queries, their refusals and completions, and a refresh of the readings (R488 to R490).
-/
namespace Sys2Proof.Machine

/-! ## A query is taken or refused -/

section Queries

variable {h : Hub} {m : Master} {kind i : Nat}

theorem updQuery_congr {f g : Query → Query} (same : f (h.getQuery m) = g (h.getQuery m)) : h.updQuery m f = h.updQuery m g := by
  unfold Hub.updQuery SMap.upd
  exact congrArg (fun x => ({ h with tlm := { h.tlm with q := SMap.set {} h.tlm.q m.idx x } } : Hub)) same

theorem goWord_query (kind i : Nat) : goWord kind 24 i = 2 ^ 31 + (kind * 2 ^ 24 + i) := by
  rw [goWord, at_, Nat.shiftLeft_eq, Nat.add_assoc]

theorem tlmQuery_word (h : Hub) (m : Master) (few : kind < 16) (low : i < 256) :
    h.tlmQuery m (goWord kind 24 i) =
      if (h.getQuery m).busy || h.rst.st != 0 then h.updQuery m fun q => { q with status := stBusy }
      else if h.queryRefused m kind i = stOk then h.updQuery m fun q => { q with busy := true, kind := kind, index := i }
      else h.updQuery m fun q => { q with status := h.queryRefused m kind i, res := [] } := by
  have go : bit (goWord kind 24 i) 31 = true := by
    rw [goWord_query]
    exact go_bit (by omega)
  have op : field (goWord kind 24 i) 27 24 = kind := by
    rw [goWord_query, field, Nat.shiftRight_eq_div_pow]
    omega
  have index : goWord kind 24 i % 256 = i := by
    rw [goWord_query]
    omega
  unfold Hub.tlmQuery
  rw [go, op, index]
  rfl

theorem tlmQuery_busy (few : kind < 16) (low : i < 256) (busy : (h.getQuery m).busy = true) :
    h.tlmQuery m (goWord kind 24 i) = h.updQuery m fun q => { q with status := stBusy } := by
  rw [tlmQuery_word h m few low]
  exact if_pos (by rw [busy]; rfl)

variable (few : kind < 16) (low : i < 256) (idle : (h.getQuery m).busy = false) (steady : h.rst.st = 0)
include few low idle steady

theorem tlmQuery_taken (free : h.queryRefused m kind i = stOk) :
    h.tlmQuery m (goWord kind 24 i) = h.updQuery m fun q => { q with busy := true, kind := kind, index := i } := by
  rw [tlmQuery_word h m few low, idle, steady]
  exact if_pos free

theorem tlmQuery_refused {st : Nat} (status : h.queryRefused m kind i = st) (bad : st ≠ stOk) :
    h.tlmQuery m (goWord kind 24 i) = h.updQuery m fun q => { q with status := st, res := [] } := by
  rw [tlmQuery_word h m few low, idle, steady, status]
  exact if_neg bad

end Queries

/-- Queries of a kind, as many as its index counts. -/
def queryTop (kind : Nat) : Nat := [64, 28, 4, 256].getD kind 0

theorem queryRefused_eq {h : Hub} {m : Master} {kind i : Nat} (known : kind < 4) :
    h.queryRefused m kind i = if m = .host ∧ h.role m = 0 ∧ (kind = 0 ∨ kind = 3) then stDenied else if queryTop kind ≤ i then stTlmIndex else stOk := by
  unfold Hub.queryRefused
  interval_cases kind <;> rfl

/-! ## A query completes -/

section Completion

variable {h : Hub} {m : Master}

theorem tlmComplete_eq {st : Nat} {l : List Nat} (busy : (h.getQuery m).busy = true) (first : h.queryBefore m = false)
    (result : h.queryResult (h.getQuery m).kind (h.getQuery m).index = (st, l)) :
    h.tlmComplete m = { h with tlm := { h.tlm with
      resTick := h.tlm.refreshTick, q := SMap.upd {} h.tlm.q m.idx fun q => { q with busy := false, status := st, res := resultMap l } } } := by
  unfold Hub.tlmComplete
  simp only [busy, first, result]
  rfl

theorem queryResult_sensor {i : Nat} (up : h.sourceUp = true) (sound : h.tlm.faulty.contains i = false) :
    h.queryResult 0 i = (stOk, [SMap.get 0 h.tlm.last i + at_ (SMap.get 0 h.tlm.high i % 65536) 16, (sensorPlace i).1 + at_ (sensorPlace i).2 8]) :=
  if_neg (by simp only [up, sound]; decide)

theorem queryResult_noSource {kind : Nat} (i : Nat) (other : kind ≠ 1) (down : h.sourceUp = false) : h.queryResult kind i = (stTlmNosource, []) :=
  match kind, other with
  | 0, _ => if_pos (by rw [down]; rfl)
  | 1, other => absurd rfl other
  | 2, _ => if_pos (by rw [down]; rfl)
  | _ + 3, _ => if_pos (by rw [down]; rfl)

theorem queryResult_clock (h : Hub) (i : Nat) :
    h.queryResult 1 i = (stOk, [(domainClock i).1,
      if bit h.gated i = true ∨ domainAlwaysOn i = false ∧ (h.clk.fallback = true ∨ bit h.boot.domains i = false) then 0
        else if domainAlwaysOn i = true ∧ h.clk.onPll = false then 100000 else SMap.get (domainClock i).1 h.tlm.last (64 + i),
      (if bit h.gated i = true then 1 else 0) + (if domainAlwaysOn i = true ∧ h.clk.onPll = false then 2 else 0) + (domainClock i).2 * 256]) := by
  have divider : at_ (domainClock i).2 8 = (domainClock i).2 * 256 := Nat.shiftLeft_eq _ 8
  unfold Hub.queryResult
  dsimp only
  rw [divider]
  cases gated : bit h.gated i <;> cases own : domainAlwaysOn i <;> cases pll : h.clk.onPll <;> simp [b2n]

end Completion

/-! ## A refresh -/

section Refresh

variable {t : Tlm} {k v i n : Nat} {l : List Nat}

/-- What the readings of number `k` agree in. -/
def Tlm.sameAt (k : Nat) (t u : Tlm) : Prop := SMap.get 0 u.last k = SMap.get 0 t.last k ∧ u.faulty.contains k = t.faulty.contains k

theorem Tlm.sameAt.trans {k : Nat} {t u w : Tlm} (a : Tlm.sameAt k t u) (b : Tlm.sameAt k u w) : Tlm.sameAt k t w :=
  ⟨b.1.trans a.1, b.2.trans a.2⟩

theorem take_other (other : k ≠ i) : Tlm.sameAt k t (t.take (v, i)) := by
  unfold Tlm.take
  dsimp only
  split
  · exact ⟨SMap.get_set_ne _ _ _ other, rfl⟩
  · split
    · refine ⟨rfl, ?_⟩
      dsimp only
      split
      · rfl
      · simp [other]
    · exact ⟨SMap.get_set_ne _ _ _ other, by simp [other]⟩

theorem take_sensor (sensor : k < 64) (sound : v < 65536) : SMap.get 0 (t.take (v, k)).last k = v ∧ (t.take (v, k)).faulty.contains k = false := by
  unfold Tlm.take
  dsimp only
  rw [if_neg (Nat.not_le.mpr sensor), if_neg (Nat.not_le.mpr sound)]
  exact ⟨SMap.get_set_self _ _ _ _, by simp⟩

theorem take_fault (sensor : k < 64) (bad : 65536 ≤ v) :
    SMap.get 0 (t.take (v, k)).last k = SMap.get 0 t.last k ∧ (t.take (v, k)).faulty.contains k = true := by
  unfold Tlm.take
  dsimp only
  rw [if_neg (Nat.not_le.mpr sensor), if_pos bad]
  refine ⟨rfl, ?_⟩
  dsimp only
  split
  · next known => exact known
  · simp

theorem take_domain (domain : 64 ≤ k) : SMap.get 0 (t.take (v, k)).last k = v := by
  unfold Tlm.take
  dsimp only
  rw [if_pos domain]
  exact SMap.get_set_self _ _ _ _

theorem takes_below (below : k < n) : Tlm.sameAt k t ((l.zipIdx n).foldl Tlm.take t) := by
  induction l generalizing n t with
  | nil => exact ⟨rfl, rfl⟩
  | cons v l ih => exact (take_other (Nat.ne_of_lt below)).trans (ih (Nat.lt_succ_of_lt below))

/-- At the number of a reading a refresh leaves what the taking of that reading left. -/
theorem takes_at (reading : l[k]? = some v) :
    ∃ u, Tlm.sameAt (n + k) t u ∧ Tlm.sameAt (n + k) (u.take (v, n + k)) ((l.zipIdx n).foldl Tlm.take t) := by
  induction l generalizing n t k with
  | nil => simp at reading
  | cons w l ih =>
    cases k with
    | zero =>
      obtain rfl : w = v := by simpa using reading
      exact ⟨t, ⟨rfl, rfl⟩, takes_below (Nat.lt_succ_self n)⟩
    | succ k =>
      obtain ⟨u, before, after⟩ := ih (t := t.take (w, n)) (n := n + 1) (k := k) (by simpa using reading)
      rw [Nat.add_right_comm] at before after
      exact ⟨u, (take_other (by omega)).trans before, after⟩

/-- One sensor compared with the highest so far. -/
def Tlm.higher (t : Tlm) (a : Nat × Nat) (k : Nat) : Nat × Nat :=
  if a.1 = 64 ∨ signed16 a.2 < signed16 (SMap.get 0 t.last k) then (k, SMap.get 0 t.last k) else a

theorem higher_foldl (t : Tlm) (l : List Nat) (a : Nat × Nat) (sensors : ∀ k ∈ l, k < 64) :
    (a.1 ≠ 64 → (l.foldl t.higher a).1 ≠ 64 ∧ signed16 a.2 ≤ signed16 (l.foldl t.higher a).2) ∧
      ∀ k ∈ l, signed16 (SMap.get 0 t.last k) ≤ signed16 (l.foldl t.higher a).2 := by
  induction l generalizing a with
  | nil => exact ⟨fun found => ⟨found, le_refl _⟩, by simp⟩
  | cons k l ih =>
    have first : (t.higher a k).1 ≠ 64 ∧ signed16 (SMap.get 0 t.last k) ≤ signed16 (t.higher a k).2 ∧
        (a.1 ≠ 64 → signed16 a.2 ≤ signed16 (t.higher a k).2) := by
      have sensor := sensors k List.mem_cons_self
      unfold Tlm.higher
      split_ifs with above
      · exact ⟨Nat.ne_of_lt sensor, le_refl _, fun found => le_of_lt (above.resolve_left found)⟩
      · obtain ⟨found, below⟩ := not_or.mp above
        exact ⟨found, not_lt.mp below, fun _ => le_refl _⟩
    obtain ⟨found, here, over_⟩ := first
    obtain ⟨kept, others⟩ := ih (t.higher a k) fun j mem => sensors j (List.mem_cons_of_mem k mem)
    obtain ⟨last, above⟩ := kept found
    refine ⟨fun was => ⟨last, le_trans (over_ was) above⟩, fun j mem => ?_⟩
    rcases List.mem_cons.mp mem with rfl | mem
    · exact le_trans here above
    · exact others j mem

theorem top_highest (t : Tlm) (sensor : k < 64) (sound : t.faulty.contains k = false) : signed16 (SMap.get 0 t.last k) ≤ signed16 t.top.2 :=
  (higher_foldl t _ (64, 0) fun j mem => List.mem_range.mp (List.mem_filter.mp mem).1).2 k
    (List.mem_filter.mpr ⟨List.mem_range.mpr sensor, by rw [sound]; rfl⟩)

end Refresh

section Alert

variable {h : Hub}

/-- The readings after a refresh. -/
def Hub.refreshedTlm (h : Hub) (l : List Nat) : Tlm :=
  { l.zipIdx.foldl Tlm.take h.tlm with
    refreshed := true, refreshTick := h.now, topSensor := (l.zipIdx.foldl Tlm.take h.tlm).top.1 % 64,
    topTemp := (l.zipIdx.foldl Tlm.take h.tlm).top.2 }

/-- What a refresh leaves of the readings. -/
theorem refreshedTlm_readings (h : Hub) (l : List Nat) :
    (∀ k v, l[k]? = some v → k < 64 → v < 65536 → SMap.get 0 (h.refreshedTlm l).last k = v ∧ (h.refreshedTlm l).faulty.contains k = false) ∧
      (∀ k v, l[k]? = some v → k < 64 → 65536 ≤ v →
        SMap.get 0 (h.refreshedTlm l).last k = SMap.get 0 h.tlm.last k ∧ (h.refreshedTlm l).faulty.contains k = true) ∧
      (∀ k v, l[k]? = some v → 64 ≤ k → SMap.get 0 (h.refreshedTlm l).last k = v) ∧
      ∀ k, k < 64 → (h.refreshedTlm l).faulty.contains k = false →
        signed16 (SMap.get 0 (h.refreshedTlm l).last k) ≤ signed16 (h.refreshedTlm l).topTemp := by
  refine ⟨fun k v reading sensor sound => ?_, fun k v reading sensor bad => ?_, fun k v reading domain => ?_,
    fun k sensor sound => top_highest (l.zipIdx.foldl Tlm.take h.tlm) sensor sound⟩
  all_goals
    obtain ⟨u, ⟨before, -⟩, last, faulty⟩ := takes_at (n := 0) (t := h.tlm) reading
    rw [Nat.zero_add] at before last faulty
  · obtain ⟨taken, well⟩ := take_sensor (t := u) sensor sound
    exact ⟨last.trans taken, faulty.trans well⟩
  · obtain ⟨kept, marked⟩ := take_fault (t := u) sensor bad
    exact ⟨last.trans (kept.trans before), faulty.trans marked⟩
  · exact last.trans (take_domain domain)

theorem refreshedTlm_above (h : Hub) (l : List Nat) : (h.refreshedTlm l).above = h.tlm.above := by
  have one (t : Tlm) (x : Nat × Nat) : (t.take x).above = t.above := by
    unfold Tlm.take
    dsimp only
    split_ifs <;> rfl
  have all_ (xs : List (Nat × Nat)) (t : Tlm) : (xs.foldl Tlm.take t).above = t.above := by
    induction xs generalizing t with
    | nil => rfl
    | cons x xs ih => exact (ih _).trans (one t x)
  exact all_ _ h.tlm

theorem tlmRefresh_eq (l : List Nat) (released : bit h.boot.domains 25 = true) (clocked : bit h.gated 25 = false) (noc : h.nocUp = true) :
    h.tlmRefresh l = ({ h with tlm := h.refreshedTlm l } : Hub).tlmAlert :=
  if_neg (by simp [released, clocked, noc])

/-- The alert touches its own flag and the interrupts. -/
theorem tlmAlert_frame (h : Hub) : ∃ above, h.tlmAlert.tlm = { h.tlm with above := above } ∧ h.tlmAlert.out = h.out := by
  unfold Hub.tlmAlert
  dsimp only
  split_ifs
  · exact ⟨_, rfl, rfl⟩
  · exact ⟨true, rfl, rfl⟩
  · exact ⟨false, rfl, rfl⟩
  · exact ⟨_, rfl, rfl⟩

theorem tlmAlert_raised (enabled : bit (h.rwGet 0x80000690 0xA0020 0) 31 = true) (below : h.tlm.above = false)
    (hot : signed16 (h.rwGet 0x80000690 0xA0020 0) ≤ signed16 h.tlm.topTemp) : h.tlmAlert.tlm.above = true ∧ bit h.tlmAlert.irq.status 13 = true := by
  have eq : h.tlmAlert = ({ h with tlm := { h.tlm with above := true } } : Hub).irqRaise 13 := by
    unfold Hub.tlmAlert
    dsimp only
    rw [if_neg (by rw [enabled]; decide), if_pos (by rw [below, decide_eq_true hot]; rfl)]
  rw [eq]
  exact ⟨rfl, irqRaise_status _ 13⟩

end Alert

theorem locate_tlmQuery : locate 0xA0000 = some (.acting true .tlmQuery 0xA0000 .any .any) := by decide +kernel

/-- A query command whose effect on the master's query is `f`. -/
theorem yields_query {s : State} {m : Master} {c : Instr} {kind i w : Nat} {f : Query → Query}
    (x : exec c s = run c (fun mem h => h.busWrite mem m 0xA0000 4 (goWord kind 24 i)) s) (word : goWord kind 24 i = w) (small : w < 2 ^ 32)
    (live : s.hub.live = true) (reach : s.hub.reaches m = true)
    (effect : ∀ t r, ({ s.hub.placed t with er := r } : Hub).tlmQuery m (goWord kind 24 i) = ({ s.hub.placed t with er := r } : Hub).updQuery m f) :
    Yields c s fun h0 t => t = wrote s m 0xA0000 w (h0.updQuery m f) := by
  have may : s.hub.mayWrite m (.acting true .tlmQuery 0xA0000 .any .any) (goWord kind 24 i) = true := by
    cases m with
    | loader => exact absurd reach Bool.false_ne_true
    | host | span | pair => rfl
  subst word
  exact yields_act x live reach locate_tlmQuery rfl (by decide) rfl small may effect fun t => rfl

section Index

variable {m : Master} {i : Nat} (low : i < 256) (s : State)
include low

theorem exec_tlmThermalQuery :
    exec (.tlmThermalQuery m i) s = run (.tlmThermalQuery m i) (fun mem h => h.busWrite mem m 0xA0000 4 (goWord 0 24 i)) s := by
  rw [show exec (.tlmThermalQuery m i) s = execTlmThermalQuery m i s from rfl, execTlmThermalQuery, Nat.mod_eq_of_lt low]

theorem exec_tlmClockQuery :
    exec (.tlmClockQuery m i) s = run (.tlmClockQuery m i) (fun mem h => h.busWrite mem m 0xA0000 4 (goWord 1 24 i)) s := by
  rw [show exec (.tlmClockQuery m i) s = execTlmClockQuery m i s from rfl, execTlmClockQuery, Nat.mod_eq_of_lt low]

theorem exec_tlmPowerQuery :
    exec (.tlmPowerQuery m i) s = run (.tlmPowerQuery m i) (fun mem h => h.busWrite mem m 0xA0000 4 (goWord 2 24 i)) s := by
  rw [show exec (.tlmPowerQuery m i) s = execTlmPowerQuery m i s from rfl, execTlmPowerQuery, Nat.mod_eq_of_lt low]

end Index

/-- Settles O45: queries by what refuses or serves them, a refresh by what each reading leaves. -/
theorem telemetry : Obligations.Telemetry := by
  intro s m live
  refine ⟨fun reach role idle steady => ?_, fun i host reach none_ low idle steady => ?_, fun i reach high low idle steady => ?_, fun i reach low busy => ?_,
    fun i busy first kind index up sound => ?_, fun i busy first kind index low => ?_, fun busy first kind down => ?_,
    fun l released clocked noc => ?_⟩
  · have free {kind i : Nat} (known : kind < 4) (few : i < queryTop kind) : s.hub.queryRefused m kind i = stOk := by
      rw [queryRefused_eq known, if_neg fun denied => role denied.1 denied.2.1, if_neg (Nat.not_le.mpr few)]
    refine ⟨fun i few => ?_, fun i few => ?_, fun i few => ?_, ?_⟩
    · have low : i < 256 := by omega
      exact yields_query (exec_tlmThermalQuery low s) ((goWord_query 0 i).trans (by omega)) (by omega) live reach
        fun t r => tlmQuery_taken (h := { s.hub.placed t with er := r }) (by decide) low idle steady (free (by decide) few)
    · have low : i < 256 := by omega
      exact yields_query (exec_tlmClockQuery low s) ((goWord_query 1 i).trans (by omega)) (by omega) live reach
        fun t r => tlmQuery_taken (h := { s.hub.placed t with er := r }) (by decide) low idle steady (free (by decide) few)
    · have low : i < 256 := by omega
      exact yields_query (exec_tlmPowerQuery low s) ((goWord_query 2 i).trans (by omega)) (by omega) live reach
        fun t r => tlmQuery_taken (h := { s.hub.placed t with er := r }) (by decide) low idle steady (free (by decide) few)
    · exact yields_query rfl (goWord_query 3 0) (by decide) live reach
        fun t r => tlmQuery_taken (h := { s.hub.placed t with er := r }) (by decide) (by decide) idle steady (free (by decide) (by decide))
  · have denied : s.hub.queryRefused m 0 i = stDenied := by
      rw [queryRefused_eq (by decide), if_pos ⟨host, none_, .inl rfl⟩]
    exact yields_query (exec_tlmThermalQuery low s) ((goWord_query 0 i).trans (by omega)) (by omega) live reach
      fun t r => tlmQuery_refused (h := { s.hub.placed t with er := r }) (by decide) low idle steady denied (by decide)
  · have beyond : s.hub.queryRefused m 1 i = stTlmIndex := by
      rw [queryRefused_eq (by decide), if_neg (by simp), if_pos (show queryTop 1 ≤ i from high)]
    exact yields_query (exec_tlmClockQuery low s) ((goWord_query 1 i).trans (by omega)) (by omega) live reach
      fun t r => tlmQuery_refused (h := { s.hub.placed t with er := r }) (by decide) low idle steady beyond (by decide)
  · exact yields_query (exec_tlmPowerQuery low s) ((goWord_query 2 i).trans (by omega)) (by omega) live reach
      fun t r => tlmQuery_busy (h := { s.hub.placed t with er := r }) (by decide) low busy
  · have result := (congrArg₂ s.hub.queryResult kind index).trans (queryResult_sensor up sound)
    exact yields_of_eq rfl live (fun t => tlmComplete_eq (h := s.hub.placed t) busy first result) fun t => rfl
  · have result := (congrArg₂ s.hub.queryResult kind index).trans (queryResult_clock s.hub i)
    exact yields_of_eq rfl live (fun t => tlmComplete_eq (h := s.hub.placed t) busy first result) fun t => rfl
  · have result := queryResult_noSource (s.hub.getQuery m).index kind down
    exact yields_of_eq rfl live (fun t => tlmComplete_eq (h := s.hub.placed t) busy first result) fun t => rfl
  · refine yields_of_eq rfl live (fun t => tlmRefresh_eq (h := s.hub.placed t) l released clocked noc) fun t => ?_
    obtain ⟨sensors, faults, domains, highest⟩ := refreshedTlm_readings s.hub l
    obtain ⟨above, frame, out⟩ := tlmAlert_frame { s.hub.placed t with tlm := s.hub.refreshedTlm l }
    have raised := tlmAlert_raised (h := { s.hub.placed t with tlm := s.hub.refreshedTlm l })
    have landed := lands_of_out s out rfl
    refine ⟨fun k v reading sensor sound => ?_, fun k v reading sensor bad => ?_, fun k v reading domain => ?_, fun k sensor sound => ?_, ?_, ?_,
      fun enabled below hot => raised enabled ((refreshedTlm_above s.hub l).trans below) ?_, landed⟩
    · exact frame.symm ▸ sensors k v reading sensor sound
    · exact frame.symm ▸ faults k v reading sensor bad
    · exact frame.symm ▸ domains k v reading domain
    · have kept := highest k sensor ((congrArg (fun x : Tlm => x.faulty.contains k) frame).symm.trans sound)
      exact frame.symm ▸ kept
    · exact congrArg Tlm.refreshed frame
    · exact congrArg Tlm.refreshTick frame
    · exact (congrArg Tlm.topTemp frame : _) ▸ hot

end Sys2Proof.Machine
end

section
/-!
O46: the scrubber's read of a word and what an uncorrected error costs each store (R500 to R503, R516, Table 18.1).
-/
namespace Sys2Proof.Machine

section Scrub

variable {h : Hub} {store st w n : Nat}

/-- An uncorrected error is latched with its place and counted. -/
def Hub.eccLatched (h : Hub) (store w : Nat) : Hub :=
  Hub.rcAdd { h with ecc := { h.ecc with valid := true, store := store, station := 0x7FF, word := w } } (0x300 + 4 * store) 0 0 65535 1

theorem scrubRead_corrected (known : store < 8) (inside : w < storeWords store st) :
    h.scrubRead store st w 1 = h.rcAdd (0x300 + 4 * store) 0 16 65535 1 :=
  (if_neg (by simp only [not_or, not_le]; exact ⟨known, inside, Nat.one_ne_zero⟩)).trans (if_pos rfl)

theorem scrubRead_clean (h : Hub) (store st w : Nat) : h.scrubRead store st w 0 = h := if_pos (.inr (.inr rfl))

/-- More than one error in a store of the hub core. -/
theorem scrubRead_uncorrected (several : 2 ≤ n) (known : store < 8) (core : store ≠ 5 ∧ store ≠ 6) (inside : w < storeWords store st) :
    h.scrubRead store st w n = ((h.eccLatched store w).eccEffect store st w).fwReport (0x1800 + store) := by
  have place : (if store = 5 ∨ store = 6 then st else 0x7FF) = 0x7FF := if_neg (not_or.mpr core)
  unfold Hub.scrubRead
  rw [if_neg (by simp only [not_or, not_le]; exact ⟨known, inside, by omega⟩), if_neg (by omega), place]
  rfl

/-- Firmware that does not run reports later. -/
theorem fwReport_later (code : Nat) (down : h.fwRuns = false) : h.fwReport code = { h with fwDue := h.fwDue ++ [code] } :=
  if_neg (by rw [down]; decide)

theorem eccRecord_marked (used : SMap.get [] h.er.store (w / 64) ≠ []) (sound : h.er.bad.contains (w / 64) = false) :
    h.eccRecord w = { h with er := { h.er with bad := h.er.bad ++ [w / 64] } } :=
  if_neg (by rw [sound, Bool.or_false, List.isEmpty_iff]; exact used)

theorem eccFirkin_marked (sound : h.ecc.firkinBad.contains w = false) :
    h.eccFirkin w = { h with ecc := { h.ecc with firkinBad := h.ecc.firkinBad ++ [w] } } :=
  if_neg (by rw [sound]; decide)

theorem eccAtt_marked {k : Nat} {x : AttEntry} (entry : h.cnt.att[w / 8]? = some (k, x)) :
    h.eccAtt w = { h with cnt := { h.cnt with att := SMap.upd {} h.cnt.att k fun x => { x with bad := true } } } := by
  unfold Hub.eccAtt
  rw [entry]

theorem onlyKeys_updKeys (h : Hub) (k : Nat) (f : SliceKeys → SliceKeys) : onlyKeys k (f (h.getKeys k)) h (h.updKeys k f) :=
  ⟨SMap.get_upd_self _ _ _ _, fun _ other => SMap.get_upd_ne _ _ _ other⟩

theorem onlyKeys_trans {k : Nat} {x y : SliceKeys} {h g f : Hub} (a : onlyKeys k x h g) (b : onlyKeys k y g f) : onlyKeys k y h f :=
  ⟨b.1, fun j other => (b.2 j other).trans (a.2 j other)⟩

section Words

variable (h : Hub) {k : Nat} (low : k < 64)
include low

theorem eccSec_key : h.eccSec k = h.eccKey k := by
  have kind : k / 64 = 0 := Nat.div_eq_of_lt low
  have slice : k % 64 = k := Nat.mod_eq_of_lt low
  rw [Hub.eccSec, kind, slice]
  rfl

theorem eccSec_token : h.eccSec (128 + k) = h.updKeys k fun x => { x with token := [] } := by
  have kind : (128 + k) / 64 = 2 := by omega
  have slice : (128 + k) % 64 = k := by omega
  rw [Hub.eccSec, kind, slice]
  rfl

theorem eccSec_entry : h.eccSec (192 + k) = h.eccEntry k := by
  have kind : (192 + k) / 64 = 3 := by omega
  have slice : (192 + k) % 64 = k := by omega
  rw [Hub.eccSec, kind, slice]
  rfl

end Words

/-- A doorbell code in error is gone and counts as lost. -/
theorem eccOther_doorbell {c : Nat} {q : List Nat} (fifo : h.db.fifo = c :: q) :
    h.eccOther 96 = Hub.rcAdd { h with db := { h.db with fifo := q } } 0x214 0 16 65535 1 := by
  unfold Hub.eccOther
  rw [fifo]
  rfl

/-- The registers of a damaged slice-table entry are dirty where their shadow differs. -/
theorem eccEntry_rws (h : Hub) (k d o : Nat) :
    (h.eccEntry k).rwsGet d o =
      if (entryOffs k).contains o && (h.rwsGet d o).st == .clean && (h.rwsGet d o).shadow != (h.rwsGet d o).active then { h.rwsGet d o with st := .dirty }
      else h.rwsGet d o :=
  SMap.get_map (Rws.atReset d) h.rws
    (fun o r => if (entryOffs k).contains o && r.st == .clean && r.shadow != r.active then { r with st := .dirty } else r) o
    (if_neg (by simp [Rws.atReset]))

end Scrub

/-! ## A dump key none of whose copies verifies -/

section Key

variable {h : Hub} {k : Nat}

/-- The bytes of the next draw of 32, `n` draws of a byte ahead. -/
def Hub.drawn (h : Hub) (n : Nat) : List Byte := (List.range 32).map fun i => Config.drbg (h.sec.drbg + n + i)

/-- The hub with slice `k` under a drawn key. -/
def Hub.rekeyed (h : Hub) (k : Nat) : Hub :=
  (h.draw 32).2.updKeys k fun x => { x with cur := h.deriveKeys k x.cur.gen (h.drawn 0) x.cur.epub x.cur.keyId }

theorem eccKey_eq (pos : 0 < k) (exist : h.sliceExists k = true) : h.eccKey k = (h.rekeyed k).markRekey k :=
  if_neg (by simp [Nat.pos_iff_ne_zero.mp pos, exist])

theorem getKeys_rekeyed (h : Hub) (k : Nat) :
    (h.rekeyed k).getKeys k = { h.getKeys k with
      cur := h.deriveKeys k (h.getKeys k).cur.gen (h.drawn 0) (h.getKeys k).cur.epub (h.getKeys k).cur.keyId } :=
  (onlyKeys_updKeys (h.draw 32).2 k fun x => { x with cur := h.deriveKeys k x.cur.gen (h.drawn 0) x.cur.epub x.cur.keyId }).1

/-- A slice without an owner takes generation 0 of a drawn key next. -/
theorem markRekey_ownerless (pos : 0 < k) (fresh : (h.getKeys k).rekey = false) (nobody : (h.getKeys k).owner = []) :
    h.markRekey k = (h.draw 32).2.updKeys k fun x =>
      { x with rekey := true, next := some (h.deriveKeys k 0 (h.drawn 0) [] 0xFFFFFFFFFFFFFFFF) } := by
  have notZero : k ≠ 0 := Nat.pos_iff_ne_zero.mp pos
  unfold Hub.markRekey Hub.genZero
  simp only [fresh, nobody, List.isEmpty_nil, notZero, if_true, if_false, Bool.false_eq_true]
  rfl

/-- The hub with slice `k` under a drawn key and marked for a rekey by another. -/
def Hub.rekeyedTwice (h : Hub) (k : Nat) : Hub :=
  ((h.rekeyed k).draw 32).2.updKeys k fun x => { x with
    rekey := true, next := some ((h.rekeyed k).deriveKeys k 0 ((h.rekeyed k).drawn 0) [] 0xFFFFFFFFFFFFFFFF) }

theorem eccKey_ownerless (pos : 0 < k) (exist : h.sliceExists k = true) (fresh : (h.getKeys k).rekey = false) (nobody : (h.getKeys k).owner = []) :
    h.eccKey k = h.rekeyedTwice k := by
  rw [eccKey_eq pos exist]
  refine markRekey_ownerless pos ?_ ?_
  · rw [getKeys_rekeyed]
    exact fresh
  · rw [getKeys_rekeyed]
    exact nobody

theorem rekeyedTwice_keys (h : Hub) (k : Nat) :
    onlyKeys k { h.getKeys k with
      rekey := true, cur := h.deriveKeys k (h.getKeys k).cur.gen (h.drawn 0) (h.getKeys k).cur.epub (h.getKeys k).cur.keyId,
      next := some (h.deriveKeys k 0 (h.drawn 32) [] 0xFFFFFFFFFFFFFFFF) } h (h.rekeyedTwice k) := by
  have first : onlyKeys k _ h (h.rekeyed k) := onlyKeys_updKeys (h.draw 32).2 k _
  have second := onlyKeys_updKeys ((h.rekeyed k).draw 32).2 k fun x => { x with
    rekey := true, next := some ((h.rekeyed k).deriveKeys k 0 ((h.rekeyed k).drawn 0) [] 0xFFFFFFFFFFFFFFFF) }
  have keys : ((h.rekeyed k).draw 32).2.getKeys k = _ := getKeys_rekeyed h k
  rw [keys] at second
  exact onlyKeys_trans first second

theorem rekeyedTwice_frame (h : Hub) (k : Nat) :
    h.rekeyedTwice k = { h with
      slc := { h.slc with keys := (h.rekeyedTwice k).slc.keys }, sec := { h.sec with drbg := h.sec.drbg + 64 } } := rfl

theorem deriveKeys_latched (h : Hub) (t : SMap Nat) (store w : Nat) : ((h.placed t).eccLatched store w).deriveKeys = h.deriveKeys := rfl

end Key

/-- An uncorrected error while firmware does not run: what the store loses, and the report that waits. -/
theorem yields_scrub {s : State} {store st w n : Nat} {g : SMap Nat → Hub} {P : Hub → State → Prop} (live : s.hub.live = true)
    (down : s.hub.fwRuns = false) (several : 2 ≤ n) (known : store < 8) (core : store ≠ 5 ∧ store ≠ 6) (inside : w < storeWords store st)
    (effect : ∀ t, ((s.hub.placed t).eccLatched store w).eccEffect store st w = g t) (runs : ∀ t, (g t).fwRuns = s.hub.fwRuns)
    (p : ∀ t, P (s.hub.placed t) (lands s { g t with fwDue := (g t).fwDue ++ [0x1800 + store] })) : Yields (.scrubRead store st w n) s P :=
  yields_of_eq rfl live (fun t => (scrubRead_uncorrected (h := s.hub.placed t) several known core inside).trans
    ((congrArg (fun g : Hub => g.fwReport (0x1800 + store)) (effect t)).trans (fwReport_later _ ((runs t).trans down)))) p

/-- Settles O46: each store by what it loses, then the report of firmware, which runs or does not. -/
theorem storageErrors : Obligations.StorageErrors := by
  intro s live
  refine ⟨fun store st w known inside => ⟨?_, ?_⟩, fun w n several inside down used sound => ?_, fun w n several inside up sound => ?_,
    fun w n k x several inside down entry => ?_, fun k n several low down => ?_, fun k n several down pos low exist fresh nobody => ?_,
    fun c n q several down fifo => ?_, fun k n several low down => ?_⟩
  · exact yields_of_eq rfl live (fun t => scrubRead_corrected (h := s.hub.placed t) known inside) fun t => rfl
  · exact yields_of_eq rfl live (fun t => scrubRead_clean (s.hub.placed t) store st w) fun t => rfl
  · exact yields_scrub live down several (by decide) (by decide) inside
      (fun t => eccRecord_marked (h := (s.hub.placed t).eccLatched 1 w) used sound) (fun t => rfl) fun t => rfl
  · refine yields_of_eq rfl live (fun t => (scrubRead_uncorrected (h := s.hub.placed t) several (by decide) (by decide) inside).trans
      (congrArg (fun g : Hub => g.fwReport 0x1802) (eccFirkin_marked (h := (s.hub.placed t).eccLatched 2 w) sound))) fun t => ?_
    exact congrArg (lands s) (if_pos up)
  · refine yields_scrub live down several (by decide) (by decide) inside
      (fun t => eccAtt_marked (h := (s.hub.placed t).eccLatched 3 w) entry) (fun t => rfl) fun t => ⟨?_, ?_, rfl⟩
    · exact SMap.get_upd_self {} s.hub.cnt.att k fun x => { x with bad := true }
    · exact fun j other => SMap.get_upd_ne {} s.hub.cnt.att (fun x => { x with bad := true }) other
  · have word : 128 + k < storeWords 4 0 := show 128 + k < 256 by omega
    exact yields_scrub live down several (by decide) (by decide) word (fun t => eccSec_token _ low) (fun t => rfl)
      fun t => ⟨onlyKeys_updKeys s.hub k _, rfl⟩
  · have word : k < storeWords 4 0 := Nat.lt_trans low (by decide)
    exact yields_scrub live down several (by decide) (by decide) word
      (fun t => (eccSec_key _ low).trans (eccKey_ownerless (h := (s.hub.placed t).eccLatched 4 k) pos exist fresh nobody)) (fun t => rfl) fun t => by
        have keys := rekeyedTwice_keys ((s.hub.placed t).eccLatched 4 k) k
        have frame := rekeyedTwice_frame ((s.hub.placed t).eccLatched 4 k) k
        rw [deriveKeys_latched] at keys
        generalize Hub.rekeyedTwice _ k = g at keys frame ⊢
        refine ⟨keys, ?_⟩
        rw [frame]
        rfl
  · exact yields_scrub live down several (by decide) (by decide) (by decide)
      (fun t => eccOther_doorbell (h := (s.hub.placed t).eccLatched 7 96) fifo) (fun t => rfl) fun t => rfl
  · have word : 192 + k < storeWords 4 0 := show 192 + k < 256 by omega
    exact yields_scrub live down several (by decide) (by decide) word (fun t => eccSec_entry _ low) (fun t => rfl)
      fun t => ⟨fun d o => eccEntry_rws s.hub k d o, rfl⟩

end Sys2Proof.Machine
end

section
/-!
O56 and O58: the command frames of the Span port (R460, R462, R463, R468, R469) and its TAP mode (R471 to R473).
-/
namespace Sys2Proof.Machine

/-! ## Frames -/

section Frames

variable {h : Hub} {f : List Byte}

/-- Commands wait at the front of which nothing is answered in its place. -/
theorem spanFlush_quiet (front : ∀ c, h.span.held.head? = some c → c.refuse = 0) : h.spanFlush = h := by
  have nobody : h.span.held.takeWhile (fun c => c.refuse != 0) = [] := by
    cases held : h.span.held with
    | nil => rfl
    | cons c q => rw [List.takeWhile_cons_of_neg (by simp [front c (by rw [held]; rfl)])]
  unfold Hub.spanFlush
  rw [nobody]
  rfl

/-- The one command held is answered in its place, with a status that SPN_ERR.cmd does not count. -/
theorem spanFlush_one {c : SpanCmd} (held : h.span.held = [c]) (refused : c.refuse ≠ 0) (plain : ¬ (c.refuse = stSpnCmd ∨ c.refuse = stSpnRange)) :
    h.spanFlush = { h with span := { h.span with
      held := [], sent := h.span.sent ++ [reply h c 0 c.refuse []], status := c.refuse } } := by
  have all_ : [c].takeWhile (fun c => c.refuse != 0) = [c] := by simp [refused]
  unfold Hub.spanFlush
  rw [held, all_]
  dsimp only [List.foldl_cons, List.foldl_nil, List.length_singleton]
  rw [Hub.spanAnswer, if_neg plain]
  simp only [Hub.spanFrame, held]
  rfl

theorem spanReceive_ignored (shut : h.span.tap = true ∨ h.span.mode = true ∨ h.span.resync = true) : h.spanReceive f = h :=
  if_pos (by simpa [or_assoc] using shut)

section Open

variable (frames : h.span.tap = false) (noMode : h.span.mode = false) (synced : h.span.resync = false)
include frames noMode synced

theorem spanReceive_badHeader (bad : ¬ headerOk f) :
    h.spanReceive f = ({ h with span := { h.span with resync := true } } : Hub).rcAdd 0x90014 0 24 255 1 := by
  unfold Hub.spanReceive
  rw [if_neg (by simp [frames, noMode, synced]), if_pos]
  unfold headerOk at bad
  omega

theorem spanReceive_accept (header : headerOk f) (payload : payloadOk f) :
    h.spanReceive f = h.spanAccept (leAt f 1 1) (leAt f 2 1) (slice f 8 (leAt f 4 2)) := by
  obtain ⟨long, sync, crc, size, zero⟩ := header
  unfold Hub.spanReceive
  dsimp only
  rw [if_neg (by simp [frames, noMode, synced]), if_neg (by omega)]
  by_cases empty : leAt f 4 2 = 0
  · rw [if_neg (by rw [if_pos empty]; omega), if_neg (by omega)]
  · obtain ⟨whole, sound⟩ := payload.resolve_left empty
    rw [if_neg (by rw [if_neg empty]; omega), if_neg (by omega)]

/-- The hub that holds the answer ST_SPN_CRC for a frame whose payload is missing or wrong. -/
def Hub.spanBadPayload (h : Hub) (f : List Byte) : Hub :=
  Hub.rcAdd { h with span := { h.span with held := h.span.held ++ [SpanCmd.mk (leAt f 1 1) (leAt f 2 1) [] stSpnCrc] } } 0x90014 0
    (if 8 + leAt f 4 2 + 2 ≤ f.length then 16 else 8) 255 1

theorem spanReceive_badPayload (header : headerOk f) (payload : ¬ payloadOk f) : h.spanReceive f = (h.spanBadPayload f).spanFlush := by
  obtain ⟨long, sync, crc, size, zero⟩ := header
  obtain ⟨some_, bad⟩ := not_or.mp payload
  unfold Hub.spanReceive Hub.spanBadPayload
  dsimp only
  rw [if_neg (by simp [frames, noMode, synced]), if_neg (by omega), if_neg some_]
  by_cases whole : 8 + leAt f 4 2 + 2 ≤ f.length
  · rw [if_neg (by omega), if_pos ⟨some_, fun sound => bad ⟨whole, sound⟩⟩, if_pos whole]
  · rw [if_pos (by omega), if_neg whole]

end Open

/-- A sound frame is held, behind commands that are not answered in their place. -/
theorem spanHold_quiet {c d : SpanCmd} {q : List SpanCmd} (mode : Bool) (held : h.span.held = d :: q) (front : d.refuse = 0) :
    ({ h with span := { h.span with held := h.span.held ++ [c], mode := mode } } : Hub).spanFlush =
      { h with span := { h.span with held := h.span.held ++ [c], mode := mode } } :=
  spanFlush_quiet fun x head => by
    rw [held] at head
    cases head
    exact front

theorem spanBadPayload_answered (empty : h.span.held = []) :
    (h.spanBadPayload f).spanFlush = { h.spanBadPayload f with span := { h.span with
      held := [], sent := h.span.sent ++ [reply h ⟨leAt f 1 1, leAt f 2 1, [], 0⟩ 0 stSpnCrc []], status := stSpnCrc } } := by
  have held : (h.spanBadPayload f).span.held = [⟨leAt f 1 1, leAt f 2 1, [], stSpnCrc⟩] := by
    rw [Hub.spanBadPayload, rcAdd_frame]
    exact congrArg (· ++ [_]) empty
  have span : (h.spanBadPayload f).span = { h.span with held := h.span.held ++ [⟨leAt f 1 1, leAt f 2 1, [], stSpnCrc⟩] } := by
    rw [Hub.spanBadPayload, rcAdd_frame]
  rw [spanFlush_one held (show stSpnCrc ≠ 0 by decide) (show ¬ (stSpnCrc = stSpnCmd ∨ stSpnCrc = stSpnRange) by decide), span]
  rfl

theorem spanBadPayload_held {c : SpanCmd} {q : List SpanCmd} (held : h.span.held = c :: q) (front : c.refuse = 0) :
    (h.spanBadPayload f).spanFlush = h.spanBadPayload f :=
  spanFlush_quiet fun x head => by
    have held' : (h.spanBadPayload f).span.held = c :: (q ++ [⟨leAt f 1 1, leAt f 2 1, [], stSpnCrc⟩]) := by
      rw [Hub.spanBadPayload, rcAdd_frame]
      exact congrArg (· ++ [_]) held
    rw [held'] at head
    cases head
    exact front

section Accept

variable {cmd tag : Nat} {p : List Byte}

theorem spanAccept_length {d : SpanCmd} {q : List SpanCmd} (wrong : spanLenOk cmd p = false) (held : h.span.held = d :: q) (front : d.refuse = 0) :
    h.spanAccept cmd tag p = { h with span := { h.span with held := h.span.held ++ [⟨cmd, tag, p, stSpnCmd⟩] } } := by
  have noMode : (h.span.mode || (cmd == 6 && stSpnCmd == 0)) = h.span.mode := by
    rw [show (stSpnCmd == 0) = false from rfl, Bool.and_false, Bool.or_false]
  unfold Hub.spanAccept
  dsimp only
  rw [if_pos (by rw [wrong]; rfl), noMode]
  exact spanHold_quiet _ held front

theorem spanAccept_abort (right : spanLenOk 5 p = true) :
    h.spanAccept 5 tag p = { h with span := { h.span with abort := some tag } } := by
  unfold Hub.spanAccept
  rw [if_neg (by rw [right]; decide)]
  rfl

variable (right : spanLenOk cmd p = true) (other : cmd ≠ 5) (front : ∀ c, h.span.held.head? = some c → c.refuse = 0)
include right other front

theorem spanAccept_held (noMode : h.span.mode = false) (room : (h.span.held.filter fun c => c.refuse == 0).length < 4) :
    h.spanAccept cmd tag p = { h with span := { h.span with held := h.span.held ++ [⟨cmd, tag, p, 0⟩], mode := decide (cmd = 6) } } := by
  have mode : (h.span.mode || (cmd == 6 && (0 : Nat) == 0)) = decide (cmd = 6) := by
    rw [noMode]
    simp [Bool.beq_eq_decide_eq]
  unfold Hub.spanAccept
  dsimp only
  rw [if_neg (by rw [right]; decide), if_neg other, if_neg (Nat.not_le.mpr room), mode]
  refine spanFlush_quiet fun c head => ?_
  cases held : h.span.held with
  | nil =>
    rw [held] at head
    cases head
    rfl
  | cons d q =>
    rw [held] at head
    cases head
    exact front c (by rw [held]; rfl)

theorem spanAccept_full (full : 4 ≤ (h.span.held.filter fun c => c.refuse == 0).length) :
    h.spanAccept cmd tag p = { h with span := { h.span with held := h.span.held ++ [⟨cmd, tag, p, stBusy⟩] } } := by
  have noMode : (h.span.mode || (cmd == 6 && stBusy == 0)) = h.span.mode := by
    rw [show (stBusy == 0) = false from rfl, Bool.and_false, Bool.or_false]
  unfold Hub.spanAccept
  dsimp only
  rw [if_neg (by rw [right]; decide), if_neg other, if_pos full, noMode]
  cases held : h.span.held with
  | nil =>
    rw [held] at full
    exact absurd full (by decide)
  | cons d q =>
    rw [← held]
    exact spanHold_quiet _ held (front d (by rw [held]; rfl))

end Accept

end Frames

/-- Settles O56: a frame by the first check that it fails, or by the place that it finds. -/
theorem spanFrames : Obligations.SpanFrames := by
  intro s f p cmd tag live isCmd isTag isBody
  subst isCmd isTag isBody
  refine ⟨fun shut => ?_, fun resync => ?_, fun frames noMode synced => ⟨fun bad => ?_, fun header payload held => ?_, fun c q header payload held front => ?_,
    fun c q header payload wrong held front => ?_, fun header payload right other front room => ?_, fun header payload right other front full => ?_,
    fun header empty abort => ?_⟩⟩
  · exact yields_of_eq rfl live (fun t => spanReceive_ignored (h := s.hub.placed t) shut) fun t => rfl
  · exact yields_run rfl live fun t => rfl
  · exact yields_of_eq rfl live (fun t => spanReceive_badHeader (h := s.hub.placed t) frames noMode synced bad) fun t => rfl
  · refine yields_of_eq rfl live (fun t => (spanReceive_badPayload (h := s.hub.placed t) frames noMode synced header payload).trans
      (spanBadPayload_answered held)) fun t => ?_
    rw [← held]
    rfl
  · exact yields_of_eq rfl live (fun t => (spanReceive_badPayload (h := s.hub.placed t) frames noMode synced header payload).trans
      (spanBadPayload_held held front)) fun t => rfl
  · exact yields_of_eq rfl live (fun t => (spanReceive_accept (h := s.hub.placed t) frames noMode synced header payload).trans
      (spanAccept_length wrong held front)) fun t => rfl
  · exact yields_of_eq rfl live (fun t => (spanReceive_accept (h := s.hub.placed t) frames noMode synced header payload).trans
      (spanAccept_held right other front noMode room)) fun t => rfl
  · exact yields_of_eq rfl live (fun t => (spanReceive_accept (h := s.hub.placed t) frames noMode synced header payload).trans
      (spanAccept_full right other front full)) fun t => rfl
  · have noBody : slice f 8 (leAt f 4 2) = [] := by rw [empty]; rfl
    have accepted (t : SMap Nat) := spanReceive_accept (h := s.hub.placed t) frames noMode synced header (.inl empty)
    rw [abort, noBody] at accepted
    exact yields_of_eq rfl live (fun t => (accepted t).trans (spanAccept_abort rfl)) fun t => rfl

/-! ## TAP mode -/

section Tap

variable {h : Hub}

theorem tapDo_on (tap : h.span.tap = true) (ir : Nat) (f : Span → Span) : h.tapDo ir f = { h with span := { f h.span with ir := ir } } := if_pos tap

theorem tapDo_off (frames : h.span.tap = false) (ir : Nat) (f : Span → Span) : h.tapDo ir f = h := if_neg (by rw [frames]; decide)

/-- The fields of REGACC that are reserved: bits 63 to 58, and the low two bits of the offset. -/
theorem regacc_reserved {dr : Nat} (low : dr < 2 ^ 64) :
    field (dr % 2 ^ 64) 63 58 ≠ 0 ∨ field (dr % 2 ^ 64) 56 32 % 4 ≠ 0 ↔ 2 ^ 58 ≤ dr ∨ dr / 2 ^ 32 % 4 ≠ 0 := by
  rw [Nat.mod_eq_of_lt low, field, field, Nat.shiftRight_eq_div_pow, Nat.shiftRight_eq_div_pow]
  omega

theorem regacc_busy {x : Span} {dr : Nat} (low : dr < 2 ^ 64) (runs : x.acc ≠ none) : x.regacc dr = { x with dr := dr } := by
  unfold Span.regacc
  rw [if_pos (Option.isSome_iff_ne_none.mpr runs), Nat.mod_eq_of_lt low]

theorem regacc_range {x : Span} {dr : Nat} (low : dr < 2 ^ 64) (idle : x.acc = none) (bad : 2 ^ 58 ≤ dr ∨ dr / 2 ^ 32 % 4 ≠ 0) :
    x.regacc dr = { x with dr := dr, tapStatus := stSpnRange } := by
  unfold Span.regacc
  dsimp only
  rw [if_neg (by simp [idle]), if_pos ((regacc_reserved low).mpr bad), Nat.mod_eq_of_lt low]

theorem regacc_starts {x : Span} {dr : Nat} (low : dr < 2 ^ 64) (idle : x.acc = none) (small : dr < 2 ^ 58) (aligned : dr / 2 ^ 32 % 4 = 0) :
    x.regacc dr = { x with dr := dr, acc := some dr } := by
  have sound : ¬ (2 ^ 58 ≤ dr ∨ dr / 2 ^ 32 % 4 ≠ 0) := by omega
  unfold Span.regacc
  dsimp only
  rw [if_neg (by simp [idle]), if_neg (mt (regacc_reserved low).mp sound), Nat.mod_eq_of_lt low]

theorem capture_word (x : Span) :
    x.capture = { x with dr := x.tapData + x.tapStatus * 2 ^ 32 + (if x.acc.isSome then 2 ^ 63 else 0) } := by
  have status : at_ x.tapStatus 32 = x.tapStatus * 2 ^ 32 := Nat.shiftLeft_eq _ 32
  have busy : at_ (b2n x.acc.isSome) 63 = if x.acc.isSome then 2 ^ 63 else 0 := by cases x.acc.isSome <;> rfl
  rw [Span.capture, status, busy]

end Tap

/-- A TAP command in TAP mode. -/
theorem yields_tap {s : State} {c : Instr} {ir : Nat} {f : Span → Span} {x : Span} (e : exec c s = run c (fun _ h => h.tapDo ir f) s)
    (live : s.hub.live = true) (tap : s.hub.span.tap = true) (effect : f s.hub.span = x) :
    Yields c s fun h0 t => t = { s with hub := { h0 with span := { x with ir := ir } } } :=
  effect ▸ yields_of_eq e live (fun t => tapDo_on (h := s.hub.placed t) tap ir f) fun _ => rfl

/-- A TAP command in frame mode. -/
theorem yields_noTap {s : State} {c : Instr} {ir : Nat} {f : Span → Span} (e : exec c s = run c (fun _ h => h.tapDo ir f) s)
    (live : s.hub.live = true) (frames : s.hub.span.tap = false) : Yields c s fun h0 t => t = { s with hub := h0 } :=
  yields_of_eq e live (fun t => tapDo_off (h := s.hub.placed t) frames ir f) fun _ => rfl

/-- Settles O58: each TAP command does its part of the port in TAP mode, and nothing in frame mode. -/
theorem tapAccess : Obligations.TapAccess := by
  intro s dr live
  refine ⟨fun tap => ⟨?_, ?_, ?_, ?_, ?_⟩, fun tap low => ⟨fun idle small aligned => ?_, fun idle bad => ?_, fun runs => ?_⟩, fun frames => ?_⟩
  · exact yields_tap (ir := 1) (f := fun x => { x with dr := idcode }) rfl live tap rfl
  · exact yields_tap (ir := 15) (f := fun x => { x with dr := 0 }) rfl live tap rfl
  · exact yields_tap (ir := 1) (f := id) rfl live tap rfl
  · exact yields_tap (ir := 9) (f := fun x => { x with dr := 0, tap := false }) rfl live tap rfl
  · exact yields_tap (f := Span.capture) rfl live tap (capture_word s.hub.span)
  · exact yields_tap (f := fun x => x.regacc dr) rfl live tap (regacc_starts low idle small aligned)
  · exact yields_tap (f := fun x => x.regacc dr) rfl live tap (regacc_range low idle bad)
  · exact yields_tap (f := fun x => x.regacc dr) rfl live tap (regacc_busy low runs)
  · simp only [List.forall_mem_cons]
    exact ⟨yields_noTap rfl live frames, yields_noTap rfl live frames, yields_noTap rfl live frames, yields_noTap rfl live frames,
      yields_noTap rfl live frames, yields_noTap rfl live frames, nofun⟩

end Sys2Proof.Machine
end

section
/-!
O57: a READ of the Firkin that is taken in the hub cycle in which the Firkin was written (R464, R496).
-/
namespace Sys2Proof.Machine

/-- READ of one word at 0x1000000, the first word of the Firkin. -/
def readFirstWord : SpanCmd := ⟨2, 9, leBytes 4 0x1000000 ++ leBytes 2 1 ++ [0, 0], 0⟩

/-- A hub out of reset whose Span port holds that READ, in a hub cycle in which the byte 1 has been written to the Firkin, which was empty before. -/
def wordJustWritten : State :=
  { State.reset with
    hub := { State.reset.hub with boot := { coldN := true, island := true }, span := { held := [readFirstWord] } },
    mem := { firkin := [(0, 1)], firkin0 := [] } }

/-- The frames that the port has sent in the state that a command leaves. -/
def sentBy (c : Instr) (s : State) : List (List Byte) :=
  match exec c s with
  | .next t => t.hub.span.sent
  | _ => []

/-- The READ answers the word as it was before the hub cycle (R496). -/
theorem sentBy_spanRead : sentBy .spanRead wordJustWritten = [reply wordJustWritten.hub readFirstWord 0 stOk (zeros 4)] := by decide +kernel

theorem reply_written_ne :
    reply wordJustWritten.hub readFirstWord 0 stOk (wordJustWritten.mem.firkinRead 0 4) ≠ reply wordJustWritten.hub readFirstWord 0 stOk (zeros 4) := by
  decide +kernel

/-- Refutes O57: a READ of the Firkin answers what the Firkin held before the hub cycle that runs, not what a command of this hub cycle wrote there. -/
theorem not_spanCommands : ¬ Obligations.SpanCommands := by
  intro h
  obtain ⟨port, -⟩ := h wordJustWritten readFirstWord [] rfl
  obtain ⟨-, read, -⟩ := port rfl rfl rfl rfl nofun
  obtain ⟨t, done, -, answered⟩ := read 0x1000000 rfl (by decide) (by decide) rfl (le_refl _) (by decide) (by decide +kernel)
  have sent : sentBy .spanRead wordJustWritten = [reply wordJustWritten.hub readFirstWord 0 stOk (wordJustWritten.mem.firkinRead 0 4)] := by
    rw [sentBy, done, answered]
    rfl
  have same := List.cons.inj (sent.symm.trans sentBy_spanRead)
  exact reply_written_ne same.1

end Sys2Proof.Machine
end

section
/-!
O59: requests to the hub's engines (R77, R134, R289, R310, R372 to R374, R396, R400, R476), and the write of a register pair as two words.
-/
namespace Sys2Proof.Machine

/-! ## A command that writes a register pair -/

/-- The event recorder after the two writes of a pair at `off` (R408). -/
def pairEr (h : Hub) (m : Master) (l : Loc) (off v : Nat) : Er :=
  let lo := if l.exempt (v % 2 ^ 32) then h.er else roleEr h m off (v % 2 ^ 32)
  if l.exempt (v / 2 ^ 32) then lo else roleEr { h with er := lo } m (off + 4) (v / 2 ^ 32)

/-- The _HI word of a register pair whose _LO word is `l`. -/
def Loc.upper (l : Loc) : Loc := { l with hi := true }

section Pair

variable {h : Hub} {m : Master} {off v : Nat} {l : Loc}

/-- The first write stages the low half, the second one writes the whole (R13). -/
theorem pairWrite_words (mem : Mem) (reach : h.reaches m = true) (e : locate off = some l) (e' : locate (off + 4) = some l.upper)
    (pair : l.row.pair = true) (lo : l.hi = false) (wr : l.writable = true) (low : off < 0xFFFFC) (base : l.base < 0x100000) (b : v < 2 ^ 64)
    (may : ∀ w, h.mayWrite m l w = true) :
    h.pairWrite mem m off v =
      (Hub.regWrite { h with stageLo := SMap.set 0 h.stageLo m.idx (v % 2 ^ 32), er := pairEr h m l off v } mem m l.upper v).respond m 0 false := by
  have quiet {o : Nat} (g : Hub) (below : o < 0x100000) : slotQuiet g o := fun slot => absurd below (Nat.not_lt.mpr slot)
  have top : v / 2 ^ 32 < 2 ^ 32 := by omega
  have whole : v / 2 ^ 32 * 2 ^ 32 + v % 2 ^ 32 = v := by omega
  rw [Hub.pairWrite, if_neg (by rw [reach]; exact Bool.noConfusion), Hub.write64,
    write32_lo h mem m off l (v % 2 ^ 32) e wr (may _) (lostSlot_low _ l base) (quiet h (by omega)) (by omega) pair lo, Nat.mod_eq_of_lt top]
  dsimp only
  rw [write32_hi
    { h with stageLo := SMap.set 0 h.stageLo m.idx (v % 2 ^ 32), er := if l.exempt (v % 2 ^ 32) then h.er else roleEr h m off (v % 2 ^ 32) } mem m (off + 4) l.upper (v / 2 ^ 32) e' wr (may _) (lostSlot_low _ l.upper base) (quiet _ (by omega)) top pair rfl]
  dsimp only
  rw [SMap.get_set_self, whole]
  rfl

/-- A command that is one write of a pair of words. -/
theorem yields_pair {s : State} {c : Instr} {P : Hub → State → Prop} {g : SMap Nat → Hub}
    (x : exec c s = run c (fun mem h => h.pairWrite mem m off v) s) (live : s.hub.live = true) (reach : s.hub.reaches m = true)
    (e : locate off = some l) (e' : locate (off + 4) = some l.upper) (pair : l.row.pair = true) (lo : l.hi = false) (wr : l.writable = true)
    (low : off < 0xFFFFC) (base : l.base < 0x100000) (b : v < 2 ^ 64) (may : ∀ w, s.hub.mayWrite m l w = true)
    (effect : ∀ t, Hub.regWrite { s.hub.placed t with stageLo := SMap.set 0 s.hub.stageLo m.idx (v % 2 ^ 32), er := pairEr s.hub m l off v }
      s.mem m l.upper v = g t)
    (p : ∀ t, P (s.hub.placed t) (lands s ((g t).respond m 0 false))) : Yields c s P := by
  refine yields_run x live fun t => ?_
  rw [pairWrite_words (h := s.hub.placed t) s.mem reach e e' pair lo wr low base b may]
  exact effect t ▸ p t

end Pair

/-! ## The scan, firmware's records and its message -/

theorem locate_hubScan : locate 0x110 = some (.acting false .hubScan 0x110 .glob .pair) := by decide +kernel
theorem locate_erFwCmd : locate 0x60028 = some (.acting false .erFwCmd 0x60028 .er .pair) := by decide +kernel
theorem locate_spnAttnSet : locate 0x9000C = some (.acting false .spnAttnSet 0x9000C .any .pair) := by decide +kernel
theorem locate_hubVerdict : locate 0x120 = some (.acting false .hubVerdict 0x120 .glob .none) := by decide +kernel

/-- The image of a record of firmware: its buffer (R400). -/
def Er.fwImage (e : Er) : List Byte := (List.range 128).flatMap fun i => leBytes 4 (SMap.get 0 e.fwBuf i)

/-- The records of firmware that wait or are being built. -/
def Er.fwWaiting (e : Er) : Nat := ((e.sysq ++ e.builds.map (·.req)).filter fun r => !r.image.isEmpty).length

section Effects

variable (h : Hub)

theorem scanGo_starts (idle : h.hang.scan = none) : h.scanGo = { h with hang := { h.hang with scan := some 0, overNow := 0 } } := by
  rw [Hub.scanGo, idle]
  rfl

theorem scanGo_overruns (busy : h.hang.scan ≠ none) : h.scanGo = h.rcSet 0x114 0 30 := if_pos (Option.isSome_iff_ne_none.mpr busy)

/-- The fields of the word of firmware's record command. -/
theorem fwWord {cls code : Nat} (few : cls < 16) (low : code < 65536) :
    bit (2 ^ 31 + cls * 2 ^ 24 + code) 31 = true ∧ field (2 ^ 31 + cls * 2 ^ 24 + code) 27 24 = cls ∧
      field (2 ^ 31 + cls * 2 ^ 24 + code) 15 0 = code := by
  refine ⟨?_, ?_, ?_⟩
  · rw [Nat.add_assoc]
    exact go_bit (by omega)
  · rw [field, Nat.shiftRight_eq_div_pow]
    omega
  · rw [field, Nat.shiftRight_eq_div_pow]
    omega

theorem erFwCmd_refused {cls code : Nat} (few : cls < 16) (low : code < 65536) (off : cls < 3 ∨ 7 < cls ∨ h.classOn cls = false) :
    h.erFwCmd (2 ^ 31 + cls * 2 ^ 24 + code) = { h with er := { h.er with fwQueued := 0, fwStatus := stErClass } } := by
  obtain ⟨go, class_, -⟩ := fwWord few low
  have off' : cls < 3 ∨ 7 < cls ∨ (!h.classOn cls) = true := by simpa using off
  unfold Hub.erFwCmd
  dsimp only
  rw [go, class_, if_pos off']
  rfl

theorem erFwCmd_taken {cls code : Nat} (low : code < 65536) (least : 3 ≤ cls) (most : cls ≤ 7) (on : h.classOn cls = true)
    (room : h.er.sysq.length < 32) :
    h.erFwCmd (2 ^ 31 + cls * 2 ^ 24 + code) = { h with er := { h.er with
      sysq := h.er.sysq ++ [{ h.evt cls code with origin := Master.pair.origin, image := h.er.fwImage }],
      fwQueued := h.er.fwWaiting + 1, fwStatus := stOk } } := by
  obtain ⟨go, class_, code_⟩ := fwWord (by omega : cls < 16) low
  have on' : ¬ (cls < 3 ∨ 7 < cls ∨ (!h.classOn cls) = true) := by simp [on]; omega
  have full : decide (32 ≤ h.er.sysq.length) = false := decide_eq_false (by omega)
  have count (r : Req) (some_ : r.image.isEmpty = false) :
      ((h.er.sysq ++ [r] ++ h.er.builds.map (·.req)).filter fun r => !r.image.isEmpty).length = h.er.fwWaiting + 1 := by
    simp only [Er.fwWaiting, List.filter_append, List.length_append]
    rw [List.filter_cons_of_pos (by rw [some_]; rfl), List.filter_nil, List.length_singleton]
    omega
  unfold Hub.erFwCmd
  dsimp only
  rw [go, class_, if_neg on', code_, full, record_sysq h _ on (by dsimp only [Hub.evt]; omega) rfl room]
  dsimp only
  rw [count _ rfl]
  rfl

/-! ## The verdict FIFO -/

/-- A verdict of context `c` of slice `k`, with the context's idle count, as the hang sequence keeps it. -/
def Hub.verdictOf (h : Hub) (c k : Nat) : Nat × Nat × Nat := (c, k, (h.getCtx c).idle)

variable {c k : Nat} {q : List (Nat × Nat)}

theorem verdictPop_other (head : h.verdicts = (c, k) :: q) {m : Master} (other : m ≠ .pair) :
    h.verdictPop m = { h with hang := { h.hang with fifo := h.hang.fifo.tail } } := by
  unfold Hub.verdictPop
  rw [head]
  exact if_neg other

theorem verdictPop_pair (head : h.verdicts = (c, k) :: q) :
    h.verdictPop .pair = Hub.verdictRead { h with hang := { h.hang with fifo := h.hang.fifo.tail } } c k := by
  unfold Hub.verdictPop
  rw [head]
  exact if_pos rfl

theorem verdictPop_empty (none_ : h.verdicts = []) (m : Master) : h.verdictPop m = h := by
  rw [Hub.verdictPop, none_]

theorem verdictRead_joins (c k : Nat) (early : h.hang.seq.step ≠ 0 ∧ h.hang.seq.step < 3 ∧ (h.hang.seq.die = true ∨ h.hang.seq.slice = k)) :
    h.verdictRead c k = { h with hang := { h.hang with seq := { h.hang.seq with joined := h.hang.seq.joined ++ [h.verdictOf c k] } } } :=
  if_pos early

theorem verdictRead_waits (c k : Nat) (runs : h.hang.seq.step ≠ 0) (late : ¬ (h.hang.seq.step < 3 ∧ (h.hang.seq.die = true ∨ h.hang.seq.slice = k))) :
    h.verdictRead c k = { h with hang := { h.hang with waiting := h.hang.waiting ++ [h.verdictOf c k] } } :=
  (if_neg fun early => late early.2).trans (if_pos runs)

/-- The verdict that firmware reads while nothing runs or waits begins a sequence (R77). -/
theorem verdictRead_begins (c k : Nat) (idle : h.hang.seq.step = 0) (empty : h.hang.waiting = []) (noDie : h.hang.dieWaiting = false) :
    h.verdictRead c k = { h with hang := { h.hang with
      sequences := h.hang.sequences + 1, waiting := [],
      seq := { step := 1, number := h.hang.sequences + 1, joined := [h.verdictOf c k], die := bit h.hangCfg 30, slice := k } } } := by
  unfold Hub.verdictRead Hub.nextSeq
  dsimp only
  rw [if_neg (fun early => early.1 idle), if_neg (by rw [idle]; exact fun c => c rfl), noDie, empty]
  have mine (d : Bool) : ([(c, k, (h.getCtx c).idle)].filter fun x => d || x.2.1 == k) = [h.verdictOf c k] := by simp [Hub.verdictOf]
  have others (d : Bool) : ([(c, k, (h.getCtx c).idle)].filter fun x => !(d || x.2.1 == k)) = [] := by simp
  rw [if_neg Bool.noConfusion]
  dsimp only [List.nil_append]
  rw [mine, others]
  rfl

/-! ## The spill position and the jobs of a compression bank -/

theorem spillRdWrite_moves {v : Nat} (forward : h.er.spillRd ≤ v) (written : v ≤ h.er.spillWr) :
    h.spillRdWrite v = { h with er := { h.er with spillRd := v } } := if_pos ⟨forward, written⟩

/-- The word of a go: an encode or decode job of transform `x` (Table 11.2). -/
def jobWord (dec : Bool) (x : Nat) : Nat := 2 ^ 31 + (if dec then 2 ^ 30 else 0) + x * 2 ^ 28

theorem jobWord_fields (dec : Bool) {x : Nat} (low : x < 4) :
    jobWord dec x < 2 ^ 32 ∧ bit (jobWord dec x) 31 = true ∧ bit (jobWord dec x) 30 = dec ∧ field (jobWord dec x) 29 28 = x := by
  have all : ∀ (d : Bool) (x : Fin 4), jobWord d x < 2 ^ 32 ∧ bit (jobWord d x) 31 = true ∧ bit (jobWord d x) 30 = d ∧
      field (jobWord d x) 29 28 = x := by decide
  exact all dec ⟨x, low⟩

theorem ceGo_busy {m : Master} {b v : Nat} (go : bit v 31 = true) (busy : (SMap.get {} h.ce.bank b).busy = true) :
    h.ceGo m b v = h.updJobRes b m fun j => { j with status := stBusy } := by
  unfold Hub.ceGo
  dsimp only
  rw [go, if_neg (by decide), if_pos busy]

/-- A sound job of an idle enabled bank. -/
structure Hub.JobFits (h : Hub) (m : Master) (b len limit : Nat) : Prop where
  idle : (SMap.get {} h.ce.bank b).busy = false
  enabled : bit (h.ceCtl b) 31 = true
  len_eq : len = h.rwGet 0 (0x50110 + 0x4000 * b) m.idx
  limit_eq : limit = h.rwGet 0 (0x50114 + 0x4000 * b) m.idx
  some_ : 0 < len
  chunk : len ≤ chunkSize
  room : 0 < limit
  most : limit ≤ 16777216
  noc : h.nocUp = true
  src_lo : h.boot.tunBase + tunDataOff ≤ h.rwGet 0 (0x50100 + 0x4000 * b) m.idx
  src_hi : h.rwGet 0 (0x50100 + 0x4000 * b) m.idx + len ≤ h.boot.tunBase + h.boot.tunSize
  dst_lo : h.boot.tunBase + tunDataOff ≤ h.rwGet 0 (0x50108 + 0x4000 * b) m.idx
  dst_hi : h.rwGet 0 (0x50108 + 0x4000 * b) m.idx + limit ≤ h.boot.tunBase + h.boot.tunSize

theorem ceGo_starts {m : Master} {b len limit x v : Nat} {dec : Bool} (fits : h.JobFits m b len limit) (go : bit v 31 = true)
    (mode : bit v 30 = dec) (xform : field v 29 28 = x) :
    h.ceGo m b v = { h with ce := { h.ce with
      bank := SMap.upd {} h.ce.bank b fun k => { k with
        busy := true, owner := some m, decode := dec, block := 0, src := h.rwGet 0 (0x50100 + 0x4000 * b) m.idx,
        dst := h.rwGet 0 (0x50108 + 0x4000 * b) m.idx, len := len, limit := limit, xform := x, raw := bit (h.ceCtl b) 30, inDone := 0, outDone := 0 },
      job := SMap.upd {} h.ce.job (b * 4 + m.idx) fun j => { busy := true, failValid := !dec && j.failValid, fail := if dec then 0 else j.fail } } } := by
  obtain ⟨idle, enabled, len_eq, limit_eq, some_, chunk, room, most, noc, src_lo, src_hi, dst_lo, dst_hi⟩ := fits
  have at_ (o : Nat) : 0x50000 + 0x4000 * b + o = 0x50000 + o + 0x4000 * b := by omega
  subst mode xform
  unfold Hub.ceGo
  simp only [at_, Nat.reduceAdd, ← len_eq, ← limit_eq]
  have bad : ¬ (len = 0 ∨ chunkSize < len ∨ limit = 0 ∨ 16777216 < limit ∨
      (!(decide (h.boot.tunBase + tunDataOff ≤ h.rwGet 0 (0x50100 + 0x4000 * b) m.idx) &&
        decide (h.rwGet 0 (0x50100 + 0x4000 * b) m.idx + len ≤ h.boot.tunBase + h.boot.tunSize))) = true ∨
      (!(decide (h.boot.tunBase + tunDataOff ≤ h.rwGet 0 (0x50108 + 0x4000 * b) m.idx) &&
        decide (h.rwGet 0 (0x50108 + 0x4000 * b) m.idx + limit ≤ h.boot.tunBase + h.boot.tunSize))) = true) := by
    rw [decide_eq_true src_lo, decide_eq_true src_hi, decide_eq_true dst_lo, decide_eq_true dst_hi]
    simp only [Bool.and_self, Bool.not_true, Bool.false_eq_true, or_false]
    omega
  rw [if_neg (by rw [go]; decide), if_neg (by rw [idle]; decide), if_neg (by rw [enabled]; decide), if_neg bad, if_neg (by rw [noc]; decide)]
  rfl

end Effects

theorem locate_erSpillRd :
    locate 0x600C8 = some ⟨⟨.erSpillRd, 0x600C8, 8, 1, true, .act, false, .all, .spill, .tun, 0, 0⟩, 0, false, 0, 0x600C8, false⟩ := by decide +kernel
theorem locate_erSpillRd_upper :
    locate 0x600CC = some (Loc.upper ⟨⟨.erSpillRd, 0x600C8, 8, 1, true, .act, false, .all, .spill, .tun, 0, 0⟩, 0, false, 0, 0x600C8, false⟩) := by
  decide +kernel

/-- The job command register of bank `b`. -/
def Loc.jobCmd (b : Nat) : Loc := ⟨⟨.ceJobCmd, 0x50118, 0x4000, 4, false, .act, true, .all, .glob, .omp, 0, 0⟩, b, false, 0, 0x50118 + 0x4000 * b, false⟩

theorem locate_ceJobCmd {b : Nat} (low : b < 4) : locate (0x50118 + 0x4000 * b) = some (.jobCmd b) := by
  have all : ∀ b : Fin 4, locate (0x50118 + 0x4000 * b) = some (.jobCmd b) := by decide +kernel
  exact all ⟨b, low⟩

theorem jobCmd_acts {b : Nat} (low : b < 4) : (Loc.jobCmd b).acts = true := by
  have all : ∀ b : Fin 4, (Loc.jobCmd b).acts = true := by decide
  exact all ⟨b, low⟩

theorem exec_ceJob (m : Master) {b x : Nat} (low : b < 4) (few : x < 4) (dec : Bool) (s : State) :
    exec (if dec then .ceDecodeJob m b x else .ceEncodeJob m b x) s =
      run (if dec then .ceDecodeJob m b x else .ceEncodeJob m b x) (fun mem h => h.busWrite mem m (0x50118 + 0x4000 * b) 4 (jobWord dec x)) s := by
  have word : goWord 1 30 (at_ x 28) = jobWord true x ∧ goWord x 28 0 = jobWord false x := by
    have all : ∀ x : Fin 4, goWord 1 30 (at_ x 28) = jobWord true x ∧ goWord x 28 0 = jobWord false x := by decide
    exact all ⟨x, few⟩
  cases dec with
  | true =>
    rw [if_pos rfl, show exec (.ceDecodeJob m b x) s = execCeDecodeJob m b x s from rfl, execCeDecodeJob, Nat.mod_eq_of_lt low, Nat.mod_eq_of_lt few, word.1]
  | false =>
    rw [if_neg Bool.noConfusion, show exec (.ceEncodeJob m b x) s = execCeEncodeJob m b x s from rfl, execCeEncodeJob, Nat.mod_eq_of_lt low,
      Nat.mod_eq_of_lt few, word.2]

theorem jobCmd_regWrite (h : Hub) (mem : Mem) (m : Master) (b v : Nat) : h.regWrite mem m (.jobCmd b) v = h.ceGo m b v :=
  if_neg (show ¬ 0x50118 + 0x4000 * b < 0x30000 by omega)

/-! ## The calendar -/

/-- The _LO word of TIM_CAL_VALUE. -/
def Loc.calValue : Loc :=
  ⟨⟨.timCalValue, 0x10018, 8, 1, true, .rw, false, .all, .glob, .oper, 0xffffffffffffffff, 0⟩, 0, false, 0, 0x10018, false⟩

theorem locate_calValue : locate 0x10018 = some .calValue := by decide +kernel
theorem locate_calValue_upper : locate 0x1001C = some (Loc.upper .calValue) := by decide +kernel

section Calendar

variable (h : Hub) {m : Master} {v : Nat}

theorem calValue_clamp (low : v < 2 ^ 64) : (Loc.upper .calValue).clamp h v = v := by
  have clamp : (Loc.upper .calValue).clamp h v = v &&& 2 ^ 64 - 1 := rfl
  rw [clamp, Nat.and_two_pow_sub_one_eq_mod, Nat.mod_eq_of_lt low]

/-- The hub with a value of TIM_CAL_VALUE stored, after both writes. -/
def Hub.calTaken (h : Hub) (m : Master) (v : Nat) : Hub :=
  { h with
    rw := SMap.set 0 h.rw (0x10018 * 4) v, er := pairEr h m .calValue 0x10018 v, stageLo := SMap.set 0 h.stageLo m.idx (v % 2 ^ 32) }

theorem calTaken_tick (m : Master) (v : Nat) : (h.calTaken m v).rwGet 0 0x10010 0 = h.rwGet 0 0x10010 0 :=
  SMap.get_set_ne _ _ _ (by decide)

theorem calTaken_stored (m : Master) (v : Nat) : (h.calTaken m v).rwGet 0 0x10018 0 = v := SMap.get_set_self ..

theorem calTaken_others (m : Master) (v k : Nat) (other : k ≠ 0x10018 * 4) : SMap.get 0 (h.calTaken m v).rw k = SMap.get 0 h.rw k :=
  SMap.get_set_ne _ _ _ other

/-- The value is stored and the request is made. -/
theorem calValue_regWrite (mem : Mem) (low : v < 2 ^ 64) :
    h.regWrite mem m (Loc.upper .calValue) v = (h.rwSet 0 0x10018 0 v).calRequest m v := by
  have stored : h.storeReg m (Loc.upper .calValue) v = h.rwSet 0 0x10018 0 v := by
    rw [Hub.storeReg, calValue_clamp h low]
    exact if_neg (by decide)
  rw [Hub.regWrite, stored]
  exact if_pos rfl

theorem calRequest_refused (m : Master) (v : Nat) {at_ : Nat} (tick : h.rwGet 0 0x10010 0 = at_)
    (bad : h.cal.pending = true ∨ at_ + 1000000000 < h.now ∨ h.now + 10000000000 < at_) :
    h.calRequest m v = { h with cal := { h.cal with status := if h.cal.pending then stBusy else stTimRange } } := by
  subst tick
  unfold Hub.calRequest
  dsimp only
  cases pending : h.cal.pending with
  | true => rw [if_pos rfl]; rfl
  | false =>
    rw [if_neg Bool.noConfusion, if_pos (bad.resolve_left (by rw [pending]; exact Bool.noConfusion))]
    rfl

theorem calRequest_pending (m : Master) (v : Nat) {at_ : Nat} (tick : h.rwGet 0 0x10010 0 = at_) (free : h.cal.pending = false) (later : h.now < at_)
    (near : at_ ≤ h.now + 10000000000) :
    h.calRequest m v = { h with cal := { h.cal with
      status := stOk, pending := true, applyAt := at_, value := v, by_ := h.originOf m } } := by
  subst tick
  unfold Hub.calRequest
  dsimp only
  rw [if_neg (by rw [free]; exact Bool.noConfusion), if_neg (by omega)]
  exact if_neg (Nat.not_le.mpr later)

theorem calRequest_applies (m : Master) (v : Nat) {at_ : Nat} (tick : h.rwGet 0 0x10010 0 = at_) (free : h.cal.pending = false) (passed : at_ ≤ h.now)
    (near : h.now ≤ at_ + 1000000000) :
    h.calRequest m v = Hub.calApply { h with cal := { h.cal with
      status := stOk, pending := true, applyAt := at_, value := v, by_ := h.originOf m } } := by
  subst tick
  unfold Hub.calRequest
  dsimp only
  rw [if_neg (by rw [free]; exact Bool.noConfusion), if_neg (by omega)]
  exact if_pos passed

/-- The set takes effect; its record takes the next commit, or is not written (R134, R137, R395). -/
theorem calApply_eq :
    h.calApply = { h with
      cal := { h.cal with
        valid := true, pending := false, offset := (h.cal.value + 2 ^ 64 - h.cal.applyAt % 2 ^ 64) % 2 ^ 64,
        gen := if h.cal.gen = 0xFFFF then 1 else h.cal.gen + 1, setCyc := h.clk.cycle + 1, oldOffset := h.cal.offset, oldGen := h.cal.gen },
      er := if h.er.chainStarted = true ∧ h.er.gap.pending = false ∧ h.er.auditLoad < 511 ∧ h.er.sysq.length < 32
        then { h.er with clockSet := h.er.clockSet ++ [clockSetOf h] } else h.er.auditGap (clockSetOf h) } := by
  have back (b : Bool) : at_ (b2n b) 16 = if b = true then 65536 else 0 := by cases b <;> rfl
  have rules : (!h.er.chainStarted || h.er.gap.pending || decide (511 ≤ h.er.auditLoad) || decide (32 ≤ h.er.sysq.length)) = true ↔
      ¬ (h.er.chainStarted = true ∧ h.er.gap.pending = false ∧ h.er.auditLoad < 511 ∧ h.er.sysq.length < 32) := by
    cases h.er.chainStarted <;> cases h.er.gap.pending <;> simp
    omega
  unfold Hub.calApply clockSetOf
  dsimp only
  rw [back, Hub.clockSetRecord]
  dsimp only
  by_cases ok : h.er.chainStarted = true ∧ h.er.gap.pending = false ∧ h.er.auditLoad < 511 ∧ h.er.sysq.length < 32
  · rw [if_neg (rules.not_left.mpr ok), if_pos ok]
  · rw [if_pos (rules.mpr ok), if_neg ok]

end Calendar

theorem spillRdWrite_record (s : State) (m : Master) (live : s.hub.live = true) (reach : s.hub.reaches m = true)
    (glob : m = .pair ∨ s.hub.role m = 1 ∨ s.hub.role m = 3) {v : Nat} (b : v < 2 ^ 64) (forward : s.hub.er.spillRd ≤ v) (written : v ≤ s.hub.er.spillWr) :
    Yields (.spillRdWrite m v) s fun h0 t =>
      t = wroteQuiet s m { h0 with er := { s.hub.er with spillRd := v }, stageLo := SMap.set 0 s.hub.stageLo m.idx (v % 2 ^ 32) } :=
  yields_pair rfl live reach locate_erSpillRd locate_erSpillRd_upper rfl rfl rfl (by decide) (by decide) b
    (fun _ => by rcases glob with e | e | e <;> simp [Hub.mayWrite, e])
    (fun t => spillRdWrite_moves
      { s.hub.placed t with stageLo := SMap.set 0 s.hub.stageLo m.idx (v % 2 ^ 32), er := s.hub.er } forward written) fun _ => rfl

section Requests

variable {s : State} {m : Master} (live : s.hub.live = true) (reach : s.hub.reaches m = true)
include live reach

/-- A command that is a go of a compression bank. -/
theorem yields_ceJob (glob : m = .pair ∨ s.hub.role m = 1 ∨ s.hub.role m = 3) {b x : Nat} (low : b < 4) (few : x < 4) (dec : Bool)
    {P : Hub → State → Prop} {g : SMap Nat → Er → Hub} (effect : ∀ t r, Hub.ceGo { s.hub.placed t with er := r } m b (jobWord dec x) = g t r)
    (p : ∀ t, P (s.hub.placed t)
      (lands s ((g t (roleEr s.hub m (0x50118 + 0x4000 * b) (jobWord dec x))).respond m 0 false))) :
    Yields (if dec then .ceDecodeJob m b x else .ceEncodeJob m b x) s P :=
  yields_act (exec_ceJob m low few dec s) live reach (locate_ceJobCmd low) (by omega) (by omega) (jobCmd_acts low) (jobWord_fields dec few).1
    (by rcases glob with e | e | e <;> simp [Hub.mayWrite, Loc.jobCmd, e])
    (fun t r => (jobCmd_regWrite _ s.mem m b _).trans (effect t r)) p

/-- A read of HUB_VERDICT. -/
theorem yields_verdict (glob : m = .pair ∨ s.hub.role m = 1 ∨ s.hub.role m = 3) {P : Hub → State → Prop} {w : Nat} {g : SMap Nat → Hub}
    (value : (Loc.acting false .hubVerdict 0x120 .glob .none).value s.hub m = w) (effect : ∀ t, (s.hub.placed t).verdictPop m = g t)
    (p : ∀ t, P (s.hub.placed t) (lands s ((g t).respond m (w % 2 ^ 32) false))) : Yields (.verdictPop m) s P := by
  refine yields_readAct rfl live reach locate_hubVerdict rfl (by decide) (by decide) rfl rfl rfl rfl
    (by rcases glob with e | e | e <;> simp [Hub.mayRead, Loc.acting, e]) fun t => ?_
  have pop : (s.hub.placed t).readEffect m (.acting false .hubVerdict 0x120 .glob .none) = g t := effect t
  rw [value, pop]
  exact p t

/-- A write of TIM_CAL_VALUE by the operator. -/
theorem yields_calendar (operator : s.hub.role m = 1) {v : Nat} (b : v < 2 ^ 64) {P : Hub → State → Prop} {g : SMap Nat → Hub}
    (effect : ∀ t, ((s.hub.placed t).calTaken m v).calRequest m v = g t)
    (p : ∀ t, P (s.hub.placed t) (lands s ((g t).respond m 0 false))) : Yields (.calendarSetRequest m v) s P :=
  yields_pair (l := .calValue) rfl live reach locate_calValue locate_calValue_upper rfl rfl rfl (by decide) (by decide) b
    (fun _ => by simp [Hub.mayWrite, Loc.calValue, operator]) (fun t => (calValue_regWrite _ s.mem b).trans (effect t)) p

end Requests

theorem hubVerdict_value {h : Hub} {c k : Nat} {q : List (Nat × Nat)} (head : h.verdicts = (c, k) :: q) (m : Master) :
    (Loc.acting false .hubVerdict 0x120 .glob .none).value h m = 2 ^ 31 + k * 2 ^ 18 + c := by
  have value : (Loc.acting false .hubVerdict 0x120 .glob .none).value h m =
    match h.verdicts with | (c, s) :: _ => 2 ^ 31 + at_ s 18 + c | [] => 0 := rfl
  rw [value, head, ← Nat.shiftLeft_eq]
  rfl

theorem hubVerdict_none {h : Hub} (none_ : h.verdicts = []) (m : Master) : (Loc.acting false .hubVerdict 0x120 .glob .none).value h m = 0 := by
  have value : (Loc.acting false .hubVerdict 0x120 .glob .none).value h m =
    match h.verdicts with | (c, s) :: _ => 2 ^ 31 + at_ s 18 + c | [] => 0 := rfl
  rw [value, none_]

theorem exec_erFwRecord {cls code : Nat} (few : cls < 16) (low : code < 65536) (s : State) :
    exec (.erFwRecord cls code) s = run (.erFwRecord cls code) (fun mem h => h.busWrite mem .pair 0x60028 4 (2 ^ 31 + cls * 2 ^ 24 + code)) s := by
  rw [show exec (.erFwRecord cls code) s = execErFwRecord cls code s from rfl, execErFwRecord, Nat.mod_eq_of_lt few, Nat.mod_eq_of_lt low,
    goWord_query, ← Nat.add_assoc]

/-- The audit record of a write is no record of firmware. -/
theorem roleEr_firmware {h : Hub} {m : Master} {off w : Nat} (few : h.er.sysq.length < 31) :
    (roleEr h m off w).sysq.length < 32 ∧ (roleEr h m off w).fwWaiting = h.er.fwWaiting ∧ (roleEr h m off w).fwImage = h.er.fwImage := by
  unfold roleEr
  split
  · exact ⟨by omega, rfl, rfl⟩
  · rcases audit_cases h.er { h.auditBy m 0x0813 with arg := off, words := [w] } with e | e
    · rw [e]
      refine ⟨?_, ?_, rfl⟩
      · rw [List.length_append, List.length_singleton]
        omega
      · simp [Er.fwWaiting, Hub.auditBy]
    · rw [e]
      exact ⟨by dsimp only; omega, rfl, rfl⟩

theorem attnMessageSet_message (h : Hub) {code : Nat} (low : code < 65536) :
    (if bit (2 ^ 31 + code) 31 then h.attnMessage (field (2 ^ 31 + code) 15 0) else h) =
      { h with span := { h.span with msg := code, attn := h.span.attn ||| 256 }, cyc := { h.cyc with attn := h.cyc.attn ||| 256 } } := by
  have code_ : field (2 ^ 31 + code) 15 0 = code := by
    rw [field, Nat.shiftRight_eq_div_pow]
    omega
  rw [go_bit (by omega), if_pos rfl, code_, Hub.attnMessage, Nat.mod_eq_of_lt low]
  rfl

theorem erFwCmd_regWrite (h : Hub) (mem : Mem) (v : Nat) : h.regWrite mem .pair (.acting false .erFwCmd 0x60028 .er .pair) v = h.erFwCmd v := rfl

/-- Settles O59: each request's effect, with the audit records of its writes and the answer. -/
theorem engineRequests : Obligations.EngineRequests := by
  intro s m live few
  refine ⟨fun pair => ⟨fun idle => ?_, fun busy => ?_, fun cls code least most low on => ?_, fun cls code off small low => ?_, fun code low => ?_⟩,
    fun reach glob => ⟨fun c k q head => ⟨fun other => ?_, fun isPair idle empty noDie => ?_, fun isPair runs => ?_⟩, fun none_ => ?_,
      fun v b forward written => spillRdWrite_record s m live reach glob b forward written, fun b x len limit dec low small len_eq limit_eq =>
      ⟨fun busy => ?_, fun idle enabled some_ chunk room most noc src_lo src_hi dst_lo dst_hi => ?_⟩⟩,
    fun v at_ e reach operator b at_eq e_eq => ⟨fun free later near => ?_, fun free passed near => ?_, fun bad => ?_⟩⟩
  · exact yields_act rfl live pair locate_hubScan rfl (by decide) rfl (by decide) rfl
      (fun t r => scanGo_starts { s.hub.placed t with er := r } idle) fun t => rfl
  · exact yields_act rfl live pair locate_hubScan rfl (by decide) rfl (by decide) rfl
      (fun t r => scanGo_overruns { s.hub.placed t with er := r } busy) fun t => rfl
  · have few' : cls < 16 := by omega
    obtain ⟨room, waiting, image⟩ := roleEr_firmware (m := .pair) (off := 0x60028) (w := 2 ^ 31 + cls * 2 ^ 24 + code) few
    have taken (t : SMap Nat) := erFwCmd_taken (h := { s.hub.placed t with er := roleEr s.hub .pair 0x60028 (2 ^ 31 + cls * 2 ^ 24 + code) })
      low least most on room
    refine yields_act (exec_erFwRecord few' low s) live pair locate_erFwCmd rfl (by decide) rfl (by omega) rfl (fun t r => erFwCmd_regWrite _ s.mem _) fun t => ?_
    refine (congrArg (fun g : Hub => lands s (g.respond .pair 0 false)) (taken t)).trans ?_
    dsimp only
    rw [waiting, image]
    rfl
  · exact yields_act (exec_erFwRecord small low s) live pair locate_erFwCmd rfl (by decide) rfl (by omega) rfl
      (fun t r => (erFwCmd_regWrite _ s.mem _).trans (erFwCmd_refused { s.hub.placed t with er := r } small low off)) fun _ => rfl
  · have exec_ : exec (.attnMessageSet code) s = run (.attnMessageSet code) (fun mem h => h.busWrite mem .pair 0x9000C 4 (2 ^ 31 + code)) s := by
      rw [show exec (.attnMessageSet code) s = execAttnMessageSet code s from rfl, execAttnMessageSet, Nat.mod_eq_of_lt low, goWord_plain]
    exact yields_act exec_ live pair locate_spnAttnSet rfl (by decide) rfl (by omega) rfl
      (fun t r => attnMessageSet_message { s.hub.placed t with er := r } low) fun t => rfl
  · refine yields_verdict live reach glob (hubVerdict_value head m) (fun t => verdictPop_other (s.hub.placed t) head other) fun t => rfl
  · subst isPair
    exact yields_verdict live reach glob (hubVerdict_value head .pair) (fun t => (verdictPop_pair (s.hub.placed t) head).trans
      (verdictRead_begins _ c k idle empty noDie)) fun t => by rw [← empty]; rfl
  · subst isPair
    have pop (t : SMap Nat) := verdictPop_pair (s.hub.placed t) head
    by_cases early : s.hub.hang.seq.step < 3 ∧ (s.hub.hang.seq.die = true ∨ s.hub.hang.seq.slice = k)
    · rw [if_pos early]
      exact yields_verdict live reach glob (hubVerdict_value head .pair) (fun t => (pop t).trans (verdictRead_joins _ c k ⟨runs, early⟩)) fun _ => rfl
    · rw [if_neg early]
      exact yields_verdict live reach glob (hubVerdict_value head .pair) (fun t => (pop t).trans (verdictRead_waits _ c k runs early)) fun _ => rfl
  · exact yields_verdict live reach glob (hubVerdict_none none_ m) (fun t => verdictPop_empty (s.hub.placed t) none_ m) fun t => rfl
  · exact yields_ceJob live reach glob low small dec
      (fun t r => ceGo_busy { s.hub.placed t with er := r } (jobWord_fields dec small).2.1 busy) fun t => rfl
  · obtain ⟨-, go, mode, xform⟩ := jobWord_fields dec small
    have fits (t : SMap Nat) (r : Er) : Hub.JobFits { s.hub.placed t with er := r } m b len limit :=
      ⟨idle, enabled, len_eq, limit_eq, some_, chunk, room, most, noc, src_lo, src_hi, dst_lo, dst_hi⟩
    exact yields_ceJob live reach glob low small dec (fun t r => ceGo_starts { s.hub.placed t with er := r } (fits t r) go mode xform) fun t => rfl
  · subst e_eq
    exact yields_calendar live reach operator b
      (fun t => calRequest_pending ((s.hub.placed t).calTaken m v) m v ((calTaken_tick _ m v).trans at_eq.symm) free later near)
      fun t => ⟨calTaken_stored (s.hub.placed t) m v, calTaken_others (s.hub.placed t) m v, rfl⟩
  · subst e_eq
    exact yields_calendar live reach operator b
      (fun t => (calRequest_applies ((s.hub.placed t).calTaken m v) m v ((calTaken_tick _ m v).trans at_eq.symm) free passed near).trans (calApply_eq _))
      fun t => ⟨calTaken_stored (s.hub.placed t) m v, calTaken_others (s.hub.placed t) m v, _, rfl, rfl⟩
  · subst e_eq
    exact yields_calendar live reach operator b
      (fun t => calRequest_refused ((s.hub.placed t).calTaken m v) m v ((calTaken_tick _ m v).trans at_eq.symm) bad)
      fun t => ⟨calTaken_stored (s.hub.placed t) m v, calTaken_others (s.hub.placed t) m v, rfl⟩

end Sys2Proof.Machine
end

section
/-!
O60: commands to the security unit, and what ends by itself: leases, released keys and revokes (R406, R409 to R411, R413, R417, R419, R421).
-/
namespace Sys2Proof.Machine

theorem locate_secCmd : locate 0x20004 = some (.acting true .secCmd 0x20004 .any .seccmd) := by decide +kernel

section Unit

variable (h : Hub) (m : Master)

theorem updSecM_twice (f g : SecM → SecM) : (h.updSecM m f).updSecM m g = h.updSecM m fun x => g (f x) := by
  unfold Hub.updSecM SMap.upd
  simp only [SMap.get_set_self, set_set]

/-- An audit record leaves the security unit as it is. -/
theorem updSecM_audited (r : Req) (f : SecM → SecM) :
    Hub.updSecM { h with er := h.er.audit r } m f = { h.updSecM m f with er := h.er.audit r } := rfl

/-- A go whose check takes time begins it (R410, R411). -/
theorem secGo_checks {op k : Nat} (idle : (h.getSecM m).check = none) (slow : op = 1 ∨ op = 3 ∨ op = 4) :
    h.secGo m op k = withSecM h m { h.getSecM m with
      nonceDue := true, check := some ⟨op, k, (h.getSecM m).bytes 256, (h.getSecM m).nonce, h.role m, h.clk.cycle⟩ } := by
  have begun : h.secGo m op k =
      (h.updSecM m fun y => { y with check := some ⟨op, k, (h.getSecM m).bytes 256, y.nonce, h.role m, h.clk.cycle⟩ }).updSecM m
        fun y => { y with nonceDue := true } := by
    unfold Hub.secGo
    dsimp only
    rw [idle]
    rcases slow with e | e | e <;> subst e <;> rfl
  rw [begun, updSecM_twice]
  rfl

theorem secGo_drop_none (idle : (h.getSecM m).check = none) (norole : h.role m = 0) :
    h.secGo m 2 0 = withSecM h m { h.getSecM m with check := none, nonceDue := true, status := stOk, reason := 0 } := by
  unfold Hub.secGo
  dsimp only
  rw [idle]
  dsimp only [Option.isSome_none]
  rw [if_neg Bool.noConfusion, if_pos norole]
  exact updSecM_twice h m _ _

/-- A drop ends the role at once (R411). -/
theorem secGo_drop (idle : (h.getSecM m).check = none) (role : h.role m ≠ 0) :
    h.secGo m 2 0 = { withSecM h m { h.getSecM m with check := none, nonceDue := true, role := 0, leaseEnd := 0, status := stOk, reason := 0 } with
      er := h.er.audit { h.auditBy m 0x0811 with origin := m.origin + 16 * (h.getSecM m).role, aux := 0 } } := by
  unfold Hub.secGo
  dsimp only
  rw [idle]
  dsimp only [Option.isSome_none]
  rw [if_neg Bool.noConfusion, if_neg role]
  refine (updSecM_twice (h.roleEnd m 0) m _ _).trans ?_
  rw [Hub.roleEnd, record_audit _ _ rfl, updSecM_twice, updSecM_audited]
  rfl

theorem secGo_busy_drop (busy : (h.getSecM m).check ≠ none) :
    h.secGo m 2 0 = withSecM h m { h.getSecM m with nonceDue := true, status := stBusy, reason := 0 } := by
  unfold Hub.secGo
  dsimp only
  rw [if_pos (Option.isSome_iff_ne_none.mpr busy)]
  exact updSecM_twice h m _ _

/-- The hub with ST_BUSY as the result of the master's go. -/
def Hub.secBusy (h : Hub) (m : Master) : Hub := h.updSecM m fun y => { y with status := stBusy, reason := 0 }

theorem secBusy_audit (c : Nat) : (h.secBusy m).auditBy m c = h.auditBy m c := by
  have role : (h.secBusy m).role m = h.role m := by
    unfold Hub.role Hub.secBusy
    rw [Hub.getSecM_updSecM]
    rfl
  rw [Hub.auditBy, Hub.originOf, role]
  rfl

theorem secBusy_recorded {r : Req} (audit : r.cls = 8) :
    ((h.secBusy m).record r).updSecM m (fun y => { y with nonceDue := true }) =
      { withSecM h m { h.getSecM m with nonceDue := true, status := stBusy, reason := 0 } with er := h.er.audit r } := by
  rw [record_audit _ _ audit, updSecM_audited, Hub.secBusy, updSecM_twice]
  rfl

/-- A go other than a drop, while a check runs, leaves its refusal record (R411). -/
theorem secGo_busy {op k : Nat} {r : Req} (busy : (h.getSecM m).check ≠ none)
    (which : (op = 1 ∧ r = { h.auditBy m 0x0812 with status := stBusy, arg := leAt ((h.getSecM m).bytes 256) 6 1 }) ∨
      (op = 4 ∧ r = { h.secEvt m 0x0822 (tokenSlice ((h.getSecM m).bytes 256)) with
        status := stBusy, aux := 256 * leAt ((h.getSecM m).bytes 256) 6 1, arg := leAt ((h.getSecM m).bytes 256) 0x20 8 }) ∨
      (op = 3 ∧ r = { h.secEvt m 0x0828 k with status := stBusy, aux := stBusy, arg := k })) :
    h.secGo m op k = { withSecM h m { h.getSecM m with nonceDue := true, status := stBusy, reason := 0 } with er := h.er.audit r } := by
  have some_ := Option.isSome_iff_ne_none.mpr busy
  unfold Hub.secGo
  dsimp only
  rw [if_pos some_]
  rcases which with ⟨e, e'⟩ | ⟨e, e'⟩ | ⟨e, e'⟩
  all_goals
    subst e e'
    refine Eq.trans ?_ (secBusy_recorded h m rfl)
    simp only [← secBusy_audit h m, Hub.secEvt]
    rfl

/-! ## What ends by itself -/

theorem getSecM_roleEnd (how : Nat) : (h.roleEnd m how).getSecM m = { h.getSecM m with role := 0, leaseEnd := 0 } := by
  rw [Hub.roleEnd, record_audit _ _ rfl, Hub.getSecM_updSecM]
  rfl

theorem leaseExpiry_ends (role : (h.getSecM m).role ≠ 0) (past : (h.getSecM m).leaseEnd ≤ h.sec.lease) :
    h.leaseExpiry m = { h.updSecM m (fun s => { s with role := 0, leaseEnd := 0 }) with
      er := h.er.audit { h.auditBy m 0x0811 with origin := m.origin + 16 * (h.getSecM m).role, aux := 1 } } := by
  unfold Hub.leaseExpiry
  dsimp only
  rw [if_neg (by omega), Hub.roleEnd, record_audit _ _ rfl, updSecM_audited]

theorem keyoutExpiry_clears (full : (h.getSecM m).keyoutFull = true) (past : (h.getSecM m).keyoutEnd ≤ h.now) :
    h.keyoutExpiry m = h.updSecM m fun s => { s with keyout := [], keyoutOld := [], keyoutFull := false } := by
  unfold Hub.keyoutExpiry
  dsimp only
  rw [full, decide_eq_false (Nat.not_lt.mpr past)]
  rfl

theorem revokeCommit_issues {k : Nat} {q : List Nat} (head : h.sec.revokes = k :: q) (free : ∀ c ∈ h.chain.queue, c.owner ≠ .security)
    (other : ∀ c, h.chain.cur = some c → c.owner ≠ .security) (idle : h.ldr.st = .idle) :
    h.revokeCommit = Hub.commitAdd { h with sec := { h.sec with revokes := q } } .security 1 k := by
  have queued : (h.chain.queue.any fun c => c.owner == .security) = false := by
    rw [List.any_eq_false]
    exact fun c mem e => free c mem (eq_of_beq e)
  unfold Hub.revokeCommit
  rw [head]
  dsimp only
  rw [queued, Bool.false_or]
  cases cur : h.chain.cur with
  | none => exact if_neg fun c => c.elim Bool.noConfusion fun c => c idle
  | some c =>
    have mine : (c.owner == .security) = false := beq_eq_false_iff_ne.mpr (other c cur)
    exact if_neg fun b => b.elim (fun b => Bool.noConfusion (mine.symm.trans b)) fun b => b idle

/-- The one nonce that is due is drawn (R410). -/
theorem noncesDue_one (port : m = .host ∨ m = .span) (due : (h.getSecM m).nonceDue = true)
    (others : ∀ x : Master, x ≠ m → (h.getSecM x).nonceDue = false) :
    h.noncesDue = (h.nonceDraw m).updSecM m fun s => { s with nonceDue := false } := by
  have one : [Master.host, Master.span].filter (fun x => (h.getSecM x).nonceDue) = [m] := by
    rcases port with e | e
    · simp [e, e ▸ due, others .span (e ▸ by decide)]
    · simp [e, e ▸ due, others .host (e ▸ by decide)]
  rw [Hub.noncesDue, one]
  rfl

end Unit

/-- A command that is a go of SEC_CMD with operation `op` for slice `k`. -/
theorem yields_secGo {s : State} {m : Master} {c : Instr} {P : Hub → State → Prop} {op k : Nat} {g : SMap Nat → Hub} (live : s.hub.live = true)
    (reach : s.hub.reaches m = true) (port : m = .host ∨ m = .span) (few : op < 8) (low : k < 64) (operator : op = 3 → s.hub.role m = 1)
    (x : exec c s = run c (fun mem h => h.busWrite mem m 0x20004 4 (goWord op 28 k)) s) (effect : ∀ t, (s.hub.placed t).secGo m op k = g t)
    (p : ∀ t, P (s.hub.placed t) (lands s ((g t).respond m 0 false))) : Yields c s P := by
  have word : goWord op 28 k = 2 ^ 31 + (op * 2 ^ 28 + k) := by rw [goWord, at_, Nat.shiftLeft_eq, Nat.add_assoc]
  have op_ : field (goWord op 28 k) 30 28 = op := by
    rw [word, field, Nat.shiftRight_eq_div_pow]
    omega
  have slice_ : goWord op 28 k % 64 = k := by omega
  have go : bit (goWord op 28 k) 31 = true := by
    rw [word]
    exact go_bit (by omega)
  have ported : (m == .host || m == .span) = true := by rcases port with e | e <;> subst e <;> rfl
  have may : s.hub.mayWrite m (.acting true .secCmd 0x20004 .any .seccmd) (goWord op 28 k) = true := by
    have right : s.hub.mayWrite m (.acting true .secCmd 0x20004 .any .seccmd) (goWord op 28 k) =
      ((m == .host || m == .span) && !(true && bit (goWord op 28 k) 31 && decide (field (goWord op 28 k) 30 28 = 3) && s.hub.role m != 1)) := rfl
    rw [right, ported, go, op_]
    by_cases three : op = 3
    · simp [operator three]
    · simp [three]
  refine yields_act x live reach locate_secCmd rfl (by decide) rfl (by omega) may (fun t r => rfl) fun t => ?_
  have effect' : Hub.secCmd (s.hub.placed t) m (goWord op 28 k) = g t := by
    rw [Hub.secCmd, if_pos go, op_, slice_]
    exact effect t
  have q := p t
  rw [← effect'] at q
  exact q

theorem exec_ownerRegister (m : Master) {k : Nat} (low : k < 64) (s : State) :
    exec (.ownerRegister m k) s = run (.ownerRegister m k) (fun mem h => h.busWrite mem m 0x20004 4 (goWord 3 28 k)) s := by
  rw [show exec (.ownerRegister m k) s = execOwnerRegister m k s from rfl, execOwnerRegister, Nat.mod_eq_of_lt low]

/-- Settles O60: goes of SEC_CMD in each state of the unit, the nonces they make due, and the ends of leases, keys and revokes. -/
theorem securityRequests : Obligations.SecurityRequests := by
  refine ⟨fun s m live reach port => ⟨fun k op idle low which => ?_, fun idle => ?_, fun busy => ⟨fun c r which => ?_, ?_⟩, fun due others => ?_⟩,
    fun s m live => ⟨fun role past => ?_, fun full past => ?_, fun k q head free other idle => ?_⟩⟩
  · have checks (t : SMap Nat) {op : Nat} (slow : op = 1 ∨ op = 3 ∨ op = 4) := secGo_checks (s.hub.placed t) m (k := k) idle slow
    rcases which with ⟨e, e'⟩ | ⟨e, e'⟩ | ⟨e, operator⟩
    · subst e e'
      exact yields_secGo live reach port (by decide) low (fun e => absurd e (by decide)) rfl (fun t => checks t (.inl rfl)) fun _ => rfl
    · subst e e'
      exact yields_secGo live reach port (by decide) low (fun e => absurd e (by decide)) rfl (fun t => checks t (.inr (.inr rfl))) fun _ => rfl
    · subst e
      exact yields_secGo live reach port (by decide) low (fun _ => operator) (exec_ownerRegister m low s) (fun t => checks t (.inr (.inl rfl)))
        fun _ => rfl
  · by_cases role : s.hub.role m = 0
    · rw [if_pos role, if_pos role]
      exact yields_secGo live reach port (by decide) (by decide) (fun e => absurd e (by decide)) rfl (fun t => secGo_drop_none (s.hub.placed t) m idle role) fun _ => rfl
    · rw [if_neg role, if_neg role]
      exact yields_secGo live reach port (by decide) (by decide) (fun e => absurd e (by decide)) rfl (fun t => secGo_drop (s.hub.placed t) m idle role) fun _ => rfl
  · rcases which with ⟨e, e'⟩ | ⟨e, e'⟩ | ⟨operator, k, low, e, e'⟩
    · subst e e'
      exact yields_secGo live reach port (by decide) (by decide) (fun e => absurd e (by decide)) rfl (fun t => secGo_busy (s.hub.placed t) m busy (.inl ⟨rfl, rfl⟩)) fun _ => rfl
    · subst e e'
      exact yields_secGo live reach port (by decide) (by decide) (fun e => absurd e (by decide)) rfl (fun t => secGo_busy (s.hub.placed t) m busy (.inr (.inl ⟨rfl, rfl⟩)))
        fun _ => rfl
    · subst e e'
      exact yields_secGo live reach port (by decide) low (fun _ => operator) (exec_ownerRegister m low s)
        (fun t => secGo_busy (s.hub.placed t) m busy (.inr (.inr ⟨rfl, rfl⟩))) fun _ => rfl
  · exact yields_secGo live reach port (by decide) (by decide) (fun e => absurd e (by decide)) rfl (fun t => secGo_busy_drop (s.hub.placed t) m busy) fun _ => rfl
  · exact (noncesDue_one s.hub m port due others).trans (updSecM_twice _ m _ _)
  · refine yields_of_eq rfl live (fun t => leaseExpiry_ends (s.hub.placed t) m role past) fun t => ⟨?_, fun x other => ?_, rfl⟩
    · exact Hub.getSecM_updSecM (s.hub.placed t) m _
    · exact Hub.getSecM_updSecM_ne (s.hub.placed t) _ other
  · refine yields_of_eq rfl live (fun t => keyoutExpiry_clears (s.hub.placed t) m full past) fun t => ⟨?_, fun x other => ?_, rfl⟩
    · exact Hub.getSecM_updSecM (s.hub.placed t) m _
    · exact Hub.getSecM_updSecM_ne (s.hub.placed t) _ other
  · exact yields_of_eq rfl live (fun t => revokeCommit_issues (s.hub.placed t) head free other idle) fun _ => ⟨rfl, rfl⟩

end Sys2Proof.Machine
end

section
/-!
O51: Chain windows (R26, R70, R87).
-/
namespace Sys2Proof.Machine

/-! ## Which stations a window holds -/

theorem SMap.get_mem {α : Type} (d : α) (m : SMap α) (k : Nat) : SMap.get d m k = d ∨ (k, SMap.get d m k) ∈ m := by
  induction m with
  | nil => exact .inl rfl
  | cons x m ih =>
    unfold SMap.get
    split
    · next here =>
      subst here
      exact .inr List.mem_cons_self
    · exact ih.imp_right (List.mem_cons_of_mem x)

theorem SMap.mem_upd_value {α : Type} [DecidableEq α] {d : α} {m : SMap α} {k : Nat} {f : α → α} {e : Nat × α} (mem : e ∈ SMap.upd d m k f) :
    e ∈ m ∨ e = (k, f (SMap.get d m k)) := by
  unfold SMap.upd SMap.set at mem
  split at mem
  · exact .inl (SMap.mem_of_mem_del mem)
  · exact (SMap.mem_put mem).imp_left SMap.mem_of_mem_del

section Windows

variable {h : Hub} {m y : Master} {x : Nat} {f : Window → Window}

theorem getWin_updWin (h : Hub) (m : Master) (f : Window → Window) : (h.updWin m f).getWin m = f (h.getWin m) := SMap.get_upd_self ..

theorem getWin_updWin_ne (h : Hub) (f : Window → Window) (other : y ≠ m) : (h.updWin m f).getWin y = h.getWin y :=
  SMap.get_upd_ne _ _ _ (Master.idx_ne other)

theorem updWin_twice (h : Hub) (m : Master) (f g : Window → Window) : (h.updWin m f).updWin m g = h.updWin m fun w => g (f w) := by
  unfold Hub.updWin SMap.upd
  simp only [SMap.get_set_self, set_set]

theorem windowHeld_false : h.windowHeld x = false ↔ ∀ w ∈ h.chain.win, ¬ (w.2.held = true ∧ w.2.station = x) := by
  simp [Hub.windowHeld]

theorem windowHeld_of_getWin (held : (h.getWin y).held = true) (here : (h.getWin y).station = x) : h.windowHeld x = true := by
  rw [Hub.windowHeld, List.any_eq_true]
  refine ⟨(y.idx, h.getWin y), (SMap.get_mem _ h.chain.win y.idx).resolve_left fun unset => ?_, ?_⟩
  · rw [show h.getWin y = {} from unset] at held
    cases held
  · simp [held, here]

/-- A change of a window that takes no station leaves a free station free. -/
theorem windowHeld_updWin (free : h.windowHeld x = false) (takes : ∀ w, (f w).held = true → w.held = true ∧ (f w).station = w.station) :
    (h.updWin m f).windowHeld x = false := by
  have own : ¬ ((h.getWin m).held = true ∧ (h.getWin m).station = x) := fun here => by
    rw [windowHeld_of_getWin here.1 here.2] at free
    cases free
  rw [windowHeld_false] at free ⊢
  intro w mem here
  rcases SMap.mem_upd_value mem with old | new
  · exact free w old here
  · subst new
    obtain ⟨held, station⟩ := takes _ here.1
    exact own ⟨held, station.symm.trans here.2⟩

end Windows

/-! ## The copy of a slot -/

/-- A register's word in a slot is at or behind the slot's start. -/
theorem findRow_hit {rows : List RegRow} {off i : Nat} {r : RegRow} {b : Bool} (e : findRow rows off = some (r, i, b)) : b = true → 4 ≤ off := by
  induction rows with
  | nil => cases e
  | cons first rows ih =>
    unfold findRow at e
    split at e
    · next hit =>
      cases e
      intro upper
      subst upper
      unfold RegRow.hit at hit
      split at hit
      · cases hit
      · simp only at hit
        split at hit
        · cases hit
        · split at hit
          · cases hit
          · split at hit
            · next pair =>
              simp only [Bool.and_eq_true, decide_eq_true_eq] at pair
              have := Nat.mod_le (off - r.base) r.stride
              omega
            · cases hit
    · exact ih e

theorem locate_slot {x o : Nat} {l : Loc} (small : x < 1184) (low : o < 4096) (e : locate (pchOff x o) = some l) : l.stn = x ∧ 0x100000 ≤ l.base := by
  have high : ¬ pchOff x o < 0xC0000 := by unfold pchOff; omega
  have slot : 0x100000 ≤ pchOff x o ∧ pchOff x o < 0x900000 := by unfold pchOff; omega
  have stn : (pchOff x o - 0x100000) / 0x1000 = x := by unfold pchOff; omega
  have off : (pchOff x o - 0x100000) % 0x1000 = o := by unfold pchOff; omega
  have ok : stnOk x = true := decide_eq_true small
  unfold locate at e
  rw [if_neg high, if_pos slot] at e
  simp only [stn, off, ok, Bool.not_true, Bool.false_eq_true, if_false] at e
  split at e
  · next r i b found =>
    have upper := findRow_hit found
    split at e
    · cases e
      refine ⟨rfl, ?_⟩
      dsimp only
      unfold pchOff
      cases b <;> by_cases mirrored : 0x800 ≤ o <;> 
        simp only [mirrored, decide_true, decide_false, if_true, Bool.false_eq_true, if_false, true_implies] at upper ⊢ <;> omega
    · cases e
  · cases e

section Copy

variable (h : Hub) (e : Er) (w : SMap Window) (r : SMap RcCell)

/-- The hub with another recorder, other windows and other RC fields. -/
def Hub.windowed : Hub := { h with er := e, chain := { h.chain with win := w }, rc := r }

variable {h e w r} {x : Nat}

theorem pchView_windowed (held : (h.windowed e w r).windowHeld x = h.windowHeld x)
    (counts : ∀ o b, (h.windowed e w r).rcVal (pchOff x o) 0 b = h.rcVal (pchOff x o) 0 b) (f : Fam) (i : Nat) :
    pchView (h.windowed e w r) x f i = pchView h x f i := by
  have status : (h.windowed e w r).pchStatus x = h.pchStatus x := by
    unfold Hub.pchStatus
    rw [held]
    rfl
  unfold pchView
  simp only [counts, status]
  rfl

theorem wordAt_windowed (held : (h.windowed e w r).windowHeld x = h.windowHeld x)
    (counts : ∀ o b, (h.windowed e w r).rcVal (pchOff x o) 0 b = h.rcVal (pchOff x o) 0 b) (small : x < 1184) {o : Nat} (low : o < 4096) (m : Master) :
    (h.windowed e w r).wordAt m (pchOff x o) = h.wordAt m (pchOff x o) := by
  unfold Hub.wordAt
  cases found : locate (pchOff x o) with
  | none => rfl
  | some l =>
    obtain ⟨stn, base⟩ := locate_slot small low found
    subst stn
    have value : l.value (h.windowed e w r) m = l.value h m := by
      unfold Loc.value
      rw [if_pos base, if_pos base, pchView_windowed held counts]
      rfl
    exact congrArg (fun v => (if l.hi then v / 2 ^ 32 else v) % 2 ^ 32) value

theorem slotCopy_windowed (held : (h.windowed e w r).windowHeld x = h.windowHeld x)
    (counts : ∀ o b, (h.windowed e w r).rcVal (pchOff x o) 0 b = h.rcVal (pchOff x o) 0 b) (small : x < 1184) :
    (h.windowed e w r).slotCopy x = h.slotCopy x := by
  have words (n : Nat) (few : n ≤ 1024) :
      (List.range n).foldl (fun c k => SMap.set 0 c (4 * k) ((h.windowed e w r).wordAt .host (pchOff x (4 * k)))) [] =
        (List.range n).foldl (fun c k => SMap.set 0 c (4 * k) (h.wordAt .host (pchOff x (4 * k)))) [] :=
    List.foldl_ext _ _ _ fun c k mem => by
      rw [wordAt_windowed held counts small (by have := List.mem_range.mp mem; omega)]
  exact words 1024 (Nat.le_refl _)

theorem slotCopy_get (h : Hub) (x : Nat) {k : Nat} (low : k < 1024) : SMap.get 0 (h.slotCopy x) (4 * k) = h.wordAt .host (pchOff x (4 * k)) := by
  have words (n : Nat) : SMap.get 0 ((List.range n).foldl (fun c k => SMap.set 0 c (4 * k) (h.wordAt .host (pchOff x (4 * k)))) []) (4 * k) =
      if k < n then h.wordAt .host (pchOff x (4 * k)) else 0 := by
    induction n with
    | zero => rfl
    | succ n ih =>
      rw [List.range_succ, List.foldl_append, List.foldl_cons, List.foldl_nil]
      by_cases here : k = n
      · subst here
        rw [SMap.get_set_self, if_pos (Nat.lt_succ_self _)]
      · rw [SMap.get_set_ne _ _ _ (by omega), ih]
        simp only [Nat.lt_succ_iff_lt_or_eq, here, or_false]
  exact (words 1024).trans (if_pos low)

end Copy

/-! ## Acquire, release and expiry -/

section Effects

variable (h : Hub) (m : Master) {x : Nat}

/-- The RC fields after the end of the master's window, if it holds one (R87). -/
def Hub.endedRc (h : Hub) (m : Master) : SMap RcCell := if (h.getWin m).held = true then (h.rcZero 0x44 m.idx 30).rc else h.rc

theorem winDrop_eq (st : Nat) :
    h.winDrop m st = { h.updWin m (fun w => { w with held := false, copy := [], status := st }) with rc := h.endedRc m } := by
  unfold Hub.winDrop Hub.endedRc
  dsimp only
  split <;> rfl

theorem endedRc_slot (x o b : Nat) : (SMap.get {} (h.endedRc m) (rcKey (pchOff x o) 0 b)).old = h.rcVal (pchOff x o) 0 b := by
  have other : rcKey (pchOff x o) 0 b ≠ rcKey 0x44 m.idx 30 := by
    have four : m.idx < 4 := by cases m <;> decide
    unfold rcKey pchOff
    omega
  unfold Hub.endedRc
  split
  · exact congrArg RcCell.old (SMap.get_set_ne {} h.rc {} other)
  · rfl

/-- The window that an acquire of station `x` leaves. -/
def Window.taken (w : Window) (x tick : Nat) (copy : SMap Nat) : Window :=
  { w with sel := x, held := true, station := x, from_ := tick, status := stOk, copy := copy }

theorem Window.taken_copy (w : Window) (x tick : Nat) (copy : SMap Nat) : (w.taken x tick copy).copy = copy := rfl

theorem stnOk_of_lt (small : x < 1184) : stnOk x = true := decide_eq_true small

theorem winAcquire_takes (small : x < 1184) (seen : h.observed x = true) (free : h.windowHeld x = false) :
    h.winAcquire m x =
      { h.updWin m (fun w => { w with held := true, station := x, from_ := h.now, status := stOk, copy := h.slotCopy x }) with rc := h.endedRc m } := by
  unfold Hub.winAcquire
  rw [if_neg (by rw [stnOk_of_lt small]; decide)]
  by_cases held : (h.getWin m).held = true
  · simp only [held, if_true]
    have dropped := winDrop_eq h m stOk
    have free' : (h.updWin m fun w => { w with held := false, copy := [], status := stOk }).windowHeld x = false :=
      windowHeld_updWin free fun w taken => absurd taken Bool.noConfusion
    have copy : (h.winDrop m stOk).slotCopy x = h.slotCopy x := by
      rw [dropped]
      exact slotCopy_windowed (h := h) (e := h.er) (free'.trans free.symm) (endedRc_slot h m x) small
    have seen' : (h.winDrop m stOk).observed x = true := by
      rw [dropped]
      exact seen
    have free'' : (h.winDrop m stOk).windowHeld x = false := by
      rw [dropped]
      exact free'
    rw [seen', free'', copy, dropped]
    exact congrArg (fun g : Hub => { g with rc := h.endedRc m }) (updWin_twice h m _ _)
  · simp only [held, Bool.false_eq_true, if_false, seen, free]
    rw [Hub.endedRc, if_neg held]
    rfl

theorem winAcquire_busy (small : x < 1184) (seen : h.observed x = true) (idle : (h.getWin m).held = false) (taken : h.windowHeld x = true) :
    h.winAcquire m x = h.updWin m fun w => { w with status := stBusy } := by
  unfold Hub.winAcquire
  rw [if_neg (by rw [stnOk_of_lt small]; decide)]
  simp only [idle, Bool.false_eq_true, if_false, seen, taken, Bool.not_true, if_true]
  exact if_pos (by decide)

theorem winAcquire_nounit (none_ : 1184 ≤ x) : h.winAcquire m x = h.updWin m fun w => { w with status := stNounit } := by
  have bad : stnOk x = false := decide_eq_false (Nat.not_lt.mpr none_)
  rw [Hub.winAcquire, if_pos (by rw [bad]; rfl)]

theorem acquireWord (low : x < 2048) : field (2 ^ 12 + x) 10 0 = x ∧ bit (2 ^ 12 + x) 12 = true := by
  refine ⟨?_, ?_⟩
  · rw [field, Nat.shiftRight_eq_div_pow]
    omega
  · rw [bit, Nat.testBit_eq_decide_div_mod_eq, decide_eq_true_eq]
    omega

theorem releaseWord (low : x < 2048) : field (2 ^ 13 + x) 10 0 = x ∧ bit (2 ^ 13 + x) 12 = false ∧ bit (2 ^ 13 + x) 13 = true := by
  refine ⟨?_, ?_, ?_⟩
  · rw [field, Nat.shiftRight_eq_div_pow]
    omega
  · rw [bit, Nat.testBit_eq_decide_div_mod_eq, decide_eq_false_iff_not]
    omega
  · rw [bit, Nat.testBit_eq_decide_div_mod_eq, decide_eq_true_eq]
    omega

theorem winWrite_acquire (low : x < 2048) : h.winWrite m (2 ^ 12 + x) = (h.updWin m fun w => { w with sel := x }).winAcquire m x := by
  unfold Hub.winWrite
  rw [(acquireWord low).1, (acquireWord low).2]
  rfl

/-- An acquire of a free station takes a copy of its slot. -/
theorem winWrite_takes (small : x < 1184) (seen : h.observed x = true) (free : h.windowHeld x = false) :
    h.winWrite m (2 ^ 12 + x) = { h.updWin m (Window.taken · x h.now (h.slotCopy x)) with rc := h.endedRc m } := by
  have free' : (h.updWin m fun w => { w with sel := x }).windowHeld x = false := windowHeld_updWin free fun w taken => ⟨taken, rfl⟩
  have copy : (h.updWin m fun w => { w with sel := x }).slotCopy x = h.slotCopy x :=
    slotCopy_windowed (h := h) (e := h.er) (r := h.rc) (free'.trans free.symm) (fun _ _ => rfl) small
  have held : ((h.updWin m fun w => { w with sel := x }).getWin m).held = (h.getWin m).held := by rw [getWin_updWin]
  have ended : (h.updWin m fun w => { w with sel := x }).endedRc m = h.endedRc m := by
    unfold Hub.endedRc
    rw [held]
    rfl
  rw [winWrite_acquire h m (by omega), winAcquire_takes (h.updWin m fun w => { w with sel := x }) m small seen free', copy, ended]
  exact congrArg (fun g : Hub => { g with rc := h.endedRc m }) (updWin_twice h m _ _)

theorem winWrite_busy (small : x < 1184) (seen : h.observed x = true) (idle : (h.getWin m).held = false) {y : Master} (other : y ≠ m)
    (held : (h.getWin y).held = true) (here : (h.getWin y).station = x) :
    h.winWrite m (2 ^ 12 + x) = h.updWin m fun w => { w with sel := x, status := stBusy } := by
  have same := getWin_updWin_ne h (m := m) (fun w => { w with sel := x }) other
  rw [winWrite_acquire h m (by omega), winAcquire_busy (h.updWin m fun w => { w with sel := x }) m small seen (by rw [getWin_updWin]; exact idle)
    (windowHeld_of_getWin (by rw [same]; exact held) (by rw [same]; exact here)), updWin_twice]

theorem winWrite_nounit (none_ : 1184 ≤ x) (low : x < 2048) :
    h.winWrite m (2 ^ 12 + x) = h.updWin m fun w => { w with sel := x, status := stNounit } := by
  rw [winWrite_acquire h m low, winAcquire_nounit (h.updWin m fun w => { w with sel := x }) m none_, updWin_twice]

theorem winWrite_release (low : (h.getWin m).sel < 2048) :
    h.winWrite m (2 ^ 13 + (h.getWin m).sel) =
      { h.updWin m (fun w => { w with held := false, copy := [], status := stOk }) with rc := h.endedRc m } := by
  have selected : (h.updWin m fun w => { w with sel := (h.getWin m).sel }) = h.updWin m id := rfl
  unfold Hub.winWrite
  rw [(releaseWord low).1, (releaseWord low).2.1, (releaseWord low).2.2]
  dsimp only
  rw [selected, if_neg Bool.noConfusion, if_pos rfl, winDrop_eq, updWin_twice]
  have held : ((h.updWin m id).getWin m).held = (h.getWin m).held := by rw [getWin_updWin]; rfl
  have ended : (h.updWin m id).endedRc m = h.endedRc m := by
    unfold Hub.endedRc
    rw [held]
    rfl
  rw [ended]
  rfl

theorem winExpiry_due (held : (h.getWin m).held = true) (due : (h.getWin m).from_ + 1000000000 ≤ h.now) :
    h.winExpiry m = { h.updWin m (fun w => { w with held := false, copy := [], status := stExpired }) with
      rc := ((h.rcZero 0x44 m.idx 30).rcSet 0x44 m.idx 30).rc,
      er := h.er.audit { h.auditBy m 0x0803 with unit := (h.getWin m).station * 8, status := stExpired, arg := (h.getWin m).from_ } } := by
  unfold Hub.winExpiry
  dsimp only
  rw [if_neg (by rw [held, decide_eq_false (Nat.not_lt.mpr due)]; decide), record_audit _ _ rfl, winDrop_eq, Hub.endedRc, if_pos held]
  rfl

end Effects

theorem locate_hubChwin : locate 0x40 = some (.acting true .hubChwin 0x40 .glob .cfg) := by decide +kernel

/-- A command that is a write of HUB_CHWIN. -/
theorem yields_chwin {s : State} {m : Master} {c : Instr} {P : Hub → State → Prop} {w : Nat} {g : SMap Nat → Er → Hub} (live : s.hub.live = true)
    (reach : s.hub.reaches m = true) (right : m = .pair ∨ s.hub.role m ≠ 0) (b : w < 2 ^ 32)
    (x : exec c s = run c (fun mem h => h.busWrite mem m 0x40 4 w) s) (effect : ∀ t r, Hub.winWrite { s.hub.placed t with er := r } m w = g t r)
    (p : ∀ t, P (s.hub.placed t) (lands s ((g t (roleEr s.hub m 0x40 w)).respond m 0 false))) : Yields c s P :=
  yields_act x live reach locate_hubChwin rfl (by decide) rfl b
    (by rcases right with e | e <;> simp [Hub.mayWrite, Loc.acting, e, Nat.one_le_iff_ne_zero]) effect p

theorem copy_of_taken (h : Hub) (x : Nat) {v w : Window} {tick k : Nat} (e : w = v.taken x tick (h.slotCopy x)) (low : k < 1024) :
    SMap.get 0 w.copy (4 * k) = h.wordAt .host (pchOff x (4 * k)) := by
  rw [e, Window.taken_copy, slotCopy_get h x low]

theorem exec_chwinAcquire (m : Master) {x : Nat} (low : x < 2048) (s : State) :
    exec (.chwinAcquire m x) s = run (.chwinAcquire m x) (fun mem h => h.busWrite mem m 0x40 4 (2 ^ 12 + x)) s := by
  rw [show exec (.chwinAcquire m x) s = execChwinAcquire m x s from rfl, execChwinAcquire, Nat.mod_eq_of_lt low]

/-- The release writes back the station of the last acquire (R70). -/
theorem yields_chwinRelease {s : State} {m : Master} {P : Hub → State → Prop} (live : s.hub.live = true) (reach : s.hub.reaches m = true)
    (right : m = .pair ∨ s.hub.role m ≠ 0) (low : (s.hub.getWin m).sel < 2048)
    (p : ∀ t, P (s.hub.placed t)
      (lands s ((Hub.winWrite { s.hub.placed t with er := roleEr s.hub m 0x40 (2 ^ 13 + (s.hub.getWin m).sel) } m
        (2 ^ 13 + (s.hub.getWin m).sel)).respond m 0 false))) : Yields (.chwinRelease m) s P := by
  refine yields_run rfl live fun t => ?_
  have word : ((s.hub.placed t).getWin m).sel % 2048 = (s.hub.getWin m).sel := Nat.mod_eq_of_lt low
  have may : s.hub.mayWrite m (.acting true .hubChwin 0x40 .glob .cfg) (2 ^ 13 + (s.hub.getWin m).sel) = true := by
    rcases right with e | e <;> simp [Hub.mayWrite, Loc.acting, e, Nat.one_le_iff_ne_zero]
  have quiet : slotQuiet s.hub 0x40 := fun slot => absurd slot (by decide)
  rw [word, busWrite_word (s.hub.placed t) s.mem m 0x40 _ reach rfl (by omega),
    write32_single (s.hub.placed t) s.mem m 0x40 (.acting true .hubChwin 0x40 .glob .cfg) _ locate_hubChwin rfl may (lostSlot_low _ _ (by decide)) quiet
      (by omega) rfl]
  exact p t

/-- Settles O51: an acquire of a free station, of one that is taken and of none, a release, and the end of a lease. -/
theorem chainWindows : Obligations.ChainWindows := by
  refine fun s m live => ⟨fun reach right => ⟨fun x small seen free => ?_, fun x small seen idle ⟨y, other, held, here⟩ => ?_, fun x none_ low => ?_,
    fun low => ?_⟩, fun held due => ?_⟩
  · have copy (t : SMap Nat) (r : Er) : Hub.slotCopy { s.hub.placed t with er := r } x = s.hub.slotCopy x :=
      slotCopy_windowed (h := s.hub.placed t) (e := r) (w := s.hub.chain.win) (r := s.hub.rc) rfl (fun _ _ => rfl) small
    refine yields_chwin live reach right (by omega) (exec_chwinAcquire m (by omega) s)
      (fun t r => (winWrite_takes { s.hub.placed t with er := r } m small seen free).trans (by rw [copy])) fun t => ⟨?_, fun k small => ?_, fun y other => ?_, rfl⟩
    · exact getWin_updWin (s.hub.placed t) m _
    · exact copy_of_taken s.hub x (getWin_updWin (s.hub.placed t) m (Window.taken · x s.hub.now (s.hub.slotCopy x))) small
    · exact getWin_updWin_ne (s.hub.placed t) _ other
  · exact yields_chwin live reach right (by omega) (exec_chwinAcquire m (by omega) s)
      (fun t r => winWrite_busy { s.hub.placed t with er := r } m small seen idle other held here)
      fun t => ⟨getWin_updWin (s.hub.placed t) m _, fun y other => getWin_updWin_ne (s.hub.placed t) _ other, rfl⟩
  · exact yields_chwin live reach right (by omega) (exec_chwinAcquire m low s)
      (fun t r => winWrite_nounit { s.hub.placed t with er := r } m none_ low)
      fun t => ⟨getWin_updWin (s.hub.placed t) m _, fun y other => getWin_updWin_ne (s.hub.placed t) _ other, rfl⟩
  · refine yields_chwinRelease live reach right low fun t => ?_
    have released := winWrite_release { s.hub.placed t with er := roleEr s.hub m 0x40 (2 ^ 13 + (s.hub.getWin m).sel) } m low
    refine congrArg (fun g : Hub => lands s (g.respond m 0 false)) released ▸ ⟨?_, fun y other => ?_, rfl⟩
    · exact getWin_updWin (s.hub.placed t) m _
    · exact getWin_updWin_ne (s.hub.placed t) _ other
  · exact yields_of_eq rfl live (fun t => winExpiry_due (s.hub.placed t) m held due) fun t =>
      ⟨getWin_updWin (s.hub.placed t) m _, fun x other => getWin_updWin_ne (s.hub.placed t) _ other, rcTotal_rcSet _ 0x44 m.idx 30, rfl⟩

end Sys2Proof.Machine
end

section
/-!
O53: requests to the cut engine (R256, R257, R266, R268, R269, R274 to R280, R508).
-/
namespace Sys2Proof.Machine

/-! ## The words of requests -/

/-- A word of CUT_REQ or CUT_RESUME for slice `k` with go and auto at 1. -/
abbrev CutWord (xpkg : Bool) (k w : Nat) : Prop :=
  w < 2 ^ 32 ∧ bit w 31 = true ∧ bit w 30 = false ∧ bit w 29 = xpkg ∧ bit w 28 = false ∧ bit w 27 = true ∧ w % 64 = k

theorem cutWord_plain : ∀ k < 64, CutWord false k (2 ^ 31 + 2 ^ 27 + k) := by decide +kernel
theorem cutWord_xpkg : ∀ k < 64, CutWord true k (2 ^ 31 + 2 ^ 29 + 2 ^ 27 + k) := by decide +kernel

theorem goWord_cut : ∀ k < 64, goWord (b2n false) 30 (at_ (b2n false) 29 + at_ (b2n false) 28 + at_ (b2n true) 27 + k % 64) = 2 ^ 31 + 2 ^ 27 + k ∧
    goWord (b2n false) 30 (at_ (b2n true) 29 + at_ (b2n false) 28 + at_ (b2n true) 27 + k % 64) = 2 ^ 31 + 2 ^ 29 + 2 ^ 27 + k ∧
    goWord (b2n false) 30 (at_ (b2n false) 29 + at_ (b2n true) 27 + k % 64) = 2 ^ 31 + 2 ^ 27 + k := by decide +kernel

/-- The fields of a write of CUT_STEP in cycle mode with go and auto at 1. -/
theorem stepWord {n : Nat} (low : n < 2 ^ 24) :
    goWord (b2n true) 30 (at_ (b2n false) 29 + at_ (b2n true) 28 + n % 2 ^ 24) = 2 ^ 31 + 2 ^ 30 + 2 ^ 28 + n ∧
      bit (2 ^ 31 + 2 ^ 30 + 2 ^ 28 + n) 31 = true ∧ bit (2 ^ 31 + 2 ^ 30 + 2 ^ 28 + n) 30 = true ∧ bit (2 ^ 31 + 2 ^ 30 + 2 ^ 28 + n) 29 = false ∧
      bit (2 ^ 31 + 2 ^ 30 + 2 ^ 28 + n) 28 = true ∧ (2 ^ 31 + 2 ^ 30 + 2 ^ 28 + n) % 2 ^ 24 = n := by
  have one : b2n true = 1 := rfl
  have zero : b2n false = 0 := rfl
  simp only [goWord, at_, Nat.shiftLeft_eq, bit, Nat.testBit_eq_decide_div_mod_eq, decide_eq_true_eq, decide_eq_false_iff_not, one, zero]
  omega

section Parts

variable (h : Hub) (m : Master)

theorem updCutM_twice (f g : CutM → CutM) : (h.updCutM m f).updCutM m g = h.updCutM m fun x => g (f x) := by
  unfold Hub.updCutM SMap.upd
  simp only [SMap.get_set_self, set_set]

theorem leadOk_of (lead : Nat) (least : h.leastLead ≤ lead) (most : lead ≤ 1000000000) : h.leadOk (h.now + lead) = true := by
  rw [Hub.leadOk, Bool.and_eq_true, decide_eq_true_eq, decide_eq_true_eq]
  omega

theorem autoTick_eq {lead : Nat} (e : lead = if h.clk.fallback then Nat.max (h.rwGet 0x400 0x30054 0 % 2 ^ 20) 5120 else h.rwGet 0x400 0x30054 0 % 2 ^ 20) :
    h.autoTick = h.now + lead := by
  rw [e, Hub.autoTick]
  cases h.clk.fallback with
  | true => rfl
  | false => exact congrArg (h.now + ·) (Nat.max_eq_left (Nat.zero_le _))

theorem xTick_eq {lead : Nat}
    (e : lead = if h.clk.fallback then Nat.max (h.rwGet 0x3E810000 0x30058 0 % 2 ^ 20) 5120 else h.rwGet 0x3E810000 0x30058 0 % 2 ^ 20) :
    h.xTick = h.now + lead := by
  rw [e, Hub.xTick]
  cases h.clk.fallback with
  | true => rfl
  | false => exact congrArg (h.now + ·) (Nat.max_eq_left (Nat.zero_le _))

theorem forward_unlinked (but : Option Nat) (type hops flags id pasid tick : Nat) (none_ : h.trainedLinks = []) :
    h.forward but type hops flags id pasid tick = h := by
  rw [Hub.forward, none_]
  rfl

/-! ## A new cut -/

/-- The cut engine with the cut of slice `k` that master `m` has scheduled for tick `t` (R257). -/
def Hub.cutTaken (h : Hub) (m : Master) (k t : Nat) (xpkg : Bool) : Cut :=
  { h.cut with
    cuts := h.cut.cuts ++ [scheduledCut h m k t xpkg], serial := nextSerial h.cut.serial, known := remember h.cut.known (cutIdOf h, 255) }

/-- The request for record 0x0501. -/
def Hub.cutRecord (h : Hub) (m : Master) (id k t aux : Nat) : Req :=
  { h.evt 5 0x0501 with slice := k, origin := h.originOf m, arg := id, words := [t], aux := aux }

/-- The same, where it is the only cut. -/
def Hub.cutFirst (h : Hub) (m : Master) (k t : Nat) (xpkg : Bool) : Cut :=
  { h.cut with cuts := [scheduledCut h m k t xpkg], serial := nextSerial h.cut.serial, known := remember h.cut.known (cutIdOf h, 255) }

theorem cutTaken_first (k t : Nat) (xpkg : Bool) (empty : h.cut.cuts = []) : h.cutTaken m k t xpkg = h.cutFirst m k t xpkg := by
  rw [Hub.cutTaken, empty]
  rfl

theorem newCut_plain (k t : Nat) :
    h.newCut (.master m) false false false k t none =
      (cutIdOf h, Hub.record { h with cut := h.cutTaken m k t false } (h.cutRecord m (cutIdOf h) k t 16)) := rfl

/-- The hub as the origin of a cut across packages (R272). -/
def Hub.xKnown (h : Hub) (c : Cut) (t : Nat) : Hub :=
  { h with
    cut := { c with
      xid := cutIdOf h, reported := 0, late := 0, counting := true, xend := t + Nat.max 1 (field (h.rwGet 0x3E810000 0x30058 0) 31 20) * 1000 },
    hang := { h.hang with reported := [] } }

/-- The same, once its schedule has gone out. -/
def Hub.xSent (h : Hub) (c : Cut) (k t : Nat) : Hub :=
  ((h.xKnown c t).forward none 0x21 0 (b2n false + 2 * b2n false) (cutIdOf h) ((h.xKnown c t).scopePasid false k) t).scheduleSent
    (cutIdOf h) (h.xKnown c t).trainedLinks

/-- The same, where there is no link. -/
def Hub.xOrigin (h : Hub) (c : Cut) (t : Nat) : Hub :=
  { h.xKnown c t with cut := { (h.xKnown c t).cut with sentOn := ((cutIdOf h, []) :: h.cut.sentOn).take 64 } }

theorem newCut_xpkg (k t : Nat) (none_ : h.trainedLinks = []) :
    h.newCut (.master m) false false true k t none =
      (cutIdOf h, Hub.record (h.xOrigin (h.cutTaken m k t true) t) (h.cutRecord m (cutIdOf h) k t 18)) := by
  have sent : h.newCut (.master m) false false true k t none =
      (cutIdOf h, (h.xSent (h.cutTaken m k t true) k t).record ((h.xSent (h.cutTaken m k t true) k t).cutRecord m (cutIdOf h) k t 18)) := rfl
  have linkless : (h.xKnown (h.cutTaken m k t true) t).trainedLinks = [] := none_
  have origin : h.xSent (h.cutTaken m k t true) k t = h.xOrigin (h.cutTaken m k t true) t := by
    rw [Hub.xSent, forward_unlinked (h.xKnown (h.cutTaken m k t true) t) _ _ _ _ _ _ _ linkless, linkless]
    rfl
  rw [sent, origin]
  rfl

/-! ## Requests -/

theorem updCut_one (f : CutRec → CutRec) {r : CutRec} (one : h.cut.cuts = [r]) : h.updCut r.id f = { h with cut := { h.cut with cuts := [f r] } } := by
  rw [Hub.updCut, one, List.map_cons, List.map_nil, if_pos rfl]

theorem scheduledCut_id (k t : Nat) (xpkg : Bool) : (scheduledCut h m k t xpkg).id = cutIdOf h := rfl

theorem scheduledCut_joined (k t : Nat) (xpkg : Bool) : (scheduledCut h m k t xpkg).masters.contains m = true :=
  List.contains_iff_mem.mpr List.mem_cons_self

/-- A master that has joined the one cut joins it again. -/
theorem updCut_joined {r : CutRec} {id : Nat} (one : h.cut.cuts = [r]) (joined : r.masters.contains m = true) (mine : r.id = id) :
    h.updCut id (fun r => { r with masters := if r.masters.contains m then r.masters else r.masters ++ [m] }) = h := by
  have same : h.cut.cuts.map (fun q => if q.id = r.id then { q with masters := if q.masters.contains m then q.masters else q.masters ++ [m] } else q) =
      h.cut.cuts := by
    rw [one, List.map_cons, List.map_nil, if_pos rfl, if_pos joined]
  rw [← mine, Hub.updCut, same]

theorem cutSchedule_denied {k t : Nat} (xpkg : Bool) (there : h.sliceExists k = true) (denied : h.cutAllowed (.master m) false k = false) :
    h.cutSchedule (.master m) false false xpkg k t none = (stDenied, none, h) := by
  unfold Hub.cutSchedule
  rw [there, denied]
  rfl

theorem cutSchedule_new {k t : Nat} (xpkg : Bool) (there : h.sliceExists k = true) (allowed : h.cutAllowed (.master m) false k = true)
    (empty : h.cut.cuts = []) (lead : h.leadOk t = true) :
    h.cutSchedule (.master m) false false xpkg k t none =
      (stOk, some (h.newCut (.master m) false false xpkg k t none).1, (h.newCut (.master m) false false xpkg k t none).2) := by
  have noCut : h.cut.ofSlice k = none := by
    rw [Cut.ofSlice, empty]
    rfl
  unfold Hub.cutSchedule
  rw [there, allowed, noCut, lead]
  rfl

theorem cutReq_denied {k v : Nat} {xpkg : Bool} (word : CutWord xpkg k v) (there : h.sliceExists k = true) (denied : h.cutAllowed (.master m) false k = false) :
    h.cutReq m v = h.updCutM m fun c => { c with status := stDenied, cut := 0 } := by
  obtain ⟨-, go, slice, -, plain, -, k_eq⟩ := word
  unfold Hub.cutReq
  dsimp only
  rw [go, slice, plain, k_eq, Bool.false_and, cutSchedule_denied h m (bit v 29) there denied]
  rfl

/-- A cut of one slice that is taken: its master joins it. -/
theorem cutReq_new {k v t : Nat} {xpkg : Bool} (word : CutWord xpkg k v) (tick : (if xpkg then h.xTick else h.autoTick) = t) (there : h.sliceExists k = true)
    (allowed : h.cutAllowed (.master m) false k = true) (empty : h.cut.cuts = []) (lead : h.leadOk t = true) {g : Hub} {id : Nat}
    {r : CutRec} (taken : (h.newCut (.master m) false false xpkg k t none) = (id, g)) (one : g.cut.cuts = [r]) (mine : r.id = id)
    (joined : r.masters.contains m = true) :
    h.cutReq m v = g.updCutM m fun _ => { status := stOk, id := id, cut := id } := by
  obtain ⟨-, go, slice, x, plain, auto, k_eq⟩ := word
  unfold Hub.cutReq
  dsimp only
  rw [go, slice, x, plain, auto, k_eq, Bool.false_and, if_neg (by decide), if_pos rfl, tick, cutSchedule_new h m xpkg there allowed empty lead, taken]
  dsimp only
  rw [Bool.false_and, if_neg Bool.noConfusion]
  exact updCut_joined (g.updCutM m fun _ => { status := stOk, id := id, cut := id }) m one joined mine

/-- The hub once the cut engine has taken the cut and its record has been asked for. -/
def Hub.cutAnswered (h : Hub) (m : Master) (c : Cut) (r : Req) : Hub :=
  { h with cut := { c with m := SMap.set {} h.cut.m m.idx { status := stOk, id := r.arg, cut := r.arg } }, er := { h.er with sysq := h.er.sysq ++ [r] } }

theorem cutReq_plain {k v t : Nat} (word : CutWord false k v) (tick : h.autoTick = t) (there : h.sliceExists k = true)
    (allowed : h.cutAllowed (.master m) false k = true) (empty : h.cut.cuts = []) (lead : h.leadOk t = true) (on : h.classOn 5 = true)
    (room : h.er.sysq.length < 32) :
    h.cutReq m v = h.cutAnswered m (h.cutFirst m k t false) (h.cutRecord m (cutIdOf h) k t 16) := by
  have taken := newCut_plain h m k t
  rw [cutTaken_first h m k t false empty,
    record_sysq { h with cut := h.cutFirst m k t false } (h.cutRecord m (cutIdOf h) k t 16) on (show (5 : Nat) ≠ 8 by decide) rfl room] at taken
  exact cutReq_new h m word tick there allowed empty lead taken rfl (scheduledCut_id h m k t false) (scheduledCut_joined h m k t false)

theorem cutReq_xpkg {k v t : Nat} (word : CutWord true k v) (tick : h.xTick = t) (there : h.sliceExists k = true)
    (allowed : h.cutAllowed (.master m) false k = true) (empty : h.cut.cuts = []) (lead : h.leadOk t = true) (on : h.classOn 5 = true)
    (room : h.er.sysq.length < 32) (none_ : h.trainedLinks = []) :
    h.cutReq m v =
      (h.xOrigin (h.cutFirst m k t true) t).cutAnswered m (h.xOrigin (h.cutFirst m k t true) t).cut (h.cutRecord m (cutIdOf h) k t 18) := by
  have taken := newCut_xpkg h m k t none_
  rw [cutTaken_first h m k t true empty,
    record_sysq (h.xOrigin (h.cutFirst m k t true) t) (h.cutRecord m (cutIdOf h) k t 18) on (show (5 : Nat) ≠ 8 by decide) rfl room] at taken
  exact cutReq_new h m word tick there allowed empty lead taken rfl (scheduledCut_id h m k t true) (scheduledCut_joined h m k t true)

theorem cutResume_stopped {k v t : Nat} {r : CutRec} (word : CutWord false k v) (tick : h.autoTick = t) (one : h.cut.cuts = [r]) (notDie : r.die = false) (set : r.set = [k]) (sub : r.sub = [])
    (stopped : r.st = .stopped) (free : h.dumpHolds r false k = false) (lead : h.leadOk t = true) :
    h.cutResume m v = { h with cut := { h.cut with
      cuts := [{ r with st := .resuming, u := t }], m := SMap.upd {} h.cut.m m.idx fun x => { x with status := stOk, cut := r.id } } } := by
  have mine : h.cut.ofSlice k = some r := by
    rw [Cut.ofSlice, one]
    exact List.find?_cons_of_pos (by rw [set]; exact List.contains_iff_mem.mpr List.mem_cons_self)
  have state : r.stOf k = .stopped := by
    rw [CutRec.stOf, sub, stopped]
    rfl
  have request : h.resumeReq false k t = (stOk, h.updCut r.id fun r => { r with st := .resuming, u := t }) := by
    unfold Hub.resumeReq
    rw [if_neg Bool.noConfusion, mine]
    dsimp only
    rw [stopped, state, free, lead, notDie]
    rfl
  obtain ⟨-, go, slice, plain, -, auto, k_eq⟩ := word
  unfold Hub.cutResume
  dsimp only
  rw [go, slice, plain, auto, k_eq, if_neg (by decide), if_pos rfl, tick, request, if_neg Bool.noConfusion, mine, updCut_one h _ one]
  rfl

theorem cutStep_noBench {n : Nat} (low : n < 2 ^ 24) (off : h.cut.bench = false) :
    h.cutStep m (2 ^ 31 + 2 ^ 30 + 2 ^ 28 + n) = h.updCutM m fun c => { c with status := stCutBench, cut := 0 } := by
  unfold Hub.cutStep
  dsimp only
  rw [(stepWord low).2.1, if_neg (by decide), off]
  rfl

theorem cutStep_cycles {n t : Nat} {r : CutRec} (low : n < 2 ^ 24) (some_ : 0 < n) (tick : h.autoTick = t) (on : h.cut.bench = true) (one : h.cut.cuts = [r])
    (die : r.die = true) (stopped : r.st = .stopped) (masters : r.masters = [m]) (lead : h.leadOk t = true) :
    h.cutStep m (2 ^ 31 + 2 ^ 30 + 2 ^ 28 + n) = { h with cut := { h.cut with
      cuts := [{ r with
        st := .stepping, steps := r.steps + 1, mode := true, single := false, n := n, stepUnit := h.rwGet 0 0x30044 0, u := t, timeout := 0 }],
      m := SMap.upd {} h.cut.m m.idx fun x => { x with status := stOk, cut := r.id } } } := by
  obtain ⟨-, go, mode, plain, auto, n_eq⟩ := stepWord low
  have cut : h.stepCut = some r := by
    have mine : h.cut.cuts.filter (fun r => r.die || r.set.contains 0) = [r] := by
      rw [one, List.filter_cons_of_pos (by rw [die]; rfl), List.filter_nil]
    rw [Hub.stepCut, mine, List.find?_cons, List.find?_nil]
    split <;> rfl
  have joined : (if r.masters.contains m then r.masters else r.masters ++ [m]) = r.masters :=
    if_pos (by rw [masters]; exact List.contains_iff_mem.mpr List.mem_cons_self)
  unfold Hub.cutStep
  dsimp only
  rw [go, mode, plain, auto, n_eq, if_neg (by decide), if_neg (by rw [on]; decide), cut]
  dsimp only
  rw [if_pos rfl, tick, if_neg (fun c => c.elim (fun c => c stopped) (Nat.pos_iff_ne_zero.mp some_)), Bool.false_and, Bool.false_and, Bool.false_and,
    if_neg Bool.noConfusion, if_neg Bool.noConfusion, if_neg Bool.noConfusion, if_neg (by rw [lead]; decide), updCut_one h _ one]
  dsimp only
  rw [joined]
  rfl

/-- Bench mode is refused while a slice other than 0 exists (R268). -/
theorem benchWrite_refused {k : Nat} (off : h.cut.bench = false) (other : 0 < k) (there : h.sliceExists k = true) :
    h.benchWrite m true = { h with cut := { h.cut with benchEn := true, bench := false, benchStatus := stCutBench } } := by
  have low : k < 64 := of_decide_eq_true (Bool.and_elim_left there)
  have some_ : h.slices.all (· == 0) = false := by
    rw [List.all_eq_false]
    exact ⟨k, List.mem_filter.mpr ⟨List.mem_range.mpr low, there⟩, by simp; omega⟩
  unfold Hub.benchWrite
  dsimp only
  rw [some_, off]
  rfl

theorem modeBits_bench (on : h.cut.bench = true) : bit h.modeBits 0 = true := by
  have one : b2n h.cut.bench = 1 := by rw [on]; rfl
  rw [Hub.modeBits, one, bit, Nat.testBit_eq_decide_div_mod_eq, decide_eq_true_eq]
  omega

theorem benchWrite_on (off : h.cut.bench = false) (none_ : ∀ k : Nat, 0 < k → h.sliceExists k = false) {on : Hub}
    (e : on = { h with cut := { h.cut with benchEn := true, bench := true, benchStatus := stOk } }) :
    h.benchWrite m true = { on with er := h.er.audit { h.auditBy m 0x0807 with aux := on.modeBits } } := by
  have all : h.slices.all (· == 0) = true := by
    rw [List.all_eq_true]
    intro k mem
    have there := (List.mem_filter.mp mem).2
    by_cases zero : k = 0
    · rw [zero]; rfl
    · rw [none_ k (Nat.pos_of_ne_zero zero)] at there
      cases there
  subst e
  unfold Hub.benchWrite
  dsimp only
  rw [all, off]
  refine (if_neg (by decide)).trans ((if_pos (by decide)).trans ?_)
  rw [record_audit _ _ rfl]
  rfl

end Parts

theorem locate_cutReq : locate 0x30000 = some (.acting false .cutReq 0x30000 .glob .omp) := by decide +kernel
theorem locate_cutResume : locate 0x30030 = some (.acting false .cutResume 0x30030 .glob .omp) := by decide +kernel
theorem locate_cutStep : locate 0x30040 = some (.acting false .cutStep 0x30040 .glob .omp) := by decide +kernel
theorem locate_cutBench : locate 0x30050 = some (.acting false .cutBench 0x30050 .glob .bench) := by decide +kernel

theorem exec_cutRequest (m : Master) {k : Nat} (low : k < 64) (s : State) :
    exec (.cutRequest m false false false true k) s =
        run (.cutRequest m false false false true k) (fun mem h => h.busWrite mem m 0x30000 4 (2 ^ 31 + 2 ^ 27 + k)) s ∧
      exec (.cutRequest m false true false true k) s =
        run (.cutRequest m false true false true k) (fun mem h => h.busWrite mem m 0x30000 4 (2 ^ 31 + 2 ^ 29 + 2 ^ 27 + k)) s := by
  obtain ⟨plain, xpkg, -⟩ := goWord_cut k low
  constructor
  · rw [show exec (.cutRequest m false false false true k) s = execCutRequest m false false false true k s from rfl, execCutRequest, plain]
  · rw [show exec (.cutRequest m false true false true k) s = execCutRequest m false true false true k s from rfl, execCutRequest, xpkg]

theorem exec_cutResume (m : Master) {k : Nat} (low : k < 64) (s : State) :
    exec (.cutResume m false false true k) s =
      run (.cutResume m false false true k) (fun mem h => h.busWrite mem m 0x30030 4 (2 ^ 31 + 2 ^ 27 + k)) s := by
  rw [show exec (.cutResume m false false true k) s = execCutResume m false false true k s from rfl, execCutResume, (goWord_cut k low).2.2]

theorem exec_cutStep (m : Master) {n : Nat} (low : n < 2 ^ 24) (s : State) :
    exec (.cutStep m true false true n) s =
      run (.cutStep m true false true n) (fun mem h => h.busWrite mem m 0x30040 4 (2 ^ 31 + 2 ^ 30 + 2 ^ 28 + n)) s := by
  rw [show exec (.cutStep m true false true n) s = execCutStep m true false true n s from rfl, execCutStep, (stepWord low).1]

theorem roleEr_room {h : Hub} {m : Master} {off w : Nat} (few : h.er.sysq.length < 31) : (roleEr h m off w).sysq.length < 32 :=
  (roleEr_firmware few).1

/-- Settles O53: each request of a master to the cut engine, over the cut that it makes, resumes or steps. -/
theorem cutRequests : Obligations.CutRequests := by
  intro s m lead xlead live reach glob few lead_eq xlead_eq least most xleast xmost
  have omp {l : Loc} {w : Nat} (wr : l.row.wr = .omp) : s.hub.mayWrite m l w = true := by
    rcases glob with e | e | e <;> simp [Hub.mayWrite, wr, e]
  have tick (t : SMap Nat) (r : Er) : Hub.autoTick { s.hub.placed t with er := r } = s.hub.now + lead := autoTick_eq { s.hub.placed t with er := r } lead_eq
  have xtick (t : SMap Nat) (r : Er) : Hub.xTick { s.hub.placed t with er := r } = s.hub.now + xlead := xTick_eq { s.hub.placed t with er := r } xlead_eq
  have soon := leadOk_of s.hub lead least most
  have xsoon := leadOk_of s.hub xlead xleast xmost
  refine ⟨fun k low there allowed empty on => ⟨?_, fun none_ => ?_⟩, fun k low there denied => ?_, fun k r low one notDie set sub stopped free => ?_,
    fun n r some_ low on one die stopped masters => ?_, fun n low off => ?_, fun maker off none_ => ?_, fun k maker off other there => ?_⟩
  · refine yields_act (exec_cutRequest m low s).1 live reach locate_cutReq rfl (by decide) rfl (cutWord_plain k low).1 (omp rfl) (fun t r => rfl)
      fun t => ?_
    refine (congrArg (fun g : Hub => lands s (g.respond m 0 false)) (cutReq_plain { s.hub.placed t with er := roleEr s.hub m 0x30000 (2 ^ 31 + 2 ^ 27 + k) } m
      (cutWord_plain k low) (tick t _) there allowed empty soon on (roleEr_room few))).trans ?_
    rfl
  · refine yields_act (exec_cutRequest m low s).2 live reach locate_cutReq rfl (by decide) rfl (cutWord_xpkg k low).1 (omp rfl) (fun t r => rfl)
      fun t => ?_
    refine (congrArg (fun g : Hub => lands s (g.respond m 0 false)) (cutReq_xpkg
      { s.hub.placed t with er := roleEr s.hub m 0x30000 (2 ^ 31 + 2 ^ 29 + 2 ^ 27 + k) } m
      (cutWord_xpkg k low) (xtick t _) there allowed empty xsoon on (roleEr_room few) none_)).trans ?_
    rfl
  · exact yields_act (exec_cutRequest m low s).1 live reach locate_cutReq rfl (by decide) rfl (cutWord_plain k low).1 (omp rfl)
      (fun t r => cutReq_denied { s.hub.placed t with er := r } m (cutWord_plain k low) there denied) fun t => rfl
  · exact yields_act (exec_cutResume m low s) live reach locate_cutResume rfl (by decide) rfl (cutWord_plain k low).1 (omp rfl)
      (fun t r => cutResume_stopped { s.hub.placed t with er := r } m (cutWord_plain k low) (tick t r) one notDie set sub stopped free soon) fun t => rfl
  · exact yields_act (exec_cutStep m low s) live reach locate_cutStep rfl (by decide) rfl (by omega) (omp rfl)
      (fun t r => cutStep_cycles { s.hub.placed t with er := r } m low some_ (tick t r) on one die stopped masters soon) fun t => rfl
  · exact yields_act (exec_cutStep m low s) live reach locate_cutStep rfl (by decide) rfl (by omega) (omp rfl)
      (fun t r => cutStep_noBench { s.hub.placed t with er := r } m low off) fun t => rfl
  · have may (w : Nat) : s.hub.mayWrite m (.acting false .cutBench 0x30050 .glob .bench) w = true := by simp [Hub.mayWrite, Loc.acting, maker]
    refine yields_act rfl live reach locate_cutBench rfl (by decide) rfl (by decide) (may _)
      (fun t r => benchWrite_on { s.hub.placed t with er := r } m off none_ rfl) fun t => ⟨?_, rfl⟩
    exact modeBits_bench _ rfl
  · have may (w : Nat) : s.hub.mayWrite m (.acting false .cutBench 0x30050 .glob .bench) w = true := by simp [Hub.mayWrite, Loc.acting, maker]
    exact yields_act rfl live reach locate_cutBench rfl (by decide) rfl (by decide) (may _)
      (fun t r => benchWrite_refused { s.hub.placed t with er := r } m off other there) fun t => rfl

end Sys2Proof.Machine
end

section
/-!
O55: requests about observation: commits, manual triggers, flushes and releases, ring positions and exports
(R82, R174, R175, R210, R211, R216, R235, R243).
-/
namespace Sys2Proof.Machine

/-! ## Registers of a Perch slot -/

theorem observed_lt {h : Hub} {x : Nat} (seen : h.observed x = true) : x < 1184 := of_decide_eq_true (Bool.and_elim_left seen)

/-- A register of one word of every Perch, at slot offset `o`, whose write acts. -/
def Loc.perch (f : Fam) (o x : Nat) : Loc := ⟨⟨f, o, 4, 1, false, .act, false, .all, .glob, .cfg, 0, 0⟩, 0, false, x, pchOff x o, false⟩

theorem locate_perch {f : Fam} {o x : Nat} (small : x < 1184) (low : o < 0x800)
    (row : findRow rowsPch o = some (⟨f, o, 4, 1, false, .act, false, .all, .glob, .cfg, 0, 0⟩, 0, false)) :
    locate (pchOff x o) = some (.perch f o x) := by
  have high : ¬ pchOff x o < 0xC0000 := by unfold pchOff; omega
  have slot : 0x100000 ≤ pchOff x o ∧ pchOff x o < 0x900000 := by unfold pchOff; omega
  have stn : (pchOff x o - 0x100000) / 0x1000 = x := by unfold pchOff; omega
  have off : (pchOff x o - 0x100000) % 0x1000 = o := by unfold pchOff; omega
  have ok : stnOk x = true := decide_eq_true small
  have plain : decide (0x800 ≤ o) = false := decide_eq_false (Nat.not_le.mpr low)
  unfold locate
  rw [if_neg high, if_pos slot]
  simp only [stn, off, ok, plain, row, Bool.not_true, Bool.false_eq_true, if_false]
  rfl

theorem perch_regWrite (h : Hub) (mem : Mem) (m : Master) (f : Fam) (o x v : Nat) :
    h.regWrite mem m (.perch f o x) v = h.unitWrite m (.perch f o x) v :=
  if_neg (show ¬ pchOff x o < 0x30000 by unfold pchOff; omega)

/-- A command that is one write of a register of an observed station's slot. -/
theorem yields_perch {s : State} {m : Master} {c : Instr} {P : Hub → State → Prop} {f : Fam} {o x w : Nat} {g : SMap Nat → Er → Hub}
    (run_ : exec c s = run c (fun mem h => h.busWrite mem m (pchOff x o) 4 w) s) (live : s.hub.live = true)
    (reach : s.hub.reaches m = true) (right : m = .pair ∨ s.hub.role m ≠ 0) (seen : s.hub.observed x = true) (quiet : nothingDue s.hub x)
    (low : o < 0x800) (aligned : o % 4 = 0)
    (row : findRow rowsPch o = some (⟨f, o, 4, 1, false, .act, false, .all, .glob, .cfg, 0, 0⟩, 0, false))
    (plain : (Loc.perch f o x).exempt w = false) (b : w < 2 ^ 32) (effect : ∀ t r, Hub.unitWrite { s.hub.placed t with er := r } m (.perch f o x) w = g t r)
    (p : ∀ t, P (s.hub.placed t) (lands s ((g t (roleEr s.hub m (pchOff x o) w)).respond m 0 false))) : Yields c s P := by
  have small := observed_lt seen
  have may : s.hub.mayWrite m (.perch f o x) w = true := by
    rcases right with e | e <;> simp [Hub.mayWrite, Loc.perch, e, Nat.one_le_iff_ne_zero]
  have there : s.hub.lostSlot (.perch f o x) = false := by
    have seen' : s.hub.observed (Loc.perch f o x).stn = true := seen
    rw [Hub.lostSlot, seen', Bool.not_true, Bool.and_false]
  have quiet' : slotQuiet s.hub (pchOff x o) := fun _ _ => by
    have stn : (pchOff x o - 0x100000) / 0x1000 = x := by unfold pchOff; omega
    rw [stn]
    exact quiet
  refine yields_run run_ live fun t => ?_
  rw [busWrite_word (s.hub.placed t) s.mem m (pchOff x o) w reach (by unfold pchOff; omega) b,
    write32_single (s.hub.placed t) s.mem m (pchOff x o) (.perch f o x) w (locate_perch small low row) rfl may there quiet' b rfl, plain,
    if_neg Bool.noConfusion]
  have effect' := (perch_regWrite { s.hub.placed t with er := roleEr s.hub m (pchOff x o) w } s.mem m f o x w).trans (effect t _)
  exact effect' ▸ p t

theorem row_trgFire : findRow rowsPch 0x4B8 = some (⟨.pchTrgFire, 0x4B8, 4, 1, false, .act, false, .all, .glob, .cfg, 0, 0⟩, 0, false) := by decide +kernel
theorem row_peckCtl : findRow rowsPch 0x514 = some (⟨.pchPeckCtl, 0x514, 4, 1, false, .act, false, .all, .glob, .cfg, 0, 0⟩, 0, false) := by decide +kernel

section Station

variable (h : Hub) (x : Nat)

theorem updStn_twice (f g : Stn → Stn) : (h.updStn x f).updStn x g = h.updStn x fun t => g (f t) := by
  unfold Hub.updStn SMap.upd
  simp only [SMap.get_set_self, set_set]

theorem updStn_trc (f g : Stn → Stn) (c : Trc) :
    Hub.updStn { h.updStn x f with trc := c } x g = Hub.updStn { h with trc := c } x fun t => g (f t) := updStn_twice { h with trc := c } x f g

/-! ## A manual trigger -/

/-- The hub's counts and reports once condition `c` of station `x` has fired with a report. -/
def Hub.fired (h : Hub) (x c : Nat) (flits : List Trig) : Hub :=
  { h with
    rc := SMap.set {} h.rc (rcKey (pchOff x 0x4BC) 0 (8 * c)) {},
    items := h.items ++ [{
      src := x * 8 + 4, seq := (h.getStn x).reportSeq, tick := h.stnTick x, kind := .trigger, data := [x * 8, c, 7, (firedBy h x c).suppressed] }],
    trc := { h.trc with flits := flits } }

/-- A condition that a write fires. -/
theorem fireWrite_one {c : Nat} (low : c < 4) (on : bit (h.pact x 4 (0x4A0 + 4 * c)) 31 = true) (manual : field (h.pact x 4 (0x4A0 + 4 * c)) 30 28 = 7)
    (started : (h.getStn x).tbOn = true) : h.fireWrite x (2 ^ c) = h.fire x (h.stnTick x) (x * 8) (h.unitSlice (x * 8)) c := by
  have only (d : Nat) : (bit (2 ^ c) d && bit (h.pact x 4 (0x4A0 + 4 * d)) 31 && decide (field (h.pact x 4 (0x4A0 + 4 * d)) 30 28 = 7)) = decide (c = d) := by
    rw [bit, Nat.testBit_two_pow]
    by_cases here : c = d
    · subst here
      rw [on, manual]
      simp
    · simp [here]
  have one : ∀ c < 4, [0, 1, 2, 3].filter (fun d => decide (c = d)) = [c] := by decide
  unfold Hub.fireWrite Hub.fireAll
  dsimp only
  simp only [only, one c low]
  exact if_pos started

theorem fire_suppressed {tick unit slice c : Nat} (held : h.clk.cycle < SMap.get 0 (h.getStn x).holdoff c) :
    h.fire x tick unit slice c = h.rcAdd (pchOff x 0x4BC) 0 (8 * c) 255 1 := if_pos held

/-- A report item of a station whose hold-off has just been set. -/
theorem reportItem_updStn (f : Stn → Stn) (kind : ItemKind) (data : List Nat) (seq : (f (h.getStn x)).reportSeq = (h.getStn x).reportSeq)
    (tick : (h.updStn x f).stnTick x = h.stnTick x) :
    (h.updStn x f).reportItem x kind data =
      Hub.updStn { h with items := h.items ++ [{ src := x * 8 + 4, seq := (h.getStn x).reportSeq, tick := h.stnTick x, kind := kind, data := data }] } x
        fun t => { f t with reportSeq := ((f t).reportSeq + 1) % 2 ^ 32 } := by
  unfold Hub.reportItem
  rw [Hub.getStn_updStn, seq, tick]
  exact updStn_twice { h with items := h.items ++ [_] } x _ _

/-- The trigger of a manual condition. -/
theorem fire_fires {c r : Nat} (r_eq : r = h.pact x 4 (0x4A0 + 4 * c)) (manual : field r 30 28 = 7) (free : SMap.get 0 (h.getStn x).holdoff c ≤ h.clk.cycle) :
    h.fire x (h.stnTick x) (x * 8) (h.unitSlice (x * 8)) c =
      { withStation h x { h.getStn x with
          holdoff := SMap.set 0 (h.getStn x).holdoff c (h.clk.cycle + 16 * (r % 256)),
          reportSeq := if bit r 10 = true ∨ bit r 9 = true then ((h.getStn x).reportSeq + 1) % 2 ^ 32 else (h.getStn x).reportSeq,
          ord := { (h.getStn x).ord with
            trig := (h.getStn x).ord.trig ++ if bit r 10 = true then [firedBy h x c] else [],
            lstop := (h.getStn x).ord.lstop ||| field r 15 12, lstart := (h.getStn x).ord.lstart ||| field r 19 16,
            hold := (h.getStn x).ord.hold || bit r 11 } } with
        rc := SMap.set {} h.rc (rcKey (pchOff x 0x4BC) 0 (8 * c)) {},
        items := h.items ++ if bit r 10 = true ∨ bit r 9 = true then [{
          src := x * 8 + 4, seq := (h.getStn x).reportSeq, tick := h.stnTick x, kind := .trigger,
          data := [x * 8, c, 7, (firedBy h x c).suppressed] }] else [],
        trc := { h.trc with flits := h.trc.flits ++ if bit r 9 = true then [firedBy h x c] else [] } } := by
  have suppressed : h.rcTotal (pchOff x 0x4BC) 0 (8 * c) = (firedBy h x c).suppressed := rfl
  unfold Hub.fire
  dsimp only
  rw [if_neg (Nat.not_lt.mpr free), ← r_eq, manual, suppressed]
  unfold Hub.updOrd
  have tick : ((h.rcZero (pchOff x 0x4BC) 0 (8 * c)).updStn x fun t => { t with
      holdoff := SMap.set 0 t.holdoff c (h.clk.cycle + 16 * (r % 256)) }).stnTick x = h.stnTick x := by
    unfold Hub.stnTick
    rw [Hub.getStn_updStn]
    rfl
  rw [reportItem_updStn (h.rcZero (pchOff x 0x4BC) 0 (8 * c)) x _ .trigger _ rfl tick]
  cases report : bit r 10 <;> cases flit : bit r 9 <;>
    simp only [Bool.or_true, Bool.or_false, Bool.false_eq_true, or_true, or_false, if_true, if_false, List.append_nil]
  · exact updStn_twice (h.rcZero (pchOff x 0x4BC) 0 (8 * c)) x _ _
  · exact updStn_trc (h.fired x c h.trc.flits) x _ _ _
  · exact updStn_twice (h.fired x c h.trc.flits) x _ _
  · exact updStn_trc (h.fired x c h.trc.flits) x _ _ _

/-! ## Flush and release at the end of the hub cycle -/

theorem settleStn_flush (ord : (h.getStn x).ord = { flush := true }) : h.settleStn x = (h.ordTaken x).peckFlush x := by
  unfold Hub.settleStn
  simp only [ord]
  rw [if_neg (by decide)]
  have cleared : clearBits 0 (0 ||| 0) = 0 := by decide
  rw [show sortBy (fun t : Trig => t.cond) [] = [] from rfl, List.foldl_nil, cleared, applyOrder_none, applyOrder_none]
  rfl

theorem settleStn_release (ord : (h.getStn x).ord = { release := true }) : h.settleStn x = (h.ordTaken x).release x := by
  unfold Hub.settleStn
  simp only [ord]
  rw [if_neg (by decide)]
  have cleared : clearBits 0 (0 ||| 0) = 0 := by decide
  rw [show sortBy (fun t : Trig => t.cond) [] = [] from rfl, List.foldl_nil, cleared, applyOrder_none, applyOrder_none]
  rfl

/-- A region's partitions after a release (R210). -/
def Part.released (p : Part) : Part := { p with st := .run, budget := 0, budget0 := 0 }

theorem release_runs {p : Nat} (low : p < 4) (held : (SMap.get {} (h.getStn x).peck.part p).st ≠ .run) (quiet : (h.getStn x).peck.stalled = []) :
    h.release x = h.updPeck x fun q => { q with
      part := (List.range 4).foldl (fun m p => SMap.upd {} m p Part.released) q.part, rsv := q.rsv.map fun r => { r with open_ := false }, stalled := [] } := by
  have some_ : ((List.range 4).any fun p => (SMap.get {} (h.getStn x).peck.part p).st != .run) = true :=
    List.any_eq_true.mpr ⟨p, List.mem_range.mpr low, bne_iff_ne.mpr held⟩
  unfold Hub.release
  dsimp only
  rw [some_, if_neg (by decide), stallRetry_none (by rw [getStn_updPeck]; exact quiet)]
  exact updStn_twice h x _ _

theorem settleStn_released {p : Nat} (ord : (h.getStn x).ord = { release := true }) (low : p < 4)
    (held : (SMap.get {} (h.getStn x).peck.part p).st ≠ .run) (quiet : (h.getStn x).peck.stalled = []) :
    h.settleStn x = withStation h x { h.getStn x with
      ord := {},
      peck := { (h.getStn x).peck with
        part := (List.range 4).foldl (fun m p => SMap.upd {} m p Part.released) (h.getStn x).peck.part,
        rsv := (h.getStn x).peck.rsv.map fun e => { e with open_ := false }, stalled := [] } } := by
  have taken : (h.ordTaken x).getStn x = { h.getStn x with ord := {} } := Hub.getStn_updStn h x _
  rw [settleStn_release h x ord, release_runs (h.ordTaken x) x low (by rw [taken]; exact held) (by rw [taken]; exact quiet)]
  exact updStn_twice h x _ _

end Station

/-! ## Commits -/

section Commits

variable (h : Hub) (m : Master)

theorem locate_hubCommit : locate 0x20 = some (.acting false .hubCommit 0x20 .glob .cfg) := by decide +kernel

theorem commitWord {p k : Nat} (few : p < 4) (low : k < 2048) :
    goWord p 16 k = 2 ^ 31 + p * 2 ^ 16 + k ∧ bit (2 ^ 31 + p * 2 ^ 16 + k) 31 = true ∧ field (2 ^ 31 + p * 2 ^ 16 + k) 17 16 = p ∧
      field (2 ^ 31 + p * 2 ^ 16 + k) 10 0 = k := by
  refine ⟨by rw [goWord, at_, Nat.shiftLeft_eq], ?_, ?_, ?_⟩
  · rw [Nat.add_assoc]
    exact go_bit (by omega)
  · rw [field, Nat.shiftRight_eq_div_pow]
    omega
  · rw [field, Nat.shiftRight_eq_div_pow]
    omega

theorem getStat_updStat (f : CommitStat → CommitStat) : (h.updStat m f).getStat m = f (h.getStat m) := SMap.get_upd_self ..

theorem getStat_updStat_ne (f : CommitStat → CommitStat) {x : Master} (other : x ≠ m) : (h.updStat m f).getStat x = h.getStat x :=
  SMap.get_upd_ne _ _ _ (Master.idx_ne other)

theorem commitRequest_busy (scope target : Nat) (busy : (h.getStat m).pending = true) :
    h.commitRequest m scope target = h.updStat m fun s => { s with status := stBusy } := if_pos busy

theorem commitRequest_slice {k : Nat} (low : k < 64) (free : (h.getStat m).pending = false) (there : h.sliceExists k = true) :
    h.commitRequest m 1 k = h.commitAdd (.master m) 1 k := by
  have slice : k % 64 = k := Nat.mod_eq_of_lt low
  have ok : h.commitCheck 1 k = stOk := by
    rw [Hub.commitCheck, slice, there]
    rfl
  unfold Hub.commitRequest
  dsimp only
  rw [if_pos rfl, slice, if_neg (by rw [free]; exact Bool.noConfusion), ok, if_pos rfl]

end Commits

/-! ## Positions of rings -/

def Loc.cntRd (k : Nat) : Loc :=
  ⟨⟨.cntRingRd, 0x71014, 0x20, 64, true, .act, false, .all, .glob, .oper, 0, 0⟩, k, false, 0, 0x71014 + 0x20 * k, false⟩

def Loc.trcRd (k : Nat) : Loc :=
  ⟨⟨.trcRingRd, 0x82014, 0x20, 64, true, .act, false, .all, .glob, .oper, 0, 0⟩, k, false, 0, 0x82014 + 0x20 * k, false⟩

theorem locate_cntRd : ∀ k < 64, locate (0x71014 + 0x20 * k) = some (.cntRd k) ∧ locate (0x71014 + 0x20 * k + 4) = some (Loc.upper (.cntRd k)) := by
  decide +kernel

theorem locate_trcRd : ∀ k < 64, locate (0x82014 + 0x20 * k) = some (.trcRd k) ∧ locate (0x82014 + 0x20 * k + 4) = some (Loc.upper (.trcRd k)) := by
  decide +kernel

theorem cntRd_regWrite (h : Hub) (mem : Mem) (m : Master) (k v : Nat) : h.regWrite mem m (Loc.upper (.cntRd k)) v = h.cntRdWrite k v :=
  if_neg (show ¬ 0x71014 + 0x20 * k < 0x30000 by omega)

theorem trcRd_regWrite (h : Hub) (mem : Mem) (m : Master) (k v : Nat) : h.regWrite mem m (Loc.upper (.trcRd k)) v = h.trcRdWrite k v :=
  if_neg (show ¬ 0x82014 + 0x20 * k < 0x30000 by omega)

theorem Ring.setRd_forward {r : Ring} {v : Nat} (forward : r.rd ≤ v) (written : v ≤ r.wr) : r.setRd v = { r with rd := v } := if_pos ⟨forward, written⟩

/-- A trace ring on which no request waits, read up to `v`. -/
def Ring.readTo (v : Nat) (r : Ring) : Ring := { r.setRd v with waiting := false }

theorem trcRdWrite_quiet (h : Hub) (k v : Nat) (quiet : h.trc.queue = []) :
    h.trcRdWrite k v = { h with trc := { h.trc with ring := SMap.upd {} h.trc.ring k (Ring.readTo v) } } := by
  have waits : Hub.ringWaits { h with trc := { h.trc with ring := SMap.upd {} h.trc.ring k fun r => r.setRd v } } k = false := by
    unfold Hub.ringWaits
    dsimp only
    rw [quiet, List.any_nil, Bool.and_false]
  unfold Hub.trcRdWrite Hub.setWaiting
  dsimp only
  rw [waits, Bool.false_and, if_neg Bool.noConfusion]
  unfold SMap.upd
  dsimp only
  rw [SMap.get_set_self, set_set]
  rfl

/-! ## Export of a slice -/

theorem locate_attExport : locate 0x72008 = some (.acting false .attExport 0x72008 .glob .oper) := by decide +kernel

/-- Frames for a disabled ring are discarded (R236). -/
theorem attFrames_off {h : Hub} {k : Nat} (off : (SMap.get ({} : Ring) h.cnt.ring k).on = false) (recs : List (Nat × List Byte)) :
    (h.attFrames k recs).2 = h := by
  refine List.foldlRecOn (motive := fun y : List Nat × Hub => y.2 = h) _ _ rfl fun y same q _ => ?_
  obtain ⟨bad, g⟩ := y
  subst same
  dsimp only
  rw [cntPut_off off]

/-- An entry that is settled. -/
theorem attExport_off (h : Hub) {k : Nat} (off : (SMap.get ({} : Ring) h.cnt.ring k).on = false) :
    h.attExport k = { h with cnt := { h.cnt with
      att := h.cnt.att.map fun e => if e.2.slice = k then (e.1, { e.2 with changed := false }) else e,
      bucket := SMap.upd {} h.cnt.bucket k fun b => { b with changed := false } } } := by
  unfold Hub.attExport
  dsimp only
  rw [off, attFrames_off off]
  simp

theorem settled_entries (m : SMap AttEntry) (k j : Nat) :
    SMap.get {} (m.map fun e => if e.2.slice = k then (e.1, { e.2 with changed := false }) else e) j =
      if (SMap.get {} m j).slice = k then { SMap.get {} m j with changed := false } else SMap.get {} m j := by
  have form : (fun e : Nat × AttEntry => if e.2.slice = k then (e.1, { e.2 with changed := false }) else e) =
      fun e => (e.1, if e.2.slice = k then { e.2 with changed := false } else e.2) := by
    funext e
    split <;> rfl
  rw [form, SMap.get_map {} m (fun _ e => if e.slice = k then { e with changed := false } else e) j (by dsimp only; split <;> rfl)]

theorem exec_commitRequest (m : Master) {p k : Nat} (few : p < 4) (low : k < 2048) (s : State) :
    exec (.commitRequest m p k) s = run (.commitRequest m p k) (fun mem h => h.busWrite mem m 0x20 4 (2 ^ 31 + p * 2 ^ 16 + k)) s := by
  rw [show exec (.commitRequest m p k) s = execCommitRequest m p k s from rfl, execCommitRequest, Nat.mod_eq_of_lt few, Nat.mod_eq_of_lt low,
    (commitWord few low).1]

/-- The effect of a write of HUB_COMMIT. -/
theorem hubCommit_effect (h : Hub) (mem : Mem) (m : Master) {p k : Nat} (few : p < 4) (low : k < 2048) :
    h.regWrite mem m (.acting false .hubCommit 0x20 .glob .cfg) (2 ^ 31 + p * 2 ^ 16 + k) = h.commitRequest m p k := by
  obtain ⟨-, go, scope, target⟩ := commitWord few low
  have write : h.regWrite mem m (.acting false .hubCommit 0x20 .glob .cfg) (2 ^ 31 + p * 2 ^ 16 + k) =
    if bit (2 ^ 31 + p * 2 ^ 16 + k) 31 then h.commitRequest m (field (2 ^ 31 + p * 2 ^ 16 + k) 17 16) (field (2 ^ 31 + p * 2 ^ 16 + k) 10 0) else h := rfl
  rw [write, go, if_pos rfl, scope, target]

theorem yields_commit {s : State} {m : Master} (live : s.hub.live = true) (reach : s.hub.reaches m = true) (right : m = .pair ∨ s.hub.role m ≠ 0) {p k : Nat}
    (few : p < 4) (low : k < 2048) {P : Hub → State → Prop} {g : SMap Nat → Er → Hub}
    (effect : ∀ t r, Hub.commitRequest { s.hub.placed t with er := r } m p k = g t r)
    (done : ∀ t, P (s.hub.placed t) (lands s ((g t (roleEr s.hub m 0x20 (2 ^ 31 + p * 2 ^ 16 + k))).respond m 0 false))) :
    Yields (.commitRequest m p k) s P :=
  yields_act (exec_commitRequest m few low s) live reach locate_hubCommit rfl (by decide) rfl (by omega)
    (by rcases right with e | e <;> simp [Hub.mayWrite, Loc.acting, e, Nat.one_le_iff_ne_zero])
    (fun t r => (hubCommit_effect _ s.mem m few low).trans (effect t r)) done

theorem exec_station (m : Master) {x : Nat} (small : x < 1184) (s : State) (w : Nat) :
    exec (.trgFireWrite m x w) s = run (.trgFireWrite m x w) (fun mem h => h.busWrite mem m (pchOff x 0x4B8) 4 w) s ∧
      exec (.peckFlush m x) s = run (.peckFlush m x) (fun mem h => h.busWrite mem m (pchOff x 0x514) 4 2) s ∧
      exec (.peckRelease m x) s = run (.peckRelease m x) (fun mem h => h.busWrite mem m (pchOff x 0x514) 4 1) s := by
  have stn : x % 2048 = x := Nat.mod_eq_of_lt (by omega)
  refine ⟨?_, ?_, ?_⟩
  · rw [show exec (.trgFireWrite m x w) s = execTrgFireWrite m x w s from rfl, execTrgFireWrite, stn]
  · rw [show exec (.peckFlush m x) s = execPeckFlush m x s from rfl, execPeckFlush, stn]
  · rw [show exec (.peckRelease m x) s = execPeckRelease m x s from rfl, execPeckRelease, stn]

theorem exec_rings (m : Master) {k : Nat} (low : k < 64) (s : State) (v : Nat) :
    exec (.sampleRingRdWrite m k v) s = run (.sampleRingRdWrite m k v) (fun mem h => h.pairWrite mem m (0x71014 + 0x20 * k) v) s ∧
      exec (.traceRingRdWrite m k v) s = run (.traceRingRdWrite m k v) (fun mem h => h.pairWrite mem m (0x82014 + 0x20 * k) v) s ∧
      exec (.attExport m k) s = run (.attExport m k) (fun mem h => h.busWrite mem m 0x72008 4 (2 ^ 31 + k)) s := by
  have slice : k % 64 = k := Nat.mod_eq_of_lt low
  refine ⟨?_, ?_, ?_⟩
  · rw [show exec (.sampleRingRdWrite m k v) s = execSampleRingRdWrite m k v s from rfl, execSampleRingRdWrite, slice]
  · rw [show exec (.traceRingRdWrite m k v) s = execTraceRingRdWrite m k v s from rfl, execTraceRingRdWrite, slice]
  · rw [show exec (.attExport m k) s = execAttExport m k s from rfl, execAttExport, slice, goWord_plain]

theorem getStn_withStation (h : Hub) (x : Nat) (t : Stn) : (withStation h x t).getStn x = t := SMap.get_set_self ..

/-- The effect of a write of one condition to PCH_TRG_FIRE. -/
theorem trgFire_effect (h : Hub) (m : Master) (x : Nat) {c : Nat} (low : c < 4) (on : bit (h.pact x 4 (0x4A0 + 4 * c)) 31 = true)
    (manual : field (h.pact x 4 (0x4A0 + 4 * c)) 30 28 = 7) (started : (h.getStn x).tbOn = true) :
    h.unitWrite m (.perch .pchTrgFire 0x4B8 x) (2 ^ c) = h.fire x (h.stnTick x) (x * 8) (h.unitSlice (x * 8)) c := by
  have mask : 2 ^ c % 16 = 2 ^ c := Nat.mod_eq_of_lt (Nat.pow_lt_pow_right (by decide) low)
  have write : h.unitWrite m (.perch .pchTrgFire 0x4B8 x) (2 ^ c) = h.fireWrite x (2 ^ c % 16) := rfl
  rw [write, mask, fireWrite_one h x low on manual started]

theorem peckCtl_flush (h : Hub) (m : Master) (x : Nat) :
    h.unitWrite m (.perch .pchPeckCtl 0x514 x) 2 = withStation h x { h.getStn x with ord := { (h.getStn x).ord with flush := true } } := by
  have write : h.unitWrite m (.perch .pchPeckCtl 0x514 x) 2 =
    h.updOrd x fun o => { o with flush := o.flush || true, release := o.release || false } := rfl
  simp only [write, Bool.or_true, Bool.or_false]
  rfl

theorem peckCtl_release (h : Hub) (m : Master) (x : Nat) :
    h.unitWrite m (.perch .pchPeckCtl 0x514 x) 1 = withStation h x { h.getStn x with ord := { (h.getStn x).ord with release := true } } := by
  have write : h.unitWrite m (.perch .pchPeckCtl 0x514 x) 1 =
    h.updOrd x fun o => { o with flush := o.flush || false, release := o.release || true } := rfl
  simp only [write, Bool.or_true, Bool.or_false]
  rfl

theorem attExport_effect (h : Hub) (mem : Mem) (m : Master) {k : Nat} (low : k < 64) (off : (SMap.get ({} : Ring) h.cnt.ring k).on = false) :
    h.regWrite mem m (.acting false .attExport 0x72008 .glob .oper) (2 ^ 31 + k) = { h with cnt := { h.cnt with
      att := h.cnt.att.map fun e => if e.2.slice = k then (e.1, { e.2 with changed := false }) else e,
      bucket := SMap.upd {} h.cnt.bucket k fun b => { b with changed := false } } } := by
  have slice : field (2 ^ 31 + k) 5 0 = k := by
    rw [field, Nat.shiftRight_eq_div_pow]
    omega
  have write : h.regWrite mem m (.acting false .attExport 0x72008 .glob .oper) (2 ^ 31 + k) =
    if bit (2 ^ 31 + k) 31 then h.attExport (field (2 ^ 31 + k) 5 0) else h := rfl
  rw [write, go_bit (by omega), if_pos rfl, slice, attExport_off h off]

/-- Settles O55: each request of a master to observation. -/
theorem observationRequests : Obligations.ObservationRequests := by
  intro s m live reach right
  have oper {l : Loc} (wr : l.row.wr = .oper) (role : s.hub.role m = 1) (w : Nat) : s.hub.mayWrite m l w = true := by simp [Hub.mayWrite, wr, role]
  refine ⟨fun k low free there => ?_, fun p k few low busy => ?_, fun x seen quiet => ⟨fun c r low r_eq on manual started => ⟨fun free => ?_, fun held => ?_⟩, ?_, ?_⟩,
    fun x ord => ?_, fun x p ord low held quiet => ⟨fun q => ?_, ?_⟩, fun k v role low b forward written => ?_, fun k v role low b forward written quiet => ?_,
    fun k role low off => ?_⟩
  · have slice : k < 2048 := by omega
    have yields := yields_commit (p := 1) live reach right (by decide) slice (fun t r => commitRequest_slice { s.hub.placed t with er := r } m low free there)
      (P := fun h0 t => t.hub.getStat m = { s.hub.getStat m with pending := true } ∧ (∀ x : Master, x ≠ m → t.hub.getStat x = s.hub.getStat x) ∧
        t = wrote s m 0x20 (2 ^ 31 + 1 * 2 ^ 16 + k) { h0 with chain := { s.hub.chain with
          queue := s.hub.chain.queue ++ [{ owner := .master m, scope := 1, target := k }], stat := t.hub.chain.stat } })
      fun t => ⟨getStat_updStat (s.hub.placed t) m _, fun x other => getStat_updStat_ne (s.hub.placed t) m _ other, rfl⟩
    rw [Nat.one_mul] at yields
    exact yields
  · exact yields_commit live reach right few low (fun t r => commitRequest_busy { s.hub.placed t with er := r } m p k busy)
      fun t => ⟨getStat_updStat (s.hub.placed t) m _, fun x other => getStat_updStat_ne (s.hub.placed t) m _ other, rfl⟩
  · have word : 2 ^ c < 2 ^ 32 := Nat.pow_lt_pow_right (by decide) (by omega)
    exact yields_perch (exec_station m (observed_lt seen) s _).1 live reach right seen quiet (by decide) rfl row_trgFire rfl word
      (fun t r' => (trgFire_effect { s.hub.placed t with er := r' } m x low (r_eq ▸ on) (r_eq ▸ manual) started).trans
        (fire_fires { s.hub.placed t with er := r' } x r_eq manual free)) fun _ => rfl
  · have word : 2 ^ c < 2 ^ 32 := Nat.pow_lt_pow_right (by decide) (by omega)
    exact yields_perch (exec_station m (observed_lt seen) s _).1 live reach right seen quiet (by decide) rfl row_trgFire rfl word
      (fun t r' => (trgFire_effect { s.hub.placed t with er := r' } m x low (r_eq ▸ on) (r_eq ▸ manual) started).trans
        (fire_suppressed { s.hub.placed t with er := r' } x held)) fun _ => rfl
  · exact yields_perch (exec_station m (observed_lt seen) s 0).2.1 live reach right seen quiet (by decide) rfl row_peckCtl rfl (by decide)
      (fun t r => peckCtl_flush { s.hub.placed t with er := r } m x) fun _ => rfl
  · exact yields_perch (exec_station m (observed_lt seen) s 0).2.2 live reach right seen quiet (by decide) rfl row_peckCtl rfl (by decide)
      (fun t r => peckCtl_release { s.hub.placed t with er := r } m x) fun _ => rfl
  · rw [settleStn_flush s.hub x ord]
    exact updStn_twice s.hub x _ _
  · rw [settleStn_released s.hub x ord low held quiet, getStn_withStation]
    exact get_foldl_upd_all {} Part.released (s.hub.getStn x).peck.part 4 q
  · have done := settleStn_released s.hub x ord low held quiet
    have part : ((s.hub.settleStn x).getStn x).peck.part = (List.range 4).foldl (fun m p => SMap.upd {} m p Part.released) (s.hub.getStn x).peck.part := by
      rw [done, getStn_withStation]
    rw [part, done, ← quiet]
  · obtain ⟨e, e'⟩ := locate_cntRd k low
    refine yields_pair (exec_rings m low s v).1 live reach e e' rfl rfl rfl (by omega) (show 0x71014 + 0x20 * k < 0x100000 by omega) b (oper rfl role)
      (fun t => cntRd_regWrite _ s.mem m k v) fun t => ⟨?_, fun j other => ?_, rfl⟩
    · exact (SMap.get_upd_self ..).trans (Ring.setRd_forward forward written)
    · exact SMap.get_upd_ne _ _ _ other
  · obtain ⟨e, e'⟩ := locate_trcRd k low
    refine yields_pair (exec_rings m low s v).2.1 live reach e e' rfl rfl rfl (by omega) (show 0x82014 + 0x20 * k < 0x100000 by omega) b (oper rfl role)
      (fun t => (trcRd_regWrite _ s.mem m k v).trans (trcRdWrite_quiet _ k v quiet)) fun t => ⟨?_, fun j other => ?_, rfl⟩
    · exact (SMap.get_upd_self {} s.hub.trc.ring k (Ring.readTo v)).trans
        (congrArg (fun r : Ring => { r with waiting := false }) (Ring.setRd_forward forward written))
    · exact SMap.get_upd_ne {} s.hub.trc.ring (Ring.readTo v) other
  · exact yields_act (exec_rings m low s 0).2.2 live reach locate_attExport rfl (by decide) rfl (by omega) (oper rfl role _)
      (fun t r => attExport_effect { s.hub.placed t with er := r } s.mem m low off) fun t => ⟨settled_entries s.hub.cnt.att k, rfl⟩

end Sys2Proof.Machine
end

section
/-! The register jobs of the compression banks (R366 to R374). -/
namespace Sys2Proof.Machine

/-- A bank after a release whose check did not fail. -/
def Bank.counted (k : Bank) (index : Nat) (r : Release) : Bank :=
  { k with in_ := (k.in_ + r.cover) % 2 ^ 64, out := (k.out + r.block.length) % 2 ^ 64, blocks := k.blocks + b2n (!r.block.isEmpty), block := index + 1 }

/-- A bank whose job has taken some input and released some output. -/
def Bank.moved (k : Bank) (cover len : Nat) : Bank := { k with inDone := k.inDone + cover, outDone := k.outDone + len }

/-- The writes of a release at `a`; an empty block writes nothing. -/
def Release.writes (r : Release) (a : Nat) : List MemWrite := if r.block.isEmpty then [] else [⟨1, a, r.block⟩]

theorem Release.writes_bytes (r : Release) (m : Mem) (a : Nat) :
    m.apply (r.writes a) = { m with hbm := (m.apply (r.writes a)).hbm } ∧
    (∀ i, i < r.block.length → a + i < hbmSize → SMap.get 0 (m.apply (r.writes a)).hbm (a + i) = r.block.getD i 0) ∧
    ∀ x, (x < a ∨ a + r.block.length ≤ x) → SMap.get 0 (m.apply (r.writes a)).hbm x = SMap.get 0 m.hbm x := by
  unfold Release.writes
  split
  · next empty =>
    rw [List.isEmpty_iff.mp empty]
    exact ⟨rfl, fun i low => absurd low (Nat.not_lt_zero i), fun _ _ => rfl⟩
  · exact ⟨rfl, fun i low fits => get_writeBytes_in hbmSize m.hbm r.block low fits, fun x outside => get_writeBytes_out hbmSize m.hbm r.block outside⟩

section Banks

variable (h : Hub) {b x : Nat} (m : Master)

theorem bank_updBank (b : Nat) (f : Bank → Bank) : SMap.get {} (h.updBank b f).ce.bank b = f (SMap.get {} h.ce.bank b) := SMap.get_upd_self ..

theorem bank_updBank_ne (f : Bank → Bank) (ne : x ≠ b) : SMap.get {} (h.updBank b f).ce.bank x = SMap.get {} h.ce.bank x := SMap.get_upd_ne _ _ _ ne

theorem job_updBank (b : Nat) (f : Bank → Bank) : (h.updBank b f).ce.job = h.ce.job := rfl

theorem job_updJobRes (b : Nat) (f : JobRes → JobRes) :
    SMap.get {} (h.updJobRes b m f).ce.job (b * 4 + m.idx) = f (SMap.get {} h.ce.job (b * 4 + m.idx)) := SMap.get_upd_self ..

theorem job_updJobRes_ne (b : Nat) (f : JobRes → JobRes) (ne : x ≠ b * 4 + m.idx) :
    SMap.get {} (h.updJobRes b m f).ce.job x = SMap.get {} h.ce.job x := SMap.get_upd_ne _ _ _ ne

end Banks

section Job

variable {h : Hub} {b : Nat} {k : Bank} {m : Master} {r : Release}

/-- A release that neither ends the job nor fails its check counts in its bank, and at most in the bank's count of raw blocks. -/
theorem ceCount_plain (h : Hub) (b : Nat) (reg : Bool) (arg index : Nat) (ended : r.ended = none) (vfail : r.vfail = false) :
    ∃ rc, h.ceCount b reg arg index r = { h.updBank b fun k => k.counted index r with rc := rc } := by
  unfold Hub.ceCount
  simp only [ended, vfail, Bool.or_false, Bool.false_eq_true, if_false, reduceCtorEq]
  split
  · exact ⟨_, rcAdd_frame _ _ _ _ _ _⟩
  · exact ⟨h.rc, rfl⟩

theorem regBlock_encode (mem : Mem) (ok rawOk : Bool) (encode : k.decode = false)
    (made : r = releaseBlock k.xform k.raw (decide (k.inDone + Nat.min blockMax (k.len - k.inDone) = k.len)) k.block (k.limit - k.outDone)
      (mem.hbmRead (k.src + k.inDone) (Nat.min blockMax (k.len - k.inDone))) ok rawOk) (ended : r.ended = none) (vfail : r.vfail = false) :
    ∃ rc, h.regBlock mem b k ok rawOk =
      { (h.updBank b fun x => x.counted k.block r).updBank b fun x => x.moved r.cover r.block.length with
        rc := rc, out := h.out ++ r.writes (k.dst + k.outDone) } := by
  obtain ⟨rc, counted⟩ := ceCount_plain h b true 0 k.block ended vfail
  refine ⟨rc, ?_⟩
  unfold Hub.regBlock
  rw [if_neg (by simp [encode])]
  dsimp only
  rw [← made, counted, ended]
  unfold Release.writes
  by_cases empty : r.block.isEmpty = true
  · rw [if_pos empty, if_pos empty, List.append_nil]
    rfl
  · rw [if_neg empty, if_neg empty]
    rfl

/-! ## Decoding -/

theorem regJobEnd_owned (status : Nat) (owned : (SMap.get {} h.ce.bank b).owner = some m) :
    h.regJobEnd b status =
      (h.updJobRes b m fun j => { j with busy := false, status := status, in_ := (SMap.get {} h.ce.bank b).inDone, out := (SMap.get {} h.ce.bank b).outDone }).updBank b
        fun k => { k with busy := false, owner := none, decode := false, block := 0 } := by
  rw [Hub.regJobEnd, owned]

/-- The end of a register job, in its bank and in its master's result. -/
theorem jobEnded_regJobEnd (status : Nat) (bank : SMap.get {} h.ce.bank b = k) (owned : k.owner = some m) :
    jobEnded h (h.regJobEnd b status) b m k status (SMap.get {} h.ce.job (b * 4 + m.idx)) := by
  subst bank
  rw [regJobEnd_owned status owned]
  refine ⟨bank_updBank _ b _, fun x ne => bank_updBank_ne _ _ ne, ?_, fun x ne => ?_⟩
  · rw [job_updBank, job_updJobRes]
  · rw [job_updBank, job_updJobRes_ne h m b _ ne]

theorem regJobEnd_frame (h : Hub) (b status : Nat) :
    h.regJobEnd b status = { h with ce := { h.ce with bank := (h.regJobEnd b status).ce.bank, job := (h.regJobEnd b status).ce.job } } := by
  unfold Hub.regJobEnd
  dsimp only
  split <;> rfl

/-- The hub after a block of a decode job: what it has read and written so far. -/
def Hub.decoded (h : Hub) (b len : Nat) (k : Bank) (raw : List Byte) : Hub :=
  (h.hbmWrite (k.dst + k.outDone) raw).updBank b fun x => { x with inDone := x.inDone + len, outDone := x.outDone + raw.length, block := x.block + 1 }

theorem regBlock_decodeLast (mem : Mem) (ok rawOk : Bool) {len : Nat} {out : List Byte} (decode : k.decode = true)
    (sound : decodeBlock (mem.hbmRead (k.src + k.inDone) (Nat.min 65544 (k.len - k.inDone))) = .good len out) (room : k.outDone + out.length ≤ k.limit)
    (last : k.inDone + len = k.len) : h.regBlock mem b k ok rawOk = (h.decoded b len k out).regJobEnd b stOk := by
  unfold Hub.regBlock
  rw [if_pos decode, sound]
  dsimp only
  rw [if_neg (Nat.not_lt.mpr room), if_pos last.ge]
  rfl

theorem regBlock_decodeBad (mem : Mem) (ok rawOk : Bool) {st : Nat} (decode : k.decode = true) (owned : k.owner = some m)
    (bad : decodeBlock (mem.hbmRead (k.src + k.inDone) (Nat.min 65544 (k.len - k.inDone))) = .bad st) :
    h.regBlock mem b k ok rawOk = (h.updJobRes b m fun j => { j with failValid := true, fail := k.block }).regJobEnd b st := by
  unfold Hub.regBlock
  rw [if_pos decode, bad]
  dsimp only
  rw [owned]

theorem blockRelease_register (mem : Mem) (raw : List Byte) (ok rawOk : Bool) (up : h.nocUp = true) (low : b < 4) (bank : SMap.get {} h.ce.bank b = k)
    (busy : k.busy = true) (owned : k.owner = some m) : h.blockRelease mem b raw ok rawOk = h.regBlock mem b k ok rawOk := by
  rw [Hub.blockRelease, bank, if_neg (by simp [up, busy, low]), if_pos (by simp [owned])]

end Job

/-- Settles O33: a block of a register job, by its direction and, in a decode job, by the verdict on the block. -/
theorem registerJobBlocks : Obligations.RegisterJobBlocks := by
  unfold Obligations.RegisterJobBlocks
  intro s b k m ok rawOk raw live up low bank busy owned
  have release (t : SMap Nat) : (s.hub.placed t).blockRelease s.mem b raw ok rawOk = (s.hub.placed t).regBlock s.mem b k ok rawOk :=
    blockRelease_register (h := s.hub.placed t) s.mem raw ok rawOk up low bank busy owned
  refine ⟨fun r encode made ended vfail => ?_, fun len out decode sound room last => ?_, fun st decode bad => ?_⟩
  · refine yields_ex rfl live fun t => ?_
    obtain ⟨rc, e⟩ := regBlock_encode (h := s.hub.placed t) (b := b) s.mem ok rawOk encode made ended vfail
    obtain ⟨kept, inside, outside⟩ := r.writes_bytes s.mem (k.dst + k.outDone)
    have own : SMap.get {} (((s.hub.placed t).updBank b fun x => x.counted k.block r).updBank b fun x => x.moved r.cover r.block.length).ce.bank b =
        (k.counted k.block r).moved r.cover r.block.length := by
      rw [bank_updBank, bank_updBank, show SMap.get {} (s.hub.placed t).ce.bank b = k from bank]
    refine ⟨_, (release t).trans e, own, fun x ne => ?_, inside, outside, ?_⟩
    · exact (bank_updBank_ne ((s.hub.placed t).updBank b _) _ ne).trans (bank_updBank_ne (s.hub.placed t) _ ne)
    · exact congrArg (fun m : Mem => State.mk _ m _) kept
  · refine yields_of_eq rfl live (fun t => (release t).trans (regBlock_decodeLast s.mem ok rawOk decode sound room last)) fun t => ?_
    have own : SMap.get {} ((s.hub.placed t).decoded b len k out).ce.bank b =
        { k with inDone := k.inDone + len, outDone := k.outDone + out.length, block := k.block + 1 } := by
      rw [Hub.decoded, bank_updBank, show SMap.get {} ((s.hub.placed t).hbmWrite (k.dst + k.outDone) out).ce.bank b = k from bank]
    obtain ⟨ended, others, result, results⟩ := jobEnded_regJobEnd stOk own owned
    rw [regJobEnd_frame]
    exact ⟨⟨ended, fun x ne => (others x ne).trans (bank_updBank_ne _ _ ne), result, results⟩,
      fun i low fits => get_writeBytes_in hbmSize s.mem.hbm out low fits, fun x outside => get_writeBytes_out hbmSize s.mem.hbm out outside, rfl⟩
  · refine yields_of_eq rfl live (fun t => (release t).trans (regBlock_decodeBad s.mem ok rawOk decode owned bad)) fun t => ?_
    obtain ⟨ended, others, result, results⟩ :=
      jobEnded_regJobEnd (h := (s.hub.placed t).updJobRes b m fun j => { j with failValid := true, fail := k.block }) st bank owned
    rw [job_updJobRes] at result
    rw [regJobEnd_frame]
    exact ⟨⟨ended, others, result, fun x ne => (results x ne).trans (job_updJobRes_ne _ m b _ ne)⟩, rfl⟩

end Sys2Proof.Machine
end

section
/-! The ring of records of the Tun, the engine's jobs, and the course of a dump (R322 to R335). -/
namespace Sys2Proof.Machine

/-! ## Reservations in the Tun (R326, R327) -/

section Tun

variable (h : Hub) (len : Nat) (hdr : List Byte) (manifest : Bool)

theorem tunLow_frame (before : Nat) : h.tunLow before = { h with irq := (h.tunLow before).irq, cyc := (h.tunLow before).cyc } := by
  unfold Hub.tunLow
  dsimp only
  split
  · rw [irqRaise_frame]
  · rfl

theorem tunFiller_frame (gap : Nat) :
    h.tunFiller gap = { h with out := (h.tunFiller gap).out, dmp := { h.dmp with wr := h.dmp.wr + gap, recs := (h.tunFiller gap).dmp.recs } } := by
  unfold Hub.tunFiller
  split
  · next zero =>
    subst zero
    rfl
  · rfl

theorem tunFiller_none : h.tunFiller 0 = h := rfl

/-- A record reserved behind a filler of `gap` bytes. -/
def Hub.reserved (gap : Nat) : Hub :=
  { h with out := (h.tunFiller gap).out,
           dmp := { h.dmp with wr := h.dmp.wr + gap + len, recs := (h.tunFiller gap).dmp.recs ++ [⟨h.dmp.wr + gap, len, hdr, false, manifest⟩] } }

theorem tunFiller_reserved (gap : Nat) :
    { h.tunFiller gap with dmp := { (h.tunFiller gap).dmp with
        wr := (h.tunFiller gap).dmp.wr + len,
        recs := (h.tunFiller gap).dmp.recs ++ [(⟨(h.tunFiller gap).dmp.wr, len, hdr, false, manifest⟩ : TunRec)] } } = h.reserved len hdr manifest gap := by
  rw [tunFiller_frame]
  rfl

theorem tunReserve_frame :
    ∃ irq cyc, h.tunReserve len hdr manifest = { h.reserved len hdr manifest (h.tunGap len) with irq := irq, cyc := cyc } := by
  have made : h.tunReserve len hdr manifest = (h.reserved len hdr manifest (h.tunGap len)).tunLow h.tunFree := by
    rw [Hub.tunReserve, ← tunFiller_reserved]
  exact ⟨_, _, made.trans (tunLow_frame _ _)⟩

end Tun

/-! ## The jobs of the engine (R328, R354) -/

/-- A dump beside the place of its next chunk. -/
def Dump.still (d : Dump) : Dump := { d with cur := 0, off := 0 }

/-- Jobs have entered the compression engines, and nothing else has happened to the dump engine than that a dump in STREAM has gone on to a later chunk. -/
def Hub.fed (h g : Hub) : Prop :=
  ∃ cur jobs ce, g = { h with dmp := { h.dmp with cur := cur, jobs := jobs }, ce := ce } ∧ cur.map Dump.still = h.dmp.cur.map Dump.still ∧
    (h.dmp.st ≠ .stream → cur = h.dmp.cur)

theorem Hub.fed.refl (h : Hub) : h.fed h := ⟨_, _, _, rfl, rfl, fun _ => rfl⟩

theorem Hub.fed.trans {h g k : Hub} (a : h.fed g) (b : g.fed k) : h.fed k := by
  obtain ⟨cur, jobs, ce, rfl, still, same⟩ := a
  obtain ⟨cur', jobs', ce', rfl, still', same'⟩ := b
  exact ⟨cur', jobs', ce', rfl, still'.trans still, fun st => (same' st).trans (same st)⟩

theorem regJobEnd_ce (h : Hub) (b status : Nat) : ∃ ce, h.regJobEnd b status = { h with ce := ce } := ⟨_, regJobEnd_frame h b status⟩

theorem startJob_fed (h : Hub) (watch quiet : Bool) (seg off len set : Nat) (key : List Byte) : h.fed (h.startJob watch quiet seg off len set key) := by
  obtain ⟨ce, ended⟩ := regJobEnd_ce h h.nextBank stAborted
  unfold Hub.startJob
  dsimp only
  rw [ended]
  exact ⟨_, _, _, rfl, rfl, fun _ => rfl⟩

theorem startNext_fed (h : Hub) : h.fed h.startNext := by
  unfold Hub.startNext
  split
  case h_1 stream =>
    split
    · exact .refl h
    · next d cur =>
      split
      · exact .refl h
      · next i off _ =>
        split
        · exact .refl h
        · refine .trans ?_ (startJob_fed ..)
          refine ⟨_, _, _, rfl, ?_, fun other => absurd stream other⟩
          rw [cur]
          rfl
  case h_2 idle =>
    split
    · exact .refl h
    · dsimp only
      split
      · exact .refl h
      · exact startJob_fed ..
  case h_3 => exact .refl h

theorem fourJobs_fed (h : Hub) : h.fed h.startNext.startNext.startNext.startNext :=
  (((startNext_fed h).trans (startNext_fed _)).trans (startNext_fed _)).trans (startNext_fed _)

theorem goOn_idle {h : Hub} (st : h.dmp.st ≠ .stream) : ∃ jobs ce, h.goOn = { h with dmp := { h.dmp with jobs := jobs }, ce := ce } := by
  obtain ⟨cur, jobs, ce, e, -, same⟩ := fourJobs_fed h
  obtain rfl := same st
  refine ⟨jobs, ce, ?_⟩
  unfold Hub.goOn
  rw [e]
  exact if_neg fun both => st both.1

/-- The dump `e` stands where `d` does, beside its segments and the place of its next chunk. -/
def Dump.beside (d e : Dump) : Prop := e.req = d.req ∧ e.man = d.man ∧ e.out = d.out ∧ e.status = d.status

theorem Dump.beside_of_still {d e : Dump} (same : e.still = d.still) : d.beside e :=
  ⟨congrArg (·.req) same, congrArg (·.man) same, congrArg (·.out) same, congrArg (·.status) same⟩

/-- A dump in STREAM goes on, or ends as it is once it has no more to write. -/
theorem goOn_stream {h : Hub} {d : Dump} (st : h.dmp.st = .stream) (cur : h.dmp.cur = some d) (goes : d.stop = false) :
    ∃ x e jobs ce, h.goOn = { h with dmp := { h.dmp with st := x, cur := some e, jobs := jobs }, ce := ce } ∧ (x = .stream ∨ x = .finish) ∧ d.beside e := by
  obtain ⟨now, jobs, ce, e, still, -⟩ := fourJobs_fed h
  rw [cur] at still
  obtain ⟨f, rfl, same⟩ := Option.map_eq_some_iff.mp still
  obtain ⟨req, man, out, status⟩ := Dump.beside_of_still same
  have stop : f.stop = false := (congrArg (·.stop) same).trans goes
  unfold Hub.goOn
  rw [e]
  dsimp only
  split
  · rw [stop, if_neg Bool.false_ne_true]
    exact ⟨_, _, _, _, rfl, .inr rfl, req, man, out, status⟩
  · exact ⟨h.dmp.st, _, _, _, rfl, .inl st, req, man, out, status⟩

end Sys2Proof.Machine
end

section
/-! The course of a dump from its plan to its directory entry, and the crash core (Table 10.6, R325, R331, R335). -/
namespace Sys2Proof.Machine

section Reserved

variable (h : Hub) (len : Nat) (hdr : List Byte) (manifest : Bool)

theorem tunLast_tunReserve : (h.tunReserve len hdr manifest).tunLast len = h.dmp.wr + h.tunGap len := by
  obtain ⟨irq, cyc, e⟩ := tunReserve_frame h len hdr manifest
  rw [e]
  exact Nat.add_sub_cancel ..

theorem tunReserve_cur : (h.tunReserve len hdr manifest).dmp.cur = h.dmp.cur := by
  obtain ⟨irq, cyc, e⟩ := tunReserve_frame h len hdr manifest
  rw [e]
  rfl

theorem tunReserve_wr : (h.tunReserve len hdr manifest).dmp.wr = h.dmp.wr + h.tunGap len + len := by
  obtain ⟨irq, cyc, e⟩ := tunReserve_frame h len hdr manifest
  rw [e]
  rfl

theorem tunReserve_record : (⟨h.dmp.wr + h.tunGap len, len, hdr, false, manifest⟩ : TunRec) ∈ (h.tunReserve len hdr manifest).dmp.recs := by
  obtain ⟨irq, cyc, e⟩ := tunReserve_frame h len hdr manifest
  rw [e]
  exact List.mem_append_right _ List.mem_cons_self

theorem tunReserve_out (whole : h.tunGap len = 0) : (h.tunReserve len hdr manifest).out = h.out := by
  obtain ⟨irq, cyc, e⟩ := tunReserve_frame h len hdr manifest
  rw [e, whole]
  rfl

end Reserved

theorem tunFits_placed (h : Hub) (t : SMap Nat) (len : Nat) : (h.placed t).tunFits len = h.tunFits len := rfl

theorem dumpPlan_placed (h : Hub) (t : SMap Nat) (m : Mem) (d : Dump) : (h.placed t).dumpPlan m d = h.dumpPlan m d := rfl

/-- A hub whose engine streams the dump `d`. -/
def Hub.streaming (r : Hub) (d : Dump) : Hub := { r with dmp := { r.dmp with st := .stream, cur := some d } }

theorem updDump_streaming {r : Hub} {d : Dump} (still : r.dmp.cur = some d) (f : Dump → Dump) :
    ({ r.updDump f with dmp := { (r.updDump f).dmp with st := .stream } } : Hub) = r.streaming (f d) := by
  rw [Hub.updDump, still]
  rfl

section Course

variable {h : Hub} {d : Dump} (cur : h.dmp.cur = some d)

theorem dumpFirkin_context (m : Mem) (context : d.req.scope = 2) : h.dumpFirkin m d = h := if_pos context

include cur

theorem dumpPlanDone_full (m : Mem) (plan : h.dmp.st = .plan) (noJob : h.dmp.jobs = []) (up : h.nocUp = true) (full : h.tunFits 262144 = false)
    (context : d.req.scope = 2) :
    h.dumpPlanDone m = { h with dmp := { h.dmp with st := .finish, cur := some { d with notun := true, status := stDmpNotun } } } := by
  rw [Hub.dumpPlanDone, plan, cur]
  dsimp only
  rw [if_neg (not_not_intro noJob), if_pos (.inr (.inl (by rw [manifestSize, full]; rfl))), dumpFirkin_context _ context, if_pos up, Hub.updDump, cur]
  rfl

/-- A context's dump with its plan fixed and its manifest reserved at `pos`. -/
def Dump.planned (d : Dump) (segs : List Seg) (pos : Nat) : Dump :=
  { d with segs := segs, units := 0, unitBytes := [], man := pos, out := 262144, rawTotal := segs.foldl (fun a g => a + g.raw) 0 }

/-- The engine begins to stream the dump `d`, planned as in `h`: its manifest's record is reserved. -/
def Hub.streams (r h : Hub) (m : Mem) (d : Dump) : Hub :=
  (r.tunReserve 262144 (tunHeader 1 0 255 0 d.req.object 0 0 262144 0) true).streaming (d.planned (h.dumpPlan m d) (h.dmp.wr + h.tunGap 262144))

theorem dumpPlanDone_room (m : Mem) (plan : h.dmp.st = .plan) (noJob : h.dmp.jobs = []) (up : h.nocUp = true) (room : h.tunFits 262144 = true)
    (data : h.tunData ≠ 0) (context : d.req.scope = 2) : h.dumpPlanDone m = (h.streams h m d).goOn := by
  have place := tunLast_tunReserve h 262144 (tunHeader 1 0 255 0 d.req.object 0 0 262144 0) true
  have still := (tunReserve_cur h 262144 (tunHeader 1 0 255 0 d.req.object 0 0 262144 0) true).trans cur
  rw [Hub.dumpPlanDone, plan, cur]
  dsimp only
  rw [if_neg (not_not_intro noJob), if_neg (by simp [manifestSize, up, room, data]), dumpFirkin_context _ context, if_pos context, List.length_nil, List.flatMap_nil,
    show manifestSize = 262144 from rfl, place]
  exact congrArg Hub.goOn (updDump_streaming still fun e => Dump.planned e (h.dumpPlan m d) (h.dmp.wr + h.tunGap 262144))

omit cur in
/-- What a dump in STREAM keeps while it goes on. -/
theorem goOn_streams (st : h.dmp.st = .stream) (cur : h.dmp.cur = some d) (goes : d.stop = false) :
    (h.goOn.dmp.st = .stream ∨ h.goOn.dmp.st = .finish) ∧ (∃ e, h.goOn.dmp.cur = some e ∧ d.beside e) ∧ h.goOn.dmp.wr = h.dmp.wr ∧
      h.goOn.dmp.recs = h.dmp.recs ∧ h.goOn.out = h.out := by
  obtain ⟨x, e, jobs, ce, goes, state, beside⟩ := goOn_stream st cur goes
  rw [goes]
  exact ⟨state, ⟨e, rfl, beside⟩, rfl, rfl, rfl⟩

section Streams

omit cur

variable (h : Hub) (t : SMap Nat) (m : Mem) (d : Dump)

theorem tunGap_placed (len : Nat) : (h.placed t).tunGap len = h.tunGap len := rfl

theorem streaming_dmp (r : Hub) : (r.streaming d).dmp.wr = r.dmp.wr ∧ (r.streaming d).dmp.recs = r.dmp.recs ∧ (r.streaming d).out = r.out := ⟨rfl, rfl, rfl⟩

theorem streams_placed : (h.placed t).streams (h.placed t) m d = (h.placed t).streams h m d := by
  rw [Hub.streams, dumpPlan_placed, tunGap_placed]
  rfl

theorem streams_wr : ((h.placed t).streams h m d).dmp.wr = h.dmp.wr + h.tunGap 262144 + 262144 := by
  rw [Hub.streams, (streaming_dmp _ _).1, tunReserve_wr, tunGap_placed]
  rfl

theorem streams_record :
    (⟨h.dmp.wr + h.tunGap 262144, 262144, tunHeader 1 0 255 0 d.req.object 0 0 262144 0, false, true⟩ : TunRec) ∈ ((h.placed t).streams h m d).dmp.recs := by
  rw [Hub.streams, (streaming_dmp _ _).2.1, ← tunGap_placed h t]
  exact tunReserve_record (h.placed t) 262144 _ true

theorem streams_out (whole : h.tunGap 262144 = 0) : ((h.placed t).streams h m d).out = [] := by
  rw [Hub.streams, (streaming_dmp _ _).2.2]
  exact tunReserve_out (h.placed t) 262144 _ true whole

end Streams

theorem dumpFinish_written (finish : h.dmp.st = .finish) (noFirkin : h.dmp.fk = none) (done : ∀ r ∈ h.dmp.recs, r.done = true ∨ r.manifest = true) :
    h.dumpFinish =
      { h with dmp := { h.dmp with st := .sign, cur := some { d with endTick := if d.endTick = 0 then h.now else d.endTick } } } := by
  have whole : (h.dmp.recs.any fun r => !r.done && !r.manifest) = false := by
    rw [List.any_eq_false]
    intro r mem
    rcases done r mem with e | e <;> simp [e]
  rw [Hub.dumpFinish, finish, cur]
  dsimp only
  have idle : h.dumpFkBusy d = false := by rw [Hub.dumpFkBusy, noFirkin]
  rw [whole, idle, if_neg (by simp), Hub.updDump, cur]
  rfl

theorem firkinDone_whole {cause cut : Nat} (writes : h.dmp.fk = some (cause, d.req.object, cut)) :
    h.firkinDone =
      { h.firkinEnd d.sliceOf cause d.status d.req.object cut with
        dmp := { h.dmp with fk := none, cur := some { d with firkin := true } } } := by
  have mine : h.dmp.cur.filter (fun x => x.req.object == d.req.object) = some d := by
    rw [cur]
    simp
  have still : (h.firkinEnd d.sliceOf cause d.status d.req.object cut).dmp = h.dmp := rfl
  rw [Hub.firkinDone, writes]
  dsimp only
  rw [mine]
  dsimp only
  rw [Hub.updDump, still, cur]
  simp only [Option.map_some, beq_self_eq_true, Bool.or_true]

end Course
/-! ## The manifest and the directory entry (R325, R331) -/

theorem tunSettle_frame (h : Hub) : ∃ done recs, h.tunSettle = { h with dmp := { h.dmp with done := done, recs := recs } } := ⟨_, _, rfl⟩

theorem DirEnt.image_length (e : DirEnt) : e.image.length = 48 := by
  simp only [DirEnt.image, List.length_append, leBytes_length]

theorem tunHeader_length (type cls slice flags object chunk inOff len inLen : Nat) :
    (tunHeader type cls slice flags object chunk inOff len inLen).length = 32 := by
  simp only [tunHeader, List.length_append, leBytes_length]

/-- The directory has taken one entry more. -/
def Dmp.listed (p : Dmp) : Dmp := { p with dirNext := (p.dirNext + 1) % 2 ^ 32, dirCount := Nat.min 64 (p.dirCount + 1) }

/-- The counts that follow in its header. -/
def Dmp.counts (p : Dmp) : List Byte := leBytes 4 (Nat.min 64 (p.dirCount + 1)) ++ leBytes 4 (p.dirNext + 1)

theorem Dmp.counts_length (p : Dmp) : p.counts.length = 8 := by rw [Dmp.counts, List.length_append, leBytes_length, leBytes_length]

/-- The writes of a directory entry. -/
def Hub.entryWrites (h : Hub) (e : DirEnt) : List MemWrite :=
  [⟨1, h.boot.tunBase + 0x80 + 48 * (h.dmp.dirNext % 64), e.image⟩, ⟨1, h.boot.tunBase + 0x48, h.dmp.counts⟩]

theorem tunDirectory_eq (h : Hub) (e : DirEnt) : h.tunDirectory e = { h with dmp := h.dmp.listed, out := h.out ++ h.entryWrites e } := by
  unfold Hub.tunDirectory Hub.hbmWrite
  simp only [List.append_assoc, List.cons_append, List.nil_append]
  rfl

/-- The records of the Tun once its manifest's header is written, and the position up to which they are complete. -/
def Dmp.settled (p : Dmp) : Nat × List TunRec := tunAdvance p.done (p.recs.map fun (r : TunRec) => if r.manifest then { r with done := true } else r)

/-- The engine's record of a dump whose manifest is written. -/
def Dmp.signed (p : Dmp) : Dmp := Dmp.listed { p with done := p.settled.1, recs := p.settled.2 }

/-- The manifest of a dump behind its header, signed. -/
def Hub.manifestBody (h : Hub) (d : Dump) : List Byte :=
  padTo (manifestSize - 32) (patch (h.manifest d) 0xA0 (padTo 96 (Config.ecdsaSign h.boot.diePriv (sha384 (h.manifest d)))))

/-- The directory entry of a dump. -/
def Dump.entry (d : Dump) : DirEnt :=
  { object := d.req.object, typ := 1, flags := b2n d.complete + 2 * b2n (d.truncated || d.status == stPartial), status := d.status, pos := d.man,
    bytes := d.out, endTick := d.endTick, rawTotal := d.rawTotal, rawWritten := d.rawWritten }

/-- The writes of a manifest and of its directory entry. -/
def Hub.manifestWrites (h : Hub) (d : Dump) : List MemWrite :=
  [⟨1, h.tunAddr d.man + 32, h.manifestBody d⟩, ⟨1, h.tunAddr d.man, tunHeader 1 0 255 0 d.req.object 0 0 manifestSize 0⟩] ++ h.entryWrites d.entry

theorem hbmWrite_twice (h : Hub) (a b : Nat) (x y : List Byte) :
    (h.hbmWrite a x).hbmWrite b y = { h with out := h.out ++ [⟨1, a, x⟩, ⟨1, b, y⟩] } := by
  unfold Hub.hbmWrite
  rw [List.append_assoc]
  rfl

theorem dumpManifest_eq {h : Hub} {d : Dump} (up : h.nocUp = true) (room : d.notun = false) :
    h.dumpManifest d = Hub.attnSet { h with out := h.out ++ h.manifestWrites d, dmp := h.dmp.signed } 7 := by
  unfold Hub.manifestWrites
  rw [Hub.dumpManifest, if_neg (by simp [up]), if_neg (by simp [room]), ← List.append_assoc]
  dsimp only
  rw [Hub.tunBody, show ∀ x, (h.hbmWrite (h.tunAddr d.man + 32) x).tunAddr d.man = h.tunAddr d.man from fun _ => rfl, hbmWrite_twice]
  exact congrArg (Hub.attnSet · 7) (tunDirectory_eq _ d.entry)

/-- The record of a dump that is signed. -/
def Hub.signedRecord (h : Hub) (d : Dump) : Req :=
  { h.evt 6 0x0601 with
    slice := if d.req.scope = 1 then 255 else d.req.slice, ctx := if d.req.scope = 2 then some d.req.context else none,
    status := d.status, aux := d.req.cause, arg := d.req.object, words := [d.rawWritten, d.out] }

/-- The master of a dump is told that it has ended. -/
def Dump.told (d : Dump) (x : DmpM) : DmpM := if x.running ∧ x.object = d.req.object then { x with status := d.status, running := false } else x

theorem watchesGo_none {h : Hub} (quiet : h.dmp.fires = []) : h.watchesGo = h := by rw [Hub.watchesGo, quiet]

theorem dumpSigned_eq {h : Hub} {d : Dump} (sign : h.dmp.st = .sign) (cur : h.dmp.cur = some d) (up : h.nocUp = true) (room : d.notun = false)
    (alone : h.dmp.next = none) (quiet : h.dmp.fires = []) (on : h.classOn 6 = true) (few : h.er.sysq.length < 32)
    (mine : (SMap.get {} h.dmp.m d.req.owner.idx).object = d.req.object) (running : (SMap.get {} h.dmp.m d.req.owner.idx).running = true) :
    h.dumpSigned = { (h.dumpManifest d).irqRaise 5 with
      er := { h.er with sysq := h.er.sysq ++ [h.signedRecord d] },
      dmp := { (h.dumpManifest d).dmp with
        st := .idle, cur := none, m := SMap.upd {} h.dmp.m d.req.owner.idx fun x => { x with status := d.status, running := false } } } := by
  have told : SMap.upd {} h.dmp.m d.req.owner.idx (fun x => { x with status := d.status, running := false }) = SMap.upd {} h.dmp.m d.req.owner.idx d.told := by
    rw [SMap.upd, SMap.upd, Dump.told, if_pos ⟨running, mine⟩]
  rw [told]
  rw [dumpManifest_eq up room]
  rw [Hub.dumpSigned, sign, cur]
  dsimp only
  rw [dumpManifest_eq up room, record_sysq]
  case on => exact on
  case c => exact (by decide : (6 : ℕ) ≠ 8)
  case t => rfl
  case q => exact few
  split
  · next n more => exact absurd (alone.symm.trans more) (by simp)
  · exact watchesGo_none quiet

/-! ## The manifest in HBM -/

section Manifest

variable {h : Hub} {d : Dump} (data : 0x2200000 < h.boot.tunSize) (inside : d.man % h.tunData + 262144 ≤ h.tunData)
include data inside

/-- The manifest's record lies in the data area, behind the directory. -/
theorem tunAddr_manifest : h.boot.tunBase + 0x2200000 ≤ h.tunAddr d.man ∧ h.tunAddr d.man + 262144 ≤ h.boot.tunBase + h.boot.tunSize := by
  have size : h.tunData = h.boot.tunSize - 0x2200000 := rfl
  have place : h.tunAddr d.man = h.boot.tunBase + 0x2200000 + d.man % h.tunData := by
    rw [Hub.tunAddr, if_neg (by omega)]
    rfl
  omega

omit data inside in
/-- The directory entry and the counts lie in front of the data area. -/
theorem entryWrites_place : ∀ w ∈ h.entryWrites d.entry,
    h.boot.tunBase ≤ w.addr ∧ w.addr + w.bytes.length ≤ h.boot.tunBase + 0x2200000 := by
  intro w mem
  have low := Nat.mod_lt h.dmp.dirNext (by decide : 0 < 64)
  simp only [Hub.entryWrites, List.mem_cons, List.not_mem_nil, or_false] at mem
  rcases mem with rfl | rfl
  · rw [DirEnt.image_length]
    dsimp only
    omega
  · rw [Dmp.counts_length]
    dsimp only
    omega

theorem manifest_outside (m : Mem) {a : Nat} (outside : a < h.boot.tunBase ∨ h.boot.tunBase + h.boot.tunSize ≤ a) :
    SMap.get 0 (m.apply (h.manifestWrites d)).hbm a = SMap.get 0 m.hbm a := by
  obtain ⟨low, high⟩ := tunAddr_manifest data inside
  refine hbm_untouched m fun w mem _ => ?_
  rcases List.mem_append.mp mem with front | entry
  · simp only [List.mem_cons, List.not_mem_nil, or_false] at front
    have len : (h.manifestBody d).length = 262112 := padTo_length _ _
    rcases front with rfl | rfl
    · dsimp only
      omega
    · rw [tunHeader_length]
      dsimp only
      omega
  · have := entryWrites_place w entry
    omega

theorem manifest_magic (m : Mem) (fits : h.boot.tunBase + h.boot.tunSize ≤ hbmSize) {k : Nat} (small : k < 4) :
    SMap.get 0 (m.apply (h.manifestWrites d)).hbm (h.tunAddr d.man + k) = (leBytes 4 0x43455254).getD k 0 := by
  obtain ⟨low, high⟩ := tunAddr_manifest data inside
  rw [Hub.manifestWrites, Mem.apply_append, hbm_untouched _ fun w mem _ => ?_]
  · refine (get_writeBytes_in hbmSize _ _ ?_ ?_).trans ?_
    · rw [tunHeader_length]
      omega
    · show h.tunAddr d.man + k < hbmSize
      omega
    · rw [tunHeader]
      simp only [List.append_assoc]
      exact List.getD_append _ _ _ _ (by rwa [leBytes_length])
  · have := entryWrites_place w mem
    omega

end Manifest

/-! ## The crash core (R335) -/

/-- The control core and the tail of a crash core. -/
def Hub.coreWrites (h : Hub) (sl : Nat → Nat) : List MemWrite :=
  [⟨0, coreOff, padTo coreSize (h.controlCore sl)⟩, ⟨0, tailOff, padTo tailSize h.firkinTail.flatten⟩]

/-- The header of a crash core that is whole. -/
def Hub.coreHeader (h : Hub) (sl : Nat → Nat) (cause status object cut : Nat) : List Byte :=
  h.firkinHeader 2 cause status object cut h.firkinTail.length (h.controlCore sl).length (leAt (h.firkinTail.headD []) 0 4)

theorem firkinWrite_thrice (h : Hub) (a b c : Nat) (x y z : List Byte) :
    (((h.firkinWrite a x).firkinWrite b y).firkinWrite c z).out = h.out ++ ([⟨0, a, x⟩, ⟨0, b, y⟩] ++ [⟨0, c, z⟩]) := by
  simp only [Hub.firkinWrite, List.append_assoc, List.cons_append, List.nil_append]

theorem firkinEnd_out (h : Hub) (sl : Nat → Nat) (cause status object cut : Nat) :
    (h.firkinEnd sl cause status object cut).out = h.out ++ (h.coreWrites sl ++ [⟨0, 0, h.coreHeader sl cause status object cut⟩]) :=
  firkinWrite_thrice h _ _ _ _ _ _

theorem firkinHeader_length (h : Hub) (state cause status object cut tail core first : Nat) :
    (h.firkinHeader state cause status object cut tail core first).length = 0x1000 := padTo_length _ _

theorem firkinHeader_mark (h : Hub) (state cause status object cut tail core first : Nat) {k : Nat} (low : k < 8) :
    (h.firkinHeader state cause status object cut tail core first).getD k 0 = (leBytes 4 0x4E4B5246 ++ leBytes 2 1 ++ leBytes 2 state).getD k 0 := by
  have len : (leBytes 4 0x4E4B5246 ++ leBytes 2 1 ++ leBytes 2 state).length = 8 := by simp only [List.length_append, leBytes_length]
  rw [Hub.firkinHeader, padTo_getD _ (by omega)]
  simp only [List.append_assoc]
  rw [← List.append_assoc, ← List.append_assoc]
  exact List.getD_append _ _ _ _ (by rwa [len])

section Core

variable (h : Hub) (m : Mem) (sl : Nat → Nat) (cause status object cut : Nat)

/-- The memories once a crash core is whole. -/
def Hub.cored : Mem := m.apply (h.coreWrites sl ++ [⟨0, 0, h.coreHeader sl cause status object cut⟩])

theorem core_mark {k : Nat} (low : k < 8) :
    SMap.get 0 (h.cored m sl cause status object cut).firkin k = (leBytes 4 0x4E4B5246 ++ leBytes 2 1 ++ leBytes 2 2).getD k 0 := by
  have last := firkin_last (a := 0) m (h.coreWrites sl) (b := h.coreHeader sl cause status object cut) (k := k)
    (by rw [Hub.coreHeader, firkinHeader_length]; omega) (by rw [firkinSize]; omega)
  rw [Nat.zero_add] at last
  exact last.trans (firkinHeader_mark h 2 cause status object cut _ _ _ low)

theorem core_outside {a : Nat} (low : 0x100000 ≤ a) (high : a < 0x500000) :
    SMap.get 0 (h.cored m sl cause status object cut).firkin a = SMap.get 0 m.firkin a := by
  refine firkin_untouched m fun w mem _ => ?_
  simp only [Hub.coreWrites, List.cons_append, List.nil_append, List.mem_cons, List.not_mem_nil, or_false] at mem
  rcases mem with rfl | rfl | rfl
  · right
    have len : (padTo coreSize (h.controlCore sl)).length = 1044480 := padTo_length _ _
    show 0x1000 + (padTo coreSize (h.controlCore sl)).length ≤ a
    omega
  · left
    exact high
  · right
    rw [Hub.coreHeader, firkinHeader_length]
    dsimp only
    omega

theorem core_hbm : (h.cored m sl cause status object cut).hbm = m.hbm := by
  refine apply_hbm_kept m fun w mem => ?_
  simp only [Hub.coreWrites, List.cons_append, List.nil_append, List.mem_cons, List.not_mem_nil, or_false] at mem
  rcases mem with rfl | rfl | rfl <;> rfl

theorem cored_lands (s : State) (p : Dmp) (none : h.out = []) :
    (lands s { h.firkinEnd sl cause status object cut with dmp := p }).mem = h.cored s.mem sl cause status object cut := by
  have out := firkinEnd_out h sl cause status object cut
  rw [none] at out
  exact congrArg s.mem.apply out

end Core

theorem lands_dmp (s : State) (g : Hub) : (lands s g).hub.dmp = g.dmp := rfl

theorem lands_mem (s : State) (g : Hub) : (lands s g).mem = s.mem.apply g.out := rfl

/-- Settles O30: the engine's states in the order in which a dump goes through them. -/
theorem dumpCourse : Obligations.DumpCourse := by
  unfold Obligations.DumpCourse
  intro s d live cur
  refine ⟨fun plan noJob up full context => ?_, fun plan noJob up room data context goes => ?_, fun finish noFirkin done => ?_,
    fun sign room up alone quiet on few data inside fits mine running => ?_, fun cause cut writes => ?_⟩
  · exact yields_of_eq rfl live (fun t => dumpPlanDone_full (h := s.hub.placed t) cur s.mem plan noJob up ((tunFits_placed s.hub t 262144).trans full) context) fun t => rfl
  · refine yields_of_eq rfl live (fun t => (dumpPlanDone_room (h := s.hub.placed t) cur s.mem plan noJob up ((tunFits_placed s.hub t 262144).trans room)
      data context).trans (congrArg Hub.goOn (streams_placed s.hub t s.mem d))) fun t => ?_
    obtain ⟨state, ⟨e, now, beside⟩, wr, recs, out⟩ := goOn_streams (h := (s.hub.placed t).streams s.hub s.mem d) rfl rfl goes
    have record := streams_record s.hub t s.mem d
    rw [← recs] at record
    have wr := wr.trans (streams_wr s.hub t s.mem d)
    refine ⟨?wr, ?state, ⟨e, ?now, beside⟩,
      ⟨⟨s.hub.dmp.wr + s.hub.tunGap 262144, 262144, tunHeader 1 0 255 0 d.req.object 0 0 262144 0, false, true⟩, ?record, rfl, rfl, rfl, rfl⟩,
      fun whole => ?out, rfl⟩
    case wr =>
      rw [lands_dmp]
      exact wr
    case state =>
      rw [lands_dmp]
      exact state
    case now =>
      rw [lands_dmp]
      exact now
    case record =>
      rw [lands_dmp]
      exact record
    case out => rw [lands_mem, out, streams_out s.hub t s.mem d whole, Mem.apply_nil]
  · exact yields_of_eq rfl live (fun t => dumpFinish_written (h := s.hub.placed t) cur finish noFirkin done) fun t => rfl
  · refine yields_of_eq rfl live (fun t => dumpSigned_eq (h := s.hub.placed t) sign cur up room alone quiet on few mine running) fun t => ?_
    have same := dumpManifest_eq (h := s.hub.placed t) up room
    rw [same]
    have ended := SMap.get_upd_self {} s.hub.dmp.m d.req.owner.idx fun x => { x with status := d.status, running := false }
    refine ⟨rfl, rfl, rfl, rfl, ended, irqRaise_status _ 5, ?_, rfl, fun k low => manifest_magic (h := s.hub) data inside s.mem fits low,
      fun a outside => manifest_outside (h := s.hub) data inside s.mem outside, rfl⟩
    exact (bit_or_two_pow s.hub.span.attn 7 7).trans (by simp)
  · refine yields_of_eq rfl live (fun t => firkinDone_whole (h := s.hub.placed t) cur writes) fun t => ?_
    have cored := cored_lands (s.hub.placed t) d.sliceOf cause d.status d.req.object cut s
      { (s.hub.placed t).dmp with fk := none, cur := some { d with firkin := true } } rfl
    rw [cored]
    exact ⟨fun k low => core_mark _ _ _ _ _ _ _ low, fun a low high => core_outside _ _ _ _ _ _ _ low high, core_hbm _ _ _ _ _ _ _,
      congrArg (fun m : Mem => State.mk _ m _) cored.symm⟩

end Sys2Proof.Machine
end

section
/-! Chunks of a dump and the records of the Tun (R322, R326, R330). -/
namespace Sys2Proof.Machine

section Chunks

variable {h : Hub} {d : Dump} {g : Seg} {j : Job}

theorem updDump_some (cur : h.dmp.cur = some d) (f : Dump → Dump) : h.updDump f = { h with dmp := { h.dmp with cur := some (f d) } } := by
  rw [Hub.updDump, cur]
  rfl

/-! ## The end of STREAM -/

/-- A segment that is closed, or written whole. -/
def Seg.over (g : Seg) : Prop := ¬ (g.status = stOk ∧ g.written < g.raw)

theorem nextSeg_over (closed : g.over) : nextSeg [g] 0 = none := by
  have no : (g.status == stOk && decide (g.written < g.raw)) = false := by
    rw [Bool.eq_false_iff]
    intro both
    rw [Bool.and_eq_true, beq_iff_eq, decide_eq_true_eq] at both
    exact closed both
  simp [nextSeg, firstIdx, no]

theorem endStream_ok (cur : h.dmp.cur = some d) (segs : d.segs = [g]) (closed : g.over) :
    h.endStream stOk stOk = { h with dmp := { h.dmp with st := .finish } } := by
  have kept : d.segs.map (fun g : Seg => if g.status = stOk ∧ g.written < g.raw then { g with status := stOk } else g) = d.segs := by
    rw [segs, List.map_singleton, if_neg closed]
  have same : (d.aborted || stOk == stAborted) = d.aborted := Bool.or_false _
  unfold Hub.endStream
  dsimp only
  rw [updDump_some cur, kept, same, if_pos rfl, ← cur]

theorem endStream_partial (cur : h.dmp.cur = some d) (segs : d.segs = [g]) (closed : g.over) :
    h.endStream stPartial stDmpOmitted = { h with dmp := { h.dmp with st := .finish, cur := some { d with status := stPartial } } } := by
  have kept : d.segs.map (fun g : Seg => if g.status = stOk ∧ g.written < g.raw then { g with status := stDmpOmitted } else g) = d.segs := by
    rw [segs, List.map_singleton, if_neg closed]
  have same : (d.aborted || stPartial == stAborted) = d.aborted := Bool.or_false _
  unfold Hub.endStream
  dsimp only
  rw [updDump_some cur, kept, same, if_neg (by decide)]

/-- A dump whose last segment is over, with no chunk in the engines, ends its stream. -/
theorem goOn_over (st : h.dmp.st = .stream) (cur : h.dmp.cur = some d) (noJob : h.dmp.jobs = []) (segs : d.segs = [g]) (closed : g.over)
    (goes : d.stop = false) : h.goOn = { h with dmp := { h.dmp with st := .finish } } := by
  have next : d.nextChunk h.dmp.jobs = none := by
    rw [noJob, Dump.nextChunk, List.getLast?_nil]
    dsimp only
    rw [segs, nextSeg_over closed, Option.map_none]
  have still : h.startNext = h := by
    rw [Hub.startNext, st]
    dsimp only
    rw [cur]
    dsimp only
    rw [next]
  rw [Hub.goOn, still, still, still, still, if_pos ⟨st, noJob⟩, cur]
  dsimp only
  rw [goes, if_neg Bool.false_ne_true, endStream_ok cur segs closed]

/-! ## A chunk's record -/

section Record

variable (h : Hub) (key : List Byte) (cls slice flags object chunk inOff inLen : Nat) (plain : List Byte)

/-- A chunk's record is a reservation of the chunk's length and its body. -/
theorem chunkRecord_eq : ∃ hdr body, h.chunkRecord key cls slice flags object chunk inOff inLen plain =
    (h.dmp.wr + h.tunGap (chunkLen (!key.isEmpty) plain.length), chunkLen (!key.isEmpty) plain.length,
      (h.tunReserve (chunkLen (!key.isEmpty) plain.length) hdr false).tunBody (h.dmp.wr + h.tunGap (chunkLen (!key.isEmpty) plain.length)) body) := by
  refine ⟨tunHeader 3 cls slice (flags + b2n (!key.isEmpty)) object chunk inOff (chunkLen (!key.isEmpty) plain.length) inLen, ?body, ?eq⟩
  case eq =>
    unfold Hub.chunkRecord
    dsimp only
    have len : roundUp 64 (32 + plain.length + if key.isEmpty = true then 0 else 16) = chunkLen (!key.isEmpty) plain.length := by
      unfold chunkLen
      cases key.isEmpty <;> rfl
    rw [len, tunLast_tunReserve]

theorem chunkRecord_place : (h.chunkRecord key cls slice flags object chunk inOff inLen plain).1 = h.dmp.wr + h.tunGap (chunkLen (!key.isEmpty) plain.length) ∧
    (h.chunkRecord key cls slice flags object chunk inOff inLen plain).2.1 = chunkLen (!key.isEmpty) plain.length := by
  obtain ⟨hdr, body, e⟩ := chunkRecord_eq h key cls slice flags object chunk inOff inLen plain
  rw [e]
  exact ⟨rfl, rfl⟩

theorem chunkRecord_dmp : (h.chunkRecord key cls slice flags object chunk inOff inLen plain).2.2.dmp =
    { h.dmp with wr := h.dmp.wr + h.tunGap (chunkLen (!key.isEmpty) plain.length) + chunkLen (!key.isEmpty) plain.length,
                 recs := (h.chunkRecord key cls slice flags object chunk inOff inLen plain).2.2.dmp.recs } := by
  obtain ⟨hdr, body, e⟩ := chunkRecord_eq h key cls slice flags object chunk inOff inLen plain
  obtain ⟨irq, cyc, r⟩ := tunReserve_frame h (chunkLen (!key.isEmpty) plain.length) hdr false
  rw [e, r]
  rfl

end Record

/-! ## The engine's chunks -/

theorem dumpJob_ended {st : Nat} (cur : h.dmp.cur = some d) (jobs : h.dmp.jobs = [j]) (mine : j.watch = false) (ended : j.ended = some st) :
    h.dumpJob = some (d, j, st) := by
  rw [Hub.dumpJob, cur, jobs]
  simp [mine, ended]

/-- A segment whose last chunk stands at `pos`. -/
def Seg.finished (g : Seg) (pos : Nat) : Seg :=
  { g with chunks := g.chunks + 1, written := g.raw, pos := if g.chunks = 0 then pos else g.pos }

/-- A dump of one segment whose last chunk is the record of `len` bytes at `pos`. -/
def Dump.finished (d : Dump) (g : Seg) (pos len : Nat) : Dump := { d with chunk := d.chunk + 1, out := d.out + len, segs := [g.finished pos] }

/-- Such a dump in FINISH, with no chunk in the engines. -/
def Hub.finishes (h : Hub) (d : Dump) : Hub := { h with dmp := { h.dmp with st := .finish, jobs := [], cur := some d } }

theorem chunkWritten_dump (jobs : h.dmp.jobs = [j]) (mine : j.watch = false) : h.chunkWritten = h.dumpChunk := by
  have none : h.watchJob = none := by
    rw [Hub.watchJob, jobs]
    split
    · next head => simp_all
    · rfl
  rw [Hub.chunkWritten, none]
  rfl

theorem finishes_wr (h : Hub) (d : Dump) : (h.finishes d).dmp.wr = h.dmp.wr := rfl

theorem dumpRecord_last {key : List Byte} (cur : h.dmp.cur = some d) (segs : d.segs = [g]) (first : j.seg = 0) (some_ : 0 < j.inDone)
    (from_ : g.written = j.off) (last : j.off + j.inDone = g.raw) (sealed : d.keyOf g.slice = key) :
    h.dumpRecord d j false =
      (h.chunkRecord key g.cls g.slice 2 d.req.object d.chunk j.off j.inDone j.out).2.2.updDump fun _ =>
        d.finished g (h.dmp.wr + h.tunGap (chunkLen (!key.isEmpty) j.out.length)) (chunkLen (!key.isEmpty) j.out.length) := by
  obtain ⟨place, len⟩ := chunkRecord_place h key g.cls g.slice 2 d.req.object d.chunk j.off j.inDone j.out
  have seg : d.segs.getD j.seg default = g := by
    rw [segs, first]
    rfl
  have still : (h.chunkRecord key g.cls g.slice 2 d.req.object d.chunk j.off j.inDone j.out).2.2.dmp.cur = some d := by
    rw [chunkRecord_dmp]
    exact cur
  have flags : 2 * b2n (decide (j.off + j.inDone = g.raw)) + 8 * b2n false = 2 := by
    rw [decide_eq_true last]
    rfl
  unfold Hub.dumpRecord
  rw [if_neg (by omega), seg]
  dsimp only
  rw [sealed, flags, place, len, updDump_some still, updDump_some still]
  have written : g.written + j.inDone = g.raw := by rw [from_, last]
  have one (pos : Nat) : modAt d.segs j.seg (fun x : Seg =>
      { x with chunks := x.chunks + 1, written := x.written + j.inDone, pos := if x.chunks = 0 then pos else x.pos }) = [g.finished pos] := by
    rw [segs, first]
    exact congrArg (fun w => [({ g with chunks := g.chunks + 1, written := w, pos := if g.chunks = 0 then pos else g.pos } : Seg)]) written
  rw [one]
  rfl

theorem goOn_finishes {r : Hub} {e : Dump} {x : Seg} (stream : r.dmp.st = .stream) (segs : e.segs = [x]) (closed : x.over) (goes : e.stop = false) :
    Hub.goOn { r with dmp := { r.dmp with cur := some e, jobs := [] } } = r.finishes e :=
  goOn_over (h := { r with dmp := { r.dmp with cur := some e, jobs := [] } }) stream rfl rfl segs closed goes

theorem noJob_one {r : Hub} {e : Option Dump} (one : r.dmp.jobs = [j]) :
    Hub.noJob { r with dmp := { r.dmp with cur := e } } = { r with dmp := { r.dmp with cur := e, jobs := [] } } := by
  unfold Hub.noJob
  dsimp only
  rw [one]
  rfl

theorem dumpChunk_last {key : List Byte} (stream : h.dmp.st = .stream) (cur : h.dmp.cur = some d) (jobs : h.dmp.jobs = [j]) (mine : j.watch = false)
    (ended : j.ended = some stOk) (segs : d.segs = [g]) (first : j.seg = 0) (goes : d.stop = false) (some_ : 0 < j.inDone) (from_ : g.written = j.off)
    (last : j.off + j.inDone = g.raw) (fits : h.dumpMisfit d j = false) (up : h.nocUp = true) (sealed : d.keyOf g.slice = key) :
    h.dumpChunk = (h.chunkRecord key g.cls g.slice 2 d.req.object d.chunk j.off j.inDone j.out).2.2.finishes
      (d.finished g (h.dmp.wr + h.tunGap (chunkLen (!key.isEmpty) j.out.length)) (chunkLen (!key.isEmpty) j.out.length)) := by
  have record := dumpRecord_last (h := h) cur segs first some_ from_ last sealed
  have dmp := chunkRecord_dmp h key g.cls g.slice 2 d.req.object d.chunk j.off j.inDone j.out
  have segs' : (d.finished g (h.dmp.wr + h.tunGap (chunkLen (!key.isEmpty) j.out.length)) (chunkLen (!key.isEmpty) j.out.length)).segs =
    [g.finished (h.dmp.wr + h.tunGap (chunkLen (!key.isEmpty) j.out.length))] := rfl
  have goes' : (d.finished g (h.dmp.wr + h.tunGap (chunkLen (!key.isEmpty) j.out.length)) (chunkLen (!key.isEmpty) j.out.length)).stop = false := goes
  generalize d.finished g (h.dmp.wr + h.tunGap (chunkLen (!key.isEmpty) j.out.length)) (chunkLen (!key.isEmpty) j.out.length) = e at record segs' goes' ⊢
  have closed : (g.finished (h.dmp.wr + h.tunGap (chunkLen (!key.isEmpty) j.out.length))).over := fun both => Nat.lt_irrefl _ both.2
  generalize (h.chunkRecord key g.cls g.slice 2 d.req.object d.chunk j.off j.inDone j.out).2.2 = r at record dmp ⊢
  have still : r.dmp.cur = some d := by rw [dmp]; exact cur
  have one : r.dmp.jobs = [j] := by rw [dmp]; exact jobs
  have streams : r.dmp.st = .stream := by rw [dmp]; exact stream
  rw [Hub.dumpChunk, dumpJob_ended cur jobs mine ended]
  dsimp only
  rw [if_neg (by simp [up, stOk, stPartial]), if_neg (by simp [fits]), show decide (stOk ≠ stOk) = false from rfl, if_neg Bool.false_ne_true, record, updDump_some still, noJob_one one, goOn_finishes streams segs' closed goes']

/-- A segment that is left PARTIAL. -/
def Seg.partial_ (g : Seg) : Seg := { g with status := stPartial }

theorem Seg.partial_over (g : Seg) : g.partial_.over := fun both => absurd both.1 (by decide : ¬ stPartial = stOk)

theorem dumpFull_empty (cur : h.dmp.cur = some d) (jobs : h.dmp.jobs = [j]) (mine : j.watch = false) (ended : j.ended = some stPartial)
    (segs : d.segs = [g]) (first : j.seg = 0) (goes : d.stop = false) (none : j.inDone = 0) (open_ : g.status = stOk) (up : h.nocUp = true) :
    h.dumpFull = h.finishes { d with truncated := true, status := stPartial, segs := [g.partial_] } := by
  have fits : h.dumpMisfit d j = false := by simp [Hub.dumpMisfit, Hub.misfits, none]
  have record : h.dumpRecord d j true = h := by rw [Hub.dumpRecord, if_pos none]
  have dropped : (h.dropJobs fun _ => true) = { h with dmp := { h.dmp with jobs := [] } } := by
    rw [Hub.dropJobs, jobs]
    simp [ended]
  have left : modAt d.segs j.seg (fun g : Seg => { g with status := if g.status = stOk then stPartial else g.status }) = [g.partial_] := by
    rw [segs, first]
    exact congrArg (fun st => [({ g with status := st } : Seg)]) (if_pos open_)
  rw [Hub.dumpFull, dumpJob_ended cur jobs mine ended]
  dsimp only
  rw [if_neg (by simp [up]), if_neg (by simp [fits]), if_neg (by simp [goes]), record, dropped, Hub.segPartial]
  rw [updDump_some (h := { h with dmp := { h.dmp with jobs := [] } }) cur, left, updDump_some rfl, endStream_partial rfl rfl (Seg.partial_over g)]
  rfl

/-! ## Records of the Tun -/

theorem tunSettle_done {r : TunRec} (recs : h.dmp.recs = [r]) (done : r.done = true) :
    h.tunSettle = { h with dmp := { h.dmp with done := r.pos + r.len, recs := [] } } := by
  rw [Hub.tunSettle, recs, tunAdvance, if_pos done, tunAdvance]

theorem tunComplete_one {r : TunRec} (recs : h.dmp.recs = [r]) (waits : r.done = false) (plain : r.manifest = false) (idle : h.dmp.cur = none)
    (up : h.nocUp = true) :
    h.tunComplete = { h.hbmWrite (h.tunAddr r.pos) r.hdr with dmp := { h.dmp with recs := [], done := r.pos + r.len } } := by
  rw [Hub.tunComplete, if_neg (by simp [up]), recs, firstIdx, if_pos (by simp [waits, plain])]
  dsimp only
  rw [tunSettle_done (r := { r with done := true }) (congrArg (modAt · 0 fun x : TunRec => { x with done := true }) recs) rfl]
  have still : h.dmp.cur.map (fun d => { d with endTick := h.now }) = h.dmp.cur := by
    rw [idle]
    rfl
  exact congrArg (fun c => ({ h.hbmWrite (h.tunAddr r.pos) r.hdr with dmp := { h.dmp with cur := c, recs := [], done := r.pos + r.len } } : Hub)) still

end Chunks

/-- Settles O31: a chunk, an engine out of space and a record that is complete. -/
theorem dumpChunks : Obligations.DumpChunks := by
  unfold Obligations.DumpChunks
  intro s live up
  refine ⟨fun d g j key cur stream jobs mine ended segs first goes some_ from_ last fits sealed => ?_,
    fun d g j cur stream jobs mine ended segs first goes none open_ => ?_, fun r recs waits plain idle fits => ?_⟩
  · refine yields_of_eq rfl live (fun t => (chunkWritten_dump (h := s.hub.placed t) jobs mine).trans
      (dumpChunk_last (h := s.hub.placed t) stream cur jobs mine ended segs first goes some_ from_ last fits up sealed)) fun t => ⟨?_, rfl⟩
    have dmp := chunkRecord_dmp (s.hub.placed t) key g.cls g.slice 2 d.req.object d.chunk j.off j.inDone j.out
    rw [lands_dmp, finishes_wr, dmp]
    rfl
  · exact yields_of_eq rfl live (fun t => dumpFull_empty (h := s.hub.placed t) cur jobs mine ended segs first goes none open_ up) fun t => rfl
  · refine yields_of_eq rfl live (fun t => tunComplete_one (h := s.hub.placed t) recs waits plain idle up) fun t => ⟨rfl, fun k low => ?_, fun a outside => ?_⟩
    · exact get_writeBytes_in hbmSize s.mem.hbm r.hdr low (show s.hub.tunAddr r.pos + k < hbmSize by omega)
    · exact get_writeBytes_out hbmSize s.mem.hbm r.hdr outside

end Sys2Proof.Machine
end

section
/-! Tensor watches (R338 to R344, Table 10.17). -/
namespace Sys2Proof.Machine

section Watch

variable {h : Hub} {f : Firing}

/-! ## Slots -/

theorem getWatch_updWatch (h : Hub) (w : Nat) (u : Watch → Watch) : (h.updWatch w u).getWatch w = u (h.getWatch w) := SMap.get_upd_self ..

theorem getWatch_updWatch_ne (h : Hub) (w : Nat) (u : Watch → Watch) {x : Nat} (ne : x ≠ w) : (h.updWatch w u).getWatch x = h.getWatch x :=
  SMap.get_upd_ne _ _ _ ne

theorem headFiring_one (fires : h.dmp.fires = [f]) {st : WSt} (slot : (h.getWatch f.slot).st = st) : h.headFiring = some (f, st) := by
  rw [Hub.headFiring, fires, ← slot]
  rfl

theorem watchReady_idle (idle : h.dmp.st = .idle) (up : h.nocUp = true) : h.watchReady = true := by simp [Hub.watchReady, idle, up]

/-! ## A released completion -/

/-- The one firing has released the completion that it held. -/
def Hub.unheld (h : Hub) (f : Firing) : Hub := { h with dmp := { h.dmp with fires := [{ f with held := false, releaseTick := h.now }] } }

theorem releaseHeld_free (fires : h.dmp.fires = [f]) (free : f.held = false) (w : Nat) : h.releaseHeld w = h := by
  rw [Hub.releaseHeld, fires, firstIdx, if_neg (by simp [free])]
  rfl

/-- A command in a context's list whose only hold is given up. -/
theorem updCtx_unheld {g : Hub} {a q : List Cmd} {x : Cmd} {c w : Nat} (cmds : (g.getCtx c).cmds = a ++ x :: q) (held : x.held = [w]) :
    (g.updCtx c fun k => { k with cmds := modAt k.cmds a.length fun y => { y with held := y.held.filter (· != w) } }) = g.noted c a.length x.status x := by
  have released : ({ x with held := x.held.filter (· != w) } : Cmd) = x.ending x.status := by
    rw [held]
    simp [Cmd.ending]
  have same : ∀ k : Ctx, k.cmds = a ++ x :: q →
      modAt k.cmds a.length (fun y : Cmd => { y with held := y.held.filter (· != w) }) = setAt k.cmds a.length (x.ending x.status) := by
    intro k list
    rw [list, modAt_behind, setAt_behind, released]
  unfold Hub.noted Hub.updCtx SMap.upd
  dsimp only
  rw [same (SMap.get {} g.ctx c) cmds]

theorem releaseHeld_ends {a q : List Cmd} {x : Cmd} (fires : h.dmp.fires = [f]) (holds : f.held = true)
    (cmds : (h.getCtx f.context).cmds = a ++ x :: q) (before : ∀ y ∈ a, y.held.contains f.slot = false) (held : x.held = [f.slot]) (here : x.gone = false)
    (sound : x.lost = false) (ok : unitOk x.unit = true) (gate : (h.getGate x.unit).st = .run) :
    h.releaseHeld f.slot = ((h.unheld f).ended f.context a.length x.status x).cmdSignals f.context (x.ending x.status) := by
  have listed : ((h.unheld f).getCtx f.context).cmds = a ++ x :: q := cmds
  have first : firstIdx (fun y : Cmd => y.held.contains f.slot) ((h.unheld f).getCtx f.context).cmds = some a.length :=
    listed ▸ firstIdx_some before (by simp [held])
  have noted : (((h.unheld f).noted f.context a.length x.status x).getCtx f.context).cmds = a ++ x.ending x.status :: q := by
    unfold Hub.noted
    rw [Hub.getCtx_updCtx, listed, setAt_behind]
    rfl
  rw [Hub.releaseHeld, fires, firstIdx, if_pos (by simp [holds])]
  dsimp only
  split
  · next none => exact absurd (none.symm.trans first) nofun
  · next i found =>
    obtain rfl : i = a.length := Option.some.inj (found.symm.trans first)
    refine (congrArg (fun g : Hub => if ((g.getCtx f.context).cmds.getD a.length default).held.isEmpty = true then g.finishCmd f.context a.length else g)
      (updCtx_unheld (g := h.unheld f) listed held)).trans ?_
    rw [noted, getD_behind, if_pos (show (x.ending x.status).held.isEmpty = true from rfl)]
    exact finishCmd_finished noted ok gate here sound

/-! ## A firing is served -/

theorem newObject_next (more : h.dmp.object ≠ 0xFFFFFFFF) :
    h.newObject = (h.dmp.object + 1, { h with dmp := { h.dmp with object := h.dmp.object + 1 } }) := by
  rw [Hub.newObject, if_neg more]

theorem updHead_one (fires : h.dmp.fires = [f]) (u : Firing → Firing) : h.updHead u = { h with dmp := { h.dmp with fires := [u f] } } := by
  rw [Hub.updHead, fires]

/-- A firing with its object, its dump key and its header's place. -/
def Firing.served (f : Firing) (object : Nat) (key : List Byte) (pos : Nat) : Firing := { f with object := object, key := key, pos := pos, out := 256 }

/-- The writes before and of a record's body: its filler and its bytes. -/
def Hub.bodyWrites (h : Hub) (gap : Nat) (b : List Byte) : List MemWrite := ((h.tunFiller gap).tunBody (h.dmp.wr + gap) b).out

theorem tunAddr_boot {g h : Hub} (boot : g.boot = h.boot) (pos : Nat) : g.tunAddr pos = h.tunAddr pos := by
  unfold Hub.tunAddr Hub.tunData
  rw [boot]

theorem bodyWrites_placed (h : Hub) (t : SMap Nat) (gap : Nat) (b : List Byte) :
    (h.placed t).bodyWrites gap b = (((h.placed t).tunFiller gap).tunBody (h.dmp.wr + gap) b).out := rfl

theorem tunBody_writes {g h : Hub} {gap : Nat} (boot : g.boot = h.boot) (out : g.out = (h.tunFiller gap).out) (b : List Byte) :
    (g.tunBody (h.dmp.wr + gap) b).out = h.bodyWrites gap b := by
  have filled : (h.tunFiller gap).boot = h.boot := by rw [tunFiller_frame]
  unfold Hub.bodyWrites Hub.tunBody Hub.hbmWrite
  rw [tunAddr_boot boot, tunAddr_boot filled, out]

theorem serve_record {r : Hub} (fires : r.dmp.fires = [f]) (idle : r.dmp.st = .idle) (irq : Irq) (cyc : Cyc) (g : Firing) (pos : Nat) (b : List Byte)
    (u : Watch → Watch) {l : List MemWrite} (out : (r.tunBody pos b).out = l) :
    ∃ jobs ce, (((Hub.updHead { r with irq := irq, cyc := cyc } fun _ => g).tunBody pos b).updWatch f.slot u).goOn =
      { r with irq := irq, cyc := cyc, out := l, ce := ce, dmp := { r.dmp with fires := [g], w := SMap.upd {} r.dmp.w f.slot u, jobs := jobs } } := by
  subst out
  rw [updHead_one (h := { r with irq := irq, cyc := cyc }) fires]
  exact goOn_idle (h := { r with irq := irq, cyc := cyc, out := (r.tunBody pos b).out, dmp := { r.dmp with fires := [g], w := SMap.upd {} r.dmp.w f.slot u } })
    (by rw [idle]; nofun)

/-- The engine has given out the object ID `o`. -/
def Hub.numbered (h : Hub) (o : Nat) : Hub := { h with dmp := { h.dmp with object := o } }

theorem reserved_out (h : Hub) (len : Nat) (hdr : List Byte) (manifest : Bool) (gap : Nat) : (h.reserved len hdr manifest gap).out = (h.tunFiller gap).out := by
  unfold Hub.reserved
  rfl

theorem reserved_firing (h : Hub) (len : Nat) (hdr : List Byte) (manifest : Bool) (gap : Nat) :
    (h.reserved len hdr manifest gap).dmp.fires = h.dmp.fires ∧ (h.reserved len hdr manifest gap).dmp.st = h.dmp.st ∧
      (h.reserved len hdr manifest gap).boot = h.boot := by
  unfold Hub.reserved
  exact ⟨rfl, rfl, rfl⟩

theorem numbered_gap (h : Hub) (o len : Nat) : (h.numbered o).tunGap len = h.tunGap len := rfl

theorem numbered_filler (h : Hub) (o gap : Nat) : ((h.numbered o).tunFiller gap).out = (h.tunFiller gap).out := by
  unfold Hub.tunFiller
  split <;> rfl

/-- A record of `len` bytes is reserved for the firing, and its body written. -/
theorem numbered_serves (fires : h.dmp.fires = [f]) (idle : h.dmp.st = .idle) (o len : Nat) (hdr : List Byte) (g : Firing) (b : List Byte)
    (u : Watch → Watch) :
    ∃ recs irq cyc jobs ce, (((((h.numbered o).tunReserve len hdr false).updHead fun _ => g).tunBody (h.dmp.wr + h.tunGap len) b).updWatch f.slot u).goOn =
      { h with irq := irq, cyc := cyc, ce := ce, out := h.bodyWrites (h.tunGap len) b,
               dmp := { h.dmp with object := o, wr := h.dmp.wr + h.tunGap len + len, recs := recs, jobs := jobs, fires := [g],
                                   w := SMap.upd {} h.dmp.w f.slot u } } := by
  obtain ⟨irq, cyc, e⟩ := tunReserve_frame (h.numbered o) len hdr false
  rw [e, numbered_gap]
  have filled : ((h.numbered o).reserved len hdr false (h.tunGap len)).out = (h.tunFiller (h.tunGap len)).out  :=
    (reserved_out (h.numbered o) len hdr false (h.tunGap len)).trans (numbered_filler h o (h.tunGap len))
  obtain ⟨one, rests, boot⟩ := reserved_firing (h.numbered o) len hdr false (h.tunGap len)
  obtain ⟨jobs, ce, served⟩ := serve_record (f := f) (r := (h.numbered o).reserved len hdr false (h.tunGap len))
    (one.trans fires) (rests.trans idle) irq cyc g (h.dmp.wr + h.tunGap len) b u
    (tunBody_writes (h := h) (gap := h.tunGap len) boot filled b)
  exact ⟨_, irq, cyc, jobs, ce, served⟩

theorem watchServe_queued (fires : h.dmp.fires = [f]) (idle : h.dmp.st = .idle) (up : h.nocUp = true) (slot : (h.getWatch f.slot).st = .queued)
    (room : h.tunFits 256 = true) (data : h.tunData ≠ 0) (more : h.dmp.object ≠ 0xFFFFFFFF) :
    ∃ recs irq cyc jobs ce, h.watchServe = { h with
      irq := irq, cyc := cyc, ce := ce, out := h.bodyWrites (h.tunGap 256) (Firing.header { f with object := h.dmp.object + 1 } stOk),
      dmp := { h.dmp with
        object := h.dmp.object + 1, wr := h.dmp.wr + h.tunGap 256 + 256, recs := recs, jobs := jobs,
        fires := [f.served (h.dmp.object + 1) (h.dumpKey f.slice) (h.dmp.wr + h.tunGap 256)],
        w := SMap.upd {} h.dmp.w f.slot fun x => { x with st := .reading, object := h.dmp.object + 1, done := 0 } } } := by
  rw [Hub.watchServe, headFiring_one fires slot]
  dsimp only
  rw [if_neg (by simp [watchReady_idle idle up, room, data]), newObject_next more]
  dsimp only
  rw [tunLast_tunReserve]
  obtain ⟨recs, irq, cyc, jobs, ce, served⟩ := numbered_serves fires idle (h.dmp.object + 1) 256 (tunHeader 2 0 f.slice 0 (h.dmp.object + 1) 0 0 256 0)
    (f.served (h.dmp.object + 1) (h.dumpKey f.slice) (h.dmp.wr + h.tunGap 256)) (Firing.header { f with object := h.dmp.object + 1 } stOk)
    fun x => { x with st := .reading, object := h.dmp.object + 1, done := 0 }
  exact ⟨recs, irq, cyc, jobs, ce, served⟩

/-! ## A firing's note: its header and its directory entry (R340) -/

/-- The directory entry of a firing. -/
def Firing.entry (f : Firing) (status flags tick : Nat) : DirEnt :=
  { object := f.object, typ := 2, flags := flags, status := status, pos := f.pos, bytes := f.out, endTick := tick, rawTotal := f.len, rawWritten := f.read }

/-- The header of a firing whose record a consumer has not passed. -/
def Hub.headerWrites (h : Hub) (f : Firing) (status : Nat) : List MemWrite :=
  if h.dmp.rd ≤ f.pos then [⟨1, h.tunAddr f.pos + 32, f.header status⟩] else []

theorem watchNote_eq (up : h.nocUp = true) (f : Firing) (status flags : Nat) :
    h.watchNote f status flags =
      { h with dmp := h.dmp.listed, out := h.out ++ h.headerWrites f status ++ h.entryWrites (f.entry status flags h.now) } := by
  unfold Hub.watchNote Hub.headerWrites
  rw [if_neg (by simp [up])]
  dsimp only
  rw [tunDirectory_eq]
  by_cases ahead : h.dmp.rd ≤ f.pos
  · rw [if_pos ahead, if_pos ahead]
    rfl
  · rw [if_neg ahead, if_neg ahead, List.append_nil]
    rfl

/-- A hub whose firings are `l`. -/
def Hub.firing (h : Hub) (l : List Firing) : Hub := { h with dmp := { h.dmp with fires := l } }

theorem headerWrites_firing (h : Hub) (l : List Firing) (f : Firing) (status : Nat) : (h.firing l).headerWrites f status = h.headerWrites f status := by
  unfold Hub.headerWrites
  rw [tunAddr_boot (g := h.firing l) (h := h) rfl]
  rfl

theorem watchNote_firing (up : h.nocUp = true) (l : List Firing) (f : Firing) (status flags : Nat) :
    (h.firing l).watchNote f status flags = (h.watchNote f status flags).firing l := by
  rw [watchNote_eq (h := h.firing l) up, watchNote_eq up, headerWrites_firing]
  rfl

/-! ## A firing that is read whole -/

theorem dropJobs_none (none : h.dmp.jobs = []) (p : Job → Bool) : h.dropJobs p = h := by
  rw [Hub.dropJobs, none]
  dsimp only [List.filter_nil, List.foldl_nil]
  rw [← none]

/-- The record of a firing that has ended. -/
def Hub.firingRecord (h : Hub) (f : Firing) (status : Nat) : Req :=
  { h.evt 6 0x0602 with slice := f.slice, unit := f.unit, status := status, aux := f.slot, arg := f.object, words := [f.read] }

/-- The slot of a firing that has ended well. -/
def Hub.watchEnded (h : Hub) (f : Firing) : Hub :=
  { (h.watchNote f stOk 1).irqRaise 6 with
    dmp := { (h.watchNote f stOk 1).dmp with fires := [] }, er := { h.er with sysq := h.er.sysq ++ [h.firingRecord f stOk] } }

theorem watchEnd_ok (fires : h.dmp.fires = [f]) (up : h.nocUp = true) (none : h.dmp.jobs = []) (free : f.held = false) (copies : f.kind = 0)
    (object : f.object ≠ 0) (on : h.classOn 6 = true) (few : h.er.sysq.length < 32) (st : WSt) :
    h.watchEnd f.slot st stOk = (h.watchEnded f).updWatch f.slot fun s => { s with st := st, status := stOk, count := 0 } := by
  have found : h.dmp.fires.find? (fun g => g.slot == f.slot) = some f := by
    rw [fires]
    simp
  have first : (h.dmp.fires.headD default).slot = f.slot := by
    rw [fires]
    rfl
  have left : h.dmp.fires.filter (fun g => g.slot != f.slot) = [] := by
    rw [fires]
    simp
  have summary : (h.firing []).watchSummary f = (f, h.firing []) := if_pos (.inl copies)
  unfold Hub.watchEnd
  rw [releaseHeld_free fires free]
  dsimp only
  rw [found]
  dsimp only
  rw [decide_eq_true first, if_pos rfl, dropJobs_none none, left, if_neg object]
  dsimp only [Hub.firing] at summary
  rw [summary]
  dsimp only
  have note := watchNote_firing up [] f stOk 1
  dsimp only [Hub.firing] at note
  rw [show b2n (decide (stOk = stOk)) + 2 * b2n (decide (stOk ≠ stOk)) = 1 from rfl, note, watchNote_eq up, record_sysq]
  case on => exact on
  case c => exact (by decide : (6 : ℕ) ≠ 8)
  case t => rfl
  case q => exact few
  unfold Hub.watchEnded
  rw [watchNote_eq up]
  rfl

/-- A slot whose firing was read whole. -/
def Watch.whole (again : Nat) (x : Watch) : Watch :=
  { x with st := if again = 0 then .spent else .armed, status := stOk, count := 0, occ := if again = 0 then x.occ else again }

/-- The engine's slots, with that of the firing changed. -/
def Hub.slots (h : Hub) (w : SMap Watch) : Hub := { h with dmp := { h.dmp with w := w } }

theorem watchReadDone_ends (fires : h.dmp.fires = [f]) (slot : (h.getWatch f.slot).st = .reading) (read : f.len ≤ f.read) (up : h.nocUp = true)
    (none : h.dmp.jobs = []) (free : f.held = false) (copies : f.kind = 0) (object : f.object ≠ 0) (on : h.classOn 6 = true) (few : h.er.sysq.length < 32) :
    ∃ g, h.watchReadDone = g ∧ g = (h.watchEnded f).slots g.dmp.w ∧ g.getWatch f.slot = (h.getWatch f.slot).whole f.again ∧
      ∀ x, x ≠ f.slot → g.getWatch x = h.getWatch x := by
  have kept : ∀ x, (h.watchEnded f).getWatch x = h.getWatch x := by
    unfold Hub.watchEnded
    rw [watchNote_eq up]
    exact fun _ => rfl
  rw [Hub.watchReadDone, headFiring_one fires slot]
  dsimp only
  rw [if_neg (by simp [read, none, up]), releaseHeld_free fires free, if_neg (fun both => both.1 copies), watchEnd_ok fires up none free copies object on few]
  by_cases zero : f.again = 0
  · rw [if_pos zero, if_pos zero]
    refine ⟨_, rfl, rfl, (getWatch_updWatch _ _ _).trans ?_, fun x ne => (getWatch_updWatch_ne _ _ _ ne).trans (kept x)⟩
    rw [kept, Watch.whole, if_pos zero, if_pos zero]
  · rw [if_neg zero, if_neg zero]
    refine ⟨_, rfl, rfl, (getWatch_updWatch _ _ _).trans ?_, fun x ne =>
      ((getWatch_updWatch_ne _ _ _ ne).trans (getWatch_updWatch_ne _ _ _ ne)).trans (kept x)⟩
    rw [getWatch_updWatch, kept, Watch.whole, if_neg zero, if_neg zero]

/-! ## An engine out of space -/

theorem feed_nil (empty : f.carry = []) : f.feed [] = f := by
  unfold Firing.feed
  rw [empty]
  simp only [List.append_nil, List.length_nil, Nat.zero_div, Nat.zero_mul, List.drop_nil, List.take_nil, chunksOf, List.flatMap_nil, List.foldl_nil]
  rw [← empty]

/-- The engine has given up a firing's job, its bytes read so far in its slot. -/
def Hub.stopped (h : Hub) (f : Firing) (j : Job) (w : SMap Watch) : Hub :=
  { h with dmp := { h.dmp with jobs := [], fires := [{ f with late := f.late || j.late }], w := w } }

theorem watchRecord_empty {j : Job} (fires : h.dmp.fires = [f]) (jobs : h.dmp.jobs = [j]) (none : j.inDone = 0) (seen : j.seen = []) (carry : f.carry = [])
    (partial_ : Bool) : h.watchRecord f j partial_ = h.stopped f j (SMap.upd {} h.dmp.w f.slot fun s => { s with done := f.read }) := by
  have fed : ({ f.feed j.seen with read := f.read + j.inDone, chunk := f.chunk + 0, out := f.out + 0, late := f.late || j.late } : Firing) =
      { f with late := f.late || j.late } := by
    rw [seen, feed_nil carry, none]
    rfl
  unfold Hub.watchRecord
  dsimp only
  rw [if_pos (by simp [none])]
  dsimp only
  rw [updHead_one fires, fed, none]
  unfold Hub.noJob Hub.updWatch
  dsimp only
  rw [jobs]
  rfl

theorem goOn_rest (idle : h.dmp.st = .idle) (rest : h.reading = none) : h.goOn = h := by
  have still : h.startNext = h := by
    rw [Hub.startNext, idle]
    dsimp only
    rw [rest]
  rw [Hub.goOn, still, still, still, still, if_neg (by rw [idle]; exact fun both => nomatch both.1)]

theorem watchNote_stopped (up : h.nocUp = true) (f : Firing) (j : Job) (w : SMap Watch) (status flags : Nat) :
    (h.stopped f j w).watchNote { f with late := f.late || j.late } status flags = (h.watchNote f status flags).stopped f j w := by
  have header : (h.stopped f j w).headerWrites { f with late := f.late || j.late } status = h.headerWrites f status := by
    unfold Hub.headerWrites
    rw [tunAddr_boot (g := h.stopped f j w) (h := h) rfl]
    rfl
  rw [watchNote_eq (h := h.stopped f j w) up, watchNote_eq up, header]
  rfl

theorem stopped_getWatch (h : Hub) (f : Firing) (j : Job) (w : SMap Watch) (x : Nat) : ((h.stopped f j w).irqRaise 6).getWatch x = SMap.get {} w x := rfl

theorem reading_none (fires : h.dmp.fires = [f]) (other : (h.getWatch f.slot).st ≠ .reading) : h.reading = none := by
  rw [Hub.reading, fires]
  exact if_neg other

theorem watchFull_stops {j : Job} (fires : h.dmp.fires = [f]) (idle : h.dmp.st = .idle) (up : h.nocUp = true) (jobs : h.dmp.jobs = [j])
    (mine : j.watch = true) (ended : j.ended = some stPartial) (none : j.inDone = 0) (seen : j.seen = []) (carry : f.carry = []) :
    ∃ g, h.watchFull = g ∧
      g = { (h.watchNote f stPartial 2).irqRaise 6 with
        dmp := { (h.watchNote f stPartial 2).dmp with jobs := [], fires := [{ f with late := f.late || j.late }], w := g.dmp.w } } ∧
      g.getWatch f.slot = { h.getWatch f.slot with st := .partial_, status := stPartial, done := f.read } ∧
      (∀ x, x ≠ f.slot → g.getWatch x = h.getWatch x) := by
  have job : h.watchJob = some (f, j, stPartial) := by
    rw [Hub.watchJob, fires, jobs]
    simp [mine, ended]
  have fits : h.misfits j f.key = false := by simp [Hub.misfits, none]
  rw [Hub.watchFull, job]
  dsimp only
  rw [if_neg (by simp [up, stPartial, stOk]), if_neg (by simp [fits]), watchRecord_empty fires jobs none seen carry, dropJobs_none rfl]
  have noted := watchNote_stopped up f j (SMap.upd {} (SMap.upd {} h.dmp.w f.slot fun s => { s with done := f.read }) f.slot fun s =>
    { s with st := .partial_, status := stPartial }) stPartial 2
  refine ⟨_, (congrArg (fun g : Hub => (g.irqRaise 6).goOn) noted).trans (goOn_rest ?idle ?rest), rfl, ?own, fun x ne => ?other⟩
  case idle =>
    rw [watchNote_eq up]
    exact idle
  case rest =>
    refine reading_none rfl ?_
    rw [stopped_getWatch, SMap.get_upd_self]
    nofun
  case own => rw [stopped_getWatch, SMap.get_upd_self, SMap.get_upd_self, Hub.getWatch]
  case other => rw [stopped_getWatch, SMap.get_upd_ne _ _ _ ne, SMap.get_upd_ne _ _ _ ne, Hub.getWatch]

theorem watchResume_reads (fires : h.dmp.fires = [f]) (idle : h.dmp.st = .idle) (up : h.nocUp = true) (slot : (h.getWatch f.slot).st = .partial_)
    (room : 0x400000 ≤ h.tunFree) :
    ∃ jobs ce, h.watchResume = { h.updWatch f.slot (fun s => { s with st := .reading }) with
      dmp := { (h.updWatch f.slot fun s => { s with st := .reading }).dmp with jobs := jobs }, ce := ce } := by
  rw [Hub.watchResume, headFiring_one fires slot]
  dsimp only
  rw [if_pos (by simp [watchReady_idle idle up, room])]
  exact goOn_idle (h := h.updWatch f.slot fun s => { s with st := .reading }) (by rw [show (h.updWatch f.slot _).dmp.st = h.dmp.st from rfl, idle]; nofun)

theorem watchHold_ends {a q : List Cmd} {x : Cmd} (fires : h.dmp.fires = [f]) (holds : f.held = true) (due : f.holdEnd ≤ h.now)
    (cmds : (h.getCtx f.context).cmds = a ++ x :: q) (before : ∀ y ∈ a, y.held.contains f.slot = false) (held : x.held = [f.slot])
    (none : x.signal = none) (sound : x.lost = false) (here : x.gone = false) (ok : unitOk x.unit = true) (gate : (h.getGate x.unit).st = .run) :
    h.watchHold f.slot = (h.unheld f).ended f.context a.length x.status x := by
  rw [Hub.watchHold, fires, if_pos (by simp [holds, due]), releaseHeld_ends fires holds cmds before held here sound ok gate]
  exact cmdSignals_none none

end Watch

/-- Settles O32: a firing from its service to its end, and the completion that it held. -/
theorem watches : Obligations.Watches := by
  unfold Obligations.Watches
  intro s f live fires idle up
  refine ⟨fun slot room data more => ?_, fun slot read noJob free copies object on few => ?_, fun j slot jobs mine ended none seen carry => ?_,
    fun slot room => ?_, fun a q x holds due cmds before held none sound here ok gate => ?_⟩
  · refine yields_ex rfl live fun t => ?_
    obtain ⟨recs, irq, cyc, jobs, ce, e⟩ := watchServe_queued (h := s.hub.placed t) fires idle up slot ((tunFits_placed s.hub t 256).trans room) data more
    rw [tunGap_placed] at e
    refine ⟨_, e, ?_⟩
    generalize s.hub.tunGap 256 = gap
    exact ⟨SMap.get_upd_self _ s.hub.dmp.w f.slot fun x => { x with st := .reading, object := s.hub.dmp.object + 1, done := 0 },
      fun w ne => SMap.get_upd_ne _ s.hub.dmp.w (fun x => { x with st := .reading, object := s.hub.dmp.object + 1, done := 0 }) ne, rfl, rfl, rfl,
      congrArg s.mem.apply (bodyWrites_placed s.hub t gap _), rfl⟩
  · refine yields_ex rfl live fun t => ?_
    obtain ⟨g, e, frame, own, others⟩ := watchReadDone_ends (h := s.hub.placed t) fires slot read up noJob free copies object on few
    exact ⟨g, e, own, others, (congrArg (fun g : Hub => bit g.irq.status 6) frame).trans (irqRaise_status _ 6), congrArg (lands s) frame⟩
  · refine yields_ex rfl live fun t => ?_
    obtain ⟨g, e, frame, own, others⟩ := watchFull_stops (h := s.hub.placed t) fires idle up jobs mine ended none seen carry
    exact ⟨g, e, own, others, (congrArg (fun g : Hub => bit g.irq.status 6) frame).trans (irqRaise_status _ 6), congrArg (lands s) frame⟩
  · refine yields_ex rfl live fun t => ?_
    obtain ⟨jobs, ce, e⟩ := watchResume_reads (h := s.hub.placed t) fires idle up slot room
    exact ⟨_, e, SMap.get_upd_self _ s.hub.dmp.w f.slot fun x => { x with st := .reading },
      fun w ne => SMap.get_upd_ne _ s.hub.dmp.w (fun x => { x with st := .reading }) ne, rfl⟩
  · refine yields_of_eq rfl live (fun t => watchHold_ends (h := s.hub.placed t) fires holds due cmds before held none sound here ok gate) fun t => ?_
    have cmds' : (((s.hub.placed t).unheld f).getCtx f.context).cmds = a ++ x :: q := cmds
    have own := ended_context (status := x.status) cmds'
    have grain := ended_grain ((s.hub.placed t).unheld f) f.context a.length x.status x
    have frame := (ended_commanded ((s.hub.placed t).unheld f) f.context a.length x.status x).frame (ended_reply _ f.context a.length x.status x)
    exact ⟨own, grain, congrArg (lands s) frame⟩

end Sys2Proof.Machine
end

section
/-! The end of a check of the security unit: role commands, registrations and tokens (R405, R411, R413, R417 to R421). -/
namespace Sys2Proof.Machine

section Unit

variable {h : Hub} {m : Master} {c : SecCheck}

/-! ## The unit's registers -/

theorem role_updSecM (f : SecM → SecM) (same : ∀ x, (f x).role = x.role ∧ (f x).leaseEnd = x.leaseEnd) : (h.updSecM m f).role m = h.role m := by
  obtain ⟨role, lease⟩ := same (h.getSecM m)
  unfold Hub.role
  rw [Hub.getSecM_updSecM, role, lease]
  rfl

theorem auditBy_updSecM (f : SecM → SecM) (same : ∀ x, (f x).role = x.role ∧ (f x).leaseEnd = x.leaseEnd) (code : Nat) :
    (h.updSecM m f).auditBy m code = h.auditBy m code := by
  rw [Hub.auditBy, Hub.originOf, role_updSecM f same]
  rfl

theorem secDone_audit (status reason code : Nat) : (h.secDone m status reason).auditBy m code = h.auditBy m code :=
  auditBy_updSecM (fun s => { s with check := none, status := status, reason := reason }) (fun _ => ⟨rfl, rfl⟩) code

theorem checkDone_secDone (h : Hub) (m : Master) (status reason : Nat) : checkDone m status reason h (h.secDone m status reason) :=
  ⟨Hub.getSecM_updSecM h m _, fun _ other => Hub.getSecM_updSecM_ne h _ other⟩

theorem secCheck_of (check : (h.getSecM m).check = some c) (first : h.lodgeWaits m c = false) :
    (c.op = 1 → h.secCheck m = h.roleChecked m c) ∧ (c.op = 3 → h.secCheck m = h.ownerChecked m c) ∧ (c.op = 4 → h.secCheck m = h.tokenChecked m c) := by
  unfold Hub.secCheck
  rw [check]
  dsimp only
  rw [first, if_neg Bool.false_ne_true]
  refine ⟨fun e => ?_, fun e => ?_, fun e => ?_⟩ <;> (rw [e]; rfl)

/-! ## Roles (R405, R411) -/

theorem roleChecked_refused (refused : h.roleReason m c.buf c.nonce ≠ 0) :
    h.roleChecked m c = { h.secDone m (reasonStatus (h.roleReason m c.buf c.nonce)) (h.roleReason m c.buf c.nonce) with
      er := h.er.audit { h.auditBy m 0x0812 with
        status := reasonStatus (h.roleReason m c.buf c.nonce), aux := h.roleReason m c.buf c.nonce, arg := leAt c.buf 6 1 } } := by
  unfold Hub.roleChecked
  dsimp only
  rw [if_pos refused, record_audit _ _ rfl]
  rfl

/-- An accepted role command names a lease of some seconds. -/
theorem roleReason_lease (accepted : h.roleReason m c.buf c.nonce = 0) : 1 ≤ leAt c.buf 8 4 := by
  by_contra short
  have bad : h.roleReason m c.buf c.nonce = 1 := by
    unfold Hub.roleReason
    dsimp only
    rw [if_pos (by omega)]
  omega

/-- The master holds its new role until its lease has run out. -/
def Hub.holds (h : Hub) (m : Master) (c : SecCheck) : Hub :=
  h.updSecM m fun s => { s with check := none, status := stOk, reason := 0, role := leAt c.buf 6 1, leaseEnd := h.sec.lease + leAt c.buf 8 4 * 1000000000 }

theorem role_holds (some_ : 1 ≤ leAt c.buf 8 4) : (h.holds m c).role m = leAt c.buf 6 1 := by
  unfold Hub.role Hub.holds
  rw [Hub.getSecM_updSecM]
  exact if_neg (show ¬ h.sec.lease + leAt c.buf 8 4 * 1000000000 ≤ h.sec.lease by omega)

theorem roleChecked_accepted (accepted : h.roleReason m c.buf c.nonce = 0) (free : (h.getSecM m).role = 0) :
    h.roleChecked m c = { h.holds m c with
      er := h.er.audit { h.auditBy m 0x0810 with
        origin := m.origin + 16 * leAt c.buf 6 1, aux := leAt c.buf 8 4, arg := h.boot.keys.serial, words := [leAt c.nonce 0 8, leAt c.nonce 8 8] } } := by
  have none : h.role m = 0 := by
    unfold Hub.role
    rw [free]
    exact ite_self 0
  have kept : h.leaseExpiry m = h := if_pos (.inl free)
  unfold Hub.roleChecked
  dsimp only
  rw [if_neg (not_not_intro accepted), kept, if_neg (fun both => both.1 none), Hub.secDone, updSecM_twice, record_audit _ _ rfl]
  have by_ : (h.holds m c).auditBy m 0x0810 = { h.auditBy m 0x0810 with origin := m.origin + 16 * leAt c.buf 6 1 } := by
    rw [Hub.auditBy, Hub.originOf, role_holds (roleReason_lease accepted)]
    rfl
  exact congrArg (fun r : Req => ({ h.holds m c with er := h.er.audit { r with aux := leAt c.buf 8 4, arg := h.boot.keys.serial, words := [leAt c.nonce 0 8, leAt c.nonce 8 8] } } : Hub)) by_

/-! ## Registrations (R413) -/

theorem newGen_hub (k gen : Nat) (kex : List Byte) : (h.newGen k gen kex).2 = (h.draw 48).2 := rfl

/-- The keys of a slice that its owner registers. -/
def SliceKeys.registered (k : SliceKeys) (buf : List Byte) (g : KeyGen) : SliceKeys :=
  { k with owner := sha384 (slice buf 0 192), sigPub := slice buf 0 96, kexPub := slice buf 96 96, next := some g }

/-- The slice of a check is registered, its first key generation drawn. -/
def Hub.registered (h : Hub) (m : Master) (c : SecCheck) : Hub :=
  ((h.draw 48).2.secDone m stOk 0).updKeys c.slice fun k =>
    k.registered c.buf (h.newGen c.slice ((h.getKeys c.slice).lastGen + 1) (slice c.buf 96 96)).1

theorem ownerChecked_accepted (accepted : h.ownerStatus c.slice c.buf = stOk) :
    h.ownerChecked m c =
      { h.registered m c with
        er := h.er.audit { h.secEvt m 0x0820 c.slice with
          aux := (h.getKeys c.slice).lastGen + 1, arg := (h.newGen c.slice ((h.getKeys c.slice).lastGen + 1) (slice c.buf 96 96)).1.keyId,
          words := digestWords (sha384 (slice c.buf 0 192)) } } := by
  unfold Hub.ownerChecked
  dsimp only
  rw [if_neg (not_not_intro accepted), record_audit _ _ rfl]
  have by_ : (h.registered m c).auditBy m 0x0820 = h.auditBy m 0x0820 := secDone_audit (h := (h.draw 48).2) stOk 0 0x0820
  show ({ h.registered m c with er := h.er.audit { (h.registered m c).secEvt m 0x0820 c.slice with
    aux := (h.getKeys c.slice).lastGen + 1, arg := (h.newGen c.slice ((h.getKeys c.slice).lastGen + 1) (slice c.buf 96 96)).1.keyId,
    words := digestWords (sha384 (slice c.buf 0 192)) } } : Hub) = _
  rw [Hub.secEvt, by_]
  rfl

/-! ## Consent tokens (R417 to R421) -/

theorem tokenChecked_refused (refused : h.tokenReason c ≠ 0) :
    h.tokenChecked m c = { h.secDone m (reasonStatus (h.tokenReason c)) (h.tokenReason c) with
      er := h.er.audit { h.secEvt m 0x0822 (tokenSlice c.buf) with
        status := reasonStatus (h.tokenReason c), aux := h.tokenReason c + 256 * leAt c.buf 6 1, arg := leAt c.buf 0x20 8 } } := by
  unfold Hub.tokenChecked
  dsimp only
  rw [if_pos refused, record_audit _ _ rfl]
  rfl

/-- An accepted token: the check is done, and its audit record is asked for. -/
def Hub.tokenNoted (h : Hub) (m : Master) (c : SecCheck) : Hub := { h.secDone m stOk 0 with er := h.er.audit (tokenTaken h m c) }

theorem tokenChecked_accepted (accepted : h.tokenReason c = 0) :
    (leAt c.buf 6 1 = 1 → h.tokenChecked m c = (h.tokenNoted m c).updKeys (leAt c.buf 7 1) fun k => k.lodge (h.clk.cycle + 1) (slice c.buf 0 192)) ∧
    (leAt c.buf 6 1 = 2 → h.tokenChecked m c = (h.tokenNoted m c).tokenOpen m (leAt c.buf 7 1) (leAt c.buf 0x28 4)) ∧
    (leAt c.buf 6 1 = 3 → h.tokenChecked m c = (h.tokenNoted m c).tokenRevoke (leAt c.buf 7 1)) := by
  have noted : (h.secDone m stOk 0).record
      { h.secEvt m 0x0821 (leAt c.buf 7 1) with
        aux := leAt c.buf 6 1, arg := leAt c.buf 0x20 8, words := digestWords (sha384 (slice c.buf 0 192)) } = h.tokenNoted m c := by
    rw [record_audit _ _ rfl]
    rfl
  unfold Hub.tokenChecked
  dsimp only
  rw [if_neg (not_not_intro accepted), noted]
  refine ⟨fun e => ?_, fun e => ?_, fun e => ?_⟩ <;> (rw [e]; rfl)

theorem tokenReason_owned (accepted : h.tokenReason c = 0) : (h.getKeys (leAt c.buf 7 1)).owner.isEmpty = false := by
  by_contra none
  rw [Bool.not_eq_false] at none
  unfold Hub.tokenReason at accepted
  dsimp only at accepted
  rw [none] at accepted
  split_ifs at accepted with form die served owner
  exact owner rfl

/-- A token leaves the unit's keys as they were. -/
theorem getKeys_tokenNoted (k : Nat) : (h.tokenNoted m c).getKeys k = h.getKeys k := rfl

/-! ## OPEN (R421) -/

/-- The words of a released key. -/
def keyWords (dump : List Byte) : SMap Nat := (List.range 8).foldl (fun (o : SMap Nat) i => SMap.set 0 o i (leAt dump (4 * i) 4)) []

theorem get_foldl_set (f : Nat → Nat) (m : SMap Nat) (n i : Nat) :
    SMap.get 0 ((List.range n).foldl (fun o i => SMap.set 0 o i (f i)) m) i = if i < n then f i else SMap.get 0 m i := by
  induction n with
  | zero => rfl
  | succ n ih =>
    rw [List.range_succ, List.foldl_append, List.foldl_cons, List.foldl_nil]
    by_cases here : i = n
    · subst here
      rw [SMap.get_set_self, if_pos (Nat.lt_succ_self i)]
    · rw [SMap.get_set_ne _ _ _ here, ih]
      exact if_congr (by omega) rfl rfl

theorem keyWords_get (dump : List Byte) {i : Nat} (low : i < 8) : SMap.get 0 (keyWords dump) i = leAt dump (4 * i) 4 :=
  (get_foldl_set (fun i => leAt dump (4 * i) 4) [] 8 i).trans (if_pos low)

/-- The registers of a master to whom a key is released. -/
def Hub.keyed (h : Hub) (m : Master) (dump : List Byte) (x : SecM) : SecM :=
  { x with keyout := keyWords dump, keyoutEnd := h.now + 1000000000, keyoutFull := true, keyoutCyc := h.clk.cycle + 1, keyoutOld := h.keyoutShown m }

theorem markRekey_owned {k : Nat} (fresh : (h.getKeys k).rekey = false) (owned : (h.getKeys k).owner.isEmpty = false) :
    h.markRekey k = (h.draw 48).2.updKeys k fun x =>
      { x with rekey := true, next := some (h.newGen k ((h.getKeys k).lastGen + 1) (h.getKeys k).kexPub).1 } := by
  unfold Hub.markRekey
  dsimp only
  rw [fresh, if_neg Bool.false_ne_true, owned, if_neg Bool.false_ne_true]
  rfl

/-- The keys of a slice whose dump key is released: a rekey is marked. -/
def SliceKeys.opened (x : SliceKeys) (g : KeyGen) : SliceKeys := { x with opens := x.opens + 1, rekey := true, next := some g }

/-- The hub once the dump key of slice `k` is released to a master. -/
def Hub.opened (h : Hub) (m : Master) (k : Nat) : Hub :=
  ((h.draw 48).2.updSecM m (h.keyed m (h.getKeys k).cur.dump)).updKeys k fun x =>
    x.opened (h.newGen k ((h.getKeys k).lastGen + 1) (h.getKeys k).kexPub).1

theorem updKeys_twice (h : Hub) (k : Nat) (f g : SliceKeys → SliceKeys) : (h.updKeys k f).updKeys k g = h.updKeys k fun x => g (f x) := by
  unfold Hub.updKeys SMap.upd
  simp only [SMap.get_set_self, set_set]

/-- The dump key of slice `k` is released and counted, its rekey not yet marked. -/
def Hub.released (h : Hub) (m : Master) (k : Nat) : Hub :=
  (h.updSecM m (h.keyed m (h.getKeys k).cur.dump)).updKeys k fun x => { x with opens := x.opens + 1 }

theorem tokenOpen_opens {k : Nat} (fresh : (h.getKeys k).rekey = false) (owned : (h.getKeys k).owner.isEmpty = false) (object : Nat) :
    h.tokenOpen m k object = { h.opened m k with
      er := h.er.audit { h.secEvt m 0x0825 k with aux := object, arg := (h.getKeys k).cur.keyId } } := by
  have counted : (h.released m k).getKeys k = { h.getKeys k with opens := (h.getKeys k).opens + 1 } := by
    rw [Hub.released, Hub.getKeys_updKeys]
    rfl
  have marked : (h.released m k).markRekey k = h.opened m k := by
    rw [markRekey_owned (by rw [counted]; exact fresh) (by rw [counted]; exact owned), counted]
    exact updKeys_twice ((h.draw 48).2.updSecM m (h.keyed m (h.getKeys k).cur.dump)) k _ _
  have by_ : (h.released m k).auditBy m 0x0825 = h.auditBy m 0x0825 :=
    auditBy_updSecM (h := h) (m := m) (h.keyed m (h.getKeys k).cur.dump) (fun _ => ⟨rfl, rfl⟩) 0x0825
  refine (record_audit ((h.released m k).markRekey k) { (h.released m k).secEvt m 0x0825 k with aux := object, arg := (h.getKeys k).cur.keyId } rfl).trans ?_
  rw [marked, Hub.secEvt, by_]
  rfl

/-! ## REVOKE (R421) -/

/-- The register copies of a map with some fields cleared in their shadows. -/
def clearedFields (fs : List (Nat × Nat × Nat)) (m : SMap Rws) : SMap Rws :=
  fs.foldl (fun o f => SMap.upd (Rws.atReset f.2.1) o f.1 fun r => r.write (clearBits r.shadow f.2.2)) m

theorem foldl_rwsUpd (fs : List (Nat × Nat × Nat)) (g : Hub) :
    fs.foldl (fun h f => h.rwsUpd f.2.1 f.1 fun r => r.write (clearBits r.shadow f.2.2)) g = { g with rws := clearedFields fs g.rws } := by
  induction fs generalizing g with
  | nil => rfl
  | cons f fs ih => exact ih _

theorem clearedFields_active (fs : List (Nat × Nat × Nat)) (zero : ∀ f ∈ fs, f.2.1 = 0) (m : SMap Rws) (x : Nat) :
    (SMap.get (Rws.atReset 0) (clearedFields fs m) x).active = (SMap.get (Rws.atReset 0) m x).active := by
  induction fs generalizing m with
  | nil => rfl
  | cons f fs ih =>
    refine (ih (fun a mem => zero a (.tail _ mem)) _).trans ?_
    dsimp only
    rw [zero f (.head _)]
    by_cases here : x = f.1
    · rw [here, SMap.get_upd_self]
      rfl
    · rw [SMap.get_upd_ne _ _ _ here]

theorem consentFields_zero (k : Nat) : ∀ f ∈ consentFields k, f.2.1 = 0 := by
  intro f mem
  simp only [consentFields, List.mem_cons, List.not_mem_nil, or_false] at mem
  rcases mem with e | e | e | e | e <;> rw [e]

/-- A revoke closes the slice's trace policy. -/
theorem clearedFields_policy (k : Nat) (m : SMap Rws) :
    bit (SMap.get (Rws.atReset 0) (clearedFields (consentFields k) m) (0x40100 + 4 * k)).shadow 31 = false := by
  unfold clearedFields consentFields
  simp only [List.foldl_cons, List.foldl_nil]
  rw [SMap.get_upd_ne _ _ _ (by omega), SMap.get_upd_ne _ _ _ (by omega), SMap.get_upd_self, Rws.write, bit, testBit_clearBits,
    show Nat.testBit 0xC00003FE 31 = true by decide]
  exact Bool.and_false _

/-- A slice whose consent is revoked: its token slot is empty, and a commit of its registers is owed. -/
def Hub.revoked (h : Hub) (k : Nat) : Hub :=
  { h.updKeys k fun x => x.lodge (h.clk.cycle + 1) [] with
    rws := clearedFields (consentFields k) h.rws, sec := { h.sec with revokes := h.sec.revokes ++ [k] } }

theorem tokenRevoke_clears (k : Nat) : h.tokenRevoke k = h.revoked k := by
  unfold Hub.tokenRevoke
  dsimp only
  rw [foldl_rwsUpd]
  rfl

theorem revoked_done (k : Nat) : checkDone m stOk 0 h ((h.tokenNoted m c).revoked k) := checkDone_secDone h m stOk 0

theorem revoked_keys (k : Nat) :
    onlyKeys k ((h.getKeys k).lodge (h.clk.cycle + 1) []) h ((h.tokenNoted m c).revoked k) :=
  onlyKeys_updKeys h k fun x => x.lodge (h.clk.cycle + 1) []

theorem revoked_frame (k : Nat) :
    (h.tokenNoted m c).revoked k =
      { h with
        sec := { h.sec with m := ((h.tokenNoted m c).revoked k).sec.m, revokes := h.sec.revokes ++ [k] },
        slc := { h.slc with keys := ((h.tokenNoted m c).revoked k).slc.keys }, rws := clearedFields (consentFields k) h.rws,
        er := h.er.audit (tokenTaken h m c) } := by
  cases h
  rfl

/-- An accepted OPEN: the key is released, and both audit records are asked for. -/
def Hub.openNoted (h : Hub) (m : Master) (c : SecCheck) (k object : Nat) : Hub :=
  { (h.tokenNoted m c).opened m k with
    er := (h.er.audit (tokenTaken h m c)).audit { h.secEvt m 0x0825 k with aux := object, arg := (h.getKeys k).cur.keyId } }

theorem tokenOpen_noted {k : Nat} (fresh : (h.getKeys k).rekey = false) (owned : (h.getKeys k).owner.isEmpty = false) (object : Nat) :
    (h.tokenNoted m c).tokenOpen m k object = h.openNoted m c k object := by
  have by_ : (h.tokenNoted m c).secEvt m 0x0825 k = h.secEvt m 0x0825 k :=
    congrArg (fun r : Req => { r with slice := k }) (secDone_audit (h := h) (m := m) stOk 0 0x0825)
  rw [tokenOpen_opens (h := h.tokenNoted m c) fresh owned, by_]
  rfl

theorem openNoted_keys (k object : Nat) :
    onlyKeys k ((h.getKeys k).opened (h.newGen k ((h.getKeys k).lastGen + 1) (h.getKeys k).kexPub).1) h (h.openNoted m c k object) := by
  have same : (h.openNoted m c k object).slc.keys =
      (h.updKeys k fun x => x.opened (h.newGen k ((h.getKeys k).lastGen + 1) (h.getKeys k).kexPub).1).slc.keys := by
    cases h
    rfl
  have all : ∀ j, (h.openNoted m c k object).getKeys j =
      (h.updKeys k fun x => x.opened (h.newGen k ((h.getKeys k).lastGen + 1) (h.getKeys k).kexPub).1).getKeys j := by
    exact fun j => congrArg (fun o => SMap.get ({} : SliceKeys) o j) same
  exact ⟨(all k).trans (Hub.getKeys_updKeys h k _), fun j other => (all j).trans (Hub.getKeys_updKeys_ne h _ other)⟩

theorem openNoted_shown : (h.tokenNoted m c).keyoutShown m = h.keyoutShown m := by
  unfold Hub.keyoutShown
  rw [show (h.tokenNoted m c).getSecM m = _ from Hub.getSecM_updSecM h m _]
  rfl

theorem openNoted_unit (k object : Nat) :
    ((h.openNoted m c k object).getSecM m = { h.keyed m (h.getKeys k).cur.dump (h.getSecM m) with check := none, status := stOk, reason := 0 }) ∧
    ∀ x : Master, x ≠ m → (h.openNoted m c k object).getSecM x = h.getSecM x := by
  have same : (h.openNoted m c k object).sec.m = ((h.tokenNoted m c).updSecM m ((h.tokenNoted m c).keyed m (h.getKeys k).cur.dump)).sec.m := by
    cases h
    rfl
  have all : ∀ x, (h.openNoted m c k object).getSecM x =
      ((h.tokenNoted m c).updSecM m ((h.tokenNoted m c).keyed m (h.getKeys k).cur.dump)).getSecM x := by
    exact fun x => congrArg (fun o => SMap.get ({} : SecM) o x.idx) same
  refine ⟨((all m).trans (Hub.getSecM_updSecM (h.tokenNoted m c) m _)).trans ?_, fun x other => (all x).trans ?_⟩
  · rw [show (h.tokenNoted m c).getSecM m = _ from Hub.getSecM_updSecM h m _]
    unfold Hub.keyed
    rw [openNoted_shown]
    rfl
  · exact (Hub.getSecM_updSecM_ne (h.tokenNoted m c) _ other).trans (Hub.getSecM_updSecM_ne h _ other)

theorem openNoted_frame (k object : Nat) :
    h.openNoted m c k object =
      { h with
        sec := { h.sec with m := (h.openNoted m c k object).sec.m, drbg := h.sec.drbg + 48 },
        slc := { h.slc with keys := (h.openNoted m c k object).slc.keys },
        er := (h.er.audit (tokenTaken h m c)).audit { h.secEvt m 0x0825 k with aux := object, arg := (h.getKeys k).cur.keyId } } := by
  cases h
  rfl

end Unit

/-- Settles O35: what each check decides, and what an accepted or refused command leaves. -/
theorem securityChecks : Obligations.SecurityChecks := by
  intro s m c live check first
  have of := fun t => secCheck_of (h := s.hub.placed t) check first
  refine ⟨fun op ok free => ?_, fun op bad => ?_, fun op ok => ?_, fun op ok kind => ?_, fun op ok kind fresh => ?_, fun op ok kind => ?_, fun op bad => ?_⟩
  · exact yields_of_eq rfl live (fun t => ((of t).1 op).trans (roleChecked_accepted (h := s.hub.placed t) ok free)) fun t =>
      ⟨Hub.getSecM_updSecM s.hub m _, fun _ other => Hub.getSecM_updSecM_ne s.hub _ other, rfl⟩
  · exact yields_of_eq rfl live (fun t => ((of t).1 op).trans (roleChecked_refused (h := s.hub.placed t) bad)) fun t =>
      ⟨Hub.getSecM_updSecM s.hub m _, fun _ other => Hub.getSecM_updSecM_ne s.hub _ other, rfl⟩
  · exact yields_of_eq rfl live (fun t => ((of t).2.1 op).trans (ownerChecked_accepted (h := s.hub.placed t) ok)) fun t =>
      ⟨onlyKeys_updKeys s.hub c.slice _, checkDone_secDone s.hub m stOk 0, rfl⟩
  · exact yields_of_eq rfl live (fun t => ((of t).2.2 op).trans ((tokenChecked_accepted (h := s.hub.placed t) ok).1 kind)) fun t =>
      ⟨onlyKeys_updKeys s.hub _ _, checkDone_secDone s.hub m stOk 0, rfl⟩
  · refine yields_of_eq rfl live (fun t => ((of t).2.2 op).trans (((tokenChecked_accepted (h := s.hub.placed t) ok).2.1 kind).trans
      (tokenOpen_noted (h := s.hub.placed t) fresh (tokenReason_owned ok) (leAt c.buf 0x28 4)))) fun t => ?_
    have keys := openNoted_keys (h := s.hub.placed t) (m := m) (c := c) (leAt c.buf 7 1) (leAt c.buf 0x28 4)
    have unit_ := openNoted_unit (h := s.hub.placed t) (m := m) (c := c) (leAt c.buf 7 1) (leAt c.buf 0x28 4)
    have rest := openNoted_frame (h := s.hub.placed t) (m := m) (c := c) (leAt c.buf 7 1) (leAt c.buf 0x28 4)
    generalize (s.hub.placed t).openNoted m c (leAt c.buf 7 1) (leAt c.buf 0x28 4) = g at keys unit_ rest ⊢
    obtain ⟨own, others⟩ := unit_
    have words : (g.getSecM m).keyout = keyWords (s.hub.getKeys (leAt c.buf 7 1)).cur.dump := congrArg SecM.keyout own
    refine ⟨keys, fun i low => ?_, own.trans ?_, others, (congrArg (lands s) rest).trans rfl⟩
    · exact (congrArg (fun o => SMap.get 0 o i) words).trans (keyWords_get _ low)
    · exact congrArg (fun o => { s.hub.getSecM m with
        check := none, status := stOk, reason := 0, keyout := o, keyoutEnd := s.hub.now + 1000000000, keyoutFull := true,
        keyoutCyc := s.hub.clk.cycle + 1, keyoutOld := s.hub.keyoutShown m }) words.symm
  · rw [foldl_rwsUpd]
    refine yields_of_eq rfl live (fun t => ((of t).2.2 op).trans (((tokenChecked_accepted (h := s.hub.placed t) ok).2.2 kind).trans
      (tokenRevoke_clears (h := (s.hub.placed t).tokenNoted m c) (leAt c.buf 7 1)))) fun t => ?_
    have keys := revoked_keys (h := s.hub.placed t) (m := m) (c := c) (leAt c.buf 7 1)
    have ended := revoked_done (h := s.hub.placed t) (m := m) (c := c) (leAt c.buf 7 1)
    have rest := revoked_frame (h := s.hub.placed t) (m := m) (c := c) (leAt c.buf 7 1)
    have copies : (((s.hub.placed t).tokenNoted m c).revoked (leAt c.buf 7 1)).rws = clearedFields (consentFields (leAt c.buf 7 1)) s.hub.rws := rfl
    generalize ((s.hub.placed t).tokenNoted m c).revoked (leAt c.buf 7 1) = g at keys ended rest copies ⊢
    refine ⟨keys, ended, ?_, fun k => ?_, (congrArg (lands s) rest).trans rfl⟩
    · exact (congrArg (fun x => bit (SMap.get (Rws.atReset 0) x _).shadow 31) copies).trans (clearedFields_policy (leAt c.buf 7 1) s.hub.rws)
    · exact (congrArg (fun x => (SMap.get (Rws.atReset 0) x k).active) copies).trans
        (clearedFields_active (consentFields (leAt c.buf 7 1)) (consentFields_zero (leAt c.buf 7 1)) s.hub.rws k)
  · exact yields_of_eq rfl live (fun t => ((of t).2.2 op).trans (tokenChecked_refused (h := s.hub.placed t) bad)) fun t =>
      ⟨checkDone_secDone s.hub m _ _, rfl⟩

end Sys2Proof.Machine
end

section
/-! Resume and single steps of a cut (R266, R269). -/
namespace Sys2Proof.Machine

section Steps

variable {h g : Hub} {r : CutRec} {u : Nat}

/-! ## Gates that a cut has set -/

theorem mem_gatesOf {id : Nat} (set_ : (h.getGate u).st ≠ .run) (own : (h.getGate u).cut = id) : u ∈ h.gatesOf id := by
  have stn : (unitStn u, h.getStn (unitStn u)) ∈ h.stn := (SMap.get_mem ({} : Stn) h.stn (unitStn u)).resolve_left fun e => by
    have : h.getStn (unitStn u) = {} := e
    unfold Hub.getGate at set_
    rw [this] at set_
    exact set_ rfl
  have gate : (unitSub u, h.getGate u) ∈ (h.getStn (unitStn u)).gate :=
    (SMap.get_mem ({} : Gate) (h.getStn (unitStn u)).gate (unitSub u)).resolve_left fun e => by
      have : h.getGate u = {} := e
      rw [this] at set_
      exact set_ rfl
  unfold Hub.gatesOf
  refine List.mem_flatMap.mpr ⟨_, stn, List.mem_map.mpr ⟨_, List.mem_filter.mpr ⟨gate, ?_⟩, ?_⟩⟩
  · simp [set_, own]
  · unfold unitStn unitSub
    dsimp only
    omega

/-- While a unit steps or is about to stop, the step is not over. -/
theorem stepCheck_runs {id status : Nat} (own : (h.getGate u).cut = id) (runs : (h.getGate u).st = .step ∨ (h.getGate u).st = .stopping) :
    h.stepCheck id status false = h := by
  have set_ : (h.getGate u).st ≠ .run := by rcases runs with e | e <;> rw [e] <;> decide
  have any_ : ((h.gatesOf id).any fun u => (h.getGate u).st == .step || (h.getGate u).st == .stopping) = true :=
    List.any_eq_true.mpr ⟨u, mem_gatesOf set_ own, by simpa using runs⟩
  unfold Hub.stepCheck
  split
  · rfl
  · dsimp only
    rw [any_]
    exact if_pos (.inr (.inr (.inr rfl)))

theorem thawUnit_none (none_ : (h.getStn (unitStn u)).thaw = []) : h.thawUnit u = h := by
  unfold Hub.thawUnit
  dsimp only
  rw [none_]
  exact ite_self h

theorem portResume_none (none_ : (h.getGate u).port = none) : h.portResume u = h := by
  unfold Hub.portResume
  rw [none_]

/-! ## A resume -/

theorem openGate_opens {back : Bool} (one : h.cut.cuts = [r]) (port : (h.getGate u).port = none) (thaw : (h.getStn (unitStn u)).thaw = []) :
    h.openGate r.id u back = h.updGate u fun _ => {} := by
  have alone : h.cut.cuts.find? (fun c => c.id != r.id && c.holding && c.stOf (h.unitSlice u) != .resuming && h.inScope c u) = none := by
    rw [one]
    simp
  unfold Hub.openGate
  rw [alone]
  dsimp only
  rw [portResume_none port, ite_self]
  refine thawUnit_none ?_
  have same := (updGate_only h u fun _ => ({} : Gate)).1 (unitStn u)
  exact (congrArg Stn.thaw same).trans thaw

/-- A hub in which gates alone differ from those of `h`, and in which no port holds a message and no unit is to thaw. -/
def Hub.opens (h g : Hub) : Prop := h.gatesOnly g ∧ ∀ u, (g.getGate u).port = none

theorem openGate_step (one : h.cut.cuts = [r]) (thaw : ∀ x, (h.getStn x).thaw = []) :
    Hub.gateStep h.opens (fun _ _ => {}) (fun g u => g.openGate r.id u true) := by
  have opened : ∀ g u, h.opens g → g.openGate r.id u true = g.updGate u fun _ => {} := by
    rintro g u ⟨only, port⟩
    refine openGate_opens ?_ (port u) ?_
    · rw [only.2]
      exact one
    · exact (congrArg Stn.thaw (only.1 (unitStn u))).trans (thaw _)
  refine ⟨fun g u a => ?_, fun g u a => ?_, fun g u v a other => ?_, fun _ _ => rfl⟩
  · rw [opened g u a]
    refine ⟨a.1.trans (updGate_only _ _ _), fun v => ?_⟩
    by_cases own : v = u
    · rw [own, getGate_updGate]
    · rw [getGate_updGate_ne _ _ own]
      exact a.2 v
  · rw [opened g u a, getGate_updGate]
  · rw [opened g u a, getGate_updGate_ne _ _ other]

/-- What a store keeps once the captures of a cut have left it. -/
def CutRec.leave (r : CutRec) (c : CapStore) : CapStore :=
  { c with entries := c.entries.filter fun e => !(r.full || r.set.contains e.slice),
           held := c.held.filter fun e => !(r.full || r.set.contains e.slice), armed := c.armed.filter (· != r.id) }

/-- The hub once the captures of its one cut are injected again. -/
def Hub.reinjected (h : Hub) (r : CutRec) : Hub :=
  { h with
    stn := SMap.mapVal {} (fun k t => if arms k then { t with cap := r.leave t.cap } else t) h.stn,
    inject := h.inject ++ h.stn.flatMap fun x =>
      ((x.2.cap.entries ++ x.2.cap.held).filter fun e => r.full || r.set.contains e.slice).map fun e => ⟨x.1, e.unit, 0, e⟩ }

theorem dropCaptures_one (one : h.cut.cuts = [r]) : h.dropCaptures r none true true = h.reinjected r := by
  have other : ∀ e : Capture, (h.cut.cuts.any fun q => q.id != r.id && q.holding && q.set.contains e.slice) = false := by
    intro e
    rw [one]
    simp
  unfold Hub.dropCaptures
  dsimp only
  simp only [other, Bool.not_false, Bool.and_true, if_true]
  rfl

theorem getStn_reinjected (x : Nat) : (h.reinjected r).getStn x = { h.getStn x with cap := if arms x then r.leave (h.getStn x).cap else (h.getStn x).cap } := by
  refine (SMap.get_mapVal ({} : Stn) (fun k t => if arms k then { t with cap := r.leave t.cap } else t) (fun k => ite_self _) h.stn x).trans ?_
  dsimp only
  split <;> rfl

theorem getGate_reinjected : (h.reinjected r).getGate u = h.getGate u := by
  unfold Hub.getGate
  rw [getStn_reinjected]

/-- The gates of the cut once it resumes. -/
def Hub.reopened (h : Hub) (r : CutRec) : Hub := ((h.reinjected r).gatesOf r.id).foldl (fun h u => h.openGate r.id u true) (h.reinjected r)

theorem cutResumeTick_resumes (one : h.cut.cuts = [r]) (st : r.st = .resuming) (due : r.u ≤ h.now) :
    h.cutResumeTick = (h.reopened r).removeCut r.id := by
  have found : h.cut.cuts.find? (fun r => (r.st == .resuming && decide (r.u ≤ h.now)) || r.sub.any fun x => decide (x.2 ≤ h.now)) = some r := by
    rw [one, List.find?_cons_of_pos]
    simp [st, due]
  unfold Hub.cutResumeTick
  rw [found]
  dsimp only
  rw [if_pos ⟨st, due⟩, dropCaptures_one one]
  unfold Hub.openGates Hub.reopened
  dsimp only
  rw [List.filter_true]

theorem reopened_opens (one : h.cut.cuts = [r]) (thaw : ∀ x, (h.getStn x).thaw = []) (port : ∀ u, (h.getGate u).port = none) :
    (h.reinjected r).opens (h.reopened r) ∧
    ∀ u, (h.reopened r).getGate u = if u ∈ (h.reinjected r).gatesOf r.id then {} else h.getGate u := by
  have start : (h.reinjected r).opens (h.reinjected r) := ⟨.refl, fun u => by rw [getGate_reinjected]; exact port u⟩
  have thawed : ∀ x, ((h.reinjected r).getStn x).thaw = [] := fun x => by
    rw [getStn_reinjected]
    exact thaw x
  obtain ⟨kept, gates⟩ := (openGate_step (h := h.reinjected r) (r := r) one thawed).foldl ((h.reinjected r).gatesOf r.id) start
  refine ⟨kept, fun u => (gates u).trans ?_⟩
  rw [getGate_reinjected]

/-! ## Steps -/

/-- A cut whose step has started: its end and its timeout are set. -/
def Hub.stepped (h : Hub) (r : CutRec) : CutRec :=
  { r with stepEnd := r.u + (r.n + 1) / 2, timeout := r.u + Nat.max 1 (h.rwGet 1000 0x30048 0) * 1000 }

theorem stepStart_single (one : h.cut.cuts = [r]) (st : r.st = .stepping) (fresh : r.timeout = 0) (due : r.u ≤ h.now) (single : r.single = true)
    (free : r.mode = false) (units : h.stepUnits r = [r.stepUnit]) (port : (h.getGate r.stepUnit).port = none)
    (thaw : (h.getStn (unitStn r.stepUnit)).thaw = []) :
    h.stepStart =
      ({ h with cut := { h.cut with cuts := [h.stepped r] } } : Hub).updGate r.stepUnit
        fun g => { g with st := .step, cut := r.id, cmds := false, left := r.n } := by
  have found : h.cut.cuts.find? (fun r => r.st == .stepping && r.timeout == 0 && decide (r.u ≤ h.now)) = some r := by
    rw [one, List.find?_cons_of_pos]
    simp [st, fresh, due]
  have started : (h.updCut r.id fun r => { r with stepEnd := r.u + (r.n + 1) / 2, timeout := r.u + Nat.max 1 (h.rwGet 1000 0x30048 0) * 1000 }) =
      { h with cut := { h.cut with cuts := [h.stepped r] } } := updCut_one _ _ one
  unfold Hub.stepStart
  rw [found]
  dsimp only
  rw [if_pos single, units, started, List.foldl_cons, List.foldl_nil]
  generalize h.stepped r = next
  simp only [free, Bool.false_and, Bool.false_eq_true, if_false]
  rw [portResume_none (by exact port), thawUnit_none]
  · refine stepCheck_runs (u := r.stepUnit) ?_ (.inl ?_) <;> rw [getGate_updGate]
  · refine (congrArg Stn.thaw ((updGate_only _ r.stepUnit _).1 (unitStn r.stepUnit))).trans ?_
    exact thaw

theorem stepEnd_freezes (one : h.cut.cuts = [r]) (ok : unitOk u = true) (tile : isTileUnit u = true) (steps : (h.getGate u).st = .step)
    (own : (h.getGate u).cut = r.id) (free : r.mode = false) (awake : h.asleep u = false) (runs : h.blocked u = false) :
    h.stepEnd u = h.freeze r.id (h.stnTick (unitStn u)) u := by
  have found : h.cut.byId (h.getGate u).cut = some r := by
    unfold Cut.byId
    rw [one, own, List.find?_cons_of_pos]
    simp
  unfold Hub.stepEnd
  dsimp only
  rw [ok, steps, if_neg (by decide), found]
  dsimp only
  rw [tile, if_pos rfl, free, Bool.not_false, Bool.true_or, if_pos rfl]
  refine stepCheck_runs (u := u) ?_ (.inr ?_) <;> rw [getGate_freeze, frozenGate]
  dsimp only
  rw [awake, runs]
  rfl

/-- The units of a cut that still step. -/
def Hub.stepping (h : Hub) (r : CutRec) : List Nat := (h.gatesOf r.id).filter fun u => (h.getGate u).st == .step

theorem freeze_step (h : Hub) (id t : Nat) : Hub.gateStep h.gatesMoved (h.frozenOf id t) (fun g u => g.freeze id t u) where
  kept g u a := a.trans (freeze_moved g id t u)
  self g u a := (getGate_freeze g id t u).trans (frozenGate_moved a u id t)
  others g _ _ _ other := freeze_ne g id t other
  again _ _ := rfl

/-- The hub whose stepping units a timeout freezes. -/
def Hub.halted (h : Hub) (r : CutRec) : Hub := (h.stepping r).foldl (fun h u => h.freeze r.id r.timeout u) h

/-- The record of a step that its timeout ended (0x0503). -/
def Hub.stepReq (h : Hub) (r : CutRec) : Req :=
  { h.evt 5 0x0503 with
    slice := if r.die then 255 else r.slice, unit := if r.single then r.stepUnit else noUnit, status := stTimeout,
    aux := r.steps % 65536 + at_ (b2n r.mode) 16 + at_ (b2n r.single) 17, arg := r.id, words := [r.n, h.now] }

/-- The one cut of the hub is stopped by its step's timeout. -/
def Hub.timedOut (h : Hub) (r : CutRec) : Hub :=
  { h with cut := { h.cut with cuts := [{ r with st := .stopped, timeout := 0, t := h.now, status := stTimeout }] } }

/-- The step of the one cut ends by its timeout: its masters are told, and its record is asked for. -/
def Hub.stepOver (h : Hub) (r : CutRec) : Hub :=
  { (h.timedOut r).tellMasters r stTimeout with er := { h.er with sysq := h.er.sysq ++ [h.stepReq r] } }

theorem stepCheck_times (one : h.cut.cuts = [r]) (st : r.st = .stepping) (some_ : r.timeout ≠ 0) (counted : r.steps ≠ 0) (on : h.classOn 5 = true)
    (room : h.er.sysq.length < 32) : h.stepCheck r.id stTimeout true = h.stepOver r := by
  have found : h.cut.byId r.id = some r := by
    unfold Cut.byId
    rw [one, List.find?_cons_of_pos]
    simp
  unfold Hub.stepCheck
  rw [found]
  dsimp only
  rw [if_neg (by simp [st, some_, counted]), if_neg (by decide), updCut_one _ _ one,
    updCut_one _ _ (r := { r with st := .stopped, timeout := 0, t := h.now }) rfl]
  dsimp only
  rw [show ({ h with cut := { h.cut with cuts := [{ r with st := .stopped, timeout := 0, t := h.now, status := stTimeout }] } } : Hub) = h.timedOut r from rfl,
    record_sysq _ _ ?_ ?_ rfl ?_, tellMasters_frame (h.timedOut r), Hub.stepOver, tellMasters_frame (h.timedOut r)]
  · rfl
  · rw [tellMasters_frame]
    exact on
  · exact show 5 ≠ 8 by decide
  · rw [tellMasters_frame]
    exact room

theorem stepTimeout_ends (one : h.cut.cuts = [r]) (st : r.st = .stepping) (some_ : r.timeout ≠ 0) (due : r.timeout ≤ h.now) (counted : r.steps ≠ 0)
    (on : h.classOn 5 = true) (room : h.er.sysq.length < 32) :
    h.stepTimeout = (h.halted r).stepOver r := by
  have found : h.cut.cuts.find? (fun r => r.st == .stepping && r.timeout != 0 && decide (r.timeout ≤ h.now)) = some r := by
    rw [one, List.find?_cons_of_pos]
    simp [st, some_, due]
  have frame : h.halted r = { h with stn := (h.halted r).stn } := ((freeze_step h r.id r.timeout).foldl (h.stepping r) .refl).1.2
  unfold Hub.stepTimeout
  rw [found]
  refine stepCheck_times (h := h.halted r) ?_ st some_ counted ?_ ?_ <;> rw [frame] <;> assumption

theorem getStn_freeze (id t u : Nat) :
    (h.freeze id t u).getStn (unitStn u) =
      { h.getStn (unitStn u) with gate := ((h.freeze id t u).getStn (unitStn u)).gate, gateTick := t } := by
  unfold Hub.freeze
  dsimp only
  rw [Hub.getStn_updStn, getStn_gate (updGate_only h u _) (unitStn u)]

theorem removeCut_one (h : Hub) (one : h.cut.cuts = [r]) : h.removeCut r.id = { h with cut := { h.cut with cuts := [] } } := by
  unfold Hub.removeCut
  rw [one]
  simp

theorem reopened_frame (one : h.cut.cuts = [r]) (frame : g = { h.reinjected r with stn := g.stn }) :
    g.removeCut r.id =
      { h with
        stn := g.stn, cut := { h.cut with cuts := [] },
        inject := h.inject ++ h.stn.flatMap fun x =>
          ((x.2.cap.entries ++ x.2.cap.held).filter fun e => r.full || r.set.contains e.slice).map fun e => ⟨x.1, e.unit, 0, e⟩ } := by
  have cut : g.cut = h.cut := (congrArg Hub.cut frame :)
  rw [removeCut_one g (by rw [cut]; exact one), cut]
  exact (congrArg (fun k : Hub => { k with cut := { h.cut with cuts := [] } }) frame :)

theorem stepOver_frame (frame : g = { h with stn := g.stn }) :
    g.stepOver r =
      { h with
        stn := (g.stepOver r).stn,
        cut := { h.cut with cuts := [{ r with st := .stopped, timeout := 0, t := h.now, status := stTimeout }], m := (g.stepOver r).cut.m },
        er := { h.er with sysq := h.er.sysq ++ [h.stepReq r] } } := by
  rw [frame]
  unfold Hub.stepOver
  rw [tellMasters_frame]
  rfl

theorem halted_gates (h : Hub) (r : CutRec) :
    h.gatesMoved (h.halted r) ∧
    (∀ u, (h.getGate u).st = .step → (h.getGate u).cut = r.id → (h.halted r).getGate u = frozenGate h u r.id r.timeout) ∧
    ∀ u, (h.getGate u).st ≠ .step → (h.halted r).getGate u = h.getGate u := by
  obtain ⟨moved, gates⟩ := (freeze_step h r.id r.timeout).foldl (h.stepping r) .refl
  refine ⟨moved, fun u st own => (gates u).trans ?_, fun u st => (gates u).trans ?_⟩
  · exact if_pos (List.mem_filter.mpr ⟨mem_gatesOf (by rw [st]; decide) own, by simpa using st⟩)
  · exact if_neg fun mem => st (by simpa using (List.mem_filter.mp mem).2)

theorem stepOver_stn : (h.stepOver r).stn = h.stn := by
  unfold Hub.stepOver
  rw [tellMasters_frame]
  rfl

theorem stepOver_getStn (x : Nat) : (h.stepOver r).getStn x = h.getStn x := congrArg (fun y => SMap.get ({} : Stn) y x) stepOver_stn

theorem stepOver_told (frame : g = { h with stn := g.stn }) (m : Master) :
    SMap.get {} (g.stepOver r).cut.m m.idx =
      if r.masters.contains m = true ∧ (SMap.get {} h.cut.m m.idx).cut = r.id then { SMap.get {} h.cut.m m.idx with status := stTimeout }
      else SMap.get {} h.cut.m m.idx := by
  have cut : g.cut = h.cut := (congrArg Hub.cut frame :)
  refine (tellMasters_get (g.timedOut r) r stTimeout m).trans ?_
  unfold Hub.timedOut
  rw [cut]

end Steps

/-- Settles O25: the resume of the one cut there is, its single step, and how a step ends. -/
theorem resumesAndSteps : Obligations.ResumesAndSteps := by
  intro s r live one port
  refine ⟨fun st due thaw => ?_, fun st fresh due single free units _ _ thaw => ?_, fun u ok tile steps own free awake runs => ?_,
    fun st some_ due counted on room => ?_⟩
  · refine yields_of_eq rfl live (fun t => cutResumeTick_resumes (h := s.hub.placed t) one st due) fun t => ?_
    obtain ⟨⟨⟨only, frame⟩, -⟩, gates⟩ := reopened_opens (h := s.hub.placed t) one thaw port
    have rest := reopened_frame (h := s.hub.placed t) one frame
    generalize (s.hub.placed t).reopened r = g at only frame gates rest ⊢
    have cap : ∀ x, (g.getStn x).cap = if arms x then r.leave (s.hub.getStn x).cap else (s.hub.getStn x).cap := fun x => by
      refine (congrArg Stn.cap (only x)).trans ?_
      rw [getStn_reinjected]
      rfl
    have others : ∀ x, { g.getStn x with gate := [], cap := {} } = { s.hub.getStn x with gate := [], cap := {} } := fun x => by
      refine (congrArg (fun y : Stn => { y with cap := {} }) (only x)).trans ?_
      rw [getStn_reinjected]
      rfl
    refine ⟨fun u _ set_ own => ?_, fun u => ?_, cap, others, lands_of_out s (congrArg Hub.out rest) rest⟩
    · refine (gates u).trans (if_pos (mem_gatesOf ?_ ?_)) <;> rw [getGate_reinjected] <;> assumption
    · rw [show (lands s (g.removeCut r.id)).hub.getGate u = _ from gates u]
      split
      · exact .inr rfl
      · exact .inl rfl
  · refine yields_of_eq rfl live (fun t => stepStart_single (h := s.hub.placed t) one st fresh due single free units (port _) thaw) fun t =>
      ⟨getGate_updGate _ _ _, fun v other => getGate_updGate_ne _ _ other, (updGate_only _ _ _).1, rfl⟩
  · refine yields_of_eq rfl live (fun t => stepEnd_freezes (h := s.hub.placed t) one ok tile steps own free awake runs) fun t => ?_
    have own := getGate_freeze (s.hub.placed t) r.id (s.hub.stnTick (unitStn u)) u
    have others := fun v => freeze_ne (s.hub.placed t) r.id (s.hub.stnTick (unitStn u)) (u := u) (v := v)
    have stn := getStn_freeze (h := s.hub.placed t) r.id (s.hub.stnTick (unitStn u)) u
    have alone := freeze_station (s.hub.placed t) r.id (s.hub.stnTick (unitStn u)) u
    have frame := (freeze_moved (s.hub.placed t) r.id (s.hub.stnTick (unitStn u)) u).2
    rw [show (s.hub.placed t).stnTick (unitStn u) = s.hub.stnTick (unitStn u) from rfl]
    generalize (s.hub.placed t).freeze r.id (s.hub.stnTick (unitStn u)) u = g at own others stn alone frame ⊢
    exact ⟨own, others, stn, alone, lands_of_out s (congrArg Hub.out frame) frame⟩
  · refine yields_of_eq rfl live (fun t => stepTimeout_ends (h := s.hub.placed t) one st some_ due counted on room) fun t => ?_
    obtain ⟨⟨only, frame⟩, frozen, kept⟩ := halted_gates (s.hub.placed t) r
    generalize (s.hub.placed t).halted r = g at only frame frozen kept ⊢
    have rest := stepOver_frame (r := r) frame
    have told := stepOver_told (r := r) frame
    have stns := stepOver_getStn (h := g) (r := r)
    have gate : ∀ u, (g.stepOver r).getGate u = g.getGate u := fun u => getGate_of_stn (congrArg Stn.gate (stns (unitStn u)))
    generalize g.stepOver r = k at rest told stns gate ⊢
    exact ⟨fun u _ st own => (gate u).trans (frozen u st own), fun u st => (gate u).trans (kept u st),
      fun x => (congrArg (fun y : Stn => { y with gate := [], gateTick := 0 }) (stns x)).trans (only x), told,
      lands_of_out s (congrArg Hub.out rest) rest⟩

end Sys2Proof.Machine
end

section
/-! Cuts across packages: the messages between hubs (R143, R270 to R272). -/
namespace Sys2Proof.Machine

section Messages

variable {h : Hub} {link : Nat} {b : List Byte}

/-! ## The stamp of a message -/

/-- A stamp counts a message at its link; nothing else of a station differs. -/
theorem stampHub_mark (h : Hub) (st x : Nat) :
    { ((h.stampHub st).getStn x).mark with msnIn := 0 } = { (h.getStn x).mark with msnIn := 0 } := by
  unfold Hub.stampHub Hub.stampReceived
  by_cases own : x = st
  · rw [own, Hub.getStn_updStn]
    rfl
  · rw [Hub.getStn_updStn_ne _ _ own]
    rfl

theorem convertTick_stampHub (st link t : Nat) : (h.stampHub st).convertTick link t = h.convertTick link t := by
  have mark := stampHub_mark h st (linkStn link)
  have valid : ((h.stampHub st).getStn (linkStn link)).mark.valid = (h.getStn (linkStn link)).mark.valid := (congrArg Mark.valid mark :)
  have echoTx : ((h.stampHub st).getStn (linkStn link)).mark.echoTx = (h.getStn (linkStn link)).mark.echoTx := (congrArg Mark.echoTx mark :)
  have echoRx : ((h.stampHub st).getStn (linkStn link)).mark.echoRx = (h.getStn (linkStn link)).mark.echoRx := (congrArg Mark.echoRx mark :)
  have rxLocal : ((h.stampHub st).getStn (linkStn link)).mark.rxLocal = (h.getStn (linkStn link)).mark.rxLocal := (congrArg Mark.rxLocal mark :)
  have rxPeer : ((h.stampHub st).getStn (linkStn link)).mark.rxPeer = (h.getStn (linkStn link)).mark.rxPeer := (congrArg Mark.rxPeer mark :)
  unfold Hub.convertTick
  dsimp only
  rw [valid, echoTx, echoRx, rxLocal, rxPeer]
  rfl

/-- No link but this one is trained. -/
def Hub.lonely (h : Hub) (link : Nat) : Prop := ∀ l, l < 32 → l ≠ link → (h.getStn (linkStn l)).mark.trained = false

theorem lonely_stampHub (alone : h.lonely link) (st : Nat) : (h.stampHub st).lonely link := fun l low other =>
  ((congrArg Mark.trained (stampHub_mark h st (linkStn l)) :)).trans (alone l low other)

theorem trainedLinks_others (alone : h.lonely link) {p : Nat → Bool} (but : ∀ l, p l = true → l ≠ link) : h.trainedLinks.filter p = [] := by
  refine List.filter_eq_nil_iff.mpr fun l mem goes => ?_
  have trained := List.mem_filter.mp mem
  rw [alone l (List.mem_range.mp trained.1) (but l goes)] at trained
  exact absurd trained.2 Bool.false_ne_true

theorem forward_lonely (alone : h.lonely link) (type hops flags id pasid tick : Nat) : h.forward (some link) type hops flags id pasid tick = h := by
  unfold Hub.forward
  rw [trainedLinks_others alone (fun l goes e => absurd goes (by rw [e, bne_self_eq_false]; exact Bool.false_ne_true))]
  rfl

/-! ## The schedule message -/

/-- The cut engine once a schedule message is known and has gone on. -/
def Cut.hears (c : Cut) (link : Nat) (b : List Byte) : Cut :=
  { c with
    known := remember c.known (leAt b 4 4, link),
    sentOn := if leAt b 1 1 < 31 then ((leAt b 4 4, []) :: c.sentOn).take 64 else c.sentOn }

/-- The cut that a schedule message asks for, of slice `k` at tick `t`. -/
def Hub.peerCut (h : Hub) (id k t : Nat) (hang : Bool) : CutRec :=
  { id := id, die := false, slice := k, st := .scheduled, t := t, issued := h.clk.cycle + 1, hang := hang, xpkg := true, origin := 1, set := [k],
    toArm := allStations.filter h.observed, bypassed := allStations.filter fun x => !h.observed x }

/-- Its record (0x0501). -/
def Hub.peerReq (h : Hub) (id k t : Nat) (hang : Bool) : Req :=
  { h.evt 5 0x0501 with slice := k, arg := id, words := [t], aux := 2 + 4 * b2n hang + at_ 1 3 }

/-- The hub with that cut scheduled. -/
def Hub.peerScheduled (h : Hub) (c : CutRec) (id k t : Nat) (hang : Bool) : Hub :=
  { h with cut := { h.cut with cuts := [c] }, er := { h.er with sysq := h.er.sysq ++ [h.peerReq id k t hang] } }

theorem newCut_given (id k t : Nat) (hang : Bool) :
    h.newCut .hub false hang true k t (some id) =
      (id, Hub.record { h with cut := { h.cut with cuts := h.cut.cuts ++ [h.peerCut id k t hang] } }
        { h.evt 5 0x0501 with slice := k, arg := id, words := [t], aux := b2n false + 2 * b2n true + 4 * b2n hang + at_ 1 3 }) := rfl

theorem newCut_peer {id k t : Nat} {hang : Bool} (empty : h.cut.cuts = []) (on : h.classOn 5 = true) (room : h.er.sysq.length < 32) :
    h.newCut .hub false hang true k t (some id) = (id, h.peerScheduled (h.peerCut id k t hang) id k t hang) := by
  have req : ({ h.evt 5 0x0501 with slice := k, arg := id, words := [t], aux := b2n false + 2 * b2n true + 4 * b2n hang + at_ 1 3 } : Req) =
      h.peerReq id k t hang := rfl
  rw [newCut_given, req, empty, record_sysq { h with cut := { h.cut with cuts := [] ++ [h.peerCut id k t hang] } } (h.peerReq id k t hang) on
    (show (5 : Nat) ≠ 8 by decide) rfl room]
  rfl

theorem cutSchedule_peer {id k t : Nat} {hang : Bool} (there : h.sliceExists k = true) (allowed : h.cutAllowed .hub hang k = true)
    (empty : h.cut.cuts = []) (lead : h.leadOk t = true) (on : h.classOn 5 = true) (room : h.er.sysq.length < 32) :
    h.cutSchedule .hub false hang true k t (some id) = (stOk, some id, h.peerScheduled (h.peerCut id k t hang) id k t hang) := by
  have none_ : h.cut.ofSlice k = none := by
    rw [Cut.ofSlice, empty]
    rfl
  unfold Hub.cutSchedule
  rw [there, allowed, none_]
  dsimp only
  rw [lead, newCut_peer empty on room]
  rfl

theorem peerScheduled_found {c : CutRec} {id : Nat} (mine : c.id = id) (k t : Nat) (hang : Bool) :
    (h.peerScheduled c id k t hang).cut.byId id = some c := by
  unfold Cut.byId Hub.peerScheduled
  dsimp only
  rw [List.find?_cons_of_pos]
  exact beq_iff_eq.mpr mine

theorem updCut_peer {c : CutRec} {id : Nat} (mine : c.id = id) (k t : Nat) (hang : Bool) (f : CutRec → CutRec) :
    (h.peerScheduled c id k t hang).updCut id f = h.peerScheduled (f c) id k t hang := by
  rw [← mine]
  exact updCut_one _ f rfl

/-- The hub that has heard a schedule message. -/
def Hub.hears (h : Hub) (link : Nat) (b : List Byte) : Hub := { h.stampHub (linkStn link) with cut := h.cut.hears link b }

theorem scheduleMsg_hears {k : Nat} (path : h.nocUp = true) (low : link < 32) (size : b.length = 64) (type : leAt b 0 1 = 0x21)
    (new : ∀ x ∈ h.cut.known, x.1 ≠ leAt b 4 4) (alone : h.lonely link) (notDie : bit (leAt b 2 2) 0 = false)
    (local_ : h.sliceOfPasid (leAt b 8 4 % 2 ^ 20) = some k) (there : h.sliceExists k = true)
    (allowed : h.cutAllowed .hub (bit (leAt b 2 2) 1) k = true) (empty : h.cut.cuts = []) (lead : h.leadOk (h.convertTick link (leAt b 0x10 8)).1 = true)
    (on : h.classOn 5 = true) (room : h.er.sysq.length < 32) :
    h.scheduleMsg link b =
      (h.hears link b).peerScheduled
        { h.peerCut (leAt b 4 4) k (h.convertTick link (leAt b 0x10 8)).1 (bit (leAt b 2 2) 1) with
          up := [(link, leAt b 4 4, (h.convertTick link (leAt b 0x10 8)).2)] }
        (leAt b 4 4) k (h.convertTick link (leAt b 0x10 8)).1 (bit (leAt b 2 2) 1) := by
  have unknown : (h.cut.known.any fun x => x.1 == leAt b 4 4) = false := List.any_eq_false.mpr fun x mem => by simpa using new x mem
  have tick : ({ h.stampHub (linkStn link) with cut := { h.cut with known := remember h.cut.known (leAt b 4 4, link) } } : Hub).convertTick link (leAt b 0x10 8) =
      h.convertTick link (leAt b 0x10 8) := convertTick_stampHub (linkStn link) link (leAt b 0x10 8)
  have alone' : ({ h.stampHub (linkStn link) with cut := { h.cut with known := remember h.cut.known (leAt b 4 4, link) } } : Hub).lonely link :=
    lonely_stampHub alone (linkStn link)
  have gone : (if leAt b 1 1 < 31 then
      (({ h.stampHub (linkStn link) with cut := { h.cut with known := remember h.cut.known (leAt b 4 4, link) } } : Hub).scheduleSent (leAt b 4 4) [])
      else { h.stampHub (linkStn link) with cut := { h.cut with known := remember h.cut.known (leAt b 4 4, link) } }) = h.hears link b := by
    unfold Hub.hears Cut.hears
    split <;> rfl
  unfold Hub.scheduleMsg
  dsimp only
  rw [unknown, path, if_neg (by simp [size, type, low]), tick, forward_lonely alone',
    trainedLinks_others alone' (fun l goes => by simpa using goes), gone, notDie, if_neg Bool.false_ne_true,
    show (h.hears link b).sliceOfPasid (leAt b 8 4 % 2 ^ 20) = some k from local_]
  dsimp only
  rw [cutSchedule_peer (h := h.hears link b) there allowed empty lead on room]
  have mine : ((h.hears link b).peerCut (leAt b 4 4) k (h.convertTick link (leAt b 0x10 8)).1 (bit (leAt b 2 2) 1)).id = leAt b 4 4 := rfl
  dsimp only
  rw [peerScheduled_found mine]
  dsimp only
  rw [if_pos (.inl rfl), updCut_peer mine]
  rfl

/-! ## Done and resume messages -/

theorem doneMsg_counted (path : h.nocUp = true) (low : link < 32) (size : b.length = 64) (type : leAt b 0 1 = 0x23) (mine : leAt b 4 4 = h.cut.xid)
    (here : cutPkg (leAt b 4 4) = h.pkg) (counting : h.cut.counting = true) (open_ : h.now ≤ h.cut.xend) :
    h.doneMsg link b =
      { h.stampHub (linkStn link) with
        cut := { h.cut with
          reported := h.cut.reported + 1, late := h.cut.late + b2n (bit (leAt b 2 2) 2 || bit (leAt b 2 2) 3) },
        hang := { h.hang with
          reported := if h.hang.reported.contains (leAt b 0x18 2 % 1024) then h.hang.reported else h.hang.reported ++ [leAt b 0x18 2 % 1024] } } := by
  unfold Hub.doneMsg
  dsimp only
  rw [path, if_neg (by simp [size, type, low]), if_pos ⟨mine, here⟩, if_pos]
  · rfl
  · rw [Bool.and_eq_true, decide_eq_true_iff]
    exact ⟨counting, open_⟩

theorem doneMsg_relayed {l : Nat} (path : h.nocUp = true) (low : link < 32) (size : b.length = 64) (type : leAt b 0 1 = 0x23)
    (away : cutPkg (leAt b 4 4) ≠ h.pkg) (known : h.cut.known.find? (fun x => x.1 == leAt b 4 4) = some (leAt b 4 4, l)) (far : l < 32) :
    h.doneMsg link b = ((h.stampHub (linkStn link)).send l b).stampSent (linkStn l) := by
  unfold Hub.doneMsg
  dsimp only
  rw [path, if_neg (by simp [size, type, low]), if_neg fun both => away both.2,
    show (h.stampHub (linkStn link)).cut.known.find? (fun x => x.1 == leAt b 4 4) = _ from known]
  dsimp only
  rw [if_pos far, Hub.linkSend, if_pos (show (h.stampHub (linkStn link)).nocUp = true from path)]

theorem resumeReq_stopped {k u : Nat} {r : CutRec} (held : h.cut.ofSlice k = some r) (notDie : r.die = false) (stopped : r.st = .stopped) (sub : r.sub = [])
    (free : h.dumpHolds r false k = false) (lead : h.leadOk u = true) :
    h.resumeReq false k u = (stOk, h.updCut r.id fun c => { c with st := .resuming, u := u }) := by
  have state : r.stOf k = .stopped := by
    rw [CutRec.stOf, sub]
    exact stopped
  unfold Hub.resumeReq
  rw [if_neg Bool.false_ne_true, held]
  dsimp only
  rw [stopped, state, free, lead, notDie]
  rfl

/-- The hub that has heard a resume message. -/
def Hub.hearsResume (h : Hub) (link : Nat) (b : List Byte) : Hub :=
  { h.stampHub (linkStn link) with cut := { h.cut with knownResume := remember h.cut.knownResume (leAt b 4 4, leAt b 8 4 % 2 ^ 20) } }

theorem resumeMsg_resumes {k : Nat} {r : CutRec} (path : h.nocUp = true) (low : link < 32) (size : b.length = 64) (type : leAt b 0 1 = 0x22)
    (notAll : bit (leAt b 2 2) 0 = false) (new : h.cut.knownResume.contains (leAt b 4 4, leAt b 8 4 % 2 ^ 20) = false) (alone : h.lonely link)
    (local_ : h.sliceOfPasid (leAt b 8 4 % 2 ^ 20) = some k) (held : h.cut.ofSlice k = some r) (notDie : r.die = false) (stopped : r.st = .stopped)
    (sub : r.sub = []) (free : h.dumpHolds r false k = false) (lead : h.leadOk (h.convertTick link (leAt b 0x10 8)).1 = true) :
    h.resumeMsg link b =
      (h.hearsResume link b).updCut r.id fun c => { c with st := .resuming, u := (h.convertTick link (leAt b 0x10 8)).1 } := by
  have key : leAt b 8 4 % 2 ^ 20 + at_ (b2n false) 20 = leAt b 8 4 % 2 ^ 20 := by
    unfold at_ b2n
    simp
  have alone' : (h.hearsResume link b).lonely link := lonely_stampHub alone (linkStn link)
  have tick : (h.hearsResume link b).convertTick link (leAt b 0x10 8) = h.convertTick link (leAt b 0x10 8) :=
    convertTick_stampHub (linkStn link) link (leAt b 0x10 8)
  unfold Hub.resumeMsg
  dsimp only
  rw [notAll, key, new, path, if_neg (by simp [size, type, low])]
  have heard : ({ h.stampHub (linkStn link) with
      cut := { h.cut with knownResume := remember h.cut.knownResume (leAt b 4 4, leAt b 8 4 % 2 ^ 20) } } : Hub) = h.hearsResume link b := rfl
  rw [if_neg Bool.false_ne_true, heard, tick, forward_lonely alone', ite_self,
    show (h.hearsResume link b).sliceOfPasid (leAt b 8 4 % 2 ^ 20) = some k from local_]
  dsimp only
  rw [resumeReq_stopped (h := h.hearsResume link b) held notDie stopped sub free lead]

theorem peerCut_placed (t : SMap Nat) (id k u : Nat) (g : Bool) : (h.placed t).peerCut id k u g = h.peerCut id k u g := rfl

theorem lands_scheduled (s : State) (t : SMap Nat) (c : CutRec) (id k u : Nat) (g : Bool) :
    lands s (((s.hub.placed t).hears link b).peerScheduled c id k u g) =
      { s with hub := { (s.hub.placed t).stampHub (linkStn link) with
        cut := { s.hub.cut.hears link b with cuts := [c] }, er := { s.hub.er with sysq := s.hub.er.sysq ++ [s.hub.peerReq id k u g] } } } := rfl

theorem convertTick_placed (t : SMap Nat) (link v : Nat) : (h.placed t).convertTick link v = h.convertTick link v := rfl

end Messages

/-- Settles O26: the messages of cuts across packages, and the end of their window. -/
theorem cutMessages : Obligations.CutMessages := by
  intro s link b live path low size
  refine ⟨fun k type new alone notDie local_ there allowed empty lead on room => ?_, fun type mine here counting open_ => ?_,
    fun l type away known far => ?_, fun k r type notAll new alone local_ held notDie stopped sub free lead => ?_, fun counting ended => ?_⟩
  · refine yields_of_eq rfl live (fun t => scheduleMsg_hears (h := s.hub.placed t) path low size type new alone notDie local_ there allowed empty lead on room)
      fun t => ?_
    rw [convertTick_placed]
    rw [peerCut_placed, lands_scheduled, Hub.peerCut, Hub.peerReq, Cut.hears]
  · exact yields_of_eq rfl live (fun t => doneMsg_counted (h := s.hub.placed t) path low size type mine here counting open_) fun t => rfl
  · exact yields_of_eq rfl live (fun t => doneMsg_relayed (h := s.hub.placed t) path low size type away known far) fun t => rfl
  · exact yields_of_eq rfl live (fun t => resumeMsg_resumes (h := s.hub.placed t) path low size type notAll new alone local_ held notDie stopped sub free lead)
      fun t => rfl
  · refine yields_of_eq rfl live (fun t => if_pos ?_) fun t => rfl
    rw [Bool.and_eq_true, decide_eq_true_iff]
    exact ⟨counting, ended⟩

end Sys2Proof.Machine
end

section
/-! Transfers of the shared engines and the end of a slice reset (R439, R440, R445). -/
namespace Sys2Proof.Machine

theorem engineUnit_ok : ∀ e < 16, unitOk (engineUnit e) = true := by decide +kernel

theorem engineUnit_notTile (e : Nat) : isTileUnit (engineUnit e) = false := by
  by_contra tile
  exact (tile_notEngine (Bool.not_eq_false _ ▸ tile)).2 e rfl

section Engines

variable {h g : Hub} {e : Nat}

/-! ## The event of a transfer and its count -/

/-- A transfer's event, and one more in Grain counter `n` of its engine. -/
def Hub.xferCounted (h : Hub) (e ev status n : Nat) (x : Transfer) : Hub := (h.xferEv e ev status x).grainAdd (engineUnit e) n 1

theorem xferEv_traces (ev status : Nat) (x : Transfer) : h.traces (unitStn (engineUnit e)) (h.xferEv e ev status x) := by
  unfold Hub.xferEv Hub.observeU
  exact traces_ite (observe_traces (xferEvent e ev status x)) .refl

theorem engineCount (low : e < 16) {n : Nat} (counter : n < 8) (m : Nat) : h.grainAdd (engineUnit e) n m = h.updGrain (engineUnit e) fun g => g.took n m :=
  grainAdd_plain (engineUnit_ok e low) counter (.inr (.inl (engineUnit_notTile e)))

theorem xferCounted_touches (low : e < 16) {n : Nat} (counter : n < 8) (ev status : Nat) (x : Transfer) :
    h.touches (unitStn (engineUnit e)) (h.xferCounted e ev status n x) := by
  unfold Hub.xferCounted
  rw [engineCount low counter]
  exact (xferEv_traces ev status x).1.trans (touches_updStn _)

theorem xferCounted_alone (low : e < 16) {n : Nat} (counter : n < 8) (ev status : Nat) (x : Transfer) :
    countedAlone (engineUnit e) n 1 h (h.xferCounted e ev status n x) := by
  refine ⟨?_, (xferCounted_touches low counter ev status x).1⟩
  unfold Hub.xferCounted
  rw [engineCount low counter]
  have seen := (xferEv_traces (h := h) (e := e) ev status x).aside.1
  have grain := onlyGrain_updGrain (h.xferEv e ev status x) (engineUnit e) fun g => g.took n 1
  rw [Hub.sameCore.getGrain (h := h) seen] at grain
  exact onlyGrain_after seen grain

/-- The packet of a transfer at a plainly traced engine, and its count. -/
theorem xferCounted_packet (low : e < 16) {ev status n : Nat} {x : Transfer} (counter : n < 8) (plain : plainTrace h (xferEvent e ev status x))
    (room : hasRoom h (xferEvent e ev status x) (.xfer ev x.context x.tag status x.len)) :
    onePacket h (h.xferCounted e ev status n x) (xferEvent e ev status x) (.xfer ev x.context x.tag status x.len)
      (counted (h.getStn (unitStn (engineUnit e))).grain (unitSub (engineUnit e)) n 1) := by
  have seen := observe_packet plain (p := .xfer ev x.context x.tag status x.len) rfl rfl rfl rfl room
  have event : h.xferEv e ev status x = h.observe (xferEvent e ev status x) := if_pos plain.1
  unfold Hub.xferCounted
  rw [engineCount low counter, event, seen]
  refine onePacket_of (e := xferEvent e ev status x) ((getStn_updGrain_own _ _ _).trans ?_)
    ((storeOne_traces h _ _ _ _ _ (.xfer ev x.context x.tag status x.len)).1.trans (touches_updStn _)).1
  rw [show unitStn (engineUnit e) = unitStn (xferEvent e ev status x).unit from rfl, getStn_storeOne]
  rfl

/-! ## Arrivals -/

/-- The transfer that an operation asks for. -/
def Hub.transferOf (h : Hub) (r : Rmo) (signal : Option FenceRef) (value : Nat) : Transfer :=
  { issuer := r.issuer, slice := (h.getCtx r.context).slice, context := r.context, tag := r.tag, len := r.len, signal := signal, value := value, mode := r.mode,
    op := r.op.code, level := r.level }

theorem youngest_last {b : Nat} {a q : List Transfer} {x : Transfer} (own : x.slice = b) (waits : x.started = false)
    (last : ∀ y ∈ q, ¬ (y.slice = b ∧ y.started = false)) : youngest b (a ++ x :: q) = some a.length := by
  have found : firstIdx (fun t : Transfer => t.slice == b && !t.started) (a ++ x :: q).reverse = some q.reverse.length := by
    rw [List.reverse_append, List.reverse_cons, List.append_assoc]
    refine firstIdx_some (fun y mem => ?_) ?_
    · have := last y (List.mem_reverse.mp mem)
      simpa using this
    · simp [own, waits]
  unfold youngest
  rw [found]
  dsimp only
  rw [List.length_reverse, List.length_append, List.length_cons]
  congr 1
  omega

section Arrive

variable {r : Rmo} {signal : Option FenceRef} {value : Nat} (low : e < 16) (runs : h.unitRuns (engineUnit e) = true) (active : (h.getCtx r.context).st = .active)
include low runs active

theorem mayArrive : ¬ (16 ≤ e ∨ (!h.unitRuns (engineUnit e)) = true ∨ ((h.getCtx r.context).st = .free ∧ (h.getCtx r.context).cmds = [])) := by
  rintro (high | stops | ⟨free, -⟩)
  · omega
  · rw [runs] at stops
    cases stops
  · rw [active] at free
    cases free

theorem transferArrive_admitted (below : (h.getEngine e).queued (h.getCtx r.context).slice < h.share (h.getCtx r.context).slice)
    (room : (h.getEngine e).queue.length < 256) :
    h.transferArrive e r signal value = withEngine h e { h.getEngine e with q := (h.getEngine e).q ++ [h.transferOf r signal value] } := by
  unfold Hub.transferArrive
  rw [if_neg (mayArrive low runs active)]
  dsimp only
  rw [Hub.ctxSlice, if_neg (Nat.not_le.mpr below), if_pos room]
  rfl

theorem transferArrive_refused (full : h.share (h.getCtx r.context).slice ≤ (h.getEngine e).queued (h.getCtx r.context).slice) :
    h.transferArrive e r signal value = (h.updGrain (engineUnit e) fun g => g.took 6 1).answer r.issuer r.context r.tag stFull := by
  unfold Hub.transferArrive
  rw [if_neg (mayArrive low runs active)]
  dsimp only
  rw [Hub.ctxSlice, if_pos full, engineCount low (by decide)]
  rfl

theorem transferArrive_displaces {b : Nat} {a q : List Transfer} {x : Transfer} (full : 256 ≤ (h.getEngine e).queue.length)
    (below : (h.getEngine e).queued (h.getCtx r.context).slice < h.share (h.getCtx r.context).slice) (excess : h.excess (h.getEngine e) = some b)
    (queue : (h.getEngine e).q = a ++ x :: q) (own : x.slice = b) (waits : x.started = false) (last : ∀ y ∈ q, ¬ (y.slice = b ∧ y.started = false)) :
    h.transferArrive e r signal value =
      ((withEngine h e { h.getEngine e with q := a ++ q ++ [h.transferOf r signal value] }).rcAdd 0xB0038 0 16 65535 1).answer x.issuer x.context x.tag
        stSlcDisplaced := by
  unfold Hub.transferArrive
  rw [if_neg (mayArrive low runs active)]
  dsimp only
  rw [Hub.ctxSlice, if_neg (Nat.not_le.mpr below), if_neg (Nat.not_lt.mpr full), excess]
  dsimp only
  rw [queue, youngest_last own waits last]
  dsimp only
  rw [getD_behind]
  have moved : (h.updEngine e fun y => { y with q := eraseAt y.q a.length ++ [h.transferOf r signal value] }) =
      withEngine h e { h.getEngine e with q := a ++ q ++ [h.transferOf r signal value] } := by
    rw [show (h.updEngine e fun y => { y with q := eraseAt y.q a.length ++ [h.transferOf r signal value] }) =
      withEngine h e { h.getEngine e with q := eraseAt (h.getEngine e).q a.length ++ [h.transferOf r signal value] } from rfl, queue, eraseAt_behind]
  exact congrArg (fun k : Hub => (k.rcAdd 0xB0038 0 16 65535 1).answer x.issuer x.context x.tag stSlcDisplaced) moved

end Arrive

/-! ## Start and end -/

theorem transferStart_starts (low : e < 16) (runs : h.unitRuns (engineUnit e) = true) {k : Nat} {a q : List Transfer} {x : Transfer}
    (turn : h.nextTurn e (h.getEngine e) = some k) (queue : (h.getEngine e).q = a ++ x :: q)
    (before : ∀ y ∈ a, ¬ (y.slice = k ∧ y.started = false)) (own : x.slice = k) (waits : x.started = false) :
    h.transferStart e =
      (withEngine h e {
        q := a ++ { x with started := true } :: q, turn := k,
        used := if k = (h.getEngine e).turn ∧ (h.getEngine e).used < h.weight k then (h.getEngine e).used + 1 else 1 }).xferCounted e 0 stOk 1 x := by
  have first : firstIdx (fun t : Transfer => t.slice == k && !t.started) (a ++ x :: q) = some a.length :=
    firstIdx_some (fun y mem => by simpa using before y mem) (by simp [own, waits])
  have moved : (h.updEngine e fun y => { y with
      q := setAt y.q a.length { x with started := true }, turn := k,
      used := if k = (h.getEngine e).turn ∧ (h.getEngine e).used < h.weight k then (h.getEngine e).used + 1 else 1 }) =
      withEngine h e {
        q := a ++ { x with started := true } :: q, turn := k,
        used := if k = (h.getEngine e).turn ∧ (h.getEngine e).used < h.weight k then (h.getEngine e).used + 1 else 1 } := by
    have set : setAt (h.getEngine e).q a.length { x with started := true } = a ++ { x with started := true } :: q := by rw [queue, setAt_behind]
    rw [← set]
    rfl
  unfold Hub.transferStart
  dsimp only
  rw [if_neg (by rw [runs]; simpa using low), turn]
  dsimp only
  rw [queue, first]
  dsimp only
  rw [getD_behind]
  exact congrArg (fun k : Hub => (k.xferEv e 0 stOk { x with started := true }).grainAdd (engineUnit e) 1 1) moved

/-- The queue of an engine without the transfer at its end, which is answered. -/
def Hub.unqueued (h : Hub) (e c status : Nat) (l : List Transfer) (x : Transfer) : Hub :=
  withEngine { h with reply := h.reply ++ [⟨x.issuer, c, x.tag, status⟩] } e { h.getEngine e with q := l }

section End

variable {c : Nat} {a q : List Transfer} {x : Transfer} (runs : h.unitRuns (engineUnit e) = true) (queue : (h.getEngine e).q = a ++ x :: q)
  (before : ∀ y ∈ a, ¬ (y.started = true ∧ y.context = c)) (started : x.started = true) (own : x.context = c)
include runs queue before started own

omit runs queue in
theorem started_first : firstIdx (fun t : Transfer => t.started && t.context == c) (a ++ x :: q) = some a.length :=
  firstIdx_some (fun y mem => by simpa using before y mem) (by simp [started, own])

omit runs before started in
theorem unqueued_first (status : Nat) :
    (h.updEngine e fun y => { y with q := eraseAt y.q a.length }).transferAnswer x status = h.unqueued e c status (a ++ q) x := by
  rw [Hub.transferAnswer, own, ← eraseAt_behind (x := x), ← queue]
  rfl

theorem transferEnd_ok (alone : x.signal = none) : h.transferEnd e c stOk = (h.unqueued e c stOk (a ++ q) x).xferCounted e 1 stOk 2 x := by
  unfold Hub.transferEnd
  dsimp only
  rw [queue, started_first before started own]
  dsimp only
  rw [if_neg (by rw [runs]; nofun), getD_behind, unqueued_first queue own, if_pos rfl, alone]
  rfl

theorem transferEnd_signals {ref : FenceRef} (signal : x.signal = some ref) :
    h.transferEnd e c stOk =
      ((h.unqueued e c stOk (a ++ q) x).xferCounted e 1 stOk 2 x).ctxSignal c x.slice (engineUnit e) x.tag false ref x.value x.mode := by
  unfold Hub.transferEnd
  dsimp only
  rw [queue, started_first before started own]
  dsimp only
  rw [if_neg (by rw [runs]; nofun), getD_behind, unqueued_first queue own, if_pos rfl, signal]
  rfl

theorem transferEnd_aborted (alone : x.signal = none) (aborting : x.aborting = true) :
    h.transferEnd e c stAborted =
      ((h.unqueued e c stAborted (a ++ q) x).xferCounted e 2 stAborted 3 x).updSlice x.slice fun y => { y with aborted := y.aborted + 1 } := by
  unfold Hub.transferEnd
  dsimp only
  rw [queue, started_first before started own]
  dsimp only
  rw [if_neg (by rw [runs]; nofun), getD_behind, unqueued_first queue own, if_neg (by decide), alone]
  dsimp only
  rw [if_pos aborting]
  rfl

end End

/-! ## The end of a slice reset -/

theorem engineReport_struck {k : Nat} (resetting : (h.getSlice k).st = .resetting) (waits : e ∈ (h.getSlice k).engines) (empty : (h.getEngine e).held k = 0) :
    h.engineReport e k = withSlice h k { h.getSlice k with
      engines := (h.getSlice k).engines.filter (· != e),
      reported := if ((h.getSlice k).engines.filter (· != e)).isEmpty then some h.clk.cycle else none } := by
  unfold Hub.engineReport
  dsimp only
  rw [if_neg (by simp [resetting, waits, empty])]
  rfl

/-- The request for record 0x0312, `n` transfers of the slice aborted. -/
def Hub.resetReq (h : Hub) (k n : Nat) : Req :=
  { h.evt 3 0x0312 with
    slice := k, aux := (h.getSlice k).cause, arg := (h.getSlice k).reset,
    words := [(h.getSlice k).lostCtx, (h.getSlice k).discarded, n, (h.getSlice k).fenceErr, (h.getSlice k).expErr, h.now] }

theorem resetDone_returns {k : Nat} (on : h.classOn 3 = true) (room : h.er.sysq.length < 32) :
    h.resetDone k = { withSlice h k { h.getSlice k with st := .active, engines := [], reported := none } with
      er := { h.er with sysq := h.er.sysq ++ [h.resetReq k (h.getSlice k).aborted] } } :=
  record_sysq (withSlice h k { h.getSlice k with st := .active, engines := [], reported := none }) (h.resetReq k (h.getSlice k).aborted) on
    (show (3 : Nat) ≠ 8 by decide) rfl room

/-- A transfer that its engine still holds when its slice's reset times out. -/
def Hub.abortHeld (k e : Nat) (h : Hub) (x : Transfer) : Hub :=
  (h.transferAbort e x).2.updSlice k fun y => { y with aborted := y.aborted + 1, fenceErr := y.fenceErr + (h.transferAbort e x).1 }

/-- What an engine still holds of a slice is aborted. -/
def Hub.abortEngine (k : Nat) (h : Hub) (e : Nat) : Hub :=
  ((h.getEngine e).q.filter fun t => t.slice == k).foldl (Hub.abortHeld k e)
    (if ((h.getEngine e).q.filter fun t => t.slice == k).isEmpty then h else h.updEngine e fun x => { x with q := x.q.filter fun t => t.slice != k })

theorem resetTimeout_aborts {k : Nat} (resetting : (h.getSlice k).st = .resetting) (due : (h.getSlice k).reset + 100000 ≤ h.now) :
    h.resetTimeout k = ((List.range 16).foldl (Hub.abortEngine k) h).resetDone k := by
  unfold Hub.resetTimeout
  dsimp only
  rw [if_neg (by rw [resetting]; simpa using due)]
  rfl

theorem abortEngine_empty {k : Nat} (empty : (h.getEngine e).held k = 0) : h.abortEngine k e = h := by
  have none_ : ((h.getEngine e).q.filter fun t => t.slice == k) = [] := List.length_eq_zero_iff.mp empty
  unfold Hub.abortEngine
  rw [none_]
  rfl

/-- The hub once the one transfer that an engine holds is aborted. -/
def Hub.abortedOne (h : Hub) (k e : Nat) (x : Transfer) : Hub :=
  ((withEngine h e { h.getEngine e with q := [] }).xferCounted e 2 stAborted 3 x |>.answer x.issuer x.context x.tag stAborted).updSlice k fun y =>
    { y with aborted := y.aborted + 1 }

theorem abortEngine_one {k : Nat} {x : Transfer} (queue : (h.getEngine e).q = [x]) (own : x.slice = k) (alone : x.signal = none) :
    h.abortEngine k e = h.abortedOne k e x := by
  have gone : ((h.getEngine e).q.filter fun t => t.slice == k) = [x] := by
    rw [queue]
    simp [own]
  have moved : (h.updEngine e fun y => { y with q := y.q.filter fun t => t.slice != k }) = withEngine h e { h.getEngine e with q := [] } := by
    have left : ((h.getEngine e).q.filter fun t => t.slice != k) = [] := by
      rw [queue]
      simp [own]
    rw [← left]
    rfl
  have aborted : ∀ g : Hub, g.transferAbort e x = (0, (g.xferCounted e 2 stAborted 3 x).answer x.issuer x.context x.tag stAborted) := fun g => by
    unfold Hub.transferAbort
    rw [alone]
    rfl
  unfold Hub.abortEngine
  rw [gone, List.foldl_cons, List.foldl_nil, moved, Hub.abortHeld, aborted]
  rfl

/-- The hub around a transfer that is aborted, without trace and counts. -/
def Hub.slipped (h : Hub) (k e : Nat) (x : Transfer) : Hub :=
  { h with
    reply := h.reply ++ [⟨x.issuer, x.context, x.tag, stAborted⟩],
    slc := { h.slc with
      engine := SMap.set {} h.slc.engine e { h.getEngine e with q := [] },
      e := SMap.set {} h.slc.e k { h.getSlice k with aborted := (h.getSlice k).aborted + 1 } } }

theorem abortedOne_frame (low : e < 16) (k : Nat) (x : Transfer) : h.abortedOne k e x = asideTrace (h.slipped k e x) (h.abortedOne k e x) := by
  have frame := (xferCounted_touches (h := withEngine h e { h.getEngine e with q := [] }) low (show 3 < 8 by decide) 2 stAborted x).2
  unfold Hub.abortedOne
  generalize (withEngine h e { h.getEngine e with q := [] }).xferCounted e 2 stAborted 3 x = g at frame ⊢
  rw [frame]
  rfl

theorem abortedOne_alone (low : e < 16) (k : Nat) (x : Transfer) : countedAlone (engineUnit e) 3 1 h (h.abortedOne k e x) := by
  have counts := xferCounted_alone (h := withEngine h e { h.getEngine e with q := [] }) low (show 3 < 8 by decide) 2 stAborted x
  unfold Hub.abortedOne
  generalize (withEngine h e { h.getEngine e with q := [] }).xferCounted e 2 stAborted 3 x = g at counts ⊢
  exact ⟨counts.1, counts.2⟩

theorem foldl_abortOne (low : e < 16) {k : Nat} {x : Transfer} (queue : (h.getEngine e).q = [x]) (own : x.slice = k) (alone : x.signal = none)
    (others : ∀ d, d < 16 → d ≠ e → (h.getEngine d).held k = 0) : (List.range 16).foldl (Hub.abortEngine k) h = h.abortedOne k e x := by
  obtain ⟨a, b, whole, before, after⟩ := range_split low
  have same : ∀ d, d ≠ e → (h.abortedOne k e x).getEngine d = h.getEngine d := fun d other => by
    rw [abortedOne_frame low]
    exact SMap.get_set_ne _ _ _ other
  rw [whole, List.foldl_append, List.foldl_cons, foldl_fixed_mem fun d mem => abortEngine_empty (others d (before d mem).1 (before d mem).2),
    abortEngine_one queue own alone,
    foldl_fixed_mem fun d mem => abortEngine_empty (by rw [same d (after d mem).2]; exact others d (after d mem).1 (after d mem).2)]

/-- The hub once the slice is ACTIVE again, its one held transfer aborted. -/
def Hub.returned (h : Hub) (k e : Nat) (x : Transfer) : Hub :=
  { h with
    reply := h.reply ++ [⟨x.issuer, x.context, x.tag, stAborted⟩],
    slc := { h.slc with
      engine := SMap.set {} h.slc.engine e { h.getEngine e with q := [] },
      e := SMap.set {} h.slc.e k { h.getSlice k with st := .active, engines := [], reported := none, aborted := (h.getSlice k).aborted + 1 } },
    er := { h.er with sysq := h.er.sysq ++ [h.resetReq k ((h.getSlice k).aborted + 1)] } }

theorem abortedOne_returns (low : e < 16) (k : Nat) (x : Transfer) (on : h.classOn 3 = true) (room : h.er.sysq.length < 32) :
    (h.abortedOne k e x).resetDone k = asideTrace (h.returned k e x) (h.abortedOne k e x) := by
  have frame := abortedOne_frame (h := h) low k x
  have slice : (h.abortedOne k e x).getSlice k = { h.getSlice k with aborted := (h.getSlice k).aborted + 1 } := by
    rw [frame]
    exact SMap.get_set_self _ _ _ _
  rw [resetDone_returns (h := h.abortedOne k e x) (by rw [frame]; exact on) (by rw [frame]; exact room)]
  unfold Hub.resetReq
  rw [slice]
  generalize h.abortedOne k e x = g at frame
  rw [frame]
  unfold withSlice
  rw [show (asideTrace (h.slipped k e x) g).slc.e = SMap.set {} h.slc.e k { h.getSlice k with aborted := (h.getSlice k).aborted + 1 } from rfl, set_set]
  rfl

end Engines

/-! ## What lands -/

/-- A transfer's event and its count, on a hub `b` that differs from the placed one outside its stations. -/
theorem counted_lands {s : State} {b : Hub} {e n ev status : Nat} {x : Transfer} (low : e < 16) (counter : n < 8) (stn : b.stn = s.hub.stn) (out : b.out = []) :
    countedAlone (engineUnit e) n 1 s.hub (lands s (b.xferCounted e ev status n x)).hub ∧
    lands s (b.xferCounted e ev status n x) = { s with hub := asideTrace b (lands s (b.xferCounted e ev status n x)).hub } := by
  have alone := xferCounted_alone (h := b) low counter ev status x
  have frame := (xferCounted_touches (h := b) low counter ev status x).2
  generalize b.xferCounted e ev status n x = g at alone frame ⊢
  have same : ∀ y, b.getStn y = s.hub.getStn y := fun y => congrArg (fun l => SMap.get ({} : Stn) l y) stn
  refine ⟨⟨?_, fun y other => (alone.2 y other).trans (same y)⟩, lands_of_out s ((congrArg Hub.out frame).trans out) frame⟩
  obtain ⟨self, others, rest⟩ := alone.1
  have grain : ∀ v, b.getGrain v = s.hub.getGrain v := fun v => congrArg (fun y : Stn => SMap.get ({} : Grain) y.grain (unitSub v)) (same (unitStn v))
  rw [grain] at self
  exact ⟨self, fun v other => (others v other).trans (grain v), fun y => (rest y).trans (by rw [same y])⟩

/-- A signal that is applied after a transfer's end `k`, which trace and a count alone set off from the hub `b`. -/
theorem signalMade_lands {s : State} {b k g : Hub} {unit c id : Nat} {x : Fence} {z : Grain} (ok : unitOk unit = true) (ctx : b.ctx = s.hub.ctx)
    (clk : b.clk = s.hub.clk) (fence : b.fence = s.hub.fence) (out : b.out = []) (frame : k = asideTrace b k) (grain : onlyGrain unit z s.hub k)
    (fenced : k.fenced id x g) :
    onlyFence id x s.hub (lands s (g.signalMade unit c)).hub ∧
    onlyContext c { s.hub.getCtx c with progress := ((s.hub.getCtx c).progress + 1) % 2 ^ 32 } s.hub (lands s (g.signalMade unit c)).hub ∧
    onlyGrain unit { z with retired := if z.cmd.map Prod.fst = some c then 0 else z.retired } s.hub (lands s (g.signalMade unit c)).hub ∧
    lands s (g.signalMade unit c) = { s with hub := asideTrace { b with
      ctx := (lands s (g.signalMade unit c)).hub.ctx, fence := (lands s (g.signalMade unit c)).hub.fence } (lands s (g.signalMade unit c)).hub } := by
  obtain ⟨only, core, after, -⟩ := fenced
  have made := signalMade_frame g unit c
  have context := signalMade_context g unit c
  have restart := onlyGrain_grainRestart (g.progress c 1) c ok
  have sameCtx : g.ctx = s.hub.ctx := ((congrArg Hub.ctx after :)).trans (((congrArg Hub.ctx frame :)).trans ctx)
  have sameClk : g.clk = s.hub.clk := ((congrArg Hub.clk after :)).trans (((congrArg Hub.clk frame :)).trans clk)
  have sameFence : k.fence = s.hub.fence := ((congrArg Hub.fence frame :)).trans fence
  have sameOut : (g.signalMade unit c).out = [] :=
    ((congrArg Hub.out made :)).trans (((congrArg Hub.out after :)).trans (((congrArg Hub.out frame :)).trans out))
  refine ⟨?_, ?_, ?_, ?_⟩
  · have get : ∀ f, k.getFence f = s.hub.getFence f := fun f => congrArg (fun l => SMap.get ({} : Fence) l f) sameFence
    have set := onlyFence_of_fence only ((congrArg Hub.fence made :))
    exact ⟨set.1, fun f other => (set.2 f other).trans (get f)⟩
  · have get : ∀ d, g.getCtx d = s.hub.getCtx d := fun d => congrArg (fun l => SMap.get ({} : Ctx) l d) sameCtx
    obtain ⟨self, others⟩ := context
    rw [get c, sameClk] at self
    exact ⟨self, fun d other => (others d other).trans (get d)⟩
  · have before := onlyGrain_before grain core
    have get : (g.progress c 1).getGrain unit = z := before.1
    rw [get] at restart
    exact onlyGrain_twice before restart
  · have whole : g.signalMade unit c = asideTrace { b with ctx := (g.signalMade unit c).ctx, fence := (g.signalMade unit c).fence } (g.signalMade unit c) := by
      generalize g.signalMade unit c = j at made
      rw [made, after, frame]
      rfl
    exact lands_of_out s sameOut whole

/-- Settles O36: the queue of a shared engine, and the end of a slice reset. -/
theorem transfers : Obligations.Transfers := by
  refine ⟨fun s e live low runs => ⟨fun r signal value active => ⟨fun below room => ?_, fun full => ?_, fun b a q x full below excess queue own waits last => ?_⟩,
    fun k a q x turn queue before own waits => ?_, fun c a q x queue before started own => ⟨fun alone => ?_, fun ref signal here may sound none_ first ahead => ?_,
      fun alone aborting => ?_⟩⟩,
    fun s k live resetting => ⟨fun e waits empty => ?_, fun due on room => ⟨fun empty => ?_, fun e x low queue own alone others => ?_⟩⟩⟩
  · exact yields_of_eq rfl live (fun t => transferArrive_admitted (h := s.hub.placed t) low runs active below room) fun t =>
      ⟨rfl, fun d other => SMap.get_set_ne _ _ _ other⟩
  · exact yields_of_eq rfl live (fun t => transferArrive_refused (h := s.hub.placed t) low runs active full) fun t =>
      ⟨⟨onlyGrain_updGrain _ _ _, fun y other =>
        show ((s.hub.placed t).updGrain (engineUnit e) fun g => g.took 6 1).getStn y = _ from Hub.getStn_updStn_ne _ _ other⟩, getStn_updGrain_own _ _ _, rfl⟩
  · refine yields_of_eq rfl live (fun t => transferArrive_displaces (h := s.hub.placed t) low runs active full below excess queue own waits last) fun t => ?_
    rw [rcAdd_frame]
    rfl
  · refine yields_of_eq rfl live (fun t => transferStart_starts (h := s.hub.placed t) low runs turn queue before own waits) fun t => ?_
    obtain ⟨alone, frame⟩ := counted_lands (s := s) (ev := 0) (status := stOk) (x := x) (n := 1) (e := e) (b := withEngine (s.hub.placed t) e {
      q := a ++ { x with started := true } :: q, turn := k,
      used := if k = (s.hub.getEngine e).turn ∧ (s.hub.getEngine e).used < s.hub.weight k then (s.hub.getEngine e).used + 1 else 1 }) low (by decide) rfl rfl
    exact ⟨alone, frame, fun plain room => xferCounted_packet (h := withEngine (s.hub.placed t) e {
      q := a ++ { x with started := true } :: q, turn := k,
      used := if k = (s.hub.getEngine e).turn ∧ (s.hub.getEngine e).used < s.hub.weight k then (s.hub.getEngine e).used + 1 else 1 }) low (by decide) plain room⟩
  · refine yields_of_eq rfl live (fun t => transferEnd_ok (h := s.hub.placed t) runs queue before started own alone) fun t => ?_
    obtain ⟨counts, frame⟩ := counted_lands (s := s) (ev := 1) (status := stOk) (x := x) (n := 2) (e := e) (b := (s.hub.placed t).unqueued e c stOk (a ++ q) x)
      low (by decide) rfl rfl
    subst own
    exact ⟨counts, frame, fun plain room => xferCounted_packet (h := (s.hub.placed t).unqueued e x.context stOk (a ++ q) x) low (by decide) plain room⟩
  · subst own
    refine yields_ex rfl live fun t => ?_
    have grain : onlyGrain (engineUnit e) { s.hub.getGrain (engineUnit e) with inc := SMap.upd 0 (s.hub.getGrain (engineUnit e)).inc 2 (· + 1) } s.hub
        (((s.hub.placed t).unqueued e x.context stOk (a ++ q) x).xferCounted e 1 stOk 2 x) :=
      (xferCounted_alone (h := (s.hub.placed t).unqueued e x.context stOk (a ++ q) x) low (by decide) 1 stOk x).1
    have frame := (xferCounted_touches (h := (s.hub.placed t).unqueued e x.context stOk (a ++ q) x) low (show 2 < 8 by decide) 1 stOk x).2
    have ends := transferEnd_signals (h := s.hub.placed t) runs queue before started rfl signal
    generalize ((s.hub.placed t).unqueued e x.context stOk (a ++ q) x).xferCounted e 1 stOk 2 x = k at grain frame ends
    have fence : k.getFence ref.id = s.hub.getFence ref.id := by
      rw [frame]
      rfl
    have clk : k.clk = s.hub.clk := (congrArg Hub.clk frame :)
    obtain ⟨g, made, fenced⟩ := ctxSignal_ahead (h := k) (unit := engineUnit e) (c := x.context) (tag := x.tag) (mode := x.mode) (value := x.value)
      (slice := x.slice) (ref := ref) (by rw [frame]; exact here) (by rw [frame]; exact may) (by rw [fence, clk]; exact first) (by rw [fence]; exact none_)
      (by rw [fence]; exact sound) (by rw [fence]; exact ahead)
    rw [fence, clk] at fenced
    exact ⟨g.signalMade (engineUnit e) x.context, ends.trans made, signalMade_lands
      (b := (s.hub.placed t).unqueued e x.context stOk (a ++ q) x) (c := x.context) (engineUnit_ok e low) rfl rfl rfl rfl frame grain fenced⟩
  · refine yields_of_eq rfl live (fun t => transferEnd_aborted (h := s.hub.placed t) runs queue before started own alone aborting) fun t => ?_
    subst own
    have counts := xferCounted_alone (h := (s.hub.placed t).unqueued e x.context stAborted (a ++ q) x) low (show 3 < 8 by decide) 2 stAborted x
    have frame := (xferCounted_touches (h := (s.hub.placed t).unqueued e x.context stAborted (a ++ q) x) low (show 3 < 8 by decide) 2 stAborted x).2
    have packet := fun plain room => xferCounted_packet (h := (s.hub.placed t).unqueued e x.context stAborted (a ++ q) x) (ev := 2) (status := stAborted) (x := x)
      low (show 3 < 8 by decide) plain room
    generalize ((s.hub.placed t).unqueued e x.context stAborted (a ++ q) x).xferCounted e 2 stAborted 3 x = k at counts frame packet ⊢
    have slc : k.slc = (withEngine s.hub e { s.hub.getEngine e with q := a ++ q }).slc := (congrArg Hub.slc frame :)
    refine ⟨counts, fun d other => ?_, ?_, packet⟩
    · refine (Hub.getSlice_updSlice_ne k _ other).trans ?_
      have entries : k.slc.e = s.hub.slc.e := by
        rw [slc]
        rfl
      exact congrArg (fun l => SMap.get ({} : Slice) l d) entries
    · have counted_ : k.updSlice x.slice (fun y => { y with aborted := y.aborted + 1 }) =
          asideTrace { (s.hub.placed t).unqueued e x.context stAborted (a ++ q) x with
            slc := { (withEngine s.hub e { s.hub.getEngine e with q := a ++ q }).slc with
              e := SMap.set {} s.hub.slc.e x.slice { s.hub.getSlice x.slice with aborted := (s.hub.getSlice x.slice).aborted + 1 } } } k := by
        unfold Hub.updSlice
        rw [slc, frame]
        rfl
      exact lands_of_out s (congrArg Hub.out counted_) counted_
  · exact yields_of_eq rfl live (fun t => engineReport_struck (h := s.hub.placed t) resetting waits empty) fun t =>
      ⟨rfl, fun d other => SMap.get_set_ne _ _ _ other⟩
  · refine yields_of_eq rfl live (fun t => ((resetTimeout_aborts (h := s.hub.placed t) resetting due).trans (congrArg (fun g : Hub => g.resetDone k) ?_)).trans
      (resetDone_returns (h := s.hub.placed t) on room)) fun t => rfl
    exact foldl_fixed_mem fun d mem => abortEngine_empty (h := s.hub.placed t) (empty d (List.mem_range.mp mem))
  · refine yields_of_eq rfl live (fun t => ((resetTimeout_aborts (h := s.hub.placed t) resetting due).trans (congrArg (fun g : Hub => g.resetDone k)
      (foldl_abortOne (h := s.hub.placed t) low queue own alone others))).trans (abortedOne_returns (h := s.hub.placed t) low k x on room)) fun t => ?_
    have counts := abortedOne_alone (h := s.hub.placed t) low k x
    generalize (s.hub.placed t).abortedOne k e x = g at counts ⊢
    exact ⟨counts, rfl⟩

end Sys2Proof.Machine
end

section
/-! Units that sleep and wake, supply rails, and the switch of the hub clock (R48, R51, R74, R126, R184, R509, R517). -/
namespace Sys2Proof.Machine

section Sleep

variable {h g : Hub}

/-! ## Sleep and wake packets -/

theorem traceSleep_traces (old : Hub) (st : Nat) : h.traces st (h.traceSleep old st) := by
  unfold Hub.traceSleep
  refine traces_ite .refl (traces_foldl (fun h k => ?_) _ _)
  exact traces_ite ((closeRun_traces _ _ _).trans (emit_traces _ _ _ _ _ _ _)) .refl

theorem traceSleep_quiet (old : Hub) {st : Nat} (off : ∀ k, (h.getSrc st k).st = .off) : h.traceSleep old st = h := by
  unfold Hub.traceSleep
  dsimp only
  rw [foldl_fixed_mem fun k _ => if_neg fun all => absurd ((off k).symm.trans all.1) (by decide), ite_self]

theorem traceWake_quiet (old : Hub) {st : Nat} (off : ∀ k, (h.getSrc st k).st = .off) : h.traceWake old st = h := by
  unfold Hub.traceWake
  dsimp only
  rw [foldl_fixed_mem fun k _ => if_neg fun all => absurd ((off k).symm.trans all.1) (by decide), ite_self]

theorem sleepStns_quiet (old : Hub) (l : List Nat) (off : ∀ x k, (h.getSrc x k).st = .off) : h.sleepStns old l = h :=
  foldl_fixed_mem fun x _ => traceSleep_quiet old (off x)

theorem wakeStns_quiet (old : Hub) (l : List Nat) (quiet : quietSleep h) : h.wakeStns old l = h := by
  obtain ⟨off, thaw⟩ := quiet
  unfold Hub.wakeStns
  dsimp only
  have silent : l.foldl (fun h s => h.traceWake old s) h = h := foldl_fixed_mem fun x _ => traceWake_quiet old (off x)
  rw [silent]
  exact foldl_fixed_mem fun u _ => thawUnit_none (thaw _)

/-- Stations that keep their sources and what is to thaw stay quiet. -/
theorem quietSleep_of (quiet : quietSleep h) (same : ∀ x, (g.getStn x).src = (h.getStn x).src ∧ (g.getStn x).thaw = (h.getStn x).thaw) : quietSleep g :=
  ⟨fun x k => (congrArg (fun l => (SMap.get ({} : Src) l k).st) (same x).1).trans (quiet.1 x k), fun x => (same x).2.trans (quiet.2 x)⟩

/-! ## The power of a tile -/

/-- A tile with its power off or on. -/
def Hub.powered (h : Hub) (st : Nat) (off : Bool) : Hub := h.updStn st fun t => { t with powerGated := off }

theorem powered_quiet (quiet : quietSleep h) (st : Nat) (off : Bool) : quietSleep (h.powered st off) := by
  refine quietSleep_of quiet fun x => ?_
  unfold Hub.powered
  by_cases own : x = st
  · rw [own, Hub.getStn_updStn]
    exact ⟨rfl, rfl⟩
  · rw [Hub.getStn_updStn_ne _ _ own]
    exact ⟨rfl, rfl⟩

theorem tilePower_off {u : Nat} (ok : unitOk u = true) (units : h.boot.units = true) (tile : isTileUnit u = true)
    (on : (h.getStn (unitStn u)).powerGated = false) : h.supply u .power true = (h.powered (unitStn u) true).traceSleep h (unitStn u) := by
  unfold Hub.supply Hub.tilePower
  dsimp only
  rw [if_neg (by simp [ok, units, tile, on])]
  rfl

theorem tilePower_on {u : Nat} (ok : unitOk u = true) (units : h.boot.units = true) (tile : isTileUnit u = true)
    (off : (h.getStn (unitStn u)).powerGated = true) (quiet : quietSleep h) : h.supply u .power false = h.powered (unitStn u) false := by
  unfold Hub.supply Hub.tilePower
  dsimp only
  rw [if_neg (by simp [ok, units, tile, off]), if_neg Bool.false_ne_true]
  exact wakeStns_quiet h _ (powered_quiet quiet (unitStn u) false)

theorem powered_asleep {u : Nat} (seen : (h.powered (unitStn u) true).traces (unitStn u) g) : g.asleep u = true := by
  have own : stnCore (g.getStn (unitStn u)) = stnCore { h.getStn (unitStn u) with powerGated := true } := by
    rw [seen.2, Hub.powered, Hub.getStn_updStn]
  have gated : (g.getStn (unitStn u)).powerGated = true := (congrArg Stn.powerGated own :)
  unfold Hub.asleep
  simp [gated]

/-! ## Clock domains -/

/-- A mask of the first `n` units of a station: each unit of domain `d` has its bit. -/
def domainMask (st d n : Nat) : Nat :=
  ((List.range n).map fun i => st * 8 + i).foldl (fun a u => if unitDomain u = d then a + 2 ^ unitSub u else a) 0

theorem domainMask_succ {st d n : Nat} (low : n < 8) :
    domainMask st d (n + 1) = if unitDomain (st * 8 + n) = d then domainMask st d n + 2 ^ n else domainMask st d n := by
  have sub : unitSub (st * 8 + n) = n := by
    unfold unitSub
    omega
  unfold domainMask
  rw [List.range_succ, List.map_append, List.foldl_append]
  simp only [List.map_cons, List.map_nil, List.foldl_cons, List.foldl_nil, sub]

theorem domainMask_bits (st d : Nat) {n : Nat} (low : n ≤ 8) :
    domainMask st d n < 2 ^ n ∧ ∀ k, k < n → (domainMask st d n).testBit k = decide (unitDomain (st * 8 + k) = d) := by
  induction n with
  | zero => exact ⟨Nat.one_pos, fun k none_ => absurd none_ (Nat.not_lt_zero k)⟩
  | succ n ih =>
    obtain ⟨bound, bits⟩ := ih (by omega)
    rw [domainMask_succ (by omega), Nat.pow_succ]
    by_cases own : unitDomain (st * 8 + n) = d
    · rw [if_pos own, Nat.add_comm]
      refine ⟨by omega, fun k below => ?_⟩
      by_cases top : k = n
      · subst top
        rw [Nat.testBit_two_pow_add_eq, Nat.testBit_lt_two_pow bound, own]
        simp
      · rw [Nat.testBit_two_pow_add_gt (by omega)]
        exact bits k (by omega)
    · rw [if_neg own]
      refine ⟨by omega, fun k below => ?_⟩
      by_cases top : k = n
      · subst top
        rw [Nat.testBit_lt_two_pow bound]
        simp [own]
      · exact bits k (by omega)

theorem testBit_domainSubs {u d : Nat} (ok : unitOk u = true) : (domainSubs (unitStn u) d).testBit (unitSub u) = decide (unitDomain u = d) := by
  have few : subCount (unitStn u) ≤ 8 := by
    unfold subCount
    split
    · split <;> decide
    · decide
  have below : unitSub u < subCount (unitStn u) := of_decide_eq_true ok
  have whole : unitStn u * 8 + unitSub u = u := by
    unfold unitStn unitSub
    omega
  exact ((domainMask_bits (unitStn u) d few).2 (unitSub u) below).trans (by rw [whole])

/-- The gate of clock domain `d` at a station closes or opens. -/
def Stn.clocked (d st : Nat) (off : Bool) (t : Stn) : Stn :=
  { t with clkGated := if off then t.clkGated ||| domainSubs st d else clearBits t.clkGated (domainSubs st d) }

/-- The stations of clock domain `d` once it is gated, or clocked again. -/
def Hub.clocked (h : Hub) (d : Nat) (off : Bool) : Hub :=
  (domainStations d).foldl (fun h s => h.updStn s (Stn.clocked d s off))
    { h with gated := if off then h.gated ||| 2 ^ d else clearBits h.gated (2 ^ d) }

theorem clocked_again (d st : Nat) (off : Bool) (t : Stn) : (t.clocked d st off).clocked d st off = t.clocked d st off := by
  have cleared : clearBits (clearBits t.clkGated (domainSubs st d)) (domainSubs st d) = clearBits t.clkGated (domainSubs st d) := by
    refine Nat.eq_of_testBit_eq fun i => ?_
    rw [testBit_clearBits, testBit_clearBits, Bool.and_assoc, Bool.and_self]
  cases off
  · exact congrArg (fun x => { t with clkGated := x }) cleared
  · exact congrArg (fun x => { t with clkGated := x }) (by rw [Nat.or_assoc, Nat.or_self] :
      t.clkGated ||| domainSubs st d ||| domainSubs st d = t.clkGated ||| domainSubs st d)

theorem foldl_updStn {f : Nat → Stn → Stn} (again : ∀ st t, f st (f st t) = f st t) (l : List Nat) (h : Hub) (x : Nat) :
    (l.foldl (fun h s => h.updStn s (f s)) h).getStn x = if x ∈ l then f x (h.getStn x) else h.getStn x := by
  induction l generalizing h with
  | nil => exact (if_neg List.not_mem_nil).symm
  | cons s l ih =>
    rw [List.foldl_cons, ih]
    by_cases own : x = s
    · subst own
      rw [Hub.getStn_updStn, again, ite_self, if_pos List.mem_cons_self]
    · rw [Hub.getStn_updStn_ne _ _ own]
      simp only [List.mem_cons, own, false_or]

theorem foldl_updStn_frame (f : Nat → Stn → Stn) (l : List Nat) (h : Hub) :
    l.foldl (fun h s => h.updStn s (f s)) h = { h with stn := (l.foldl (fun h s => h.updStn s (f s)) h).stn } := by
  induction l generalizing h with
  | nil => rfl
  | cons s l ih => exact (ih (h.updStn s (f s)))

theorem getStn_clocked (d : Nat) (off : Bool) (x : Nat) :
    (h.clocked d off).getStn x = if x ∈ domainStations d then (h.getStn x).clocked d x off else h.getStn x :=
  foldl_updStn (clocked_again d · off) (domainStations d) _ x

theorem clocked_frame (d : Nat) (off : Bool) :
    h.clocked d off = { h with stn := (h.clocked d off).stn, gated := if off then h.gated ||| 2 ^ d else clearBits h.gated (2 ^ d) } :=
  foldl_updStn_frame _ (domainStations d) { h with gated := if off then h.gated ||| 2 ^ d else clearBits h.gated (2 ^ d) }

theorem clocked_quiet (quiet : quietSleep h) (d : Nat) (off : Bool) : quietSleep (h.clocked d off) :=
  quietSleep_of quiet fun x => by
    rw [getStn_clocked]
    split <;> exact ⟨rfl, rfl⟩

theorem domainClocked_quiet {d : Nat} {off : Bool} (gateable : domainGateable d = true) (runs : bit h.boot.domains d = true)
    (units : d < 25 → h.boot.units = true) (quiet : quietSleep h) (changes : bit h.gated d = !off) : h.supply d .clock off = h.clocked d off := by
  have may : ¬ (!bit h.boot.domains d || (decide (d < 25) && !h.boot.units) || !domainGateable d || bit h.gated d == off) = true := by
    rw [runs, gateable, changes]
    by_cases low : d < 25
    · cases off <;> simp [units low]
    · cases off <;> simp [low]
  have quiet' := clocked_quiet quiet d off
  have after : (if off then (h.clocked d off).sleepStns h (domainStations d) else (h.clocked d off).wakeStns h (domainStations d)) = h.clocked d off := by
    rw [sleepStns_quiet h (domainStations d) quiet'.1, wakeStns_quiet h (domainStations d) quiet', ite_self]
  unfold Hub.supply Hub.domainClocked
  dsimp only
  rw [if_neg may]
  exact after

theorem clocked_bit {u d : Nat} (ok : unitOk u = true) (own : unitDomain u = d) (off : Bool) :
    bit ((h.clocked d off).getStn (unitStn u)).clkGated (unitSub u) = off := by
  have mem : unitStn u ∈ domainStations d :=
    List.mem_filter.mpr ⟨mem_allStations_of_unit ok, List.any_eq_true.mpr ⟨u, mem_stnUnits.mpr ⟨rfl, ok⟩, by simp [own]⟩⟩
  have mask : (domainSubs (unitStn u) d).testBit (unitSub u) = true := by rw [testBit_domainSubs ok, own, decide_eq_true rfl]
  rw [getStn_clocked, if_pos mem, bit, Stn.clocked]
  cases off
  · exact (testBit_clearBits _ _ _).trans (by rw [mask]; exact Bool.and_false _)
  · exact (Nat.testBit_or _ _ _).trans (by rw [mask]; exact Bool.or_true _)

theorem clocked_asleep {u d : Nat} (ok : unitOk u = true) (own : unitDomain u = d) : (h.clocked d true).asleep u = true := by
  unfold Hub.asleep
  dsimp only
  rw [clocked_bit ok own]
  exact Bool.or_true _

/-! ## The compute side goes down -/

theorem dumpPathDown_idle (idle : h.dmp.st = .idle) (fires : h.dmp.fires = []) (banks : ∀ b, b < 4 → (SMap.get {} h.ce.bank b).owner = none) :
    h.dumpPathDown = h := by
  have jobs : (List.range 4).foldl (fun h b => h.regJobEnd b stAborted) h = h := foldl_fixed_mem fun b mem => by
    unfold Hub.regJobEnd
    dsimp only
    rw [banks b (List.mem_range.mp mem)]
  unfold Hub.dumpPathDown
  dsimp only
  rw [if_neg (by rw [idle]; nofun), jobs, fires]
  rfl

/-- The hub whose rails have collapsed. -/
def Hub.collapsedAt (h : Hub) (n : Nat) : Hub := ({ h with rail := { h.rail with collapsed := true, tick := n } } : Hub).messagesLost

theorem getStn_messagesLost (x : Nat) : h.messagesLost.getStn x = { h.getStn x with cap := { (h.getStn x).cap with held := [] } } :=
  SMap.get_mapVal ({} : Stn) (fun _ t => { t with cap := { t.cap with held := [] } }) (fun _ => rfl) h.stn x

theorem railCollapse_quiet {n : Nat} (low : h.rail.low = some n) (up : h.rail.collapsed = false) (due : n + 1000 ≤ h.clk.realNs) (quiet : quietSleep h)
    (idle : h.dmp.st = .idle) (fires : h.dmp.fires = []) (banks : ∀ b, b < 4 → (SMap.get {} h.ce.bank b).owner = none) (stands : h.fwRuns = false) :
    h.railCollapse = { h.collapsedAt h.now with fwDue := h.fwDue ++ [0x1810], hang := { h.hang with dieWaiting := true } } := by
  have quiet' : quietSleep (h.collapsedAt h.now) := quietSleep_of quiet fun x => by
    rw [Hub.collapsedAt, getStn_messagesLost]
    exact ⟨rfl, rfl⟩
  unfold Hub.railCollapse
  rw [low]
  dsimp only
  rw [up, if_neg (by simpa using due)]
  rw [show (({ h with rail := { h.rail with collapsed := true, tick := h.now } } : Hub).messagesLost) = h.collapsedAt h.now from rfl,
    sleepStns_quiet h _ quiet'.1, dumpPathDown_idle (h := h.collapsedAt h.now) idle fires banks]
  unfold Hub.fwReport Hub.computeLost
  rw [show (h.collapsedAt h.now).fwRuns = false from stands, if_neg Bool.false_ne_true]
  exact if_neg (show ¬ h.fwRuns = true by rw [stands]; nofun)

/-! ## The clock monitor -/

/-- The tick from which the hub runs on the board reference, if it switches now. -/
def Hub.switchTick (h : Hub) : Nat := if h.clk.started = true then h.now + 10 else 0

/-- The hub on the board reference, the switch recorded and firmware's answer owed. -/
def Hub.switched (h : Hub) (n : Nat) (loss : Bool) : Hub :=
  { h.onBoard h.switchTick with
    cyc := { h.cyc with pllLoss := true, attn := h.cyc.attn ||| 2 ^ 6 }, span := { h.span with attn := h.span.attn ||| 2 ^ 6 },
    hang := { h.hang with dieWaiting := true },
    er := { h.er with sysq := h.er.sysq ++ [h.fallbackReq n loss h.switchTick] } }

theorem fallback_quiet (n : Nat) (loss : Bool) (quiet : quietSleep h) (idle : h.dmp.st = .idle) (fires : h.dmp.fires = [])
    (banks : ∀ b, b < 4 → (SMap.get {} h.ce.bank b).owner = none) (running : h.boot.phase = 11) (stands : h.fwRuns = false) (room : h.er.sysq.length < 32) :
    h.fallback n loss = h.switched n loss := by
  have recorded := record_sysq (h.onBoard h.switchTick) (h.fallbackReq n loss h.switchTick) rfl (show (7 : Nat) ≠ 8 by decide) rfl room
  unfold Hub.fallback
  dsimp only
  rw [show (if h.clk.started = true then h.now + 10 else 0) = h.switchTick from rfl,
    show (h.onBoard h.switchTick).fallbackReq n loss h.switchTick = h.fallbackReq n loss h.switchTick from rfl, recorded,
    sleepStns_quiet h allStations (by exact quiet.1), dumpPathDown_idle (by exact idle) (by exact fires) (by exact banks)]
  unfold Hub.fallbackBoot Hub.computeLost
  rw [if_pos (by exact running)]
  exact if_neg (show ¬ h.fwRuns = true by rw [stands]; nofun)

end Sleep

/-- Settles O38: sleep and wake of tiles and clock domains, the rails, and the clock monitor. -/
theorem sleepRailsAndClocks : Obligations.SleepRailsAndClocks := by
  refine ⟨fun s live => ⟨fun u ok units tile => ⟨fun on => ?_, fun off quiet => ?_⟩, fun d gateable runs units quiet => ⟨fun on => ?_, fun off => ?_⟩,
    fun none_ => ?_, ?_, fun n low up due quiet idle fires banks stands => ?_⟩, fun s n live armed => ⟨fun least most => ?_,
    fun c loss cause quiet idle fires banks running stands room => ?_⟩⟩
  · refine yields_of_eq rfl live (fun t => tilePower_off (h := s.hub.placed t) ok units tile on) fun t => ?_
    have seen := traceSleep_traces (h := (s.hub.placed t).powered (unitStn u) true) (s.hub.placed t) (unitStn u)
    have silent : quietSleep s.hub → ((s.hub.placed t).powered (unitStn u) true).traceSleep (s.hub.placed t) (unitStn u) =
      (s.hub.placed t).powered (unitStn u) true := fun quiet => traceSleep_quiet _ ((powered_quiet (h := s.hub.placed t) quiet (unitStn u) true).1 (unitStn u))
    generalize ((s.hub.placed t).powered (unitStn u) true).traceSleep (s.hub.placed t) (unitStn u) = g at seen silent ⊢
    have touches := (touches_updStn (h := s.hub.placed t) (st := unitStn u) fun x => { x with powerGated := true }).trans seen.1
    have core : stnCore (g.getStn (unitStn u)) = stnCore { s.hub.getStn (unitStn u) with powerGated := true } := by
      rw [seen.2, Hub.powered, Hub.getStn_updStn]
      rfl
    obtain ⟨only, frame⟩ := touches_lands touches
    refine ⟨core, show g.asleep u = true from powered_asleep seen, only, frame, fun quiet => ?_⟩
    rw [silent quiet]
    rfl
  · exact yields_of_eq rfl live (fun t => tilePower_on (h := s.hub.placed t) ok units tile off quiet) fun t => rfl
  · refine yields_of_eq rfl live (fun t => domainClocked_quiet (h := s.hub.placed t) (off := true) gateable runs units quiet on) fun t => ?_
    have asleep := fun u => clocked_asleep (h := s.hub.placed t) (u := u) (d := d)
    have stns := getStn_clocked (h := s.hub.placed t) d true
    have frame := clocked_frame (h := s.hub.placed t) d true
    generalize (s.hub.placed t).clocked d true = g at asleep stns frame ⊢
    exact ⟨asleep, stns, lands_of_out s (congrArg Hub.out frame) frame⟩
  · refine yields_of_eq rfl live (fun t => domainClocked_quiet (h := s.hub.placed t) (off := false) gateable runs units quiet off) fun t => ?_
    have awake := fun u ok own => clocked_bit (h := s.hub.placed t) (u := u) (d := d) ok own false
    have stns := getStn_clocked (h := s.hub.placed t) d false
    have frame := clocked_frame (h := s.hub.placed t) d false
    generalize (s.hub.placed t).clocked d false = g at awake stns frame ⊢
    exact ⟨awake, stns, lands_of_out s (congrArg Hub.out frame) frame⟩
  · refine yields_of_eq rfl live (fun t => if_neg ?_) fun t => rfl
    rw [show (s.hub.placed t).rail.low = none from none_]
    nofun
  · exact yields_of_eq rfl live (fun t => rfl) fun t => rfl
  · refine yields_of_eq rfl live (fun t => railCollapse_quiet (h := s.hub.placed t) low up due quiet idle fires banks stands) fun t =>
      ⟨fun u => rfl, fun x => getStn_messagesLost (h := { s.hub.placed t with rail := { s.hub.rail with collapsed := true, tick := s.hub.now } }) x, rfl⟩
  · refine yields_of_eq rfl live (fun t => if_pos ?_) fun t => rfl
    simp [least, most]
  · have awake : ∀ t u, (lands s ((s.hub.placed t).switched n loss)).hub.asleep u = true := fun t u => by
      have back : (lands s ((s.hub.placed t).switched n loss)).hub.clk.fallback = true := rfl
      unfold Hub.asleep
      simp [back]
    have record : s.hub.fallbackReq n loss s.hub.switchTick = { s.hub.evt 7 0x0704 with
        aux := Nat.min 65535 n + if loss = true then 65536 else 0, arg := if s.hub.clk.started = true then s.hub.now + 10 else 0 } := by
      have count : satAdd 65535 0 n = Nat.min 65535 n := by
        unfold satAdd
        rw [Nat.zero_add]
      have flag : at_ (b2n loss) 16 = if loss = true then 65536 else 0 := by cases loss <;> rfl
      rw [Hub.fallbackReq, count, flag]
      rfl
    have lands_ : ∀ t, lands s ((s.hub.placed t).switched n loss) = { s with hub := { s.hub.placed t with
        clk := { s.hub.clk with
          onPll := false, monitorArmed := false, fallback := true, pllLoss := true, fbTick := if s.hub.clk.started = true then s.hub.now + 10 else 0 },
        cyc := { s.hub.cyc with pllLoss := true, attn := s.hub.cyc.attn ||| 2 ^ 6 },
        span := { s.hub.span with attn := s.hub.span.attn ||| 2 ^ 6 },
        hang := { s.hub.hang with dieWaiting := true },
        er := { s.hub.er with sysq := s.hub.er.sysq ++ [{ s.hub.evt 7 0x0704 with
          aux := Nat.min 65535 n + if loss = true then 65536 else 0, arg := if s.hub.clk.started = true then s.hub.now + 10 else 0 }] } } } := fun t => by
      rw [← record]
      rfl
    have switches := fun t => fallback_quiet (h := s.hub.placed t) n loss quiet idle fires banks running stands room
    rcases cause with ⟨rfl, outside, rfl⟩ | ⟨rfl, rfl⟩
    · refine yields_of_eq rfl live (fun t => (if_neg ?_).trans (switches t)) fun t => ⟨awake t, lands_ t⟩
      rw [show (s.hub.placed t).clk.monitorArmed = true from armed]
      simp
      omega
    · exact yields_of_eq rfl live (fun t => (if_pos armed).trans (switches t)) fun t => ⟨awake t, lands_ t⟩

end Sys2Proof.Machine
end

section
/-! Timebase copies, time marks and the numbering of links, and the calendar set (R130 to R145, R393, R395). -/
namespace Sys2Proof.Machine

section Time

variable {h : Hub} {n : Nat}

theorem updStn_withStation (h : Hub) (n : Nat) (f : Stn → Stn) : h.updStn n f = withStation h n (f (h.getStn n)) := rfl

theorem withStation_twice (h : Hub) (n : Nat) (x y : Stn) : withStation (withStation h n x) n y = withStation h n y := by
  unfold withStation
  dsimp only
  rw [set_set]

theorem getStn_withStation_self (h : Hub) (n : Nat) (x : Stn) : (withStation h n x).getStn n = x := SMap.get_set_self _ _ _ _

/-! ## Timebase copies -/

theorem tbStart_starts (started : h.clk.started = true) (seen : h.observed n = true) (off : (h.getStn n).tbOn = false) :
    h.tbStart n = withStation h n { h.getStn n with
      tbOn := true, tbLead := ((h.getStn n).comp * h.perCycle : Nat) - (h.now : Int) } := by
  unfold Hub.tbStart
  rw [started, seen, off]
  rfl

/-- A copy that leads the timebase by what is missing to `v` shows `v`. -/
theorem stnTick_lead {x : Stn} {v : Nat} (on : x.tbOn = true) (lead : x.tbLead = (v : Int) - (h.now : Int)) :
    (withStation h n x).stnTick n = v % 2 ^ 64 := by
  unfold Hub.stnTick
  rw [getStn_withStation_self]
  dsimp only
  rw [on, lead, if_pos rfl]
  congr 1
  show ((h.now : Int) + ((v : Int) - (h.now : Int))).toNat = v
  omega

/-- The hub once a check flit has told a station's error `e`. -/
def Hub.checked (h : Hub) (n : Nat) (e : Int) : Hub :=
  { withStation h n { h.getStn n with tbErr := e } with
    rc := ((h.rcAdd 0x1003C 0 20 4095 1).rcPeak 0x1003C 0 16 15 e.natAbs).rc, cal := { h.cal with lastSkew := n } }

section Check

variable {v : Nat} (started : h.clk.started = true) (seen : h.observed n = true) (on : (h.getStn n).tbOn = true) (due : h.clk.epoch % 256 = 0)
  (differs : h.tbError n v ≠ 0)
include started seen on due differs

theorem tbCheck_checked :
    h.tbCheck n v = if (h.tbError n v).natAbs ≤ 8 then h.checked n (h.tbError n v)
      else (h.checked n (h.tbError n v)).record { h.evt 7 0x0705 with unit := n * 8, arg := (h.tbError n v % 2 ^ 64).toNat } := by
  have off : (h.tbError n v).natAbs ≠ 0 := fun e => differs (Int.natAbs_eq_zero.mp e)
  unfold Hub.tbCheck Hub.checked
  dsimp only
  rw [if_neg (by simp [started, seen, on, due]), if_neg off, Hub.rcPeak, Hub.rcPeak, if_neg off, if_neg off]
  rfl

theorem tbCheck_small (small : (h.tbError n v).natAbs ≤ 8) : h.tbCheck n v = h.checked n (h.tbError n v) := by
  rw [tbCheck_checked started seen on due differs, if_pos small]

theorem tbCheck_large (large : 8 < (h.tbError n v).natAbs) (room : h.er.sysq.length < 32) :
    h.tbCheck n v = { h.checked n (h.tbError n v) with
      er := { h.er with sysq := h.er.sysq ++ [{ h.evt 7 0x0705 with unit := n * 8, arg := (h.tbError n v % 2 ^ 64).toNat }] } } := by
  rw [tbCheck_checked started seen on due differs, if_neg (Nat.not_le.mpr large)]
  exact record_sysq (h.checked n (h.tbError n v)) _ rfl (show (7 : Nat) ≠ 8 by decide) rfl room

end Check

/-! ## Time marks -/

theorem linkStn_of {n : Nat} (link : isLinkStn n = true) : linkStn (n - 1072) = n := by
  have two : stnClass n = 2 := by
    unfold isLinkStn at link
    simp only [Bool.and_eq_true, decide_eq_true_eq] at link
    exact link.2
  have low : 1072 ≤ n := by
    by_contra below
    unfold stnClass at two
    split_ifs at two <;> omega
  unfold linkStn
  omega

/-- The mark of a link once it has sent a time mark at tick `t`, marks being due every `p` ticks. -/
def Mark.sentAt (m : Mark) (t p : Nat) : Mark :=
  { m with tx := t, msnOut := (m.msnOut + 1) % 65536, next := if m.next + p ≤ t then t + p else m.next + p }

theorem markSend_sends (link : isLinkStn n = true) (units : h.boot.units = true) (seen : h.observed n = true) (trained : (h.getStn n).mark.trained = true)
    (on : (h.getStn n).tbOn = true) (enabled : bit (h.rwGet 0x80000014 0x10038 0) 31 = true) (path : h.nocUp = true)
    (due : (h.getStn n).mark.next ≤ h.stnTick n) :
    h.markSend n =
      { withStation h n { h.getStn n with mark := (h.getStn n).mark.sentAt (h.stnTick n) (2 ^ field (h.rwGet 0x80000014 0x10038 0) 4 0) } with
        tx := h.tx ++ [⟨n - 1072, markBytes h.pkg (n - 1072) (h.getStn n).mark.msnOut (h.stnTick n)
          (if (h.getStn n).mark.valid = true then (h.getStn n).mark.rxPeer else 0)
          (if (h.getStn n).mark.valid = true then (h.getStn n).mark.rxLocal else 0)⟩],
        stamps := h.stamps ++ [{ station := n, sent := true, msn := (h.getStn n).mark.msnOut, tick := h.stnTick n }] } := by
  unfold Hub.markSend Hub.linkSend
  dsimp only
  rw [if_neg (by simp [link, units, seen, trained, on, enabled, path, due]), if_pos path, linkStn_of link, Hub.stampSent, updStn_twice]
  cases (h.getStn n).mark.valid <;> rfl

/-- The mark of a link that has received the bytes of a time mark at tick `t`. -/
def Mark.receivedAt (m : Mark) (t : Nat) (b : List Byte) : Mark :=
  { m with
    valid := true, peerPkg := leAt b 2 2 % 1024, peerLink := leAt b 2 2 / 1024 % 32, msn := leAt b 4 2, rxPeer := leAt b 8 8, rxLocal := t,
    echoTx := leAt b 16 8, echoRx := leAt b 24 8, seq5 := (m.seq5 + 1) % 2 ^ 32, msnIn := (leAt b 4 2 + 1) % 65536 }

/-- The item of source 5 that a time mark makes. -/
def Hub.markItem (h : Hub) (n : Nat) (b : List Byte) : Item :=
  { src := n * 8 + 5, seq := (h.getStn n).mark.seq5, tick := h.stnTick n, kind := .timeMark,
    data := [leAt b 2 2 % 1024, leAt b 2 2 / 1024 % 32, leAt b 4 2, leAt b 8 8, leAt b 16 8, leAt b 24 8] }

/-- The hub with a received time mark: its item, its stamp, and the link's mark as `m`. -/
def Hub.marked (h : Hub) (n : Nat) (b : List Byte) (m : Mark) : Hub :=
  { withStation h n { h.getStn n with mark := m } with
    items := h.items ++ [h.markItem n b], stamps := h.stamps ++ [{ station := n, sent := false, msn := leAt b 4 2 % 65536, tick := h.stnTick n }] }

section Receive

variable {b : List Byte} (link : isLinkStn n = true) (units : h.boot.units = true) (trained : (h.getStn n).mark.trained = true) (path : h.nocUp = true)
  (size : b.length = 64) (type : leAt b 0 1 = 0x20)
include link units trained path size type

theorem markReceive_marked :
    h.markReceive n b = h.marked n b
      (if (h.getStn n).mark.valid && (h.getStn n).mark.rxLocal == h.stnTick n && !msnAfter (leAt b 4 2) (h.getStn n).mark.msn then
        { (h.getStn n).mark with seq5 := ((h.getStn n).mark.seq5 + 1) % 2 ^ 32, msnIn := (leAt b 4 2 + 1) % 65536 }
      else (h.getStn n).mark.receivedAt (h.stnTick n) b) := by
  unfold Hub.markReceive
  dsimp only
  rw [if_neg (by simp [link, units, trained, path, size, type]), Hub.stampReceived, updStn_twice]
  split <;> rfl

end Receive

theorem linkRetrain_trains (link : isLinkStn n = true) (units : h.boot.units = true) :
    h.linkRetrain n =
      { withStation h n { h.getStn n with
          reportSeq := ((h.getStn n).reportSeq + 1) % 2 ^ 32,
          mark := { (h.getStn n).mark with trained := true, valid := false, msnOut := 0, msnIn := 0 } } with
        items := h.items ++ [{ src := n * 8 + 4, seq := (h.getStn n).reportSeq, tick := h.stnTick n, kind := .resync, data := [] }] } := by
  unfold Hub.linkRetrain Hub.reportItem
  dsimp only
  rw [link, units, if_neg (by decide), updStn_twice]
  rfl

end Time

/-- Settles O39: timebase copies, link marks, and the calendar set. -/
theorem timebaseMarksAndCalendar : Obligations.TimebaseMarksAndCalendar := by
  refine ⟨fun s n live => ⟨fun started seen off => ?_, fun v started seen on due differs => ⟨fun small => ?_, fun large room => ?_⟩,
    fun link units seen trained on enabled path due => ?_, fun b link units trained path size type => ?_, fun link units => ?_⟩, fun s live pending due => ?_⟩
  · exact yields_of_eq rfl live (fun t => tbStart_starts (h := s.hub.placed t) started seen off) fun t =>
      ⟨stnTick_lead (h := s.hub.placed t) (x := { s.hub.getStn n with
        tbOn := true, tbLead := ((s.hub.getStn n).comp * s.hub.perCycle : Nat) - (s.hub.now : Int) }) rfl rfl, rfl⟩
  · exact yields_of_eq rfl live (fun t => tbCheck_small (h := s.hub.placed t) started seen on due differs small) fun t => rfl
  · exact yields_of_eq rfl live (fun t => tbCheck_large (h := s.hub.placed t) started seen on due differs large room) fun t => rfl
  · exact yields_of_eq rfl live (fun t => markSend_sends (h := s.hub.placed t) link units seen trained on enabled path due) fun t => rfl
  · have receives := fun t => markReceive_marked (h := s.hub.placed t) link units trained path size type
    refine ⟨fun newer => ?_, fun valid same older => ?_, ?_⟩
    · have fresh : ((s.hub.getStn n).mark.valid && (s.hub.getStn n).mark.rxLocal == s.hub.stnTick n && !msnAfter (leAt b 4 2) (s.hub.getStn n).mark.msn) = false := by
        rcases newer with e | e | e <;> simp [e]
      exact yields_of_eq rfl live (fun t => (receives t).trans (congrArg ((s.hub.placed t).marked n b) (if_neg (Bool.eq_false_iff.mp fresh)))) fun t => rfl
    · have stale : ((s.hub.getStn n).mark.valid && (s.hub.getStn n).mark.rxLocal == s.hub.stnTick n && !msnAfter (leAt b 4 2) (s.hub.getStn n).mark.msn) = true := by
        simp [valid, same, older]
      exact yields_of_eq rfl live (fun t => (receives t).trans (congrArg ((s.hub.placed t).marked n b) (if_pos stale))) fun t => rfl
    · exact yields_of_eq rfl live receives fun t => ⟨rfl, rfl, fun x other => SMap.get_set_ne _ _ _ other, rfl⟩
  · exact yields_of_eq rfl live (fun t => linkRetrain_trains (h := s.hub.placed t) link units) fun t => rfl
  · have applies : ∀ t, (s.hub.placed t).calDue = (s.hub.placed t).calApply := fun t => if_pos (by
      rw [Bool.and_eq_true, decide_eq_true_iff]
      exact ⟨pending, due⟩)
    refine yields_of_eq rfl live (fun t => (applies t).trans (calApply_eq (h := s.hub.placed t))) fun t => ⟨fun chain gap load room => ?_, fun refused => ?_, rfl⟩
    · exact if_pos ⟨chain, gap, load, room⟩
    · refine if_neg ?_
      rintro ⟨chain, gap, load, room⟩
      rcases refused with e | e | e | e
      · exact absurd (chain.symm.trans e) (by decide)
      · exact absurd (gap.symm.trans e) (by decide)
      · exact absurd load (Nat.not_lt.mpr e)
      · exact absurd room (Nat.not_lt.mpr e)

end Sys2Proof.Machine
end

section
/-!
What the loader's write lists do not look at (chapter 03): the loader, the key store, the phase of bring-up, the commits
that wait, the writes of memory, the time and the answers. An operation
that commutes with a change of these neither reads nor touches them.
-/
namespace Sys2Proof.Machine

/-- The parts of the hub that a write list neither reads nor touches. -/
structure Backstage where
  ldr : Ldr
  keys : SMap SliceKeys
  phase : Nat
  since : Nat
  queue : List Commit
  out : List MemWrite
  ns : Nat
  resp : SMap Resp

/-- The hub with these parts replaced. -/
def Hub.staged (h : Hub) (d : Backstage) : Hub :=
  { h with ldr := d.ldr, slc := { h.slc with keys := d.keys }, boot := { h.boot with phase := d.phase, since := d.since },
           chain := { h.chain with queue := d.queue }, out := d.out,
           clk := { h.clk with realNs := d.ns }, resp := d.resp }

/-- These parts of a hub. -/
def Hub.backstage (h : Hub) : Backstage := ⟨h.ldr, h.slc.keys, h.boot.phase, h.boot.since, h.chain.queue, h.out, h.clk.realNs, h.resp⟩

section Staged

variable (h : Hub) (d : Backstage) (s k : Nat)

theorem staged_ite {c : Prop} [Decidable c] (x y : Hub) : (if c then x.staged d else y.staged d) = (if c then x else y).staged d := by
  split <;> rfl

theorem foldl_staged {α : Type} {f : Hub → α → Hub} (each : ∀ h x, f (h.staged d) x = (f h x).staged d) (l : List α) :
    l.foldl f (h.staged d) = (l.foldl f h).staged d := by
  induction l generalizing h with
  | nil => rfl
  | cons x l ih => rw [List.foldl_cons, each, ih, List.foldl_cons]

/-- The hub of a pair with its backstage replaced. -/
def stagedSnd {β : Type} (d : Backstage) (x : β × Hub) : β × Hub := (x.1, x.2.staged d)

theorem foldl_stagedSnd {α β : Type} {f : β × Hub → α → β × Hub} (each : ∀ y x, f (stagedSnd d y) x = stagedSnd d (f y x)) (l : List α) (y : β × Hub) :
    l.foldl f (stagedSnd d y) = stagedSnd d (l.foldl f y) := by
  induction l generalizing y with
  | nil => rfl
  | cons x l ih => rw [List.foldl_cons, each, ih, List.foldl_cons]

theorem rcAdd_staged (off mi lsb max n : Nat) : (h.staged d).rcAdd off mi lsb max n = (h.rcAdd off mi lsb max n).staged d := by
  unfold Hub.rcAdd
  split <;> rfl

theorem updPeck_staged (f : Peck → Peck) : (h.staged d).updPeck s f = (h.updPeck s f).staged d := rfl

theorem updSrc_staged (f : Src → Src) : (h.staged d).updSrc s k f = (h.updSrc s k f).staged d := rfl

/-! ## Storing packets -/

theorem loss_staged (slice reason seq packets words tick : Nat) :
    (h.staged d).loss s k slice reason seq packets words tick = (h.loss s k slice reason seq packets words tick).staged d := by
  unfold Hub.loss
  rw [show (h.staged d).getStn s = h.getStn s from rfl]
  dsimp only
  split
  · rfl
  · split
    · rfl
    · exact rcAdd_staged h d _ _ _ _ _

theorem tryStore_staged (slice tick : Nat) (l : List (Nat × Pk)) :
    (h.staged d).tryStore s k slice tick l = (h.tryStore s k slice tick l).map (Hub.staged · d) := by
  have reads : (h.staged d).srcPart s k = h.srcPart s k ∧ (h.staged d).pkCtx s k = h.pkCtx s k ∧ (h.staged d).getSrc s k = h.getSrc s k ∧
      (h.staged d).getStn s = h.getStn s ∧ (h.staged d).srcCfg s k = h.srcCfg s k ∧ (h.staged d).partRing s (h.srcPart s k) = h.partRing s (h.srcPart s k) ∧
      (h.staged d).partCap s (h.srcPart s k) = h.partCap s (h.srcPart s k) := ⟨rfl, rfl, rfl, rfl, rfl, rfl, rfl⟩
  obtain ⟨part, ctx, src, stn, cfg, ring, cap⟩ := reads
  unfold Hub.tryStore
  dsimp only
  rw [part, ctx, src, stn, cfg, ring, cap]
  split <;> rfl

theorem refuse_staged (slice tick : Nat) (l : List (Nat × Pk)) :
    (h.staged d).refuse s k slice tick l = (h.refuse s k slice tick l).staged d := by
  unfold Hub.refuse
  dsimp only
  rw [updSrc_staged, rcAdd_staged, loss_staged]
  rfl

theorem offer_staged (wait : Bool) (slice tick : Nat) (l : List (Nat × Pk)) :
    (h.staged d).offer s k wait slice tick l = stagedSnd d (h.offer s k wait slice tick l) := by
  unfold Hub.offer
  rw [tryStore_staged, refuse_staged]
  split
  · rfl
  · cases h.tryStore s k slice tick l with
    | some g => rfl
    | none => cases wait <;> rfl

theorem corePc_staged (sub : Nat) (ev : Option (Nat × Nat)) : (h.staged d).corePc sub ev = stagedSnd d (h.corePc sub ev) := by
  unfold Hub.corePc
  split
  · split <;> rfl
  · rfl

theorem syncOf_staged (cores : List Nat) (mk : Nat → Pk) (ev : Option (Nat × Nat)) :
    (h.staged d).syncOf s k cores mk ev = stagedSnd d (h.syncOf s k cores mk ev) := by
  unfold Hub.syncOf
  rw [show (h.staged d).srcFeed s k = h.srcFeed s k from rfl, show (h.staged d).srcSub s k = h.srcSub s k from rfl]
  split
  · refine foldl_stagedSnd d (fun y j => ?_) cores ([], h)
    unfold stagedSnd
    dsimp only
    rw [corePc_staged]
    rfl
  · rfl

theorem leadPks_staged (cause : Nat) (ev : Option (Nat × Nat)) : (h.staged d).leadPks s k cause ev = stagedSnd d (h.leadPks s k cause ev) :=
  syncOf_staged h d s k _ _ _

theorem syncPks_staged (mk : Nat → Pk) (ev : Option (Nat × Nat)) : (h.staged d).syncPks s k mk ev = stagedSnd d (h.syncPks s k mk ev) :=
  syncOf_staged h d s k _ _ _

/-- The packets that a source emits for a group, behind those of `rs` that lead it, once the TIME before them, where there is one, is stored. -/
def Hub.groupTail (h g : Hub) (s : Nat) (w : Group) (wait late : Bool) (rs : List (Nat × Pk)) : Bool × Hub :=
  let (rs, g) := if late && (g.getSrc s w.src).lost then g.leadPks s w.src 7 w.ev else (rs, g)
  match g.offer s w.src wait w.slice w.tick (rs ++ w.pks) with
  | (true, g) => (true, g)
  | (false, _) => (false, if late then g else h)

/-- The TIME that must precede a group, and the group, behind the RESYNC packets `x.1` that lead it. -/
def Hub.groupLed (h : Hub) (s : Nat) (w : Group) (wait : Bool) (x : List (Nat × Pk) × Hub) : Bool × Hub :=
  let late := x.1.isEmpty && (w.pks.headD (0, .time)).2.hasDt && decide (65534 < w.tick - (h.getSrc s w.src).base)
  let y := if late then x.2.offer s w.src wait w.slice w.tick [((w.pks.headD (0, .time)).1, .time)] else (true, x.2)
  if !y.1 then (false, h) else h.groupTail y.2 s w wait late x.1

theorem group_led (w : Group) (wait : Bool) :
    h.group s w wait = h.groupLed s w wait (match (if (w.pks.headD (0, .time)).2.isResync then none else (h.getSrc s w.src).resyncCause w.slice w.forced) with
      | some c => h.leadPks s w.src c w.ev
      | none => ([], h)) := rfl

theorem groupTail_staged (g : Hub) (w : Group) (wait late : Bool) (rs : List (Nat × Pk)) :
    (h.staged d).groupTail (g.staged d) s w wait late rs = stagedSnd d (h.groupTail g s w wait late rs) := by
  have whole (rs : List (Nat × Pk)) (g : Hub) :
      (match (g.staged d).offer s w.src wait w.slice w.tick (rs ++ w.pks) with
        | (true, g) => (true, g)
        | (false, _) => (false, if late then g.staged d else h.staged d)) =
      stagedSnd d (match g.offer s w.src wait w.slice w.tick (rs ++ w.pks) with
        | (true, g) => (true, g)
        | (false, _) => (false, if late then g else h)) := by
    rw [offer_staged, staged_ite]
    rcases g.offer s w.src wait w.slice w.tick (rs ++ w.pks) with ⟨ok, g'⟩
    cases ok <;> rfl
  unfold Hub.groupTail
  rw [show (g.staged d).getSrc s w.src = g.getSrc s w.src from rfl, leadPks_staged]
  generalize (late && (g.getSrc s w.src).lost) = again
  cases again <;> exact whole _ _

theorem groupLed_staged (w : Group) (wait : Bool) (x : List (Nat × Pk) × Hub) :
    (h.staged d).groupLed s w wait (stagedSnd d x) = stagedSnd d (h.groupLed s w wait x) := by
  unfold Hub.groupLed
  rw [show (h.staged d).getSrc s w.src = h.getSrc s w.src from rfl]
  unfold stagedSnd
  dsimp only
  rw [offer_staged]
  generalize (x.1.isEmpty && (w.pks.headD (0, .time)).2.hasDt && decide (65534 < w.tick - (h.getSrc s w.src).base)) = late
  cases late with
  | false => exact groupTail_staged h d s x.2 w wait false x.1
  | true =>
    rcases x.2.offer s w.src wait w.slice w.tick [((w.pks.headD (0, .time)).1, .time)] with ⟨ok, g⟩
    cases ok with
    | false => rfl
    | true => exact groupTail_staged h d s g w wait true x.1

theorem group_staged (w : Group) (wait : Bool) : (h.staged d).group s w wait = stagedSnd d (h.group s w wait) := by
  rw [group_led, group_led, ← groupLed_staged, show (h.staged d).getSrc s w.src = h.getSrc s w.src from rfl]
  congr 1
  split
  · exact leadPks_staged h d s _ _ _
  · rfl

theorem give_staged (w : Group) : (h.staged d).give s w = (h.give s w).staged d := by
  unfold Hub.give
  rw [group_staged]
  rw [show (h.staged d).getStn s = h.getStn s from rfl, show (h.staged d).stalls s w.src = h.stalls s w.src from rfl,
    show (h.staged d).getSrc s w.src = h.getSrc s w.src from rfl]
  dsimp only
  split
  · rfl
  · rcases h.group s w (h.stalls s w.src && decide ((h.getSrc s w.src).st = .on)) with ⟨ok, g⟩
    cases ok <;> rfl

theorem periodic_staged (tick : Nat) : (h.staged d).periodic s k tick = (h.periodic s k tick).staged d := by
  unfold Hub.periodic
  rw [show (h.staged d).peckCfg s = h.peckCfg s from rfl, show (h.staged d).getSrc s k = h.getSrc s k from rfl, updSrc_staged, syncPks_staged]
  dsimp only
  split
  · rfl
  · rcases (h.updSrc s k fun x => { x with count := 0 }).syncPks s k (Pk.resync 8) none with ⟨rs, g⟩
    unfold stagedSnd
    dsimp only
    rw [give_staged, staged_ite]
    rfl

theorem stallRetry_staged : (h.staged d).stallRetry s = (h.stallRetry s).staged d := by
  unfold Hub.stallRetry
  rw [show (h.staged d).getStn s = h.getStn s from rfl]
  dsimp only
  rw [updPeck_staged]
  refine foldl_staged _ d (fun h w => ?_) _
  rw [group_staged, show (h.staged d).getStn s = h.getStn s from rfl, show (h.staged d).stalls s w.src = h.stalls s w.src from rfl]
  split
  · rfl
  · rcases h.group s w (h.stalls s w.src) with ⟨ok, g⟩
    cases ok with
    | false => rfl
    | true => exact periodic_staged g d s _ _

/-! ## Write lists -/

theorem irqAll_staged (l : List Nat) : (h.staged d).irqAll l = (h.irqAll l).staged d := foldl_staged h d (fun _ _ => rfl) l

theorem record_staged (r : Req) : (h.staged d).record r = (h.record r).staged d := by
  unfold Hub.record
  by_cases off : (!h.classOn r.cls) = true
  · rw [if_pos off, if_pos (show (!(h.staged d).classOn r.cls) = true from off), irqAll_staged]
  rw [if_neg off, if_neg (show ¬ (!(h.staged d).classOn r.cls) = true from off)]
  by_cases audit : r.cls = 8
  · rw [if_pos audit, if_pos audit]
    rfl
  rw [if_neg audit, if_neg audit]
  by_cases trigger : r.trigger.isSome = true
  · rw [if_pos trigger, if_pos trigger]
    by_cases room : h.er.fifo.length < 64
    · rw [if_pos room]
      exact if_pos room
    · rw [if_neg room]
      exact (if_neg room).trans (rcAdd_staged { h with er := h.er.coalesce h.now r } d _ _ _ _ _)
  · rw [if_neg trigger, if_neg trigger]
    by_cases room : h.er.sysq.length < 32
    · rw [if_pos room]
      exact if_pos room
    · rw [if_neg room]
      exact (if_neg room).trans (rcAdd_staged { h with er := h.er.coalesce h.now r } d _ _ _ _ _)

/-- The stalled packets of every station are stored or refused, as at the end of bench mode (R185). -/
def Hub.stallsEnd (h : Hub) : Hub := allStations.foldl (fun h s => if (h.getStn s).peck.stalled.isEmpty then h else h.stallRetry s) h

theorem stallsEnd_staged : (h.staged d).stallsEnd = h.stallsEnd.staged d :=
  foldl_staged h d (fun g s => by rw [stallRetry_staged, show (g.staged d).getStn s = g.getStn s from rfl, staged_ite]) _

/-- Bench mode has changed: audit record 0x0807. -/
def Hub.benchNoted (h : Hub) (m : Master) (change : Bool) : Hub := if change then h.record { h.auditBy m 0x0807 with aux := h.modeBits } else h

theorem benchNoted_staged (m : Master) (change : Bool) : (h.staged d).benchNoted m change = (h.benchNoted m change).staged d := by
  unfold Hub.benchNoted
  rw [record_staged, staged_ite]
  rfl

/-- The cut engine's state after a request for bench mode (R268). -/
def Hub.benchSet (h : Hub) (enable : Bool) : Hub :=
  { h with cut := { h.cut with
    benchEn := enable, bench := enable && (!enable || h.slices.all (· == 0)),
    benchStatus := if (!enable || h.slices.all (· == 0)) then stOk else stCutBench } }

theorem benchWrite_stages (m : Master) (enable : Bool) :
    h.benchWrite m enable =
      (let change := h.cut.bench != (enable && (!enable || h.slices.all (· == 0)))
       let g := (h.benchSet enable).benchNoted m change
       if change && !(enable && (!enable || h.slices.all (· == 0))) then g.stallsEnd else g) := rfl

theorem benchWrite_staged (m : Master) (enable : Bool) : (h.staged d).benchWrite m enable = (h.benchWrite m enable).staged d := by
  rw [benchWrite_stages, benchWrite_stages, show (h.staged d).benchSet enable = (h.benchSet enable).staged d from rfl,
    show (h.staged d).cut.bench = h.cut.bench from rfl, show (h.staged d).slices = h.slices from rfl]
  dsimp only
  rw [benchNoted_staged, stallsEnd_staged, staged_ite]

theorem storeReg_staged (m : Master) (l : Loc) (w : Nat) : (h.staged d).storeReg m l w = (h.storeReg m l w).staged d := by
  unfold Hub.storeReg
  rw [show l.clamp (h.staged d) w = l.clamp h w from rfl]
  dsimp only
  split
  · rfl
  · split <;> rfl
  · rfl

theorem stageWord_staged (m : Master) (l : Loc) (w : Nat) : (h.staged d).stageWord m l w = stagedSnd d (h.stageWord m l w) := by
  unfold Hub.stageWord
  split
  · rfl
  · split <;> rfl

theorem loaderWrite_staged (off w : Nat) : (h.staged d).loaderWrite off w = (h.loaderWrite off w).staged d := by
  unfold Hub.loaderWrite
  cases locate off with
  | none => rfl
  | some l =>
    dsimp only
    rw [stageWord_staged]
    rcases h.stageWord .loader l w with ⟨v, g⟩
    cases v with
    | none => rfl
    | some v =>
      unfold stagedSnd
      dsimp only
      rw [benchWrite_staged, storeReg_staged, staged_ite]

/-- A write list neither reads nor touches the backstage. -/
theorem applyWrites_staged (ws : List (Nat × Nat)) : (h.staged d).applyWrites ws = (h.applyWrites ws).staged d :=
  foldl_staged h d (fun h w => loaderWrite_staged h d w.1 w.2) ws


theorem staged_backstage (b : Backstage) : (h.staged b).backstage = b := rfl

/-- A write list keeps the backstage. -/
theorem applyWrites_backstage (ws : List (Nat × Nat)) : (h.applyWrites ws).backstage = h.backstage := by
  have same : h.applyWrites ws = (h.applyWrites ws).staged h.backstage := applyWrites_staged h h.backstage ws
  rw [same, staged_backstage]

end Staged

end Sys2Proof.Machine
end

section
/-!
O40: the course of a load, from its start to its end, with sections and failures (R99 to R107, R110, R111, R113).
-/
namespace Sys2Proof.Machine

theorem locate_aszCtrl : locate 0x64 = some (.acting false .hubAszCtrl 0x64 .glob .asz) := by decide +kernel
theorem locate_aszData : locate 0x6C = some (.acting false .hubAszData 0x6C .glob .any) := by decide +kernel

/-! ## Failures -/

section Failures

variable (h : Hub)

theorem loadFail_audits (status idx : Nat) :
    Hub.loadFail { h with ldr := { h.ldr with section_ := idx } } status = endsLoad h (failedLdr h status { h.ldr with section_ := idx }) := by
  rw [Hub.loadFail, record_audit _ _ rfl]
  rfl

/-- A load that fails while bring-up stands in ASSIZE (Table 03.1). -/
theorem loadEnds_assize (status idx : Nat) (phase : h.boot.phase = 6) :
    h.loadEnds status idx = backToAwait h (failedLdr h status { h.ldr with section_ := idx }) h.er := by
  rw [Hub.loadEnds, loadFail_audits]
  exact if_pos phase

/-- A load that fails on a running die without a restart. -/
theorem loadEnds_running (status idx : Nat) (phase : h.boot.phase = 11) (rest : h.rst.st = 0) :
    h.loadEnds status idx = endsLoad h (failedLdr h status { h.ldr with section_ := idx }) := by
  rw [Hub.loadEnds, loadFail_audits]
  have assize : (endsLoad h (failedLdr h status { h.ldr with section_ := idx })).boot.phase ≠ 6 := fun c => absurd (phase.symm.trans c) (by decide)
  have restart : (endsLoad h (failedLdr h status { h.ldr with section_ := idx })).rst.st ≠ 2 := fun c => absurd (rest.symm.trans c) (by decide)
  dsimp only
  rw [if_neg assize, if_neg fun c => restart c.1]

end Failures

/-! ## Taking the loader -/

section Taking

variable (h : Hub) (m : Master)

/-- The hub with the loader as a start in AWAIT takes it (R99). -/
def Hub.loaderTaken (h : Hub) (m : Master) : Hub :=
  { h with
    boot := { h.boot with phase := 6, since := h.clk.realNs },
    ldr := { h.ldr with
      result := SMap.set 0 h.ldr.result m.idx stOk, st := .header, owner := some m, mode := 0, section_ := 0, count := 0, buf := [], need := 64,
      length := 0, sectionCount := 0, dieId := [], types := [], targets := [], cur := {}, toVerify := [], cand := {}, lastNs := h.clk.realNs } }

theorem firstMode_assize (phase : h.boot.phase = 6) (rest : h.rst.st = 0) : h.firstMode m = 0 := by
  have zero : h.occasion m 0 = true := by simp [Hub.occasion, phase]
  have one : h.occasion m 1 = false := by simp [Hub.occasion, phase]
  have two : h.occasion m 2 = false := by simp [Hub.occasion, rest]
  have one_ : [0, 1, 2].filter (h.occasion m) = [0] := by simp [zero, one, two]
  rw [Hub.firstMode, one_]

theorem aszCtrl_start : h.aszCtrl m (2 ^ 31) = h.aszStart m := rfl
theorem aszCtrl_abort : h.aszCtrl m (2 ^ 30) = h.aszAbort m := rfl

theorem aszStart_takes (phase : h.boot.phase = 5) (rest : h.rst.st = 0) (idle : h.ldr.st = .idle) (free : h.ldr.reserved = none) :
    h.aszStart m = h.loaderTaken m := by
  have mode : (h.enter 6).firstMode m = 0 := firstMode_assize (h.enter 6) m rfl rest
  unfold Hub.aszStart
  rw [free]
  dsimp only
  rw [if_neg fun c => c.elim (fun c => c idle) Bool.noConfusion, if_pos phase, mode]
  rfl

theorem aszStart_busy (taken : h.ldr.st ≠ .idle) :
    h.aszStart m = { h with ldr := { h.ldr with result := SMap.set 0 h.ldr.result m.idx stBusy } } := by
  unfold Hub.aszStart
  dsimp only
  rw [if_pos (.inl taken)]

theorem aszAbort_ends (owner : h.ldr.owner = some m) (goes : h.loading = true) (phase : h.boot.phase = 6) :
    h.aszAbort m = backToAwait h (failedLdr h stAborted h.ldr) h.er := by
  rw [Hub.aszAbort, if_pos ⟨owner, goes⟩, loadEnds_assize h _ _ phase]

end Taking

/-! ## Data -/

section Data

variable {h : Hub} {m : Master} {w : Nat}

theorem imageWord_none (p : Nat) (b : List Byte) (other : h.ldr.st ≠ .payload ∨ leAt h.ldr.cur.hdr 0 2 ≠ 3) : h.imageWord p b = h :=
  if_pos (other.imp_right .inl)

theorem aszData_foreign (other : h.ldr.owner ≠ some m) : h.aszData m w = h := by
  rw [Hub.aszData, if_pos (.inl other)]

/-- A word of a payload that is not an image is gathered (R99). -/
theorem aszData_gathers (owner : h.ldr.owner = some m) (st : h.ldr.st = .payload) (plain : leAt h.ldr.cur.hdr 0 2 ≠ 3)
    (more : h.ldr.buf.length + 4 < h.ldr.need) (within : h.ldr.count + 4 ≤ h.ldr.length) :
    h.aszData m w = { h with ldr := { h.ldr with count := h.ldr.count + 4, lastNs := h.clk.realNs, buf := h.ldr.buf ++ leBytes 4 w } } := by
  have goes : h.loading = true := by simp [Hub.loading, st]
  have whole : (h.ldr.buf ++ leBytes 4 w).length < h.ldr.need := by rw [List.length_append, leBytes_length]; exact more
  unfold Hub.aszData
  rw [if_neg (by simp [owner, goes])]
  dsimp only
  rw [if_neg (by simp [st]), if_neg (by omega)]
  rw [imageWord_none]
  · exact if_pos whole
  · exact .inr plain

/-- The loader with the last word of the stream header. -/
def Ldr.headed (l : Ldr) (ns : Nat) (b : List Byte) : Ldr := { l with count := l.count + 4, lastNs := ns, buf := b }

/-- The last word of the stream header: the header is taken up (R100). -/
theorem aszData_header (owner : h.ldr.owner = some m) (st : h.ldr.st = .header) (len : h.ldr.buf.length = 60) (need : h.ldr.need = 64)
    {b : List Byte} (e : b = h.ldr.buf ++ leBytes 4 w) :
    h.aszData m w = Hub.streamHeader { h with ldr := h.ldr.headed h.clk.realNs b } m b := by
  subst e
  have goes : h.loading = true := by simp [Hub.loading, st]
  have whole : ¬ (h.ldr.buf ++ leBytes 4 w).length < h.ldr.need := by rw [List.length_append, leBytes_length, len, need]; decide
  unfold Hub.aszData
  rw [if_neg (by simp [owner, goes])]
  dsimp only
  rw [if_neg (by simp [st]), if_neg (by simp [st])]
  rw [imageWord_none]
  · refine (if_neg whole).trans ?_
    unfold Hub.partDone Ldr.headed
    dsimp only
    rw [st]
  · exact .inl (by simp [st])

end Data

section Header

variable (h : Hub) (m : Master) (b : List Byte)

theorem streamHeader_opens (phase : h.boot.phase = 6) (mark : leAt b 0 4 = 0x335A5341) (version : leAt b 4 2 = 1) (mode : leAt b 6 2 = 0)
    (even : leAt b 8 8 % 8 = 0) (long : 64 ≤ leAt b 8 8) (z : zeroAt b 0x12 14 = true) (z' : zeroAt b 0x30 16 = true) :
    h.streamHeader m b = { h with ldr := { h.ldr with
      mode := 0, st := .section_, length := leAt b 8 8, sectionCount := leAt b 0x10 2, dieId := slice b 0x20 16, need := 32, buf := [] } } := by
  have occ : h.occasion m 0 = true := by simp [Hub.occasion, phase]
  unfold Hub.streamHeader
  dsimp only
  rw [mode, mark, version, even, z, z', occ, decide_eq_true long]
  rfl

theorem streamHeader_fails {st n : Nat} (shown : (if leAt b 6 2 ≤ 2 then leAt b 6 2 else h.ldr.mode) = n)
    (bad : (leAt b 0 4 == 0x335A5341 && leAt b 4 2 == 1 && h.occasion m (leAt b 6 2) && leAt b 8 8 % 8 == 0 && decide (64 ≤ leAt b 8 8)
      && zeroAt b 0x12 14 && zeroAt b 0x30 16 && h.headerDie (leAt b 6 2) (slice b 0x20 16)) = false) (e : st = stAszFormat) :
    h.streamHeader m b = Hub.loadEnds { h with ldr := { h.ldr with mode := n } } st 0 := by
  unfold Hub.streamHeader
  dsimp only
  rw [bad, e]
  subst shown
  by_cases le : leAt b 6 2 ≤ 2
  · rw [if_pos le, if_pos le]
    rfl
  · rw [if_neg le, if_neg le]
    rfl

end Header

/-! ## Verification and the end of a load -/

section Verification

variable {h : Hub} {x : Section} {q : List Section} {key : List Byte}

theorem sectionVerified_joins {c : Cand} (head : h.ldr.toVerify = x :: q) (signer : h.signerKey (leAt x.hdr 0 2) x.body = (stOk, key))
    (good : Config.ecdsaVerify key (sha384 (x.hdr ++ x.body)) (padTo 96 x.sig) = true)
    (takes : h.takeSection x (x.record (sha384 (x.hdr ++ x.body))) = (stOk, c)) :
    h.sectionVerified = { h with ldr := { h.ldr with toVerify := q, cand := c } } := by
  have signer' : h.signerKey (x.record (sha384 (x.hdr ++ x.body))).typ x.body = (stOk, key) := signer
  unfold Hub.sectionVerified
  rw [head]
  dsimp only
  rw [signer', takes, good]
  rfl

theorem sectionVerified_bad (head : h.ldr.toVerify = x :: q) (signer : h.signerKey (leAt x.hdr 0 2) x.body = (stOk, key))
    (bad : Config.ecdsaVerify key (sha384 (x.hdr ++ x.body)) (padTo 96 x.sig) = false) :
    h.sectionVerified = h.loadEnds stBadsig x.index := by
  have signer' : h.signerKey (x.record (sha384 (x.hdr ++ x.body))).typ x.body = (stOk, key) := signer
  unfold Hub.sectionVerified
  rw [head]
  dsimp only
  rw [signer', bad]
  rfl

end Verification

/-! ## The end of a load -/

section Done

variable {h : Hub}

/-- The loader after a load that has ended DONE (R106). -/
def Ldr.finished (l : Ldr) (ns : Nat) (r : List Nat) (m : Option Master) : Ldr :=
  { l with st := .done, status := stOk, endNs := ns, cand := {}, reload := r, reserved := m }

/-- The hub with the record of its load (R106). -/
def Hub.loadNoted (h : Hub) : Hub := { h with er := h.er.audit h.loadRecord }

/-- What a mode-0 load installs (R106, R124). -/
def Boot.installed (b : Boot) (c : Cand) (ns : Nat) : Boot :=
  { b with
    phase := 7, since := ns, keys := c.keys, dieId := c.dieId, diePub := c.diePub, diePriv := c.diePriv, rootKey := c.rootKey, identity := true, pkg := c.pkg,
    pkgValid := true, tunBase := c.tunBase, tunSize := c.tunSize, recs := c.recs, imemValid := true, imemBad := false, entry := c.entry, imageHash := b.imemHash,
    writes := c.writes, pairRunning := true, mismatches := 0, dmem := [] }

/-- A new image for a restart (Table 03.11). -/
def Boot.reimaged (b : Boot) (c : Cand) : Boot :=
  { b with imemValid := true, imemBad := false, entry := c.entry, imageHash := b.imemHash, recs := SMap.set {} b.recs 3 (SMap.get {} c.recs 3) }

theorem checked_of (st : h.ldr.st = .check) (empty : h.ldr.toVerify = []) : ¬ (h.ldr.st ≠ .check ∨ (!h.ldr.toVerify.isEmpty) = true) := by
  simp [st, empty]

/-- The hub with its loader at DONE, what the load installs still in hand. -/
def Hub.atDone (h : Hub) : Hub := { h with ldr := { h.ldr with st := .done, status := stOk, endNs := h.clk.realNs } }

theorem loadDone_passes (st : h.ldr.st = .check) (empty : h.ldr.toVerify = []) (ok : h.ldr.checkStatus = stOk) {g : Hub}
    (e : (match h.ldr.mode with | 0 => h.atDone.doneBoot | 1 => h.atDone.consentUsed.doneReload | _ => h.atDone.doneImage) = g) :
    h.loadDone = { g.loadNoted with ldr := { g.ldr with cand := {} } } := by
  unfold Hub.loadDone
  rw [if_neg (checked_of st empty)]
  dsimp only
  rw [if_neg (fun c => c ok)]
  subst e
  rw [record_audit _ _ rfl]
  rfl

theorem loadDone_boot (st : h.ldr.st = .check) (empty : h.ldr.toVerify = []) (ok : h.ldr.checkStatus = stOk) (mode : h.ldr.mode = 0)
    (none_ : h.ldr.cand.slices = []) :
    h.loadDone = Hub.loadNoted { h with
      boot := h.boot.installed h.ldr.cand h.clk.realNs, ldr := h.ldr.finished h.clk.realNs h.ldr.reload h.ldr.reserved, rst := { h.rst with st := 0 } } := by
  have done : h.atDone.doneBoot = { h.atDone with boot := h.boot.installed h.ldr.cand h.clk.realNs, rst := { h.rst with st := 0 } } := by
    have slices : h.atDone.installBoot.installImage.bootSlices =
        { h.atDone.installBoot.installImage with boot := { h.atDone.installBoot.installImage.boot with writes := h.ldr.cand.writes } } := by
      unfold Hub.bootSlices
      rw [show h.atDone.installBoot.installImage.ldr.cand.slices = [] from none_]
      simp only [List.filter_nil, List.foldl_nil, List.flatMap_nil, List.append_nil]
      rfl
    unfold Hub.doneBoot
    rw [slices]
    rfl
  exact loadDone_passes st empty ok ((congrArg (fun n => match n with
    | 0 => h.atDone.doneBoot | 1 => h.atDone.consentUsed.doneReload | _ => h.atDone.doneImage) mode).trans done)

theorem loadDone_image (st : h.ldr.st = .check) (empty : h.ldr.toVerify = []) (ok : h.ldr.checkStatus = stOk) (mode : h.ldr.mode = 2) (wait : h.rst.st = 2) :
    h.loadDone = Hub.loadNoted { h with
      boot := h.boot.reimaged h.ldr.cand, ldr := h.ldr.finished h.clk.realNs h.ldr.reload none,
      rst := { h.rst with st := 1, hashed := false, started := false } } := by
  have done : h.atDone.doneImage = { h.atDone with
      boot := h.boot.reimaged h.ldr.cand, ldr := { h.atDone.ldr with reserved := none }, rst := { h.rst with st := 1, hashed := false, started := false } } := by
    have only : decide (h.atDone.installImage.rst.st = 3) = false := decide_eq_false fun c => absurd (wait.symm.trans c) (by decide)
    have waits : h.atDone.installImage.rst.st = 2 := wait
    unfold Hub.doneImage
    dsimp only
    rw [if_pos (.inl waits), only]
    rfl
  exact loadDone_passes st empty ok ((congrArg (fun n => match n with
    | 0 => h.atDone.doneBoot | 1 => h.atDone.consentUsed.doneReload | _ => h.atDone.doneImage) mode).trans done)

/-- The hub with a slice's section recorded (R110). -/
def Hub.sectioned (h : Hub) (k : Nat) (r : SecRec) : Hub := h.updKeys k fun x => { x with section_ := r }

theorem sectioned_writes (h : Hub) (k : Nat) (r : SecRec) (ws : List (Nat × Nat)) :
    Hub.applyWrites { h with slc := { h.slc with keys := ((h.sectioned k r).applyWrites ws).slc.keys } } ws = (h.sectioned k r).applyWrites ws := by
  have keys : ((h.sectioned k r).applyWrites ws).slc.keys = (h.sectioned k r).slc.keys :=
    congrArg Backstage.keys (applyWrites_backstage (h.sectioned k r) ws)
  rw [keys]
  rfl

theorem loadDone_reload {k : Nat} {r : SecRec} {ws : List (Nat × Nat)} (st : h.ldr.st = .check) (empty : h.ldr.toVerify = [])
    (ok : h.ldr.checkStatus = stOk) (mode : h.ldr.mode = 1) (slices : h.ldr.cand.slices = [(k, r, ws)]) (consent : h.ldr.cand.consent = [])
    (there : h.sliceExists k = true) :
    h.loadDone = Hub.loadNoted { (h.sectioned k r).applyWrites ws with
      ldr := h.ldr.finished h.clk.realNs (h.ldr.reload ++ [k]) h.ldr.reserved } := by
  have done : h.atDone.consentUsed.doneReload = { (h.sectioned k r).applyWrites ws with
      ldr := { h.atDone.ldr with reload := h.ldr.reload ++ [k] } } := by
    have used : h.atDone.consentUsed = h.atDone := by
      unfold Hub.consentUsed
      rw [show h.atDone.ldr.cand.consent = [] from consent]
      rfl
    have writes : (h.atDone.sectioned k r).applyWrites ws = { (h.sectioned k r).applyWrites ws with ldr := h.atDone.ldr } := by
      have kept := applyWrites_backstage (h.sectioned k r) ws
      refine (applyWrites_staged (h.sectioned k r) (h.atDone.sectioned k r).backstage ws).trans ?_
      generalize (h.sectioned k r).applyWrites ws = g at kept ⊢
      obtain ⟨ldr, keys, phase, since, queue, out, ns, resp⟩ := Backstage.mk.inj kept
      unfold Hub.staged Hub.backstage
      rw [show (h.atDone.sectioned k r).slc.keys = g.slc.keys from keys.symm, show (h.atDone.sectioned k r).boot.phase = g.boot.phase from phase.symm,
        show (h.atDone.sectioned k r).boot.since = g.boot.since from since.symm, show (h.atDone.sectioned k r).chain.queue = g.chain.queue from queue.symm,
        show (h.atDone.sectioned k r).out = g.out from out.symm,
        show (h.atDone.sectioned k r).clk.realNs = g.clk.realNs from ns.symm,
        show (h.atDone.sectioned k r).resp = g.resp from resp.symm]
      rfl
    rw [used]
    unfold Hub.doneReload
    rw [show h.atDone.ldr.cand.consent = [] from consent]
    dsimp only [List.foldl_nil]
    rw [show h.atDone.ldr.cand.slices = [(k, r, ws)] from slices]
    dsimp only
    rw [show h.atDone.sliceExists k = true from there]
    refine (congrArg (fun g : Hub => { g with ldr := { g.ldr with reload := g.ldr.reload ++ [k] } }) writes).trans ?_
    rfl
  refine (loadDone_passes st empty ok ((congrArg (fun n => match n with
    | 0 => h.atDone.doneBoot | 1 => h.atDone.consentUsed.doneReload | _ => h.atDone.doneImage) mode).trans done)).trans ?_
  generalize (h.sectioned k r).applyWrites ws = g
  rfl

theorem loadDone_refused (st : h.ldr.st = .check) (empty : h.ldr.toVerify = []) (bad : h.ldr.checkStatus ≠ stOk) :
    h.loadDone = h.loadEnds h.ldr.checkStatus h.ldr.section_ := by
  unfold Hub.loadDone
  rw [if_neg (checked_of st empty)]
  exact if_pos bad

end Done

/-! ## Timeouts and the commit of a reload -/

section Later

variable {h : Hub}

theorem aszTimeout_ends (st : h.ldr.st = .header ∨ h.ldr.st = .section_ ∨ h.ldr.st = .payload) (past : h.ldr.lastNs + 100000000 ≤ h.clk.realNs) :
    h.aszTimeout = h.loadEnds stTimeout h.ldr.section_ := if_pos ⟨st, past⟩

theorem idleReturn_returns (st : h.ldr.st = .done ∨ h.ldr.st = .failed) (past : h.ldr.endNs + 1000000 ≤ h.clk.realNs) :
    h.idleReturn = { h with ldr := { h.ldr with st := .idle, owner := none } } := by
  rw [Hub.idleReturn, if_neg (Nat.not_lt.mpr past), Hub.loaderIdle, if_pos st]

end Later

section Reload

variable {h : Hub} {k : Nat} {q : List Nat}

theorem reloadCommit_adds (head : h.ldr.reload = k :: q) (free : (h.getStat .loader).pending = false) (there : h.sliceExists k = true) :
    h.reloadCommit = Hub.commitAdd { h with ldr := { h.ldr with reload := q } } (.master .loader) 1 k := by
  have low : k < 64 := by
    unfold Hub.sliceExists at there
    simp only [Bool.and_eq_true, decide_eq_true_eq] at there
    exact there.1
  have pends : ((Hub.commitAdd { h with ldr := { h.ldr with reload := q } } (.master .loader) 1 k).getStat .loader).pending = true := by
    rw [Hub.commitAdd, Hub.ownerStat, getStat_updStat]
  unfold Hub.reloadCommit
  rw [head]
  dsimp only
  rw [if_neg (by rw [free]; exact Bool.noConfusion),
    commitRequest_slice (h := { h with ldr := { h.ldr with reload := q } }) (m := .loader) low free there, if_pos pends]

end Reload

/-! ## The obligation -/

/-- A write of a stream word by a master that reaches the registers (R99). -/
theorem yields_stream {s : State} {m : Master} {w : Nat} {g : SMap Nat → Er → Hub} {P : Hub → State → Prop} (live : s.hub.live = true) (b : w < 2 ^ 32)
    (reach : s.hub.reaches m = true) (effect : ∀ t r, Hub.aszData { s.hub.placed t with er := r } m w = g t r)
    (p : ∀ t, P (s.hub.placed t) (lands s ((g t s.hub.er).respond m 0 false))) : Yields (.aszDataWrite m w) s P := by
  refine yields_act rfl live reach locate_aszData rfl (by decide) rfl b ?_ effect p
  cases m with
  | loader => exact absurd reach Bool.noConfusion
  | _ => rfl

/-- A write of the loader's control by the host or the Span port (R99). -/
theorem yields_aszAbort {s : State} {m : Master} {g : SMap Nat → Er → Hub} {P : Hub → State → Prop} (live : s.hub.live = true) (port : m = .host ∨ m = .span)
    (reach : s.hub.reaches m = true) (effect : ∀ t r, Hub.aszAbort { s.hub.placed t with er := r } m = g t r)
    (p : ∀ t, P (s.hub.placed t) (lands s ((g t (roleEr s.hub m 0x64 (2 ^ 30))).respond m 0 false))) : Yields (.aszAbort m) s P := by
  refine yields_act rfl live reach locate_aszCtrl rfl (by decide) rfl (by decide) ?_ (fun t r => (aszCtrl_abort _ m).trans (effect t r)) p
  rcases port with e | e <;> subst e <;> rfl

/-- Settles O40: taking the loader, the stream's words and its header, sections, the end of a load in its modes, its failures, and what follows it. -/
theorem loaderCourse : Obligations.LoaderCourse := by
  refine fun s m live => ⟨fun port reach phase rest idle free => ?_, fun port reach may taken => ?_, fun w low reach other => ?_,
    fun w low reach owner st plain more within => ?_, fun w b low reach owner st len need e => ⟨fun phase mark version mode even long z z' => ?_,
      fun phase mark => ?_, fun phase rest mode named other => ?_⟩, fun port reach owner goes phase => ?_,
    fun x q key c head signer good takes => ?_, fun x q key head phase rest signer bad => ?_, fun st empty => ⟨fun ok mode none_ => ?_,
      fun k r ws ok mode slices consent there => ?_, fun ok mode wait => ?_, fun bad phase rest => ?_⟩, fun k q head free there => ?_,
    fun st past phase rest => ?_, fun st past => ?_⟩
  · refine yields_act rfl live reach locate_aszCtrl rfl (by decide) rfl (by decide) ?_
      (fun t r => (aszCtrl_start _ m).trans (aszStart_takes { s.hub.placed t with er := r } m phase rest idle free)) fun t => rfl
    rcases port with e | e <;> simp [Hub.mayWrite, Loc.acting, e, Hub.aszMay, phase]
  · refine yields_act rfl live reach locate_aszCtrl rfl (by decide) rfl (by decide) ?_
      (fun t r => (aszCtrl_start _ m).trans (aszStart_busy { s.hub.placed t with er := r } m taken)) fun t => rfl
    rcases port with e | e <;> subst e <;> simp [Hub.mayWrite, Loc.acting, may]
  · exact yields_stream live low reach (fun t r => aszData_foreign (h := { s.hub.placed t with er := r }) other) fun t => rfl
  · exact yields_stream live low reach (fun t r => aszData_gathers (h := { s.hub.placed t with er := r }) owner st plain more within) fun t => rfl
  · exact yields_stream live low reach (fun t r => (aszData_header (h := { s.hub.placed t with er := r }) owner st len need e).trans
      (streamHeader_opens _ m b phase mark version mode even long z z')) fun t => rfl
  · have bad (g : Hub) : (leAt b 0 4 == 0x335A5341 && leAt b 4 2 == 1 && g.occasion m (leAt b 6 2) && leAt b 8 8 % 8 == 0 && decide (64 ≤ leAt b 8 8)
        && zeroAt b 0x12 14 && zeroAt b 0x30 16 && g.headerDie (leAt b 6 2) (slice b 0x20 16)) = false := by simp [mark]
    exact yields_stream live low reach (fun t r => (aszData_header (h := { s.hub.placed t with er := r }) owner st len need e).trans
      ((streamHeader_fails _ m b rfl (bad _) rfl).trans (loadEnds_assize _ _ _ phase))) fun t => rfl
  · have bad (t : SMap Nat) (r : Er) (l : Ldr) : (leAt b 0 4 == 0x335A5341 && leAt b 4 2 == 1 &&
        Hub.occasion { s.hub.placed t with er := r, ldr := l } m (leAt b 6 2) && leAt b 8 8 % 8 == 0 && decide (64 ≤ leAt b 8 8)
        && zeroAt b 0x12 14 && zeroAt b 0x30 16 && Hub.headerDie { s.hub.placed t with er := r, ldr := l } (leAt b 6 2) (slice b 0x20 16)) = false := by
      have die : Hub.headerDie { s.hub.placed t with er := r, ldr := l } (leAt b 6 2) (slice b 0x20 16) = false := by
        have this_ : (slice b 0x20 16 == s.hub.boot.dieId) = false := beq_eq_false_iff_ne.mpr other
        rw [Hub.headerDie, mode, named]
        exact this_
      rw [die, Bool.and_false]
    have first : (if leAt b 6 2 ≤ 2 then leAt b 6 2 else s.hub.ldr.mode) = 1 := by rw [mode]; rfl
    exact yields_stream live low reach (fun t r => (aszData_header (h := { s.hub.placed t with er := r }) owner st len need e).trans
      ((streamHeader_fails { s.hub.placed t with er := r, ldr := s.hub.ldr.headed s.hub.clk.realNs b } m b first (bad t r _) rfl).trans (loadEnds_running _ _ _ phase rest))) fun t => rfl
  · exact yields_aszAbort live port reach (fun t r => aszAbort_ends { s.hub.placed t with er := r } m owner goes phase) fun t => rfl
  · exact yields_of_eq rfl live (fun t => sectionVerified_joins (h := s.hub.placed t) head signer good takes) fun t => rfl
  · exact yields_of_eq rfl live (fun t => (sectionVerified_bad (h := s.hub.placed t) head signer bad).trans (loadEnds_running _ _ _ phase rest)) fun t => rfl
  · exact yields_of_eq rfl live (fun t => loadDone_boot (h := s.hub.placed t) st empty ok mode none_) fun t => ⟨rfl, rfl, rfl⟩
  · refine yields_of_eq rfl live (fun t => loadDone_reload (h := s.hub.placed t) st empty ok mode slices consent there) fun t => ?_
    have kept := applyWrites_backstage ((s.hub.placed t).sectioned k r) ws
    have own : ((s.hub.placed t).sectioned k r).getKeys k = { s.hub.getKeys k with section_ := r } := Hub.getKeys_updKeys ..
    have rest (j : Nat) (other : j ≠ k) : ((s.hub.placed t).sectioned k r).getKeys j = s.hub.getKeys j := Hub.getKeys_updKeys_ne _ _ other
    have keys : (((s.hub.placed t).sectioned k r).applyWrites ws).slc.keys = ((s.hub.placed t).sectioned k r).slc.keys := congrArg Backstage.keys kept
    refine ⟨(congrArg (fun l => SMap.get ({} : SliceKeys) l k) keys).trans own,
      fun j other => (congrArg (fun l => SMap.get ({} : SliceKeys) l j) keys).trans (rest j other), rfl, ?_⟩
    have same := sectioned_writes (s.hub.placed t) k r ws
    have out : (((s.hub.placed t).sectioned k r).applyWrites ws).out = [] := congrArg Backstage.out kept
    generalize ((s.hub.placed t).sectioned k r).applyWrites ws = g at same out ⊢
    refine lands_of_out s out ?_
    refine Eq.trans ?_ (congrArg (fun j : Hub => ({ j with
      ldr := s.hub.ldr.finished s.hub.clk.realNs (s.hub.ldr.reload ++ [k]) s.hub.ldr.reserved,
      er := j.er.audit (Hub.loadRecord { g with ldr := s.hub.ldr.finished s.hub.clk.realNs (s.hub.ldr.reload ++ [k]) s.hub.ldr.reserved }) } : Hub)) same.symm)
    rfl
  · exact yields_of_eq rfl live (fun t => loadDone_image (h := s.hub.placed t) st empty ok mode wait) fun t => ⟨rfl, rfl, rfl⟩
  · exact yields_of_eq rfl live (fun t => (loadDone_refused (h := s.hub.placed t) st empty bad).trans (loadEnds_running _ _ _ phase rest)) fun t => rfl
  · exact yields_of_eq rfl live (fun t => reloadCommit_adds (h := s.hub.placed t) head free there) fun t => ⟨getStat_updStat _ _ _, fun x other => getStat_updStat_ne _ _ _ other, rfl⟩
  · exact yields_of_eq rfl live (fun t => (aszTimeout_ends (h := s.hub.placed t) st past).trans (loadEnds_running _ _ _ phase rest)) fun t => rfl
  · exact yields_of_eq rfl live (fun t => idleReturn_returns (h := s.hub.placed t) st past) fun t => rfl

end Sys2Proof.Machine
end

section
/-!
O41: each phase of bring-up ends with its event, or bring-up halts (Table 03.1).
-/
namespace Sys2Proof.Machine

theorem locate_hubFwReady : locate 0x98 = some (.acting false .hubFwReady 0x98 .glob .pair) := by decide +kernel
theorem locate_hubFirkinKeep : locate 0xA4 = some (.acting false .hubFirkinKeep 0xA4 .any .keep) := by decide +kernel

/-- The row of the trace policy of slice 0. -/
def spolZero : Loc := ⟨⟨.trcSpol, 0x81000, 4, 64, false, .rws, false, .all, .glob, .spol, 0x783fe, 0⟩, 0, false, 0, 0x81000, false⟩

theorem locate_spolZero : locate 0x81000 = some spolZero := by decide +kernel

section Phases

variable {h : Hub}

/-! ## CLOCK to CHAIN -/

theorem halt_eq (status : Nat) : h.halt status = haltedAs h status := rfl

theorem pllLock_enters (phase : h.boot.phase = 1) :
    h.pllLock = { h with
      clk := { h.clk with onPll := true, monitorArmed := true }, boot := { h.boot with phase := 2, since := h.clk.realNs } } :=
  if_neg (not_not_intro phase)

theorem selftest_fails (m : Mem) (phase : h.boot.phase = 2) : h.selftest m false = haltedAs h stBuSelftest := by
  rw [Hub.selftest, if_neg (not_not_intro phase)]
  rfl

/-- The hub that enters IDENT with a drawn chain nonce (R394). -/
def Hub.chainDrawn (h : Hub) (m : Mem) : Hub :=
  { h with
    sec := { h.sec with drbg := h.sec.drbg + 32 },
    er := { h.er with chainNonce := (List.range 32).map fun i => Config.drbg (h.sec.drbg + i) },
    boot := { h.boot with phase := 3, since := h.clk.realNs, kept := h.firkinHeld m } }

theorem firkinHeld_drawn (g : Hub) (m : Mem) : (g.draw 32).2.firkinHeld m = g.firkinHeld m := by
  unfold Hub.firkinHeld Hub.draw
  dsimp only

theorem selftest_draws (m : Mem) (phase : h.boot.phase = 2) : h.selftest m true = ((h.nonceDraw .host).nonceDraw .span).chainDrawn m := by
  have entered (g : Hub) (e : List Byte) (k : Bool) :
      Hub.enter { (g.draw 32).2 with er := { g.er with chainNonce := e }, boot := { g.boot with kept := k } } 3 =
        { g with sec := { g.sec with drbg := g.sec.drbg + 32 }, er := { g.er with chainNonce := e },
                 boot := { g.boot with phase := 3, since := g.clk.realNs, kept := k } } := rfl
  rw [Hub.selftest, if_neg (not_not_intro phase), if_neg (by decide)]
  dsimp only
  generalize (h.nonceDraw .host).nonceDraw .span = g
  have same := firkinHeld_drawn g m
  unfold Hub.chainDrawn
  rw [← same]
  exact entered g _ _

theorem padTo_twice (n : Nat) (l : List Byte) : padTo n (padTo n l) = padTo n l := by
  rw [padTo_eq (padTo_length n l).le, padTo_length, Nat.sub_self, zeros, List.replicate_zero, List.append_nil]

/-- The first link of the audit chain (R394). -/
theorem chainSeed_padded (l : List Byte) : chainSeed (padTo 32 l) = sha384 (ascii "CLOIR-AUDIT" ++ padTo 32 l) := by
  rw [chainSeed, padTo_twice]

theorem pufDone_chains (b : List Byte) (phase : h.boot.phase = 3) :
    h.pufDone b = Hub.auditChainStart { h with boot := { h.boot with phase := 4, since := h.clk.realNs, puf := b } } :=
  if_neg (not_not_intro phase)

/-! ## Training -/

/-- A station that answers on a segment both of whose rings trained (R128). -/
theorem trainStn_answers {unt : List Nat} {s : Nat} (good : h.chain.ringBad = 0) (answers : s ∉ unt) :
    h.trainStn unt s = h.updStn s (Stn.train s true true) := by
  have none_ (n : Nat) : bit h.chain.ringBad n = false := by rw [good, bit, Nat.zero_testBit]
  have out : unt.contains s = false := by simpa using answers
  unfold Hub.trainStn
  dsimp only
  rw [none_, none_, out]
  rfl

/-- The hub with the stations of a list compensated for both rings (R128). -/
def Hub.compensated (h : Hub) (l : List Nat) : Hub := l.foldl (fun h s => h.updStn s (Stn.train s true true)) h

theorem compensated_frame (h : Hub) (l : List Nat) : h.compensated l = { h with stn := (h.compensated l).stn } :=
  foldl_updStn_frame (fun s => Stn.train s true true) l h

/-- The stations of a list that answer take their compensation. -/
theorem foldl_trainStn {unt : List Nat} (l : List Nat) (h : Hub) (good : h.chain.ringBad = 0) (answer : ∀ s ∈ l, s ∉ unt) :
    l.foldl (fun h s => h.trainStn unt s) h = h.compensated l := by
  unfold Hub.compensated
  induction l generalizing h with
  | nil => rfl
  | cons s l ih =>
    rw [List.foldl_cons, List.foldl_cons, trainStn_answers good (answer s List.mem_cons_self)]
    exact ih _ good fun y mem => answer y (List.mem_cons_of_mem s mem)

theorem train_both (s : Nat) (t : Stn) :
    Stn.train s true true t = { t with compA := 30 + 2 * stnPos s, compB := 176 - 2 * stnPos s, compDesign := false, compRing := 0 } := by
  unfold Stn.train
  rw [if_pos rfl, if_pos rfl]
  rfl

/-- The stations after the compensation of those in a list. -/
theorem getStn_compensated (l : List Nat) (h : Hub) (x : Nat) :
    (h.compensated l).getStn x = if x ∈ l then
      { h.getStn x with compA := 30 + 2 * stnPos x, compB := 176 - 2 * stnPos x, compDesign := false, compRing := 0 } else h.getStn x := by
  rw [← train_both]
  exact foldl_updStn (f := fun s => Stn.train s true true) (fun _ _ => rfl) l h x

/-- The hub with a station bypassed that did not answer, and record 0x0702 (Table 03.1). -/
def Hub.untrained (h : Hub) (s : Nat) : Hub :=
  { h.updLink s (fun l => { l with bypass := .untrained, next := .untrained }) with
    er := { h.er with sysq := h.er.sysq ++ [{ h.evt 7 0x0702 with unit := s * 8, aux := Bypass.untrained.code }] } }

/-- A station that does not answer is bypassed, with record 0x0702 (Table 03.1). -/
theorem trainStn_bypasses {unt : List Nat} {s : Nat} (good : h.chain.ringBad = 0) (silent : s ∈ unt) (idle : h.cnt.cur = none)
    (room : h.er.sysq.length < 32) :
    h.trainStn unt s = h.untrained s := by
  have none_ (n : Nat) : bit h.chain.ringBad n = false := by rw [good, bit, Nat.zero_testBit]
  have in_ : unt.contains s = true := by simpa using silent
  unfold Hub.trainStn
  dsimp only
  rw [none_, none_, in_]
  refine Eq.trans (b := h.bypassStn s .untrained) rfl ?_
  rw [Hub.bypassStn, record_sysq (h.updLink s _) _ rfl (show (7 : Nat) ≠ 8 by decide) rfl room, Hub.sampleBypass]
  dsimp only
  rw [show (h.updLink s fun l => { l with bypass := .untrained, next := .untrained }).cnt.cur = none from idle]
  rfl

/-- AWAIT is entered with the endpoint up (Table 03.1). -/
def Hub.awaits (h : Hub) : Hub :=
  withAttn { h with boot := { h.boot with phase := 5, since := h.clk.realNs, domains := h.boot.domains ||| 2 ^ 25, endpoint := true } } 0

theorem awaits_eq (g : Hub) :
    (Hub.enter { g with boot := { g.boot with domains := g.boot.domains ||| 2 ^ 25, endpoint := true } } 5).attnSet 0 = g.awaits := rfl

theorem trained_lives (unt : List Nat) (phase : h.boot.phase = 4) :
    h.trained unt [] = (allStations.foldl (fun h s => h.trainStn unt s) h).awaits := by
  have some_ : ¬ ((List.range 32).all ([] : List Nat).contains) = true := by decide
  have none_ : (List.range 32).filter ([] : List Nat).contains = [] := by decide
  rw [Hub.trained, if_neg (not_not_intro phase), if_neg some_, none_]
  exact awaits_eq _

theorem trained_answered (phase : h.boot.phase = 4) (good : h.chain.ringBad = 0) :
    h.trained [] [] = (h.compensated allStations).awaits := by
  rw [trained_lives [] phase, foldl_trainStn allStations h good fun _ _ => List.not_mem_nil]

theorem trained_bypasses {x : Nat} {a b : List Nat} (phase : h.boot.phase = 4) (good : h.chain.ringBad = 0) (idle : h.cnt.cur = none)
    (room : h.er.sysq.length < 32) (whole : allStations = a ++ x :: b) (before : ∀ y ∈ a, y ≠ x) (after : ∀ y ∈ b, y ≠ x) :
    h.trained [x] [] = (((h.compensated a).untrained x).compensated b).awaits := by
  have frame := compensated_frame h a
  have first : (h.compensated a).trainStn [x] x = (h.compensated a).untrained x :=
    trainStn_bypasses (by rw [frame]; exact good) (by simp) (by rw [frame]; exact idle) (by rw [frame]; exact room)
  rw [trained_lives [x] phase, whole, List.foldl_append, List.foldl_cons,
    foldl_trainStn a h good fun y mem => by simpa using before y mem, first,
    foldl_trainStn b _ (by rw [frame]; exact good) fun y mem => by simpa using after y mem]

theorem trained_halts (phase : h.boot.phase = 4) : h.trained [] (List.range 32) = haltedAs h stBuChain := by
  have all : ((List.range 32).all (List.range 32).contains) = true := by decide
  rw [Hub.trained, if_neg (not_not_intro phase), if_pos all]
  rfl

/-! ## FWSTART to RUNNING -/

/-- The hub with the timebase started and the watchdog's count cleared (R63, R125, R305). -/
def Hub.starts (h : Hub) : Hub := h.timebaseStart.kick

/-- The hub that enters HBM training after HUB_FW_READY, before the load's writes (Table 03.1). -/
def Hub.readies (h : Hub) : Hub :=
  { h.starts with
    boot := { h.boot with phase := 8, since := h.clk.realNs },
    chain := { h.chain with queue := h.chain.queue ++ [{ owner := .bringup, scope := 0, target := 0 }] } }

theorem regWrite_fwReady (g : Hub) (mem : Mem) : g.regWrite mem .pair (.acting false .hubFwReady 0x98 .glob .pair) (2 ^ 31) = g.fwReady := rfl

theorem fwReady_boot (runs : h.boot.pairRunning = true) (phase : h.boot.phase = 7) (other : h.rst.st ≠ 1) :
    h.fwReady = h.readies.applyWrites h.boot.writes := by
  have boots : h.fwReady = h.readyBoot := by
    unfold Hub.fwReady
    rw [runs]
    dsimp only
    rw [if_neg (by decide), if_pos phase, if_neg other]
  have kept := applyWrites_backstage h.starts h.boot.writes
  rw [boots]
  refine Eq.trans (b := Hub.enter (Hub.commitAdd (h.starts.applyWrites h.boot.writes) .bringup 0 0) 8) rfl ?_
  refine Eq.trans ?_ (applyWrites_staged h.starts h.readies.backstage h.boot.writes).symm
  generalize h.starts.applyWrites h.boot.writes = g at kept ⊢
  obtain ⟨ldr, keys, phase, since, queue, out, ns, resp⟩ := Backstage.mk.inj kept
  unfold Hub.enter Hub.commitAdd Hub.ownerStat Hub.staged Hub.backstage
  rw [show h.readies.ldr = g.ldr from ldr.symm, show h.readies.slc.keys = g.slc.keys from keys.symm, show h.readies.out = g.out from out.symm,
    show h.readies.clk.realNs = g.clk.realNs from ns.symm, show h.readies.boot.since = g.clk.realNs from ns.symm,
    show h.readies.resp = g.resp from resp.symm,
    show h.readies.chain.queue = g.chain.queue ++ [{ owner := .bringup, scope := 0, target := 0 }] from
      congrArg (fun q : List Commit => q ++ [{ owner := .bringup, scope := 0, target := 0 }]) queue.symm]
  rfl

/-- A write list of one word for the trace policy of slice 0 (R105, R190). -/
theorem applyWrites_policy (g : Hub) {w : Nat} (low : w < 2 ^ 32) :
    g.applyWrites [(0x81000, w)] = g.rwsUpd 0 0x81000 fun r => r.write (w &&& 0x783fe) := by
  have one : g.applyWrites [(0x81000, w)] = g.loaderWrite 0x81000 w := by rw [Hub.applyWrites, List.foldl_cons, List.foldl_nil]
  rw [one, Hub.loaderWrite, locate_spolZero]
  refine Eq.trans (b := g.rwsUpd 0 0x81000 fun r => r.write (w % 2 ^ 32 &&& 0x783fe)) rfl ?_
  rw [Nat.mod_eq_of_lt low]

theorem readyTimeout_awaits (phase : h.boot.phase = 7) (past : h.boot.since + 100000000 ≤ h.clk.realNs) :
    h.readyTimeout = withAttn { h with boot := { h.boot with
      phase := 5, since := h.clk.realNs, status := stTimeout, section_ := 0, imemValid := false, pairRunning := false } } 0 :=
  if_pos ⟨phase, past⟩

theorem hbmTrained_all (phase : h.boot.phase = 9) :
    h.hbmTrained [] = { h.hbmWrite h.boot.tunBase h.tunHeaderBytes with
      boot := { h.boot with phase := 10, since := h.clk.realNs, failedCh := [], tunHeader := true } } := by
  have none_ : (List.range 96).filter ([] : List Nat).contains = [] := by decide
  rw [Hub.hbmTrained, if_neg (not_not_intro phase), none_]
  rfl

theorem hbmTrained_halts {c : Nat} (phase : h.boot.phase = 9) (low : c < 96) (holds : tunChannel h.boot.tunBase h.boot.tunSize c = true) :
    h.hbmTrained [c] = haltedAs h stBuHbm := by
  have bad : ((List.range 96).filter [c].contains).any (tunChannel h.boot.tunBase h.boot.tunSize) = true :=
    List.any_eq_true.mpr ⟨c, List.mem_filter.mpr ⟨List.mem_range.mpr low, by simp⟩, holds⟩
  rw [Hub.hbmTrained, if_neg (not_not_intro phase)]
  exact if_pos bad

theorem tunHeaderBytes_length : h.tunHeaderBytes.length = 128 := padTo_length _ _

/-- The hub with slice 0 ACTIVE under the policy of the load (R454). -/
def Hub.sliceZero (h : Hub) : Hub :=
  (h.updSlice 0 fun _ => { st := .active, pasid := 0, created := h.now }).updKeys 0 fun k => { section_ := k.section_, policyEpoch := h.clk.epoch }

theorem sliceZero_parts (h : Hub) :
    h.sliceZero.getSlice 0 = { st := .active, pasid := 0, created := h.now } ∧ (∀ k, k ≠ 0 → h.sliceZero.getSlice k = h.getSlice k) ∧
      onlyKeys 0 { section_ := (h.getKeys 0).section_, policyEpoch := h.clk.epoch } h h.sliceZero :=
  ⟨Hub.getSlice_updSlice h 0 fun _ => { st := .active, pasid := 0, created := h.now },
    fun _ other => Hub.getSlice_updSlice_ne h (fun _ => { st := .active, pasid := 0, created := h.now }) other,
    Hub.getKeys_updKeys h 0 fun k => { section_ := k.section_, policyEpoch := h.clk.epoch },
    fun _ other => Hub.getKeys_updKeys_ne h (fun k => { section_ := k.section_, policyEpoch := h.clk.epoch }) other⟩

theorem sliceNew_zero (unheld : (h.getKeys 0).heldValid = false) (on : h.classOn 3 = true) (room : h.er.sysq.length < 32) :
    h.sliceNew 0 0 0 = { h.sliceZero with er := { h.er with sysq := h.er.sysq ++ [{ h.evt 3 0x0310 with slice := 0 }] } } := by
  have plain : h.sliceNew 0 0 0 = h.sliceZero.record { h.sliceZero.evt 3 0x0310 with slice := 0, origin := 0, aux := b2n (h.getKeys 0).heldValid, arg := 0 } := by
    unfold Hub.sliceNew Hub.genZero
    dsimp only
    rw [unheld]
    rfl
  have noted := record_sysq h.sliceZero { h.sliceZero.evt 3 0x0310 with slice := 0, origin := 0, aux := b2n (h.getKeys 0).heldValid, arg := 0 } on
    (show (3 : Nat) ≠ 8 by decide) rfl room
  rw [plain, noted, unheld]
  rfl

/-- The hub with every domain and unit released (Table 03.1). -/
def Hub.tilesFree (h : Hub) : Hub := { h with boot := { h.boot with domains := h.boot.domains ||| (2 ^ 20 - 1 + 2 ^ 24), units := true } }

theorem tilesUp_runs (phase : h.boot.phase = 10) (unheld : (h.getKeys 0).heldValid = false) (on : h.classOn 3 = true) (room : h.er.sysq.length < 32) :
    h.tilesUp = withAttn (({ h.tilesFree.sliceZero with
      boot := { h.tilesFree.boot with phase := 11, since := h.clk.realNs },
      er := { h.er with sysq := h.er.sysq ++ [{ h.evt 3 0x0310 with slice := 0 }] } } : Hub).irqRaise 0) 2 := by
  have slice : h.tilesFree.sliceNew 0 0 0 = { h.tilesFree.sliceZero with er := { h.er with sysq := h.er.sysq ++ [{ h.evt 3 0x0310 with slice := 0 }] } } :=
    sliceNew_zero (h := h.tilesFree) unheld on room
  rw [Hub.tilesUp, if_neg (not_not_intro phase)]
  refine Eq.trans (b := (((h.tilesFree.sliceNew 0 0 0).enter 11).irqRaise 0).attnSet 2) rfl ?_
  rw [slice]
  rfl

/-! ## The Firkin -/

theorem regWrite_firkinKeep (g : Hub) (mem : Mem) (m : Master) :
    g.regWrite mem m (.acting false .hubFirkinKeep 0xA4 .any .keep) (2 ^ 31) = g.firkinRelease mem m (2 ^ 31) := by
  unfold Hub.regWrite Loc.acting
  dsimp only
  rw [if_pos (by decide)]
  unfold Hub.hubWrite
  dsimp only

theorem firkinHeld_placed (h : Hub) (t : SMap Nat) (r : Er) (m : Mem) : Hub.firkinHeld { h.placed t with er := r } m = h.firkinHeld m := by
  unfold Hub.firkinHeld Hub.placed
  dsimp only

theorem firkinRelease_releases (mem : Mem) (m : Master) (held : h.firkinHeld mem = true) :
    h.firkinRelease mem m (2 ^ 31) = { h.firkinWrite 6 [3, 0] with
      boot := { h.boot with kept := false }, er := h.er.audit { h.auditBy m 0x0808 with arg := leAt (mem.firkinRead 0xC 4) 0 4 } } := by
  have two : leBytes 2 3 = [3, 0] := by decide
  rw [Hub.firkinRelease, held, two]
  refine Eq.trans (b := Hub.record { h.firkinWrite 6 [3, 0] with boot := { h.boot with kept := false } }
    { h.auditBy m 0x0808 with arg := leAt (mem.firkinRead 0xC 4) 0 4 }) rfl ?_
  rw [record_audit _ _ rfl]
  rfl

/-- HBM after a write of 128 bytes: the header of the Tun (R322). -/
theorem apply_header (m : Mem) (a : Nat) {b : List Byte} (len : b.length = 128) :
    (∀ i : Nat, i < 128 → a + i < hbmSize → SMap.get (0 : Byte) (m.apply [⟨1, a, b⟩]).hbm (a + i) = b.getD i 0) ∧
      ∀ x : Nat, x < a ∨ a + 128 ≤ x → SMap.get (0 : Byte) (m.apply [⟨1, a, b⟩]).hbm x = SMap.get (0 : Byte) m.hbm x := by
  rw [Mem.apply_hbm]
  exact ⟨fun i low fits => get_writeBytes_in hbmSize m.hbm b (by rw [len]; exact low) fits,
    fun x out => get_writeBytes_out hbmSize m.hbm b (by rw [len]; exact out)⟩

/-- The memories after the core's state has been set to 3 (R123, R333). -/
def Mem.coreReleased (m : Mem) : Mem := m.apply [⟨0, 6, [3, 0]⟩]

theorem coreReleased_firkin (m : Mem) :
    SMap.get (0 : Byte) m.coreReleased.firkin 6 = 3 ∧ SMap.get (0 : Byte) m.coreReleased.firkin 7 = 0 ∧
      ∀ a, a ≠ 6 → a ≠ 7 → SMap.get (0 : Byte) m.coreReleased.firkin a = SMap.get (0 : Byte) m.firkin a := by
  have bytes : m.coreReleased.firkin = writeBytes firkinSize m.firkin 6 [3, 0] := rfl
  rw [bytes]
  exact ⟨get_writeBytes_in firkinSize m.firkin (a := 6) [3, 0] (i := 0) (by decide) (by decide),
    get_writeBytes_in firkinSize m.firkin (a := 6) [3, 0] (i := 1) (by decide) (by decide),
    fun a six seven => get_writeBytes_out firkinSize m.firkin [3, 0] (show a < 6 ∨ 6 + 2 ≤ a by omega)⟩

end Phases

/-! ## The obligation -/

theorem getSecM_nonceDraw (h : Hub) (m : Master) :
    (h.nonceDraw m).getSecM m = { h.getSecM m with nonce := (List.range 16).map fun i => Config.drbg (h.sec.drbg + i) } := by
  unfold Hub.nonceDraw
  dsimp only
  rw [Hub.getSecM_updSecM]
  rfl

theorem getSecM_nonceDraw_ne (h : Hub) {m x : Master} (other : x ≠ m) : (h.nonceDraw m).getSecM x = h.getSecM x := by
  unfold Hub.nonceDraw
  dsimp only
  rw [Hub.getSecM_updSecM_ne _ _ other]
  rfl

theorem getSecM_nonces (h : Hub) (m : Mem) :
    (((h.nonceDraw .host).nonceDraw .span).chainDrawn m).getSecM .host =
        { h.getSecM .host with nonce := (List.range 16).map fun i => Config.drbg (h.sec.drbg + i) } ∧
      (((h.nonceDraw .host).nonceDraw .span).chainDrawn m).getSecM .span =
        { h.getSecM .span with nonce := (List.range 16).map fun i => Config.drbg (h.sec.drbg + 16 + i) } ∧
      ∀ x : Master, x ≠ .host → x ≠ .span → (((h.nonceDraw .host).nonceDraw .span).chainDrawn m).getSecM x = h.getSecM x := by
  have drawn (g : Hub) (x : Master) : (g.chainDrawn m).getSecM x = g.getSecM x := rfl
  simp only [drawn]
  refine ⟨?_, ?_, fun x host span => ?_⟩
  · rw [getSecM_nonceDraw_ne _ (by decide), getSecM_nonceDraw]
  · rw [getSecM_nonceDraw, getSecM_nonceDraw_ne _ (by decide)]
    rfl
  · rw [getSecM_nonceDraw_ne _ span, getSecM_nonceDraw_ne _ host]

theorem haltedAs_lands (s : State) (t : SMap Nat) (status : Nat) :
    lands s (haltedAs (s.hub.placed t) status) = { s with hub := haltedAs (s.hub.placed t) status } := by
  have out : (haltedAs (s.hub.placed t) status).out = [] := by
    unfold haltedAs
    dsimp only
    split <;> rfl
  exact lands_of_out s out rfl

/-- The hub after the training of the stations of a list, all of which answer (R128). -/
theorem compensated_lands (s : State) (t : SMap Nat) {l : List Nat} (all : ∀ x, x ∈ l ↔ x < 1184) {u : State}
    (e : u = lands s ((s.hub.placed t).compensated l).awaits) :
    (∀ x : Nat, x < 1184 → u.hub.getStn x =
        { s.hub.getStn x with compA := 30 + 2 * stnPos x, compB := 176 - 2 * stnPos x, compDesign := false, compRing := 0 }) ∧
      (∀ x : Nat, 1184 ≤ x → u.hub.getStn x = s.hub.getStn x) ∧
      u = { s with hub := withAttn { s.hub.placed t with
        stn := u.hub.stn,
        boot := { s.hub.boot with phase := 5, since := s.hub.clk.realNs, domains := s.hub.boot.domains ||| 2 ^ 25, endpoint := true } } 0 } := by
  subst e
  have stn (x : Nat) := getStn_compensated l (s.hub.placed t) x
  refine ⟨fun x low => (stn x).trans (if_pos ((all x).mpr low)), fun x high => (stn x).trans (if_neg fun c => ?_), ?_⟩
  · exact absurd ((all x).mp c) (Nat.not_lt.mpr high)
  · rw [compensated_frame]
    rfl

/-- The hub after the training of the stations of two lists, between which one did not answer (Table 03.1). -/
theorem untrained_lands (s : State) (t : SMap Nat) {x : Nat} {a b : List Nat} (all : ∀ y, y < 1184 ∧ y ≠ x ↔ y ∈ a ∨ y ∈ b) {u : State}
    (e : u = lands s ((((s.hub.placed t).compensated a).untrained x).compensated b).awaits) :
    u.hub.getLink x = { s.hub.getLink x with bypass := .untrained, next := .untrained } ∧ (∀ y : Nat, y ≠ x → u.hub.getLink y = s.hub.getLink y) ∧
      u.hub.getStn x = s.hub.getStn x ∧
      (∀ y : Nat, y < 1184 → y ≠ x → u.hub.getStn y =
        { s.hub.getStn y with compA := 30 + 2 * stnPos y, compB := 176 - 2 * stnPos y, compDesign := false, compRing := 0 }) ∧
      (∀ y : Nat, 1184 ≤ y → u.hub.getStn y = s.hub.getStn y) ∧
      u = { s with hub := withAttn { s.hub.placed t with
        stn := u.hub.stn, chain := { s.hub.chain with link := u.hub.chain.link },
        er := { s.hub.er with sysq := s.hub.er.sysq ++ [{ s.hub.evt 7 0x0702 with unit := x * 8, aux := Bypass.untrained.code }] },
        boot := { s.hub.boot with phase := 5, since := s.hub.clk.realNs, domains := s.hub.boot.domains ||| 2 ^ 25, endpoint := true } } 0 } := by
  have second (y : Nat) := getStn_compensated b (((s.hub.placed t).compensated a).untrained x) y
  have first (y : Nat) : (((s.hub.placed t).compensated a).untrained x).getStn y = _ := getStn_compensated a (s.hub.placed t) y
  have plain (y : Nat) (out : ¬ (y < 1184 ∧ y ≠ x)) : u.hub.getStn y = s.hub.getStn y := by
    obtain ⟨notA, notB⟩ := not_or.mp fun c => out ((all y).mpr c)
    rw [e]
    exact (second y).trans ((if_neg notB).trans ((first y).trans (if_neg notA)))
  have comp (y : Nat) (low : y < 1184) (other : y ≠ x) : u.hub.getStn y =
      { s.hub.getStn y with compA := 30 + 2 * stnPos y, compB := 176 - 2 * stnPos y, compDesign := false, compRing := 0 } := by
    rw [e]
    refine (second y).trans ?_
    rw [first]
    by_cases inA : y ∈ a
    · rw [if_pos inA]
      exact ite_self _
    · rw [if_neg inA]
      exact if_pos (((all y).mp ⟨low, other⟩).resolve_left inA)
  refine ⟨?_, fun y other => ?_, plain x fun c => c.2 rfl, comp, fun y high => plain y fun c => absurd c.1 (Nat.not_lt.mpr high), ?_⟩
  · rw [e, compensated_frame _ b, compensated_frame _ a]
    exact Hub.getLink_updLink ..
  · rw [e, compensated_frame _ b, compensated_frame _ a]
    exact Hub.getLink_updLink_ne _ _ other
  · rw [e, compensated_frame _ b, compensated_frame _ a]
    rfl

/-- HUB_FW_READY in FWSTART, as the pair's write leaves the hub (Table 03.1). -/
theorem readies_lands (s : State) (t : SMap Nat) (e : Er) :
    lands s (((Hub.readies { s.hub.placed t with er := e }).applyWrites s.hub.boot.writes).respond .pair 0 false) =
      { s with hub := { (Hub.readies { s.hub.placed t with er := e }).applyWrites s.hub.boot.writes with resp := answered s.hub .pair } } := by
  have kept := applyWrites_backstage (Hub.readies { s.hub.placed t with er := e }) s.hub.boot.writes
  generalize (Hub.readies { s.hub.placed t with er := e }).applyWrites s.hub.boot.writes = g at kept ⊢
  refine lands_of_out s (show g.out = [] from congrArg Backstage.out kept) ?_
  rw [Hub.respond, show g.resp = s.hub.resp from congrArg Backstage.resp kept]
  rfl

theorem releases_lands (s : State) (t : SMap Nat) (m : Master) (e : Er) :
    lands s (Hub.respond { Hub.firkinWrite { s.hub.placed t with er := e } 6 [3, 0] with
        boot := { s.hub.boot with kept := false }, er := e.audit { s.hub.auditBy m 0x0808 with arg := leAt (s.mem.firkinRead 0xC 4) 0 4 } } m 0 false) =
      lands s { (s.hub.placed t).firkinWrite 6 [3, 0] with
        boot := { s.hub.boot with kept := false }, resp := answered s.hub m,
        er := e.audit { s.hub.auditBy m 0x0808 with arg := leAt (s.mem.firkinRead 0xC 4) 0 4 } } := rfl

/-- Settles O41: the events of the phases from CLOCK to RUNNING, the halts, and the release of the Firkin's core. -/
theorem bringUp : Obligations.BringUp := by
  refine fun s live => ⟨fun phase => ?_, fun phase past => ?_, fun phase => ?_, fun phase => ?_, fun b phase => ?_, fun phase good => ?_,
    fun x phase good low idle room => ?_, fun phase => ?_, fun phase runs other => ?_, fun phase past => ?_, fun phase => ?_, fun c phase low holds => ?_,
    fun phase unheld on room => ?_, fun m reach right held => ?_⟩
  · exact yields_of_eq rfl live (fun t => pllLock_enters (h := s.hub.placed t) phase) fun t => rfl
  · exact yields_of_eq rfl live (fun t => if_pos ⟨phase, past⟩) fun t => haltedAs_lands s t _
  · refine yields_of_eq rfl live (fun t => selftest_draws (h := s.hub.placed t) s.mem phase) fun t => ?_
    obtain ⟨host, span, rest⟩ := getSecM_nonces (s.hub.placed t) s.mem
    exact ⟨rfl, host, span, rest, rfl⟩
  · exact yields_of_eq rfl live (fun t => selftest_fails (h := s.hub.placed t) s.mem phase) fun t => haltedAs_lands s t _
  · exact yields_of_eq rfl live (fun t => pufDone_chains (h := s.hub.placed t) b phase) fun t => by
      rw [Hub.auditChainStart, chainSeed_padded]
      rfl
  · refine yields_of_eq rfl live (fun t => trained_answered (h := s.hub.placed t) phase good) fun t => ?_
    exact compensated_lands s t (fun _ => List.mem_range) rfl
  · obtain ⟨a, b, whole, before, after⟩ := range_split low
    have all (y : Nat) : y < 1184 ∧ y ≠ x ↔ y ∈ a ∨ y ∈ b := by
      refine ⟨fun ⟨small, other⟩ => ?_, fun mem => mem.elim (before y) (after y)⟩
      have mem : y ∈ a ++ x :: b := whole ▸ List.mem_range.mpr small
      simpa [other] using mem
    exact yields_of_eq rfl live (fun t => trained_bypasses (h := s.hub.placed t) phase good idle room whole (fun y mem => (before y mem).2)
      fun y mem => (after y mem).2) fun t => untrained_lands s t all rfl
  · exact yields_of_eq rfl live (fun t => trained_halts (h := s.hub.placed t) phase) fun t => haltedAs_lands s t _
  · refine yields_act rfl live runs locate_hubFwReady rfl (by decide) rfl (by decide) rfl
      (fun t r => (regWrite_fwReady _ _).trans (fwReady_boot (h := { s.hub.placed t with er := r }) runs phase other)) fun t => ⟨fun w low one => ?_, ?_⟩
    · have policy := applyWrites_policy (Hub.readies { s.hub.placed t with er := roleEr s.hub .pair 0x98 (2 ^ 31) }) low
      have whole := congrArg (fun ws => (Hub.readies { s.hub.placed t with er := roleEr s.hub .pair 0x98 (2 ^ 31) }).applyWrites ws) one
      have here (d k : Nat) := congrArg (fun g : Hub => g.rwsGet d k) (whole.trans policy)
      exact ⟨(here 0 0x81000).trans (Hub.rwsGet_rwsUpd ..), fun d k other => (here d k).trans (Hub.rwsGet_rwsUpd_ne _ _ _ _ _ _ other)⟩
    · exact readies_lands s t _
  · exact yields_of_eq rfl live (fun t => readyTimeout_awaits (h := s.hub.placed t) phase past) fun t => rfl
  · refine yields_of_eq rfl live (fun t => hbmTrained_all (h := s.hub.placed t) phase) fun t => ?_
    obtain ⟨inside, outside⟩ := apply_header s.mem s.hub.boot.tunBase (tunHeaderBytes_length (h := s.hub.placed t))
    exact ⟨inside, outside, rfl⟩
  · exact yields_of_eq rfl live (fun t => hbmTrained_halts (h := s.hub.placed t) phase low holds) fun t => haltedAs_lands s t _
  · refine yields_of_eq rfl live (fun t => tilesUp_runs (h := s.hub.placed t) phase unheld on room) fun t => ?_
    obtain ⟨active, slices, keys⟩ := sliceZero_parts (s.hub.placed t).tilesFree
    exact ⟨active, slices, keys, rfl⟩
  · refine yields_act rfl live reach locate_hubFirkinKeep rfl (by decide) rfl (by decide) ?_
      (fun t r => (regWrite_firkinKeep _ _ m).trans (firkinRelease_releases s.mem m ((firkinHeld_placed s.hub t r s.mem).trans held))) fun t => ?_
    · rcases right with e | e | e <;> simp [Hub.mayWrite, Loc.acting, e]
    · obtain ⟨state, zero, others⟩ := coreReleased_firkin s.mem
      exact ⟨state, zero, others, releases_lands s t m _⟩

end Sys2Proof.Machine
end

section
/-!
O42: the warm restart, its causes, image and timeout, lockstep mismatches and the watchdog (R52, R112 to R116, R305, R306, Table 03.11).
-/
namespace Sys2Proof.Machine

theorem locate_hubRestart : locate 0x90 = some (.acting false .hubRestart 0x90 .glob .restart) := by decide +kernel
theorem locate_hubWdogKick : locate 0x9C = some (.acting false .hubWdogKick 0x9C .glob .pair) := by decide +kernel

/-! ## The stop of the pair -/

section Stop

variable (h : Hub)

/-- What a record request that does not depend on the switches of classes leaves of the recorder and its counts: it reads nothing else. -/
theorem record_always {g h : Hub} {r : Req} (cls : r.cls = 7) (plain : r.trigger = none) (er : g.er = h.er) (rc : g.rc = h.rc) (clk : g.clk = h.clk) :
    (g.record r).er = (h.record r).er ∧ (g.record r).rc = (h.record r).rc ∧ g.record r = { g with er := (g.record r).er, rc := (g.record r).rc } := by
  have on (k : Hub) : k.classOn r.cls = true := by rw [cls]; rfl
  have now : g.now = h.now := congrArg Clk.tick clk
  have each (k : Hub) : k.record r = if k.er.sysq.length < 32 then { k with er := { k.er with sysq := k.er.sysq ++ [r] } }
      else ({ k with er := k.er.coalesce k.now r }).rcAdd 0x60014 0 0 (2 ^ 32 - 1) 1 := by
    unfold Hub.record
    rw [on, cls, plain]
    rfl
  rw [each g, each h, er, now]
  by_cases room : h.er.sysq.length < 32
  · rw [if_pos room, if_pos room]
    exact ⟨rfl, rc, rfl⟩
  · rw [if_neg room, if_neg room, rcAdd_frame { g with er := h.er.coalesce h.now r }, rcAdd_frame { h with er := h.er.coalesce h.now r }]
    unfold Hub.rcAdd
    dsimp only
    rw [if_neg (by decide), if_neg (by decide), rc]
    exact ⟨rfl, rfl, rfl⟩

theorem mbx_stops (x : Mbx) : x.stop = if x.busy = true then { x with busy := false, forming := none, sub := [], status := stBusy } else x := rfl

theorem query_stops (x : Query) : x.stop = if x.busy = true then { x with busy := false, status := stBusy } else x := rfl

/-- A stop takes every mailbox message and query in progress (Table 03.13). -/
theorem stopped_queries : stopped h h.queriesBusy := by
  refine ⟨fun x => ?_, fun x => ?_⟩
  · rw [← mbx_stops]
    cases x <;> simp [Hub.queriesBusy, Hub.queryBusy, Hub.getMbx, Master.idx, SMap.get_upd_ne]
  · rw [← query_stops]
    cases x <;> simp [Hub.queriesBusy, Hub.queryBusy, Hub.getQuery, Master.idx, SMap.get_upd_ne]

theorem stopped_of {h g k : Hub} (mbx : h.mbx = k.mbx) (q : h.tlm.q = k.tlm.q) (mbx' : g.mbx = k.queriesBusy.mbx)
    (q' : g.tlm.q = k.queriesBusy.tlm.q) : stopped h g := by
  unfold stopped Hub.getMbx Hub.getQuery
  rw [mbx, q, mbx', q']
  exact stopped_queries k

theorem dumpStop_idle (idle : h.dmp.st = .idle) : h.dumpStop = h := by
  unfold Hub.dumpStop
  rw [idle]

/-- The pair's Chain window as its stop leaves it (Table 03.13). -/
def Hub.pairWins (h : Hub) : SMap Window :=
  if (h.getWin .pair).held = true then SMap.upd {} h.chain.win Master.pair.idx fun w => { w with held := false, copy := [], status := stOk } else h.chain.win

/-- The RC fields as the stop of the pair leaves them. -/
def Hub.pairRc (h : Hub) : SMap RcCell := if (h.getWin .pair).held = true then (h.rcZero 0x44 Master.pair.idx 30).rc else h.rc

theorem pairWindow_ends :
    (if (h.getWin .pair).held = true then h.winDrop .pair stOk else h) = { h with rc := h.pairRc, chain := { h.chain with win := h.pairWins } } := by
  unfold Hub.pairRc Hub.pairWins
  by_cases held : (h.getWin .pair).held = true
  · rw [if_pos held, if_pos held, if_pos held, winDrop_eq, Hub.endedRc, if_pos held]
    rfl
  · rw [if_neg held, if_neg held, if_neg held]

/-- The hub after the stop of the pair while no dump runs (Table 03.13). -/
def Hub.pairStopped (h : Hub) : Hub :=
  { h with
    boot := { h.boot with pairRunning := false, dmem := [] }, latch := SMap.set 0 h.latch 0 0, stageLo := SMap.set 0 h.stageLo 0 0, rc := h.pairRc,
    chain := { h.chain with win := h.pairWins }, hang := h.hangDrop.hang, mbx := h.queriesBusy.mbx, tlm := { h.tlm with q := h.queriesBusy.tlm.q } }

theorem pairStop_eq (idle : h.dmp.st = .idle) : h.pairStop = h.pairStopped := by
  unfold Hub.pairStop
  dsimp only
  refine (congrArg (fun g : Hub => g.hangDrop.queriesBusy.dumpStop) (pairWindow_ends _)).trans ((dumpStop_idle _ ?_).trans ?_)
  · exact idle
  · rfl

theorem pairRc_er (e : Er) : Hub.pairRc { h with er := e } = (if (h.getWin .pair).held = true then h.rcZero 0x44 Master.pair.idx 30 else h).rc := by
  refine Eq.trans (b := h.pairRc) rfl ?_
  unfold Hub.pairRc
  split <;> rfl

/-- A restart from RUN (Table 03.13). -/
theorem restartRun_eq (e : Er) (cause : Nat) (m : Option Master) (idle : h.dmp.st = .idle) :
    Hub.restartRun { h with er := e } cause m = restarted h h.queriesBusy e cause (if cause = 1 then 2 else 1) (if cause = 2 then 1 else 0)
      (if cause = 1 then m else none) := by
  have noted := record_always (g := Hub.pairStopped { h with er := e }) (h := { (if (h.getWin .pair).held = true then h.rcZero 0x44 Master.pair.idx 30 else h) with er := e })
    (r := { h.evt 7 0x0706 with aux := cause, arg := h.now }) rfl rfl rfl (pairRc_er h e) (by split <;> rfl)
  obtain ⟨er, rc, frame⟩ := noted
  rw [Hub.restartRun, pairStop_eq { h with er := e } idle]
  refine Eq.trans (b := (Hub.record (Hub.pairStopped { h with er := e }) { h.evt 7 0x0706 with aux := cause, arg := h.now }).restartSet cause m) rfl ?_
  rw [frame, er, rc]
  rfl

/-- A restart from RUN, by its cause (Table 03.11). -/
theorem restart_runs (e : Er) (cause : Nat) (m : Option Master) (phase : 7 ≤ h.boot.phase) (rest : h.rst.st = 0) (idle : h.dmp.st = .idle) :
    Hub.restart { h with er := e } cause m = restarted h h.queriesBusy e cause (if cause = 1 then 2 else 1) (if cause = 2 then 1 else 0)
      (if cause = 1 then m else none) := by
  rw [Hub.restart, if_neg (Nat.not_lt.mpr phase), if_pos rest, restartRun_eq h e cause m idle]

end Stop

/-! ## Requests -/

section Requests

variable (h : Hub) (m : Master)

theorem regWrite_restart (mem : Mem) (v : Nat) : h.regWrite mem m (.acting false .hubRestart 0x90 .glob .restart) v = h.restartWrite m v := by
  unfold Hub.regWrite Loc.acting
  dsimp only
  rw [if_pos (by decide)]
  unfold Hub.hubWrite
  dsimp only

theorem regWrite_wdogKick (mem : Mem) : h.regWrite mem .pair (.acting false .hubWdogKick 0x9C .glob .pair) (2 ^ 31) = h.kick := rfl

/-- A restart on request from RUN (R116). -/
theorem restartWrite_runs (r : Er) {v c : Nat} (go : bit v 31 = true) (free : (m != .pair && h.restartBusy) = false)
    (cause : (if m = .pair then 4 else b2n (bit v 30)) = c) (phase : 7 ≤ h.boot.phase) (rest : h.rst.st = 0) (idle : h.dmp.st = .idle) :
    Hub.restartWrite { h with er := r } m v =
      restarted h h.queriesBusy (r.audit { h.auditBy m 0x0806 with aux := b2n (bit v 30) }) c (if c = 1 then 2 else 1) (if c = 2 then 1 else 0)
        (if c = 1 then some m else none) := by
  have free' : (m != .pair && Hub.restartBusy { h with er := r }) = false := free
  unfold Hub.restartWrite
  rw [go]
  dsimp only
  rw [free', if_neg (by decide), if_neg (by decide), record_audit _ _ rfl, cause]
  exact restart_runs h (r.audit { h.auditBy m 0x0806 with aux := b2n (bit v 30), status := stOk }) c (some m) phase rest idle

theorem restartWrite_busy {v : Nat} (r : Er) (go : bit v 31 = true) (port : m ≠ .pair) (rest : h.rst.st = 1) :
    Hub.restartWrite { h with er := r } m v = { h with
      rst := { h.rst with status := stBusy }, er := r.audit { h.auditBy m 0x0806 with aux := b2n (bit v 30), status := stBusy } } := by
  have busy : (m != .pair && Hub.restartBusy { h with er := r }) = true := by
    simp [Hub.restartBusy, rest, port]
  unfold Hub.restartWrite
  rw [go]
  dsimp only
  rw [busy, if_neg (by decide), if_pos rfl, record_audit _ _ rfl]
  rfl

theorem restartBusy_free (phase : h.boot.phase = 11) (idle : h.loading = false) (rest : h.rst.st = 0) : h.restartBusy = false := by
  simp [Hub.restartBusy, phase, idle, rest]

end Requests

/-! ## The restart machine -/

section Machine

variable {h : Hub}

theorem hashCheck_intact (st : h.rst.st = 1) (fresh : h.rst.hashed = false) (valid : h.boot.imemValid = true) (sound : h.boot.imemBad = false)
    (hash : h.boot.imemHash = h.boot.imageHash) : h.hashCheck = { h with rst := { h.rst with hashed := true } } := by
  have same : (h.boot.imemHash == h.boot.imageHash) = true := beq_iff_eq.mpr hash
  unfold Hub.hashCheck
  rw [fresh, valid, sound, same]
  exact (if_neg fun c => c.elim (fun c => c st) Bool.noConfusion).trans (if_pos rfl)

theorem hashCheck_damaged (st : h.rst.st = 1) (fresh : h.rst.hashed = false) (bad : h.boot.imemBad = true) :
    h.hashCheck = (withAttn { h with rst := { h.rst with st := 2, status := stBadsig }, ldr := { h.ldr with reserved := none } } 5).irqRaise 1 := by
  have refused : (h.boot.imemValid && !h.boot.imemBad && h.boot.imemHash == h.boot.imageHash) = false := by
    rw [bad, Bool.not_true, Bool.and_false, Bool.false_and]
  unfold Hub.hashCheck
  rw [fresh, refused]
  exact if_neg fun c => c.elim (fun c => c st) Bool.noConfusion

theorem pairStart_starts (st : h.rst.st = 1) (hashed : h.rst.hashed = true) (fresh : h.rst.started = false) (phase : h.boot.phase ≠ 13) :
    h.pairStart true = { h with rst := { h.rst with started := true }, boot := { h.boot with pairRunning := true, dmem := [] } } := by
  unfold Hub.pairStart
  rw [if_neg (by simp [st, hashed, fresh, phase])]

theorem nextSeq_idle (none_ : h.hang.dieWaiting = false) (empty : h.hang.waiting = []) : h.nextSeq = h := by
  unfold Hub.nextSeq
  rw [none_, empty]
  split <;> rfl

theorem fwReady_restart (runs : h.boot.pairRunning = true) (phase : h.boot.phase = 11) (st : h.rst.st = 1) (due : h.fwDue = [])
    (none_ : h.hang.dieWaiting = false) (empty : h.hang.waiting = []) :
    h.fwReady = Hub.irqRaise { h with
      rst := { h.rst with st := 0, mismatches := 0, status := stOk }, wdog := { h.wdog with silent := 0 } } 1 := by
  have told : h.readyRestart = Hub.nextSeq (Hub.irqRaise { h with
      rst := { h.rst with st := 0, mismatches := 0, status := stOk }, wdog := { h.wdog with silent := 0 }, fwDue := [] } 1) := by
    unfold Hub.readyRestart
    dsimp only
    rw [due]
    rfl
  have ready : h.fwReady = h.readyRestart := by
    unfold Hub.fwReady
    rw [runs]
    dsimp only
    rw [if_neg (by decide), if_pos st, if_neg (by rw [phase]; decide)]
  rw [ready, told, ← due]
  exact nextSeq_idle none_ empty

theorem restartTimeout_ends (st : h.rst.st = 1 ∨ h.rst.st = 2) (past : h.rst.timer + 100000000 ≤ h.clk.cycle) (room : h.er.sysq.length < 32) :
    h.restartTimeout = (withAttn { h with
      rst := { h.rst with st := 3, status := stTimeout }, boot := { h.boot with pairRunning := false }, ldr := { h.ldr with reserved := none },
      er := { h.er with sysq := h.er.sysq ++ [{ h.evt 7 0x0707 with status := stTimeout, aux := h.rst.st, arg := h.rst.w }] } } 5).irqRaise 1 := by
  have noted := record_sysq h { h.evt 7 0x0707 with status := stTimeout, aux := h.rst.st, arg := h.rst.w } rfl (show (7 : Nat) ≠ 8 by decide) rfl room
  rw [Hub.restartTimeout, if_pos ⟨st, past⟩, noted]
  rfl

/-! ## Lockstep mismatches and the watchdog -/

/-- Record 0x0701 in the queue (R52). -/
theorem mismatchRecord_notes (n pc o0 o1 : Nat) (room : h.er.sysq.length < 32) :
    h.mismatchRecord n pc o0 o1 = { h with er := { h.er with sysq := h.er.sysq ++ [{ h.evt 7 0x0701 with aux := n, arg := pc, words := [o0, o1] }] } } :=
  record_sysq h { h.evt 7 0x0701 with aux := n, arg := pc, words := [o0, o1] } rfl (show (7 : Nat) ≠ 8 by decide) rfl room

theorem mismatch_boot {pc o0 o1 : Nat} (runs : h.boot.pairRunning = true) (room : h.er.sysq.length < 32) (phase : h.boot.phase = 7)
    (few : h.boot.mismatches < 2) :
    h.mismatch pc o0 o1 = { h with
      boot := { h.boot with mismatches := h.boot.mismatches + 1 },
      er := { h.er with sysq := h.er.sysq ++ [{ h.evt 7 0x0701 with aux := h.boot.mismatches + 1, arg := pc, words := [o0, o1] }] } } := by
  have noted := mismatchRecord_notes (h := { h with boot := { h.boot with mismatches := h.boot.mismatches + 1 } }) (h.boot.mismatches + 1) pc o0 o1 room
  unfold Hub.mismatch
  rw [runs]
  dsimp only
  rw [if_neg (by decide), if_pos phase, if_neg (by omega), noted]
  rfl

theorem mismatch_halts {pc o0 o1 : Nat} (runs : h.boot.pairRunning = true) (room : h.er.sysq.length < 32) (phase : h.boot.phase = 7)
    (third : h.boot.mismatches = 2) :
    h.mismatch pc o0 o1 = haltedAs { h with
      boot := { h.boot with mismatches := 3 },
      er := { h.er with sysq := h.er.sysq ++ [{ h.evt 7 0x0701 with aux := 3, arg := pc, words := [o0, o1] }] } } stBuLockstep := by
  have noted := mismatchRecord_notes (h := { h with boot := { h.boot with mismatches := 3 } }) 3 pc o0 o1 room
  unfold Hub.mismatch
  rw [runs, third]
  dsimp only
  rw [if_neg (by decide), if_pos phase, if_pos (by decide), noted]
  rfl

theorem mismatch_restarts {pc o0 o1 : Nat} (runs : h.boot.pairRunning = true) (room : h.er.sysq.length < 32) (phase : 8 ≤ h.boot.phase)
    (rest : h.rst.st = 0) (idle : h.dmp.st = .idle) :
    h.mismatch pc o0 o1 = restarted h h.queriesBusy
      { h.er with sysq := h.er.sysq ++ [{ h.evt 7 0x0701 with aux := 1, arg := pc, words := [o0, o1] }] } 2 1 1 none := by
  unfold Hub.mismatch
  rw [runs]
  dsimp only
  rw [if_neg (by decide), if_neg (by omega), if_pos rest, mismatchRecord_notes 1 pc o0 o1 room]
  exact restart_runs h _ 2 none (by omega) rest idle

theorem mismatch_third {pc o0 o1 : Nat} (runs : h.boot.pairRunning = true) (room : h.er.sysq.length < 32) (phase : 8 ≤ h.boot.phase)
    (rest : h.rst.st = 1) (third : h.rst.mismatches = 2) :
    h.mismatch pc o0 o1 = withAttn { h with
      rst := { h.rst with st := 3, status := stBuLockstep, mismatches := 3 }, boot := { h.boot with pairRunning := false },
      ldr := { h.ldr with reserved := none },
      er := { h.er with sysq := h.er.sysq ++ [{ h.evt 7 0x0701 with aux := 3, arg := pc, words := [o0, o1] }] } } 5 := by
  have noted := mismatchRecord_notes (h := { h with rst := { h.rst with mismatches := 3 } }) 3 pc o0 o1 room
  unfold Hub.mismatch
  rw [runs, third]
  dsimp only
  rw [if_neg (by decide), if_neg (by omega), if_neg (by rw [rest]; decide), if_pos (by decide), noted]
  rfl

/-- The hub after the watchdog has expired, before the crash core is begun (R305). -/
def Hub.wdogExpired (h : Hub) (pc : Nat) : Hub :=
  { h with
    wdog := { h.wdog with expired := true, core := true }, cyc := { h.cyc with wdog := true }, boot := { h.boot with pairRunning := false },
    dmp := { h.dmp with fk := none }, hang := h.hangDrop.hang,
    er := { h.er with sysq := h.er.sysq ++ [{ h.evt 4 0x0404 with
      aux := h.wdog.silent / 1000000, arg := pc, words := h.hang.wfgStatus :: h.cutWords }] } }

theorem wdogExpire_begins (mem : Mem) {pc : Nat} (on : h.wdogOn = true) (past : 100000000 ≤ h.wdog.silent) (plain : h.boot.kept = false)
    (room : h.er.sysq.length < 32) :
    h.wdogExpire mem pc = (h.wdogExpired pc).firkinWrite 0 [0x46, 0x52, 0x4B, 0x4E, 1, 0, 1, 0] := by
  have head : leBytes 4 0x4E4B5246 ++ leBytes 2 1 ++ leBytes 2 1 = [0x46, 0x52, 0x4B, 0x4E, 1, 0, 1, 0] := by decide
  have late : decide (h.wdog.silent < 100000000) = false := decide_eq_false (Nat.not_lt.mpr past)
  have noted := record_sysq { h with wdog := { h.wdog with expired := true, core := true }, cyc := { h.cyc with wdog := true } }
    { h.evt 4 0x0404 with aux := h.wdog.silent / 1000000, arg := pc, words := h.hang.wfgStatus :: h.cutWords } rfl (show (4 : Nat) ≠ 8 by decide) rfl room
  unfold Hub.wdogExpire
  rw [on, late]
  dsimp only
  rw [if_neg (by decide)]
  refine (congrArg (fun g : Hub => (Hub.hangDrop { g with boot := { g.boot with pairRunning := false }, dmp := { g.dmp with fk := none } }).firkinBegin mem 3)
    noted).trans ?_
  unfold Hub.firkinBegin
  rw [head]
  dsimp only
  refine (congrArg (fun g : Hub => g.firkinWrite 0 [0x46, 0x52, 0x4B, 0x4E, 1, 0, 1, 0]) (if_neg ?_)).trans rfl
  exact fun c => Bool.noConfusion (plain.symm.trans c)

/-- The hub with the watchdog's crash core whole (R306). -/
def Hub.coreDone (h : Hub) : Hub :=
  (withAttn (Hub.firkinEnd { h with wdog := { h.wdog with core := false } } h.cutSlice 3 stOk 0 0) 4).irqRaise 1

/-- The end of a core writes its parts, and its header last (R333). -/
theorem firkinEnd_writes (g : Hub) (sl : Nat → Nat) (cause status object cut : Nat) :
    ∃ (core tail : List Byte) (t c f : Nat), g.firkinEnd sl cause status object cut =
      ((g.firkinWrite coreOff core).firkinWrite tailOff tail).firkinWrite 0
        (((g.firkinWrite coreOff core).firkinWrite tailOff tail).firkinHeader 2 cause status object cut t c f) :=
  ⟨_, _, _, _, _, rfl⟩

theorem firkinEnd_keeps (g : Hub) (sl : Nat → Nat) (cause status object cut : Nat) :
    (g.firkinEnd sl cause status object cut).rst = g.rst ∧ (g.firkinEnd sl cause status object cut).boot = g.boot ∧
      (g.firkinEnd sl cause status object cut).dmp = g.dmp ∧ (g.firkinEnd sl cause status object cut).er = g.er  ∧
      (g.firkinEnd sl cause status object cut).mbx = g.mbx ∧ (g.firkinEnd sl cause status object cut).tlm = g.tlm := by
  obtain ⟨core, tail, t, c, f, whole⟩ := firkinEnd_writes g sl cause status object cut
  rw [whole]
  generalize ((g.firkinWrite coreOff core).firkinWrite tailOff tail).firkinHeader 2 cause status object cut t c f = head
  exact ⟨rfl, rfl, rfl, rfl, rfl, rfl⟩

theorem coreAttn_keeps (g h : Hub) (keeps : g.rst = h.rst ∧ g.boot = h.boot ∧ g.dmp = h.dmp ∧ g.er = h.er ∧ g.mbx = h.mbx ∧ g.tlm = h.tlm) :
    ((withAttn g 4).irqRaise 1).rst = h.rst ∧ ((withAttn g 4).irqRaise 1).boot = h.boot ∧ ((withAttn g 4).irqRaise 1).dmp = h.dmp ∧
      ((withAttn g 4).irqRaise 1).er = h.er ∧ ((withAttn g 4).irqRaise 1).mbx = h.mbx ∧ ((withAttn g 4).irqRaise 1).tlm = h.tlm := keeps

/-- What the end of a crash core leaves alone. -/
theorem coreDone_keeps (h : Hub) : h.coreDone.rst = h.rst ∧ h.coreDone.boot = h.boot ∧ h.coreDone.dmp = h.dmp ∧ h.coreDone.er = h.er ∧
    h.coreDone.mbx = h.mbx ∧ h.coreDone.tlm = h.tlm :=
  coreAttn_keeps _ _ (firkinEnd_keeps { h with wdog := { h.wdog with core := false } } h.cutSlice 3 stOk 0 0)

theorem wdogCore_done (core : h.wdog.core = true) (rest : h.rst.st = 0) : h.wdogCore = h.coreDone.restart 3 none := by
  obtain ⟨rst, -⟩ := coreDone_keeps h
  have rest' : h.coreDone.rst.st = 0 := by rw [rst]; exact rest
  have whole : h.wdogCore = if h.coreDone.rst.st = 0 then h.coreDone.restart 3 none else h.coreDone := by
    unfold Hub.wdogCore Hub.coreDone
    rw [core]
    dsimp only
    rw [if_neg (by decide)]
    generalize Hub.firkinEnd _ _ 3 stOk 0 0 = g
    unfold withAttn Hub.attnSet
    rfl
  rw [whole, if_pos rest']

/-- The restart of cause 3 of a hub whose restart machine, bring-up, dump engine and recorder are those of `h`. -/
theorem restart_crash {g h : Hub} (keeps : g.rst = h.rst ∧ g.boot = h.boot ∧ g.dmp = h.dmp ∧ g.er = h.er ∧ g.mbx = h.mbx ∧ g.tlm = h.tlm) (rest : h.rst.st = 0)
    (phase : h.boot.phase = 11) (idle : h.dmp.st = .idle) : g.restart 3 none = restarted g g.queriesBusy h.er 3 1 0 none := by
  obtain ⟨rst, boot, dmp, er, -⟩ := keeps
  rw [← er]
  exact restart_runs g g.er 3 none (by rw [boot, phase]; decide) (by rw [rst]; exact rest) (by rw [dmp]; exact idle)

theorem wdogCore_restarts (core : h.wdog.core = true) (rest : h.rst.st = 0) (phase : h.boot.phase = 11) (idle : h.dmp.st = .idle) :
    h.wdogCore = restarted h.coreDone h.coreDone.queriesBusy h.er 3 1 0 none :=
  (wdogCore_done core rest).trans (restart_crash (coreDone_keeps h) rest phase idle)

end Machine

/-! ## The obligation -/

/-- The hub after a restart looks at the mailboxes and queries alone of the hub that gives them. -/
theorem restarted_of {h g k : Hub} {e : Er} {cause st n : Nat} {m : Option Master} (mbx : g.mbx = k.mbx) (q : g.tlm.q = k.tlm.q) :
    restarted h g e cause st n m = restarted h k e cause st n m := by
  unfold restarted
  rw [mbx, q]

theorem restarted_lands (s : State) (t : SMap Nat) (m : Master) (e : Er) (cause st n : Nat) (x : Option Master) {u : State}
    (is : u = lands s ((restarted (s.hub.placed t) (s.hub.placed t).queriesBusy e cause st n x).respond m 0 false)) :
    stopped s.hub u.hub ∧ u = { s with hub := { restarted (s.hub.placed t) u.hub e cause st n x with resp := answered s.hub m } } := by
  have mbx : u.hub.mbx = (s.hub.placed t).queriesBusy.mbx := by rw [is]; rfl
  have q : u.hub.tlm.q = (s.hub.placed t).queriesBusy.tlm.q := by rw [is]; rfl
  refine ⟨stopped_of (k := s.hub.placed t) rfl rfl mbx q, ?_⟩
  rw [restarted_of mbx q, is]
  rfl

/-- A write of HUB_RESTART by a master that may restart (R116). -/
theorem yields_restart {s : State} {m : Master} {c : Instr} {w : Nat} {g : SMap Nat → Er → Hub} {P : Hub → State → Prop} (live : s.hub.live = true)
    (reach : s.hub.reaches m = true) (right : m = .pair ∨ 2 ≤ s.hub.role m) (b : w < 2 ^ 32)
    (x : exec c s = run c (fun mem h => h.busWrite mem m 0x90 4 w) s) (effect : ∀ t r, Hub.restartWrite { s.hub.placed t with er := r } m w = g t r)
    (p : ∀ t, P (s.hub.placed t) (lands s ((g t (roleEr s.hub m 0x90 w)).respond m 0 false))) : Yields c s P := by
  refine yields_act x live reach locate_hubRestart rfl (by decide) rfl b ?_ (fun t r => (regWrite_restart _ m _ w).trans (effect t r)) p
  rcases right with e | e <;> simp [Hub.mayWrite, Loc.acting, e]

/-- The cause in the header of a whole core (R333). -/
theorem firkinHeader_cause (h : Hub) (t c f : Nat) : (h.firkinHeader 2 3 stOk 0 0 t c f).getD 8 0 = 3 := by
  have head : leBytes 4 0x4E4B5246 ++ leBytes 2 1 ++ leBytes 2 2 ++ leBytes 2 3 = [0x46, 0x52, 0x4B, 0x4E, 1, 0, 2, 0, 3, 0] := by decide
  unfold Hub.firkinHeader
  rw [padTo_getD _ (by omega), head]
  simp only [List.append_assoc]
  exact List.getD_append _ _ _ _ (by decide)

theorem haltedAs_out (s : State) {g : Hub} (status : Nat) (out : g.out = []) : lands s (haltedAs g status) = { s with hub := haltedAs g status } := by
  have none_ : (haltedAs g status).out = [] := by
    unfold haltedAs
    dsimp only
    split <;> exact out
  exact lands_of_out s none_ rfl

/-- The Firkin after a write of eight bytes at its start (R333). -/
theorem firkin_begun (m : Mem) {b : List Byte} (len : b.length = 8) :
    (∀ i : Nat, i < 8 → SMap.get (0 : Byte) (m.apply [⟨0, 0, b⟩]).firkin i = b.getD i 0) ∧
      ∀ a, 8 ≤ a → SMap.get (0 : Byte) (m.apply [⟨0, 0, b⟩]).firkin a = SMap.get (0 : Byte) m.firkin a := by
  have bytes : (m.apply [⟨0, 0, b⟩]).firkin = writeBytes firkinSize m.firkin 0 b := rfl
  have size : firkinSize = 8388608 := rfl
  rw [bytes]
  refine ⟨fun i low => ?_, fun a high => get_writeBytes_out firkinSize m.firkin b (.inr (by omega))⟩
  have inside := get_writeBytes_in firkinSize m.firkin (a := 0) b (i := i) (by omega) (by omega)
  rwa [Nat.zero_add] at inside

theorem attn_out (g : Hub) : ((withAttn g 4).irqRaise 1).out = g.out := rfl

/-- The bytes of a core's state and cause once it is whole (R333). -/
theorem cored_state (h : Hub) (m : Mem) (sl : Nat → Nat) :
    SMap.get (0 : Byte) (h.cored m sl 3 stOk 0 0).firkin 6 = 2 ∧ SMap.get (0 : Byte) (h.cored m sl 3 stOk 0 0).firkin 7 = 0 ∧
      SMap.get (0 : Byte) (h.cored m sl 3 stOk 0 0).firkin 8 = 3 := by
  have last := firkin_last (a := 0) m (h.coreWrites sl) (b := h.coreHeader sl 3 stOk 0 0) (k := 8)
    (by rw [Hub.coreHeader, firkinHeader_length]; omega) (by rw [firkinSize]; omega)
  exact ⟨core_mark h m sl 3 stOk 0 0 (by decide), core_mark h m sl 3 stOk 0 0 (by decide), last.trans (firkinHeader_cause h _ _ _)⟩

theorem coreDone_mem (h : Hub) (m : Mem) (out : h.out = []) :
    m.apply h.coreDone.out = Hub.cored { h with wdog := { h.wdog with core := false } } m h.cutSlice 3 stOk 0 0 := by
  rw [Hub.coreDone, attn_out, firkinEnd_out]
  dsimp only
  rw [out]
  rfl

/-- A hub after a restart, once it has landed: its mailboxes and queries, and the writes of memory before it. -/
theorem restarted_landed (s : State) (g q : Hub) (e : Er) (cause st n : Nat) (m : Option Master) :
    (lands s (restarted g q e cause st n m)).hub.mbx = q.mbx ∧ (lands s (restarted g q e cause st n m)).hub.tlm.q = q.tlm.q ∧
      (lands s (restarted g q e cause st n m)).mem = s.mem.apply g.out := ⟨rfl, rfl, rfl⟩

/-- The crash core's end and the restart that follows it (R306). -/
theorem crash_lands (s : State) (t : SMap Nat) {u : State}
    (is : u = lands s (restarted (s.hub.placed t).coreDone (s.hub.placed t).coreDone.queriesBusy s.hub.er 3 1 0 none)) :
    stopped s.hub u.hub ∧ SMap.get (0 : Byte) u.mem.firkin 6 = 2 ∧ SMap.get (0 : Byte) u.mem.firkin 7 = 0 ∧ SMap.get (0 : Byte) u.mem.firkin 8 = 3 ∧
      u = lands s (restarted (s.hub.placed t).coreDone u.hub s.hub.er 3 1 0 none) := by
  obtain ⟨-, -, -, -, mbx, tlm⟩ := coreDone_keeps (s.hub.placed t)
  have mem := coreDone_mem (s.hub.placed t) s.mem rfl
  generalize (s.hub.placed t).coreDone = g at mbx tlm mem is ⊢
  obtain ⟨mbx', q', mem'⟩ := restarted_landed s g g.queriesBusy s.hub.er 3 1 0 none
  rw [← is] at mbx' q' mem'
  obtain ⟨six, seven, eight⟩ := cored_state { s.hub.placed t with wdog := { s.hub.wdog with core := false } } s.mem (s.hub.placed t).cutSlice
  rw [mem', mem]
  refine ⟨stopped_of (k := g) mbx.symm (congrArg Tlm.q tlm).symm mbx' q', six, seven, eight, ?_⟩
  rw [restarted_of mbx' q']
  exact is

/-- Settles O42: restarts by their causes, the restart machine, lockstep mismatches, and the watchdog with its crash core. -/
theorem warmRestart : Obligations.WarmRestart := by
  refine fun s live => ⟨fun m port reach role phase idle rest quiet => ⟨?_, ?_⟩, fun runs phase rest quiet => ?_, fun m port reach role st => ?_,
    fun st fresh valid sound hash => ?_, fun st fresh bad => ?_, fun st hashed fresh phase => ?_, fun st runs phase due none_ empty => ?_,
    fun st past room => ?_, fun pc o0 o1 runs room => ⟨fun phase few => ?_, fun phase third => ?_, fun phase rest quiet => ?_,
      fun phase rest third => ?_⟩, fun runs => ?_, fun pc on past plain room => ?_, fun core rest phase quiet => ?_⟩
  · have free : (m != .pair && s.hub.restartBusy) = false := by rw [restartBusy_free s.hub phase idle rest, Bool.and_false]
    refine yields_restart live reach (.inr role) (by decide) rfl
      (fun t r => restartWrite_runs (s.hub.placed t) m r (c := 0) (by decide) free ((if_neg port).trans (by decide)) (by rw [show (s.hub.placed t).boot.phase = 11 from phase]; decide)
        rest quiet) fun t => restarted_lands s t m _ 0 _ _ _ rfl
  · have free : (m != .pair && s.hub.restartBusy) = false := by rw [restartBusy_free s.hub phase idle rest, Bool.and_false]
    refine yields_restart live reach (.inr role) (by decide) rfl
      (fun t r => restartWrite_runs (s.hub.placed t) m r (c := 1) (by decide) free ((if_neg port).trans (by decide)) (by rw [show (s.hub.placed t).boot.phase = 11 from phase]; decide)
        rest quiet) fun t => restarted_lands s t m _ 1 _ _ _ rfl
  · exact yields_restart (m := .pair) live runs (.inl rfl) (by decide) rfl
      (fun t r => restartWrite_runs (s.hub.placed t) .pair r (by decide) rfl rfl phase rest quiet) fun t => restarted_lands s t .pair _ _ _ _ _ rfl
  · exact yields_restart live reach (.inr role) (by decide) rfl (fun t r => restartWrite_busy (s.hub.placed t) m r (by decide) port st) fun t => rfl
  · exact yields_of_eq rfl live (fun t => hashCheck_intact (h := s.hub.placed t) st fresh valid sound hash) fun t => rfl
  · exact yields_of_eq rfl live (fun t => hashCheck_damaged (h := s.hub.placed t) st fresh bad) fun t => rfl
  · exact yields_of_eq rfl live (fun t => pairStart_starts (h := s.hub.placed t) st hashed fresh phase) fun t => rfl
  · exact yields_act rfl live runs locate_hubFwReady rfl (by decide) rfl (by decide) rfl
      (fun t r => (regWrite_fwReady _ _).trans (fwReady_restart (h := { s.hub.placed t with er := r }) runs phase st due none_ empty)) fun t => rfl
  · exact yields_of_eq rfl live (fun t => restartTimeout_ends (h := s.hub.placed t) st past room) fun t => rfl
  · exact yields_of_eq rfl live (fun t => mismatch_boot (h := s.hub.placed t) runs room phase few) fun t => rfl
  · exact yields_of_eq rfl live (fun t => mismatch_halts (h := s.hub.placed t) runs room phase third) fun t => haltedAs_out s _ rfl
  · exact yields_of_eq rfl live (fun t => mismatch_restarts (h := s.hub.placed t) runs room phase rest quiet) fun t =>
      ⟨stopped_queries (s.hub.placed t), rfl⟩
  · exact yields_of_eq rfl live (fun t => mismatch_third (h := s.hub.placed t) runs room phase rest third) fun t => rfl
  · exact yields_act rfl live runs locate_hubWdogKick rfl (by decide) rfl (by decide) rfl (fun t r => regWrite_wdogKick _ _) fun t => rfl
  · refine yields_of_eq rfl live (fun t => wdogExpire_begins (h := s.hub.placed t) s.mem on past plain room) fun t => ?_
    obtain ⟨inside, outside⟩ := firkin_begun s.mem (b := [0x46, 0x52, 0x4B, 0x4E, 1, 0, 1, 0]) rfl
    exact ⟨inside, outside, rfl⟩
  · refine yields_of_eq rfl live (fun t => wdogCore_restarts (h := s.hub.placed t) core rest phase quiet) fun t => ?_
    exact crash_lands s t rfl

end Sys2Proof.Machine
end

section
/-!
O52: contexts, slices and exports on the operator's request (R36, R431 to R438, R445, R446, Table 14.2).
-/
namespace Sys2Proof.Machine

theorem locate_slcCmd : locate 0xB0000 = some (.acting false .slcCmd 0xB0000 .glob .oper) := by decide +kernel
theorem locate_slcCtxCmd : locate 0xB0010 = some (.acting false .slcCtxCmd 0xB0010 .glob .oper) := by decide +kernel
theorem locate_slcExpCmd : locate 0xB0020 = some (.acting false .slcExpCmd 0xB0020 .glob .oper) := by decide +kernel

/-! ## The words of the commands -/

section Words

variable {k c i : Nat}

theorem slcWord (low : k < 64) (op : Nat) (few : op < 5) :
    bit (goWord op 28 k) 31 = true ∧ field (goWord op 28 k) 30 28 = op ∧ goWord op 28 k % 64 = k ∧ goWord op 28 k < 2 ^ 32 := by
  have all : ∀ op < 5, ∀ k < 64, bit (goWord op 28 k) 31 = true ∧ field (goWord op 28 k) 30 28 = op ∧ goWord op 28 k % 64 = k ∧
      goWord op 28 k < 2 ^ 32 := by decide +kernel
  exact all op few k low

theorem ctxWord_create (low : k < 64) :
    bit (goWord k 24 0) 31 = true ∧ bit (goWord k 24 0) 30 = false ∧ field (goWord k 24 0) 29 24 = k ∧ goWord k 24 0 < 2 ^ 32 := by
  have all : ∀ k < 64, bit (goWord k 24 0) 31 = true ∧ bit (goWord k 24 0) 30 = false ∧ field (goWord k 24 0) 29 24 = k ∧ goWord k 24 0 < 2 ^ 32 := by
    decide +kernel
  exact all k low

/-- The word of a request about an existing object: its second highest bit says so, and `x` names it. -/
theorem objectWord {x : Nat} (low : x < 2 ^ 30) :
    bit (goWord 1 30 x) 31 = true ∧ bit (goWord 1 30 x) 30 = true ∧ goWord 1 30 x < 2 ^ 32 := by
  have word : goWord 1 30 x = 2 ^ 31 + (2 ^ 30 + x) := Nat.add_assoc _ _ _
  refine ⟨?_, ?_, by omega⟩
  · rw [word]
    exact go_bit (by omega)
  · rw [word, go_bit_low _ (by decide), bit, Nat.testBit_two_pow_add_eq, Nat.testBit_lt_two_pow low]
    rfl

theorem field_object (low : c < 2 ^ 18) : field (goWord 1 30 c) 17 0 = c := by
  have word : goWord 1 30 c = 3221225472 + c := congrArg (· + c) (show 2 ^ 31 + at_ 1 30 = 3221225472 by decide)
  rw [word, field, Nat.shiftRight_zero]
  omega

theorem exportWord (low : k < 64) (short : i < 65536) :
    bit (goWord k 24 i) 31 = true ∧ bit (goWord k 24 i) 30 = false ∧ field (goWord k 24 i) 29 24 = k ∧ goWord k 24 i % 65536 = i ∧
      goWord k 24 i < 2 ^ 32 := by
  have word : goWord k 24 i = 2 ^ 31 + (k * 16777216 + i) := by rw [goWord, at_, Nat.shiftLeft_eq, Nat.add_assoc]
  rw [word]
  refine ⟨go_bit (by omega), ?_, ?_, by omega, by omega⟩
  · rw [go_bit_low _ (by decide)]
    exact bit_high (by omega)
  · rw [field, Nat.shiftRight_eq_div_pow]
    omega

theorem releaseWord_index (short : i < 65536) : goWord 1 30 (at_ k 24 + i) % 65536 = i := by
  have word : goWord 1 30 (at_ k 24 + i) = 3221225472 + (at_ k 24 + i) := congrArg (· + (at_ k 24 + i)) (show 2 ^ 31 + at_ 1 30 = 3221225472 by decide)
  have shift : at_ k 24 = k * 16777216 := by rw [at_, Nat.shiftLeft_eq]
  omega

end Words

/-! ## The lowest free context -/

section Lowest

theorem le_lowestFree {m : SMap Ctx} {n : Nat} (wf : SMap.wfFrom {} n m = true) : n ≤ lowestFree n m := by
  induction m generalizing n with
  | nil => exact Nat.le_refl n
  | cons e m ih =>
    obtain ⟨above, -, rest⟩ := (SMap.wfFrom_cons _ _ _ _ _).mp wf
    unfold lowestFree
    split
    · exact Nat.le_refl n
    · split
      · exact Nat.le_min.mpr ⟨above, Nat.le_refl n⟩
      · exact Nat.le_trans (Nat.le_succ_of_le above) (ih rest)

/-- The lowest free identifier from a bound on (R36). -/
theorem lowestFree_spec {m : SMap Ctx} {n : Nat} (wf : SMap.wfFrom {} n m = true) :
    (SMap.get ({} : Ctx) m (lowestFree n m)).st = .free ∧ ∀ x, n ≤ x → x < lowestFree n m → (SMap.get ({} : Ctx) m x).st ≠ .free := by
  induction m generalizing n with
  | nil => exact ⟨rfl, fun x above below => absurd below (Nat.not_lt.mpr above)⟩
  | cons e m ih =>
    obtain ⟨c, y⟩ := e
    obtain ⟨above, -, rest⟩ := (SMap.wfFrom_cons _ _ _ _ _).mp wf
    have here : SMap.get ({} : Ctx) ((c, y) :: m) c = y := by rw [SMap.get, if_pos rfl]
    have later (x : Nat) (ne : x ≠ c) : SMap.get ({} : Ctx) ((c, y) :: m) x = SMap.get ({} : Ctx) m x := by
      rw [SMap.get, if_neg ne]
    unfold lowestFree
    by_cases gap : n < c
    · rw [if_pos gap]
      refine ⟨?_, fun x up down => absurd down (Nat.not_lt.mpr up)⟩
      rw [later n (by omega), get_below rest (by omega)]
    · have same : c = n := by omega
      rw [if_neg gap]
      by_cases free : y.st = .free
      · rw [if_pos free, same, show n.min n = n from Nat.min_self n]
        refine ⟨?_, fun x up down => absurd down (Nat.not_lt.mpr up)⟩
        rw [← same, here, free]
      · rw [if_neg free]
        obtain ⟨is, below⟩ := ih rest
        have up : c + 1 ≤ lowestFree (c + 1) m := le_lowestFree rest
        refine ⟨?_, fun x up' down => ?_⟩
        · rw [later _ (by omega)]
          exact is
        · by_cases first : x = c
          · rw [first, here]
            exact free
          · rw [later x first]
            exact below x (by omega) down

end Lowest

/-! ## Contexts -/

/-- A context that a request creates in slice `k` (R36). -/
def Ctx.created (k : Nat) (x : Ctx) : Ctx := { x with st := .active, slice := k, progress := 0, lostFaults := 0 }

/-- A context that a request destroys (R36, R37). -/
def Ctx.destroyed (k : Nat) (finals : Bool) (x : Ctx) : Ctx :=
  { x with st := .free, cmds := (x.cmds.filter (·.started)).map fun x => { x with gone := true }, slice := k, finals := finals, lostFaults := 0 }

section Contexts

variable (h : Hub) (m : Master)

theorem getSlcM_updSlcM (f : SlcM → SlcM) : (h.updSlcM m f).getSlcM m = f (h.getSlcM m) := SMap.get_upd_self ..

theorem getSlcM_updSlcM_ne (f : SlcM → SlcM) {x : Master} (other : x ≠ m) : (h.updSlcM m f).getSlcM x = h.getSlcM x :=
  SMap.get_upd_ne _ _ _ (Master.idx_ne other)

theorem updSlcM_twice (f g : SlcM → SlcM) : (h.updSlcM m f).updSlcM m g = h.updSlcM m fun x => g (f x) := by
  unfold Hub.updSlcM SMap.upd
  simp only [SMap.get_set_self, set_set]

variable {h} {k : Nat}

theorem finalRecords_unset {c : Nat} (unset : (h.getCtx c).finals = false) : h.finalRecords c = h := by
  unfold Hub.finalRecords
  rw [unset]
  rfl

/-- A context is created in an ACTIVE slice below its quota (R36, R438). -/
theorem slcCtxCmd_creates (low : k < 64) (active : (h.getSlice k).st = .active) (few : h.ctxCount < 262144)
    (quota : (h.sliceCtxs k).length < Nat.min 262144 (h.act 0x40000 (slcOff k 0x18))) (quiet : (h.getCtx (lowestFree 0 h.ctx)).finals = false) :
    h.slcCtxCmd m (goWord k 24 0) =
      (h.updCtx (lowestFree 0 h.ctx) (Ctx.created k)).updSlcM m fun x => { x with ctxStatus := stOk, ctxValid := true, ctxId := lowestFree 0 h.ctx } := by
  obtain ⟨go, plain, slice, -⟩ := ctxWord_create low
  have ok : h.needActive k = stOk := by rw [Hub.needActive, active]
  have word : h.slcCtxCmd m (goWord k 24 0) = h.ctxCreateCmd m k := by
    rw [Hub.slcCtxCmd, go, plain, slice]
    rfl
  rw [word]
  unfold Hub.ctxCreateCmd
  dsimp only
  rw [if_neg (Nat.not_le.mpr few), if_neg (Nat.not_le.mpr quota), if_neg fun c => c ok, Hub.ctxCreate]
  dsimp only
  rw [finalRecords_unset quiet]
  rfl

/-- A request for a context is refused at the slice's quota (R438). -/
theorem slcCtxCmd_full (low : k < 64) (few : h.ctxCount < 262144) (full : Nat.min 262144 (h.act 0x40000 (slcOff k 0x18)) ≤ (h.sliceCtxs k).length)
    (on : h.classOn 3 = true) (room : h.er.sysq.length < 32) :
    h.slcCtxCmd m (goWord k 24 0) = { h.updSlcM m (fun x => { x with ctxStatus := stFull, ctxValid := false, ctxId := 0 }) with
      er := { h.er with sysq := h.er.sysq ++ [{ h.evt 3 0x0311 with
        slice := k, origin := h.originOf m, status := stFull, aux := 3, words := [(h.sliceCtxs k).length] }] } } := by
  obtain ⟨go, plain, slice, -⟩ := ctxWord_create low
  have word : h.slcCtxCmd m (goWord k 24 0) = h.ctxCreateCmd m k := by
    rw [Hub.slcCtxCmd, go, plain, slice]
    rfl
  have noted := record_sysq (h.updSlcM m fun x => { x with ctxStatus := stFull, ctxValid := false, ctxId := 0 }) { h.evt 3 0x0311 with
    slice := k, origin := h.originOf m, status := stFull, aux := 3, arg := 0, words := [(h.sliceCtxs k).length] } on (show (3 : Nat) ≠ 8 by decide) rfl room
  rw [word]
  unfold Hub.ctxCreateCmd
  dsimp only
  rw [if_neg (Nat.not_le.mpr few), if_pos full]
  exact noted

/-- A context without queued commands is destroyed (R36, R37). -/
theorem slcCtxCmd_destroys {c : Nat} (low : c < 2 ^ 18) (there : (h.getCtx c).st ≠ .free) (started : ∀ x ∈ (h.getCtx c).cmds, x.started = true) :
    h.slcCtxCmd m (goWord 1 30 c) =
      (h.updCtx c (Ctx.destroyed (h.ctxSlice c) (h.cnt.att.any fun e => e.1 / 2 ^ 32 == c))).updSlcM m fun x => { x with ctxStatus := stOk } := by
  obtain ⟨go, object, -⟩ := objectWord (x := c) (by omega)
  have word : h.slcCtxCmd m (goWord 1 30 c) = h.ctxDestroyCmd m c := by
    rw [Hub.slcCtxCmd, go, object, field_object low]
    rfl
  have queued : ((h.getCtx c).cmds.filter fun x => !x.started) = [] :=
    List.filter_eq_nil_iff.mpr fun x mem => by rw [started x mem]; decide
  rw [word, Hub.ctxDestroyCmd, if_neg there, Hub.ctxDestroy, queued]
  rfl

end Contexts

/-! ## Exports -/

section Exports

variable {h : Hub} {m : Master} {k i : Nat}

/-- A fence is exported: allocated to an ACTIVE slice (R437). -/
theorem slcExpCmd_allocates (low : k < 64) (short : i < 65536) (active : (h.getSlice k).st = .active) (few : h.slc.exports.length < 65536)
    (free : h.exportSlice i = none) (sound : (h.getFence (exportId i)).st ≠ .error) :
    h.slcExpCmd m (goWord k 24 i) = { h with slc := { h.slc with
      exports := SMap.set 0 h.slc.exports i (k + 1), m := SMap.upd {} h.slc.m m.idx fun x => { x with expStatus := stOk } } } := by
  obtain ⟨go, plain, slice, index, -⟩ := exportWord low short
  have ok : h.needActive k = stOk := by rw [Hub.needActive, active]
  rw [Hub.slcExpCmd, go, plain, slice, index]
  refine Eq.trans (b := h.expAllocate m k i) rfl ?_
  unfold Hub.expAllocate
  dsimp only
  rw [if_neg fun c => c ok, if_neg (Nat.not_le.mpr few), free, if_neg (by decide)]
  refine (congrArg (fun g : Hub => g.updSlcM m fun x => { x with expStatus := stOk }) (if_neg ?_)).trans rfl
  exact sound

/-- An exported fence is released with an error signal (R437). -/
theorem slcExpCmd_releases {j : Nat} (low : k < 64) (short : i < 65536) (there : h.exportSlice i = some j) :
    h.slcExpCmd m (goWord 1 30 (at_ k 24 + i)) =
      Hub.updSlcM { h.fenceErr (exportId i) 0 none j with
        slc := { (h.fenceErr (exportId i) 0 none j).slc with exports := SMap.set 0 (h.fenceErr (exportId i) 0 none j).slc.exports i 0 } } m
        fun x => { x with expStatus := stOk } := by
  have shift : at_ k 24 = k * 16777216 := by rw [at_, Nat.shiftLeft_eq]
  obtain ⟨go, object, -⟩ := objectWord (x := at_ k 24 + i) (by omega)
  rw [Hub.slcExpCmd, go, object, releaseWord_index short]
  refine Eq.trans (b := h.expRelease m i) rfl ?_
  rw [Hub.expRelease, there]

/-! ## The commands' writes (R435 to R437) -/

section Writes

variable (g : Hub) (mem : Mem) (m : Master) (v : Nat)

theorem regWrite_slcCmd : g.regWrite mem m (.acting false .slcCmd 0xB0000 .glob .oper) v = g.slcCmd m v := by
  unfold Hub.regWrite Loc.acting
  dsimp only
  rw [if_neg (by decide)]
  unfold Hub.unitWrite
  dsimp only

theorem regWrite_slcCtxCmd : g.regWrite mem m (.acting false .slcCtxCmd 0xB0010 .glob .oper) v = g.slcCtxCmd m v := by
  unfold Hub.regWrite Loc.acting
  dsimp only
  rw [if_neg (by decide)]
  unfold Hub.unitWrite
  dsimp only

theorem regWrite_slcExpCmd : g.regWrite mem m (.acting false .slcExpCmd 0xB0020 .glob .oper) v = g.slcExpCmd m v := by
  unfold Hub.regWrite Loc.acting
  dsimp only
  rw [if_neg (by decide)]
  unfold Hub.unitWrite
  dsimp only

end Writes

section Yields

variable {s : State} {m : Master} {c : Instr} {P : Hub → State → Prop} {w : Nat} {g : SMap Nat → Er → Hub}

theorem yields_slcCmd (x : exec c s = run c (fun mem h => h.busWrite mem m 0xB0000 4 w) s) (live : s.hub.live = true) (reach : s.hub.reaches m = true)
    (oper : s.hub.role m = 1) (b : w < 2 ^ 32) (effect : ∀ t r, Hub.slcCmd { s.hub.placed t with er := r } m w = g t r)
    (p : ∀ t, P (s.hub.placed t) (lands s ((g t (roleEr s.hub m 0xB0000 w)).respond m 0 false))) : Yields c s P :=
  yields_act x live reach locate_slcCmd rfl (by decide) rfl b (by simp [Hub.mayWrite, Loc.acting, oper])
    (fun t r => (regWrite_slcCmd _ _ _ _).trans (effect t r)) p

theorem yields_slcCtxCmd (x : exec c s = run c (fun mem h => h.busWrite mem m 0xB0010 4 w) s) (live : s.hub.live = true) (reach : s.hub.reaches m = true)
    (oper : s.hub.role m = 1) (b : w < 2 ^ 32) (effect : ∀ t r, Hub.slcCtxCmd { s.hub.placed t with er := r } m w = g t r)
    (p : ∀ t, P (s.hub.placed t) (lands s ((g t (roleEr s.hub m 0xB0010 w)).respond m 0 false))) : Yields c s P :=
  yields_act x live reach locate_slcCtxCmd rfl (by decide) rfl b (by simp [Hub.mayWrite, Loc.acting, oper])
    (fun t r => (regWrite_slcCtxCmd _ _ _ _).trans (effect t r)) p

theorem yields_slcExpCmd (x : exec c s = run c (fun mem h => h.busWrite mem m 0xB0020 4 w) s) (live : s.hub.live = true) (reach : s.hub.reaches m = true)
    (oper : s.hub.role m = 1) (b : w < 2 ^ 32) (effect : ∀ t r, Hub.slcExpCmd { s.hub.placed t with er := r } m w = g t r)
    (p : ∀ t, P (s.hub.placed t) (lands s ((g t (roleEr s.hub m 0xB0020 w)).respond m 0 false))) : Yields c s P :=
  yields_act x live reach locate_slcExpCmd rfl (by decide) rfl b (by simp [Hub.mayWrite, Loc.acting, oper])
    (fun t r => (regWrite_slcExpCmd _ _ _ _).trans (effect t r)) p

end Yields

section Execs

variable {k c i : Nat} (m : Master) (s : State)

theorem exec_contextCreate (low : k < 64) :
    exec (.contextCreate m k) s = run (.contextCreate m k) (fun mem h => h.busWrite mem m 0xB0010 4 (goWord k 24 0)) s := by
  rw [show exec (.contextCreate m k) s = execContextCreate m k s from rfl, execContextCreate, Nat.mod_eq_of_lt low]

theorem exec_contextDestroy (low : c < 2 ^ 18) :
    exec (.contextDestroy m c) s = run (.contextDestroy m c) (fun mem h => h.busWrite mem m 0xB0010 4 (goWord 1 30 c)) s := by
  rw [show exec (.contextDestroy m c) s = execContextDestroy m c s from rfl, execContextDestroy, Nat.mod_eq_of_lt low]

theorem exec_sliceCreate (low : k < 64) :
    exec (.sliceCreate m k) s = run (.sliceCreate m k) (fun mem h => h.busWrite mem m 0xB0000 4 (goWord 1 28 k)) s := by
  rw [show exec (.sliceCreate m k) s = execSliceCreate m k s from rfl, execSliceCreate, Nat.mod_eq_of_lt low]

theorem exec_sliceReset (low : k < 64) :
    exec (.sliceReset m k) s = run (.sliceReset m k) (fun mem h => h.busWrite mem m 0xB0000 4 (goWord 2 28 k)) s := by
  rw [show exec (.sliceReset m k) s = execSliceReset m k s from rfl, execSliceReset, Nat.mod_eq_of_lt low]

theorem exec_sliceDestroy (low : k < 64) :
    exec (.sliceDestroy m k) s = run (.sliceDestroy m k) (fun mem h => h.busWrite mem m 0xB0000 4 (goWord 3 28 k)) s := by
  rw [show exec (.sliceDestroy m k) s = execSliceDestroy m k s from rfl, execSliceDestroy, Nat.mod_eq_of_lt low]

theorem exec_sliceProcessDied (low : k < 64) :
    exec (.sliceProcessDied m k) s = run (.sliceProcessDied m k) (fun mem h => h.busWrite mem m 0xB0000 4 (goWord 4 28 k)) s := by
  rw [show exec (.sliceProcessDied m k) s = execSliceProcessDied m k s from rfl, execSliceProcessDied, Nat.mod_eq_of_lt low]

theorem exec_exportAllocate (low : k < 64) (short : i < 65536) :
    exec (.exportAllocate m k i) s = run (.exportAllocate m k i) (fun mem h => h.busWrite mem m 0xB0020 4 (goWord k 24 i)) s := by
  rw [show exec (.exportAllocate m k i) s = execExportAllocate m k i s from rfl, execExportAllocate, Nat.mod_eq_of_lt low, Nat.mod_eq_of_lt short]

theorem exec_exportRelease (low : k < 64) (short : i < 65536) :
    exec (.exportRelease m k i) s = run (.exportRelease m k i) (fun mem h => h.busWrite mem m 0xB0020 4 (goWord 1 30 (at_ k 24 + i))) s := by
  rw [show exec (.exportRelease m k i) s = execExportRelease m k i s from rfl, execExportRelease, Nat.mod_eq_of_lt low, Nat.mod_eq_of_lt short]

end Execs

theorem exportSlice_released (l : SMap Nat) (g : Hub) (e : g.slc.exports = SMap.set 0 l i 0) : g.exportSlice i = none := by
  rw [Hub.exportSlice, e, SMap.get_set_self]

end Exports

theorem getSlcM_of_slc {a b : Hub} (same : a.slc.m = b.slc.m) (x : Master) : a.getSlcM x = b.getSlcM x :=
  congrArg (fun l => SMap.get ({} : SlcM) l x.idx) same
theorem getCtx_of_ctx {a b : Hub} (same : a.ctx = b.ctx) (c : Nat) : a.getCtx c = b.getCtx c := congrArg (fun l => SMap.get ({} : Ctx) l c) same

/-! ## The clauses of contexts and exports -/

section Clauses

variable {s : State} {m : Master} {k i : Nat} (live : s.hub.live = true) (reach : s.hub.reaches m = true) (oper : s.hub.role m = 1)
include live reach oper

theorem contextCreate_yields (low : k < 64) (active : (s.hub.getSlice k).st = .active) (few : s.hub.ctxCount < 262144)
    (quota : (s.hub.sliceCtxs k).length < Nat.min 262144 (s.hub.act 0x40000 (slcOff k 0x18)))
    (quiet : (s.hub.getCtx (lowestFree 0 s.hub.ctx)).finals = false) :
    Yields (.contextCreate m k) s fun h0 t =>
      t.hub.getCtx (lowestFree 0 s.hub.ctx) = Ctx.mark (s.hub.clk.cycle + 1) (s.hub.getCtx (lowestFree 0 s.hub.ctx))
        { s.hub.getCtx (lowestFree 0 s.hub.ctx) with st := .active, slice := k, progress := 0, lostFaults := 0 } ∧
      (∀ x : Nat, x ≠ lowestFree 0 s.hub.ctx → t.hub.getCtx x = s.hub.getCtx x) ∧
      t.hub.getSlcM m = { s.hub.getSlcM m with ctxStatus := stOk, ctxValid := true, ctxId := lowestFree 0 s.hub.ctx } ∧
      (∀ x : Master, x ≠ m → t.hub.getSlcM x = s.hub.getSlcM x) ∧
      t = wrote s m 0xB0010 (goWord k 24 0) { h0 with ctx := t.hub.ctx, slc := { s.hub.slc with m := t.hub.slc.m } } := by
  obtain ⟨-, -, -, short⟩ := ctxWord_create low
  have only := onlyContext_updCtx s.hub (lowestFree 0 s.hub.ctx) (Ctx.created k)
  refine yields_slcCtxCmd (exec_contextCreate m s low) live reach oper short
    (fun t r => slcCtxCmd_creates (h := { s.hub.placed t with er := r }) m low active few quota quiet) fun t =>
    ⟨(getCtx_of_ctx (by rfl) _).trans only.1, fun x other => (getCtx_of_ctx (by rfl) x).trans (only.2 x other),
      (getSlcM_of_slc (by rfl) m).trans (getSlcM_updSlcM s.hub m fun x => { x with ctxStatus := stOk, ctxValid := true, ctxId := lowestFree 0 s.hub.ctx }),
      fun x other => (getSlcM_of_slc (by rfl) x).trans
        (getSlcM_updSlcM_ne s.hub m (fun x => { x with ctxStatus := stOk, ctxValid := true, ctxId := lowestFree 0 s.hub.ctx }) other), by rfl⟩

theorem contextFull_yields (low : k < 64) (few : s.hub.ctxCount < 262144)
    (full : Nat.min 262144 (s.hub.act 0x40000 (slcOff k 0x18)) ≤ (s.hub.sliceCtxs k).length) (on : s.hub.classOn 3 = true)
    (room : s.hub.er.sysq.length < 31) :
    Yields (.contextCreate m k) s fun h0 t =>
      t.hub.getSlcM m = { s.hub.getSlcM m with ctxStatus := stFull, ctxValid := false, ctxId := 0 } ∧
      (∀ x : Master, x ≠ m → t.hub.getSlcM x = s.hub.getSlcM x) ∧
      t = { s with hub := { h0 with
        slc := { s.hub.slc with m := t.hub.slc.m }, resp := answered s.hub m,
        er := { roleEr s.hub m 0xB0010 (goWord k 24 0) with
          sysq := (roleEr s.hub m 0xB0010 (goWord k 24 0)).sysq ++ [{ s.hub.evt 3 0x0311 with
            slice := k, origin := s.hub.originOf m, status := stFull, aux := 3, words := [(s.hub.sliceCtxs k).length] }] } } } := by
  obtain ⟨-, -, -, short⟩ := ctxWord_create low
  refine yields_slcCtxCmd (exec_contextCreate m s low) live reach oper short (fun t r => rfl) fun t => ?_
  rw [slcCtxCmd_full (h := { s.hub.placed t with er := roleEr s.hub m 0xB0010 (goWord k 24 0) }) m low few full on (roleEr_room room)]
  exact ⟨getSlcM_updSlcM s.hub m _, fun x other => getSlcM_updSlcM_ne s.hub m _ other, rfl⟩

theorem contextDestroy_yields {c : Nat} (low : c < 2 ^ 18) (there : (s.hub.getCtx c).st ≠ .free)
    (started : ∀ x ∈ (s.hub.getCtx c).cmds, x.started = true) :
    Yields (.contextDestroy m c) s fun h0 t =>
      onlyContext c { s.hub.getCtx c with
        st := .free, lostFaults := 0, cmds := (s.hub.getCtx c).cmds.map (fun x => { x with gone := true }),
        finals := s.hub.cnt.att.any fun e => e.1 / 2 ^ 32 == c } s.hub t.hub ∧
      t.hub.getSlcM m = { s.hub.getSlcM m with ctxStatus := stOk } ∧ (∀ x : Master, x ≠ m → t.hub.getSlcM x = s.hub.getSlcM x) ∧
      t = wrote s m 0xB0010 (goWord 1 30 c) { h0 with ctx := t.hub.ctx, slc := { s.hub.slc with m := t.hub.slc.m } } := by
  obtain ⟨-, -, short⟩ := objectWord (x := c) (by omega)
  have all : (s.hub.getCtx c).cmds.filter (·.started) = (s.hub.getCtx c).cmds := List.filter_eq_self.mpr started
  have only := onlyContext_updCtx s.hub c (Ctx.destroyed (s.hub.ctxSlice c) (s.hub.cnt.att.any fun e => e.1 / 2 ^ 32 == c))
  rw [Ctx.destroyed, all] at only
  refine yields_slcCtxCmd (exec_contextDestroy m s low) live reach oper short
    (fun t r => slcCtxCmd_destroys (h := { s.hub.placed t with er := r }) m low there started) fun t =>
    ⟨onlyContext_of_ctx only (by rfl), (getSlcM_of_slc (by rfl) m).trans (getSlcM_updSlcM s.hub m fun x => { x with ctxStatus := stOk }),
      fun x other => (getSlcM_of_slc (by rfl) x).trans (getSlcM_updSlcM_ne s.hub m (fun x => { x with ctxStatus := stOk }) other), by rfl⟩

theorem exportAllocate_yields (low : k < 64) (short : i < 65536) (active : (s.hub.getSlice k).st = .active) (few : s.hub.slc.exports.length < 65536)
    (free : s.hub.exportSlice i = none) (sound : (s.hub.getFence (exportId i)).st ≠ .error) :
    Yields (.exportAllocate m k i) s fun h0 t =>
      t = wrote s m 0xB0020 (goWord k 24 i) { h0 with slc := { s.hub.slc with
        exports := SMap.set 0 s.hub.slc.exports i (k + 1), m := SMap.upd {} s.hub.slc.m m.idx fun x => { x with expStatus := stOk } } } := by
  obtain ⟨-, -, -, -, bound⟩ := exportWord low short
  exact yields_slcExpCmd (exec_exportAllocate m s low short) live reach oper bound
    (fun t r => slcExpCmd_allocates (h := { s.hub.placed t with er := r }) low short active few free sound) fun t => rfl

theorem exportRelease_yields {j : Nat} (low : k < 64) (short : i < 65536) (there : s.hub.exportSlice i = some j)
    (none : (s.hub.getFence (exportId i)).waiters = []) (sound : (s.hub.getFence (exportId i)).st ≠ .error)
    (first : (s.hub.getFence (exportId i)).cyc ≠ s.hub.clk.cycle + 1) :
    Yields (.exportRelease m k i) s fun h0 t =>
      onlyFence (exportId i) { s.hub.getFence (exportId i) with
        st := .error, base := (s.hub.getFence (exportId i)).value, baseSt := (s.hub.getFence (exportId i)).st, cyc := s.hub.clk.cycle + 1 } s.hub t.hub ∧
      t.hub.exportSlice i = Option.none ∧
      t = wrote s m 0xB0020 (goWord 1 30 (at_ k 24 + i)) { h0 with
        fence := t.hub.fence, slc := { s.hub.slc with
          exports := SMap.set 0 s.hub.slc.exports i 0, m := SMap.upd {} s.hub.slc.m m.idx fun x => { x with expStatus := stOk } } } := by
  have shift : at_ k 24 = k * 16777216 := by rw [at_, Nat.shiftLeft_eq]
  obtain ⟨-, -, bound⟩ := objectWord (x := at_ k 24 + i) (by omega)
  have exported : fenceExported (exportId i) = true := go_bit (n := i) (by omega)
  refine yields_slcExpCmd (exec_exportRelease m s low short) live reach oper bound
    (fun t r => slcExpCmd_releases (h := { s.hub.placed t with er := r }) low short there) fun t => ?_
  have fenced := fenceErr_first (h := { s.hub.placed t with er := roleEr s.hub m 0xB0020 (goWord 1 30 (at_ k 24 + i)) }) (mode := 0) (ctx := Option.none)
    (slice := j) first none sound
  obtain ⟨only, -, -, frame⟩ := fenced
  have frame := frame exported
  generalize Hub.fenceErr _ (exportId i) 0 Option.none j = g at only frame ⊢
  have slc : g.slc = s.hub.slc := (congrArg Hub.slc frame :)
  refine ⟨only, ?_, ?_⟩
  · exact exportSlice_released s.hub.slc.exports _ (congrArg (fun x : Slc => SMap.set 0 x.exports i 0) slc)
  · rw [slc, frame]
    rfl

end Clauses

end Sys2Proof.Machine
end

section
/-!
O52: slices created, reset and destroyed (R431 to R435, R445, R446, Table 14.2).
-/
namespace Sys2Proof.Machine

variable {h g : Hub} {m : Master} {k : Nat}

/-! ## Maps of distinct keys -/

section Maps

variable {α : Type} [DecidableEq α] {d : α}

theorem SMap.key_ge {m : SMap α} {n : Nat} (wf : SMap.wfFrom d n m = true) {e : Nat × α} (mem : e ∈ m) : n ≤ e.1 := by
  induction m generalizing n with
  | nil => cases mem
  | cons a m ih =>
    obtain ⟨above, -, rest⟩ := (SMap.wfFrom_cons _ _ _ _ _).mp wf
    rcases List.mem_cons.mp mem with same | later
    · exact same ▸ above
    · exact Nat.le_trans (Nat.le_succ_of_le above) (ih rest later)

theorem SMap.keys_nodup {m : SMap α} {n : Nat} (wf : SMap.wfFrom d n m = true) : (m.map Prod.fst).Nodup := by
  induction m generalizing n with
  | nil => exact List.nodup_nil
  | cons a m ih =>
    obtain ⟨-, -, rest⟩ := (SMap.wfFrom_cons _ _ _ _ _).mp wf
    refine List.nodup_cons.mpr ⟨fun mem => ?_, ih rest⟩
    obtain ⟨e, later, same⟩ := List.mem_map.mp mem
    have := SMap.key_ge rest later
    omega

theorem SMap.get_of_mem {m : SMap α} {n : Nat} (wf : SMap.wfFrom d n m = true) {e : Nat × α} (mem : e ∈ m) : SMap.get d m e.1 = e.2 := by
  induction m generalizing n with
  | nil => cases mem
  | cons a m ih =>
    obtain ⟨-, -, rest⟩ := (SMap.wfFrom_cons _ _ _ _ _).mp wf
    unfold SMap.get
    rcases List.mem_cons.mp mem with same | later
    · rw [same, if_pos rfl]
    · have := SMap.key_ge rest later
      rw [if_neg (by omega)]
      exact ih rest later

/-- Each key of a list without repetition is updated once. -/
theorem get_foldl_upd_mem (f : α → α) {l : List Nat} (once : l.Nodup) (m : SMap α) (c : Nat) :
    SMap.get d (l.foldl (fun m c => SMap.upd d m c f) m) c = if c ∈ l then f (SMap.get d m c) else SMap.get d m c := by
  induction l generalizing m with
  | nil => simp
  | cons a l ih =>
    obtain ⟨fresh, rest⟩ := List.nodup_cons.mp once
    rw [List.foldl_cons, ih rest]
    by_cases here : c = a
    · subst here
      rw [if_neg fresh, if_pos List.mem_cons_self, SMap.get_upd_self]
    · rw [SMap.get_upd_ne _ _ _ here]
      simp [here]

end Maps

theorem mem_activeCtxs (wf : SMap.wf {} h.ctx = true) (c : Nat) :
    c ∈ h.activeCtxs k ↔ (h.getCtx c).st = .active ∧ (h.getCtx c).slice = k := by
  unfold Hub.activeCtxs
  rw [List.mem_map]
  constructor
  · rintro ⟨e, mem, rfl⟩
    obtain ⟨mem, is⟩ := List.mem_filter.mp mem
    rw [Hub.getCtx, SMap.get_of_mem wf mem]
    simpa using is
  · rintro ⟨active, slice⟩
    rcases SMap.get_mem ({} : Ctx) h.ctx c with none | mem
    · rw [Hub.getCtx, none] at active
      cases active
    · exact ⟨_, List.mem_filter.mpr ⟨mem, by
        rw [show SMap.get ({} : Ctx) h.ctx c = h.getCtx c from rfl]
        simp [active, slice]⟩, rfl⟩

theorem activeCtxs_nodup (wf : SMap.wf {} h.ctx = true) : (h.activeCtxs k).Nodup := (List.filter_sublist.map _).nodup (SMap.keys_nodup wf)

/-! ## Contexts that are lost with their slice (R445) -/

/-- The hub with other contexts and another slice table. -/
def Hub.withCtxs (h : Hub) (y : SMap Ctx) (x : Slc) : Hub := { h with ctx := y, slc := x }

theorem rcAdd_withCtxs (y : SMap Ctx) (x : Slc) (off mi lo w n : Nat) : (h.withCtxs y x).rcAdd off mi lo w n = (h.rcAdd off mi lo w n).withCtxs y x := by
  unfold Hub.rcAdd
  split <;> rfl

theorem irqAll_withCtxs (y : SMap Ctx) (x : Slc) (l : List Nat) : (h.withCtxs y x).irqAll l = (h.irqAll l).withCtxs y x := by
  induction l generalizing h with
  | nil => rfl
  | cons v l ih => exact ih (h := h.irqRaise v)

/-- A record reads neither the contexts nor the slice table. -/
theorem record_withCtxs (y : SMap Ctx) (x : Slc) (r : Req) : (h.withCtxs y x).record r = (h.record r).withCtxs y x := by
  unfold Hub.record
  by_cases off : (!h.classOn r.cls) = true
  · rw [if_pos off, if_pos (show (!(h.withCtxs y x).classOn r.cls) = true from off), irqAll_withCtxs]
  rw [if_neg off, if_neg (show ¬ (!(h.withCtxs y x).classOn r.cls) = true from off)]
  by_cases audit : r.cls = 8
  · rw [if_pos audit, if_pos audit]
    rfl
  rw [if_neg audit, if_neg audit]
  by_cases trigger : r.trigger.isSome = true
  · rw [if_pos trigger, if_pos trigger]
    by_cases room : h.er.fifo.length < 64
    · rw [if_pos room]
      exact if_pos room
    · rw [if_neg room]
      exact (if_neg room).trans (rcAdd_withCtxs (h := { h with er := h.er.coalesce h.now r }) ..)
  · rw [if_neg trigger, if_neg trigger]
    by_cases room : h.er.sysq.length < 32
    · rw [if_pos room]
      exact if_pos room
    · rw [if_neg room]
      exact (if_neg room).trans (rcAdd_withCtxs (h := { h with er := h.er.coalesce h.now r }) ..)

/-- Record 0x0302 of context `c`, which had nothing to discard. -/
def Hub.lostReq (h : Hub) (k c : Nat) : Req := { h.evt 3 0x0302 with slice := k, status := stLost, ctx := some c, words := [0, 0] }

/-- The records of the contexts of a list. -/
def Hub.lostList (h : Hub) (k : Nat) (l : List Nat) : Hub := l.foldl (fun g c => g.record (h.lostReq k c)) h

theorem lostRecords_eq (h : Hub) (k : Nat) : lostRecords h k = h.lostList k (h.activeCtxs k) := rfl

theorem lostReq_record (r : Req) (c : Nat) : (h.record r).lostReq k c = h.lostReq k c := by
  rw [record_frame]
  rfl

theorem lostFold_withCtxs (y : SMap Ctx) (x : Slc) (f : Nat → Req) (l : List Nat) :
    l.foldl (fun g c => g.record (f c)) (h.withCtxs y x) = (l.foldl (fun g c => g.record (f c)) h).withCtxs y x := by
  induction l generalizing h with
  | nil => rfl
  | cons a l ih =>
    rw [List.foldl_cons, record_withCtxs, ih]
    rfl

theorem lostFold_frame (f : Nat → Req) (l : List Nat) :
    l.foldl (fun g c => g.record (f c)) h = h.withRecords (l.foldl (fun g c => g.record (f c)) h) := by
  induction l generalizing h with
  | nil => rfl
  | cons a l ih =>
    have first := record_frame h (f a)
    have rest := ih (h := h.record (f a))
    rw [List.foldl_cons]
    generalize l.foldl (fun g c => g.record (f c)) (h.record (f a)) = k at rest ⊢
    generalize h.record (f a) = j at first rest
    rw [rest, first]
    rfl

/-- A context that is lost, as the hub marks it. -/
def Ctx.lostAt (n : Nat) (x : Ctx) : Ctx := Ctx.mark n x x.lose

/-- One context of the list: it has no command, and no watch has fired. -/
theorem lostStep {y : SMap Ctx} {x : Slc} {c : Nat} (cmds : (SMap.get {} y c).cmds = []) (fires : h.dmp.fires = []) :
    (((h.withCtxs y x).enterLost c).2.record { ((h.withCtxs y x).enterLost c).2.evt 3 0x0302 with
      slice := k, status := stLost, ctx := some c, words := [0, ((h.withCtxs y x).enterLost c).1] }) =
    (h.record (h.lostReq k c)).withCtxs (SMap.upd {} y c (Ctx.lostAt (h.clk.cycle + 1))) x := by
  have lost : (h.withCtxs y x).enterLost c = (0, (h.withCtxs y x).updCtx c Ctx.lose) :=
    enterLost_quiet (l := []) cmds (fun _ m => absurd m List.not_mem_nil) fun f m => absurd (fires ▸ m : f ∈ []) List.not_mem_nil
  rw [lost]
  refine Eq.trans (b := (h.withCtxs (SMap.upd {} y c (Ctx.lostAt (h.clk.cycle + 1))) x).record (h.lostReq k c)) rfl ?_
  exact record_withCtxs (SMap.upd {} y c (Ctx.lostAt (h.clk.cycle + 1))) x (h.lostReq k c)

theorem lostAt_cmds (n : Nat) {x : Ctx} (none : x.cmds = []) : (x.lostAt n).cmds = [] := by
  show (x.cmds.filter _).map _ = []
  rw [none]
  rfl

theorem lostFold {y : SMap Ctx} {x : Slc} (l : List Nat) (cmds : ∀ c, (SMap.get {} y c).cmds = []) (fires : h.dmp.fires = []) :
    l.foldl (fun h c => (h.enterLost c).2.record { (h.enterLost c).2.evt 3 0x0302 with
      slice := k, status := stLost, ctx := some c, words := [0, (h.enterLost c).1] }) (h.withCtxs y x) =
    (h.lostList k l).withCtxs (l.foldl (fun y c => SMap.upd {} y c (Ctx.lostAt (h.clk.cycle + 1))) y) x := by
  unfold Hub.lostList
  induction l generalizing h y with
  | nil => rfl
  | cons c l ih =>
    have frame := record_frame h (h.lostReq k c)
    have same : (fun c => (h.record (h.lostReq k c)).lostReq k c) = fun c => h.lostReq k c := funext fun c => lostReq_record _ _
    have left : ∀ d, (SMap.get {} (SMap.upd {} y c (Ctx.lostAt (h.clk.cycle + 1))) d).cmds = [] := fun d => by
      by_cases here : d = c
      · subst here
        rw [SMap.get_upd_self]
        exact lostAt_cmds _ (cmds d)
      · rw [SMap.get_upd_ne _ _ _ here]
        exact cmds d
    rw [List.foldl_cons, lostStep (cmds c) fires, ih left (by rw [frame]; exact fires)]
    have clock : (h.record (h.lostReq k c)).clk = h.clk := by rw [frame]; rfl
    rw [clock, List.foldl_cons, List.foldl_cons]
    congr 3
    funext g d
    rw [lostReq_record]

/-- The contexts of a slice are lost, where none of the die has a command and no watch has fired. -/
theorem loseContexts_quiet (cmds : ∀ c, (h.getCtx c).cmds = []) (fires : h.dmp.fires = []) :
    h.loseContexts k =
      (lostRecords h k).withCtxs ((h.activeCtxs k).foldl (fun y c => SMap.upd {} y c (Ctx.lostAt (h.clk.cycle + 1))) h.ctx) h.slc :=
  lostFold (h := h) (y := h.ctx) (x := h.slc) (h.activeCtxs k) cmds fires

theorem contextsLost_of_fold (wf : SMap.wf {} h.ctx = true) (cmds : ∀ c, (h.getCtx c).cmds = [])
    (same : g.ctx = (h.activeCtxs k).foldl (fun y c => SMap.upd {} y c (Ctx.lostAt (h.clk.cycle + 1))) h.ctx) : contextsLost k h g := by
  intro c
  rw [Hub.getCtx, same, get_foldl_upd_mem _ (activeCtxs_nodup wf)]
  refine if_congr (mem_activeCtxs wf c) ?_ rfl
  have none := cmds c
  show Ctx.mark _ (h.getCtx c) (h.getCtx c).lose = _
  unfold Ctx.lose
  rw [none]
  exact congrArg (fun l => Ctx.mark (h.clk.cycle + 1) (h.getCtx c) { h.getCtx c with st := .lost, lostFaults := 0, cmds := l }) none.symm

/-! ## The reset of a slice that holds nothing but contexts (R445) -/

section Gone

theorem cutSliceGone_none (none : h.cut.cuts = []) (destroyed : Bool) : h.cutSliceGone k destroyed = h := by
  unfold Hub.cutSliceGone
  rw [none]
  rfl

theorem watchOff_none (none : h.dmp.w = []) (w : Nat) : h.watchOff w = h := by
  have off : (h.getWatch w).st = .off := by
    rw [Hub.getWatch, none]
    rfl
  rw [Hub.watchOff, if_pos off]

theorem watchSliceGone_none (none : h.dmp.w = []) : h.watchSliceGone k = h := by
  rw [Hub.watchSliceGone, watchOff_none none, watchOff_none none]

theorem dumpSliceGone_idle (idle : h.dmp.st = .idle) (next : h.dmp.next = none) : h.dumpSliceGone k = h := by
  have same : ({ h with dmp := { h.dmp with next := h.dmp.next.map fun (d : Dump) => { d with gone := d.gone ++ [k] } } } : Hub) = h := by
    rw [next, Option.map_none, ← next]
  unfold Hub.dumpSliceGone
  dsimp only
  rw [same, idle]

theorem discardTransfers_none (none : ∀ e, e < 16 → (h.getEngine e).held k = 0) : h.discardTransfers k = h :=
  foldl_fixed_mem fun e mem => if_pos (none e (List.mem_range.mp mem))

theorem enginesOf_none (none : ∀ e, e < 16 → (h.getEngine e).held k = 0) : h.enginesOf k = [] :=
  List.filter_eq_nil_iff.mpr fun e mem => by rw [none e (List.mem_range.mp mem)]; decide

end Gone

/-- A slice whose reset begins (R445 step 1). -/
def Slice.resetAt (now cause lost : Nat) (y : Slice) : Slice :=
  { y with st := .resetting, resets := satAdd 65535 y.resets 1, reset := now, cause := cause, lostCtx := lost, discarded := 0, aborted := 0, fenceErr := 0 }

/-- A slice that no engine works for reports in the hub cycle of its reset. -/
def Slice.reportedAt (cycle : Nat) (y : Slice) : Slice := { y with engines := [], reported := some cycle }

/-- The contexts after the reset of slice `k`. -/
def Hub.lostCtxs (h : Hub) (k : Nat) : SMap Ctx := (h.activeCtxs k).foldl (fun y c => SMap.upd {} y c (Ctx.lostAt (h.clk.cycle + 1))) h.ctx

theorem updSlice_twice (f f' : Slice → Slice) : (h.updSlice k f).updSlice k f' = h.updSlice k fun x => f' (f x) := by
  unfold Hub.updSlice SMap.upd
  simp only [SMap.get_set_self, set_set]

theorem resetSlice_eq (cause : Nat) :
    h.resetSlice k cause =
      (let g := ((((h.updSlice k (Slice.resetAt h.now cause (h.activeCtxs k).length)).loseContexts k).cutSliceGone k false).watchSliceGone k).dumpSliceGone k
       let j := g.discardTransfers k
       j.updSlice k fun y => { y with engines := j.enginesOf k, reported := if (j.enginesOf k).isEmpty then some j.clk.cycle else none }) := by
  unfold Hub.resetSlice Slice.resetAt
  with_reducible rfl

theorem resetSlice_quiet (cmds : ∀ c, (h.getCtx c).cmds = []) (cuts : h.cut.cuts = []) (idle : h.dmp.st = .idle) (next : h.dmp.next = none)
    (watches : h.dmp.w = []) (fires : h.dmp.fires = []) (free : ∀ e, e < 16 → (h.getEngine e).held k = 0) (cause : Nat) :
    h.resetSlice k cause = (lostRecords h k).withCtxs (h.lostCtxs k)
      (h.updSlice k fun y => (y.resetAt h.now cause (h.activeCtxs k).length).reportedAt h.clk.cycle).slc := by
  have lost := loseContexts_quiet (h := h.updSlice k (Slice.resetAt h.now cause (h.activeCtxs k).length)) (k := k) cmds fires
  have records : lostRecords (h.updSlice k (Slice.resetAt h.now cause (h.activeCtxs k).length)) k =
      (lostRecords h k).withCtxs h.ctx (h.updSlice k (Slice.resetAt h.now cause (h.activeCtxs k).length)).slc :=
    lostFold_withCtxs (h := h) h.ctx (h.updSlice k (Slice.resetAt h.now cause (h.activeCtxs k).length)).slc (h.lostReq k) (h.activeCtxs k)
  have frame : lostRecords h k = h.withRecords (lostRecords h k) := lostFold_frame (h.lostReq k) (h.activeCtxs k)
  rw [records] at lost
  have same : (lostRecords h k).withCtxs (h.lostCtxs k) (h.updSlice k (Slice.resetAt h.now cause (h.activeCtxs k).length)).slc =
      (h.withRecords (lostRecords h k)).withCtxs (h.lostCtxs k) (h.updSlice k (Slice.resetAt h.now cause (h.activeCtxs k).length)).slc :=
    congrArg (fun r : Hub => r.withCtxs _ _) frame
  have here : (h.updSlice k (Slice.resetAt h.now cause (h.activeCtxs k).length)).loseContexts k =
      (lostRecords h k).withCtxs (h.lostCtxs k) (h.updSlice k (Slice.resetAt h.now cause (h.activeCtxs k).length)).slc := lost
  rw [resetSlice_eq, here]
  generalize lostRecords h k = r at same ⊢
  obtain ⟨g, made⟩ : ∃ g, g = r.withCtxs (h.lostCtxs k) (h.updSlice k (Slice.resetAt h.now cause (h.activeCtxs k).length)).slc := ⟨_, rfl⟩
  rw [← made] at same ⊢
  have dmp : g.dmp = h.dmp := (congrArg Hub.dmp same :)
  have cut : g.cut = h.cut := (congrArg Hub.cut same :)
  have slc : g.slc = (h.updSlice k (Slice.resetAt h.now cause (h.activeCtxs k).length)).slc := (congrArg Hub.slc same :)
  have clk : g.clk = h.clk := (congrArg Hub.clk same :)
  have left : ∀ e, e < 16 → (g.getEngine e).held k = 0 := fun e low => by
    rw [Hub.getEngine, slc]
    exact free e low
  rw [cutSliceGone_none (by rw [cut]; exact cuts), watchSliceGone_none (by rw [dmp]; exact watches),
    dumpSliceGone_idle (by rw [dmp]; exact idle) (by rw [dmp]; exact next)]
  dsimp only
  rw [discardTransfers_none left, enginesOf_none left, clk, made]
  have slices := congrArg Hub.slc (updSlice_twice (h := h) (k := k) (Slice.resetAt h.now cause (h.activeCtxs k).length) (Slice.reportedAt h.clk.cycle))
  exact congrArg (r.withCtxs (h.lostCtxs k)) slices

section Prepared

variable (cmds : ∀ c, (h.getCtx c).cmds = []) (cuts : h.cut.cuts = []) (idle : h.dmp.st = .idle) (next : h.dmp.next = none) (watches : h.dmp.w = [])
  (fires : h.dmp.fires = []) (free : ∀ e, e < 16 → (h.getEngine e).held k = 0)
include cmds cuts idle next watches fires free

/-- The slice's entry and the master's status are set before the reset sequence begins. -/
theorem resetSlice_prepared (m : Master) (f : SlcM → SlcM) (pre : Slice → Slice) (cause : Nat) :
    ((h.updSlcM m f).updSlice k pre).resetSlice k cause = (lostRecords h k).withCtxs (h.lostCtxs k)
      ((h.updSlcM m f).updSlice k fun y => ((pre y).resetAt h.now cause (h.activeCtxs k).length).reportedAt h.clk.cycle).slc := by
  have records : lostRecords ((h.updSlcM m f).updSlice k pre) k = (lostRecords h k).withCtxs h.ctx ((h.updSlcM m f).updSlice k pre).slc :=
    lostFold_withCtxs (h := h) h.ctx ((h.updSlcM m f).updSlice k pre).slc (h.lostReq k) (h.activeCtxs k)
  have slices := congrArg Hub.slc (updSlice_twice (h := h.updSlcM m f) (k := k) pre
    fun y => (y.resetAt h.now cause (h.activeCtxs k).length).reportedAt h.clk.cycle)
  rw [resetSlice_quiet (h := (h.updSlcM m f).updSlice k pre) cmds cuts idle next watches fires free, records]
  exact congrArg ((lostRecords h k).withCtxs (h.lostCtxs k)) slices

/-- SLC_CMD op 2 (R445). -/
theorem slcCmd_resets (low : k < 64) (quiet : h.slc.busy = none) (active : (h.getSlice k).st = .active) :
    h.slcCmd m (goWord 2 28 k) = (lostRecords h k).withCtxs (h.lostCtxs k)
      ((h.updSlcM m fun x => { x with cmdStatus := stOk }).updSlice k fun y =>
        (({ y with expErr := 0 } : Slice).resetAt h.now 0 (h.activeCtxs k).length).reportedAt h.clk.cycle).slc := by
  obtain ⟨go, op, slice, -⟩ := slcWord low 2 (by decide)
  have word : h.slcCmd m (goWord 2 28 k) = h.sliceReset m k false := by
    unfold Hub.slcCmd
    dsimp only
    rw [go, quiet, op, slice]
    rfl
  have ok : h.resetStatus k false = stOk := by
    rw [Hub.resetStatus, active]
    rfl
  rw [word]
  unfold Hub.sliceReset
  dsimp only
  rw [ok, if_neg fun c => c rfl, if_neg (by decide)]
  exact resetSlice_prepared cmds cuts idle next watches fires free m _ _ 0

/-- SLC_CMD op 4 (R446). -/
theorem slcCmd_died (low : k < 64) (quiet : h.slc.busy = none) (active : (h.getSlice k).st = .active) (pos : 0 < k) (none : h.slc.exports = []) :
    h.slcCmd m (goWord 4 28 k) = (lostRecords h k).withCtxs (h.lostCtxs k)
      ((h.updSlcM m fun x => { x with cmdStatus := stOk }).updSlice k fun y =>
        (({ y with died := true, expErr := 0 } : Slice).resetAt h.now 1 (h.activeCtxs k).length).reportedAt h.clk.cycle).slc := by
  obtain ⟨go, op, slice, -⟩ := slcWord low 4 (by decide)
  have word : h.slcCmd m (goWord 4 28 k) = h.sliceReset m k true := by
    unfold Hub.slcCmd
    dsimp only
    rw [go, quiet, op, slice]
    rfl
  have ok : h.resetStatus k true = stOk := by
    rw [Hub.resetStatus, active]
    simp [Nat.pos_iff_ne_zero.mp pos]
  have exports : (h.updSlcM m fun x => { x with cmdStatus := stOk }).errorExports k = (0, h.updSlcM m fun x => { x with cmdStatus := stOk }) := by
    unfold Hub.errorExports Hub.sliceExports
    rw [show (h.updSlcM m fun x => { x with cmdStatus := stOk }).slc.exports = [] from none]
    rfl
  rw [word]
  unfold Hub.sliceReset
  dsimp only
  rw [ok, if_neg fun c => c rfl, if_pos rfl, exports]
  exact resetSlice_prepared cmds cuts idle next watches fires free m _ _ 1

end Prepared

/-- The slice table after a reset: the master's status, and the slice's entry. -/
def Hub.resetSlc (h : Hub) (m : Master) (k : Nat) (f : Slice → Slice) : Slc := ((h.updSlcM m fun x => { x with cmdStatus := stOk }).updSlice k f).slc

theorem lostRecords_lands (s : State) (m : Master) (k : Nat) (y : SMap Ctx) (x : Slc) (t : SMap Nat) (r : Er) :
    lands s (((lostRecords { s.hub.placed t with er := r } k).withCtxs y x).respond m 0 false) =
      { s with hub := { lostRecords { s.hub.placed t with er := r } k with ctx := y, slc := x, resp := answered s.hub m } } := by
  have frame : lostRecords { s.hub.placed t with er := r } k = Hub.withRecords { s.hub.placed t with er := r } (lostRecords { s.hub.placed t with er := r } k) :=
    lostFold_frame _ _
  generalize lostRecords { s.hub.placed t with er := r } k = g at frame ⊢
  have out : g.out = [] := congrArg Hub.out frame
  have resp : g.resp = s.hub.resp := (congrArg Hub.resp frame :)
  refine lands_of_out s out ?_
  rw [answered, ← resp]
  rfl

theorem slcLost_yields {s : State} {m : Master} {k w : Nat} {c : Instr} {f : Slice → Slice} (live : s.hub.live = true) (reach : s.hub.reaches m = true)
    (oper : s.hub.role m = 1) (x : exec c s = run c (fun mem h => h.busWrite mem m 0xB0000 4 w) s) (b : w < 2 ^ 32)
    (wf : SMap.wf {} s.hub.ctx = true) (cmds : ∀ c, (s.hub.getCtx c).cmds = [])
    (effect : ∀ t r, Hub.slcCmd { s.hub.placed t with er := r } m w =
      (lostRecords { s.hub.placed t with er := r } k).withCtxs (s.hub.lostCtxs k) (s.hub.resetSlc m k f)) :
    Yields c s fun h0 t =>
      t.hub.slc.e = SMap.set {} s.hub.slc.e k (f (s.hub.getSlice k)) ∧ contextsLost k s.hub t.hub ∧
      t.hub.getSlcM m = { s.hub.getSlcM m with cmdStatus := stOk } ∧ (∀ x : Master, x ≠ m → t.hub.getSlcM x = s.hub.getSlcM x) ∧
      t = { s with hub := { lostRecords { h0 with er := roleEr s.hub m 0xB0000 w } k with
        ctx := t.hub.ctx, slc := { s.hub.slc with e := t.hub.slc.e, m := t.hub.slc.m }, resp := answered s.hub m } } := by
  refine yields_slcCmd x live reach oper b effect fun t => ?_
  rw [lostRecords_lands]
  exact ⟨rfl, contextsLost_of_fold wf cmds rfl, getSlcM_updSlcM s.hub m fun x => { x with cmdStatus := stOk },
    fun x other => getSlcM_updSlcM_ne s.hub m (fun x => { x with cmdStatus := stOk }) other, rfl⟩

/-! ## Creation (R431, R433 to R435) -/

/-- The slice comes into being. -/
def Hub.sliceBorn (h : Hub) (k pasid : Nat) : Hub := h.updSlice k fun _ => { st := .active, pasid := pasid, created := h.now }

/-- The drawn keys of a new slice. -/
def Hub.bornKeys (h : Hub) (k pasid : Nat) (x : SliceKeys) : SliceKeys :=
  { cur := (h.sliceBorn k pasid).deriveKeys k 0 (h.drawn 0) [] 0xFFFFFFFFFFFFFFFF, section_ := x.section_, policyEpoch := h.clk.epoch }

/-- The hub in which slice `k` comes into being with drawn keys. -/
def Hub.sliceKeyed (h : Hub) (k pasid : Nat) : Hub :=
  ((h.sliceBorn k pasid).draw 32).2.updKeys k (h.bornKeys k pasid)

theorem sliceNew_keyed (pos : 0 < k) (unheld : (h.getKeys k).heldValid = false) (pasid origin : Nat) :
    h.sliceNew k pasid origin = (h.sliceKeyed k pasid).record { h.evt 3 0x0310 with slice := k, origin := origin, arg := pasid } := by
  unfold Hub.sliceNew Hub.genZero
  dsimp only
  rw [unheld, if_neg (Nat.pos_iff_ne_zero.mp pos)]
  rfl

theorem sliceKeyed_parts (h : Hub) (k pasid : Nat) :
    (h.sliceKeyed k pasid).getSlice k = { st := .active, pasid := pasid, created := h.now } ∧
    (∀ j, j ≠ k → (h.sliceKeyed k pasid).getSlice j = h.getSlice j) ∧
    onlyKeys k { cur := (h.sliceKeyed k pasid).deriveKeys k 0 (h.drawn 0) [] 0xFFFFFFFFFFFFFFFF, section_ := (h.getKeys k).section_,
                 policyEpoch := h.clk.epoch } h (h.sliceKeyed k pasid) :=
  ⟨Hub.getSlice_updSlice h k fun _ => { st := .active, pasid := pasid, created := h.now },
    fun _ other => Hub.getSlice_updSlice_ne h (fun _ => { st := .active, pasid := pasid, created := h.now }) other,
    Hub.getKeys_updKeys h k (h.bornKeys k pasid), fun _ other => Hub.getKeys_updKeys_ne h (h.bornKeys k pasid) other⟩

/-- The record of a new slice. -/
def Hub.bornReq (h : Hub) (k pasid origin : Nat) : Req := { h.evt 3 0x0310 with slice := k, origin := origin, arg := pasid }

theorem classOn_of_rws {a b : Hub} (same : a.rws = b.rws) (c : Nat) : a.classOn c = b.classOn c := by
  rw [Hub.classOn, Hub.act, Hub.rwsGet, same]
  rfl

theorem sliceNew_recorded (pos : 0 < k) (unheld : (h.getKeys k).heldValid = false) (pasid origin : Nat) (on : h.classOn 3 = true)
    (room : h.er.sysq.length < 32) :
    h.sliceNew k pasid origin = { h.sliceKeyed k pasid with er := { h.er with sysq := h.er.sysq ++ [h.bornReq k pasid origin] } } := by
  have rws : (h.sliceKeyed k pasid).rws = h.rws := rfl
  have er : (h.sliceKeyed k pasid).er = h.er := rfl
  have noted := record_sysq (h.sliceKeyed k pasid) (h.bornReq k pasid origin) ((classOn_of_rws rws 3).trans on) (show (3 : Nat) ≠ 8 by decide) rfl
    (by rw [er]; exact room)
  rw [sliceNew_keyed pos unheld, ← er]
  exact noted

/-- SLC_CMD op 1. -/
theorem slcCmd_creates (low : k < 64) (quiet : h.slc.busy = none) (ok : h.createStatus k (h.rwGet 0 0xB0004 m.idx) = stOk) (pos : 0 < k)
    (unheld : (h.getKeys k).heldValid = false) (on : h.classOn 3 = true) (room : h.er.sysq.length < 32) :
    h.slcCmd m (goWord 1 28 k) =
      (let g := (h.updSlcM m fun x => { x with cmdStatus := stOk }).sliceKeyed k (h.rwGet 0 0xB0004 m.idx)
       { g with
         er := { h.er with sysq := h.er.sysq ++ [{ h.evt 3 0x0310 with slice := k, origin := h.originOf m, arg := h.rwGet 0 0xB0004 m.idx }] },
         chain := { h.chain with queue := h.chain.queue ++ [{ owner := .slices, scope := 1, target := k }] },
         slc := { g.slc with busy := some (m, k) } }) := by
  obtain ⟨go, op, slice, -⟩ := slcWord low 1 (by decide)
  have word : h.slcCmd m (goWord 1 28 k) = h.sliceCreate m k := by
    unfold Hub.slcCmd
    dsimp only
    rw [go, quiet, op, slice]
    rfl
  have made := sliceNew_recorded (h := h.updSlcM m fun x => { x with cmdStatus := stOk }) pos unheld (h.rwGet 0 0xB0004 m.idx) (h.originOf m)
    ((classOn_of_rws (by rfl) 3).trans on) room
  rw [word]
  unfold Hub.sliceCreate
  dsimp only
  rw [ok, if_neg (by decide), if_neg fun c => c rfl]
  refine (congrArg (fun g : Hub => ({ g.commitAdd .slices 1 k with slc := { (g.commitAdd .slices 1 k).slc with busy := some (m, k) } } : Hub))
    made).trans ?_
  rfl

theorem getSlice_of_slc {a b : Hub} (same : a.slc.e = b.slc.e) (j : Nat) : a.getSlice j = b.getSlice j := congrArg (fun l => SMap.get ({} : Slice) l j) same
theorem getKeys_of_slc {a b : Hub} (same : a.slc.keys = b.slc.keys) (j : Nat) : a.getKeys j = b.getKeys j :=
  congrArg (fun l => SMap.get ({} : SliceKeys) l j) same
theorem deriveKeys_of_slc {a b : Hub} (boot : a.boot = b.boot) (same : a.slc.e = b.slc.e) (k gen : Nat) (d p : List Byte) (id : Nat) :
    a.deriveKeys k gen d p id = b.deriveKeys k gen d p id := by
  unfold Hub.deriveKeys
  rw [boot, getSlice_of_slc same]

theorem sliceCreate_yields {s : State} (live : s.hub.live = true) (reach : s.hub.reaches m = true) (oper : s.hub.role m = 1)
    (room : s.hub.er.sysq.length < 31) (low : k < 64) (quiet : s.hub.slc.busy = none)
    (ok : s.hub.createStatus k (s.hub.rwGet 0 0xB0004 m.idx) = stOk) (pos : 0 < k) (unheld : (s.hub.getKeys k).heldValid = false)
    (on : s.hub.classOn 3 = true) :
    Yields (.sliceCreate m k) s fun h0 t =>
      t.hub.getSlice k = { st := .active, pasid := s.hub.rwGet 0 0xB0004 m.idx, created := s.hub.now } ∧ (∀ j : Nat, j ≠ k → t.hub.getSlice j = s.hub.getSlice j) ∧
      onlyKeys k {
        cur := t.hub.deriveKeys k 0 ((List.range 32).map fun i => Config.drbg (s.hub.sec.drbg + i)) [] 0xFFFFFFFFFFFFFFFF,
        section_ := (s.hub.getKeys k).section_, policyEpoch := s.hub.clk.epoch } s.hub t.hub ∧
      t.hub.getSlcM m = { s.hub.getSlcM m with cmdStatus := stOk } ∧ (∀ x : Master, x ≠ m → t.hub.getSlcM x = s.hub.getSlcM x) ∧
      t = { s with hub := { h0 with
        slc := { s.hub.slc with e := t.hub.slc.e, keys := t.hub.slc.keys, m := t.hub.slc.m, busy := some (m, k) },
        sec := { s.hub.sec with drbg := s.hub.sec.drbg + 32 },
        chain := { s.hub.chain with queue := s.hub.chain.queue ++ [{ owner := .slices, scope := 1, target := k }] }, resp := answered s.hub m,
        er := { roleEr s.hub m 0xB0000 (goWord 1 28 k) with
          sysq := (roleEr s.hub m 0xB0000 (goWord 1 28 k)).sysq ++ [{ s.hub.evt 3 0x0310 with
            slice := k, origin := s.hub.originOf m, arg := s.hub.rwGet 0 0xB0004 m.idx }] } } } := by
  obtain ⟨-, -, -, short⟩ := slcWord low 1 (by decide)
  refine yields_slcCmd (exec_sliceCreate m s low) live reach oper short (fun t r => rfl) fun t => ?_
  rw [slcCmd_creates (h := { s.hub.placed t with er := roleEr s.hub m 0xB0000 (goWord 1 28 k) }) low quiet ok pos unheld on (roleEr_room room)]
  obtain ⟨slice, slices, keys⟩ := sliceKeyed_parts (s.hub.updSlcM m fun x => { x with cmdStatus := stOk }) k (s.hub.rwGet 0 0xB0004 m.idx)
  obtain ⟨self, others⟩ := keys
  refine ⟨(getSlice_of_slc (by rfl) k).trans slice, fun j other => (getSlice_of_slc (by rfl) j).trans (slices j other),
    ⟨(getKeys_of_slc (by rfl) k).trans (self.trans ?_), fun j other => (getKeys_of_slc (by rfl) j).trans (others j other)⟩,
    (getSlcM_of_slc (by rfl) m).trans (getSlcM_updSlcM s.hub m fun x => { x with cmdStatus := stOk }),
    fun x other => (getSlcM_of_slc (by rfl) x).trans (getSlcM_updSlcM_ne s.hub m (fun x => { x with cmdStatus := stOk }) other), ?_⟩
  · exact congrArg (fun g : KeyGen => ({ cur := g, section_ := (s.hub.getKeys k).section_, policyEpoch := s.hub.clk.epoch } : SliceKeys))
      (deriveKeys_of_slc (by rfl) (by rfl) ..)
  · dsimp only [lands, Hub.respond, Hub.sliceKeyed, Hub.updKeys, Hub.draw, Hub.sliceBorn, Hub.updSlice, Hub.updSlcM, Hub.placed]
    rfl

/-! ## Destruction (R433, R434) -/

/-- The units that leave a slice: their bytes and their moves are made one by one, and one does not read the other. -/
theorem unitsLeave (l : List Nat) {a b : Hub} (rws : a.rws = g.rws) (moves : b.slc.moves = g.slc.moves) (unit : b.slc.unit = g.slc.unit) :
    l.foldl (fun h u => (h.umapByte u 0).queueMove u 0) g =
      { g with rws := (l.foldl (fun h u => h.umapByte u 0) a).rws, slc := { g.slc with moves := (l.foldl (fun h u => h.queueMove u 0) b).slc.moves } } := by
  induction l generalizing g a b with
  | nil => rw [List.foldl_nil, List.foldl_nil, List.foldl_nil, rws, moves]
  | cons u l ih =>
    rw [List.foldl_cons, List.foldl_cons, List.foldl_cons, ih (g := (g.umapByte u 0).queueMove u 0) (a := a.umapByte u 0) (b := b.queueMove u 0)]
    · rfl
    · exact congrArg (fun r => (Hub.umapByte { a with rws := r } u 0).rws) rws
    · exact congrArg₂ (fun q n => (Hub.queueMove { b with slc := { b.slc with moves := q, unit := n } } u 0).slc.moves) moves unit
    · exact unit

theorem mem_insertBy {α : Type} {f : α → Nat} {a x : α} {l : List α} : x ∈ insertBy f a l ↔ x = a ∨ x ∈ l := by
  rw [(insertBy_perm f a l).mem_iff, List.mem_cons]

/-- A unit of another slice than 0 that leaves it has its move in the queue. -/
theorem queueMove_mem (l : List Nat) (units : ∀ u ∈ l, h.unitSlice u ≠ 0) (u : Nat) (mem : u ∈ l ∨ (u, 0) ∈ h.slc.moves) :
    (u, 0) ∈ (l.foldl (fun h u => h.queueMove u 0) h).slc.moves := by
  induction l generalizing h with
  | nil => exact mem.resolve_left List.not_mem_nil
  | cons v l ih =>
    have away : h.unitSlice v ≠ 0 := units v List.mem_cons_self
    have moved : (h.queueMove v 0).slc.moves = insertBy Prod.fst (v, 0) (h.slc.moves.filter fun m => m.1 != v) := if_neg away
    refine ih (h := h.queueMove v 0) (fun u m => units u (List.mem_cons_of_mem _ m)) ?_
    by_cases here : u = v
    · exact .inr (by rw [moved, mem_insertBy, here]; exact .inl rfl)
    · rcases mem with mem | mem
      · exact .inl (List.mem_of_ne_of_mem here mem)
      · exact .inr (by rw [moved, mem_insertBy]; exact .inr (List.mem_filter.mpr ⟨mem, by simpa using here⟩))

/-- The hub without the keys, tokens and entry of a destroyed slice, before its units leave it (Table 14.2). -/
def Hub.sliceErased (h : Hub) (k : Nat) : Hub :=
  ({ h with sec := { h.sec with revokes := h.sec.revokes.filter (· != k) } } : Hub).updKeys k (fun x => { policyEpoch := x.policyEpoch })
    |>.updSlice k fun y => { y with st := .destroying, destroyTick := h.now, expReleased := 0 }

theorem sliceErased_unit (h : Hub) (k : Nat) : (h.sliceErased k).slc.unit = h.slc.unit := rfl

/-- What the cut engine, the watches and the dump engine hold of the slice is gone. -/
def Hub.sliceEmptied (h : Hub) (k : Nat) : Hub := ((h.cutSliceGone k true).watchSliceGone k).dumpSliceGone k

/-- The last step of a destruction: the slice's units leave it. -/
def Hub.unitsGone (h : Hub) (k : Nat) : Hub :=
  ((h.sliceEmptied k).sliceUnits k).foldl (fun h u => (h.umapByte u 0).queueMove u 0) (h.sliceEmptied k)

theorem unitsGone_eq (h : Hub) (k : Nat) :
    (((((h.cutSliceGone k true).watchSliceGone k).dumpSliceGone k).sliceUnits k).foldl (fun h u => (h.umapByte u 0).queueMove u 0)
      (((h.cutSliceGone k true).watchSliceGone k).dumpSliceGone k)) = h.unitsGone k := by
  unfold Hub.unitsGone Hub.sliceEmptied
  with_reducible rfl

theorem unitsGone_idle (cuts : h.cut.cuts = []) (idle : h.dmp.st = .idle) (next : h.dmp.next = none) (watches : h.dmp.w = []) :
    h.unitsGone k = (h.sliceUnits k).foldl (fun h u => (h.umapByte u 0).queueMove u 0) h := by
  rw [Hub.unitsGone, Hub.sliceEmptied, cutSliceGone_none cuts, watchSliceGone_none watches, dumpSliceGone_idle idle next]

theorem sliceUnits_of_unit (same : g.slc.unit = h.slc.unit) : g.sliceUnits k = h.sliceUnits k :=
  List.filter_congr fun u _ => by rw [Hub.unitSlice, same]; rfl

/-- SLC_CMD op 3. -/
theorem slcCmd_destroys (low : k < 64) (quiet : h.slc.busy = none) (ok : h.destroyStatus k = stOk) (none_ : h.slc.exports = []) (cuts : h.cut.cuts = [])
    (idle : h.dmp.st = .idle) (next : h.dmp.next = none) (watches : h.dmp.w = []) :
    h.slcCmd m (goWord 3 28 k) = (h.sliceUnits k).foldl (fun h u => (h.umapByte u 0).queueMove u 0)
      ((h.updSlcM m fun x => { x with cmdStatus := stOk }).sliceErased k) := by
  obtain ⟨go, op, slice, -⟩ := slcWord low 3 (by decide)
  have word : h.slcCmd m (goWord 3 28 k) = h.sliceDestroy m k := by
    unfold Hub.slcCmd
    dsimp only
    rw [go, quiet, op, slice]
    rfl
  have own : (h.updSlcM m fun x => { x with cmdStatus := stOk }).sliceExports k = [] := by
    rw [Hub.sliceExports, show (h.updSlcM m fun x => { x with cmdStatus := stOk }).slc.exports = [] from none_]
    rfl
  have exports : (h.updSlcM m fun x => { x with cmdStatus := stOk }).errorExports k = (0, h.updSlcM m fun x => { x with cmdStatus := stOk }) := by
    rw [Hub.errorExports, own]
    rfl
  have kept : (h.updSlcM m fun x => { x with cmdStatus := stOk }).slc.exports.filter (fun e => e.2 != k + 1) =
      (h.updSlcM m fun x => { x with cmdStatus := stOk }).slc.exports := by
    rw [show (h.updSlcM m fun x => { x with cmdStatus := stOk }).slc.exports = [] from none_]
    rfl
  rw [word]
  unfold Hub.sliceDestroy
  dsimp only
  rw [ok, if_neg fun c => c rfl, exports, own]
  dsimp only
  rw [kept, unitsGone_eq]
  refine (congrArg (fun g : Hub => g.unitsGone k) (?_ : _ = (h.updSlcM m fun x => { x with cmdStatus := stOk }).sliceErased k)).trans ?_
  · rfl
  · rw [unitsGone_idle (h := (h.updSlcM m fun x => { x with cmdStatus := stOk }).sliceErased k) cuts idle next watches]
    have same := sliceUnits_of_unit (k := k) (sliceErased_unit (h.updSlcM m fun x => { x with cmdStatus := stOk }) k)
    exact congrArg _ (same.trans (sliceUnits_of_unit rfl))

theorem sliceDestroy_yields {s : State} (live : s.hub.live = true) (reach : s.hub.reaches m = true) (oper : s.hub.role m = 1) (low : k < 64)
    (quiet : s.hub.slc.busy = none) (ok : s.hub.destroyStatus k = stOk) (none_ : s.hub.slc.exports = []) (cuts : s.hub.cut.cuts = [])
    (idle : s.hub.dmp.st = .idle) (next : s.hub.dmp.next = none) (watches : s.hub.dmp.w = []) :
    Yields (.sliceDestroy m k) s fun h0 t =>
      (∀ u ∈ s.hub.sliceUnits k, k ≠ 0 → (u, 0) ∈ t.hub.slc.moves) ∧
      t.hub.getSlcM m = { s.hub.getSlcM m with cmdStatus := stOk } ∧ (∀ x : Master, x ≠ m → t.hub.getSlcM x = s.hub.getSlcM x) ∧
      t = wrote s m 0xB0000 (goWord 3 28 k) { h0 with
        slc := { s.hub.slc with
          e := SMap.set {} s.hub.slc.e k { s.hub.getSlice k with st := .destroying, destroyTick := s.hub.now, expReleased := 0 },
          keys := SMap.set {} s.hub.slc.keys k { policyEpoch := (s.hub.getKeys k).policyEpoch }, m := t.hub.slc.m,
          moves := ((s.hub.sliceUnits k).foldl (fun h u => h.queueMove u 0) s.hub).slc.moves },
        rws := ((s.hub.sliceUnits k).foldl (fun h u => h.umapByte u 0) s.hub).rws,
        sec := { s.hub.sec with revokes := s.hub.sec.revokes.filter (· != k) } } := by
  obtain ⟨-, -, -, short⟩ := slcWord low 3 (by decide)
  have units (t : SMap Nat) (r : Er) : Hub.sliceUnits { s.hub.placed t with er := r } k = s.hub.sliceUnits k := sliceUnits_of_unit (by rfl)
  have own : ∀ u ∈ s.hub.sliceUnits k, s.hub.unitSlice u = k := fun u mem => by simpa using (List.mem_filter.mp mem).2
  generalize list : s.hub.sliceUnits k = l at units own ⊢
  have made (t : SMap Nat) (r : Er) : Hub.slcCmd { s.hub.placed t with er := r } m (goWord 3 28 k) = l.foldl (fun h u => (h.umapByte u 0).queueMove u 0)
      ((Hub.updSlcM { s.hub.placed t with er := r } m fun x => { x with cmdStatus := stOk }).sliceErased k) := by
    rw [slcCmd_destroys (h := { s.hub.placed t with er := r }) low quiet ok none_ cuts idle next watches, units t r]
  refine yields_slcCmd (exec_sliceDestroy m s low) live reach oper short
    (fun t r => (made t r).trans (unitsLeave (a := s.hub) (b := s.hub) l (by rfl) (by rfl) (by rfl))) fun t => ?_
  refine ⟨fun u mem pos => ?_, (getSlcM_of_slc (by rfl) m).trans (getSlcM_updSlcM s.hub m fun x => { x with cmdStatus := stOk }),
    fun x other => (getSlcM_of_slc (by rfl) x).trans (getSlcM_updSlcM_ne s.hub m (fun x => { x with cmdStatus := stOk }) other), ?_⟩
  · exact queueMove_mem l (fun v m => by rw [own v m]; exact pos) u (.inl mem)
  · rfl

/-- Settles O52: a context created, refused and destroyed, a slice created, reset, dead and destroyed, an exported fence allocated and released. -/
theorem sliceRequests : Obligations.SliceRequests := by
  intro s m live reach oper room
  have at24 (k : Nat) : at_ k 24 = k * 2 ^ 24 := by rw [at_, Nat.shiftLeft_eq]
  have context (k : Nat) : 2 ^ 31 + k * 2 ^ 24 = goWord k 24 0 := by rw [goWord, at24, Nat.add_zero]
  have export_ (k i : Nat) : 2 ^ 31 + k * 2 ^ 24 + i = goWord k 24 i := by rw [goWord, at24]
  have object (c : Nat) : 2 ^ 31 + 2 ^ 30 + c = goWord 1 30 c := congrArg (· + c) (show 2 ^ 31 + 2 ^ 30 = 2 ^ 31 + at_ 1 30 by decide)
  have create (k : Nat) : 2 ^ 31 + 2 ^ 28 + k = goWord 1 28 k := congrArg (· + k) (show 2 ^ 31 + 2 ^ 28 = 2 ^ 31 + at_ 1 28 by decide)
  have reset (k : Nat) : 2 ^ 31 + 2 ^ 29 + k = goWord 2 28 k := congrArg (· + k) (show 2 ^ 31 + 2 ^ 29 = 2 ^ 31 + at_ 2 28 by decide)
  have died (k : Nat) : 2 ^ 31 + 2 ^ 30 + k = goWord 4 28 k := congrArg (· + k) (show 2 ^ 31 + 2 ^ 30 = 2 ^ 31 + at_ 4 28 by decide)
  have destroy (k : Nat) : 2 ^ 31 + 3 * 2 ^ 28 + k = goWord 3 28 k := congrArg (· + k) (show 2 ^ 31 + 3 * 2 ^ 28 = 2 ^ 31 + at_ 3 28 by decide)
  refine ⟨fun k c low active few quota lowest quiet => ?_, fun k low few full on => ?_, fun c low there started => ?_,
    fun k low free ok pos unheld on => ?_, fun k low free active wf cmds cuts idle next watches fires engines => ⟨?_, fun none_ pos => ?_⟩,
    fun k low free ok none_ cuts idle next watches => ?_, fun k i low short active few free sound => ?_, fun k j i low short there alone sound first => ?_⟩
  · subst lowest
    rw [context]
    intro turn
    obtain ⟨t, ran, kept, parts⟩ := contextCreate_yields live reach oper low active few quota quiet turn
    exact ⟨t, ran, kept, fun wf => ⟨(lowestFree_spec wf).1, fun x below => (lowestFree_spec wf).2 x (Nat.zero_le x) below⟩, parts⟩
  · rw [context]
    exact contextFull_yields live reach oper low few full on room
  · rw [object]
    exact contextDestroy_yields live reach oper low there started
  · rw [create]
    exact sliceCreate_yields live reach oper room low free ok pos unheld on
  · obtain ⟨-, -, -, bound⟩ := slcWord low 2 (by decide)
    rw [reset]
    exact slcLost_yields (k := k)
      (f := fun y => (({ y with expErr := 0 } : Slice).resetAt s.hub.now 0 (s.hub.activeCtxs k).length).reportedAt s.hub.clk.cycle)
      live reach oper (exec_sliceReset m s low) bound wf cmds
      fun t r => slcCmd_resets (h := { s.hub.placed t with er := r }) cmds cuts idle next watches fires engines low free active
  · obtain ⟨-, -, -, bound⟩ := slcWord low 4 (by decide)
    rw [died]
    exact slcLost_yields (k := k)
      (f := fun y => (({ y with died := true, expErr := 0 } : Slice).resetAt s.hub.now 1 (s.hub.activeCtxs k).length).reportedAt s.hub.clk.cycle)
      live reach oper (exec_sliceProcessDied m s low) bound wf cmds
      fun t r => slcCmd_died (h := { s.hub.placed t with er := r }) cmds cuts idle next watches fires engines low free active pos none_
  · rw [destroy]
    exact sliceDestroy_yields live reach oper low free ok none_ cuts idle next watches
  · rw [export_]
    exact exportAllocate_yields live reach oper low short active few free sound
  · rw [show 2 ^ 31 + 2 ^ 30 + k * 2 ^ 24 + i = goWord 1 30 (at_ k 24 + i) by rw [← object, at24, Nat.add_assoc _ _ i]]
    exact exportRelease_yields live reach oper low short there alone sound first

end Sys2Proof.Machine
end

section
/-!
O37: the epoch boundary (R61 to R67, R242, R432, R442 to R444, Table 14.2): the Chain's counts and the drain of the attribution caches.
-/
namespace Sys2Proof.Machine

variable {h g : Hub}

/-! ## The Chain at a boundary (R61, R62) -/

/-- What a boundary makes of a station's link. -/
def Link.atBoundary (l : Link) : Link := if l.bypass = .observed then l.boundary else { l with errFlits := 0 }

theorem atBoundary_bypass (l : Link) : l.atBoundary.bypass = l.bypass := by
  unfold Link.atBoundary Link.boundary Link.miss
  split
  · split <;> rfl
  · rfl

/-- The Chain's record of the stations of a list, past a boundary. -/
def Hub.linksPast (h : Hub) (l : List Nat) : Hub :=
  { h with chain := { h.chain with
    link := l.foldl (fun m s => SMap.upd {} m s Link.atBoundary) h.chain.link, ringLate := [],
    ringMiss := h.chain.ringMiss.filter fun e => h.chain.ringLate.contains e.1 } }

theorem updLink_foldl (l : List Nat) (h : Hub) :
    l.foldl (fun h s => h.updLink s Link.atBoundary) h =
      { h with chain := { h.chain with link := l.foldl (fun m s => SMap.upd {} m s Link.atBoundary) h.chain.link } } := by
  induction l generalizing h with
  | nil => rfl
  | cons s l ih => exact ih (h.updLink s Link.atBoundary)

/-- A boundary at which no bypass and no ring failure is due. -/
theorem chainBoundary_quiet (links : ∀ e ∈ h.chain.link, e.2.bypass = .observed → e.2.next = .observed) (rings : h.chain.ringNext = 0) :
    h.chainBoundary = h.linksPast allStations := by
  have due : (h.chain.link.filter fun e => e.2.bypass == .observed && e.2.next != .observed) = [] :=
    List.filter_eq_nil_iff.mpr fun e mem => by
      by_cases seen : e.2.bypass = .observed
      · simp [links e mem seen]
      · simp [seen]
  have sound : ((List.range 32).filter fun r => bit h.chain.ringNext r && !bit h.chain.ringBad r) = [] :=
    List.filter_eq_nil_iff.mpr fun r _ => by simp [rings, bit]
  unfold Hub.chainBoundary Hub.linksPast
  dsimp only
  rw [due, List.foldl_nil, sound, List.foldl_nil]
  generalize allStations = l
  refine (updLink_foldl l _).trans ?_
  simp only [rings]

theorem getLink_linksPast {l : List Nat} (once : l.Nodup) (x : Nat) :
    (h.linksPast l).getLink x = if x ∈ l then (h.getLink x).atBoundary else h.getLink x :=
  get_foldl_upd_mem _ once h.chain.link x

theorem bypass_linksPast {l : List Nat} (once : l.Nodup) (x : Nat) : ((h.linksPast l).getLink x).bypass = (h.getLink x).bypass := by
  rw [getLink_linksPast once]
  split
  · exact atBoundary_bypass _
  · rfl

theorem observed_linksPast {l : List Nat} (once : l.Nodup) (x : Nat) : (h.linksPast l).observed x = h.observed x := by
  rw [Hub.observed, Hub.observed, bypass_linksPast once]

theorem allStations_nodup : allStations.Nodup := List.nodup_range

theorem mem_allStations (x : Nat) : x ∈ allStations ↔ stnOk x = true := by
  rw [allStations, List.mem_range, stnOk, decide_eq_true_eq]

/-! ## The attribution caches (R242) -/

theorem drainCache_eq (h : Hub) (s : Nat) :
    h.drainCache s = { h with
      cnt := { h.cnt with flits := h.cnt.flits ++ (h.getStn s).cache }, stn := (h.drainCache s).stn } := by
  unfold Hub.drainCache
  dsimp only
  split
  · next empty =>
    rw [List.isEmpty_iff.mp empty, List.append_nil]
  · rfl

theorem getStn_drainCache (h : Hub) (s x : Nat) : (h.drainCache s).getStn x = if x = s then { h.getStn x with cache := [] } else h.getStn x := by
  unfold Hub.drainCache
  dsimp only
  by_cases own : x = s
  · subst own
    rw [if_pos rfl]
    split
    · next empty => rw [← List.isEmpty_iff.mp empty]
    · exact Hub.getStn_updStn ..
  · rw [if_neg own]
    split
    · rfl
    · exact Hub.getStn_updStn_ne _ _ own

/-- The caches of the stations of a list leave in the list's order, and nothing else of the hub differs. -/
theorem drainCaches {l : List Nat} (once : l.Nodup) (h : Hub) :
    l.foldl Hub.drainCache h = { h with
      cnt := { h.cnt with flits := h.cnt.flits ++ l.flatMap fun x => (h.getStn x).cache }, stn := (l.foldl Hub.drainCache h).stn } ∧
    ∀ x, (l.foldl Hub.drainCache h).getStn x = if x ∈ l then { h.getStn x with cache := [] } else h.getStn x := by
  induction l generalizing h with
  | nil => exact ⟨by rw [List.flatMap_nil, List.append_nil]; rfl, fun x => (if_neg List.not_mem_nil).symm⟩
  | cons s l ih =>
    obtain ⟨fresh, rest⟩ := List.nodup_cons.mp once
    obtain ⟨frame, stations⟩ := ih rest (h.drainCache s)
    have others : ∀ x ∈ l, (h.drainCache s).getStn x = h.getStn x := fun x mem => by
      rw [getStn_drainCache]
      exact if_neg fun own : x = s => fresh (own ▸ mem)
    have caches : (l.flatMap fun x => ((h.drainCache s).getStn x).cache) = l.flatMap fun x => (h.getStn x).cache :=
      List.flatMap_congr fun x mem => by rw [others x mem]
    have first := drainCache_eq h s
    rw [List.foldl_cons]
    refine ⟨?_, fun x => ?_⟩
    · rw [caches] at frame
      generalize l.foldl Hub.drainCache (h.drainCache s) = k at frame ⊢
      generalize h.drainCache s = j at frame first
      rw [frame, first, List.flatMap_cons, ← List.append_assoc]
    · rw [stations, getStn_drainCache]
      by_cases own : x = s
      · subst own
        simp [fresh]
      · simp [own]

/-! ## The hub past the boundary -/

/-- The Chain's record past the boundary. -/
def Hub.chainPast (h : Hub) : Chain := (h.linksPast allStations).chain

theorem linksPast_cur (h : Hub) (l : List Nat) : (h.linksPast l).chain.cur = h.chain.cur := rfl
theorem chainPast_cur (h : Hub) : h.chainPast.cur = h.chain.cur := linksPast_cur h allStations

theorem linksPast_chain (h : Hub) (l : List Nat) : (h.linksPast l).chain = { h.chain with
    link := (h.linksPast l).chain.link, ringLate := [], ringMiss := h.chain.ringMiss.filter fun e => h.chain.ringLate.contains e.1 } := rfl
theorem chainPast_eq (h : Hub) : h.chainPast = { h.chain with
    link := h.chainPast.link, ringLate := [], ringMiss := h.chain.ringMiss.filter fun e => h.chain.ringLate.contains e.1 } := linksPast_chain h allStations

theorem chainPast_link (h : Hub) (x : Nat) :
    SMap.get ({} : Link) h.chainPast.link x =
      if h.observed x then (h.getLink x).boundary else if stnOk x then { h.getLink x with errFlits := 0 } else h.getLink x := by
  have link : SMap.get ({} : Link) h.chainPast.link x = if x ∈ allStations then (h.getLink x).atBoundary else h.getLink x := by
    have all := allStations_nodup
    unfold Hub.chainPast
    generalize allStations = l at all ⊢
    exact getLink_linksPast all x
  rw [link, if_congr (mem_allStations x) rfl rfl, Hub.observed, Link.atBoundary]
  by_cases ok : stnOk x = true
  · by_cases seen : (h.getLink x).bypass = .observed <;> simp [ok, seen]
  · simp [ok]

/-- What the past boundary leaves: the clock, the links, and the observed stations' caches, which stand in the queue of flits. -/
structure Hub.past (h g : Hub) : Prop where
  frame : g = { h with
    clk := { h.clk with epoch := h.clk.epoch + 1, epochCycle := h.clk.epochCycle - 4096 }, chain := h.chainPast,
    cnt := { h.cnt with flits := h.cnt.flits ++ (allStations.filter h.observed).flatMap fun x => (h.getStn x).cache }, stn := g.stn }
  stations : ∀ x, g.getStn x = if h.observed x then { h.getStn x with cache := [] } else h.getStn x

theorem mem_observed (x : Nat) : x ∈ allStations.filter h.observed ↔ h.observed x = true := by
  rw [List.mem_filter, mem_allStations]
  exact ⟨fun both => both.2, fun seen => ⟨by rw [Hub.observed, Bool.and_eq_true] at seen; exact seen.1, seen⟩⟩

theorem pastBoundary_past (quiet : quietBoundary h) : h.past (pastBoundary h) := by
  obtain ⟨-, -, links, rings, -, -⟩ := quiet
  have chain := chainBoundary_quiet (h := { h with clk := { h.clk with epoch := h.clk.epoch + 1, epochCycle := h.clk.epochCycle - 4096 } }) links rings
  obtain ⟨frame, stations⟩ := drainCaches (allStations_nodup.filter h.observed)
    (Hub.linksPast { h with clk := { h.clk with epoch := h.clk.epoch + 1, epochCycle := h.clk.epochCycle - 4096 } } allStations)
  rw [← chain] at frame stations
  refine ⟨?_, fun x => ?_⟩
  · rw [chain] at frame
    have made : pastBoundary h = (allStations.filter h.observed).foldl Hub.drainCache
        (Hub.linksPast { h with clk := { h.clk with epoch := h.clk.epoch + 1, epochCycle := h.clk.epochCycle - 4096 } } allStations) :=
      congrArg (fun g => (allStations.filter h.observed).foldl Hub.drainCache g) chain
    rw [made]
    exact frame
  · have same : (Hub.chainBoundary { h with clk := { h.clk with epoch := h.clk.epoch + 1, epochCycle := h.clk.epochCycle - 4096 } }).getStn x = h.getStn x := by
      rw [chain]
      rfl
    refine (stations x).trans ?_
    rw [same]
    exact if_congr (mem_observed x) rfl rfl

/-- The steps of a boundary behind the Chain's: a commit, new keys, moves, slices that become FREE, a commit written late. -/
def Hub.boundarySteps (h : Hub) (b : Nat) : Hub := ((((h.commitBoundary b).keysBoundary b).movesAt b).freeSlices).commitLate

theorem boundary_past (quiet : quietBoundary h) : h.boundary = (pastBoundary h).boundarySteps (boundaryTick h) := by
  obtain ⟨started, late, links, rings, -, -⟩ := quiet
  have chain := chainBoundary_quiet (h := { h with clk := { h.clk with epoch := h.clk.epoch + 1, epochCycle := h.clk.epochCycle - 4096 } }) links rings
  have seen (l : List Nat) : l.filter (Hub.chainBoundary { h with clk := { h.clk with epoch := h.clk.epoch + 1, epochCycle := h.clk.epochCycle - 4096 } }).observed =
      l.filter h.observed := List.filter_congr fun x _ => by
    rw [chain, observed_linksPast allStations_nodup]
    rfl
  unfold Hub.boundary
  dsimp only
  rw [if_neg (by simp [started, late]), seen]
  rfl

section Quiet

theorem keysBoundary_none (none : ∀ e ∈ h.slc.keys, e.2.next = none) (b : Nat) : h.keysBoundary b = h := by
  have empty : (h.slc.keys.filter fun e => e.2.next.isSome) = [] := List.filter_eq_nil_iff.mpr fun e mem => by rw [none e mem]; decide
  unfold Hub.keysBoundary
  rw [empty]
  rfl

theorem freeSlices_none (none : ∀ e ∈ h.slc.e, e.2.st ≠ .destroying) : h.freeSlices = h := by
  have empty : (h.slc.e.filter fun e => e.2.st == .destroying && (h.sliceUnits e.1).isEmpty) = [] :=
    List.filter_eq_nil_iff.mpr fun e mem => by simp [none e mem]
  unfold Hub.freeSlices
  rw [empty]
  rfl

theorem commitLate_none (none : h.chain.cur = none) : h.commitLate = h := by
  unfold Hub.commitLate
  rw [none]

theorem commitBoundary_none (none : h.chain.cur = none) (b : Nat) : h.commitBoundary b = h := by
  unfold Hub.commitBoundary
  rw [none]

theorem movesAt_other (other : h.slc.ordersEpoch ≠ h.clk.epoch) (b : Nat) : h.movesAt b = h := if_pos other

end Quiet

section Clauses

variable {s : State} (live : s.hub.live = true) (quiet : quietBoundary s.hub)
include live quiet

theorem boundary_yields {P : Hub → State → Prop}
    (p : ∀ t, (s.hub.placed t).past (pastBoundary (s.hub.placed t)) →
      P (s.hub.placed t) (lands s ((pastBoundary (s.hub.placed t)).boundarySteps (boundaryTick s.hub)))) : Yields .epochBoundary s P := by
  refine yields_run rfl live fun t => ?_
  have quiet : quietBoundary (s.hub.placed t) := quiet
  rw [boundary_past quiet]
  exact p t (pastBoundary_past quiet)

/-- A boundary at which no commit takes effect and no unit moves. -/
theorem boundary_plain (none : s.hub.chain.cur = none) (other : s.hub.slc.ordersEpoch ≠ s.hub.clk.epoch + 1) :
    Yields .epochBoundary s fun h0 t =>
      t.hub.clk = { s.hub.clk with epoch := s.hub.clk.epoch + 1, epochCycle := s.hub.clk.epochCycle - 4096 } ∧
      (∀ x, t.hub.getLink x = if s.hub.observed x then (s.hub.getLink x).boundary else if stnOk x then { s.hub.getLink x with errFlits := 0 } else s.hub.getLink x) ∧
      (∀ x, t.hub.getStn x = if s.hub.observed x then { s.hub.getStn x with cache := [] } else s.hub.getStn x) ∧
      t = { s with hub := { h0 with
        clk := t.hub.clk, stn := t.hub.stn,
        chain := { s.hub.chain with
          link := t.hub.chain.link, ringLate := [], ringMiss := s.hub.chain.ringMiss.filter fun e => s.hub.chain.ringLate.contains e.1 },
        cnt := { s.hub.cnt with flits := s.hub.cnt.flits ++ (allStations.filter s.hub.observed).flatMap fun x => (s.hub.getStn x).cache } } } := by
  refine boundary_yields live quiet fun t past => ?_
  obtain ⟨-, -, -, -, keys, slices⟩ := quiet
  obtain ⟨frame, stations⟩ := past
  have steps : (pastBoundary (s.hub.placed t)).boundarySteps (boundaryTick s.hub) = pastBoundary (s.hub.placed t) := by
    generalize pastBoundary (s.hub.placed t) = g at frame ⊢
    have cur : g.chain.cur = Option.none := (congrArg (fun h : Hub => h.chain.cur) frame).trans ((chainPast_cur _).trans none)
    have slc : g.slc = s.hub.slc := (congrArg Hub.slc frame :)
    have epoch : g.clk.epoch = s.hub.clk.epoch + 1 := (congrArg (fun h : Hub => h.clk.epoch) frame :)
    rw [Hub.boundarySteps, commitBoundary_none cur, keysBoundary_none (by rw [slc]; exact keys),
      movesAt_other (by rw [slc, epoch]; exact other), freeSlices_none (by rw [slc]; exact slices), commitLate_none cur]
  rw [steps]
  generalize pastBoundary (s.hub.placed t) = g at frame stations ⊢
  have land := lands_of_out s (congrArg Hub.out frame) frame
  rw [land]
  refine ⟨rfl, fun x => ?_, fun x => ?_, ?_⟩
  · exact chainPast_link (s.hub.placed t) x
  · exact stations x
  · have chain := chainPast_eq (s.hub.placed t)
    generalize (s.hub.placed t).chainPast = c at chain ⊢
    exact congrArg (fun c => { s with hub := { s.hub.placed t with
      clk := { s.hub.clk with epoch := s.hub.clk.epoch + 1, epochCycle := s.hub.clk.epochCycle - 4096 }, stn := g.stn, chain := c,
      cnt := { s.hub.cnt with flits := s.hub.cnt.flits ++ (allStations.filter s.hub.observed).flatMap fun x => (s.hub.getStn x).cache } } }) chain

end Clauses

end Sys2Proof.Machine
end

section
/-!
O37: a unit that moves at an epoch boundary (R442 to R444).
-/
namespace Sys2Proof.Machine

variable {h g : Hub} {u k b : Nat}

/-! ## The steps of one move -/

/-- A unit's counters are sealed, its station's cache leaves, and what its slice traced there is marked. -/
def Hub.moveStarts (h : Hub) (u b : Nat) : Hub :=
  ((h.sealUnits b [u]).drainCache (unitStn u)).rebindMark (unitStn u) b [h.unitSlice u]

/-- The unit is of its new slice. -/
def Hub.moveTakes (h : Hub) (u k : Nat) : Hub := ({ h with slc := { h.slc with unit := SMap.set 0 h.slc.unit u k } } : Hub).grainMove u

/-- The hub behind the move of a unit, before its record. -/
def Hub.moveTraced (h : Hub) (u k b : Nat) : Hub := ((h.moveStarts u b).moveTakes u k).traceRebind (unitStn u) b [u]

theorem moveUnits_one (h : Hub) (u k b : Nat) :
    h.moveUnits b [(u, k)] [] = (h.moveTraced u k b).moveRecord (unitStn u) b [(u, h.unitSlice u)] [] := by
  have own : ([(u, h.unitSlice u)].filter fun m => unitStn m.1 == unitStn u) = [(u, h.unitSlice u)] := by simp
  unfold Hub.moveUnits
  simp only [List.map_cons, List.map_nil, List.filter_nil]
  rw [show dedup [unitStn u] = [unitStn u] by simp [dedup]]
  simp only [List.foldl_cons, List.foldl_nil]
  rw [own]
  rfl

/-- The record of a unit's counters at a boundary. -/
def Hub.sealRec (h : Hub) (u : Nat) : URec := { h.capture u with bnd := 255 }

/-- The seal of slice `s`, where the record is of that slice. -/
def Hub.sealSlice (h : Hub) (r : URec) (b s : Nat) : Hub :=
  if ([r].filter (·.slice == s)).isEmpty then h
  else { h with cnt := { h.cnt with seals := h.cnt.seals ++ [⟨s, b, (h.getKeys s).cur.counter, h.cnt.seq, [r].filter (·.slice == s)⟩] } }

theorem sealSlice_other {r : URec} {s : Nat} (other : s ≠ r.slice) : h.sealSlice r b s = h := by
  have none : ([r].filter (·.slice == s)) = [] := List.filter_eq_nil_iff.mpr fun x mem => by
    rw [List.mem_singleton.mp mem]
    simpa using fun same => other same.symm
  rw [Hub.sealSlice, none]
  rfl

theorem sealSlice_own (r : URec) :
    h.sealSlice r b r.slice = { h with cnt := { h.cnt with seals := h.cnt.seals ++ [⟨r.slice, b, (h.getKeys r.slice).cur.counter, h.cnt.seq, [r]⟩] } } := by
  have all : ([r].filter (·.slice == r.slice)) = [r] := List.filter_eq_self.mpr fun x mem => by
    rw [List.mem_singleton.mp mem]
    exact beq_self_eq_true _
  rw [Hub.sealSlice, all]
  rfl

theorem sealUnits_one (low : h.unitSlice u < 64) :
    h.sealUnits b [u] = { h with cnt := { h.cnt with seals := h.cnt.seals ++ [⟨h.unitSlice u, b, (h.getKeys (h.unitSlice u)).cur.counter, h.cnt.seq,
      [h.sealRec u]⟩] } } := by
  have made : h.sealUnits b [u] = (List.range 64).foldl (fun g s => g.sealSlice (h.sealRec u) b s) h := rfl
  rw [made, foldl_range_one (k := h.unitSlice u) low fun x y _ other => sealSlice_other (r := h.sealRec u) other]
  exact sealSlice_own (h.sealRec u)

theorem traceRebind_aside (h : Hub) (st b : Nat) (moved : List Nat) : h.aside (h.traceRebind st b moved) := by
  refine Hub.traces.aside (traces_foldl (st := st) (fun h k => ?_) [0, 1, 2, 3] h)
  split
  · exact traces_ite ((closeRun_traces _ _ _).trans (emitSync_traces _ _ _ _ _)) .refl
  · exact .refl

/-- What the hub is behind the move of a unit, before its record. -/
structure Hub.movedTo (h : Hub) (u k b : Nat) (g : Hub) : Prop where
  frame : g = { h with
    cnt := g.cnt, slc := { h.slc with unit := SMap.set 0 h.slc.unit u k }, stn := g.stn, trc := g.trc, rc := g.rc, free := g.free, items := g.items }
  seals : g.cnt.seals = h.cnt.seals ++ [⟨h.unitSlice u, b, (h.getKeys (h.unitSlice u)).cur.counter, h.cnt.seq, [h.sealRec u]⟩]
  reset : (g.getGrain u).resetNow = 255
  joined : (g.getGrain u).joined = h.clk.cycle + 1

theorem moveStarts_frame (low : h.unitSlice u < 64) :
    h.moveStarts u b = { h with cnt := (h.moveStarts u b).cnt, stn := (h.moveStarts u b).stn } ∧
    (h.moveStarts u b).cnt.seals = h.cnt.seals ++ [⟨h.unitSlice u, b, (h.getKeys (h.unitSlice u)).cur.counter, h.cnt.seq, [h.sealRec u]⟩] := by
  have drained := drainCache_eq (h.sealUnits b [u]) (unitStn u)
  have sealed_ := sealUnits_one (b := b) low
  unfold Hub.moveStarts
  generalize (h.sealUnits b [u]).drainCache (unitStn u) = g at drained ⊢
  rw [drained, sealed_]
  exact ⟨rfl, rfl⟩

theorem getGrain_moveTakes (h : Hub) (u k : Nat) :
    (h.moveTakes u k).getGrain u = { h.getGrain u with resetNow := 255, joined := h.clk.cycle + 1 } :=
  getGrain_updGrain (h := { h with slc := { h.slc with unit := SMap.set 0 h.slc.unit u k } }) (u := u)
    (f := fun g => { g with resetNow := 255, joined := h.clk.cycle + 1 })

/-- The move itself and the marks in the traces of its station. -/
theorem moveTakes_traced (h : Hub) (u k b : Nat) : ∃ g, g = (h.moveTakes u k).traceRebind (unitStn u) b [u] ∧
    g = { h with slc := { h.slc with unit := SMap.set 0 h.slc.unit u k }, stn := g.stn, trc := g.trc, rc := g.rc, free := g.free, items := g.items } ∧
    (g.getGrain u).resetNow = 255 ∧ (g.getGrain u).joined = h.clk.cycle + 1 := by
  obtain ⟨core, frame⟩ := traceRebind_aside (h.moveTakes u k) (unitStn u) b [u]
  have same := (Hub.sameCore.getGrain core u).trans (getGrain_moveTakes h u k)
  refine ⟨_, rfl, ?_, by rw [same], by rw [same]⟩
  generalize (h.moveTakes u k).traceRebind (unitStn u) b [u] = g at frame ⊢
  rw [frame]
  rfl

theorem moveTraced_moved (low : h.unitSlice u < 64) : h.movedTo u k b (h.moveTraced u k b) := by
  obtain ⟨starts, seals⟩ := moveStarts_frame (b := b) low
  obtain ⟨g, made, frame, reset, joined⟩ := moveTakes_traced (h.moveStarts u b) u k b
  rw [Hub.moveTraced, ← made]
  generalize h.moveStarts u b = j at starts seals frame joined
  have cnt : g.cnt = j.cnt := (congrArg Hub.cnt frame :)
  have clk : j.clk = h.clk := (congrArg Hub.clk starts :)
  refine ⟨?_, by rw [cnt]; exact seals, reset, by rw [joined, clk]⟩
  rw [cnt, frame, starts]

/-- Record 0x0313 of the one unit of station `unitStn u` that moved. -/
def Hub.moveReq (h : Hub) (u old b : Nat) : Req :=
  { h.evt 3 0x0313 with
    unit := unitStn u * 8, slice := h.unitSlice u, aux := 2 ^ unitSub u, arg := b,
    words := (List.range 8).map fun n => match [(u, old)].find? fun m => m.1 == unitStn u * 8 + n with | some m => m.2 + 256 * h.unitSlice m.1 | none => 0 }

theorem moveRecord_one (old : Nat) (on : h.classOn 3 = true) (room : h.er.sysq.length < 32) :
    h.moveRecord (unitStn u) b [(u, old)] [] = { h with er := { h.er with sysq := h.er.sysq ++ [h.moveReq u old b] } } := by
  have request : h.moveRecord (unitStn u) b [(u, old)] [] = h.record (h.moveReq u old b) := by
    have mask : 0 + 2 ^ unitSub u + 256 * 0 = 2 ^ unitSub u := by omega
    exact congrArg (fun n => h.record { h.moveReq u old b with aux := n }) mask
  rw [request]
  exact record_sysq h (h.moveReq u old b) on (show (3 : Nat) ≠ 8 by decide) rfl room

/-! ## The boundary at which one unit moves -/

section One

variable (low : h.unitSlice u < 64) (on : h.classOn 3 = true) (room : h.er.sysq.length < 32)
include low on room

/-- What the hub is behind the move of one unit. -/
theorem moveUnits_moved (b k : Nat) : ∃ g, h.movedTo u k b g ∧
    h.moveUnits b [(u, k)] [] = { g with er := { h.er with sysq := h.er.sysq ++ [g.moveReq u (h.unitSlice u) b] } } := by
  have moved := moveTraced_moved (k := k) (b := b) low
  refine ⟨h.moveTraced u k b, moved, ?_⟩
  have frame := moved.frame
  rw [moveUnits_one]
  generalize h.moveTraced u k b = g at frame ⊢
  have er : g.er = h.er := (congrArg Hub.er frame :)
  have rws : g.rws = h.rws := (congrArg Hub.rws frame :)
  have open_ : g.classOn 3 = true := by
    rw [Hub.classOn, Hub.act, Hub.rwsGet, rws]
    exact on
  rw [moveRecord_one _ open_ (by rw [er]; exact room), er]

theorem movesAt_one (due : h.slc.ordersEpoch = h.clk.epoch) (moves : h.slc.moves = [(u, k)]) (orders : h.slc.orders = [u])
    (takes : h.moveRefused k = false) (free : h.moveDeferred u = false) :
    h.movesAt b = ({ h.moveUnits b [(u, k)] [] with
      slc := { (h.moveUnits b [(u, k)] []).slc with moves := [], orders := [], moveStatus := stOk } } : Hub).irqRaise 15 := by
  obtain ⟨g, moved, made⟩ := moveUnits_moved low on room b k
  have left : (h.moveUnits b [(u, k)] []).slc.moves = [(u, k)] := by
    rw [made]
    exact (congrArg (fun h : Hub => h.slc.moves) moved.frame).trans moves
  have sel : (h.slc.moves.filter fun m => h.slc.orders.contains m.1) = [(u, k)] := by rw [moves, orders]; simp
  have bad : ([(u, k)].filter fun m => h.moveRefused m.2) = [] := by simp [takes]
  have rest : ([(u, k)].filter fun m => !h.moveRefused m.2) = [(u, k)] := by simp [takes]
  have late : ([(u, k)].filter fun m => h.moveDeferred m.1) = [] := by simp [free]
  have go : ([(u, k)].filter fun m => !h.moveDeferred m.1) = [(u, k)] := by simp [free]
  unfold Hub.movesAt
  rw [if_neg fun other => other due]
  dsimp only
  rw [sel, bad, rest, late, go]
  rw [show h.refuseMoves [] b = h from rfl, List.map_nil]
  generalize h.moveUnits b [(u, k)] [] = j at left ⊢
  simp [left]

end One

theorem Hub.past.getGate (past : h.past g) (u : Nat) : g.getGate u = h.getGate u := by
  rw [Hub.getGate, past.stations]
  split <;> rfl

theorem Hub.past.getGrain (past : h.past g) (u : Nat) : g.getGrain u = h.getGrain u := by
  rw [Hub.getGrain, past.stations]
  split <;> rfl

theorem Hub.past.slc (past : h.past g) : g.slc = h.slc := (congrArg Hub.slc past.frame :)

theorem Hub.past.asleep (past : h.past g) (u : Nat) : g.asleep u = h.asleep u := by
  have rail : g.rail = h.rail := (congrArg Hub.rail past.frame :)
  have clk : g.clk.fallback = h.clk.fallback := (congrArg (fun h : Hub => h.clk.fallback) past.frame :)
  unfold Hub.asleep
  rw [rail, clk, past.stations]
  split <;> rfl

theorem Hub.past.moveDeferred (past : h.past g) (u : Nat) : g.moveDeferred u = h.moveDeferred u := by
  have ctx : g.ctx = h.ctx := (congrArg Hub.ctx past.frame :)
  have slice : g.unitSlice u = h.unitSlice u := by rw [Hub.unitSlice, past.slc]; rfl
  rw [Hub.moveDeferred, past.getGate, ctx, slice]
  rfl

theorem Hub.past.sealRec (past : h.past g) (u : Nat) : g.sealRec u = h.sealRec u := by
  have slice : g.unitSlice u = h.unitSlice u := by rw [Hub.unitSlice, past.slc]; rfl
  unfold Hub.sealRec Hub.capture Hub.heldByCut
  rw [past.getGrain, past.asleep, past.getGate, slice]

theorem Hub.past.cur (past : h.past g) : g.chain.cur = h.chain.cur := (congrArg (fun h : Hub => h.chain.cur) past.frame).trans (chainPast_cur h)

/-- The clause of a boundary at which the one unit of the queue moves. -/
theorem boundary_moves {s : State} (live : s.hub.live = true) (quiet : quietBoundary s.hub) (none : s.hub.chain.cur = none)
    (moves : s.hub.slc.moves = [(u, k)]) (orders : s.hub.slc.orders = [u]) (due : s.hub.slc.ordersEpoch = s.hub.clk.epoch + 1)
    (active : (s.hub.getSlice k).st = .active) (free : s.hub.moveDeferred u = false) (low : s.hub.unitSlice u < 64) (on : s.hub.classOn 3 = true)
    (room : s.hub.er.sysq.length < 32) :
    Yields .epochBoundary s fun h0 t =>
      t.hub.unitSlice u = k ∧ (∀ v, v ≠ u → t.hub.unitSlice v = s.hub.unitSlice v) ∧
      (t.hub.getGrain u).resetNow = 255 ∧ (t.hub.getGrain u).joined = s.hub.clk.cycle + 1 ∧ bit t.hub.irq.status 15 = true ∧
      t.hub.cnt.seals = s.hub.cnt.seals ++ [⟨s.hub.unitSlice u, boundaryTick s.hub, (s.hub.getKeys (s.hub.unitSlice u)).cur.counter, s.hub.cnt.seq,
        [{ s.hub.capture u with bnd := 255 }]⟩] ∧
      (∃ r, t.hub.er = { s.hub.er with sysq := s.hub.er.sysq ++ [r] } ∧ r.cls = 3 ∧ r.code = 0x0313 ∧ r.unit = unitStn u * 8 ∧ r.slice = k ∧
        r.arg = boundaryTick s.hub ∧ r.aux = 2 ^ unitSub u) ∧
      t = { s with hub := ({ (pastBoundary h0).moveUnits (boundaryTick s.hub) [(u, k)] [] with
        slc := { ((pastBoundary h0).moveUnits (boundaryTick s.hub) [(u, k)] []).slc with moves := [], orders := [], moveStatus := stOk } } : Hub).irqRaise 15 } := by
  refine boundary_yields live quiet fun t past => ?_
  obtain ⟨-, -, -, -, keys, slices⟩ := quiet
  generalize pastBoundary (s.hub.placed t) = p at past ⊢
  have slc : p.slc = s.hub.slc := past.slc
  have cur : p.chain.cur = Option.none := past.cur.trans none
  have epoch : p.clk.epoch = s.hub.clk.epoch + 1 := (congrArg (fun h : Hub => h.clk.epoch) past.frame :)
  have unit : p.unitSlice u = s.hub.unitSlice u := by rw [Hub.unitSlice, slc]; rfl
  have rws : p.rws = s.hub.rws := (congrArg Hub.rws past.frame :)
  have er : p.er = s.hub.er := (congrArg Hub.er past.frame :)
  have open_ : p.classOn 3 = true := by
    rw [Hub.classOn, Hub.act, Hub.rwsGet, rws]
    exact on
  have takes : p.moveRefused k = false := by
    rw [Hub.moveRefused, Hub.getSlice, slc, ← Hub.getSlice.eq_def, active]
    rfl
  have moved := movesAt_one (h := p) (b := boundaryTick s.hub) (by rw [unit]; exact low) open_ (by rw [er]; exact room) (by rw [slc, epoch]; exact due)
    (by rw [slc]; exact moves) (by rw [slc]; exact orders) takes (past.moveDeferred u |>.trans free)
  obtain ⟨g, behind, made⟩ := moveUnits_moved (h := p) (by rw [unit]; exact low) open_ (by rw [er]; exact room) (boundaryTick s.hub) k
  obtain ⟨frame, seals, reset, joined⟩ := behind
  have cycle : p.clk.cycle = s.hub.clk.cycle := (congrArg (fun h : Hub => h.clk.cycle) past.frame :)
  have now : p.clk.tick = s.hub.clk.tick := (congrArg (fun h : Hub => h.clk.tick) past.frame :)
  have counters : p.cnt.seals = s.hub.cnt.seals := (congrArg (fun h : Hub => h.cnt.seals) past.frame :)
  have seq : p.cnt.seq = s.hub.cnt.seq := (congrArg (fun h : Hub => h.cnt.seq) past.frame :)
  have gcur : g.chain.cur = Option.none := (congrArg (fun h : Hub => h.chain.cur) frame).trans cur
  have table : g.slc = { s.hub.slc with unit := SMap.set 0 s.hub.slc.unit u k } := (congrArg Hub.slc frame).trans (by rw [slc])
  have out : g.out = [] := (congrArg Hub.out frame).trans (congrArg Hub.out past.frame :)
  have steps : p.boundarySteps (boundaryTick s.hub) = ({ p.moveUnits (boundaryTick s.hub) [(u, k)] [] with
      slc := { (p.moveUnits (boundaryTick s.hub) [(u, k)] []).slc with moves := [], orders := [], moveStatus := stOk } } : Hub).irqRaise 15 := by
    rw [Hub.boundarySteps, commitBoundary_none cur, keysBoundary_none (by rw [slc]; exact keys), moved, made]
    have entries : g.slc.e = s.hub.slc.e := (congrArg Slc.e table :)
    have quiet : ∀ e ∈ g.slc.e, e.2.st ≠ .destroying := by
      rw [entries]
      exact slices
    refine (congrArg Hub.commitLate (freeSlices_none ?_)).trans (commitLate_none ?_)
    · exact quiet
    · exact gcur
  have landed : lands s (p.boundarySteps (boundaryTick s.hub)) = { s with hub := ({ p.moveUnits (boundaryTick s.hub) [(u, k)] [] with
      slc := { (p.moveUnits (boundaryTick s.hub) [(u, k)] []).slc with moves := [], orders := [], moveStatus := stOk } } : Hub).irqRaise 15 } := by
    refine lands_of_out s ?_ steps
    rw [steps, made]
    exact out
  rw [landed, made]
  have units : g.slc.unit = SMap.set 0 s.hub.slc.unit u k := (congrArg Slc.unit table :)
  have own : g.unitSlice u = k := by rw [Hub.unitSlice, units, SMap.get_set_self]
  refine ⟨own, fun v other => ?_, reset, by rw [← cycle]; exact joined, irqRaise_status _ _, ?_, ⟨g.moveReq u (p.unitSlice u) (boundaryTick s.hub), ?_, rfl, rfl, rfl, own, rfl, rfl⟩, rfl⟩
  · show g.unitSlice v = _
    rw [Hub.unitSlice, units, SMap.get_set_ne _ _ _ other]
    rfl
  · show g.cnt.seals = _
    rw [seals, counters, seq, unit, Hub.getKeys, slc, past.sealRec]
    rfl
  · show ({ p.er with sysq := _ } : Er) = _
    rw [er]

end Sys2Proof.Machine
end

section
/-!
O37: a commit takes effect at an epoch boundary (R64, R65, R432).
-/
namespace Sys2Proof.Machine

variable {h old : Hub}

/-! ## A hub of which one register with shadow and staged copy alone was ever written -/

/-- Every register with shadow and staged copy but HUB_HANG_CFG is at its reset value. -/
def Hub.bare (h : Hub) : Prop := ∀ (d : Rws) (off : Nat), off ≠ 0x100 → SMap.get d h.rws off = d

section Bare

variable (bare : h.bare) (before : old.bare)
include bare

theorem act_bare {off : Nat} (other : off ≠ 0x100) (d : Nat) : h.act d off = d := by
  rw [Hub.act, Hub.rwsGet, bare _ off other]
  rfl

theorem isStaged_bare {off : Nat} (other : off ≠ 0x100) : h.isStaged off = false := by
  rw [Hub.isStaged, bare _ off other]
  rfl

theorem any_isStaged_bare {l : List Nat} (others : ∀ o ∈ l, o ≠ 0x100) : l.any h.isStaged = false :=
  List.any_eq_false.mpr fun o mem => by rw [isStaged_bare bare (others o mem)]; decide

theorem bankRule_bare : h.bankRule = h := by
  have enabled : ([0, 1, 2, 3].any fun b => bit (h.act 0x80000000 (0x50000 + 0x4000 * b)) 31) = true := by
    rw [List.any_cons, act_bare bare (by decide)]
    rfl
  rw [Hub.bankRule, if_pos enabled]

theorem entriesStaged_bare : h.entriesStaged = [] :=
  List.filter_eq_nil_iff.mpr fun s _ => by
    rw [any_isStaged_bare bare fun o mem => ?_]
    · decide
    · simp only [entryOffs, extOffs, slcOff, List.map_cons, List.map_nil, List.cons_append, List.nil_append, List.mem_cons, List.not_mem_nil, or_false] at mem
      omega

omit bare in
theorem extOffs_other {s o : Nat} (mem : o ∈ extOffs s) : o ≠ 0x100 := by
  simp only [extOffs, slcOff, List.map_cons, List.map_nil, List.mem_cons, List.not_mem_nil, or_false] at mem
  omega

omit bare in
theorem policyOffs_other {s o : Nat} (mem : o ∈ policyOffs s) : o ≠ 0x100 := by
  simp only [policyOffs, List.flatMap_cons, List.flatMap_nil, List.map_cons, List.map_nil, List.cons_append, List.nil_append, List.append_nil, List.mem_cons,
    List.not_mem_nil, or_false] at mem
  omega

theorem pact_bare (s d : Nat) {off : Nat} : h.pact s d off = d := act_bare bare (by unfold pchOff; omega) d

theorem srcCfg_bare (s k : Nat) : h.srcCfg s k = 0 := pact_bare bare s 0

theorem srcEnabled_bare (s k : Nat) : h.srcEnabled s k = false := by
  rw [Hub.srcEnabled, srcCfg_bare bare, show bit 0 31 = false by decide]
  simp

include before

theorem extentsChanged_bare : h.extentsChanged old = [] :=
  List.filter_eq_nil_iff.mpr fun s _ => by
    rw [Bool.not_eq_true, List.any_eq_false]
    intro o mem
    rw [act_bare bare (extOffs_other mem), act_bare before (extOffs_other mem)]
    decide

omit bare in
theorem peckCommit_bare (s : Nat) : h.peckCommit old s = h := by
  have none : (layoutOffs.map (pchOff s)).any old.isStaged = false := any_isStaged_bare before fun o mem => by
    simp only [layoutOffs, pchOff, List.map_cons, List.map_nil, List.mem_cons, List.not_mem_nil, or_false] at mem
    omega
  unfold Hub.peckCommit
  dsimp only
  rw [none]
  rfl

omit before in
theorem traceCommit_bare (off : ∀ x k, (h.getSrc x k).st = .off) (s : Nat) : h.traceCommit old s = h := by
  have ranges : [0, 1].foldl (fun g r => if bit (g.pact s 0 (0x460 + 32 * r)) 31 && !bit (old.pact s 0 (0x460 + 32 * r)) 31 then
      g.updStn s fun t => { t with inRange := SMap.set 0 t.inRange r 0 } else g) h = h := foldl_fixed_mem fun r _ => by
    rw [pact_bare bare]
    rfl
  unfold Hub.traceCommit
  dsimp only
  rw [ranges]
  refine foldl_fixed_mem fun k _ => ?_
  rw [srcEnabled_bare bare, off s k]
  rfl

theorem trcRingCommit_bare (s : Nat) : h.trcRingCommit old s = h := by
  have same : h.trcKey s = old.trcKey s := by
    rw [Hub.trcKey, Hub.trcKey, act_bare bare (by omega), act_bare bare (by omega), act_bare before (by omega), act_bare before (by omega)]
  exact if_pos same

theorem cntRingCommit_bare (s : Nat) : h.cntRingCommit old s = h := by
  have same : h.cntKey s = old.cntKey s := by
    rw [Hub.cntKey, Hub.cntKey, act_bare bare (by omega), act_bare bare (by omega), act_bare before (by omega), act_bare before (by omega)]
  exact if_pos same

theorem policies_bare (s : Nat) : ((policyOffs s).any fun o => h.actAt o != old.actAt o) = false :=
  List.any_eq_false.mpr fun o mem => by
    rw [Hub.actAt, Hub.actAt, act_bare bare (policyOffs_other mem), act_bare before (policyOffs_other mem)]
    simp

theorem cntCommit_bare (b : Nat) : h.cntCommit old b = h := by
  rw [Hub.cntCommit, act_bare bare (by decide), act_bare before (by decide), if_pos rfl]

theorem attCommit_bare (b : Nat) : h.attCommit old b = h := by
  rw [Hub.attCommit, act_bare bare (by decide), act_bare before (by decide), if_pos rfl]

theorem watchCommit_bare (w : Nat) : h.watchCommit old w = h := by
  have away (o : Nat) : wOff w o ≠ 0x100 := by unfold wOff; omega
  have unstaged : ((List.range 10).any fun k => old.isStaged (wOff w (4 * k))) = false :=
    List.any_eq_false.mpr fun k _ => by rw [isStaged_bare before (away _)]; decide
  unfold Hub.watchCommit
  dsimp only
  refine if_pos ⟨?_, ?_, ?_⟩
  · rw [unstaged]
    decide
  · rw [isStaged_bare before (by omega)]
    decide
  · rw [Hub.dmpSpol, Hub.dmpSpol, act_bare bare (by omega), act_bare before (by omega)]
    refine congrArg (Prod.mk _) (List.map_congr_left fun k _ => ?_)
    rw [Hub.rwsGet, Hub.rwsGet, bare _ _ (away _), before _ _ (away _)]

end Bare

/-! ## What follows of an activation that changes no register of the Perches, the rings or the slices -/

/-- Stalled packets are tried again. -/
def Hub.stallsRetried (h : Hub) : Hub := (h.stn.filter fun e => !e.2.peck.stalled.isEmpty).foldl (fun h e => h.stallRetry e.1) h

theorem stallsRetried_aside (h : Hub) : h.aside h.stallsRetried := by
  have all : ∀ (l : List (Nat × Stn)) (h : Hub), h.aside (l.foldl (fun h e => h.stallRetry e.1) h) := fun l => by
    induction l with
    | nil => exact fun _ => .refl
    | cons e l ih => exact fun h => stallRetry_traces.aside.trans (ih _)
  exact all _ h

theorem afterActivate_bare (bare : h.bare) (before : old.bare) (off : ∀ x k, (h.getSrc x k).st = .off) (b : Nat) :
    h.afterActivate old b = h.stallsRetried.ringsLeave old := by
  have stations (l : List Nat) : l.foldl (fun g s => (g.peckCommit old s).traceCommit old s) h = h :=
    foldl_fixed_mem fun s _ => by rw [peckCommit_bare before, traceCommit_bare bare off]
  have again : h.stallsRetried.bare := by
    have rws : h.stallsRetried.rws = h.rws := (congrArg Hub.rws (stallsRetried_aside h).2 :)
    intro d o other
    rw [rws]
    exact bare d o other
  have left : (h.stallsRetried.ringsLeave old).bare := again
  have slices : (List.range 64).foldl (fun h s =>
      if (policyOffs s).any fun o => ((h.trcRingCommit old s).cntRingCommit old s).actAt o != old.actAt o then
        ((h.trcRingCommit old s).cntRingCommit old s).updKeys s fun k => { k with policyEpoch := ((h.trcRingCommit old s).cntRingCommit old s).clk.epoch }
      else (h.trcRingCommit old s).cntRingCommit old s) (h.stallsRetried.ringsLeave old) = h.stallsRetried.ringsLeave old :=
    foldl_fixed_mem fun s _ => by
      rw [trcRingCommit_bare left before, cntRingCommit_bare left before, policies_bare left before]
      rfl
  unfold Hub.afterActivate
  dsimp only
  rw [bankRule_bare bare, entriesStaged_bare before, List.foldl_nil, extentsChanged_bare bare before, show Hub.extentsSettle old 64 h [] = h from rfl,
    stations, ← Hub.stallsRetried.eq_def, slices, cntCommit_bare left before, attCommit_bare left before]
  exact foldl_fixed_mem fun w _ => watchCommit_bare left before w

/-! ## The activation of HUB_HANG_CFG -/

theorem resetAt_hangCfg : resetAt 0x100 = 0x800000FA := by decide +kernel

/-- HUB_HANG_CFG as its staged copy becomes active (R64). -/
def Rws.activated (r : Rws) : Rws := { r with active := r.staged, st := .clean }

theorem activate_rws {r : Rws} (one : h.rws = [(0x100, r)]) (staged : r.st = .staged) :
    h.activate.rws = if r.activated = Rws.atReset 0x800000FA then [] else [(0x100, r.activated)] := by
  have active : r.activate = r.activated := by rw [Rws.activate, staged]; rfl
  by_cases reset : r.activated = Rws.atReset 0x800000FA
  · simp [Hub.activate, one, active, resetAt_hangCfg, reset]
  · simp [Hub.activate, one, active, resetAt_hangCfg, reset]

theorem activate_hangCfg {r : Rws} (one : h.rws = [(0x100, r)]) (staged : r.st = .staged) : h.activate.rwsGet 0x800000FA 0x100 = r.activated := by
  rw [Hub.rwsGet, activate_rws one staged]
  split
  · next reset => rw [reset]; rfl
  · rfl

theorem bare_one {r : Rws} (one : h.rws = [(0x100, r)]) : h.bare := fun d off other => by
  rw [one, SMap.get, if_neg other]
  rfl

theorem activate_bare {r : Rws} (one : h.rws = [(0x100, r)]) (staged : r.st = .staged) : h.activate.bare := fun d off other => by
  rw [activate_rws one staged]
  split
  · rfl
  · rw [SMap.get, if_neg other]
    rfl

/-- What a boundary's activation leaves: the trace aside, and what the rings' placement says. -/
structure Hub.activated (h g : Hub) : Prop where
  frame : g = { h with rws := h.activate.rws, cnt := g.cnt, stn := g.stn, trc := g.trc, rc := g.rc, free := g.free, items := g.items }

theorem activated_one {r : Rws} (one : h.rws = [(0x100, r)]) (staged : r.st = .staged) (off : ∀ x k, (h.getSrc x k).st = .off) (b : Nat) :
    h.activated (h.activate.afterActivate h b) := by
  rw [afterActivate_bare (activate_bare one staged) (bare_one one) off]
  have frame := (stallsRetried_aside h.activate).2
  generalize h.activate.stallsRetried = g at frame ⊢
  constructor
  rw [frame]
  rfl

theorem linksPast_stat (h : Hub) (l : List Nat) : (h.linksPast l).chain.stat = h.chain.stat := rfl
theorem Hub.past.stat {h g : Hub} (past : h.past g) : g.chain.stat = h.chain.stat :=
  (congrArg (fun h : Hub => h.chain.stat) past.frame).trans (linksPast_stat h allStations)

theorem commitDone_master {c : Commit} {m : Master} (owner : c.owner = .master m) (b : Nat) :
    h.commitDone c b = h.updStat m fun x => { x with pending := false, epoch := h.clk.epoch } := by
  unfold Hub.commitDone
  rw [owner]

/-- The clause of a boundary at which a master's commit of HUB_HANG_CFG takes effect. -/
theorem boundary_commits {s : State} {c : Commit} {m : Master} {r : Rws} (live : s.hub.live = true) (quiet : quietBoundary s.hub)
    (cur : s.hub.chain.cur = some c) (effective : c.effective = some (s.hub.clk.epoch + 1)) (owner : c.owner = .master m)
    (other : s.hub.slc.ordersEpoch ≠ s.hub.clk.epoch + 1) (one : s.hub.rws = [(0x100, r)]) (staged : r.st = .staged)
    (off : ∀ x k, (s.hub.getSrc x k).st = .off) :
    Yields .epochBoundary s fun h0 t =>
      t.hub.rwsGet 0x800000FA 0x100 = { r with active := r.staged, st := .clean } ∧ (∀ d k, k ≠ 0x100 → t.hub.rwsGet d k = s.hub.rwsGet d k) ∧
      t.hub.chain.cur = none ∧ t.hub.getStat m = { s.hub.getStat m with pending := false, epoch := s.hub.clk.epoch + 1 } ∧
      t.hub.clk.epoch = s.hub.clk.epoch + 1 ∧
      t = lands s (({ (pastBoundary h0).activate.afterActivate (pastBoundary h0) (boundaryTick s.hub) with
        chain := { (pastBoundary h0).chain with cur := none } }).commitDone c (boundaryTick s.hub)) := by
  refine boundary_yields live quiet fun t past => ?_
  obtain ⟨-, -, -, -, keys, slices⟩ := quiet
  generalize pastBoundary (s.hub.placed t) = p at past ⊢
  have slc : p.slc = s.hub.slc := past.slc
  have pcur : p.chain.cur = some c := past.cur.trans cur
  have epoch : p.clk.epoch = s.hub.clk.epoch + 1 := (congrArg (fun h : Hub => h.clk.epoch) past.frame :)
  have rws : p.rws = s.hub.rws := (congrArg Hub.rws past.frame :)
  have stat : p.getStat m = s.hub.getStat m := by
    rw [Hub.getStat, past.stat]
    rfl
  have sources : ∀ x k, (p.getSrc x k).st = .off := fun x k => by
    rw [Hub.getSrc, past.stations]
    split <;> exact off x k
  have active := activated_one (rws.trans one) staged sources (boundaryTick s.hub)
  have committed : p.commitBoundary (boundaryTick s.hub) =
      ({ p.activate.afterActivate p (boundaryTick s.hub) with chain := { p.chain with cur := none } } : Hub).commitDone c (boundaryTick s.hub) := by
    have chain : (p.activate.afterActivate p (boundaryTick s.hub)).chain = p.chain := (congrArg Hub.chain active.frame :)
    unfold Hub.commitBoundary
    rw [pcur]
    dsimp only
    rw [if_pos (by rw [effective, epoch]), chain]
  have frame := active.frame
  rw [Hub.boundarySteps, committed, commitDone_master owner]
  have hang := activate_hangCfg (rws.trans one) staged
  have others := activate_bare (rws.trans one) staged
  have bare := bare_one one
  generalize p.activate.afterActivate p (boundaryTick s.hub) = g at frame ⊢
  have table : g.slc = s.hub.slc := (congrArg Hub.slc frame).trans slc
  have clock : g.clk.epoch = s.hub.clk.epoch + 1 := (congrArg (fun h : Hub => h.clk.epoch) frame).trans epoch
  have registers : g.rws = p.activate.rws := (congrArg Hub.rws frame :)
  obtain ⟨j, made⟩ : ∃ j, j = ({ g with chain := { p.chain with cur := none } } : Hub).updStat m fun x =>
      { x with pending := false, epoch := ({ g with chain := { p.chain with cur := none } } : Hub).clk.epoch } := ⟨_, rfl⟩
  have steps : (((j.keysBoundary (boundaryTick s.hub)).movesAt (boundaryTick s.hub)).freeSlices).commitLate = j := by
    have jslc : j.slc = s.hub.slc := (congrArg Hub.slc made).trans table
    have jepoch : j.clk.epoch = s.hub.clk.epoch + 1 := (congrArg (fun h : Hub => h.clk.epoch) made).trans clock
    rw [keysBoundary_none (by rw [jslc]; exact keys), movesAt_other (by rw [jslc, jepoch]; exact other), freeSlices_none (by rw [jslc]; exact slices),
      commitLate_none (congrArg (fun h : Hub => h.chain.cur) made)]
  rw [← made, steps]
  have jrws : j.rws = p.activate.rws := (congrArg Hub.rws made).trans registers
  refine ⟨?_, fun d k away => ?_, ?_, ?_, ?_, rfl⟩
  · show SMap.get (Rws.atReset 0x800000FA) j.rws 0x100 = _
    rw [jrws]
    exact hang
  · show SMap.get (Rws.atReset d) j.rws k = _
    rw [jrws, others _ k away]
    exact (bare _ k away).symm
  · exact congrArg (fun h : Hub => h.chain.cur) made
  · show j.getStat m = _
    rw [made, getStat_updStat, ← stat, ← clock]
    rfl
  · exact (congrArg (fun h : Hub => h.clk.epoch) made).trans clock

/-- Settles O37: a boundary that only counts, one at which a commit takes effect, and one at which a unit moves. -/
theorem epochBoundary : Obligations.EpochBoundary := fun _ live quiet =>
  ⟨boundary_plain live quiet,
    fun _ _ _ cur effective owner other one staged off => boundary_commits live quiet cur effective owner other one staged off,
    fun _ _ none moves orders due active free _ low on room => boundary_moves live quiet none moves orders due active free low on room⟩

end Sys2Proof.Machine
end

section
/-! What the hub's actions leave of bring-up's state: everything here keeps all of it, in the order in which the actions are built from each other. -/
namespace Sys2Proof.Machine

variable {h g : Hub} {st : Nat}

theorem Hub.traces.boot (t : h.traces st g) : g.boot = h.boot := (congrArg Hub.boot t.1.2 :)

theorem foldl_boot {α : Type} {f : Hub → α → Hub} (step : ∀ h x, (f h x).boot = h.boot) (l : List α) (h : Hub) :
    (l.foldl f h).boot = h.boot := by
  induction l generalizing h with
  | nil => rfl
  | cons x l ih => exact (ih _).trans (step h x)

theorem foldl_snd_boot {α β : Type} {f : β × Hub → α → β × Hub} (step : ∀ y x, (f y x).2.boot = y.2.boot) (l : List α) (y : β × Hub) :
    (l.foldl f y).2.boot = y.2.boot := by
  induction l generalizing y with
  | nil => rfl
  | cons x l ih => exact (ih _).trans (step y x)

theorem ite_boot {c : Prop} [Decidable c] {a b : Hub} (x : a.boot = h.boot) (y : b.boot = h.boot) : (if c then a else b).boot = h.boot := by
  split
  · exact x
  · exact y

@[simp] theorem firkinWrite_boot (addr : Nat) (b : List Byte) : (h.firkinWrite addr b).boot = h.boot := rfl

@[simp] theorem hbmWrite_boot (addr : Nat) (b : List Byte) : (h.hbmWrite addr b).boot = h.boot := rfl

@[simp] theorem answer_boot (unit context tag status : Nat) : (h.answer unit context tag status).boot = h.boot := rfl

@[simp] theorem reportItem_boot (s : Nat) (kind : ItemKind) (data : List Nat) : (h.reportItem s kind data).boot = h.boot :=
  (reportItem_traces kind data).boot

@[simp] theorem stampSent_boot (s : Nat) : (h.stampSent s).boot = h.boot := rfl

@[simp] theorem rcAdd_boot (off mi lsb max n : Nat) : (h.rcAdd off mi lsb max n).boot = h.boot := by
  unfold Hub.rcAdd
  split <;> rfl

@[simp] theorem rcSet_boot (off mi lsb : Nat) : (h.rcSet off mi lsb).boot = h.boot := rfl

@[simp] theorem rcFlag_boot (off lsb v : Nat) : (h.rcFlag off lsb v).boot = h.boot := by
  unfold Hub.rcFlag
  dsimp only
  (repeat' split) <;> rfl

@[simp] theorem irqAll_boot (l : List Nat) : (h.irqAll l).boot = h.boot := by
  unfold Hub.irqAll
  refine foldl_boot (fun h v => ?_) l h
  rfl

@[simp] theorem record_boot (r : Req) : (h.record r).boot = h.boot := by
  unfold Hub.record
  dsimp only
  (repeat' split) <;> simp

@[simp] theorem clockSetRecord_boot (r : Req) : (h.clockSetRecord r).boot = h.boot := by
  unfold Hub.clockSetRecord
  dsimp only
  (repeat' split) <;> rfl

@[simp] theorem updCursor_boot (m : Master) (f : Cursor → Cursor) : (h.updCursor m f).boot = h.boot := rfl

@[simp] theorem erCursorWrite_boot (m : Master) (v : Nat) : (h.erCursorWrite m v).boot = h.boot := rfl

@[simp] theorem erFwCmd_boot (v : Nat) : (h.erFwCmd v).boot = h.boot := by
  unfold Hub.erFwCmd
  dsimp only
  (repeat' split) <;> simp

@[simp] theorem spillRdWrite_boot (v : Nat) : (h.spillRdWrite v).boot = h.boot := by
  unfold Hub.spillRdWrite
  split <;> rfl

@[simp] theorem updSrc_boot (s k : Nat) (f : Src → Src) : (h.updSrc s k f).boot = h.boot := rfl

@[simp] theorem updPeck_boot (s : Nat) (f : Peck → Peck) : (h.updPeck s f).boot = h.boot := rfl

@[simp] theorem loss_boot (s k slice reason seq packets words tick : Nat) : (h.loss s k slice reason seq packets words tick).boot = h.boot :=
  (loss_traces k slice reason seq packets words tick).boot

@[simp] theorem refuse_boot (s k slice tick : Nat) (g : List (Nat × Pk)) : (h.refuse s k slice tick g).boot = h.boot :=
  (refuse_traces k slice tick g).boot

@[simp] theorem stallRetry_boot (s : Nat) : (h.stallRetry s).boot = h.boot := (stallRetry_traces).boot

@[simp] theorem updOrd_boot (s : Nat) (f : CycOrd → CycOrd) : (h.updOrd s f).boot = h.boot := rfl

@[simp] theorem observeU_boot (e : Ev) : (h.observeU e).boot = h.boot := (observeU_traces e).boot

@[simp] theorem fireWrite_boot (s mask : Nat) : (h.fireWrite s mask).boot = h.boot := (fireWrite_traces mask).boot

@[simp] theorem setWaiting_boot (s : Nat) : (h.setWaiting s).boot = h.boot := by
  unfold Hub.setWaiting
  dsimp only
  (repeat' split) <;> rfl

@[simp] theorem trcRdWrite_boot (s v : Nat) : (h.trcRdWrite s v).boot = h.boot := by
  unfold Hub.trcRdWrite
  simp

@[simp] theorem updGrain_boot (u : Nat) (f : Grain → Grain) : (h.updGrain u f).boot = h.boot := rfl

@[simp] theorem progress_boot (c n : Nat) : (h.progress c n).boot = h.boot := rfl

@[simp] theorem grainAdd_boot (u k n : Nat) : (h.grainAdd u k n).boot = h.boot := by
  unfold Hub.grainAdd
  dsimp only
  (repeat' split) <;> rfl

@[simp] theorem grainRestart_boot (u ctx : Nat) : (h.grainRestart u ctx).boot = h.boot := by
  unfold Hub.grainRestart
  split <;> rfl

@[simp] theorem grainEnd_boot (u : Nat) : (h.grainEnd u).boot = h.boot := rfl

@[simp] theorem cntPut_boot (s len : Nat) (mk : Nat → List Byte) : (h.cntPut s len mk).2.boot = h.boot := by
  unfold Hub.cntPut
  dsimp only
  (repeat' split) <;> simp

@[simp] theorem cntRdWrite_boot (s v : Nat) : (h.cntRdWrite s v).boot = h.boot := rfl

@[simp] theorem bucketAdd_boot (s : Nat) (f : List Nat) (n : Nat) : (h.bucketAdd s f n).boot = h.boot := rfl

@[simp] theorem attFrames_boot (s : Nat) (recs : List (Nat × List Byte)) : (h.attFrames s recs).2.boot = h.boot := by
  unfold Hub.attFrames
  refine foldl_snd_boot (fun y x => ?_) _ _
  dsimp only
  split <;> next e => exact (congrArg (·.2.boot) e).symm.trans (cntPut_boot ..)

@[simp] theorem attExport_boot (s : Nat) : (h.attExport s).boot = h.boot := by
  unfold Hub.attExport
  simp

@[simp] theorem finalRecords_boot (ctx : Nat) : (h.finalRecords ctx).boot = h.boot := by
  unfold Hub.finalRecords
  split
  · rfl
  · exact (foldl_boot (fun h x => ite_boot (bucketAdd_boot ..) rfl) _ _).trans (attFrames_boot ..)

@[simp] theorem tunLow_boot (before : Nat) : (h.tunLow before).boot = h.boot := by
  rw [Hub.tunLow, apply_ite Hub.boot]
  exact ite_self _

@[simp] theorem tunFiller_boot (gap : Nat) : (h.tunFiller gap).boot = h.boot := by
  by_cases c : gap = 0
  · rw [Hub.tunFiller, if_pos c]
  · rw [Hub.tunFiller, if_neg c]
    dsimp only
    generalize tunHeader 4 0 255 0 0 0 0 gap 0 = l
    rfl

@[simp] theorem tunReserve_boot (len : Nat) (hdr : List Byte) (manifest : Bool) : (h.tunReserve len hdr manifest).boot = h.boot := by
  obtain ⟨irq, cyc, e⟩ := tunReserve_frame h len hdr manifest
  rw [e]
  rfl

@[simp] theorem tunBody_boot (pos : Nat) (b : List Byte) : (h.tunBody pos b).boot = h.boot := rfl

@[simp] theorem chunkRecord_boot (key : List Byte) (cls slice flags object chunk inOff inLen : Nat) (plain : List Byte) :
    (h.chunkRecord key cls slice flags object chunk inOff inLen plain).2.2.boot = h.boot :=
  (tunBody_boot ..).trans (tunReserve_boot ..)

@[simp] theorem tunRdWrite_boot (v : Nat) : (h.tunRdWrite v).boot = h.boot := by
  unfold Hub.tunRdWrite
  split <;> rfl

@[simp] theorem tunDirectory_boot (d : DirEnt) : (h.tunDirectory d).boot = h.boot := rfl

@[simp] theorem newObject_boot : (h.newObject).2.boot = h.boot := rfl

@[simp] theorem updWait_boot (u : Nat) (f : List Stall → List Stall) : (h.updWait u f).boot = h.boot := rfl

@[simp] theorem stallOff_boot (u : Nat) (p : Stall → Bool) : (h.stallOff u p).boot = h.boot := by
  unfold Hub.stallOff
  split <;> rfl

@[simp] theorem updFence_boot (id : Nat) (f : Fence → Fence) : (h.updFence id f).boot = h.boot := rfl

@[simp] theorem fenceEv_boot (u ctx slice mode ev : Nat) (err : Bool) (ref : FenceRef) (value : Nat) (ferr forder : Bool) :
    (h.fenceEv u ctx slice mode ev err ref value ferr forder).boot = h.boot :=
  (fenceEv_traces u ctx slice mode ev err ref value ferr forder).boot

@[simp] theorem waitDone_boot (w : Waiter) (ref : FenceRef) (value : Nat) (lost : Bool) : (h.waitDone w ref value lost).boot = h.boot := by
  unfold Hub.waitDone
  simp

@[simp] theorem wake_boot (w : Waiter) (ref : FenceRef) (value : Nat) (lost : Bool) : (h.wake w ref value lost).boot = h.boot := by
  unfold Hub.wake
  (repeat' split) <;> simp_all

@[simp] theorem thawUnit_boot (u : Nat) : (h.thawUnit u).boot = h.boot := by
  unfold Hub.thawUnit
  split
  · rfl
  · exact (foldl_boot (fun _ _ => waitDone_boot ..) _ _).trans (ite_boot rfl rfl)

@[simp] theorem orderEvent_boot (id value mode : Nat) (ctx : Option Nat) (slice : Nat) : (h.orderEvent id value mode ctx slice).boot = h.boot := by
  unfold Hub.orderEvent
  dsimp only
  (repeat' split) <;> simp

@[simp] theorem wakeAll_boot (id : Nat) : (h.wakeAll id).boot = h.boot := (foldl_boot (fun _ _ => wake_boot ..) _ _).trans rfl

@[simp] theorem fenceApply_boot (id value mode : Nat) (ctx : Option Nat) (slice : Nat) : (h.fenceApply id value mode ctx slice).2.boot = h.boot := by
  unfold Hub.fenceApply
  dsimp only
  (repeat' split) <;> simp

@[simp] theorem fenceErr_boot (id mode : Nat) (ctx : Option Nat) (slice : Nat) : (h.fenceErr id mode ctx slice).boot = h.boot := by
  unfold Hub.fenceErr
  dsimp only
  split
  · rfl
  · exact (foldl_boot (fun _ _ => wake_boot ..) _ _).trans (ite_boot rfl (fenceEv_boot ..))

@[simp] theorem ctxSignal_boot (ctx slice unit tag : Nat) (gone : Bool) (ref : FenceRef) (value mode : Nat) :
    (h.ctxSignal ctx slice unit tag gone ref value mode).boot = h.boot := by
  unfold Hub.ctxSignal
  dsimp only
  (repeat' split) <;> simp

@[simp] theorem ctxSignalErr_boot (ctx slice unit tag : Nat) (ref : FenceRef) (mode : Nat) :
    (h.ctxSignalErr ctx slice unit tag ref mode).boot = h.boot := by
  unfold Hub.ctxSignalErr
  (repeat' split) <;> simp_all

@[simp] theorem cmdEv_boot (c ev st : Nat) (x : Cmd) : (h.cmdEv c ev st x).boot = h.boot := (cmdEv_traces c ev st x).boot

@[simp] theorem finishCmd_boot (c i : Nat) : (h.finishCmd c i).boot = h.boot := by
  unfold Hub.finishCmd
  dsimp only
  (repeat' split) <;> simp

@[simp] theorem updWatch_boot (w : Nat) (f : Watch → Watch) : (h.updWatch w f).boot = h.boot := rfl

@[simp] theorem releaseHeld_boot (w : Nat) : (h.releaseHeld w).boot = h.boot := by
  unfold Hub.releaseHeld
  dsimp only
  (repeat' split) <;> simp

@[simp] theorem dropJobs_boot (p : Job → Bool) : (h.dropJobs p).boot = h.boot := rfl

@[simp] theorem watchSummary_boot (f : Firing) : (h.watchSummary f).2.boot = h.boot := by
  unfold Hub.watchSummary
  split
  · rfl
  · exact chunkRecord_boot ..

@[simp] theorem watchNote_boot (f : Firing) (status flags : Nat) : (h.watchNote f status flags).boot = h.boot := by
  unfold Hub.watchNote
  dsimp only
  (repeat' split) <;> rfl

@[simp] theorem watchEnd_boot (w : Nat) (st : WSt) (status : Nat) : (h.watchEnd w st status).boot = h.boot := by
  unfold Hub.watchEnd
  dsimp only
  (repeat' split) <;> simp

@[simp] theorem enterLost_boot (c : Nat) : (h.enterLost c).2.boot = h.boot := by
  unfold Hub.enterLost
  refine (foldl_boot (fun _ _ => watchEnd_boot ..) _ _).trans ((foldl_boot (fun h x => ?_) _ _).trans rfl)
  dsimp only
  split
  · exact (ctxSignalErr_boot ..).trans (cmdEv_boot ..)
  · exact cmdEv_boot ..

@[simp] theorem ctxDestroy_boot (c : Nat) : (h.ctxDestroy c).boot = h.boot := by
  have gone (l : List Cmd) : (l.foldl (fun h x => (h.cmdEv c 2 stAborted x).answer x.unit c x.tag stAborted) h).boot = h.boot := by
    refine foldl_boot (fun h x => ?_) l h
    exact cmdEv_boot ..
  exact gone _

@[simp] theorem ctxCreate_boot (s : Nat) : (h.ctxCreate s).2.boot = h.boot := by
  unfold Hub.ctxCreate
  simp

@[simp] theorem updCut_boot (id : Nat) (f : CutRec → CutRec) : (h.updCut id f).boot = h.boot := rfl

@[simp] theorem updGate_boot (u : Nat) (f : Gate → Gate) : (h.updGate u f).boot = h.boot := rfl

@[simp] theorem updCutM_boot (m : Master) (f : CutM → CutM) : (h.updCutM m f).boot = h.boot := rfl

@[simp] theorem tellMasters_boot (r : CutRec) (st : Nat) : (h.tellMasters r st).boot = h.boot := by
  unfold Hub.tellMasters
  refine foldl_boot (fun h m => ?_) _ _
  rfl

@[simp] theorem linkSend_boot (l : Nat) (b : List Byte) : (h.linkSend l b).boot = h.boot := by
  unfold Hub.linkSend
  split <;> rfl

@[simp] theorem forward_boot (but : Option Nat) (type hops flags id pasid tick : Nat) : (h.forward but type hops flags id pasid tick).boot = h.boot :=
  foldl_boot (fun _ _ => linkSend_boot ..) _ _

@[simp] theorem scheduleSent_boot (id : Nat) (l : List Nat) : (h.scheduleSent id l).boot = h.boot := rfl

@[simp] theorem newCut_boot (o : CutOrigin) (die hang xpkg : Bool) (s t : Nat) (given : Option Nat) :
    (h.newCut o die hang xpkg s t given).2.boot = h.boot := by
  unfold Hub.newCut
  dsimp only
  (repeat' split) <;> simp

@[simp] theorem extraCuts_boot (o : CutOrigin) (hang xpkg : Bool) (d : CutRec) (t : Nat) : (h.extraCuts o hang xpkg d t).boot = h.boot := by
  unfold Hub.extraCuts
  split
  · rfl
  · exact foldl_boot (fun _ _ => newCut_boot ..) _ _

@[simp] theorem cutSchedule_boot (o : CutOrigin) (die hang xpkg : Bool) (s t : Nat) (given : Option Nat) :
    (h.cutSchedule o die hang xpkg s t given).2.2.boot = h.boot := by
  unfold Hub.cutSchedule
  dsimp only
  (repeat' split) <;> simp

@[simp] theorem cutReq_boot (m : Master) (v : Nat) : (h.cutReq m v).boot = h.boot := by
  unfold Hub.cutReq
  dsimp only
  (repeat' split) <;> simp

@[simp] theorem freeze_boot (id t u : Nat) : (h.freeze id t u).boot = h.boot := rfl

@[simp] theorem freezeStation_boot (r : CutRec) (s : Nat) : (h.freezeStation r s).boot = h.boot := by
  unfold Hub.freezeStation
  refine foldl_boot (fun h u => ?_) _ _
  exact ite_boot (freeze_boot ..) (ite_boot rfl rfl)

@[simp] theorem armStation_boot (s : Nat) (r : CutRec) : (h.armStation s r).boot = h.boot := by
  have armed : ∀ h : Hub, (if arms s then h.updStn s fun t => { t with cap := { t.cap with
      armed := t.cap.armed ++ [r.id], overflow := if t.cap.armed.isEmpty then false else t.cap.overflow } } else h).boot = h.boot := fun h => ite_boot rfl rfl
  have units : ((stnUnits s).foldl (fun h u =>
      if h.inScope r u && (h.getGate u).st == .run then h.updGate u fun _ => { st := .armed, cut := r.id, t := r.t } else h)
      (h.updCut r.id fun r => { r with toArm := r.toArm.filter (· != s) })).boot = h.boot := by
    refine foldl_boot (fun h u => ?_) _ _
    exact ite_boot rfl rfl
  exact ite_boot ((freezeStation_boot ..).trans ((armed _).trans units)) ((armed _).trans units)

@[simp] theorem takeOrder_boot (s : Nat) (o : Order) : (h.takeOrder s o).boot = h.boot := by
  unfold Hub.takeOrder
  split <;> rfl

@[simp] theorem deliver_boot (s k : Nat) : (h.deliver s k).boot = h.boot := by
  have arms : ((h.cut.cuts.filter fun r => r.toArm.contains s && decide (r.issued < k)).foldl (fun h r => h.armStation s r) h).boot = h.boot :=
    foldl_boot (fun _ _ => armStation_boot ..) _ _
  unfold Hub.deliver
  exact ite_boot arms ((foldl_boot (fun _ _ => takeOrder_boot ..) _ _).trans arms)

@[simp] theorem dropCaptures_boot (r : CutRec) (s : Option Nat) (disarm back : Bool) : (h.dropCaptures r s disarm back).boot = h.boot := rfl

@[simp] theorem sendDone_boot (r : CutRec) (x : Nat × Nat × Nat) : (h.sendDone r x).boot = h.boot := by
  unfold Hub.sendDone
  simp

@[simp] theorem cutComplete_boot (id unreported : Nat) : (h.cutComplete id unreported).boot = h.boot := by
  unfold Hub.cutComplete
  split
  · rfl
  · exact (foldl_boot (fun _ _ => sendDone_boot ..) _ _).trans ((tellMasters_boot ..).trans (record_boot ..))

@[simp] theorem portResume_boot (u : Nat) : (h.portResume u).boot = h.boot := by
  unfold Hub.portResume
  split <;> rfl

@[simp] theorem openGate_boot (id u : Nat) (back : Bool) : (h.openGate id u back).boot = h.boot := by
  unfold Hub.openGate
  (repeat' split) <;> simp_all

@[simp] theorem openGates_boot (r : CutRec) (s : Option Nat) (back : Bool) : (h.openGates r s back).boot = h.boot :=
  foldl_boot (fun _ _ => openGate_boot ..) _ _

@[simp] theorem removeCut_boot (id : Nat) : (h.removeCut id).boot = h.boot := rfl

@[simp] theorem abortCut_boot (r : CutRec) : (h.abortCut r).boot = h.boot := by
  unfold Hub.abortCut
  simp

@[simp] theorem releaseSlice_boot (r : CutRec) (s : Nat) : (h.releaseSlice r s).boot = h.boot := by
  unfold Hub.releaseSlice
  dsimp only
  (repeat' split) <;> simp

@[simp] theorem resumeReq_boot (die : Bool) (s u : Nat) : (h.resumeReq die s u).2.boot = h.boot := by
  unfold Hub.resumeReq
  (repeat' split) <;> simp_all

@[simp] theorem cutResume_boot (m : Master) (v : Nat) : (h.cutResume m v).boot = h.boot := by
  unfold Hub.cutResume
  dsimp only
  (repeat' split) <;> simp

@[simp] theorem cutSliceGone_boot (s : Nat) (destroyed : Bool) : (h.cutSliceGone s destroyed).boot = h.boot := by
  unfold Hub.cutSliceGone
  refine foldl_boot (fun h r => ite_boot ?_ (ite_boot (releaseSlice_boot ..) ?_)) _ _
  · exact (record_boot ..).trans (abortCut_boot ..)
  · rw [record_boot, updCut_boot, dropCaptures_boot]

@[simp] theorem benchWrite_boot (m : Master) (enable : Bool) : (h.benchWrite m enable).boot = h.boot := by
  have noted : ∀ (g : Hub) (r : Req) (c : Bool), (if c then g.record r else g).boot = g.boot := fun g r c => ite_boot (record_boot ..) rfl
  unfold Hub.benchWrite
  exact ite_boot ((foldl_boot (fun h s => ite_boot rfl (stallRetry_boot ..)) _ _).trans (noted ..)) (noted ..)

@[simp] theorem cutStep_boot (m : Master) (v : Nat) : (h.cutStep m v).boot = h.boot := by
  unfold Hub.cutStep
  dsimp only
  (repeat' split) <;> rfl

@[simp] theorem scanGo_boot : (h.scanGo).boot = h.boot := by
  unfold Hub.scanGo
  split <;> rfl

@[simp] theorem beginSeq_boot (joined : List (Nat × Nat × Nat)) (die : Bool) (slice : Nat) : (h.beginSeq joined die slice).boot = h.boot := rfl

@[simp] theorem nextSeq_boot : (h.nextSeq).boot = h.boot := by
  unfold Hub.nextSeq
  dsimp only
  (repeat' split) <;> rfl

@[simp] theorem verdictRead_boot (c s : Nat) : (h.verdictRead c s).boot = h.boot := by
  unfold Hub.verdictRead
  dsimp only
  (repeat' split) <;> simp

@[simp] theorem verdictPop_boot (m : Master) : (h.verdictPop m).boot = h.boot := by
  unfold Hub.verdictPop
  dsimp only
  (repeat' split) <;> simp

@[simp] theorem updDump_boot (f : Dump → Dump) : (h.updDump f).boot = h.boot := rfl

@[simp] theorem updDmpM_boot (m : Master) (f : DmpM → DmpM) : (h.updDmpM m f).boot = h.boot := rfl

@[simp] theorem updBank_boot (b : Nat) (f : Bank → Bank) : (h.updBank b f).boot = h.boot := rfl

@[simp] theorem updJobRes_boot (b : Nat) (m : Master) (f : JobRes → JobRes) : (h.updJobRes b m f).boot = h.boot := rfl

@[simp] theorem regJobEnd_boot (b status : Nat) : (h.regJobEnd b status).boot = h.boot := by
  unfold Hub.regJobEnd
  dsimp only
  (repeat' split) <;> rfl

@[simp] theorem startJob_boot (watch quiet : Bool) (seg off len set : Nat) (key : List Byte) :
    (h.startJob watch quiet seg off len set key).boot = h.boot := by
  unfold Hub.startJob
  simp

@[simp] theorem endStream_boot (status rest : Nat) : (h.endStream status rest).boot = h.boot := rfl

@[simp] theorem startNext_boot : (h.startNext).boot = h.boot := by
  unfold Hub.startNext
  dsimp only
  (repeat' split) <;> simp

@[simp] theorem goOn_boot : (h.goOn).boot = h.boot := by
  unfold Hub.goOn
  dsimp only
  (repeat' split) <;> simp

@[simp] theorem dumpBegin_boot (d : Dump) : (h.dumpBegin d).boot = h.boot := by
  unfold Hub.dumpBegin
  dsimp only
  (repeat' split) <;> rfl

@[simp] theorem dumpReq_boot (m : Master) (v : Nat) : (h.dumpReq m v).boot = h.boot := by
  unfold Hub.dumpReq
  dsimp only
  refine ite_boot rfl (ite_boot rfl (ite_boot rfl (ite_boot rfl (ite_boot rfl (ite_boot (ite_boot rfl rfl) (ite_boot rfl ?_))))))
  exact (dumpBegin_boot ..).trans (ite_boot rfl rfl)

@[simp] theorem dumpSliceGone_boot (s : Nat) : (h.dumpSliceGone s).boot = h.boot := by
  unfold Hub.dumpSliceGone
  dsimp only
  (repeat' split) <;> rfl

@[simp] theorem dumpStop_boot : (h.dumpStop).boot = h.boot := by
  unfold Hub.dumpStop
  (repeat' split) <;> simp_all

@[simp] theorem ceGo_boot (m : Master) (b v : Nat) : (h.ceGo m b v).boot = h.boot := by
  unfold Hub.ceGo
  dsimp only
  (repeat' split) <;> rfl

@[simp] theorem watchOff_boot (w : Nat) : (h.watchOff w).boot = h.boot := by
  unfold Hub.watchOff
  (repeat' split) <;> simp_all

@[simp] theorem watchSliceGone_boot (s : Nat) : (h.watchSliceGone s).boot = h.boot := by
  unfold Hub.watchSliceGone
  simp

@[simp] theorem watchCancel_boot (v : Nat) : (h.watchCancel v).boot = h.boot := by
  unfold Hub.watchCancel
  (repeat' split) <;> simp_all

@[simp] theorem updStat_boot (m : Master) (f : CommitStat → CommitStat) : (h.updStat m f).boot = h.boot := rfl

@[simp] theorem ownerStat_boot (o : Owner) (f : CommitStat → CommitStat) : (h.ownerStat o f).boot = h.boot := by
  unfold Hub.ownerStat
  split <;> rfl

@[simp] theorem commitAdd_boot (o : Owner) (scope target : Nat) : (h.commitAdd o scope target).boot = h.boot := by
  unfold Hub.commitAdd
  simp

@[simp] theorem commitRequest_boot (m : Master) (scope target : Nat) : (h.commitRequest m scope target).boot = h.boot := by
  unfold Hub.commitRequest
  dsimp only
  (repeat' split) <;> rfl

@[simp] theorem queueMove_boot (u t : Nat) : (h.queueMove u t).boot = h.boot := rfl

@[simp] theorem updWin_boot (m : Master) (f : Window → Window) : (h.updWin m f).boot = h.boot := rfl

@[simp] theorem winDrop_boot (m : Master) (st : Nat) : (h.winDrop m st).boot = h.boot := by
  unfold Hub.winDrop
  split <;> rfl

@[simp] theorem winAcquire_boot (m : Master) (s : Nat) : (h.winAcquire m s).boot = h.boot := by
  unfold Hub.winAcquire
  dsimp only
  (repeat' split) <;> simp

@[simp] theorem winWrite_boot (m : Master) (v : Nat) : (h.winWrite m v).boot = h.boot := by
  unfold Hub.winWrite
  dsimp only
  (repeat' split) <;> simp

@[simp] theorem roleEnd_boot (m : Master) (how : Nat) : (h.roleEnd m how).boot = h.boot := rfl

@[simp] theorem secDone_boot (m : Master) (status reason : Nat) : (h.secDone m status reason).boot = h.boot := rfl

@[simp] theorem genZero_boot (s : Nat) : (h.genZero s).2.boot = h.boot := by
  unfold Hub.genZero
  split <;> rfl

@[simp] theorem secGo_boot (m : Master) (op s : Nat) : (h.secGo m op s).boot = h.boot := by
  unfold Hub.secGo
  dsimp only
  (repeat' split) <;> rfl

@[simp] theorem secCmd_boot (m : Master) (v : Nat) : (h.secCmd m v).boot = h.boot := by
  unfold Hub.secCmd
  (repeat' split) <;> simp_all

@[simp] theorem storeReg_boot (m : Master) (l : Loc) (w : Nat) : (h.storeReg m l w).boot = h.boot := by
  unfold Hub.storeReg
  dsimp only
  (repeat' split) <;> rfl

@[simp] theorem stageWord_boot (m : Master) (l : Loc) (w : Nat) : (h.stageWord m l w).2.boot = h.boot := by
  unfold Hub.stageWord
  (repeat' split) <;> simp_all

@[simp] theorem loaderWrite_boot (off w : Nat) : (h.loaderWrite off w).boot = h.boot := by
  unfold Hub.loaderWrite
  split
  · rfl
  · next l _ =>
    have staged := stageWord_boot (h := h) .loader l w
    split
    · next e =>
      rw [e] at staged
      exact ite_boot ((benchWrite_boot ..).trans staged) ((storeReg_boot ..).trans staged)
    · next e =>
      rw [e] at staged
      exact staged

@[simp] theorem applyWrites_boot (ws : List (Nat × Nat)) : (h.applyWrites ws).boot = h.boot := foldl_boot (fun _ _ => loaderWrite_boot ..) _ _

@[simp] theorem updEngine_boot (e : Nat) (f : Engine → Engine) : (h.updEngine e f).boot = h.boot := rfl

@[simp] theorem xferEv_boot (e ev status : Nat) (t : Transfer) : (h.xferEv e ev status t).boot = h.boot := by
  unfold Hub.xferEv
  simp

@[simp] theorem transferAnswer_boot (t : Transfer) (status : Nat) : (h.transferAnswer t status).boot = h.boot := rfl

@[simp] theorem transferAbort_boot (e : Nat) (t : Transfer) : (h.transferAbort e t).2.boot = h.boot := by
  unfold Hub.transferAbort
  dsimp only
  (repeat' split) <;> simp

@[simp] theorem capacity_boot (m : Master) (kind slice arg used : Nat) : (h.capacity m kind slice arg used).boot = h.boot := by
  unfold Hub.capacity
  simp

@[simp] theorem updSlcM_boot (m : Master) (f : SlcM → SlcM) : (h.updSlcM m f).boot = h.boot := rfl

@[simp] theorem sliceNew_boot (s pasid origin : Nat) : (h.sliceNew s pasid origin).boot = h.boot := by
  unfold Hub.sliceNew
  dsimp only
  (repeat' split) <;> simp

@[simp] theorem sliceCreate_boot (m : Master) (s : Nat) : (h.sliceCreate m s).boot = h.boot := by
  unfold Hub.sliceCreate
  dsimp only
  (repeat' split) <;> simp

@[simp] theorem loseContexts_boot (s : Nat) : (h.loseContexts s).boot = h.boot :=
  foldl_boot (fun _ _ => (record_boot ..).trans (enterLost_boot ..)) _ _

@[simp] theorem discardTransfers_boot (s : Nat) : (h.discardTransfers s).boot = h.boot := by
  unfold Hub.discardTransfers
  refine foldl_boot (fun h e => ?_) _ _
  dsimp only
  refine ite_boot rfl ((foldl_boot (fun h t => ?_) _ _).trans rfl)
  exact transferAbort_boot ..

@[simp] theorem resetSlice_boot (s cause : Nat) : (h.resetSlice s cause).boot = h.boot := by
  rw [resetSlice_eq]
  simp only [Hub.updSlice_boot, discardTransfers_boot, dumpSliceGone_boot, watchSliceGone_boot, cutSliceGone_boot, loseContexts_boot]

@[simp] theorem errorExports_boot (s : Nat) : (h.errorExports s).2.boot = h.boot := by
  unfold Hub.errorExports
  refine foldl_snd_boot (fun y i => ?_) _ _
  split
  · rfl
  · exact fenceErr_boot ..

@[simp] theorem sliceReset_boot (m : Master) (s : Nat) (died : Bool) : (h.sliceReset m s died).boot = h.boot := by
  unfold Hub.sliceReset
  exact ite_boot rfl (ite_boot ((resetSlice_boot ..).trans (errorExports_boot ..)) (resetSlice_boot ..))

@[simp] theorem umapByte_boot (u t : Nat) : (h.umapByte u t).boot = h.boot := rfl

@[simp] theorem sliceDestroy_boot (m : Master) (s : Nat) : (h.sliceDestroy m s).boot = h.boot := by
  unfold Hub.sliceDestroy
  dsimp only
  split
  · rfl
  · refine (foldl_boot (fun h u => ?_) _ _).trans ?_
    · rfl
    · simp only [dumpSliceGone_boot, watchSliceGone_boot, cutSliceGone_boot, Hub.updSlice_boot, Hub.updKeys_boot, errorExports_boot, updSlcM_boot]

@[simp] theorem slcCmd_boot (m : Master) (v : Nat) : (h.slcCmd m v).boot = h.boot := by
  unfold Hub.slcCmd
  dsimp only
  (repeat' split) <;> simp

@[simp] theorem ctxCreateCmd_boot (m : Master) (s : Nat) : (h.ctxCreateCmd m s).boot = h.boot := by
  unfold Hub.ctxCreateCmd
  dsimp only
  (repeat' split) <;> simp

@[simp] theorem ctxDestroyCmd_boot (m : Master) (c : Nat) : (h.ctxDestroyCmd m c).boot = h.boot := by
  unfold Hub.ctxDestroyCmd
  (repeat' split) <;> simp_all

@[simp] theorem slcCtxCmd_boot (m : Master) (v : Nat) : (h.slcCtxCmd m v).boot = h.boot := by
  unfold Hub.slcCtxCmd
  (repeat' split) <;> simp_all

@[simp] theorem expAllocate_boot (m : Master) (s i : Nat) : (h.expAllocate m s i).boot = h.boot := by
  unfold Hub.expAllocate
  dsimp only
  (repeat' split) <;> simp

@[simp] theorem expRelease_boot (m : Master) (i : Nat) : (h.expRelease m i).boot = h.boot := by
  unfold Hub.expRelease
  dsimp only
  (repeat' split) <;> simp

@[simp] theorem slcExpCmd_boot (m : Master) (v : Nat) : (h.slcExpCmd m v).boot = h.boot := by
  unfold Hub.slcExpCmd
  (repeat' split) <;> simp_all

@[simp] theorem attnMessage_boot (code : Nat) : (h.attnMessage code).boot = h.boot := rfl

@[simp] theorem fwDoorbell_boot (code : Nat) : (h.fwDoorbell code).boot = h.boot := rfl

@[simp] theorem fwTell_boot (code : Nat) : (h.fwTell code).boot = h.boot := by
  unfold Hub.fwTell
  split <;> rfl

@[simp] theorem calApply_boot : (h.calApply).boot = h.boot := by
  unfold Hub.calApply
  simp

@[simp] theorem calRequest_boot (m : Master) (v : Nat) : (h.calRequest m v).boot = h.boot := by
  unfold Hub.calRequest
  dsimp only
  (repeat' split) <;> simp

@[simp] theorem timebaseStart_boot : (h.timebaseStart).boot = h.boot := rfl

@[simp] theorem kick_boot : (h.kick).boot = h.boot := rfl

@[simp] theorem hangDrop_boot : (h.hangDrop).boot = h.boot := rfl

@[simp] theorem queryBusy_boot (m : Master) : (h.queryBusy m).boot = h.boot := rfl

@[simp] theorem queriesBusy_boot : (h.queriesBusy).boot = h.boot := by
  unfold Hub.queriesBusy
  simp only [queryBusy_boot]

@[simp] theorem irqStatusWrite_boot (w : Nat) : (h.irqStatusWrite w).boot = h.boot := rfl

@[simp] theorem irqEnWrite_boot (w : Nat) : (h.irqEnWrite w).boot = h.boot := rfl

@[simp] theorem msixWrite_boot (i w : Nat) : (h.msixWrite i w).boot = h.boot := rfl

@[simp] theorem hostDoorbell_boot (code : Nat) : (h.hostDoorbell code).boot = h.boot := by
  unfold Hub.hostDoorbell
  dsimp only
  (repeat' split) <;> rfl

@[simp] theorem doorbellPop_boot : (h.doorbellPop).boot = h.boot := rfl

@[simp] theorem updMbx_boot (m : Master) (f : Mbx → Mbx) : (h.updMbx m f).boot = h.boot := rfl

@[simp] theorem mbxCtl_boot (m : Master) (v : Nat) : (h.mbxCtl m v).boot = h.boot := by
  unfold Hub.mbxCtl
  dsimp only
  (repeat' split) <;> rfl

@[simp] theorem updQuery_boot (m : Master) (f : Query → Query) : (h.updQuery m f).boot = h.boot := rfl

@[simp] theorem tlmQuery_boot (m : Master) (v : Nat) : (h.tlmQuery m v).boot = h.boot := by
  unfold Hub.tlmQuery
  dsimp only
  (repeat' split) <;> rfl

@[simp] theorem refusal_boot (m : Master) (write : Bool) (off v : Nat) : (h.refusal m write off v).boot = h.boot := rfl

@[simp] theorem roleWrite_boot (m : Master) (l : Loc) (off v : Nat) : (h.roleWrite m l off v).boot = h.boot := by
  unfold Hub.roleWrite
  split <;> rfl

@[simp] theorem slotReached_boot (off : Nat) : (h.slotReached off).boot = h.boot := by
  unfold Hub.slotReached
  (repeat' split) <;> simp_all

@[simp] theorem modeWrite_boot (m : Master) (l : Loc) (v : Nat) : (h.modeWrite m l v).boot = h.boot := by
  unfold Hub.modeWrite
  dsimp only
  (repeat' split) <;> simp

@[simp] theorem unitWrite_boot (m : Master) (l : Loc) (v : Nat) : (h.unitWrite m l v).boot = h.boot := by
  unfold Hub.unitWrite
  dsimp only
  (repeat' split) <;> simp

end Sys2Proof.Machine
end

section
/-! A hub cycle, and what an access of TAP mode may do in it, keeps the supply of COLD_N and of the island (R91, R92). -/
namespace Sys2Proof.Machine

variable {h g : Hub} {mem : Mem} {m : Master} {l : Loc} {v : Nat}

theorem live_of_boot (same : g.boot = h.boot) : g.live = h.live := by
  rw [Hub.live, Hub.live, same]

theorem foldl_live {α : Type} {f : Hub → α → Hub} (step : ∀ h x, (f h x).live = h.live) (l : List α) (h : Hub) : (l.foldl f h).live = h.live := by
  induction l generalizing h with
  | nil => rfl
  | cons x l ih => exact (ih _).trans (step h x)

theorem ite_live {c : Prop} [Decidable c] {a b : Hub} (x : a.live = h.live) (y : b.live = h.live) : (if c then a else b).live = h.live := by
  split
  · exact x
  · exact y

@[simp] theorem record_live (r : Req) : (h.record r).live = h.live := live_of_boot (record_boot r)

/-! ## The loader (R99 to R107) -/

theorem loadFail_boot (status : Nat) : (h.loadFail status).boot = h.boot := record_boot _

@[simp] theorem loadEnds_live (status idx : Nat) : (h.loadEnds status idx).live = h.live := by
  have failed : ({ h with ldr := { h.ldr with section_ := idx } }.loadFail status).live = h.live := live_of_boot (loadFail_boot status)
  exact ite_live failed (ite_live failed failed)

@[simp] theorem aszStart_live : (h.aszStart m).live = h.live := by
  have entered : (if h.boot.phase = 5 then h.enter 6 else h).live = h.live := ite_live rfl rfl
  exact ite_live rfl entered

@[simp] theorem aszAbort_live : (h.aszAbort m).live = h.live := ite_live (loadEnds_live ..) rfl

@[simp] theorem aszCtrl_live : (h.aszCtrl m v).live = h.live := by
  have aborted : (if bit v 30 then h.aszAbort m else h).live = h.live := ite_live aszAbort_live rfl
  exact ite_live (aszStart_live.trans aborted) aborted

@[simp] theorem streamHeader_live (b : List Byte) : (h.streamHeader m b).live = h.live := by
  have moded : (if leAt b 6 2 ≤ 2 then { h with ldr := { h.ldr with mode := leAt b 6 2 } } else h).live = h.live := ite_live rfl rfl
  exact ite_live ((loadEnds_live ..).trans moded) moded

@[simp] theorem sectionHeader_live (b : List Byte) : (h.sectionHeader b).live = h.live := by
  have marked : (if leAt b 0 2 = 3 then { h with boot := { h.boot with imemValid := false } } else h).live = h.live := ite_live rfl rfl
  exact ite_live (loadEnds_live ..) (ite_live rfl marked)

@[simp] theorem imageWord_live (p : Nat) (b : List Byte) : (h.imageWord p b).live = h.live := ite_live rfl rfl

@[simp] theorem partDone_live : (h.partDone m).live = h.live := by
  unfold Hub.partDone
  dsimp only
  split
  · exact streamHeader_live _
  · exact sectionHeader_live _
  · rfl
  · rfl

@[simp] theorem aszData_live (w : Nat) : (h.aszData m w).live = h.live := by
  unfold Hub.aszData
  exact ite_live rfl (ite_live (loadEnds_live ..) (ite_live (loadEnds_live ..)
    (ite_live (imageWord_live ..) (partDone_live.trans (imageWord_live ..)))))

@[simp] theorem loaderIdle_live : h.loaderIdle.live = h.live := ite_live rfl rfl

/-! ## Firmware, its restarts and its Firkin core (R113 to R116) -/

@[simp] theorem readyBoot_live : h.readyBoot.live = h.live :=
  live_of_boot (g := (h.timebaseStart.kick.applyWrites h.boot.writes).commitAdd .bringup 0 0) (by simp)

@[simp] theorem readyRestart_live : h.readyRestart.live = h.live :=
  live_of_boot ((nextSeq_boot ..).trans (foldl_boot (fun _ _ => fwTell_boot ..) _ _))

@[simp] theorem fwReady_live : h.fwReady.live = h.live := by
  have booted : (if h.boot.phase = 7 then h.readyBoot else h).live = h.live := ite_live readyBoot_live rfl
  exact ite_live rfl (ite_live (readyRestart_live.trans booted) booted)

@[simp] theorem pairStop_live : h.pairStop.live = h.live := by
  refine (live_of_boot ((dumpStop_boot ..).trans ((queriesBusy_boot ..).trans (hangDrop_boot ..)))).trans ?_
  exact ite_live ((live_of_boot (winDrop_boot ..)).trans rfl) rfl

@[simp] theorem restart_live (cause : Nat) (x : Option Master) : (h.restart cause x).live = h.live := by
  have run : (h.restartRun cause x).live = h.live := (record_live (h := h.pairStop) _).trans pairStop_live
  exact ite_live rfl (ite_live run (ite_live rfl rfl))

@[simp] theorem restartWrite_live : (h.restartWrite m v).live = h.live :=
  ite_live rfl (ite_live (record_live _) ((restart_live ..).trans (record_live _)))

@[simp] theorem firkinRelease_live : (h.firkinRelease mem m v).live = h.live := ite_live rfl (record_live _)

/-! ## Register accesses (R10 to R18) -/

theorem hubWrite_live : (h.hubWrite mem m l v).live = h.live := by
  have of {g : Hub} (same : g.boot = h.boot) : g.live = h.live := live_of_boot same
  unfold Hub.hubWrite
  split
  · exact ite_live (of (commitRequest_boot ..)) rfl
  · exact ite_live rfl rfl
  · exact of (winWrite_boot ..)
  · exact aszCtrl_live
  · exact aszData_live _
  · exact restartWrite_live
  · exact ite_live fwReady_live rfl
  · exact ite_live rfl rfl
  · exact ite_live rfl rfl
  · exact firkinRelease_live
  · exact ite_live (of (scanGo_boot ..)) rfl
  · exact of (irqStatusWrite_boot ..)
  · exact of (irqEnWrite_boot ..)
  · exact of (hostDoorbell_boot ..)
  · exact of (fwDoorbell_boot ..)
  · exact of (mbxCtl_boot ..)
  · rfl
  · exact of (msixWrite_boot ..)
  · exact of (secCmd_boot ..)
  · rfl
  · rfl

@[simp] theorem regWrite_live : (h.regWrite mem m l v).live = h.live := by
  have stored : (h.storeReg m l v).boot = h.boot := storeReg_boot ..
  unfold Hub.regWrite
  split
  · rfl
  · exact ite_live (live_of_boot ((calRequest_boot ..).trans stored)) (live_of_boot stored)
  · exact ite_live (live_of_boot (modeWrite_boot ..)) (live_of_boot stored)
  · exact ite_live hubWrite_live (live_of_boot (unitWrite_boot ..))

@[simp] theorem write32_live (off w : Nat) : (h.write32 mem m off w).2.live = h.live := by
  unfold Hub.write32
  split
  · rfl
  · next l _ =>
    have staged := (stageWord_boot (h := (h.slotReached off).roleWrite m l off w) m l w).trans ((roleWrite_boot ..).trans (slotReached_boot ..))
    rw [apply_ite Prod.snd]
    refine ite_live rfl ?_
    rw [apply_ite Prod.snd]
    refine ite_live (live_of_boot (refusal_boot ..)) ?_
    rw [apply_ite Prod.snd]
    refine ite_live rfl ?_
    split
    · next e =>
      rw [e] at staged
      exact regWrite_live.trans (live_of_boot staged)
    · next e =>
      rw [e] at staged
      exact live_of_boot staged

theorem readEffect_live : (h.readEffect m l).live = h.live := by
  unfold Hub.readEffect
  split
  · exact live_of_boot (verdictPop_boot ..)
  · exact live_of_boot (doorbellPop_boot ..)
  · rfl
  · rfl
  · exact ite_live rfl rfl
  · exact ite_live loaderIdle_live rfl
  · refine foldl_live (fun h b => ?_) _ _
    rfl

theorem readReg_live : (h.readReg m l).2.live = h.live := by
  unfold Hub.readReg
  rw [apply_ite Prod.snd]
  refine ite_live rfl ?_
  rw [apply_ite Prod.snd]
  have latched : (if l.row.pair then { h with latch := SMap.set 0 h.latch m.idx (l.value h m / 2 ^ 32) } else h).live = h.live := ite_live rfl rfl
  exact ite_live rfl (ite_live latched (readEffect_live.trans latched))

@[simp] theorem read32_live (off : Nat) : (h.read32 mem m off).2.2.live = h.live := by
  have refused : (h.refusal m false off 0).live = h.live := live_of_boot (refusal_boot ..)
  unfold Hub.read32
  split
  · split
    · rfl
    · exact refused
  · split
    · split
      · rfl
      · exact refused
    · split
      · rfl
      · split
        · exact readReg_live.trans (live_of_boot (slotReached_boot ..))
        · exact refused

/-! ## The hub cycle -/

theorem tapAccess_live : (h.tapAccess mem).live = h.live := by
  unfold Hub.tapAccess
  split
  · rfl
  · next dr _ =>
    dsimp only
    split
    · exact write32_live (mem := mem) (m := .span) ..
    · exact read32_live (mem := mem) (m := .span) ..

theorem settle_live : h.settle.live = h.live := by
  unfold Hub.settle
  refine foldl_live (fun h e => ?_) _ _
  exact live_of_boot settleStn_traces.boot

theorem resumeWaits_live : h.resumeWaits.live = h.live :=
  foldl_live (fun _ _ => foldl_live (fun _ _ => live_of_boot (thawUnit_boot ..)) _ _) _ _

theorem resetsDue_live : h.resetsDue.live = h.live := by
  unfold Hub.resetsDue
  refine foldl_live (fun h e => ?_) _ _
  exact record_live _

theorem noncesDue_live : h.noncesDue.live = h.live := by
  unfold Hub.noncesDue
  refine foldl_live (fun h m => ?_) _ _
  rfl

/-- A hub cycle keeps the supply. -/
theorem tick_live : (Hub.tick mem h).live = h.live := by
  refine ite_live ?_ rfl
  refine noncesDue_live.trans (resetsDue_live.trans ?_)
  exact resumeWaits_live.trans (settle_live.trans tapAccess_live)

theorem cycle_live (s : State) : s.cycle.hub.live = s.hub.live := tick_live (mem := s.mem) (h := s.hub)

end Sys2Proof.Machine
end

section
/-! O54: requests to the dump engine (R314 to R317, R327, R347, R350). -/
namespace Sys2Proof.Machine

theorem locate_dmpReq : locate 0x40000 = some (.acting false .dmpReq 0x40000 .glob .omp) := by decide +kernel
theorem locate_dmpWcancel : locate 0x4004C = some (.acting false .dmpWcancel 0x4004C .glob .omp) := by decide +kernel

/-- DMP_CTX, which each master has of its own. -/
def dmpCtxLoc : Loc := ⟨⟨.dmpCtx, 0x40004, 4, 1, false, .rw, true, .all, .glob, .omp, 0x3FFFF, 0⟩, 0, false, 0, 0x40004, false⟩

theorem locate_dmpCtx : locate 0x40004 = some dmpCtxLoc := by decide +kernel

/-- The _LO word of DMP_TUN_RD. -/
def tunRdLoc : Loc := ⟨⟨.dmpTunRd, 0x40040, 8, 1, true, .act, false, .all, .tun, .tun, 0, 0⟩, 0, false, 0, 0x40040, false⟩

theorem locate_tunRd : locate 0x40040 = some tunRdLoc := by decide +kernel
theorem locate_tunRd_upper : locate 0x40044 = some tunRdLoc.upper := by decide +kernel

/-! ## A request to the engine (R314 to R317) -/

theorem dumpWord : ∀ k < 64, field (2 ^ 31 + 2 ^ 28 + k) 30 29 = 0 ∧ bit (2 ^ 31 + 2 ^ 28 + k) 31 = true ∧ bit (2 ^ 31 + 2 ^ 28 + k) 28 = true ∧
    (2 ^ 31 + 2 ^ 28 + k) % 64 = k ∧ goWord (b2n false) 29 (at_ (b2n true) 28 + k % 64) = 2 ^ 31 + 2 ^ 28 + k := by decide +kernel

theorem exec_dumpRequest (m : Master) {k : Nat} (low : k < 64) (s : State) :
    exec (.dumpRequest m false true k) s = run (.dumpRequest m false true k) (fun mem h => h.busWrite mem m 0x40000 4 (2 ^ 31 + 2 ^ 28 + k)) s := by
  rw [show exec (.dumpRequest m false true k) s = execDumpRequest m false true k s from rfl, execDumpRequest, (dumpWord k low).2.2.2.2]

section Request

variable (h : Hub) (m : Master) {k o : Nat} (stands : h.rst.st = 0) (next : o = if h.dmp.object = 0xFFFFFFFF then 1 else h.dmp.object + 1)

theorem dumpBegin_quiet (d : Dump) (fires : h.dmp.fires = []) :
    h.dumpBegin d = { h with dmp := { h.dmp with st := .plan, cur := some d, prog := 0 } } := by
  have none_ : Hub.reading { h with dmp := { h.dmp with st := .plan, cur := some d, prog := 0 } } = none := by
    unfold Hub.reading
    dsimp only
    rw [fires]
  unfold Hub.dumpBegin
  dsimp only
  rw [none_]

/-- A request of another than the controller pair at step 5 of its hang sequence. -/
theorem asked_own (own : m = .pair → h.hang.seq.step ≠ 5) : (decide (m = .pair) && decide (h.hang.seq.step = 5)) = false := by
  by_cases pair : m = .pair
  · simp [pair, own pair]
  · simp [pair]

include stands

section Own

variable (own : m = .pair → h.hang.seq.step ≠ 5)
include own

/-- An idle engine takes the request for a slice that exists. -/
theorem dumpReq_slice (next : o = if h.dmp.object = 0xFFFFFFFF then 1 else h.dmp.object + 1) (low : k < 64) (idle : h.dmp.st = .idle)
    (fires : h.dmp.fires = []) (there : h.sliceExists k = true) :
    h.dumpReq m (2 ^ 31 + 2 ^ 28 + k) = startedDump h m
      (h.dumpOf { owner := m, cause := 2, scope := 0, slice := k, context := 0, live := true, object := o }) o := by
  obtain ⟨scope, go, running, slice, _⟩ := dumpWord k low
  unfold Hub.dumpReq
  simp only [scope, go, running, slice, asked_own h m own, stands, idle, there, Hub.newObject, ← next, Bool.not_true, Bool.false_eq_true, ↓reduceIte,
    reduceCtorEq, ne_eq, not_true_eq_false, and_false, false_and, Nat.reduceEqDiff, OfNat.zero_ne_ofNat, Bool.true_or]
  rw [dumpBegin_quiet _ _ (by exact fires)]
  rfl

/-- An engine that has a dump answers ST_BUSY. -/
theorem dumpReq_busy (low : k < 64) (busy : h.dmp.st ≠ .idle) (there : h.sliceExists k = true) :
    h.dumpReq m (2 ^ 31 + 2 ^ 28 + k) = { h with dmp := { h.dmp with
      m := SMap.upd {} h.dmp.m m.idx fun x => { x with status := stBusy, running := false } } } := by
  obtain ⟨scope, go, running, slice, _⟩ := dumpWord k low
  unfold Hub.dumpReq
  simp only [scope, go, running, slice, asked_own h m own, stands, busy, there, Bool.not_true, Bool.false_eq_true, ↓reduceIte,
    ne_eq, not_true_eq_false, not_false_eq_true, and_false, false_and, Nat.reduceEqDiff, OfNat.zero_ne_ofNat, OfNat.ofNat_ne_one]
  rfl

/-- An idle engine takes the request for the context that DMP_CTX names. -/
theorem dumpReq_context {c : Nat} (next : o = if h.dmp.object = 0xFFFFFFFF then 1 else h.dmp.object + 1) (idle : h.dmp.st = .idle)
    (fires : h.dmp.fires = []) (held : (h.getCtx c).st ≠ .free) (named : h.rwGet 0 0x40004 m.idx = c) :
    h.dumpReq m (2 ^ 31 + 2 ^ 30) = startedDump h m
      (h.dumpOf { owner := m, cause := 3, scope := 2, slice := (h.getCtx c).slice, context := c, live := true, object := o }) o := by
  have go : bit (2 ^ 31 + 2 ^ 30) 31 = true := rfl
  have scope : field (2 ^ 31 + 2 ^ 30) 30 29 = 2 := rfl
  unfold Hub.dumpReq
  simp only [scope, go, asked_own h m own, stands, idle, named, held, Hub.newObject, ← next, Bool.not_true, Bool.false_eq_true, ↓reduceIte,
    reduceCtorEq, ne_eq, not_true_eq_false, and_false, false_and, Nat.reduceEqDiff, decide_true, Bool.or_true]
  rw [dumpBegin_quiet _ _ (by exact fires)]
  rfl

end Own

/-- The request of the hang sequence: the scope and slice of the sequence's cut, alive unless that cut is stopped. -/
def Hub.hangDump (h : Hub) (o : Nat) : DmpReq :=
  { owner := .pair, cause := 1, scope := b2n h.seqScope.2.1, slice := if h.seqScope.2.1 then 0 else h.seqScope.2.2, context := 0,
    live := match h.seqScope.1 with | some c => c.st != .stopped | none => true, object := o }

/-- An idle engine takes the request of the controller pair at step 5 of its hang sequence. -/
theorem dumpReq_hang (next : o = if h.dmp.object = 0xFFFFFFFF then 1 else h.dmp.object + 1) (low : k < 64) (pair : m = .pair)
    (step : h.hang.seq.step = 5) (idle : h.dmp.st = .idle) (fires : h.dmp.fires = []) :
    h.dumpReq m (2 ^ 31 + 2 ^ 28 + k) =
      { startedDump h m (h.dumpOf (h.hangDump o)) o with hang := { h.hang with seq := { h.hang.seq with object := o } } } := by
  obtain ⟨scope, go, _⟩ := dumpWord k low
  have asked : (decide (m = .pair) && decide (h.hang.seq.step = 5)) = true := by simp [pair, step]
  unfold Hub.dumpReq
  simp only [scope, go, asked, stands, idle, Hub.newObject, ← next, Bool.not_true, Bool.false_eq_true, ↓reduceIte,
    ne_eq, not_true_eq_false, false_and, OfNat.zero_ne_ofNat, OfNat.one_ne_ofNat]
  rw [dumpBegin_quiet _ _ (by exact fires), pair]
  rfl

end Request

/-! ## The Tun's reader and a cancelled watch (R327, R350) -/

theorem tunRdWrite_moves {h : Hub} {v : Nat} (forward : h.dmp.rd ≤ v) (done : v ≤ h.dmp.done) :
    h.tunRdWrite v = { h with dmp := { h.dmp with rd := v } } := if_pos ⟨forward, done⟩

theorem cancelWord : ∀ w < 128, bit (2 ^ 31 + w) 31 = true ∧ (2 ^ 31 + w) % 128 = w ∧ goWord 0 0 w = 2 ^ 31 + w := by decide +kernel

theorem watchCancel_armed {h : Hub} {w : Nat} (low : w < 128) (armed : (h.getWatch w).st = .armed) (apart : ∀ f ∈ h.dmp.fires, f.slot ≠ w) :
    h.watchCancel (2 ^ 31 + w) = { h with dmp := { h.dmp with w := SMap.set {} h.dmp.w w { h.getWatch w with st := .off, count := 0 } } } := by
  obtain ⟨go, slot, _⟩ := cancelWord w low
  have unfired : (h.dmp.fires.any fun f => f.slot == w) = false := by simpa using apart
  have on : (h.getWatch w).st ≠ .off := by simp [armed]
  rw [Hub.watchCancel, go, if_pos rfl, slot, Hub.watchOff, if_neg on, unfired]
  rfl

theorem exec_watchCancel (m : Master) {w : Nat} (low : w < 128) (s : State) :
    exec (.watchCancel m w) s = run (.watchCancel m w) (fun mem h => h.busWrite mem m 0x4004C 4 (2 ^ 31 + w)) s := by
  rw [show exec (.watchCancel m w) s = execWatchCancel m w s from rfl, execWatchCancel, Nat.mod_eq_of_lt low, (cancelWord w low).2.2]

/-! ## A request for a context: two writes in two hub cycles (R315) -/

theorem busWrite_live (h : Hub) (mem : Mem) (m : Master) (off size v : Nat) : (h.busWrite mem m off size v).live = h.live := by
  unfold Hub.busWrite
  refine ite_live rfl (ite_live ?_ (ite_live ?_ rfl))
  · exact (write32_live (mem := mem) ..).trans (write32_live (mem := mem) ..)
  · exact write32_live (mem := mem) ..

/-- A write of DMP_CTX keeps what is written (R10). -/
theorem dmpCtx_named (h : Hub) (mem : Mem) {m : Master} {c : Nat} (low : c < 2 ^ 18) (reach : h.reaches m = true)
    (may : h.mayWrite m dmpCtxLoc c = true) : (h.busWrite mem m 0x40004 4 c).rwGet 0 0x40004 m.idx = c := by
  have word : c < 2 ^ 32 := Nat.lt_trans low (by decide)
  have quiet : slotQuiet h 0x40004 := fun slot => absurd slot (by decide)
  rw [busWrite_word h mem m 0x40004 c reach rfl word,
    write32_single h mem m 0x40004 dmpCtxLoc c locate_dmpCtx rfl may (lostSlot_low _ _ (by decide)) quiet word rfl]
  refine (regWrite_rwGet _ mem m dmpCtxLoc c rfl (by decide)).trans ?_
  exact Nat.and_two_pow_sub_one_of_lt_two_pow low

/-- The state after a master's write of DMP_CTX. -/
def named (s : State) (m : Master) (c : Nat) : State :=
  State.does { s with hub := s.hub.takes (.registerWrite m 0x40004 4 c) } fun mem h => h.busWrite mem m 0x40004 4 c

/-- The first write in the cycle that runs, the second one in the next, as two register writes make them. -/
theorem dumpContextRequest_writes {s : State} {m : Master} {c : Nat} (live : s.hub.live = true) (reach : s.hub.reaches m = true)
    (omp : s.hub.mayWrite m dmpCtxLoc c = true) (low : c < 2 ^ 18) :
    Yields (.dumpContextRequest m c) s fun _ t =>
      ∃ u : State, exec (.registerWrite m 0x40004 4 c) s = .next u ∧ u.hub.rwGet 0 0x40004 m.idx = c ∧
        exec (.registerWrite m 0x40000 4 (2 ^ 31 + 2 ^ 30)) u.cycle = .next t := by
  intro turn
  have first : exec (.registerWrite m 0x40004 4 c) s = .next (named s m c) := run_live _ _ s turn live
  have name : (named s m c).hub.rwGet 0 0x40004 m.idx = c := dmpCtx_named _ s.mem low reach omp
  have on : (named s m c).cycle.hub.live = true := (cycle_live _).trans ((busWrite_live ..).trans live)
  have second := run_live (.registerWrite m 0x40000 4 (2 ^ 31 + 2 ^ 30)) (fun mem h => h.busWrite mem m 0x40000 4 (2 ^ 31 + 2 ^ 30))
    (named s m c).cycle (inTurn_start _ _ rfl) on
  refine ⟨_, ?_, ?_, named s m c, first, name, second⟩
  · have taken : s.atTurn (.dumpContextRequest m c) = { s with hub := s.hub.takes (.dumpContextRequest m c) } := atTurn_in s _ turn
    rw [show exec (.dumpContextRequest m c) s = execDumpContextRequest m c s from rfl, execDumpContextRequest, runCycles, taken]
    exact congrArg _ (if_pos live)
  · rfl

/-- Settles O54: each request of a master to the dump engine. -/
theorem dumpRequests : Obligations.DumpRequests := by
  intro s m o live reach glob next
  have omp {l : Loc} {w : Nat} (wr : l.row.wr = .omp) : s.hub.mayWrite m l w = true := by
    rcases glob with e | e | e <;> simp [Hub.mayWrite, wr, e]
  have tun (w : Nat) : s.hub.mayWrite m tunRdLoc w = true := by rcases glob with e | e | e <;> simp [Hub.mayWrite, tunRdLoc, e]
  refine ⟨fun k low own stands idle fires there => ?_, fun k low pair step stands idle fires => ?_, fun k d low own stands busy _ there => ?_,
    fun c low own stands idle fires held name => ?_, fun c low => dumpContextRequest_writes live reach (omp rfl) low, fun v b forward done => ?_,
    fun w low armed apart => ?_⟩
  · exact yields_act (exec_dumpRequest m low s) live reach locate_dmpReq rfl (by decide) rfl (by omega) (omp rfl)
      (fun t r => dumpReq_slice { s.hub.placed t with er := r } m stands own next low idle fires there) fun t => ⟨⟨_, rfl, rfl, rfl, rfl⟩, rfl⟩
  · exact yields_act (exec_dumpRequest m low s) live reach locate_dmpReq rfl (by decide) rfl (by omega) (omp rfl)
      (fun t r => dumpReq_hang { s.hub.placed t with er := r } m stands next low pair step idle fires) fun t => ⟨⟨_, rfl, rfl, rfl, rfl, rfl, rfl⟩, rfl⟩
  · exact yields_act (exec_dumpRequest m low s) live reach locate_dmpReq rfl (by decide) rfl (by omega) (omp rfl)
      (fun t r => dumpReq_busy { s.hub.placed t with er := r } m stands own low (fun idle => by cases busy.symm.trans idle) there) fun t => rfl
  · exact yields_act rfl live reach locate_dmpReq rfl (by decide) rfl (by decide) (omp rfl)
      (fun t r => dumpReq_context { s.hub.placed t with er := r } m stands own next idle fires held name) fun t => ⟨⟨_, rfl, rfl⟩, rfl⟩
  · exact yields_pair rfl live reach locate_tunRd locate_tunRd_upper rfl rfl rfl (by decide) (by decide) b tun
      (fun t => tunRdWrite_moves
        (h := { s.hub.placed t with stageLo := SMap.set 0 s.hub.stageLo m.idx (v % 2 ^ 32), er := s.hub.er }) forward done) fun _ => rfl
  · exact yields_act (exec_watchCancel m low s) live reach locate_dmpWcancel rfl (by decide) rfl (by omega) (omp rfl)
      (fun t r => watchCancel_armed (h := { s.hub.placed t with er := r }) low armed apart) fun t => rfl

end Sys2Proof.Machine
end
